-- ==== Sys2Proof/Word.lean ====
section
/-! DEFINITION. The word types of the YL9: what R3, R36 and R54 treat as bits. -/

namespace Sys2Proof

/-- A byte of memory (R3). -/
abbrev Byte := BitVec 8

/-- A 64-bit scalar register, instruction word or system register (R36, R54). -/
abbrev Word := BitVec 64

/-- The program counter, an 18-bit byte address (R36). -/
abbrev Pc := BitVec 18

end Sys2Proof
end

