-- ==== Sys2Proof/Config.lean ====
section
/-! DEFINITION. Values that the spec leaves open: constants without a body, so that no statement can
rest on what they are. -/

namespace Sys2Proof

/-- A byte read from a peer package at an address; the first argument is the model's counter (log 4). -/
opaque Config.peerByte : Nat → Nat → Byte

/-- The poison of a byte read from a peer package (log 4). -/
opaque Config.peerPoison : Nat → Nat → Bool

/-- The encryption of a 16-byte block of memory under a key, by the block's number: AES-256-XTS, whose tweak the
spec does not give (log 6). Decryption undoes it, so it is a permutation of the blocks (R416). -/
opaque Config.cipher : BitVec 512 → Nat → Equiv.Perm (BitVec 128)

/-- A padding byte of a converted unit (R209, R210); the first argument is the model's counter (log 4). -/
opaque Config.padByte : Nat → Nat → Byte

/-- Whether a signature over some bytes verifies under a key: LMS, whose format the spec does not
give (log 6). The arguments are the key, the signed bytes and the signature. -/
opaque Config.lmsSigned : BitVec 256 → List Byte → List Byte → Bool

/-- The bytes of a region bitstream after its header, by the number of frames: the spec gives
neither a frame's size nor the signature's (log 6). -/
opaque Config.bitstreamTail : Nat → Nat

/-- Whether the hash and the signature of a region bitstream verify under a key: the arguments are
the key, the header and the rest (log 6). -/
opaque Config.bitstreamSigned : BitVec 256 → List Byte → List Byte → Bool

/-- Whether every frame of a region bitstream addresses resources inside its region only: frames are opaque
(R357, log 52). The arguments are the header and the rest. -/
opaque Config.framesInside : List Byte → List Byte → Bool

/-- The token that a far package has sent on a cut edge, if it has come by a cycle: by port, virtual channel,
the number of tokens before it and the cycle count of die 0; its bits, end-of-stream, poison and tag (R425, log 51). -/
opaque Config.linkToken : Nat → Nat → Nat → Nat → Option (BitVec 512 × Bool × Bool × Fin 4)

/-- How many slots of a cut edge's firkin a far consumer frees, by port, virtual channel and the cycle count of
die 0 (R425, log 51). -/
opaque Config.linkFreed : Nat → Nat → Nat → Nat

/-- What an operator emits on a port: by its configuration's hash, the tokens it has accepted (port,
payload, end-of-stream, poison), the port and the number already emitted there (R359, log 7). -/
opaque Config.operatorOut : BitVec 256 → List (Nat × BitVec 512 × Bool × Bool) → Nat → Nat → Option (BitVec 512 × Bool)

/-- Whether an operator asserts idle: by its configuration's hash, the tokens accepted and the ports
of the tokens emitted (R359, log 7). -/
opaque Config.operatorIdle : BitVec 256 → List (Nat × BitVec 512 × Bool × Bool) → List Nat → Bool

/-- The tile of a slice's cluster whose token queue a pass of a push program signals, by slice and program
(Table 11.9, log 50). -/
opaque Config.passTile : Nat → Nat → Fin 8

/-! ### Section entries of an image whose layout the spec does not give (R156, log 5) -/

/-- An endpoint as an image names it: partition numbers of instances, regions, tiles and slices. -/
inductive ImgEnd where
  | actor (inst slot : Nat)
  | region (r port : Nat)
  | stream (tile slot : Nat)
  | template (tile slot : Nat)
  | push (slice j : Nat)
  | link (port vc : Nat)
deriving DecidableEq, Repr

/-- What a 32-byte edge descriptor says: also the stream network and the ports of Table 13.6 between which its route
runs, none where it stays within a unit, and the first byte of its firkin in a consuming tile's scratchpad, none where
the firkin is a ring of a slice. -/
structure ImgEdge where
  tokSize : Nat
  depth : Nat
  src : ImgEnd
  dst : ImgEnd
  way : Option (Fin 3 × Nat × Nat)
  firkin : Option Nat
deriving DecidableEq, Repr

/-- The edge of a 32-byte descriptor; none for a malformed one (log 5). -/
opaque Config.edgeDesc : List Byte → Option ImgEdge

/-- The entries of a HANDLES section: table index and descriptor (log 5). -/
opaque Config.handleSection : List Byte → Option (List (Nat × BitVec 1024))

/-- The entries of a BITSTREAMS section: partition region, clock and container (log 5). -/
opaque Config.bitstreamSection : List Byte → Option (List (Nat × Nat × List Byte))

/-- The entries of a STAGRAPHS section: partition channel group, slot and container (log 5). -/
opaque Config.staSection : List Byte → Option (List (Nat × Nat × List Byte))

/-- The images of an SDATA section: partition tile, scratchpad offset and bytes (log 5). -/
opaque Config.sdataSection : List Byte → Option (List (Nat × Nat × List Byte))

/-- The images of a CDATA section: address and bytes (log 5). -/
opaque Config.cdataSection : List Byte → Option (List (Nat × List Byte))

/-- The images of a GDATA section: address and bytes (log 5). -/
opaque Config.gdataSection : List Byte → Option (List (Nat × List Byte))

/-- The gang keys whose share routes a ROUTES section holds (R242, log 5). -/
opaque Config.shareKeys : List Byte → List Nat

/-- The scratchpad ranges that an image allocates: partition tile, offset and length (R401, log 5); those of a
tile outside the partition hold nothing. -/
opaque Config.scratchRanges : List Byte → List (Nat × Nat × Nat)

/-- The length of the argument block of an image (Table 5.5, log 5). -/
opaque Config.argsLength : List Byte → Nat

/-- The bytes of section k, 0 to 9, of the image that ctxsv writes, from what the section holds: R401 gives
the sections and their order, not their layout (log 5). -/
opaque Config.saveSection : Nat → List Nat → List Byte

/-- The room of a partition's stall-map area, in entries (R399, log 5). -/
opaque Config.mapRoom : Nat

/-- The 64-byte key that a wrapped key holds under the secrets of a function's session, when it
unwraps; the arguments are the function, the session's number and the wrapped key (R421, log 6). -/
opaque Config.unwrapKey : Nat → Nat → BitVec 576 → Option (BitVec 512)

/-- The digests of Table 15.4, by index 1 to 3: of the boot ROM, of the management firmware, of the
configuration image with its availability map (log 6). -/
opaque Config.measurement : Nat → BitVec 256

/-- SHA-256 of an owner's public key (Table 15.4, log 6). -/
opaque Config.keyHash : BitVec 256 → BitVec 256

/-- SHA-256 of a certificate chain (R420, log 6). -/
opaque Config.chainHash : List Byte → BitVec 256

/-- The root secret that the physically unclonable function and its helper data give at power-on (R418, log 6). -/
opaque Config.rootSecret : BitVec 256

/-- The LMS identity key that is derived from a root secret (R418, log 6). -/
opaque Config.identityKey : BitVec 256 → BitVec 256

/-- The certificate of the identity key that Zarquel made with the module (R418, log 6). -/
opaque Config.identityCert : List Byte

/-- The LMS alias key that is derived from a root secret and its number (R419, log 6). -/
opaque Config.aliasKey : BitVec 256 → Nat → BitVec 256

/-- The certificate that the identity key makes for an alias key with one of its leaves: the keys and the leaf
(R419, log 6). -/
opaque Config.aliasCert : BitVec 256 → Nat → BitVec 256 → List Byte

/-- The signature of an SPDM response with a leaf of an alias key: the key, the leaf, the function, the code of the
request, its index and its nonce (R419, R420, log 6). -/
opaque Config.spdmSign : BitVec 256 → Nat → Nat → Nat → Nat → BitVec 256 → List Byte

/-! ### The configuration image (R418, R439, R441, R442) -/

/-- An actor of the firmware image: its entry, its priority, whether it is a handler and its slots (slot, edge, rate,
whether it is an output), as an actor descriptor has them (R436, log 66). -/
structure FwActor where
  entry : BitVec 18
  prio : Fin 4
  handler : Bool
  slots : List (Fin 16 × Nat × Nat × Bool)
deriving DecidableEq, Repr

/-- The management firmware: its code, its actors, and its edges with number, token size and depth (R436, R439, log 66). -/
structure Firmware where
  code : List Byte
  actors : List FwActor
  edges : List (Nat × Nat × Nat)
deriving DecidableEq, Repr, Inhabited

/-- The firmware image that is verified at power-on, when the module holds one (R439, log 66). -/
opaque Config.firmware : Option Firmware

/-- The lanes that a stream-link port has: eight, fewer on a degraded part (R424, R441, log 34). -/
opaque Config.linkLanes : Nat → Nat

/-- The operators of Table 17.3. -/
inductive AttnOp where
  | kdec | smax | rfb | norm
deriving DecidableEq, Repr

/-- The operator of Table 17.3 that a bitstream implements, if it implements one: by its IDHASH (R442, log 7). -/
opaque Config.attnOp : BitVec 256 → Option AttnOp

/-- The quotient that norm forms where its operands are not finite or the divisor is zero: the spec states none
(Table 17.3, log 4). -/
opaque Config.attnQuot : BitVec 32 → BitVec 32 → BitVec 16

end Sys2Proof
end

