-- ==== Sys2Proof/Syntax.lean ====
section
/-! DEFINITION. The instructions of the YL9 and the machine's own steps: one constructor per row of
spec/opcode_table.json. Rows NOP to PCLR are instruction words (chapters 04 to 14); rows
FIRING_BUDGET_EXPIRY to OPERATOR_IDLE are steps that no instruction word encodes. -/

namespace Sys2Proof

/-- The predicate of the common header (R38): PN and PI. -/
structure Hdr where
  pn : Bool
  pi : Fin 16
deriving DecidableEq, Repr

/-- Type codes (Table 2.6). -/
inductive Ty where
  | i8 | n8 | i16 | n16 | i32 | n32 | i64 | n64 | i4 | n4
  | f32 | bf16 | f16 | e4m3 | e5m2 | e2m3 | e3m2 | e2m1 | acc | e8m0 | xacc
deriving DecidableEq, Repr

/-- Comparison conditions of cmp and cmpi (R113). -/
inductive Cond where
  | eq | ne | lt | le | gt | ge
deriving DecidableEq, Repr

/-- Conditions of vcmp (R186). -/
inductive VCond where
  | eq | ne | lt | le | gt | ge | unord
deriving DecidableEq, Repr

/-- Branch conditions (Table 2.3). -/
inductive BraCond where
  | always | eq | ne | lt | ge | gt | le | dec
deriving DecidableEq, Repr

/-- Operations of gred (R171). -/
inductive GredOp where
  | add | min | max | and | or | xor
deriving DecidableEq, Repr

/-- Operations of vscan (R193). -/
inductive ScanOp where
  | add | max | min
deriving DecidableEq, Repr

/-- Operations of atom and red (Table 9.4); addF is FN3 1, the float add. -/
inductive AtomOp where
  | add | addF | min | max | and | or | xor | swap
deriving DecidableEq, Repr

/-- Forms of mmi (Table 8.8). -/
inductive MmiForm where
  | i8 | n8 | i4 | n4 | i8n8 | i4n4
deriving DecidableEq, Repr

/-- Kinds of fence (R296). -/
inductive FenceKind where
  | acq | rel | acqrel | sc
deriving DecidableEq, Repr

/-- Kinds of tlbinv with their argument (R406). -/
inductive TlbScope where
  | va (a : Fin 32) (mctx : Fin 128)
  | mctx (mctx : Fin 128)
  | part (q : Fin 32)
  | all
deriving DecidableEq, Repr

/-- The engine clauses of format E (R47). -/
structure Clauses where
  wq : Fin 16
  wn : Fin 8
  sq : Fin 16
  se : Bool
deriving DecidableEq, Repr

/-- Base, index and displacement of format M (R45). -/
structure AddrArg where
  base : Fin 32
  idx  : Fin 32
  disp : BitVec 20
deriving DecidableEq, Repr

/-- Scope, order and cache policy of format M (Table 2.5). -/
structure MemAttr where
  scope : Fin 5
  ord   : Fin 4
  cp    : Fin 4
deriving DecidableEq, Repr

/-- Operand B of OP 0x40 to 0x44, or the counters of vrng: a vector register or a broadcast scalar (R179). -/
inductive VOp where
  | vec (r : Fin 32)
  | scal (r : Fin 32)
deriving DecidableEq, Repr

/-- Destination or source of an edge instruction: a scalar or a vector register (R159). -/
inductive EReg where
  | scal (r : Fin 32)
  | vec (r : Fin 32)
deriving DecidableEq, Repr

/-- The forms of ldc (R271). -/
inductive LdcForm where
  | scalar (sx : Bool) (sz : Fin 4)
  | vector (sz : Fin 4)
deriving DecidableEq, Repr

/-- The forms of pclr (R409). -/
inductive PclrForm where
  | scalar (d : Fin 32)
  | vector (d : Fin 32) (k : Fin 8)
deriving DecidableEq, Repr

/-- Register operands of the product forms (R241): K, first coordinate register, mask block register, bank, handles, queue. -/
structure MacArg where
  x : Fin 32
  y : Fin 32
  z : Fin 32
  bank : Fin 4
  a : Fin 16
  b : Fin 16
  q : Fin 4
deriving DecidableEq, Repr

/-- A sequencer that issues instructions: a tile context or the management core. -/
inductive AgentId where
  | tile (t : Fin 256) (c : Fin 4)
  | mgmt
deriving DecidableEq, Repr

/-- A unit whose uncorrectable error is detected (R396). -/
inductive ErrPlace where
  | hbm (pa : Nat)
  | slice (pa : Nat)
  | scratch (t : Fin 256) (off : Nat)
deriving DecidableEq, Repr

/-- The hop that quarantines a packet (R427, Table 16.12). -/
inductive Hop where
  | router (die : Fin 2) (x y : Fin 8)
  | seam (die : Fin 2) (y : Fin 8)
  | link (port : Fin 16)
  | host
deriving DecidableEq, Repr

/-- What has the uncorrectable header error (R427): the packet of a request that an agent has sent, by its place among the
agent's requests; a header slot of the vector net that comes into a switch box of a cluster, by the source code of its
input; or another packet or flit. -/
inductive Quarantined where
  | request (g : AgentId) (n : Nat)
  | slot (cluster : Fin 32) (box : Fin 64) (code : Fin 64)
  | other
deriving DecidableEq, Repr

/-- A packet that a hop quarantines: the hop and what the packet is of. -/
structure Quarantine where
  hop : Hop
  what : Quarantined
deriving DecidableEq, Repr

/-- A flit that a port sends again, and whether it arrives (R424). -/
structure FlitRetry where
  port : Fin 16
  good : Bool
deriving DecidableEq, Repr

/-- Where a Memory Write TLP lies in SUBWIN: its offset and its length in bytes (R412). -/
structure SubWrite where
  off : Nat
  bytes : Nat
deriving DecidableEq, Repr

/-- A request about the security interface of a function: to lock it or, once it is locked, to start it (R423). -/
structure TdiRequest where
  q : Fin 32
  start : Bool
deriving DecidableEq, Repr

/-- A PCI Express function: PF0 or a virtual function (R410). -/
inductive PciFn where
  | pf
  | vf (q : Fin 32)
deriving DecidableEq, Repr

/-- A request whose answer is signed: the function that asks, and its nonce (R420). -/
structure SignedRequest where
  f : PciFn
  nonce : BitVec 256
deriving DecidableEq, Repr

/-- Host-written registers that have no row of their own (R411, R424, R440). -/
inductive HostReg where
  | cqBase (q : Fin 32) | cqSize (q : Fin 32) | fqBase (q : Fin 32) | fqSize (q : Fin 32)
  | frToken (q : Fin 32) | apCtl (q : Fin 32)
  | featAcc (k : Fin 4) | pkgId | lnkMap (k : Fin 16) | msix (q : Fin 32) (v : Fin 3) (half : Bool)
  /-- Where the host places BAR0 or BAR2 of a virtual function (R411, R423). -/
  | bar (q : Fin 32) (k : Fin 2)
  /-- Eight bytes of BAR0 of a virtual function, or of PF0, by their offset. -/
  | vfOffset (q : Fin 32) (off : BitVec 16) | pfOffset (off : BitVec 16)
deriving DecidableEq, Repr

/-- Who acknowledges a launch's configuration (R152). -/
inductive AckSource where
  | die (d : Fin 2)
  | far
deriving DecidableEq, Repr

/-- A function that becomes ready at bring-up (R439). -/
inductive ReadyUnit where
  | cluster (i : Fin 32) | region (i : Fin 128) | group (g : Fin 32) | misc (i : Fin 18)
deriving DecidableEq, Repr

/-- Instructions (rows NOP to PCLR) and the machine's own steps (the rows after PCLR). -/
inductive Instr where
  /-- The never form (R39): every other bit of the word is kept and ignored. -/
  | nop (op : BitVec 8) (rest : BitVec 51)
  | add (h : Hdr) (d a b : Fin 32) (ty : Ty) (sat : Bool)
  | sub (h : Hdr) (d a b : Fin 32) (ty : Ty) (sat : Bool)
  | mul (h : Hdr) (d a b : Fin 32) (ty : Ty) (sat : Bool)
  | mulh (h : Hdr) (d a b : Fin 32) (ty : Ty)
  | div (h : Hdr) (d a b : Fin 32) (ty : Ty)
  | rem (h : Hdr) (d a b : Fin 32) (ty : Ty)
  | min (h : Hdr) (d a b : Fin 32) (ty : Ty)
  | max (h : Hdr) (d a b : Fin 32) (ty : Ty)
  | and (h : Hdr) (d a b : Fin 32) (ty : Ty)
  | or (h : Hdr) (d a b : Fin 32) (ty : Ty)
  | xor (h : Hdr) (d a b : Fin 32) (ty : Ty)
  | andn (h : Hdr) (d a b : Fin 32) (ty : Ty)
  | shl (h : Hdr) (d a b : Fin 32) (ty : Ty)
  | shr (h : Hdr) (d a b : Fin 32) (ty : Ty)
  | sar (h : Hdr) (d a b : Fin 32) (ty : Ty)
  | rol (h : Hdr) (d a b : Fin 32) (ty : Ty)
  | cmp (h : Hdr) (cond : Cond) (d c : Fin 16) (a b : Fin 32) (ty : Ty)
  | clz (h : Hdr) (d a : Fin 32) (ty : Ty)
  | ctz (h : Hdr) (d a : Fin 32) (ty : Ty)
  | popc (h : Hdr) (d a : Fin 32) (ty : Ty)
  | bswap (h : Hdr) (d a : Fin 32) (ty : Ty)
  | sext (h : Hdr) (d a : Fin 32) (b : Fin 64)
  | addi (h : Hdr) (d a : Fin 32) (imm : BitVec 32)
  | muli (h : Hdr) (d a : Fin 32) (imm : BitVec 32)
  | andi (h : Hdr) (d a : Fin 32) (imm : BitVec 32)
  | ori (h : Hdr) (d a : Fin 32) (imm : BitVec 32)
  | xori (h : Hdr) (d a : Fin 32) (imm : BitVec 32)
  | shli (h : Hdr) (d a : Fin 32) (n : Fin 64)
  | shri (h : Hdr) (d a : Fin 32) (n : Fin 64)
  | sari (h : Hdr) (d a : Fin 32) (n : Fin 64)
  | cmpi (h : Hdr) (cond : Cond) (d : Fin 16) (a : Fin 32) (ty : Ty) (imm : BitVec 32)
  | ldi (h : Hdr) (d : Fin 32) (imm : BitVec 45)
  | ldih (h : Hdr) (d a : Fin 32) (imm : BitVec 32)
  | lea (h : Hdr) (d a b : Fin 32) (sh : Fin 16) (disp : BitVec 8)
  | sel (h : Hdr) (d : Fin 32) (c : Fin 16) (a b : Fin 32)
  | movSS (h : Hdr) (d a : Fin 32)
  | movPS (h : Hdr) (d : Fin 16) (a : Fin 32)
  | movSP (h : Hdr) (d : Fin 32) (a : Fin 16)
  | movKS (h : Hdr) (d : Fin 8) (a : Fin 32)
  | movSK (h : Hdr) (d : Fin 32) (a : Fin 8)
  | movKK (h : Hdr) (d a : Fin 8)
  | bra (h : Hdr) (cond : BraCond) (a : Fin 32) (off : BitVec 32)
  | call (h : Hdr) (a : Fin 32) (off : BitVec 32)
  | jmp (h : Hdr) (d a : Fin 32)
  | ret (h : Hdr) (a : Fin 32)
  | pset (h : Hdr) (d : Fin 16) (v : Bool)
  | pand (h : Hdr) (d a b : Fin 16) (na nb : Bool)
  | por (h : Hdr) (d a b : Fin 16) (na nb : Bool)
  | pxor (h : Hdr) (d a b : Fin 16) (na nb : Bool)
  | pnot (h : Hdr) (d a : Fin 16)
  | epop (h : Hdr) (x : EReg) (slot : Fin 16) (n1 : Fin 64) (cl : Clauses)
  | epeek (h : Hdr) (x : EReg) (slot : Fin 16) (z : Fin 32) (n1 : Fin 64) (cl : Clauses)
  | epush (h : Hdr) (x : EReg) (slot : Fin 16) (n1 : Fin 64) (cl : Clauses)
  | eeos (h : Hdr) (slot : Fin 16) (cl : Clauses)
  | estat (h : Hdr) (x : Fin 32) (slot : Fin 16) (cl : Clauses)
  | tqsig (h : Hdr) (tq : Fin 16) (n : Fin 64) (cl : Clauses)
  | tqwait (h : Hdr) (cl : Clauses)
  | tqrd (h : Hdr) (x : Fin 32) (tq : Fin 16) (cl : Clauses)
  | endF (h : Hdr)
  | actena (h : Hdr) (a : Fin 32)
  | actdis (h : Hdr) (a : Fin 32)
  | gjoin (h : Hdr) (x y : Fin 32) (cl : Clauses)
  | gleave (h : Hdr) (arr : Bool) (y : Fin 32) (cl : Clauses)
  | garrive (h : Hdr) (x y : Fin 32) (cl : Clauses)
  | gwait (h : Hdr) (y z : Fin 32) (cl : Clauses)
  | gbar (h : Hdr) (x y : Fin 32) (cl : Clauses)
  | gred (h : Hdr) (op : GredOp) (ty : Ty) (x y z : Fin 32) (cl : Clauses)
  | launch (h : Hdr) (x y : Fin 32) (cl : Clauses)
  | vadd (h : Hdr) (d a : Fin 32) (b : VOp) (k : Fin 8) (ty : Ty) (sat : Bool)
  | vsub (h : Hdr) (d a : Fin 32) (b : VOp) (k : Fin 8) (ty : Ty) (sat : Bool)
  | vmul (h : Hdr) (d a : Fin 32) (b : VOp) (k : Fin 8) (ty : Ty) (sat : Bool)
  | vmulh (h : Hdr) (d a : Fin 32) (b : VOp) (k : Fin 8) (ty : Ty)
  | vmin (h : Hdr) (d a : Fin 32) (b : VOp) (k : Fin 8) (ty : Ty)
  | vmax (h : Hdr) (d a : Fin 32) (b : VOp) (k : Fin 8) (ty : Ty)
  | vabs (h : Hdr) (d a : Fin 32) (k : Fin 8) (ty : Ty) (sat : Bool)
  | vneg (h : Hdr) (d a : Fin 32) (k : Fin 8) (ty : Ty) (sat : Bool)
  | vaddFp (h : Hdr) (d a : Fin 32) (b : VOp) (k : Fin 8) (ty : Ty)
  | vsubFp (h : Hdr) (d a : Fin 32) (b : VOp) (k : Fin 8) (ty : Ty)
  | vmulFp (h : Hdr) (d a : Fin 32) (b : VOp) (k : Fin 8) (ty : Ty)
  | vminFp (h : Hdr) (d a : Fin 32) (b : VOp) (k : Fin 8) (ty : Ty)
  | vmaxFp (h : Hdr) (d a : Fin 32) (b : VOp) (k : Fin 8) (ty : Ty)
  | vabsFp (h : Hdr) (d a : Fin 32) (k : Fin 8) (ty : Ty)
  | vnegFp (h : Hdr) (d a : Fin 32) (k : Fin 8) (ty : Ty)
  | vfma (h : Hdr) (d a : Fin 32) (b : VOp) (c : Fin 32) (k : Fin 8) (ty : Ty)
  | vfms (h : Hdr) (d a : Fin 32) (b : VOp) (c : Fin 32) (k : Fin 8) (ty : Ty)
  | vfnma (h : Hdr) (d a : Fin 32) (b : VOp) (c : Fin 32) (k : Fin 8) (ty : Ty)
  | vdot2 (h : Hdr) (d a : Fin 32) (b : VOp) (c : Fin 32) (k : Fin 8) (ty : Ty)
  | vdot4 (h : Hdr) (d a : Fin 32) (b : VOp) (c : Fin 32) (k : Fin 8) (ty : Ty)
  | vcmp (h : Hdr) (cond : VCond) (d : Fin 8) (a : Fin 32) (b : VOp) (k : Fin 8) (ty : Ty)
  | vand (h : Hdr) (d a : Fin 32) (b : VOp) (k : Fin 8) (ty : Ty)
  | vor (h : Hdr) (d a : Fin 32) (b : VOp) (k : Fin 8) (ty : Ty)
  | vxor (h : Hdr) (d a : Fin 32) (b : VOp) (k : Fin 8) (ty : Ty)
  | vandn (h : Hdr) (d a : Fin 32) (b : VOp) (k : Fin 8) (ty : Ty)
  | vshl (h : Hdr) (d a : Fin 32) (b : VOp) (k : Fin 8) (ty : Ty)
  | vshr (h : Hdr) (d a : Fin 32) (b : VOp) (k : Fin 8) (ty : Ty)
  | vsar (h : Hdr) (d a : Fin 32) (b : VOp) (k : Fin 8) (ty : Ty)
  | vsel (h : Hdr) (d : Fin 32) (c : Fin 8) (a : Fin 32) (b : VOp) (ty : Ty)
  | vcvt (h : Hdr) (d a : Fin 32) (k : Fin 8) (ty sty : Ty) (part : Fin 16)
  | vqmx (h : Hdr) (d a c : Fin 32) (ty sty : Ty) (part : Fin 16)
  | vdqmx (h : Hdr) (d a c : Fin 32) (k : Fin 8) (ty sty : Ty) (part : Fin 16)
  | vexp2 (h : Hdr) (d a : Fin 32) (k : Fin 8)
  | vlog2 (h : Hdr) (d a : Fin 32) (k : Fin 8)
  | vrcp (h : Hdr) (d a : Fin 32) (k : Fin 8)
  | vrsqrt (h : Hdr) (d a : Fin 32) (k : Fin 8)
  | vsqrt (h : Hdr) (d a : Fin 32) (k : Fin 8)
  | vperm (h : Hdr) (d a b : Fin 32) (k : Fin 8) (ty : Ty)
  | vperm2 (h : Hdr) (d a b c : Fin 32) (k : Fin 8) (ty : Ty)
  | vbcast (h : Hdr) (d a : Fin 32) (k : Fin 8) (ty : Ty)
  | vbcastl (h : Hdr) (d a b : Fin 32) (k : Fin 8) (ty : Ty)
  | vrot (h : Hdr) (d a b : Fin 32) (k : Fin 8) (ty : Ty)
  | vcompress (h : Hdr) (d a : Fin 32) (k : Fin 8) (ty : Ty)
  | vexpand (h : Hdr) (d a : Fin 32) (k : Fin 8) (ty : Ty)
  | vext (h : Hdr) (d a : Fin 32) (idx : Fin 64) (ty : Ty)
  | vins (h : Hdr) (d a : Fin 32) (idx : Fin 64) (ty : Ty)
  | vredsum (h : Hdr) (d a : Fin 32) (k : Fin 8) (ty : Ty)
  | vredmin (h : Hdr) (d a : Fin 32) (k : Fin 8) (ty : Ty)
  | vredmax (h : Hdr) (d a : Fin 32) (k : Fin 8) (ty : Ty)
  | vredand (h : Hdr) (d a : Fin 32) (k : Fin 8) (ty : Ty)
  | vredor (h : Hdr) (d a : Fin 32) (k : Fin 8) (ty : Ty)
  | vredxor (h : Hdr) (d a : Fin 32) (k : Fin 8) (ty : Ty)
  | vscan (h : Hdr) (op : ScanOp) (d a : Fin 32) (k : Fin 8) (ty : Ty) (sat : Bool)
  | vargmax (h : Hdr) (d a : Fin 32) (k : Fin 8) (ty : Ty)
  | vargmin (h : Hdr) (d a : Fin 32) (k : Fin 8) (ty : Ty)
  | vrng (h : Hdr) (d : Fin 32) (a : VOp) (b : Fin 32) (k : Fin 8) (ty : Ty)
  | vptest (h : Hdr) (d : Fin 8) (a : Fin 32) (k : Fin 8)
  | vldi (h : Hdr) (d : Fin 32) (imm : BitVec 32)
  | vldiI64 (h : Hdr) (d : Fin 32) (imm : BitVec 32)
  | viota (h : Hdr) (d : Fin 32) (imm : BitVec 32)
  | kand (h : Hdr) (d a b : Fin 8)
  | kor (h : Hdr) (d a b : Fin 8)
  | kxor (h : Hdr) (d a b : Fin 8)
  | kandn (h : Hdr) (d a b : Fin 8)
  | knot (h : Hdr) (d a : Fin 8)
  | kpopc (h : Hdr) (d : Fin 32) (a : Fin 8)
  | kffs (h : Hdr) (d : Fin 32) (a : Fin 8)
  | hdef (h : Hdr) (d a : Fin 32) (g : Bool)
  | hld (h : Hdr) (d : Fin 16) (a : Fin 32) (off : BitVec 20)
  | hst (h : Hdr) (d a : Fin 32) (g : Bool)
  | hinv (h : Hdr) (d : Fin 16) (all : Bool)
  | ldt (h : Hdr) (d : Fin 32) (hr : Fin 16) (cbase : Fin 32) (ty : Ty) (k : Fin 8) (cp : Fin 4)
  | stt (h : Hdr) (d : Fin 32) (hr : Fin 16) (cbase : Fin 32) (ty : Ty) (k : Fin 8) (cp : Fin 4)
  | ldtb (h : Hdr) (d : Fin 32) (hr : Fin 16) (cbase : Fin 32) (ty : Ty) (k : Fin 8) (cp : Fin 4) (sc : Bool) (sr : Fin 31)
  | sttb (h : Hdr) (d : Fin 32) (hr : Fin 16) (cbase : Fin 32) (ty : Ty) (k : Fin 8) (cp : Fin 4) (sc : Bool) (sr : Fin 31)
  | hrelayout (h : Hdr) (d a : Fin 32) (hr : Fin 16) (tag : Fin 8) (cslot : Fin 16) (ctok nb : Bool)
  | hwait (h : Hdr) (hr : Fin 16)
  | hstat (h : Hdr) (d : Fin 32) (hr : Fin 16)
  | mma (h : Hdr) (ty : Ty) (m : MacArg) (cl : Clauses)
  | mmx (h : Hdr) (ty : Ty) (m : MacArg) (cl : Clauses)
  | mmi (h : Hdr) (f : MmiForm) (m : MacArg) (cl : Clauses)
  | mmaG (h : Hdr) (ty : Ty) (m : MacArg) (cl : Clauses)
  | mmxG (h : Hdr) (ty : Ty) (m : MacArg) (cl : Clauses)
  | mgang (h : Hdr) (y : Fin 32) (gr gc gR gC : Fin 4) (q : Fin 4) (cl : Clauses)
  | mgangFree (h : Hdr) (q : Fin 4) (cl : Clauses)
  | mcfg (h : Hdr) (shape : Fin 4) (sort : Fin 16) (cl : Clauses)
  | mzero (h : Hdr) (bank q : Fin 4) (cl : Clauses)
  | mscaleRow (h : Hdr) (y : Fin 32) (bank q : Fin 4) (cl : Clauses)
  | mscaleCol (h : Hdr) (y : Fin 32) (bank q : Fin 4) (cl : Clauses)
  | mld (h : Hdr) (x : Fin 32) (bank : Fin 4) (hr : Fin 16) (ty : Ty) (q : Fin 4) (cl : Clauses)
  | mst (h : Hdr) (x : Fin 32) (bank : Fin 4) (hr : Fin 16) (ty : Ty) (q : Fin 4) (cl : Clauses)
  | mrow (h : Hdr) (x y : Fin 32) (bank : Fin 4) (ty : Ty) (half : Bool) (q : Fin 4) (cl : Clauses)
  | msort (h : Hdr) (x y : Fin 32) (q : Fin 4) (cl : Clauses)
  | mtopk (h : Hdr) (x y : Fin 32) (k1 : Fin 64) (clr rd : Bool) (q : Fin 4) (cl : Clauses)
  | mstat (h : Hdr) (d : Fin 32) (sel : Fin 4)
  | ld (h : Hdr) (sx : Bool) (d : Fin 32) (sz : Fin 4) (m : AddrArg) (at_ : MemAttr)
  | st (h : Hdr) (d : Fin 32) (sz : Fin 4) (m : AddrArg) (at_ : MemAttr)
  | lds (h : Hdr) (sx : Bool) (d : Fin 32) (sz : Fin 4) (m : AddrArg)
  | sts (h : Hdr) (d : Fin 32) (sz : Fin 4) (m : AddrArg)
  /-- sz 0 to 3 stand for SZ 4 to 7: 16, 32, 64 and 256 bytes. -/
  | vld (h : Hdr) (d : Fin 32) (sz : Fin 4) (m : AddrArg) (at_ : MemAttr)
  | vst (h : Hdr) (d : Fin 32) (sz : Fin 4) (m : AddrArg) (at_ : MemAttr)
  | vlds (h : Hdr) (d : Fin 32) (sz : Fin 4) (m : AddrArg)
  | vsts (h : Hdr) (d : Fin 32) (sz : Fin 4) (m : AddrArg)
  /-- b8 false is .b4 (SZ 2), true is .b8 (SZ 3). -/
  | vgath (h : Hdr) (d : Fin 32) (b8 : Bool) (m : AddrArg) (cp : Fin 4)
  | vscat (h : Hdr) (d : Fin 32) (b8 : Bool) (m : AddrArg) (cp : Fin 4)
  | ldc (h : Hdr) (f : LdcForm) (d : Fin 32) (m : AddrArg)
  | pref (h : Hdr) (sz : Fin 8) (m : AddrArg) (cp : Fin 4)
  | prefConst (h : Hdr) (sz : Fin 8) (m : AddrArg)
  | atom (h : Hdr) (op : AtomOp) (d : Fin 32) (sz : Fin 4) (m : AddrArg) (at_ : MemAttr)
  | red (h : Hdr) (op : AtomOp) (d : Fin 32) (sz : Fin 4) (m : AddrArg) (at_ : MemAttr)
  /-- b8 false is SZ 2, true is SZ 3. -/
  | cas (h : Hdr) (d : Fin 32) (b8 : Bool) (m : AddrArg) (at_ : MemAttr)
  | xadd (h : Hdr) (r : EReg) (m : AddrArg) (scope : Fin 5) (rel : Bool)
  | xrd (h : Hdr) (d : Fin 32) (m : AddrArg) (scope : Fin 5) (acq : Bool)
  | xrdClr (h : Hdr) (d : Fin 32) (m : AddrArg) (scope : Fin 5) (ord : Fin 4)
  | fence (h : Hdr) (kind : FenceKind) (scope : Fin 5)
  | cinv (h : Hdr)
  | cinvLine (h : Hdr) (a : Fin 32)
  | sdef (h : Hdr) (x : Fin 32) (slot : Fin 16) (cl : Clauses)
  | carm (h : Hdr) (x : Fin 32) (slot : Fin 16) (wm : Fin 16) (wmen : Bool) (cl : Clauses)
  | sgo (h : Hdr) (slot : Fin 16) (z : Fin 32) (cl : Clauses)
  | sstop (h : Hdr) (slot : Fin 16) (cl : Clauses)
  | sstat (h : Hdr) (x : Fin 32) (slot : Fin 16) (sel : Fin 4) (cl : Clauses)
  | cdis (h : Hdr) (slot : Fin 16) (cl : Clauses)
  | copy (h : Hdr) (x z : Fin 32) (wm : Fin 16) (wmen : Bool) (cl : Clauses)
  | staload (h : Hdr) (x y : Fin 32) (slot : Fin 8) (cl : Clauses)
  | staloadUpd (h : Hdr) (x y : Fin 32) (slot : Fin 8) (cl : Clauses)
  | stafree (h : Hdr) (y : Fin 32) (slot : Fin 8) (cl : Clauses)
  | stastat (h : Hdr) (x y : Fin 32) (slot : Fin 8) (sel : Fin 32) (cl : Clauses)
  | rgload (h : Hdr) (x y : Fin 32) (cl : Clauses)
  | rgswap (h : Hdr) (y : Fin 32) (cl : Clauses)
  | rgswapForce (h : Hdr) (y : Fin 32) (cl : Clauses)
  | rgsave (h : Hdr) (y : Fin 32) (cl : Clauses)
  | rgrest (h : Hdr) (y : Fin 32) (cl : Clauses)
  | rgclk (h : Hdr) (a : Fin 32) (f : BitVec 20)
  | rgfrz (h : Hdr) (a : Fin 32)
  | rgfrzDrain (h : Hdr) (a : Fin 32)
  | rgthaw (h : Hdr) (a : Fin 32)
  | rgstat (h : Hdr) (d a : Fin 32)
  | mfs (h : Hdr) (d : Fin 32) (sys : BitVec 12)
  | mts (h : Hdr) (a : Fin 32) (sys : BitVec 12)
  | trap (h : Hdr) (code : BitVec 20)
  | brk (h : Hdr) (code : BitVec 20)
  | resume (h : Hdr)
  | resumeNext (h : Hdr)
  | abort (h : Hdr)
  | tlbinv (h : Hdr) (k : TlbScope)
  | ctxsv (h : Hdr) (d a : Fin 32) (ctx : Fin 4)
  | ctxld (h : Hdr) (d a : Fin 32) (ctx : Fin 4)
  | smap (h : Hdr) (d a : Fin 32) (cap : BitVec 20)
  | pclr (h : Hdr) (f : PclrForm)
  -- the machine's own steps
  | firingBudgetExpiry (g : AgentId)
  | firingStart (g : AgentId)
  | handlerFiring (g : AgentId)
  | nonDelegatedTrap (g : AgentId)
  | tokenArrival (q : Fin 32) (c : Fin 4) (edge : Nat)
  | creditReturn (q : Fin 32) (c : Fin 4) (edge : Nat)
  | actorEnableArrival (q : Fin 32) (c : Fin 4)
  | tqPendingSignal (t : Fin 256) (tq : Fin 16)
  | groupOperation (g : AgentId)
  | groupResponse (g : AgentId) (n : Nat)
  | submission (q : Fin 32) (w : SubWrite) (rcd : BitVec 512)
  | launchSetup (q : Fin 32) (c : Fin 4) (d : Fin 2)
  | configurationAcknowledgement (q : Fin 32) (c : Fin 4) (src : AckSource)
  | launchEnable (q : Fin 32) (c : Fin 4)
  | sourceEnable (q : Fin 32) (c : Fin 4)
  | launchComplete (q : Fin 32) (c : Fin 4)
  | launchAbort (q : Fin 32) (c : Fin 4)
  | timeSliceCommand (bytes : Nat) (rcd : BitVec 512)
  | timeSliceApply (t : Fin 256)
  | seqRegisterArrival (t : Fin 256)
  | writeCoalescingDrain (g : AgentId) (n : Nat)
  | sliceAccess (g : AgentId) (n : Nat)
  | sliceFill (mctx : Fin 128) (line : Nat)
  | memoryResponse (g : AgentId) (n : Nat)
  | lostRequest (g : AgentId) (n : Nat) (reason : Fin 4)
  | tableWalk (t : Fin 256) (mctx : Fin 128) (va : Word)
  | fractRetry (q : Fin 32)
  | fractFail (q : Fin 32)
  | matrixOpStart (t : Fin 256) (q : Fin 4)
  | waveFetch (t : Fin 256) (q : Fin 4)
  | matrixOpComplete (t : Fin 256) (q : Fin 4)
  | sweepStart (t : Fin 256)
  | sweepEnd (t : Fin 256)
  | gangFormation (t : Fin 256) (q : Fin 4)
  | requestStart (cg : Fin 32)
  | engineBeat (cg : Fin 32) (n : Nat)
  | requestComplete (cg : Fin 32) (n : Nat)
  | templateFiring (g : AgentId) (slot : Fin 16)
  | pushProgramPass (slice : Fin 320) (j : Fin 4)
  | relayoutAcknowledgement (conv : Nat) (cluster : Fin 32)
  | conversionUnitStart (conv unit : Nat)
  | conversionUnitDone (conv unit : Nat)
  | staBeat (cg : Fin 32) (n : Nat)
  | staloadComplete (cg : Fin 32) (slot : Fin 8)
  | stafreeComplete (cg : Fin 32) (slot : Fin 8)
  | stagingDone (r : Fin 128)
  | swapToken (r : Fin 128)
  | drainComplete (r : Fin 128)
  | drainBudgetExpiry (r : Fin 128)
  | clockRelock (r : Fin 128)
  | powerWindow (r : Fin 128) (tenthWatts : Nat)
  | packetQuarantine (x : Quarantine)
  | flitReplay (x : FlitRetry)
  | linkPortDown (port : Fin 16)
  | linkRetrain (port : Fin 16)
  | uncorrectableError (p : ErrPlace)
  | correctedError (pa : Nat)
  | thermalSample (n : Fin 128) (temp : BitVec 8)
  | level2Escalation (stack : Fin 8)
  | selfRefreshEntry (pc : Fin 512)
  | limiterEngage
  | limiterStepDown
  | limiterStepUp
  | hangDetected (q : Fin 32)
  | apertureRead (q : Fin 32) (off : Nat) (n : Nat)
  | apertureWrite (q : Fin 32) (off : Nat) (bytes : List Byte)
  | apertureAtomicop (q : Fin 32) (off : Nat) (op : AtomOp) (isCas b8 : Bool) (v cmp : Word)
  | cqhead (q : Fin 32) (fault : Bool) (v : Word)
  | featctlGo
  | hbmThr (v : Word)
  | mcElogw3
  | registerWrite (r : HostReg) (v : Word)
  | getVersion (f : PciFn)
  | getCapabilities (f : PciFn)
  | negotiateAlgorithms (f : PciFn) (ok : Bool)
  | getDigests (f : PciFn)
  | getCertificate (f : PciFn)
  | challenge (r : SignedRequest)
  | getMeasurements (r : SignedRequest) (index : Nat)
  | keyExchange (r : SignedRequest)
  | finish (f : PciFn)
  | heartbeat (f : PciFn)
  | keyUpdate (f : PciFn)
  | endSession (f : PciFn)
  | unsupportedRequest (f : PciFn)
  | keyload (q : Fin 32) (slot : Fin 4096) (hostvis : Bool) (wrapped : BitVec 576)
  | keyerase (q : Fin 32) (slot : Fin 4096)
  | keystat (q : Fin 32) (slot : Fin 4096)
  | ideKm (f : PciFn) (stream : Fin 33)
  | lockInterface (r : TdiRequest)
  | tdiUnlock (q : Fin 32) (error : Bool)
  | partitionCreate (q : Fin 32) (clusters : BitVec 32) (keys : List (Fin 4096)) (peer host : Bool) (owner : BitVec 256) (mapArea : Word)
  | partitionDestroy (q : Fin 32)
  | powerOn
  | functionReady (u : ReadyUnit)
  | deviceReset
  | operatorEmit (r : Fin 128) (port : Fin 14) (accept : Bool)
  | operatorIdle (r : Fin 128)
deriving DecidableEq, Repr

end Sys2Proof
end

