-- ==== Sys2Proof/WellFormed.lean ====
section
/-! DEFINITION. Which instructions a word can hold: the accepted types, the reserved values and
the reserved combinations of chapters 02 to 14. The machine's own steps have no word. -/

namespace Sys2Proof

/-- TY 0-7 (R98). -/
def tyInts : List Ty := [.i8, .n8, .i16, .n16, .i32, .n32, .i64, .n64]
/-- TY 2-7 (R108). -/
def tyBswap : List Ty := [.i16, .n16, .i32, .n32, .i64, .n64]
/-- TY 16-18 (Table 6.4). -/
def tyFloats : List Ty := [.f32, .bf16, .f16]
/-- TY 17, 18 (R185). -/
def tyHalf : List Ty := [.bf16, .f16]
/-- TY 0, 19, 20 (R185). -/
def tyDot4 : List Ty := [.i8, .e4m3, .e5m2]
/-- TY 4-7, 16 (R186). -/
def tyCmp : List Ty := [.i32, .n32, .i64, .n64, .f32]
/-- TY 5, 7 (R187). -/
def tyLogic : List Ty := [.n32, .n64]
/-- TY 4-7 (R191). -/
def tyExt : List Ty := [.i32, .n32, .i64, .n64]
/-- TY 4, 5, 16 (R193). -/
def tyScan : List Ty := [.i32, .n32, .f32]
/-- TY 5, 16 (R195). -/
def tyRng : List Ty := [.n32, .f32]
/-- TY 0-9, 16-24 (Table 6.4). -/
def tyCvtDst : List Ty := [.i8, .n8, .i16, .n16, .i32, .n32, .i64, .n64, .i4, .n4, .f32, .bf16, .f16,
  .e4m3, .e5m2, .e2m3, .e3m2, .e2m1, .acc]
/-- TY 0-9, 16-25: also the types of ldt to sttb (R221). -/
def tyCvtSrc : List Ty := [.i8, .n8, .i16, .n16, .i32, .n32, .i64, .n64, .i4, .n4, .f32, .bf16, .f16,
  .e4m3, .e5m2, .e2m3, .e3m2, .e2m1, .acc, .e8m0]
/-- MX element formats 0, 8, 19-23 (Table 6.4, Table 8.8). -/
def tyMx : List Ty := [.i8, .i4, .e4m3, .e5m2, .e2m3, .e3m2, .e2m1]
/-- Sources of vqmx: 16, 17, 24 (R189). -/
def tyQmxSrc : List Ty := [.f32, .bf16, .acc]
/-- Types of mma: 17-23 (Table 8.8). -/
def tyMma : List Ty := [.bf16, .f16, .e4m3, .e5m2, .e2m3, .e3m2, .e2m1]
/-- Types of mld: 4, 16, 17, 18, 24 (R247). -/
def tyMld : List Ty := [.i32, .f32, .bf16, .f16, .acc]
/-- Types of mst: 0, 2, 4, 16-20, 24 (R247). -/
def tyMst : List Ty := [.i8, .i16, .i32, .f32, .bf16, .f16, .e4m3, .e5m2, .acc]
/-- Types of mrow: 4, 16, 24 (R247). -/
def tyMrow : List Ty := [.i32, .f32, .acc]
/-- Types of gred: 6, 7, 16 (R171). -/
def tyGred : List Ty := [.i64, .n64, .f32]

/-- The type code of Table 2.6. -/
def tyCode : Ty → Nat
  | .i8 => 0 | .n8 => 1 | .i16 => 2 | .n16 => 3 | .i32 => 4 | .n32 => 5 | .i64 => 6 | .n64 => 7
  | .i4 => 8 | .n4 => 9 | .f32 => 16 | .bf16 => 17 | .f16 => 18 | .e4m3 => 19 | .e5m2 => 20
  | .e2m3 => 21 | .e3m2 => 22 | .e2m1 => 23 | .acc => 24 | .e8m0 => 25 | .xacc => 26

/-- The type of a code; codes 10-15 and 27-31 are unassigned (R49). -/
def tyOf : Nat → Option Ty
  | 0 => some .i8 | 1 => some .n8 | 2 => some .i16 | 3 => some .n16 | 4 => some .i32
  | 5 => some .n32 | 6 => some .i64 | 7 => some .n64 | 8 => some .i4 | 9 => some .n4
  | 16 => some .f32 | 17 => some .bf16 | 18 => some .f16 | 19 => some .e4m3 | 20 => some .e5m2
  | 21 => some .e2m3 | 22 => some .e3m2 | 23 => some .e2m1 | 24 => some .acc | 25 => some .e8m0
  | 26 => some .xacc
  | _ => none

/-- Element width of a type in a vector register (R58, Table 6.2). -/
def tyWidth : Ty → Nat
  | .i8 | .n8 | .e4m3 | .e5m2 | .e2m3 | .e3m2 | .e8m0 => 8
  | .i16 | .n16 | .bf16 | .f16 => 16
  | .i32 | .n32 | .f32 => 32
  | .i64 | .n64 | .acc => 64
  | .i4 | .n4 | .e2m1 => 4
  | .xacc => 512

/-- The ratio of the wider to the narrower of two types: the bound on PART (R188, R189). -/
def tyRatio (a b : Ty) : Nat := Max.max (tyWidth a) (tyWidth b) / Min.min (tyWidth a) (tyWidth b)

/-- A word of this predicate is not the never form (R39). -/
def Hdr.ok (h : Hdr) : Bool := !(h.pn && h.pi == 0)

/-- WN = 0 needs WQ = 0 and SE = 0 needs SQ = 0 (R47). -/
def Clauses.ok (c : Clauses) : Bool := (c.wn != 0 || c.wq == 0) && (c.se || c.sq == 0)

/-- SCOPE with ORD 0 is reserved outside the read-modify-writes (R266). -/
def MemAttr.plainOk (m : MemAttr) (ord : Fin 4) : Bool :=
  (m.ord == 0 || m.ord == ord) && (m.ord != 0 || m.scope == 0)

/-- CP 3 is reserved in atomics (Table 9.3). -/
def MemAttr.rmwOk (m : MemAttr) : Bool := m.cp != 3

/-- A scalar edge operand takes n = 1 (R159). -/
def edgeOk (x : EReg) (n1 : Fin 64) : Bool :=
  match x with
  | .scal _ => n1 == 0
  | .vec _ => true

/-- Sizes of an atomic operation (Table 9.4). -/
def atomSzOk (op : AtomOp) (sz : Fin 4) : Bool :=
  match op with
  | .addF => sz == 1 || sz == 2
  | _ => true

/-- WMEN = 0 needs M = 0 (R324). -/
def wmOk (wm : Fin 16) (wmen : Bool) : Bool := wmen || wm == 0

/-- The reserved values of the product operands: Y to Y + 2 stay within s31 (R241). -/
def MacArg.ok (m : MacArg) : Bool := m.y.val < 30

/-- The numbers of the system registers (R59 and the maps of chapters 05, 08, 11, 13, 14, 16, 21). -/
def sysAssigned (n : Nat) : Bool :=
  (1 ≤ n && n ≤ 6) || (0x100 ≤ n && n ≤ 0x103) || (0x400 ≤ n && n ≤ 0x49F)
  || (0x500 ≤ n && n ≤ 0x52F) || (0x700 ≤ n && n ≤ 0x703) || (0x780 ≤ n && n ≤ 0x7FF)
  || (0x900 ≤ n && n ≤ 0x980) || n == 0x988 || n == 0x990 || (0x9A0 ≤ n && n ≤ 0x9BF)
  || n == 0xA00 || n == 0xA01 || (0xA10 ≤ n && n ≤ 0xA15) || n == 0xA20 || (0xA30 ≤ n && n ≤ 0xA3F)

namespace Instr

/-- The instruction has a word: one of the rows NOP to PCLR. -/
def isWord : Instr → Bool
  | .nop .. | .add .. | .sub .. | .mul .. | .mulh .. | .div .. | .rem .. | .min .. | .max .. => true
  | .and .. | .or .. | .xor .. | .andn .. | .shl .. | .shr .. | .sar .. | .rol .. | .cmp .. => true
  | .clz .. | .ctz .. | .popc .. | .bswap .. | .sext .. | .addi .. | .muli .. | .andi .. | .ori .. => true
  | .xori .. | .shli .. | .shri .. | .sari .. | .cmpi .. | .ldi .. | .ldih .. | .lea .. | .sel .. => true
  | .movSS .. | .movPS .. | .movSP .. | .movKS .. | .movSK .. | .movKK .. | .bra .. | .call .. => true
  | .jmp .. | .ret .. | .pset .. | .pand .. | .por .. | .pxor .. | .pnot .. | .epop .. | .epeek .. => true
  | .epush .. | .eeos .. | .estat .. | .tqsig .. | .tqwait .. | .tqrd .. | .endF .. | .actena .. => true
  | .actdis .. | .gjoin .. | .gleave .. | .garrive .. | .gwait .. | .gbar .. | .gred .. | .launch .. => true
  | .vadd .. | .vsub .. | .vmul .. | .vmulh .. | .vmin .. | .vmax .. | .vabs .. | .vneg .. => true
  | .vaddFp .. | .vsubFp .. | .vmulFp .. | .vminFp .. | .vmaxFp .. | .vabsFp .. | .vnegFp .. => true
  | .vfma .. | .vfms .. | .vfnma .. | .vdot2 .. | .vdot4 .. | .vcmp .. | .vand .. | .vor .. => true
  | .vxor .. | .vandn .. | .vshl .. | .vshr .. | .vsar .. | .vsel .. | .vcvt .. | .vqmx .. => true
  | .vdqmx .. | .vexp2 .. | .vlog2 .. | .vrcp .. | .vrsqrt .. | .vsqrt .. | .vperm .. | .vperm2 .. => true
  | .vbcast .. | .vbcastl .. | .vrot .. | .vcompress .. | .vexpand .. | .vext .. | .vins .. => true
  | .vredsum .. | .vredmin .. | .vredmax .. | .vredand .. | .vredor .. | .vredxor .. | .vscan .. => true
  | .vargmax .. | .vargmin .. | .vrng .. | .vptest .. | .vldi .. | .vldiI64 .. | .viota .. => true
  | .kand .. | .kor .. | .kxor .. | .kandn .. | .knot .. | .kpopc .. | .kffs .. | .hdef .. => true
  | .hld .. | .hst .. | .hinv .. | .ldt .. | .stt .. | .ldtb .. | .sttb .. | .hrelayout .. => true
  | .hwait .. | .hstat .. | .mma .. | .mmx .. | .mmi .. | .mmaG .. | .mmxG .. | .mgang .. => true
  | .mgangFree .. | .mcfg .. | .mzero .. | .mscaleRow .. | .mscaleCol .. | .mld .. | .mst .. => true
  | .mrow .. | .msort .. | .mtopk .. | .mstat .. | .ld .. | .st .. | .lds .. | .sts .. => true
  | .vld .. | .vst .. | .vlds .. | .vsts .. | .vgath .. | .vscat .. | .ldc .. | .pref .. => true
  | .prefConst .. | .atom .. | .red .. | .cas .. | .xadd .. | .xrd .. | .xrdClr .. | .fence .. => true
  | .cinv .. | .cinvLine .. | .sdef .. | .carm .. | .sgo .. | .sstop .. | .sstat .. | .cdis .. => true
  | .copy .. | .staload .. | .staloadUpd .. | .stafree .. | .stastat .. | .rgload .. | .rgswap .. => true
  | .rgswapForce .. | .rgsave .. | .rgrest .. | .rgclk .. | .rgfrz .. | .rgfrzDrain .. => true
  | .rgthaw .. | .rgstat .. | .mfs .. | .mts .. | .trap .. | .brk .. | .resume .. => true
  | .resumeNext .. | .abort .. | .tlbinv .. | .ctxsv .. | .ctxld .. | .smap .. | .pclr .. => true
  | _ => false

/-- The predicate a word carries (R38); none for the never form and the machine's own steps. -/
def hdr? : Instr → Option Hdr
  | .add h .. | .sub h .. | .mul h .. | .mulh h .. | .div h .. | .rem h .. | .min h .. | .max h .. => some h
  | .and h .. | .or h .. | .xor h .. | .andn h .. | .shl h .. | .shr h .. | .sar h .. | .rol h .. => some h
  | .cmp h .. | .clz h .. | .ctz h .. | .popc h .. | .bswap h .. | .sext h .. | .addi h .. => some h
  | .muli h .. | .andi h .. | .ori h .. | .xori h .. | .shli h .. | .shri h .. | .sari h .. => some h
  | .cmpi h .. | .ldi h .. | .ldih h .. | .lea h .. | .sel h .. | .movSS h .. | .movPS h .. => some h
  | .movSP h .. | .movKS h .. | .movSK h .. | .movKK h .. | .bra h .. | .call h .. | .jmp h .. => some h
  | .ret h .. | .pset h .. | .pand h .. | .por h .. | .pxor h .. | .pnot h .. | .epop h .. => some h
  | .epeek h .. | .epush h .. | .eeos h .. | .estat h .. | .tqsig h .. | .tqwait h .. => some h
  | .tqrd h .. | .endF h | .actena h .. | .actdis h .. | .gjoin h .. | .gleave h .. => some h
  | .garrive h .. | .gwait h .. | .gbar h .. | .gred h .. | .launch h .. | .vadd h .. => some h
  | .vsub h .. | .vmul h .. | .vmulh h .. | .vmin h .. | .vmax h .. | .vabs h .. | .vneg h .. => some h
  | .vaddFp h .. | .vsubFp h .. | .vmulFp h .. | .vminFp h .. | .vmaxFp h .. | .vabsFp h .. => some h
  | .vnegFp h .. | .vfma h .. | .vfms h .. | .vfnma h .. | .vdot2 h .. | .vdot4 h .. => some h
  | .vcmp h .. | .vand h .. | .vor h .. | .vxor h .. | .vandn h .. | .vshl h .. | .vshr h .. => some h
  | .vsar h .. | .vsel h .. | .vcvt h .. | .vqmx h .. | .vdqmx h .. | .vexp2 h .. | .vlog2 h .. => some h
  | .vrcp h .. | .vrsqrt h .. | .vsqrt h .. | .vperm h .. | .vperm2 h .. | .vbcast h .. => some h
  | .vbcastl h .. | .vrot h .. | .vcompress h .. | .vexpand h .. | .vext h .. | .vins h .. => some h
  | .vredsum h .. | .vredmin h .. | .vredmax h .. | .vredand h .. | .vredor h .. => some h
  | .vredxor h .. | .vscan h .. | .vargmax h .. | .vargmin h .. | .vrng h .. | .vptest h .. => some h
  | .vldi h .. | .vldiI64 h .. | .viota h .. | .kand h .. | .kor h .. | .kxor h .. => some h
  | .kandn h .. | .knot h .. | .kpopc h .. | .kffs h .. | .hdef h .. | .hld h .. | .hst h .. => some h
  | .hinv h .. | .ldt h .. | .stt h .. | .ldtb h .. | .sttb h .. | .hrelayout h .. => some h
  | .hwait h .. | .hstat h .. | .mma h .. | .mmx h .. | .mmi h .. | .mmaG h .. | .mmxG h .. => some h
  | .mgang h .. | .mgangFree h .. | .mcfg h .. | .mzero h .. | .mscaleRow h .. => some h
  | .mscaleCol h .. | .mld h .. | .mst h .. | .mrow h .. | .msort h .. | .mtopk h .. => some h
  | .mstat h .. | .ld h .. | .st h .. | .lds h .. | .sts h .. | .vld h .. | .vst h .. => some h
  | .vlds h .. | .vsts h .. | .vgath h .. | .vscat h .. | .ldc h .. | .pref h .. => some h
  | .prefConst h .. | .atom h .. | .red h .. | .cas h .. | .xadd h .. | .xrd h .. => some h
  | .xrdClr h .. | .fence h .. | .cinv h | .cinvLine h .. | .sdef h .. | .carm h .. => some h
  | .sgo h .. | .sstop h .. | .sstat h .. | .cdis h .. | .copy h .. | .staload h .. => some h
  | .staloadUpd h .. | .stafree h .. | .stastat h .. | .rgload h .. | .rgswap h .. => some h
  | .rgswapForce h .. | .rgsave h .. | .rgrest h .. | .rgclk h .. | .rgfrz h .. => some h
  | .rgfrzDrain h .. | .rgthaw h .. | .rgstat h .. | .mfs h .. | .mts h .. | .trap h .. => some h
  | .brk h .. | .resume h | .resumeNext h | .abort h | .tlbinv h .. | .ctxsv h .. => some h
  | .ctxld h .. | .smap h .. | .pclr h .. => some h
  | _ => none

/-- The wait and signal clauses of a format E word (R47); empty for the others. -/
def clauses : Instr → Clauses
  | .epop _ _ _ _ c | .epeek _ _ _ _ _ c | .epush _ _ _ _ c | .eeos _ _ c | .estat _ _ _ c => c
  | .tqsig _ _ _ c | .tqwait _ c | .tqrd _ _ _ c | .gjoin _ _ _ c | .gleave _ _ _ c => c
  | .garrive _ _ _ c | .gwait _ _ _ c | .gbar _ _ _ c | .gred _ _ _ _ _ _ c | .launch _ _ _ c => c
  | .mma _ _ _ c | .mmx _ _ _ c | .mmi _ _ _ c | .mmaG _ _ _ c | .mmxG _ _ _ c => c
  | .mgang _ _ _ _ _ _ _ c | .mgangFree _ _ c | .mcfg _ _ _ c | .mzero _ _ _ c => c
  | .mscaleRow _ _ _ _ c | .mscaleCol _ _ _ _ c | .mld _ _ _ _ _ _ c | .mst _ _ _ _ _ _ c => c
  | .mrow _ _ _ _ _ _ _ c | .msort _ _ _ _ c | .mtopk _ _ _ _ _ _ _ c | .sdef _ _ _ c => c
  | .carm _ _ _ _ _ c | .sgo _ _ _ c | .sstop _ _ c | .sstat _ _ _ _ c | .cdis _ _ c => c
  | .copy _ _ _ _ _ c | .staload _ _ _ _ c | .staloadUpd _ _ _ _ c | .stafree _ _ _ c => c
  | .stastat _ _ _ _ _ c | .rgload _ _ _ c | .rgswap _ _ c | .rgswapForce _ _ c => c
  | .rgsave _ _ c | .rgrest _ _ c => c
  | _ => ⟨0, 0, 0, false⟩

/-- The conditions of each form beyond its predicate and its clauses: accepted types (R49),
reserved values and combinations (R51). -/
def formOk : Instr → Bool
  | .add _ _ _ _ t _ | .sub _ _ _ _ t _ | .mul _ _ _ _ t _ | .mulh _ _ _ _ t | .div _ _ _ _ t
  | .rem _ _ _ _ t | .min _ _ _ _ t | .max _ _ _ _ t | .and _ _ _ _ t | .or _ _ _ _ t
  | .xor _ _ _ _ t | .andn _ _ _ _ t | .shl _ _ _ _ t | .shr _ _ _ _ t | .sar _ _ _ _ t
  | .rol _ _ _ _ t | .clz _ _ _ t | .ctz _ _ _ t | .popc _ _ _ t | .cmpi _ _ _ _ t _ => tyInts.contains t
  | .bswap _ _ _ t => tyBswap.contains t
  | .cmp _ _ d c _ _ t => tyInts.contains t && (c == 0 || d != c)
  | .bra _ cond a _ => cond != .always || a == 0
  | .epop _ x _ n _ | .epeek _ x _ _ n _ | .epush _ x _ n _ => edgeOk x n
  | .tqsig _ _ n _ => n != 0
  | .tqwait _ c => c.wn != 0
  | .gred _ op t _ _ _ _ => tyGred.contains t && (t != .f32 || op == .add || op == .min || op == .max)
  | .vadd _ _ _ _ _ t _ | .vsub _ _ _ _ _ t _ | .vmul _ _ _ _ _ t _ | .vmulh _ _ _ _ _ t
  | .vmin _ _ _ _ _ t | .vmax _ _ _ _ _ t | .vabs _ _ _ _ t _ | .vneg _ _ _ _ t _
  | .vshl _ _ _ _ _ t | .vshr _ _ _ _ _ t | .vsar _ _ _ _ _ t => tyInts.contains t
  | .vaddFp _ _ _ _ _ t | .vsubFp _ _ _ _ _ t | .vmulFp _ _ _ _ _ t | .vminFp _ _ _ _ _ t
  | .vmaxFp _ _ _ _ _ t | .vabsFp _ _ _ _ t | .vnegFp _ _ _ _ t | .vfma _ _ _ _ _ _ t
  | .vfms _ _ _ _ _ _ t | .vfnma _ _ _ _ _ _ t => tyFloats.contains t
  | .vdot2 _ _ _ _ _ _ t => tyHalf.contains t
  | .vdot4 _ _ _ _ _ _ t => tyDot4.contains t
  | .vcmp _ c _ _ _ _ t => tyCmp.contains t && (c != .unord || t == .f32)
  | .vand _ _ _ _ _ t | .vor _ _ _ _ _ t | .vxor _ _ _ _ _ t | .vandn _ _ _ _ _ t
  | .vsel _ _ _ _ _ t | .vperm _ _ _ _ _ t | .vperm2 _ _ _ _ _ _ t | .vbcast _ _ _ _ t
  | .vbcastl _ _ _ _ _ t | .vrot _ _ _ _ _ t | .vcompress _ _ _ _ t | .vexpand _ _ _ _ t
  | .vredand _ _ _ _ t | .vredor _ _ _ _ t | .vredxor _ _ _ _ t => tyLogic.contains t
  | .vcvt _ _ _ _ t s p =>
    tyCvtDst.contains t && tyCvtSrc.contains s && t != s && p.val < tyRatio t s
  | .vqmx _ _ _ _ t s p => tyMx.contains t && tyQmxSrc.contains s && p.val < tyRatio t s
  | .vdqmx _ _ _ _ _ t s p => tyFloats.contains t && tyMx.contains s && p.val < tyRatio t s
  | .vext _ _ _ i t => tyExt.contains t && i.val < 2048 / tyWidth t
  | .vins _ _ _ i t => tyLogic.contains t && i.val < 2048 / tyWidth t
  | .vredsum _ _ _ _ t | .vredmin _ _ _ _ t | .vredmax _ _ _ _ t => tyCmp.contains t
  | .vscan _ op _ _ _ t sat => tyScan.contains t && (!sat || (op == .add && t != .f32))
  | .vargmax _ _ _ _ t | .vargmin _ _ _ _ t => tyScan.contains t
  | .vrng _ _ _ _ _ t => tyRng.contains t
  | .hinv _ d all => !all || d == 0
  | .ldt _ _ _ _ t _ _ | .stt _ _ _ _ t _ _ | .ldtb _ _ _ _ t _ _ _ _
  | .sttb _ _ _ _ t _ _ _ _ => tyCvtSrc.contains t
  | .hrelayout _ d _ _ _ cs ct nb => (ct || cs == 0) && (nb || d == 0)
  | .mma _ t m _ => tyMma.contains t && m.ok
  | .mmx _ t m _ => tyMx.contains t && m.ok
  | .mmi _ _ m _ => m.ok
  | .mmaG _ t m _ => tyMma.contains t && m.ok
  | .mmxG _ t m _ => tyMx.contains t && m.ok
  | .mgang _ _ gr gc gR gC _ _ => gr ≤ gR && gc ≤ gC
  | .mcfg _ shape sort _ => sort == 0 || shape == 3
  | .mld _ x _ _ t _ _ => tyMld.contains t && x.val < 31
  | .mst _ x _ _ t _ _ => tyMst.contains t && x.val < 31
  | .mrow _ _ _ _ t half _ _ => tyMrow.contains t && (!half || t == .acc)
  | .msort _ x y _ _ => x != y
  | .mtopk _ x y _ _ _ _ _ => x != y
  | .ld _ _ _ _ _ m | .vld _ _ _ _ m => m.plainOk 1
  | .st _ _ _ _ m | .vst _ _ _ _ m => m.plainOk 2
  | .vscat _ d _ _ _ => d.val < 31
  | .atom _ op _ sz _ m => atomSzOk op sz && m.rmwOk
  | .red _ op _ sz _ m => atomSzOk op sz && m.rmwOk && (m.ord == 0 || m.ord == 2)
  | .cas _ d _ _ m => m.rmwOk && d.val < 31
  | .carm _ _ _ wm en _ | .copy _ _ _ wm en _ => wmOk wm en
  | .stastat _ _ _ _ n _ => n.val < 5 || 8 ≤ n.val
  | .mfs _ _ n | .mts _ _ n => sysAssigned n.toNat
  | .rgclk _ _ f => 50 ≤ f.toNat && f.toNat ≤ 900
  | .smap _ _ _ cap => cap != 0
  | _ => true

/-- The instruction is one that some word holds. -/
def wf (i : Instr) : Bool :=
  i.isWord && i.formOk && i.clauses.ok && (match i.hdr? with | some h => h.ok | none => true)

end Instr

end Sys2Proof
end

