-- ==== Sys2Proof/Decode.lean ====
section
/-! DEFINITION. Instruction words: the decoder of R52, total on any bytes, and the encoder, both
written from the formats of R40 and the encodings of chapters 04 to 14. -/

namespace Sys2Proof

/-- What the checks of R52 before privilege make of a word. -/
inductive Decoded where
  /-- The word is an instruction. -/
  | instr (i : Instr)
  /-- Cause 0x01, with the OP in bits 7:0 and the offending selector value in bits 19:8. -/
  | illegal (detail : Nat)
  /-- Cause 0x02, with the mask of the offending bits. -/
  | reserved (mask : Nat)
deriving DecidableEq, Repr

/-! ### Fields (R38, R40) -/

/-- Bits lo + n - 1 : lo of the word. -/
def field (w lo n : Nat) : Nat := w / 2 ^ lo % 2 ^ n

/-- Fields put together, the first one highest. -/
def pack (l : List (Nat × Nat)) : Nat := l.foldl (fun acc f => acc * 2 ^ f.1 + f.2) 0

/-- The thirteen bits of R38, then the rest. -/
def packWord (op : Nat) (h : Hdr) (l : List (Nat × Nat)) : Word :=
  BitVec.ofNat 64 (pack ((8, op) :: (1, h.pn.toNat) :: (4, h.pi.val) :: l))

def fmtA (op : Nat) (h : Hdr) (d a b c fn k ty md : Nat) : Word :=
  packWord op h [(6, d), (6, a), (6, b), (6, c), (7, fn), (3, k), (5, ty), (12, md)]

def fmtI (op : Nat) (h : Hdr) (d a imm fn : Nat) : Word :=
  packWord op h [(6, d), (6, a), (32, imm), (7, fn)]

def fmtB (op : Nat) (h : Hdr) (a cp off : Nat) : Word :=
  packWord op h [(6, a), (5, cp), (32, off), (8, 0)]

def fmtM (op : Nat) (h : Hdr) (d : Nat) (m : AddrArg) (sz scope ord cp fn : Nat) : Word :=
  packWord op h [(6, d), (6, m.base.val), (6, m.idx.val), (20, m.disp.toNat), (3, sz), (3, scope),
    (2, ord), (2, cp), (3, fn)]

def fmtT (op : Nat) (h : Hdr) (d hr cbase ty k md : Nat) : Word :=
  packWord op h [(6, d), (4, hr), (6, cbase), (5, ty), (3, k), (27, md)]

def fmtE (op : Nat) (h : Hdr) (x y z imm qn : Nat) (c : Clauses) (fn : Nat) : Word :=
  packWord op h [(6, x), (6, y), (6, z), (12, imm), (2, qn), (4, c.wq.val), (3, c.wn.val),
    (4, c.sq.val), (1, c.se.toNat), (7, fn)]

def fmtX (op : Nat) (h : Hdr) (d a sys imm fn : Nat) : Word :=
  packWord op h [(6, d), (6, a), (12, sys), (20, imm), (7, fn)]

def fmtL (op : Nat) (h : Hdr) (d imm : Nat) : Word :=
  packWord op h [(6, d), (45, imm)]

/-! ### Codes -/

def condCode : Cond → Nat
  | .eq => 0 | .ne => 1 | .lt => 2 | .le => 3 | .gt => 4 | .ge => 5

def condOf : Nat → Cond
  | 0 => .eq | 1 => .ne | 2 => .lt | 3 => .le | 4 => .gt | _ => .ge

def vcondCode : VCond → Nat
  | .eq => 0 | .ne => 1 | .lt => 2 | .le => 3 | .gt => 4 | .ge => 5 | .unord => 6

def vcondOf : Nat → VCond
  | 0 => .eq | 1 => .ne | 2 => .lt | 3 => .le | 4 => .gt | 5 => .ge | _ => .unord

def braCode : BraCond → Nat
  | .always => 0 | .eq => 1 | .ne => 2 | .lt => 3 | .ge => 4 | .gt => 5 | .le => 6 | .dec => 7

def braOf : Nat → BraCond
  | 0 => .always | 1 => .eq | 2 => .ne | 3 => .lt | 4 => .ge | 5 => .gt | 6 => .le | _ => .dec

def gredCode : GredOp → Nat
  | .add => 0 | .min => 1 | .max => 2 | .and => 3 | .or => 4 | .xor => 5

def gredOf : Nat → GredOp
  | 0 => .add | 1 => .min | 2 => .max | 3 => .and | 4 => .or | _ => .xor

def scanCode : ScanOp → Nat
  | .add => 0 | .max => 1 | .min => 2

def scanOf : Nat → ScanOp
  | 0 => .add | 1 => .max | _ => .min

def atomCode : AtomOp → Nat
  | .add => 0 | .addF => 1 | .min => 2 | .max => 3 | .and => 4 | .or => 5 | .xor => 6 | .swap => 7

def atomOf : Nat → AtomOp
  | 0 => .add | 1 => .addF | 2 => .min | 3 => .max | 4 => .and | 5 => .or | 6 => .xor | _ => .swap

def mmiCode : MmiForm → Nat
  | .i8 => 0 | .n8 => 1 | .i4 => 2 | .n4 => 3 | .i8n8 => 4 | .i4n4 => 5

def mmiOf : Nat → MmiForm
  | 0 => .i8 | 1 => .n8 | 2 => .i4 | 3 => .n4 | 4 => .i8n8 | _ => .i4n4

def fenceCode : FenceKind → Nat
  | .acq => 0 | .rel => 1 | .acqrel => 2 | .sc => 3

def fenceOf : Nat → FenceKind
  | 0 => .acq | 1 => .rel | 2 => .acqrel | _ => .sc

/-! ### The encoder -/

/-- A register field that a form may fill from either file. -/
def vopReg : VOp → Nat
  | .vec r => r.val
  | .scal r => r.val

/-- MOD<0> of R179: 1 for a broadcast scalar. -/
def vopSb : VOp → Nat
  | .vec _ => 0
  | .scal _ => 1

def eregReg : EReg → Nat
  | .scal r => r.val
  | .vec r => r.val

/-- IMM12 bit 11 of R159: 1 for a vector register. -/
def eregVec : EReg → Nat
  | .scal _ => 0
  | .vec _ => 1

/-- IMM12 of the product forms (R241). -/
def macImm (m : MacArg) : Nat := m.bank.val + 4 * m.a.val + 64 * m.b.val

/-- IMM20 and A of tlbinv (R406). -/
def tlbEnc : TlbScope → Nat × Nat
  | .va a m => (a.val, 4 * m.val)
  | .mctx m => (0, 1 + 4 * m.val)
  | .part q => (0, 2 + 4 * q.val)
  | .all => (0, 3)

/-- FN3 and SZ of ldc (Table 9.3). -/
def ldcEnc : LdcForm → Nat × Nat
  | .scalar sx sz => (sx.toNat, sz.val)
  | .vector sz => (2, sz.val + 4)

/-- The word of an instruction; none for the machine's own steps. -/
def encode : Instr → Option Word
  | .nop op rest => some (packWord op.toNat ⟨true, 0⟩ [(51, rest.toNat)])
  | .add h d a b t s => some (fmtA 0x01 h d a b 0 0 0 (tyCode t) s.toNat)
  | .sub h d a b t s => some (fmtA 0x01 h d a b 0 1 0 (tyCode t) s.toNat)
  | .mul h d a b t s => some (fmtA 0x01 h d a b 0 2 0 (tyCode t) s.toNat)
  | .mulh h d a b t => some (fmtA 0x01 h d a b 0 3 0 (tyCode t) 0)
  | .div h d a b t => some (fmtA 0x01 h d a b 0 4 0 (tyCode t) 0)
  | .rem h d a b t => some (fmtA 0x01 h d a b 0 5 0 (tyCode t) 0)
  | .min h d a b t => some (fmtA 0x01 h d a b 0 6 0 (tyCode t) 0)
  | .max h d a b t => some (fmtA 0x01 h d a b 0 7 0 (tyCode t) 0)
  | .and h d a b t => some (fmtA 0x02 h d a b 0 0 0 (tyCode t) 0)
  | .or h d a b t => some (fmtA 0x02 h d a b 0 1 0 (tyCode t) 0)
  | .xor h d a b t => some (fmtA 0x02 h d a b 0 2 0 (tyCode t) 0)
  | .andn h d a b t => some (fmtA 0x02 h d a b 0 3 0 (tyCode t) 0)
  | .shl h d a b t => some (fmtA 0x02 h d a b 0 4 0 (tyCode t) 0)
  | .shr h d a b t => some (fmtA 0x02 h d a b 0 5 0 (tyCode t) 0)
  | .sar h d a b t => some (fmtA 0x02 h d a b 0 6 0 (tyCode t) 0)
  | .rol h d a b t => some (fmtA 0x02 h d a b 0 7 0 (tyCode t) 0)
  | .cmp h c d e a b t => some (fmtA 0x03 h d a b e (condCode c) 0 (tyCode t) 0)
  | .clz h d a t => some (fmtA 0x04 h d a 0 0 0 0 (tyCode t) 0)
  | .ctz h d a t => some (fmtA 0x04 h d a 0 0 1 0 (tyCode t) 0)
  | .popc h d a t => some (fmtA 0x04 h d a 0 0 2 0 (tyCode t) 0)
  | .bswap h d a t => some (fmtA 0x04 h d a 0 0 3 0 (tyCode t) 0)
  | .sext h d a b => some (fmtA 0x04 h d a 0 0 4 0 0 b)
  | .addi h d a i => some (fmtI 0x05 h d a i.toNat 0)
  | .muli h d a i => some (fmtI 0x05 h d a i.toNat 1)
  | .andi h d a i => some (fmtI 0x05 h d a i.toNat 2)
  | .ori h d a i => some (fmtI 0x05 h d a i.toNat 3)
  | .xori h d a i => some (fmtI 0x05 h d a i.toNat 4)
  | .shli h d a n => some (fmtI 0x05 h d a n 5)
  | .shri h d a n => some (fmtI 0x05 h d a n 6)
  | .sari h d a n => some (fmtI 0x05 h d a n 7)
  | .cmpi h c d a t i => some (fmtI 0x06 h d a i.toNat (tyCode t * 8 + condCode c))
  | .ldi h d i => some (fmtL 0x07 h d i.toNat)
  | .ldih h d a i => some (fmtI 0x08 h d a i.toNat 0)
  | .lea h d a b sh dp => some (fmtA 0x09 h d a b 0 0 0 0 (sh + 16 * dp.toNat))
  | .sel h d c a b => some (fmtA 0x0A h d a b c 0 0 0 0)
  | .movSS h d a => some (fmtA 0x0B h d a 0 0 0 0 0 0)
  | .movPS h d a => some (fmtA 0x0B h d a 0 0 1 0 0 0)
  | .movSP h d a => some (fmtA 0x0B h d a 0 0 2 0 0 0)
  | .movKS h d a => some (fmtA 0x0B h d a 0 0 3 0 0 0)
  | .movSK h d a => some (fmtA 0x0B h d a 0 0 4 0 0 0)
  | .movKK h d a => some (fmtA 0x0B h d a 0 0 5 0 0 0)
  | .bra h c a o => some (fmtB 0x20 h a (braCode c) o.toNat)
  | .call h a o => some (fmtB 0x21 h a 0 o.toNat)
  | .jmp h d a => some (fmtA 0x22 h d a 0 0 0 0 0 0)
  | .ret h a => some (fmtA 0x22 h 0 a 0 0 1 0 0 0)
  | .pset h d v => some (fmtA 0x23 h d 0 0 0 0 0 0 v.toNat)
  | .pand h d a b x y => some (fmtA 0x23 h d a b 0 1 0 0 (x.toNat + 2 * y.toNat))
  | .por h d a b x y => some (fmtA 0x23 h d a b 0 2 0 0 (x.toNat + 2 * y.toNat))
  | .pxor h d a b x y => some (fmtA 0x23 h d a b 0 3 0 0 (x.toNat + 2 * y.toNat))
  | .pnot h d a => some (fmtA 0x23 h d a 0 0 4 0 0 0)
  | .epop h x y n c => some (fmtE 0x30 h (eregReg x) y 0 (n + 2048 * eregVec x) 0 c 0)
  | .epeek h x y z n c => some (fmtE 0x30 h (eregReg x) y z (n + 2048 * eregVec x) 0 c 1)
  | .epush h x y n c => some (fmtE 0x31 h (eregReg x) y 0 (n + 2048 * eregVec x) 0 c 0)
  | .eeos h y c => some (fmtE 0x32 h 0 y 0 0 0 c 0)
  | .estat h x y c => some (fmtE 0x32 h x y 0 0 0 c 1)
  | .tqsig h q n c => some (fmtE 0x33 h 0 q 0 n 0 c 0)
  | .tqwait h c => some (fmtE 0x33 h 0 0 0 0 0 c 1)
  | .tqrd h x q c => some (fmtE 0x33 h x q 0 0 0 c 2)
  | .endF h => some (fmtX 0x34 h 0 0 0 0 0)
  | .actena h a => some (fmtX 0x34 h 0 a 0 0 1)
  | .actdis h a => some (fmtX 0x34 h 0 a 0 0 2)
  | .gjoin h x y c => some (fmtE 0x38 h x y 0 0 0 c 0)
  | .gleave h r y c => some (fmtE 0x38 h 0 y 0 r.toNat 0 c 1)
  | .garrive h x y c => some (fmtE 0x39 h x y 0 0 0 c 0)
  | .gwait h y z c => some (fmtE 0x39 h 0 y z 0 0 c 1)
  | .gbar h x y c => some (fmtE 0x39 h x y 0 0 0 c 2)
  | .gred h o t x y z c => some (fmtE 0x3A h x y z (tyCode t) 0 c (gredCode o))
  | .launch h x y c => some (fmtE 0x3B h x y 0 0 0 c 0)
  | .vadd h d a b k t s => some (fmtA 0x40 h d a (vopReg b) 0 0 k (tyCode t) (vopSb b + 2 * s.toNat))
  | .vsub h d a b k t s => some (fmtA 0x40 h d a (vopReg b) 0 1 k (tyCode t) (vopSb b + 2 * s.toNat))
  | .vmul h d a b k t s => some (fmtA 0x40 h d a (vopReg b) 0 2 k (tyCode t) (vopSb b + 2 * s.toNat))
  | .vmulh h d a b k t => some (fmtA 0x40 h d a (vopReg b) 0 3 k (tyCode t) (vopSb b))
  | .vmin h d a b k t => some (fmtA 0x40 h d a (vopReg b) 0 4 k (tyCode t) (vopSb b))
  | .vmax h d a b k t => some (fmtA 0x40 h d a (vopReg b) 0 5 k (tyCode t) (vopSb b))
  | .vabs h d a k t s => some (fmtA 0x40 h d a 0 0 6 k (tyCode t) (2 * s.toNat))
  | .vneg h d a k t s => some (fmtA 0x40 h d a 0 0 7 k (tyCode t) (2 * s.toNat))
  | .vaddFp h d a b k t => some (fmtA 0x41 h d a (vopReg b) 0 0 k (tyCode t) (vopSb b))
  | .vsubFp h d a b k t => some (fmtA 0x41 h d a (vopReg b) 0 1 k (tyCode t) (vopSb b))
  | .vmulFp h d a b k t => some (fmtA 0x41 h d a (vopReg b) 0 2 k (tyCode t) (vopSb b))
  | .vminFp h d a b k t => some (fmtA 0x41 h d a (vopReg b) 0 4 k (tyCode t) (vopSb b))
  | .vmaxFp h d a b k t => some (fmtA 0x41 h d a (vopReg b) 0 5 k (tyCode t) (vopSb b))
  | .vabsFp h d a k t => some (fmtA 0x41 h d a 0 0 6 k (tyCode t) 0)
  | .vnegFp h d a k t => some (fmtA 0x41 h d a 0 0 7 k (tyCode t) 0)
  | .vfma h d a b c k t => some (fmtA 0x42 h d a (vopReg b) c 0 k (tyCode t) (vopSb b))
  | .vfms h d a b c k t => some (fmtA 0x42 h d a (vopReg b) c 1 k (tyCode t) (vopSb b))
  | .vfnma h d a b c k t => some (fmtA 0x42 h d a (vopReg b) c 2 k (tyCode t) (vopSb b))
  | .vdot2 h d a b c k t => some (fmtA 0x42 h d a (vopReg b) c 3 k (tyCode t) (vopSb b))
  | .vdot4 h d a b c k t => some (fmtA 0x42 h d a (vopReg b) c 4 k (tyCode t) (vopSb b))
  | .vcmp h c d a b k t => some (fmtA 0x43 h d a (vopReg b) 0 (vcondCode c) k (tyCode t) (vopSb b))
  | .vand h d a b k t => some (fmtA 0x44 h d a (vopReg b) 0 0 k (tyCode t) (vopSb b))
  | .vor h d a b k t => some (fmtA 0x44 h d a (vopReg b) 0 1 k (tyCode t) (vopSb b))
  | .vxor h d a b k t => some (fmtA 0x44 h d a (vopReg b) 0 2 k (tyCode t) (vopSb b))
  | .vandn h d a b k t => some (fmtA 0x44 h d a (vopReg b) 0 3 k (tyCode t) (vopSb b))
  | .vshl h d a b k t => some (fmtA 0x44 h d a (vopReg b) 0 4 k (tyCode t) (vopSb b))
  | .vshr h d a b k t => some (fmtA 0x44 h d a (vopReg b) 0 5 k (tyCode t) (vopSb b))
  | .vsar h d a b k t => some (fmtA 0x44 h d a (vopReg b) 0 6 k (tyCode t) (vopSb b))
  | .vsel h d c a b t => some (fmtA 0x44 h d a (vopReg b) c 7 0 (tyCode t) (vopSb b))
  | .vcvt h d a k t s p => some (fmtA 0x45 h d a 0 0 0 k (tyCode t) (tyCode s + 32 * p))
  | .vqmx h d a c t s p => some (fmtA 0x46 h d a 0 c 0 0 (tyCode t) (tyCode s + 32 * p))
  | .vdqmx h d a c k t s p => some (fmtA 0x46 h d a 0 c 1 k (tyCode t) (tyCode s + 32 * p))
  | .vexp2 h d a k => some (fmtA 0x47 h d a 0 0 0 k 16 0)
  | .vlog2 h d a k => some (fmtA 0x47 h d a 0 0 1 k 16 0)
  | .vrcp h d a k => some (fmtA 0x47 h d a 0 0 2 k 16 0)
  | .vrsqrt h d a k => some (fmtA 0x47 h d a 0 0 3 k 16 0)
  | .vsqrt h d a k => some (fmtA 0x47 h d a 0 0 4 k 16 0)
  | .vperm h d a b k t => some (fmtA 0x48 h d a b 0 0 k (tyCode t) 0)
  | .vperm2 h d a b c k t => some (fmtA 0x48 h d a b c 1 k (tyCode t) 0)
  | .vbcast h d a k t => some (fmtA 0x48 h d a 0 0 2 k (tyCode t) 0)
  | .vbcastl h d a b k t => some (fmtA 0x48 h d a b 0 3 k (tyCode t) 0)
  | .vrot h d a b k t => some (fmtA 0x48 h d a b 0 4 k (tyCode t) 0)
  | .vcompress h d a k t => some (fmtA 0x48 h d a 0 0 5 k (tyCode t) 0)
  | .vexpand h d a k t => some (fmtA 0x48 h d a 0 0 6 k (tyCode t) 0)
  | .vext h d a i t => some (fmtA 0x48 h d a 0 0 7 0 (tyCode t) i)
  | .vins h d a i t => some (fmtA 0x48 h d a 0 0 8 0 (tyCode t) i)
  | .vredsum h d a k t => some (fmtA 0x49 h d a 0 0 0 k (tyCode t) 0)
  | .vredmin h d a k t => some (fmtA 0x49 h d a 0 0 1 k (tyCode t) 0)
  | .vredmax h d a k t => some (fmtA 0x49 h d a 0 0 2 k (tyCode t) 0)
  | .vredand h d a k t => some (fmtA 0x49 h d a 0 0 3 k (tyCode t) 0)
  | .vredor h d a k t => some (fmtA 0x49 h d a 0 0 4 k (tyCode t) 0)
  | .vredxor h d a k t => some (fmtA 0x49 h d a 0 0 5 k (tyCode t) 0)
  | .vscan h o d a k t s => some (fmtA 0x4A h d a 0 0 (scanCode o) k (tyCode t) (2 * s.toNat))
  | .vargmax h d a k t => some (fmtA 0x4B h d a 0 0 0 k (tyCode t) 0)
  | .vargmin h d a k t => some (fmtA 0x4B h d a 0 0 1 k (tyCode t) 0)
  | .vrng h d a b k t => some (fmtA 0x4C h d (vopReg a) b 0 0 k (tyCode t) (1 - vopSb a))
  | .vptest h d a k => some (fmtA 0x4D h d a 0 0 0 k 0 0)
  | .vldi h d i => some (fmtI 0x4E h d 0 i.toNat 0)
  | .vldiI64 h d i => some (fmtI 0x4E h d 0 i.toNat 1)
  | .viota h d i => some (fmtI 0x4E h d 0 i.toNat 2)
  | .kand h d a b => some (fmtA 0x4F h d a b 0 0 0 0 0)
  | .kor h d a b => some (fmtA 0x4F h d a b 0 1 0 0 0)
  | .kxor h d a b => some (fmtA 0x4F h d a b 0 2 0 0 0)
  | .kandn h d a b => some (fmtA 0x4F h d a b 0 3 0 0 0)
  | .knot h d a => some (fmtA 0x4F h d a 0 0 4 0 0 0)
  | .kpopc h d a => some (fmtA 0x4F h d a 0 0 5 0 0 0)
  | .kffs h d a => some (fmtA 0x4F h d a 0 0 6 0 0 0)
  | .hdef h d a g => some (fmtX 0x70 h d a 0 g.toNat 0)
  | .hld h d a o => some (fmtX 0x70 h d a 0 o.toNat 1)
  | .hst h d a g => some (fmtX 0x70 h d a 0 g.toNat 2)
  | .hinv h d g => some (fmtX 0x70 h d 0 0 g.toNat 3)
  | .ldt h d r cb t k cp => some (fmtT 0x71 h d r cb (tyCode t) k cp)
  | .stt h d r cb t k cp => some (fmtT 0x72 h d r cb (tyCode t) k cp)
  | .ldtb h d r cb t k cp sc sr =>
    some (fmtT 0x73 h d r cb (tyCode t) k (cp + 4 * sr + 256 * sc.toNat))
  | .sttb h d r cb t k cp sc sr =>
    some (fmtT 0x74 h d r cb (tyCode t) k (cp + 4 * sr + 256 * sc.toNat))
  | .hrelayout h d a r tag cs ct nb =>
    some (fmtX 0x75 h d a 0 (r + 16 * tag + 256 * cs + 4096 * ct.toNat + 8192 * nb.toNat) 0)
  | .hwait h r => some (fmtX 0x76 h 0 0 0 r 0)
  | .hstat h d r => some (fmtX 0x76 h d 0 0 r 1)
  | .mma h t m c => some (fmtE 0x80 h m.x m.y m.z (macImm m) m.q c (tyCode t))
  | .mmx h t m c => some (fmtE 0x81 h m.x m.y m.z (macImm m) m.q c (tyCode t))
  | .mmi h f m c => some (fmtE 0x82 h m.x m.y m.z (macImm m) m.q c (mmiCode f))
  | .mmaG h t m c => some (fmtE 0x83 h m.x m.y m.z (macImm m) m.q c (tyCode t))
  | .mmxG h t m c => some (fmtE 0x83 h m.x m.y m.z (macImm m) m.q c (32 + tyCode t))
  | .mgang h y gr gc gR gC q c => some (fmtE 0x86 h 0 y 0 (gr + 4 * gc + 16 * gR + 64 * gC) q c 1)
  | .mgangFree h q c => some (fmtE 0x86 h 0 0 0 0 q c 2)
  | .mcfg h sh so c => some (fmtE 0x86 h 0 0 0 (sh + 16 * so) 0 c 0)
  | .mzero h b q c => some (fmtE 0x84 h 0 0 0 b q c 0)
  | .mscaleRow h y b q c => some (fmtE 0x84 h 0 y 0 b q c 1)
  | .mscaleCol h y b q c => some (fmtE 0x84 h 0 y 0 b q c 2)
  | .mld h x b r t q c => some (fmtE 0x85 h x 0 0 (b + 4 * r + 64 * tyCode t) q c 0)
  | .mst h x b r t q c => some (fmtE 0x85 h x 0 0 (b + 4 * r + 64 * tyCode t) q c 1)
  | .mrow h x y b t hf q c => some (fmtE 0x85 h x y 0 (b + 4 * tyCode t + 128 * hf.toNat) q c 2)
  | .msort h x y q c => some (fmtE 0x87 h x y 0 0 q c 0)
  | .mtopk h x y k cl rd q c => some (fmtE 0x87 h x y 0 (k + 64 * cl.toNat + 128 * rd.toNat) q c 1)
  | .mstat h d s => some (fmtX 0x88 h d 0 0 s 0)
  | .ld h sx d sz m t => some (fmtM 0xA0 h d m sz t.scope t.ord t.cp sx.toNat)
  | .st h d sz m t => some (fmtM 0xA1 h d m sz t.scope t.ord t.cp 0)
  | .vld h d sz m t => some (fmtM 0xA2 h d m (sz + 4) t.scope t.ord t.cp 0)
  | .vst h d sz m t => some (fmtM 0xA3 h d m (sz + 4) t.scope t.ord t.cp 0)
  | .lds h sx d sz m => some (fmtM 0xA4 h d m sz 0 0 0 sx.toNat)
  | .sts h d sz m => some (fmtM 0xA4 h d m sz 0 0 0 2)
  | .vlds h d sz m => some (fmtM 0xA4 h d m (sz + 4) 0 0 0 3)
  | .vsts h d sz m => some (fmtM 0xA4 h d m (sz + 4) 0 0 0 4)
  | .vgath h d b8 m cp => some (fmtM 0xA5 h d m (2 + b8.toNat) 0 0 cp 0)
  | .vscat h d b8 m cp => some (fmtM 0xA5 h d m (2 + b8.toNat) 0 0 cp 1)
  | .ldc h f d m => some (fmtM 0xA6 h d m (ldcEnc f).2 0 0 0 (ldcEnc f).1)
  | .pref h sz m cp => some (fmtM 0xA7 h 0 m sz 0 0 cp 0)
  | .prefConst h sz m => some (fmtM 0xA7 h 0 m sz 0 0 0 1)
  | .atom h o d sz m t => some (fmtM 0xA8 h d m sz t.scope t.ord t.cp (atomCode o))
  | .red h o d sz m t => some (fmtM 0xA9 h d m sz t.scope t.ord t.cp (atomCode o))
  | .cas h d b8 m t => some (fmtM 0xAA h d m (2 + b8.toNat) t.scope t.ord t.cp 0)
  | .xadd h r m s rl => some (fmtM 0xAB h (eregReg r) m (2 + 5 * eregVec r) s (2 * rl.toNat) 0 0)
  | .xrd h d m s aq => some (fmtM 0xAB h d m 6 s aq.toNat 0 1)
  | .xrdClr h d m s o => some (fmtM 0xAB h d m 6 s o 0 2)
  | .fence h k s => some (fmtX 0xC0 h 0 0 0 (fenceCode k + 4 * s) 0)
  | .cinv h => some (fmtX 0xC1 h 0 0 0 0 0)
  | .cinvLine h a => some (fmtX 0xC1 h 0 a 0 0 1)
  | .sdef h x y c => some (fmtE 0xC8 h x y 0 0 0 c 0)
  | .sgo h y z c => some (fmtE 0xC9 h 0 y z 0 0 c 0)
  | .sstop h y c => some (fmtE 0xC9 h 0 y 0 0 0 c 1)
  | .sstat h x y s c => some (fmtE 0xCA h x y 0 s 0 c 0)
  | .carm h x y wm en c => some (fmtE 0xCB h x y 0 (wm + 16 * en.toNat) 0 c 0)
  | .cdis h y c => some (fmtE 0xCB h 0 y 0 0 0 c 1)
  | .copy h x z wm en c => some (fmtE 0xCC h x 0 z (wm + 16 * en.toNat) 0 c 0)
  | .staload h x y s c => some (fmtE 0xCD h x y 0 s 0 c 0)
  | .staloadUpd h x y s c => some (fmtE 0xCD h x y 0 (s + 8) 0 c 0)
  | .stafree h y s c => some (fmtE 0xCD h 0 y 0 s 0 c 1)
  | .stastat h x y s n c => some (fmtE 0xCE h x y 0 (s + 8 * n) 0 c 0)
  | .rgload h x y c => some (fmtE 0xD8 h x y 0 0 0 c 0)
  | .rgswap h y c => some (fmtE 0xD8 h 0 y 0 0 0 c 1)
  | .rgswapForce h y c => some (fmtE 0xD8 h 0 y 0 1 0 c 1)
  | .rgsave h y c => some (fmtE 0xD9 h 0 y 0 0 0 c 0)
  | .rgrest h y c => some (fmtE 0xD9 h 0 y 0 0 0 c 1)
  | .rgclk h a f => some (fmtX 0xDA h 0 a 0 f.toNat 0)
  | .rgfrz h a => some (fmtX 0xDA h 0 a 0 0 1)
  | .rgfrzDrain h a => some (fmtX 0xDA h 0 a 0 1 1)
  | .rgthaw h a => some (fmtX 0xDA h 0 a 0 0 2)
  | .rgstat h d a => some (fmtX 0xDA h d a 0 0 3)
  | .mfs h d n => some (fmtX 0xE0 h d 0 n.toNat 0 0)
  | .mts h a n => some (fmtX 0xE0 h 0 a n.toNat 0 1)
  | .trap h n => some (fmtX 0xE1 h 0 0 0 n.toNat 0)
  | .brk h n => some (fmtX 0xE1 h 0 0 0 n.toNat 1)
  | .resume h => some (fmtX 0xE2 h 0 0 0 0 0)
  | .resumeNext h => some (fmtX 0xE2 h 0 0 0 0 1)
  | .abort h => some (fmtX 0xE2 h 0 0 0 0 2)
  | .tlbinv h k => some (fmtX 0xE3 h 0 (tlbEnc k).1 0 (tlbEnc k).2 0)
  | .ctxsv h d a c => some (fmtX 0xE4 h d a 0 c 0)
  | .ctxld h d a c => some (fmtX 0xE4 h d a 0 c 1)
  | .smap h d a n => some (fmtX 0xE5 h d a 0 n.toNat 0)
  | .pclr h (.scalar d) => some (fmtA 0xE6 h d 0 0 0 0 0 0 0)
  | .pclr h (.vector d k) => some (fmtA 0xE6 h d 0 0 0 1 k 0 0)
  | _ => none

/-! ### The decoder -/

/-- The checks of R52 in order: the first unassigned selector decides; otherwise every offending
bit of the reserved fields and values is marked. -/
def form (op : Nat) (sels : List (Bool × Nat)) (res : List Nat) (i : Instr) : Decoded :=
  match sels.find? (fun p => p.1) with
  | some p => .illegal (op + 256 * p.2)
  | none =>
    let m := res.foldl (fun x y => x ||| y) 0
    if m = 0 then .instr i else .reserved m

/-- An unassigned value of the function selector. -/
def noFn (op v : Nat) : Decoded := .illegal (op + 256 * v)

/-- The set bits of an unused field (R42). -/
def unused (w lo n : Nat) : Nat := field w lo n * 2 ^ lo

/-- A field that holds a reserved value, marked whole (R51). -/
def resv (lo n : Nat) (bad : Bool) : Nat := if bad then (2 ^ n - 1) * 2 ^ lo else 0

/-- A register field of a file of the given size, starting a run of the given length (R41). -/
def regf (w lo size run : Nat) : Nat := resv lo 6 (size < field w lo 6 + run)

/-- A type outside the accepted ones is unassigned (R49). -/
def tyBad (l : List Ty) (c : Nat) : Bool × Nat :=
  (match tyOf c with | some t => !(l.contains t) | none => true, c)

/-- The type of an accepted code. -/
def tyGet (c : Nat) : Ty := (tyOf c).getD .i8

def f5 (w lo : Nat) : Fin 32 := Fin.ofNat 32 (field w lo 6)
def f4 (w lo : Nat) : Fin 16 := Fin.ofNat 16 (field w lo 6)
def f3 (w lo : Nat) : Fin 8 := Fin.ofNat 8 (field w lo 6)

def hdrOf (w : Nat) : Hdr := ⟨field w 55 1 == 1, Fin.ofNat 16 (field w 51 4)⟩

/-- The vector register or broadcast scalar that MOD<0> selects (R179). -/
def vopOf (w lo sb : Nat) : VOp := if sb = 1 then .scal (f5 w lo) else .vec (f5 w lo)

def clausesOf (w : Nat) : Clauses :=
  ⟨Fin.ofNat 16 (field w 15 4), Fin.ofNat 8 (field w 12 3), Fin.ofNat 16 (field w 8 4), field w 7 1 == 1⟩

/-- The reserved values of the clauses (R47). WQ without WN and SQ without SE are marked whole, as a reserved value of the
field: the model's choice (log 10). -/
def clausesRes (w : Nat) : List Nat :=
  [resv 15 4 (field w 12 3 == 0 && field w 15 4 != 0), resv 8 4 (field w 7 1 == 0 && field w 8 4 != 0)]

def addrOf (w : Nat) : AddrArg := ⟨f5 w 39, f5 w 33, BitVec.ofNat 20 (field w 13 20)⟩

def attrOf (w : Nat) : MemAttr :=
  ⟨Fin.ofNat 5 (field w 7 3), Fin.ofNat 4 (field w 5 2), Fin.ofNat 4 (field w 3 2)⟩

/-- Format A without C, K and MOD. -/
def decA3 (op w : Nat) (sels : List (Bool × Nat)) (i : Instr) : Decoded :=
  form op sels [regf w 45 32 1, regf w 39 32 1, regf w 33 32 1, unused w 27 6, unused w 17 3, unused w 0 12] i

/-- OP 0x01 (R105). -/
def decArith (w : Nat) (h : Hdr) : Decoded :=
  let d := f5 w 45; let a := f5 w 39; let b := f5 w 33
  let t := tyGet (field w 12 5)
  let st := field w 0 1 == 1
  let go := fun (satOk : Bool) (i : Instr) =>
    form 1 [tyBad tyInts (field w 12 5)]
      [regf w 45 32 1, regf w 39 32 1, regf w 33 32 1, unused w 27 6, unused w 17 3, unused w 1 11,
       resv 0 1 (st && !satOk)] i
  match field w 20 7 with
  | 0 => go true (.add h d a b t st)
  | 1 => go true (.sub h d a b t st)
  | 2 => go true (.mul h d a b t st)
  | 3 => go false (.mulh h d a b t)
  | 4 => go false (.div h d a b t)
  | 5 => go false (.rem h d a b t)
  | 6 => go false (.min h d a b t)
  | 7 => go false (.max h d a b t)
  | v => noFn 1 v

/-- OP 0x02 (R107). -/
def decLogic (w : Nat) (h : Hdr) : Decoded :=
  let d := f5 w 45; let a := f5 w 39; let b := f5 w 33
  let t := tyGet (field w 12 5)
  let go := decA3 2 w [tyBad tyInts (field w 12 5)]
  match field w 20 7 with
  | 0 => go (.and h d a b t)
  | 1 => go (.or h d a b t)
  | 2 => go (.xor h d a b t)
  | 3 => go (.andn h d a b t)
  | 4 => go (.shl h d a b t)
  | 5 => go (.shr h d a b t)
  | 6 => go (.sar h d a b t)
  | 7 => go (.rol h d a b t)
  | v => noFn 2 v

/-- OP 0x03 (R113). For the reserved combination D = C ≠ 0 the mask of cause 0x02 has both fields whole; the spec does
not say which bits it has (DESIGN CHOICE, log 58). -/
def decCmp (w : Nat) (h : Hdr) : Decoded :=
  let v := field w 20 7
  let c := field w 27 6
  let same := c != 0 && field w 45 6 == c
  form 3 [(5 < v, v), tyBad tyInts (field w 12 5)]
    [regf w 45 16 1, regf w 27 16 1, regf w 39 32 1, regf w 33 32 1, resv 45 6 same, resv 27 6 same,
     unused w 17 3, unused w 0 12]
    (.cmp h (condOf v) (f4 w 45) (f4 w 27) (f5 w 39) (f5 w 33) (tyGet (field w 12 5)))

/-- OP 0x04 (R108, R109). -/
def decBits (w : Nat) (h : Hdr) : Decoded :=
  let d := f5 w 45; let a := f5 w 39
  let t := tyGet (field w 12 5)
  let go := fun (l : List Ty) (i : Instr) =>
    form 4 [tyBad l (field w 12 5)]
      [regf w 45 32 1, regf w 39 32 1, unused w 33 6, unused w 27 6, unused w 17 3, unused w 0 12] i
  match field w 20 7 with
  | 0 => go tyInts (.clz h d a t)
  | 1 => go tyInts (.ctz h d a t)
  | 2 => go tyInts (.popc h d a t)
  | 3 => go tyBswap (.bswap h d a t)
  | 4 => form 4 [(field w 12 5 != 0, field w 12 5)]
      [regf w 45 32 1, regf w 39 32 1, unused w 33 6, unused w 27 6, unused w 17 3, unused w 6 6]
      (.sext h d a (Fin.ofNat 64 (field w 0 6)))
  | v => noFn 4 v

/-- OP 0x05 (R110). -/
def decImm (w : Nat) (h : Hdr) : Decoded :=
  let d := f5 w 45; let a := f5 w 39
  let i := BitVec.ofNat 32 (field w 7 32)
  let n := Fin.ofNat 64 (field w 7 6)
  let go := form 5 [] [regf w 45 32 1, regf w 39 32 1]
  let gosh := form 5 [] [regf w 45 32 1, regf w 39 32 1, unused w 13 26]
  match field w 0 7 with
  | 0 => go (.addi h d a i)
  | 1 => go (.muli h d a i)
  | 2 => go (.andi h d a i)
  | 3 => go (.ori h d a i)
  | 4 => go (.xori h d a i)
  | 5 => gosh (.shli h d a n)
  | 6 => gosh (.shri h d a n)
  | 7 => gosh (.sari h d a n)
  | v => noFn 5 v

/-- OP 0x06 (R114). -/
def decCmpi (w : Nat) (h : Hdr) : Decoded :=
  let v := field w 0 7
  form 6 [(63 < v || 5 < v % 8, v)] [regf w 45 16 1, regf w 39 32 1]
    (.cmpi h (condOf (v % 8)) (f4 w 45) (f5 w 39) (tyGet (v / 8)) (BitVec.ofNat 32 (field w 7 32)))

/-- OP 0x0B (R116). -/
def decMov (w : Nat) (h : Hdr) : Decoded :=
  let go := fun (nd na : Nat) (i : Instr) =>
    form 0x0B [(field w 12 5 != 0, field w 12 5)]
      [regf w 45 nd 1, regf w 39 na 1, unused w 33 6, unused w 27 6, unused w 17 3, unused w 0 12] i
  match field w 20 7 with
  | 0 => go 32 32 (.movSS h (f5 w 45) (f5 w 39))
  | 1 => go 16 32 (.movPS h (f4 w 45) (f5 w 39))
  | 2 => go 32 16 (.movSP h (f5 w 45) (f4 w 39))
  | 3 => go 8 32 (.movKS h (f3 w 45) (f5 w 39))
  | 4 => go 32 8 (.movSK h (f5 w 45) (f3 w 39))
  | 5 => go 8 8 (.movKK h (f3 w 45) (f3 w 39))
  | v => noFn 0x0B v

/-- OP 0x22 and 0x23 (R121, R118). -/
def decJmp (w : Nat) (h : Hdr) : Decoded :=
  let ty := (field w 12 5 != 0, field w 12 5)
  let rest := [unused w 33 6, unused w 27 6, unused w 17 3, unused w 0 12]
  match field w 20 7 with
  | 0 => form 0x22 [ty] (regf w 45 32 1 :: regf w 39 32 1 :: rest) (.jmp h (f5 w 45) (f5 w 39))
  | 1 => form 0x22 [ty] (unused w 45 6 :: regf w 39 32 1 :: rest) (.ret h (f5 w 39))
  | v => noFn 0x22 v

def decPred (w : Nat) (h : Hdr) : Decoded :=
  let ty := (field w 12 5 != 0, field w 12 5)
  let d := f4 w 45; let a := f4 w 39; let b := f4 w 33
  let x := field w 0 1 == 1; let y := field w 1 1 == 1
  let two := form 0x23 [ty] [regf w 45 16 1, regf w 39 16 1, regf w 33 16 1, unused w 27 6, unused w 17 3,
    unused w 2 10]
  match field w 20 7 with
  | 0 => form 0x23 [ty] [regf w 45 16 1, unused w 39 6, unused w 33 6, unused w 27 6, unused w 17 3,
      unused w 1 11] (.pset h d x)
  | 1 => two (.pand h d a b x y)
  | 2 => two (.por h d a b x y)
  | 3 => two (.pxor h d a b x y)
  | 4 => form 0x23 [ty] [regf w 45 16 1, regf w 39 16 1, unused w 33 6, unused w 27 6, unused w 17 3,
      unused w 0 12] (.pnot h d a)
  | v => noFn 0x23 v

/-- OP 0x20 (R119). A field A that is not 0 where CP is 0 is marked whole, as a reserved value: the model's choice (log 10). -/
def decBra (w : Nat) (h : Hdr) : Decoded :=
  let cp := field w 40 5
  form 0x20 [(field w 0 8 != 0, field w 0 8)]
    [regf w 45 32 1, resv 40 5 (7 < cp), resv 45 6 (cp == 0 && field w 45 6 != 0)]
    (.bra h (braOf cp) (f5 w 45) (BitVec.ofNat 32 (field w 8 32)))

/-- OP 0x21 (R120). -/
def decCall (w : Nat) (h : Hdr) : Decoded :=
  form 0x21 [(field w 0 8 != 0, field w 0 8)] [regf w 45 32 1, unused w 40 5]
    (.call h (f5 w 45) (BitVec.ofNat 32 (field w 8 32)))

/-- The parts of format E that every entry checks: QN (R42), IMM12 bits from lo up, the clauses. -/
def eRes (w lo : Nat) (qn : Bool) : List Nat :=
  [unused w (21 + lo) (12 - lo), if qn then 0 else unused w 19 2] ++ clausesRes w

/-- The scalar or vector operand of an edge instruction (R159). -/
def eregOf (w : Nat) : EReg := if field w 32 1 = 1 then .vec (f5 w 45) else .scal (f5 w 45)

/-- The fields of epop, epeek and epush. -/
def edgeRes (w : Nat) : List Nat :=
  [regf w 45 32 1, regf w 39 16 1, unused w 27 5, unused w 19 2,
   resv 21 6 (field w 32 1 == 0 && field w 21 6 != 0)] ++ clausesRes w

/-- OP 0x30 to 0x32 (R159 to R162). On the management core a vector form is unassigned (R53). -/
def decEdge (mgmt : Bool) (op w : Nat) (h : Hdr) : Decoded :=
  let c := clausesOf w
  let n := Fin.ofNat 64 (field w 21 6)
  let fn := field w 0 7
  let vec := (mgmt && field w 32 1 == 1, fn)
  match op, fn with
  | 0x30, 0 => form op [vec] (unused w 33 6 :: edgeRes w) (.epop h (eregOf w) (f4 w 39) n c)
  | 0x30, 1 => form op [vec] (regf w 33 32 1 :: edgeRes w) (.epeek h (eregOf w) (f4 w 39) (f5 w 33) n c)
  | 0x31, 0 => form op [vec] (unused w 33 6 :: edgeRes w) (.epush h (eregOf w) (f4 w 39) n c)
  | 0x32, 0 => form op [] ([unused w 45 6, regf w 39 16 1, unused w 33 6] ++ eRes w 0 false) (.eeos h (f4 w 39) c)
  | 0x32, 1 => form op [] ([regf w 45 32 1, regf w 39 16 1, unused w 33 6] ++ eRes w 0 false)
      (.estat h (f5 w 45) (f4 w 39) c)
  | _, v => noFn op v

/-- OP 0x33 (R163). -/
def decTq (w : Nat) (h : Hdr) : Decoded :=
  let c := clausesOf w
  match field w 0 7 with
  | 0 => form 0x33 [] ([unused w 45 6, regf w 39 16 1, unused w 33 6, resv 21 6 (field w 21 6 == 0)] ++ eRes w 6 false)
      (.tqsig h (f4 w 39) (Fin.ofNat 64 (field w 21 6)) c)
  | 1 => form 0x33 [] ([unused w 45 6, unused w 39 6, unused w 33 6, resv 12 3 (field w 12 3 == 0)] ++ eRes w 0 false)
      (.tqwait h c)
  | 2 => form 0x33 [] ([regf w 45 32 1, regf w 39 16 1, unused w 33 6] ++ eRes w 0 false)
      (.tqrd h (f5 w 45) (f4 w 39) c)
  | v => noFn 0x33 v

/-- A format X word: SYS12 unused (a selector, R42), and which of D, A and IMM20 bits are unused. -/
def xform (op w : Nat) (res : List Nat) (i : Instr) : Decoded :=
  form op [(field w 27 12 != 0, field w 27 12)] res i

/-- OP 0x34 (R165, R166). -/
def decEnd (w : Nat) (h : Hdr) : Decoded :=
  match field w 0 7 with
  | 0 => xform 0x34 w [unused w 45 6, unused w 39 6, unused w 7 20] (.endF h)
  | 1 => xform 0x34 w [unused w 45 6, regf w 39 32 1, unused w 7 20] (.actena h (f5 w 39))
  | 2 => xform 0x34 w [unused w 45 6, regf w 39 32 1, unused w 7 20] (.actdis h (f5 w 39))
  | v => noFn 0x34 v

/-- OP 0x38 to 0x3B (Table 5.13, R171, R173). -/
def decGroup (op w : Nat) (h : Hdr) : Decoded :=
  let c := clausesOf w
  let x := f5 w 45; let y := f5 w 39; let z := f5 w 33
  let xy := [regf w 45 32 1, regf w 39 32 1, unused w 33 6]
  match op, field w 0 7 with
  | 0x38, 0 => form op [] (xy ++ eRes w 0 false) (.gjoin h x y c)
  | 0x38, 1 => form op [] ([unused w 45 6, regf w 39 32 1, unused w 33 6] ++ eRes w 1 false)
      (.gleave h (field w 21 1 == 1) y c)
  | 0x39, 0 => form op [] (xy ++ eRes w 0 false) (.garrive h x y c)
  | 0x39, 1 => form op [] ([unused w 45 6, regf w 39 32 1, regf w 33 32 1] ++ eRes w 0 false) (.gwait h y z c)
  | 0x39, 2 => form op [] (xy ++ eRes w 0 false) (.gbar h x y c)
  | 0x3B, 0 => form op [] (xy ++ eRes w 0 false) (.launch h x y c)
  | _, v => noFn op v

def decGred (w : Nat) (h : Hdr) : Decoded :=
  let v := field w 0 7
  let t := field w 21 5
  form 0x3A [(5 < v, v), tyBad tyGred t, (t == 16 && 2 < v, t)]
    ([regf w 45 32 1, regf w 39 32 1, regf w 33 32 1] ++ eRes w 5 false)
    (.gred h (gredOf v) (tyGet t) (f5 w 45) (f5 w 39) (f5 w 33) (clausesOf w))

/-- OP 0x40 (R183). -/
def decVInt (w : Nat) (h : Hdr) : Decoded :=
  let d := f5 w 45; let a := f5 w 39
  let b := vopOf w 33 (field w 0 1)
  let k := Fin.ofNat 8 (field w 17 3)
  let t := tyGet (field w 12 5)
  let st := field w 1 1 == 1
  let go := fun (satOk two : Bool) (i : Instr) =>
    form 0x40 [tyBad tyInts (field w 12 5)]
      ([regf w 45 32 1, regf w 39 32 1, unused w 27 6, unused w 2 10, resv 1 1 (st && !satOk)] ++
       (if two then [regf w 33 32 1] else [unused w 33 6, unused w 0 1])) i
  match field w 20 7 with
  | 0 => go true true (.vadd h d a b k t st)
  | 1 => go true true (.vsub h d a b k t st)
  | 2 => go true true (.vmul h d a b k t st)
  | 3 => go false true (.vmulh h d a b k t)
  | 4 => go false true (.vmin h d a b k t)
  | 5 => go false true (.vmax h d a b k t)
  | 6 => go true false (.vabs h d a k t st)
  | 7 => go true false (.vneg h d a k t st)
  | v => noFn 0x40 v

/-- OP 0x41 (R184). -/
def decVFp (w : Nat) (h : Hdr) : Decoded :=
  let d := f5 w 45; let a := f5 w 39
  let b := vopOf w 33 (field w 0 1)
  let k := Fin.ofNat 8 (field w 17 3)
  let t := tyGet (field w 12 5)
  let go := fun (two : Bool) (i : Instr) =>
    form 0x41 [tyBad tyFloats (field w 12 5)]
      ([regf w 45 32 1, regf w 39 32 1, unused w 27 6, unused w 1 11] ++
       (if two then [regf w 33 32 1] else [unused w 33 6, unused w 0 1])) i
  match field w 20 7 with
  | 0 => go true (.vaddFp h d a b k t)
  | 1 => go true (.vsubFp h d a b k t)
  | 2 => go true (.vmulFp h d a b k t)
  | 4 => go true (.vminFp h d a b k t)
  | 5 => go true (.vmaxFp h d a b k t)
  | 6 => go false (.vabsFp h d a k t)
  | 7 => go false (.vnegFp h d a k t)
  | v => noFn 0x41 v

/-- OP 0x42 (R185). -/
def decVFma (w : Nat) (h : Hdr) : Decoded :=
  let d := f5 w 45; let a := f5 w 39; let c := f5 w 27
  let b := vopOf w 33 (field w 0 1)
  let k := Fin.ofNat 8 (field w 17 3)
  let t := tyGet (field w 12 5)
  let go := fun (l : List Ty) (i : Instr) =>
    form 0x42 [tyBad l (field w 12 5)]
      [regf w 45 32 1, regf w 39 32 1, regf w 33 32 1, regf w 27 32 1, unused w 1 11] i
  match field w 20 7 with
  | 0 => go tyFloats (.vfma h d a b c k t)
  | 1 => go tyFloats (.vfms h d a b c k t)
  | 2 => go tyFloats (.vfnma h d a b c k t)
  | 3 => go tyHalf (.vdot2 h d a b c k t)
  | 4 => go tyDot4 (.vdot4 h d a b c k t)
  | v => noFn 0x42 v

/-- OP 0x43 (R186). -/
def decVCmp (w : Nat) (h : Hdr) : Decoded :=
  let v := field w 20 7
  let t := field w 12 5
  form 0x43 [(6 < v, v), tyBad tyCmp t, (v == 6 && t != 16, t)]
    [regf w 45 8 1, regf w 39 32 1, regf w 33 32 1, unused w 27 6, unused w 1 11]
    (.vcmp h (vcondOf v) (f3 w 45) (f5 w 39) (vopOf w 33 (field w 0 1)) (Fin.ofNat 8 (field w 17 3)) (tyGet t))

/-- OP 0x44 (R187). -/
def decVLogic (w : Nat) (h : Hdr) : Decoded :=
  let d := f5 w 45; let a := f5 w 39
  let b := vopOf w 33 (field w 0 1)
  let k := Fin.ofNat 8 (field w 17 3)
  let t := tyGet (field w 12 5)
  let go := fun (l : List Ty) (i : Instr) =>
    form 0x44 [tyBad l (field w 12 5)]
      [regf w 45 32 1, regf w 39 32 1, regf w 33 32 1, unused w 27 6, unused w 1 11] i
  match field w 20 7 with
  | 0 => go tyLogic (.vand h d a b k t)
  | 1 => go tyLogic (.vor h d a b k t)
  | 2 => go tyLogic (.vxor h d a b k t)
  | 3 => go tyLogic (.vandn h d a b k t)
  | 4 => go tyInts (.vshl h d a b k t)
  | 5 => go tyInts (.vshr h d a b k t)
  | 6 => go tyInts (.vsar h d a b k t)
  | 7 => form 0x44 [tyBad tyLogic (field w 12 5)]
      [regf w 45 32 1, regf w 39 32 1, regf w 33 32 1, regf w 27 8 1, unused w 17 3, unused w 1 11]
      (.vsel h d (f3 w 27) a b t)
  | v => noFn 0x44 v

/-- OP 0x45 (R188). -/
def decVCvt (w : Nat) (h : Hdr) : Decoded :=
  let t := field w 12 5; let s := field w 0 5; let p := field w 5 4
  form 0x45 [(field w 20 7 != 0, field w 20 7), tyBad tyCvtDst t, tyBad tyCvtSrc s, (s == t, s)]
    [regf w 45 32 1, regf w 39 32 1, unused w 33 6, unused w 27 6, unused w 9 3,
     resv 5 4 (tyRatio (tyGet t) (tyGet s) ≤ p)]
    (.vcvt h (f5 w 45) (f5 w 39) (Fin.ofNat 8 (field w 17 3)) (tyGet t) (tyGet s) (Fin.ofNat 16 p))

/-- OP 0x46 (R189). -/
def decVMx (w : Nat) (h : Hdr) : Decoded :=
  let t := field w 12 5; let s := field w 0 5; let p := field w 5 4
  let res := [regf w 45 32 1, regf w 39 32 1, unused w 33 6, regf w 27 32 1, unused w 9 3,
    resv 5 4 (tyRatio (tyGet t) (tyGet s) ≤ p)]
  match field w 20 7 with
  | 0 => form 0x46 [tyBad tyMx t, tyBad tyQmxSrc s] (unused w 17 3 :: res)
      (.vqmx h (f5 w 45) (f5 w 39) (f5 w 27) (tyGet t) (tyGet s) (Fin.ofNat 16 p))
  | 1 => form 0x46 [tyBad tyFloats t, tyBad tyMx s] res
      (.vdqmx h (f5 w 45) (f5 w 39) (f5 w 27) (Fin.ofNat 8 (field w 17 3)) (tyGet t) (tyGet s) (Fin.ofNat 16 p))
  | v => noFn 0x46 v

/-- OP 0x47 (R190). -/
def decVTrans (w : Nat) (h : Hdr) : Decoded :=
  let d := f5 w 45; let a := f5 w 39; let k := Fin.ofNat 8 (field w 17 3)
  let go := form 0x47 [(field w 12 5 != 16, field w 12 5)]
    [regf w 45 32 1, regf w 39 32 1, unused w 33 6, unused w 27 6, unused w 0 12]
  match field w 20 7 with
  | 0 => go (.vexp2 h d a k)
  | 1 => go (.vlog2 h d a k)
  | 2 => go (.vrcp h d a k)
  | 3 => go (.vrsqrt h d a k)
  | 4 => go (.vsqrt h d a k)
  | v => noFn 0x47 v

/-- OP 0x48 (R191). -/
def decVPerm (w : Nat) (h : Hdr) : Decoded :=
  let d := f5 w 45; let a := f5 w 39; let b := f5 w 33; let c := f5 w 27
  let k := Fin.ofNat 8 (field w 17 3)
  let t := tyGet (field w 12 5)
  let i := Fin.ofNat 64 (field w 0 6)
  let ty := tyBad tyLogic (field w 12 5)
  let da := [regf w 45 32 1, regf w 39 32 1]
  let two := form 0x48 [ty] (da ++ [regf w 33 32 1, unused w 27 6, unused w 0 12])
  let one := form 0x48 [ty] (da ++ [unused w 33 6, unused w 27 6, unused w 0 12])
  let lane := fun (l : List Ty) (x : Instr) =>
    form 0x48 [tyBad l (field w 12 5)]
      (da ++ [unused w 33 6, unused w 27 6, unused w 17 3, unused w 6 6,
        resv 0 6 (2048 / tyWidth t ≤ field w 0 6)]) x
  match field w 20 7 with
  | 0 => two (.vperm h d a b k t)
  | 1 => form 0x48 [ty] (da ++ [regf w 33 32 1, regf w 27 32 1, unused w 0 12]) (.vperm2 h d a b c k t)
  | 2 => one (.vbcast h d a k t)
  | 3 => two (.vbcastl h d a b k t)
  | 4 => two (.vrot h d a b k t)
  | 5 => one (.vcompress h d a k t)
  | 6 => one (.vexpand h d a k t)
  | 7 => lane tyExt (.vext h d a i t)
  | 8 => lane tyLogic (.vins h d a i t)
  | v => noFn 0x48 v

/-- OP 0x49 (R192). -/
def decVRed (w : Nat) (h : Hdr) : Decoded :=
  let d := f5 w 45; let a := f5 w 39; let k := Fin.ofNat 8 (field w 17 3)
  let t := tyGet (field w 12 5)
  let go := fun (l : List Ty) (i : Instr) =>
    form 0x49 [tyBad l (field w 12 5)]
      [regf w 45 32 1, regf w 39 32 1, unused w 33 6, unused w 27 6, unused w 0 12] i
  match field w 20 7 with
  | 0 => go tyCmp (.vredsum h d a k t)
  | 1 => go tyCmp (.vredmin h d a k t)
  | 2 => go tyCmp (.vredmax h d a k t)
  | 3 => go tyLogic (.vredand h d a k t)
  | 4 => go tyLogic (.vredor h d a k t)
  | 5 => go tyLogic (.vredxor h d a k t)
  | v => noFn 0x49 v

/-- OP 0x4A (R193). -/
def decVScan (w : Nat) (h : Hdr) : Decoded :=
  let v := field w 20 7
  let t := field w 12 5
  let st := field w 1 1 == 1
  form 0x4A [(2 < v, v), tyBad tyScan t]
    [regf w 45 32 1, regf w 39 32 1, unused w 33 6, unused w 27 6, unused w 2 10, unused w 0 1,
     resv 1 1 (st && (v != 0 || t == 16))]
    (.vscan h (scanOf v) (f5 w 45) (f5 w 39) (Fin.ofNat 8 (field w 17 3)) (tyGet t) st)

/-- OP 0x4B (R194). -/
def decVArg (w : Nat) (h : Hdr) : Decoded :=
  let d := f5 w 45; let a := f5 w 39; let k := Fin.ofNat 8 (field w 17 3)
  let t := tyGet (field w 12 5)
  let go := form 0x4B [tyBad tyScan (field w 12 5)]
    [regf w 45 32 1, regf w 39 32 1, unused w 33 6, unused w 27 6, unused w 0 12]
  match field w 20 7 with
  | 0 => go (.vargmax h d a k t)
  | 1 => go (.vargmin h d a k t)
  | v => noFn 0x4B v

/-- OP 0x4C (R195): VC = 1 names a vector register of counters. -/
def decVRng (w : Nat) (h : Hdr) : Decoded :=
  form 0x4C [(field w 20 7 != 0, field w 20 7), tyBad tyRng (field w 12 5)]
    [regf w 45 32 1, regf w 39 32 1, regf w 33 32 1, unused w 27 6, unused w 1 11]
    (.vrng h (f5 w 45) (vopOf w 39 (1 - field w 0 1)) (f5 w 33) (Fin.ofNat 8 (field w 17 3))
      (tyGet (field w 12 5)))

/-- OP 0x4D (R196). -/
def decVPtest (w : Nat) (h : Hdr) : Decoded :=
  form 0x4D [(field w 20 7 != 0, field w 20 7), (field w 12 5 != 0, field w 12 5)]
    [regf w 45 8 1, regf w 39 32 1, unused w 33 6, unused w 27 6, unused w 0 12]
    (.vptest h (f3 w 45) (f5 w 39) (Fin.ofNat 8 (field w 17 3)))

/-- OP 0x4E (R197). -/
def decVImm (w : Nat) (h : Hdr) : Decoded :=
  let i := BitVec.ofNat 32 (field w 7 32)
  let go := form 0x4E [] [regf w 45 32 1, unused w 39 6]
  match field w 0 7 with
  | 0 => go (.vldi h (f5 w 45) i)
  | 1 => go (.vldiI64 h (f5 w 45) i)
  | 2 => go (.viota h (f5 w 45) i)
  | v => noFn 0x4E v

/-- OP 0x4F (R198). -/
def decMask (w : Nat) (h : Hdr) : Decoded :=
  let ty := (field w 12 5 != 0, field w 12 5)
  let rest := [unused w 27 6, unused w 17 3, unused w 0 12]
  let two := form 0x4F [ty] (regf w 45 8 1 :: regf w 39 8 1 :: regf w 33 8 1 :: rest)
  let one := fun (n : Nat) (i : Instr) =>
    form 0x4F [ty] (regf w 45 n 1 :: regf w 39 8 1 :: unused w 33 6 :: rest) i
  match field w 20 7 with
  | 0 => two (.kand h (f3 w 45) (f3 w 39) (f3 w 33))
  | 1 => two (.kor h (f3 w 45) (f3 w 39) (f3 w 33))
  | 2 => two (.kxor h (f3 w 45) (f3 w 39) (f3 w 33))
  | 3 => two (.kandn h (f3 w 45) (f3 w 39) (f3 w 33))
  | 4 => one 8 (.knot h (f3 w 45) (f3 w 39))
  | 5 => one 32 (.kpopc h (f5 w 45) (f3 w 39))
  | 6 => one 32 (.kffs h (f5 w 45) (f3 w 39))
  | v => noFn 0x4F v

/-- OP 0x70 (R220). -/
def decHandle (w : Nat) (h : Hdr) : Decoded :=
  let g := field w 7 1 == 1
  match field w 0 7 with
  | 0 => xform 0x70 w [regf w 45 32 1, regf w 39 32 1, unused w 8 19] (.hdef h (f5 w 45) (f5 w 39) g)
  | 1 => xform 0x70 w [regf w 45 16 1, regf w 39 32 1]
      (.hld h (f4 w 45) (f5 w 39) (BitVec.ofNat 20 (field w 7 20)))
  | 2 => xform 0x70 w [regf w 45 32 1, regf w 39 32 1, unused w 8 19] (.hst h (f5 w 45) (f5 w 39) g)
  | 3 => xform 0x70 w [regf w 45 16 1, resv 45 6 (g && field w 45 6 != 0), unused w 39 6, unused w 8 19]
      (.hinv h (f4 w 45) g)
  | v => noFn 0x70 v

/-- OP 0x71 to 0x74 (R221). With SC = 0 the SR of ldtb and sttb is accepted whatever it holds: the spec asks for SR = 0
in ldt and stt alone (DESIGN CHOICE, log 57). -/
def decTensor (op w : Nat) (h : Hdr) : Decoded :=
  let d := f5 w 45; let hr := Fin.ofNat 16 (field w 41 4); let cb := f5 w 35
  let t := tyGet (field w 30 5); let k := Fin.ofNat 8 (field w 27 3); let cp := Fin.ofNat 4 (field w 0 2)
  let sc := field w 8 1 == 1; let sr := Fin.ofNat 31 (field w 2 6)
  let go := fun (res : List Nat) (i : Instr) =>
    form op [tyBad tyCvtSrc (field w 30 5)] ([regf w 45 32 1, regf w 35 32 1, unused w 9 18] ++ res) i
  match op with
  | 0x71 => go [unused w 2 7] (.ldt h d hr cb t k cp)
  | 0x72 => go [unused w 2 7] (.stt h d hr cb t k cp)
  | 0x73 => go [resv 2 6 (30 < field w 2 6)] (.ldtb h d hr cb t k cp sc sr)
  | _ => go [resv 2 6 (30 < field w 2 6)] (.sttb h d hr cb t k cp sc sr)

/-- OP 0x75 (R223). -/
def decRelayout (w : Nat) (h : Hdr) : Decoded :=
  let ct := field w 19 1 == 1; let nb := field w 20 1 == 1
  form 0x75 [(field w 0 7 != 0, field w 0 7), (field w 27 12 != 0, field w 27 12)]
    [regf w 45 32 1, regf w 39 32 1, resv 11 4 (7 < field w 11 4), resv 15 4 (!ct && field w 15 4 != 0),
     resv 45 6 (!nb && field w 45 6 != 0), unused w 21 6]
    (.hrelayout h (f5 w 45) (f5 w 39) (Fin.ofNat 16 (field w 7 4)) (Fin.ofNat 8 (field w 11 4))
      (Fin.ofNat 16 (field w 15 4)) ct nb)

/-- OP 0x76 (R224). -/
def decHwait (w : Nat) (h : Hdr) : Decoded :=
  let hr := Fin.ofNat 16 (field w 7 4)
  match field w 0 7 with
  | 0 => xform 0x76 w [unused w 45 6, unused w 39 6, unused w 11 16] (.hwait h hr)
  | 1 => xform 0x76 w [regf w 45 32 1, unused w 39 6, unused w 11 16] (.hstat h (f5 w 45) hr)
  | v => noFn 0x76 v

/-- The operands of the product forms (R241). -/
def macOf (w : Nat) : MacArg :=
  ⟨f5 w 45, f5 w 39, f5 w 33, Fin.ofNat 4 (field w 21 2), Fin.ofNat 16 (field w 23 4),
   Fin.ofNat 16 (field w 27 4), Fin.ofNat 4 (field w 19 2)⟩

/-- OP 0x80 to 0x83 (R48, Table 8.8, R243). -/
def decMac (op w : Nat) (h : Hdr) : Decoded :=
  let v := field w 0 7
  let m := macOf w; let c := clausesOf w
  let res := [regf w 45 32 1, regf w 39 32 3, regf w 33 32 1] ++ eRes w 10 true
  match op with
  | 0x80 => form op [tyBad tyMma v] res (.mma h (tyGet v) m c)
  | 0x81 => form op [tyBad tyMx v] res (.mmx h (tyGet v) m c)
  | 0x82 => form op [(5 < v, v)] res (.mmi h (mmiOf v) m c)
  | _ =>
    if field w 5 2 = 0 then form op [((tyBad tyMma (v % 32)).1, v)] res (.mmaG h (tyGet (v % 32)) m c)
    else if field w 5 2 = 1 then form op [((tyBad tyMx (v % 32)).1, v)] res (.mmxG h (tyGet (v % 32)) m c)
    else noFn op v

/-- OP 0x84 to 0x87 (R242, R244, R246, R247, R249). -/
def decMat (op w : Nat) (h : Hdr) : Decoded :=
  let c := clausesOf w
  let x := f5 w 45; let y := f5 w 39
  let q := Fin.ofNat 4 (field w 19 2); let b := Fin.ofNat 4 (field w 21 2)
  let hr := Fin.ofNat 16 (field w 23 4)
  match op, field w 0 7 with
  | 0x84, 0 => form op [] ([unused w 45 6, unused w 39 6, unused w 33 6] ++ eRes w 2 true) (.mzero h b q c)
  | 0x84, 1 => form op [] ([unused w 45 6, regf w 39 32 1, unused w 33 6] ++ eRes w 2 true) (.mscaleRow h y b q c)
  | 0x84, 2 => form op [] ([unused w 45 6, regf w 39 32 1, unused w 33 6] ++ eRes w 2 true) (.mscaleCol h y b q c)
  | 0x85, 0 => form op [tyBad tyMld (field w 27 5)]
      ([regf w 45 32 2, unused w 39 6, unused w 33 6] ++ eRes w 11 true) (.mld h x b hr (tyGet (field w 27 5)) q c)
  | 0x85, 1 => form op [tyBad tyMst (field w 27 5)]
      ([regf w 45 32 2, unused w 39 6, unused w 33 6] ++ eRes w 11 true) (.mst h x b hr (tyGet (field w 27 5)) q c)
  | 0x85, 2 => form op [tyBad tyMrow (field w 23 5)]
      ([regf w 45 32 1, regf w 39 32 1, unused w 33 6, resv 28 1 (field w 28 1 == 1 && field w 23 5 != 24)] ++
        eRes w 8 true) (.mrow h x y b (tyGet (field w 23 5)) (field w 28 1 == 1) q c)
  | 0x86, 0 => form op []
      ([unused w 45 6, unused w 39 6, unused w 33 6, unused w 23 2,
        resv 25 4 (field w 25 4 != 0 && field w 21 2 != 3)] ++ eRes w 8 false)
      (.mcfg h b (Fin.ofNat 16 (field w 25 4)) c)
  | 0x86, 1 => form op []
      ([unused w 45 6, regf w 39 32 1, unused w 33 6, resv 21 2 (field w 25 2 < field w 21 2),
        resv 23 2 (field w 27 2 < field w 23 2)] ++ eRes w 8 true)
      (.mgang h y b (Fin.ofNat 4 (field w 23 2)) (Fin.ofNat 4 (field w 25 2)) (Fin.ofNat 4 (field w 27 2)) q c)
  | 0x86, 2 => form op [] ([unused w 45 6, unused w 39 6, unused w 33 6] ++ eRes w 0 true) (.mgangFree h q c)
  | 0x87, 0 => form op []
      ([regf w 45 32 1, regf w 39 32 1, resv 45 6 (field w 45 6 == field w 39 6),
        resv 39 6 (field w 45 6 == field w 39 6), unused w 33 6] ++ eRes w 0 true) (.msort h x y q c)
  | 0x87, 1 => form op []
      ([regf w 45 32 1, regf w 39 32 1, resv 45 6 (field w 45 6 == field w 39 6),
        resv 39 6 (field w 45 6 == field w 39 6), unused w 33 6] ++ eRes w 8 true)
      (.mtopk h x y (Fin.ofNat 64 (field w 21 6)) (field w 27 1 == 1) (field w 28 1 == 1) q c)
  | _, v => noFn op v

/-- OP 0x88 (R250). -/
def decMstat (w : Nat) (h : Hdr) : Decoded :=
  match field w 0 7 with
  | 0 => xform 0x88 w [regf w 45 32 1, unused w 39 6, unused w 9 18]
      (.mstat h (f5 w 45) (Fin.ofNat 4 (field w 7 2)))
  | v => noFn 0x88 v

/-- Format M: the register fields and the accepted SZ, ORD, SCOPE and CP values (Table 9.3). An
instruction that is no read-modify-write takes SCOPE 0 with ORD 0 (R266). -/
def mform (op w : Nat) (dRun : Nat) (szs ords cps : List Nat) (rmw : Bool) (i : Instr) : Decoded :=
  form op []
    [if dRun = 0 then unused w 45 6 else regf w 45 32 dRun, regf w 39 32 1, regf w 33 32 1,
     resv 10 3 (!(szs.contains (field w 10 3))), resv 5 2 (!(ords.contains (field w 5 2))),
     resv 3 2 (!(cps.contains (field w 3 2))),
     resv 7 3 (4 < field w 7 3 || (!rmw && field w 5 2 == 0 && field w 7 3 != 0))] i

/-- OP 0xA0 to 0xA3 (R266, R268, R269). -/
def decLdSt (op w : Nat) (h : Hdr) : Decoded :=
  let d := f5 w 45; let m := addrOf w; let t := attrOf w; let z := Fin.ofNat 4 (field w 10 3)
  match op, field w 0 3 with
  | 0xA0, 0 => mform op w 1 [0, 1, 2, 3] [0, 1] [0, 1, 2, 3] false (.ld h false d z m t)
  | 0xA0, 1 => mform op w 1 [0, 1, 2, 3] [0, 1] [0, 1, 2, 3] false (.ld h true d z m t)
  | 0xA1, 0 => mform op w 1 [0, 1, 2, 3] [0, 2] [0, 1, 2, 3] false (.st h d z m t)
  | 0xA2, 0 => mform op w 1 [4, 5, 6, 7] [0, 1] [0, 1, 2, 3] false (.vld h d z m t)
  | 0xA3, 0 => mform op w 1 [4, 5, 6, 7] [0, 2] [0, 1, 2, 3] false (.vst h d z m t)
  | _, v => noFn op v

/-- OP 0xA4 to 0xA7 (R266, R268 to R272). -/
def decScr (op w : Nat) (h : Hdr) : Decoded :=
  let d := f5 w 45; let m := addrOf w; let z := Fin.ofNat 4 (field w 10 3)
  let b8 := field w 10 3 == 3; let cp := Fin.ofNat 4 (field w 3 2)
  match op, field w 0 3 with
  | 0xA4, 0 => mform op w 1 [0, 1, 2, 3] [0] [0] false (.lds h false d z m)
  | 0xA4, 1 => mform op w 1 [0, 1, 2, 3] [0] [0] false (.lds h true d z m)
  | 0xA4, 2 => mform op w 1 [0, 1, 2, 3] [0] [0] false (.sts h d z m)
  | 0xA4, 3 => mform op w 1 [4, 5, 6, 7] [0] [0] false (.vlds h d z m)
  | 0xA4, 4 => mform op w 1 [4, 5, 6, 7] [0] [0] false (.vsts h d z m)
  | 0xA5, 0 => mform op w 1 [2, 3] [0] [0, 1, 2, 3] false (.vgath h d b8 m cp)
  | 0xA5, 1 => mform op w 2 [2, 3] [0] [0, 1, 2, 3] false (.vscat h d b8 m cp)
  | 0xA6, 0 => mform op w 1 [0, 1, 2, 3] [0] [0] false (.ldc h (.scalar false z) d m)
  | 0xA6, 1 => mform op w 1 [0, 1, 2, 3] [0] [0] false (.ldc h (.scalar true z) d m)
  | 0xA6, 2 => mform op w 1 [4, 5, 6, 7] [0] [0] false (.ldc h (.vector z) d m)
  | 0xA7, 0 => mform op w 0 [0, 1, 2, 3, 4, 5, 6, 7] [0] [0, 1, 2, 3] false
      (.pref h (Fin.ofNat 8 (field w 10 3)) m cp)
  | 0xA7, 1 => mform op w 0 [0, 1, 2, 3, 4, 5, 6, 7] [0] [0] false (.prefConst h (Fin.ofNat 8 (field w 10 3)) m)
  | _, v => noFn op v

/-- SZ values of an atomic operation (Table 9.4). -/
def atomSzs (fn : Nat) : List Nat := if fn = 1 then [1, 2] else [0, 1, 2, 3]

/-- OP 0xA8 to 0xAB (R266, R273 to R275). -/
def decAtom (op w : Nat) (h : Hdr) : Decoded :=
  let d := f5 w 45; let m := addrOf w; let t := attrOf w; let z := Fin.ofNat 4 (field w 10 3)
  let v := field w 0 3
  let sc := Fin.ofNat 5 (field w 7 3)
  match op with
  | 0xA8 => mform op w 1 (atomSzs v) [0, 1, 2, 3] [0, 1, 2] true (.atom h (atomOf v) d z m t)
  | 0xA9 => mform op w 1 (atomSzs v) [0, 2] [0, 1, 2] true (.red h (atomOf v) d z m t)
  | 0xAA =>
    if v = 0 then mform op w 2 [2, 3] [0, 1, 2, 3] [0, 1, 2] true (.cas h d (field w 10 3 == 3) m t)
    else noFn op v
  | _ =>
    match v with
    | 0 => mform op w 1 [2, 7] [0, 2] [0] true
        (.xadd h (if field w 10 3 = 7 then .vec d else .scal d) m sc (field w 5 2 == 2))
    | 1 => mform op w 1 [6] [0, 1] [0] true (.xrd h d m sc (field w 5 2 == 1))
    | 2 => mform op w 1 [6] [0, 1, 2, 3] [0] true (.xrdClr h d m sc (Fin.ofNat 4 (field w 5 2)))
    | v => noFn op v

/-- OP 0xC0 and 0xC1 (R296, R298). -/
def decFence (op w : Nat) (h : Hdr) : Decoded :=
  match op, field w 0 7 with
  | 0xC0, 0 => xform op w [unused w 45 6, unused w 39 6, unused w 12 15, resv 9 3 (4 < field w 9 3)]
      (.fence h (fenceOf (field w 7 2)) (Fin.ofNat 5 (field w 9 3)))
  | 0xC1, 0 => xform op w [unused w 45 6, unused w 39 6, unused w 7 20] (.cinv h)
  | 0xC1, 1 => xform op w [unused w 45 6, regf w 39 32 1, unused w 7 20] (.cinvLine h (f5 w 39))
  | _, v => noFn op v

/-- OP 0xC8 to 0xCE (Table 11.10, Table 12.11). -/
def decStream (op w : Nat) (h : Hdr) : Decoded :=
  let c := clausesOf w
  let x := f5 w 45; let y := f5 w 39; let z := f5 w 33; let sl := f4 w 39
  let wm := Fin.ofNat 16 (field w 21 4); let en := field w 25 1 == 1
  let wmR := resv 21 4 (!en && field w 21 4 != 0)
  let s3 := Fin.ofNat 8 (field w 21 3)
  match op, field w 0 7 with
  | 0xC8, 0 => form op [] ([regf w 45 32 1, regf w 39 16 1, unused w 33 6] ++ eRes w 0 false) (.sdef h x sl c)
  | 0xC9, 0 => form op [] ([unused w 45 6, regf w 39 16 1, regf w 33 32 1] ++ eRes w 0 false) (.sgo h sl z c)
  | 0xC9, 1 => form op [] ([unused w 45 6, regf w 39 16 1, unused w 33 6] ++ eRes w 0 false) (.sstop h sl c)
  | 0xCA, 0 => form op [] ([regf w 45 32 1, regf w 39 16 1, unused w 33 6] ++ eRes w 2 false)
      (.sstat h x sl (Fin.ofNat 4 (field w 21 2)) c)
  | 0xCB, 0 => form op [] ([regf w 45 32 1, regf w 39 16 1, unused w 33 6, wmR] ++ eRes w 5 false)
      (.carm h x sl wm en c)
  | 0xCB, 1 => form op [] ([unused w 45 6, regf w 39 16 1, unused w 33 6] ++ eRes w 0 false) (.cdis h sl c)
  | 0xCC, 0 => form op [] ([regf w 45 32 1, unused w 39 6, regf w 33 32 1, wmR] ++ eRes w 5 false)
      (.copy h x z wm en c)
  | 0xCD, 0 => form op [] ([regf w 45 32 1, regf w 39 32 1, unused w 33 6] ++ eRes w 4 false)
      (if field w 24 1 = 1 then .staloadUpd h x y s3 c else .staload h x y s3 c)
  | 0xCD, 1 => form op [] ([unused w 45 6, regf w 39 32 1, unused w 33 6] ++ eRes w 3 false) (.stafree h y s3 c)
  | 0xCE, 0 => form op []
      ([regf w 45 32 1, regf w 39 32 1, unused w 33 6, resv 24 5 (5 ≤ field w 24 5 && field w 24 5 < 8)] ++
        eRes w 8 false) (.stastat h x y s3 (Fin.ofNat 32 (field w 24 5)) c)
  | _, v => noFn op v

/-- OP 0xD8 to 0xDA (Table 13.8). -/
def decRegion (op w : Nat) (h : Hdr) : Decoded :=
  let c := clausesOf w
  let x := f5 w 45; let y := f5 w 39
  let only := [unused w 45 6, regf w 39 32 1, unused w 33 6]
  match op, field w 0 7 with
  | 0xD8, 0 => form op [] ([regf w 45 32 1, regf w 39 32 1, unused w 33 6] ++ eRes w 0 false) (.rgload h x y c)
  | 0xD8, 1 => form op [] (only ++ eRes w 1 false)
      (if field w 21 1 = 1 then .rgswapForce h y c else .rgswap h y c)
  | 0xD9, 0 => form op [] (only ++ eRes w 0 false) (.rgsave h y c)
  | 0xD9, 1 => form op [] (only ++ eRes w 0 false) (.rgrest h y c)
  | 0xDA, 0 => xform op w [unused w 45 6, regf w 39 32 1, resv 7 20 (field w 7 20 < 50 || 900 < field w 7 20)]
      (.rgclk h y (BitVec.ofNat 20 (field w 7 20)))
  | 0xDA, 1 => xform op w [unused w 45 6, regf w 39 32 1, unused w 8 19]
      (if field w 7 1 = 1 then .rgfrzDrain h y else .rgfrz h y)
  | 0xDA, 2 => xform op w [unused w 45 6, regf w 39 32 1, unused w 7 20] (.rgthaw h y)
  | 0xDA, 3 => xform op w [regf w 45 32 1, regf w 39 32 1, unused w 7 20] (.rgstat h x y)
  | _, v => noFn op v

/-- The scope of tlbinv and its reserved bits (R406). -/
def tlbOf (w : Nat) : TlbScope × List Nat :=
  let m := Fin.ofNat 128 (field w 9 7)
  match field w 7 2 with
  | 0 => (.va (f5 w 39) m, [regf w 39 32 1, unused w 16 11])
  | 1 => (.mctx m, [unused w 39 6, unused w 16 11])
  | 2 => (.part (Fin.ofNat 32 (field w 9 5)), [unused w 39 6, unused w 14 13])
  | _ => (.all, [unused w 39 6, unused w 9 18])

/-- OP 0xE0 to 0xE5 (R403 to R408). -/
def decSys (op w : Nat) (h : Hdr) : Decoded :=
  let sys := field w 27 12
  let imm := BitVec.ofNat 20 (field w 7 20)
  match op, field w 0 7 with
  | 0xE0, 0 => form op [(!sysAssigned sys, sys)] [regf w 45 32 1, unused w 39 6, unused w 7 20]
      (.mfs h (f5 w 45) (BitVec.ofNat 12 sys))
  | 0xE0, 1 => form op [(!sysAssigned sys, sys)] [unused w 45 6, regf w 39 32 1, unused w 7 20]
      (.mts h (f5 w 39) (BitVec.ofNat 12 sys))
  | 0xE1, 0 => xform op w [unused w 45 6, unused w 39 6] (.trap h imm)
  | 0xE1, 1 => xform op w [unused w 45 6, unused w 39 6] (.brk h imm)
  | 0xE2, 0 => xform op w [unused w 45 6, unused w 39 6, unused w 7 20] (.resume h)
  | 0xE2, 1 => xform op w [unused w 45 6, unused w 39 6, unused w 7 20] (.resumeNext h)
  | 0xE2, 2 => xform op w [unused w 45 6, unused w 39 6, unused w 7 20] (.abort h)
  | 0xE3, 0 => xform op w (unused w 45 6 :: (tlbOf w).2) (.tlbinv h (tlbOf w).1)
  | 0xE4, 0 => xform op w [regf w 45 32 1, regf w 39 32 1, unused w 9 18]
      (.ctxsv h (f5 w 45) (f5 w 39) (Fin.ofNat 4 (field w 7 2)))
  | 0xE4, 1 => xform op w [regf w 45 32 1, regf w 39 32 1, unused w 9 18]
      (.ctxld h (f5 w 45) (f5 w 39) (Fin.ofNat 4 (field w 7 2)))
  | 0xE5, 0 => xform op w [regf w 45 32 1, regf w 39 32 1, resv 7 20 (field w 7 20 == 0)]
      (.smap h (f5 w 45) (f5 w 39) imm)
  | _, v => noFn op v

/-- OP 0xE6 (R409). On the management core the vector form is unassigned (R53). -/
def decPclr (mgmt : Bool) (w : Nat) (h : Hdr) : Decoded :=
  let ty := (field w 12 5 != 0, field w 12 5)
  let rest := [regf w 45 32 1, unused w 39 6, unused w 33 6, unused w 27 6, unused w 0 12]
  match field w 20 7 with
  | 0 => form 0xE6 [ty] (unused w 17 3 :: rest) (.pclr h (.scalar (f5 w 45)))
  | 1 => form 0xE6 [(mgmt, 1), ty] rest (.pclr h (.vector (f5 w 45) (Fin.ofNat 8 (field w 17 3))))
  | v => noFn 0xE6 v

/-- The management subset of R53. -/
def mgmtOp (op : Nat) : Bool :=
  (0x01 ≤ op && op ≤ 0x23) || (0x30 ≤ op && op ≤ 0x34) || op == 0xA0 || op == 0xA1
  || (0xA8 ≤ op && op ≤ 0xAA) || op == 0xC0 || (0xE0 ≤ op && op ≤ 0xE6)

/-- The scalar and control opcodes 0x01 to 0x23 of Table 2.9. -/
def decScalar (op w : Nat) (h : Hdr) : Decoded :=
  match op with
  | 0x01 => decArith w h
  | 0x02 => decLogic w h
  | 0x03 => decCmp w h
  | 0x04 => decBits w h
  | 0x05 => decImm w h
  | 0x06 => decCmpi w h
  | 0x07 => form 7 [] [regf w 45 32 1] (.ldi h (f5 w 45) (BitVec.ofNat 45 (field w 0 45)))
  | 0x08 => form 8 [(field w 0 7 != 0, field w 0 7)] [regf w 45 32 1, regf w 39 32 1]
      (.ldih h (f5 w 45) (f5 w 39) (BitVec.ofNat 32 (field w 7 32)))
  | 0x09 => form 9 [(field w 20 7 != 0, field w 20 7), (field w 12 5 != 0, field w 12 5)]
      [regf w 45 32 1, regf w 39 32 1, regf w 33 32 1, unused w 27 6, unused w 17 3]
      (.lea h (f5 w 45) (f5 w 39) (f5 w 33) (Fin.ofNat 16 (field w 0 4)) (BitVec.ofNat 8 (field w 4 8)))
  | 0x0A => form 0x0A [(field w 20 7 != 0, field w 20 7), (field w 12 5 != 0, field w 12 5)]
      [regf w 45 32 1, regf w 39 32 1, regf w 33 32 1, regf w 27 16 1, unused w 17 3, unused w 0 12]
      (.sel h (f5 w 45) (f4 w 27) (f5 w 39) (f5 w 33))
  | 0x0B => decMov w h
  | 0x20 => decBra w h
  | 0x21 => decCall w h
  | 0x22 => decJmp w h
  | 0x23 => decPred w h
  | _ => .illegal op

/-- The vector opcodes 0x40 to 0x4F of Table 2.9. -/
def decVector (op w : Nat) (h : Hdr) : Decoded :=
  match op with
  | 0x40 => decVInt w h
  | 0x41 => decVFp w h
  | 0x42 => decVFma w h
  | 0x43 => decVCmp w h
  | 0x44 => decVLogic w h
  | 0x45 => decVCvt w h
  | 0x46 => decVMx w h
  | 0x47 => decVTrans w h
  | 0x48 => decVPerm w h
  | 0x49 => decVRed w h
  | 0x4A => decVScan w h
  | 0x4B => decVArg w h
  | 0x4C => decVRng w h
  | 0x4D => decVPtest w h
  | 0x4E => decVImm w h
  | _ => decMask w h

/-- Table 2.9: the class of an opcode. -/
def decOp (mgmt : Bool) (op w : Nat) (h : Hdr) : Decoded :=
  if op < 0x30 then decScalar op w h
  else if op < 0x33 then decEdge mgmt op w h
  else if op = 0x33 then decTq w h
  else if op = 0x34 then decEnd w h
  else if op = 0x38 || op = 0x39 || op = 0x3B then decGroup op w h
  else if op = 0x3A then decGred w h
  else if 0x40 ≤ op && op ≤ 0x4F then decVector op w h
  else if op = 0x70 then decHandle w h
  else if 0x71 ≤ op && op ≤ 0x74 then decTensor op w h
  else if op = 0x75 then decRelayout w h
  else if op = 0x76 then decHwait w h
  else if 0x80 ≤ op && op ≤ 0x83 then decMac op w h
  else if 0x84 ≤ op && op ≤ 0x87 then decMat op w h
  else if op = 0x88 then decMstat w h
  else if 0xA0 ≤ op && op ≤ 0xA3 then decLdSt op w h
  else if 0xA4 ≤ op && op ≤ 0xA7 then decScr op w h
  else if 0xA8 ≤ op && op ≤ 0xAB then decAtom op w h
  else if op = 0xC0 || op = 0xC1 then decFence op w h
  else if 0xC8 ≤ op && op ≤ 0xCE then decStream op w h
  else if 0xD8 ≤ op && op ≤ 0xDA then decRegion op w h
  else if 0xE0 ≤ op && op ≤ 0xE5 then decSys op w h
  else if op = 0xE6 then decPclr mgmt w h
  else .illegal op

/-- The checks of R52 on a word up to the privilege check; mgmt is the management core (R53). -/
def decodeNat (mgmt : Bool) (w : Nat) : Decoded :=
  let op := field w 56 8
  if field w 51 5 = 16 then .instr (.nop (BitVec.ofNat 8 op) (BitVec.ofNat 51 (field w 0 51)))
  else if mgmt && !mgmtOp op then .illegal op
  else decOp mgmt op w (hdrOf w)

/-- decodeNat of a 64-bit word. -/
def decodeWord (mgmt : Bool) (w : Word) : Decoded := decodeNat mgmt w.toNat

/-- Bytes to a number, the first byte least significant (R3). -/
def leOfBytes : List Byte → Nat
  | [] => 0
  | b :: bs => b.toNat + 256 * leOfBytes bs

/-- A word stored little-endian (R36). -/
def wordBytes (w : Word) : List Byte :=
  (List.range 8).map (fun i => BitVec.ofNat 8 (w.toNat / 2 ^ (8 * i)))

/-- The decoder on bytes: eight bytes hold a word; fewer hold none. -/
def decodeBytes (mgmt : Bool) : List Byte → Option Decoded
  | b0 :: b1 :: b2 :: b3 :: b4 :: b5 :: b6 :: b7 :: _ =>
    some (decodeNat mgmt (leOfBytes [b0, b1, b2, b3, b4, b5, b6, b7]))
  | _ => none

/-- The instruction of a word given as the opcode table numbers its bits: bit 0 is the least
significant bit of the one 64-bit word, and the bits above nbits are zero. -/
def decodeTableWord (nbits w : Nat) : Option Instr :=
  match decodeBytes false (wordBytes (BitVec.ofNat 64 (w % 2 ^ nbits))) with
  | some (.instr i) => some i
  | _ => none

end Sys2Proof
end

