-- ==== Sys2Proof/Machine/Bits.lean ====
section
/-! DEFINITION. Bit fields, sign extension and byte order (R3, R4, R12). -/

namespace Sys2Proof.Machine

/-- Bits lo + n - 1 : lo of x as a number (R11). -/
def bitsAt (x lo n : Nat) : Nat := (x >>> lo) % 2 ^ n

/-- Sext(x, n): x taken as an n-bit two's-complement value (R69). -/
def sextInt (x n : Nat) : Int :=
  let y := x % 2 ^ n
  if 2 * y < 2 ^ n then (y : Int) else (y : Int) - (2 ^ n : Nat)

/-- r mod 2^n for an exact integer r (R12). -/
def intMod (r : Int) (n : Nat) : Nat := (r % ((2 ^ n : Nat) : Int)).toNat

/-- The low 64 bits of an exact integer. -/
def wordOfInt (r : Int) : Word := BitVec.ofNat 64 (intMod r 64)

/-- r clamped to lo .. hi. -/
def clampInt (lo hi r : Int) : Int := if r < lo then lo else if hi < r then hi else r

/-- Bytes to a number, the first byte least significant (R3). -/
def leNat : List Byte → Nat
  | [] => 0
  | b :: bs => b.toNat + 256 * leNat bs

/-- The low n bytes of x, least significant first (R3). -/
def leBytes : Nat → Nat → List Byte
  | 0, _ => []
  | n + 1, x => BitVec.ofNat 8 x :: leBytes n (x / 256)

/-- Write the n-bit value v at bit lo of x. -/
def putBits (x lo n v : Nat) : Nat :=
  let m := 2 ^ n
  let old := (x >>> lo) % m
  x - (old <<< lo) + ((v % m) <<< lo)

/-- The number of one bits among the low n bits of x. -/
def popCount : Nat → Nat → Nat
  | 0, _ => 0
  | n + 1, x => x % 2 + popCount n (x / 2)

/-- The number of trailing zeros of x among n bits; n when they are all zero. -/
def trailZeros : Nat → Nat → Nat
  | 0, _ => 0
  | n + 1, x => if x % 2 = 1 then 0 else 1 + trailZeros n (x / 2)

/-- The number of leading zeros of the n-bit value x; n when it is zero. -/
def leadZeros (n x : Nat) : Nat :=
  let y := x % 2 ^ n
  if y = 0 then n else n - 1 - Nat.log2 y

/-- The bit of x at i as a Bool. -/
def bitOf (x i : Nat) : Bool := (x >>> i) % 2 == 1

/-- A Bool as 0 or 1. -/
def b2n (b : Bool) : Nat := if b then 1 else 0

/-- The ceiling of a / b. -/
def ceilDiv (a b : Nat) : Nat := (a + b - 1) / b

end Sys2Proof.Machine
end

