-- ==== Sys2Proof/Machine/Num.lean ====
section
/-! DEFINITION. Number formats, the rounding rule, conversions, block scales, the exact accumulator
and the generator (spec/03_numbers.md). -/

namespace Sys2Proof.Machine

/-- An exact value: NaN, an infinity, or (-1)^neg × m × 2^e with the sign of a zero kept (R71, R84). -/
inductive Val where
  | nan
  | inf (neg : Bool)
  | fin (neg : Bool) (m : Nat) (e : Int)
deriving DecidableEq, Repr

/-- Counted events of one operation (Table 3.6). -/
structure Ev where
  sat : Nat
  nan : Nat
  bso : Nat
deriving DecidableEq, Repr

def Ev.zero : Ev := ⟨0, 0, 0⟩
def Ev.oneSat : Ev := ⟨1, 0, 0⟩
def Ev.oneNan : Ev := ⟨0, 1, 0⟩
def Ev.oneBso : Ev := ⟨0, 0, 1⟩
def Ev.add (a b : Ev) : Ev := ⟨a.sat + b.sat, a.nan + b.nan, a.bso + b.bso⟩
def Ev.sum (l : List Ev) : Ev := l.foldl Ev.add Ev.zero

/-- Which encodings of a floating-point format are special (Table 3.2). -/
inductive Specials where
  | ieee | e4m3 | none
deriving DecidableEq, Repr

/-- Parameters of a floating-point format (Table 3.2). -/
structure Fp where
  e : Nat
  m : Nat
  b : Int
  sp : Specials
  subnormals : Bool
deriving DecidableEq, Repr

/-- Table 3.2, by type; none for the integer types, e8m0 and xacc. -/
def fpOf : Ty → Option Fp
  | .f32 => some ⟨8, 23, 127, .ieee, true⟩
  | .bf16 => some ⟨8, 7, 127, .ieee, true⟩
  | .f16 => some ⟨5, 10, 15, .ieee, true⟩
  | .e4m3 => some ⟨4, 3, 7, .e4m3, true⟩
  | .e5m2 => some ⟨5, 2, 15, .ieee, true⟩
  | .e2m3 => some ⟨2, 3, 1, .none, true⟩
  | .e3m2 => some ⟨3, 2, 3, .none, true⟩
  | .e2m1 => some ⟨2, 1, 1, .none, true⟩
  | .acc => some ⟨10, 37, 511, .ieee, false⟩
  | _ => none

end Sys2Proof.Machine

namespace Sys2Proof
open Sys2Proof.Machine

/-- The width of a type's elements in registers (Table 6.2): FP6 takes 8 bits, acc 64. -/
def Ty.width (t : Ty) : Nat := tyWidth t

/-- The type is an integer type (R70). -/
def Ty.isInt : Ty → Bool
  | .i8 | .n8 | .i16 | .n16 | .i32 | .n32 | .i64 | .n64 | .i4 | .n4 => true
  | _ => false

/-- The type is a signed integer type (R70). -/
def Ty.signed : Ty → Bool
  | .i8 | .i16 | .i32 | .i64 | .i4 => true
  | _ => false

/-- Lo(TY) (Table 3.1). -/
def Ty.lo (t : Ty) : Int := if t.signed then -((2 ^ (t.width - 1) : Nat) : Int) else 0

/-- Hi(TY) (Table 3.1). -/
def Ty.hi (t : Ty) : Int :=
  if t.signed then ((2 ^ (t.width - 1) : Nat) : Int) - 1 else ((2 ^ t.width : Nat) : Int) - 1

/-- Val of R98: the w low bits of x read by the type's signedness. -/
def Ty.val (t : Ty) (x : Nat) : Int :=
  if t.signed then sextInt x t.width else ((x % 2 ^ t.width : Nat) : Int)

/-- Put of R98: r mod 2^w, extended to 64 bits by the type's signedness. -/
def Ty.put (t : Ty) (r : Int) : Word :=
  let y := intMod r t.width
  if t.signed then wordOfInt (sextInt y t.width) else BitVec.ofNat 64 y

end Sys2Proof

namespace Sys2Proof.Machine

/-- A power of two, scaled: m × 2^e as an integer over 2^q (q ≤ e). -/
def scaleTo (m : Nat) (e q : Int) : Nat := m * 2 ^ (e - q).toNat

/-- m / 2^s rounded to the nearest integer, ties to even (R82). -/
def roundEven (m s : Nat) : Nat :=
  if s = 0 then m
  else
    let q := m >>> s
    let r := m % 2 ^ s
    let half := 2 ^ (s - 1)
    if r > half || (r == half && q % 2 == 1) then q + 1 else q

/-- RoundUnbounded(m × 2^e, f) of R82, as an integer over the quantum 2^q. -/
def roundUnbounded (f : Fp) (m : Nat) (e : Int) : Nat × Int :=
  if m = 0 then (0, 0)
  else
    let ex := (Nat.log2 m : Int) + e
    let q0 := ex - f.m
    let q := if f.subnormals then Max.max q0 (1 - f.b - f.m) else q0
    if q ≤ e then (scaleTo m e q, q) else (roundEven m (q - e).toNat, q)

/-- Compare m1 × 2^e1 with m2 × 2^e2: true when the first is below the second. -/
def magLt (m1 : Nat) (e1 : Int) (m2 : Nat) (e2 : Int) : Bool :=
  let q := Min.min e1 e2
  scaleTo m1 e1 q < scaleTo m2 e2 q

/-- The largest finite value of a format (Table 3.2). -/
def maxFinite (f : Fp) : Nat × Int :=
  match f.sp with
  | .ieee => (2 ^ (f.m + 1) - 1, ((2 ^ f.e : Nat) : Int) - 2 - f.b - f.m)
  | .e4m3 => (14, 5)
  | .none => (2 ^ (f.m + 1) - 1, ((2 ^ f.e : Nat) : Int) - 1 - f.b - f.m)

/-- The sign bit of a format's encoding. -/
def signBit (f : Fp) (neg : Bool) : Nat := if neg then 2 ^ (f.e + f.m) else 0

/-- The encoding of a finite value the format holds exactly (R71, R76). -/
def encodeFin (f : Fp) (neg : Bool) (m : Nat) (e : Int) : Nat :=
  if m = 0 then signBit f neg
  else
    let ex := (Nat.log2 m : Int) + e
    if ex < 1 - f.b then signBit f neg + scaleTo m e (1 - f.b - f.m)
    else
      let frac :=
        if ex - f.m ≤ e then scaleTo m e (ex - f.m) else m / 2 ^ (ex - f.m - e).toNat
      signBit f neg + (ex + f.b).toNat * 2 ^ f.m + (frac - 2 ^ f.m)

/-- The format has infinities (Table 3.2). -/
def hasInf (f : Fp) : Bool := f.sp == .ieee

/-- The format has a NaN (Table 3.2). -/
def hasNaN (f : Fp) : Bool := f.sp != .none

/-- Canonical NaN (Table 3.3). -/
def canonNaN (f : Fp) : Nat :=
  match f.sp with
  | .ieee => (2 ^ f.e - 1) * 2 ^ f.m + 2 ^ (f.m - 1)
  | .e4m3 => 0x7F
  | .none => 0

/-- Infinity of a sign (Table 3.3). -/
def infBits (f : Fp) (neg : Bool) : Nat := signBit f neg + (2 ^ f.e - 1) * 2 ^ f.m

/-- The value of an encoding (R71, R76). -/
def decodeFp (f : Fp) (x : Nat) : Val :=
  let neg := bitOf x (f.e + f.m)
  let E := bitsAt x f.m f.e
  let F := bitsAt x 0 f.m
  let top := 2 ^ f.e - 1
  if E = 0 then (if f.subnormals then .fin neg F (1 - f.b - f.m) else .fin neg 0 0)
  else
    match f.sp with
    | .ieee =>
      if E = top then (if F = 0 then .inf neg else .nan)
      else .fin neg (2 ^ f.m + F) ((E : Int) - f.b - f.m)
    | .e4m3 =>
      if E = top && F = 7 then .nan else .fin neg (2 ^ f.m + F) ((E : Int) - f.b - f.m)
    | .none => .fin neg (2 ^ f.m + F) ((E : Int) - f.b - f.m)

/-- The exact value of an integer. -/
def Val.ofInt (i : Int) : Val := .fin (i < 0) i.natAbs 0

/-- The value of an element's bits under a type (R70, R71, R74, R76). -/
def decodeElem (t : Ty) (x : Nat) : Val :=
  match fpOf t with
  | some f => decodeFp f x
  | none =>
    match t with
    | .e8m0 => if x % 256 = 255 then .nan else .fin false 1 ((x % 256 : Nat) - 127)
    | _ => Val.ofInt (t.val x)

/-- |v| rounded to the nearest integer, ties to even. -/
def roundToNat (m : Nat) (e : Int) : Nat :=
  if 0 ≤ e then m * 2 ^ e.toNat else roundEven m (-e).toNat

/-- Convert(x, fmt) of R87 for an integer type. -/
def convertInt (t : Ty) : Val → Nat × Ev
  | .nan => (0, Ev.oneNan)
  | .inf neg => (intMod (if neg then t.lo else t.hi) t.width, Ev.oneSat)
  | .fin neg m e =>
    let r : Int := if neg then -(roundToNat m e : Int) else (roundToNat m e : Int)
    if r > t.hi then (intMod t.hi t.width, Ev.oneSat)
    else if r < t.lo then (intMod t.lo t.width, Ev.oneSat)
    else (intMod r t.width, Ev.zero)

/-- acc48 has no subnormals: the rounded magnitude lies below 2^-510 (R83). -/
def accFlush (f : Fp) (r : Nat × Int) : Bool :=
  !f.subnormals && r.1 != 0 && magLt r.1 r.2 1 (1 - f.b)

/-- Convert(x, fmt) of R87 for a floating format. -/
def convertFp (f : Fp) : Val → Nat × Ev
  | .nan => if hasNaN f then (canonNaN f, Ev.zero) else (0, Ev.oneNan)
  | .inf neg =>
    if hasInf f then (infBits f neg, Ev.zero)
    else (encodeFin f neg (maxFinite f).1 (maxFinite f).2, Ev.oneSat)
  | .fin neg m e =>
    let r := roundUnbounded f m e
    if magLt (maxFinite f).1 (maxFinite f).2 r.1 r.2 then
      (encodeFin f neg (maxFinite f).1 (maxFinite f).2, Ev.oneSat)
    else if accFlush f r then (signBit f neg, Ev.oneSat)
    else (encodeFin f neg r.1 r.2, Ev.zero)

/-- Convert(x, fmt) of R87. -/
def convert (t : Ty) (v : Val) : Nat × Ev :=
  match fpOf t with
  | some f => convertFp f v
  | none => convertInt t v

/-- RoundRNE(x, fmt) of R83, of an exact value that may be an infinity or a NaN produced by R85. -/
def roundFp (f : Fp) : Val → Nat × Ev
  | .nan => convertFp f .nan
  | .inf neg => convertFp f (.inf neg)
  | .fin neg m e =>
    let r := roundUnbounded f m e
    if accFlush f r then (signBit f neg, Ev.oneSat)
    else if magLt (maxFinite f).1 (maxFinite f).2 r.1 r.2 then
      (if hasInf f then (infBits f neg, Ev.zero)
       else (encodeFin f neg (maxFinite f).1 (maxFinite f).2, Ev.oneSat))
    else (encodeFin f neg r.1 r.2, Ev.zero)

/-- RoundRNE(x, fmt) of R83 by type. -/
def roundRNE (t : Ty) (v : Val) : Nat × Ev :=
  match fpOf t with
  | some f => roundFp f v
  | none => convertInt t v

/-- An exact result with the mark of an undefined operation (R85). -/
structure RVal where
  v : Val
  undef : Bool
deriving DecidableEq, Repr

/-- Round a result and count the event of an undefined one (R83, R85). -/
def finish (t : Ty) (r : RVal) : Nat × Ev :=
  let x := roundRNE t r.v
  (x.1, if r.undef then Ev.add Ev.oneNan x.2 else x.2)

def Val.isNan : Val → Bool
  | .nan => true
  | _ => false

def Val.isZero : Val → Bool
  | .fin _ 0 _ => true
  | _ => false

def Val.isInf : Val → Bool
  | .inf _ => true
  | _ => false

def Val.sign : Val → Bool
  | .nan => false
  | .inf n => n
  | .fin n _ _ => n

/-- The value with its sign inverted. -/
def Val.neg : Val → Val
  | .nan => .nan
  | .inf n => .inf (!n)
  | .fin n m e => .fin (!n) m e

/-- The signed integer over 2^q of a finite value. -/
def Val.scaled (q : Int) : Val → Int
  | .fin neg m e => if neg then -(scaleTo m e q : Int) else (scaleTo m e q : Int)
  | _ => 0

/-- The exponent of a finite non-zero value's last bit, or none. -/
def Val.lowExp : Val → Option Int
  | .fin _ (_ + 1) e => some e
  | _ => none

/-- The least exponent among the non-zero finite terms; 0 when there is none. -/
def minExp : List Val → Int
  | [] => 0
  | [v] => v.lowExp.getD 0
  | v :: vs =>
    match v.lowExp, vs.any (fun w => w.lowExp.isSome) with
    | some e, true => Min.min e (minExp vs)
    | some e, false => e
    | none, _ => minExp vs

/-- The exact sum of terms, with the zero signs of R84 and the undefined case of R85. -/
def sumVals (ts : List Val) : RVal :=
  if ts.any Val.isNan then ⟨.nan, false⟩
  else
    let infs := ts.filter Val.isInf
    match infs with
    | i :: rest => if rest.any (fun v => v.sign != i.sign) then ⟨.nan, true⟩ else ⟨i, false⟩
    | [] =>
      let q := minExp ts
      let s := (ts.map (Val.scaled q)).foldl (· + ·) 0
      if s = 0 then ⟨.fin (ts.all (fun v => v.isZero && v.sign) && !ts.isEmpty) 0 0, false⟩
      else ⟨.fin (s < 0) s.natAbs q, false⟩

/-- The exact product (R84, R85). -/
def mulVal (a b : Val) : RVal :=
  let n := a.sign != b.sign
  match a, b with
  | .nan, _ => ⟨.nan, false⟩
  | _, .nan => ⟨.nan, false⟩
  | .inf _, y => if y.isZero then ⟨.nan, true⟩ else ⟨.inf n, false⟩
  | x, .inf _ => if x.isZero then ⟨.nan, true⟩ else ⟨.inf n, false⟩
  | .fin _ m1 e1, .fin _ m2 e2 => ⟨.fin n (m1 * m2) (e1 + e2), false⟩

/-- An exact sum of products and addends, the undefined cases and NaN operands taken over the
whole expression (R85, R92, R185). -/
def fusedSum (prods : List (Val × Val)) (adds : List Val) : RVal :=
  if prods.any (fun p => p.1.isNan || p.2.isNan) || adds.any Val.isNan then ⟨.nan, false⟩
  else
    let ps := prods.map (fun p => mulVal p.1 p.2)
    if ps.any (fun r => r.undef) then ⟨.nan, true⟩
    else sumVals (adds ++ ps.map (fun r => r.v))

/-- Strict order on values that are not NaN; −0 equals +0 (R86). -/
def ltVal (a b : Val) : Bool :=
  match a, b with
  | .nan, _ => false
  | _, .nan => false
  | .inf n, .inf k => n && !k
  | .inf n, .fin _ _ _ => n
  | .fin _ _ _, .inf n => !n
  | x, y =>
    let q := minExp [x, y]
    Val.scaled q x < Val.scaled q y

/-- Equality on values; −0 equals +0 and NaN equals nothing (R86). -/
def eqVal (a b : Val) : Bool :=
  if a.isNan || b.isNan then false else !(ltVal a b) && !(ltVal b a)

/-- a ranks below b for min and max, where −0 is less than +0 (R86). -/
def ltMinMax (a b : Val) : Bool := ltVal a b || (a.isZero && b.isZero && a.sign && !b.sign)

/-- min of two encodings of a floating type (R86). -/
def minBits (t : Ty) (x y : Nat) : Nat :=
  let a := decodeElem t x
  let b := decodeElem t y
  if a.isNan && b.isNan then (convert t .nan).1
  else if a.isNan then y else if b.isNan then x
  else if ltMinMax b a then y else x

/-- max of two encodings of a floating type (R86). -/
def maxBits (t : Ty) (x y : Nat) : Nat :=
  let a := decodeElem t x
  let b := decodeElem t y
  if a.isNan && b.isNan then (convert t .nan).1
  else if a.isNan then y else if b.isNan then x
  else if ltMinMax a b then y else x

/-- Comparison of two values under a condition (R86). -/
def cmpVal (c : Cond) (a b : Val) : Bool :=
  match c with
  | .eq => eqVal a b
  | .ne => !eqVal a b
  | .lt => ltVal a b
  | .le => !a.isNan && !b.isNan && !ltVal b a
  | .gt => ltVal b a
  | .ge => !a.isNan && !b.isNan && !ltVal a b

/-- Comparison of two integers under a condition (R113). -/
def cmpInt (c : Cond) (a b : Int) : Bool :=
  match c with
  | .eq => a == b
  | .ne => a != b
  | .lt => a < b
  | .le => a ≤ b
  | .gt => b < a
  | .ge => b ≤ a

/-- RoundRNE(a + b) on encodings (R83 to R85). -/
def addBits (t : Ty) (x y : Nat) : Nat × Ev := finish t (sumVals [decodeElem t x, decodeElem t y])

/-- RoundRNE(a − b) on encodings. -/
def subBits (t : Ty) (x y : Nat) : Nat × Ev :=
  finish t (sumVals [decodeElem t x, (decodeElem t y).neg])

/-- RoundRNE(a × b) on encodings. -/
def mulBits (t : Ty) (x y : Nat) : Nat × Ev := finish t (mulVal (decodeElem t x) (decodeElem t y))

/-! ### Correctly rounded functions (R190) -/

/-- The integer square root, by n binary digits from the top. -/
def isqrtFrom : Nat → Nat → Nat → Nat
  | 0, _, r => r
  | n + 1, x, r => if (r + 2 ^ n) * (r + 2 ^ n) ≤ x then isqrtFrom n x (r + 2 ^ n) else isqrtFrom n x r

/-- floor(√x) for x below 2^(2n). -/
def isqrt (n x : Nat) : Nat := isqrtFrom n x 0

/-- 1/x of a finite non-zero value, with a sticky last bit that rounds as the exact value does. -/
def recipVal (neg : Bool) (m : Nat) (e : Int) : Val :=
  let k := Nat.log2 m + 66
  let q := 2 ^ k / m
  .fin neg (2 * q + b2n (q * m != 2 ^ k)) (-(k : Int) - e - 1)

/-- √(m × 2^e), m ≠ 0, with a sticky last bit. -/
def sqrtVal (m : Nat) (e : Int) : Val :=
  let odd := e % 2 != 0
  let m1 := if odd then 2 * m else m
  let e1 := if odd then e - 1 else e
  let s := 2 ^ 132 * m1
  let r := isqrt 100 s
  .fin false (2 * r + b2n (r * r != s)) (e1 / 2 - 67)

/-- 1/√(m × 2^e), m ≠ 0, with a sticky last bit. -/
def rsqrtVal (m : Nat) (e : Int) : Val :=
  let odd := e % 2 != 0
  let m1 := if odd then 2 * m else m
  let e1 := if odd then e - 1 else e
  let r := isqrt 110 (2 ^ 200 / m1)
  .fin false (2 * r + b2n (r * r * m1 != 2 ^ 200)) (-(e1 / 2) - 101)

/-- ln 2 as a fraction of 2^280, by the series 2 Σ (1/3)^(2k+1)/(2k+1). -/
def ln2Sum : Nat → Nat → Nat → Nat
  | 0, _, _ => 0
  | n + 1, k, p => p / (2 * k + 1) + ln2Sum n (k + 1) (p / 9)

def ln2Fix : Nat := ln2Sum 90 0 (2 ^ 281 / 3)

/-- Σ y^k / k! in units of 2^-280, from term k on. -/
def expSum : Nat → Nat → Nat → Nat → Nat
  | 0, _, _, _ => 0
  | n + 1, k, y, t => t + expSum n (k + 1) y (t * y / 2 ^ 280 / (k + 1))

/-- 2^f for f = n / 2^280 in [0, 1), as a fraction of 2^280. -/
def exp2Frac (n : Nat) : Nat := expSum 70 0 (n * ln2Fix / 2 ^ 280) (2 ^ 280)

/-- 2^x of a finite f32 value (R190); exact for integers, else with a sticky last bit. -/
def exp2Val (neg : Bool) (m : Nat) (e : Int) : Val :=
  let big := magLt 400 0 m e
  if big then (if neg then .fin false 1 (-400) else .fin false 1 400)
  else
    let fix : Int := if e < -280 then 0 else (scaleTo m e (-280) : Int)
    let x : Int := if neg then -fix else fix
    let ip := x / (2 ^ 280 : Nat)
    let fr := (x % (2 ^ 280 : Nat)).toNat
    if fr = 0 then .fin false 1 ip else .fin false (2 * exp2Frac fr + 1) (ip - 281)

/-- n binary digits of log2 y for y = z / 2^280 in [1, 2), by squaring. -/
def log2Digits : Nat → Nat → Nat → Nat
  | 0, _, acc => acc
  | n + 1, z, acc =>
    let s := z * z / 2 ^ 280
    if s ≥ 2 ^ 281 then log2Digits n (s / 2) (2 * acc + 1) else log2Digits n s (2 * acc)

/-- log2 of m × 2^e, m ≠ 0 (R190); exact for powers of two, else with a sticky last bit. -/
def log2Val (m : Nat) (e : Int) : Val :=
  let l := Nat.log2 m
  let ip : Int := (l : Int) + e
  if m = 2 ^ l then Val.ofInt ip
  else
    let d := log2Digits 110 (m * 2 ^ (280 - l)) 0
    let s : Int := (ip * (2 ^ 110 : Nat) + d) * 2 + 1
    .fin (s < 0) s.natAbs (-111)

/-- The transcendental functions of OP 0x47. -/
inductive Trans where
  | exp2 | log2 | rcp | rsqrt | sqrt
deriving DecidableEq, Repr

/-- The f32 result and its events (R190, Table 6.5). -/
def transBits (f : Trans) (x : Nat) : Nat × Ev :=
  let undefd : RVal := ⟨.nan, true⟩
  let r : RVal :=
    match f, decodeElem .f32 x with
    | _, .nan => ⟨.nan, false⟩
    | .exp2, .inf neg => ⟨if neg then .fin false 0 0 else .inf false, false⟩
    | .exp2, .fin n m e => ⟨exp2Val n m e, false⟩
    | .log2, .inf neg => if neg then undefd else ⟨.inf false, false⟩
    | .log2, .fin n m e =>
      if m = 0 then ⟨.inf true, false⟩ else if n then undefd else ⟨log2Val m e, false⟩
    | .rcp, .inf neg => ⟨.fin neg 0 0, false⟩
    | .rcp, .fin n m e => if m = 0 then ⟨.inf n, false⟩ else ⟨recipVal n m e, false⟩
    | .rsqrt, .inf neg => if neg then undefd else ⟨.fin false 0 0, false⟩
    | .rsqrt, .fin n m e =>
      if m = 0 then ⟨.inf n, false⟩ else if n then undefd else ⟨rsqrtVal m e, false⟩
    | .sqrt, .inf neg => if neg then undefd else ⟨.inf false, false⟩
    | .sqrt, .fin n m e =>
      if m = 0 then ⟨.fin n 0 0, false⟩ else if n then undefd else ⟨sqrtVal m e, false⟩
  finish .f32 r

/-! ### Block scales (R74, R75, R89, R90) -/

/-- emax of an element format (Table 3.5). -/
def emaxOf : Ty → Int
  | .e4m3 => 8
  | .e5m2 => 15
  | .e2m3 => 2
  | .e3m2 => 4
  | .e2m1 => 2
  | _ => 0

/-- Fraction bits of an integer element of an MX block (R89). -/
def mxFrac : Ty → Int
  | .i8 => 6
  | .i4 => 2
  | _ => 0

/-- The value of an MX element before its scale (R75, R89). -/
def mxElem (t : Ty) (x : Nat) : Val :=
  match decodeElem t x with
  | .fin n m e => .fin n m (e - mxFrac t)
  | v => v

/-- A value times a power of two. -/
def Val.scale (k : Int) : Val → Val
  | .fin n m e => .fin n m (e + k)
  | v => v

/-- A block-scaled element (R75): NaN under the scale 0xFF. -/
def mxValue (t : Ty) (scale x : Nat) : Val :=
  if scale % 256 = 255 then .nan else (mxElem t x).scale ((scale % 256 : Nat) - 127)

/-- One element of R90. -/
def dequantise (dst elem : Ty) (scale x : Nat) : Nat × Ev := convert dst (mxValue elem scale x)

/-- Is |a| below |b|, both finite. -/
def absLt : Val → Val → Bool
  | .fin _ m1 e1, .fin _ m2 e2 => magLt m1 e1 m2 e2
  | _, _ => false

/-- The largest magnitude of a list of finite values. -/
def maxAbs : List Val → Val
  | [] => .fin false 0 0
  | v :: vs => let w := maxAbs vs; if absLt w v then v else w

/-- One quotient rounded and clamped to its element format, and whether it was clamped (R89). -/
def quantElem (t : Ty) (q : Val) : Nat × Bool :=
  match q with
  | .fin neg m e =>
    let neg' := neg && m != 0
    match fpOf t with
    | some f =>
      let r := roundUnbounded f m e
      if magLt (maxFinite f).1 (maxFinite f).2 r.1 r.2 then
        (encodeFin f neg' (maxFinite f).1 (maxFinite f).2, true)
      else (encodeFin f neg' r.1 r.2, false)
    | none =>
      let n : Int := roundToNat m (e + mxFrac t)
      let r := if neg' then -n else n
      (intMod (clampInt t.lo t.hi r) t.width, r < t.lo || r > t.hi)
  | _ => (0, false)

/-- QuantiseMX of R89: the scale code, the elements and the block's events. -/
def quantiseMX (t : Ty) (xs : List Val) : Nat × List Nat × Ev :=
  if xs.any (fun v => v.isNan || v.isInf) then (255, xs.map (fun _ => 0), Ev.oneBso)
  else
    match maxAbs xs with
    | .fin _ (m + 1) e =>
      let X0 := (Nat.log2 (m + 1) : Int) + e - emaxOf t
      let X := clampInt (-127) 127 X0
      let qs := xs.map (fun v => quantElem t (v.scale (-X)))
      let ev :=
        if X0 > 127 then Ev.add Ev.oneBso ⟨(qs.filter (fun q => q.2)).length, 0, 0⟩
        else if X0 < -127 then Ev.oneSat else Ev.zero
      ((X + 127).toNat, qs.map (fun q => q.1), ev)
    | _ => (0, xs.map (fun _ => 0), Ev.zero)

/-! ### The exact accumulator (R79 to R81) -/

/-- The value field and flags of an xacc object. -/
structure Xacc where
  x : Int
  nan : Bool
  ninf : Bool
  pinf : Bool
deriving DecidableEq, Repr

def Xacc.zero : Xacc := ⟨0, false, false, false⟩

/-- Read an object of 64 bytes, as a number (Table 3.4). -/
def Xacc.ofNat (n : Nat) : Xacc := ⟨sextInt n 320, bitOf n 330, bitOf n 329, bitOf n 328⟩

/-- The 64 bytes of an object, as a number (Table 3.4). -/
def Xacc.toNat (o : Xacc) : Nat :=
  intMod o.x 320 + 2 ^ 330 * b2n o.nan + 2 ^ 329 * b2n o.ninf + 2 ^ 328 * b2n o.pinf

/-- XaccAdd of R80, of an f32 encoding. -/
def Xacc.add (o : Xacc) (v : Nat) : Xacc :=
  match decodeElem .f32 v with
  | .nan => { o with nan := true }
  | .inf false => { o with pinf := true }
  | .inf true => { o with ninf := true }
  | .fin neg m e =>
    let t := o.x + Val.scaled (-149) (.fin neg m e)
    if t < -((2 ^ 319 : Nat) : Int) || t > ((2 ^ 319 : Nat) : Int) - 1 then { o with nan := true }
    else { o with x := t }

/-- The f32 encoding of R81. -/
def Xacc.toF32 (o : Xacc) : Nat :=
  if o.nan || (o.pinf && o.ninf) then 0x7FC00000
  else if o.pinf then 0x7F800000
  else if o.ninf then 0xFF800000
  else (roundRNE .f32 (.fin (o.x < 0) o.x.natAbs (-149))).1

/-! ### The generator (R97) -/

def rng32 (c k : BitVec 32) : BitVec 32 :=
  let z := c * 0x9E3779B9#32 + k
  let z := z ^^^ (z >>> 16)
  let z := z * 0x85EBCA6B#32
  let z := z ^^^ (z >>> 13)
  let z := z * 0xC2B2AE35#32
  z ^^^ (z >>> 16)

/-- The f32 form (z >> 8) × 2^-24. -/
def rngF32 (z : BitVec 32) : Nat := (roundRNE .f32 (.fin false (z >>> 8).toNat (-24))).1

/-- One byte of CRC-32C in reflected form (R338). -/
def crcBits : Nat → BitVec 32 → BitVec 32
  | 0, s => s
  | n + 1, s => crcBits n ((s >>> 1) ^^^ (if s.getLsbD 0 then 0x82F63B78#32 else 0#32))

def crcByte (s : BitVec 32) (b : Byte) : BitVec 32 := crcBits 8 (s ^^^ b.zeroExtend 32)

end Sys2Proof.Machine
end

