-- ==== Sys2Proof/Machine/State.lean ====
section
/-! DEFINITION. The state of the YL9: every piece of state the spec names (INVENTORY.md, heading
State), as plain data, and the machine right after reset. -/

namespace Sys2Proof.Machine

/-- Who raises it: no meaning of this model ends in a fault. The constructor stands for an agenda
entry that is an instruction word, which only a sequencer can issue; step raises it. Safe: the
hardware never does this. -/
inductive Fault where
  | wordOnAgenda
deriving DecidableEq, Repr

/-- Who raises it: exec, for an instruction whose meaning is not written. Safe: nothing is claimed. -/
inductive Refusal where
  | notModelled (mnemonic : String)
deriving DecidableEq, Repr

/-! ### Memory -/

/-- A byte-addressed space: the bytes that are not zero, at strictly rising addresses, and the
poisoned 32-byte sectors in rising order (R255). An unlisted byte reads 0 (log 2). -/
structure Memory where
  cells : List Host.Cell
  poison : List Nat
deriving DecidableEq, Repr

/-- A 64-byte AES-256-XTS key pair (R421). -/
abbrev Key := BitVec 512

/-! ### Registers of a context (R54, Table 2.10) -/

/-- A vector register: 2,048 bits and one poison bit per lane. -/
structure VReg where
  bits : BitVec 2048
  poison : BitVec 64
deriving DecidableEq, Repr

/-- A handle register: the copied descriptor and its table index (R200). -/
structure HReg where
  valid : Bool
  index : Nat
  desc : BitVec 1024
deriving DecidableEq, Repr

/-- A register that the interlock covers (R57, R100). -/
inductive RegId where
  | s (n : Fin 32) | p (n : Fin 16) | k (n : Fin 8) | v (n : Fin 32) | h (n : Fin 16)
deriving DecidableEq, Repr

/-! ### Edges and firings (R126, R127, R131) -/

/-- A token: payload, EOS flag, poison flag and context tag (R127). -/
structure Token where
  bits : BitVec 512
  eos : Bool
  poison : Bool
  tag : Fin 4
deriving DecidableEq, Repr

/-- A slot's state in the firing in progress: window length and cursor, or the tokens pushed and
whether eeos was issued (R131, R161). -/
structure SlotUse where
  len : Nat
  cursor : Nat
  pushed : List Token
  eos : Bool
deriving DecidableEq, Repr

/-- The ordinary firing a context holds: its instance, its serial number on the context, the
instructions issued (R136) and its slots. -/
structure Firing where
  inst : Nat
  serial : Nat
  issued : Nat
  slots : Vector SlotUse 16
deriving DecidableEq, Repr

/-- What a context is doing (R33, R129, R384 to R388). -/
inductive Phase where
  | idle | running | handlerPending | inHandler | stopped
deriving DecidableEq, Repr

/-- Where an owed fault is delivered (R169, R181, R239, R259, R315). -/
inductive Delivery where
  /-- At the next instruction of whatever kind; in its handler, at a wait clause naming the queue of
  its signal clause (R169, R387). -/
  | next (tq : Option (Fin 16))
  /-- At end or at any wait clause; in its handler, at a wait clause naming the queue (R181, R387). -/
  | endOrWait (tq : Option (Fin 16))
  /-- At end, or at a wait clause naming the queue when there is one (R239). -/
  | endOrWaitOn (tq : Option (Fin 16))
  /-- At a wait clause naming the queue (R315). -/
  | waitOn (tq : Fin 16)
  /-- At end, at a release, or at an instruction naming a register of the lost access (R259). -/
  | endRelease (regs : List RegId)
deriving DecidableEq, Repr

/-- Where an operation or request came from: what R239 and R385 need to deliver its fault. -/
structure Issued where
  pc : Pc
  /-- Tile issue order of the issuing instruction. -/
  order : Nat
  /-- Serial number of the issuing firing, from 1; 0 in a fault that no firing's abort discards (a template's, R239).
  The handler of that firing sets handler. -/
  serial : Nat
  handler : Bool
deriving DecidableEq, Repr

/-- A deferred fault owed to a context (R239, R385). -/
structure Owed where
  cause : Nat
  detail : Nat
  addr : Nat
  by_ : Issued
  at_ : Delivery
deriving DecidableEq, Repr

/-- An operation with counted events that has completed in the current cycle: the events, its context, where its
instruction issued, where a trap that it is owed is taken, and whether its launch has ended (R181, R239). -/
structure Counted where
  ev : Ev
  ctx : Fin 4
  by_ : Issued
  at_ : Delivery
  dead : Bool
deriving DecidableEq, Repr

/-! ### Global requests of a context (R256 to R259) -/

/-- What a request does at its home (chapter 09). -/
inductive ReqOp where
  /-- Read len bytes into a scalar register, sign-extended or not. -/
  | loadS (d : Fin 32) (sx : Bool)
  /-- Read len bytes into a vector register, zero-filled. -/
  | loadV (d : Fin 32)
  /-- Read element j of a gather of elements of w bytes; last when it is the final one (R270). -/
  | gather (d : Fin 32) (w : Nat) (j : Nat)
  /-- Store the bytes under the mask. -/
  | store (bytes : List Byte) (mask : List Bool) (poison : Bool)
  /-- Fetch-and-operate; ret gives the destination of the old value (R273). -/
  | rmw (op : AtomOp) (sz : Fin 4) (v : Word) (ret : Option (Fin 32))
  /-- Compare and swap (R274). -/
  | cas (sz : Fin 4) (exp new : Word) (d : Fin 32)
  /-- Add f32 encodings to an xacc object (R275). -/
  | xadd (vals : List (BitVec 32))
  /-- Read an xacc object, and clear it (R275). -/
  | xrd (d : Fin 32) (clr : Bool)
  /-- Read part of a tensor element or block: w bits from bit shift of the bytes read go to bit dst
  of the register, zero-extended to cw bits (R221). -/
  | bits (d : Fin 32) (dst w cw shift : Nat)
  /-- Merge the masked bits of a byte group, leaving its other bits unchanged (R221). -/
  | merge (v mask : Nat)
  /-- A read whose instruction holds its context until the bytes are there (R220, R173, R325). -/
  | syncRead
  /-- Bytes j and up of a scalar register that several reads of an instruction fill together (R221). -/
  | partS (d : Fin 32) (j : Nat)
  /-- Fetch a line for the constant cache, installed there or not, for pref.const, or for an ldc of a
  form, a destination and an address (R271, R272, R298). -/
  | constFill (install : Bool) (want : Option (LdcForm × Fin 32 × Nat))
deriving DecidableEq, Repr

/-- Where a request stands. -/
inductive ReqStage where
  /-- At the memory interface, behind a request that has not been sent, at a walker, or waiting for its unit. -/
  | queued
  /-- Sent, not yet performed at its home. -/
  | sent
  /-- A hop dropped its packet or its response: it is lost after the timeout (R427). -/
  | dropped
  /-- Parked on a missing page, with its token (R394). -/
  | parked (token : Nat)
  /-- Performed; the response carries the value and its poison. -/
  | done (bytes : List Byte) (poison : List Bool)
deriving DecidableEq, Repr

/-- A global request of a context (R256). Its bytes lie in one line. -/
structure MemReq where
  op : ReqOp
  /-- The address that a fault reports: of the instruction, or of the element of a gather or scatter. -/
  ea : Nat
  /-- The first byte, as a virtual and as a physical address. -/
  va : Nat
  pa : Nat
  len : Nat
  acq : Bool
  rel : Bool
  /-- A release at tile scope, for which stores to local HBM have been performed once sent (R284). -/
  tileRel : Bool
  /-- A line of the write-coalescing buffer (R257). -/
  drain : Bool
  cp : Fin 4
  /-- The memory context, and the key of the page when it is encrypted (R391). -/
  mctx : Fin 128
  key : Option Key
  /-- The key index its handle expects, under KEYCHK (R206). -/
  expect : Option Nat
  /-- The table entries of the handles it goes through (R213, R214). -/
  via : List Nat
  /-- The conversion and the units that must be New before a handle write proceeds (R211, R222). -/
  unit : Option (Nat × List Nat)
  /-- Bytes forwarded from the write-coalescing buffer, by offset (R258). -/
  fwd : List (Option Byte)
  /-- Its place among the requests that its tile's memory interface has sent (R284). -/
  sentAt : Nat
  by_ : Issued
  stage : ReqStage
deriving DecidableEq, Repr

/-- A line of the write-coalescing buffer (R257). -/
structure WcbLine where
  /-- Line address PA<49:7>. -/
  line : Nat
  bytes : List Byte
  mask : List Bool
  keep : Bool
  mctx : Fin 128
  key : Option Key
  by_ : Issued
  /-- The address of the last store merged, and the line's virtual address. -/
  ea : Nat
  va : Nat
  /-- Table entries of the handles through which stores merged (R213, R214). -/
  via : List Nat
  /-- The die's count at its last write. -/
  last : Nat
deriving DecidableEq, Repr

/-! ### Groups (R167 to R172) -/

/-- What a group instruction asks of its object (Table 5.13). -/
inductive GroupOp where
  | join | leave (arr : Bool) | arrive | wait (phase : Nat) | bar
  | red (op : GredOp) (ty : Ty) (v : Word)
deriving DecidableEq, Repr

/-- An outstanding group instruction of a context. -/
structure GroupReq where
  gid : Nat
  op : GroupOp
  dst : Option (Fin 32)
  /-- Signal clause, when SE = 1. -/
  sq : Option (Fin 16)
  /-- Blocks the context until it completes (R170). -/
  block : Bool
  by_ : Issued
  /-- Not yet applied at the slice; applied and waiting for a phase; answered with a value. -/
  stage : Nat
  phase : Nat
  value : Word
  /-- The reason of cause 0x11, or 0. -/
  err : Nat
deriving DecidableEq, Repr

/-- A group object (R168). -/
structure GroupObj where
  q : Fin 32
  gid : Nat
  slice : Nat
  mInit : Nat
  joins : Nat
  m : Nat
  n : Nat
  phase : Nat
  /-- Decrease of M from the next phase on (R169). -/
  lower : Nat
  /-- The open phase's reduction: operation, type, value and exact accumulator, when one arrived. -/
  red : Option (GredOp × Ty × Word × Nat)
  /-- Arrivals of the open phase that contributed the identity. -/
  idents : Nat
  /-- Results of completed phases, the last first. -/
  results : List Word
deriving DecidableEq, Repr

/-! ### Stream slots, templates and watermarks (R300, R316 to R319) -/

/-- Why and how a slot's last request ended, and its counts (Tables 11.5 to 11.7). -/
structure StreamStat where
  state : Nat
  last : Nat
  reason : Nat
  trunc : Bool
  short : Bool
  park : Bool
  poison : Bool
  moved : Nat
  ev : Ev
  addr : Nat
deriving DecidableEq, Repr

/-- A stream slot of a context (R300). -/
structure StreamSlot where
  record : Option (BitVec 512)
  stat : StreamStat
  /-- The conversion that holds the slot (R218). -/
  held : Option Nat
  /-- Token queues that the sstop instructions waiting for the stop signal (R326). -/
  waiters : List (Fin 16)
deriving DecidableEq, Repr

/-- An armed template slot of a context (R319). -/
structure Template where
  record : BitVec 512
  wm : Option (Fin 16)
  sq : Option (Fin 16)
  by_ : Issued
  firing : Bool
  /-- cdis was issued; the token queues that its completion signals (R328). -/
  disarming : Bool
  waiters : List (Fin 16)
deriving DecidableEq, Repr

/-- A watermark with its copy status (Tables 11.5 to 11.7). -/
structure Watermark where
  base : Nat
  len : Nat
  fill : Nat
  active : Bool
  /-- Tile issue order of the first instruction after its activation (R318). -/
  order : Nat
  stat : StreamStat
deriving DecidableEq, Repr

/-! ### A context -/

/-- One hardware context (R33, Table 2.10). -/
structure Ctx where
  s : Vector Word 32
  sp : BitVec 32
  p : BitVec 16
  k : Vector Word 8
  v : Vector VReg 32
  h : Vector HReg 16
  pc : Pc
  /-- Sequential execution has left the top of instruction memory (R37). -/
  pcOver : Bool
  phase : Phase
  firing : Option Firing
  /-- Serial numbers given to firings so far. -/
  serials : Nat
  /-- The handler firing's budget count and instance (R387). -/
  hIssued : Nat
  hInst : Nat
  /-- The handler firing's serial number. -/
  hSerial : Nat
  /-- Serials of the firings that ended by abort: their operations' faults are discarded (R239). -/
  aborted : List Nat
  /-- DPC of the trap that stopped or suspended the firing (R382). -/
  dpc : Pc
  /-- Cause, detail and PC of that trap (R387, R388). -/
  tcause : Nat
  tdetail : Nat
  tpc : Pc
  owed : Option Owed
  trapbase : Word
  ss : Vector StreamSlot 16
  tmpl : Vector (Option Template) 16
  wm : Vector Watermark 16
  wcb : List WcbLine
  reqs : List MemReq
  groups : List GroupReq
  /-- Tile issue order of the last issue, for R142; none before the first. -/
  lastIssue : Option Nat
  /-- Issues in the current floor window (R142). -/
  winIssues : Nat
  /-- What its tile's interface had sent at its last request or response (R282, R284). -/
  sendMark : Nat
deriving DecidableEq, Repr

/-! ### The matrix array (R225 to R231, R249) -/

/-- A row of an accumulator bank: 64 cells of 48 bits, with a poison bit each (R227). -/
structure AccRow where
  cells : BitVec 3072
  poison : BitVec 64
deriving DecidableEq, Repr

/-- A product operation (R237, R241, R243): element types, the form, extents and origins, the
descriptors of its operands and scales, and the mask parameter block. -/
structure MacOp where
  ta : Ty
  tb : Ty
  mx : Bool
  int : Bool
  gang : Bool
  K : Nat
  m0 : Int
  k0 : Int
  n0 : Int
  a : BitVec 1024
  b : BitVec 1024
  sa : BitVec 1024
  sb : BitVec 1024
  z : Option Nat
deriving DecidableEq, Repr

/-- The kinds of queued operations (chapter 08). -/
inductive MatKind where
  | mac (m : MacOp)
  | zero
  /-- Factors of the rows or columns, with their poison. -/
  | scale (col : Bool) (f : List (BitVec 32 × Bool))
  | load (ty : Ty) (h : BitVec 1024) (row0 col0 : Int)
  | store (ty : Ty) (h : BitVec 1024) (row0 col0 : Int)
  | row (ty : Ty) (half : Bool) (i : Nat) (d : Fin 32)
  /-- Key and index registers, and the pairs read at issue. -/
  | sort (x y : Fin 32) (pairs : List (BitVec 32 × BitVec 32)) (poison : Bool)
  | topk (x y : Fin 32) (pairs : List (BitVec 32 × BitVec 32)) (poison : Bool) (k : Nat) (clr rd : Bool)
  | cfg (shape : Fin 4) (sort : Fin 16)
  | gang
  | gangFree
deriving DecidableEq, Repr

/-- A mask parameter block as fetched (Table 8.5). -/
structure MaskBlock where
  fill : BitVec 48
  fillPoison : Bool
  mode : Bool
  rows : List Word
deriving DecidableEq, Repr

/-- A gang of a queue (R242). -/
structure Gang where
  key : Nat
  gr : Nat
  gc : Nat
  gR : Nat
  gC : Nat
  formed : Bool
  /-- Gang operations issued on it by this member. -/
  ops : Nat
  /-- Numbers of the gang operations whose members disagreed (R243). -/
  failed : List Nat
deriving DecidableEq, Repr

/-- A queued matrix operation with its progress (R229 to R231, R237). -/
structure MatOp where
  kind : MatKind
  ctx : Fin 4
  bank : Fin 4
  /-- Issue-time shape (R228). -/
  shape : Fin 4
  sq : Option (Fin 16)
  by_ : Issued
  /-- Number of the gang operation on its queue (R243). -/
  gidx : Nat
  started : Bool
  /-- Waves or rows fetched and applied. -/
  waves : Nat
  mask : Option MaskBlock
  /-- The scales of the 32-element block in progress, by row and by column, as fetched (R236). -/
  sclA : List (Option (Nat × Bool))
  sclB : List (Option (Nat × Bool))
  /-- Events so far, by local cell (R96). -/
  evs : List (Nat × Ev)
  /-- The deferred fault it raises: cause and detail. -/
  err : Option (Nat × Nat)
  /-- Its launch has ended: it runs to completion, and a deferred fault that it raises is discarded (R239). -/
  dead : Bool
  /-- The gang of an ended launch, by its number, that the operation runs in to its end (R239, R242). -/
  team : Option (Gang × Nat)
deriving DecidableEq, Repr

/-! ### Layout conversions (R208 to R219) -/

/-- A conversion in progress: the handle entry of a launch, the old and target descriptors, who
issued it, the clusters that have acknowledged, and the state of its units. -/
structure Conv where
  id : Nat
  q : Fin 32
  c : Fin 4
  index : Nat
  old : BitVec 1024
  target : BitVec 1024
  issuer : AgentId
  by_ : Issued
  acks : BitVec 32
  done : List Nat
  /-- Units being converted, with the channel group of their engine. -/
  busy : List (Nat × Fin 32)
  /-- Units parked on a missing page, with their tokens. -/
  parked : List (Nat × Nat)
  /-- The stream slot of the completion token, when one is requested (R215, R218). -/
  cslot : Option (Fin 16)
  /-- Complete, with only its completion token left to push. -/
  pushing : Bool
deriving DecidableEq, Repr

/-- A write of a unit-state map that waits for its page (R209). -/
structure MapWrite where
  /-- Its token in the replay queue; none while it waits at its walker for room there. -/
  tok : Option Nat
  q : Fin 32
  c : Fin 4
  cluster : Fin 32
  addr : Nat
  bytes : List Byte
deriving DecidableEq, Repr

/-! ### Engine requests (R299 to R314) -/

/-- A byte, or a nibble of a handle-mode pattern of 4-bit elements, with its poison. -/
abbrev Datum := Nat × Bool

/-- A request of a stream engine, or a pass of a push program, with its progress. -/
structure EngReq where
  /-- 0 stream, 1 copy, 2 template firing, 3 push-program pass. -/
  kind : Nat
  q : Fin 32
  t : Fin 256
  c : Fin 4
  /-- Slot, watermark, template or program number (R315). -/
  num : Fin 16
  rcd : BitVec 512
  off : Word
  /-- SOFF, with a template token's offset added (R319). -/
  soff : Nat
  wm : Option (Fin 16)
  sq : Option (Fin 16)
  by_ : Issued
  /-- Order of arrival at the engine (R299, R347). -/
  stamp : Nat
  started : Bool
  /-- Tile order of its start (R318). -/
  order : Nat
  /-- Pieces visited on the memory side. -/
  pos : Nat
  /-- Indices taken from the index edge (R303). -/
  idx : List Datum
  /-- Everything that has entered the first stage, and whether no more comes. -/
  src : List Datum
  inEnd : Bool
  /-- Bytes the STA has taken, and everything it has emitted. -/
  staPos : Nat
  mid : List Datum
  /-- Bytes of output delivered as tokens or to the scratchpad. -/
  sent : Nat
  /-- Scales read with MX blocks. -/
  scales : List Datum
  ev : Ev
  moved : Nat
  /-- An access parked on a missing page: its token and its address (R320, R327). -/
  parked : Option Nat
  parkVa : Nat
  short : Bool
  trunc : Bool
  poison : Bool
  /-- Its input was closed by a stop (R314). -/
  cut : Bool
  /-- It reached the engine after a stafree of its slot (R347). -/
  refused : Bool
  /-- How it ends: LAST, cause, reason, element and address (R314, R345). -/
  ending : Option (Nat × Nat × Nat × Nat × Nat)
  /-- The tokens still to be pushed at the end: those already formed when an error met it, and the one that ends it
  (R312, R314). -/
  tail : List Token
  /-- The trigger token carried end-of-stream (R319). -/
  last : Bool
deriving DecidableEq, Repr

/-- A 32-byte sector that a request of an engine writes (R290, R310): the engine and the request's
stamp; the tile of a scratchpad, or none for memory; the sector's number; the bits it has written and
those of them from clean data, the bits that a request which came to the sector later has written, and
a scratchpad sector's bits and poison before. -/
structure SectorUse where
  cg : Fin 32
  stamp : Nat
  tile : Option (Fin 256)
  sector : Nat
  own : BitVec 256
  clean : BitVec 256
  lost : BitVec 256
  before : BitVec 256
  beforePoison : Bool
deriving DecidableEq, Repr

/-! ### Stream transform arrays (R330 to R351) -/

/-- Configuration of an element (Table 12.5). -/
structure StaElem where
  op : Nat
  ty : Nat
  srcA : Nat
  srcB : Nat
  srcC : Nat
  bcol : Nat
  param : Nat
  imm : Nat
  const : BitVec 256
  accn : Nat
deriving DecidableEq, Repr

/-- A graph: header (Table 12.6), elements that are configured, table entries written (element,
index, value) and the elements whose tables it claims (R341). -/
structure StaGraph where
  inw : Nat
  outen : Nat
  passes : Nat
  dirs : Nat
  elems : List (Nat × StaElem)
  tables : List (Nat × Nat × Nat)
  claims : List Nat
deriving DecidableEq, Repr

/-- State of an element under a slot (R338, R339). -/
structure StaCell where
  elem : Nat
  crc : BitVec 32
  acc : BitVec 256
  n : Nat
  poison : Bool
deriving DecidableEq, Repr

/-- An error record (R345, Table 12.10). -/
structure StaError where
  elem : Nat
  code : Nat
  pass : Nat
  multi : Bool
  lanes : Nat
  beat : Nat
  cfg : StaElem
  inputs : List (Nat × Bool)
deriving DecidableEq, Repr

/-- A load on its way to a slot (R349). -/
structure StaLoad where
  upd : Bool
  addr : Nat
  t : Fin 256
  c : Fin 4
  sq : Option (Fin 16)
  by_ : Issued
  stamp : Nat
  parked : Option Nat
  /-- The configuration words of its container, once read and verified. -/
  got : Option (List Nat)
deriving DecidableEq, Repr

/-- A stafree that waits for the requests before it (R350). -/
structure StaFree where
  t : Fin 256
  c : Fin 4
  sq : Option (Fin 16)
  stamp : Nat
deriving DecidableEq, Repr

/-- A configuration slot of an STA (R343, Table 12.10). -/
structure StaSlot where
  /-- 0 empty, 1 loading, 2 loaded, 3 freeing. -/
  st : Nat
  /-- The launch that owns it, by its number (R343). -/
  owner : Option Nat
  graph : StaGraph
  cells : List StaCell
  beat : Nat
  err : Option StaError
  ldstat : Nat
  loads : List StaLoad
  frees : List StaFree
deriving DecidableEq, Repr

/-- A push program of a slice: its launch, record, signal, whether the launch has enabled it and the
pass in progress (R322, R323). -/
structure PushProg where
  owner : Nat
  q : Fin 32
  c : Fin 4
  rcd : BitVec 512
  sq : Option (Fin 16)
  enabled : Bool
  pass : Option EngReq
deriving DecidableEq, Repr

/-! ### A tile (Table 1.2) -/

/-- A cached translation (R391). -/
structure TlbEntry where
  mctx : Fin 128
  /-- Base virtual address and size of the page. -/
  va : Nat
  size : Nat
  pte : Word
deriving DecidableEq, Repr

/-- A line of the constant cache (R271). -/
structure ConstLine where
  mctx : Fin 128
  /-- Line address VA<55:7>. -/
  line : Nat
  bytes : List Byte
  poison : List Bool
deriving DecidableEq, Repr

/-- One tensor tile. -/
structure Tile where
  scratch : Memory
  imem : List Host.Cell
  banks : Vector (Vector AccRow 128) 4
  tq : Vector Nat 16
  /-- Signals kept pending on each full queue (R164). -/
  pend : Vector Nat 16
  mq : Vector (List MatOp) 4
  shape : Fin 4
  sort : Fin 16
  issueShape : Fin 4
  issueSort : Fin 16
  /-- mcfg operations in issue order; sweep: the token of the first is in the array (R231). -/
  cfgs : List MatOp
  sweep : Bool
  topk : Vector (List (BitVec 32 × BitVec 32)) 4
  topkPoison : Vector Bool 4
  gang : Vector (Option Gang) 4
  cnt : Vector (BitVec 32) 3
  /-- The operations that have completed in the current cycle (R181). -/
  counted : List Counted
  cntthr : Word
  ctxpri : Word
  floor : Word
  /-- Cycle of the last change of each context's fields (R382). -/
  priChg : Vector (Option Nat) 4
  /-- Writes of SEQ_CTXPRI (true) and SEQ_FLOOR (false) on their way to the tile (R140): the bits
  written and their values. -/
  arriving : List (Bool × Word × Word)
  thrN : Fin 32
  thrEff : Fin 32
  issues : Nat
  /-- Requests that the memory interface has sent (R256, R284). -/
  sends : Nat
  tlb : List TlbEntry
  /-- Walks of this tile that met a missing page: memory context, page address, level (R391, R394). -/
  missed : List (Fin 128 × Nat × Nat)
  /-- Walks asked for and not yet made: memory context and address. -/
  walks : List (Fin 128 × Word)
  cc : List ConstLine
  ctx : Vector Ctx 4
deriving DecidableEq, Repr

/-! ### Launches and graphs (R124 to R157) -/

/-- Where an edge starts or ends (R126, R65). -/
inductive Endpoint where
  | actor (inst : Nat) (slot : Fin 16)
  | region (r : Fin 128) (port : Fin 14)
  | stream (t : Fin 256) (c : Fin 4) (slot : Fin 16)
  | template (t : Fin 256) (c : Fin 4) (slot : Fin 16)
  | push (slice : Fin 320) (j : Fin 4)
  | link (port : Fin 16) (vc : Nat)
deriving DecidableEq, Repr

/-- An edge (R126): tokens in its firkin, tokens and credits on their way, the producer's credits. A window gives the
tokens as they arrived; an edge port also writes their bytes into a consuming tile's scratchpad (R286, log 59). -/
structure Edge where
  num : Nat
  tokSize : Nat
  depth : Nat
  src : Endpoint
  dst : Endpoint
  /-- The stream network that carries it (0 scalar, 1 vector, 2 control) and the ports of Table 13.6 at its producer and
  its consumer; none for an edge that stays within a unit (R369). -/
  way : Option (Fin 3 × Nat × Nat)
  /-- The first byte of its firkin in the scratchpad of the tile of a consuming actor, where it lies there (R126), and the
  tokens that have come. -/
  base : Option Nat
  arrived : Nat
  /-- Tokens present at the consumer, the oldest first; a window reserves the first of them. -/
  queue : List Token
  /-- Tokens published and not yet countable (R140). -/
  inflight : List Token
  /-- Free slots as the producer's credits show. -/
  credits : Nat
  /-- Freed slots whose credits have not returned. -/
  returning : Nat
  /-- Its EOS token has been consumed. -/
  ended : Bool
  /-- Tokens that have come over its stream link, for an edge that a far package feeds (R425). -/
  crossed : Nat
deriving DecidableEq, Repr

/-- A slot's binding in an actor descriptor (Table 5.10). -/
structure SlotBind where
  edge : Nat
  rate : Nat
  out : Bool
deriving DecidableEq, Repr

/-- An actor instance (R124, R138, Table 5.10). -/
structure Inst where
  num : Nat
  tile : Fin 256
  prio : Fin 4
  handler : Bool
  entry : Pc
  state : Nat
  slots : Vector (Option SlotBind) 16
  enabled : Bool
  /-- An actena or actdis on its way: the wanted state (R166). -/
  wanted : List Bool
  /-- Firings started, aborted ones included (R130); firings ended by end. -/
  started : Nat
  ended : Nat
  /-- Output slots on which a firing that ended by end has issued eeos (R138). -/
  eosDone : BitVec 16
  /-- Order stamp of the last firing's start (R139). -/
  lastFired : Option Nat
deriving DecidableEq, Repr

/-- How far a launch has come (R150 to R153). -/
inductive LaunchPhase where
  /-- Accepted; the dies that have finished step 6 and who has acknowledged. -/
  | setup
  /-- First wave sent: sinks and interior instances are enabled; Running (R152). -/
  | running
  /-- Second wave done. -/
  | sourced
deriving DecidableEq, Repr

/-- A launch on a partition and context (R149 to R154), with its number in order of acceptance. -/
structure Launch where
  id : Nat
  q : Fin 32
  c : Fin 4
  rcd : BitVec 512
  phase : LaunchPhase
  /-- Dies whose steps are complete; who must acknowledge and has not: the dies of the partition and
  the far packages (R152). -/
  doneDies : List (Fin 2)
  awaiting : List AckSource
  /-- Its image's memory context, and an access of the Launch Unit that is parked. -/
  mctx : Fin 128
  parked : Option Nat
  /-- The completion record is owed with this status, cause and detail (R153). -/
  ending : Option (Nat × Nat × Nat)
  insts : List Inst
  edges : List Edge
  /-- Handle table: descriptors with their hardware fields (R200). -/
  handles : List (BitVec 1024)
  groups : List Nat
  /-- Tiles with actor code (section CODE). -/
  tiles : List (Fin 256)
  /-- Scratchpad ranges the image allocates: tile, first byte, length (R401). -/
  ranges : List (Fin 256 × Nat × Nat)
  /-- Keys of the share routes for gangs (R242). -/
  routes : List Nat
  /-- The link channels of its cut edges (R425). -/
  vcs : List (Fin 16 × Nat)
  /-- Regions, STA slots and push programs of its image. -/
  regions : List (Fin 128)
  staSlots : List (Fin 32 × Fin 8)
  pushes : List (Fin 320 × Fin 4)
  /-- Boxes of its routes: element and cluster (R370). -/
  boxes : List (Nat × Fin 32)
  /-- Token queue to signal at completion: the submitting context and queue, and its launch (R173). -/
  notify : Option (Fin 256 × Fin 4 × Fin 16 × Nat)
  /-- Tiles on which ctxsv has stopped new firings, and on which it has vacated the context (R401, R407). -/
  saving : List (Fin 256)
  saved : List (Fin 256)
deriving DecidableEq, Repr

/-- A partition (R34, R417). -/
structure Partition where
  q : Fin 32
  clusters : BitVec 32
  keys : List (Fin 4096)
  peer : Bool
  host : Bool
  owner : BitVec 256
  /-- Stall-map area (R399). -/
  mapArea : Word
deriving DecidableEq, Repr

/-- An event that has not been pushed onto the event actor's edge: code, unit, value and die 0's count (R436, R455). -/
structure MgmtEvent where
  code : Nat
  unit : Nat
  value : Nat
  time : Nat
deriving DecidableEq, Repr

/-- The management core (R28, R53, R389, R453). -/
structure Mgmt where
  ctx : Ctx
  imem : List Host.Cell
  tq : Vector Nat 16
  pend : Vector Nat 16
  /-- Its firmware image, when one is loaded: the actors and the event edge (R436). -/
  fw : Option Launch
  issues : Nat
  evmask : Word
  evstat : Word
  /-- Events of this cycle, and events that wait for a free slot of the edge (R436). -/
  events : List MgmtEvent
  elogctl : Word
  tsel : Word
  fwreg : Vector Word 16
  /-- Resets of the core reported to the host (R389). -/
  resets : Nat
  /-- Requests of the host on PF0 so far (event code 5, R436). -/
  requests : Nat
  /-- An mts has sent its writes and waits until the tiles accept them (R453). -/
  writing : Bool
deriving DecidableEq, Repr

/-- Whose turn it is when no step is pending (log 3): a tile's sequencer, the management core's, or one
of the other units: 0 to 255 the units of a tile, 256 to 287 of a cluster, 288 to 415 a region, 416 the
Launch Units, 417 the conversions, 418 the management core's edges. -/
inductive Turn where
  | tile (t : Fin 256) | mgmt | unit (n : Fin 419)
deriving DecidableEq, Repr

/-- An entry of a die error log (Table 16.8). -/
structure LogEntry where
  seq : Nat
  source : Nat
  code : Nat
  unit : Nat
  snap : Nat
  time : Word
  info : Nat
deriving DecidableEq, Repr

/-- What a source offers to its die's error log in a cycle (R437, R438). -/
structure LogOffer where
  source : Nat
  code : Nat
  unit : Nat
  snap : Nat
  info : Nat
deriving DecidableEq, Repr

/-- A die (R8, R29). -/
structure Die where
  /-- SEQ_CYCLE COUNT (R145). -/
  cycle : BitVec 63
  /-- Tokens of the accesses parked in the replay queue (R394). -/
  replay : List Nat
  /-- The die error log: unread entries, the next sequence number, entries lost (R437, R438). -/
  log : List LogEntry
  /-- What has been offered to it in this cycle (R438). -/
  offers : List LogOffer
  logSeq : Nat
  logLost : Nat
  /-- The quarantine log: the hop, and what it dropped (R427). -/
  quarantine : List Quarantine
deriving DecidableEq, Repr

/-! ### Slices (R19, R261 to R263, R433) -/

/-- A line that a slice holds: line address PA<49:7>, its protection, and that the access which
missed has not been performed since the fill (Table 9.2). -/
structure SliceLine where
  line : Nat
  prot : Bool
  fresh : Bool
deriving DecidableEq, Repr

/-- How an access treats the selector of its memory context at a miss (R433): a plain access duels; a
read-modify-write inserts by the set's role and moves nothing; a push-program read inserts by the selector (R261). -/
inductive Duel where
  | plain | rmw | push
deriving DecidableEq, Repr

/-- A line being filled: the policy and context of the access that missed; how that access treats
the selector and whether it is a prefetch; the policies of prefetches that came since. -/
structure Miss where
  line : Nat
  cp : Fin 4
  mctx : Fin 128
  duel : Duel
  pref : Bool
  later : List (Fin 4)
deriving DecidableEq, Repr

/-- An access that a miss holds (R263): the line, and the request by its context, issue order and
address. -/
structure HeldAccess where
  line : Nat
  agent : AgentId
  order : Nat
  va : Nat
deriving DecidableEq, Repr

/-- A slice: its lines, the most recently used first; the lines being filled; the accesses held, in
entry order; the selectors. -/
structure Slice where
  lines : List SliceLine
  miss : List Miss
  held : List HeldAccess
  sel : Vector Nat 128
  push : Vector (Option PushProg) 4
deriving DecidableEq, Repr

/-! ### The host side (R410 to R417, R440) -/

/-- A ring in host memory: base, size, head, tail and the entries waiting on the device (R413). -/
structure Ring where
  base : Word
  size : Word
  head : Nat
  tail : Nat
  wait : List (List Byte)
deriving DecidableEq, Repr

/-- State of a TEE device interface (R422, R423): CONFIG_UNLOCKED, CONFIG_LOCKED, RUN, ERROR. -/
inductive Tdi where
  | unlocked | locked | run | error
deriving DecidableEq, Repr

/-- A virtual function (Table 15.1). -/
structure Vf where
  /-- SUBSTAT (Table 15.2). -/
  status : BitVec 8
  seq : BitVec 32
  cq : Ring
  fq : Ring
  frToken : Word
  apctl : Word
  /-- PSTAT bits 1 to 3: CQ overflow, hang map written, link down. -/
  overflow : Bool
  hang : Bool
  linkDown : Bool
  /-- Resets of the management core reported through it (R389). -/
  resets : Nat
  /-- The MSI-X table and pending bits, and the vectors raised, in order (R410, R411). -/
  table : Vector (BitVec 128) 3
  pba : BitVec 3
  msix : List (Fin 3)
  /-- Where the host has placed BAR0 and BAR2 (R411, R423). -/
  bars : Vector Word 2
  tdi : Tdi
deriving DecidableEq, Repr

/-- A loaded key slot, the same in every channel group (R421). -/
structure KeySlot where
  slot : Fin 4096
  key : Key
  hostvis : Bool
deriving DecidableEq, Repr

/-- A key request in progress (R421, R422, R423). -/
inductive KeyJob where
  /-- An erasure of a partition's slot: the key that requests may hold, once step 1 has begun; the launches that end
  first; and whether a response is owed. -/
  | erase (q : Fin 32) (slot : Fin 4096) (key : Option Key) (after : List Nat) (reply : Bool)
  /-- A load that came to the mailbox behind an erasure of its slot, with the number of its session. -/
  | load (q : Fin 32) (slot : Fin 4096) (hostvis : Bool) (wrapped : BitVec 576) (session : Nat)
deriving DecidableEq, Repr

/-- What a function's DOE mailbox answered last (R420, Table 15.5). -/
inductive Answer where
  | none
  | ok
  | unsupported
  | unspecified
  | status (n : Nat)
  | digest (h : BitVec 256)
  | certificate (chain : List Byte)
  | partition (clusters : BitVec 32) (keys : List (Fin 4096)) (owner : BitVec 256) (tdi : Tdi)
  | empty
deriving DecidableEq, Repr

/-- The responder of one function: what has been negotiated, its session (0 none, 1 in handshake,
2 open), the session's number and key updates, the last answer and its signature (R419, R420). -/
structure Spdm where
  version : Bool
  caps : Bool
  algs : Bool
  session : Nat
  number : Nat
  updates : Nat
  answer : Answer
  sig : List Byte
deriving DecidableEq, Repr

/-- LMS leaves: of the identity key and of the alias key in use, the next leaf and the first that the
flash does not record as reserved; the aliases certified so far, the last of which is in use, and the leaf that
certified it (R419). -/
structure Leaves where
  idNext : Nat
  idRes : Nat
  aliases : Nat
  idLeaf : Nat
  alNext : Nat
  alRes : Nat
deriving DecidableEq, Repr

/-- A time-slice command that firmware holds, with the tiles that have not applied it once it is the
first of its partition (R147, R148). -/
structure SliceCmd where
  n0 : Nat
  n1 : Nat
  q : Fin 32
  pri : Word
  floor : Word
  tag : Nat
  active : Bool
  late : Bool
  waiting : List (Fin 256)
deriving DecidableEq, Repr

/-- An output of a switch box with its source code, or an edge of a cluster with its stitch (R370):
element, cluster, field and code, and the launch whose streams set it, by its number; launches that set one field alike
hold it each. -/
structure BoxOut where
  elem : Nat
  cluster : Fin 32
  field : Nat
  code : Nat
  owner : Nat
deriving DecidableEq, Repr

/-- What an actor instance's part of a saved context holds (R401). -/
structure InstSave where
  num : Nat
  enabled : Bool
  started : Nat
  ended : Nat
deriving DecidableEq, Repr

/-- A context saved by ctxsv (R401): the number and address of its image, and its sections. -/
structure CtxSave where
  num : Nat
  addr : Nat
  tile : Fin 256
  c : Fin 4
  launch : Nat
  pri : Nat
  floor : Nat
  ctx : Ctx
  tq : Vector Nat 16
  banks : Vector (Vector AccRow 128) 4
  shape : Fin 4
  sort : Fin 16
  imem : List Byte
  scratch : List (Nat × List Byte × List Bool)
  insts : List InstSave
  /-- The bytes of its image. -/
  image : List Byte
deriving DecidableEq, Repr

/-- What the host port last answered to an aperture request (R415, R440): nothing, the bytes of a read
with their poison, completion of a write, Completer Abort, Unsupported Request. -/
inductive Reply where
  | none
  | data (bytes : List Byte) (poison : List Bool)
  | done
  | abort
  | unsupported
deriving DecidableEq, Repr

/-- An aperture request (R415): a read of n bytes, a write, or an AtomicOp. -/
inductive AperOp where
  | read (n : Nat)
  | write (bytes : List Byte)
  | atomic (op : AtomOp) (isCas b8 : Bool) (v cmp : Word)
deriving DecidableEq, Repr

/-- An aperture request that waits at its home: its function and its offset (R263, R415). -/
structure Aper where
  q : Fin 32
  off : Nat
  op : AperOp
deriving DecidableEq, Repr

/-- Registers of PF0: links (Table 15.6), features and readiness (Table 16.10). -/
structure Pf0 where
  pkgid : Word
  lnkmap : Vector Word 16
  lnkst : Vector Word 16
  /-- Replays of the flit in transfer that have failed, by port (R424). -/
  lnkFail : Vector Nat 16
  featAcc : Vector Word 4
  featGo : Bool
  featDone : Bool
  featErr : Bool
  readyCl : BitVec 32
  readyRg : BitVec 128
  readyCg : BitVec 32
  readyMisc : BitVec 18
  availCl : BitVec 32
  availRg : BitVec 128
  availCg : BitVec 32
  availLn : BitVec 18
  tsstat : Word
deriving DecidableEq, Repr

/-! ### HBM stacks (R429 to R432, R451) -/

/-- A layer sensor, HBM_TEMPn (Table 16.1). -/
structure Sensor where
  temp : BitVec 8
  valid : Bool
  level : Fin 4
  hot : Bool
deriving DecidableEq, Repr

/-- Alert zones (R451). -/
inductive Zone where
  | below | band | above
deriving DecidableEq, Repr

/-- A stack: zone, power and whether the level-2 idle slots are one in two (Table 16.3). -/
structure Stack where
  zone : Zone
  powered : Bool
  halfIdle : Bool
deriving DecidableEq, Repr

/-- HBM and its protection, one per package. -/
structure Hbm where
  sensors : Vector Sensor 128
  stack : Vector Stack 8
  thr : Word
  sridle : Word
  /-- Pseudo-channels in self-refresh, and the IDLE value with which each one's timer started (R429). -/
  asleep : BitVec 512
  srIdle : Vector Nat 512
deriving DecidableEq, Repr

/-- A cluster (R9, Table 1.2). -/
structure Cluster where
  tlb : List TlbEntry
  /-- SEQ_HANGLIM (R398). -/
  hangLim : BitVec 32
  slices : Vector Slice 10
  /-- HBM_ECNT of its channel group: CE, UE (Table 16.7). -/
  ce : Nat
  ue : Nat
  /-- Requests of the channel group's stream engine, and the stamp of the next to arrive. -/
  eng : List EngReq
  stamp : Nat
  sta : Vector StaSlot 8
  /-- The conversion that its Layout Conversion Engine served last (R210). -/
  convLast : Option Nat
deriving DecidableEq, Repr

/-! ### Fabric regions (R352 to R368) -/

/-- A configuration of a region (Table 13.4): its identity, the clock range, the drain budget and
the port map: direction (0 unused, 1 input, 2 output) and token size of each port. -/
structure RgCfg where
  idhash : BitVec 256
  swapctl : Bool
  fmin : Nat
  fmax : Nat
  drain : Nat
  ports : List (Nat × Nat)
deriving DecidableEq, Repr

/-- A token the operator has accepted: port, payload and flags (R359). -/
structure RgToken where
  port : Fin 14
  bits : BitVec 512
  eos : Bool
  poison : Bool
deriving DecidableEq, Repr

/-- The state of an operator: its content is a function of its configuration and of the tokens it has
accepted (R359), so it is held as those tokens and the tokens emitted on each port. -/
structure RgOp where
  hist : List RgToken
  emitted : List (Fin 14)
deriving DecidableEq, Repr

/-- A saved image (R366). -/
structure RgImage where
  idhash : BitVec 256
  op : RgOp
  taint : Bool
deriving DecidableEq, Repr

/-- Who waits for a region's operation. -/
structure RgWait where
  t : Fin 256
  c : Fin 4
  sq : Option (Fin 16)
  by_ : Issued
deriving DecidableEq, Repr

/-- An rgload on its way (R378). -/
structure RgLoad where
  addr : Nat
  who : RgWait
  parked : Option Nat
  /-- The die's Region Manager has begun it: it stages one region at a time (R358). -/
  begun : Bool
deriving DecidableEq, Repr

/-- A swap in progress, or waiting for the staging (R361, R363): whether it is forced, the contexts
and whether a token asked for it. -/
structure RgSwap where
  force : Bool
  who : List RgWait
  token : Bool
deriving DecidableEq, Repr

/-- A region (R352 to R368, Table 13.9). -/
structure Region where
  /-- 0 Blank, 1 Running, 2 Draining, 3 Frozen. -/
  st : Nat
  /-- 0 none, 1 staging, 2 staged, 3 failed. -/
  stage : Nat
  /-- The launch that owns it, by its number (R352). -/
  owner : Option Nat
  active : Option RgCfg
  staged : Option RgCfg
  op : RgOp
  outbuf : List RgToken
  taint : Bool
  saved : Bool
  quiescent : Bool
  lasterr : Nat
  image : Option RgImage
  load : Option RgLoad
  swap : Option RgSwap
  /-- Requested frequency in MHz, 0 when none was requested. -/
  req : Nat
  /-- The least step the power cap allows, and whether the synthesiser is relocking (R355, R356). -/
  capk : Nat
  relock : Bool
  /-- RGN_CAP, and the consecutive windows below 90 % of it and above it at 50 MHz. -/
  cap : BitVec 6
  below : Nat
  above : Nat
deriving DecidableEq, Repr

/-- The machine. -/
structure State where
  /-- The sequencer that issues the instruction being executed. -/
  cur : AgentId
  turn : Turn
  /-- The machine's own steps that happen next, the first one first (log 3). -/
  agenda : List Instr
  tiles : Vector Tile 256
  mgmt : Mgmt
  clusters : Vector Cluster 32
  dies : Vector Die 2
  parts : List Partition
  launches : List Launch
  /-- Launches whose contexts are all saved (R154, R401); the saved contexts; their number. -/
  shelf : List Launch
  saves : List CtxSave
  nextSave : Nat
  nextLaunch : Nat
  /-- Switch boxes and cluster edges that are not at code 0 (R370). -/
  boxes : List BoxOut
  groups : List GroupObj
  /-- Conversions in order of issue; demanded units (conversion and unit) in order of arrival (R210);
  parked writes of unit-state maps (R209). -/
  convs : List Conv
  demands : List (Nat × Nat)
  mapWrites : List MapWrite
  nextConv : Nat
  /-- Sectors that requests of the engines write, in order of their first writes (R290). -/
  sectors : List SectorUse
  mem : Memory
  hostMem : Memory
  /-- Lines whose DRAM bytes are ciphertext, with the key, in rising order (R254, R416). -/
  lineKeys : List (Nat × Key)
  keys : List KeySlot
  /-- Erasures in progress and the loads behind them, in the order in which they came (R422). -/
  erasing : List KeyJob
  vfs : Vector Vf 32
  pf : Pf0
  /-- The last answer of the host port (log 3), and the aperture requests that wait (R263, R415). -/
  reply : Reply
  aper : List Aper
  /-- Held time-slice commands, in arrival order (R148). -/
  held : List SliceCmd
  /-- The SPDM responders of PF0 and of the virtual functions, the LMS leaves, and the keyed IDE
  streams: 0 the link stream, 1 to 32 the selective ones (R419, R420, R423). -/
  spdm : Vector Spdm 33
  /-- The root secret, derived at every power-on (R418). -/
  root : BitVec 256
  leaves : Leaves
  ide : BitVec 33
  hbm : Hbm
  regions : Vector Region 128
  /-- LIM of the current limiter (R434). -/
  lim : Fin 32
  xltRoot : Vector Word 128
  xltWin : Vector Word 32
  /-- Counter of the free values (log 4). -/
  freeCtr : Nat
  /-- Next token of a parked access (R394). -/
  nextTok : Nat
deriving DecidableEq, Repr

/-! ### Reset -/

/-- A memory with nothing listed. -/
def Memory.reset : Memory := ⟨[], []⟩

def StreamStat.reset : StreamStat := ⟨0, 0, 0, false, false, false, false, 0, Ev.zero, 0⟩

def StreamSlot.reset : StreamSlot := ⟨none, StreamStat.reset, none, []⟩

def Watermark.reset : Watermark := ⟨0, 0, 0, false, 0, StreamStat.reset⟩

/-- A context: every register 0, and the trap area its reset value gives it (R383). -/
def Ctx.reset (trapbase : Word) : Ctx :=
  { s := Vector.replicate 32 0, sp := 0, p := 0, k := Vector.replicate 8 0, v := Vector.replicate 32 ⟨0, 0⟩,
    h := Vector.replicate 16 ⟨false, 0, 0⟩, pc := 0, pcOver := false, phase := .idle, firing := none, serials := 0,
    hIssued := 0, hInst := 0, hSerial := 0, aborted := [], dpc := 0, tcause := 0, tdetail := 0, tpc := 0, owed := none,
    trapbase := trapbase, ss := Vector.replicate 16 StreamSlot.reset, tmpl := Vector.replicate 16 none,
    wm := Vector.replicate 16 Watermark.reset, wcb := [], reqs := [], groups := [], lastIssue := none, winIssues := 0,
    sendMark := 0 }

def AccRow.reset : AccRow := ⟨0, 0⟩

/-- A tile: nothing queued; thresholds at 16 (R435); the trap areas of its contexts at the top of the
scratchpad (R383). -/
def Tile.reset : Tile :=
  { scratch := Memory.reset, imem := [], banks := Vector.replicate 4 (Vector.replicate 128 AccRow.reset),
    tq := Vector.replicate 16 0, pend := Vector.replicate 16 0, mq := Vector.replicate 4 [], shape := 0, sort := 0,
    issueShape := 0, issueSort := 0, cfgs := [], sweep := false, topk := Vector.replicate 4 [],
    topkPoison := Vector.replicate 4 false, gang := Vector.replicate 4 none, cnt := Vector.replicate 3 0, counted := [], cntthr := 0,
    ctxpri := 0, floor := 0, priChg := Vector.replicate 4 none, arriving := [], thrN := 16, thrEff := 16, issues := 0, sends := 0,
    tlb := [], missed := [], walks := [], cc := [],
    ctx := #v[Ctx.reset 0x17FC00, Ctx.reset 0x17FD00, Ctx.reset 0x17FE00, Ctx.reset 0x17FF00] }

def Slice.reset : Slice := ⟨[], [], [], Vector.replicate 128 511, Vector.replicate 4 none⟩

def StaSlot.reset : StaSlot := ⟨0, none, ⟨0, 0, 0, 0, [], [], []⟩, [], 0, none, 0, [], []⟩

/-- A cluster: SEQ_HANGLIM 0x8000_0000 (R398). -/
def Cluster.reset : Cluster :=
  { tlb := [], hangLim := 0x80000000, slices := Vector.replicate 10 Slice.reset, ce := 0, ue := 0, eng := [], stamp := 0,
    sta := Vector.replicate 8 StaSlot.reset, convLast := none }

def Die.reset : Die := ⟨0, [], [], [], 0, 0, []⟩

/-- The management core: every event source enabled (R436), and no firmware image loaded. -/
def Mgmt.reset : Mgmt :=
  { ctx := Ctx.reset 0, imem := [], tq := Vector.replicate 16 0, pend := Vector.replicate 16 0, fw := none, issues := 0,
    evmask := 0xFF, evstat := 0, events := [], elogctl := 0, tsel := 0, fwreg := Vector.replicate 16 0, resets := 0, requests := 0,
    writing := false }

def Ring.reset : Ring := ⟨0, 0, 0, 0, []⟩

/-- A virtual function: every vector masked (log 9). -/
def Vf.reset : Vf :=
  { status := 0, seq := 0, cq := Ring.reset, fq := Ring.reset, frToken := 0, apctl := 0, overflow := false, hang := false,
    linkDown := false, resets := 0, table := Vector.replicate 3 (BitVec.twoPow 128 96), pba := 0, msix := [],
    bars := Vector.replicate 2 0, tdi := .unlocked }

/-- PF0: no package number, no link up, no feature accepted, nothing ready; every unit available. -/
def Pf0.reset : Pf0 :=
  { pkgid := 0, lnkmap := Vector.replicate 16 0, lnkst := Vector.replicate 16 0, lnkFail := Vector.replicate 16 0,
    featAcc := Vector.replicate 4 0, featGo := false, featDone := false, featErr := false, readyCl := 0, readyRg := 0, readyCg := 0, readyMisc := 0,
    availCl := BitVec.allOnes 32, availRg := BitVec.allOnes 128, availCg := BitVec.allOnes 32, availLn := BitVec.allOnes 18,
    tsstat := 0 }

def Spdm.reset : Spdm := ⟨false, false, false, 0, 0, 0, .none, []⟩

/-- The stacks: powered, in the below zone; the thresholds of Table 16.2 and SRIDLE 1,000 (R429). -/
def Hbm.reset : Hbm :=
  { sensors := Vector.replicate 128 ⟨0, false, 0, false⟩, stack := Vector.replicate 8 ⟨.below, true, false⟩,
    thr := 0x3695f5550, sridle := 1000, asleep := 0, srIdle := Vector.replicate 512 1000 }

/-- A blank region: a cap of 22 W, and no step held back by it (R356). -/
def Region.reset : Region :=
  { st := 0, stage := 0, owner := none, active := none, staged := none, op := ⟨[], []⟩, outbuf := [], taint := false,
    saved := false, quiescent := false, lasterr := 0, image := none, load := none, swap := none, req := 0, capk := 4,
    relock := false, cap := 22, below := 0, above := 0 }

/-- The machine right after reset. -/
def State.reset : State :=
  { cur := .tile 0 0, turn := .tile 0, agenda := [], tiles := Vector.replicate 256 Tile.reset, mgmt := Mgmt.reset,
    clusters := Vector.replicate 32 Cluster.reset, dies := Vector.replicate 2 Die.reset, parts := [], launches := [],
    shelf := [], saves := [], nextSave := 0, nextLaunch := 0, boxes := [], groups := [], convs := [],
    demands := [], mapWrites := [], nextConv := 0, sectors := [],
    mem := Memory.reset, hostMem := Memory.reset, lineKeys := [], keys := [], erasing := [], vfs := Vector.replicate 32 Vf.reset,
    pf := Pf0.reset, reply := .none, aper := [], held := [], spdm := Vector.replicate 33 Spdm.reset, root := Config.rootSecret,
    leaves := ⟨0, 0, 0, 0, 0, 0⟩, ide := 0,
    hbm := Hbm.reset, regions := Vector.replicate 128 Region.reset, lim := 16, xltRoot := Vector.replicate 128 0,
    xltWin := Vector.replicate 32 0, freeCtr := 0, nextTok := 0 }

end Sys2Proof.Machine
end

