-- ==== Sys2Proof/Machine/Mem.lean ====
section
/-! DEFINITION. Bytes and poison of a memory (R3, R255): one read and one write of a byte, and the
wider accesses built from them. -/

namespace Sys2Proof.Machine

/-- The byte at an address; an unlisted byte reads 0 (log 2). -/
def cellGet : List Host.Cell → Nat → Byte
  | [], _ => 0
  | (a, b) :: r, x => if a = x then b else cellGet r x

/-- Write a byte, keeping the addresses rising and no zero byte listed. -/
def cellSet : List Host.Cell → Nat → Byte → List Host.Cell
  | [], x, b => if b = 0 then [] else [(x, b)]
  | (a, c) :: r, x, b =>
    if x < a then (if b = 0 then (a, c) :: r else (x, b) :: (a, c) :: r)
    else if x = a then (if b = 0 then r else (a, b) :: r)
    else (a, c) :: cellSet r x b

/-- Insert a number into a rising list. -/
def natInsert : List Nat → Nat → List Nat
  | [], x => [x]
  | a :: r, x => if x < a then x :: a :: r else if x = a then a :: r else a :: natInsert r x

/-- Write bytes from an address upward. -/
def cellsWrite : List Host.Cell → Nat → List Byte → List Host.Cell
  | m, _, [] => m
  | m, a, b :: bs => cellsWrite (cellSet m a b) (a + 1) bs

/-- Read n bytes from an address upward. -/
def cellsRead (m : List Host.Cell) (a n : Nat) : List Byte :=
  (List.range n).map (fun i => cellGet m (a + i))

/-- The addresses of a list of cells rise strictly, from lo up, and no byte is 0. -/
def cellsWf : Nat → List Host.Cell → Bool
  | _, [] => true
  | lo, (a, b) :: r => decide (lo ≤ a) && b != 0 && cellsWf (a + 1) r

/-- A list of numbers rises strictly, from lo up. -/
def natsWf : Nat → List Nat → Bool
  | _, [] => true
  | lo, a :: r => decide (lo ≤ a) && natsWf (a + 1) r

/-- The canonical form of a memory. -/
def Memory.wf (m : Memory) : Bool := cellsWf 0 m.cells && natsWf 0 m.poison

/-- The memory with nothing listed. -/
def Memory.empty : Memory := ⟨[], []⟩

/-- The byte at an address. -/
def Memory.get (m : Memory) (a : Nat) : Byte := cellGet m.cells a

/-- The sector of an address is poisoned (R255). -/
def Memory.poisoned (m : Memory) (a : Nat) : Bool := m.poison.contains (a / 32)

def Memory.read (m : Memory) (a n : Nat) : List Byte := cellsRead m.cells a n

/-- The poison seen by each of n bytes from an address (R255). -/
def Memory.readPoison (m : Memory) (a n : Nat) : List Bool :=
  (List.range n).map (fun i => m.poisoned (a + i))

/-- The n bytes at an address as a number (R3). -/
def Memory.readNat (m : Memory) (a n : Nat) : Nat := leNat (m.read a n)

/-- Poison a sector (R396). -/
def Memory.poisonSector (m : Memory) (sec : Nat) : Memory := { m with poison := natInsert m.poison sec }

/-- Heal the sectors that a write of n bytes at a covers whole (R255). -/
def healCovered (p : List Nat) (a n : Nat) : List Nat :=
  p.filter (fun sec => !(decide (a ≤ sec * 32) && decide (sec * 32 + 32 ≤ a + n)))

/-- A store of bytes from a clean register (R255). -/
def Memory.write (m : Memory) (a : Nat) (bs : List Byte) : Memory :=
  { cells := cellsWrite m.cells a bs, poison := healCovered m.poison a bs.length }

/-- The low n bytes of a number, stored at an address. -/
def Memory.writeNat (m : Memory) (a n v : Nat) : Memory := m.write a (leBytes n v)

/-- Write the bytes whose mask bit is set. -/
def cellsWriteMasked : List Host.Cell → Nat → List Byte → List Bool → List Host.Cell
  | m, a, b :: bs, k :: ks => cellsWriteMasked (if k then cellSet m a b else m) (a + 1) bs ks
  | m, _, _, _ => m

/-- Every byte of a sector is written under the mask of a line at address a. -/
def sectorCovered (mask : List Bool) (a sec : Nat) : Bool :=
  decide (a ≤ sec * 32) && (List.range 32).all (fun i => mask.getD (sec * 32 + i - a) false)

/-- A masked store (R255, R257). -/
def Memory.writeMasked (m : Memory) (a : Nat) (bs : List Byte) (mask : List Bool) : Memory :=
  { cells := cellsWriteMasked m.cells a bs mask,
    poison := m.poison.filter (fun sec => !sectorCovered mask a sec) }

/-- The bits of a sector that n bits from bit b cover. -/
def coverMask (sec b n : Nat) : BitVec 256 :=
  let lo := Max.max b (256 * sec)
  let hi := Min.min (b + n) (256 * sec + 256)
  BitVec.ofNat 256 ((2 ^ (hi - lo) - 1) <<< (lo - 256 * sec))

/-- Heal the sectors that writes of ranges of bits, first bit and number, cover whole together (R255). -/
def Memory.healBits (m : Memory) (xs : List (Nat × Nat)) : Memory :=
  { m with poison := m.poison.filter (fun sec =>
      xs.foldl (fun k x => k ||| coverMask sec x.1 x.2) (0 : BitVec 256) != BitVec.allOnes 256) }

/-- Heal one sector. -/
def Memory.healSector (m : Memory) (sec : Nat) : Memory := { m with poison := m.poison.filter (fun x => x != sec) }

/-- A store whose source is poisoned data of an engine: the sectors touched become poisoned. -/
def Memory.poisonRange (m : Memory) (a n : Nat) : Memory :=
  if n = 0 then m
  else { m with poison := (List.range ((a + n + 31) / 32 - a / 32)).foldl (fun p i => natInsert p (a / 32 + i)) m.poison }

/-- A write that copies the poison seen at its source: each sector touched by a poisoned byte becomes
poisoned after the write. -/
def Memory.writePoison (m : Memory) (a : Nat) (bs : List Byte) (po : List Bool) : Memory :=
  let m1 := m.write a bs
  (List.range bs.length).foldl (fun x i => if po.getD i false then x.poisonSector ((a + i) / 32) else x) m1

end Sys2Proof.Machine
end

