-- ==== Sys2Proof/Machine/Regs.lean ====
section
/-! DEFINITION. Reads and writes of the registers of a context (R54, R58) and of the parts of the
state that an agent names. -/

namespace Sys2Proof.Machine

/-- Replace the element of a vector. -/
def vset {α : Type} {n : Nat} (v : Vector α n) (i : Fin n) (x : α) : Vector α n := v.set i.val x i.isLt

/-- Set or clear one bit. -/
def setBit {w : Nat} (x : BitVec w) (i : Nat) (b : Bool) : BitVec w :=
  if b then x ||| BitVec.twoPow w i else x &&& ~~~(BitVec.twoPow w i)

/-! ### Scalar, predicate, mask, vector and handle registers -/

/-- S[n]; s0 reads 0 (Table 2.10). -/
def Ctx.readS (c : Ctx) (n : Fin 32) : Word := if n = 0 then 0 else c.s.get n

/-- Poison(S[n]); s0 is never poisoned (R99). -/
def Ctx.poisS (c : Ctx) (n : Fin 32) : Bool := n != 0 && c.sp.getLsbD n.val

/-- S[n] := v with a poison bit; writes to s0 are discarded (R54). -/
def Ctx.writeS (c : Ctx) (n : Fin 32) (v : Word) (po : Bool) : Ctx :=
  if n = 0 then c else { c with s := vset c.s n v, sp := setBit c.sp n.val po }

/-- P[n]; p0 reads true. -/
def Ctx.readP (c : Ctx) (n : Fin 16) : Bool := n == 0 || c.p.getLsbD n.val

/-- P[n] := b; writes to p0 are discarded. -/
def Ctx.writeP (c : Ctx) (n : Fin 16) (b : Bool) : Ctx :=
  if n = 0 then c else { c with p := setBit c.p n.val b }

/-- K[n]; k0 reads all ones. -/
def Ctx.readK (c : Ctx) (n : Fin 8) : Word := if n = 0 then BitVec.allOnes 64 else c.k.get n

/-- K[n] := v; writes to k0 are discarded. -/
def Ctx.writeK (c : Ctx) (n : Fin 8) (v : Word) : Ctx :=
  if n = 0 then c else { c with k := vset c.k n v }

def Ctx.readV (c : Ctx) (n : Fin 32) : VReg := c.v.get n

def Ctx.writeV (c : Ctx) (n : Fin 32) (v : VReg) : Ctx := { c with v := vset c.v n v }

def Ctx.readH (c : Ctx) (n : Fin 16) : HReg := c.h.get n

def Ctx.writeH (c : Ctx) (n : Fin 16) (v : HReg) : Ctx := { c with h := vset c.h n v }

/-! ### Agents -/

def State.tile (s : State) (t : Fin 256) : Tile := s.tiles.get t

def State.setTile (s : State) (t : Fin 256) (x : Tile) : State := { s with tiles := vset s.tiles t x }

def State.modTile (s : State) (t : Fin 256) (f : Tile → Tile) : State := s.setTile t (f (s.tile t))

/-- The context of an agent. -/
def State.ctx (s : State) : AgentId → Ctx
  | .tile t c => (s.tile t).ctx.get c
  | .mgmt => s.mgmt.ctx

/-- Replace the context of an agent. -/
def State.setCtx (s : State) (g : AgentId) (x : Ctx) : State :=
  match g with
  | .tile t c => s.modTile t (fun y => { y with ctx := vset y.ctx c x })
  | .mgmt => { s with mgmt := { s.mgmt with ctx := x } }

def State.modCtx (s : State) (g : AgentId) (f : Ctx → Ctx) : State := s.setCtx g (f (s.ctx g))

/-- The token queues of an agent's tile; the management core has its own. -/
def State.tq (s : State) (g : AgentId) (q : Fin 16) : Nat :=
  match g with
  | .tile t _ => (s.tile t).tq.get q
  | .mgmt => s.mgmt.tq.get q

def State.setTq (s : State) (g : AgentId) (q : Fin 16) (n : Nat) : State :=
  match g with
  | .tile t _ => s.modTile t (fun y => { y with tq := vset y.tq q n })
  | .mgmt => { s with mgmt := { s.mgmt with tq := vset s.mgmt.tq q n } }

/-- Signals pending on a full queue (R164). -/
def State.pend (s : State) (g : AgentId) (q : Fin 16) : Nat :=
  match g with
  | .tile t _ => (s.tile t).pend.get q
  | .mgmt => s.mgmt.pend.get q

def State.setPend (s : State) (g : AgentId) (q : Fin 16) (n : Nat) : State :=
  match g with
  | .tile t _ => s.modTile t (fun y => { y with pend := vset y.pend q n })
  | .mgmt => { s with mgmt := { s.mgmt with pend := vset s.mgmt.pend q n } }

/-- Signal(tq[q]) of an engine (R47, R164): a queue that holds 63, or that already keeps signals
waiting, keeps this one pending. -/
def State.signal (s : State) (g : AgentId) (q : Fin 16) : State :=
  if s.tq g q < 63 ∧ s.pend g q = 0 then s.setTq g q (s.tq g q + 1)
  else s.setPend g q (s.pend g q + 1)

/-- The signal clause of a completed operation. -/
def State.signalOpt (s : State) (g : AgentId) (q : Option (Fin 16)) : State :=
  match q with
  | some q => s.signal g q
  | none => s

/-- The tile of an agent; the management core stands on none. -/
def agentTile : AgentId → Option (Fin 256)
  | .tile t _ => some t
  | .mgmt => none

/-- The die of a tile (R8, R10): tiles 0-127 on die 0. -/
def dieOfTile (t : Fin 256) : Fin 2 := if t.val < 128 then 0 else 1

/-- The die of an agent; the management core is on die 0 (R13). -/
def agentDie : AgentId → Fin 2
  | .tile t _ => dieOfTile t
  | .mgmt => 0

/-- The cluster of a tile (R9). -/
def clusterOfTile (t : Fin 256) : Fin 32 := ⟨t.val / 8, by omega⟩

/-- A timestamp: the die's count in bits 62:0 and the die in bit 63 (R146). -/
def State.time (s : State) (d : Fin 2) : Word :=
  BitVec.ofNat 64 ((s.dies.get d).cycle.toNat + 2 ^ 63 * d.val)

/-- The instruction memory of an agent. -/
def State.imem (s : State) (g : AgentId) : List Host.Cell :=
  match g with
  | .tile t _ => (s.tile t).imem
  | .mgmt => s.mgmt.imem

/-- The instruction word at an address (R36). -/
def State.word (s : State) (g : AgentId) (pc : Pc) : Word :=
  BitVec.ofNat 64 (leNat (cellsRead (s.imem g) pc.toNat 8))

/-- The issue order of the next instruction of the agent's tile (R239). -/
def State.order (s : State) (g : AgentId) : Nat :=
  match g with
  | .tile t _ => (s.tile t).issues
  | .mgmt => s.mgmt.issues

end Sys2Proof.Machine
end

