-- ==== Sys2Proof/Machine/Operands.lean ====
section
/-! DEFINITION. Operand forms: the registers a word names (R57, R100), effective addresses (R45),
vector elements, masks and broadcast scalars (R58, R177 to R179), and the tile resources an
instruction names (R56). -/

namespace Sys2Proof.Machine

/-! ### Registers named by a word -/

def rs (n : Fin 32) : RegId := .s n
def rv (n : Fin 32) : RegId := .v n

/-- s_n, …, s_(n+k−1), stopping at s31 (R41). -/
def sRun (n : Fin 32) (k : Nat) : List RegId :=
  (List.range k).filterMap (fun i => if h : n.val + i < 32 then some (.s ⟨n.val + i, h⟩) else none)

def vRun (n : Fin 32) (k : Nat) : List RegId :=
  (List.range k).filterMap (fun i => if h : n.val + i < 32 then some (.v ⟨n.val + i, h⟩) else none)

def vopRegs : VOp → List RegId
  | .vec r => [.v r]
  | .scal r => [.s r]

def eregRegs : EReg → List RegId
  | .scal r => [.s r]
  | .vec r => [.v r]

def addrRegs (m : AddrArg) : List RegId := [.s m.base, .s m.idx]

def macRegs (m : MacArg) : List RegId := .s m.x :: .s m.z :: .h m.a :: .h m.b :: sRun m.y 3

/-- The registers named outside the header. rank is the rank of the handle the word names, for the
coordinate run of format T (R221). -/
def bodyRegs (rank : Nat) : Instr → List RegId
  | .add _ d a b _ _ | .sub _ d a b _ _ | .mul _ d a b _ _ => [.s d, .s a, .s b]
  | .mulh _ d a b _ | .div _ d a b _ | .rem _ d a b _ | .min _ d a b _ | .max _ d a b _
  | .and _ d a b _ | .or _ d a b _ | .xor _ d a b _ | .andn _ d a b _ | .shl _ d a b _
  | .shr _ d a b _ | .sar _ d a b _ | .rol _ d a b _ => [.s d, .s a, .s b]
  | .lea _ d a b _ _ => [.s d, .s a, .s b]
  | .cmp _ _ d c a b _ => [.p d, .p c, .s a, .s b]
  | .clz _ d a _ | .ctz _ d a _ | .popc _ d a _ | .bswap _ d a _ => [.s d, .s a]
  | .sext _ d a _ => [.s d, .s a]
  | .addi _ d a _ | .muli _ d a _ | .andi _ d a _ | .ori _ d a _ | .xori _ d a _ | .ldih _ d a _ => [.s d, .s a]
  | .shli _ d a _ | .shri _ d a _ | .sari _ d a _ => [.s d, .s a]
  | .cmpi _ _ d a _ _ => [.p d, .s a]
  | .ldi _ d _ => [.s d]
  | .sel _ d c a b => [.s d, .p c, .s a, .s b]
  | .movSS _ d a => [.s d, .s a]
  | .movPS _ d a => [.p d, .s a]
  | .movSP _ d a => [.s d, .p a]
  | .movKS _ d a => [.k d, .s a]
  | .movSK _ d a => [.s d, .k a]
  | .movKK _ d a => [.k d, .k a]
  | .bra _ _ a _ => [.s a]
  | .call _ a _ => [.s a]
  | .jmp _ d a => [.s d, .s a]
  | .ret _ a => [.s a]
  | .pset _ d _ => [.p d]
  | .pand _ d a b _ _ | .por _ d a b _ _ | .pxor _ d a b _ _ => [.p d, .p a, .p b]
  | .pnot _ d a => [.p d, .p a]
  | .epop _ x _ _ _ => eregRegs x
  | .epeek _ x _ z _ _ => .s z :: eregRegs x
  | .epush _ x _ _ _ => eregRegs x
  | .estat _ x _ _ => [.s x]
  | .tqrd _ x _ _ => [.s x]
  | .actena _ a | .actdis _ a => [.s a]
  | .resume _ | .resumeNext _ | .abort _ => [.s 28, .s 29, .s 30, .s 31]
  | .gjoin _ x y _ | .garrive _ x y _ | .gbar _ x y _ | .launch _ x y _ => [.s x, .s y]
  | .gleave _ _ y _ => [.s y]
  | .gwait _ y z _ => [.s y, .s z]
  | .gred _ _ _ x y z _ => [.s x, .s y, .s z]
  | .vadd _ d a b k _ _ | .vsub _ d a b k _ _ | .vmul _ d a b k _ _ => .v d :: .v a :: .k k :: vopRegs b
  | .vmulh _ d a b k _ | .vmin _ d a b k _ | .vmax _ d a b k _ | .vaddFp _ d a b k _
  | .vsubFp _ d a b k _ | .vmulFp _ d a b k _ | .vminFp _ d a b k _ | .vmaxFp _ d a b k _
  | .vand _ d a b k _ | .vor _ d a b k _ | .vxor _ d a b k _ | .vandn _ d a b k _
  | .vshl _ d a b k _ | .vshr _ d a b k _ | .vsar _ d a b k _ => .v d :: .v a :: .k k :: vopRegs b
  | .vabs _ d a k _ _ | .vneg _ d a k _ _ => [.v d, .v a, .k k]
  | .vabsFp _ d a k _ | .vnegFp _ d a k _ => [.v d, .v a, .k k]
  | .vfma _ d a b c k _ | .vfms _ d a b c k _ | .vfnma _ d a b c k _ | .vdot2 _ d a b c k _
  | .vdot4 _ d a b c k _ => .v d :: .v a :: .v c :: .k k :: vopRegs b
  | .vcmp _ _ d a b k _ => .k d :: .v a :: .k k :: vopRegs b
  | .vsel _ d c a b _ => .v d :: .k c :: .v a :: vopRegs b
  | .vcvt _ d a k _ _ _ => [.v d, .v a, .k k]
  | .vqmx _ d a c _ _ _ => [.v d, .v a, .s c]
  | .vdqmx _ d a c k _ _ _ => [.v d, .v a, .s c, .k k]
  | .vexp2 _ d a k | .vlog2 _ d a k | .vrcp _ d a k | .vrsqrt _ d a k | .vsqrt _ d a k => [.v d, .v a, .k k]
  | .vperm _ d a b k _ => [.v d, .v a, .v b, .k k]
  | .vperm2 _ d a b c k _ => [.v d, .v a, .v b, .v c, .k k]
  | .vbcast _ d a k _ => [.v d, .s a, .k k]
  | .vbcastl _ d a b k _ | .vrot _ d a b k _ => [.v d, .v a, .s b, .k k]
  | .vcompress _ d a k _ | .vexpand _ d a k _ => [.v d, .v a, .k k]
  | .vext _ d a _ _ => [.s d, .v a]
  | .vins _ d a _ _ => [.v d, .s a]
  | .vredsum _ d a k _ | .vredmin _ d a k _ | .vredmax _ d a k _ | .vredand _ d a k _
  | .vredor _ d a k _ | .vredxor _ d a k _ | .vargmax _ d a k _ | .vargmin _ d a k _ => [.s d, .v a, .k k]
  | .vscan _ _ d a k _ _ => [.v d, .v a, .k k]
  | .vrng _ d a b k _ => .v d :: .s b :: .k k :: vopRegs a
  | .vptest _ d a k => [.k d, .v a, .k k]
  | .vldi _ d _ | .vldiI64 _ d _ | .viota _ d _ => [.v d]
  | .kand _ d a b | .kor _ d a b | .kxor _ d a b | .kandn _ d a b => [.k d, .k a, .k b]
  | .knot _ d a => [.k d, .k a]
  | .kpopc _ d a | .kffs _ d a => [.s d, .k a]
  | .hdef _ d a _ | .hst _ d a _ => [.s d, .s a]
  | .hld _ d a _ => [.h d, .s a]
  | .hinv _ d all => if all then (List.finRange 16).map .h else [.h d]
  | .ldt _ d hr cb _ k _ | .stt _ d hr cb _ k _ => .v d :: .h hr :: .k k :: sRun cb (Nat.max rank 1)
  | .ldtb _ d hr cb _ k _ sc sr | .sttb _ d hr cb _ k _ sc sr =>
    .v d :: .h hr :: .k k :: sRun cb (Nat.max rank 1) ++ (if sc then sRun ⟨sr.val, by omega⟩ 2 else [])
  | .hrelayout _ d a hr _ _ _ _ => [.s d, .s a, .h hr]
  | .hwait _ hr => [.h hr]
  | .hstat _ d hr => [.s d, .h hr]
  | .mma _ _ m _ | .mmx _ _ m _ | .mmaG _ _ m _ | .mmxG _ _ m _ => macRegs m
  | .mmi _ _ m _ => macRegs m
  | .mgang _ y _ _ _ _ _ _ => [.s y]
  | .mscaleRow _ y _ _ _ => vRun y 2
  | .mscaleCol _ y _ _ _ => [.v y]
  | .mld _ x _ hr _ _ _ | .mst _ x _ hr _ _ _ => .h hr :: sRun x 2
  | .mrow _ x y _ _ _ _ _ => [.v x, .s y]
  | .msort _ x y _ _ => [.v x, .v y]
  | .mtopk _ x y _ _ _ _ _ => [.v x, .v y]
  | .mstat _ d _ => [.s d]
  | .ld _ _ d _ m _ => .s d :: addrRegs m
  | .st _ d _ m _ => .s d :: addrRegs m
  | .lds _ _ d _ m => .s d :: addrRegs m
  | .sts _ d _ m => .s d :: addrRegs m
  | .vld _ d _ m _ | .vst _ d _ m _ => .v d :: addrRegs m
  | .vlds _ d _ m | .vsts _ d _ m => .v d :: addrRegs m
  | .vgath _ d _ m _ => .v d :: addrRegs m
  | .vscat _ d _ m _ => vRun d 2 ++ addrRegs m
  | .ldc _ (.scalar _ _) d m => .s d :: addrRegs m
  | .ldc _ (.vector _) d m => .v d :: addrRegs m
  | .pref _ _ m _ => addrRegs m
  | .prefConst _ _ m => addrRegs m
  | .atom _ _ d _ m _ | .red _ _ d _ m _ => .s d :: addrRegs m
  | .cas _ d _ m _ => sRun d 2 ++ addrRegs m
  | .xadd _ r m _ _ => eregRegs r ++ addrRegs m
  | .xrd _ d m _ _ | .xrdClr _ d m _ _ => .s d :: addrRegs m
  | .cinvLine _ a => [.s a]
  | .sdef _ x _ _ => [.s x]
  | .carm _ x _ _ _ _ => [.s x]
  | .sgo _ _ z _ => [.s z]
  | .sstat _ x _ _ _ => [.s x]
  | .copy _ x z _ _ _ => [.s x, .s z]
  | .staload _ x y _ _ | .staloadUpd _ x y _ _ => [.s x, .s y]
  | .stafree _ y _ _ => [.s y]
  | .stastat _ x y _ _ _ => [.s x, .s y]
  | .rgload _ x y _ => [.s x, .s y]
  | .rgswap _ y _ | .rgswapForce _ y _ | .rgsave _ y _ | .rgrest _ y _ => [.s y]
  | .rgclk _ a _ => [.s a]
  | .rgfrz _ a | .rgfrzDrain _ a | .rgthaw _ a => [.s a]
  | .rgstat _ d a => [.s d, .s a]
  | .mfs _ d _ => [.s d]
  | .mts _ a _ => [.s a]
  | .tlbinv _ (.va a _) => [.s a]
  | .ctxsv _ d a _ | .ctxld _ d a _ => [.s d, .s a]
  | .smap _ d a _ => [.s d, .s a]
  | .pclr _ (.scalar d) => [.s d]
  | .pclr _ (.vector d k) => [.v d, .k k]
  | _ => []

/-- Every register a word names, the prefix predicate included (R100). -/
def regsOf (rank : Nat) (i : Instr) : List RegId :=
  (match i.hdr? with | some h => [.p h.pi] | none => []) ++ bodyRegs rank i

/-- The handle register of format T, whose rank sets the coordinate run. -/
def tensorHandle : Instr → Option (Fin 16)
  | .ldt _ _ hr _ _ _ _ | .stt _ _ hr _ _ _ _ => some hr
  | .ldtb _ _ hr _ _ _ _ _ _ | .sttb _ _ hr _ _ _ _ _ _ => some hr
  | _ => none

/-! ### Addresses (R45) -/

/-- EA := (S[BASE] + S[IDX] + Sext(DISP20, 20)) mod 2^64. -/
def effAddr (c : Ctx) (m : AddrArg) : Nat :=
  (c.readS m.base + c.readS m.idx + m.disp.signExtend 64).toNat

/-! ### Vector elements (R58, R177) -/

/-- N = 2048 / w. -/
def elems (t : Ty) : Nat := 2048 / tyWidth t

/-- Lane(j) of R177. -/
def laneOf (t : Ty) (j : Nat) : Nat := if tyWidth t = 64 then 2 * j else j * tyWidth t / 32

/-- Elem(V, ty, j), as a number. -/
def VReg.elem (v : VReg) (t : Ty) (j : Nat) : Nat := bitsAt v.bits.toNat (j * tyWidth t) (tyWidth t)

/-- The 32-bit lane j. -/
def VReg.lane (v : VReg) (j : Nat) : BitVec 32 := BitVec.ofNat 32 (bitsAt v.bits.toNat (32 * j) 32)

/-- The element is poisoned: its lane is, or either of its lanes for 64 bits (R58). -/
def VReg.elemPoison (v : VReg) (t : Ty) (j : Nat) : Bool :=
  v.poison.getLsbD (laneOf t j) || (tyWidth t == 64 && v.poison.getLsbD (laneOf t j + 1))

/-- Active(K, j): the mask bit that governs element j (R58). -/
def active (k : Word) (t : Ty) (j : Nat) : Bool := k.getLsbD (laneOf t j)

/-- A new element of a destination register: its bits, or none where the mask excludes it. -/
abbrev NewElem := Option (Nat × Bool)

/-- The bits of a register whose elements of width w are given from element j on; an excluded
element keeps its bits. -/
def packElems (w : Nat) (old : Nat) : Nat → List NewElem → Nat
  | _, [] => 0
  | j, e :: es =>
    (match e with | some (x, _) => x % 2 ^ w | none => bitsAt old (j * w) w) * 2 ^ (j * w)
      + packElems w old (j + 1) es

/-- The lanes an element covers. -/
def elemLanes (t : Ty) (j : Nat) : List Nat :=
  if tyWidth t = 64 then [2 * j, 2 * j + 1] else [j * tyWidth t / 32]

/-- Clear the poison of the lanes written, then set it where an element written is poisoned (R180). -/
def packPoison (t : Ty) (old : BitVec 64) (es : List NewElem) : BitVec 64 :=
  let js := es.zipIdx
  let cleared := js.foldl (fun p e => match e.1 with
    | some _ => (elemLanes t e.2).foldl (fun q l => setBit q l false) p
    | none => p) old
  js.foldl (fun p e => match e.1 with
    | some (_, true) => (elemLanes t e.2).foldl (fun q l => setBit q l true) p
    | _ => p) cleared

/-- The register after its elements are written (R178, R180). -/
def VReg.write (v : VReg) (t : Ty) (es : List NewElem) : VReg :=
  { bits := BitVec.ofNat 2048 (packElems (tyWidth t) v.bits.toNat 0 es)
    poison := packPoison t v.poison es }

/-- Operand B of R179: element j and its poison. -/
def vopElem (c : Ctx) (b : VOp) (t : Ty) (j : Nat) : Nat × Bool :=
  match b with
  | .vec r => ((c.readV r).elem t j, (c.readV r).elemPoison t j)
  | .scal r => ((c.readS r).toNat % 2 ^ tyWidth t, c.poisS r)

/-- A register with every lane given, poison clear. -/
def VReg.ofLanes (f : Nat → Nat) : VReg :=
  { bits := BitVec.ofNat 2048 (packElems 32 0 0 ((List.range 64).map (fun j => some (f j, false)))),
    poison := 0 }

/-- The bytes of a register, least significant first (R58). -/
def VReg.bytes (v : VReg) (n : Nat) : List Byte := leBytes n v.bits.toNat

/-- Some lane that holds one of the first n bytes is poisoned. -/
def VReg.poisonIn (v : VReg) (n : Nat) : Bool := (List.range ((n + 3) / 4)).any (fun j => v.poison.getLsbD j)

/-- A register from bytes, zero-filled, each lane poisoned when one of its bytes is (R159, R255). -/
def VReg.ofBytes (bs : List Byte) (po : List Bool) : VReg :=
  { bits := BitVec.ofNat 2048 (leNat bs),
    poison := (List.range 64).foldl
      (fun p j => if (List.range 4).any (fun i => po.getD (4 * j + i) false) then setBit p j true else p) 0 }

/-! ### Tile resources named by an instruction (R56) -/

/-- The accumulator bank an instruction names. -/
def bankOf : Instr → Option (Fin 4)
  | .mma _ _ m _ | .mmx _ _ m _ | .mmaG _ _ m _ | .mmxG _ _ m _ => some m.bank
  | .mmi _ _ m _ => some m.bank
  | .mzero _ b _ _ => some b
  | .mscaleRow _ _ b _ _ | .mscaleCol _ _ b _ _ => some b
  | .mld _ _ b _ _ _ _ | .mst _ _ b _ _ _ _ => some b
  | .mrow _ _ _ b _ _ _ _ => some b
  | _ => none

/-- The matrix queue an instruction names. -/
def mqOf : Instr → Option (Fin 4)
  | .mma _ _ m _ | .mmx _ _ m _ | .mmaG _ _ m _ | .mmxG _ _ m _ => some m.q
  | .mmi _ _ m _ => some m.q
  | .mgang _ _ _ _ _ _ q _ => some q
  | .mgangFree _ q _ => some q
  | .mzero _ _ q _ => some q
  | .mscaleRow _ _ _ q _ | .mscaleCol _ _ _ q _ => some q
  | .mld _ _ _ _ _ q _ | .mst _ _ _ _ _ q _ => some q
  | .mrow _ _ _ _ _ _ q _ => some q
  | .msort _ _ _ q _ => some q
  | .mtopk _ _ _ _ _ _ q _ => some q
  | _ => none

/-- The token queues an instruction names: its operand, its wait clause and its signal clause, in the order in which they
are held against the launch's mask; the spec orders only bank, matrix queue and token queue (DESIGN CHOICE, log 48). -/
def tqsOf (i : Instr) : List (Fin 16) :=
  (match i with
    | .tqsig _ q _ _ => [q]
    | .tqrd _ _ q _ => [q]
    | _ => [])
  ++ (if i.clauses.wn = 0 then [] else [i.clauses.wq])
  ++ (if i.clauses.se then [i.clauses.sq] else [])

end Sys2Proof.Machine
end

