-- ==== Sys2Proof/Machine/Flags.lean ====
section
/-! DEFINITION. Counted events and their threshold (R95, R181, R240), and the one deferred fault a
context may be owed (R239). -/

namespace Sys2Proof.Machine

/-- Record a deferred fault (R239): of two, the one whose operation issued earlier is kept, with bit
63 of its detail set. A fault of an aborted firing's operation is discarded. -/
def Ctx.recordOwed (c : Ctx) (o : Owed) : Ctx :=
  if c.aborted.contains o.by_.serial then c
  else
    match c.owed with
    | none => { c with owed := some o }
    | some p =>
      let k := if o.by_.order < p.by_.order then o else p
      { c with owed := some { k with detail := k.detail ||| 2 ^ 63 } }

/-- A counter after n more events; it saturates at 2^32 − 1 (R240). -/
def countUp (c : BitVec 32) (n : Nat) : BitVec 32 := BitVec.ofNat 32 (Nat.min (c.toNat + n) (2 ^ 32 - 1))

/-- An addition takes an enabled counter from below THR to THR or more (R240). -/
def crosses (thr : Word) (k : Nat) (old new : BitVec 32) : Bool :=
  let t := bitsAt thr.toNat 0 32
  thr.getLsbD (32 + k) && decide (t ≠ 0) && decide (old.toNat < t) && decide (t ≤ new.toNat)

/-- The event counts of one operation, by counter: SAT, NAN, BSO (Table 3.6). -/
def Ev.count (e : Ev) (k : Fin 3) : Nat := if k = 0 then e.sat else if k = 1 then e.nan else e.bso

/-- The tile's counters after some events. -/
def Tile.addEv (t : Tile) (e : Ev) : Tile :=
  { t with cnt := Vector.ofFn (fun k => countUp (t.cnt.get k) (e.count k)) }

/-- Which counters cross, as bits 2:0 of the detail of cause 0x09 (Table 14.1). -/
def Tile.crossed (t : Tile) (e : Ev) : Nat :=
  let one := fun (k : Fin 3) => b2n (crosses t.cntthr k.val (t.cnt.get k) (countUp (t.cnt.get k) (e.count k)))
  one 0 + 2 * one 1 + 4 * one 2

/-- An operation completes on a tile: its events are counted at the end of the cycle, with those of the others (R181). -/
def State.addEvents (s : State) (t : Fin 256) (x : Counted) : State :=
  s.modTile t (fun y => { y with counted := y.counted ++ [x] })

/-- The earliest-issued of some operations. -/
def earliest : List Counted → Option Counted
  | [] => none
  | x :: xs => match earliest xs with
    | some y => some (if y.by_.order < x.by_.order then y else x)
    | none => some x

/-- The events of the operations that completed on a tile in the cycle are added together; where the sum crosses the
threshold, cause 0x09 is owed to the earliest-issued of them (R181). -/
def State.settleEvents (s : State) (t : Fin 256) : State :=
  let y := s.tile t
  let e := Ev.sum (y.counted.map (fun x => x.ev))
  match earliest y.counted with
  | none => s
  | some o =>
    let s1 := s.modTile t (fun y => { y.addEv e with counted := [] })
    if y.crossed e = 0 || o.dead then s1
    else s1.modCtx (.tile t o.ctx) (fun c => c.recordOwed ⟨0x09, y.crossed e, 0, o.by_, o.at_⟩)

end Sys2Proof.Machine
end

