-- ==== Sys2Proof/Machine/Phys.lean ====
section
/-! DEFINITION. The physical map and the bytes behind it (R21, R254, R416). -/

namespace Sys2Proof.Machine

/-! ### The physical map (R21, R22) -/

inductive Target where
  | hbm | peer (p : Nat) | host
deriving DecidableEq, Repr

/-- Table 1.5; none in a reserved range. -/
def targetOf (pa : Nat) : Option Target :=
  if pa < 2 ^ 39 then some .hbm
  else if 0x200000000000 ≤ pa ∧ pa < 0x400000000000 then some (.peer ((pa - 0x200000000000) / 2 ^ 39))
  else if 0x2000000000000 ≤ pa ∧ pa < 0x4000000000000 then some .host
  else none

/-! ### Bytes of local HBM under a key (R254, R416) -/

/-- The key under which a line's DRAM bytes stand; none in plaintext. -/
def State.lineKey (s : State) (line : Nat) : Option Key :=
  (s.lineKeys.find? (fun x => x.1 == line)).map (fun x => x.2)

/-- A 16-byte block as DRAM holds it, written under a key or in plaintext. -/
def sealed (key : Option Key) (block : Nat) (x : BitVec 128) : BitVec 128 :=
  match key with
  | some k => Config.cipher k block x
  | none => x

/-- What an access under a key makes of the block that DRAM holds. -/
def unsealed (key : Option Key) (block : Nat) (x : BitVec 128) : BitVec 128 :=
  match key with
  | some k => (Config.cipher k block).symm x
  | none => x

/-- The byte at a local HBM address, seen under a key. -/
def State.byteAt (s : State) (key : Option Key) (pa : Nat) : Byte :=
  let block := pa / 16
  let k := s.lineKey (pa / 128)
  if k = key then s.mem.get pa
  else BitVec.ofNat 8 ((unsealed key block (sealed k block (BitVec.ofNat 128 (s.mem.readNat (block * 16) 16)))).toNat / 2 ^ (8 * (pa % 16)))

def State.bytesAt (s : State) (key : Option Key) (pa n : Nat) : List Byte :=
  (List.range n).map (fun i => s.byteAt key (pa + i))

/-- Insert or replace a line's key in rising order. -/
def lineKeySet : List (Nat × Key) → Nat → Key → List (Nat × Key)
  | [], l, k => [(l, k)]
  | (a, x) :: r, l, k => if l < a then (l, k) :: (a, x) :: r else if l = a then (a, k) :: r else (a, x) :: lineKeySet r l k

/-- Bring a line under a key: its bytes as that key sees them. -/
def State.ownLine (s : State) (key : Option Key) (line : Nat) : State :=
  if s.lineKey line = key then s
  else
    let bs := s.bytesAt key (line * 128) 128
    { s with
      mem := { s.mem with cells := cellsWrite s.mem.cells (line * 128) bs }
      lineKeys := match key with
        | some k => lineKeySet s.lineKeys line k
        | none => s.lineKeys.filter (fun x => x.1 != line) }

/-- The lines that n bytes at an address touch. -/
def linesOf (pa n : Nat) : List Nat := (List.range ((pa + n + 127) / 128 - pa / 128)).map (fun i => pa / 128 + i)

/-- Bring the lines of an access under its key. -/
def State.ownLines (s : State) (key : Option Key) (pa n : Nat) : State :=
  (linesOf pa n).foldl (fun s l => s.ownLine key l) s

/-! ### Reads and writes at a physical address -/

/-- The n bytes at an address and their poison, with the counter of free values. -/
def State.readPa (s : State) (key : Option Key) (pa n : Nat) : List Byte × List Bool × State :=
  match targetOf pa with
  | some .hbm => (s.bytesAt key pa n, s.mem.readPoison pa n, s)
  | some .host =>
    let a := pa - 0x2000000000000
    (s.hostMem.read a n, s.hostMem.readPoison a n, s)
  | _ =>
    ((List.range n).map (fun i => Config.peerByte s.freeCtr (pa + i)),
     (List.range n).map (fun i => Config.peerPoison s.freeCtr (pa + i)), { s with freeCtr := s.freeCtr + 1 })

/-- Masked bytes written at an address; what a peer package holds is not part of the machine. -/
def State.writePa (s : State) (key : Option Key) (pa : Nat) (bs : List Byte) (mask : List Bool) : State :=
  match targetOf pa with
  | some .hbm =>
    let s1 := s.ownLines key pa bs.length
    { s1 with mem := s1.mem.writeMasked pa bs mask }
  | some .host => { s with hostMem := s.hostMem.writeMasked (pa - 0x2000000000000) bs mask }
  | _ => s

/-- Poison the sectors that the masked bytes touch, after a write of poisoned data (R309, R312). -/
def State.poisonPa (s : State) (pa n : Nat) : State :=
  match targetOf pa with
  | some .hbm => { s with mem := s.mem.poisonRange pa n }
  | some .host => { s with hostMem := s.hostMem.poisonRange (pa - 0x2000000000000) n }
  | _ => s

/-- Heal the sector of an address that has been written whole from clean bytes (R310). -/
def State.healPa (s : State) (pa : Nat) : State :=
  match targetOf pa with
  | some .hbm => { s with mem := s.mem.healSector (pa / 32) }
  | some .host => { s with hostMem := s.hostMem.healSector ((pa - 0x2000000000000) / 32) }
  | _ => s

end Sys2Proof.Machine
end

