-- ==== Sys2Proof/Machine/Ops.lean ====
section
/-! DEFINITION. The named operations every meaning is written over: launches and their masks, taking
a trap and returning from one, and the issue of an instruction (R37, R39, R47, R52, R57, R382 to
R390). -/

namespace Sys2Proof.Machine

abbrev Out := Host.Outcome State Fault Refusal

/-! ### Launches and partitions -/

/-- The partition that owns a cluster (R34, R35). -/
def State.partOf (s : State) (cl : Fin 32) : Option Partition :=
  s.parts.find? (fun p => p.clusters.getLsbD cl.val)

/-- The launch that runs on a context of a tile; the firmware on the management core. -/
def State.launchOf (s : State) : AgentId → Option Launch
  | .tile t c =>
    match s.partOf (clusterOfTile t) with
    | some p => s.launches.find? (fun l => l.q == p.q && l.c == c && !l.saved.contains t)
    | none => none
  | .mgmt => s.mgmt.fw

/-- Replace the launch of a partition and context. -/
def State.modLaunch (s : State) (q : Fin 32) (c : Fin 4) (f : Launch → Launch) : State :=
  { s with launches := s.launches.map (fun l => if l.q == q && l.c == c then f l else l) }

/-- Change the launch an agent runs. -/
def State.modLaunchOf (s : State) (g : AgentId) (f : Launch → Launch) : State :=
  match g with
  | .mgmt => { s with mgmt := { s.mgmt with fw := s.mgmt.fw.map f } }
  | .tile _ _ =>
    match s.launchOf g with
    | some l => s.modLaunch l.q l.c f
    | none => s

/-- The clusters of a partition in ascending global order (chapter 05, Ralyel graph images). -/
def Partition.clusterList (p : Partition) : List (Fin 32) :=
  (List.finRange 32).filter (fun i => p.clusters.getLsbD i.val)

/-- The partition tile number of a tile: 8 × i + local tile. -/
def partTile (p : Partition) (t : Fin 256) : Nat :=
  8 * (p.clusterList.takeWhile (fun i => decide (i.val < t.val / 8))).length + t.val % 8

/-- The global number of partition cluster i. -/
def Partition.cluster? (p : Partition) (i : Nat) : Option (Fin 32) := p.clusterList[i]?

/-- The memory context q × 4 + c (R34). -/
def mctxOf (q : Fin 32) (c : Fin 4) : Fin 128 := ⟨q.val * 4 + c.val, by omega⟩

/-- A field of the launch record (Table 5.5). -/
def Launch.field (l : Launch) (lo n : Nat) : Nat := bitsAt l.rcd.toNat lo n

def Launch.ibase (l : Launch) : Nat := l.field 128 18
def Launch.ilimit (l : Launch) : Nat := l.field 146 19
def Launch.devl (l : Launch) : Bool := bitOf l.rcd.toNat 105
def Launch.abank (l : Launch) : Nat := l.field 168 4
def Launch.mqmask (l : Launch) : Nat := l.field 172 4
def Launch.tqmask (l : Launch) : Nat := l.field 176 16
def Launch.fbudget (l : Launch) : Nat := l.field 192 32

/-- What an agent's launch grants it: code range, masks and budget; the management core has its whole
instruction memory and its own token queues. -/
structure View where
  ibase : Nat
  ilimit : Nat
  abank : Nat
  mqmask : Nat
  tqmask : Nat
  fbudget : Nat
  devl : Bool
deriving DecidableEq, Repr

/-- What the records say of an agent (Table 5.6). The management core has no launch record: the model takes the whole of its
instruction memory, 0 to 0x40000, for its code range, all its token queues and no firing budget (log 70). -/
def State.view (s : State) (g : AgentId) : View :=
  match g with
  | .mgmt => ⟨0, 0x40000, 0, 0, 0xFFFF, 0, false⟩
  | .tile _ _ =>
    match s.launchOf g with
    | some l => ⟨l.ibase, l.ilimit, l.abank, l.mqmask, l.tqmask, l.fbudget, l.devl⟩
    | none => ⟨0, 0, 0, 0, 0, 0, false⟩

/-- The target lies in the context's range (R37). -/
def View.inRange (v : View) (t : Nat) : Bool := decide (v.ibase ≤ t) && decide (t < v.ilimit) && decide (t < 2 ^ 18)

/-- An instance of a launch. -/
def Launch.inst (l : Launch) (n : Nat) : Option Inst := l.insts.find? (fun i => i.num == n)

def Launch.modInst (l : Launch) (n : Nat) (f : Inst → Inst) : Launch :=
  { l with insts := l.insts.map (fun i => if i.num == n then f i else i) }

/-- An edge of a launch. -/
def Launch.edge (l : Launch) (n : Nat) : Option Edge := l.edges.find? (fun e => e.num == n)

def Launch.modEdge (l : Launch) (n : Nat) (f : Edge → Edge) : Launch :=
  { l with edges := l.edges.map (fun e => if e.num == n then f e else e) }

/-- The binding of a slot of the ordinary firing a context holds. -/
def State.slotBind (s : State) (g : AgentId) (n : Fin 16) : Option SlotBind :=
  match (s.ctx g).firing, s.launchOf g with
  | some f, some l =>
    match l.inst f.inst with
    | some i => i.slots.get n
    | none => none
  | _, _ => none

/-- The edge a slot is bound to. -/
def State.slotEdge (s : State) (g : AgentId) (n : Fin 16) : Option Edge :=
  match s.slotBind g n, s.launchOf g with
  | some b, some l => l.edge b.edge
  | _, _ => none

/-- The state of a slot in the firing in progress. -/
def Ctx.slotUse (c : Ctx) (n : Fin 16) : SlotUse :=
  match c.firing with
  | some f => f.slots.get n
  | none => ⟨0, 0, [], false⟩

def Ctx.setSlotUse (c : Ctx) (n : Fin 16) (u : SlotUse) : Ctx :=
  match c.firing with
  | some f => { c with firing := some { f with slots := vset f.slots n u } }
  | none => c

/-- Who issued an operation now (R239). -/
def State.issued (s : State) (g : AgentId) : Issued :=
  let c := s.ctx g
  let h := c.phase == .inHandler
  { pc := c.pc, order := s.order g, handler := h,
    serial := if h then c.hSerial else match c.firing with | some f => f.serial | none => 0 }

/-! ### Interlocks (R57, R100, R170) -/

/-- Nothing waits for a prefetch into the constant cache (R272). -/
def ReqOp.waited : ReqOp → Bool
  | .constFill _ want => want.isSome
  | _ => true

/-- Some access that fence, end and a release wait for has not answered. -/
def Ctx.busy (c : Ctx) : Bool := c.reqs.any (fun r => r.op.waited)

/-- The registers a request will write. -/
def ReqOp.dst : ReqOp → List RegId
  | .loadS d _ => [.s d]
  | .loadV d => [.v d]
  | .gather d _ _ => [.v d]
  | .bits d _ _ _ _ => [.v d]
  | .rmw _ _ _ (some d) => [.s d]
  | .cas _ _ _ d => [.s d]
  | .xrd d _ => [.s d]
  | .partS d _ => [.s d]
  | .constFill _ (some (f, d, _)) => [match f with | .scalar .. => .s d | .vector _ => .v d]
  | _ => []

/-- The registers a queued matrix operation will write. -/
def MatKind.dst : MatKind → List RegId
  | .row _ _ _ d => [.v d]
  | .sort x y .. => [.v x, .v y]
  | .topk x y _ _ _ _ rd => if rd then [.v x, .v y] else []
  | _ => []

/-- The registers that earlier instructions of the context have yet to write (R57). -/
def State.pending (s : State) (g : AgentId) : List RegId :=
  let c := s.ctx g
  c.reqs.flatMap (fun r => r.op.dst)
  ++ c.groups.filterMap (fun r => if r.stage < 2 then r.dst.map .s else none)
  ++ (match g with
      | .tile t k => (List.finRange 4).flatMap (fun q =>
          ((s.tile t).mq.get q).flatMap (fun o => if o.ctx = k && !o.dead then o.kind.dst else []))
      | .mgmt => [])

/-- The rank of the handle that a format T word names. -/
def rankOf (c : Ctx) (i : Instr) : Nat :=
  match tensorHandle i with
  | some hr => bitsAt (c.readH hr).desc.toNat 129 3
  | none => 0

/-- s0, p0 and k0 are constants: no instruction waits for them. -/
def RegId.constant : RegId → Bool
  | .s n => n == 0
  | .p n => n == 0
  | .k n => n == 0
  | _ => false

/-- The interlock of R57 and R100, or a blocking group instruction (R170), holds the instruction. -/
def State.interlocked (s : State) (g : AgentId) (i : Instr) : Bool :=
  let c := s.ctx g
  let p := s.pending g
  (regsOf (rankOf c i) i).any (fun r => !r.constant && p.contains r) || c.groups.any (fun r => r.block)

/-! ### Traps (R381 to R390) -/

/-- The OP of a word. -/
def opOf (w : Word) : Nat := bitsAt w.toNat 56 8

/-- Table 14.1, column Delegable. -/
def delegable (cause : Nat) : Bool :=
  [0x04, 0x07, 0x08, 0x09, 0x0A, 0x0D, 0x0E, 0x14, 0x15].contains cause

/-- One operand snapshot (R384): value or lane poison bits, poison bit, VEC bit. -/
def snapshot (c : Ctx) : RegId → Nat × Bool × Bool
  | .s n => ((c.readS n).toNat, c.poisS n, false)
  | .v n => ((c.readV n).poison.toNat, false, true)
  | .k n => ((c.readK n).toNat, false, false)
  | .p n => (b2n (c.readP n), false, false)
  | .h _ => (0, false, false)

/-- The 26 bits of an edge slot in the record (Table 14.2). -/
def slotBits (s : State) (g : AgentId) (n : Fin 16) : Nat :=
  match s.slotBind g n, s.slotEdge g n with
  | some b, some e =>
    let u := (s.ctx g).slotUse n
    let avail := if b.out then e.credits - u.pushed.length else e.queue.length
    Nat.min avail 4095 + 2 ^ 12 * b.rate + 2 ^ 24 * b2n b.out + 2 ^ 25
  | _, _ => 0

/-- A change of the context's priority or floor reached the sequencer in this cycle (R382). -/
def State.prioChg (s : State) (g : AgentId) : Bool :=
  match g with
  | .tile t c => (s.tile t).priChg.get c == some (s.dies.get (dieOfTile t)).cycle.toNat
  | .mgmt => false

/-- The number of an agent's context, its partition tile number and its firing's instance. -/
def State.whereIs (s : State) (g : AgentId) : Nat × Nat × Nat :=
  let c := s.ctx g
  let inst := if c.phase = .inHandler then c.hInst else match c.firing with | some f => f.inst | none => 0
  match g with
  | .tile t c =>
    (c.val, (match s.partOf (clusterOfTile t) with | some p => partTile p t | none => t.val), inst)
  | .mgmt => (0, 0, inst)

/-- The handler instance that serves an agent's traps (R386): of its launch, on its own tile. -/
def State.handlerInst (s : State) (g : AgentId) : Option Inst :=
  match s.launchOf g with
  | some l =>
    l.insts.find? (fun i => i.handler && (match g with | .tile t _ => i.tile == t | .mgmt => true))
  | none => none

/-- The trap is delegated (R386); on the management core every cause goes to its handler (R389). -/
def State.delegated (s : State) (g : AgentId) (cause : Nat) : Bool :=
  ((s.ctx g).phase != .inHandler) && (s.handlerInst g).isSome
    && (match g with | .tile _ _ => delegable cause | .mgmt => true)

/-- The trap record (Table 14.2). by_ is the issuer of a deferred fault. -/
def trapRecord (s : State) (g : AgentId) (chk : List RegId) (cause detail addr : Nat)
    (dfr : Option Issued) : List Byte :=
  let c := s.ctx g
  let pc := match dfr with | some b => b.pc | none => c.pc
  let w := s.whereIs g
  let ops := (chk.take 3).map (snapshot c)
  let op := fun (i : Nat) => ops.getD i (0, false, false)
  let flags := w.1 + 4 * b2n dfr.isSome + 8 * b2n (s.delegated g cause)
    + 16 * b2n (c.phase == .inHandler) + 32 * b2n (s.prioChg g)
  let opflags := b2n (op 0).2.1 + 2 * b2n (op 1).2.1 + 4 * b2n (op 2).2.1
    + 8 * b2n (op 0).2.2 + 16 * b2n (op 1).2.2 + 32 * b2n (op 2).2.2
  let edges := (List.finRange 16).foldl (fun a n => a + slotBits s g n * 2 ^ (26 * n.val)) 0
  leBytes 1 cause ++ leBytes 1 flags ++ leBytes 2 w.2.1 ++ leBytes 4 w.2.2 ++ leBytes 8 detail
  ++ leBytes 4 pc.toNat ++ leBytes 4 c.pc.toNat ++ leBytes 8 (s.word g pc).toNat ++ leBytes 8 addr
  ++ leBytes 8 (s.time (agentDie g)).toNat ++ leBytes 8 (op 0).1 ++ leBytes 8 (op 1).1 ++ leBytes 8 (op 2).1
  ++ leBytes 1 opflags ++ leBytes 3 0 ++ leBytes 52 edges

/-- Write bytes in the trap area of an agent: its tile's scratchpad, or at a physical address as the core's plain
stores do (R382, R389). -/
def State.trapWrite (s : State) (g : AgentId) (off : Nat) (bs : List Byte) : State :=
  let a := (s.ctx g).trapbase.toNat + off
  match g with
  | .tile t _ => s.modTile t (fun y => { y with scratch := y.scratch.write a bs })
  | .mgmt => s.writePa none a bs (List.replicate bs.length true)

/-- A read that its instruction has waited for has answered: a trap of that instruction forgets it. -/
def MemReq.answered (r : MemReq) : Bool :=
  r.op == .syncRead && (match r.stage with | .done _ _ => true | _ => false)

/-- LASTERR of a region keeps the reason of a cause 0x0F that a region instruction raises at issue (R379,
Table 13.9); the detail names the region by its partition number. -/
def State.noteRegion (s : State) (g : AgentId) (cause detail : Nat) : State :=
  if cause ≠ 0x0F then s
  else
    match (s.launchOf g).bind (fun l => (s.parts.find? (fun p => p.q == l.q)).bind (fun p => p.cluster? (detail / 2 ^ 8 / 4))) with
    | some cl =>
      let r : Fin 128 := Fin.ofNat 128 (4 * cl.val + detail / 2 ^ 8 % 4)
      { s with regions := vset s.regions r { s.regions.get r with lasterr := detail % 2 ^ 8 } }
    | none => s

/-- Taking a trap (R384 to R389): the record is written, the firing stays as it is, the context
waits for its handler or is stopped, and the step that follows is put first on the agenda. -/
def takeTrap (s : State) (g : AgentId) (chk : List RegId) (cause detail addr : Nat)
    (dfr : Option Issued) : State :=
  let del := s.delegated g cause
  let s1 := s.trapWrite g 0 (trapRecord s g chk cause detail addr dfr)
  let s2 := (if dfr.isNone then s1.noteRegion g cause detail else s1).modCtx g (fun c =>
    { c with phase := if del then .handlerPending else .stopped, dpc := c.pc, tcause := cause,
             tdetail := detail, tpc := match dfr with | some b => b.pc | none => c.pc,
             reqs := c.reqs.filter (fun r => !r.answered) })
  { s2 with agenda := (if del then .handlerFiring g else .nonDelegatedTrap g) :: s2.agenda }

/-- The fate of a trapped firing (R405). -/
inductive Leave where
  | resume | next | abort
deriving DecidableEq, Repr

/-- S[28 .. 31] := the save block, as it holds them now (R387, R405). -/
def restoreSaved (s : State) (g : AgentId) : Ctx :=
  let c := s.ctx g
  let a := c.trapbase.toNat + 128
  let bs := match g with | .tile t _ => (s.tile t).scratch.read a 33 | .mgmt => (s.readPa none a 33).1
  let pb := (bs.getD 32 0).toNat
  (List.range 4).foldl (fun (x : Ctx) (i : Nat) =>
    if h : 28 + i < 32 then
      x.writeS ⟨28 + i, h⟩ (BitVec.ofNat 64 (leNat ((bs.drop (8 * i)).take 8))) (bitOf pb i)
    else x) c

/-! ### Issue -/

/-- One instruction issued: the tile's issue order advances, and the context's issue counts (R136, R142). -/
def State.countIssue (s : State) (g : AgentId) : State :=
  let o := s.order g
  let s1 := s.modCtx g (fun c =>
    { c with
      lastIssue := some o
      winIssues := c.winIssues + 1
      hIssued := if c.phase == .inHandler then c.hIssued + 1 else c.hIssued
      firing := if c.phase == .inHandler then c.firing
        else c.firing.map (fun f => { f with issued := f.issued + 1 }) })
  match g with
  | .tile t _ => s1.modTile t (fun y => { y with issues := y.issues + 1 })
  | .mgmt => { s1 with mgmt := { s1.mgmt with issues := s1.mgmt.issues + 1 } }

/-- The instruction has issued and control goes to pc. -/
def State.retireTo (s : State) (g : AgentId) (pc : Pc) : State :=
  (s.countIssue g).modCtx g (fun c => { c with pc := pc, pcOver := false })

/-- The instruction at pc has issued and execution goes on at the next word (R37: past the last word
of instruction memory it has reached its limit). -/
def State.retire (s : State) (g : AgentId) (pc : Pc) : State :=
  (s.countIssue g).modCtx g (fun c => { c with pc := pc + 8, pcOver := pc == 0x3FFF8#18 })

/-- What an instruction's effect answers once it is the context's turn to issue it. -/
inductive Eff where
  /-- A precise trap: cause, detail, faulting address. The instruction has no effect. -/
  | trap (cause detail addr : Nat)
  /-- The instruction does not issue in this step. -/
  | hold
  /-- It does not issue yet; what it starts while it waits (a drain, R257). -/
  | wait (f : State → State)
  /-- It has issued; execution goes on at the next word. -/
  | done (s : State)
  /-- It has issued and control goes to an address. -/
  | goto (s : State) (pc : Pc)
  /-- It has issued, and its effect has counted the issue and says where the context stands. -/
  | stay (s : State)

/-- P[PI] XOR PN; it never holds of the never form (R39). -/
def predHolds (c : Ctx) (i : Instr) : Bool :=
  match i.hdr? with
  | some h => c.readP h.pi != h.pn
  | none => false

/-- The wait clause is satisfied, or names a queue outside the launch's mask, which faults (R47, R56). -/
def State.waitReady (s : State) (g : AgentId) (i : Instr) : Bool :=
  let c := i.clauses
  c.wn == 0 || !bitOf (s.view g).tqmask c.wq.val || decide (c.wn.val ≤ s.tq g c.wq)

/-- At issue WN is subtracted from tq[WQ] (R47). -/
def State.takeWait (s : State) (g : AgentId) (i : Instr) : State :=
  let c := i.clauses
  if c.wn = 0 then s else s.setTq g c.wq (s.tq g c.wq - c.wn.val)

/-- The instruction is a release (R257): before it takes effect the buffer drains. -/
def isRelease : Instr → Bool
  | .st _ _ _ _ m | .vst _ _ _ _ m => m.ord == 2
  | .atom _ _ _ _ _ m | .red _ _ _ _ _ m => m.ord == 2 || m.ord == 3
  | .cas _ _ _ _ m => m.ord == 2 || m.ord == 3
  | .xadd _ _ _ _ r => r
  | .xrdClr _ _ _ _ o => o == 2 || o == 3
  | .fence _ k _ => k != .acq
  | .endF _ | .garrive .. | .gbar .. | .gred .. | .launch .. | .sgo .. | .copy .. | .carm .. => true
  | .staload .. | .staloadUpd .. | .rgload .. | .hrelayout .. => true
  | _ => false

/-- The instruction is end, or one of those that stand for it in a handler (R387). -/
def isEnd (handler : Bool) : Instr → Bool
  | .endF _ => !handler
  | .resume _ | .resumeNext _ | .abort _ => handler
  | _ => false

/-- The instruction carries a wait clause naming the queue. -/
def waitsOn (i : Instr) (q : Fin 16) : Bool := i.clauses.wn != 0 && i.clauses.wq == q

/-- The owed fault is delivered at this instruction (R385, R387). -/
def Ctx.owedDue (c : Ctx) (i : Instr) : Option Owed :=
  match c.owed with
  | none => none
  | some o =>
    let inH := c.phase == .inHandler
    let mine := !inH || (o.by_.handler && o.by_.serial == c.hSerial)
    let on := fun (q : Option (Fin 16)) => match q with | some q => waitsOn i q | none => false
    let due := match o.at_ with
      | .next q => !inH || isEnd true i || on q
      | .endOrWait q => isEnd inH i || (if inH then on q else i.clauses.wn != 0)
      | .endOrWaitOn q => isEnd inH i || on q
      | .waitOn q => waitsOn i q || (inH && isEnd true i)
      | .endRelease regs => isEnd inH i || (!inH && (isRelease i ||
          (regsOf (rankOf c i) i).any (fun r => regs.contains r)))
    if mine && due then some o else none

/-- The owed fault of which R169 says that it is delivered at the next instruction of whatever kind: it meets even
a word whose predicate is false, right after its decoding (R385, log 11). -/
def Ctx.owedAny (c : Ctx) : Option Owed :=
  match c.owed with
  | some o => (match o.at_ with | .next _ => if c.phase == .inHandler then none else some o | _ => none)
  | none => none

/-- Some queued matrix operation of a context's firings that did not abort has not completed. -/
def matBusy (s : State) (g : AgentId) : Bool :=
  let mine := fun (c : Fin 4) (o : MatOp) => o.ctx == c && !o.dead && !(s.ctx g).aborted.contains o.by_.serial
  match g with
  | .tile t c => (List.finRange 4).any (fun q => ((s.tile t).mq.get q).any (mine c)) || (s.tile t).cfgs.any (mine c)
  | .mgmt => false

/-- Another context of the tile has sent a store before this context's mark that is not performed. At tile scope
such a store counts as performed (R284); a release beyond the tile waits for it, since it may have come before the
release in the order of R282. -/
def State.pastOpen (s : State) : AgentId → Bool
  | .mgmt => false
  | .tile t c =>
    (List.finRange 4).any (fun d => d != c && ((s.tile t).ctx.get d).reqs.any (fun e =>
      e.stage == .sent && decide (e.sentAt < ((s.tile t).ctx.get c).sendMark)
        && (match e.op with | .store .. | .merge .. => true | _ => false)))

/-- The word is an end that still waits for the operations of its firing (R165). -/
def State.endWaits (s : State) (g : AgentId) (i : Instr) : Bool :=
  let c := s.ctx g
  match i with
  | .endF _ => c.phase != .inHandler && (!c.wcb.isEmpty || c.busy || s.pastOpen g || matBusy s g)
  | _ => false

/-- The owed fault that the word delivers now: an end delivers one once its wait is over (R165, R385). -/
def State.due (s : State) (g : AgentId) (i : Instr) : Option Owed :=
  if s.endWaits g i then none else (s.ctx g).owedDue i

/-- The detail of cause 0x06 for a resource outside the launch's masks: the bank, the matrix queue, then
the token queues in the order operand, WQ, SQ (R56, log 48). -/
def State.maskFault (s : State) (g : AgentId) (i : Instr) : Option Nat :=
  let v := s.view g
  match bankOf i with
  | some b => if bitOf v.abank b.val then restQ v else some b.val
  | none => restQ v
where
  restQ (v : View) : Option Nat :=
    match mqOf i with
    | some q => if bitOf v.mqmask q.val then restT v else some (q.val + 256)
    | none => restT v
  restT (v : View) : Option Nat :=
    match (tqsOf i).find? (fun q => !bitOf v.tqmask q.val) with
    | some q => some (q.val + 512)
    | none => none

/-- The releases that wait for the acknowledgements of a relayout (R213). -/
def waitsForAcks : Instr → Bool
  | .fence _ k _ => k != .acq
  | .endF _ | .garrive .. | .gbar .. | .gred .. | .launch .. | .hwait .. => true
  | _ => false

/-- A relayout of this context is not acknowledged by every cluster of its partition (R213). -/
def State.unacked (s : State) (g : AgentId) : Bool :=
  s.convs.any (fun v => v.issuer == g && !v.pushing &&
    (match s.parts.find? (fun p => p.q == v.q) with | some p => v.acks != p.clusters | none => false))

/-- The fault owed to a context is taken at an instruction (R385). -/
def takeOwed (s : State) (g : AgentId) (chk : List RegId) (o : Owed) : State :=
  takeTrap (s.modCtx g (fun x => { x with owed := none })) g chk o.cause o.detail o.addr (some o.by_)

/-- The issue of an instruction word by the sequencer s.cur. Its checks and holds, in order: the
interlock; the predicate, which leaves a false word without any trap of its own but those of its decoding (R122);
the wait clause; the owed fault; the acknowledgements of R213; then its own effect. chk are the
registers its fault checks examine, for the record (R384). -/
def issue (i : Instr) (chk : List RegId) (s : State) (eff : State → Eff) : Out :=
  let g := s.cur
  let c := s.ctx g
  if c.phase ≠ .running ∧ c.phase ≠ .inHandler then .next s
  else if s.interlocked g i then .next s
  else if !predHolds c i then
    .next (match c.owedAny with | some o => takeOwed s g chk o | none => s.retire g c.pc)
  else if !s.waitReady g i then .next s
  else
    match s.due g i with
    | some o => .next (takeOwed s g chk o)
    | none =>
      if waitsForAcks i && s.unacked g then .next s
      else
        match eff (s.takeWait g i) with
        | .trap cause detail addr => .next (takeTrap s g chk cause detail addr none)
        | .hold => .next s
        | .wait f => .next (f s)
        | .done s' => .next (s'.retire g c.pc)
        | .goto s' pc => .next (s'.retireTo g pc)
        | .stay s' => .next s'

/-- The first of some checks that fails decides the trap (R104, R267). -/
def orTrap (cs : List (Option (Nat × Nat × Nat))) (k : Eff) : Eff :=
  match cs.findSome? id with
  | some t => .trap t.1 t.2.1 t.2.2
  | none => k

/-- Cause 0x07 of the first poisoned scalar register (R99, R397). -/
def poisonS (c : Ctx) (rs : List (Fin 32)) : Option (Nat × Nat × Nat) :=
  match rs.find? (fun r => c.poisS r) with
  | some r => some (0x07, r.val, 0)
  | none => none

/-- Cause 0x07 of a vector register some of whose first n bytes are poisoned (R397). -/
def poisonV (c : Ctx) (r : Fin 32) (n : Nat) : Option (Nat × Nat × Nat) :=
  if (c.readV r).poisonIn n then some (0x07, r.val + 256, 0) else none

/-- A trap when the condition holds. -/
def trapIf (b : Bool) (cause detail addr : Nat) : Option (Nat × Nat × Nat) :=
  if b then some (cause, detail, addr) else none

/-- Cause 0x06 of a resource outside the launch's masks. -/
def maskTrap (s : State) (i : Instr) : Option (Nat × Nat × Nat) :=
  match s.maskFault s.cur i with
  | some d => some (0x06, d, 0)
  | none => none

/-- The effect changes registers of the issuing context only. -/
def State.onCtx (s : State) (f : Ctx → Ctx) : Eff := .done (s.modCtx s.cur f)

/-- The issuing context. -/
def State.me (s : State) : Ctx := s.ctx s.cur

end Sys2Proof.Machine
end

