-- ==== Sys2Proof/Machine/Report.lean ====
section
/-! DEFINITION. What the device reports: management events (R436), the die error logs (R437, R438,
R457) and the rings of the virtual functions (R413). -/

namespace Sys2Proof.Machine

/-! ### Management events -/

/-- The event actor's edge: the edge of input slot e0 of the first instance that binds one (R436). -/
def Launch.eventEdge (l : Launch) : Option Nat :=
  l.insts.findSome? (fun i => match i.slots.get 0 with
    | some b => if b.out || i.handler then none else some b.edge
    | none => none)

/-- The event token (R436): its time is the count of die 0, where the management core is (Table 21.4). -/
def MgmtEvent.token (e : MgmtEvent) : Token :=
  ⟨BitVec.ofNat 512 (e.code + 2 ^ 8 * (e.unit % 256) + 2 ^ 16 * (e.value % 2 ^ 16) + 2 ^ 32 * (e.time % 2 ^ 32)), false, false, 0⟩

/-- A token of this code and unit is undelivered. -/
def Edge.holdsEvent (e : Edge) (code unit : Nat) : Bool :=
  (e.queue ++ e.inflight).any (fun t => t.bits.toNat % 2 ^ 16 == code + 2 ^ 8 * (unit % 256))

/-- The edge of the event actor, when firmware binds one. -/
def Mgmt.eventEdge (m : Mgmt) : Option Edge := m.fw.bind (fun l => l.eventEdge.bind (fun n => l.edge n))

/-- An event source fires: a token for firmware, pushed at the end of the cycle, or a bit of MC_EVSTAT (R436). -/
def State.event (s : State) (code unit value : Nat) : State :=
  let m := s.mgmt
  let setBitOf := fun (k : Nat) => { s with mgmt := { m with evstat := setBit m.evstat k true } }
  match m.evmask.getLsbD code, m.eventEdge with
  | true, some e =>
    if e.holdsEvent code unit || m.events.any (fun x => x.code == code && x.unit % 256 == unit % 256) then setBitOf (8 + code)
    else { s with mgmt := { m with events := m.events ++ [⟨code, unit, value, (s.dies.get 0).cycle.toNat⟩] } }
  | _, _ => setBitOf code

/-- Event a is pushed before event b: the earlier cycle's, then ascending code, then ascending unit (R436). -/
def MgmtEvent.before (a b : MgmtEvent) : Bool :=
  if a.time ≠ b.time then decide (a.time < b.time)
  else if a.code ≠ b.code then decide (a.code < b.code) else decide (a.unit ≤ b.unit)

/-- Put an element where it belongs in a list in order, behind those that go before it. -/
def putIn {α : Type} (before : α → α → Bool) (x : α) : List α → List α
  | [] => [x]
  | y :: ys => if before y x then y :: putIn before x ys else x :: y :: ys

/-- A list put in order; elements of which neither goes first keep their places. -/
def inOrder {α : Type} (before : α → α → Bool) (xs : List α) : List α := xs.foldl (fun ys x => putIn before x ys) []

/-- The events are pushed onto the event actor's edge in their order, one for each free slot; the others wait. -/
def Mgmt.pushEvents (m : Mgmt) : Mgmt :=
  match m.fw, m.fw.bind Launch.eventEdge, m.eventEdge with
  | some l, some n, some e =>
    let es := inOrder MgmtEvent.before m.events
    let k := Nat.min e.credits es.length
    { m with events := es.drop k
             fw := some (l.modEdge n (fun e =>
               { e with inflight := e.inflight ++ (es.take k).map MgmtEvent.token, credits := e.credits - k })) }
  | _, _, _ => m

/-! ### Die error logs -/

def State.modDie (s : State) (d : Fin 2) (f : Die → Die) : State := { s with dies := vset s.dies d (f (s.dies.get d)) }

/-- A source offers an event to a die's error log, which is written at the end of the cycle (R437, R438). -/
def State.logError (s : State) (d : Fin 2) (source code unit snap info : Nat) : State :=
  s.modDie d (fun x => { x with offers := x.offers ++ [⟨source, code, unit, snap, info⟩] })

/-- Offer a is logged before offer b of its cycle: ascending SOURCE, of which 1 is the channel groups, then UNIT (R438). -/
def LogOffer.before (a b : LogOffer) : Bool := if a.source ≠ b.source then decide (a.source < b.source) else decide (a.unit ≤ b.unit)

/-- An offer is written with its sequence number, or lost when 64 entries are unread (R437, R438). -/
def State.writeLog (s : State) (d : Fin 2) (o : LogOffer) : State :=
  let x := s.dies.get d
  if x.log.length < 64 then
    let e : LogEntry := ⟨x.logSeq, o.source, o.code, o.unit, o.snap, s.time d, o.info⟩
    (s.modDie d (fun x => { x with log := x.log ++ [e], logSeq := x.logSeq + 1 })).event 4 d.val x.logSeq
  else s.modDie d (fun x => { x with logSeq := x.logSeq + 1, logLost := x.logLost + 1 })

/-- A cycle's offers to a die's log are written in their order. -/
def State.writeLogs (s : State) (d : Fin 2) : State :=
  (inOrder LogOffer.before (s.dies.get d).offers).foldl (fun s o => s.writeLog d o) (s.modDie d (fun x => { x with offers := [] }))

/-- What the sources of a cycle report: the logs are written, and the events are pushed (R436, R438). -/
def State.report (s : State) : State :=
  let s1 := (s.writeLogs 0).writeLogs 1
  { s1 with mgmt := s1.mgmt.pushEvents }

/-- The 32 bytes of an entry (Table 16.8). -/
def LogEntry.bytes (e : LogEntry) : List Byte :=
  leBytes 8 e.seq ++ leBytes 1 e.source ++ leBytes 1 e.code ++ leBytes 2 e.unit ++ leBytes 4 e.snap
    ++ leBytes 8 e.time.toNat ++ leBytes 8 e.info

/-! ### Rings of the virtual functions -/

def State.modVf (s : State) (q : Fin 32) (f : Vf → Vf) : State := { s with vfs := vset s.vfs q (f (s.vfs.get q)) }

/-- A vector's mask bit in the MSI-X table: bit 0 of the entry's vector control (log 9). -/
def Vf.masked (x : Vf) (v : Fin 3) : Bool := (x.table.get v).getLsbD 96

/-- Raise a vector of a virtual function: a masked one stays pending (R411, R413). -/
def State.raise (s : State) (q : Fin 32) (v : Fin 3) : State :=
  s.modVf q (fun x => if x.masked v then { x with pba := setBit x.pba v.val true } else { x with msix := x.msix ++ [v] })

/-- The ring has no free entry: the tail is one behind the head (R413). -/
def Ring.full (r : Ring) : Bool := r.size == 0 || (r.tail + 1) % r.size.toNat == r.head % r.size.toNat

/-- Write one entry at the tail and advance it. -/
def Ring.put (r : Ring) (m : Memory) (e : List Byte) : Ring × Memory :=
  ({ r with tail := (r.tail + 1) % r.size.toNat }, m.write (r.base.toNat + 32 * r.tail) e)

/-- Write waiting entries while the ring has room: the ring, host memory and how many were written. -/
def Ring.refill (r : Ring) (m : Memory) : List (List Byte) → Ring × Memory × Nat
  | [] => ({ r with wait := [] }, m, 0)
  | e :: es =>
    if r.full then ({ r with wait := e :: es }, m, 0)
    else
      let (r1, m1) := r.put m e
      let o := r1.refill m1 es
      (o.1, o.2.1, o.2.2 + 1)

/-- The entries that wait for a ring, in their order, are written while it has room, each with its vector: of the
completion queue or of the fault queue (R413). -/
def State.refillRing (s : State) (q : Fin 32) (fault : Bool) : State :=
  let x := s.vfs.get q
  let r := if fault then x.fq else x.cq
  let o := r.refill s.hostMem r.wait
  let s1 := { s with hostMem := o.2.1 }.modVf q (fun x => if fault then { x with fq := o.1 } else { x with cq := o.1 })
  (List.range o.2.2).foldl (fun s _ => s.raise q (if fault then 1 else 0)) s1

/-- A fault record for the host; without room it waits (R413). -/
def State.pushFault (s : State) (q : Fin 32) (e : List Byte) : State :=
  (s.modVf q (fun x => { x with fq := { x.fq with wait := x.fq.wait ++ [e] } })).refillRing q true

/-- A completion record for the host: with a full ring up to 64 wait, further ones are dropped and set CQ overflow,
whose rise is a partition event (R411, R413). -/
def State.pushCompletion (s : State) (q : Fin 32) (e : List Byte) : State :=
  let x := s.vfs.get q
  if !x.cq.full || decide (x.cq.wait.length < 64) then
    (s.modVf q (fun x => { x with cq := { x.cq with wait := x.cq.wait ++ [e] } })).refillRing q false
  else if x.overflow then s
  else (s.modVf q (fun x => { x with overflow := true })).raise q 2

end Sys2Proof.Machine
end

