-- ==== Sys2Proof/Machine/Actors.lean ====
section
/-! DEFINITION. Edges, token queues, the end of a firing, the scheduler and the actor steps
(spec/05_actors.md, R129 to R166; handler firings R386, R387, R405). -/

namespace Sys2Proof.Machine

/-- The signal clause of a word. -/
def sqOf (i : Instr) : Option (Fin 16) := if i.clauses.se then some i.clauses.sq else none

/-- An instruction that completes at issue performs its signal clause (R47). -/
def doneSig (i : Instr) (s : State) : Eff := .done (s.signalOpt s.cur (sqOf i))

/-- Cause 0x0A with a slot and a reason (R137). -/
def rateTrap (b : Bool) (slot : Fin 16) (reason : Nat) : Option (Nat × Nat × Nat) :=
  trapIf b 0x0A (slot.val + 16 * reason) 0

/-- Reasons 1 and 2: unbound, or the wrong direction. -/
def bindTraps (s : State) (slot : Fin 16) (out : Bool) : List (Option (Nat × Nat × Nat)) :=
  match s.slotBind s.cur slot with
  | none => [rateTrap true slot 1]
  | some b => [rateTrap (b.out != out) slot 2]

/-- The token size of a slot's edge; 0 when it is unbound. -/
def tokSizeOf (s : State) (slot : Fin 16) : Nat :=
  match s.slotEdge s.cur slot with
  | some e => e.tokSize
  | none => 0

/-- Reason 7: the tokens do not fit the register operand (R159). -/
def sizeTrap (s : State) (x : EReg) (slot : Fin 16) (n : Nat) : Option (Nat × Nat × Nat) :=
  match x with
  | .scal _ => rateTrap (decide (8 < tokSizeOf s slot)) slot 7
  | .vec _ => rateTrap (decide (256 < n * tokSizeOf s slot)) slot 7

/-- The checks of a pop or push: poison goes before a queue outside TQMASK (R104), which goes before cause 0x0A (R158),
of which reasons 1, 2 and 7 go before poison (R159, R160). Where all three fail the order runs in a circle, and the
queue decides (DEDUCED, log 65). -/
def tokenTraps (s : State) (ins : Instr) (early : List (Option (Nat × Nat × Nat))) (poison : Option (Nat × Nat × Nat))
    (late : List (Option (Nat × Nat × Nat))) : List (Option (Nat × Nat × Nat)) :=
  (if early.any (fun e => e.isSome) then none else poison) :: maskTrap s ins :: early ++ late

/-- The bytes of tokens, concatenated in window order. -/
def tokenBytes (sz : Nat) (ts : List Token) : List Byte := ts.flatMap (fun t => leBytes sz t.bits.toNat)

/-- The poison flag of each of those bytes. -/
def tokenPoison (sz : Nat) (ts : List Token) : List Bool := ts.flatMap (fun t => List.replicate sz t.poison)

/-- Write popped tokens to a register (R159). -/
def Ctx.putTokens (c : Ctx) (x : EReg) (sz : Nat) (ts : List Token) : Ctx :=
  match x with
  | .scal d => c.writeS d (BitVec.ofNat 64 (leNat (tokenBytes sz ts))) (ts.any (fun t => t.poison))
  | .vec d => c.writeV d (VReg.ofBytes (tokenBytes sz ts) (tokenPoison sz ts))

/-- The window tokens i .. i + n − 1 of a slot. -/
def windowTokens (s : State) (slot : Fin 16) (i n : Nat) : List Token :=
  match s.slotEdge s.cur slot with
  | some e => (e.queue.drop i).take n
  | none => []

/-- epop and epeek from window index i (R159). -/
def popEffect (ins : Instr) (x : EReg) (slot : Fin 16) (i n : Nat) (move : Bool)
    (chk : List (Fin 32)) (s : State) : Eff :=
  let u := s.me.slotUse slot
  orTrap (tokenTraps s ins (bindTraps s slot false ++ [sizeTrap s x slot n]) (poisonS s.me chk)
      [rateTrap (decide (u.len < i + n)) slot 3]) <|
    let ts := windowTokens s slot i n
    let s1 := s.modCtx s.cur (fun c => c.putTokens x (tokSizeOf s slot) ts)
    let s2 := if move then s1.modCtx s.cur (fun c => c.setSlotUse slot { u with cursor := i + n }) else s1
    doneSig ins s2

def execEpop (h : Hdr) (x : EReg) (slot : Fin 16) (n1 : Fin 64) (cl : Clauses) (s : State) : Out :=
  issue (.epop h x slot n1 cl) [] s fun s =>
    popEffect (.epop h x slot n1 cl) x slot (s.me.slotUse slot).cursor (n1.val + 1) true [] s

def execEpeek (h : Hdr) (x : EReg) (slot : Fin 16) (z : Fin 32) (n1 : Fin 64) (cl : Clauses) (s : State) : Out :=
  issue (.epeek h x slot z n1 cl) [.s z] s fun s =>
    popEffect (.epeek h x slot z n1 cl) x slot (s.me.readS z).toNat (n1.val + 1) false [z] s

/-- The context tag of a token (R127). -/
def ctxTag : AgentId → Fin 4
  | .tile _ c => c
  | .mgmt => 0

/-- The slot has had eeos, in this firing or in one that ended (R161). -/
def slotEos (s : State) (slot : Fin 16) : Bool :=
  (s.me.slotUse slot).eos ||
    (match s.me.firing, s.launchOf s.cur with
      | some f, some l => (match l.inst f.inst with | some i => i.eosDone.getLsbD slot.val | none => false)
      | _, _ => false)

/-- The rate of a slot; 0 when it is unbound. -/
def rateOf (s : State) (slot : Fin 16) : Nat :=
  match s.slotBind s.cur slot with
  | some b => b.rate
  | none => 0

/-- The tokens an epush appends: n of sz bytes from the low bytes of the source (R160). -/
def pushTokens (c : Ctx) (x : EReg) (sz n : Nat) (tag : Fin 4) : List Token :=
  let src := match x with | .scal r => (c.readS r).toNat | .vec r => (c.readV r).bits.toNat
  (List.range n).map (fun j => ⟨BitVec.ofNat 512 (bitsAt src (8 * sz * j) (8 * sz)), false, false, tag⟩)

/-- Cause 0x07 of the source of a push (R160). -/
def pushPoison (c : Ctx) (x : EReg) (bytes : Nat) : Option (Nat × Nat × Nat) :=
  match x with
  | .scal r => poisonS c [r]
  | .vec r => poisonV c r bytes

def execEpush (h : Hdr) (x : EReg) (slot : Fin 16) (n1 : Fin 64) (cl : Clauses) (s : State) : Out :=
  let ins := Instr.epush h x slot n1 cl
  issue ins (eregRegs x) s fun s =>
    let n := n1.val + 1
    let sz := tokSizeOf s slot
    let u := s.me.slotUse slot
    orTrap (tokenTraps s ins (bindTraps s slot true ++ [sizeTrap s x slot n]) (pushPoison s.me x (Nat.min 256 (n * sz)))
        [rateTrap (slotEos s slot) slot 5, rateTrap (decide (rateOf s slot < u.pushed.length + n)) slot 4]) <|
      doneSig ins (s.modCtx s.cur (fun c =>
        c.setSlotUse slot { u with pushed := u.pushed ++ pushTokens c x sz n (ctxTag s.cur) }))

/-- Set the EOS flag of the last token. -/
def markEos : List Token → List Token
  | [] => []
  | [t] => [{ t with eos := true }]
  | t :: ts => t :: markEos ts

def execEeos (h : Hdr) (slot : Fin 16) (cl : Clauses) (s : State) : Out :=
  let ins := Instr.eeos h slot cl
  issue ins [] s fun s =>
    let u := s.me.slotUse slot
    let empty := u.pushed.isEmpty
    orTrap ([maskTrap s ins] ++ bindTraps s slot true
        ++ [rateTrap (slotEos s slot) slot 5, rateTrap (empty && decide (rateOf s slot < 1)) slot 4]) <|
      let toks := if empty then [⟨0, true, false, ctxTag s.cur⟩] else markEos u.pushed
      doneSig ins (s.modCtx s.cur (fun c => c.setSlotUse slot { u with pushed := toks, eos := true }))

/-- Table 5.12. -/
def estatWord (s : State) (slot : Fin 16) : Word :=
  match s.slotBind s.cur slot, s.slotEdge s.cur slot with
  | some b, some e =>
    let u := s.me.slotUse slot
    let tag := 2 ^ 42 * (ctxTag s.cur).val
    if b.out then
      BitVec.ofNat 64 (Nat.min 65535 (e.credits - b.rate) + 2 ^ 16 * u.pushed.length + 2 ^ 28 * b.rate
        + 2 ^ 40 * b2n (slotEos s slot) + 2 ^ 41 + tag)
    else
      let last := match (e.queue.take u.len).getLast? with | some t => t.eos | none => false
      BitVec.ofNat 64 (Nat.min 65535 (e.queue.length - u.len) + 2 ^ 16 * u.len + 2 ^ 28 * u.cursor
        + 2 ^ 40 * b2n last + tag)
  | _, _ => 0

def execEstat (h : Hdr) (x : Fin 32) (slot : Fin 16) (cl : Clauses) (s : State) : Out :=
  let ins := Instr.estat h x slot cl
  issue ins [] s fun s =>
    orTrap [maskTrap s ins, rateTrap (s.slotBind s.cur slot).isNone slot 1] <|
      doneSig ins (s.modCtx s.cur (fun c => c.writeS x (estatWord s slot) false))

/-! ### Token queues (R163, R164) -/

def execTqsig (h : Hdr) (tq : Fin 16) (n : Fin 64) (cl : Clauses) (s : State) : Out :=
  let ins := Instr.tqsig h tq n cl
  issue ins [] s fun s =>
    orTrap [maskTrap s ins] <|
      if 63 < s.tq s.cur tq + n.val then .hold
      else doneSig ins (s.setTq s.cur tq (s.tq s.cur tq + n.val))

def execTqwait (h : Hdr) (cl : Clauses) (s : State) : Out :=
  let ins := Instr.tqwait h cl
  issue ins [] s fun s => orTrap [maskTrap s ins] <| doneSig ins s

/-- The value is that of the previous cycle: the word's own wait clause is not yet subtracted. -/
def execTqrd (h : Hdr) (x : Fin 32) (tq : Fin 16) (cl : Clauses) (s : State) : Out :=
  let ins := Instr.tqrd h x tq cl
  issue ins [] s fun s =>
    orTrap [maskTrap s ins] <|
      let own := if cl.wq = tq then cl.wn.val else 0
      doneSig ins (s.modCtx s.cur (fun c => c.writeS x (BitVec.ofNat 64 (s.tq s.cur tq + own)) false))

/-! ### The end of a firing (R132, R133, R165) -/

/-- Publish a slot's pushes or free its window. -/
def publishSlot (l : Launch) (c : Ctx) (b : Option SlotBind) (n : Fin 16) : Launch :=
  match b with
  | none => l
  | some b =>
    let u := c.slotUse n
    if b.out then
      l.modEdge b.edge (fun e =>
        { e with inflight := e.inflight ++ u.pushed, credits := e.credits - u.pushed.length })
    else
      l.modEdge b.edge (fun e =>
        { e with queue := e.queue.drop u.len, returning := e.returning + u.len,
                 ended := e.ended || (e.queue.take u.len).any (fun t => t.eos) })

/-- The output slots on which the firing issued eeos, as bits. -/
def eosBits (c : Ctx) : BitVec 16 :=
  (List.finRange 16).foldl (fun x n => if (c.slotUse n).eos then setBit x n.val true else x) 0

/-- The firing of an agent ends by end: pushes published, windows freed, its count advanced. -/
def endFiring (s : State) (g : AgentId) : State :=
  let c := s.ctx g
  match c.firing with
  | none => s
  | some f =>
    let s1 := s.modLaunchOf g (fun l =>
      let l1 := (List.finRange 16).foldl (fun x n => publishSlot x c (s.slotBind g n) n) l
      l1.modInst f.inst (fun i => { i with ended := i.ended + 1, eosDone := i.eosDone ||| eosBits c }))
    s1.modCtx g (fun x => { x with firing := none, phase := .idle })

/-- The request that draining an entry sends: the masked bytes of its line, under keep when a store
merged into it named keep (R257). -/
def WcbLine.req (w : WcbLine) : MemReq :=
  { op := .store w.bytes w.mask false, ea := w.ea, va := w.va, pa := w.line * 128, len := 128, acq := false, rel := false,
    tileRel := false, drain := true, cp := if w.keep then 2 else 0, mctx := w.mctx, key := w.key, expect := none,
    via := w.via, unit := none, fwd := [], sentAt := 0, by_ := w.by_, stage := .sent }

/-- A request that its tile's memory interface has not sent yet. -/
def ReqStage.unsent : ReqStage → Bool
  | .queued | .parked _ => true
  | _ => false

/-- The requests that the memory interface of an agent's tile has sent; the management core shares its with nobody. -/
def State.sends (s : State) : AgentId → Nat
  | .tile t _ => (s.tile t).sends
  | .mgmt => 0

/-- The context's mark: what its tile's interface has sent so far. -/
def State.mark (s : State) (g : AgentId) : State := s.modCtx g (fun c => { c with sendMark := s.sends g })

/-- A request of an agent is sent, behind those that have been and before those that have not (R256, R257). -/
def State.sendReq (s : State) (g : AgentId) (r : MemReq) : State :=
  let s1 := s.modCtx g (fun c => { c with
    reqs := c.reqs.takeWhile (fun e => !e.stage.unsent) ++ { r with stage := .sent, sentAt := s.sends g }
      :: c.reqs.dropWhile (fun e => !e.stage.unsent) })
  (match g with
   | .tile t _ => s1.modTile t (fun y => { y with sends := y.sends + 1 })
   | .mgmt => s1).mark g

/-- Entries of a context's write-coalescing buffer drain, the oldest first (R257). -/
def State.drain (s : State) (g : AgentId) (p : WcbLine → Bool) : State :=
  ((s.ctx g).wcb.filter p).foldl (fun s w => s.sendReq g w.req) (s.modCtx g (fun c => { c with wcb := c.wcb.filter (fun w => !p w) }))

/-- Every entry of a context's buffer drains. -/
def State.drainAll (s : State) (g : AgentId) : State := s.drain g (fun _ => true)

/-- The first output slot without eeos whose production is short (R165). -/
def shortSlot (s : State) (g : AgentId) : Option (Fin 16) :=
  (List.finRange 16).find? (fun n =>
    match s.slotBind g n with
    | some b => b.out && !slotEos s n && decide (((s.ctx g).slotUse n).pushed.length ≠ b.rate)
    | none => false)

def execEndF (h : Hdr) (s : State) : Out :=
  issue (.endF h) [] s fun s =>
    let g := s.cur
    let c := s.me
    orTrap [trapIf (c.phase == .inHandler) 0x03 0x34 0] <|
      if !c.wcb.isEmpty then .wait (fun s => s.drainAll g)
      else if c.busy || s.pastOpen g || matBusy s g then .hold
      else
        match shortSlot s g with
        | some n => .trap 0x0A (n.val + 16 * 6) 0
        | none => .stay (endFiring (s.countIssue g) g)

/-! ### actena, actdis (R166) -/

/-- The instance number of a request is none of the launch's (R166). -/
def instTrap (s : State) (a : Fin 32) : Option (Nat × Nat × Nat) :=
  let n := (s.me.readS a).toNat
  trapIf (match s.launchOf s.cur with | some l => (l.inst n).isNone | none => true) 0x06 n 0

/-- A request on the control network; the management core's own instances change at once. -/
def askEnable (s : State) (g : AgentId) (n : Nat) (v : Bool) : State :=
  s.modLaunchOf g (fun l => l.modInst n (fun i =>
    match g with
    | .mgmt => { i with enabled := v }
    | .tile _ _ => { i with wanted := i.wanted ++ [v] }))

def execActena (h : Hdr) (a : Fin 32) (s : State) : Out :=
  issue (.actena h a) [.s a] s fun s =>
    orTrap [poisonS s.me [a], instTrap s a] <| .done (askEnable s s.cur (s.me.readS a).toNat true)

def execActdis (h : Hdr) (a : Fin 32) (s : State) : Out :=
  issue (.actdis h a) [.s a] s fun s =>
    orTrap [poisonS s.me [a], instTrap s a] <| .done (askEnable s s.cur (s.me.readS a).toNat false)

/-! ### The scheduler (R129 to R131, R138, R139) -/

/-- The edge of a binding. -/
def bindEdge (l : Launch) (b : Option SlotBind) : Option (SlotBind × Edge) :=
  match b with
  | some b => (l.edge b.edge).map (fun e => (b, e))
  | none => none

/-- The bound slots of an instance. -/
def Inst.binds (i : Inst) (l : Launch) : List (SlotBind × Edge) :=
  (List.finRange 16).filterMap (fun n => bindEdge l (i.slots.get n))

/-- R138: the instance is finished. -/
def Inst.finished (i : Inst) (l : Launch) : Bool :=
  let bs := i.binds l
  let ins := bs.filter (fun b => !b.1.out)
  if !ins.isEmpty then ins.all (fun b => b.2.ended && b.2.queue.isEmpty && b.2.inflight.isEmpty)
  else if !bs.isEmpty then
    (List.finRange 16).all (fun n => match i.slots.get n with
      | some b => !b.out || i.eosDone.getLsbD n.val
      | none => true)
  else decide (0 < i.ended)

/-- The window an input edge offers: c tokens, or a short window that ends in EOS (R129). -/
def windowLen (c : Nat) (e : Edge) : Nat :=
  if c ≤ e.queue.length then c
  else match e.queue.getLast? with
    | some t => if t.eos then e.queue.length else 0
    | none => 0

/-- R129: the instance is ready. -/
def Inst.ready (i : Inst) (l : Launch) : Bool :=
  i.enabled && !i.finished l && !i.handler && (l.phase != .setup) && l.ending.isNone
    && (i.binds l).all (fun b => if b.1.out then decide (b.1.rate ≤ b.2.credits) else decide (0 < windowLen b.1.rate b.2))

/-- Instance a goes before b (R139): priority, then the least recent firing, then the number. -/
def Inst.before (a b : Inst) : Bool :=
  if a.prio ≠ b.prio then decide (b.prio < a.prio)
  else match a.lastFired, b.lastFired with
    | none, none => decide (a.num ≤ b.num)
    | none, some _ => true
    | some _, none => false
    | some x, some y => decide (x ≤ y)

/-- The instance that an agent's scheduler picks (R139). -/
def State.pickInst (s : State) (g : AgentId) : Option Inst :=
  match s.launchOf g with
  | none => none
  | some l =>
    let rs := l.insts.filter (fun i =>
      (match g with | .tile t _ => i.tile == t && !l.saving.contains t | .mgmt => true) && i.ready l)
    rs.foldl (fun best i => match best with | none => some i | some b => some (if b.before i then b else i)) none

/-- The slots of a new firing: the windows reserved (R131). -/
def newSlots (i : Inst) (l : Launch) : Vector SlotUse 16 :=
  Vector.ofFn (fun n =>
    match bindEdge l (i.slots.get n) with
    | some (b, e) => ⟨if b.out then 0 else windowLen b.rate e, 0, [], false⟩
    | none => ⟨0, 0, [], false⟩)

/-- The registers of a context at firing start (Table 2.10). -/
def startRegs (c : Ctx) (i : Inst) : Ctx :=
  { c with
    s := vset (vset (vset (Vector.replicate 32 0) 1 (BitVec.ofNat 64 i.started)) 2 (BitVec.ofNat 64 i.num))
      3 (BitVec.ofNat 64 i.state)
    sp := 0
    p := 0
    k := Vector.replicate 8 0 }

/-- A firing of the instance starts on the agent's context (R130, R131). -/
def startFiring (s : State) (g : AgentId) (i : Inst) (l : Launch) : State :=
  let c := s.ctx g
  let f : Firing := { inst := i.num, serial := c.serials + 1, issued := 0, slots := newSlots i l }
  let s1 := s.setCtx g { startRegs c i with
    pc := i.entry, pcOver := false, phase := .running, firing := some f, serials := c.serials + 1 }
  s1.modLaunchOf g (fun l => l.modInst i.num (fun x =>
    { x with started := x.started + 1, lastFired := some (c.serials + 1) }))

/-- No scalar register of the context is still to be written: a firing starts on registers that hold what program
order gives, also after one that ended by abort (R57, R133). -/
def State.settled (s : State) (g : AgentId) : Bool :=
  (s.pending g).all (fun r => match r with | .s _ => false | _ => true)

/-- FIRING_START: an idle context takes the firing its scheduler picks. -/
def execFiringStart (g : AgentId) (s : State) : Out :=
  if (s.ctx g).phase = .idle && s.settled g then
    match s.pickInst g, s.launchOf g with
    | some i, some l => .next (startFiring s g i l)
    | _, _ => .next s
  else .next s

/-- FIRING_BUDGET_EXPIRY: cause 0x10 with detail 1 on the instruction that would be the (B+1)-th (R136). -/
def budgetSpent (s : State) (g : AgentId) : Bool :=
  let b := (s.view g).fbudget
  let c := s.ctx g
  let n := if c.phase = .inHandler then c.hIssued else (match c.firing with | some f => f.issued | none => 0)
  decide (0 < b) && decide (b ≤ n) && (c.phase == .running || c.phase == .inHandler)

def execFiringBudgetExpiry (g : AgentId) (s : State) : Out :=
  if budgetSpent s g then .next (takeTrap s g [] 0x10 1 0 none) else .next s

/-! ### Handler firings (R387, R388, R405) -/

/-- The save block of R387: S[28] to S[31] and their poison bits. -/
def saveBlock (c : Ctx) : List Byte :=
  [28, 29, 30, 31].flatMap (fun (n : Fin 32) => leBytes 8 (c.readS n).toNat)
    ++ leBytes 1 (b2n (c.poisS 28) + 2 * b2n (c.poisS 29) + 4 * b2n (c.poisS 30) + 8 * b2n (c.poisS 31))

/-- An earlier instruction has yet to write one of S[28] to S[31], which the save block takes (R57, R387). -/
def savePending (s : State) (g : AgentId) : Bool := [28, 29, 30, 31].any (fun (n : Fin 32) => (s.pending g).contains (.s n))

/-- HANDLER_FIRING: the handler of the context fires on the trapped firing's registers, once they hold what program
order gives (R57, R387). -/
def execHandlerFiring (g : AgentId) (s : State) : Out :=
  if (s.ctx g).phase = .handlerPending && !savePending s g then
    match s.handlerInst g with
    | none => .next s
    | some i =>
      let c := s.ctx g
      let s1 := s.trapWrite g 128 (saveBlock c)
      let s2 := s1.modCtx g (fun c =>
        let c1 := ((((c.writeS 28 c.trapbase false).writeS 29 (BitVec.ofNat 64 c.tcause) false).writeS 30
          (BitVec.ofNat 64 c.tdetail) false).writeS 31 (c.tpc.zeroExtend 64) false)
        { c1 with pc := i.entry, pcOver := false, phase := .inHandler, hIssued := 0, hInst := i.num,
                  hSerial := c.serials + 1, serials := c.serials + 1 })
      .next (s2.modLaunchOf g (fun l => l.modInst i.num (fun x =>
        { x with started := x.started + 1, lastFired := some (c.serials + 1) })))
  else .next s

/-- The contexts of a launch stop issuing (R388). -/
def stopContexts (s : State) (q : Fin 32) (c : Fin 4) : State :=
  match s.parts.find? (fun p => p.q == q) with
  | none => s
  | some p =>
    { s with tiles := Vector.ofFn (fun t =>
        let y := s.tiles.get t
        if p.clusters.getLsbD (t.val / 8) then
          { y with ctx := vset y.ctx c { y.ctx.get c with phase := .stopped } }
        else y) }

/-- A launch ends with a status (R138, R388): its contexts stop and the completion record is owed. -/
def endLaunch (s : State) (q : Fin 32) (c : Fin 4) (status cause detail : Nat) : State :=
  (stopContexts s q c).modLaunch q c (fun l =>
    if l.ending.isSome then l else { l with ending := some (status, cause, detail) })

/-- The firmware of a management core that has been reset starts anew. -/
def restartFirmware (l : Launch) : Launch :=
  { l with insts := l.insts.map (fun i => { i with started := 0, ended := 0, eosDone := 0, lastFired := none })
           edges := l.edges.map (fun e => { e with queue := [], inflight := [], credits := e.depth, returning := 0, ended := false }) }

/-- The management core after a reset of its own (R389): its code and firmware stay, the reset is counted
for the host. -/
def Mgmt.restarted (m : Mgmt) : Mgmt :=
  { Mgmt.reset with imem := m.imem, fw := m.fw.map restartFirmware, resets := m.resets + 1, requests := m.requests }

/-- NON_DELEGATED_TRAP: the management core ends the launch with status 7 (R388); a trap on the
management core itself resets it and is reported to the host through every virtual function (R389). -/
def execNonDelegatedTrap (g : AgentId) (s : State) : Out :=
  let c := s.ctx g
  if c.phase = .stopped then
    match g with
    | .tile _ _ =>
      match s.launchOf g with
      | some l => .next ((endLaunch s l.q l.c 7 c.tcause c.tdetail).event 7 l.q.val c.tcause)
      | none => .next s
    | .mgmt =>
      .next { s with mgmt := s.mgmt.restarted, vfs := s.vfs.map (fun v => { v with resets := v.resets + 1 }) }
  else .next s

/-- A trapped firing ends as R133 states: windows unreserved, pushes discarded, the count advanced. -/
def abortFiring (s : State) (g : AgentId) : State :=
  s.modCtx g (fun c =>
    match c.firing with
    | none => { c with phase := .idle }
    | some f =>
      { c with firing := none, phase := .idle, aborted := c.aborted ++ [f.serial],
               owed := match c.owed with
                 | some o => if o.by_.serial = f.serial then none else some o
                 | none => none })

/-- The handler firing leaves (R405). -/
def leaveHandler (s : State) (g : AgentId) (how : Leave) : State :=
  let c := s.ctx g
  let s1 := s.setCtx g (restoreSaved s g)
  let hi := c.hInst
  let s2 := s1.modLaunchOf g (fun l => l.modInst hi (fun i => { i with ended := i.ended + 1 }))
  match how with
  | .resume => s2.modCtx g (fun c => { c with phase := .running, pc := c.dpc, pcOver := false })
  | .next => s2.modCtx g (fun c => { c with phase := .running, pc := c.dpc + 8, pcOver := c.dpc == 0x3FFF8#18 })
  | .abort => abortFiring s2 g

/-- The effect shared by resume, resume.next and abort: cause 0x03 outside a handler firing. -/
def leaveEffect (how : Leave) (s : State) : Eff :=
  orTrap [trapIf (s.me.phase != .inHandler) 0x03 0xE2 0] <|
    .stay (leaveHandler (s.countIssue s.cur) s.cur how)

def execResume (h : Hdr) (s : State) : Out := issue (.resume h) [] s (leaveEffect .resume)

def execResumeNext (h : Hdr) (s : State) : Out := issue (.resumeNext h) [] s (leaveEffect .next)

def execAbort (h : Hdr) (s : State) : Out := issue (.abort h) [] s (leaveEffect .abort)

def execTrap (h : Hdr) (code : BitVec 20) (s : State) : Out :=
  issue (.trap h code) [] s fun _ => .trap 0x15 code.toNat 0

def execBrk (h : Hdr) (code : BitVec 20) (s : State) : Out :=
  issue (.brk h code) [] s fun _ => .trap 0x14 code.toNat 0

/-! ### Steps of edges and queues (R126, R127, R140, R164, R166) -/

/-- The oldest token on its way becomes countable; a tag that is not the launch's context is discarded (R127). The slot
of a discarded token is not freed, and its credit never returns (DESIGN CHOICE, log 60). -/
def arriveToken (c : Fin 4) (e : Edge) : Edge :=
  match e.inflight with
  | [] => e
  | t :: ts => { e with inflight := ts, queue := if t.tag = c then e.queue ++ [t] else e.queue }

/-- ACTOR_ENABLE_ARRIVAL: the oldest request of an instance takes effect. -/
def execActorEnableArrival (q : Fin 32) (c : Fin 4) (s : State) : Out :=
  .next (s.modLaunch q c (fun l =>
    match l.insts.find? (fun i => !i.wanted.isEmpty) with
    | some i => l.modInst i.num (fun x =>
        match x.wanted with
        | w :: ws => { x with enabled := w, wanted := ws }
        | [] => x)
    | none => l))

/-- TQ_PENDING_SIGNAL: a pending signal enters a queue that has gained room (R164). -/
def execTqPendingSignal (t : Fin 256) (tq : Fin 16) (s : State) : Out :=
  let g := AgentId.tile t 0
  if s.pend g tq > 0 ∧ s.tq g tq < 63 then
    .next ((s.setTq g tq (s.tq g tq + 1)).setPend g tq (s.pend g tq - 1))
  else .next s

end Sys2Proof.Machine
end

