-- ==== Sys2Proof/Machine/Groups.lean ====
section
/-! DEFINITION. Group instructions, the operations of a group object and its responses
(spec/05_actors.md, R167 to R172). -/

namespace Sys2Proof.Machine

/-! ### Issue -/

/-- A release drains the write-coalescing buffer before it takes effect (R257). -/
def afterDrain (s : State) (k : Eff) : Eff :=
  if !s.me.wcb.isEmpty then .wait (fun s => s.drainAll s.cur)
  else if s.pastOpen s.cur then .hold
  else k

/-- Send a group request to the object's home. -/
def sendGroup (s : State) (gid : Nat) (op : GroupOp) (dst : Option (Fin 32)) (sq : Option (Fin 16))
    (block : Bool) : State :=
  let r : GroupReq := { gid := gid, op := op, dst := dst, sq := sq, block := block, by_ := s.issued s.cur,
                        stage := 0, phase := 0, value := 0, err := 0 }
  s.modCtx s.cur (fun c => { c with groups := c.groups ++ [r] })

/-- The shared form: a poisoned operand traps; an arrival is a release (R170, R172). -/
def groupInstr (i : Instr) (srcs : List (Fin 32)) (y : Fin 32) (op : Ctx → GroupOp) (dst : Option (Fin 32))
    (blocks release : Bool) (s : State) : Out :=
  issue i (srcs.map .s) s fun s =>
    let go : Eff := .done (sendGroup s (s.me.readS y).toNat (op s.me) dst (sqOf i) (blocks && !i.clauses.se))
    orTrap [poisonS s.me srcs, maskTrap s i] (if release then afterDrain s go else go)

def execGjoin (h : Hdr) (x y : Fin 32) (cl : Clauses) (s : State) : Out :=
  groupInstr (.gjoin h x y cl) [y] y (fun _ => .join) (some x) false false s

def execGleave (h : Hdr) (arr : Bool) (y : Fin 32) (cl : Clauses) (s : State) : Out :=
  groupInstr (.gleave h arr y cl) [y] y (fun _ => .leave arr) none false false s

def execGarrive (h : Hdr) (x y : Fin 32) (cl : Clauses) (s : State) : Out :=
  groupInstr (.garrive h x y cl) [y] y (fun _ => .arrive) (some x) false true s

def execGwait (h : Hdr) (y z : Fin 32) (cl : Clauses) (s : State) : Out :=
  groupInstr (.gwait h y z cl) [y, z] y (fun c => .wait (c.readS z).toNat) none true false s

def execGbar (h : Hdr) (x y : Fin 32) (cl : Clauses) (s : State) : Out :=
  groupInstr (.gbar h x y cl) [y] y (fun _ => .bar) (some x) true true s

def execGred (h : Hdr) (op : GredOp) (ty : Ty) (x y z : Fin 32) (cl : Clauses) (s : State) : Out :=
  groupInstr (.gred h op ty x y z cl) [y, z] y (fun c => .red op ty (c.readS z)) (some x) true true s

/-! ### The object (R168, R169, R171) -/

/-- The identity of an operation (R171). -/
def gredIdent (op : GredOp) (t : Ty) : Nat :=
  match op with
  | .add | .or | .xor => 0
  | .and => 2 ^ 64 - 1
  | .min => if t = .f32 then 0x7FC00000 else intMod t.hi 64
  | .max => if t = .f32 then 0x7FC00000 else intMod t.lo 64

/-- The reduction before any contribution: value, and the exact accumulator of an f32 sum. -/
def gredStart (op : GredOp) (t : Ty) : GredOp × Ty × Word × Nat := (op, t, BitVec.ofNat 64 (gredIdent op t), 0)

/-- One contribution x (R171). -/
def gredAdd (r : GredOp × Ty × Word × Nat) (x : Word) : GredOp × Ty × Word × Nat :=
  let (op, t, v, acc) := r
  let n := x.toNat % 2 ^ t.width
  match op with
  | .add =>
    if t = .f32 then (op, t, v, ((Xacc.ofNat acc).add n).toNat) else (op, t, v + x, acc)
  | .min => (op, t, if t = .f32 then BitVec.ofNat 64 (minBits .f32 v.toNat n)
      else if t.val v.toNat ≤ t.val n then v else x, acc)
  | .max => (op, t, if t = .f32 then BitVec.ofNat 64 (maxBits .f32 v.toNat n)
      else if t.val v.toNat ≥ t.val n then v else x, acc)
  | .and => (op, t, v &&& x, acc)
  | .or => (op, t, v ||| x, acc)
  | .xor => (op, t, v ^^^ x, acc)

/-- The result of a phase; 0 without a gred. -/
def gredResult : Option (GredOp × Ty × Word × Nat) → Word
  | none => 0
  | some (op, t, v, acc) =>
    if op = .add ∧ t = .f32 then BitVec.ofNat 64 (Xacc.ofNat acc).toF32 else v

/-- A phase completes when N = M with M > 0 (R168). -/
def GroupObj.settle (o : GroupObj) : GroupObj :=
  if o.n = o.m ∧ 0 < o.m then
    { o with n := 0, phase := o.phase + 1, results := gredResult o.red :: o.results, red := none,
             m := o.m - o.lower, lower := 0 }
  else o

/-- The result of a completed phase. -/
def GroupObj.result (o : GroupObj) (p : Nat) : Word := o.results.getD (o.phase - 1 - p) 0

/-- Apply an operation: the object, the value it answers, the phase it falls in and its error. -/
def GroupObj.apply (o : GroupObj) (op : GroupOp) : GroupObj × Word × Nat × Nat :=
  let ph := o.phase
  let val := BitVec.ofNat 64 ph
  match op with
  | .join =>
    if 65535 < o.m + 1 then (o, 0, ph, 4)
    else ({ o with m := o.m + 1, joins := o.joins + 1 }, BitVec.ofNat 64 (o.mInit + o.joins), ph, 0)
  | .leave arr =>
    if o.m = 0 then (o, 0, ph, 2)
    else if arr then ({ o with lower := o.lower + 1 }, 0, ph, 0)
    else (({ o with m := o.m - 1 } : GroupObj).settle, 0, ph, 0)
  | .wait _ => (o, 0, ph, 0)
  | .arrive | .bar =>
    if o.m = 0 then (o, 0, ph, 3)
    else (({ o with n := o.n + 1 } : GroupObj).settle, val, ph, 0)
  | .red rop t v =>
    if o.m = 0 then (o, 0, ph, 3)
    else
      match o.red with
      | none => (({ o with n := o.n + 1, red := some (gredAdd (gredStart rop t) v) } : GroupObj).settle, 0, ph, 0)
      | some r =>
        if r.1 = rop ∧ r.2.1 = t then
          (({ o with n := o.n + 1, red := some (gredAdd r v) } : GroupObj).settle, 0, ph, 0)
        else (({ o with n := o.n + 1 } : GroupObj).settle, 0, ph, 5)

/-- The operation is an arrival, which waits for the firing's prior accesses (R172). -/
def GroupOp.arrival : GroupOp → Bool
  | .arrive | .bar | .red .. => true
  | _ => false

/-- A group object of a partition; identifiers above 16,383 are unbound (R167). -/
def State.groupObj (s : State) (q : Fin 32) (gid : Nat) : Option GroupObj :=
  if 16383 < gid then none else s.groups.find? (fun o => o.q == q && o.gid == gid)

/-- The object a context's group request names. -/
def State.groupOf (s : State) (g : AgentId) (gid : Nat) : Option GroupObj :=
  match s.launchOf g with
  | some l => s.groupObj l.q gid
  | none => none

/-- Replace an object. -/
def State.setGroup (s : State) (o : GroupObj) : State :=
  { s with groups := s.groups.map (fun x => if x.q == o.q && x.gid == o.gid then o else x) }

/-- Replace element n of a list. -/
def listSet {α : Type} (l : List α) (n : Nat) (x : α) : List α := l.set n x

/-- The earlier accesses of a context that an arrival waits for. -/
def olderAccess (c : Ctx) (order : Nat) : Bool :=
  c.reqs.any (fun r => r.op.waited && decide (r.by_.order < order) && (match r.stage with | .done _ _ => false | _ => true))

/-- A store older than the arrival has reached the buffer since, from behind a parked access. -/
def olderStore (c : Ctx) (order : Nat) : Bool := c.wcb.any (fun w => decide (w.by_.order < order))

/-- The oldest request of a context that its home has not applied. -/
def nextGroupReq (c : Ctx) : Option (Nat × GroupReq) :=
  (c.groups.zipIdx.find? (fun x => x.1.stage == 0)).map (fun x => (x.2, x.1))

/-- GROUP_OPERATION: the home slice applies the context's oldest request. -/
def execGroupOperation (g : AgentId) (s : State) : Out :=
  let c := s.ctx g
  match nextGroupReq c with
  | none => .next s
  | some (n, r) =>
    if r.op.arrival && olderStore c r.by_.order then .next (s.drainAll g)
    else if r.op.arrival && olderAccess c r.by_.order then .next s
    else
      match s.groupOf g r.gid with
      | none => .next (s.modCtx g (fun c => { c with groups := listSet c.groups n { r with stage := 1, err := 1 } }))
      | some o =>
        let (o', v, ph, e) := o.apply r.op
        .next ((s.setGroup o').modCtx g (fun c =>
          { c with groups := listSet c.groups n { r with stage := 1, value := v, phase := ph, err := e } }))

/-- The request has completed at its home (Table 5.13). -/
def groupDone (s : State) (g : AgentId) (r : GroupReq) : Bool :=
  let passed := fun (p : Nat) => match s.groupOf g r.gid with
    | some o => decide (p < o.phase)
    | none => false
  if r.err ≠ 0 then true
  else match r.op with
    | .wait p => passed p
    | .bar | .red .. => passed r.phase
    | _ => true

/-- The value a completed request writes. -/
def groupValue (s : State) (g : AgentId) (r : GroupReq) : Word :=
  match r.op with
  | .red .. => (match s.groupOf g r.gid with | some o => o.result r.phase | none => 0)
  | _ => r.value

/-- Write the destination of a request, poison cleared. -/
def Ctx.writeDst (c : Ctx) (d : Option (Fin 32)) (v : Word) : Ctx :=
  match d with
  | some d => c.writeS d v false
  | none => c

/-- GROUP_RESPONSE: the answer to request n of a context arrives (R169, R170). -/
def execGroupResponse (g : AgentId) (n : Nat) (s : State) : Out :=
  match (s.ctx g).groups[n]? with
  | none => .next s
  | some r =>
    if r.stage = 0 then .next s
    else if groupDone s g r then
      let s1 := s.modCtx g (fun c => { c with groups := c.groups.eraseIdx n })
      if r.err ≠ 0 then
        .next (s1.modCtx g (fun c => c.recordOwed ⟨0x11, r.gid % 2 ^ 16 + r.err * 2 ^ 16, 0, r.by_, .next r.sq⟩))
      else
        let s2 := s1.modCtx g (fun c => if r.stage = 2 then c else c.writeDst r.dst (groupValue s g r))
        .next (s2.signalOpt g r.sq)
    else if r.op = .bar ∧ r.stage = 1 then
      .next (s.modCtx g (fun c =>
        { (c.writeDst r.dst r.value) with groups := listSet c.groups n { r with stage := 2 } }))
    else .next s

end Sys2Proof.Machine
end

