-- ==== Sys2Proof/Machine/Xlate.lean ====
section
/-! DEFINITION. Homes and stacks of physical addresses, and address translation (R20 to R22, R391 to R395). -/

namespace Sys2Proof.Machine

/-! ### Ports, homes and stacks (R20 to R22) -/

/-- The lowest port that carries traffic to a package (R424). -/
def State.peerPort (s : State) (p : Nat) : Option (Fin 16) :=
  (List.finRange 16).find? (fun k =>
    (s.pf.lnkmap.get k).getLsbD 16 && (s.pf.lnkst.get k).getLsbD 0 && bitsAt (s.pf.lnkmap.get k).toNat 0 6 == p)

/-- A peer window that R21 and R424 allow. -/
def State.peerOk (s : State) (p : Nat) : Bool :=
  s.pf.pkgid.getLsbD 8 && bitsAt s.pf.pkgid.toNat 0 6 != p && (s.peerPort p).isSome

/-- The global channel group of a local HBM address (R22). -/
def cgOf (pa : Nat) : Fin 32 := Fin.ofNat 32 (pa / 2 ^ 34)

/-- The local slice that is home to it (R22). -/
def sliceOf (pa : Nat) : Fin 10 := Fin.ofNat 10 (bitsAt pa 7 27)

/-- The home of an address: a slice, a peer package or the host. -/
inductive Home where
  | slice (cg : Fin 32) (sl : Fin 10) | peer (p : Nat) | host | none
deriving DecidableEq, Repr

def homeOf (pa : Nat) : Home :=
  match targetOf pa with
  | some .hbm => .slice (cgOf pa) (sliceOf pa)
  | some (.peer p) => .peer p
  | some .host => .host
  | none => .none

/-- The stack of a channel group (R20). -/
def stackOf (cg : Fin 32) : Fin 8 := ⟨cg.val / 4, by omega⟩

/-- The stack behind a local HBM address has power (R432). -/
def State.reachable (s : State) (pa : Nat) : Bool :=
  match targetOf pa with
  | some .hbm => (s.hbm.stack.get (stackOf (cgOf pa))).powered
  | some (.peer p) => (s.peerPort p).isSome
  | some .host => true
  | none => false

/-! ### Page tables (R392) -/

/-- The entry of an eight-byte table slot. Page tables lie in local HBM (R391); the spec does not say what
a walk does where a root or an entry names another place: such a slot reads 0 here, a missing page
(DESIGN CHOICE, log 47). -/
def State.tableEntry (s : State) (pa : Nat) : Word := BitVec.ofNat 64 (if targetOf pa = some .hbm then s.mem.readNat pa 8 else 0)

/-- The entry's reserved bits, LEAF and SIZE fit its level. -/
def entryFits (level : Nat) (e : Word) : Bool :=
  let leaf := e.getLsbD 1
  let size := bitsAt e.toNat 2 2
  !e.getLsbD 6 && !e.getLsbD 7 && !e.getLsbD 63 &&
  match level with
  | 0 => !leaf && size == 0
  | 1 => size == 0
  | 2 => if leaf then size ≤ 1 else size == 0
  | _ => leaf && size == 0

/-- The table a non-leaf entry names. -/
def nextTable (e : Word) : Nat := bitsAt e.toNat 8 42 * 256

/-- The outcome of a walk: a cached page, or the level of the missing entry. -/
inductive Walk where
  | page (e : TlbEntry)
  | missing (level : Nat)
  /-- A read of a table was lost, since its stack has no power (R432). -/
  | lost
deriving DecidableEq, Repr

/-- The page of a leaf entry. -/
def leafPage (m : Fin 128) (va level : Nat) (e : Word) : TlbEntry :=
  let size := match level with
    | 1 => 2 ^ 30
    | 2 => if bitsAt e.toNat 2 2 = 1 then 2 ^ 26 else 2 ^ 21
    | _ => 2 ^ 16
  ⟨m, va / size * size, size, e⟩

/-- The addresses of the table slots that a walk may read, by level, as the tables stand (R392). -/
def State.slotAt (s : State) (m : Fin 128) (va : Nat) : Nat → Nat
  | 0 => bitsAt (s.xltRoot.get m).toNat 20 30 * 2 ^ 20 + 8 * bitsAt va 39 17
  | 1 => nextTable (s.tableEntry (s.slotAt m va 0)) + 8 * bitsAt va 30 9
  | 2 => nextTable (s.tableEntry (s.slotAt m va 1)) + 8 * bitsAt va 21 9
  | n + 3 => nextTable (s.tableEntry (s.slotAt m va (n + 2))) + 8 * bitsAt va 16 5

/-- The walk from a level down, with fuel. -/
def State.walkFrom (s : State) (m : Fin 128) (va level : Nat) : Nat → Walk
  | 0 => .missing level
  | n + 1 =>
    let a := s.slotAt m va level
    let e := s.tableEntry a
    if targetOf a = some .hbm ∧ !s.reachable a then .lost
    else if !e.getLsbD 0 || !entryFits level e then .missing level
    else if level = 3 ∨ e.getLsbD 1 then .page (leafPage m va level e)
    else s.walkFrom m va (level + 1) n

/-- The walk of R391 and R392. -/
def State.walk (s : State) (m : Fin 128) (va : Nat) : Walk :=
  if (s.xltRoot.get m).getLsbD 0 then s.walkFrom m va 0 4 else .missing 0

/-- The table slots in local HBM that the walk of an address reads. -/
def State.walkReads (s : State) (m : Fin 128) (va : Nat) : List Nat :=
  let n := match s.walk m va with
    | .page e => if e.size = 2 ^ 30 then 2 else if e.size = 2 ^ 16 then 4 else 3
    | .missing l => l + 1
    | .lost => 0
  if (s.xltRoot.get m).getLsbD 0 then ((List.range n).map (s.slotAt m va)).filter (fun a => targetOf a == some .hbm) else []

/-! ### TLBs (R391) -/

def TlbEntry.covers (e : TlbEntry) (m : Fin 128) (va : Nat) : Bool :=
  e.mctx == m && decide (e.va ≤ va) && decide (va < e.va + e.size)

def State.modCluster (s : State) (i : Fin 32) (f : Cluster → Cluster) : State :=
  { s with clusters := vset s.clusters i (f (s.clusters.get i)) }

/-- The tile TLB, then the cluster TLB. -/
def State.tlbFind (s : State) (t : Option (Fin 256)) (cl : Fin 32) (m : Fin 128) (va : Nat) : Option TlbEntry :=
  match (match t with | some t => (s.tile t).tlb.find? (fun e => e.covers m va) | none => none) with
  | some e => some e
  | none => (s.clusters.get cl).tlb.find? (fun e => e.covers m va)

/-- Cache an entry, dropping the oldest beyond the capacity. -/
def tlbPut (l : List TlbEntry) (cap : Nat) (e : TlbEntry) : List TlbEntry :=
  (e :: l.filter (fun x => x != e)).take cap

def State.tlbFill (s : State) (t : Option (Fin 256)) (cl : Fin 32) (e : TlbEntry) : State :=
  let s1 := s.modCluster cl (fun c => { c with tlb := tlbPut c.tlb 4096 e })
  match t with
  | some t => s1.modTile t (fun y => { y with tlb := tlbPut y.tlb 128 e })
  | none => s1

/-! ### Steps 4 to 6 of R391 -/

/-- The kinds of access, with their code in a fault record (Table 14.8). -/
inductive Kind where
  | read | write | rmw
deriving DecidableEq, Repr

def Kind.code : Kind → Nat
  | .read => 1
  | .write => 2
  | .rmw => 3

/-- A translated access. -/
structure Xlated where
  pa : Nat
  key : Option Key
  slot : Nat
  enc : Bool
deriving DecidableEq, Repr

/-- What translation answers: the failing step, its cause and its detail beyond the address. -/
inductive Xlat where
  | ok (x : Xlated)
  | missing (level : Nat)
  | fault (step cause detail : Nat)
deriving DecidableEq, Repr

/-- The physical address of an address in a page. -/
def TlbEntry.pa (e : TlbEntry) (va : Nat) : Nat := bitsAt e.pte.toNat 16 34 * 2 ^ 16 + (va - e.va)

/-- Steps 4 and 5: permission, target and window. -/
def State.pageAllows (s : State) (q : Fin 32) (k : Kind) (e : TlbEntry) (va : Nat) : Nat :=
  let r := e.pte.getLsbD 4
  let w := e.pte.getLsbD 5
  let win := s.xltWin.get q
  if !(match k with | .read => r | .write => w | .rmw => r && w) then 4
  else
    match targetOf (e.pa va) with
    | none => 5
    | some .hbm => if win.getLsbD (cgOf (e.pa va)).val then 0 else 5
    | some (.peer p) => if win.getLsbD 32 && s.peerOk p then 0 else 5
    | some .host => if win.getLsbD 33 then 0 else 5

/-- Step 6: the key slot is owned and loaded (R391, cause 0x13). -/
def State.keyCheck (s : State) (q : Fin 32) (slot : Nat) : Nat :=
  match s.parts.find? (fun p => p.q == q) with
  | some p =>
    if !p.keys.any (fun k => k.val == slot) then 2
    else if s.keys.any (fun k => k.slot.val == slot) then 0 else 3
  | none => 2

def State.keyOf (s : State) (slot : Nat) : Option Key :=
  (s.keys.find? (fun k => k.slot.val == slot)).map (fun k => k.key)

/-- Apply a page to an access of partition q. -/
def State.applyPage (s : State) (q : Fin 32) (k : Kind) (va : Nat) (e : TlbEntry) : Xlat :=
  let step := s.pageAllows q k e va
  let slot := bitsAt e.pte.toNat 50 12
  let enc := e.pte.getLsbD 62
  if step ≠ 0 then .fault step 0x06 va
  else if enc then
    let r := s.keyCheck q slot
    if r ≠ 0 then .fault 6 0x13 (slot + r * 2 ^ 16) else .ok ⟨e.pa va, s.keyOf slot, slot, true⟩
  else .ok ⟨e.pa va, none, slot, false⟩

/-- The partition of a memory context (R34). -/
def partOfMctx (m : Fin 128) : Fin 32 := ⟨m.val / 4, by omega⟩

/-- Translation with the TLBs of a tile or of a cluster; a miss is walked at once. -/
def State.translate (s : State) (t : Option (Fin 256)) (cl : Fin 32) (m : Fin 128) (k : Kind) (va : Nat) : Xlat :=
  if 2 ^ 56 ≤ va then .fault 1 0x06 va
  else
    match s.tlbFind t cl m va with
    | some e => s.applyPage (partOfMctx m) k va e
    | none =>
      match s.walk m va with
      | .page e => s.applyPage (partOfMctx m) k va e
      | .missing l => .missing l
      | .lost => .fault 3 0x12 3

/-- Translation from the tables alone, as for a replayed access (R390, R394). -/
def State.retranslate (s : State) (m : Fin 128) (k : Kind) (va : Nat) : Xlat :=
  if 2 ^ 56 ≤ va then .fault 1 0x06 va
  else
    match s.walk m va with
    | .page e => s.applyPage (partOfMctx m) k va e
    | .missing l => .missing l
    | .lost => .fault 3 0x12 3

/-- A physical access of the management core (R53). -/
def State.physical (s : State) (pa : Nat) : Xlat :=
  match targetOf pa with
  | some (.peer p) => if s.peerOk p then .ok ⟨pa, none, 0, false⟩ else .fault 5 0x06 pa
  | some _ => .ok ⟨pa, none, 0, false⟩
  | none => .fault 5 0x06 pa

/-! ### TABLE_WALK -/

/-- The page address by which a missed walk is remembered: the least page holds 64 KiB. -/
def pageAddr (va : Nat) : Nat := va / 2 ^ 16

/-- The walk of an access that this tile has waited for met a missing page. -/
def Tile.missedLevel (y : Tile) (m : Fin 128) (va : Nat) : Option Nat :=
  (y.missed.find? (fun x => x.1 == m && x.2.1 == pageAddr va)).map (fun x => x.2.2)

/-- The level by which a tile remembers a walk that was lost (R432). -/
def lostLevel : Nat := 4

/-- What a tile remembers of a walk that found no page. -/
def Tile.noteMissed (y : Tile) (m : Fin 128) (va level : Nat) : Tile :=
  { y with missed := (m, pageAddr va, level) :: y.missed.filter (fun x => !(x.1 == m && x.2.1 == pageAddr va)) }

/-! ### Parking (R394, Table 14.8) -/

/-- The sources of a translated access. -/
inductive Source where
  | tile (t : Fin 256) | engine (cg : Fin 32) | conv (cg : Fin 32) | unit (d : Fin 2)
deriving DecidableEq, Repr

def dieOfCluster (c : Fin 32) : Fin 2 := if c.val < 16 then 0 else 1

def Source.die : Source → Fin 2
  | .tile t => dieOfTile t
  | .engine c => dieOfCluster c
  | .conv c => dieOfCluster c
  | .unit d => d

def Source.code : Source → Nat
  | .tile _ => 0
  | .engine _ => 1
  | .conv _ => 2
  | .unit _ => 3

def Source.place : Source → Nat
  | .tile t => t.val
  | .engine c => c.val
  | .conv c => c.val
  | .unit d => d.val

/-- The replay queue of a source's die has room. -/
def State.replayRoom (s : State) (src : Source) : Bool := (s.dies.get src.die).replay.length < 256

/-- Park an access: its token and the record for the host. -/
def State.park (s : State) (src : Source) (m : Fin 128) (k : Kind) (va level : Nat) : Nat × State :=
  let tok := s.nextTok
  let rcd := leBytes 8 (va % 2 ^ 56) ++ leBytes 1 (k.code + 4 * level) ++ leBytes 1 src.code ++ leBytes 2 src.place
    ++ leBytes 1 m.val ++ leBytes 3 0 ++ leBytes 8 (s.time src.die).toNat ++ leBytes 8 tok
  (tok, ({ s with nextTok := s.nextTok + 1 }.modDie src.die (fun d => { d with replay := d.replay ++ [tok] })).pushFault
    (partOfMctx m) rcd)

/-- A parked access leaves the replay queues. -/
def State.unpark (s : State) (tok : Nat) : State :=
  { s with dies := Vector.ofFn (fun d => { s.dies.get d with replay := (s.dies.get d).replay.filter (fun x => x != tok) }) }

end Sys2Proof.Machine
end

