-- ==== Sys2Proof/Machine/Layout.lean ====
section
/-! DEFINITION. Tensor descriptors, layouts and address derivation (spec/07_handles.md, R201 to R208). -/

namespace Sys2Proof.Machine

/-- The fields of a descriptor (Table 7.1). -/
structure HDesc where
  base : Nat
  scaleBase : Nat
  space : Bool
  rank : Nat
  bounds : Bool
  keychk : Bool
  tyCode : Nat
  tag : Nat
  key : Nat
  dims : List Nat
  pitch : List Nat
  tparam : Nat
  ntparam : Nat
  map : Nat
  newBase : Nat
  newTag : Nat
  cstate : Nat
  park : Bool
  cslot : Nat
  ctok : Bool
  units : Nat
  done : Nat
deriving DecidableEq, Repr

/-- n bits from bit b of byte i. -/
def dBits (d : BitVec 1024) (i b n : Nat) : Nat := bitsAt d.toNat (8 * i + b) n

def hdesc (d : BitVec 1024) : HDesc :=
  { base := dBits d 0 0 64, scaleBase := dBits d 8 0 64, space := dBits d 16 0 1 == 1, rank := dBits d 16 1 3,
    bounds := dBits d 16 4 1 == 1, keychk := dBits d 16 5 1 == 1, tyCode := dBits d 17 0 5, tag := dBits d 18 0 4,
    key := dBits d 20 0 12, dims := (List.range 5).map (fun i => dBits d (24 + 4 * i) 0 32),
    pitch := (List.range 5).map (fun i => dBits d (44 + 8 * i) 0 48), tparam := dBits d 84 0 32,
    ntparam := dBits d 88 0 32, map := dBits d 96 0 64, newBase := dBits d 104 0 64, newTag := dBits d 112 0 4,
    cstate := dBits d 112 4 2, park := dBits d 112 6 1 == 1, cslot := dBits d 113 0 4, ctok := dBits d 113 4 1 == 1,
    units := dBits d 116 0 32, done := dBits d 120 0 32 }

/-- Write n bits at bit b of byte i. -/
def dPut (d : BitVec 1024) (i b n v : Nat) : BitVec 1024 := BitVec.ofNat 1024 (putBits d.toNat (8 * i + b) n v)

def HDesc.ty (h : HDesc) : Ty := (tyOf h.tyCode).getD .n8
def HDesc.dim (h : HDesc) (i : Nat) : Nat := h.dims.getD i 0
def HDesc.pitchOf (h : HDesc) (i : Nat) : Nat := h.pitch.getD i 0

def isFp6 (t : Ty) : Bool := t == .e2m3 || t == .e3m2

/-- The storage width ws: FP6 takes 6 bits in tag 5 only. -/
def storeWidth (t : Ty) (tag : Nat) : Nat := if isFp6 t then (if tag = 5 then 6 else 8) else tyWidth t

def HDesc.ws (h : HDesc) : Nat := storeWidth h.ty h.tag

/-- G of R92. -/
def groupOf (t : Ty) : Nat := if tyWidth t = 4 then 4 else if tyWidth t = 8 then 2 else 1

/-- The channel block of tag 7. -/
def HDesc.cb (h : HDesc) : Nat := 8 * 2 ^ (h.tparam % 4)

/-- The product of extents. -/
def prodNat (l : List Nat) : Nat := l.foldl (· * ·) 1

/-- The extents in force. -/
def HDesc.ext (h : HDesc) : List Nat := h.dims.take h.rank

/-- The 32-element blocks of tag 5. -/
def HDesc.blocks (h : HDesc) : Nat := prodNat h.ext / 32

/-- Storage size S in bytes (Table 7.2). -/
def HDesc.size (h : HDesc) : Nat :=
  let r := h.rank
  match h.tag with
  | 0 => if r = 1 then ceilDiv (h.dim 0 * h.ws) 8 else h.dim 0 * h.pitchOf 0
  | 1 => if r = 1 then ceilDiv (h.dim 0 * h.ws) 8 else h.dim (r - 1) * h.pitchOf (r - 1)
  | 2 => ceilDiv (h.dim 0) 128 * ceilDiv (h.dim 1) (groupOf h.ty) * 256
  | 3 => ceilDiv (h.dim 1) 64 * ceilDiv (h.dim 0) (groupOf h.ty) * 128
  | 4 => h.dim 0 * h.pitchOf 0
  | 5 => h.blocks * 4 * h.ws
  | 6 => h.dim 0 * h.pitchOf 0
  | _ => h.dim 0 * ceilDiv (h.dim 1) h.cb * h.dim 2 * h.dim 3 * h.cb * h.ws / 8

/-- Row-major index of coordinates over extents. -/
def rowMajor : List Nat → List Nat → Nat → Nat
  | n :: ns, x :: xs, acc => rowMajor ns xs (acc * n + x)
  | _, _, acc => acc

/-- Coordinates of a row-major index over extents. -/
def unflatten : List Nat → Nat → List Nat
  | [], _ => []
  | _ :: ns, i => i / prodNat ns :: unflatten ns (i % prodNat ns)

/-- The bit offset Loc(x) (R204). -/
def HDesc.loc (h : HDesc) (x : List Nat) : Nat :=
  let r := h.rank
  let ws := h.ws
  let g := groupOf h.ty
  let at_ := fun (i : Nat) => x.getD i 0
  match h.tag with
  | 0 => ((List.range (r - 1)).map (fun i => 8 * at_ i * h.pitchOf i)).foldl (· + ·) 0 + at_ (r - 1) * ws
  | 1 => ((List.range (r - 1)).map (fun i => 8 * at_ (i + 1) * h.pitchOf (i + 1))).foldl (· + ·) 0 + at_ 0 * ws
  | 2 => 8 * (at_ 0 / 128 * ceilDiv (h.dim 1) g * 256 + at_ 1 / g * 256 + at_ 0 % 128 * 2) + at_ 1 % g * ws
  | 3 => 8 * (at_ 1 / 64 * ceilDiv (h.dim 0) g * 128 + at_ 0 / g * 128 + at_ 1 % 64 * 2) + at_ 0 % g * ws
  | 4 => 8 * at_ 0 * h.pitchOf 0 + ((at_ 1 * ws / 512) ^^^ (at_ 0 % 16)) * 512 + at_ 1 * ws % 512
  | 5 =>
    let k := rowMajor (h.ext.take (r - 1) ++ [h.dim (r - 1) / 32]) (x.take (r - 1) ++ [at_ (r - 1) / 32]) 0
    k * 32 * ws + at_ (r - 1) % 32 * ws
  | 6 => 8 * (at_ 0 * h.pitchOf 0 + at_ 1 / 32 * 16 + at_ 1 % 16) + 4 * (at_ 1 % 32 / 16)
  | _ => ((((at_ 0 * ceilDiv (h.dim 1) h.cb + at_ 1 / h.cb) * h.dim 2 + at_ 2) * h.dim 3 + at_ 3) * h.cb
      + at_ 1 % h.cb) * ws

/-- The bitwise exclusive or of an integer with a number below 16: it changes the low four bits only. -/
def xor16 (u : Int) (m : Nat) : Int := u / 16 * 16 + (((u % 16).toNat ^^^ m : Nat) : Int)

/-- Row-major index of integer coordinates over extents. -/
def rowMajorInt : List Nat → List Int → Int → Int
  | n :: ns, x :: xs, acc => rowMajorInt ns xs (acc * n + x)
  | _, _, acc => acc

/-- Loc(x) of coordinates read as signed, in range or not (R204, R221); div and mod are floored. -/
def HDesc.locInt (h : HDesc) (x : List Int) : Int :=
  let r := h.rank
  let ws : Int := h.ws
  let g : Int := groupOf h.ty
  let cb : Int := h.cb
  let at_ := fun (i : Nat) => x.getD i 0
  let p := fun (i : Nat) => (h.pitchOf i : Int)
  match h.tag with
  | 0 => ((List.range (r - 1)).map (fun i => 8 * at_ i * p i)).foldl (· + ·) 0 + at_ (r - 1) * ws
  | 1 => ((List.range (r - 1)).map (fun i => 8 * at_ (i + 1) * p (i + 1))).foldl (· + ·) 0 + at_ 0 * ws
  | 2 => 8 * (at_ 0 / 128 * ceilDiv (h.dim 1) (groupOf h.ty) * 256 + at_ 1 / g * 256 + at_ 0 % 128 * 2) + at_ 1 % g * ws
  | 3 => 8 * (at_ 1 / 64 * ceilDiv (h.dim 0) (groupOf h.ty) * 128 + at_ 0 / g * 128 + at_ 1 % 64 * 2) + at_ 0 % g * ws
  | 4 => 8 * at_ 0 * p 0 + xor16 (at_ 1 * ws / 512) (at_ 0 % 16).toNat * 512 + at_ 1 * ws % 512
  | 5 =>
    let k := rowMajorInt (h.ext.take (r - 1) ++ [h.dim (r - 1) / 32]) (x.take (r - 1) ++ [at_ (r - 1) / 32]) 0
    k * 32 * ws + at_ (r - 1) % 32 * ws
  | 6 => 8 * (at_ 0 * p 0 + at_ 1 / 32 * 16 + at_ 1 % 16) + 4 * (at_ 1 % 32 / 16)
  | _ => ((((at_ 0 * ceilDiv (h.dim 1) h.cb + at_ 1 / cb) * h.dim 2 + at_ 2) * h.dim 3 + at_ 3) * cb + at_ 1 % cb) * ws

/-- The block index k of an element in tag 5: its scale lies at SCALEBASE + k. -/
def HDesc.scaleIndex (h : HDesc) (x : List Nat) : Nat :=
  let r := h.rank
  rowMajor (h.ext.take (r - 1) ++ [h.dim (r - 1) / 32]) (x.take (r - 1) ++ [x.getD (r - 1) 0 / 32]) 0

/-- A coordinate read as signed is in range (R205). -/
def coordIn (n : Nat) (x : Int) : Bool := decide (0 ≤ x) && decide (x < n)

/-- The first dimension out of range. -/
def HDesc.outDim (h : HDesc) (x : List Int) : Option Nat :=
  (List.range h.rank).find? (fun i => !coordIn (h.dim i) (x.getD i 0))

/-! ### The checks of hdef (R201 to R203, Table 7.3) -/

def tagRank (tag rank : Nat) : Bool :=
  match tag with
  | 0 | 1 | 5 => decide (1 ≤ rank) && decide (rank ≤ 5)
  | 2 | 3 | 4 | 6 => rank == 2
  | 7 => rank == 4
  | _ => false

def tagTy (tag code : Nat) : Bool :=
  match tag with
  | 0 | 1 | 4 => decide (code ≤ 9) || (decide (16 ≤ code) && decide (code ≤ 25))
  | 2 | 3 => [0, 1, 8, 9].contains code || (decide (17 ≤ code) && decide (code ≤ 23))
  | 5 => [0, 8].contains code || (decide (19 ≤ code) && decide (code ≤ 23))
  | 6 => [8, 9, 23].contains code
  | 7 => decide (code ≤ 5) || (decide (16 ≤ code) && decide (code ≤ 22))
  | _ => false

/-- Pitches that nest, from the innermost (R203): the least pitch a dimension may have is m. -/
def nests (m unit : Nat) : List (Nat × Nat) → Bool
  | [] => true
  | (n, p) :: rest => decide (m ≤ p) && p % unit == 0 && nests (n * p) unit rest

/-- The pitch rules of the tags. -/
def HDesc.pitchOk (h : HDesc) : Bool :=
  let r := h.rank
  let unit := ceilDiv h.ws 8
  let zeroFrom := fun (i : Nat) => (List.range 5).all (fun j => decide (j < i) || h.pitchOf j == 0)
  match h.tag with
  | 0 => zeroFrom (r - 1) && nests (ceilDiv (h.dim (r - 1) * h.ws) 8) unit
      ((List.range (r - 1)).reverse.map (fun i => (h.dim i, h.pitchOf i)))
  | 1 => zeroFrom r && h.pitchOf 0 == 0 && nests (ceilDiv (h.dim 0 * h.ws) 8) unit
      ((List.range (r - 1)).map (fun i => (h.dim (i + 1), h.pitchOf (i + 1))))
  | 4 => zeroFrom 1 && h.pitchOf 0 % 1024 == 0 && decide (h.dim 1 * h.ws ≤ 8 * h.pitchOf 0)
  | 6 => zeroFrom 1 && h.pitchOf 0 % 16 == 0 && decide (h.dim 1 ≤ 2 * h.pitchOf 0) && h.dim 1 % 32 == 0
  | 5 => zeroFrom 0 && h.dim (r - 1) % 32 == 0
  | _ => zeroFrom 0

/-- Extents, parameters, reserved and hardware fields (reason 5). -/
def HDesc.paramOk (h : HDesc) (d : BitVec 1024) : Bool :=
  (List.range 5).all (fun i => if i < h.rank then h.dim i != 0 else h.dim i == 0)
  && h.pitchOk
  && (if h.tag = 7 then decide (h.tparam < 4) else h.tparam == 0)
  && (h.tag == 5 || h.scaleBase == 0)
  && dBits d 16 6 2 == 0 && dBits d 17 5 3 == 0 && dBits d 18 4 4 == 0 && dBits d 19 0 8 == 0
  && dBits d 21 4 4 == 0 && dBits d 22 0 16 == 0 && (List.range 5).all (fun i => dBits d (44 + 8 * i) 48 16 == 0)
  && dBits d 92 0 32 == 0 && dBits d 104 0 192 == 0

/-- BASE, SCALEBASE and MAPADDR alignment (reason 6). -/
def HDesc.alignOk (h : HDesc) : Bool :=
  (if h.tag = 0 ∨ h.tag = 1 ∨ h.tag = 6 then h.base % ceilDiv h.ws 8 == 0 else h.base % 256 == 0)
  && h.map % 64 == 0

/-- The end of a descriptor's space. -/
def HDesc.spaceEnd (h : HDesc) : Nat := if h.space then 0x180000 else 2 ^ 56

/-- The bytes of a unit-state map for a store (R209). -/
def mapBytes (units : Nat) : Nat := ceilDiv units 4

/-- The store, scale array and map stay in their spaces (reason 7). -/
def HDesc.fits (h : HDesc) : Bool :=
  decide (h.base + h.size ≤ h.spaceEnd) && (h.tag != 5 || decide (h.scaleBase + h.blocks ≤ h.spaceEnd))
    && (h.map == 0 || decide (h.map < 2 ^ 56))

/-- The reason of cause 0x0B for a descriptor, or none (R201 to R203). -/
def defReason (d : BitVec 1024) : Option Nat :=
  let h := hdesc d
  if 8 ≤ h.tag then some 2
  else if !tagRank h.tag h.rank || (h.tag == 4 && !h.space) then some 3
  else if !tagTy h.tag h.tyCode then some 4
  else if !h.paramOk d then some 5
  else if !h.alignOk then some 6
  else if !h.fits then some 7
  else none

/-! ### The target of a relayout (R208) -/

/-- Dense pitches of the dimensions from the innermost out. -/
def densePitches (m : Nat) : List Nat → List Nat
  | [] => []
  | n :: rest => m :: densePitches (n * m) rest

/-- The pitches of a target, by dimension. -/
def targetPitch (h : HDesc) (tag : Nat) : List Nat :=
  let r := h.rank
  let ws := storeWidth h.ty tag
  match tag with
  | 0 => (densePitches (ceilDiv (h.dim (r - 1) * ws) 8) ((List.range (r - 1)).reverse.map h.dim)).reverse
  | 1 => 0 :: densePitches (ceilDiv (h.dim 0 * ws) 8) ((List.range (r - 1)).map (fun i => h.dim (i + 1)))
  | 6 => [h.dim 1 / 2]
  | _ => []

/-- The descriptor a completed relayout leaves. -/
def targetDesc (d : BitVec 1024) (tag newBase : Nat) : BitVec 1024 :=
  let h := hdesc d
  let ps := targetPitch h tag
  let d1 := dPut (dPut (dPut d 0 0 64 newBase) 18 0 4 tag) 84 0 32 h.ntparam
  let d2 := (List.range 5).foldl (fun x i => dPut x (44 + 8 * i) 0 64 (ps.getD i 0)) d1
  dPut d2 104 0 192 0

end Sys2Proof.Machine
end

