-- ==== Sys2Proof/Machine/Slices.lean ====
section
/-! DEFINITION. The caching slices: their lines, misses and fills, the accesses that a miss holds, and
the walks that read page tables through them (R19, R261 to R263, R391, R429, R433). -/

namespace Sys2Proof.Machine

/-- The slice of a local address. -/
def State.slice (s : State) (cg : Fin 32) (sl : Fin 10) : Slice := (s.clusters.get cg).slices.get sl

def State.modSlice (s : State) (cg : Fin 32) (sl : Fin 10) (f : Slice → Slice) : State :=
  s.modCluster cg (fun c => { c with slices := vset c.slices sl (f (c.slices.get sl)) })

/-- The pseudo-channel of a local HBM address, over all channel groups (R428). -/
def pseudoOf (pa : Nat) : Fin 512 := Fin.ofNat 512 (16 * (cgOf pa).val + (bitsAt pa 7 4 ^^^ bitsAt pa 11 4))

/-- A request takes its pseudo-channel out of self-refresh, and its timer starts with IDLE as it stands (R429). -/
def State.wake (s : State) (pa : Nat) : State :=
  { s with hbm := { s.hbm with
      asleep := setBit s.hbm.asleep (pseudoOf pa).val false
      srIdle := vset s.hbm.srIdle (pseudoOf pa) (bitsAt s.hbm.sridle.toNat 0 16) } }

/-- A line that missed, waiting for its fill. A prefetch of a line that is on its way is applied after
the fill. -/
def State.noteMiss (s : State) (pa : Nat) (cp : Fin 4) (m : Fin 128) (how : Duel) (pref : Bool) : State :=
  let line := pa / 128
  (s.wake pa).modSlice (cgOf pa) (sliceOf pa) (fun x =>
    if x.miss.any (fun e => e.line == line) then
      if pref then { x with miss := x.miss.map (fun e => if e.line == line then { e with later := e.later ++ [cp] } else e) } else x
    else if x.lines.any (fun l => l.line == line) then x
    else { x with miss := x.miss ++ [⟨line, cp, m, how, pref, []⟩] })

/-! ### The slice's copies (R19, R261, R262, R433) -/

/-- The set of a line (R19). -/
def setOf (line : Nat) : Nat := bitsAt line 0 27 / 10 % 2048

/-- Drop the victim of a full set: the least recent unprotected way (R262). -/
def evict (ls : List SliceLine) (set : Nat) : List SliceLine :=
  let ways := ls.filter (fun l => setOf l.line == set)
  if ways.length < 16 then ls
  else match (ways.filter (fun l => !l.prot)).getLast? with
    | some v => ls.filter (fun l => l.line != v.line)
    | none => match ways.getLast? with | some v => ls.filter (fun l => l.line != v.line) | none => ls

/-- Before a ninth way of a set is protected, the least recent protected way is unprotected. -/
def capProt (ls : List SliceLine) (set : Nat) : List SliceLine :=
  let ps := ls.filter (fun l => l.prot && setOf l.line == set)
  if ps.length < 8 then ls
  else match ps.getLast? with
    | some v => ls.map (fun l => if l.line == v.line then { l with prot := false } else l)
    | none => ls

/-- A hit under a policy (Table 9.2). -/
def Slice.promote (x : Slice) (line : Nat) (cp : Fin 4) : Slice :=
  match x.lines.find? (fun l => l.line == line) with
  | none => x
  | some l =>
    let rest := x.lines.filter (fun y => y.line != line)
    if cp = 1 then { x with lines := x.lines.map (fun y => if y.line == line then { y with prot := false } else y) }
    else if cp = 2 then
      let rest' := if l.prot then rest else capProt rest (setOf line)
      { x with lines := { l with prot := true } :: rest' }
    else { x with lines := l :: rest }

/-- An access to a line that is present: the access that missed was placed by its fill; any other is a hit. -/
def Slice.hit (x : Slice) (line : Nat) (cp : Fin 4) : Slice :=
  if x.lines.any (fun l => l.line == line && l.fresh) then
    { x with lines := x.lines.map (fun l => if l.line == line then { l with fresh := false } else l) }
  else x.promote line cp

/-- Where a miss under CP 0 inserts, at MRU or not, and the selector after it (R433). -/
def duel (sel set : Nat) (how : Duel) : Bool × Nat :=
  let follow := decide (sel ≤ 511)
  match how with
  | .push => (follow, sel)
  | .rmw => (if set % 64 = 0 then true else if set % 64 = 33 then false else follow, sel)
  | .plain =>
    if set % 64 = 0 then (true, Nat.min 1023 (sel + 1))
    else if set % 64 = 33 then (false, sel - 1)
    else (follow, sel)

/-- Insert a filled line (R261, R262, R433). -/
def Slice.insert (x : Slice) (e : Miss) : Slice :=
  let set := setOf e.line
  let ls := evict x.lines set
  let l : SliceLine := ⟨e.line, e.cp == 2, !e.pref⟩
  if e.cp = 2 then { x with lines := l :: capProt ls set }
  else if e.cp = 1 then { x with lines := ls ++ [l] }
  else
    let (mru, sel) := duel (x.sel.get e.mctx) set e.duel
    { x with lines := if mru then l :: ls else ls ++ [l], sel := vset x.sel e.mctx sel }

/-- SLICE_FILL: the missed line of a memory context is filled and held accesses may proceed. -/
def execSliceFill (m : Fin 128) (line : Nat) (s : State) : Out :=
  let pa := line * 128
  match (s.slice (cgOf pa) (sliceOf pa)).miss.find? (fun e => e.line == line && e.mctx == m) with
  | some e =>
    .next (s.modSlice (cgOf pa) (sliceOf pa) (fun x =>
      e.later.foldl (fun x cp => x.promote line cp) { x.insert e with miss := x.miss.filter (fun e => e.line != line) }))
  | none => .next s

/-- How a request of a context treats the selector (R433). -/
def ReqOp.duel : ReqOp → Duel
  | .rmw .. | .cas .. | .xadd .. | .xrd .. => .rmw
  | _ => .plain

/-- The slice passes an access to its lines: policies are applied on hits, misses are noted. -/
def State.touchLines (s : State) (pa n : Nat) (cp : Fin 4) (m : Fin 128) (how : Duel) (pref : Bool) : State :=
  if targetOf pa ≠ some .hbm then s
  else (linesOf pa n).foldl (fun s l =>
    let a := l * 128
    if (s.slice (cgOf a) (sliceOf a)).lines.any (fun x => x.line == l) then
      s.modSlice (cgOf a) (sliceOf a) (fun x => if pref then x.promote l cp else x.hit l cp)
    else if cp = 3 then s.wake a else s.noteMiss a cp m how pref) s

/-- The slices pass an access that is no prefetch. -/
def State.touch (s : State) (pa n : Nat) (cp : Fin 4) (m : Fin 128) (how : Duel) : State := s.touchLines pa n cp m how false

/-- No line of the access waits for a fill: each is present, or is not allocated by the access (R261, R263). -/
def State.lineReady (s : State) (pa n : Nat) (cp : Fin 4) : Bool :=
  targetOf pa != some .hbm
    || (linesOf pa n).all (fun l =>
        let x := s.slice (cgOf (l * 128)) (sliceOf (l * 128))
        x.lines.any (fun y => y.line == l) || (cp == 3 && !x.miss.any (fun e => e.line == l)))

/-- The held access that goes next on a line: the first whose request is still on its way (R263). -/
def State.heldFirst (s : State) (line : Nat) : Option HeldAccess :=
  (s.slice (cgOf (line * 128)) (sliceOf (line * 128))).held.find? (fun e => e.line == line
    && (s.ctx e.agent).reqs.any (fun r => r.stage == .sent && r.by_.order == e.order && r.va == e.va))

/-! ### The accesses of the other units (R263) -/

/-- An access of a unit that is no context may enter: no line of it is being filled, and no access held on
one goes before it. Until then the unit presents its access again; it enters the slice's order when it is
performed (DEDUCED, log 64). -/
def State.mayEnter (s : State) (pa n : Nat) (cp : Fin 4) : Bool :=
  s.lineReady pa n cp && (targetOf pa != some .hbm || (linesOf pa n).all (fun l => (s.heldFirst l).isNone))

/-- An access that may not enter yet asks for the lines that it misses. -/
def State.askLines (s : State) (pa n : Nat) (cp : Fin 4) (m : Fin 128) (how : Duel) : State :=
  if s.lineReady pa n cp then s else s.touch pa n cp m how

/-- The slot of a walk whose read may not enter yet. -/
def State.walkHeld (s : State) (m : Fin 128) (va : Nat) : Option Nat :=
  (s.walkReads m va).find? (fun a => !s.mayEnter a 8 0)

/-- A walk whose reads enter their slices, or ask for the line that holds the first of them: plain reads
under CP 0 (R261, R391). -/
def State.walkStep (s : State) (m : Fin 128) (va : Nat) : Option State :=
  match s.walkHeld m va with
  | some a => some (s.askLines a 8 0 m .plain)
  | none => none

/-- The slices pass the reads of a walk. -/
def State.passWalk (s : State) (m : Fin 128) (va : Nat) : State :=
  (s.walkReads m va).foldl (fun s a => s.touch a 8 0 m .plain) s

/-- What a translation by a unit of a cluster leaves when its TLB does not answer: the walk's reads have passed the slices,
and the page it found is in the cluster TLB (R391). -/
def State.walked (s : State) (cl : Fin 32) (m : Fin 128) (va : Nat) : State :=
  if (s.tlbFind none cl m va).isSome then s
  else match s.walk m va with
    | .page e => (s.passWalk m va).tlbFill none cl e
    | _ => s.passWalk m va

/-- The walk that a translation by a unit without a tile TLB still has to wait for: the state in which it
has asked for its line; none when the cluster TLB answers, or no read of the walk is held. -/
def State.unitWalk (s : State) (cl : Fin 32) (m : Fin 128) (va : Nat) : Option State :=
  if (s.tlbFind none cl m va).isSome then none else s.walkStep m va

/-- A line that a unit reads or writes with many others in one step: it waits behind a fill of the line and behind
accesses held on it; else its own miss, if it misses, is filled within the step (DEDUCED, log 64). -/
def State.passLine (s : State) (cp : Fin 4) (m : Fin 128) (how : Duel) (l : Nat) : Option State :=
  let a := l * 128
  if targetOf a ≠ some .hbm then some s
  else if (s.slice (cgOf a) (sliceOf a)).miss.any (fun e => e.line == l) || (s.heldFirst l).isSome then none
  else
    let s1 := s.touch a 1 cp m how
    match execSliceFill m l s1 with
    | .next s2 => some (if (s1.slice (cgOf a) (sliceOf a)).miss.any (fun e => e.line == l) then s2.touch a 1 cp m how else s1)
    | _ => some s1

/-- The lines of an access are passed within the step. -/
def State.passNow (s : State) (pa n : Nat) (cp : Fin 4) (m : Fin 128) (how : Duel) : Option State :=
  (linesOf pa n).foldl (fun o l => o.bind (fun s => s.passLine cp m how l)) (some s)

/-- The walk of a translation by a unit of a cluster, when its TLB does not answer, is made within the step. -/
def State.walkNow (s : State) (cl : Fin 32) (m : Fin 128) (va : Nat) : Option State :=
  if (s.tlbFind none cl m va).isSome then some s
  else
    let o := (s.walkReads m va).foldl (fun o a => o.bind (fun s => s.passNow a 8 0 m .plain)) (some s)
    match s.walk m va with
    | .page e => o.map (fun s => s.tlbFill none cl e)
    | _ => o

/-! ### TABLE_WALK -/

/-- TABLE_WALK: a walker translates a miss of a tile's TLBs; a page is cached, a missing page is
reported to the access that waits, which parks (R394), and a lost read to the access that is lost with
it (R432). The walk waits for lines that its reads miss. -/
def execTableWalk (t : Fin 256) (m : Fin 128) (va : Word) (s : State) : Out :=
  match s.walkStep m va.toNat with
  | some s1 => .next s1
  | none =>
    let s1 := (s.passWalk m va.toNat).modTile t (fun y => { y with walks := y.walks.filter (fun x => x != (m, va)) })
    match s.walk m va.toNat with
    | .page e => .next (s1.tlbFill (some t) (clusterOfTile t) e)
    | .missing l => .next (s1.modTile t (fun y => y.noteMissed m va.toNat l))
    | .lost => .next (s1.modTile t (fun y => y.noteMissed m va.toNat lostLevel))

end Sys2Proof.Machine
end

