-- ==== Sys2Proof/Machine/MemOps.lean ====
section
/-! DEFINITION. Memory instructions, OP 0xA0 to 0xAB, and the steps of their requests
(spec/09_memory.md, R251 to R276; ordering R284, R294, R296, R298). -/

namespace Sys2Proof.Machine

/-! ### What holds a memory instruction -/

def ReqStage.open_ : ReqStage → Bool
  | .done _ _ => false
  | _ => true

/-- How many of some requests count as outstanding: each drained line, and each instruction once (R256, log 16). -/
def outstandingOf (rs : List MemReq) : Nat :=
  (rs.filter (fun r => r.drain)).length
    + ((rs.filter (fun r => r.op.waited && !r.drain)).map (fun r => r.by_.order)).eraseDups.length

def Ctx.outstanding (c : Ctx) : Nat := outstandingOf c.reqs

/-- An acquire blocks every later access until its read has returned (R284). -/
def Ctx.acquiring (c : Ctx) : Bool := c.reqs.any (fun r => r.acq)

/-- A handle write that waits for the units its access touches to be New: the conversion goes on and has not
got there (R211). -/
def State.unitWaits (s : State) (r : MemReq) : Bool :=
  match r.unit with
  | some (id, us) => s.convs.any (fun v => v.id == id && !v.pushing && us.any (fun u => !v.done.contains u))
  | none => false

/-- Every later access of a context waits behind such a write (R222). -/
def blockedByUnit (s : State) : Bool := s.me.reqs.any (fun r => s.unitWaits r)

/-- The context is not issuable for a global access (R222, R256, R284). -/
def globalHold (s : State) : Bool := s.me.acquiring || blockedByUnit s || decide (64 ≤ s.me.outstanding)

/-- An access of issue order ord to scratchpad bytes off .. off + n − 1 stalls on a watermark (R318). -/
def Tile.wmStall (y : Tile) (off n ord : Nat) : Bool :=
  (List.finRange 4).any (fun c => (List.finRange 16).any (fun i =>
    let w := (y.ctx.get c).wm.get i
    w.active && decide (w.order ≤ ord) && decide (Max.max off (w.base + w.fill) < Min.min (off + n) (w.base + w.len))))

/-! ### Addresses -/

/-- The memory context an agent translates in. -/
def State.mctxOfAgent (s : State) (g : AgentId) : Fin 128 :=
  match s.launchOf g with
  | some l => mctxOf l.q l.c
  | none => 0

/-- What becomes of an access at issue; a walk that was lost counts as a page missing at level lostLevel. -/
inductive Resolve where
  | ok (x : Xlated)
  | park (level : Nat)
  | walk
  | fault (cause detail : Nat)
deriving DecidableEq, Repr

/-- Range and translation of an access at issue (R267 steps 4 and 5). -/
def resolve (s : State) (k : Kind) (ea : Nat) : Resolve :=
  match s.cur with
  | .mgmt => match s.physical ea with | .ok x => .ok x | _ => .fault 0x06 ea
  | .tile t _ =>
    if 2 ^ 56 ≤ ea then .fault 0x06 ea
    else
      let m := s.mctxOfAgent s.cur
      match s.tlbFind (some t) (clusterOfTile t) m ea with
      | some e =>
        match s.applyPage (partOfMctx m) k ea e with
        | .ok x => .ok x
        | .missing l => .park l
        | .fault _ c d => .fault c d
      | none => match (s.tile t).missedLevel m ea with | some l => .park l | none => .walk

/-- The source of an agent's accesses. -/
def sourceOf : AgentId → Source
  | .tile t _ => .tile t
  | .mgmt => .unit 0

/-- Ask for the walk of an address and wait. -/
def askWalk (ea : Nat) : Eff :=
  .wait (fun s => match s.cur with
    | .tile t _ =>
      let w := (s.mctxOfAgent s.cur, BitVec.ofNat 64 ea)
      s.modTile t (fun y => { y with walks := y.walks.filter (fun x => x != w) ++ [w] })
    | .mgmt => s)

/-- Forget a missed walk that the access now takes up. -/
def State.takeMiss (s : State) (ea : Nat) : State :=
  match s.cur with
  | .tile t _ => s.modTile t (fun y =>
      { y with missed := y.missed.filter (fun x => !(x.1 == s.mctxOfAgent s.cur && x.2.1 == pageAddr ea)) })
  | .mgmt => s

/-! ### The write-coalescing buffer (R257, R258) -/

/-- Bytes laid over a line's bytes from an offset. -/
def overlay {α : Type} (old new : List α) (off : Nat) : List α := old.take off ++ new ++ old.drop (off + new.length)

/-- The entry of a line after a store of some bytes that lie in it, by a context's request. -/
def MemReq.entry (r : MemReq) (bs : List Byte) (old : Option WcbLine) (now : Nat) : WcbLine :=
  let off := r.pa % 128
  let w := old.getD { line := r.pa / 128, bytes := List.replicate 128 0, mask := List.replicate 128 false, keep := false,
                      mctx := r.mctx, key := r.key, by_ := r.by_, ea := r.ea, va := r.va - off, via := [], last := now }
  { w with bytes := overlay w.bytes bs off, mask := overlay w.mask (List.replicate bs.length true) off, keep := w.keep || r.cp == 2,
           by_ := r.by_, ea := r.ea, via := r.via ++ w.via, last := now }

/-- A store merges into the entry for its line, or takes a free one; the least recently written entry makes
room, and an entry whose mask is full drains (R257). -/
def State.merge (s : State) (g : AgentId) (r : MemReq) (bs : List Byte) : State :=
  let line := r.pa / 128
  let ws := (s.ctx g).wcb
  let s1 := match ws with
    | w :: _ => if 4 ≤ ws.length && !ws.any (fun w => w.line == line) then s.drain g (fun x => x.line == w.line) else s
    | [] => s
  let w := r.entry bs (ws.find? (fun w => w.line == line)) (s.dies.get (agentDie g)).cycle.toNat
  let s2 := s1.modCtx g (fun c => { c with wcb := c.wcb.filter (fun w => w.line != line) ++ [w] })
  if w.mask.all id then s2.drain g (fun w => w.line == line) else s2

/-- The byte the buffer holds for an address. -/
def Ctx.bufByte (c : Ctx) (pa : Nat) : Option Byte :=
  match c.wcb.find? (fun w => w.line == pa / 128) with
  | some w => if w.mask.getD (pa % 128) false then some (w.bytes.getD (pa % 128) 0) else none
  | none => none

/-- The bytes a load forwards (R258). -/
def Ctx.forward (c : Ctx) (pa n : Nat) : List (Option Byte) := (List.range n).map (fun i => c.bufByte (pa + i))

/-! ### Sending an access -/

/-- The attributes an access carries: its order, whether it names tile scope, its policy, and for an
access through a handle the key index it expects and its table entry. -/
structure Attr where
  acq : Bool
  rel : Bool
  tile : Bool
  cp : Fin 4
  expect : Option Nat
  via : Option Nat
deriving DecidableEq, Repr

def attrOf (m : MemAttr) : Attr := ⟨m.ord == 1 || m.ord == 3, m.ord == 2 || m.ord == 3, m.scope == 0, m.cp, none, none⟩

/-- A plain access under a policy. -/
def Attr.plain (cp : Fin 4) : Attr := ⟨false, false, false, cp, none, none⟩

/-- One access of an instruction: its operation, the address a fault reports, its first byte and its
length, all in one line; for a handle write that waits, the units its access waits for. -/
structure Part where
  op : ReqOp
  ea : Nat
  va : Nat
  len : Nat
  unit : Option (Nat × List Nat)
deriving DecidableEq, Repr

/-- A request of the executing context for an access at an address. -/
def mkReq (s : State) (p : Part) (pa : Nat) (a : Attr) (key : Option Key) (fwd : List (Option Byte)) (stage : ReqStage) : MemReq :=
  { op := p.op, ea := p.ea, va := p.va, pa := pa, len := p.len, acq := a.acq, rel := a.rel,
    tileRel := a.rel && a.tile && s.cur != .mgmt, drain := false, cp := a.cp,
    mctx := s.mctxOfAgent s.cur, key := key, expect := a.expect, via := a.via.toList, unit := p.unit, fwd := fwd,
    sentAt := 0, by_ := s.issued s.cur, stage := stage }

def State.addReq (s : State) (r : MemReq) : State := s.modCtx s.cur (fun c => { c with reqs := c.reqs ++ [r] })

/-- The bytes of a store that merges into the buffer (R257); one that waits for its unit does not (R222). -/
def MemReq.merges (r : MemReq) : Option (List Byte) :=
  match r.op with
  | .store bs _ _ => if (r.cp == 0 || r.cp == 2) && !r.rel && targetOf r.pa == some .hbm && r.unit.isNone then some bs else none
  | _ => none

/-- A load forwards from the buffer; every other access drains the entry of its line first. -/
def ReqOp.forwards : ReqOp → Bool
  | .loadS .. | .loadV .. | .gather .. | .bits .. | .partS .. | .syncRead => true
  | _ => false

/-- A translated request goes into the network, after what R257 and R258 have its context's buffer do: a plain
store joins it; a load takes the bytes that it holds; a release drains it; another access drains its line. -/
def State.enter (s : State) (g : AgentId) (r : MemReq) : State :=
  match r.merges with
  | some bs => s.merge g r bs
  | none =>
    let fwd := if r.op.forwards then (s.ctx g).forward r.pa r.len else []
    (s.drain g (fun w => r.rel || (!r.op.forwards && w.line == r.pa / 128))).sendReq g { r with fwd := fwd }

/-- A request of the context has not been sent: what comes after it waits behind it, since the memory interface
sends a context's requests in program order (R256, R394, DEDUCED, log 64). -/
def Ctx.stuck (c : Ctx) : Bool := c.reqs.any (fun r => r.stage.unsent)

/-- Send a translated access, or put it behind those that wait. -/
def sendOk (s : State) (p : Part) (a : Attr) (x : Xlated) : State :=
  let r := mkReq s p x.pa a x.key [] .queued
  if s.me.stuck || s.unitWaits r then s.addReq r else s.enter s.cur r

/-- The token of the access that a request belongs to, when a part of it on the same page is parked: the
parts of one instruction at one address are one access (R251, R394). -/
def Ctx.mateToken (c : Ctx) (r : MemReq) : Option Nat :=
  c.reqs.findSome? (fun e => match e.stage with
    | .parked tok => if e.by_.order = r.by_.order ∧ e.ea = r.ea ∧ pageAddr e.va = pageAddr r.va then some tok else none
    | _ => none)

/-- Park a request of an agent on a missing page; with the replay queue full it waits at its walker (R394). -/
def State.parkReq (s : State) (g : AgentId) (k : Kind) (level : Nat) (r : MemReq) : ReqStage × State :=
  match (s.ctx g).mateToken r with
  | some tok => (.parked tok, s)
  | none =>
    if s.replayRoom (sourceOf g) then let x := s.park (sourceOf g) r.mctx k r.va level; (.parked x.1, x.2)
    else (.queued, s)

/-- The parts of one instruction that are answered together: of a gather, a block or an ldc. -/
def MemReq.mates (r e : MemReq) : Bool :=
  r.by_.order == e.by_.order &&
  match r.op, e.op with
  | .gather .., .gather .. => true
  | .bits .., .bits .. => true
  | .partS d _, .partS d' _ => d == d'
  | .constFill _ (some _), .constFill _ (some _) => true
  | _, _ => false

/-- Remove the requests of one instruction that go together, or one request. -/
def Ctx.dropReq (c : Ctx) (n : Nat) (r : MemReq) : Ctx :=
  if r.mates r then { c with reqs := c.reqs.filter (fun e => !r.mates e) } else { c with reqs := c.reqs.eraseIdx n }

/-- A request is lost, with its cause and detail (R259, R394); a prefetch is dropped silently. -/
def State.loseReq (s : State) (g : AgentId) (n : Nat) (r : MemReq) (cause detail : Nat) : State :=
  s.modCtx g (fun c =>
    let c1 := c.dropReq n r
    match r.op with
    | .syncRead => c1.recordOwed ⟨cause, detail, r.ea, r.by_, .next none⟩
    | _ => if r.op.waited then
        c1.recordOwed ⟨cause, detail, r.ea, r.by_, .endRelease (r.op.dst.filter (fun x => !x.constant))⟩ else c1)

/-- Park an access on a missing page; one whose walk was lost is lost with it (R432). -/
def sendParked (s : State) (p : Part) (k : Kind) (a : Attr) (level : Nat) : State :=
  let r := mkReq s p 0 a none [] .queued
  if level = lostLevel then (s.addReq r).loseReq s.cur s.me.reqs.length r 0x12 3
  else
    let x := s.parkReq s.cur k level r
    x.2.addReq { r with stage := x.1 }

/-- Send the accesses of an instruction that has passed its checks, in order, each as it resolves at issue. -/
def sendParts (s : State) (k : Kind) (a : Attr) (ps : List Part) : State :=
  let rs := ps.map (fun p => (p, resolve s k p.va))
  rs.foldl (fun s x => match x.2 with
    | .ok y => sendOk s x.1 a y
    | .park l => sendParked s x.1 k a l
    | _ => s) (ps.foldl (fun s p => s.takeMiss p.va) s)

/-- One access in one line. -/
def onePart (op : ReqOp) (ea len : Nat) : Part := ⟨op, ea, ea, len, none⟩

/-- The accesses of a load or store: 256 bytes go in four units of 64, each with its own translation,
and a load writes its lanes together (R253, R269). -/
def accessParts (op : ReqOp) (ea len : Nat) : List Part :=
  if len ≤ 128 then [onePart op ea len]
  else
    match op with
    | .loadV d => (List.range 4).map (fun j => ⟨.gather d 64 j, ea, ea + 64 * j, 64, none⟩)
    | .store bs mask po => (List.range 4).map (fun j =>
        ⟨.store ((bs.drop (64 * j)).take 64) ((mask.drop (64 * j)).take 64) po, ea, ea + 64 * j, 64, none⟩)
    | _ => [onePart op ea len]

/-! ### The common checks (R267) -/

/-- The form may address the target (Table 9.1, R264). -/
inductive Class where
  /-- Any target. -/
  | any
  /-- Local HBM only: ldc, xadd, xrd. -/
  | local_
  /-- Local or peer, or host when the form travels as an AtomicOp. -/
  | rmw (host : Bool)
deriving DecidableEq, Repr

def Class.allows (c : Class) (pa : Nat) : Bool :=
  match c, targetOf pa with
  | .any, _ => true
  | .local_, some .hbm => true
  | .local_, _ => false
  | .rmw h, some .host => h
  | .rmw _, _ => true

/-- The physical address that a cached page gives. -/
def cachedPa (s : State) (ea : Nat) : Option Nat :=
  match s.cur with
  | .mgmt => some ea
  | .tile t _ => (s.tlbFind (some t) (clusterOfTile t) (s.mctxOfAgent s.cur) ea).map (fun e => e.pa ea)

/-- Step 4 of R267 for one access at va, whose fault reports ea: the target class. -/
def classCheck (s : State) (cls : Class) (va ea : Nat) : Option (Nat × Nat × Nat) :=
  trapIf (match cachedPa s va with | some pa => !cls.allows pa | none => false) 0x06 ea ea

/-- Step 5: translation, window, key and the key index a handle expects (R206). None when it passes. -/
def pageCheck (s : State) (k : Kind) (expect : Option Nat) (va ea : Nat) : Option (Nat × Nat × Nat) :=
  match resolve s k va with
  | .fault c d => some (c, if c = 0x06 then ea else d, ea)
  | .ok x =>
    match expect with
    | some e => trapIf (x.slot != e) 0x13 (x.slot + 2 ^ 16 + e * 2 ^ 24) ea
    | none => none
  | _ => none

/-- Step 3: alignment. -/
def alignCheck (ea n : Nat) : Option (Nat × Nat × Nat) := trapIf (decide (ea % n ≠ 0)) 0x04 ea ea

/-- A poisoned address register; the access has no address then. -/
def addrPoison (c : Ctx) (m : AddrArg) : Option (Nat × Nat × Nat) := poisonS c [m.base, m.idx]

/-- Poison of the scalar data an access sends, with its address in the record. -/
def memPoison (c : Ctx) (rs : List (Fin 32)) (ea : Nat) : Option (Nat × Nat × Nat) :=
  (poisonS c rs).map (fun t => (t.1, t.2.1, ea))

/-- Some address misses the TLBs and its walk has not been made. -/
def firstWalk (s : State) (k : Kind) (eas : List Nat) : Option Nat :=
  eas.find? (fun a => match resolve s k a with | .walk => true | _ => false)

/-- A global access to a list of addresses, each with the address its fault reports: holds, faults in the
order of R267, then its effect. -/
def globalAccess (s : State) (k : Kind) (cls : Class) (align : Nat) (eas : List (Nat × Nat)) (at_ : Attr)
    (poison : List (Option (Nat × Nat × Nat))) (go : Unit → Eff) : Eff :=
  if globalHold s then .hold
  else
    let high := eas.map (fun a => trapIf (decide (2 ^ 56 ≤ a.1) && (s.cur != .mgmt)) 0x06 a.2 a.2)
    orTrap (poison ++ eas.map (fun a => alignCheck a.2 align) ++ high) <|
      match firstWalk s k (eas.map (fun a => a.1)) with
      | some a => askWalk a
      | none =>
        orTrap (eas.map (fun a => classCheck s cls a.1 a.2) ++ eas.map (fun a => pageCheck s k at_.expect a.1 a.2)) <|
          if at_.rel && !s.me.wcb.isEmpty then .wait (fun s => s.drainAll s.cur)
          else go ()

/-- The accesses of an instruction at its checks. -/
def partAddrs (ps : List Part) : List (Nat × Nat) := ps.map (fun p => (p.va, p.ea))

/-- One access at the effective address of a format M word. -/
def oneAccess (i : Instr) (m : AddrArg) (srcs : List RegId) (k : Kind) (cls : Class) (align len : Nat) (a : Attr)
    (poison : State → Nat → List (Option (Nat × Nat × Nat))) (op : Ctx → ReqOp) (s : State) : Out :=
  issue i ([.s m.base, .s m.idx] ++ srcs) s fun s =>
    let ea := effAddr s.me m
    let ps := accessParts (op s.me) ea len
    globalAccess s k cls align (partAddrs ps) a (addrPoison s.me m :: poison s ea) fun _ =>
      .done (sendParts s k a ps)

/-! ### ld, st, vld, vst -/

/-- n = 2^SZ. -/
def szBytes (sz : Fin 4) : Nat := 2 ^ sz.val

/-- 16, 32, 64 and 256 bytes. -/
def vszBytes (sz : Fin 4) : Nat := if sz = 3 then 256 else 16 * 2 ^ sz.val

/-- A 256-byte access needs a multiple of 64 (R252). -/
def vszAlign (sz : Fin 4) : Nat := if sz = 3 then 64 else 16 * 2 ^ sz.val

/-- The low n bytes of a scalar register, as a store. -/
def storeS (c : Ctx) (d : Fin 32) (n : Nat) : ReqOp :=
  .store (leBytes n (c.readS d).toNat) (List.replicate n true) false

def storeV (c : Ctx) (d : Fin 32) (n : Nat) : ReqOp :=
  .store ((c.readV d).bytes n) (List.replicate n true) false

/-- Cause 0x07 of vector data whose first n bytes are sent. -/
def vecPoison (c : Ctx) (d : Fin 32) (n ea : Nat) : Option (Nat × Nat × Nat) :=
  (poisonV c d n).map (fun t => (t.1, t.2.1, ea))

def execLd (h : Hdr) (sx : Bool) (d : Fin 32) (sz : Fin 4) (m : AddrArg) (at_ : MemAttr) (s : State) : Out :=
  oneAccess (.ld h sx d sz m at_) m [] .read .any (szBytes sz) (szBytes sz) (attrOf at_) (fun _ _ => [])
    (fun _ => .loadS d sx) s

def execSt (h : Hdr) (d : Fin 32) (sz : Fin 4) (m : AddrArg) (at_ : MemAttr) (s : State) : Out :=
  oneAccess (.st h d sz m at_) m [.s d] .write .any (szBytes sz) (szBytes sz) (attrOf at_)
    (fun s ea => [memPoison s.me [d] ea]) (fun c => storeS c d (szBytes sz)) s

def execVld (h : Hdr) (d : Fin 32) (sz : Fin 4) (m : AddrArg) (at_ : MemAttr) (s : State) : Out :=
  oneAccess (.vld h d sz m at_) m [] .read .any (vszAlign sz) (vszBytes sz) (attrOf at_) (fun _ _ => [])
    (fun _ => .loadV d) s

def execVst (h : Hdr) (d : Fin 32) (sz : Fin 4) (m : AddrArg) (at_ : MemAttr) (s : State) : Out :=
  oneAccess (.vst h d sz m at_) m [.v d] .write .any (vszAlign sz) (vszBytes sz) (attrOf at_)
    (fun s ea => [vecPoison s.me d (vszBytes sz) ea]) (fun c => storeV c d (vszBytes sz)) s

/-! ### Scratchpad accesses (R251, R260, R268, R269) -/

/-- The end of the scratchpad. -/
def scratchEnd : Nat := 0x180000

/-- The scratchpad of the executing tile. -/
def State.scratch (s : State) : Memory :=
  match s.cur with
  | .tile t _ => (s.tile t).scratch
  | .mgmt => Memory.empty

def State.modScratch (s : State) (f : Memory → Memory) : State :=
  match s.cur with
  | .tile t _ => s.modTile t (fun y => { y with scratch := f y.scratch })
  | .mgmt => s

/-- A scratchpad access stalls on a watermark, behind an acquire, or behind a handle write that waits. -/
def scratchHold (s : State) (ea n : Nat) : Bool :=
  s.me.acquiring || blockedByUnit s || (match s.cur with
    | .tile t _ => (s.tile t).wmStall ea n (s.order s.cur)
    | .mgmt => false)

/-- The shared form of a scratchpad access. -/
def scratchAccess (i : Instr) (m : AddrArg) (srcs : List RegId) (align n : Nat)
    (poison : State → Nat → List (Option (Nat × Nat × Nat))) (f : State → Nat → State) (s : State) : Out :=
  issue i ([.s m.base, .s m.idx] ++ srcs) s fun s =>
    let ea := effAddr s.me m
    orTrap (addrPoison s.me m :: poison s ea
        ++ [alignCheck ea align, trapIf (decide (scratchEnd < ea + n)) 0x06 ea ea]) <|
      if scratchHold s ea n then .hold else .done (f s ea)

/-- A loaded scalar value. -/
def loadedS (sx : Bool) (bs : List Byte) : Word :=
  if sx then wordOfInt (sextInt (leNat bs) (8 * bs.length)) else BitVec.ofNat 64 (leNat bs)

/-- Lanes 0 .. n/4 − 1 take the bytes and their poison; the others stay (R269). -/
def VReg.load (v : VReg) (bs : List Byte) (po : List Bool) : VReg :=
  let n := bs.length / 4
  let new := VReg.ofBytes bs po
  { bits := BitVec.ofNat 2048 (new.bits.toNat % 2 ^ (32 * n) + v.bits.toNat / 2 ^ (32 * n) * 2 ^ (32 * n))
    poison := BitVec.ofNat 64 (new.poison.toNat % 2 ^ n + v.poison.toNat / 2 ^ n * 2 ^ n) }

def execLds (h : Hdr) (sx : Bool) (d : Fin 32) (sz : Fin 4) (m : AddrArg) (s : State) : Out :=
  scratchAccess (.lds h sx d sz m) m [] (szBytes sz) (szBytes sz) (fun _ _ => []) (fun s ea =>
    s.modCtx s.cur (fun c => c.writeS d (loadedS sx (s.scratch.read ea (szBytes sz)))
      ((s.scratch.readPoison ea (szBytes sz)).any id))) s

def execSts (h : Hdr) (d : Fin 32) (sz : Fin 4) (m : AddrArg) (s : State) : Out :=
  scratchAccess (.sts h d sz m) m [.s d] (szBytes sz) (szBytes sz) (fun s ea => [memPoison s.me [d] ea]) (fun s ea =>
    s.modScratch (fun x => x.write ea (leBytes (szBytes sz) (s.me.readS d).toNat))) s

def execVlds (h : Hdr) (d : Fin 32) (sz : Fin 4) (m : AddrArg) (s : State) : Out :=
  scratchAccess (.vlds h d sz m) m [] (vszAlign sz) (vszBytes sz) (fun _ _ => []) (fun s ea =>
    s.modCtx s.cur (fun c => c.writeV d ((c.readV d).load (s.scratch.read ea (vszBytes sz))
      (s.scratch.readPoison ea (vszBytes sz))))) s

def execVsts (h : Hdr) (d : Fin 32) (sz : Fin 4) (m : AddrArg) (s : State) : Out :=
  scratchAccess (.vsts h d sz m) m [.v d] (vszAlign sz) (vszBytes sz)
    (fun s ea => [vecPoison s.me d (vszBytes sz) ea]) (fun s ea =>
    s.modScratch (fun x => x.write ea ((s.me.readV d).bytes (vszBytes sz)))) s

/-! ### vgath, vscat (R270) -/

/-- The active elements with their addresses, in ascending order. -/
def gatherElems (c : Ctx) (d : Fin 32) (b8 : Bool) (ea : Nat) : List (Nat × Nat) :=
  ((List.range (if b8 then 32 else 64)).map (fun j => (j, ((c.readV d).lane (if b8 then 2 * j else j)).toNat))).filterMap
    (fun x => if x.2 = 0xFFFFFFFF then none else some (x.1, (ea + x.2) % 2 ^ 64))

/-- The lanes that hold offsets are poisoned. -/
def offsetPoison (c : Ctx) (d : Fin 32) (b8 : Bool) : Option (Nat × Nat × Nat) :=
  trapIf ((List.range (if b8 then 32 else 64)).any (fun j => (c.readV d).poison.getLsbD (if b8 then 2 * j else j)))
    0x07 (d.val + 256) 0

def gathBytes (b8 : Bool) : Nat := if b8 then 8 else 4

def execVgath (h : Hdr) (d : Fin 32) (b8 : Bool) (m : AddrArg) (cp : Fin 4) (s : State) : Out :=
  issue (.vgath h d b8 m cp) [.s m.base, .s m.idx, .v d] s fun s =>
    let ea := effAddr s.me m
    let es := gatherElems s.me d b8 ea
    let ps := es.map (fun e => onePart (.gather d (gathBytes b8) e.1) e.2 (gathBytes b8))
    globalAccess s .read .any (gathBytes b8) (partAddrs ps) (.plain cp) [addrPoison s.me m, offsetPoison s.me d b8] fun _ =>
      .done (if es.isEmpty then s.modCtx s.cur (fun c => c.writeV d ⟨0, 0⟩) else sendParts s .read (.plain cp) ps)

/-- D + 1; D = 31 is reserved (R270, R274). -/
def nextReg (d : Fin 32) : Fin 32 := d + 1

/-- A data lane of an active element is poisoned. -/
def dataPoison (c : Ctx) (d : Fin 32) (b8 : Bool) (es : List (Nat × Nat)) : Option (Nat × Nat × Nat) :=
  (es.find? (fun e => (c.readV d).elemPoison (if b8 then .i64 else .i32) e.1)).map (fun e => (0x07, d.val + 256, e.2))

def execVscat (h : Hdr) (d : Fin 32) (b8 : Bool) (m : AddrArg) (cp : Fin 4) (s : State) : Out :=
  issue (.vscat h d b8 m cp) [.s m.base, .s m.idx, .v d] s fun s =>
    let ea := effAddr s.me m
    let es := gatherElems s.me d b8 ea
    let n := gathBytes b8
    let ps := es.map (fun e =>
      onePart (.store (leBytes n ((s.me.readV (nextReg d)).elem (if b8 then .i64 else .i32) e.1)) (List.replicate n true) false) e.2 n)
    globalAccess s .write .any n (partAddrs ps) (.plain cp)
        [addrPoison s.me m, offsetPoison s.me d b8, dataPoison s.me (nextReg d) b8 es] fun _ =>
      .done (sendParts s .write (.plain cp) ps)

/-! ### ldc, pref (R271, R272) -/

/-- The line of the constant cache that holds an address. -/
def Tile.constLine (y : Tile) (m : Fin 128) (va : Nat) : Option ConstLine :=
  y.cc.find? (fun l => l.mctx == m && l.line == va / 128)

def ldcBytes : LdcForm → Nat
  | .scalar _ sz => szBytes sz
  | .vector sz => vszBytes sz

def ldcAlign : LdcForm → Nat
  | .scalar _ sz => szBytes sz
  | .vector sz => vszAlign sz

/-- Write the bytes ldc has found. -/
def Ctx.ldcWrite (c : Ctx) (f : LdcForm) (d : Fin 32) (bs : List Byte) (po : List Bool) : Ctx :=
  match f with
  | .scalar sx _ => c.writeS d (loadedS sx bs) (po.any id)
  | .vector _ => c.writeV d ((c.readV d).load bs po)

/-- The line of the constant cache as an answer: the bytes of a part that hits (R271). -/
def Tile.constHit (y : Tile) (m : Fin 128) (va : Nat) : Option ReqStage :=
  (y.constLine m va).map (fun l => .done l.bytes l.poison)

/-- The lines of an ldc at ea: those that miss are to be fetched. -/
def ldcParts (f : LdcForm) (d : Fin 32) (ea : Nat) : List Part :=
  (linesOf ea (ldcBytes f)).map (fun l => ⟨.constFill true (some (f, d, ea)), ea, l * 128, 128, none⟩)

/-- The bytes of an ldc whose lines have all answered, from the parts of its order (R271). -/
def ldcGather (rs : List MemReq) (f : LdcForm) (ea : Nat) : List Byte × List Bool :=
  let at_ := fun (i : Nat) => (rs.findSome? (fun r => match r.stage with
    | .done bs po => if r.va / 128 = (ea + i) / 128 then some (bs.getD ((ea + i) % 128) 0, po.getD ((ea + i) % 128) false) else none
    | _ => none)).getD (0, false)
  let bp := (List.range (ldcBytes f)).map at_
  (bp.map (fun x => x.1), bp.map (fun x => x.2))

/-- Every line of the ldc is in the constant cache. -/
def ldcHit (y : Tile) (m : Fin 128) (f : LdcForm) (ea : Nat) : Bool :=
  (linesOf ea (ldcBytes f)).all (fun l => (y.constLine m (l * 128)).isSome)

/-- A hit writes the destination at once; a miss fetches the missing lines, and the destination is
written when the last of them arrives (R271). An own store to a missing line drains first: an ldc
never forwards from the buffer, and its context's stores are in its past (R294, log 20). -/
def execLdc (h : Hdr) (f : LdcForm) (d : Fin 32) (m : AddrArg) (s : State) : Out :=
  issue (.ldc h f d m) [.s m.base, .s m.idx] s fun s =>
    let ea := effAddr s.me m
    let ps := ldcParts f d ea
    globalAccess s .read .local_ (ldcAlign f) (partAddrs ps) (.plain 0) [addrPoison s.me m] fun _ =>
      match s.cur with
      | .mgmt => .hold
      | .tile t _ =>
        let y := s.tile t
        let mc := s.mctxOfAgent s.cur
        if ldcHit y mc f ea then
          let hits := ps.filterMap (fun p => (y.constHit mc p.va).map (fun st => mkReq s p 0 (.plain 0) none [] st))
          .done (s.modCtx s.cur (fun c => let g := ldcGather hits f ea; c.ldcWrite f d g.1 g.2))
        else
          let missing := ps.filter (fun p => (y.constHit mc p.va).isNone)
          let hits := ps.filterMap (fun p => (y.constHit mc p.va).map (fun st =>
            mkReq s { p with op := .constFill false (some (f, d, ea)) } 0 (.plain 0) none [] st))
          .done ((sendParts s .read (.plain 0) missing).modCtx s.cur (fun c => { c with reqs := c.reqs ++ hits }))

/-- Bytes of a prefetch: SZ 0 to 3, then 16, 32, 64, 256. -/
def prefBytes (sz : Fin 8) : Nat := if sz = 7 then 256 else 2 ^ sz.val

/-- The lines a prefetch touches with their translations, when every one passes the checks of a read and the
target class; a step that fails drops the prefetch (R272). -/
def prefLines (s : State) (cls : Class) (ea n : Nat) : List (Nat × Xlated) :=
  let xs := (linesOf ea n).map (fun l => (l * 128, resolve s .read (l * 128)))
  let ok := fun (x : Nat × Resolve) => match x.2 with
    | .ok y => if cls.allows y.pa then some (x.1, y) else none
    | _ => none
  if xs.all (fun x => (ok x).isSome) then xs.filterMap ok else []

/-- A prefetch: it issues as a global access and its walks are made (R256, R272, R284). -/
def prefetch (s : State) (m : AddrArg) (n : Nat) (cls : Class) (go : State → List (Nat × Xlated) → State) : Eff :=
  let ea := effAddr s.me m
  let lines := (linesOf ea n).map (fun l => l * 128)
  if globalHold s then .hold
  else
    orTrap [addrPoison s.me m] <|
      match firstWalk s .read lines with
      | some a => askWalk a
      | none => .done (go (lines.foldl (fun s a => s.takeMiss a) s) (prefLines s cls ea n))

def execPref (h : Hdr) (sz : Fin 8) (m : AddrArg) (cp : Fin 4) (s : State) : Out :=
  issue (.pref h sz m cp) [.s m.base, .s m.idx] s fun s =>
    prefetch s m (prefBytes sz) .any fun s xs =>
      xs.foldl (fun s x => s.touchLines x.2.pa 128 cp (s.mctxOfAgent s.cur) .plain true) s

/-- The lines are fetched into the constant cache; an own store to one drains first, as for ldc. -/
def execPrefConst (h : Hdr) (sz : Fin 8) (m : AddrArg) (s : State) : Out :=
  issue (.prefConst h sz m) [.s m.base, .s m.idx] s fun s =>
    prefetch s m (prefBytes sz) .local_ fun s xs =>
      xs.foldl (fun s x => sendOk s ⟨.constFill true none, x.1, x.1, 128, none⟩ (.plain 0) x.2) s

/-! ### atom, red, cas, xadd, xrd (R264, R273 to R275) -/

/-- The form travels to the host as a PCI Express AtomicOp (R264). -/
def hostForm (op : AtomOp) (sz : Fin 4) : Bool := (op == .add || op == .swap) && (sz == 2 || sz == 3)

def execAtom (h : Hdr) (op : AtomOp) (d : Fin 32) (sz : Fin 4) (m : AddrArg) (at_ : MemAttr) (s : State) : Out :=
  oneAccess (.atom h op d sz m at_) m [.s d] .rmw (.rmw (hostForm op sz)) (szBytes sz) (szBytes sz) (attrOf at_)
    (fun s ea => [memPoison s.me [d] ea]) (fun c => .rmw op sz (c.readS d) (some d)) s

def execRed (h : Hdr) (op : AtomOp) (d : Fin 32) (sz : Fin 4) (m : AddrArg) (at_ : MemAttr) (s : State) : Out :=
  oneAccess (.red h op d sz m at_) m [.s d] .rmw (.rmw (hostForm op sz)) (szBytes sz) (szBytes sz) (attrOf at_)
    (fun s ea => [memPoison s.me [d] ea]) (fun c => .rmw op sz (c.readS d) none) s

def execCas (h : Hdr) (d : Fin 32) (b8 : Bool) (m : AddrArg) (at_ : MemAttr) (s : State) : Out :=
  oneAccess (.cas h d b8 m at_) m [.s d, .s (nextReg d)] .rmw (.rmw true) (gathBytes b8) (gathBytes b8) (attrOf at_)
    (fun s ea => [memPoison s.me [d, nextReg d] ea])
    (fun c => .cas (if b8 then 3 else 2) (c.readS d) (c.readS (nextReg d)) d) s

/-- The f32 values an xadd sends. -/
def xaddVals (c : Ctx) (r : EReg) : List (BitVec 32) :=
  match r with
  | .scal d => [(c.readS d).truncate 32]
  | .vec d => (List.range 64).map (fun j => (c.readV d).lane j)

def xaddPoison (c : Ctx) (r : EReg) (ea : Nat) : Option (Nat × Nat × Nat) :=
  match r with
  | .scal d => memPoison c [d] ea
  | .vec d => vecPoison c d 256 ea

def execXadd (h : Hdr) (r : EReg) (m : AddrArg) (scope : Fin 5) (rel : Bool) (s : State) : Out :=
  oneAccess (.xadd h r m scope rel) m (eregRegs r) .rmw .local_ 64 64 ⟨false, rel, scope == 0, 0, none, none⟩
    (fun s ea => [xaddPoison s.me r ea]) (fun c => .xadd (xaddVals c r)) s

/-- A plain xrd needs R only (R275). -/
def execXrd (h : Hdr) (d : Fin 32) (m : AddrArg) (scope : Fin 5) (acq : Bool) (s : State) : Out :=
  oneAccess (.xrd h d m scope acq) m [] .read .local_ 64 64 ⟨acq, false, scope == 0, 0, none, none⟩ (fun _ _ => []) (fun _ => .xrd d false) s

def execXrdClr (h : Hdr) (d : Fin 32) (m : AddrArg) (scope : Fin 5) (ord : Fin 4) (s : State) : Out :=
  oneAccess (.xrdClr h d m scope ord) m [] .rmw .local_ 64 64 (attrOf ⟨scope, ord, 0⟩) (fun _ _ => [])
    (fun _ => .xrd d true) s

/-! ### fence, cinv (R296, R298) -/

/-- A store to local HBM that has entered the memory interface: at tile scope it counts as performed (R284). -/
def MemReq.entered (r : MemReq) : Bool :=
  (match r.op with | .store .. | .merge .. => true | _ => false)
    && !r.stage.unsent && targetOf r.pa == some .hbm

/-- Some access that a release at a scope waits for; tile says that the scope is a tile's. -/
def Ctx.unperformed (c : Ctx) (tile : Bool) : Bool := c.reqs.any (fun r => r.op.waited && !(tile && r.entered))

/-- An earlier access whose response carries data has not answered. -/
def Ctx.awaiting (c : Ctx) : Bool :=
  c.reqs.any (fun r => r.op.waited && (match r.op with | .store .. | .merge .. | .xadd .. => false | .rmw _ _ _ none => false | _ => true))

def execFence (h : Hdr) (kind : FenceKind) (scope : Fin 5) (s : State) : Out :=
  issue (.fence h kind scope) [] s fun s =>
    let tile := scope == 0 && s.cur != .mgmt
    if kind ≠ .acq ∧ !s.me.wcb.isEmpty then .wait (fun s => s.drainAll s.cur)
    else if (kind ≠ .acq ∧ (s.me.unperformed tile || (!tile && s.pastOpen s.cur))) ∨ (kind ≠ .rel ∧ s.me.awaiting) then .hold
    else .done s

/-- Fills in flight of this context are not to be installed. -/
def dropFills (c : Ctx) : Ctx :=
  { c with reqs := c.reqs.map (fun r => match r.op with | .constFill _ w => { r with op := .constFill false w } | _ => r) }

/-- Discard lines of a memory context from the tile's constant cache. -/
def State.dropConst (s : State) (p : ConstLine → Bool) : State :=
  match s.cur with
  | .tile t _ => s.modTile t (fun y => { y with cc := y.cc.filter (fun l => !p l) })
  | .mgmt => s

def execCinv (h : Hdr) (s : State) : Out :=
  issue (.cinv h) [] s fun s =>
    let m := s.mctxOfAgent s.cur
    .done ((s.dropConst (fun l => l.mctx == m)).modCtx s.cur dropFills)

def execCinvLine (h : Hdr) (a : Fin 32) (s : State) : Out :=
  issue (.cinvLine h a) [.s a] s fun s =>
    let m := s.mctxOfAgent s.cur
    orTrap [poisonS s.me [a]] <|
      .done ((s.dropConst (fun l => l.mctx == m && l.line == (s.me.readS a).toNat / 128)).modCtx s.cur dropFills)

/-! ### At the home (R263, R265) -/

/-- Table 9.4: the new value of an n-byte operand. -/
def atomNew (op : AtomOp) (sz : Fin 4) (old v : Nat) : Nat :=
  let w := 8 * szBytes sz
  let o := old % 2 ^ w
  let x := v % 2 ^ w
  match op with
  | .add => (o + x) % 2 ^ w
  | .addF => (addBits (if sz = 1 then .bf16 else .f32) o x).1
  | .min => if sextInt o w ≤ sextInt x w then o else x
  | .max => if sextInt o w ≥ sextInt x w then o else x
  | .and => o &&& x
  | .or => o ||| x
  | .xor => o ^^^ x
  | .swap => x

/-- A read-modify-write of n bytes: the old value is answered; a poisoned sector is not changed (R265). -/
def State.rmwPa (s : State) (key : Option Key) (pa n : Nat) (f : Nat → Option Nat) : List Byte × List Bool × State :=
  let (bs, po, s1) := s.readPa key pa n
  let s2 := if po.any id then s1
    else match f (leNat bs) with
      | some v => s1.writePa key pa (leBytes n v) (List.replicate n true)
      | none => s1
  (bs, po, s2)

/-- Perform a request at its home: the bytes and poison of its response. -/
def State.perform (s : State) (r : MemReq) : List Byte × List Bool × State :=
  match r.op with
  | .loadS .. | .loadV .. | .gather .. | .bits .. | .partS .. | .syncRead | .constFill .. =>
    let (bs, po, s1) := s.readPa r.key r.pa r.len
    let f := fun (i : Nat) => r.fwd.getD i none
    ((List.range r.len).map (fun i => (f i).getD (bs.getD i 0)),
     (List.range r.len).map (fun i => (f i).isNone && po.getD i false), s1)
  | .store bs mask _ => ([], [], s.writePa r.key r.pa bs mask)
  | .merge v m =>
    let (bs, _, s1) := s.readPa r.key r.pa r.len
    let x := leNat bs
    ([], [], s1.writePa r.key r.pa (leBytes r.len (x - (x &&& m) + (v &&& m))) (List.replicate r.len true))
  | .rmw op sz v _ => s.rmwPa r.key r.pa r.len (fun o => some (atomNew op sz o v.toNat))
  | .cas _ e n _ =>
    s.rmwPa r.key r.pa r.len (fun o => if o = e.toNat % 2 ^ (8 * r.len) then some (n.toNat % 2 ^ (8 * r.len)) else none)
  | .xadd vs => s.rmwPa r.key r.pa 64 (fun o => some (vs.foldl (fun x v => x.add v.toNat) (Xacc.ofNat o)).toNat)
  | .xrd _ clr =>
    let (bs, po, s1) := s.rmwPa r.key r.pa 64 (fun _ => if clr then some 0 else none)
    (leBytes 4 (Xacc.ofNat (leNat bs)).toF32, [po.any id], s1)

/-! ### SLICE_ACCESS, MEMORY_RESPONSE, LOST_REQUEST -/

def rangesMeet (a n b m : Nat) : Bool := decide (a < b + m) && decide (b < a + n)

/-- The homes of the lines of a request. -/
def MemReq.homes (r : MemReq) : List Home := (linesOf r.pa r.len).map (fun l => homeOf (l * 128))

/-- A release at tile scope to local HBM, for which sent stores count as performed (R264, R284). -/
def MemReq.tileScope (r : MemReq) : Bool := r.tileRel && targetOf r.pa == some .hbm

/-- Both requests are on their way to one home. -/
def MemReq.sameHome (e r : MemReq) : Bool := e.homes.any (fun h => r.homes.contains h)

/-- An earlier request of the context goes before a later one: it is on its way to the same home, or the later one
is a release that waits for it (R256, R283, R284). -/
def MemReq.before (e r : MemReq) : Bool :=
  (e.stage == .sent && e.sameHome r) || (r.rel && e.op.waited && !(r.tileScope && e.entered))

/-- Request n of a context may be performed: it is among the 64 that the network holds, and no earlier request
goes before it (R256). -/
def Ctx.mayPerform (c : Ctx) (n : Nat) (r : MemReq) : Bool :=
  decide (outstandingOf (c.reqs.take (n + 1)) ≤ 64) && (c.reqs.take n).all (fun e => !e.before r)

/-- A request that another context of the tile sent earlier goes before it: to the same home, which the contexts
of a tile reach over one path in the order of sending (R284); or a store, when the request is a release beyond the
tile, which may follow it in the order of R282. -/
def State.tileWaits (s : State) (g : AgentId) (r : MemReq) : Bool :=
  match g with
  | .mgmt => false
  | .tile t c =>
    (List.finRange 4).any (fun d => d != c && ((s.tile t).ctx.get d).reqs.any (fun e =>
      e.stage == .sent && decide (e.sentAt < r.sentAt) && (e.sameHome r || (r.rel && !r.tileScope && e.entered))))

/-- A request among the held accesses. -/
def MemReq.held (r : MemReq) (g : AgentId) : HeldAccess := ⟨r.pa / 128, g, r.by_.order, r.va⟩

/-- The slice holds an access to a line, behind those it holds already. -/
def State.holdAccess (s : State) (e : HeldAccess) : State :=
  s.modSlice (cgOf (e.line * 128)) (sliceOf (e.line * 128)) (fun x => if x.held.contains e then x else { x with held := x.held ++ [e] })

/-- The access leaves the held ones. -/
def State.freeAccess (s : State) (e : HeldAccess) : State :=
  s.modSlice (cgOf (e.line * 128)) (sliceOf (e.line * 128)) (fun x => { x with held := x.held.erase e })

/-- No held access of its line goes before the request. -/
def State.isNext (s : State) (g : AgentId) (r : MemReq) : Bool :=
  targetOf r.pa != some .hbm || (match s.heldFirst (r.pa / 128) with | some e => e == r.held g | none => true)

/-- The access enters its home's pipeline: its policy is applied, and it is held no longer. -/
def State.enterHome (s : State) (g : AgentId) (r : MemReq) : State :=
  let s1 := s.touch r.pa r.len r.cp r.mctx r.op.duel
  if targetOf r.pa = some .hbm then s1.freeAccess (r.held g) else s1

/-- A miss, or an access held before it, holds the access. -/
def State.waitHome (s : State) (g : AgentId) (r : MemReq) : State :=
  (if s.lineReady r.pa r.len r.cp then s else s.touch r.pa r.len r.cp r.mctx r.op.duel).holdAccess (r.held g)

/-- SLICE_ACCESS: request n of a context reaches its home. It waits for earlier requests and, at its slice,
behind a miss of its line. -/
def execSliceAccess (g : AgentId) (n : Nat) (s : State) : Out :=
  match (s.ctx g).reqs[n]? with
  | none => .next s
  | some r =>
    if r.stage ≠ .sent ∨ !(s.ctx g).mayPerform n r ∨ s.tileWaits g r then .next s
    else if !s.reachable r.pa then .next (s.loseReq g n r 0x12 3)
    else if s.lineReady r.pa r.len r.cp && s.isNext g r then
      let (bs, po, s1) := (s.enterHome g r).perform r
      .next (s1.modCtx g (fun c => { c with reqs := c.reqs.set n { r with stage := .done bs po } }))
    else .next (s.waitHome g r)

/-- The elements of a gather that have answered, into the register (R270). -/
def gatherReg (rs : List MemReq) : VReg :=
  let cells := rs.filterMap (fun r => match r.op, r.stage with
    | .gather _ w j, .done bs po => some (w, j, bs, po)
    | _, _ => none)
  let at_ := fun (i : Nat) => cells.findSome? (fun x => if i / x.1 = x.2.1 then some (x.2.2.1.getD (i % x.1) 0, x.2.2.2.getD (i % x.1) false) else none)
  let bp := (List.range 256).map (fun i => (at_ i).getD (0, false))
  VReg.ofBytes (bp.map (fun x => x.1)) (bp.map (fun x => x.2))

/-- Put the bits of an answered element part in a register, with its poison (R221, R255). -/
def VReg.takeBits (v : VReg) (r : MemReq) : VReg :=
  match r.op, r.stage with
  | .bits _ dst w cw shift, .done bs po =>
    { bits := BitVec.ofNat 2048 (putBits v.bits.toNat dst cw (bitsAt (leNat bs) shift w))
      poison := if po.any id then setBit (setBit v.poison (dst / 32) true) ((dst + cw - 1) / 32) true else v.poison }
  | _, _ => v

/-- The lanes of a part are about to be written: their poison is clear. -/
def VReg.clearBits (v : VReg) (r : MemReq) : VReg :=
  match r.op with
  | .bits _ dst _ cw _ => { v with poison := setBit (setBit v.poison (dst / 32) false) ((dst + cw - 1) / 32) false }
  | _ => v

/-- Install a line in the constant cache, at most 512 lines (R271). -/
def State.installConst (s : State) (g : AgentId) (r : MemReq) : State :=
  match g, r.op, r.stage with
  | .tile t _, .constFill true _, .done bs po => s.modTile t (fun y =>
      { y with cc := (⟨r.mctx, r.va / 128, bs, po⟩ :: y.cc.filter (fun l => !(l.mctx == r.mctx && l.line == r.va / 128))).take 512 })
  | _, _, _ => s

/-- The bytes of a scalar register that several reads fill, with their poison (R221). -/
def partsValue (rs : List MemReq) : Word × Bool :=
  rs.foldl (fun x r => match r.op, r.stage with
    | .partS _ j, .done bs po => (x.1 ||| BitVec.ofNat 64 (leNat bs * 2 ^ (8 * j)), x.2 || po.any id)
    | _, _ => x) (0, false)

/-- Sext for signed minimum and maximum, Zext else (R273). -/
def atomOld (op : AtomOp) (bs : List Byte) : Word := loadedS (op == .min || op == .max) bs

/-- The context still holds the instruction that waits for this read. -/
def Ctx.awaits (c : Ctx) (r : MemReq) : Bool :=
  c.pc == r.by_.pc && ((c.phase == .running && !r.by_.handler) || (c.phase == .inHandler && r.by_.handler))

/-- The parts of an instruction have all answered: its register takes them together (R221, R270, R271). -/
def takeParts (s : State) (g : AgentId) (r : MemReq) (rs : List MemReq) : State :=
  let s1 := s.modCtx g (fun c => { c with reqs := c.reqs.filter (fun e => !r.mates e) })
  match r.op with
  | .gather d _ _ => s1.modCtx g (fun c => c.writeV d (gatherReg rs))
  | .bits d _ _ _ _ => s1.modCtx g (fun c => c.writeV d (rs.foldl VReg.takeBits (rs.foldl VReg.clearBits (c.readV d))))
  | .partS d _ => s1.modCtx g (fun c => c.writeS d (partsValue rs).1 (partsValue rs).2)
  | .constFill _ (some (f, d, ea)) =>
    (rs.foldl (fun s e => s.installConst g e) s1).modCtx g (fun c => let x := ldcGather rs f ea; c.ldcWrite f d x.1 x.2)
  | _ => s1

/-- MEMORY_RESPONSE: the response of request n arrives; the parts of one instruction write their register
with the last of them. -/
def execMemoryResponse (g : AgentId) (n : Nat) (s : State) : Out :=
  match (s.ctx g).reqs[n]? with
  | none => .next s
  | some r =>
    match r.stage with
    | .done bs po =>
      let s1 := (s.mark g).modCtx g (fun c => { c with reqs := c.reqs.eraseIdx n })
      let wr := fun (d : Fin 32) (v : Word) => .next (s1.modCtx g (fun c => c.writeS d v (po.any id)))
      let mine := (s.ctx g).reqs.filter r.mates
      let together := .next (if mine.all (fun e => !e.stage.open_) then takeParts (s.mark g) g r mine else s)
      match r.op with
      | .loadS d sx => wr d (loadedS sx bs)
      | .loadV d => .next (s1.modCtx g (fun c => c.writeV d ((c.readV d).load bs po)))
      | .gather .. => together
      | .bits .. => together
      | .partS .. => together
      | .syncRead => .next (if (s.ctx g).awaits r then s else s1)
      | .store .. | .merge .. | .xadd .. => .next s1
      | .rmw op _ _ (some d) => wr d (atomOld op bs)
      | .rmw _ _ _ none => .next s1
      | .cas _ _ _ d => wr d (loadedS false bs)
      | .xrd d _ => wr d (loadedS false bs)
      | .constFill _ (some _) => together
      | .constFill _ none => .next (s1.installConst g r)
    | _ => .next s

/-- LOST_REQUEST: request n of a context is declared lost, for reason 1 to 3 (R259). -/
def execLostRequest (g : AgentId) (n : Nat) (reason : Fin 4) (s : State) : Out :=
  match (s.ctx g).reqs[n]? with
  | some r => if r.stage = .sent ∨ r.stage = .dropped then .next (s.loseReq g n r 0x12 reason.val) else .next s
  | none => .next s

/-! ### Requests that wait at the memory interface (R394) -/

/-- The kind of access of a request, and the targets its form may address. -/
def ReqOp.access : ReqOp → Kind × Class
  | .store .. | .merge .. => (.write, .any)
  | .rmw op sz _ _ => (.rmw, .rmw (hostForm op sz))
  | .cas .. => (.rmw, .rmw true)
  | .xadd .. => (.rmw, .local_)
  | .xrd _ clr => (if clr then .rmw else .read, .local_)
  | .constFill .. => (.read, .local_)
  | _ => (.read, .any)

/-- The first request of a context that has not been sent, at index n, translates and proceeds, parks
again, or is lost with the cause of the step that fails (R394); a prefetch is dropped (R272). -/
def State.proceed (s : State) (g : AgentId) (n : Nat) (r : MemReq) : State :=
  let (k, cls) := r.op.access
  match s.retranslate r.mctx k r.va with
  | .missing l =>
    if !r.op.waited then s.modCtx g (fun c => c.dropReq n r)
    else
      let x := s.parkReq g k l r
      x.2.modCtx g (fun c => { c with reqs := c.reqs.set n { r with stage := x.1 } })
  | .fault _ cause detail => s.loseReq g n r cause (if cause = 0x06 then r.ea else detail)
  | .ok x =>
    if !cls.allows x.pa then s.loseReq g n r 0x06 r.ea
    else
      let go := (s.modCtx g (fun c => { c with reqs := c.reqs.eraseIdx n })).enter g { r with pa := x.pa, key := x.key }
      match r.expect with
      | some e => if x.slot = e then go else s.loseReq g n r 0x13 (x.slot + 2 ^ 16 + e * 2 ^ 24)
      | none => go

/-- The waiting requests of a context go on as far as they can. -/
def State.flush (s : State) (g : AgentId) : Nat → State
  | 0 => s
  | n + 1 =>
    match (s.ctx g).reqs.findIdx? (fun r => r.stage.unsent) with
    | none => s
    | some i =>
      match (s.ctx g).reqs[i]? with
      | none => s
      | some r => if r.stage ≠ .queued ∨ s.unitWaits r then s else (s.proceed g i r).flush g n

/-- The waiting requests of a context, once each. -/
def State.flushAll (s : State) (g : AgentId) : State := s.flush g (s.ctx g).reqs.length

/-- WRITE_COALESCING_DRAIN: entry n of a context's buffer drains (R257). -/
def execWriteCoalescingDrain (g : AgentId) (n : Nat) (s : State) : Out :=
  match (s.ctx g).wcb[n]? with
  | some w => .next (s.drain g (fun x => x.line == w.line))
  | none => .next s

end Sys2Proof.Machine
end

