-- ==== Sys2Proof/Machine/Handles.lean ====
section
/-! DEFINITION. Handle instructions, OP 0x70 to 0x76, and the steps of layout conversions
(spec/07_handles.md, R199 to R224). -/

namespace Sys2Proof.Machine

/-! ### The table and its copies (R199, R200) -/

/-- Entry n of the table of the launch a context runs. -/
def State.entry (s : State) (g : AgentId) (n : Nat) : Option (BitVec 1024) :=
  match s.launchOf g with
  | some l => l.handles[n]?
  | none => none

/-- Change the handle registers of one context that hold an entry. -/
def Ctx.mapHandles (c : Ctx) (n : Nat) (f : BitVec 1024 → BitVec 1024) : Ctx :=
  { c with h := Vector.ofFn (fun i =>
      let r := c.h.get i
      if r.valid && r.index == n then { r with desc := f r.desc } else r) }

/-- Change the hardware fields of an entry, in the table and in every register that holds it. -/
def State.updEntry (s : State) (q : Fin 32) (c : Fin 4) (n : Nat) (f : BitVec 1024 → BitVec 1024) : State :=
  let s1 := s.modLaunch q c (fun l => { l with handles := l.handles.modify n f })
  match s.parts.find? (fun p => p.q == q) with
  | none => s1
  | some p =>
    { s1 with tiles := Vector.ofFn (fun t =>
        let y := s1.tiles.get t
        if p.clusters.getLsbD (t.val / 8) then { y with ctx := vset y.ctx c ((y.ctx.get c).mapHandles n f) } else y) }

/-- Cause 0x0B (R207): reason, table index, register number, dimension. -/
def handleTrap (b : Bool) (reason idx reg dim : Nat) : Option (Nat × Nat × Nat) :=
  trapIf b 0x0B (reason + idx % 2 ^ 16 * 2 ^ 8 + reg * 2 ^ 24 + dim * 2 ^ 32) 0

/-- Invalid and broken registers (reason 12, cause 0x0C). -/
def regTraps (c : Ctx) (hr : Fin 16) : List (Option (Nat × Nat × Nat)) :=
  let r := c.readH hr
  [handleTrap (!r.valid) 12 0 hr.val 0]

def brokenTrap (c : Ctx) (hr : Fin 16) : Option (Nat × Nat × Nat) :=
  let r := c.readH hr
  trapIf (dBits r.desc 112 4 2 == 2) 0x0C (r.index % 2 ^ 16 * 2 ^ 8) 0

/-! ### A read for which an instruction holds its context -/

/-- The bytes at a global address, once they have been read: the instruction holds meanwhile. -/
def withBytes (s : State) (ea align n : Nat) (rel : Bool) (poison : List (Option (Nat × Nat × Nat)))
    (go : List Byte → List Bool → State → Eff) : Eff :=
  match s.me.reqs.find? (fun r => r.op == .syncRead && r.ea == ea && r.by_.pc == s.me.pc) with
  | some r =>
    match r.stage with
    | .done bs po =>
      go bs po (s.modCtx s.cur (fun c => { c with reqs := c.reqs.filter (fun x => x.op != .syncRead) }))
    | _ => .hold
  | none =>
    globalAccess s .read .any align [(ea, ea)] { Attr.plain 0 with rel := rel } poison fun _ =>
      .wait (fun s => sendParts s .read (.plain 0) [onePart .syncRead ea n])

/-! ### hdef, hld, hst, hinv (R220) -/

/-- The conversion state of another descriptor: a register follows its entry (R200). -/
def takeState (e d : BitVec 1024) : BitVec 1024 := dPut d 104 0 192 (dBits e 104 0 192)

/-- The checks of the descriptor image, the write of the entry, and its conversion state in the registers that
hold it (R200, R220). -/
def defineEntry (s : State) (d a : Fin 32) (bs : List Byte) (po : List Bool) : Eff :=
  let idx := (s.me.readS d).toNat
  let img := BitVec.ofNat 1024 (leNat bs)
  let nh := match s.launchOf s.cur with | some l => l.handles.length | none => 0
  let cst := match s.entry s.cur idx with | some e => dBits e 112 4 2 | none => 0
  orTrap [trapIf (po.any id) 0x07 a.val 0, handleTrap (decide (nh ≤ idx)) 1 idx 0 0, handleTrap (cst == 1) 9 idx 0 0,
      (match defReason img with | some r => handleTrap true r idx 0 0 | none => none)] <|
    let s1 := s.modLaunchOf s.cur (fun l => { l with handles := l.handles.set idx img })
    .done (match s.launchOf s.cur with
      | some l => s1.updEntry l.q l.c idx (takeState img)
      | none => s1)

def execHdef (h : Hdr) (d a : Fin 32) (g : Bool) (s : State) : Out :=
  issue (.hdef h d a g) [.s d, .s a] s fun s =>
    let addr := (s.me.readS a).toNat
    let pre := [poisonS s.me [d, a], alignCheck addr 128]
    if g then withBytes s addr 128 128 false pre fun bs po s => defineEntry s d a bs po
    else
      orTrap (pre ++ [trapIf (decide (scratchEnd < addr + 128)) 0x06 addr addr]) <|
        if scratchHold s addr 128 then .hold
        else defineEntry s d a (s.scratch.read addr 128) (s.scratch.readPoison addr 128)

def execHld (h : Hdr) (d : Fin 16) (a : Fin 32) (off : BitVec 20) (s : State) : Out :=
  issue (.hld h d a off) [.s a] s fun s =>
    let idx := ((s.me.readS a) + off.zeroExtend 64).toNat
    match s.entry s.cur idx with
    | none => orTrap [poisonS s.me [a], handleTrap true 1 idx d.val 0] .hold
    | some e =>
      orTrap [poisonS s.me [a]] <| s.onCtx fun c => c.writeH d ⟨true, idx, e⟩

def execHst (h : Hdr) (d a : Fin 32) (g : Bool) (s : State) : Out :=
  issue (.hst h d a g) [.s d, .s a] s fun s =>
    let addr := (s.me.readS a).toNat
    let idx := (s.me.readS d).toNat
    let pre := [poisonS s.me [d, a], alignCheck addr 128]
    let e := s.entry s.cur idx
    let bs := leBytes 128 (match e with | some e => e.toNat | none => 0)
    let bad := handleTrap e.isNone 1 idx 0 0
    if g then
      globalAccess s .write .any 128 [(addr, addr)] (.plain 0) (pre ++ [bad]) fun _ =>
        .done (sendParts s .write (.plain 0) [onePart (.store bs (List.replicate 128 true) false) addr 128])
    else
      orTrap (pre ++ [bad, trapIf (decide (scratchEnd < addr + 128)) 0x06 addr addr]) <|
        if scratchHold s addr 128 then .hold else .done (s.modScratch (fun x => x.write addr bs))

/-- An invalid handle register. -/
def HReg.none_ : HReg := ⟨false, 0, 0⟩

def execHinv (h : Hdr) (d : Fin 16) (all : Bool) (s : State) : Out :=
  issue (.hinv h d all) [] s fun s => s.onCtx fun c =>
    if all then { c with h := Vector.replicate 16 HReg.none_ } else c.writeH d HReg.none_

/-! ### Where an element is (R211) -/

/-- The conversion in progress of an entry. -/
def State.convOf (s : State) (q : Fin 32) (c : Fin 4) (idx : Nat) : Option Conv :=
  s.convs.find? (fun v => v.q == q && v.c == c && v.index == idx && !v.pushing)

/-- The states of a conversion unit (R209). -/
inductive UnitState where
  | old | converting | new
deriving DecidableEq, Repr

def Conv.unitState (v : Conv) (u : Nat) : UnitState :=
  if v.done.contains u then .new else if v.busy.any (fun b => b.1 == u) then .converting else .old

/-- The unit of an element of the target. -/
def Conv.unitOf (v : Conv) (x : List Nat) : Nat := (hdesc v.target).loc x / 8 / 32768

/-- The bit address of an element: at its old place, or in the target when its unit is New. -/
def placeBit (h : HDesc) (v : Option Conv) (x : List Nat) : Nat :=
  match v with
  | some v =>
    if v.unitState (v.unitOf x) = .new then (hdesc v.target).base * 8 + (hdesc v.target).loc x
    else h.base * 8 + h.loc x
  | none => h.base * 8 + h.loc x

/-- Where a write of an element lands: in the target of a conversion (R211). -/
def writeBit (h : HDesc) (v : Option Conv) (x : List Nat) : Nat :=
  match v with
  | some v => (hdesc v.target).base * 8 + (hdesc v.target).loc x
  | none => h.base * 8 + h.loc x

/-- What holds the whole of a write that touches some units: those that are not New (R211). -/
def writeHeld (v : Option Conv) (us : List Nat) : Option (Nat × List Nat) :=
  match v with
  | some v => if us.all (fun u => v.unitState u = .new) then none else some (v.id, us.eraseDups)
  | none => none

/-- A part of an element in memory: byte address, bytes, shift, width, and its offset in the element. -/
structure Piece where
  addr : Nat
  len : Nat
  shift : Nat
  w : Nat
  off : Nat
deriving DecidableEq, Repr

/-- The bytes that hold w bits at a bit address; 6-bit elements may span two bytes. -/
def piecesOf (bit w : Nat) : List Piece :=
  if 8 ≤ w then [⟨bit / 8, w / 8, 0, w, 0⟩]
  else if bit % 8 + w ≤ 8 then [⟨bit / 8, 1, bit % 8, w, 0⟩]
  else [⟨bit / 8, 1, bit % 8, 8 - bit % 8, 0⟩, ⟨bit / 8 + 1, 1, 0, w - (8 - bit % 8), 8 - bit % 8⟩]

/-- One element, or one lane of it, moved between memory and register bits dst .. dst + cw − 1. -/
structure Cell where
  dst : Nat
  cw : Nat
  bit : Nat
  w : Nat
deriving DecidableEq, Repr

/-- The pieces of cells with their register bits; the first piece of an element covers its container. -/
def cellPieces (cs : List Cell) : List (Piece × Nat × Nat) :=
  cs.flatMap (fun c => (piecesOf c.bit c.w).map (fun p => (p, c.dst + p.off, if p.off = 0 then c.cw else p.w)))

/-- A run of scale bytes and its register. -/
structure ScaleRun where
  reg : Fin 32
  addr : Nat
  len : Nat
deriving DecidableEq, Repr

/-- The pieces of a run that lie in one line each: offset, address and length. -/
def ScaleRun.pieces (r : ScaleRun) : List (Nat × Nat × Nat) :=
  (linesOf r.addr r.len).map (fun l =>
    let lo := Max.max r.addr (l * 128)
    (lo - r.addr, lo, Min.min (r.addr + r.len) (l * 128 + 128) - lo))

/-! ### Moving cells -/

/-- The key index a page must carry (R206). -/
def HDesc.expect (h : HDesc) : Option Nat := if h.keychk && !h.space then some h.key else none

/-- The attributes of an access through a handle at a table index. -/
def HDesc.attr (h : HDesc) (idx : Nat) (cp : Fin 4) : Attr := { Attr.plain cp with expect := h.expect, via := some idx }

/-- The reads of global cells, and of scale bytes into scalar registers. -/
def readParts (d : Fin 32) (ps : List (Piece × Nat × Nat)) (rs : List ScaleRun) : List Part :=
  ps.map (fun p => onePart (.bits d p.2.1 p.1.w p.2.2 p.1.shift) p.1.addr p.1.len)
    ++ rs.flatMap (fun r => r.pieces.map (fun x => onePart (.partS r.reg x.1) x.2.1 x.2.2))

/-- The writes of global cells, and of scale bytes; part of a byte is merged at its home. All of them wait for the
units of the access. -/
def writeParts (c : Ctx) (d : Fin 32) (ps : List (Piece × Nat × Nat)) (rs : List ScaleRun)
    (held : Option (Nat × List Nat)) : List Part :=
  let bits := (c.readV d).bits.toNat
  (ps.map (fun p =>
    let x := bitsAt bits p.2.1 p.1.w
    onePart (if p.1.w = 8 * p.1.len then .store (leBytes p.1.len x) (List.replicate p.1.len true) false
        else .merge (x <<< p.1.shift) ((2 ^ p.1.w - 1) <<< p.1.shift)) p.1.addr p.1.len)
    ++ rs.flatMap (fun r => r.pieces.map (fun x =>
      onePart (.store (leBytes x.2.2 ((c.readS r.reg).toNat / 2 ^ (8 * x.1))) (List.replicate x.2.2 true) false) x.2.1 x.2.2))).map
    (fun p => { p with unit := held })

/-- Read scratchpad cells into a register. -/
def scratchReads (m : Memory) (v : VReg) (ps : List (Piece × Nat × Nat)) : VReg :=
  let rs := ps.map (fun p => (p, m.readNat p.1.addr p.1.len, (m.readPoison p.1.addr p.1.len).any id))
  let cleared := ps.foldl (fun (v : VReg) p =>
    { v with poison := setBit (setBit v.poison (p.2.1 / 32) false) ((p.2.1 + p.2.2 - 1) / 32) false }) v
  rs.foldl (fun (v : VReg) r =>
    let p := r.1
    { bits := BitVec.ofNat 2048 (putBits v.bits.toNat p.2.1 p.2.2 (bitsAt r.2.1 p.1.shift p.1.w))
      poison := if r.2.2 then setBit (setBit v.poison (p.2.1 / 32) true) ((p.2.1 + p.2.2 - 1) / 32) true else v.poison })
    cleared

/-- Write register cells to the scratchpad. -/
def scratchWrites (m : Memory) (v : VReg) (ps : List (Piece × Nat × Nat)) : Memory :=
  (ps.foldl (fun m p =>
    let x := bitsAt v.bits.toNat p.2.1 p.1.w
    m.writeNat p.1.addr p.1.len (putBits (m.readNat p.1.addr p.1.len) p.1.shift p.1.w x)) m).healBits
    (ps.map (fun p => (8 * p.1.addr + p.1.shift, p.1.w)))

/-- Some scratchpad piece of the access is held. -/
def piecesHeld (s : State) (ps : List (Piece × Nat × Nat)) (rs : List ScaleRun) : Bool :=
  ps.any (fun p => scratchHold s p.1.addr p.1.len) || rs.any (fun r => scratchHold s r.addr r.len)

/-- A handle read: the zeroed elements, then the cells and the scales. -/
def handleRead (s : State) (h : HDesc) (idx : Nat) (d : Fin 32) (cp : Fin 4) (zero : List Cell) (cs : List Cell)
    (rs : List ScaleRun) : Eff :=
  let ps := cellPieces cs
  let s0 := s.modCtx s.cur (fun c => (rs.filter (fun r => r.len == 0)).foldl (fun c r => c.writeS r.reg 0 false)
    (c.writeV d (zero.foldl (fun (v : VReg) z =>
      { bits := BitVec.ofNat 2048 (putBits v.bits.toNat z.dst z.cw 0),
        poison := setBit (setBit v.poison (z.dst / 32) false) ((z.dst + z.cw - 1) / 32) false }) (c.readV d))))
  if h.space then
    if piecesHeld s ps rs then .hold
    else .done (s0.modCtx s.cur (fun c => rs.foldl (fun c r =>
        c.writeS r.reg (BitVec.ofNat 64 (s.scratch.readNat r.addr r.len)) ((s.scratch.readPoison r.addr r.len).any id))
      (c.writeV d (scratchReads s.scratch (c.readV d) ps))))
  else
    let qs := readParts d ps rs
    globalAccess s .read .any 1 (partAddrs qs) (h.attr idx cp) [] fun _ => .done (sendParts s0 .read (h.attr idx cp) qs)

/-- A handle write of cells and scales, held for some units of a conversion. -/
def handleWrite (s : State) (h : HDesc) (idx : Nat) (d : Fin 32) (cp : Fin 4) (cs : List Cell) (rs : List ScaleRun)
    (held : Option (Nat × List Nat)) : Eff :=
  let ps := cellPieces cs
  if h.space then
    if piecesHeld s ps rs then .hold
    else .done (s.modScratch (fun m => rs.foldl (fun m r => m.write r.addr (leBytes r.len (s.me.readS r.reg).toNat))
      (scratchWrites m (s.me.readV d) ps)))
  else
    let qs := writeParts s.me d ps rs held
    globalAccess s .write .any 1 (partAddrs qs) (h.attr idx cp) [] fun _ => .done (sendParts s .write (h.attr idx cp) qs)

/-- A touched unit is being converted: it holds the whole read (R211). -/
def unitsHold (v : Option Conv) (us : List Nat) : Bool :=
  match v with
  | none => false
  | some v => us.any (fun u => v.unitState u = .converting)

/-- Demand the units of a conversion that are Old, in order, after the demands that stand (R210, R211). -/
def State.demand (s : State) (v : Option Conv) (us : List Nat) : State :=
  match v with
  | none => s
  | some v =>
    let olds := ((us.filter (fun u => v.unitState u = .old)).eraseDups.map (fun u => (v.id, u))).filter (fun d => !s.demands.contains d)
    { s with demands := s.demands ++ olds }

/-- Map the state an effect leaves. -/
def Eff.map (f : State → State) : Eff → Eff
  | .done s => .done (f s)
  | e => e

/-! ### ldt, stt (R221) -/

/-- The launch, partition and conversion of the handle a context names. -/
def convFor (s : State) (hr : Fin 16) : Option Conv :=
  match s.launchOf s.cur with
  | some l => s.convOf l.q l.c (s.me.readH hr).index
  | none => none

/-- The coordinate registers. -/
def coordRegs (cb : Fin 32) (rank : Nat) : List (Fin 32) := (List.range rank).map (fun i => Fin.ofNat 32 (cb.val + i))

/-- The checks that ldt, stt, ldtb and sttb share, up to the coordinates. -/
def tensorTraps (c : Ctx) (hr : Fin 16) (cb : Fin 32) (ty : Ty) : List (Option (Nat × Nat × Nat)) :=
  let r := c.readH hr
  let h := hdesc r.desc
  regTraps c hr ++
  [trapIf (decide (31 < cb.val + h.rank - 1)) 0x02 (63 * 2 ^ 35) 0,
   handleTrap (h.tyCode != tyCode ty) 10 r.index hr.val 0, brokenTrap c hr, poisonS c (coordRegs cb h.rank)]

/-- The coordinates, each read as signed. -/
def coords (c : Ctx) (cb : Fin 32) (rank : Nat) : List Int := (coordRegs cb rank).map (fun r => (c.readS r).toInt)

/-- Move along the last dimension. -/
def stepLast (x : List Int) (rank j : Nat) : List Int := x.modify (rank - 1) (fun v => v + j)

def toNats (x : List Int) : List Nat := x.map Int.toNat

/-- The active elements with their coordinates, and the first that is out of range under BOUNDS = 1. -/
def tensorElems (c : Ctx) (h : HDesc) (cb : Fin 32) (ty : Ty) (k : Fin 8) : List (Nat × List Int) :=
  (activeList' (c.readK k) ty).map (fun j => (j, stepLast (coords c cb h.rank) h.rank j))
where
  activeList' (k : Word) (t : Ty) : List Nat := (List.range (elems t)).filter (fun j => active k t j)

def boundsTrap (c : Ctx) (hr : Fin 16) (xs : List (List Int)) : Option (Nat × Nat × Nat) :=
  let r := c.readH hr
  let h := hdesc r.desc
  if h.bounds then
    match xs.findSome? (fun x => h.outDim x) with
    | some dim => handleTrap true 8 r.index hr.val dim
    | none => none
  else none

def execLdt (hd : Hdr) (d : Fin 32) (hr : Fin 16) (cb : Fin 32) (ty : Ty) (k : Fin 8) (cp : Fin 4) (s : State) : Out :=
  let h0 := hdesc ((s.ctx s.cur).readH hr).desc
  issue (.ldt hd d hr cb ty k cp) ((coordRegs cb h0.rank).map .s) s fun s =>
    let c := s.me
    let h := hdesc (c.readH hr).desc
    let es := tensorElems c h cb ty k
    let v := convFor s hr
    orTrap (tensorTraps c hr cb ty ++ [boundsTrap c hr (es.map (fun e => e.2))]) <|
      let w := tyWidth ty
      let ins := es.filter (fun e => (h.outDim e.2).isNone)
      let outs := es.filter (fun e => (h.outDim e.2).isSome)
      let us := match v with | some v => ins.map (fun e => v.unitOf (toNats e.2)) | none => []
      if unitsHold v us then .hold
      else
        handleRead s h (c.readH hr).index d cp (outs.map (fun e => { dst := w * e.1, cw := w, bit := 0, w := w }))
          (ins.map (fun e => { dst := w * e.1, cw := w, bit := placeBit h v (toNats e.2), w := h.ws })) []

/-- A poisoned active lane of the source (R221). -/
def storePoison (c : Ctx) (d : Fin 32) (ty : Ty) (js : List Nat) : Option (Nat × Nat × Nat) :=
  trapIf (js.any (fun j => (c.readV d).elemPoison ty j)) 0x07 (d.val + 256) 0

/-- A write to Old units demands them; the whole of it waits in the memory interface for them and for units
being converted; the instruction has issued (R211, R222). -/
def execStt (hd : Hdr) (d : Fin 32) (hr : Fin 16) (cb : Fin 32) (ty : Ty) (k : Fin 8) (cp : Fin 4) (s : State) : Out :=
  let h0 := hdesc ((s.ctx s.cur).readH hr).desc
  issue (.stt hd d hr cb ty k cp) ((coordRegs cb h0.rank).map .s ++ [.v d]) s fun s =>
    let c := s.me
    let h := hdesc (c.readH hr).desc
    let es := tensorElems c h cb ty k
    let v := convFor s hr
    orTrap (tensorTraps c hr cb ty ++ [storePoison c d ty (es.map (fun e => e.1)), boundsTrap c hr (es.map (fun e => e.2))]) <|
      let w := tyWidth ty
      let ins := es.filter (fun e => (h.outDim e.2).isNone)
      let us := match v with | some v => ins.map (fun e => v.unitOf (toNats e.2)) | none => []
      (handleWrite s h (c.readH hr).index d cp (ins.map (fun e =>
        { dst := w * e.1, cw := w, bit := writeBit h v (toNats e.2), w := h.ws })) [] (writeHeld v us)).map
          (fun s => s.demand v us)

/-! ### ldtb, sttb (R221) -/

/-- The layout in force: the target of a conversion, else the handle's own (R208). -/
def inForce (h : HDesc) (v : Option Conv) : HDesc := match v with | some v => hdesc v.target | none => h

/-- Tag 5 FP6 unpacks to one element per byte. -/
def packed6 (h : HDesc) : Bool := h.tag == 5 && isFp6 h.ty

/-- The bits of a block of storage. -/
def blockBits (h : HDesc) : Nat := if packed6 h then 1536 else 2048

/-- The bytes of a block in the store: register bit, container, bit offset from Loc, width. -/
def blockCells (h : HDesc) (l : Nat) : List Cell :=
  (List.range 256).map (fun b =>
    if packed6 h then { dst := 8 * b, cw := 8, bit := l + 6 * b, w := 6 } else { dst := 8 * b, cw := 8, bit := l + 8 * b, w := 8 })

/-- The cell lies in the store. -/
def inStore (h : HDesc) (c : Cell) : Bool := decide (c.bit + c.w ≤ 8 * h.size)

/-- Every coordinate of a tensor. -/
def allCoords (h : HDesc) : List (List Nat) := (List.range (prodNat h.ext)).map (unflatten h.ext)

/-- The lanes of an element: one of 64 bits lies in two, each of which its own mask bit governs (R221). -/
def Cell.lanes (c : Cell) : List Cell :=
  if c.w = 64 then [{ c with cw := 32, w := 32 }, { dst := c.dst + 32, cw := 32, bit := c.bit + 32, w := 32 }] else [c]

/-- The cells of a block of an Old unit: each element, lane by lane, from its old place (R211). -/
def oldCells (h t : HDesc) (l : Nat) : List Cell :=
  ((allCoords h).filter (fun x => decide (l ≤ t.loc x) && decide (t.loc x < l + 2048))).flatMap
    (fun x => ({ dst := t.loc x - l, cw := t.ws, bit := h.base * 8 + h.loc x, w := h.ws } : Cell).lanes)

/-- The checks of a block access after the coordinates: the block's start (whatever the coordinates), the
coordinates, the bytes beyond the store, the scales (R221). -/
def blockTraps (c : Ctx) (hr : Fin 16) (cb : Fin 32) (v : Option Conv) (k : Fin 8) (sc : Bool) :
    List (Option (Nat × Nat × Nat)) :=
  let r := c.readH hr
  let h := hdesc r.desc
  let t := inForce h v
  let x := coords c cb h.rank
  let l := t.locInt x
  let a := ((t.base : Int) + l / 8).emod (2 ^ 64) |>.toNat
  [trapIf (decide (l % (blockBits t : Int) ≠ 0)) 0x04 a a,
   boundsTrap c hr [x],
   handleTrap (h.bounds && (h.outDim x).isNone
     && (blockCells t l.toNat).any (fun z => !inStore t z && (c.readK k).getLsbD (z.dst / 32))) 8 r.index hr.val 0,
   handleTrap (sc && h.tag != 5) 5 r.index hr.val 0]

/-- The active cells of a block, in the store and beyond it. -/
def activeCells (c : Ctx) (t : HDesc) (l : Nat) (k : Fin 8) (inside : Bool) : List Cell :=
  (blockCells t l).filter (fun z => (c.readK k).getLsbD (z.dst / 32) && inStore t z == inside)

/-- The scale registers of a block and the bytes each holds (R221). -/
def scaleRuns (h : HDesc) (x : List Nat) (sr : Fin 31) : List ScaleRun :=
  let k := h.scaleIndex x
  let n := fun (k : Nat) => Nat.min 8 (h.blocks - k)
  let first : Fin 32 := ⟨sr.val, by omega⟩
  ⟨first, h.scaleBase + k, n k⟩ :: (if tyWidth h.ty = 4 then [⟨first + 1, h.scaleBase + k + 8, n (k + 8)⟩] else [])

/-- The unit of a block whose active lanes hold elements; lanes of storage padding touch none (R211). -/
def blockUnit (h t : HDesc) (l : Nat) (kw : Word) : List Nat :=
  if (oldCells h t l).any (fun z => kw.getLsbD (z.dst / 32)) then [l / 8 / 32768] else []

/-- Write free bytes where a block of an Old unit has padding. -/
def padRegister (s : State) (d : Fin 32) (k : Fin 8) (cs : List Cell) : State :=
  let hit := fun (b : Nat) => cs.any (fun c => decide (c.dst < 8 * b + 8) && decide (8 * b < c.dst + c.cw))
  { s.modCtx s.cur (fun c => c.writeV d ((List.range 256).foldl (fun (v : VReg) b =>
      if (c.readK k).getLsbD (b / 4) && !hit b then
        { bits := BitVec.ofNat 2048 (putBits v.bits.toNat (8 * b) 8 (Config.padByte s.freeCtr b).toNat)
          poison := setBit v.poison (b / 4) false }
      else v) (c.readV d))) with freeCtr := s.freeCtr + 1 }

def execLdtb (hd : Hdr) (d : Fin 32) (hr : Fin 16) (cb : Fin 32) (ty : Ty) (k : Fin 8) (cp : Fin 4) (sc : Bool)
    (sr : Fin 31) (s : State) : Out :=
  let h0 := hdesc ((s.ctx s.cur).readH hr).desc
  issue (.ldtb hd d hr cb ty k cp sc sr) ((coordRegs cb h0.rank).map .s) s fun s =>
    let c := s.me
    let h := hdesc (c.readH hr).desc
    let idx := (c.readH hr).index
    let v := convFor s hr
    let t := inForce h v
    let x := coords c cb h.rank
    let l := t.loc (toNats x)
    orTrap (tensorTraps c hr cb ty ++ blockTraps c hr cb v k sc) <|
      if (h.outDim x).isSome then
        (handleRead s h idx d cp ((blockCells t 0).filter (fun z => (c.readK k).getLsbD (z.dst / 32))) [] []).map (fun s =>
          if sc then (scaleRuns h (toNats x) sr).foldl (fun s r => s.modCtx s.cur (fun c => c.writeS r.reg 0 false)) s else s)
      else
        let rs := if sc then scaleRuns h (toNats x) sr else []
        let beyond := activeCells c t l k false
        let stored := (activeCells c t l k true).map (fun z => { z with bit := 8 * t.base + z.bit })
        match v with
        | some v' =>
          if unitsHold v (blockUnit h t l (c.readK k)) then .hold
          else if v'.unitState (l / 8 / 32768) = .new then handleRead s h idx d cp beyond stored []
          else
            let cs := (oldCells h t l).filter (fun z => (c.readK k).getLsbD (z.dst / 32))
            handleRead (padRegister s d k cs) h idx d cp beyond cs []
        | none => handleRead s h idx d cp beyond stored rs

/-- A write to an Old unit demands it and waits in the memory interface (R211, R222). -/
def execSttb (hd : Hdr) (d : Fin 32) (hr : Fin 16) (cb : Fin 32) (ty : Ty) (k : Fin 8) (cp : Fin 4) (sc : Bool)
    (sr : Fin 31) (s : State) : Out :=
  let h0 := hdesc ((s.ctx s.cur).readH hr).desc
  issue (.sttb hd d hr cb ty k cp sc sr) ((coordRegs cb h0.rank).map .s ++ [.v d]) s fun s =>
    let c := s.me
    let h := hdesc (c.readH hr).desc
    let v := convFor s hr
    let t := inForce h v
    let x := coords c cb h.rank
    let l := t.loc (toNats x)
    let first : Fin 32 := ⟨sr.val, by omega⟩
    orTrap (tensorTraps c hr cb ty
        ++ [storePoison c d .n32 ((List.range 64).filter (fun j => (c.readK k).getLsbD j)),
            if sc then poisonS c (if tyWidth h.ty = 4 then [first, first + 1] else [first]) else none]
        ++ blockTraps c hr cb v k sc) <|
      if (h.outDim x).isSome then .done s
      else
        let rs := if sc then scaleRuns h (toNats x) sr else []
        let us := match v with | some _ => blockUnit h t l (c.readK k) | none => []
        (handleWrite s h (c.readH hr).index d cp
          ((activeCells c t l k true).map (fun z => { z with bit := 8 * t.base + z.bit })) rs (writeHeld v us)).map
            (fun s => s.demand v us)

/-! ### hrelayout, hwait, hstat (R215, R223, R224) -/

/-- The stream slot is free for a completion token and produces an edge (R215). -/
def slotFree (s : State) (slot : Fin 16) : Bool :=
  match s.cur, s.launchOf s.cur with
  | .tile t c, some l =>
    let ss := s.me.ss.get slot
    ss.stat.state ≤ 1 && ss.held.isNone && l.edges.any (fun e => e.src == .stream t c slot)
  | _, _ => false

/-- Two byte ranges meet. -/
def storesMeet (a n b m : Nat) : Bool := decide (a < b + m) && decide (b < a + n)

/-- A relayout is refused (R215). -/
def relayoutRefused (s : State) (d : BitVec 1024) (tag newBase : Nat) (cslot : Option (Fin 16)) : Bool :=
  let h := hdesc d
  let t := hdesc (targetDesc d tag newBase)
  let units := ceilDiv t.size 32768
  h.space || h.tag == 4 || h.tag == 5 || tag == 4 || tag == 5 || !tagRank tag h.rank || !tagTy tag h.tyCode
  || !t.pitchOk || (tag == 7 && decide (4 ≤ h.ntparam)) || h.map == 0 || decide (2 ^ 56 < h.map + mapBytes units) || newBase % 32768 != 0
  || decide (2 ^ 56 < newBase + t.size) || storesMeet h.base h.size newBase t.size || decide (2 ^ 24 - 1 < units)
  || (match cslot with | some n => !slotFree s n | none => false)

/-- The partition's conversions in progress. -/
def State.convCount (s : State) (q : Fin 32) : Nat := (s.convs.filter (fun v => v.q == q && !v.pushing)).length

/-- The hardware fields when a relayout starts (R223). -/
def startFields (tag newBase units : Nat) (cslot : Option (Fin 16)) (d : BitVec 1024) : BitVec 1024 :=
  let d1 := dPut (dPut (dPut (dPut d 104 0 64 newBase) 112 0 8 (tag + 16)) 116 0 32 units) 120 0 32 0
  dPut d1 113 0 8 (match cslot with | some n => n.val + 16 | none => 0)

/-- The clusters of a partition. -/
def State.clustersOf (s : State) (q : Fin 32) : BitVec 32 :=
  match s.parts.find? (fun p => p.q == q) with | some p => p.clusters | none => 0

/-- The first cluster of a partition. -/
def State.firstCluster (s : State) (q : Fin 32) : Fin 32 :=
  ((List.finRange 32).find? (fun i => (s.clustersOf q).getLsbD i.val)).getD 0

/-- A write of map bytes waits at its walker, or for its line. -/
def waitMap (s : State) (w : MapWrite) : State := { s with mapWrites := s.mapWrites ++ [{ w with tok := none }] }

/-- A write of map bytes that has met a missing page: it takes a place in the replay queue when there is
room, and waits at its walker otherwise (R209, R394). -/
def parkMap (s : State) (w : MapWrite) (level : Nat) : State :=
  if s.replayRoom (.conv w.cluster) then
    let (tok, s1) := s.park (.conv w.cluster) (mctxOf w.q w.c) .write w.addr level
    { s1 with mapWrites := s1.mapWrites ++ [{ w with tok := some tok }] }
  else waitMap s w

/-- A map write is dropped, and recorded with the channel group of its engine (R209, R457). -/
def dropMapWrite (s : State) (w : MapWrite) : State := s.logError (dieOfCluster w.cluster) 6 32 w.cluster.val 0 w.addr

/-- The newest bytes of the map go with the writes of the same bytes that still wait. -/
def refreshMap (s : State) (w : MapWrite) : State :=
  { s with mapWrites := s.mapWrites.map (fun y =>
      if y.q == w.q && y.c == w.c then
        { y with bytes := y.bytes.zipIdx.map (fun b =>
            if w.addr ≤ y.addr + b.2 ∧ y.addr + b.2 < w.addr + w.bytes.length then w.bytes.getD (y.addr + b.2 - w.addr) 0 else b.1) }
      else y) }

/-- Write bytes of a unit-state map that lie in one line, under CP 0: a missing page parks the write; another
failure, or the loss of its stack, drops it (R209, R432); a line that misses, or a walk, holds it (R263). -/
def putMap (s : State) (w : MapWrite) : State :=
  let m := mctxOf w.q w.c
  match s.unitWalk w.cluster m w.addr with
  | some s1 => waitMap s1 w
  | none =>
    match s.translate none w.cluster m .write w.addr with
    | .ok x =>
      let s := s.walked w.cluster m w.addr
      if !s.reachable x.pa then dropMapWrite s w
      else if s.mayEnter x.pa w.bytes.length 0 then
        (s.touch x.pa w.bytes.length 0 m .plain).writePa x.key x.pa w.bytes (List.replicate w.bytes.length true)
      else waitMap (s.askLines x.pa w.bytes.length 0 m .plain) w
    | .missing lv => parkMap s w lv
    | .fault _ _ _ => dropMapWrite s w

/-- The channel group whose engine converts a unit of a target store (R210). -/
def engineOf (s : State) (q : Fin 32) (c : Fin 4) (base u : Nat) : Option (Fin 32) :=
  match s.translate none (s.firstCluster q) (mctxOf q c) .write (base + 32768 * u) with
  | .ok x => if targetOf x.pa = some .hbm then some (cgOf x.pa) else none
  | _ => none

/-- The map of unit states starts all Old (R209, R223), line by line: the engine of a line's first unit writes it,
that of partition channel group 0 where the unit's page has none. -/
def clearMap (s : State) (q : Fin 32) (c : Fin 4) (base map units : Nat) : State :=
  (linesOf map (mapBytes units)).foldl (fun s l =>
    let lo := Max.max map (l * 128)
    let w : MapWrite := { tok := none, q := q, c := c, cluster := (engineOf s q c base (4 * (lo - map))).getD (s.firstCluster q), addr := lo,
                          bytes := List.replicate (Min.min (map + mapBytes units) (l * 128 + 128) - lo) 0 }
    putMap (refreshMap s w) w) s

/-- Start a conversion. -/
def startConv (s : State) (l : Launch) (idx tag newBase : Nat) (d : BitVec 1024) (cslot : Option (Fin 16)) : State :=
  let t := targetDesc d tag newBase
  let units := ceilDiv (hdesc t).size 32768
  let s1 := s.updEntry l.q l.c idx (startFields tag newBase units cslot)
  let cv : Conv := {
    id := s.nextConv, q := l.q, c := l.c, index := idx, old := d, target := t, issuer := s.cur,
    by_ := s.issued s.cur, acks := 0, done := [], busy := [], parked := [], cslot := cslot, pushing := false }
  let s2 := { s1 with convs := s1.convs ++ [cv], nextConv := s1.nextConv + 1 }
  let s3 := match cslot with
    | some n => s2.modCtx s.cur (fun c => { c with ss := vset c.ss n { c.ss.get n with held := some cv.id } })
    | none => s2
  clearMap s3 l.q l.c (hdesc t).base (hdesc d).map units

def execHrelayout (hd : Hdr) (d a : Fin 32) (hr : Fin 16) (tag : Fin 8) (cslot : Fin 16) (ctok nb : Bool) (s : State) : Out :=
  issue (.hrelayout hd d a hr tag cslot ctok nb) [.s a] s fun s =>
    let c := s.me
    let r := c.readH hr
    let h := hdesc r.desc
    let newBase := (c.readS a).toNat
    let slot := if ctok then some cslot else none
    orTrap (regTraps c hr ++ [brokenTrap c hr, poisonS c [a],
        handleTrap (relayoutRefused s r.desc tag.val newBase slot) 11 r.index hr.val 0]) <|
      match s.launchOf s.cur with
      | none => .hold
      | some l =>
        let full := decide (64 ≤ s.convCount l.q)
        if h.cstate = 1 ∨ full then
          if nb then s.onCtx fun c => c.writeS d (if h.cstate = 1 then 1 else 2) false else .hold
        else
          afterDrain s <|
            let s1 := startConv s l r.index tag.val newBase r.desc slot
            .done (if nb then s1.modCtx s.cur (fun c => c.writeS d 0 false) else s1)

def execHwait (hd : Hdr) (hr : Fin 16) (s : State) : Out :=
  issue (.hwait hd hr) [] s fun s =>
    orTrap (regTraps s.me hr ++ [brokenTrap s.me hr]) <|
      if (hdesc (s.me.readH hr).desc).cstate = 1 then .hold else .done s

/-- Table 7.7. -/
def hstatWord (d : BitVec 1024) : Word :=
  let h := hdesc d
  BitVec.ofNat 64 (h.cstate + 4 * h.tag + (if h.cstate = 1 then 64 * h.newTag else 0) + 1024 * b2n h.park
    + 2 ^ 12 * (h.done % 2 ^ 24) + 2 ^ 36 * (h.units % 2 ^ 24))

def execHstat (hd : Hdr) (d : Fin 32) (hr : Fin 16) (s : State) : Out :=
  issue (.hstat hd d hr) [] s fun s =>
    orTrap (regTraps s.me hr) <| s.onCtx fun c => c.writeS d (hstatWord (c.readH hr).desc) false

/-! ### Steps of a conversion (R209, R210, R213, R217, R218) -/

/-- The context has a write through a handle of the table, issued under the old state, that has not been performed
(R213): a write that waits for its units was issued under the new one. Raw writes delay nothing (R214). -/
def Ctx.handleWrites (c : Ctx) (idx : Nat) : Bool :=
  c.reqs.any (fun r => r.stage.open_ && r.via.contains idx && r.unit.isNone && (match r.op with | .store .. | .merge .. => true | _ => false))
  || c.wcb.any (fun w => w.via.contains idx)

/-- RELAYOUT_ACKNOWLEDGEMENT: a cluster acknowledges once its handle writes under the old state are performed. -/
def execRelayoutAcknowledgement (conv : Nat) (cl : Fin 32) (s : State) : Out :=
  match s.convs.find? (fun v => v.id == conv) with
  | none => .next s
  | some v =>
    let busy := (List.finRange 8).any (fun i => ((s.tile ⟨cl.val * 8 + i.val, by omega⟩).ctx.get v.c).handleWrites v.index)
    if (s.clustersOf v.q).getLsbD cl.val && !busy then
      .next { s with convs := s.convs.map (fun x => if x.id = conv then { x with acks := setBit x.acks cl.val true } else x) }
    else .next s

/-- Replace a conversion. -/
def State.setConv (s : State) (v : Conv) : State :=
  { s with convs := s.convs.map (fun x => if x.id = v.id then v else x) }

/-- The engine of a channel group writes a unit's state to the map (R209). -/
def writeMap (s : State) (v : Conv) (cg : Fin 32) (u : Nat) : State :=
  let code := fun (i : Nat) => match v.unitState (u / 4 * 4 + i) with | .old => 0 | .converting => 1 | .new => 2
  let w : MapWrite := { tok := none, q := v.q, c := v.c, cluster := cg, addr := (hdesc v.old).map + u / 4,
                        bytes := [BitVec.ofNat 8 (code 0 + 4 * code 1 + 16 * code 2 + 64 * code 3)] }
  putMap (refreshMap s w) w

/-- A conversion is over: its demands go, its parked units leave the replay queue, and its stream slot is
free. -/
def endConv (s : State) (v : Conv) : State :=
  let s1 := { s with convs := s.convs.filter (fun x => x.id != v.id), demands := s.demands.filter (fun d => d.1 != v.id) }
  let s2 := v.parked.foldl (fun s p => s.unpark p.2) s1
  match v.cslot with
  | some n => s2.modCtx v.issuer (fun x => { x with ss := vset x.ss n { x.ss.get n with held := none } })
  | none => s2

/-- The handle of a conversion is broken (R219). -/
def breakHandle (s : State) (v : Conv) : State :=
  (endConv s v).updEntry v.q v.c v.index (fun d => dPut d 112 4 2 2)

/-- The conversion of a handle breaks, and the failure is recorded (R217). -/
def breakConv (s : State) (v : Conv) (cg : Fin 32) (step va : Nat) : State :=
  (breakHandle s v).logError (dieOfCluster cg) 6 (16 + step) cg.val 0 va

/-- A page that a conversion needs: its address, or what stops it. -/
def convPage (s : State) (v : Conv) (cl : Fin 32) (k : Kind) (va : Nat) : Xlat :=
  match s.translate none cl (mctxOf v.q v.c) k va with
  | .ok x =>
    match (hdesc v.old).expect with
    | some e => if x.slot = e then .ok x else .fault 6 0x13 0
    | none => .ok x
  | r => r

/-- The channel group whose engine converts a unit (R210). -/
def unitCg (s : State) (v : Conv) (u : Nat) : Option (Fin 32) :=
  match convPage s v (s.firstCluster v.q) .write ((hdesc v.target).base + 32768 * u) with
  | .ok _ => engineOf s v.q v.c (hdesc v.target).base u
  | _ => none

/-- A unit that no engine has taken. -/
def Conv.waiting (v : Conv) (u : Nat) : Bool := v.unitState u = .old && !v.parked.any (fun p => p.1 == u)

/-- The engine of a channel group may take the unit. -/
def takable (s : State) (v : Conv) (cg : Fin 32) (u : Nat) : Bool := v.waiting u && unitCg s v u == some cg

/-- The conversion's units. -/
def Conv.units (v : Conv) : Nat := ceilDiv (hdesc v.target).size 32768

/-- The least unit of a handle that the engine may take (R210). -/
def lowestUnit (s : State) (v : Conv) (cg : Fin 32) : Option Nat := (List.range v.units).find? (takable s v cg)

/-- Every cluster has acknowledged and the issuer's earlier accesses are performed (R212, R213). -/
def convReady (s : State) (v : Conv) : Bool :=
  v.acks == s.clustersOf v.q && !olderAccess (s.ctx v.issuer) v.by_.order && !olderStore (s.ctx v.issuer) v.by_.order && !v.pushing

/-- The unit an engine takes next: a demanded one, in order of arrival; else the lowest of the handle whose
turn it is, the handles in conversion going round by number after the one served last (R210). -/
def engineNext (s : State) (cg : Fin 32) : Option (Conv × Nat) :=
  let can := fun (v : Conv) => convReady s v
  match s.demands.findSome? (fun d => (s.convs.find? (fun v => v.id == d.1 && can v && takable s v cg d.2)).map (fun v => (v, d.2))) with
  | some x => some x
  | none =>
    let last := (s.clusters.get cg).convLast
    let later := s.convs.filter (fun v => match last with | some n => decide (n < v.id) | none => true)
    let sooner := s.convs.filter (fun v => match last with | some n => decide (v.id ≤ n) | none => false)
    (later ++ sooner).findSome? (fun v => if can v then (lowestUnit s v cg).map (fun u => (v, u)) else none)

/-- The elements of a unit. -/
def unitElems (v : Conv) (u : Nat) : List (List Nat) := (allCoords (hdesc v.old)).filter (fun x => v.unitOf x == u)

/-- Park a unit on a page: it is Old again and PARK is set; without room in the replay queue it waits (R217,
R394). -/
def parkUnit (s : State) (v : Conv) (cl : Fin 32) (k : Kind) (u va level : Nat) : State :=
  let v1 := { v with busy := v.busy.filter (fun b => b.1 != u) }
  if s.replayRoom (.conv cl) then
    let (tok, s1) := s.park (.conv cl) (mctxOf v.q v.c) k va level
    (s1.setConv { v1 with parked := v1.parked ++ [(u, tok)] }).updEntry v.q v.c v.index (fun d => dPut d 112 6 1 1)
  else s.setConv v1

/-- The pages of a unit: its target, then the old bytes of its elements. -/
def unitPages (v : Conv) (u : Nat) : List (Kind × Nat) :=
  (.write, (hdesc v.target).base + 32768 * u)
    :: (unitElems v u).flatMap (fun x => (piecesOf (8 * (hdesc v.old).base + (hdesc v.old).loc x) (hdesc v.old).ws).map (fun p => (.read, p.addr)))

/-- The state after the first page of a unit that stops its engine: the unit parks, or the conversion
breaks; none when every page serves (R217). A lost read of a table leaves the unit as it is (R432). -/
def unitStopped (s : State) (v : Conv) (cg : Fin 32) (u : Nat) : Option State :=
  (unitPages v u).findSome? (fun p => match convPage s v cg p.1 p.2 with
    | .missing lv => some (writeMap (parkUnit s v cg p.1 u p.2 lv) { v with busy := v.busy.filter (fun b => b.1 != u) } cg u)
    | .fault st cause _ => some (if cause = 0x12 then s else breakConv s v cg st p.2)
    | .ok _ => none)

/-- The first walk of a unit's pages that waits (R391). -/
def unitWalks (s : State) (v : Conv) (cg : Fin 32) (u : Nat) : Option State :=
  (unitPages v u).findSome? (fun p => s.unitWalk cg (mctxOf v.q v.c) p.2)

/-- The accesses of a unit at physical addresses, once its pages serve: the reads of its elements, and the write of
its target. -/
def unitAccesses (s : State) (v : Conv) (cg : Fin 32) (u : Nat) : List (Nat × Nat) :=
  let pa := fun (k : Kind) (va n : Nat) => match convPage s v cg k va with | .ok x => [(x.pa, n)] | _ => []
  (unitElems v u).flatMap (fun x => (piecesOf (8 * (hdesc v.old).base + (hdesc v.old).loc x) (hdesc v.old).ws).flatMap
      (fun p => pa .read p.addr p.len))
    ++ pa .write ((hdesc v.target).base + 32768 * u) (Nat.min 32768 ((hdesc v.target).size - 32768 * u))

/-- What a unit being converted waits for: a request to a stack without power never returns, so that the unit
stays as it is until its launch ends (R219, R432); a line that misses is asked for (R263). -/
def unitHeld (s : State) (v : Conv) (cg : Fin 32) (u : Nat) : Option State :=
  let xs := unitAccesses s v cg u
  if xs.any (fun a => !s.reachable a.1) then some s
  else (xs.find? (fun a => !s.mayEnter a.1 a.2 0)).map (fun a => s.askLines a.1 a.2 0 (mctxOf v.q v.c) .plain)

/-- The slices pass the walks and the accesses of a unit, under CP 0. -/
def passUnit (s : State) (v : Conv) (cg : Fin 32) (u : Nat) : State :=
  let s1 := (unitPages v u).foldl (fun s p => s.walked cg (mctxOf v.q v.c) p.2) s
  (unitAccesses s v cg u).foldl (fun s a => s.touch a.1 a.2 0 (mctxOf v.q v.c) .plain) s1

/-- CONVERSION_UNIT_START: the engine of the unit's channel group takes it, or it parks, or the
conversion breaks. -/
def execConversionUnitStart (conv u : Nat) (s : State) : Out :=
  match s.convs.find? (fun v => v.id == conv) with
  | none => .next s
  | some v =>
    if !convReady s v || !v.waiting u || decide (v.units ≤ u) then .next s
    else
      let va := (hdesc v.target).base + 32768 * u
      let c0 := s.firstCluster v.q
      match s.unitWalk c0 (mctxOf v.q v.c) va with
      | some s1 => .next s1
      | none =>
      match convPage s v c0 .write va with
      | .missing lv => .next (parkUnit s v c0 .write u va lv)
      | .fault step cause _ => .next (if cause = 0x12 then s else breakConv s v c0 step va)
      | .ok x =>
        let cg := cgOf x.pa
        if targetOf x.pa ≠ some .hbm then .next (breakConv s v c0 5 va)
        else if s.convs.any (fun w => w.busy.any (fun b => b.2 == cg)) then .next s
        else if (engineNext s cg).map (fun x => (x.1.id, x.2)) ≠ some (conv, u) then .next s
        else
          match unitWalks s v cg u, unitStopped s v cg u with
          | some s1, _ => .next s1
          | none, some s1 => .next s1
          | none, none =>
            let v' := { v with busy := v.busy ++ [(u, cg)] }
            .next (writeMap ((s.setConv v').modCluster cg (fun x => { x with convLast := some conv })) v' cg u)

/-- Read w bits of an element of the old store: value and poison. -/
def oldElem (s : State) (v : Conv) (cg : Fin 32) (x : List Nat) : Nat × Bool :=
  let h := hdesc v.old
  (piecesOf (8 * h.base + h.loc x) h.ws).foldl (fun r p =>
    match convPage s v cg .read p.addr with
    | .ok y =>
      let (bs, po, _) := s.readPa y.key y.pa p.len
      (r.1 + bitsAt (leNat bs) p.shift p.w * 2 ^ p.off, r.2 || po.any id)
    | _ => r) (0, false)

/-- The bytes of a unit in the target, with poison; padding is left open. -/
def unitBytes (s : State) (v : Conv) (cg : Fin 32) (u : Nat) : List Byte × List Bool :=
  let t := hdesc v.target
  let n := Nat.min 32768 (t.size - 32768 * u)
  let start := leNat ((List.range n).map (fun i => Config.padByte s.freeCtr i))
  let r := (unitElems v u).foldl (fun (r : Nat × List (Nat × Nat)) x =>
    let e := oldElem s v cg x
    let o := t.loc x - 8 * 32768 * u
    (putBits r.1 o t.ws e.1, if e.2 then (o / 8, (o + t.ws - 1) / 8) :: r.2 else r.2)) (start, [])
  (leBytes n r.1, (List.range n).map (fun i => r.2.any (fun p => decide (p.1 ≤ i) && decide (i ≤ p.2))))

/-- Push the completion token of conversions whose edge has a credit (R218). -/
def pushConvTokens (s : State) : State :=
  s.convs.foldl (fun s v =>
    match v.pushing, v.issuer, v.cslot with
    | true, .tile t c, some slot =>
      match s.launches.find? (fun l => l.q == v.q && l.c == v.c) with
      | none => s
      | some l =>
        match l.edges.find? (fun e => e.src == .stream t c slot) with
        | none => s
        | some e =>
          if e.credits = 0 then s
          else
            let tok : Token := ⟨(hstatWord v.target).zeroExtend 512, false, false, v.c⟩
            let s1 := s.modLaunch v.q v.c (fun l => l.modEdge e.num (fun e =>
              { e with inflight := e.inflight ++ [tok], credits := e.credits - 1 }))
            endConv s1 v
    | _, _, _ => s) s

/-- The layout of a descriptor: BASE, TAG, the pitches and TPARAM of another, and no conversion (R218). -/
def takeLayout (t d : BitVec 1024) : BitVec 1024 :=
  let d1 := dPut (dPut (dPut d 0 0 64 (dBits t 0 0 64)) 18 0 4 (dBits t 18 0 4)) 84 0 32 (dBits t 84 0 32)
  let d2 := (List.range 5).foldl (fun x i => dPut x (44 + 8 * i) 0 64 (dBits t (44 + 8 * i) 0 64)) d1
  dPut d2 104 0 192 0

/-- Completion (R218): the new layout stands in the entry and in every register that holds it. -/
def completeConv (s : State) (v : Conv) : State :=
  let s1 := s.updEntry v.q v.c v.index (takeLayout v.target)
  if v.cslot.isSome then pushConvTokens (s1.setConv { v with pushing := true }) else endConv s1 v

/-- The engine writes a unit's bytes to its target, and the unit turns New: its demand is served (R210). -/
def turnNew (s : State) (v : Conv) (cg : Fin 32) (u : Nat) (x : Xlated) : State :=
  let (bs, po) := unitBytes s v cg u
  let s1 := { s.writePa x.key x.pa bs (List.replicate bs.length true) with
    freeCtr := s.freeCtr + 1, demands := s.demands.filter (fun d => d != (v.id, u)) }
  let s2 := po.zipIdx.foldl (fun s p => if p.1 then s.poisonPa (x.pa + p.2) 1 else s) s1
  let v' := { v with done := v.done ++ [u], busy := v.busy.filter (fun b => b.1 != u) }
  let s3 := (s2.setConv v').updEntry v.q v.c v.index (fun d => dPut d 120 0 32 v'.done.length)
  let s4 := writeMap s3 v' cg u
  if v'.done.length = v.units then completeConv s4 v' else s4

/-- CONVERSION_UNIT_DONE: the unit's target writes finish and it turns New; a page that serves no longer
parks the unit or breaks the conversion. -/
def execConversionUnitDone (conv u : Nat) (s : State) : Out :=
  match s.convs.find? (fun v => v.id == conv) with
  | none => .next s
  | some v =>
    match v.busy.find? (fun b => b.1 == u) with
    | none => .next s
    | some (_, cg) =>
      match unitWalks s v cg u with
      | some s1 => .next s1
      | none =>
        match unitStopped s v cg u, convPage s v cg .write ((hdesc v.target).base + 32768 * u) with
        | some s1, _ => .next s1
        | none, .ok x =>
          match unitHeld s v cg u with
          | some s1 => .next s1
          | none => .next (turnNew (passUnit s v cg u) v cg u x)
        | none, _ => .next s

end Sys2Proof.Machine
end

