-- ==== Sys2Proof/Machine/Operators.lean ====
section
/-! DEFINITION. The four operators of Table 17.3: what each emits, as a function of the tokens on its inputs
(spec/17_program_attention.md R442; R359). An operator emits the tokens of a block when the block's inputs are
complete (DEDUCED, log 7). -/

namespace Sys2Proof.Machine

/-! ### Tokens and blocks -/

/-- A token that an operator emits. -/
abbrev RgOut := BitVec 512 × Bool

/-- The tokens accepted on a port, in order. -/
def portTokens (h : List RgToken) (m : Fin 14) : List RgToken := h.filter (fun t => t.port == m)

/-- The complete blocks of n tokens of an input. -/
def tokenBlocks (n : Nat) : Nat → List RgToken → List (List RgToken)
  | 0, _ => []
  | k + 1, ts => if ts.length < n ∨ n = 0 then [] else ts.take n :: tokenBlocks n k (ts.drop n)

/-- The blocks of an input of an operator. -/
def inBlocks (h : List RgToken) (m : Fin 14) (n : Nat) : List (List RgToken) := let ts := portTokens h m; tokenBlocks n ts.length ts

/-- A block ends with end-of-stream. -/
def blockEos (ts : List RgToken) : Bool := match ts.getLast? with | some t => t.eos | none => false

/-- Field i of w bits of a block: its 64-byte tokens one after another. -/
def blockField (ts : List RgToken) (w i : Nat) : Nat :=
  match ts[i * w / 512]? with
  | some t => bitsAt t.bits.toNat (i * w % 512) w
  | none => 0

/-- Tokens of fields of w bits each, in order; the last one carries end-of-stream where the block did. -/
def blockTokens (w : Nat) (xs : List Nat) (eos : Bool) : List RgOut :=
  let per := 512 / w
  let n := ceilDiv xs.length per
  (List.range n).map (fun i =>
    (BitVec.ofNat 512 (((xs.drop (per * i)).take per).foldr (fun x a => x % 2 ^ w + 2 ^ w * a) 0), eos && i + 1 == n))

/-! ### kdec: e2m1 to bf16, transposed -/

/-- A block of 64 keys of 64 e2m1 elements, 32 bytes a key: row h of the transpose as the bf16 values of keys 0 to 63. -/
def kdecBlock (ts : List RgToken) : List RgOut :=
  let elem := fun (n h : Nat) => (roundRNE .bf16 (decodeElem .e2m1 (blockField ts 4 (64 * n + h)))).1
  blockTokens 16 ((List.range 64).flatMap (fun h => (List.range 64).map (fun n => elem n h))) (blockEos ts)

/-! ### smax: the running row maximum and the probabilities -/

/-- −∞ in f32. -/
def negInf32 : Nat := 0xFF800000

/-- 2^x of an exact value, as R190 has it of an f32 one (DEDUCED, log 7). -/
def pow2 (r : RVal) : RVal :=
  match r.v with
  | .nan => r
  | .inf neg => ⟨if neg then .fin false 0 0 else .inf false, r.undef⟩
  | .fin n m e => ⟨exp2Val n m e, r.undef⟩

/-- The difference of two f32 encodings. -/
def diff32 (a b : Nat) : RVal := sumVals [decodeElem .f32 a, (decodeElem .f32 b).neg]

/-- What a row gives: the new maximum, α, the probabilities and their sum. -/
structure SmaxRow where
  m : Nat
  alpha : Nat
  p : List Nat
  r : Nat

/-- A row of 64 scores under the maximum so far; α is rounded to f32 (DEDUCED, log 7). -/
def smaxRow (m : Nat) (ss : List Nat) : SmaxRow :=
  let mb := (ss.drop 1).foldl (maxBits .f32) (ss.headD negInf32)
  let m1 := maxBits .f32 m mb
  let p := ss.map (fun s => (finish .bf16 (pow2 (diff32 s m1))).1)
  { m := m1
    alpha := if m = negInf32 then 0 else (finish .f32 (pow2 (diff32 m m1))).1
    p := p
    r := (finish .f32 (sumVals (p.map (decodeElem .bf16)))).1 }

/-- A block of 128 rows: the new maxima, the tokens of P in tag-2 order and those of (α, r). -/
def smaxBlock (ms : List Nat) (ts : List RgToken) : List Nat × List RgOut × List RgOut :=
  let rows := (List.range 128).map (fun i => smaxRow (ms.getD i negInf32) ((List.range 64).map (fun k => blockField ts 32 (64 * i + k))))
  let p := (List.range 64).flatMap (fun k => rows.map (fun x => x.p.getD k 0))
  let eos := blockEos ts
  (if eos then [] else rows.map (fun x => x.m),
    blockTokens 16 p eos, blockTokens 32 (rows.flatMap (fun x => [x.alpha, x.r])) eos)

/-- Blocks in order: P's tokens and those of (α, r), with the maxima that stand after them. -/
def smaxBlocks (ms : List Nat) : List (List RgToken) → List Nat × List RgOut × List RgOut
  | [] => (ms, [], [])
  | b :: bs =>
    let x := smaxBlock ms b
    let y := smaxBlocks x.1 bs
    (y.1, x.2.1 ++ y.2.1, x.2.2 ++ y.2.2)

/-! ### rfb: the rescale factors and the row sums -/

/-- A block of 128 pairs (α, r): the row sums after it, the α vector, and the l vector after the last block. -/
def rfbBlock (ls : List Nat) (ts : List RgToken) : List Nat × List RgOut × List RgOut :=
  let alpha := fun (i : Nat) => blockField ts 32 (2 * i)
  let l := (List.range 128).map (fun i =>
    (finish .f32 (fusedSum [(decodeElem .f32 (ls.getD i 0), decodeElem .f32 (alpha i))] [decodeElem .f32 (blockField ts 32 (2 * i + 1))])).1)
  let eos := blockEos ts
  (if eos then [] else l, blockTokens 32 ((List.range 128).map alpha) eos, if eos then blockTokens 32 l true else [])

/-- Blocks in order: the tokens of α and of l, with the sums that stand after them. -/
def rfbBlocks (ls : List Nat) : List (List RgToken) → List Nat × List RgOut × List RgOut
  | [] => (ls, [], [])
  | b :: bs =>
    let x := rfbBlock ls b
    let y := rfbBlocks x.1 bs
    (y.1, x.2.1 ++ y.2.1, x.2.2 ++ y.2.2)

/-! ### norm: the quotients -/

/-- o / l to bf16; where o or l is not finite, or l is zero, the spec states no value (log 4). -/
def quotBits (o l : Nat) : Nat :=
  match decodeElem .f32 o, decodeElem .f32 l with
  | .fin n m e, .fin k (d + 1) f =>
    let q := m * 2 ^ 200 / (d + 1)
    (roundRNE .bf16 (.fin (n != k) (2 * q + b2n (q * (d + 1) != m * 2 ^ 200)) (e - f - 201))).1
  | _, _ => (Config.attnQuot (BitVec.ofNat 32 o) (BitVec.ofNat 32 l)).toNat

/-- A block of 128 rows of 64 f32 values and the row sums. -/
def normBlock (o l : List RgToken) : List RgOut :=
  blockTokens 16 ((List.range 128).flatMap (fun i => (List.range 64).map (fun k => quotBits (blockField o 32 (64 * i + k)) (blockField l 32 i))))
    (blockEos o || blockEos l)

/-! ### What an operator emits, and when it is idle (R359) -/

/-- The tokens that an operator's inputs so far make it emit on a port. -/
def attnOuts (op : AttnOp) (h : List RgToken) (port : Fin 14) : List RgOut :=
  match op with
  | .kdec => if port = 4 then (inBlocks h 0 32).flatMap kdecBlock else []
  | .smax => let x := smaxBlocks [] (inBlocks h 0 512); if port = 4 then x.2.1 else if port = 5 then x.2.2 else []
  | .rfb => let x := rfbBlocks [] (inBlocks h 0 16); if port = 4 then x.2.1 else if port = 5 then x.2.2 else []
  | .norm => if port = 4 then ((inBlocks h 0 512).zip (inBlocks h 1 8)).flatMap (fun x => normBlock x.1 x.2) else []

/-- The operator holds consumed tokens whose outputs are not owed yet, or a state that a block left. -/
def attnHolds (op : AttnOp) (h : List RgToken) : Bool :=
  let rest := fun (m : Fin 14) (n : Nat) => (portTokens h m).length % n != 0
  match op with
  | .kdec => rest 0 32
  | .smax => rest 0 512 || !(smaxBlocks [] (inBlocks h 0 512)).1.isEmpty
  | .rfb => rest 0 16 || !(rfbBlocks [] (inBlocks h 0 16)).1.isEmpty
  | .norm => rest 0 512 || rest 1 8 || (inBlocks h 0 512).length != (inBlocks h 1 8).length

/-- What an operator has accepted, as the operator functions of Config take it. -/
def RgOp.view (o : RgOp) : List (Nat × BitVec 512 × Bool × Bool) := o.hist.map (fun t => (t.port.val, t.bits, t.eos, t.poison))

/-- The next token of an operator on a port: by Table 17.3, or as its configuration has it (R359, R442, log 7). -/
def RgOp.next (o : RgOp) (idhash : BitVec 256) (m : Fin 14) : Option RgOut :=
  let n := (o.emitted.filter (fun p => p == m)).length
  match Config.attnOp idhash with
  | some a => (attnOuts a o.hist m)[n]?
  | none => Config.operatorOut idhash o.view m.val n

/-- The operator asserts idle. -/
def RgOp.idle (o : RgOp) (idhash : BitVec 256) : Bool :=
  match Config.attnOp idhash with
  | some a => !attnHolds a o.hist && [4, 5].all (fun m => decide ((attnOuts a o.hist m).length ≤ (o.emitted.filter (fun p => p == m)).length))
  | none => Config.operatorIdle idhash o.view (o.emitted.map (fun p => p.val))

end Sys2Proof.Machine
end

