-- ==== Sys2Proof/Machine/Routes.lean ====
section
/-! DEFINITION. Routes of the stream networks: where ports attach to the switch boxes, the tracks that a
configuration joins, the route that it makes and its latency (R369 to R372), and what a token becomes on its way
(R353, R369). -/

namespace Sys2Proof.Machine

/-! ### Tracks (R369 to R371) -/

/-- Tracks of a network: 4 on the vector net, 8 on the others. -/
def tracks (elem : Nat) : Nat := if elem / 4096 = 1 then 4 else 8

/-- The clusters that the edge of a cluster in a direction (0 N, 1 E, 2 S, 3 W) joins it to, or the
link adapter (R371, R14); row 0 is the north edge. -/
def edgeJoined (p : Partition) (cl : Fin 32) (d n : Nat) : Bool :=
  let cc := cl.val % 16
  if d = 0 then decide (4 ≤ cc) && p.clusters.getLsbD (cl.val - 4)
  else if d = 1 then cc % 4 == 3 || p.clusters.getLsbD (cl.val + 1)
  else if d = 2 then decide (cc < 12) && p.clusters.getLsbD (cl.val + 4)
  else if cc % 4 = 0 then decide (n < 2) && p.clusters.getLsbD ((cl.val + 16) % 32)
  else p.clusters.getLsbD (cl.val - 1)

/-- The word of an element that stitches an edge of a cluster (Table 13.7). -/
def BoxOut.isEdge (b : BoxOut) : Bool := b.elem / 4096 == 3

/-- The edge of a cluster in a direction is stitched. -/
def stitched (bs : List BoxOut) (cl : Fin 32) (d : Nat) : Bool :=
  bs.any (fun b => b.isEdge && b.cluster == cl && b.field == d && b.code == 1)

/-- Track n of a box in a direction leads to another box of the cluster, or over a stitched edge that joins it
to a cluster of the partition or to a link adapter; the edge is stitched by the field of the cluster that
holds the box (R370, R371, log 53). -/
def trackJoined (p : Partition) (bs : List BoxOut) (cl : Fin 32) (box d n : Nat) : Bool :=
  let inside := if d = 0 then decide (8 ≤ box) else if d = 1 then decide (box % 8 < 7)
    else if d = 2 then decide (box < 56) else decide (0 < box % 8)
  inside || (edgeJoined p cl d n && stitched bs cl d)

/-! ### Ports and routes (R369, R370, R372) -/

/-- A port of a switch box of a cluster: box = row × 8 + col, and the local port. -/
structure Attach where
  cluster : Fin 32
  box : Fin 64
  port : Fin 8
deriving DecidableEq, Repr

def attach (cl : Fin 32) (row col port : Nat) : Attach := ⟨cl, Fin.ofNat 64 (8 * row + col), Fin.ofNat 8 port⟩

/-- Table 13.6: edge port q of a tile, on every network. -/
def tilePort (t : Fin 256) (q : Fin 16) : Attach :=
  let n := t.val % 8
  attach (clusterOfTile t) (2 * (n / 4) + q.val / 8) (1 + 2 * (n % 4)) (q.val % 8)

/-- Table 13.6: port m of a region: 0 to 7 on the vector net, 8 to 11 on the scalar net, 12 and 13 on the
control net. -/
def regionPort (r : Fin 128) (m : Fin 14) : Attach :=
  let cl := Fin.ofNat 32 (r.val / 4)
  let col := 1 + 2 * (r.val % 4)
  if m.val < 8 then attach cl (4 + m.val / 2) col (m.val % 2)
  else if m.val < 12 then attach cl (m.val - 4) col 0
  else attach cl (m.val - 8) col 1

/-- Table 13.6: a slice's interface, and its push program j at local port 1 + j. -/
def slicePort (cl : Fin 32) (n : Fin 10) (push : Option (Fin 4)) : Attach :=
  attach cl (2 * (n.val / 4)) (2 * (n.val % 4)) (match push with | some j => 1 + j.val | none => 0)

/-- Table 13.6: port p of a stream engine. -/
def enginePort (cl : Fin 32) (p : Fin 32) : Attach :=
  attach cl (6 + p.val / 16) (2 * (p.val / 4 % 4)) (4 + p.val % 4)

/-- Where a track out of a box leads: to a box, with a registered seam or a crossing of the seam bridge on the
way, or to the die's link adapter (R371). -/
inductive TrackEnd where
  | box (cl : Fin 32) (box : Fin 64) (seam bridge : Bool)
  | link (cl : Fin 32)
  | nowhere
deriving DecidableEq, Repr

/-- The way of track n of a box in direction d (0 N, 1 E, 2 S, 3 W) under a configuration. -/
def trackTo (p : Partition) (bs : List BoxOut) (cl : Fin 32) (box : Fin 64) (d n : Nat) : TrackEnd :=
  if !trackJoined p bs cl box.val d n then .nowhere
  else
    let row := box.val / 8
    let col := box.val % 8
    if d = 0 then (if row = 0 then .box (cl - 4) (box + 56) true false else .box cl (box - 8) false false)
    else if d = 2 then (if row = 7 then .box (cl + 4) (box - 56) true false else .box cl (box + 8) false false)
    else if d = 1 then
      (if col < 7 then .box cl (box + 1) false false
       else if cl.val % 4 = 3 then .link cl else .box (cl + 1) (box - 7) true false)
    else if 0 < col then .box cl (box - 1) false false
    else if cl.val % 4 = 0 then .box (cl + 16) box false true
    else .box (cl - 1) (box + 7) true false

/-- The direction from which a beat arrives that left a box in direction d; the dies are mirror images, so over
the seam bridge it arrives from the west again (R14). -/
def cameFrom (d : Nat) (bridge : Bool) : Nat := if bridge then d else (d + 2) % 4

/-- The end of a route: a local port, or the link adapter of a cluster; and the boxes, seams and bridge crossings on its way. -/
structure Route where
  last : Option Attach
  link : Option (Fin 32)
  boxes : Nat
  seams : Nat
  bridges : Nat
deriving DecidableEq, Repr

/-- Follow a source code through the boxes of a network, within a number of boxes. -/
def follow (p : Partition) (bs : List BoxOut) (net : Nat) : Nat → Fin 32 → Fin 64 → Nat → Route
  | 0, _, _, _ => ⟨none, none, 0, 0, 0⟩
  | k + 1, cl, box, code =>
    let t := tracks (net * 4096)
    match bs.find? (fun b => b.elem == net * 4096 + box.val && b.cluster == cl && b.code == code) with
    | none => ⟨none, none, 1, 0, 0⟩
    | some b =>
      if 4 * t ≤ b.field then ⟨some ⟨cl, box, Fin.ofNat 8 (b.field - 4 * t)⟩, none, 1, 0, 0⟩
      else
        match trackTo p bs cl box (b.field / t) (b.field % t) with
        | .box cl' box' seam bridge =>
          let r := follow p bs net k cl' box' (1 + cameFrom (b.field / t) bridge * t + b.field % t)
          ⟨r.last, r.link, r.boxes + 1, r.seams + b2n seam, r.bridges + b2n bridge⟩
        | .link c => ⟨none, some c, 1, 0, 0⟩
        | .nowhere => ⟨none, none, 1, 0, 0⟩

/-- The route that a configuration makes from a local port of a network (0 scalar, 1 vector, 2 control). -/
def routeFrom (p : Partition) (bs : List BoxOut) (net : Nat) (a : Attach) : Route :=
  follow p bs net 2048 a.cluster a.box (1 + 4 * tracks (net * 4096) + a.port.val)

/-- The latency of a route in tile cycles, with the cycles of the regions at its ends (R372). -/
def Route.latency (r : Route) (regionEnds regionCycle : Nat) : Nat :=
  2 + r.boxes + r.seams + 12 * r.bridges + 2 + 2 * regionEnds * regionCycle

/-- Follow a route back from the source code of an output through the boxes of a network: the local port or the link
adapter at which it begins. -/
def followBack (p : Partition) (bs : List BoxOut) (net : Nat) : Nat → Fin 32 → Fin 64 → Nat → Route
  | 0, _, _, _ => ⟨none, none, 0, 0, 0⟩
  | k + 1, cl, box, field =>
    let t := tracks (net * 4096)
    match bs.find? (fun b => b.elem == net * 4096 + box.val && b.cluster == cl && b.field == field) with
    | none => ⟨none, none, 1, 0, 0⟩
    | some b =>
      if b.code = 0 then ⟨none, none, 1, 0, 0⟩
      else if 4 * t < b.code then ⟨some ⟨cl, box, Fin.ofNat 8 (b.code - 1 - 4 * t)⟩, none, 1, 0, 0⟩
      else
        let d := (b.code - 1) / t
        match trackTo p bs cl box d ((b.code - 1) % t) with
        | .box cl' box' seam bridge =>
          let r := followBack p bs net k cl' box' (cameFrom d bridge * t + (b.code - 1) % t)
          ⟨r.last, r.link, r.boxes + 1, r.seams + b2n seam, r.bridges + b2n bridge⟩
        | .link c => ⟨none, some c, 1, 0, 0⟩
        | .nowhere => ⟨none, none, 1, 0, 0⟩

/-- The route that a configuration makes to a local port of a network. -/
def routeTo (p : Partition) (bs : List BoxOut) (net : Nat) (a : Attach) : Route :=
  followBack p bs net 2048 a.cluster a.box (4 * tracks (net * 4096) + a.port.val)

/-! ### The routes of an edge -/

/-- Where an end of an edge attaches: a tile's edge port, a region's port, a push program's, or a port of a stream
engine, which a descriptor counts through the partition's clusters (log 5); a link has none. -/
def endAttach (p : Partition) (l : Launch) (port : Nat) : Endpoint → Option Attach
  | .actor i _ => (l.insts.find? (fun x => x.num == i)).map (fun x => tilePort x.tile (Fin.ofNat 16 port))
  | .region r m => some (regionPort r m)
  | .push n j => some (slicePort (Fin.ofNat 32 (n.val / 10)) (Fin.ofNat 10 (n.val % 10)) (some j))
  | .stream _ _ _ | .template _ _ _ => (p.cluster? (port / 32)).map (fun cl => enginePort cl (Fin.ofNat 32 port))
  | .link _ _ => none

/-- The boxes carry an edge: a route leads from its producer's port to its consumer's, or at a link's end from or to
a link adapter (R369 to R371). An edge that stays within a unit needs none. -/
def carried (p : Partition) (bs : List BoxOut) (l : Launch) (e : Edge) : Bool :=
  match e.way with
  | none => true
  | some (net, a, b) =>
    match endAttach p l a e.src, endAttach p l b e.dst with
    | some x, some y => (routeFrom p bs net.val x).last == some y
    | some x, none => (routeFrom p bs net.val x).link.isSome
    | none, some y => (routeTo p bs net.val y).link.isSome
    | none, none => true

/-- The 32-bit beats in which a token of n bytes travels on the scalar net: one, or two for eight bytes (R353, R369). -/
def scalarBeats (n : Nat) (t : Token) : List (BitVec 32) := (List.range (ceilDiv n 4)).map (fun i => BitVec.ofNat 32 (bitsAt t.bits.toNat (32 * i) 32))

/-- The payload of a token that has come in beats of the scalar net. -/
def fromScalar (bs : List (BitVec 32)) : BitVec 512 := BitVec.ofNat 512 (bs.foldr (fun b a => b.toNat + 2 ^ 32 * a) 0)

/-- The 1-bit beat of the control net: bit 0 of the token (R353, R369). -/
def controlBeat (t : Token) : Bool := t.bits.getLsbD 0

/-- What a token of n bytes is when it comes off a network: the vector net carries it as it is, the scalar net in
32-bit beats, and the control net carries bit 0, of which the other bits arrive as 0 (R353, R369, R373). -/
def offNet (net : Option (Fin 3)) (n : Nat) (t : Token) : Token :=
  match net with
  | some 0 => { t with bits := fromScalar (scalarBeats n t) }
  | some 2 => { t with bits := BitVec.ofNat 512 (b2n (controlBeat t)) }
  | _ => t

end Sys2Proof.Machine
end

