-- ==== Sys2Proof/Machine/Matrix.lean ====
section
/-! DEFINITION. Matrix instructions, OP 0x80 to 0x88, and the steps of the matrix array
(spec/08_matrix.md, R225 to R250). -/

namespace Sys2Proof.Machine

/-! ### Panels and cells (R225 to R228) -/

/-- A panel: its origin cell and its extents. -/
structure Panel where
  orow : Nat
  ocol : Nat
  M : Nat
  N : Nat
deriving DecidableEq, Repr

/-- Table 8.1: the panel bound to a queue under a shape. -/
def panelOf (shape q : Fin 4) : Option Panel :=
  match shape.val, q.val with
  | 0, 0 => some ⟨0, 0, 128, 64⟩
  | 1, 0 => some ⟨0, 0, 64, 64⟩
  | 1, 1 => some ⟨64, 0, 64, 64⟩
  | 2, 0 => some ⟨0, 0, 128, 32⟩
  | 2, 1 => some ⟨0, 32, 128, 32⟩
  | 3, 0 => some ⟨0, 0, 64, 32⟩
  | 3, 1 => some ⟨0, 32, 64, 32⟩
  | 3, 2 => some ⟨64, 0, 64, 32⟩
  | 3, _ => some ⟨64, 32, 64, 32⟩
  | _, _ => none

/-- Cell (r, c) of a bank: its 48 bits and its poison. -/
def Tile.cell (y : Tile) (b : Fin 4) (r c : Nat) : Nat × Bool :=
  if h : r < 128 then
    let row := (y.banks.get b).get ⟨r, h⟩
    (bitsAt row.cells.toNat (48 * c) 48, row.poison.getLsbD c)
  else (0, false)

/-- Write a row of cells from column c0 on. -/
def AccRow.put (row : AccRow) (c0 : Nat) (xs : List (Nat × Bool)) : AccRow :=
  let js := xs.zipIdx
  { cells := BitVec.ofNat 3072 (js.foldl (fun n x => putBits n (48 * (c0 + x.2)) 48 x.1.1) row.cells.toNat)
    poison := js.foldl (fun p x => setBit p (c0 + x.2) x.1.2) row.poison }

/-- Write local row i of a panel. -/
def Tile.putRow (y : Tile) (b : Fin 4) (p : Panel) (i : Nat) (xs : List (Nat × Bool)) : Tile :=
  if h : p.orow + i < 128 then
    let bank := y.banks.get b
    { y with banks := vset y.banks b (vset bank ⟨p.orow + i, h⟩ ((bank.get ⟨p.orow + i, h⟩).put p.ocol xs)) }
  else y

/-- Local cell (i, j) of a panel. -/
def Tile.at_ (y : Tile) (b : Fin 4) (p : Panel) (i j : Nat) : Nat × Bool := y.cell b (p.orow + i) (p.ocol + j)

/-- Rewrite every cell of a panel: f gives a cell's new bits, poison and events. -/
def Tile.mapPanel (y : Tile) (b : Fin 4) (p : Panel) (f : Nat → Nat → Nat × Bool × Ev) : Tile × List (Nat × Ev) :=
  (List.range p.M).foldl (fun (r : Tile × List (Nat × Ev)) i =>
    let xs := (List.range p.N).map (f i)
    (r.1.putRow b p i (xs.map (fun x => (x.1, x.2.1))),
     r.2 ++ xs.zipIdx.filterMap (fun x => if x.1.2.2 = Ev.zero then none else some (i * 64 + x.2, x.1.2.2))))
    (y, [])

/-- The integer reading of a cell (R77). -/
def accInt (x : Nat) : Int := sextInt x 48

/-- SatTo(r, acc48 integer) (R77, R94). -/
def accSat (r : Int) : Nat × Ev :=
  let c := clampInt (-(2 ^ 47 : Nat)) ((2 ^ 47 : Nat) - 1) r
  (intMod c 48, if c = r then Ev.zero else Ev.oneSat)

/-! ### Checks at issue (R232 to R235) -/

/-- Cause 0x08 (R234). -/
def matTrap (b : Bool) (reason : Nat) : Option (Nat × Nat × Nat) := trapIf b 0x08 reason 0

/-- The tile that executes; matrix instructions are not decoded on the management core. -/
def onTile (s : State) (f : Fin 256 → Fin 4 → Eff) : Eff :=
  match s.cur with
  | .tile t c => f t c
  | .mgmt => .hold

/-- Reason 1: no panel, or the wrong mode (R228). -/
def panelTrap (y : Tile) (q : Fin 4) (sort : Option Bool) : Option (Nat × Nat × Nat) :=
  matTrap ((panelOf y.issueShape q).isNone ||
    (match sort with | some b => bitOf y.issueSort.val q.val != b | none => false)) 1

/-- Step 4 of R235 for one handle register of a type. -/
def handleChecks (c : Ctx) (hr : Fin 16) (ty : Ty) : List (Option (Nat × Nat × Nat)) :=
  let r := c.readH hr
  regTraps c hr ++ [brokenTrap c hr, handleTrap ((hdesc r.desc).tyCode != tyCode ty) 10 r.index hr.val 0]

/-- The store lies in a bank group. -/
def storeIn (h : HDesc) (lo hi : Nat) : Bool := decide (lo ≤ h.base) && decide (h.base + h.size ≤ hi)

/-- Step 6 of R235: the first dimension in which some coordinate of a window is out of range. -/
def windowTrap (c : Ctx) (hr : Fin 16) (x0 : Int) (n0 : Nat) (x1 : Int) (n1 : Nat) : Option (Nat × Nat × Nat) :=
  let r := c.readH hr
  let h := hdesc r.desc
  let bad := fun (d : Nat) (x : Int) (n : Nat) => !coordIn (h.dim d) x || !coordIn (h.dim d) (x + (n - 1 : Nat))
  if !h.bounds then none
  else if bad 0 x0 n0 then handleTrap true 8 r.index hr.val 0
  else handleTrap (bad 1 x1 n1) 8 r.index hr.val 1

/-- The 64-byte unit that holds element (x, y) of a rank-2 store, when it is in range. -/
def unitAt (h : HDesc) (x y : Int) : Option Nat :=
  if coordIn (h.dim 0) x && coordIn (h.dim 1) y then some ((8 * h.base + h.loc [x.toNat, y.toNat]) / 512) else none

/-- The bank of a unit (R17). -/
def bankOfUnit (u : Nat) : Nat := u / 0x2000 * 16 + u % 16

/-- Which operands a member supplies (R243): A from the first gang column, B from the first gang row. -/
structure Supplies where
  a : Bool
  b : Bool
deriving DecidableEq, Repr

/-- K-groups of an operation. -/
def MacOp.G (m : MacOp) : Nat := groupOf m.ta

def MacOp.groups (m : MacOp) : Nat := m.K / m.G

def MacOp.waveCount (m : MacOp) : Nat := ceilDiv m.groups 4

/-- The K-groups of wave w. -/
def MacOp.waveGroups (m : MacOp) (w : Nat) : List Nat := (List.range 4).map (fun i => 4 * w + i) |>.filter (· < m.groups)

/-- The units that wave w reads (R233). -/
def MacOp.waveUnits (m : MacOp) (p : Panel) (u : Supplies) (w : Nat) : List Nat :=
  let a := hdesc m.a
  let b := hdesc m.b
  (m.waveGroups w).flatMap (fun g =>
    let k : Int := m.k0 + (m.G * g : Nat)
    let scale := m.mx && k % 32 == 0
    (if u.a then (List.range p.M).filterMap (fun (i : Nat) => unitAt a (m.m0 + (i : Int)) k)
        ++ (if scale then (List.range p.M).filterMap (fun (i : Nat) => unitAt (hdesc m.sa) (m.m0 + (i : Int)) (k / 32)) else []) else [])
    ++ (if u.b then (List.range p.N).filterMap (fun (j : Nat) => unitAt b k (m.n0 + (j : Int)))
        ++ (if scale then (List.range p.N).filterMap (fun (j : Nat) => unitAt (hdesc m.sb) (k / 32) (m.n0 + (j : Int))) else []) else []))

/-- Step 8: the lowest wave and bank in conflict. -/
def MacOp.conflict (m : MacOp) (p : Panel) (u : Supplies) : Option (Nat × Nat) :=
  (List.range m.waveCount).findSome? (fun w =>
    let us := (m.waveUnits p u w).eraseDups
    ((List.range 48).find? (fun b => decide (1 < (us.filter (fun x => bankOfUnit x == b)).length))).map (fun b => (w, b)))

/-- A scale handle of mmx (R232). -/
def scaleOk (valid : Bool) (h : HDesc) (tag d0 d1 : Nat) : Bool :=
  valid && h.space && h.tag == tag && h.rank == 2 && h.tyCode == tyCode .e8m0 && h.dim 0 == d0 && h.dim 1 == d1
    && storeIn h 0x100000 0x180000

/-- The mask parameter block lies in group G with its reserved bytes at zero (R232, R238). -/
def maskOk (m : Memory) (z : Nat) : Bool :=
  decide (0x100000 ≤ z) && decide (z + 1088 ≤ 0x180000) && decide ((m.get (z + 8)).toNat < 2)
    && (List.range 55).all (fun i => m.get (z + 9 + i) == 0)

/-- The scalar operands of a product form. -/
def macScalars (m : MacArg) : List (Fin 32) := [m.x, m.y, m.y + 1, m.y + 2, m.z]

/-- The operation a product form describes. -/
def macOp (c : Ctx) (m : MacArg) (ta tb : Ty) (mx int gang : Bool) : MacOp :=
  { ta := ta, tb := tb, mx := mx, int := int, gang := gang, K := (c.readS m.x).toNat, m0 := (c.readS m.y).toInt,
    k0 := (c.readS (m.y + 1)).toInt, n0 := (c.readS (m.y + 2)).toInt, a := (c.readH m.a).desc, b := (c.readH m.b).desc,
    sa := (c.readH (m.a + 1)).desc, sb := (c.readH (m.b + 1)).desc,
    z := if m.z = 0 then none else some (c.readS m.z).toNat }

/-- Append an operation to its queue. -/
def State.enqueue (s : State) (t : Fin 256) (q : Fin 4) (o : MatOp) : State :=
  s.modTile t (fun y => { y with mq := vset y.mq q (y.mq.get q ++ [o]) })

/-- A new operation of the issuing context. -/
def newMatOp (s : State) (c : Fin 4) (bank : Fin 4) (shape : Fin 4) (cl : Clauses) (k : MatKind) : MatOp :=
  { kind := k, ctx := c, bank := bank, shape := shape, sq := if cl.se then some cl.sq else none, by_ := s.issued s.cur,
    gidx := 0, started := false, waves := 0, mask := none, sclA := [], sclB := [], evs := [], err := none, dead := false,
    team := none }

/-- Which operands a member of the queue's gang supplies for a gang form; both for another form (R243). -/
def suppliesOf (y : Tile) (m : MacArg) (gang : Bool) : Supplies :=
  if gang then (match y.gang.get m.q with | some g => ⟨g.gc == 0, g.gr == 0⟩ | none => ⟨true, true⟩) else ⟨true, true⟩

/-- The checks of a product form, in the order of R235. -/
def macChecks (s : State) (ins : Instr) (t : Fin 256) (m : MacArg) (ta tb : Ty) (mx int gang : Bool) :
    List (Option (Nat × Nat × Nat)) :=
  let c := s.me
  let y := s.tile t
  let o := macOp c m ta tb mx int gang
  let g := y.gang.get m.q
  let u := suppliesOf y m gang
  let a := hdesc o.a
  let b := hdesc o.b
  let p := (panelOf y.issueShape m.q).getD ⟨0, 0, 0, 0⟩
  let scA := if mx && decide (m.a.val ≤ 14) then [m.a + 1] else []
  let scB := if mx && decide (m.b.val ≤ 14) then [m.b + 1] else []
  [maskTrap s ins, poisonS c (macScalars m)]
    ++ (if u.a then handleChecks c m.a ta ++ scA.flatMap (fun h => regTraps c h ++ [brokenTrap c h]) else [])
    ++ (if u.b then handleChecks c m.b tb ++ scB.flatMap (fun h => regTraps c h ++ [brokenTrap c h]) else [])
    ++ [panelTrap y m.q (some false), matTrap (gang && g.isNone) 7,
        matTrap (u.a && !(a.space && a.tag == 2 && storeIn a 0 0x80000)) 2,
        matTrap (u.b && !(b.space && b.tag == 3 && storeIn b 0x80000 0x100000)) 3,
        matTrap (mx && ((u.a && decide (14 < m.a.val)) || (u.b && decide (14 < m.b.val)))) 6,
        matTrap (mx && u.a && !(a.dim 1 % 32 == 0 && scaleOk true (hdesc o.sa) 1 (a.dim 0) (a.dim 1 / 32))) 6,
        matTrap (mx && u.b && !(b.dim 0 % 32 == 0 && scaleOk true (hdesc o.sb) 0 (b.dim 0 / 32) (b.dim 1))) 6,
        matTrap (match o.z with | some z => !maskOk y.scratch z | none => false) 6,
        matTrap (o.K == 0 || decide (8192 < o.K) || o.K % o.G != 0 || o.k0 % (o.G : Int) != 0 || (mx && o.k0 % 32 != 0)) 4]
    ++ (if u.a then [windowTrap c m.a o.m0 p.M o.k0 o.K] else [])
    ++ (if u.b then [windowTrap c m.b o.k0 o.K o.n0 p.N] else [])
    ++ (if u.a then scA.map (fun h => windowTrap c h o.m0 p.M (o.k0 / 32) (ceilDiv o.K 32)) else [])
    ++ (if u.b then scB.map (fun h => windowTrap c h (o.k0 / 32) (ceilDiv o.K 32) o.n0 p.N) else [])
    ++ [match o.z with | some z => trapIf (z % 64 != 0) 0x04 z z | none => none,
        match o.conflict p u with | some (w, b) => matTrap true (5 + b * 2 ^ 8 + w * 2 ^ 16) | none => none]

/-- Issue of a product form (R235, R241 to R243): it is queued; a gang form takes the gang's next number. -/
def macEffect (ins : Instr) (m : MacArg) (ta tb : Ty) (mx int gang : Bool) (cl : Clauses) (s : State) : Eff :=
  onTile s fun t cx =>
    let y := s.tile t
    let g := y.gang.get m.q
    orTrap (macChecks s ins t m ta tb mx int gang) <|
      let op := { newMatOp s cx m.bank y.issueShape cl (.mac (macOp s.me m ta tb mx int gang)) with
        gidx := match g with | some g => g.ops | none => 0 }
      let s1 := s.enqueue t m.q op
      .done (if gang then s1.modTile t (fun y => { y with gang := vset y.gang m.q ((y.gang.get m.q).map (fun g => { g with ops := g.ops + 1 })) })
        else s1)

def macChk (m : MacArg) : List RegId := (macScalars m).map .s

def execMma (h : Hdr) (ty : Ty) (m : MacArg) (cl : Clauses) (s : State) : Out :=
  issue (.mma h ty m cl) (macChk m) s (macEffect (.mma h ty m cl) m ty ty false false false cl)

def execMmx (h : Hdr) (ty : Ty) (m : MacArg) (cl : Clauses) (s : State) : Out :=
  issue (.mmx h ty m cl) (macChk m) s (macEffect (.mmx h ty m cl) m ty ty true false false cl)

/-- The element types of an mmi form (Table 8.8). -/
def mmiTypes : MmiForm → Ty × Ty
  | .i8 => (.i8, .i8)
  | .n8 => (.n8, .n8)
  | .i4 => (.i4, .i4)
  | .n4 => (.n4, .n4)
  | .i8n8 => (.i8, .n8)
  | .i4n4 => (.i4, .n4)

def execMmi (h : Hdr) (f : MmiForm) (m : MacArg) (cl : Clauses) (s : State) : Out :=
  issue (.mmi h f m cl) (macChk m) s (macEffect (.mmi h f m cl) m (mmiTypes f).1 (mmiTypes f).2 false true false cl)

def execMmaG (h : Hdr) (ty : Ty) (m : MacArg) (cl : Clauses) (s : State) : Out :=
  issue (.mmaG h ty m cl) (macChk m) s (macEffect (.mmaG h ty m cl) m ty ty false false true cl)

def execMmxG (h : Hdr) (ty : Ty) (m : MacArg) (cl : Clauses) (s : State) : Out :=
  issue (.mmxG h ty m cl) (macChk m) s (macEffect (.mmxG h ty m cl) m ty ty true false true cl)

/-! ### Gangs and configuration (R242, R244) -/

def execMgang (h : Hdr) (y : Fin 32) (gr gc gR gC : Fin 4) (q : Fin 4) (cl : Clauses) (s : State) : Out :=
  let ins := Instr.mgang h y gr gc gR gC q cl
  issue ins [.s y] s fun s => onTile s fun t cx =>
    let x := s.tile t
    let key := (s.me.readS y).toNat
    orTrap [maskTrap s ins, poisonS s.me [y], panelTrap x q none, matTrap (decide (255 < key) || (x.gang.get q).isSome) 7] <|
      let g : Gang := ⟨key, gr.val, gc.val, gR.val + 1, gC.val + 1, false, 0, []⟩
      .done ((s.enqueue t q (newMatOp s cx 0 x.issueShape cl .gang)).modTile t (fun y => { y with gang := vset y.gang q (some g) }))

def execMgangFree (h : Hdr) (q : Fin 4) (cl : Clauses) (s : State) : Out :=
  let ins := Instr.mgangFree h q cl
  issue ins [] s fun s => onTile s fun t cx =>
    let x := s.tile t
    orTrap [maskTrap s ins, panelTrap x q none, matTrap (x.gang.get q).isNone 7] <|
      .done (s.enqueue t q (newMatOp s cx 0 x.issueShape cl .gangFree))

/-- The queues that a configuration change needs (R244). -/
def cfgNeeds (y : Tile) (shape : Fin 4) (sort : Fin 16) (q : Nat) : Bool :=
  shape != y.issueShape || bitOf (sort.val ^^^ y.issueSort.val) q

def execMcfg (h : Hdr) (shape : Fin 4) (sort : Fin 16) (cl : Clauses) (s : State) : Out :=
  let ins := Instr.mcfg h shape sort cl
  issue ins [] s fun s => onTile s fun t cx =>
    let y := s.tile t
    let v := s.view s.cur
    let miss := (List.range 4).find? (fun q => cfgNeeds y shape sort q && !bitOf v.mqmask q)
    orTrap [match miss with | some q => trapIf true 0x06 (q + 256) 0 | none => none, maskTrap s ins,
        matTrap ((List.finRange 4).any (fun q => (y.gang.get q).isSome)) 7] <|
      .done (s.modTile t (fun y =>
        { y with issueShape := shape, issueSort := sort,
                 cfgs := y.cfgs ++ [newMatOp s cx 0 shape cl (.cfg shape sort)] }))

/-! ### Accumulator forms (R246, R247) -/

def execMzero (h : Hdr) (bank q : Fin 4) (cl : Clauses) (s : State) : Out :=
  let ins := Instr.mzero h bank q cl
  issue ins [] s fun s => onTile s fun t cx =>
    orTrap [maskTrap s ins, panelTrap (s.tile t) q (some false)] <|
      .done (s.enqueue t q (newMatOp s cx bank (s.tile t).issueShape cl .zero))

/-- The factors of lanes 0 to n − 1. -/
def factors (v : VReg) (n : Nat) : List (BitVec 32 × Bool) := (List.range n).map (fun j => (v.lane j, v.poison.getLsbD j))

def execMscaleRow (h : Hdr) (y : Fin 32) (bank q : Fin 4) (cl : Clauses) (s : State) : Out :=
  let ins := Instr.mscaleRow h y bank q cl
  issue ins [] s fun s => onTile s fun t cx =>
    let x := s.tile t
    let M := ((panelOf x.issueShape q).getD ⟨0, 0, 0, 0⟩).M
    orTrap [trapIf (y == 31 && M == 128) 0x02 (63 * 2 ^ 39) 0, maskTrap s ins, panelTrap x q (some false)] <|
      let f := (factors (s.me.readV y) 64 ++ factors (s.me.readV (y + 1)) 64).take M
      .done (s.enqueue t q (newMatOp s cx bank x.issueShape cl (.scale false f)))

def execMscaleCol (h : Hdr) (y : Fin 32) (bank q : Fin 4) (cl : Clauses) (s : State) : Out :=
  let ins := Instr.mscaleCol h y bank q cl
  issue ins [] s fun s => onTile s fun t cx =>
    let x := s.tile t
    orTrap [maskTrap s ins, panelTrap x q (some false)] <|
      .done (s.enqueue t q (newMatOp s cx bank x.issueShape cl (.scale true (factors (s.me.readV y) 64))))

/-- The checks of mld and mst (R235, R247). -/
def moveTraps (s : State) (ins : Instr) (t : Fin 256) (x : Fin 32) (hr : Fin 16) (ty : Ty) (q : Fin 4) :
    List (Option (Nat × Nat × Nat)) :=
  let c := s.me
  let r := c.readH hr
  let h := hdesc r.desc
  let p := (panelOf (s.tile t).issueShape q).getD ⟨0, 0, 0, 0⟩
  [maskTrap s ins, poisonS c [x, x + 1]] ++ handleChecks c hr ty
  ++ [handleTrap (!h.space || !(h.tag == 0 || h.tag == 4) || h.rank != 2) 3 r.index hr.val 0,
      panelTrap (s.tile t) q (some false), windowTrap c hr (c.readS x).toInt p.M (c.readS (x + 1)).toInt p.N]

def execMld (h : Hdr) (x : Fin 32) (bank : Fin 4) (hr : Fin 16) (ty : Ty) (q : Fin 4) (cl : Clauses) (s : State) : Out :=
  let ins := Instr.mld h x bank hr ty q cl
  issue ins [.s x, .s (x + 1)] s fun s => onTile s fun t cx =>
    orTrap (moveTraps s ins t x hr ty q) <|
      .done (s.enqueue t q (newMatOp s cx bank (s.tile t).issueShape cl
        (.load ty (s.me.readH hr).desc (s.me.readS x).toInt (s.me.readS (x + 1)).toInt)))

def execMst (h : Hdr) (x : Fin 32) (bank : Fin 4) (hr : Fin 16) (ty : Ty) (q : Fin 4) (cl : Clauses) (s : State) : Out :=
  let ins := Instr.mst h x bank hr ty q cl
  issue ins [.s x, .s (x + 1)] s fun s => onTile s fun t cx =>
    orTrap (moveTraps s ins t x hr ty q) <|
      .done (s.enqueue t q (newMatOp s cx bank (s.tile t).issueShape cl
        (.store ty (s.me.readH hr).desc (s.me.readS x).toInt (s.me.readS (x + 1)).toInt)))

def execMrow (h : Hdr) (x y : Fin 32) (bank : Fin 4) (ty : Ty) (half : Bool) (q : Fin 4) (cl : Clauses) (s : State) : Out :=
  let ins := Instr.mrow h x y bank ty half q cl
  issue ins [.s y] s fun s => onTile s fun t cx =>
    let w := s.tile t
    let i := (s.me.readS y).toNat
    let M := ((panelOf w.issueShape q).getD ⟨0, 0, 0, 0⟩).M
    orTrap [maskTrap s ins, poisonS s.me [y], panelTrap w q (some false), matTrap (decide (M ≤ i)) 4] <|
      .done (s.enqueue t q (newMatOp s cx bank w.issueShape cl (.row ty half i x)))

/-! ### Sorting (R249) -/

/-- The 64 key and index pairs of two registers. -/
def pairsOf (x y : VReg) : List (BitVec 32 × BitVec 32) := (List.range 64).map (fun j => (x.lane j, y.lane j))

/-- Pair a goes before pair b: descending key, NaN last, ties by ascending index. -/
def pairBefore (a b : BitVec 32 × BitVec 32) : Bool :=
  let x := decodeElem .f32 a.1.toNat
  let y := decodeElem .f32 b.1.toNat
  match x.isNan, y.isNan with
  | true, true => decide (a.2.toNat ≤ b.2.toNat)
  | true, false => false
  | false, true => true
  | false, false => if ltMinMax y x then true else if ltMinMax x y then false else decide (a.2.toNat ≤ b.2.toNat)

/-- Insert a pair in order. -/
def insertPair (a : BitVec 32 × BitVec 32) : List (BitVec 32 × BitVec 32) → List (BitVec 32 × BitVec 32)
  | [] => [a]
  | b :: r => if pairBefore a b then a :: b :: r else b :: insertPair a r

/-- The pairs in order. -/
def sortPairs : List (BitVec 32 × BitVec 32) → List (BitVec 32 × BitVec 32)
  | [] => []
  | a :: r => insertPair a (sortPairs r)

def sortEffect (ins : Instr) (x y : Fin 32) (q : Fin 4) (cl : Clauses)
    (k : List (BitVec 32 × BitVec 32) → Bool → MatKind) (s : State) : Eff :=
  onTile s fun t cx =>
    let c := s.me
    orTrap [maskTrap s ins, panelTrap (s.tile t) q (some true)] <|
      let po := (c.readV x).poison != 0 || (c.readV y).poison != 0
      .done (s.enqueue t q (newMatOp s cx 0 (s.tile t).issueShape cl (k (pairsOf (c.readV x) (c.readV y)) po)))

def execMsort (h : Hdr) (x y : Fin 32) (q : Fin 4) (cl : Clauses) (s : State) : Out :=
  issue (.msort h x y q cl) [] s (sortEffect (.msort h x y q cl) x y q cl (.sort x y))

def execMtopk (h : Hdr) (x y : Fin 32) (k1 : Fin 64) (clr rd : Bool) (q : Fin 4) (cl : Clauses) (s : State) : Out :=
  issue (.mtopk h x y k1 clr rd q cl) [] s
    (sortEffect (.mtopk h x y k1 clr rd q cl) x y q cl (fun ps po => .topk x y ps po (k1.val + 1) clr rd))

/-! ### mstat (R250) -/

/-- Bits of the queues in the launch's mask for which f holds. -/
def queueBits (mask : Nat) (f : Fin 4 → Bool) : Nat :=
  (List.finRange 4).foldl (fun n q => n + b2n (bitOf mask q.val && f q) * 2 ^ q.val) 0

/-- The fields of SEL 3. -/
def matStatus (y : Tile) (mask : Nat) : Nat :=
  queueBits mask (fun q => !(y.mq.get q).isEmpty) + 16 * queueBits mask (fun q => (y.gang.get q).isSome)
    + 2 ^ 8 * y.issueShape.val + 2 ^ 10 * y.issueSort.val + 2 ^ 14 * b2n y.sweep

def execMstat (h : Hdr) (d : Fin 32) (sel : Fin 4) (s : State) : Out :=
  issue (.mstat h d sel) [] s fun s => onTile s fun t _ =>
    let y := s.tile t
    let v := if hs : sel.val < 3 then (y.cnt.get ⟨sel.val, hs⟩).toNat else matStatus y (s.view s.cur).mqmask
    s.onCtx fun c => c.writeS d (BitVec.ofNat 64 v) false

/-! ### Gangs at work (R242, R243) -/

/-- The members of the gang formed on a queue of a tile. -/
def gangTiles (s : State) (t : Fin 256) (c : Fin 4) (q : Fin 4) : List (Fin 256) :=
  match (s.tile t).gang.get q, s.launchOf (.tile t c) with
  | some g, some l =>
    (List.finRange 256).filter (fun t' =>
      (match s.launchOf (.tile t' c) with | some l' => l'.q == l.q && l'.c == l.c | none => false)
        && (match (s.tile t').gang.get q with | some g' => g'.key == g.key && g'.gR == g.gR && g'.gC == g.gC && g'.formed | none => false))
  | _, _ => []

/-- A product operation of a gang with its number. -/
def MatOp.gangMac (o : MatOp) (i : Nat) : Bool :=
  match o.kind with
  | .mac m => m.gang && o.gidx == i
  | _ => false

/-- The gang in which an operation of a tile's queue runs. -/
def teamOf (y : Tile) (q : Fin 4) (o : MatOp) : Option Gang :=
  match o.team with
  | some x => some x.1
  | none => y.gang.get q

/-- The operation of a tile's queue that belongs to the same gang operation as o. -/
def gangOp (y : Tile) (q : Fin 4) (o : MatOp) : Option MatOp :=
  (y.mq.get q).find? (fun e => e.gangMac o.gidx && e.team.map (fun x => x.2) == o.team.map (fun x => x.2))

/-- The members of the gang in which an operation runs: those of the formed gang, or of an ended launch's gang
those that still have the operation. -/
def membersOf (s : State) (t : Fin 256) (q : Fin 4) (o : MatOp) : List (Fin 256) :=
  match o.team with
  | some _ => (List.finRange 256).filter (fun t' => (gangOp (s.tile t') q o).isSome)
  | none => gangTiles s t o.ctx q

/-- The member at a position of the gang in which an operation runs. -/
def gangAt (s : State) (ts : List (Fin 256)) (q : Fin 4) (o : MatOp) (gr gc : Nat) : Option (Fin 256) :=
  ts.find? (fun t => match (gangOp (s.tile t) q o).bind (teamOf (s.tile t) q) with | some g => g.gr == gr && g.gc == gc | none => false)

/-- The members agree in K, TY, form and k0 (R243). -/
def sameOp (a b : MatOp) : Bool :=
  match a.kind, b.kind with
  | .mac x, .mac y => x.K == y.K && x.ta == y.ta && x.tb == y.tb && x.mx == y.mx && x.k0 == y.k0
  | _, _ => false

/-- Where an operation's operands come from: tiles and operations. -/
structure Suppliers where
  ta : Fin 256
  a : MacOp
  tb : Fin 256
  b : MacOp
deriving DecidableEq, Repr

/-- The suppliers of a product operation; none while a gang member has not issued it. -/
def suppliers (s : State) (t : Fin 256) (q : Fin 4) (o : MatOp) (m : MacOp) : Option Suppliers :=
  if !m.gang then some ⟨t, m, t, m⟩
  else
    match teamOf (s.tile t) q o with
    | none => none
    | some g =>
      let ts := membersOf s t q o
      match gangAt s ts q o g.gr 0, gangAt s ts q o 0 g.gc with
      | some ra, some rb =>
        match gangOp (s.tile ra) q o, gangOp (s.tile rb) q o with
        | some oa, some ob =>
          match oa.kind, ob.kind with
          | .mac a, .mac b => some ⟨ra, a, rb, b⟩
          | _, _ => none
        | _, _ => none
      | _, _ => none

/-- Every member of the gang has issued the operation (R230). -/
def gangIssued (s : State) (t : Fin 256) (q : Fin 4) (o : MatOp) : Bool :=
  let ts := gangTiles s t o.ctx q
  o.team.isSome || !ts.isEmpty && ts.all (fun t' => match (s.tile t').gang.get q with | some g => decide (o.gidx < g.ops) | none => false)

/-- The gang operation has been found to disagree on some member, or some member's operation disagrees. -/
def gangDiffers (s : State) (t : Fin 256) (q : Fin 4) (o : MatOp) : Bool :=
  (match teamOf (s.tile t) q o with | some g => g.failed.contains o.gidx | none => false)
  || (membersOf s t q o).any (fun t' => match gangOp (s.tile t') q o with
    | some o' => !sameOp o o'
    | none => false)

/-- Waves or rows of an operation. -/
def MatOp.total (o : MatOp) (p : Panel) : Nat :=
  match o.kind with
  | .mac m => m.waveCount
  | .load .. | .store .. => p.M
  | _ => 0

def MatOp.panel (o : MatOp) (q : Fin 4) : Panel := (panelOf o.shape q).getD ⟨0, 0, 0, 0⟩

/-- Every fetch of the operation has been made. -/
def MatOp.fetched (o : MatOp) (q : Fin 4) : Bool := o.started && decide (o.total (o.panel q) ≤ o.waves)

def MatOp.isMac (o : MatOp) : Bool :=
  match o.kind with
  | .mac _ => true
  | _ => false

/-- Every member has fetched the operation's operands, so that a supplier may complete. -/
def gangFetched (s : State) (t : Fin 256) (q : Fin 4) (o : MatOp) : Bool :=
  (membersOf s t q o).all (fun t' => match gangOp (s.tile t') q o with
    | some o' => o'.fetched q
    | none => true)

/-! ### MATRIX_OP_START (R230, R231, R238) -/

/-- Replace operation n of a queue. -/
def Tile.setOp (y : Tile) (q : Fin 4) (n : Nat) (o : MatOp) : Tile := { y with mq := vset y.mq q ((y.mq.get q).set n o) }

/-- The index of the operation of a queue that starts next. -/
def startIndex (ops : List MatOp) : Option Nat := ops.findIdx? (fun o => !o.started)

/-- What the queue and the sweep require (R230, R231). -/
def mayStart (y : Tile) (q : Fin 4) (n : Nat) (o : MatOp) : Bool :=
  let before := (y.mq.get q).take n
  (before.isEmpty || (o.isMac && before.all (fun p => p.isMac && p.fetched q)))
    && (match y.cfgs.filter (fun f => decide (f.by_.order < o.by_.order)) with
        | [] => true
        | [_] => y.sweep
        | _ => false)

/-- The mask parameter block (R236, R238). -/
def maskBlock (m : Memory) (z N : Nat) : MaskBlock :=
  { fill := BitVec.ofNat 48 (m.readNat z 8), fillPoison := (m.readPoison z 8).any id, mode := bitOf (m.get (z + 8)).toNat 0,
    rows := (List.range 128).map (fun i => BitVec.ofNat 64 (m.readNat (z + 64 + 8 * i) 8 % 2 ^ N)) }

/-- The cell is masked. -/
def MatOp.masked (o : MatOp) (i j : Nat) : Bool :=
  match o.mask with
  | some b => !(b.rows.getD i 0).getLsbD j
  | none => false

/-- Masked cells take FILL under MODE 1 (R237). -/
def fillMasked (y : Tile) (p : Panel) (o : MatOp) : Tile :=
  match o.mask with
  | some b =>
    if b.mode then
      (y.mapPanel o.bank p (fun i j =>
        if o.masked i j then (b.fill.toNat, b.fillPoison, Ev.zero)
        else let x := y.at_ o.bank p i j; (x.1, x.2, Ev.zero))).1
    else y
  | none => y

/-- Some cell of the panel is poisoned. -/
def panelPoison (y : Tile) (b : Fin 4) (p : Panel) : Bool :=
  (List.range p.M).any (fun i => (List.range p.N).any (fun j => (y.at_ b p i j).2))

/-- Every member of a gang knows that a gang operation's members disagree: it fails on each (R243). -/
def failGang (s : State) (t : Fin 256) (q : Fin 4) (o : MatOp) : State :=
  let note := fun (g : Gang) => { g with failed := o.gidx :: g.failed.filter (fun n => n != o.gidx) }
  let same := fun (e : MatOp) => e.gangMac o.gidx && e.team.map (fun x => x.2) == o.team.map (fun x => x.2)
  (membersOf s t q o).foldl (fun s t' => s.modTile t' (fun y =>
    if o.team.isSome then
      { y with mq := vset y.mq q ((y.mq.get q).map (fun e => if same e then { e with team := e.team.map (fun x => (note x.1, x.2)) } else e)) }
    else { y with gang := vset y.gang q ((y.gang.get q).map note) })) s

/-- MATRIX_OP_START: a queued operation takes its first fetch. -/
def execMatrixOpStart (t : Fin 256) (q : Fin 4) (s : State) : Out :=
  let y := s.tile t
  match startIndex (y.mq.get q) with
  | none => .next s
  | some n =>
    match (y.mq.get q)[n]? with
    | none => .next s
    | some o =>
      let p := o.panel q
      if !mayStart y q n o then .next s
      else
        match o.kind with
        | .gang | .gangFree => .next s
        | .mac m =>
          if m.gang && (teamOf y q o).isSome && !gangIssued s t q o then .next s
          else if m.gang && ((teamOf y q o).isNone || gangDiffers s t q o) then
            .next ((failGang s t q o).modTile t (fun y => y.setOp q n { o with started := true, waves := m.waveCount, err := some (0x08, 8) }))
          else
            match m.z with
            | some z =>
              if y.wmStall z 1088 o.by_.order then .next s
              else
                let o' := { o with started := true, mask := some (maskBlock y.scratch z p.N) }
                .next (s.modTile t (fun y => (fillMasked y p o').setOp q n o'))
            | none => .next (s.modTile t (fun y => y.setOp q n { o with started := true }))
        | .store .. =>
          .next (s.modTile t (fun y => y.setOp q n { o with
            started := true, err := if panelPoison y o.bank p then some (0x07, o.bank.val + 2 * 2 ^ 8) else none }))
        | _ => .next (s.modTile t (fun y => y.setOp q n { o with started := true }))

/-! ### WAVE_FETCH (R233, R236, R237) -/

/-- Element (x, y) of a scratchpad operand: bits and poison; zero out of range. -/
def operandElem (m : Memory) (h : HDesc) (x y : Int) : Option (Nat × Bool) :=
  if coordIn (h.dim 0) x && coordIn (h.dim 1) y then
    let bit := 8 * h.base + h.loc [x.toNat, y.toNat]
    let n := ceilDiv (bit % 8 + h.ws) 8
    some (bitsAt (m.readNat (bit / 8) n) (bit % 8) h.ws, (m.readPoison (bit / 8) n).any id)
  else none

/-- A scaled operand (R75, R93). -/
def operandVal (ty : Ty) (mx : Bool) (e sc : Option (Nat × Bool)) : Val × Bool :=
  match e with
  | none => (.fin false 0 0, false)
  | some (x, p) =>
    if mx then
      match sc with
      | some (c, pc) => (mxValue ty c x, p || pc)
      | none => (.fin false 0 0, p)
    else (decodeElem ty x, p)

/-- Aop and Bop of K index k for one cell, with the scales of its block as they were fetched. -/
def cellOperands (s : State) (u : Suppliers) (o : MatOp) (k : Int) (i j : Nat) : (Val × Bool) × (Val × Bool) :=
  let ma := (s.tile u.ta).scratch
  let mb := (s.tile u.tb).scratch
  (operandVal u.a.ta u.a.mx (operandElem ma (hdesc u.a.a) (u.a.m0 + i) k) (o.sclA.getD i none),
   operandVal u.b.tb u.b.mx (operandElem mb (hdesc u.b.b) k (u.b.n0 + j)) (o.sclB.getD j none))

/-- The scales that a wave uses: those of a new 32-element block are fetched in its first wave (R233, R236). -/
def fetchScales (s : State) (p : Panel) (u : Suppliers) (m : MacOp) (o : MatOp) : MatOp :=
  let k : Int := m.k0 + (m.G * (4 * o.waves) : Nat)
  if m.mx && k % 32 == 0 then
    { o with sclA := (List.range p.M).map (fun (i : Nat) => operandElem (s.tile u.ta).scratch (hdesc u.a.sa) (u.a.m0 + (i : Int)) (k / 32))
             sclB := (List.range p.N).map (fun (j : Nat) => operandElem (s.tile u.tb).scratch (hdesc u.b.sb) (k / 32) (u.b.n0 + (j : Int))) }
  else o

/-- One K-group of a cell (R92 to R94). -/
def groupStep (s : State) (u : Suppliers) (op : MatOp) (m : MacOp) (i j g : Nat) (c : Nat × Bool × Ev) : Nat × Bool × Ev :=
  let ops := (List.range m.G).map (fun t => cellOperands s u op (m.k0 + (m.G * g + t : Nat)) i j)
  let po := c.2.1 || ops.any (fun o => o.1.2 || o.2.2)
  let r := if m.int then
      let sum := (ops.map (fun o => o.1.1.scaled 0 * o.2.1.scaled 0)).foldl (· + ·) (accInt c.1)
      accSat sum
    else finish .acc (fusedSum (ops.map (fun o => (o.1.1, o.2.1))) [decodeElem .acc c.1])
  (r.1, po, c.2.2.add r.2)

/-- Add a cell's events of a wave to those of earlier waves. -/
def mergeEvs (old new : List (Nat × Ev)) : List (Nat × Ev) :=
  new.foldl (fun l x => match l.find? (fun e => e.1 == x.1) with
    | some _ => l.map (fun e => if e.1 == x.1 then (e.1, e.2.add x.2) else e)
    | none => l ++ [x]) old

/-- Drop the events of cells that are poisoned after the operation (R96). -/
def dropPoisoned (y : Tile) (b : Fin 4) (p : Panel) (evs : List (Nat × Ev)) : List (Nat × Ev) :=
  evs.filter (fun e => !(y.at_ b p (e.1 / 64) (e.1 % 64)).2)

/-- The units of a wave lie below every watermark that holds them (R318). -/
def waveStalls (s : State) (p : Panel) (u : Suppliers) (q : Fin 4) (o : MatOp) : Bool :=
  let ord := fun (t : Fin 256) => match gangOp (s.tile t) q o with
    | some x => if (match o.kind with | .mac m => m.gang | _ => false) then x.by_.order else o.by_.order
    | none => o.by_.order
  ((u.a.waveUnits p ⟨true, false⟩ o.waves).any (fun x => (s.tile u.ta).wmStall (64 * x) 64 (ord u.ta)))
  || ((u.b.waveUnits p ⟨false, true⟩ o.waves).any (fun x => (s.tile u.tb).wmStall (64 * x) 64 (ord u.tb)))

/-- Fetch and apply one wave. -/
def applyWave (s : State) (t : Fin 256) (q : Fin 4) (n : Nat) (o0 : MatOp) (m : MacOp) (u : Suppliers) : State :=
  let p := o0.panel q
  let o := fetchScales s p u m o0
  s.modTile t (fun y =>
    let r := y.mapPanel o.bank p (fun i j =>
      let c := y.at_ o.bank p i j
      if o.masked i j then (c.1, c.2, Ev.zero)
      else (m.waveGroups o.waves).foldl (fun c g => groupStep s u o m i j g c) (c.1, c.2, Ev.zero))
    let evs := mergeEvs o.evs r.2
    let last := decide (m.waveCount ≤ o.waves + 1)
    r.1.setOp q n { o with waves := o.waves + 1, evs := if last then dropPoisoned r.1 o.bank p evs else evs })

/-- The cells of a row as mld reads them (R247). -/
def loadCell (ty : Ty) (x : Nat) : Nat :=
  match ty with
  | .acc => x % 2 ^ 48
  | .i32 => intMod (sextInt x 32) 48
  | _ => (convert .acc (decodeElem ty x)).1

/-- A cell converted as mst stores it (R247). -/
def storeCell (ty : Ty) (x : Nat) : Nat × Ev :=
  match ty with
  | .acc => (x % 2 ^ 48, Ev.zero)
  | _ =>
    if ty.isInt then
      let c := clampInt ty.lo ty.hi (accInt x)
      (intMod c (tyWidth ty), if c = accInt x then Ev.zero else Ev.oneSat)
    else convert ty (decodeElem .acc x)

/-- The bytes of a row's elements in the scratchpad: address and in-range flag, by column. -/
def rowAddrs (h : HDesc) (r : Int) (c0 : Int) (N : Nat) : List (Option Nat) :=
  (List.range N).map (fun (j : Nat) =>
    if coordIn (h.dim 0) r && coordIn (h.dim 1) (c0 + (j : Int)) then some ((8 * h.base + h.loc [r.toNat, (c0 + (j : Int)).toNat]) / 8) else none)

/-- Local row i of mld. -/
def loadRow (y : Tile) (b : Fin 4) (p : Panel) (ty : Ty) (h : HDesc) (row0 col0 : Int) (i : Nat) : Tile :=
  let n := tyWidth ty / 8
  y.putRow b p i ((rowAddrs h (row0 + i) col0 p.N).map (fun a => match a with
    | some a => (loadCell ty (y.scratch.readNat a n), (y.scratch.readPoison a n).any id)
    | none => (loadCell ty 0, false)))

/-- Local row i of mst, with its events by cell. -/
def storeRow (y : Tile) (b : Fin 4) (p : Panel) (ty : Ty) (h : HDesc) (row0 col0 : Int) (i : Nat) : Tile × List (Nat × Ev) :=
  let n := tyWidth ty / 8
  let as := rowAddrs h (row0 + i) col0 p.N
  let r := as.zipIdx.foldl (fun (r : Tile × List (Nat × Ev)) a => match a.1 with
    | some ad =>
      let x := storeCell ty (y.at_ b p i a.2).1
      ({ r.1 with scratch := r.1.scratch.writeNat ad n x.1 }, if x.2 = Ev.zero then r.2 else r.2 ++ [(i * 64 + a.2, x.2)])
    | none => r) (y, [])
  ({ r.1 with scratch := r.1.scratch.healBits (as.filterMap (fun a => a.map (fun ad => (8 * ad, 8 * n)))) }, r.2)

/-- A row of mld or mst is held by a watermark. -/
def rowStalls (y : Tile) (ty : Ty) (h : HDesc) (r c0 : Int) (N ord : Nat) : Bool :=
  (rowAddrs h r c0 N).any (fun a => match a with | some a => y.wmStall a (tyWidth ty / 8) ord | none => false)

/-- WAVE_FETCH: the operation of a queue that is fetching takes its next wave, or its next row. -/
def execWaveFetch (t : Fin 256) (q : Fin 4) (s : State) : Out :=
  let y := s.tile t
  match (y.mq.get q).findIdx? (fun o => o.started && !o.fetched q) with
  | none => .next s
  | some n =>
    match (y.mq.get q)[n]? with
    | none => .next s
    | some o =>
      let p := o.panel q
      match o.kind with
      | .mac m =>
        match suppliers s t q o m with
        | none => .next s
        | some u => if waveStalls s p u q o then .next s else .next (applyWave s t q n o m u)
      | .load ty d r c =>
        if rowStalls y ty (hdesc d) (r + o.waves) c p.N o.by_.order then .next s
        else .next (s.modTile t (fun y => (loadRow y o.bank p ty (hdesc d) r c o.waves).setOp q n { o with waves := o.waves + 1 }))
      | .store ty d r c =>
        if o.err.isSome then .next (s.modTile t (fun y => y.setOp q n { o with waves := p.M }))
        else if rowStalls y ty (hdesc d) (r + o.waves) c p.N o.by_.order then .next s
        else
          .next (s.modTile t (fun y =>
            let x := storeRow y o.bank p ty (hdesc d) r c o.waves
            x.1.setOp q n { o with waves := o.waves + 1, evs := o.evs ++ x.2 }))
      | _ => .next s

/-! ### MATRIX_OP_COMPLETE (R229, R239, R246, R247, R249) -/

/-- One cell of mscale. -/
def scaleCell (c : Nat × Bool) (f : BitVec 32 × Bool) : Nat × Bool × Ev :=
  let r := finish .acc (mulVal (decodeElem .acc c.1) (decodeElem .f32 f.1.toNat))
  let po := c.2 || f.2
  (r.1, po, if po then Ev.zero else r.2)

/-- The register that mrow writes, with its events. -/
def rowReg (y : Tile) (b : Fin 4) (p : Panel) (ty : Ty) (half : Bool) (i : Nat) : VReg × Ev :=
  if ty = .acc then
    let cs := (List.range 32).map (fun j =>
      let col := 32 * b2n half + j
      if col < p.N then y.at_ b p i col else (0, false))
    (({ bits := 0, poison := 0 } : VReg).write .i64 (cs.map (fun c => some (c.1, c.2))), Ev.zero)
  else
    let cs := (List.range 64).map (fun j => if j < p.N then y.at_ b p i j else (0, false))
    let xs := cs.zipIdx.map (fun c => if c.2 < p.N then storeCell ty c.1.1 else (0, Ev.zero))
    (({ bits := 0, poison := 0 } : VReg).write .i32 ((xs.zip cs).map (fun x => some (x.1.1, x.2.2))),
     Ev.sum ((xs.zip cs).map (fun x => if x.2.2 then Ev.zero else x.1.2)))

/-- The two registers of a list of pairs; missing lanes hold the canonical NaN and 0xFFFFFFFF. -/
def pairRegs (ps : List (BitVec 32 × BitVec 32)) (poison : Bool) : VReg × VReg :=
  let at_ := fun (j : Nat) => ps.getD j (0x7FC00000#32, 0xFFFFFFFF#32)
  let po : BitVec 64 := if poison then BitVec.allOnes 64 else 0
  ({ VReg.ofLanes (fun j => (at_ j).1.toNat) with poison := po }, { VReg.ofLanes (fun j => (at_ j).2.toNat) with poison := po })

/-- The effect an operation has at its completion, and its events. The vector registers of a context whose launch has
ended are nobody's: an operation of that launch writes none. -/
def finishOp (s : State) (t : Fin 256) (q : Fin 4) (o : MatOp) : State × Ev :=
  let p := o.panel q
  let y := s.tile t
  let onCtx := fun (s : State) (f : Ctx → Ctx) => if o.dead then s else s.modCtx (.tile t o.ctx) f
  let panel := fun (f : Nat → Nat → Nat × Bool × Ev) =>
    let r := y.mapPanel o.bank p f
    (s.setTile t r.1, Ev.sum (r.2.map (fun e => e.2)))
  match o.kind with
  | .zero => panel (fun _ _ => (0, false, Ev.zero))
  | .scale col f => panel (fun i j => scaleCell (y.at_ o.bank p i j) (f.getD (if col then j else i) (0, false)))
  | .row ty half i d =>
    let r := rowReg y o.bank p ty half i
    (onCtx s (fun c => c.writeV d r.1), r.2)
  | .sort x z ps po =>
    let r := pairRegs (sortPairs ps) po
    (onCtx s (fun c => (c.writeV x r.1).writeV z r.2), Ev.zero)
  | .topk x z ps po k clr rd =>
    let old := if clr then [] else y.topk.get q
    let bad := (if clr then false else y.topkPoison.get q) || po
    let new := (sortPairs (old ++ ps)).take k
    let s1 := s.modTile t (fun y => { y with topk := vset y.topk q new, topkPoison := vset y.topkPoison q bad })
    let r := pairRegs new bad
    (if rd then onCtx s1 (fun c => (c.writeV x r.1).writeV z r.2) else s1, Ev.zero)
  | _ => (s, Ev.sum (o.evs.map (fun e => e.2)))

/-- Report an operation complete: it leaves its queue, its events are counted, its deferred fault is
owed and its signal performed (R181, R229, R239). Of an operation whose launch has ended, the fault is discarded. -/
def reportOp (s : State) (t : Fin 256) (q : Fin 4) (o : MatOp) (e : Ev) : State :=
  let g := AgentId.tile t o.ctx
  let s1 := s.modTile t (fun y => { y with mq := vset y.mq q ((y.mq.get q).drop 1) })
  let s2 := s1.addEvents t ⟨e, o.ctx, o.by_, .endOrWaitOn o.sq, o.dead⟩
  let s3 := match o.err with
    | some (cause, detail) =>
      if o.dead then s2 else s2.modCtx g (fun c => c.recordOwed ⟨cause, detail, 0, o.by_, .endOrWaitOn o.sq⟩)
    | none => s2
  s3.signalOpt g o.sq

/-- MATRIX_OP_COMPLETE: the oldest operation of a queue, all its fetches made, completes. -/
def execMatrixOpComplete (t : Fin 256) (q : Fin 4) (s : State) : Out :=
  match (s.tile t).mq.get q with
  | [] => .next s
  | o :: _ =>
    if !o.fetched q then .next s
    else if (match o.kind with | .mac m => m.gang && o.err.isNone && !gangFetched s t q o | _ => false) then .next s
    else
      let r := finishOp s t q o
      .next (reportOp r.1 t q o r.2)

/-! ### SWEEP_START, SWEEP_END (R231, R244) -/

/-- Every earlier product operation has made its fetches and every other earlier one is complete. -/
def sweepReady (y : Tile) (o : MatOp) : Bool :=
  (List.finRange 4).all (fun q => (y.mq.get q).all (fun e =>
    decide (o.by_.order ≤ e.by_.order) || (e.isMac && e.fetched q)))

/-- Empty the lists of panels that enter or leave SORT mode. -/
def Tile.setSort (y : Tile) (sort : Fin 16) : Tile :=
  let keep := fun (q : Fin 4) => bitOf sort.val q.val == bitOf y.sort.val q.val
  { y with
    sort := sort
    topk := Vector.ofFn (fun q => if keep q then y.topk.get q else [])
    topkPoison := Vector.ofFn (fun q => keep q && y.topkPoison.get q) }

/-- SWEEP_START: the configuration token enters cell (0, 0). -/
def execSweepStart (t : Fin 256) (s : State) : Out :=
  let y := s.tile t
  match y.cfgs with
  | [] => .next s
  | o :: _ =>
    if y.sweep || !sweepReady y o then .next s
    else
      match o.kind with
      | .cfg shape sort => .next (s.setTile t { y.setSort sort with sweep := true, shape := shape })
      | _ => .next s

/-- SWEEP_END: the sweep ends and mcfg completes. -/
def execSweepEnd (t : Fin 256) (s : State) : Out :=
  let y := s.tile t
  match y.cfgs with
  | [] => .next s
  | o :: r =>
    if y.sweep then
      let s1 := s.setTile t { y with sweep := false, cfgs := r }
      .next (s1.signalOpt (.tile t o.ctx) o.sq)
    else .next s

/-! ### GANG_FORMATION (R242) -/

/-- The head of a queue is a gang request of this kind. -/
def gangHead (y : Tile) (q : Fin 4) (free : Bool) : Option MatOp :=
  match (y.mq.get q).head? with
  | some o => (match o.kind with
    | .gang => if free then none else some o
    | .gangFree => if free then some o else none
    | _ => none)
  | none => none

/-- The heads of queues of a launch that ask for a gang of one key and extents. -/
def formingHeads (s : State) (l : Launch) (g : Gang) : List (Fin 256 × Fin 4 × MatOp × Gang) :=
  (List.finRange 256).flatMap (fun t =>
    match s.launchOf (.tile t l.c) with
    | none => []
    | some l' =>
      if l'.q = l.q ∧ l'.c = l.c then
        (List.finRange 4).filterMap (fun q => match gangHead (s.tile t) q false, (s.tile t).gang.get q with
          | some o, some x => if o.ctx = l.c ∧ x.key = g.key ∧ x.gR = g.gR ∧ x.gC = g.gC then some (t, q, o, x) else none
          | _, _ => none)
      else [])

/-- No two members claim one position. -/
def distinctPos : List (Fin 256 × Fin 4 × MatOp × Gang) → Bool
  | [] => true
  | x :: r => r.all (fun y => !(y.2.2.2.gr == x.2.2.2.gr && y.2.2.2.gc == x.2.2.2.gc)) && distinctPos r

/-- The members that a gang forms with: the heads on one queue of distinct tiles, as many as its extents ask
for, at distinct positions; or, where they cannot form one, heads of as many distinct tiles whose queues
or positions disagree (R242, log 27). -/
def gangMembers (q : Fin 4) (n : Nat) (ms : List (Fin 256 × Fin 4 × MatOp × Gang)) : List (Fin 256 × Fin 4 × MatOp × Gang) :=
  let here := ms.filter (fun x => x.2.1 == q)
  let once := ms.filter (fun x => !ms.any (fun y => y.1 == x.1 && y.2.1 != x.2.1))
  if n ≤ here.length then here.take n
  else if once.length = ms.length ∧ n ≤ ms.length then ms.take n
  else []

/-- Formation of a gang whose members are all there: it forms, or fails on every member. -/
def formGang (s : State) (l : Launch) (key : Nat) (ms : List (Fin 256 × Fin 4 × MatOp × Gang)) : State :=
  let ok := distinctPos ms && l.routes.contains key
    && (match ms with | [] => false | x :: r => r.all (fun y => y.2.1 == x.2.1 && y.2.2.1.shape == x.2.2.1.shape))
  ms.foldl (fun s x =>
    let t := x.1
    let q := x.2.1
    let s1 := s.modTile t (fun y => { y with gang := vset y.gang q (if ok then some { x.2.2.2 with formed := true } else none) })
    reportOp s1 t q { x.2.2.1 with err := if ok then none else some (0x08, 8) } Ev.zero) s

/-- Every member's mgang.free has reached the gang: it dissolves. -/
def dissolveGang (s : State) (q : Fin 4) (ts : List (Fin 256)) : State :=
  ts.foldl (fun s t =>
    match gangHead (s.tile t) q true with
    | some o => reportOp (s.modTile t (fun y => { y with gang := vset y.gang q none })) t q o Ev.zero
    | none => s) s

/-- GANG_FORMATION: the gang that the head of a queue asks for forms, fails or dissolves. -/
def execGangFormation (t : Fin 256) (q : Fin 4) (s : State) : Out :=
  let y := s.tile t
  match (y.mq.get q).head?, y.gang.get q with
  | some o, none =>
    match o.kind with
    | .gangFree => .next (reportOp s t q o Ev.zero)
    | _ => .next s
  | some o, some g =>
    match o.kind, s.launchOf (.tile t o.ctx) with
    | .gang, some l =>
      let ms := formingHeads s l g
      let ps := gangMembers q (g.gR * g.gC) ms
      if ps.isEmpty then .next s else .next (formGang s l g.key ps)
    | .gangFree, _ =>
      let ts := gangTiles s t o.ctx q
      if ts.all (fun t' => (gangHead (s.tile t') q true).isSome) then .next (dissolveGang s q ts) else .next s
    | _, _ => .next s
  | _, _ => .next s

end Sys2Proof.Machine
end

