-- ==== Sys2Proof/Machine/Sta.lean ====
section
/-! DEFINITION. Configuration streams (R66 to R68) and the graphs of a stream transform array
(spec/12_transform_arrays.md, R330 to R342). -/

namespace Sys2Proof.Machine

/-! ### Configuration streams (R66, R67) -/

/-- The writes of a configuration stream: element, field and value; acc, n and elem stand for the
extend prefix read so far. None when the stream is malformed. -/
def parseCfg : List Nat → Nat → Nat → Nat → Option (List (Nat × Nat × Nat))
  | [], _, n, _ => if n = 0 then some [] else none
  | w :: ws, acc, n, elem =>
    let e := bitsAt w 18 14
    let f := bitsAt w 12 6
    let v := bitsAt w 0 12
    if n ≠ 0 ∧ e ≠ elem then none
    else if f = 63 then (if n = 4 then none else parseCfg ws (acc * 4096 + v) (n + 1) e)
    else (parseCfg ws 0 0 0).map (fun r => (e, f, acc * 4096 + v) :: r)

/-- A stream whose every value fits the width its consumer gives the field. -/
def cfgStream (width : Nat → Nat → Option Nat) (ws : List Nat) : Option (List (Nat × Nat × Nat)) :=
  match parseCfg ws 0 0 0 with
  | none => none
  | some xs => if xs.all (fun x => match width x.1 x.2.1 with | some n => decide (x.2.2 < 2 ^ n) | none => false) then some xs else none

/-! ### The element address space (R340, R341) -/

/-- Tables 12.4 to 12.6. -/
def staWidth (elem field : Nat) : Option Nat :=
  let lo := elem % 4096
  match elem / 4096 with
  | 0 => if lo < 128 then ([6, 3, 3, 3, 3, 4, 12, 32, 32, 32, 32, 32, 32, 32, 32, 32, 16][field]?) else none
  | 1 => if field < 32 then some 32 else none
  | 2 => if lo = 0 then ([5, 16, 3, 2][field]?) else none
  | _ => none

def StaElem.zero : StaElem := ⟨0, 0, 0, 0, 0, 0, 0, 0, 0, 0⟩

def StaGraph.empty : StaGraph := ⟨0, 0, 0, 0, [], [], []⟩

/-- The configuration of an element. -/
def StaGraph.elem (g : StaGraph) (e : Nat) : StaElem :=
  match g.elems.find? (fun x => x.1 == e) with
  | some x => x.2
  | none => StaElem.zero

/-- A table entry. -/
def StaGraph.entry (g : StaGraph) (e i : Nat) : Nat :=
  match g.tables.find? (fun x => x.1 == e && x.2.1 == i) with
  | some x => x.2.2
  | none => 0

/-- Write a field of an element's configuration. -/
def StaElem.put (x : StaElem) (f v : Nat) : StaElem :=
  match f with
  | 0 => { x with op := v }
  | 1 => { x with ty := v }
  | 2 => { x with srcA := v }
  | 3 => { x with srcB := v }
  | 4 => { x with srcC := v }
  | 5 => { x with bcol := v }
  | 6 => { x with param := v }
  | 7 => { x with imm := v }
  | 16 => { x with accn := v }
  | _ => { x with const := BitVec.ofNat 256 (putBits x.const.toNat (32 * (f - 8)) 32 v) }

/-- Apply one write to a graph. -/
def StaGraph.put (g : StaGraph) (w : Nat × Nat × Nat) : StaGraph :=
  let e := w.1 % 128
  match w.1 / 4096 with
  | 0 => { g with elems := (e, (g.elem e).put w.2.1 w.2.2) :: g.elems.filter (fun x => x.1 != e) }
  | 1 =>
    let i := 32 * (w.1 / 128 % 32) + w.2.1
    { g with tables := (e, i, w.2.2) :: g.tables.filter (fun x => !(x.1 == e && x.2.1 == i)) }
  | _ =>
    match w.2.1 with
    | 0 => { g with inw := w.2.2 }
    | 1 => { g with outen := w.2.2 }
    | 2 => { g with passes := w.2.2 }
    | _ => { g with dirs := w.2.2 }

/-- The tables a graph claims: those claimed before it, which stay claimed until the slot is freed, those
of elements with OP 18 and those it writes (R341). -/
def StaGraph.claimed (g : StaGraph) : List Nat :=
  (List.range 128).filter (fun e => g.claims.contains e || (g.elem e).op == 18 || g.tables.any (fun x => x.1 == e))

/-! ### Which elements are well formed (R335, R336, R341) -/

/-- Lane types (Table 12.2). -/
def staTy : Nat → Ty
  | 0 => .i32
  | 1 => .n32
  | 2 => .f32
  | 3 => .bf16
  | 4 => .e4m3
  | 5 => .e5m2
  | _ => .e2m1

/-- Lane types an operation accepts (Table 12.3); e2m1 is a source of UNPK only (Table 12.2). -/
def staAccepts (op ty : Nat) : Bool :=
  match op with
  | 5 => decide (2 ≤ ty) && decide (ty ≤ 5)
  | 8 | 9 | 10 | 11 | 12 | 13 | 21 => decide (ty ≤ 1)
  | 16 => decide (3 ≤ ty) && decide (ty ≤ 6)
  | 17 => ty == 2 || ty == 3
  | 18 | 19 => ty == 1
  | _ => decide (op ≤ 22) && decide (ty ≤ 5)

/-- The destination type, part and ratio of UNPK and PACK. -/
def StaElem.dty (x : StaElem) : Nat := bitsAt x.param 2 3
def StaElem.part (x : StaElem) : Nat := bitsAt x.param 5 1 * 4 + bitsAt x.param 0 2
def StaElem.ratio (x : StaElem) : Nat :=
  let a := tyWidth (staTy x.ty)
  let b := tyWidth (staTy x.dty)
  if x.op = 16 then b / a else a / b

/-- The accepted pairs of R336. -/
def staPair (op ty dty : Nat) : Bool :=
  if op = 16 then [(3, 2), (4, 3), (4, 2), (5, 3), (5, 2), (6, 3), (6, 4)].contains (ty, dty)
  else [(2, 3), (2, 4), (2, 5), (2, 6), (3, 4), (3, 5), (3, 6)].contains (ty, dty)

/-- PARAM bits that an operation uses. -/
def StaElem.paramUsed (x : StaElem) : Nat :=
  match x.op with
  | 11 | 12 | 13 => 6
  | 14 => 3
  | 16 | 17 => 6
  | 18 => if bitsAt x.param 0 2 = 2 then 3 else 2
  | _ => 0

/-- The element breaks no rule of R335 to R337 and names no reserved source. -/
def StaElem.ok (x : StaElem) : Bool :=
  decide (x.op ≤ 22) && staAccepts x.op x.ty && decide (x.srcA ≤ 5) && decide (x.srcB ≤ 5) && decide (x.srcC ≤ 5)
  && decide (x.param < 2 ^ x.paramUsed)
  && (match x.op with
      | 14 => decide (x.param ≤ 5)
      | 16 | 17 => staPair x.op x.ty x.dty && (bitsAt x.param 5 1 == 0 || (x.op == 17 && x.ty == 2 && x.dty == 6))
          && decide (x.part < x.ratio)
      | 18 => bitsAt x.param 0 2 != 3
      | 22 => decide (x.imm < 2 ^ 24)
      | _ => true)
  && (x.imm == 0 || x.op == 18 || x.op == 19 || x.op == 22)

/-- R341, but for the claims. -/
def StaGraph.ok (g : StaGraph) : Bool :=
  decide (1 ≤ g.inw) && decide (g.inw ≤ 16) && g.outen != 0 && g.dirs != 0 && (List.range 128).all (fun e => (g.elem e).ok)

def StaGraph.outw (g : StaGraph) : Nat := popCount 16 g.outen

/-! ### Element operations (R335 to R338) -/

/-- The w-bit elements of a 256-bit word. -/
def splitWord (w x : Nat) : List Nat := (List.range (256 / w)).map (fun k => bitsAt x (w * k) w)

def joinWord (w : Nat) (xs : List Nat) : Nat := (xs.zipIdx.map (fun x => x.1 % 2 ^ w * 2 ^ (w * x.2))).foldl (· + ·) 0

/-- A word with its poison. -/
abbrev StaWord := Nat × Bool

/-- One element of an arithmetic operation: its value, its events and the reason of an element
error or 0. -/
def staElemOp (op : Nat) (t : Ty) (param a b c : Nat) : Nat × Ev × Nat :=
  let w := tyWidth t
  let ones := 2 ^ w - 1
  let int := fun (r : Int) => (intMod r w, Ev.zero, 0)
  let amount := if bitsAt param 5 1 = 1 then b else bitsAt param 0 5
  let cond : Cond := match bitsAt param 0 3 with
    | 0 => .eq
    | 1 => .ne
    | 2 => .lt
    | 3 => .le
    | 4 => .gt
    | _ => .ge
  let fl := fun (r : Nat × Ev) => (r.1, r.2, 0)
  match op with
  | 2 => if t.isInt then int (t.val a + t.val b) else fl (addBits t a b)
  | 3 => if t.isInt then int (t.val a - t.val b) else fl (subBits t a b)
  | 4 => if t.isInt then int (t.val a * t.val b) else fl (mulBits t a b)
  | 5 => fl (finish t (fusedSum [(decodeElem t a, decodeElem t b)] [decodeElem t c]))
  | 6 => if t.isInt then int (Min.min (t.val a) (t.val b)) else (minBits t a b, Ev.zero, 0)
  | 7 => if t.isInt then int (Max.max (t.val a) (t.val b)) else (maxBits t a b, Ev.zero, 0)
  | 8 => (a &&& b, Ev.zero, 0)
  | 9 => (a ||| b, Ev.zero, 0)
  | 10 => (a ^^^ b, Ev.zero, 0)
  | 11 => if 32 ≤ amount then (0, Ev.zero, 1) else (a <<< amount % 2 ^ w, Ev.zero, 0)
  | 12 => if 32 ≤ amount then (0, Ev.zero, 1) else (a >>> amount, Ev.zero, 0)
  | 13 => if 32 ≤ amount then (0, Ev.zero, 1) else int (sextInt a w >>> amount)
  | 14 =>
    let h := if t.isInt then cmpInt cond (t.val a) (t.val b) else cmpVal cond (decodeElem t a) (decodeElem t b)
    (if h then ones else 0, Ev.zero, 0)
  | 15 => (if c ≠ 0 then a else b, Ev.zero, 0)
  | _ =>
    if t.val b = 0 then (0, Ev.zero, 3)
    else if t.val a = t.lo ∧ t.val b = -1 then (0, Ev.zero, 1)
    else int ((t.val a).tdiv (t.val b))

/-- What one element of the array answers: its word, events, the reason of an error or 0, and the
lanes in which it arose. -/
structure StaOut where
  word : Nat
  ev : Ev
  reason : Nat
  lanes : Nat
deriving DecidableEq, Repr

/-- An operation element by element. -/
def staLanes (x : StaElem) (a b c : Nat) : StaOut :=
  let t := staTy x.ty
  let w := tyWidth t
  let rs := (List.range (256 / w)).map (fun k => staElemOp x.op t x.param (bitsAt a (w * k) w) (bitsAt b (w * k) w) (bitsAt c (w * k) w))
  { word := joinWord w (rs.map (fun r => r.1)), ev := Ev.sum (rs.map (fun r => r.2.1)),
    reason := ((rs.map (fun r => r.2.2)).find? (fun r => r != 0)).getD 0,
    lanes := rs.zipIdx.foldl (fun m r => if r.1.2.2 = 0 then m else m ||| 2 ^ (r.2 * w / 32)) 0 }

/-- Convert with its events (R87). -/
def staConvert (s d : Ty) (x : Nat) : Nat × Ev := convert d (decodeElem s x)

/-- UNPK (R336). -/
def staUnpk (x : StaElem) (a : Nat) : StaOut :=
  let s := staTy x.ty
  let d := staTy x.dty
  let n := 256 / tyWidth d
  let rs := ((splitWord (tyWidth s) a).drop (x.part * n) |>.take n).map (staConvert s d)
  ⟨joinWord (tyWidth d) (rs.map (fun r => r.1)), Ev.sum (rs.map (fun r => r.2)), 0, 0⟩

/-- PACK (R336). -/
def staPack (x : StaElem) (a c : Nat) : StaOut :=
  let s := staTy x.ty
  let d := staTy x.dty
  let rs := (splitWord (tyWidth s) a).map (staConvert s d)
  let n := 256 / x.ratio
  ⟨putBits c (x.part * n) n (joinWord (tyWidth d) (rs.map (fun r => r.1))), Ev.sum (rs.map (fun r => r.2)), 0, 0⟩

/-- LUT (R337): the index is an n32 sum. -/
def staLut (g : StaGraph) (e : Nat) (x : StaElem) (a : Nat) : StaOut :=
  let look := fun (v : Nat) => (v + x.imm) % 2 ^ 32
  let get := fun (v : Nat) => g.entry e (look v)
  let h := 16 * bitsAt x.param 2 1
  let used := fun (j : Nat) =>
    let l := bitsAt a (32 * j) 32
    match bitsAt x.param 0 2 with
    | 0 => [l]
    | 1 => (List.range 4).map (fun i => bitsAt l (8 * i) 8)
    | _ => [bitsAt l h 8, bitsAt l (h + 8) 8]
  let lane := fun (j : Nat) =>
    match bitsAt x.param 0 2 with
    | 0 => ((used j).map get).getD 0 0
    | 1 => joinWord 8 ((used j).map get)
    | _ => joinWord 16 ((used j).map get)
  let bad := (List.range 8).filter (fun j => (used j).any (fun v => decide (1024 ≤ look v)))
  ⟨joinWord 32 ((List.range 8).map lane), Ev.zero, if bad.isEmpty then 0 else 2, bad.foldl (fun m j => m + 2 ^ j) 0⟩

/-- PERM (Table 12.3). -/
def staPerm (x : StaElem) (a : Nat) : Nat :=
  joinWord 32 ((List.range 8).map (fun j => bitsAt a (32 * bitsAt x.imm (3 * j) 3) 32))

/-- The state of an element at the start of a request (R338). -/
def StaCell.start (e : Nat) (x : StaElem) : StaCell := ⟨e, BitVec.ofNat 32 x.imm, 0, 0, false⟩

def staCell (g : StaGraph) (cs : List StaCell) (e : Nat) : StaCell :=
  (cs.find? (fun c => c.elem == e)).getD (StaCell.start e (g.elem e))

def putCell (cs : List StaCell) (c : StaCell) : List StaCell := c :: cs.filter (fun x => x.elem != c.elem)

/-- CRC-32C over the bytes of a word (R338). -/
def staCrc (s : BitVec 32) (a : Nat) : BitVec 32 := (leBytes 32 a).foldl crcByte s

/-- ACC: the new accumulator and its events. -/
def staAcc (t : Ty) (acc a : Nat) : Nat × Ev :=
  let w := tyWidth t
  let rs := (List.range (256 / w)).map (fun k => staElemOp 2 t 0 (bitsAt acc (w * k) w) (bitsAt a (w * k) w) 0)
  (joinWord w (rs.map (fun r => r.1)), Ev.sum (rs.map (fun r => r.2.1)))

/-- Which inputs an operation reads: A, B, C. -/
def StaElem.reads (x : StaElem) : Bool × Bool × Bool :=
  match x.op with
  | 0 => (false, false, false)
  | 1 | 16 | 18 | 19 | 20 | 22 => (true, false, false)
  | 5 | 15 => (true, true, true)
  | 11 | 12 | 13 => (true, bitsAt x.param 5 1 == 1, false)
  | 17 => (true, false, true)
  | _ => (true, true, false)

/-! ### A beat (R331, R332, R339, R345) -/

/-- What a beat has done so far. -/
structure StaRun where
  cells : List StaCell
  ev : Ev
  /-- Element errors in order: pass, element, reason, lanes, inputs. -/
  errs : List (Nat × Nat × Nat × Nat × List StaWord)

/-- An operand (Table 12.1): up is the row above, or what row 0 reads; none where an element that met an
error has emitted nothing (R345). -/
def staSource (code col : Nat) (x : StaElem) (up : List (Option StaWord)) (inp : List StaWord) : Option StaWord :=
  match code with
  | 1 => up.getD col (some (0, false))
  | 2 => if col = 0 then some (0, false) else up.getD (col - 1) (some (0, false))
  | 3 => up.getD (col + 1) (some (0, false))
  | 4 => some (inp.getD x.bcol (0, false))
  | 5 => some (x.const.toNat, false)
  | _ => some (0, false)

/-- One element, with its operands, processes a beat in one pass: an error emits nothing (R345). -/
def staApply (g : StaGraph) (pass e : Nat) (a b c : StaWord) (r : StaRun) : Option StaWord × StaRun :=
  let x := g.elem e
  let rd := x.reads
  let po := (rd.1 && a.2) || (rd.2.1 && b.2) || (rd.2.2 && c.2)
  let plain := fun (w : Nat) => (⟨w, Ev.zero, 0, 0⟩ : StaOut)
  let stateful := x.op == 19 || x.op == 20
  let cell := staCell g r.cells e
  let acc := staAcc (staTy x.ty) cell.acc.toNat a.1
  let out := match x.op with
    | 0 => plain 0
    | 1 => plain a.1
    | 16 => staUnpk x a.1
    | 17 => staPack x a.1 c.1
    | 18 => staLut g e x a.1
    | 19 => plain (staCrc cell.crc a.1).toNat
    | 20 => ⟨acc.1, acc.2, 0, 0⟩
    | 22 => plain (staPerm x a.1)
    | _ => staLanes x a.1 b.1 c.1
  let spo := cell.poison || po
  let done := x.op == 20 && x.accn != 0 && cell.n + 1 == x.accn
  let cell' := { cell with
    crc := if x.op = 19 then staCrc cell.crc a.1 else cell.crc
    acc := if x.op = 20 then (if done then 0 else BitVec.ofNat 256 acc.1) else cell.acc
    n := if x.op = 20 then (if done then 0 else cell.n + 1) else cell.n
    poison := spo }
  let r1 := if stateful then { r with cells := putCell r.cells cell' } else r
  let r2 := if po || (stateful && spo) then r1 else { r1 with ev := r1.ev.add out.ev }
  if out.reason ≠ 0 ∧ !po then (none, { r2 with errs := r2.errs ++ [(pass, e, out.reason, out.lanes, [a, b, c])] })
  else (some (out.word, if stateful then spo else po), r2)

/-- One element in one pass; without an operand that it reads it does not fire. -/
def staFire (g : StaGraph) (pass e col : Nat) (up : List (Option StaWord)) (inp : List StaWord) (r : StaRun) :
    Option StaWord × StaRun :=
  let x := g.elem e
  let rd := x.reads
  let a := staSource x.srcA col x up inp
  let b := staSource x.srcB col x up inp
  let c := staSource x.srcC col x up inp
  if (rd.1 && a.isNone) || (rd.2.1 && b.isNone) || (rd.2.2 && c.isNone) then (none, r)
  else staApply g pass e (a.getD (0, false)) (b.getD (0, false)) (c.getD (0, false)) r

/-- One row of one pass. -/
def staRow (g : StaGraph) (pass row : Nat) (inp : List StaWord) (ur : List (Option StaWord) × StaRun) :
    List (Option StaWord) × StaRun :=
  (List.range 16).foldl (fun (o : List (Option StaWord) × StaRun) col =>
    let x := staFire g pass (16 * row + col) col ur.1 inp o.2
    (o.1 ++ [x.1], x.2)) ([], ur.2)

/-- A beat through all its passes: the row-7 outputs and what it did. -/
def staBeat (g : StaGraph) (cells : List StaCell) (inp : List StaWord) : List (Option StaWord) × StaRun :=
  (List.range (g.passes + 1)).foldl (fun ur p => (List.range 8).foldl (fun ur row => staRow g p row inp ur) ur)
    (inp.map some, ⟨cells, Ev.zero, []⟩)

/-- The input words of a beat: INW words of bytes, missing bytes zero (R331). -/
def staInput (inw : Nat) (bs : List (Nat × Bool)) : List StaWord :=
  (List.range 16).map (fun i =>
    if i < inw then
      let ws := (bs.drop (32 * i)).take 32
      (joinWord 8 (ws.map (fun b => b.1)), ws.any (fun b => b.2))
    else (0, false))

/-- The bytes of a beat's output, cut for a final beat of n input bytes (R331). -/
def staOutput (g : StaGraph) (n : Nat) (outs : List (Option StaWord)) : List (Nat × Bool) :=
  let ws := (List.range 16).filterMap (fun c => if bitOf g.outen c then outs[c]?.join else none)
  let bs := ws.flatMap (fun w => (leBytes 32 w.1).map (fun b => (b.toNat, w.2)))
  bs.take (ceilDiv (n * g.outw) g.inw)

end Sys2Proof.Machine
end

