-- ==== Sys2Proof/Machine/Streams.lean ====
section
/-! DEFINITION. Stream records, the transforms of a stream engine, its beats, and the instructions
of OP 0xC8 to 0xCC (spec/11_streams.md, R299 to R329). -/

namespace Sys2Proof.Machine

/-! ### The record (R302, Table 11.1) -/

/-- The fields of a record; counts hold the field plus 1. -/
structure Rec where
  addr : Nat
  count : List Nat
  stride : List Nat
  kind : Nat
  pat : Nat
  dir : Bool
  eos : Bool
  chunk : Nat
  hidx : Nat
  tr : Bool
  zs : Nat
  mx : Bool
  cv : Bool
  sty : Nat
  dty : Nat
  sta : Option (Fin 8)
  cg : Nat
  cp : Fin 4
  scope : Nat
  soff : Nat
  slen : Nat
  redop : Nat
deriving DecidableEq, Repr

/-- n bits from bit b of byte i of a record. -/
def rBits (x : BitVec 512) (i b n : Nat) : Nat := bitsAt x.toNat (8 * i + b) n

def recOf (x : BitVec 512) : Rec :=
  { addr := rBits x 0 0 56, count := (List.range 5).map (fun d => rBits x (8 + 2 * d) 0 16 + 1),
    stride := (List.range 5).map (fun d => rBits x (18 + 4 * d) 0 32), kind := rBits x 38 0 2, pat := rBits x 38 2 2,
    dir := rBits x 38 4 1 == 1, eos := rBits x 38 5 1 == 1, chunk := rBits x 39 0 3, hidx := rBits x 40 0 16,
    tr := rBits x 42 0 1 == 1, zs := rBits x 42 1 2, mx := rBits x 42 3 1 == 1, cv := rBits x 42 4 1 == 1,
    sty := rBits x 43 0 5, dty := rBits x 44 0 5,
    sta := if rBits x 45 3 1 = 1 then some (Fin.ofNat 8 (rBits x 45 0 3)) else none,
    cg := rBits x 46 0 5, cp := Fin.ofNat 4 (rBits x 47 0 2), scope := rBits x 47 2 3,
    soff := rBits x 48 0 21, slen := rBits x 51 0 21, redop := rBits x 54 0 3 }

/-- Some reserved bit is set. -/
def recReserved (x : BitVec 512) : Bool :=
  rBits x 7 0 8 != 0 || rBits x 38 6 2 != 0 || rBits x 39 3 5 != 0 || rBits x 42 5 3 != 0 || rBits x 43 5 3 != 0
  || rBits x 44 5 3 != 0 || rBits x 45 4 4 != 0 || rBits x 46 5 3 != 0 || rBits x 47 5 3 != 0 || rBits x 50 5 3 != 0
  || rBits x 53 5 3 != 0 || rBits x 54 3 5 != 0 || rBits x 55 0 72 != 0

/-- Types 0–9 or 16 to hi. -/
def recTy (hi code : Nat) : Bool := decide (code ≤ 9) || (decide (16 ≤ code) && decide (code ≤ hi))

/-- Element types of MX blocks. -/
def mxCode (code : Nat) : Bool := code == 0 || code == 8 || (decide (19 ≤ code) && decide (code ≤ 23))

/-- The type of a type code. -/
def codeTy (code : Nat) : Ty := (tyOf code).getD .n8

/-- The type at the transpose stage (R304, R305). -/
def Rec.trTy (r : Rec) : Ty := codeTy (if r.dir then (if r.cv then r.dty else r.sty) else (if r.mx then r.dty else r.sty))

/-- The type at the compression or expansion stage. -/
def Rec.zsTy (r : Rec) : Ty := codeTy (if r.zs = 1 && r.cv then r.dty else r.sty)

/-- A count of dimension d. -/
def Rec.cnt (r : Rec) (d : Nat) : Nat := r.count.getD d 1

/-- A stride of dimension d. -/
def Rec.str (r : Rec) (d : Nat) : Nat := r.stride.getD d 0

/-- R302: the record is well formed for a kind, in a partition of some clusters; rank is that of the
handle it names, when there is one. -/
def recOk (x : BitVec 512) (kind clusters : Nat) (rank : Option Nat) : Bool :=
  let r := recOf x
  !recReserved x && r.kind == kind && decide (r.pat ≤ 2) && decide (r.zs ≤ 2) && decide (r.chunk ≤ 6)
  && (r.pat != 1 || (r.addr == 0 && r.chunk == 0)) && (r.pat == 1 || r.hidx == 0)
  && (r.pat != 2 || (r.kind == 0 && !r.dir && [0, 2, 3, 4].all (fun d => r.str d == 0)))
  && !(r.eos && r.dir)
  && (match rank with
      | some n => r.pat != 1 || (List.range 5).all (fun d => decide (d < n) || (r.cnt d == 1 && r.str d == 0))
      | none => true)
  && (if r.tr || r.zs != 0 || r.mx || r.cv then recTy 25 r.sty else r.sty == 0)
  && (if r.mx || r.cv then recTy 24 r.dty else r.dty == 0)
  && (!r.cv || r.sty != r.dty)
  && (!r.mx || (r.zs == 0 && !r.cv && r.pat == 1 &&
      (if r.dir then (r.sty == 16 || r.sty == 17) && mxCode r.dty
       else mxCode r.sty && decide (16 ≤ r.dty) && decide (r.dty ≤ 18))))
  && (!r.tr || (decide (r.cnt 0 ≤ 128) && decide (r.cnt 1 ≤ 128) && tyWidth r.trTy != 4
      && (r.pat != 0 || 8 * 2 ^ r.chunk == tyWidth (codeTy r.sty))))
  && decide (r.cg < clusters) && decide (r.scope ≤ 4)
  && (if r.kind = 1 then decide (1 ≤ r.slen) && decide (r.soff + r.slen ≤ 0x180000) && decide (r.redop ≤ 5) && (r.redop == 0 || !r.dir)
      else r.soff == 0 && r.slen == 0 && r.redop == 0)
  && (r.kind != 2 || (r.pat == 0 && !r.dir && rBits x 42 0 8 == 0 && rBits x 45 0 8 == 0))

/-- The compressed side is memory (R306). -/
def Rec.memRun (r : Rec) : Bool := r.zs == (if r.dir then 1 else 2)

/-- The pieces of the pattern. -/
def Rec.total (r : Rec) : Nat := if r.pat = 2 then r.cnt 1 * r.cnt 0 else prodNat r.count

/-- R306: a dense total that is no multiple of 32, or elements that are not of 8, 16 or 32 bits. -/
def Rec.denseBad (r : Rec) : Bool :=
  r.zs != 0 && (!([8, 16, 32].contains (tyWidth r.zsTy)) || (r.memRun && r.total % 32 != 0))

/-! ### Requests -/

def EngReq.rc (r : EngReq) : Rec := recOf r.rcd

def EngReq.agent (r : EngReq) : AgentId := .tile r.t r.c

def EngReq.mctx (r : EngReq) : Fin 128 := mctxOf r.q r.c

def State.reqLaunch (s : State) (r : EngReq) : Option Launch := s.launches.find? (fun l => l.q == r.q && l.c == r.c)

/-- The entry of the handle a request names (R303). -/
def State.reqHandle (s : State) (r : EngReq) : Option (BitVec 1024) :=
  match s.reqLaunch r with
  | some l => if r.rc.pat = 1 then l.handles[r.rc.hidx]? else none
  | none => none

/-- Bits of a piece in the stream; a compressed run is visited byte by byte (R306). -/
def State.unitBits (s : State) (r : EngReq) : Nat :=
  if r.rc.memRun then 8
  else match s.reqHandle r with
    | some d => tyWidth (hdesc d).ty
    | none => 8 * 2 ^ r.rc.chunk

/-- A request of the launch, before its first beat. -/
def newReq (kind : Nat) (q : Fin 32) (t : Fin 256) (c : Fin 4) (num : Fin 16) (rcd : BitVec 512) (off : Word) (soff : Nat)
    (wm sq : Option (Fin 16)) (by_ : Issued) : EngReq :=
  { kind := kind, q := q, t := t, c := c, num := num, rcd := rcd, off := off, soff := soff, wm := wm, sq := sq, by_ := by_,
    stamp := 0, started := false, order := 0, pos := 0, idx := [], src := [], inEnd := false, staPos := 0, mid := [],
    sent := 0, scales := [], ev := Ev.zero, moved := 0, parked := none, parkVa := 0, short := false, trunc := false,
    poison := false, cut := false, refused := false, ending := none, tail := [], last := false }

/-- Queue a request at the engine of a channel group, in order of arrival (R299). -/
def State.submitReq (s : State) (cg : Fin 32) (r : EngReq) : State :=
  s.modCluster cg (fun x => { x with eng := x.eng ++ [{ r with stamp := x.stamp }], stamp := x.stamp + 1 })

def StreamStat.empty : StreamStat := ⟨0, 0, 0, false, false, false, false, 0, Ev.zero, 0⟩

/-- Where a request reports (R316). -/
def State.modStat (s : State) (r : EngReq) (f : StreamStat → StreamStat) : State :=
  if r.kind = 0 then
    s.modCtx r.agent (fun c => { c with ss := vset c.ss r.num { c.ss.get r.num with stat := f (c.ss.get r.num).stat } })
  else if r.kind = 3 then s
  else
    let i := r.wm.getD 0
    s.modCtx r.agent (fun c => { c with wm := vset c.wm i { c.wm.get i with stat := f (c.wm.get i).stat } })

/-- The stream's slot is to stop (R326). -/
def State.stopping (s : State) (r : EngReq) : Bool := r.kind == 0 && ((s.ctx r.agent).ss.get r.num).stat.state == 3

/-! ### Bytes and elements of a stream -/

/-- Parts of n items; an incomplete last part is left out. -/
def chunksOf {α : Type} (n : Nat) : Nat → List α → List (List α)
  | 0, _ => []
  | k + 1, l => if l.length < n ∨ n = 0 then [] else l.take n :: chunksOf n k (l.drop n)

/-- The w-bit elements of bytes. -/
def toElems (w : Nat) (bs : List Datum) : List Datum :=
  if w = 4 then bs.flatMap (fun b => [(b.1 % 16, b.2), (b.1 / 16, b.2)])
  else (chunksOf (w / 8) bs.length bs).map (fun x => (joinWord 8 (x.map (fun b => b.1)), x.any (fun b => b.2)))

/-- The bytes of whole elements, the last byte of nibbles filled with zero when the data ends. -/
def toBytes (w : Nat) (ended : Bool) (es : List Datum) : List Datum :=
  if w = 4 then
    let ps := if ended && es.length % 2 == 1 then es ++ [(0, false)] else es
    (chunksOf 2 ps.length ps).map (fun x => (joinWord 4 (x.map (fun b => b.1)), x.any (fun b => b.2)))
  else es.flatMap (fun e => (leBytes (w / 8) e.1).map (fun b => (b.toNat, e.2)))

/-- Transformed elements with their events; poisoned ones count none (R308). -/
def counted (xs : List (Nat × Ev × Bool)) : List Datum × Ev :=
  (xs.map (fun x => (x.1, x.2.2)), Ev.sum ((xs.filter (fun x => !x.2.2)).map (fun x => x.2.1)))

/-- Format conversion (R305, R87). -/
def cvElems (s d : Ty) (es : List Datum) : List Datum × Ev :=
  counted (es.map (fun e => let r := convert d (decodeElem s e.1); (r.1, r.2, e.2)))

/-- MX dequantisation with the scales of the blocks (R305, R90). -/
def deqElems (s d : Ty) (scales es : List Datum) : List Datum × Ev :=
  counted (es.zipIdx.map (fun e =>
    let k := scales.getD (e.2 / 32) (0, false)
    let r := dequantise d s k.1 e.1.1
    (r.1, r.2, e.1.2 || k.2)))

/-- MX quantisation of whole blocks: elements, scales and events (R305, R89). A block with an element that
did not arrive is not written (log 28). -/
def quantBlocks (s d : Ty) (es : List (Option Datum)) : List (Option Datum) × List (Option Datum) × Ev :=
  (chunksOf 32 es.length es).foldl (fun (o : List (Option Datum) × List (Option Datum) × Ev) b =>
    if b.any Option.isNone then (o.1 ++ List.replicate 32 none, o.2.1 ++ [none], o.2.2)
    else
      let xs := b.filterMap id
      let po := xs.any (fun e => e.2)
      let r := quantiseMX d (xs.map (fun e => decodeElem s e.1))
      (o.1 ++ r.2.1.map (fun x => some (x, po)), o.2.1 ++ [some (r.1, po)], if po then o.2.2 else o.2.2.add r.2.2))
    ([], [], Ev.zero)

/-- The bytes of elements, some of which did not arrive. -/
def bytesOf (w : Nat) (es : List (Option Datum)) : List (Option Datum) :=
  if w = 4 then
    (chunksOf 2 es.length es).map (fun x => match x with
      | [some a, some b] => some (a.1 % 16 + b.1 % 16 * 16, a.2 || b.2)
      | _ => none)
  else es.flatMap (fun e => match e with
    | some e => (leBytes (w / 8) e.1).map (fun b => some (b.toNat, e.2))
    | none => List.replicate (w / 8) none)

/-- Blocks of n elements and, at the end, what is left (R307). -/
def blocksOf (n : Nat) (ended : Bool) (es : List Datum) : List (List Datum) :=
  chunksOf n es.length es ++ (if ended && n != 0 && es.length % n != 0 then [es.drop (es.length / n * n)] else [])

/-- Transpose on a read: a block in the order i0 outer, i1 inner (R307). -/
def trRead (c0 c1 : Nat) (ended : Bool) (es : List Datum) : List Datum :=
  (blocksOf (c0 * c1) ended es).flatMap (fun b =>
    (List.range (c0 * c1)).filterMap (fun j => b[j % c1 * c0 + j / c1]?))

/-- Transpose on a write: a block that arrived in that order, in pattern order; at the end, a block that
has arrived in part leaves its other places out (R307, R310). -/
def trWrite (c0 c1 : Nat) (ended : Bool) (es : List Datum) : List (Option Datum) :=
  (blocksOf (c0 * c1) ended es).flatMap (fun b => (List.range (c0 * c1)).map (fun j => b[j % c0 * c1 + j / c0]?))

/-- Zero-skip compression of a group (R306); poison of one element spreads to the group (R309). -/
def packGroup (w : Nat) (b : List Datum) : List Datum :=
  let po := b.any (fun e => e.2)
  let mask := (b.zipIdx.map (fun e => if e.1.1 % 2 ^ w = 0 then 0 else 2 ^ e.2)).foldl (· + ·) 0
  let bs := leBytes 4 mask ++ (b.filter (fun e => e.1 % 2 ^ w != 0)).flatMap (fun e => leBytes (w / 8) e.1)
  let pad := (4 - bs.length % 4) % 4
  (bs ++ List.replicate pad (0 : Byte)).map (fun (x : Byte) => (x.toNat, po))

def packDense (w : Nat) (ended : Bool) (es : List Datum) : List Datum := (blocksOf 32 ended es).flatMap (packGroup w)

/-- The dense elements of a group's mask and elements. -/
def fillGroup (w : Nat) (mask : Nat) (po : Bool) (es : List Datum) : List Datum :=
  (List.range 32).map (fun i =>
    if bitOf mask i then
      let e := es.getD (popCount i mask) (0, false)
      (e.1 % 2 ^ w, e.2 || po)
    else (0, po))

/-- Zero-skip expansion (R306) of at most n groups: the dense elements, and whether the bytes end
inside a group. -/
def expandGo (w : Nat) : Nat → List Datum → List Datum × Bool
  | 0, _ => ([], false)
  | n + 1, bs =>
    if bs.length < 4 then ([], !bs.isEmpty)
    else
      let m := bs.take 4
      let mask := joinWord 8 (m.map (fun b => b.1))
      let k := popCount 32 mask * w / 8
      let len := 4 + ceilDiv k 4 * 4
      if bs.length < len then ([], true)
      else
        let r := expandGo w n (bs.drop len)
        (fillGroup w mask (m.any (fun b => b.2)) (toElems w ((bs.drop 4).take k)) ++ r.1, r.2)

/-- The expansion of a request's data up to its dense total. -/
def expand (rc : Rec) (total : Nat) (bs : List Datum) : List Datum × Bool :=
  let r := expandGo (tyWidth rc.zsTy) (ceilDiv total 32) bs
  (r.1.take total, r.2)

/-- The stages of a read after the STA (Table 11.2): the output bytes so far and their events. -/
def readOut (rc : Rec) (total : Nat) (x scales : List Datum) (ended : Bool) : List Datum × Ev :=
  let a : List Datum × Ev :=
    if rc.mx then
      let d := deqElems (codeTy rc.sty) (codeTy rc.dty) scales (toElems (tyWidth (codeTy rc.sty)) x)
      (toBytes (tyWidth (codeTy rc.dty)) ended d.1, d.2)
    else if rc.zs = 2 then (toBytes (tyWidth rc.zsTy) ended (expand rc total x).1, Ev.zero)
    else (x, Ev.zero)
  let w := tyWidth rc.trTy
  let b := if rc.tr then toBytes w ended (trRead (rc.cnt 0) (rc.cnt 1) ended (toElems w a.1)) else a.1
  let c : List Datum × Ev :=
    if rc.cv then
      let d := cvElems (codeTy rc.sty) (codeTy rc.dty) (toElems (tyWidth (codeTy rc.sty)) b)
      (toBytes (tyWidth (codeTy rc.dty)) ended d.1, d.2)
    else (b, Ev.zero)
  let d := if rc.zs = 1 then packDense (tyWidth rc.zsTy) ended (toElems (tyWidth rc.zsTy) c.1) else c.1
  (d, a.2.add c.2)

/-- What the stages of a write before the STA make of the data so far; a byte that did not arrive is none. -/
structure WFlow where
  bytes : List (Option Datum)
  scales : List (Option Datum)
  ev : Ev
  /-- No further input is needed. -/
  full : Bool
  /-- A compressed run ended inside a group. -/
  bad : Bool

/-- At most so many, when there is a limit. -/
def atMost {α : Type} (n : Option Nat) (l : List α) : List α :=
  match n with
  | some k => l.take k
  | none => l

/-- The elements of a write that the pattern covers, of the type at the end of the stages (R303, R310). -/
def Rec.outElems (rc : Rec) (bytes : Nat) : Nat :=
  if rc.zs = 1 || rc.mx then rc.total else ceilDiv (8 * bytes) (tyWidth (codeTy (if rc.cv then rc.dty else rc.sty)))

/-- The stages of a write before the STA (Table 11.2): n elements at most are taken, and want bytes are what
memory takes; an STA takes what there is. -/
def writeIn (rc : Rec) (n want : Option Nat) (x : List Datum) (inEnd : Bool) : WFlow :=
  let e : List Datum × Bool := if rc.zs = 2 then
      let r := expandGo (tyWidth rc.zsTy) (match n with | some k => ceilDiv k 32 | none => x.length / 4 + 1) x
      (toBytes (tyWidth rc.zsTy) inEnd (atMost n r.1), r.2)
    else (x, false)
  let c : List Datum × Ev :=
    if rc.cv then
      let d := cvElems (codeTy rc.sty) (codeTy rc.dty) (atMost n (toElems (tyWidth (codeTy rc.sty)) e.1))
      (toBytes (tyWidth (codeTy rc.dty)) inEnd d.1, d.2)
    else (e.1, Ev.zero)
  let w := tyWidth rc.trTy
  let es := fun (w' : Nat) => if rc.tr then trWrite (rc.cnt 0) (rc.cnt 1) inEnd (toElems w c.1) else (toElems w' c.1).map some
  let enough := fun (l : List (Option Datum)) => match want with | some k => decide (k ≤ l.length) | none => false
  if rc.mx then
    let q := quantBlocks (codeTy rc.sty) (codeTy rc.dty) (atMost n (es (tyWidth (codeTy rc.sty))))
    let bs := bytesOf (tyWidth (codeTy rc.dty)) q.1
    ⟨atMost want bs, q.2.1, c.2.add q.2.2, enough bs, e.2⟩
  else if rc.zs = 1 then
    let xs := (es (tyWidth rc.zsTy)).take rc.total
    let full := decide (rc.total ≤ xs.length) && xs.all Option.isSome
    ⟨(packDense (tyWidth rc.zsTy) (full || inEnd) (xs.map (fun x => x.getD (0, false)))).map some, [], c.2, full, false⟩
  else
    let bs := if rc.tr then bytesOf w (es w) else c.1.map some
    ⟨atMost want bs, [], c.2, enough bs, e.2⟩

/-! ### The data of a request -/

/-- The slot a request runs, with its graph (R304, R344). -/
def State.reqSta (s : State) (cg : Fin 32) (r : EngReq) : Option StaSlot := r.rc.sta.map (fun k => (s.clusters.get cg).sta.get k)

/-- Bytes of the first stage on a read. -/
def State.srcBytes (s : State) (r : EngReq) : List Datum :=
  if s.unitBits r = 4 then toBytes 4 r.inEnd r.src else r.src

/-- Bytes that reach the stage after the STA on a read, and whether they are complete. -/
def State.readMid (s : State) (cg : Fin 32) (r : EngReq) : List Datum × Bool :=
  let b := s.srcBytes r
  match s.reqSta cg r with
  | some _ => (r.mid, r.inEnd && r.staPos == b.length)
  | none => (b, r.inEnd)

/-- The output of a read: bytes, events and completeness. -/
def State.readFlow (s : State) (cg : Fin 32) (r : EngReq) : List Datum × Ev × Bool :=
  let m := s.readMid cg r
  let o := readOut r.rc r.rc.total m.1 r.scales m.2
  (o.1, o.2, m.2)

/-- The bytes of memory that a write covers. -/
def State.memBytes (s : State) (r : EngReq) : Nat := ceilDiv (r.rc.total * s.unitBits r) 8

/-- The data of a write at the STA, or at memory: an STA takes what the byte stream holds until memory has
what it takes (R331). -/
def State.writeFlow (s : State) (cg : Fin 32) (r : EngReq) : WFlow :=
  let rc := r.rc
  let mb := s.memBytes r
  match s.reqSta cg r with
  | some _ =>
    let f := writeIn rc (if rc.zs = 1 then some rc.total else none) none r.src r.inEnd
    { f with full := if rc.zs = 1 then f.full else decide (mb ≤ r.mid.length) }
  | none => writeIn rc (some (rc.outElems mb)) (if rc.zs = 1 then none else some mb) r.src r.inEnd

/-- The bytes a write lays out in memory, and whether they are complete. -/
def State.writeMid (s : State) (cg : Fin 32) (r : EngReq) : List (Option Datum) × Bool :=
  let f := s.writeFlow cg r
  match s.reqSta cg r with
  | some _ =>
    let taken := decide (f.bytes.length ≤ r.staPos)
    if r.rc.zs = 1 then (r.mid.map some, (f.full || r.inEnd) && taken)
    else ((r.mid.take (s.memBytes r)).map some, f.full || (r.inEnd && taken))
  | none => (f.bytes, f.full || r.inEnd)

/-- Where arrival element i stands in the order in which a write lays elements out (R307). -/
def Rec.outPlace (rc : Rec) (i : Nat) : Nat :=
  if rc.tr then
    let n := rc.cnt 0 * rc.cnt 1
    i / n * n + i % n % rc.cnt 1 * rc.cnt 0 + i % n / rc.cnt 1
  else i

/-- The events of a write that an STA takes: those of the elements whose bytes its beats have taken, and of the MX
blocks with such an element (R95, R308, R331). -/
def State.staEv (s : State) (cg : Fin 32) (r : EngReq) : Ev :=
  let rc := r.rc
  let n := rc.outElems r.staPos
  if rc.zs = 1 then (s.writeFlow cg r).ev
  else if rc.mx then (writeIn rc (some (ceilDiv (ceilDiv (8 * r.staPos) (tyWidth (codeTy rc.dty))) 32 * 32)) none r.src r.inEnd).ev
  else if rc.cv then
    let x := if rc.zs = 2 then toBytes (tyWidth rc.zsTy) r.inEnd (expandGo (tyWidth rc.zsTy) (r.src.length / 4 + 1) r.src).1 else r.src
    let es := (toElems (tyWidth (codeTy rc.sty)) x).zipIdx.filter (fun e => !e.1.2 && decide (rc.outPlace e.2 < n))
    Ev.sum (es.map (fun e => (convert (codeTy rc.dty) (decodeElem (codeTy rc.sty) e.1.1)).2))
  else Ev.zero

/-- The events of a request (R308). -/
def State.reqEv (s : State) (cg : Fin 32) (r : EngReq) : Ev :=
  r.ev.add (if !r.rc.dir then (s.readFlow cg r).2.1
    else if r.rc.sta.isSome then s.staEv cg r else (s.writeFlow cg r).ev)

/-! ### Pieces (R303) -/

/-- The indices i0, i1, … of a visit, dimension 0 fastest. -/
def visitIdx : List Nat → Nat → List Nat
  | [], _ => []
  | n :: ns, p => p % n :: visitIdx ns (p / n)

/-- Where a visit leads. -/
inductive Spot where
  /-- A piece of zeros. -/
  | zero (poison : Bool)
  /-- Bytes or bits in a store, with the other nibble's visit when the piece is a nibble. -/
  | cells (space : Bool) (expect : Option Nat) (ps : List Piece) (other : Option Nat)
  /-- Only a nibble, whose byte has no other visited nibble, with its address. -/
  | lone (va : Nat)
  /-- The unit is being converted, or is Old and the access writes. -/
  | hold
  /-- An error: reason and address. -/
  | bad (reason va : Nat)

/-- A piece of n bytes at an address. -/
def addrSpot (a n : Nat) : Spot :=
  if 2 ^ 56 ≤ a then .bad 6 a
  else if a % n ≠ 0 then .bad 7 a
  else .cells false none [⟨a, n, 0, 8 * n, 0⟩] none

/-- The coordinates of visit p of a handle pattern. -/
def visitCoords (rc : Rec) (rank : Nat) (off : Word) (p : Nat) : List Int :=
  let ii := visitIdx rc.count p
  (List.range rank).map (fun k =>
    let d := rank - 1 - k
    ((rc.str d + ii.getD d 0 : Nat) : Int) + (if k = 0 then off.toInt else 0))

/-- The visit that has given coordinates. -/
def visitOf (rc : Rec) (rank : Nat) (off : Word) (x : List Int) : Option Nat :=
  let i := fun (d : Nat) => x.getD (rank - 1 - d) 0 - rc.str d - (if rank - 1 - d = 0 then off.toInt else 0)
  if (List.range rank).all (fun d => coordIn (rc.cnt d) (i d)) then
    some ((List.range rank).foldl (fun a d => a + (i d).toNat * prodNat (rc.count.take d)) 0)
  else none

/-- The coordinates of the other nibble of an element's byte, in any layout. -/
def otherNibble (h : HDesc) (v : Option Conv) (x : List Int) : Option (List Int) :=
  let here := placeBit h v (toNats x)
  ((List.range h.rank).flatMap (fun i => [1, -1, 16, -16].map (fun (δ : Int) => x.modify i (fun y => y + δ)))).find? (fun y =>
    (h.outDim y).isNone && placeBit h v (toNats y) / 8 == here / 8 && placeBit h v (toNats y) != here)

/-- The element of visit p of a handle pattern (R205, R211). -/
def handleSpot (s : State) (r : EngReq) (d : BitVec 1024) (p : Nat) : Spot :=
  let h := hdesc d
  let rc := r.rc
  if h.cstate = 2 then .bad 5 0
  else
    let x := visitCoords rc h.rank r.off p
    if (h.outDim x).isSome then (if h.bounds then .bad 8 0 else .zero false)
    else
      let v := s.convOf r.q r.c rc.hidx
      let place := Spot.cells h.space h.expect (piecesOf (placeBit h v (toNats x)) h.ws)
      let go : Spot :=
        if h.ws = 4 && rc.dir then
          match (otherNibble h v x).bind (visitOf rc h.rank r.off) with
          | some y => place (some y)
          | none => .lone (placeBit h v (toNats x) / 8)
        else place none
      match v with
      | none => go
      | some v' =>
        let u := v'.unitOf (toNats x)
        match v'.unitState u with
        | .converting => .hold
        | .old => if rc.dir then .hold else go
        | .new => go

/-- Where visit p of a request leads; a gather takes its index from idx. -/
def spotOf (s : State) (r : EngReq) (p : Nat) : Spot :=
  let rc := r.rc
  let n := 2 ^ rc.chunk
  if rc.memRun then addrSpot ((rc.addr + r.off.toNat + p) % 2 ^ 64) 1
  else
    match s.reqHandle r with
    | some d => handleSpot s r d p
    | none =>
      if rc.pat = 1 then .bad 5 0
      else if rc.pat = 2 then
        let i := r.idx.getD (p / rc.cnt 0) (0, false)
        if i.1 = 0xFFFFFFFF ∨ i.2 then .zero i.2
        else addrSpot (intMod ((rc.addr + r.off.toNat + p % rc.cnt 0 * n : Nat) + (i.1 : Int) * sextInt (rc.str 1) 32) 64) n
      else
        let ii := visitIdx rc.count p
        addrSpot (intMod ((List.range 5).foldl (fun (a : Int) d => a + (ii.getD d 0 : Int) * sextInt (rc.str d) 32)
          ((rc.addr + r.off.toNat : Nat) : Int)) 64) n

/-! ### Accesses of an engine (R206, R251, R315, R320) -/

/-- What accesses of an engine come to. -/
inductive EngAcc where
  | ok (xs : List (Piece × Xlated))
  | wait (s : State)
  | park (va level : Nat)
  | fail (reason va : Nat)

/-- How its accesses treat the selectors of the slices: push-program reads leave them alone (R433). -/
def EngReq.duel (r : EngReq) : Duel := if r.kind = 3 then .push else .plain

/-- The reason of a failure in translation: a key slot, a lost read of a table, or another (R315, R432). -/
def engReason (cause : Nat) : Nat := if cause = 0x13 then 9 else if cause = 0x12 then 12 else 6

/-- Translate and check pieces of one access each; a walk or a line on which one has to wait is asked for (R263). -/
def engAccess (s : State) (cg : Fin 32) (r : EngReq) (k : Kind) (expect : Option Nat) : List Piece → EngAcc
  | [] => .ok []
  | p :: ps =>
    match s.unitWalk cg r.mctx p.addr with
    | some s1 => .wait s1
    | none =>
      match s.translate none cg r.mctx k p.addr with
      | .missing l => .park p.addr l
      | .fault _ cause _ => .fail (engReason cause) p.addr
      | .ok x =>
        if expect.isSome && expect != some x.slot then .fail 9 p.addr
        else if !s.reachable x.pa then .fail 12 p.addr
        else if s.mayEnter x.pa p.len r.rc.cp then
          match engAccess s cg r k expect ps with
          | .ok xs => .ok ((p, x) :: xs)
          | o => o
        else .wait (s.askLines x.pa p.len r.rc.cp r.mctx r.duel)

/-- The slices pass the walks and the accesses. -/
def engTouch (s : State) (cg : Fin 32) (r : EngReq) (xs : List (Piece × Xlated)) : State :=
  xs.foldl (fun s x => (s.walked cg r.mctx x.1.addr).touch x.2.pa x.1.len r.rc.cp r.mctx r.duel) s

/-- The bits of pieces read, with their poison. -/
def joinPieces (xs : List (Piece × List Byte × List Bool)) : Datum :=
  xs.foldl (fun a x => (a.1 + bitsAt (leNat x.2.1) x.1.shift x.1.w * 2 ^ x.1.off, a.2 || x.2.2.any id)) (0, false)

/-- The bytes of a whole-byte piece with the poison of each. -/
def pieceBytes (xs : List (Piece × List Byte × List Bool)) : List Datum :=
  xs.flatMap (fun x => x.2.1.zipIdx.map (fun b => (b.1.toNat, x.2.2.getD b.2 false)))

/-- Read translated pieces. -/
def engRead (s : State) (xs : List (Piece × Xlated)) : List (Piece × List Byte × List Bool) × State :=
  xs.foldl (fun (o : List (Piece × List Byte × List Bool) × State) x =>
    let r := o.2.readPa x.2.key x.2.pa x.1.len
    (o.1 ++ [(x.1, r.1, r.2.1)], r.2.2)) ([], s)

/-! ### Sectors that a request writes (R290, R310) -/

/-- A byte to write: its value, the bits of it that are written, and its poison. -/
structure Wb where
  val : Nat
  mask : Nat
  poison : Bool
deriving DecidableEq, Repr

/-- A whole byte. -/
def Wb.whole (d : Datum) : Wb := ⟨d.1, 255, d.2⟩

/-- A list from an address on, cut at the sectors. -/
def sectorCut {α : Type} (a : Nat) (l : List α) : List (Nat × List α) :=
  (List.range ((a + l.length + 31) / 32 - a / 32)).map (fun i =>
    let lo := Max.max a ((a / 32 + i) * 32)
    (lo, (l.drop (lo - a)).take ((a / 32 + i) * 32 + 32 - lo)))

/-- The same sector. -/
def SectorUse.meets (x y : SectorUse) : Bool := x.tile == y.tile && x.sector == y.sector

/-- The same sector and request. -/
def SectorUse.same (x y : SectorUse) : Bool := x.meets y && x.cg == y.cg && x.stamp == y.stamp

/-- A request's use of the sector of a byte; a new one holds what the scratchpad's sector holds now. -/
def State.sectorOf (s : State) (cg : Fin 32) (r : EngReq) (tile : Option (Fin 256)) (a : Nat) : SectorUse :=
  let new : SectorUse := { cg := cg, stamp := r.stamp, tile := tile, sector := a / 32, own := 0, clean := 0, lost := 0
                           before := match tile with | some t => BitVec.ofNat 256 ((s.tile t).scratch.readNat (a / 32 * 32) 32) | none => 0
                           beforePoison := match tile with | some t => (s.tile t).scratch.poisoned a | none => false }
  (s.sectors.find? new.same).getD new

/-- Keep a request's use of a sector. Uses stand in the order of the first writes: of two requests whose
writes meet, the one that came to the sector later leaves its bytes, so what it writes is lost to
those before it. -/
def State.keepSector (s : State) (k : SectorUse) (eff : BitVec 256) : State :=
  let before := s.sectors.takeWhile (fun x => !x.same k)
  { s with sectors := before.map (fun x => if x.meets k then { x with lost := x.lost ||| eff } else x)
                        ++ k :: (s.sectors.drop before.length).drop 1 }

/-- The bits that bytes at an address cover in their sector. -/
def wbMask (lo : Nat) (ws : List Wb) : BitVec 256 :=
  BitVec.ofNat 256 (joinWord 8 (ws.map (fun w => w.mask)) <<< (8 * (lo % 32)))

/-- Write bytes of one sector for a request (R290, R310): bits that a request which came later has written
stay; poisoned bytes poison the sector, and one written whole from clean bits loses its poison. -/
def putSector (s : State) (cg : Fin 32) (r : EngReq) (tile : Option (Fin 256)) (key : Option Key) (lo : Nat) (ws : List Wb) : State :=
  let k := s.sectorOf cg r tile lo
  let eff := wbMask lo ws &&& ~~~k.lost
  let m := fun (i : Nat) => bitsAt eff.toNat (8 * (lo % 32 + i)) 8
  let old := if (List.range ws.length).all (fun i => m i == 0 || m i == 255) then []
    else match tile with
      | some t => (s.tile t).scratch.read lo ws.length
      | none => (s.readPa key lo ws.length).1
  let bs := ws.zipIdx.map (fun w => BitVec.ofNat 8 (((old.getD w.2 (0 : Byte)).toNat &&& (255 - m w.2)) ||| (w.1.val &&& m w.2)))
  let mask := (List.range ws.length).map (fun i => m i != 0)
  let po := ws.zipIdx.any (fun w => w.1.poison && m w.2 != 0)
  let clean := if po then 0 else k.clean ||| eff
  let heal := clean == BitVec.allOnes 256
  let s1 := match tile with
    | some t => s.modTile t (fun y =>
        let x := y.scratch.writeMasked lo bs mask
        { y with scratch := if po then x.poisonSector (lo / 32) else if heal then x.healSector (lo / 32) else x })
    | none =>
      let x := s.writePa key lo bs mask
      if po then x.poisonPa lo 1 else if heal then x.healPa lo else x
  s1.keepSector { k with own := k.own ||| eff, clean := clean } eff

/-- Write bytes for a request, sector by sector: in its tile's scratchpad, or at a physical address. -/
def engStore (s : State) (cg : Fin 32) (r : EngReq) (tile : Option (Fin 256)) (key : Option Key) (a : Nat) (ws : List Wb) : State :=
  (sectorCut a ws).foldl (fun s x => putSector s cg r tile key x.1 x.2) s

/-- The uses of a request that has completed go. -/
def State.dropSectors (s : State) (cg : Fin 32) (r : EngReq) : State :=
  { s with sectors := s.sectors.filter (fun k => !(k.cg == cg && k.stamp == r.stamp)) }

/-- Bytes of its tile's scratchpad as a request reads them: those of a sector that it writes itself as they
stood before its own write (R290). -/
def seenScratch (s : State) (cg : Fin 32) (r : EngReq) (a n : Nat) : List Byte × List Bool :=
  let m := (s.tile r.t).scratch
  let xs := (List.range n).map (fun i =>
    let use := s.sectors.find? (fun k => k.cg == cg && k.stamp == r.stamp && k.tile == some r.t && k.sector == (a + i) / 32)
    match use with
    | none => (m.get (a + i), m.poisoned (a + i))
    | some k =>
      let own := bitsAt k.own.toNat (8 * ((a + i) % 32)) 8
      let old := bitsAt k.before.toNat (8 * ((a + i) % 32)) 8
      (BitVec.ofNat 8 ((old &&& own) ||| ((m.get (a + i)).toNat &&& (255 - own))), k.beforePoison))
  (xs.map (fun x => x.1), xs.map (fun x => x.2))

/-- An engine's access to the scratchpad stalls on a watermark other than its own (R318). -/
def engStall (s : State) (r : EngReq) (off n : Nat) : Bool :=
  (List.finRange 4).any (fun c => (List.finRange 16).any (fun i =>
    let w := ((s.tile r.t).ctx.get c).wm.get i
    w.active && decide (w.order ≤ r.order) && !((r.kind == 1 || r.kind == 2) && c == r.c && r.wm == some i)
      && decide (Max.max off (w.base + w.fill) < Min.min (off + n) (w.base + w.len))))

/-! ### Beats -/

/-- What a beat does. -/
inductive Beat where
  /-- Nothing moves; a fill or a demand may have been asked for. -/
  | idle (s : State)
  | moved (s : State) (r : EngReq)
  /-- An error: cause, reason, element and address. -/
  | fail (s : State) (cause reason elem va : Nat)

/-- Park a request's access (R320). -/
def parkReq (s : State) (cg : Fin 32) (r : EngReq) (k : Kind) (va level : Nat) : Beat :=
  if s.replayRoom (.engine cg) then
    let (tok, s1) := s.park (.engine cg) r.mctx k va level
    .moved s1 { r with parked := some tok, parkVa := va }
  else .idle s

/-- The scale byte of the block a visit begins (R305). -/
def scalePiece (s : State) (r : EngReq) (p : Nat) : Option Piece :=
  match s.reqHandle r with
  | some d =>
    let h := hdesc d
    let x := visitCoords r.rc h.rank r.off p
    if r.rc.mx && p % 32 == 0 && (h.outDim x).isNone then some ⟨h.scaleBase + h.scaleIndex (toNats x), 1, 0, 8, 0⟩ else none
  | none => none

/-- A piece read: its data enters the first stage; moved are the bits read in memory, an MX scale among them (R327). -/
def tookPiece (r : EngReq) (ds : List Datum) (scale : Option Datum) (moved : Nat) : EngReq :=
  let r1 := { r with src := r.src ++ ds, pos := r.pos + 1, moved := r.moved + moved, poison := r.poison || ds.any (fun d => d.2) }
  if r.rc.mx && r.pos % 32 == 0 then { r1 with scales := r1.scales ++ [scale.getD (0, false)] } else r1

/-- The stream data of a visited element of ub bits. -/
def unitData (ub : Nat) (v : Datum) : List Datum :=
  if ub ≤ 8 then [v] else (leBytes (ub / 8) v.1).map (fun b => (b.toNat, v.2))

/-- Read the pieces of visit p. -/
def readPieces (s : State) (cg : Fin 32) (r : EngReq) (ub : Nat) (space : Bool) (expect : Option Nat) (ps : List Piece) : Beat :=
  let sc := match scalePiece s r r.pos with | some p => [p] | none => []
  let n := ps.length
  let take := fun (s : State) (xs : List (Piece × List Byte × List Bool)) =>
    let ds := if ub ≤ 8 then unitData ub (joinPieces (xs.take n)) else pieceBytes (xs.take n)
    let k := if sc.isEmpty then none else some (joinPieces (xs.drop n))
    Beat.moved s (tookPiece r ds k (((ps ++ sc).map (fun p => p.w)).foldl (· + ·) 0))
  if space then
    if (ps ++ sc).any (fun p => engStall s r p.addr p.len) then .idle s
    else take s ((ps ++ sc).map (fun p => (p, seenScratch s cg r p.addr p.len)))
  else
    match engAccess s cg r .read expect (ps ++ sc) with
    | .wait s1 => .idle s1
    | .park va l => parkReq s cg r .read va l
    | .fail n va => .fail s 0x0D n 0 va
    | .ok xs =>
      let (ys, s1) := engRead (engTouch s cg r xs) xs
      take s1 ys

/-- The visits that go together with visit pos: those of its token, or of 64 bytes of a copy (R211, R216,
log 49). -/
def State.tokenVisits (s : State) (r : EngReq) : List Nat :=
  let rc := r.rc
  let w := if rc.cv || rc.mx then tyWidth (codeTy (if rc.dir then rc.sty else rc.dty)) else s.unitBits r
  let sz := match r.kind, s.reqLaunch r with
    | 0, some l =>
      (match l.edges.find? (fun e => if rc.dir then e.dst == .stream r.t r.c r.num else e.src == .stream r.t r.c r.num) with
      | some e => e.tokSize
      | none => 64)
    | _, _ => 64
  let g := Max.max 1 (8 * sz / Max.max 1 w)
  (List.range (Min.min ((r.pos / g + 1) * g) rc.total - r.pos)).map (fun i => r.pos + i)

/-- The units of its handle's conversion that a token touches hold it: what they leave, the Old ones demanded
by a write; none when it proceeds (R211, R216). -/
def tokenHeld (s : State) (r : EngReq) : Option State :=
  let v := s.convOf r.q r.c r.rc.hidx
  match s.reqHandle r, v with
  | some d, some v' =>
    let h := hdesc d
    let us := (s.tokenVisits r).filterMap (fun p =>
      let x := visitCoords r.rc h.rank r.off p
      if (h.outDim x).isSome then none else some (v'.unitOf (toNats x)))
    if r.rc.dir then (if us.any (fun u => v'.unitState u != .new) then some (s.demand v us) else none)
    else if unitsHold v us then some s else none
  | _, _ => none

/-- The visit of the next piece of a read. -/
def readVisit (s : State) (cg : Fin 32) (r : EngReq) : Beat :=
  let ub := s.unitBits r
  match tokenHeld s r with
  | some s1 => .idle s1
  | none =>
    match spotOf s r r.pos with
    | .zero po => .moved s (tookPiece r (if ub ≤ 8 then [(0, po)] else List.replicate (ub / 8) (0, po)) none 0)
    | .cells space expect ps _ => readPieces s cg r ub space expect ps
    | .lone _ | .hold => .idle s
    | .bad n va => .fail s 0x0D n 0 va

/-- The source of the tokens a request pushes. -/
def EngReq.outEnd (r : EngReq) (slice : Fin 320) : Endpoint :=
  if r.kind = 3 then .push slice (Fin.ofNat 4 r.num.val) else .stream r.t r.c r.num

/-- The edge a request pushes into or takes from. -/
def State.reqEdge (s : State) (r : EngReq) (p : Edge → Bool) : Option Edge :=
  match s.reqLaunch r with
  | some l => l.edges.find? p
  | none => none

/-- Push a token (R309, R312). -/
def pushToken (s : State) (r : EngReq) (e : Edge) (t : Token) : State :=
  s.modLaunch r.q r.c (fun l => l.modEdge e.num (fun e => { e with inflight := e.inflight ++ [t], credits := e.credits - 1 }))

/-- Take the token at the head of an edge. -/
def takeToken (s : State) (r : EngReq) (e : Edge) : State :=
  s.modLaunch r.q r.c (fun l => l.modEdge e.num (fun e =>
    { e with queue := e.queue.drop 1, returning := e.returning + 1,
             ended := e.ended || (e.queue.take 1).any (fun t => t.eos) }))

/-- A token of data. -/
def dataToken (c : Fin 4) (ds : List Datum) (eos : Bool) : Token :=
  ⟨BitVec.ofNat 512 (joinWord 8 (ds.map (fun d => d.1))), eos, ds.any (fun d => d.2), c⟩

/-- The bytes an index edge still owes, and the indices of a token. -/
def tokenIdx (sz : Nat) (t : Token) : List Datum := (List.range (sz / 4)).map (fun i => (bitsAt t.bits.toNat (32 * i) 32, t.poison))

/-- Everything is fetched: R303 for plain patterns, the dense total for a compressed run. -/
def allRead (s : State) (cg : Fin 32) (r : EngReq) : Bool :=
  if r.rc.memRun then decide (r.rc.total ≤ (expand r.rc r.rc.total (s.readMid cg r).1).1.length)
  else decide (r.rc.total ≤ r.pos)

/-- Fetch the next piece of a read, or close its input (R303, R312). -/
def fetchBeat (s : State) (cg : Fin 32) (r : EngReq) (room : Bool) : Beat :=
  if r.inEnd then .idle s
  else if allRead s cg r then .moved s { r with inEnd := true }
  else if !room then .idle s
  else if r.rc.pat = 2 ∧ r.idx.length ≤ r.pos / r.rc.cnt 0 then
    match s.reqEdge r (fun e => e.dst == .stream r.t r.c r.num) with
    | none => .idle s
    | some e =>
      match e.queue with
      | [] => if e.ended then .moved s { r with inEnd := true, short := true } else .idle s
      | t :: _ => .moved (takeToken s r e) { r with idx := r.idx ++ tokenIdx e.tokSize t }
  else readVisit s cg r

/-- A gather's idle context after its last index: the EOS token was taken. -/
def gatherShort (s : State) (r : EngReq) : Bool :=
  r.rc.pat == 2 && decide (r.pos < r.rc.total) && decide (r.idx.length ≤ r.pos / r.rc.cnt 0)
    && (match s.reqEdge r (fun e => e.dst == .stream r.t r.c r.num) with | some e => e.ended && e.queue.isEmpty | none => false)

/-! ### Delivery of a read's output -/

/-- Table 11.3: the new resident value. -/
def mergeElem (op old new : Nat) : Nat × Ev :=
  match op with
  | 1 => addBits .f32 old new
  | 2 => ((old + new) % 2 ^ 32, Ev.zero)
  | 3 => (maxBits .f32 old new, Ev.zero)
  | 4 => (minBits .f32 old new, Ev.zero)
  | _ => addBits .bf16 old new

/-- Bytes of a REDOP element. -/
def redBytes (op : Nat) : Nat := if op = 5 then 2 else 4

/-- Merge data with the resident elements (R311): the new data and its events. -/
def mergeData (m : Memory) (op a : Nat) (ds : List Datum) : List Datum × Ev :=
  let n := redBytes op
  let es := (chunksOf n ds.length ds).zipIdx.map (fun e =>
    let at_ := a + n * e.2
    let po := e.1.any (fun d => d.2) || (m.readPoison at_ n).any id
    let r := mergeElem op (m.readNat at_ n) (joinWord 8 (e.1.map (fun d => d.1)))
    ((leBytes n r.1).map (fun b => (b.toNat, po)), if po then Ev.zero else r.2))
  (es.flatMap (fun e => e.1) ++ ds.drop (ds.length / n * n), Ev.sum (es.map (fun e => e.2)))

/-- Merge bytes in the scratchpad for a request; its uses of the sectors show what they held before. -/
def engMerge (s : State) (cg : Fin 32) (r : EngReq) (a : Nat) (ds : List Datum) : State :=
  let ks := (sectorCut a (ds.map Wb.whole)).map (fun x =>
    let k := s.sectorOf cg r (some r.t) x.1
    { k with own := k.own ||| wbMask x.1 x.2 })
  let bs := ds.map (fun d => BitVec.ofNat 8 d.1)
  let ps := ds.map (fun d => d.2)
  let s1 := s.modTile r.t (fun y => { y with scratch := y.scratch.writePoison a bs ps })
  ks.foldl (fun s k => s.keepSector k 0) s1

/-- Write the next bytes of a copy's output to its range (R311). -/
def copyBeat (s : State) (cg : Fin 32) (r : EngReq) (out : List Datum) (ended : Bool) : Option Beat :=
  let rc := r.rc
  let avail := out.drop r.sent
  let n0 := Nat.min 64 avail.length
  let unit := if rc.redop = 0 then 1 else redBytes rc.redop
  let n := if ended && avail.length ≤ 64 then n0 else n0 / unit * unit
  if n = 0 then none
  else
    let room := rc.slen - r.sent
    let ds := (avail.take n).take room
    let a := r.soff + r.sent
    if engStall s r a ds.length then some (.idle s)
    else
      let x := if rc.redop = 0 then (ds, Ev.zero) else mergeData (s.tile r.t).scratch rc.redop a ds
      let s1 := if rc.redop = 0 then engStore s cg r (some r.t) none a (ds.map Wb.whole) else engMerge s cg r a x.1
      let fill := Nat.min rc.slen (r.sent + n)
      let s2 := match r.wm with
        | some w => s1.modCtx r.agent (fun c => { c with wm := vset c.wm w { c.wm.get w with fill := fill } })
        | none => s1
      some (.moved s2 { r with sent := r.sent + n, trunc := r.trunc || decide (room < n), ev := r.ev.add x.2,
                               poison := r.poison || ds.any (fun d => d.2) })

/-- Push the next token of a read's output (R309): a full one that may be the last waits until that is known
when the last is to carry end-of-stream. -/
def tokenBeat (s : State) (r : EngReq) (slice : Fin 320) (out : List Datum) (ended : Bool) : Option Beat :=
  match s.reqEdge r (fun e => e.src == r.outEnd slice) with
  | none => none
  | some e =>
    let avail := out.drop r.sent
    let lastTok := ended && decide (avail.length ≤ e.tokSize)
    let wait := !ended && (decide (avail.length < e.tokSize) || (r.rc.eos && decide (avail.length = e.tokSize)))
    if avail.isEmpty ∨ e.credits = 0 ∨ wait then none
    else
      let ds := avail.take e.tokSize
      some (.moved (pushToken s r e (dataToken r.c ds (lastTok && r.rc.eos)))
        { r with sent := r.sent + ds.length, poison := r.poison || ds.any (fun d => d.2) })

/-- A request with one piece more in its first stage, each byte of it a given one. -/
def withPiece (s : State) (r : EngReq) (fill : Nat) : EngReq :=
  { r with src := r.src ++ List.replicate (Max.max 1 (s.unitBits r / 8)) (fill, false) }

/-- Bytes of output that a read has formed, or will form of the beats that wait for its STA, and has not sent. What a
block, a beat or a group in filling holds forms no output yet (log 49). -/
def aheadBytes (s : State) (cg : Fin 32) (r : EngReq) (fill : Nat) : Nat :=
  let m := match s.reqSta cg r with
    | some k => r.mid ++ List.replicate (((s.srcBytes r).length - r.staPos) / (32 * Max.max 1 k.graph.inw) * (32 * k.graph.outw)) (fill, false)
    | none => s.srcBytes r
  (readOut r.rc r.rc.total m r.scales false).1.length - r.sent

/-- A fetch keeps the output within 64 tokens and 8 KiB of the credits, whatever the piece holds: a byte of zeros ends a
group soonest, and a byte of ones leaves the most to compress. A piece that completes a block is fetched when nothing
formed is left to send, however much the block gives (R312, log 49). -/
def fetchRoom (s : State) (cg : Fin 32) (slice : Fin 320) (r : EngReq) : Bool :=
  match s.reqEdge r (fun e => e.src == r.outEnd slice) with
  | some e =>
    let limit := e.credits * e.tokSize + Nat.min (64 * e.tokSize) 8192
    [0, 255].all (fun x => aheadBytes s cg r x == 0 || decide (aheadBytes s cg (withPiece s r x) x ≤ limit))
  | none => false

/-- Its output goes to a scratchpad. -/
def EngReq.copies (r : EngReq) : Bool := r.kind == 1 || r.kind == 2

/-- Deliver what a read has formed: bytes of a copy, or a token (R309, R311). -/
def deliverBeat (s : State) (cg : Fin 32) (slice : Fin 320) (r : EngReq) : Option Beat :=
  let f := s.readFlow cg r
  if r.copies then copyBeat s cg r f.1 f.2.2 else tokenBeat s r slice f.1 f.2.2

/-- A beat of a read (R309, R312, R313): what is formed goes first. -/
def readBeat (s : State) (cg : Fin 32) (slice : Fin 320) (r : EngReq) : Beat :=
  (deliverBeat s cg slice r).getD (fetchBeat s cg r (r.copies || fetchRoom s cg slice r))

/-! ### A write's beats -/

/-- The data of piece p of a write: its bytes, or a nibble. -/
def pieceData (ub : Nat) (bs : List (Option Datum)) (p : Nat) : List (Option Datum) :=
  if ub = 4 then
    [(bs.getD (p / 2) none).map (fun b => (if p % 2 = 0 then b.1 % 16 else b.1 / 16, b.2))]
  else (List.range (ub / 8)).map (fun i => bs.getD (p * (ub / 8) + i) none)

/-- The bytes to write for a part of an element: each byte of a whole part, and the bits of any other. -/
def pieceWbs (q : Piece) (ds : List (Option Datum)) : List Wb :=
  if q.shift = 0 ∧ q.w = 8 * q.len then
    (List.range q.len).map (fun j => match ds.getD (q.off / 8 + j) none with
      | some d => Wb.whole d
      | none => ⟨0, 0, false⟩)
  else
    let v := joinWord 8 (ds.map (fun d => (d.getD (0, false)).1))
    (List.range q.len).map (fun j =>
      if ds.any Option.isNone then ⟨0, 0, false⟩
      else ⟨bitsAt (bitsAt v q.off q.w <<< q.shift) (8 * j) 8, bitsAt ((2 ^ q.w - 1) <<< q.shift) (8 * j) 8, ds.any (fun d => (d.getD (0, false)).2)⟩)

/-- Bits that some bytes write. -/
def wbBits (ws : List Wb) : Nat := (ws.map (fun w => popCount 8 w.mask)).foldl (· + ·) 0

/-- Write parts of an element with their bytes, and the scale of its block. -/
def putPieces (s : State) (cg : Fin 32) (r : EngReq) (space : Bool) (expect : Option Nat) (ps sc : List (Piece × List Wb)) : Beat :=
  let fin := fun (s : State) => Beat.moved s { r with pos := r.pos + 1, moved := r.moved + wbBits ((ps ++ sc).flatMap (fun x => x.2)) }
  let xs := (ps ++ sc).filter (fun x => wbBits x.2 != 0)
  if space then
    if xs.any (fun x => engStall s r x.1.addr x.1.len) then .idle s
    else fin (xs.foldl (fun s x => engStore s cg r (some r.t) none x.1.addr x.2) s)
  else
    match engAccess s cg r .write expect (xs.map (fun x => x.1)) with
    | .wait s1 => .idle s1
    | .park va l => parkReq s cg r .write va l
    | .fail n va => .fail s 0x0D n 0 va
    | .ok ys => fin ((ys.zip xs).foldl (fun s x => engStore s cg r none x.1.2.key x.1.2.pa x.2.2) (engTouch s cg r ys))

/-- The address of the first part of an element. -/
def pieceVa : List Piece → Nat
  | q :: _ => q.addr
  | [] => 0

/-- Write the next piece of the bytes bs (R303, R310): the two nibbles of a byte go together, with the
later one. -/
def writeVisit (s : State) (cg : Fin 32) (r : EngReq) (bs scales : List (Option Datum)) (ended : Bool) : Beat :=
  let ub := s.unitBits r
  let p := r.pos
  let v := pieceData ub bs p
  match spotOf s r p with
  | .zero _ => .moved s { r with pos := p + 1 }
  | .hold => .idle s
  | .bad n va => .fail s 0x0D n 0 va
  | .lone va => .fail s 0x0D 7 0 va
  | .cells space expect ps other =>
    let sc := fun (q : Nat) => ((scalePiece s r q).map (fun x => (x, pieceWbs x [(scales.getD (q / 32) none)]))).toList
    match other with
    | some o =>
      if p < o then
        if ended && decide (2 * bs.length ≤ o) then .fail s 0x0D 7 0 (pieceVa ps) else .moved s { r with pos := p + 1 }
      else
        let sh := match ps with | q :: _ => q.shift | [] => 0
        let both := match (pieceData ub bs o).getD 0 none, v.getD 0 none with
          | some w, some x => some ((if sh = 4 then w.1 + 16 * x.1 else x.1 + 16 * w.1, x.2 || w.2) : Datum)
          | _, _ => none
        putPieces s cg r space expect (ps.map (fun q => ({ q with shift := 0, w := 8 }, pieceWbs { q with shift := 0, w := 8 } [both]))) (sc o)
    | none => putPieces s cg r space expect (ps.map (fun q => (q, pieceWbs q v))) (sc p)

/-- Take the next input of a write: a token, or bytes of the range (R310, R311). -/
def takeInput (s : State) (cg : Fin 32) (r : EngReq) : Beat :=
  if r.kind = 0 then
    match s.reqEdge r (fun e => e.dst == .stream r.t r.c r.num) with
    | none => .idle s
    | some e =>
      match e.queue with
      | [] => .idle s
      | t :: _ =>
        let ds := (leBytes e.tokSize t.bits.toNat).map (fun b => (b.toNat, t.poison))
        .moved (takeToken s r e) { r with src := r.src ++ ds, inEnd := t.eos, poison := r.poison || t.poison }
  else
    let n := Nat.min 64 (r.rc.slen - r.src.length)
    let n1 := if r.rc.zs = 0 && !r.rc.mx && !r.rc.cv && r.rc.sta.isNone then Nat.min n (s.memBytes r - r.src.length) else n
    let a := r.soff + r.src.length
    if engStall s r a n1 then .idle s
    else
      let x := seenScratch s cg r a n1
      let ds := (x.1.zip x.2).map (fun b => (b.1.toNat, b.2))
      .moved s { r with src := r.src ++ ds, inEnd := decide (r.rc.slen ≤ r.src.length + n1), poison := r.poison || ds.any (fun d => d.2) }

/-- The next piece of a write has its data; at the end, part of it (R310). -/
def pieceReady (s : State) (r : EngReq) (bs : List (Option Datum)) (ended : Bool) : Bool :=
  (r.rc.memRun || decide (r.pos < r.rc.total))
    && decide ((if ended then r.pos * s.unitBits r + 1 else (r.pos + 1) * s.unitBits r) ≤ 8 * bs.length)

/-- A whole beat waits for the STA. -/
def staWaits (s : State) (cg : Fin 32) (r : EngReq) (f : WFlow) : Bool :=
  match s.reqSta cg r with
  | some k => decide (32 * Max.max 1 k.graph.inw ≤ f.bytes.length - r.staPos)
  | none => false

/-- The compressed input of a write has ended inside a group, by its own end and not by a stop (R306, R314). -/
def groupCut (s : State) (cg : Fin 32) (r : EngReq) : Bool :=
  let f := s.writeFlow cg r
  r.rc.dir && r.inEnd && !r.cut && f.bad && !f.full

/-- A beat of a write (R310, R313). -/
def writeBeat (s : State) (cg : Fin 32) (r : EngReq) : Beat :=
  let f := s.writeFlow cg r
  let m := s.writeMid cg r
  if pieceReady s r m.1 m.2 then
    match tokenHeld s r with
    | some s1 => .idle s1
    | none => writeVisit s cg r m.1 f.scales m.2
  else if f.full || r.inEnd || staWaits s cg r f then .idle s
  else takeInput s cg r

/-! ### Completion of the data (R314) -/

/-- The request has moved all its data. -/
def dataDone (s : State) (cg : Fin 32) (r : EngReq) : Bool :=
  if r.rc.dir then
    let m := s.writeMid cg r
    (!r.rc.memRun && decide (r.rc.total ≤ r.pos)) || (m.2 && !pieceReady s r m.1 m.2)
  else
    let f := s.readFlow cg r
    f.2.2 && decide (f.1.length ≤ r.sent)

/-- A write ended before its pattern, or a copy's range was shorter (R310). -/
def cutShort (s : State) (cg : Fin 32) (r : EngReq) : Bool :=
  let m := s.writeMid cg r
  r.short || (r.rc.dir && (if r.rc.memRun then !(s.writeFlow cg r).full
    else m.1.any Option.isNone || decide (8 * m.1.length < r.rc.total * s.unitBits r)))

/-- Whether a request feeds an edge. -/
def EngReq.feeds (r : EngReq) : Bool := !r.rc.dir && (r.kind == 0 || r.kind == 3)

/-- The all-zero token of a stop or an error (R314). -/
def zeroToken (r : EngReq) (poison : Bool) : Token := ⟨0, r.rc.eos, poison, r.c⟩

/-- The whole tokens that a read has formed and not pushed (R309, R312). -/
def formedTokens (s : State) (cg : Fin 32) (slice : Fin 320) (r : EngReq) : List Token :=
  match s.reqEdge r (fun e => e.src == r.outEnd slice) with
  | some e => (chunksOf e.tokSize (s.readFlow cg r).1.length ((s.readFlow cg r).1.drop r.sent)).map (fun ds => dataToken r.c ds false)
  | none => []

/-- A request ends in error (R314, R315): a stream that reads still pushes the tokens that it has formed, then the token
of the error; a key-slot error of an engine is logged (R457). -/
def failReq (s : State) (cg : Fin 32) (slice : Fin 320) (r : EngReq) (cause reason elem va : Nat) : State × EngReq :=
  let s1 := if cause = 0x0D ∧ reason = 9 ∧ r.kind ≠ 3 then s.logError (dieOfCluster cg) 6 9 cg.val 0 va else s
  let ts := if r.feeds then formedTokens s cg slice r else []
  (s1, { r with ending := some (3, cause, reason, elem, va), poison := r.poison || ts.any (fun t => t.poison),
                tail := if r.feeds then ts ++ [zeroToken r true] else [] })

/-- The live status of a request (Table 11.5, R327). -/
def liveStat (s : State) (cg : Fin 32) (r : EngReq) : State :=
  let ev := s.reqEv cg r
  s.modStat r (fun x => { x with trunc := r.trunc, short := r.short, park := r.parked.isSome, poison := r.poison,
                                 moved := r.moved / 8, ev := ev })

/-- Replace a request where it stands: the engine serves its requests in turn, each for one beat (R313). -/
def State.putReq (s : State) (cg : Fin 32) (r : EngReq) : State :=
  liveStat (s.modCluster cg (fun x => { x with eng := x.eng.map (fun y => if y.stamp = r.stamp then r else y) })) cg r

/-- One beat of a request that has started, with its end when there is nothing left to move. -/
def reqBeat (s : State) (cg : Fin 32) (slice : Fin 320) (r : EngReq) : State × Option EngReq :=
  if r.ending.isSome then
    match r.tail, s.reqEdge r (fun e => e.src == r.outEnd slice) with
    | t :: ts, some e => if e.credits = 0 then (s, none) else (pushToken s r e t, some { r with tail := ts })
    | _ :: _, none => (s, some { r with tail := [] })
    | [], _ => (s, none)
  else if r.started && groupCut s cg r then let o := failReq s cg slice r 0x0D 13 0 0; (o.1, some o.2)
  else if r.started && dataDone s cg r then
    let empty := r.feeds && r.rc.eos && r.sent == 0
    let short := cutShort s cg r
    (s, some { r with ending := some (if r.cut && short then 2 else 1, 0, 0, 0, 0), short := if r.cut then r.short else short,
                      tail := if empty then [zeroToken r false] else [] })
  else if s.stopping r && r.parked.isNone && (!r.started || !r.rc.dir) then
    (s, some { r with ending := some (2, 0, 0, 0, 0), tail := if r.feeds && r.rc.eos then [zeroToken r false] else [] })
  else if !r.started ∨ (r.parked.isSome ∧ r.rc.dir) then (s, none)
  else if r.parked.isSome then
    match deliverBeat s cg slice r with
    | some (.moved s1 r1) => (s1, some r1)
    | _ => (s, none)
  else if s.stopping r && !r.inEnd then (s, some { r with inEnd := true, cut := true })
  else if gatherShort s r && !r.inEnd then (s, some { r with inEnd := true, short := true })
  else
    match if r.rc.dir then writeBeat s cg r else readBeat s cg slice r with
    | .idle s1 => (s1, none)
    | .moved s1 r1 => (s1, some r1)
    | .fail s1 cause reason elem va => let o := failReq s1 cg slice r cause reason elem va; (o.1, some o.2)

def State.engReq (s : State) (cg : Fin 32) (n : Nat) : Option EngReq := (s.clusters.get cg).eng[n]?

/-- ENGINE_BEAT: request n of an engine moves one beat (R313). -/
def execEngineBeat (cg : Fin 32) (n : Nat) (s : State) : Out :=
  match s.engReq cg n with
  | none => .next s
  | some r =>
    match reqBeat s cg 0 r with
    | (s1, some r1) => .next (s1.putReq cg r1)
    | (s1, none) => .next s1

/-! ### REQUEST_START (R299, R303, R305, R315, R344) -/

/-- A request uses the STA slot. -/
def EngReq.uses (r : EngReq) (k : Fin 8) : Bool := r.rc.sta == some k

/-- The template of a firing's request, its edge and the token that triggers it. -/
def State.trigger (s : State) (r : EngReq) : Option (Template × Edge × Token) :=
  match (s.ctx r.agent).tmpl.get r.num, s.reqEdge r (fun e => e.dst == .template r.t r.c r.num) with
  | some tm, some e => e.queue.head?.map (fun k => (tm, e, k))
  | _, _ => none

/-- Another firing of one template. -/
def EngReq.sameTemplate (r y : EngReq) : Bool :=
  r.kind == 2 && y.kind == 2 && r.q == y.q && r.t == y.t && r.c == y.c && r.num == y.num

/-- A template firing may start: its token is there, no firing of the template came before it and its
watermark is free (R317, R319). -/
def firingReady (s : State) (cg : Fin 32) (r : EngReq) : Bool :=
  match s.trigger r with
  | none => false
  | some (tm, _, _) =>
    !tm.firing && !tm.disarming
      && (match r.wm with | some w => !((s.ctx r.agent).wm.get w).active | none => true)
      && !(s.clusters.get cg).eng.any (fun y => r.sameTemplate y && decide (y.stamp < r.stamp))

/-- A request may start now: its release has been made (R287), its STA slot carries no other request, no
request that names it and no update came before it (R344, R347), and a firing is ready. -/
def reqMayStart (s : State) (cg : Fin 32) (r : EngReq) : Bool :=
  let x := s.clusters.get cg
  !r.started && r.ending.isNone && !olderAccess (s.ctx r.agent) r.by_.order
  && (r.kind != 2 || firingReady s cg r)
  && (match r.rc.sta with
      | none => true
      | some k => !x.eng.any (fun y => y.uses k && y.stamp != r.stamp && (y.started || decide (y.stamp < r.stamp)))
          && !(x.sta.get k).loads.any (fun l => l.upd && decide (l.stamp < r.stamp)))

/-- R305: dimension 0 starts at a multiple of 32 and has such an extent. -/
def blockAligned (r : EngReq) (rank : Nat) : Bool :=
  let rc := r.rc
  rc.cnt 0 % 32 == 0 && (rc.str 0 + (if rank = 1 then r.off.toInt else 0) : Int) % 32 == 0

/-- The reason at which a request ends at its start, in cause 0x0D. -/
def startReason (s : State) (r : EngReq) : Nat :=
  let rc := r.rc
  let handle :=
    if rc.pat ≠ 1 then 0
    else match s.reqHandle r with
      | none => 5
      | some d =>
        let h := hdesc d
        if h.cstate = 2 then 5
        else if rc.mx && (h.tag != 5 || h.tyCode != (if rc.dir then rc.dty else rc.sty) || !blockAligned r h.rank) then 5 else 0
  if handle ≠ 0 then handle
  else if rc.kind = 1 && decide (0x180000 < r.soff + rc.slen) then 10
  else if rc.redop ≠ 0 && r.soff % redBytes rc.redop != 0 then 7
  else if rc.denseBad then 1
  else 0

/-- The reason in cause 0x0E (R344, R349): a slot to be freed after the request serves it still, unless its load never
ended. -/
def staReason (s : State) (cg : Fin 32) (r : EngReq) : Nat :=
  match s.reqSta cg r with
  | none => 0
  | some k =>
    if r.refused then 4
    else if k.st ≠ 2 ∧ !(k.st = 3 ∧ k.graph.inw ≠ 0 ∧ (k.frees.all (fun f => decide (r.stamp < f.stamp)))) then 4
    else if k.owner ≠ (s.reqLaunch r).map (fun l => l.id) then 4
    else if !bitOf k.graph.dirs (b2n r.rc.dir) then 5 else 0

/-- Take the watermark of a copy (R317). -/
def takeWm (s : State) (r : EngReq) (order : Nat) : State :=
  let i := r.wm.getD 0
  s.modCtx r.agent (fun c =>
    let w := c.wm.get i
    let st : StreamStat := { StreamStat.empty with state := 2 }
    { c with wm := vset c.wm i (if r.wm.isSome then ⟨r.soff, r.rc.slen, 0, true, order, st⟩ else { w with stat := st }) })

/-- A request takes its place in tile order: a copy that of its issue, at which it took its watermark; a
stream or a firing that of its start (R318). -/
def takeOrder (s : State) (r : EngReq) : State × EngReq :=
  if r.kind = 1 then (s, { r with order := r.by_.order })
  else (s.modTile r.t (fun y => { y with issues := y.issues + 1 }), { r with order := (s.tile r.t).issues })

/-- A firing that starts consumes its token, which gives its offsets, and takes its watermark (R317, R319). -/
def takeTrigger (s : State) (r : EngReq) : State × EngReq :=
  match s.trigger r with
  | none => (s, r)
  | some (tm, e, tok) =>
    let x := tok.bits.toNat
    let r1 := { r with off := BitVec.ofNat 64 x, soff := r.rc.soff + bitsAt x 64 32, last := tok.eos, poison := tok.poison }
    let s1 := (takeToken s r e).modCtx r.agent (fun c => { c with tmpl := vset c.tmpl r.num (some { tm with firing := true }) })
    (takeWm s1 r1 ((s.tile r.t).issues + 1), r1)

/-- A request starts: the start checks, and the STA's state reset (R338). A poisoned trigger token runs no
copy (R319). -/
def startReq (s : State) (cg : Fin 32) (r0 : EngReq) : State :=
  let x := if r0.kind = 2 then takeTrigger s r0 else (s, r0)
  let (s1, r1) := takeOrder x.1 x.2
  let r := { r1 with started := true }
  let n := startReason s1 r
  let k := staReason s1 cg r
  if r.kind = 2 && r.poison then s1.putReq cg { r with ending := some (3, 0x0D, 11, 0, 0) }
  else if n ≠ 0 then let o := failReq s1 cg 0 r 0x0D n 0 0; o.1.putReq cg o.2
  else if k ≠ 0 then let o := failReq s1 cg 0 r 0x0E k 0 0; o.1.putReq cg o.2
  else
    let s2 := match r.rc.sta with
      | some i => s1.modCluster cg (fun x => { x with sta := vset x.sta i { x.sta.get i with cells := [], beat := 0 } })
      | none => s1
    s2.putReq cg r

/-- The engine starts the oldest waiting request that may, with 64 at most in progress. -/
def startNext (s : State) (cg : Fin 32) : State :=
  let x := s.clusters.get cg
  if 64 ≤ (x.eng.filter (fun r => r.started)).length then s
  else match x.eng.find? (reqMayStart s cg) with
    | some r => startReq s cg r
    | none => s

/-- REQUEST_START. -/
def execRequestStart (cg : Fin 32) (s : State) : Out := .next (startNext s cg)

/-! ### REQUEST_COMPLETE (R288, R314 to R317) -/

/-- The detail of an owed fault (R315, R346). -/
def faultDetail (s : State) (cg : Fin 32) (r : EngReq) (cause reason elem : Nat) : Nat :=
  let part := match s.parts.find? (fun p => p.q == r.q) with
    | some p => (p.clusterList.takeWhile (fun i => i != cg)).length
    | none => 0
  if cause = 0x0E then
    reason + 2 ^ 8 * (match r.rc.sta with | some k => k.val | none => 0) + 2 ^ 11 * part + (if reason ≤ 3 then 2 ^ 16 * elem else 0)
  else reason + 2 ^ 8 * r.num.val + 2 ^ 12 * r.kind

/-- The sectors of a failed copy's range with a byte not yet written become poisoned (R314). -/
def poisonRest (s : State) (r : EngReq) : State :=
  let done := Nat.min r.rc.slen r.sent
  s.modTile r.t (fun y => { y with scratch := y.scratch.poisonRange (r.soff + done) (Nat.min r.rc.slen (0x180000 - r.soff) - done) })

/-- The firings of a template that have not started go: their tokens stay at the port (R321, R328). -/
def dropFirings (s : State) (g : AgentId) (num : Fin 16) : State :=
  { s with clusters := s.clusters.map (fun x =>
      { x with eng := x.eng.filter (fun r => !(r.kind == 2 && !r.started && r.agent == g && r.num == num)) }) }

/-- A firing of a template has completed: it may disarm (R319, R328). -/
def endFiringOf (s : State) (r : EngReq) : State :=
  match (s.ctx r.agent).tmpl.get r.num with
  | none => s
  | some t =>
    let off := t.disarming || r.last
    let s1 := s.modCtx r.agent (fun c => { c with tmpl := vset c.tmpl r.num (if off then none else some { t with firing := false }) })
    if off then t.waiters.foldl (fun s q => s.signal r.agent q) (dropFirings s1 r.agent r.num) else s1

/-- The watermark of a completed request (R317). -/
def releaseWm (s : State) (r : EngReq) : State :=
  match r.wm with
  | some w => s.modCtx r.agent (fun c => { c with wm := vset c.wm w { c.wm.get w with fill := (c.wm.get w).len, active := false } })
  | none => s

/-- What the waiters of a stopped stream are owed (R326). -/
def releaseStop (s : State) (r : EngReq) : State :=
  if r.kind = 0 then
    let qs := ((s.ctx r.agent).ss.get r.num).waiters
    qs.foldl (fun s q => s.signal r.agent q)
      (s.modCtx r.agent (fun c => { c with ss := vset c.ss r.num { c.ss.get r.num with waiters := [] } }))
  else s

/-- The fault owed to the issuing or arming context, unless its firing aborted; a template firing is a
request of its template, whose faults are owed whatever becomes of the firing that armed it: they bear no
firing's serial number (R239, R315). -/
def oweReq (s : State) (cg : Fin 32) (r : EngReq) (cause reason elem va : Nat) : State :=
  match r.sq with
  | some q =>
    let b : Issued := if r.kind = 2 then { r.by_ with serial := 0, handler := false } else r.by_
    s.modCtx r.agent (fun c => c.recordOwed ⟨cause, faultDetail s cg r cause reason elem, va, b, .waitOn q⟩)
  | none => s

/-- A request completes: status, watermark, signal. -/
def completeReq (s : State) (cg : Fin 32) (r : EngReq) (e : Nat × Nat × Nat × Nat × Nat) : State :=
  let ev := s.reqEv cg r
  let s0 := (s.modCluster cg (fun x => { x with eng := x.eng.filter (fun y => y.stamp != r.stamp) })).dropSectors cg r
  let s1 := s0.modStat r (fun _ => ⟨if r.kind = 0 then 1 else 0, e.1, if e.1 = 3 then e.2.2.1 else 0, r.trunc, r.short, false,
    r.poison, r.moved / 8, ev, e.2.2.2.2⟩)
  let s2 := if e.1 = 3 && (r.kind == 1 || r.kind == 2) && (!r.rc.dir || e.2.2.1 == 11) then poisonRest s1 r else s1
  let s3 := releaseStop (releaseWm s2 r) r
  let s4 := if e.1 = 3 then oweReq s3 cg r e.2.1 e.2.2.1 e.2.2.2.1 e.2.2.2.2 else s3
  let s5 := s4.signalOpt r.agent r.sq
  if r.kind = 2 then endFiringOf s5 r else s5

/-- REQUEST_COMPLETE: request n has ended and its last token is pushed. -/
def execRequestComplete (cg : Fin 32) (n : Nat) (s : State) : Out :=
  match s.engReq cg n with
  | none => .next s
  | some r =>
    match r.ending, r.tail with
    | some e, [] => .next (completeReq s cg r e)
    | _, _ => .next s

/-! ### TEMPLATE_FIRING (R319) -/

/-- The global channel group of partition group g. -/
def State.cgOfPart (s : State) (q : Fin 32) (g : Nat) : Option (Fin 32) :=
  match s.parts.find? (fun p => p.q == q) with
  | some p => p.cluster? g
  | none => none

/-- The firings of a template that wait at its engine. -/
def waitingFirings (x : Cluster) (r : EngReq) : Nat := (x.eng.filter (fun y => r.sameTemplate y && !y.started)).length

/-- TEMPLATE_FIRING: a token that has come to an armed template is a request that has arrived at the engine
(R299), which starts the oldest that may start. -/
def execTemplateFiring (g : AgentId) (slot : Fin 16) (s : State) : Out :=
  match g, (s.ctx g).tmpl.get slot, s.launchOf g with
  | .tile t c, some tm, some l =>
    match l.edges.find? (fun e => e.dst == .template t c slot), s.cgOfPart l.q (recOf tm.record).cg with
    | some e, some cg =>
      let r := newReq 2 l.q t c slot tm.record 0 0 tm.wm tm.sq tm.by_
      if !tm.disarming && decide (waitingFirings (s.clusters.get cg) r < e.queue.length) then .next (startNext (s.submitReq cg r) cg)
      else .next s
    | _, _ => .next s
  | _, _, _ => .next s

/-! ### PUSH_PROGRAM_PASS (R292, R322) -/

/-- The slice of a global number. -/
def sliceNum (n : Fin 320) : Fin 32 × Fin 10 := (⟨n.val / 10, by omega⟩, ⟨n.val % 10, by omega⟩)

def State.pushProg (s : State) (n : Fin 320) (j : Fin 4) : Option PushProg :=
  ((s.clusters.get (sliceNum n).1).slices.get (sliceNum n).2).push.get j

def State.setPush (s : State) (n : Fin 320) (j : Fin 4) (p : PushProg) : State :=
  s.modSlice (sliceNum n).1 (sliceNum n).2 (fun x => { x with push := vset x.push j (some p) })

/-- The next visit reads at the program's own slice (reason 6). -/
def ownSlice (s : State) (n : Fin 320) (r : EngReq) : Bool :=
  match spotOf s r r.pos with
  | .cells _ _ [p] _ =>
    (match s.translate none (sliceNum n).1 r.mctx .read p.addr with
    | .ok x => homeOf x.pa == .slice (sliceNum n).1 (sliceNum n).2
    | _ => true)
  | _ => true

/-- The address of the next visit. -/
def visitAddr (s : State) (r : EngReq) : Nat :=
  match spotOf s r r.pos with
  | .cells _ _ [p] _ => p.addr
  | .bad _ va => va
  | _ => 0

/-- The token queue signalled per pass (Table 11.9): of the program's context on the tile that Config
names, which the spec does not (log 50). -/
def State.passSignal (s : State) (n : Fin 320) (j : Fin 4) (p : PushProg) : State :=
  s.signalOpt (.tile (Fin.ofNat 256 (8 * (sliceNum n).1.val + (Config.passTile n.val j.val).val)) p.c) p.sq

/-- A pass begins: at the enabling of a source, or with a token (R322). -/
def startPass (s : State) (n : Fin 320) (j : Fin 4) (p : PushProg) : State :=
  let r := { newReq 3 p.q 0 p.c (Fin.ofNat 16 j.val) p.rcd 0 0 none p.sq ⟨0, 0, 0, false⟩ with started := true }
  match s.reqEdge r (fun e => e.dst == .push n j) with
  | some e => if e.queue.isEmpty then s else (takeToken s r e).setPush n j { p with pass := some r }
  | none => if p.enabled then s.setPush n j { p with enabled := false, pass := some r } else s

/-- PUSH_PROGRAM_PASS: a push program of a launch in progress begins a pass, moves a beat of it or ends it. -/
def execPushProgramPass (n : Fin 320) (j : Fin 4) (s : State) : Out :=
  let cg := (sliceNum n).1
  match s.pushProg n j with
  | none => .next s
  | some p =>
    if !s.launches.any (fun l => l.id == p.owner) then .next s
    else
    match p.pass with
    | none => .next (startPass s n j p)
    | some r =>
      match r.ending, r.tail with
      | some e, [] =>
        let s1 := (s.setPush n j { p with pass := none }).passSignal n j p
        .next (if e.1 = 3 then s1.logError (dieOfCluster cg) 4 e.2.2.1 n.val 0 e.2.2.2.2 else s1)
      | _, _ =>
        if r.ending.isNone && r.parked.isNone && !r.inEnd && !allRead s cg r && !ownSlice s n r then
          .next (s.setPush n j { p with pass := some (failReq s cg n r 0x0D 6 0 (visitAddr s r)).2 })
        else
          match reqBeat s cg n r with
          | (s1, some r1) => .next (s1.setPush n j { p with pass := some r1 })
          | (s1, none) => .next s1

/-! ### Instructions (R324 to R329) -/

/-- The executing tile. -/
def onTileCtx (s : State) (f : Fin 256 → Fin 4 → Eff) : Eff :=
  match s.cur with
  | .tile t c => f t c
  | .mgmt => .hold

/-- Cause 0x0D (R315). -/
def streamTrap (b : Bool) (reason num kind : Nat) : Option (Nat × Nat × Nat) := trapIf b 0x0D (reason + 2 ^ 8 * num + 2 ^ 12 * kind) 0

/-- The rank of the handle a record names. -/
def recRank (s : State) (x : BitVec 512) : Option Nat :=
  (s.entry s.cur (recOf x).hidx).map (fun d => (hdesc d).rank)

/-- The clusters of the executing partition. -/
def clusterCount (s : State) : Nat :=
  match s.launchOf s.cur with
  | some l => popCount 32 (s.clustersOf l.q).toNat
  | none => 0

/-- Read and check the record at S[A] (R302, R325). -/
def withRecord (s : State) (ins : Instr) (x : Fin 32) (others : List (Fin 32)) (rk num kind : Nat) (go : BitVec 512 → Eff) : Eff :=
  let a := (s.me.readS x).toNat
  orTrap [poisonS s.me (x :: others), alignCheck a 64, trapIf (decide (scratchEnd < a + 64)) 0x06 a a, maskTrap s ins] <|
    if scratchHold s a 64 then .hold
    else
      let rcd := BitVec.ofNat 512 (s.scratch.readNat a 64)
      orTrap [trapIf ((s.scratch.readPoison a 64).any id) 0x07 x.val 0,
          streamTrap (!recOk rcd rk (clusterCount s) (recRank s rcd)) 1 num kind] (go rcd)

/-- A slot's state in a context. -/
def Ctx.setSs (c : Ctx) (n : Fin 16) (x : StreamSlot) : Ctx := { c with ss := vset c.ss n x }

def execSdef (h : Hdr) (x : Fin 32) (slot : Fin 16) (cl : Clauses) (s : State) : Out :=
  let ins := Instr.sdef h x slot cl
  issue ins [.s x] s fun s => onTileCtx s fun _ _ =>
    withRecord s ins x [] 0 slot.val 0 fun rcd =>
      let ss := s.me.ss.get slot
      orTrap [streamTrap ss.held.isSome 3 slot.val 0, streamTrap (decide (2 ≤ ss.stat.state)) 2 slot.val 0] <|
        doneSig ins (s.modCtx s.cur (fun c => c.setSs slot { ss with record := some rcd, stat := { ss.stat with state := 1 } }))

def execCarm (h : Hdr) (x : Fin 32) (slot : Fin 16) (wm : Fin 16) (wmen : Bool) (cl : Clauses) (s : State) : Out :=
  let ins := Instr.carm h x slot wm wmen cl
  issue ins [.s x] s fun s => onTileCtx s fun _ _ =>
    withRecord s ins x [] 1 slot.val 2 fun rcd =>
      orTrap [streamTrap (s.me.tmpl.get slot).isSome 2 slot.val 2] <| afterDrain s <|
        let t : Template := ⟨rcd, if wmen then some wm else none, sqOf ins, s.issued s.cur, false, false, []⟩
        .done (s.modCtx s.cur (fun c => { c with tmpl := vset c.tmpl slot (some t) }))

/-- The slot's edges suit the record (R300, R303). -/
def bindingOk (s : State) (t : Fin 256) (c : Fin 4) (slot : Fin 16) (rc : Rec) : Bool :=
  match s.launchOf s.cur with
  | none => false
  | some l =>
    let out := l.edges.find? (fun e => e.src == .stream t c slot)
    let inp := l.edges.find? (fun e => e.dst == .stream t c slot)
    let outOk := match out with
      | some e => !(e.ended || (e.queue ++ e.inflight).any (fun k => k.eos))
      | none => false
    if rc.dir then inp.isSome
    else outOk && (rc.pat != 2 || (match inp with | some e => rc.cnt 1 * 4 % e.tokSize == 0 | none => false))

def execSgo (h : Hdr) (slot : Fin 16) (z : Fin 32) (cl : Clauses) (s : State) : Out :=
  let ins := Instr.sgo h slot z cl
  issue ins [.s z] s fun s => onTileCtx s fun t c =>
    let ss := s.me.ss.get slot
    let rcd := ss.record.getD 0
    let rc := recOf rcd
    orTrap [poisonS s.me [z], maskTrap s ins, streamTrap (ss.record.isNone || ss.held.isSome) 3 slot.val 0,
        streamTrap (decide (2 ≤ ss.stat.state)) 2 slot.val 0, streamTrap (!bindingOk s t c slot rc) 4 slot.val 0,
        streamTrap rc.denseBad 1 slot.val 0] <| afterDrain s <|
      match s.launchOf s.cur with
      | none => .hold
      | some l =>
        match s.cgOfPart l.q rc.cg with
        | none => .hold
        | some cg =>
          let r := newReq 0 l.q t c slot rcd (s.me.readS z) 0 none (sqOf ins) (s.issued s.cur)
          .done ((s.modCtx s.cur (fun x => x.setSs slot
            { ss with stat := { StreamStat.empty with state := 2, last := ss.stat.last } })).submitReq cg r)

def execSstop (h : Hdr) (slot : Fin 16) (cl : Clauses) (s : State) : Out :=
  let ins := Instr.sstop h slot cl
  issue ins [] s fun s => onTileCtx s fun _ _ =>
    let ss := s.me.ss.get slot
    orTrap [maskTrap s ins] <|
      if ss.stat.state < 2 then doneSig ins s
      else .done (s.modCtx s.cur (fun c => c.setSs slot
        {
          ss with stat := { ss.stat with state := 3 }, waiters := ss.waiters ++ (sqOf ins).toList }))

/-- Table 11.5. -/
def StreamStat.word (x : StreamStat) : Word :=
  BitVec.ofNat 64 (x.state + 2 ^ 2 * x.last + 2 ^ 4 * (x.reason % 256) + 2 ^ 12 * b2n x.trunc + 2 ^ 13 * b2n x.short
    + 2 ^ 14 * b2n x.park + 2 ^ 15 * b2n x.poison)

/-- Table 11.6: each count saturates at 2^21 − 1. -/
def evWord (e : Ev) : Word :=
  let f := fun (n : Nat) => Nat.min n (2 ^ 21 - 1)
  BitVec.ofNat 64 (f e.sat + 2 ^ 21 * f e.nan + 2 ^ 42 * f e.bso)

/-- R327. -/
def StreamStat.sel (x : StreamStat) (sel : Fin 4) : Word :=
  match sel with
  | 0 => x.word
  | 1 => BitVec.ofNat 64 x.moved
  | 2 => evWord x.ev
  | 3 => BitVec.ofNat 64 x.addr

def execSstat (h : Hdr) (x : Fin 32) (slot : Fin 16) (sel : Fin 4) (cl : Clauses) (s : State) : Out :=
  let ins := Instr.sstat h x slot sel cl
  issue ins [] s fun s => onTileCtx s fun _ _ =>
    orTrap [maskTrap s ins] <|
      doneSig ins (s.modCtx s.cur (fun c => c.writeS x ((c.ss.get slot).stat.sel sel) false))

def execCdis (h : Hdr) (slot : Fin 16) (cl : Clauses) (s : State) : Out :=
  let ins := Instr.cdis h slot cl
  issue ins [] s fun s => onTileCtx s fun _ _ =>
    orTrap [maskTrap s ins] <|
      match s.me.tmpl.get slot with
      | none => doneSig ins s
      | some t =>
        let s := dropFirings s s.cur slot
        if t.firing then
          let t' : Template := { t with disarming := true, waiters := t.waiters ++ (sqOf ins).toList }
          .done (s.modCtx s.cur (fun c => { c with tmpl := vset c.tmpl slot (some t') }))
        else doneSig ins (s.modCtx s.cur (fun c => { c with tmpl := vset c.tmpl slot none }))

def execCopy (h : Hdr) (x z : Fin 32) (wm : Fin 16) (wmen : Bool) (cl : Clauses) (s : State) : Out :=
  let ins := Instr.copy h x z wm wmen cl
  issue ins [.s x, .s z] s fun s => onTileCtx s fun t c =>
    withRecord s ins x [z] 1 wm.val 1 fun rcd =>
      let rc := recOf rcd
      orTrap [streamTrap rc.denseBad 1 wm.val 1] <|
        if wmen && (s.me.wm.get wm).active then .hold
        else afterDrain s <|
          match s.launchOf s.cur with
          | none => .hold
          | some l =>
            match s.cgOfPart l.q rc.cg with
            | none => .hold
            | some cg =>
              let r := newReq 1 l.q t c wm rcd (s.me.readS z) rc.soff (if wmen then some wm else none) (sqOf ins) (s.issued s.cur)
              .done ((takeWm s r (s.order s.cur + 1)).submitReq cg r)

end Sys2Proof.Machine
end

