-- ==== Sys2Proof/Machine/StaOps.lean ====
section
/-! DEFINITION. The slots of a stream transform array: the instructions of OP 0xCD and 0xCE, their
completion and the beats (spec/12_transform_arrays.md, R331, R341 to R351). -/

namespace Sys2Proof.Machine

/-! ### Slots -/

def State.staSlot (s : State) (cg : Fin 32) (k : Fin 8) : StaSlot := (s.clusters.get cg).sta.get k

def State.modSta (s : State) (cg : Fin 32) (k : Fin 8) (f : StaSlot → StaSlot) : State :=
  s.modCluster cg (fun x => { x with sta := vset x.sta k (f (x.sta.get k)) })

/-- A slot with nothing in it; the status of its last load stays. -/
def StaSlot.emptied (x : StaSlot) : StaSlot :=
  { st := 0, owner := none, graph := StaGraph.empty, cells := [], beat := 0, err := none, ldstat := x.ldstat, loads := [], frees := [] }

/-- The next order of arrival at an engine. -/
def State.takeStamp (s : State) (cg : Fin 32) : Nat × State :=
  ((s.clusters.get cg).stamp, s.modCluster cg (fun x => { x with stamp := x.stamp + 1 }))

/-- The detail of cause 0x0E (R346). -/
def staDetail (reason : Nat) (k : Fin 8) (part : Nat) : Nat := reason + 2 ^ 8 * k.val + 2 ^ 11 * part

/-- Cause 0x06 of a slot that another launch owns (R348). -/
def ownerTrap (s : State) (cg : Fin 32) (k : Fin 8) : Option (Nat × Nat × Nat) :=
  match (s.staSlot cg k).owner, s.launchOf s.cur with
  | some o, some l => trapIf (o != l.id) 0x06 k.val 0
  | _, _ => none

/-- The channel group S[Y] names, with the checks that every STA instruction makes (R348). -/
def withCg (s : State) (ins : Instr) (srcs : List (Fin 32)) (y : Fin 32) (align : Option Nat) (k : Fin 8)
    (go : Launch → Fin 32 → Nat → Eff) : Eff :=
  let g := (s.me.readS y).toNat
  let pre := [poisonS s.me srcs, match align with | some a => alignCheck a 256 | none => none]
  match s.launchOf s.cur with
  | none => orTrap pre .hold
  | some l =>
    match s.cgOfPart l.q g with
    | none => orTrap (pre ++ [trapIf true 0x06 g 0]) .hold
    | some cg => orTrap (pre ++ [ownerTrap s cg k, maskTrap s ins]) (go l cg g)

/-! ### staload (R349) -/

/-- A load reaches the engine. -/
def submitLoad (s : State) (l : Launch) (t : Fin 256) (c : Fin 4) (cg : Fin 32) (k : Fin 8) (upd : Bool) (addr : Nat)
    (sq : Option (Fin 16)) : State :=
  let by_ := s.issued s.cur
  let (n, s1) := s.takeStamp cg
  s1.modSta cg k (fun x =>
    { x with st := if upd then x.st else 1, owner := some l.id,
             loads := x.loads ++ [⟨upd, addr, t, c, sq, by_, n, none, none⟩] })

/-- The effect of staload, with or without UPD. -/
def staloadEffect (ins : Instr) (x y : Fin 32) (k : Fin 8) (upd : Bool) (s : State) : Eff :=
  onTileCtx s fun t c =>
    let a := (s.me.readS x).toNat
    withCg s ins [x, y] y (some a) k fun l cg g =>
      let st := (s.staSlot cg k).st
      orTrap [trapIf (if upd then st == 0 else st != 0) 0x0E (staDetail 9 k g) 0] <| afterDrain s <|
        .done (submitLoad s l t c cg k upd a (sqOf ins))

def execStaload (h : Hdr) (x y : Fin 32) (slot : Fin 8) (cl : Clauses) (s : State) : Out :=
  issue (.staload h x y slot cl) [.s x, .s y] s (staloadEffect (.staload h x y slot cl) x y slot false)

def execStaloadUpd (h : Hdr) (x y : Fin 32) (slot : Fin 8) (cl : Clauses) (s : State) : Out :=
  issue (.staloadUpd h x y slot cl) [.s x, .s y] s (staloadEffect (.staloadUpd h x y slot cl) x y slot true)

/-! ### STALOAD_COMPLETE (R341, R342, R349) -/

/-- What reading bytes comes to: the bytes, whether one is poisoned, and the state in which their lines have passed;
a line that another access holds; a missing page; or the step that fails, 0 for a loss. -/
inductive Fetch where
  | bytes (bs : List Byte) (poison : Bool) (s : State)
  | wait
  | park (va level : Nat)
  | fail (step va : Nat)

/-- The bytes at a virtual address, line by line, by plain reads of a unit of the device. -/
def fetchLines (cl : Fin 32) (m : Fin 128) : Nat → State → Nat → Nat → Fetch
  | 0, s, _, _ => .bytes [] false s
  | fuel + 1, s, va, n =>
    if n = 0 then .bytes [] false s
    else
      let k := Nat.min n (128 - va % 128)
      match s.walkNow cl m va with
      | none => .wait
      | some s1 =>
        match s1.translate none cl m .read va with
        | .missing l => .park va l
        | .fault step _ _ => .fail step va
        | .ok x =>
          if !s1.reachable x.pa then .fail 0 va
          else
            match s1.passNow x.pa k 0 m .plain with
            | none => .wait
            | some s2 =>
              let r := s2.readPa x.key x.pa k
              match fetchLines cl m fuel r.2.2 (va + k) (n - k) with
              | .bytes bs po s3 => .bytes (r.1 ++ bs) (po || r.2.1.any id) s3
              | o => o

def fetchVa (s : State) (cl : Fin 32) (m : Fin 128) (va n : Nat) : Fetch := fetchLines cl m (n / 128 + 2) s va n

/-- The fields of a container's header (Table 12.7): NWORDS and SIGLEN, when it is well formed. -/
def containerHead (bs : List Byte) : Option (Nat × Nat) :=
  let f := fun (i n : Nat) => leNat ((bs.drop i).take n)
  if f 0 4 = 0x53544147 ∧ f 4 2 = 1 ∧ f 6 2 = 0 ∧ f 16 16 = 0 ∧ 1 ≤ f 8 4 ∧ f 8 4 ≤ 524287 then some (f 8 4, f 12 4) else none

/-- The configuration words of a container. -/
def containerWords (bs : List Byte) (n : Nat) : List Nat := (List.range n).map (fun i => leNat ((bs.drop (32 + 4 * i)).take 4))

/-- A claimed table that another slot holds. -/
def tableHeld (x : Cluster) (k : Fin 8) (g : StaGraph) : Bool :=
  (List.finRange 8).any (fun j => j != k && (x.sta.get j).st != 0 && g.claimed.any (fun e => (x.sta.get j).graph.claimed.contains e))

/-- The graph that a stream makes of another, or the reason of its failure (R341). -/
def applyGraph (x : Cluster) (k : Fin 8) (old : StaGraph) (ws : List Nat) : StaGraph ⊕ Nat :=
  match cfgStream staWidth ws with
  | none => .inr 7
  | some xs =>
    let g := xs.foldl StaGraph.put old
    if !g.ok then .inr 7 else if tableHeld x k g then .inr 8 else .inl { g with claims := g.claimed }

/-- A load ends: its status, its fault and its signal (R346, R349). -/
def endLoad (s : State) (cg : Fin 32) (k : Fin 8) (l : StaLoad) (r : StaGraph ⊕ Nat) : State :=
  let g := AgentId.tile l.t l.c
  let part := match s.launchOf g with
    | some x => (match s.parts.find? (fun p => p.q == x.q) with
      | some p => (p.clusterList.takeWhile (fun i => i != cg)).length
      | none => 0)
    | none => 0
  let s1 := s.modSta cg k (fun x =>
    let x1 := { x with loads := x.loads.filter (fun y => y.stamp != l.stamp) }
    match r with
    | .inl gr => { x1 with graph := gr, ldstat := 1, st := if x.frees.isEmpty then 2 else 3 }
    | .inr n => if l.upd then { x1 with ldstat := n }
        else if x1.frees.isEmpty then { x1 with st := 0, owner := none, ldstat := n } else { x1 with st := 3, ldstat := n })
  let s2 := match r, l.sq with
    | .inr n, some q =>
      if (s.ctx g).aborted.contains l.by_.serial then s1
      else s1.modCtx g (fun c => c.recordOwed ⟨0x0E, staDetail n k part, 0, l.by_, .waitOn q⟩)
    | _, _ => s1
  s2.signalOpt g l.sq

/-- A load changed where it stands. -/
def State.modLoad (s : State) (cg : Fin 32) (k : Fin 8) (l : StaLoad) (f : StaLoad → StaLoad) : State :=
  s.modSta cg k (fun x => { x with loads := x.loads.map (fun y => if y.stamp = l.stamp then f y else y) })

/-- A load has yet to read its container, and may: its release has been made (R287). -/
def loadReads (s : State) (l : StaLoad) : Bool :=
  l.got.isNone && l.parked.isNone && !olderAccess (s.ctx (.tile l.t l.c)) l.by_.order

/-- An update waits for the requests that reached the engine before it (R347). -/
def loadWaits (s : State) (cg : Fin 32) (k : Fin 8) (l : StaLoad) : Bool :=
  l.upd && (s.clusters.get cg).eng.any (fun r => r.uses k && decide (r.stamp < l.stamp))

/-- A load's access parks. -/
def parkLoad (s : State) (cg : Fin 32) (k : Fin 8) (l : StaLoad) (m : Fin 128) (va level : Nat) : State :=
  if s.replayRoom (.engine cg) then
    let (tok, s1) := s.park (.engine cg) m .read va level
    s1.modLoad cg k l (fun y => { y with parked := some tok })
  else s

/-- A container that has been read whole is verified: its signature, or reason 6 (R342, R349). -/
def verifyLoad (s : State) (cg : Fin 32) (k : Fin 8) (l : StaLoad) (m : Fin 128) (n : Nat) (bs : List Byte) : State :=
  let key := match s.parts.find? (fun p => p.q == partOfMctx m) with | some p => p.owner | none => 0
  if !Config.lmsSigned key (bs.take (32 + 4 * n)) (bs.drop (32 + 4 * n)) then endLoad s cg k l (.inr 6)
  else s.modLoad cg k l (fun y => { y with got := some (containerWords bs n) })

/-- A load reads its container by plain reads: its header, then all of it (Table 12.7, R349). -/
def readLoad (s : State) (cg : Fin 32) (k : Fin 8) (l : StaLoad) (m : Fin 128) : State :=
  match fetchVa s cg m l.addr 32 with
  | .wait => s
  | .park va lv => parkLoad s cg k l m va lv
  | .fail _ _ => endLoad s cg k l (.inr 7)
  | .bytes head poison s =>
    match containerHead head with
    | none => endLoad s cg k l (.inr 7)
    | some (nw, sl) =>
      if poison then endLoad s cg k l (.inr 7)
      else
        match fetchVa s cg m l.addr (32 + 4 * nw + sl) with
        | .wait => s
        | .park va lv => parkLoad s cg k l m va lv
        | .fail _ _ => endLoad s cg k l (.inr 7)
        | .bytes bs po s => if po then endLoad s cg k l (.inr 7) else verifyLoad s cg k l m nw bs

/-- The oldest load, once verified, takes effect or fails (R341, R349). -/
def takeLoad (s : State) (cg : Fin 32) (k : Fin 8) : State :=
  match (s.staSlot cg k).loads with
  | [] => s
  | l :: _ =>
    match l.got with
    | none => s
    | some ws =>
      if loadWaits s cg k l then s
      else
        let x := s.clusters.get cg
        let old := if l.upd then (x.sta.get k).graph else StaGraph.empty
        if l.upd ∧ (x.sta.get k).st = 0 then endLoad s cg k l (.inr 7) else endLoad s cg k l (applyGraph x k old ws)

/-- STALOAD_COMPLETE: a load of a slot reads and verifies its container, or the oldest one takes effect. -/
def execStaloadComplete (cg : Fin 32) (slot : Fin 8) (s : State) : Out :=
  match (s.staSlot cg slot).loads.find? (loadReads s) with
  | none => .next (takeLoad s cg slot)
  | some l =>
    match s.launchOf (.tile l.t l.c) with
    | none => .next s
    | some la => .next (takeLoad (readLoad s cg slot l (mctxOf la.q la.c)) cg slot)

/-! ### stafree (R347, R350) -/

def execStafree (h : Hdr) (y : Fin 32) (slot : Fin 8) (cl : Clauses) (s : State) : Out :=
  let ins := Instr.stafree h y slot cl
  issue ins [.s y] s fun s => onTileCtx s fun t c =>
    withCg s ins [y] y none slot fun _ cg _ =>
      if (s.staSlot cg slot).st = 0 then doneSig ins s
      else
        let (n, s1) := s.takeStamp cg
        .done (s1.modSta cg slot (fun x =>
          { x with st := 3, frees := x.frees ++ [⟨t, c, sqOf ins, n⟩] }))

/-- Nothing that reached the engine before a free is left on the slot. -/
def freeReady (x : Cluster) (k : Fin 8) (f : StaFree) : Bool :=
  !x.eng.any (fun r => r.uses k && decide (r.stamp < f.stamp)) && !(x.sta.get k).loads.any (fun l => decide (l.stamp < f.stamp))

/-- The requests of a slot that reached the engine after its free end with reason 4 (R347). -/
def refuseUsers (s : State) (cg : Fin 32) (k : Fin 8) : State :=
  s.modCluster cg (fun x => { x with eng := x.eng.map (fun r => if r.uses k && !r.started then { r with refused := true } else r) })

/-- STAFREE_COMPLETE: the slot becomes empty, its tables are released and its record cleared; loads
that came after the free fail. -/
def execStafreeComplete (cg : Fin 32) (slot : Fin 8) (s : State) : Out :=
  let x := s.staSlot cg slot
  match x.frees with
  | [] => .next s
  | f :: _ =>
    if freeReady (s.clusters.get cg) slot f then
      let s1 := x.loads.foldl (fun s l => endLoad s cg slot l (.inr 7)) s
      let s2 := refuseUsers (s1.modSta cg slot StaSlot.emptied) cg slot
      .next (x.frees.foldl (fun s f => s.signalOpt (.tile f.t f.c) f.sq) s2)
    else .next s

/-! ### stastat (R351, Table 12.10) -/

/-- The requests naming a slot. -/
def slotUsers (x : Cluster) (k : Fin 8) : Nat := Nat.min 64 (x.eng.filter (fun r => r.uses k)).length

/-- The value of a selector. -/
def stastatValue (x : Cluster) (k : Fin 8) (sel : Fin 32) : Nat :=
  let sl := x.sta.get k
  match sel.val, sl.err with
  | 0, e => sl.st + 2 ^ 2 * b2n e.isSome + 2 ^ 3 * slotUsers x k + 2 ^ 10 * sl.ldstat
  | 3, _ => sl.graph.inw + 2 ^ 5 * sl.graph.outen + 2 ^ 21 * sl.graph.passes + 2 ^ 24 * sl.graph.dirs
  | _, none => 0
  | 1, some e => e.elem + 2 ^ 7 * e.code + 2 ^ 9 * e.pass + 2 ^ 12 * b2n e.multi + 2 ^ 13 * (e.lanes % 256) + 2 ^ 32 * (e.beat % 2 ^ 32)
  | 2, some e => e.cfg.op + 2 ^ 6 * e.cfg.ty + 2 ^ 9 * e.cfg.srcA + 2 ^ 12 * e.cfg.srcB + 2 ^ 15 * e.cfg.srcC
      + 2 ^ 18 * e.cfg.bcol + 2 ^ 22 * e.cfg.param + 2 ^ 34 * e.cfg.accn
  | 4, some e => e.cfg.imm
  | n, some e =>
    if 8 ≤ n then
      let w := e.inputs.getD ((n - 8) / 8) (0, false)
      bitsAt w.1 (32 * (n % 8)) 32 + 2 ^ 32 * b2n w.2
    else 0

def execStastat (h : Hdr) (x y : Fin 32) (slot : Fin 8) (sel : Fin 32) (cl : Clauses) (s : State) : Out :=
  let ins := Instr.stastat h x y slot sel cl
  issue ins [.s y] s fun s => onTileCtx s fun _ _ =>
    withCg s ins [y] y none slot fun _ cg _ =>
      doneSig ins (s.modCtx s.cur (fun c => c.writeS x (BitVec.ofNat 64 (stastatValue (s.clusters.get cg) slot sel)) false))

/-! ### STA_BEAT (R331, R344, R345) -/

/-- What a request's STA stage has not taken, and whether more will come. -/
def staPending (s : State) (cg : Fin 32) (r : EngReq) : List Datum × Bool :=
  if r.rc.dir then
    let f := s.writeFlow cg r
    if f.full && r.rc.zs != 1 then ([], false)
    else ((f.bytes.drop r.staPos).map (fun b => b.getD (0, false)), !(r.inEnd || (r.rc.zs == 1 && f.full)))
  else ((s.srcBytes r).drop r.staPos, !r.inEnd)

/-- The record of the first error of a beat (R345). -/
def staErrorOf (g : StaGraph) (beat : Nat) (errs : List (Nat × Nat × Nat × Nat × List StaWord)) : Option StaError :=
  match errs with
  | [] => none
  | e :: _ => some ⟨e.2.1, e.2.2.1, e.1, errs.any (fun x => x.2.1 != e.2.1), e.2.2.2.1, beat, g.elem e.2.1, e.2.2.2.2⟩

/-- A beat of n bytes of a request through its slot. -/
def runBeat (s : State) (cg : Fin 32) (r : EngReq) (k : Fin 8) (n : Nat) (ds : List Datum) : State :=
  let sl := s.staSlot cg k
  let o := staBeat sl.graph sl.cells (staInput sl.graph.inw ds)
  match staErrorOf sl.graph sl.beat o.2.errs with
  | some e =>
    let s1 := s.modSta cg k (fun x => { x with err := some e })
    let f := failReq s1 cg 0 { r with ev := r.ev.add o.2.ev } 0x0E e.code e.elem 0
    f.1.putReq cg f.2
  | none =>
    (s.modSta cg k (fun x => { x with cells := o.2.cells, beat := x.beat + 1 })).putReq cg
      { r with staPos := r.staPos + n, mid := r.mid ++ staOutput sl.graph n o.1, ev := r.ev.add o.2.ev }

/-- STA_BEAT: the array takes a beat of request n. -/
def execStaBeat (cg : Fin 32) (n : Nat) (s : State) : Out :=
  match s.engReq cg n with
  | none => .next s
  | some r =>
    match r.rc.sta with
    | none => .next s
    | some k =>
      let p := staPending s cg r
      let size := 32 * (s.staSlot cg k).graph.inw
      if !r.started ∨ r.ending.isSome ∨ p.1.isEmpty ∨ (p.1.length < size ∧ p.2) then .next s
      else
        let ds := p.1.take size
        .next (runBeat s cg r k ds.length ds)

end Sys2Proof.Machine
end

