-- ==== Sys2Proof/Machine/Regions.lean ====
section
/-! DEFINITION. Fabric regions: the instructions of OP 0xD8 to 0xDA, their steps and the arrival of
tokens (spec/13_fabric.md, R352 to R368, R377 to R380; R126, R127, R457). -/

namespace Sys2Proof.Machine

/-! ### Regions -/

def State.region (s : State) (r : Fin 128) : Region := s.regions.get r

def State.modRegion (s : State) (r : Fin 128) (f : Region → Region) : State :=
  { s with regions := vset s.regions r (f (s.regions.get r)) }

def dieOfRegion (r : Fin 128) : Fin 2 := if r.val < 64 then 0 else 1

/-- The cluster of a region. -/
def clusterOfRegion (r : Fin 128) : Fin 32 := ⟨r.val / 4, by omega⟩

/-- The region of partition number n, when the part has it (R352, R441). -/
def State.regionOf (s : State) (q : Fin 32) (n : Nat) : Option (Fin 128) :=
  match s.cgOfPart q (n / 4) with
  | some cl => let r : Fin 128 := ⟨4 * cl.val + n % 4, by omega⟩; if s.pf.availRg.getLsbD r.val then some r else none
  | none => none

/-- The partition number of a region. -/
def State.regionPart (s : State) (q : Fin 32) (r : Fin 128) : Nat :=
  match s.parts.find? (fun p => p.q == q) with
  | some p => 4 * (p.clusterList.takeWhile (fun i => decide (i.val < r.val / 4))).length + r.val % 4
  | none => r.val

/-! ### Clocks (R355, R356) -/

/-- The step of a frequency: the least k whose 3,600 / k MHz is no higher. -/
def stepOf (f : Nat) : Nat := Nat.max 4 (Nat.min 72 (ceilDiv 3600 (Nat.max 1 f)))

/-- The requested frequency in MHz; a region that was asked for none takes its configuration's highest clock. -/
def Region.reqFreq (x : Region) : Nat := if x.req = 0 then (match x.active with | some c => c.fmax | none => 900) else x.req

/-- The requested step. -/
def Region.reqStep (x : Region) : Nat := stepOf x.reqFreq

/-- The step in force. -/
def Region.step (x : Region) : Nat := Nat.max x.reqStep x.capk

/-- The region's clock runs. -/
def Region.clocked (x : Region) : Bool := (x.st == 1 || x.st == 2) && !x.relock

/-! ### The operator (R359, R360) -/

/-- The operator asserts idle. -/
def Region.idle (x : Region) : Bool :=
  match x.active with
  | some c => x.op.idle c.idhash
  | none => true

/-- A port's direction and token size under a configuration. -/
def RgCfg.port (c : RgCfg) (m : Fin 14) : Nat × Nat := c.ports.getD m.val (0, 4)

/-- The payload a port carries: ports 12 and 13 carry bit 0 only (Table 13.1). -/
def portBits (m : Fin 14) (b : BitVec 512) : BitVec 512 := if 12 ≤ m.val then b &&& 1 else b

/-- The launch that owns a region; one whose contexts are saved does not run (R154, R352). -/
def State.ownerOf (s : State) (r : Fin 128) : Option Launch :=
  (s.region r).owner.bind (fun n => s.launches.find? (fun l => l.id == n))

/-- A token of the head of a port's input edge, with the region's launch. -/
def portHead (s : State) (r : Fin 128) (m : Fin 14) : Option (Launch × Edge × Token) :=
  match s.ownerOf r with
  | none => none
  | some l =>
    match l.edges.find? (fun e => e.dst == .region r m) with
    | none => none
    | some e => match e.queue with
      | t :: _ => some (l, e, t)
      | [] => none

/-- The head token of a port is accepted. -/
def takePort (s : State) (l : Launch) (e : Edge) : State :=
  s.modLaunch l.q l.c (fun x => x.modEdge e.num (fun e =>
    { e with queue := e.queue.drop 1, returning := e.returning + 1, ended := e.ended || (e.queue.take 1).any (fun t => t.eos) }))

/-- Send what the output buffers hold while credits last; the port stamps the launch's tag (R359). -/
def flushPorts (s : State) (r : Fin 128) : State :=
  (s.region r).outbuf.foldl (fun s b =>
    match s.ownerOf r with
    | none => s
    | some l =>
      match l.edges.find? (fun e => e.src == .region r b.port) with
      | none => s
      | some e =>
        if e.credits = 0 ∨ (s.region r).outbuf.find? (fun x => x.port == b.port) ≠ some b then s
        else
          let tok : Token := ⟨b.bits, b.eos, b.poison, l.c⟩
          (s.modLaunch l.q l.c (fun x => x.modEdge e.num (fun e => { e with inflight := e.inflight ++ [tok], credits := e.credits - 1 }))).modRegion r
            (fun x => { x with outbuf := x.outbuf.erase b })) s

/-- The operator accepts the head token of an input port. -/
def acceptToken (s : State) (r : Fin 128) (m : Fin 14) : State :=
  let x := s.region r
  match x.active, portHead s r m with
  | some c, some (l, e, t) =>
    if x.st = 1 && x.clocked && (c.port m).1 == 1 && !(m == 13 && c.swapctl) then
      (takePort s l e).modRegion r (fun x =>
        { x with taint := x.taint || t.poison,
                 op := { x.op with hist := x.op.hist ++ [⟨m, portBits m t.bits, t.eos, t.poison⟩] } })
    else s
  | _, _ => s

/-- The operator emits a token on an output port whose buffer has room for it; a tainted region's
tokens are poisoned (R353, R360). -/
def emitToken (s : State) (r : Fin 128) (m : Fin 14) : State :=
  let x := s.region r
  match x.active with
  | some c =>
    if x.clocked && (c.port m).1 == 2 && decide ((x.outbuf.filter (fun b => b.port == m)).length < 16) then
      match x.op.next c.idhash m with
      | some (bits, eos) =>
        let payload := BitVec.ofNat 512 (bits.toNat % 2 ^ (8 * (c.port m).2))
        flushPorts (s.modRegion r (fun x =>
          { x with outbuf := x.outbuf ++ [⟨m, portBits m payload, eos, x.taint⟩],
                   op := { x.op with emitted := x.op.emitted ++ [m] } })) r
      | none => s
    else s
  | none => s

/-- OPERATOR_EMIT: on its clock the operator accepts a token from a port, or emits one on it. -/
def execOperatorEmit (r : Fin 128) (port : Fin 14) (accept : Bool) (s : State) : Out :=
  .next (if accept then acceptToken s r port else emitToken s r port)

/-- OPERATOR_IDLE: the operator asserts idle and holds no accepted token: the taint clears (R360). -/
def execOperatorIdle (r : Fin 128) (s : State) : Out :=
  .next (if (s.region r).clocked && (s.region r).idle then s.modRegion r (fun x => { x with taint := false }) else s)

/-! ### Completion of region operations (R377, R380) -/

/-- A context's region operation completes, with the reason of a deferred fault or 0. -/
def endRegionOp (r : Fin 128) (reason : Nat) (s : State) (w : RgWait) : State :=
  let g := AgentId.tile w.t w.c
  let part := match s.launchOf g with | some l => s.regionPart l.q r | none => r.val
  let s1 := match w.sq with
    | some q =>
      if reason = 0 ∨ (s.ctx g).aborted.contains w.by_.serial then s
      else s.modCtx g (fun c => c.recordOwed ⟨0x0F, reason + 2 ^ 8 * part, 0, w.by_, .waitOn q⟩)
    | none => s
  s1.signalOpt g w.sq

/-- The reason of a region's last cause 0x0F. -/
def noteErr (s : State) (r : Fin 128) (reason : Nat) : State := s.modRegion r (fun x => { x with lasterr := reason })

def RgOp.fresh : RgOp := ⟨[], []⟩

/-- The staging plane becomes active and the operator's state starts anew; the taint is kept (R361). -/
def commitSwap (s : State) (r : Fin 128) : State :=
  let x := s.region r
  let s1 := s.modRegion r (fun x =>
    { x with st := 1, stage := 0, active := x.staged, staged := none, op := RgOp.fresh, quiescent := false, swap := none })
  match x.swap with
  | some w => w.who.foldl (endRegionOp r 0) s1
  | none => s1

/-- A swap ends without effect, or fails (R362, R363, R365). -/
def failSwap (s : State) (r : Fin 128) (reason : Nat) : State :=
  match (s.region r).swap with
  | none => s
  | some w =>
    let s1 := noteErr (w.who.foldl (endRegionOp r reason) (s.modRegion r (fun x => { x with swap := none }))) r reason
    if !w.token then s1
    else if reason = 3 then
      match s.ownerOf r with
      | some l => endLaunch s1 l.q l.c 7 0x0F (3 + 2 ^ 8 * s.regionPart l.q r)
      | none => s1
    else s1.logError (dieOfRegion r) 7 1 r.val 0 0

/-- A swap whose staging has ended begins: at once when Blank or forced, else with a drain (R361, R364). -/
def beginSwap (s : State) (r : Fin 128) : State :=
  let x := s.region r
  match x.swap with
  | none => s
  | some w =>
    if x.stage ≠ 2 then failSwap s r 1
    else if x.st = 0 ∨ w.force then commitSwap s r
    else if x.st = 3 then failSwap s r 2
    else s.modRegion r (fun x => { x with st := 2 })

/-- A swap is asked for: it joins the one in progress, waits for the staging, or begins (R363). -/
def askSwap (s : State) (r : Fin 128) (force : Bool) (who : List RgWait) (token : Bool) : State :=
  let x := s.region r
  match x.swap with
  | some w => s.modRegion r (fun x => { x with swap := some ⟨w.force || force, w.who ++ who, w.token || token⟩ })
  | none =>
    let s1 := s.modRegion r (fun x => { x with swap := some ⟨force, who, token⟩ })
    if x.stage = 1 then s1 else beginSwap s1 r

/-- The image of a region (R366). -/
def Region.snapshot (x : Region) : Option RgImage := x.active.map (fun c => ⟨c.idhash, x.op, x.taint⟩)

/-- DRAIN_COMPLETE: idle, with every emitted token in its buffer: the swap commits, or the region
freezes quiescent (R361, R368). -/
def execDrainComplete (r : Fin 128) (s : State) : Out :=
  let x := s.region r
  .next (if x.st = 2 && x.clocked && x.idle then
      (if x.swap.isSome then commitSwap s r else s.modRegion r (fun x => { x with st := 3, quiescent := true }))
    else s)

/-- DRAIN_BUDGET_EXPIRY: the region freezes with its state saved; a swap fails with reason 3, a
draining freeze completes (R362, R368). -/
def execDrainBudgetExpiry (r : Fin 128) (s : State) : Out :=
  let x := s.region r
  if x.st = 2 && !x.idle then
    let s1 := s.modRegion r (fun x => { x with st := 3, saved := true, quiescent := false, image := x.snapshot })
    .next (if x.swap.isSome then failSwap s1 r 3 else s1)
  else .next s

/-- SWAP_TOKEN: the swap port accepts its next token; with bit 0 set it asks for a swap (R365). -/
def execSwapToken (r : Fin 128) (s : State) : Out :=
  let x := s.region r
  let cfg := if x.st = 0 then x.staged else x.active
  match cfg, portHead s r 13 with
  | some c, some (l, e, t) =>
    if c.swapctl && (x.st == 0 || x.clocked) && !(x.st == 2 && x.swap.isNone) then
      let s1 := (takePort s l e).modRegion r (fun x => { x with taint := x.taint || t.poison })
      if !t.bits.getLsbD 0 then .next s1
      else if x.swap.isNone && (x.stage == 0 || x.stage == 3) then
        .next ((noteErr s1 r 1).logError (dieOfRegion r) 7 1 r.val 0 0)
      else .next (askSwap s1 r false [] true)
    else .next s
  | _, _ => .next s

/-! ### Staging (R357, R358) -/

/-- Token size codes and the sizes each network carries (Table 13.1, Table 13.4). -/
def portOk (m v : Nat) : Bool :=
  let d := bitsAt v 0 2
  let size := 4 * 2 ^ bitsAt v 2 3
  d != 3 && decide (bitsAt v 2 3 ≤ 4) && bitsAt v 5 11 == 0
    && (d == 0 || (if m < 8 then true else if m < 12 then decide (size ≤ 8) else size == 4))

/-- A bitstream header (Table 13.4): none when it is malformed. -/
def bitstreamHead (bs : List Byte) : Option (RgCfg × Nat) :=
  let f := fun (i n : Nat) => leNat ((bs.drop i).take n)
  let ports := (List.range 14).map (fun m => f (28 + 2 * m) 2)
  if f 0 4 = 0x52474E42 ∧ f 4 2 = 1 ∧ f 7 1 < 2 ∧ 50 ≤ f 18 2 ∧ f 18 2 ≤ f 20 2 ∧ f 20 2 ≤ 900 ∧ 1 ≤ f 22 2
      ∧ 1 ≤ f 24 4 ∧ f 24 4 ≤ 2 ^ 24 ∧ (ports.zipIdx.all (fun p => portOk p.2 p.1)) ∧ f 56 8 = 0 ∧ f 100 28 = 0
      ∧ 128 + Config.bitstreamTail (f 96 4) ≤ 18 * 2 ^ 20 then
    some (⟨BitVec.ofNat 256 (f 64 32), f 7 1 == 1, f 18 2, f 20 2, f 24 4, ports.map (fun v => (bitsAt v 0 2, 4 * 2 ^ bitsAt v 2 3))⟩, f 96 4)
  else none

/-- Class and resources of a header fit a region. -/
def headFits (bs : List Byte) : Bool :=
  let f := fun (i n : Nat) => leNat ((bs.drop i).take n)
  f 6 1 == 1 && decide (f 8 4 ≤ 96000) && decide (f 12 4 ≤ 192000) && decide (f 16 2 ≤ 128)

/-- The port map agrees with the region's bound edges, and the clock lies in its range (R358). -/
def cfgFits (l : Launch) (r : Fin 128) (c : RgCfg) (clock : Nat) : Bool :=
  l.edges.all (fun e =>
    (match e.dst with | .region k m => k != r || c.port m == (1, e.tokSize) | _ => true)
    && (match e.src with | .region k m => k != r || c.port m == (2, e.tokSize) | _ => true))
  && (clock == 0 || (decide (c.fmin ≤ clock) && decide (clock ≤ c.fmax)))

/-- What a bitstream at a virtual address comes to: a configuration or the reason of its failure, with the state in
which its lines have passed; a line that another access holds; or an access that parks. -/
inductive Staged where
  | ok (c : RgCfg) (s : State)
  | bad (reason : Nat) (s : State)
  | wait
  | park (va level : Nat)

/-- Read and verify a bitstream for a region of a launch. -/
def stageBits (s : State) (l : Launch) (r : Fin 128) (addr clock : Nat) : Staged :=
  let cl := clusterOfRegion r
  let m := mctxOf l.q l.c
  match fetchVa s cl m addr 128 with
  | .wait => .wait
  | .park va lv => .park va lv
  | .fail _ _ => .bad 7 s
  | .bytes hd po s =>
    match bitstreamHead hd with
    | none => .bad 4 s
    | some (c, nf) =>
      if po then .bad 4 s
      else
        match fetchVa s cl m (addr + 128) (Config.bitstreamTail nf) with
        | .wait => .wait
        | .park va lv => .park va lv
        | .fail _ _ => .bad 7 s
        | .bytes tl po2 s =>
          let key := match s.parts.find? (fun p => p.q == l.q) with | some p => p.owner | none => 0
          if po2 then .bad 4 s
          else if !Config.bitstreamSigned key hd tl then .bad 5 s
          else if headFits hd && Config.framesInside hd tl && cfgFits l r c clock then .ok c s else .bad 6 s

/-- The staging of an rgload ends (R358, R363). -/
def endStaging (s : State) (r : Fin 128) (w : RgWait) (o : RgCfg ⊕ Nat) : State :=
  let s1 := s.modRegion r (fun x => match o with
    | .inl c => { x with stage := 2, staged := some c, load := none }
    | .inr n => { x with stage := 3, staged := none, load := none, lasterr := n })
  let s2 := endRegionOp r (match o with | .inl _ => 0 | .inr n => n) s1 w
  if (s.region r).swap.isSome then beginSwap s2 r else s2

/-- The Region Manager of a region's die has begun to stage another region (R358). -/
def dieStages (s : State) (r : Fin 128) : Bool :=
  (List.finRange 128).any (fun k => k != r && dieOfRegion k == dieOfRegion r
    && (match (s.region k).load with | some w => w.begun | none => false))

/-- STAGING_DONE: the bitstream of an rgload is verified in full: staged or failed. -/
def execStagingDone (r : Fin 128) (s : State) : Out :=
  let x := s.region r
  match x.load with
  | none => .next s
  | some w =>
    let g := AgentId.tile w.who.t w.who.c
    if w.parked.isSome ∨ olderAccess (s.ctx g) w.who.by_.order ∨ dieStages s r then .next s
    else
      match s.launchOf g with
      | none => .next s
      | some l =>
        match stageBits s l r w.addr x.req with
        | .ok c s1 => .next (endStaging s1 r w.who (.inl c))
        | .bad n s1 => .next (endStaging s1 r w.who (.inr n))
        | .wait => .next s
        | .park va lv =>
          if s.replayRoom (.unit (dieOfRegion r)) then
            let (tok, s1) := s.park (.unit (dieOfRegion r)) (mctxOf l.q l.c) .read va lv
            .next (s1.modRegion r (fun x => { x with load := some { w with parked := some tok, begun := true } }))
          else .next s

/-! ### Clock and power steps -/

/-- CLOCK_RELOCK: the synthesiser has relocked (R355). -/
def execClockRelock (r : Fin 128) (s : State) : Out := .next (s.modRegion r (fun x => { x with relock := false }))

/-- A window above the cap: a step down, or, after 1 ms of them at 50 MHz, a freeze (R356). -/
def overCap (s : State) (r : Fin 128) : State :=
  let x := s.region r
  if x.step < 72 then s.modRegion r (fun x => { x with capk := x.step + 1, below := 0, above := 0 })
  else if x.above + 1 < 100 then s.modRegion r (fun x => { x with below := 0, above := x.above + 1 })
  else (s.modRegion r (fun x => { x with st := 3, quiescent := false, lasterr := 10, below := 0, above := 0 })).event 3 r.val 0

/-- A window below 90 % of the cap: the tenth in a row raises one step, never above the request. -/
def underCap (x : Region) : Region :=
  if x.below + 1 < 10 then { x with below := x.below + 1, above := 0 }
  else { x with below := 0, above := 0, capk := if x.reqStep < x.step then x.step - 1 else x.capk }

/-- POWER_WINDOW: a 10 µs window of mean power against the cap (R356). -/
def execPowerWindow (r : Fin 128) (tenthWatts : Nat) (s : State) : Out :=
  let x := s.region r
  if !x.clocked then .next s
  else if x.cap.toNat < tenthWatts then .next (overCap s r)
  else if 10 * tenthWatts < 9 * x.cap.toNat then .next (s.modRegion r underCap)
  else .next (s.modRegion r (fun x => { x with below := 0, above := 0 }))

/-! ### Instructions (R377 to R379) -/

/-- Cause 0x0F (R380). -/
def regionTrap (b : Bool) (reason part : Nat) : Option (Nat × Nat × Nat) := trapIf b 0x0F (reason + 2 ^ 8 * part) 0

/-- The region an instruction names, with the checks of R377; free says that an unowned region does. -/
def withRegion (s : State) (ins : Instr) (srcs : List (Fin 32)) (a : Fin 32) (align : Option Nat) (free : Bool)
    (go : Launch → Fin 128 → Nat → Eff) : Eff :=
  let n := (s.me.readS a).toNat
  let pre := [poisonS s.me srcs, match align with | some a => alignCheck a 256 | none => none]
  match s.launchOf s.cur with
  | none => orTrap pre .hold
  | some l =>
    match s.regionOf l.q n with
    | none => orTrap (pre ++ [trapIf true 0x06 n 0]) .hold
    | some r =>
      let bad := match (s.region r).owner with
        | some o => o != l.id
        | none => !free
      orTrap (pre ++ [trapIf bad 0x06 n 0, maskTrap s ins]) (go l r n)

def waitOf (s : State) (ins : Instr) (t : Fin 256) (c : Fin 4) : RgWait := ⟨t, c, sqOf ins, s.issued s.cur⟩

def execRgload (h : Hdr) (x y : Fin 32) (cl : Clauses) (s : State) : Out :=
  let ins := Instr.rgload h x y cl
  issue ins [.s x, .s y] s fun s => onTileCtx s fun t c =>
    let a := (s.me.readS x).toNat
    withRegion s ins [x, y] y (some a) true fun l r n =>
      orTrap [regionTrap ((s.region r).stage == 1) 2 n] <|
        if (s.region r).swap.isSome then .hold
        else afterDrain s <|
          .done (s.modRegion r (fun x => { x with owner := some l.id, stage := 1, load := some ⟨a, waitOf s ins t c, none, false⟩ }))

/-- rgswap and rgswap.force: a draining freeze is waited for. -/
def rgswapEffect (ins : Instr) (y : Fin 32) (force : Bool) (s : State) : Eff :=
  onTileCtx s fun t c =>
    withRegion s ins [y] y none false fun _ r n =>
      let x := s.region r
      orTrap [regionTrap (x.swap.isNone && (x.stage == 0 || x.stage == 3)) 1 n, regionTrap (x.st == 3 && !force) 2 n] <|
        if x.st = 2 && x.swap.isNone then .hold
        else
          let s1 := askSwap s r force [waitOf s ins t c] false
          .done (if force && x.swap.isSome && x.stage == 2 then commitSwap s1 r else s1)

def execRgswap (h : Hdr) (y : Fin 32) (cl : Clauses) (s : State) : Out :=
  issue (.rgswap h y cl) [.s y] s (rgswapEffect (.rgswap h y cl) y false)

def execRgswapForce (h : Hdr) (y : Fin 32) (cl : Clauses) (s : State) : Out :=
  issue (.rgswapForce h y cl) [.s y] s (rgswapEffect (.rgswapForce h y cl) y true)

def execRgsave (h : Hdr) (y : Fin 32) (cl : Clauses) (s : State) : Out :=
  let ins := Instr.rgsave h y cl
  issue ins [.s y] s fun s => onTileCtx s fun _ _ =>
    withRegion s ins [y] y none false fun _ r n =>
      orTrap [regionTrap ((s.region r).st != 3) 2 n] <|
        doneSig ins (s.modRegion r (fun x => { x with image := x.snapshot, saved := true }))

/-- The image fits the active configuration (R367). -/
def Region.restorable (x : Region) : Option RgImage :=
  match x.image, x.active with
  | some i, some c => if i.idhash = c.idhash then some i else none
  | _, _ => none

def execRgrest (h : Hdr) (y : Fin 32) (cl : Clauses) (s : State) : Out :=
  let ins := Instr.rgrest h y cl
  issue ins [.s y] s fun s => onTileCtx s fun t c =>
    withRegion s ins [y] y none false fun _ r n =>
      orTrap [regionTrap ((s.region r).st != 3) 2 n] <|
        match (s.region r).restorable with
        | some i => doneSig ins (s.modRegion r (fun x => { x with op := i.op, taint := i.taint }))
        | none => .done (endRegionOp r 9 (noteErr s r 9) (waitOf s ins t c))

def execRgclk (h : Hdr) (a : Fin 32) (f : BitVec 20) (s : State) : Out :=
  let ins := Instr.rgclk h a f
  issue ins [.s a] s fun s => onTileCtx s fun _ _ =>
    withRegion s ins [a] a none false fun _ r n =>
      let x := s.region r
      match x.active with
      | none => orTrap [regionTrap true 2 n] .hold
      | some c =>
        orTrap [regionTrap (x.st == 0) 2 n, regionTrap (decide (f.toNat < c.fmin) || decide (c.fmax < f.toNat)) 8 n] <|
          .done (s.modRegion r (fun x => { x with req := f.toNat, relock := x.relock || f.toNat != x.reqFreq }))

/-- rgfrz: held until the region is Frozen or Blank; a swap is waited for (R363, R368, R379). -/
def rgfrzEffect (ins : Instr) (a : Fin 32) (drain : Bool) (s : State) : Eff :=
  onTileCtx s fun _ _ =>
    withRegion s ins [a] a none false fun _ r _ =>
      let x := s.region r
      if x.st = 0 ∨ x.st = 3 then .done s
      else if x.swap.isSome ∨ x.st = 2 then .hold
      else if drain then .wait (fun s => s.modRegion r (fun x => { x with st := 2 }))
      else .done (s.modRegion r (fun x => { x with st := 3, quiescent := false }))

def execRgfrz (h : Hdr) (a : Fin 32) (s : State) : Out :=
  issue (.rgfrz h a) [.s a] s (rgfrzEffect (.rgfrz h a) a false)

def execRgfrzDrain (h : Hdr) (a : Fin 32) (s : State) : Out :=
  issue (.rgfrzDrain h a) [.s a] s (rgfrzEffect (.rgfrzDrain h a) a true)

def execRgthaw (h : Hdr) (a : Fin 32) (s : State) : Out :=
  issue (.rgthaw h a) [.s a] s fun s => onTileCtx s fun _ _ =>
    withRegion s (.rgthaw h a) [a] a none false fun _ r n =>
      orTrap [regionTrap ((s.region r).st == 0) 2 n] <|
        .done (if (s.region r).st = 3 then s.modRegion r (fun x => { x with st := 1, quiescent := false, saved := false }) else s)

/-- Table 13.9. -/
def rgstatWord (x : Region) (owned : Bool) : Word :=
  let freq := if x.clocked then 3600 / x.step else 0
  BitVec.ofNat 64 (x.st + 2 ^ 2 * x.stage + 2 ^ 4 * b2n x.saved + 2 ^ 5 * b2n x.quiescent + 2 ^ 6 * b2n x.taint + 2 ^ 7 * b2n owned
    + 2 ^ 8 * (x.lasterr % 256) + 2 ^ 16 * freq + 2 ^ 26 * (x.req % 1024) + 2 ^ 36 * b2n (decide (x.reqStep < x.step)))

def execRgstat (h : Hdr) (d a : Fin 32) (s : State) : Out :=
  issue (.rgstat h d a) [.s a] s fun s => onTileCtx s fun _ _ =>
    withRegion s (.rgstat h d a) [a] a none true fun _ r _ =>
      s.onCtx fun c => c.writeS d (rgstatWord (s.region r) (s.region r).owner.isSome) false

/-! ### TOKEN_ARRIVAL, CREDIT_RETURN (R126, R127, R140, R359) -/

/-- The receiving endpoint's kind and number in the die error log, and its die (Table 16.12). -/
def endpointUnit (s : State) (l : Launch) : Endpoint → Option (Nat × Nat × Fin 2)
  | .actor i _ => (l.inst i).map (fun x => (5, x.tile.val, dieOfTile x.tile))
  | .region r _ => some (7, r.val, dieOfRegion r)
  | .stream t c n =>
    let g := match ((s.ctx (.tile t c)).ss.get n).record with
      | some x => (s.cgOfPart l.q (recOf x).cg).getD (clusterOfTile t)
      | none => clusterOfTile t
    some (6, g.val, dieOfCluster g)
  | .template t c n =>
    let g := match (s.ctx (.tile t c)).tmpl.get n with
      | some x => (s.cgOfPart l.q (recOf x.record).cg).getD (clusterOfTile t)
      | none => clusterOfTile t
    some (6, g.val, dieOfCluster g)
  | .push n _ => some (4, n.val, dieOfCluster (sliceNum n).1)
  | .link _ _ => none

/-- The port of a cut edge's end. -/
def Endpoint.port? : Endpoint → Option (Fin 16 × Nat)
  | .link k v => some (k, v)
  | _ => none

/-- A stream-link port carries traffic while its LNKMAP.EN and LNKST.UP are 1 (R424). -/
def State.linkCarries (s : State) (k : Fin 16) : Bool := (s.pf.lnkmap.get k).getLsbD 16 && (s.pf.lnkst.get k).getLsbD 0

/-- The next token that the far package has sent on a cut edge, while it holds a credit (R425, log 51). -/
def State.linkNext (s : State) (l : Launch) (e : Edge) : Option Token :=
  match e.src.port? with
  | some (k, v) =>
    if l.phase != .setup && s.linkCarries k && decide (0 < e.credits) then
      (Config.linkToken k.val v e.crossed (s.dies.get 0).cycle.toNat).map (fun x =>
        ⟨BitVec.ofNat 512 (x.1.toNat % 2 ^ (8 * e.tokSize)), x.2.1, x.2.2.1, x.2.2.2⟩)
    else none
  | none => none

/-- A token comes over a link: it takes one of the far producer's credits. -/
def Edge.comeOver (e : Edge) (t : Token) : Edge :=
  { e with inflight := e.inflight ++ [t], credits := e.credits - 1, crossed := e.crossed + 1 }

/-- The oldest token leaves over a link; its slot is the far consumer's until the credit returns. -/
def Edge.leaveOver (e : Edge) : Edge := { e with inflight := e.inflight.drop 1, returning := e.returning + (e.inflight.take 1).length }

/-- Credits come back: those of the slots that the consumer has freed; a far consumer frees them in its own
time (log 51). -/
def State.creditBack (s : State) (e : Edge) : Edge :=
  let n := match e.dst.port? with
    | some (k, v) => if s.linkCarries k then Nat.min e.returning (Config.linkFreed k.val v (s.dies.get 0).cycle.toNat) else 0
    | none => e.returning
  { e with credits := e.credits + n, returning := e.returning - n }

/-- The slot of its firkin into which an edge port of an actor's tile writes the next token that comes: the tile, and the
byte of its scratchpad (R126, R286). -/
def Launch.firkinSlot (l : Launch) (e : Edge) : Option (Fin 256 × Nat) :=
  match e.dst with
  | .actor i _ =>
    match l.inst i, e.base with
    | some x, some b => some (x.tile, b + e.arrived % Nat.max 1 e.depth * e.tokSize)
    | _, _ => none
  | _ => none

/-- The edge port of an actor's tile holds at the beat that would touch bytes behind a watermark (R318). -/
def edgeStalls (s : State) (l : Launch) (e : Edge) : Bool :=
  match l.firkinSlot e with
  | some (t, a) => (s.tile t).wmStall a e.tokSize (s.tile t).issues
  | none => false

/-- A token comes off its network into the firkin of an actor: its bytes are in the tile's scratchpad (R286, log 59). -/
def enterFirkin (s : State) (l : Launch) (e : Edge) (t : Token) : State :=
  match l.firkinSlot e with
  | some (k, a) =>
    (s.modTile k (fun y => { y with scratch := y.scratch.writeMasked a (leBytes e.tokSize t.bits.toNat) (List.replicate e.tokSize true) })).modLaunch
      l.q l.c (fun x => x.modEdge e.num (fun e => { e with arrived := e.arrived + 1 }))
  | none => s

/-- A token as it comes off the network of its edge. -/
def comeOff (e : Edge) : Edge :=
  match e.inflight with
  | [] => e
  | t :: ts => { e with inflight := offNet (e.way.map (fun w => w.1)) e.tokSize t :: ts }

/-- The oldest token on its way to a consumer of this package comes off its network, enters its firkin and becomes
countable; one whose tag is not the launch's context is discarded and logged (R127, R457). -/
def deliverToken (s : State) (q : Fin 32) (c : Fin 4) (edge : Nat) : State :=
  let s0 := s.modLaunch q c (fun l => l.modEdge edge comeOff)
  let s1 := s0.modLaunch q c (fun l => l.modEdge edge (arriveToken c))
  match s0.launches.find? (fun l => l.q == q && l.c == c) with
  | none => s1
  | some l =>
    match l.edge edge with
    | none => s1
    | some e =>
      match e.inflight, endpointUnit s l e.dst with
      | t :: _, some (src, unit, d) => if t.tag = c then enterFirkin s1 l e t else s1.logError d src 2 unit 0 (t.tag.val + 4 * c.val)
      | _, _ => s1

/-- The boxes of the partition carry an edge of a launch (R369 to R371). -/
def State.carries (s : State) (l : Launch) (e : Edge) : Bool :=
  match s.parts.find? (fun p => p.q == l.q) with
  | some p => carried p s.boxes l e
  | none => e.way.isNone

/-- TOKEN_ARRIVAL: the oldest token on its way reaches its consumer by the route that the boxes make, unless the consumer's
edge port holds; one of a cut edge comes over its link, or leaves over it (R126, R318, R369, R425). -/
def execTokenArrival (q : Fin 32) (c : Fin 4) (edge : Nat) (s : State) : Out :=
  match s.launches.find? (fun l => l.q == q && l.c == c) with
  | none => .next s
  | some l =>
    match l.edge edge with
    | none => .next s
    | some e =>
      if !s.carries l e || edgeStalls s l e then .next s
      else
      let s1 := match s.linkNext l e with
        | some t => s.modLaunch q c (fun l => l.modEdge edge (fun e => e.comeOver t))
        | none => s
      match e.dst.port? with
      | some (k, _) => .next (if s.linkCarries k then s1.modLaunch q c (fun l => l.modEdge edge Edge.leaveOver) else s1)
      | none => .next (deliverToken s1 q c edge)

/-- CREDIT_RETURN: the producer sees the slots its consumer has freed; a region's output buffer and a
conversion's completion token that waited for one go out. -/
def execCreditReturn (q : Fin 32) (c : Fin 4) (edge : Nat) (s : State) : Out :=
  let s1 := s.modLaunch q c (fun l => l.modEdge edge s.creditBack)
  match s1.launches.find? (fun l => l.q == q && l.c == c) with
  | none => .next s1
  | some l =>
    match l.edge edge with
    | some e => .next (match e.src with
      | .region r _ => flushPorts s1 r
      | .stream _ _ _ => pushConvTokens s1
      | _ => s1)
    | none => .next s1

end Sys2Proof.Machine
end

