-- ==== Sys2Proof/Machine/Image.lean ====
section
/-! DEFINITION. Reading a Ralyel graph image (R155 to R157, R128, R245, R323, R370, R371, R386, R443). -/

namespace Sys2Proof.Machine

/-- The number in n bytes from byte i on. -/
def numAt (bs : List Byte) (i n : Nat) : Nat := leNat ((bs.drop i).take n)

/-! ### Places relative to a partition (R155) -/

def Partition.tile? (p : Partition) (n : Nat) : Option (Fin 256) :=
  (p.cluster? (n / 8)).map (fun cl => ⟨cl.val * 8 + n % 8, by omega⟩)

def Partition.slice? (p : Partition) (n : Nat) : Option (Fin 320) :=
  (p.cluster? (n / 10)).map (fun cl => ⟨cl.val * 10 + n % 10, by omega⟩)

def Partition.region? (p : Partition) (n : Nat) : Option (Fin 128) :=
  (p.cluster? (n / 4)).map (fun cl => ⟨cl.val * 4 + n % 4, by omega⟩)

/-- A number below a bound. -/
def fin? (k n : Nat) : Option (Fin k) := if h : n < k then some ⟨n, h⟩ else none

/-- Every element of a list, converted; none when one fails. -/
def mapAll {α β : Type} (f : α → Option β) : List α → Option (List β)
  | [] => some []
  | x :: xs => match f x, mapAll f xs with
    | some y, some ys => some (y :: ys)
    | _, _ => none

/-- No element twice. -/
def distinct {α : Type} [DecidableEq α] : List α → Bool
  | [] => true
  | x :: xs => !xs.contains x && distinct xs

/-! ### Header and sections (R155, R156) -/

structure ImgHead where
  nsec : Nat
  clusters : Nat
  actors : Nat
  edges : Nat
  groups : Nat
deriving DecidableEq, Repr

/-- Table 5.8. Its reserved bytes 11:9 and 31:24 are ignored: the spec gives a non-zero one no consequence
(DESIGN CHOICE, log 62). -/
def imgHead (bs : List Byte) : Option ImgHead :=
  let h : ImgHead := ⟨numAt bs 6 2, numAt bs 8 1, numAt bs 12 4, numAt bs 16 4, numAt bs 20 4⟩
  if numAt bs 0 4 = 0x4C594C52 ∧ numAt bs 4 2 = 1 ∧ 1 ≤ h.nsec ∧ h.nsec ≤ 32 ∧ 1 ≤ h.clusters ∧ h.clusters ≤ 32
      ∧ 1 ≤ h.actors ∧ h.actors ≤ 65536 ∧ h.edges ≤ 2 ^ 20 ∧ h.groups ≤ 16384 ∧ 32 ≤ bs.length then some h else none

/-- The sections: type, offset and length. -/
def imgSections (bs : List Byte) (n : Nat) : List (Nat × Nat × Nat) :=
  (List.range n).map (fun i => (numAt bs (32 + 16 * i) 4, numAt bs (40 + 16 * i) 4, numAt bs (44 + 16 * i) 4))

/-- Two sections share a byte. -/
def overlap (a b : Nat × Nat × Nat) : Bool :=
  decide (0 < a.2.2) && decide (0 < b.2.2) && decide (a.2.1 < b.2.1 + b.2.2) && decide (b.2.1 < a.2.1 + a.2.2)

def noOverlap : List (Nat × Nat × Nat) → Bool
  | [] => true
  | x :: xs => !xs.any (overlap x) && noOverlap xs

/-- R155, R156: types known and distinct, CODE and ACTORS present, flags 0, within the image and apart. -/
def sectionsOk (bs : List Byte) (n : Nat) : Bool :=
  let ss := imgSections bs n
  ss.all (fun x => decide (1 ≤ x.1) && decide (x.1 ≤ 12) && decide (x.2.1 + x.2.2 ≤ bs.length))
    && (List.range n).all (fun i => numAt bs (36 + 16 * i) 4 == 0)
    && distinct (ss.map (fun x => x.1)) && [1, 2].all (fun t => ss.any (fun x => x.1 == t)) && noOverlap ss

/-- The bytes of the section of a type; none of them when it is absent. -/
def sectionBytes (bs : List Byte) (n ty : Nat) : List Byte :=
  match (imgSections bs n).find? (fun x => x.1 == ty) with
  | some x => (bs.drop x.2.1).take x.2.2
  | none => []

/-- Pieces of n bytes; none when some are left over. -/
def pieces : Nat → Nat → List Byte → Option (List (List Byte))
  | _, _, [] => some []
  | 0, _, _ => none
  | fuel + 1, n, bs =>
    if bs.length < n ∨ n = 0 then none else (pieces fuel n (bs.drop n)).map (fun r => bs.take n :: r)

/-! ### CODE -/

/-- The parts of a CODE section: partition tile and instruction bytes. A byte count that is no multiple of 8 makes the
image malformed (DESIGN CHOICE, log 63). -/
def codeParts : Nat → List Byte → Option (List (Nat × List Byte))
  | _, [] => some []
  | 0, _ => none
  | fuel + 1, bs =>
    let n := numAt bs 4 4
    if bs.length < 8 + n ∨ n % 8 ≠ 0 then none
    else (codeParts fuel (bs.drop (8 + n))).map (fun r => (numAt bs 0 4, (bs.drop 8).take n) :: r)

/-- Tiles with their code; none when a tile is outside the partition or the code beyond the range. -/
def imgCode (p : Partition) (room : Nat) (bs : List Byte) : Option (List (Fin 256 × List Byte)) :=
  match codeParts bs.length bs with
  | none => none
  | some xs => mapAll (fun x => if room < x.2.length then none else (p.tile? x.1).map (fun t => (t, x.2))) xs

/-! ### ACTORS (R157) -/

/-- The seven bytes of a slot: none when malformed, else its binding if bound. -/
def slotDesc (x : Nat) : Option (Option SlotBind) :=
  if bitsAt x 20 3 ≠ 0 ∨ bitsAt x 36 3 ≠ 0 ∨ bitsAt x 40 16 ≠ 0 then none
  else if bitOf x 23 then (if bitsAt x 24 12 = 0 then none else some (some ⟨bitsAt x 0 20, bitsAt x 24 12, bitOf x 39⟩))
  else some none

/-- Table 5.10: an actor descriptor, with the image's edge count and the launch's code range. -/
def actorDesc (p : Partition) (edges ibase room : Nat) (bs : List Byte) : Option Inst :=
  let prio := numAt bs 6 1
  let entry := numAt bs 8 4
  match p.tile? (numAt bs 4 2), mapAll slotDesc ((List.range 16).map (fun n => numAt bs (16 + 7 * n) 7)) with
  | some t, some sl =>
    let slots : Vector (Option SlotBind) 16 := Vector.ofFn (fun n => sl.getD n.val none)
    if 65536 ≤ numAt bs 0 4 ∨ bitsAt prio 2 5 ≠ 0 ∨ numAt bs 7 1 ≠ 0 ∨ entry % 8 ≠ 0 ∨ room ≤ entry ∨ scratchEnd ≤ numAt bs 12 4 then none
    else if sl.any (fun b => match b with | some b => decide (edges ≤ b.edge) || bitOf prio 7 | none => false) then none
    else some { num := numAt bs 0 4, tile := t, prio := Fin.ofNat 4 prio, handler := bitOf prio 7,
                entry := BitVec.ofNat 18 (ibase + entry), state := numAt bs 12 4, slots := slots, enabled := false,
                wanted := [], started := 0, ended := 0, eosDone := 0, lastFired := none }
  | _, _ => none

/-- The instances: as many as the header says, of distinct numbers; a declared handler on every tile
with an actor (R386). -/
def imgActors (p : Partition) (h : ImgHead) (ibase room : Nat) (bs : List Byte) : Option (List Inst) :=
  match pieces (h.actors + 1) 128 bs with
  | none => none
  | some ps =>
    match mapAll (actorDesc p h.edges ibase room) ps with
    | none => none
    | some is =>
      let hs := is.filter (fun i => i.handler)
      if is.length = h.actors && distinct (is.map (fun i => i.num)) && distinct (hs.map (fun i => i.tile))
          && (hs.isEmpty || is.all (fun i => hs.any (fun x => x.tile == i.tile))) then some is
      else none

/-! ### EDGES -/

/-- An endpoint in global numbers. -/
def endpoint? (p : Partition) (c : Fin 4) (is : List Inst) : ImgEnd → Option Endpoint
  | .actor i n => match fin? 16 n with
    | some n => if is.any (fun x => x.num == i) then some (.actor i n) else none
    | none => none
  | .region r m => match p.region? r, fin? 14 m with | some r, some m => some (.region r m) | _, _ => none
  | .stream t n => match p.tile? t, fin? 16 n with | some t, some n => some (.stream t c n) | _, _ => none
  | .template t n => match p.tile? t, fin? 16 n with | some t, some n => some (.template t c n) | _, _ => none
  | .push n j => match p.slice? n, fin? 4 j with | some n, some j => some (.push n j) | _, _ => none
  | .link k v => match fin? 16 k with | some k => if 4 ≤ v ∧ v ≤ 255 then some (.link k v) else none | none => none

/-- The rate of an endpoint: that of an actor's slot, else 1 token (R443). -/
def endRate (is : List Inst) : Endpoint → Nat
  | .actor i n => match is.find? (fun x => x.num == i) with
    | some x => (match x.slots.get n with | some b => b.rate | none => 1)
    | none => 1
  | _ => 1

/-- An actor's slot is bound to the edge in this direction. -/
def boundTo (is : List Inst) (num : Nat) (out : Bool) : Endpoint → Bool
  | .actor i n => is.any (fun x => x.num == i &&
      (match x.slots.get n with | some b => b.edge == num && b.out == out | none => false))
  | _ => true

def Endpoint.isRegion : Endpoint → Bool
  | .region _ _ => true
  | _ => false

def Endpoint.isTemplate : Endpoint → Bool
  | .template _ _ _ => true
  | _ => false

/-- A firkin in the scratchpad of a consuming actor lies in it; that one which does not makes the image malformed is read
from R126 (DEDUCED, log 5). -/
def Edge.firkinFits (e : Edge) : Bool :=
  match e.dst, e.base with
  | .actor _ _, some b => decide (b + e.depth * e.tokSize ≤ scratchEnd)
  | _, _ => true

/-- R126, R128, R443 for one edge. -/
def edgeOk (is : List Inst) (e : Edge) : Bool :=
  let p := endRate is e.src
  let c := endRate is e.dst
  [4, 8, 16, 32, 64].contains e.tokSize && decide (1 ≤ e.depth) && decide (e.depth ≤ 65535)
    && decide (Nat.max p c ≤ e.depth) && boundTo is e.num true e.src && boundTo is e.num false e.dst
    && e.firkinFits && !e.src.isTemplate && (!e.dst.isRegion || (e.depth == 64 && decide (p ≤ 64)))

/-- An edge as it starts: empty, its credits those of the firkin, but none across a link (R152). -/
def newEdge (n : Nat) (d : ImgEdge) (src dst : Endpoint) : Edge :=
  { num := n, tokSize := d.tokSize, depth := d.depth, src := src, dst := dst, way := d.way, base := d.firkin, arrived := 0,
    queue := [], inflight := [],
    credits := if dst.port?.isSome then 0 else d.depth, returning := 0, ended := false, crossed := 0 }

/-- The edges: one descriptor each, every endpoint once, and every bound slot at an end of its edge. -/
def imgEdges (p : Partition) (c : Fin 4) (h : ImgHead) (is : List Inst) (bs : List Byte) : Option (List Edge) :=
  match pieces (h.edges + 1) 32 bs with
  | none => none
  | some ps =>
    match mapAll (fun (x : List Byte × Nat) =>
        match Config.edgeDesc x.1 with
        | none => none
        | some d => match endpoint? p c is d.src, endpoint? p c is d.dst with
          | some a, some b => some (newEdge x.2 d a b)
          | _, _ => none) ps.zipIdx with
    | none => none
    | some es =>
      let bound := is.all (fun i => (List.finRange 16).all (fun n => match i.slots.get n with
        | some b => es.any (fun e => e.num == b.edge && (if b.out then e.src else e.dst) == .actor i.num n)
        | none => true))
      if es.length = h.edges && es.all (edgeOk is) && distinct (es.map (fun e => e.src))
          && distinct (es.map (fun e => e.dst)) && bound then some es
      else none

/-! ### ROUTES (R156, R245, R370, R371) -/

/-- The streams of a ROUTES section: consumer and words. A header whose reserved bytes 3:1 are not 0 makes the image
malformed: the spec gives such a header no consequence (DESIGN CHOICE, log 62). -/
def routeStreams : Nat → List Byte → Option (List (Nat × List Nat))
  | _, [] => some []
  | 0, _ => none
  | fuel + 1, bs =>
    let n := numAt bs 4 4
    if bs.length < 8 + 4 * n ∨ numAt bs 1 3 ≠ 0 ∨ ¬(numAt bs 0 1 = 1 ∨ numAt bs 0 1 = 2) then none
    else
      (routeStreams fuel (bs.drop (8 + 4 * n))).map (fun r =>
        (numAt bs 0 1, (List.range n).map (fun i => numAt bs (8 + 4 * i) 4)) :: r)

/-- Table 13.7: the width of a field. -/
def routeWidth (elem field : Nat) : Option Nat :=
  let low := elem % 128
  if 4 ≤ elem / 4096 then none
  else if elem / 4096 = 3 then (if low = 0 ∧ field < 4 then some 1 else none)
  else if low < 64 ∧ field < 4 * tracks elem + 8 then some 6 else none

/-- An edge may be stitched: the cluster that it leads to is in the partition, or it leads to a link adapter or,
at the grid's north and south, to nothing (R371). -/
def stitchOk (p : Partition) (b : BoxOut) : Bool :=
  let cc := b.cluster.val % 16
  b.code == 0 || edgeJoined p b.cluster b.field 0 || (b.field == 0 && decide (cc < 4)) || (b.field == 2 && decide (12 ≤ cc))

/-- R370: a box output's source code, in a configuration. -/
def codeOk (p : Partition) (bs : List BoxOut) (b : BoxOut) : Bool :=
  let t := tracks b.elem
  let box := b.elem % 64
  if b.isEdge then stitchOk p b
  else if b.code = 0 then true
  else
    decide (b.code ≤ 4 * t + 8)
    && (decide (4 * t ≤ b.field) || trackJoined p bs b.cluster box (b.field / t) (b.field % t))
    && (decide (4 * t < b.code) ||
        (trackJoined p bs b.cluster box ((b.code - 1) / t) ((b.code - 1) % t)
          && (decide (4 * t ≤ b.field) || (b.code - 1) / t != b.field / t)))

/-- One word's effect: it replaces what its launch has set before, and a code 0 leaves nothing (R68). What another
launch of the partition has set stays fixed (R25, R370): the spec does not say what becomes of a word that would change
it, and the model discards that word; a word that would set it alike holds it for its own launch too (DESIGN CHOICE,
log 67). -/
def putBox (bs : List BoxOut) (b : BoxOut) : List BoxOut :=
  let here := fun (x : BoxOut) => x.elem == b.elem && x.cluster == b.cluster && x.field == b.field
  if bs.any (fun x => here x && x.owner != b.owner && x.code != b.code) then bs
  else bs.filter (fun x => !(here x && x.owner == b.owner)) ++ (if b.code = 0 then [] else [b])

/-- No source feeds two outputs of a box. -/
def singleFeed (bs : List BoxOut) : Bool :=
  bs.all (fun b => b.code == 0 || b.isEdge ||
    bs.all (fun x => !(x.elem == b.elem && x.cluster == b.cluster && x.code == b.code && x.field != b.field)))

/-- The configuration of a partition's clusters is well formed (R370). -/
def routesOk (p : Partition) (bs : List BoxOut) : Bool :=
  let mine := bs.filter (fun b => p.clusters.getLsbD b.cluster.val)
  mine.all (codeOk p mine) && singleFeed mine

/-- A route stream's outputs for a launch; the element keeps the network and the box, its cluster apart. -/
def imgRoute (p : Partition) (id : Nat) (ws : List Nat) : Option (List BoxOut) :=
  match cfgStream routeWidth ws with
  | none => none
  | some xs => mapAll (fun x => (p.cluster? (bitsAt x.1 7 5)).map (fun cl => ⟨x.1 / 4096 * 4096 + x.1 % 128, cl, x.2.1, x.2.2, id⟩)) xs

/-- R245: the width of a panel field. -/
def panelWidth (elem field : Nat) : Option Nat := if elem < 256 then [2, 4, 32, 3][field]? else none

/-- A panel stream's words: tile, field and value. -/
def imgPanel (p : Partition) (ws : List Nat) : Option (List (Fin 256 × Nat × Nat)) :=
  match cfgStream panelWidth ws with
  | none => none
  | some xs => mapAll (fun x => (p.tile? x.1).map (fun t => (t, x.2.1, x.2.2))) xs

/-! ### GROUPS -/

/-- A group: identifier, member count and partition slice. -/
def imgGroups (p : Partition) (h : ImgHead) (bs : List Byte) : Option (List (Nat × Nat × Fin 320)) :=
  match pieces (h.groups + 1) 8 bs with
  | none => none
  | some ps =>
    match mapAll (fun x => if 16384 ≤ numAt x 0 2 then none
        else (p.slice? (numAt x 6 2)).map (fun n => (numAt x 0 2, numAt x 2 4, n))) ps with
    | none => none
    | some gs => if gs.length = h.groups && distinct (gs.map (fun g => g.1)) then some gs else none

/-! ### HANDLES, BITSTREAMS, STAGRAPHS -/

/-- The handle table: every index once, every descriptor good (R199, R201 to R203). -/
def imgHandles (bs : List Byte) : Option (List (BitVec 1024)) :=
  if bs = [] then some []
  else match Config.handleSection bs with
    | none => none
    | some xs =>
      if 65536 < xs.length ∨ !xs.all (fun x => (defReason x.2).isNone) then none
      else mapAll (fun i => (xs.find? (fun x => x.1 == i)).map (fun x => x.2)) (List.range xs.length)

/-- Bitstreams with their regions and clocks. -/
def imgBits (p : Partition) (bs : List Byte) : Option (List (Fin 128 × Nat × List Byte)) :=
  if bs = [] then some []
  else match Config.bitstreamSection bs with
    | none => none
    | some xs => mapAll (fun x => (p.region? x.1).map (fun r => (r, x.2.1, x.2.2))) xs

/-- Sealed graphs with their channel groups and slots. -/
def imgStas (p : Partition) (bs : List Byte) : Option (List (Fin 32 × Fin 8 × List Byte)) :=
  if bs = [] then some []
  else match Config.staSection bs with
    | none => none
    | some xs => mapAll (fun x => match p.cluster? x.1, fin? 8 x.2.1 with
      | some g, some k => some (g, k, x.2.2)
      | _, _ => none) xs

/-! ### TEMPLATES (R323) -/

/-- Table 11.9: the width of a field. -/
def tmplWidth (elem field : Nat) : Option Nat :=
  let push := elem / 4096 = 1
  if 2 ≤ elem / 4096 ∨ (push ∧ bitOf elem 11) then none
  else if field < 16 then some 32
  else if field = 16 then (if push then none else some 5)
  else if field = 17 then some 5
  else if field = 18 then (if push then none else some 1)
  else none

/-- The last value a stream gives a field of an element. What a field that no word names holds at launch the spec does not
say, since R68 keeps the value of such a field: the model takes 0 (DESIGN CHOICE, log 68). -/
def lastField (xs : List (Nat × Nat × Nat)) (elem field : Nat) : Nat :=
  match (xs.reverse.find? (fun x => x.1 == elem && x.2.1 == field)) with
  | some x => x.2.2
  | none => 0

/-- The record of an element. -/
def elemRecord (xs : List (Nat × Nat × Nat)) (elem : Nat) : BitVec 512 :=
  BitVec.ofNat 512 ((List.range 16).foldl (fun a f => a + lastField xs elem f * 2 ^ (32 * f)) 0)

/-- An enable and a number in five bits. -/
def optNum (v : Nat) : Option (Fin 16) := if bitOf v 4 then some (Fin.ofNat 16 v) else none

/-- The rank of the handle a record names. -/
def rankIn (hs : List (BitVec 1024)) (x : BitVec 512) : Option Nat := (hs[(recOf x).hidx]?).map (fun d => (hdesc d).rank)

/-- The templates and the push programs of a TEMPLATES section; those not armed are left out. -/
structure ImgTmpl where
  tmpls : List (Fin 256 × Fin 16 × Template)
  pushes : List (Fin 320 × Fin 4 × BitVec 512 × Option (Fin 16))

def imgTemplates (p : Partition) (clusters : Nat) (hs : List (BitVec 1024)) (bs : List Byte) : Option ImgTmpl :=
  match pieces (bs.length + 1) 4 bs with
  | none => none
  | some ws =>
    match cfgStream tmplWidth (ws.map leNat) with
    | none => none
    | some xs =>
      let elems := (xs.map (fun x => x.1)).eraseDups
      let rec? := fun (e kind : Nat) =>
        let r := elemRecord xs e
        if recOk r kind clusters (rankIn hs r) then some r else none
      let ts := mapAll (fun e => match p.tile? (bitsAt e 4 8), rec? e 1 with
        | some t, some r =>
          let tm : Template := ⟨r, optNum (lastField xs e 16), optNum (lastField xs e 17), ⟨0, 0, 0, false⟩, false, false, []⟩
          some (t, Fin.ofNat 16 e, tm, lastField xs e 18)
        | _, _ => none) (elems.filter (fun e => e / 4096 == 0))
      let ps := mapAll (fun e => match p.slice? (bitsAt e 2 9), rec? e 2 with
        | some n, some r => some (n, Fin.ofNat 4 e, r, optNum (lastField xs e 17))
        | _, _ => none) (elems.filter (fun e => e / 4096 == 1))
      match ts, ps with
      | some ts, some ps => some ⟨(ts.filter (fun x => x.2.2.2 == 1)).map (fun x => (x.1, x.2.1, x.2.2.1)), ps⟩
      | _, _ => none

/-! ### SDATA, CDATA, GDATA -/

/-- Scratchpad images. -/
def imgSdata (p : Partition) (bs : List Byte) : Option (List (Fin 256 × Nat × List Byte)) :=
  if bs = [] then some []
  else match Config.sdataSection bs with
    | none => none
    | some xs => mapAll (fun x => if scratchEnd < x.2.1 + x.2.2.length then none else (p.tile? x.1).map (fun t => (t, x.2.1, x.2.2))) xs

def optSection (f : List Byte → Option (List (Nat × List Byte))) (bs : List Byte) : Option (List (Nat × List Byte)) :=
  if bs = [] then some [] else f bs

/-! ### The image -/

/-- What an image says, in global numbers. -/
structure Img where
  code : List (Fin 256 × List Byte)
  insts : List Inst
  edges : List Edge
  boxes : List BoxOut
  panels : List (Fin 256 × Nat × Nat)
  keys : List Nat
  handles : List (BitVec 1024)
  groups : List (Nat × Nat × Fin 320)
  bits : List (Fin 128 × Nat × List Byte)
  stas : List (Fin 32 × Fin 8 × List Byte)
  tmpl : ImgTmpl
  sdata : List (Fin 256 × Nat × List Byte)
  gdata : List (Nat × List Byte)
  ranges : List (Fin 256 × Nat × Nat)
  args : Nat

/-- The words for boxes and panels of a ROUTES section, in order. -/
def imgRoutes (p : Partition) (id : Nat) (bs : List Byte) : Option (List BoxOut × List (Fin 256 × Nat × Nat)) :=
  match routeStreams (bs.length + 1) bs with
  | none => none
  | some ss =>
    match mapAll (fun x => imgRoute p id x.2) (ss.filter (fun x => x.1 == 1)),
        mapAll (fun x => imgPanel p x.2) (ss.filter (fun x => x.1 == 2)) with
    | some rs, some ps => some (rs.flatten, ps.flatten)
    | _, _ => none

/-- The sealed entries of an image: its bitstreams and its STA graphs, whose signatures are verified before any other step
looks at the image (R151). -/
def sealedEntries (p : Partition) (bs : List Byte) : Option (List (Fin 128 × Nat × List Byte) × List (Fin 32 × Fin 8 × List Byte)) := do
  let h ← imgHead bs
  if !sectionsOk bs h.nsec then none
  let bits ← imgBits p (sectionBytes bs h.nsec 7)
  let stas ← imgStas p (sectionBytes bs h.nsec 8)
  some (bits, stas)

/-- An image for a partition, launch, context and code range; none for a malformed one (status 5). -/
def parseImage (p : Partition) (id : Nat) (c : Fin 4) (ibase room : Nat) (bs : List Byte) : Option Img := do
  let h ← imgHead bs
  let sec := sectionBytes bs h.nsec
  if !sectionsOk bs h.nsec then none
  let code ← imgCode p room (sec 1)
  let insts ← imgActors p h ibase room (sec 2)
  let edges ← imgEdges p c h insts (sec 3)
  let routes ← imgRoutes p id (sec 4)
  let handles ← imgHandles (sec 5)
  let groups ← imgGroups p h (sec 6)
  let bits ← imgBits p (sec 7)
  let stas ← imgStas p (sec 8)
  let tmpl ← imgTemplates p h.clusters handles (sec 9)
  let sdata ← imgSdata p (sec 10)
  let cdata ← optSection Config.cdataSection (sec 11)
  let gdata ← optSection Config.gdataSection (sec 12)
  let ranges := (Config.scratchRanges bs).filterMap (fun x => (p.tile? x.1).map (fun t => (t, x.2.1, x.2.2)))
  some { code := code, insts := insts, edges := edges, boxes := routes.1, panels := routes.2,
         keys := Config.shareKeys (sec 4), handles := handles, groups := groups, bits := bits, stas := stas, tmpl := tmpl,
         sdata := sdata, gdata := cdata ++ gdata, ranges := ranges, args := Config.argsLength bs }

end Sys2Proof.Machine
end

