-- ==== Sys2Proof/Machine/Launch.lean ====
section
/-! DEFINITION. Launches: acceptance, set-up, enabling, completion and abort, and the time slices
(spec/05_actors.md, R147 to R154, R167, R173; R199, R301, R343, R352, R370, R412, R424, R425, R440). -/

namespace Sys2Proof.Machine

/-! ### The launch record (Table 5.5) -/

/-- Reserved bits are 0, the addresses aligned, and the range is one (status 2 otherwise). -/
def recordOk (r : BitVec 512) : Bool :=
  let x := r.toNat
  bitsAt x 106 22 == 0 && bitsAt x 165 3 == 0 && bitsAt x 224 32 == 0 && bitsAt x 448 64 == 0
    && bitsAt x 0 64 % 256 == 0 && bitsAt x 320 64 % 32 == 0 && bitsAt x 128 3 == 0 && bitsAt x 146 3 == 0
    && decide (bitsAt x 128 18 < bitsAt x 146 19) && decide (bitsAt x 146 19 ≤ 0x40000)

def Launch.image (l : Launch) : Nat := l.field 0 64
def Launch.length (l : Launch) : Nat := l.field 64 32
def Launch.pri (l : Launch) : Nat := l.field 98 3
def Launch.floor (l : Launch) : Nat := l.field 101 4
def Launch.args (l : Launch) : Nat := l.field 256 64
def Launch.compl (l : Launch) : Nat := l.field 320 64
def Launch.tag (l : Launch) : Nat := l.field 384 64

/-- The dies on which a partition has clusters. -/
def Partition.dies (p : Partition) : List (Fin 2) := [0, 1].filter (fun d => p.clusterList.any (fun c => dieOfCluster c == d))

/-- The die of a partition's lowest-numbered cluster: its Launch Unit is the lead (R150). -/
def Partition.lead (p : Partition) : Fin 2 := match p.clusterList with | c :: _ => dieOfCluster c | [] => 0

def State.part (s : State) (q : Fin 32) : Option Partition := s.parts.find? (fun p => p.q == q)

/-- The launch of a partition and context. -/
def State.launch (s : State) (q : Fin 32) (c : Fin 4) : Option Launch := s.launches.find? (fun l => l.q == q && l.c == c)

/-! ### Acceptance (R150, Table 5.6) -/

/-- The entries of an image that name STA slots, regions, push programs and link channels. -/
structure Claims where
  clusters : Nat
  stas : List (Fin 32 × Fin 8)
  regions : List (Fin 128)
  links : List (Fin 16 × Nat)

/-- The link channels of edges (R425). -/
def channelsOf (es : List Edge) : List (Fin 16 × Nat) := es.filterMap (fun e => e.src.port?) ++ es.filterMap (fun e => e.dst.port?)

/-- What an image claims. -/
def Img.claims (g : Img) (h : ImgHead) : Claims :=
  ⟨h.clusters, g.stas.map (fun x => (x.1, x.2.1)), g.bits.map (fun x => x.1), channelsOf g.edges⟩

/-- What the lead reads of an image to accept it; none when the image cannot be read or is malformed,
which set-up finds. -/
def State.claims (s : State) (p : Partition) (m : Fin 128) (r : BitVec 512) : Option Claims :=
  match fetchVa s (s.firstCluster p.q) m (bitsAt r.toNat 0 64) (bitsAt r.toNat 64 32) with
  | .bytes bs false _ =>
    (imgHead bs).map (fun h =>
      match parseImage p s.nextLaunch (Fin.ofNat 4 (bitsAt r.toNat 96 2)) (bitsAt r.toNat 128 18)
          (bitsAt r.toNat 146 19 - bitsAt r.toNat 128 18) bs with
      | some g => g.claims h
      | none => ⟨h.clusters, [], [], []⟩)
  | _ => none

/-- Another launch of the partition holds a byte of the range or a resource of the masks. -/
def Launch.clashes (l : Launch) (r : BitVec 512) : Bool :=
  let f := fun (lo n : Nat) => bitsAt r.toNat lo n
  (decide (f 128 18 < l.ilimit) && decide (l.ibase < f 146 19)) || (f 168 4 &&& l.abank) != 0 || (f 172 4 &&& l.mqmask) != 0
    || (f 176 16 &&& l.tqmask) != 0

/-- The claims of launch id fail: the cluster count differs; a slot, region or channel is another launch's, one in
set-up among them; a cut edge while the package has no number (R343, R352, R424, R425). -/
def State.claimsFail (s : State) (p : Partition) (id : Nat) (k : Claims) : Bool :=
  let others := (s.launches ++ s.shelf).filter (fun l => l.id != id)
  let coming := others.filter (fun l => l.phase == .setup && l.q == p.q)
  let held := fun (o : Option Nat) => match o with | some n => n != id | none => false
  k.clusters != p.clusterList.length
  || k.stas.any (fun x => held (s.staSlot x.1 x.2).owner || coming.any (fun l => l.staSlots.contains x))
  || k.regions.any (fun r => held (s.region r).owner || coming.any (fun l => l.regions.contains r))
  || (!k.links.isEmpty && !s.pf.pkgid.getLsbD 8)
  || k.links.any (fun x => others.any (fun l => l.vcs.contains x))

/-- The accepted launches that a die holds and that have not started running (R150). -/
def State.settingUp (s : State) (d : Fin 2) : Nat :=
  (s.launches.filter (fun l => l.phase == .setup && (match s.part l.q with | some x => x.dies.contains d | none => false))).length

/-- The status of a record for partition p whose addresses lie in memory context m (R150). Of several that apply the
spec names none: a malformed record comes before a busy context, then units in use, then no room. A launch counts
against the eight of every die on which its partition has clusters (DESIGN CHOICE, log 19). -/
def State.acceptStatus (s : State) (p : Partition) (m : Fin 128) (r : BitVec 512) : Nat :=
  let c : Fin 4 := Fin.ofNat 4 (bitsAt r.toNat 96 2)
  if !recordOk r then 2
  else if (s.launch p.q c).isSome then 1
  else if s.launches.any (fun l => l.q == p.q && l.clashes r) then 3
  else if (match s.claims p m r with | some k => s.claimsFail p s.nextLaunch k | none => false) then 3
  else if p.dies.any (fun d => decide (8 ≤ s.settingUp d)) then 4
  else 0

/-- The lead accepts or refuses a record; an accepted one is a launch in set-up, whose claims stand from now on. -/
def State.submit (s : State) (p : Partition) (m : Fin 128) (r : BitVec 512)
    (notify : Option (Fin 256 × Fin 4 × Fin 16 × Nat)) : Nat × State :=
  let st := s.acceptStatus p m r
  if st ≠ 0 then (st, s)
  else
    let k := (s.claims p m r).getD ⟨0, [], [], []⟩
    let l : Launch :=
      { id := s.nextLaunch, q := p.q, c := Fin.ofNat 4 (bitsAt r.toNat 96 2), rcd := r, phase := .setup, doneDies := [],
        awaiting := p.dies.map .die, mctx := m, parked := none, ending := none, insts := [], edges := [], handles := [],
        groups := [], tiles := [], ranges := [], routes := [], vcs := k.links, regions := k.regions, staSlots := k.stas,
        pushes := [], boxes := [],
        notify := notify, saving := [], saved := [] }
    (0, { s with launches := s.launches ++ [l], nextLaunch := s.nextLaunch + 1 })

/-- SUBMISSION: a Memory Write TLP of some bytes at an offset in SUBWIN; one that is not 64 bytes at its start is refused
with status 2, and so is each part of one that is split (R412). A function whose partition does not exist discards
it (R410). -/
def execSubmission (q : Fin 32) (w : SubWrite) (rcd : BitVec 512) (s : State) : Out :=
  match s.part q with
  | none => .next s
  | some p =>
    let r := if w.off = 0 ∧ w.bytes = 64 then s.submit p (mctxOf q (Fin.ofNat 4 (bitsAt rcd.toNat 96 2))) rcd none else (2, s)
    .next (r.2.modVf q (fun v => { v with status := BitVec.ofNat 8 r.1, seq := v.seq + 1 }))

/-! ### launch (R173) -/

/-- The reads and writes the firing has sent are not all performed. -/
def unreleased (s : State) : Bool := s.me.reqs.any (fun r => r.op != .syncRead && r.op.waited)

def execLaunch (h : Hdr) (x y : Fin 32) (cl : Clauses) (s : State) : Out :=
  let ins := Instr.launch h x y cl
  issue ins [.s y] s fun s => onTileCtx s fun t c =>
    let a := (s.me.readS y).toNat
    orTrap [trapIf (!(s.view s.cur).devl) 0x03 0x3B 0, poisonS s.me [y], alignCheck a 64, maskTrap s ins] <| afterDrain s <|
      if unreleased s then .hold
      else withBytes s a 64 64 true [] fun bs po s =>
        orTrap [trapIf (po.any id) 0x07 y.val a] <|
          match s.launchOf s.cur with
          | none => .hold
          | some l =>
            match s.part l.q with
            | none => .hold
            | some p =>
              let r := s.submit p (mctxOf l.q l.c) (BitVec.ofNat 512 (leNat bs)) ((sqOf ins).map (fun q => (t, c, q, l.id)))
              .done (r.2.modCtx s.cur (fun k => k.writeS x (BitVec.ofNat 64 r.1) false))

/-! ### Writes of a unit to virtual addresses -/

/-- What writing bytes comes to: the state in which their lines have passed; a line that another access holds, with nothing
written; a missing page; or the step that fails, 0 for a loss. -/
inductive Stored where
  | ok (s : State)
  | wait
  | park (va level : Nat)
  | fail (step va : Nat)

def storeLines (cl : Fin 32) (m : Fin 128) : Nat → State → Nat → List Byte → Stored
  | 0, s, _, _ => .ok s
  | fuel + 1, s, va, bs =>
    if bs = [] then .ok s
    else
      let k := 128 - va % 128
      match s.walkNow cl m va with
      | none => .wait
      | some s1 =>
        match s1.translate none cl m .write va with
        | .missing l => .park va l
        | .fault step _ _ => .fail step va
        | .ok x =>
          if !s1.reachable x.pa then .fail 0 va
          else
            let p := bs.take k
            match s1.passNow x.pa p.length 0 m .plain with
            | none => .wait
            | some s2 => storeLines cl m fuel (s2.writePa x.key x.pa p (List.replicate p.length true)) (va + k) (bs.drop k)

/-- Write bytes from a virtual address on. -/
def storeVa (s : State) (cl : Fin 32) (m : Fin 128) (va : Nat) (bs : List Byte) : Stored :=
  storeLines cl m (bs.length / 128 + 2) s va bs

/-- Write several pieces. -/
def storeAll (s : State) (cl : Fin 32) (m : Fin 128) : List (Nat × List Byte) → Stored
  | [] => .ok s
  | x :: xs => match storeVa s cl m x.1 x.2 with
    | .ok s1 => storeAll s1 cl m xs
    | o => o

/-- An access of a Launch Unit parks, or waits while the replay queue is full (R394). -/
def parkLaunch (s : State) (l : Launch) (d : Fin 2) (m : Fin 128) (k : Kind) (va level : Nat) : State :=
  if s.replayRoom (.unit d) then
    let (tok, s1) := s.park (.unit d) m k va level
    s1.modLaunch l.q l.c (fun x => { x with parked := some tok })
  else s

/-! ### LAUNCH_SETUP (R151) -/

/-- A feature that the driver has not accepted (R440): its bit in FEATACC0. -/
def State.featured (s : State) (k : Nat) : Bool := s.pf.featDone && !s.pf.featErr && (s.pf.featAcc.get 0).getLsbD k

/-- The image needs a feature that has not been accepted (R440). -/
def featureMissing (s : State) (g : Img) : Bool :=
  (!s.featured 3 && g.edges.any (fun e => e.src.port?.isSome || e.dst.port?.isSome))
  || (!s.featured 5 && !g.stas.isEmpty)
  || (!s.featured 4 && g.bits.any (fun b => match bitstreamHead (b.2.2.take 128) with | some c => c.1.swapctl | none => false))

/-- Step 1: the signatures of the die's bitstreams and graphs; a status, or 0. -/
def signStatus (key : BitVec 256) (bits : List (Fin 128 × Nat × List Byte)) (stas : List (Fin 32 × Fin 8 × List Byte)) : Nat :=
  let b := bits.map (fun x => match bitstreamHead (x.2.2.take 128) with
    | none => 5
    | some _ => if Config.bitstreamSigned key (x.2.2.take 128) (x.2.2.drop 128) then 0 else 6)
  let g := stas.map (fun x => match containerHead x.2.2 with
    | none => 5
    | some (n, sl) =>
      if x.2.2.length < 32 + 4 * n + sl then 5
      else if Config.lmsSigned key (x.2.2.take (32 + 4 * n)) ((x.2.2.drop (32 + 4 * n)).take sl) then 0 else 6)
  match (b ++ g).find? (fun n => n != 0) with | some n => n | none => 0

/-- Step 3: a region takes its bitstream, with the launch's clock, or does not fit; the reason of the region's last cause
0x0F stays (R379). -/
def placeRegion (l : Launch) (x : Fin 128 × Nat × List Byte) (s : Option State) : Option State :=
  match s, bitstreamHead (x.2.2.take 128) with
  | some s, some (c, _) =>
    if headFits (x.2.2.take 128) && Config.framesInside (x.2.2.take 128) (x.2.2.drop 128) && cfgFits l x.1 c x.2.1 && (s.region x.1).owner.isNone
        && s.pf.availRg.getLsbD x.1.val then
      some (s.modRegion x.1 (fun r =>
        { r with st := 1, stage := 0, owner := some l.id, active := some c, staged := none, op := RgOp.fresh,
                 outbuf := [], taint := false, saved := false, quiescent := false, image := none, load := none,
                 swap := none, req := x.2.1, relock := false }))
    else none
  | _, _ => none

/-- Step 5: an STA slot takes its graph. -/
def placeSta (l : Launch) (x : Fin 32 × Fin 8 × List Byte) (s : Option State) : Option State :=
  match s, containerHead x.2.2 with
  | some s, some (n, _) =>
    match applyGraph (s.clusters.get x.1) x.2.1 StaGraph.empty (containerWords x.2.2 n) with
    | .inr _ => none
    | .inl g =>
      if (s.staSlot x.1 x.2.1).st ≠ 0 then none
      else some (s.modSta x.1 x.2.1 (fun y => { y with st := 2, owner := some l.id, graph := g, ldstat := 1 }))
  | _, _ => none

/-- Step 6: a group identifier is bound, or joins an existing binding of the same count (R167). A slice has 64
group objects (R19); the spec does not say what becomes of a launch that homes one more there: it fails as
a failed step of R151 does. Nor does it say what becomes of an initial member count above the 65,535 of R168: it is bound as
it stands (DESIGN CHOICE, log 54). -/
def bindGroup (l : Launch) (x : Nat × Nat × Fin 320) (s : Option State) : Option State :=
  match s with
  | none => none
  | some s =>
    match s.groupObj l.q x.1 with
    | some o => if o.mInit = x.2.1 then some s else none
    | none =>
      if 64 ≤ (s.groups.filter (fun o => o.slice == x.2.2.val)).length then none
      else
        let o : GroupObj := { q := l.q, gid := x.1, slice := x.2.2.val, mInit := x.2.1, joins := 0, m := x.2.1,
                              n := 0, phase := 0, lower := 0, red := none, idents := 0, results := [] }
        some { s with groups := s.groups ++ [o] }

def emptySlot : StreamSlot := ⟨none, StreamStat.empty, none, []⟩

/-- The context at launch (R54, R300): vector registers zero, handles invalid, stream slots empty. -/
def freshCtx (c : Ctx) : Ctx :=
  { c with v := Vector.replicate 32 ⟨0, 0⟩, h := Vector.replicate 16 ⟨false, 0, 0⟩, ss := Vector.replicate 16 emptySlot,
           tmpl := Vector.replicate 16 none, phase := .idle, firing := none, owed := none, aborted := [] }

/-- A panel stream's field; a panel that enters or leaves SORT mode empties its list, as by a sweep (R244, R245). -/
def putPanel (y : Tile) (f v : Nat) : Tile :=
  if f = 0 then { y with shape := Fin.ofNat 4 v, issueShape := Fin.ofNat 4 v }
  else if f = 1 then { y.setSort (Fin.ofNat 16 v) with issueSort := Fin.ofNat 16 v }
  else if f = 2 then { y with cntthr := BitVec.ofNat 64 (y.cntthr.toNat / 2 ^ 32 * 2 ^ 32 + v) }
  else { y with cntthr := BitVec.ofNat 64 (y.cntthr.toNat % 2 ^ 32 + 2 ^ 32 * v) }

/-- A write of a context's fields of SEQ_CTXPRI and SEQ_FLOOR on its way to a tile (R140). -/
def sendPrio (y : Tile) (c : Fin 4) (pri floor : Nat) : Tile :=
  { y with arriving := y.arriving ++
      [(true, BitVec.ofNat 64 (7 * 2 ^ (4 * c.val)), BitVec.ofNat 64 (pri * 2 ^ (4 * c.val))),
       (false, BitVec.ofNat 64 (15 * 2 ^ (4 * c.val)), BitVec.ofNat 64 (floor * 2 ^ (4 * c.val)))] }

/-- Steps 4 and 5 on a tile: code, panels, token queues, scratchpad images, state areas, templates. The argument block goes
to the start of each state area, over the image's bytes once these stand there: R149 says only 'after the image's initial
contents' (DESIGN CHOICE, log 55). -/
def setupTile (l : Launch) (g : Img) (args : List Byte) (t : Fin 256) (y : Tile) : Tile :=
  let y1 := (g.code.filter (fun x => x.1 == t)).foldl (fun (y : Tile) x => { y with imem := cellsWrite y.imem l.ibase x.2 }) y
  let y2 := (g.panels.filter (fun x => x.1 == t)).foldl (fun y x => putPanel y x.2.1 x.2.2) y1
  let clear := fun (v : Vector Nat 16) => Vector.ofFn (fun (n : Fin 16) => if bitOf l.tqmask n.val then 0 else v.get n)
  let m1 := (g.sdata.filter (fun x => x.1 == t)).foldl (fun (m : Memory) x => m.write x.2.1 x.2.2) y2.scratch
  let m2 := (g.insts.filter (fun i => i.tile == t)).foldl (fun (m : Memory) i => m.write i.state args) m1
  let k := freshCtx (y2.ctx.get l.c)
  let k1 := (g.tmpl.tmpls.filter (fun x => x.1 == t)).foldl (fun (k : Ctx) x => { k with tmpl := vset k.tmpl x.2.1 (some x.2.2) }) k
  sendPrio { y2 with tq := clear y2.tq, pend := clear y2.pend, scratch := m2, ctx := vset y2.ctx l.c k1 } l.c l.pri l.floor

/-- The panels that a stream leaves are good, on tiles where the launch holds all four queues (R245). -/
def panelsOk (s : State) (l : Launch) (g : Img) : Bool :=
  g.panels.all (fun x => l.mqmask == 15 &&
    (let y := (g.panels.filter (fun z => z.1 == x.1)).foldl (fun y z => putPanel y z.2.1 z.2.2) (s.tile x.1)
     y.sort == 0 || y.shape == 3))

/-- The launch's instances, edges and tables are loaded, once. -/
def loadTables (g : Img) (l : Launch) : Launch :=
  if l.doneDies.isEmpty then
    { l with insts := g.insts, edges := g.edges, handles := g.handles, groups := g.groups.map (fun x => x.1),
             vcs := channelsOf g.edges, tiles := g.code.map (fun x => x.1), ranges := g.ranges, routes := g.keys, regions := g.bits.map (fun x => x.1),
             staSlots := g.stas.map (fun x => (x.1, x.2.1)), pushes := g.tmpl.pushes.map (fun x => (x.1, x.2.1)),
             boxes := (g.boxes.map (fun b => (b.elem, b.cluster))).eraseDups,
             awaiting := if g.edges.any (fun e => e.src.port?.isSome || e.dst.port?.isSome) then l.awaiting ++ [.far] else l.awaiting }
  else l

/-- Put a push program in its slice (R323). -/
def placePush (l : Launch) (s : State) (x : Fin 320 × Fin 4 × BitVec 512 × Option (Fin 16)) : State :=
  s.setPush x.1 x.2.1 ⟨l.id, l.q, l.c, x.2.2.1, x.2.2.2, false, none⟩

/-- Steps 2 to 6 of a die on an image whose signatures are good; a status when one fails. The route streams are checked
whole, over both dies, before a word of them stands (R67, R370). -/
def runSetup (s : State) (p : Partition) (l : Launch) (d : Fin 2) (g : Img) (args : List Byte) : Nat ⊕ State :=
  let bits := g.bits.filter (fun x => dieOfRegion x.1 == d)
  let stas := g.stas.filter (fun x => dieOfCluster x.1 == d)
  if featureMissing s g || !panelsOk s l g || !routesOk p (g.boxes.foldl putBox s.boxes) then .inl 5
  else
    let l1 := loadTables g l
    let s2 := { s with boxes := (g.boxes.filter (fun b => dieOfCluster b.cluster == d)).foldl putBox s.boxes }
    let s3 := bits.foldl (fun s x => placeRegion { l1 with edges := g.edges } x s) (some s2)
    let s5 := stas.foldl (fun s x => placeSta l x s) s3
    let s6 := (g.groups.filter (fun x => dieOfCluster (sliceNum x.2.2).1 == d)).foldl (fun s x => bindGroup l x s) s5
    match s6 with
    | none => .inl 5
    | some s =>
      let pushes := g.tmpl.pushes.filter (fun x => dieOfCluster (sliceNum x.1).1 == d)
      if pushes.any (fun x => (s.pushProg x.1 x.2.1).isSome) then .inl 5
      else
        let s7 := pushes.foldl (placePush l) s
        let s8 := { s7 with
          tiles := Vector.ofFn (fun t =>
            let y := s7.tiles.get t
            if dieOfTile t == d && p.clusters.getLsbD (t.val / 8) then setupTile l g args t y else y)
          clusters := Vector.ofFn (fun i =>
            let x := s7.clusters.get i
            if dieOfCluster i == d then
              { x with slices := Vector.ofFn (fun n => { x.slices.get n with sel := vset (x.slices.get n).sel (mctxOf l.q l.c) 511 }) }
            else x) }
        .inr (s8.modLaunch l.q l.c (fun _ => { l1 with doneDies := l1.doneDies ++ [d] }))

/-- The launch fails with a status (R151): its completion record is owed and set-up stops. -/
def failLaunch (s : State) (l : Launch) (status : Nat) : State :=
  s.modLaunch l.q l.c (fun x => { x with ending := some (status, 0, 0) })

/-- The argument block is read, and the global images are written by the lead: these lie in the launch's own
address space (R34). IMAGE of a device launch lies in that of the launching context (Table 5.5); the spec
does not say in which its ARGS and COMPL lie, which are taken from the same. No step of R151 names the argument block or
the GDATA and CDATA images: the model reads the one and writes the others after the signatures of step 1 and before step 2,
and a set-up that then fails leaves memory as it was (DESIGN CHOICE, log 55). -/
def setupMemory (s : State) (p : Partition) (l : Launch) (d : Fin 2) (g : Img) : State :=
  let own := mctxOf l.q l.c
  let cl := s.firstCluster p.q
  let fetch : Fetch := if l.args = 0 then .bytes [] false s else fetchVa s cl l.mctx l.args g.args
  match fetch with
  | .wait => s
  | .park va lv => parkLaunch s l d l.mctx .read va lv
  | .fail _ _ => failLaunch s l 5
  | .bytes args _ s0 =>
    let stored : Stored := if d = p.lead then storeAll s0 cl own g.gdata else .ok s0
    match stored with
    | .wait => s
    | .park va lv => parkLaunch s l d own .write va lv
    | .fail _ _ => failLaunch s l 5
    | .ok s1 => match runSetup s1 p l d g args with
      | .inl st => failLaunch s l st
      | .inr s2 => s2

/-- An operation or a sweep is in the queues of a tile's array, which a configuration has to wait for (R231). -/
def Tile.arrayBusy (y : Tile) : Bool := y.sweep || !y.cfgs.isEmpty || (List.finRange 4).any (fun n => !(y.mq.get n).isEmpty)

/-- A tile whose panels the image configures on a die is not free for the sweep: an ended launch has left something in its
queues (R231, R245). -/
def panelsBusy (s : State) (d : Fin 2) (g : Img) : Bool := g.panels.any (fun x => dieOfTile x.1 == d && (s.tile x.1).arrayBusy)

/-- A die's steps on the bytes of the image: the signatures first (R151), then what the image says, the claims once more,
which acceptance could not see of an image that it could not read (status 3, log 19), and the other steps. -/
def setupDie (s : State) (p : Partition) (l : Launch) (d : Fin 2) (bs : List Byte) : State :=
  match imgHead bs, sealedEntries p bs with
  | some h, some (bits, stas) =>
    let st := signStatus p.owner (bits.filter (fun x => dieOfRegion x.1 == d)) (stas.filter (fun x => dieOfCluster x.1 == d))
    if st ≠ 0 then failLaunch s l st
    else
      match parseImage p l.id l.c l.ibase (l.ilimit - l.ibase) bs with
      | none => failLaunch s l 5
      | some g =>
        if s.claimsFail p l.id (g.claims h) then failLaunch s l 3
        else if panelsBusy s d g then s
        else setupMemory s p l d g
  | _, _ => failLaunch s l 5

/-- LAUNCH_SETUP: a die's Launch Unit reads the image and performs the steps of R151 for its clusters. -/
def execLaunchSetup (q : Fin 32) (c : Fin 4) (d : Fin 2) (s : State) : Out :=
  match s.part q, s.launch q c with
  | some p, some l =>
    if l.phase = .setup && l.ending.isNone && l.parked.isNone && !l.doneDies.contains d && p.dies.contains d then
      match fetchVa s (s.firstCluster q) l.mctx l.image l.length with
      | .wait => .next s
      | .park va lv => .next (parkLaunch s l d l.mctx .read va lv)
      | .fail _ _ => .next (failLaunch s l 5)
      | .bytes bs po s1 => .next (if po then failLaunch s1 l 5 else setupDie s1 p l d bs)
    else .next s
  | _, _ => .next s

/-! ### Enabling (R152) -/

/-- CONFIGURATION_ACKNOWLEDGEMENT: of a die whose steps are complete, or of the far packages, which
gives each cut edge its credits (R425). -/
def execConfigurationAcknowledgement (q : Fin 32) (c : Fin 4) (src : AckSource) (s : State) : Out :=
  .next (s.modLaunch q c (fun l =>
    match src with
    | .die d => if l.doneDies.contains d then { l with awaiting := l.awaiting.filter (fun a => a != .die d) } else l
    | .far =>
      if l.awaiting.contains .far then
        { l with awaiting := l.awaiting.filter (fun a => a != .far)
                 edges := l.edges.map (fun e => if e.dst.port?.isSome then { e with credits := e.depth } else e) }
      else l))

/-- A source: no input slot, and no handler (R152). -/
def Inst.isSource (i : Inst) : Bool :=
  !i.handler && (List.finRange 16).all (fun n => match i.slots.get n with | some b => b.out | none => true)

/-- A launch of a partition starts: the constant caches of its tiles are emptied (R271). -/
def State.emptyConst (s : State) (q : Fin 32) : State :=
  { s with tiles := Vector.ofFn (fun t =>
      let y := s.tiles.get t
      if (s.clustersOf q).getLsbD (t.val / 8) then { y with cc := [] } else y) }

/-- LAUNCH_ENABLE: with every acknowledgement, sinks, interior instances and handlers are enabled. -/
def execLaunchEnable (q : Fin 32) (c : Fin 4) (s : State) : Out :=
  match s.launch q c with
  | none => .next s
  | some l =>
    if l.phase = .setup && l.ending.isNone && l.awaiting.isEmpty && !l.doneDies.isEmpty then
      .next ((s.modLaunch q c (fun l =>
        { l with phase := .running, insts := l.insts.map (fun i => if i.isSource then i else { i with enabled := true }) })).emptyConst q)
    else .next s

/-- SOURCE_ENABLE: the sources and the push programs are enabled. -/
def execSourceEnable (q : Fin 32) (c : Fin 4) (s : State) : Out :=
  match s.launch q c with
  | none => .next s
  | some l =>
    if l.phase = .running && l.ending.isNone then
      let s1 := s.modLaunch q c (fun l =>
        { l with phase := .sourced, insts := l.insts.map (fun i => if i.isSource then { i with enabled := true } else i) })
      .next (l.pushes.foldl (fun s x => match s.pushProg x.1 x.2 with
        | some p => s.setPush x.1 x.2 { p with enabled := true }
        | none => s) s1)
    else .next s

/-! ### Completion (R138, R153) -/

/-- The contexts of a launch. -/
def Launch.agents (p : Partition) (l : Launch) : List AgentId :=
  ((List.finRange 256).filter (fun t => p.clusters.getLsbD (t.val / 8) && !l.saved.contains t)).map (fun t => .tile t l.c)

/-- Nothing is left to do: every instance but the handlers is finished or disabled, every edge empty. A firing that is
still in progress on such an instance holds the completion back: R138's test does not name it, and R166 lets it run to
its end (DESIGN CHOICE, log 69). -/
def Launch.quiet (s : State) (p : Partition) (l : Launch) : Bool :=
  l.phase == .sourced && (l.agents p).all (fun g => (s.ctx g).firing.isNone) && l.insts.all (fun i => i.handler || i.finished l || !i.enabled)
    && l.edges.all (fun e => e.queue.isEmpty && e.inflight.isEmpty)

/-- An access of the context has not been performed. -/
def Ctx.owes (c : Ctx) : Bool :=
  c.reqs.any (fun r => r.op.waited && (match r.stage with | .done _ _ => false | _ => true))

/-- The completion record (Table 5.7). -/
def completionRecord (s : State) (l : Launch) (d : Fin 2) (e : Nat × Nat × Nat) : List Byte :=
  leBytes 1 e.1 ++ leBytes 1 e.2.1 ++ leBytes 6 0 ++ leBytes 8 e.2.2 ++ leBytes 8 l.tag ++ leBytes 8 (s.time d).toNat

/-- The parked accesses of launch id, of partition q and context c, leave the replay queues. -/
def dropParked (s : State) (id : Nat) (q : Fin 32) (c : Fin 4) : State :=
  let toks :=
    (List.finRange 32).flatMap (fun i =>
      (((s.clusters.get i).eng.filter (fun r => r.q == q && r.c == c)).filterMap (fun r => r.parked))
      ++ (List.finRange 8).flatMap (fun k =>
        let x := (s.clusters.get i).sta.get k
        if x.owner = some id then x.loads.filterMap (fun l => l.parked) else []))
    ++ (s.convs.filter (fun v => v.q == q && v.c == c)).flatMap (fun v => v.parked.map (fun x => x.2))
    ++ (s.mapWrites.filter (fun w => w.q == q && w.c == c)).filterMap (fun w => w.tok)
    ++ (List.finRange 128).filterMap (fun r =>
        let x := s.region r
        if x.owner = some id then (match x.load with | some w => w.parked | none => none) else none)
  toks.foldl State.unpark s

/-- The region becomes unowned: frozen, both planes and the save area cleared (R352). -/
def Region.released (x : Region) : Region :=
  { x with st := 0, stage := 0, owner := none, active := none, staged := none, op := RgOp.fresh, outbuf := [], taint := false,
           saved := false, quiescent := false, image := none, load := none, swap := none, req := 0, relock := false }

/-- A context that no launch uses. -/
def Ctx.vacated (c : Ctx) : Ctx :=
  { c with phase := .idle, firing := none, owed := none, aborted := [], reqs := [], wcb := [], groups := [],
           tmpl := Vector.replicate 16 none,
           ss := Vector.ofFn (fun n => { c.ss.get n with held := none, waiters := [] }),
           wm := Vector.ofFn (fun n => { c.wm.get n with active := false }) }

/-- An operation that needs a gang. -/
def MatOp.ganged (o : MatOp) : Bool :=
  match o.kind with
  | .mac m => m.gang
  | .gang | .gangFree => true
  | _ => false

/-- The gang operations of a launch that every member has issued run to completion in the gang as it stands (R239). -/
def teamUp (s : State) (l : Launch) (t : Fin 256) (y : Tile) : Tile :=
  { y with mq := Vector.ofFn (fun q => (y.mq.get q).map (fun o =>
      if o.ctx = l.c && o.team.isNone && o.ganged && o.kind != .gang && o.kind != .gangFree && gangIssued s t q o then
        { o with team := (y.gang.get q).map (fun g => (g, l.id)) }
      else o)) }

/-- A tile gives back what a launch held on it: its gangs, which dissolve (R242) with what is queued for them and
not issued by every member, and its context. Its other queued operations and sweeps run to completion (R231, R239). -/
def Tile.freed (y : Tile) (l : Launch) : Tile :=
  let orphan := fun (o : MatOp) => if o.ctx = l.c then { o with dead := true } else o
  { y with
    mq := Vector.ofFn (fun n => ((y.mq.get n).filter (fun o => o.ctx != l.c || !o.ganged || o.team.isSome)).map orphan)
    cfgs := y.cfgs.map orphan
    gang := Vector.ofFn (fun n => if bitOf l.mqmask n.val then none else y.gang.get n)
    ctx := vset y.ctx l.c (y.ctx.get l.c).vacated }

/-- A group identifier is unbound when no launch of the partition declares it any more (R167). -/
def unbindGroups (s : State) (l : Launch) : State :=
  let others := (s.launches ++ s.shelf).filter (fun x => x.q == l.q && x.id != l.id)
  { s with groups := s.groups.filter (fun o => !(o.q == l.q && l.groups.contains o.gid && !others.any (fun x => x.groups.contains o.gid))) }

/-- Everything a launch holds is given back (R138, R199, R242, R301, R343, R352, R370): of the boxes and stitched edges, those
that no other launch has set. -/
def releaseLaunch (s : State) (p : Partition) (l : Launch) : State :=
  let s1 := unbindGroups (dropParked s l.id l.q l.c) l
  let mine := fun (o : Option Nat) => o == some l.id
  { s1 with
    launches := s1.launches.filter (fun x => x.id != l.id)
    convs := s1.convs.filter (fun v => !(v.q == l.q && v.c == l.c))
    demands := s1.demands.filter (fun d => s1.convs.any (fun v => v.id == d.1 && !(v.q == l.q && v.c == l.c)))
    mapWrites := s1.mapWrites.filter (fun w => !(w.q == l.q && w.c == l.c))
    sectors := s1.sectors.filter (fun k => !(s1.clusters.get k.cg).eng.any (fun r => r.stamp == k.stamp && r.q == l.q && r.c == l.c))
    boxes := s1.boxes.filter (fun b => b.owner != l.id)
    regions := Vector.ofFn (fun r => let x := s1.regions.get r; if mine x.owner then x.released else x)
    clusters := Vector.ofFn (fun i =>
      let x := s1.clusters.get i
      { x with
        eng := x.eng.filter (fun r => !(r.q == l.q && r.c == l.c))
        sta := Vector.ofFn (fun k => let y := x.sta.get k; if mine y.owner then y.emptied else y)
        slices := Vector.ofFn (fun n =>
          let y := x.slices.get n
          { y with push := Vector.ofFn (fun j => match y.push.get j with
              | some g => if g.owner = l.id then none else some g
              | none => none) }) })
    tiles := Vector.ofFn (fun t =>
      let y := s1.tiles.get t
      if p.clusters.getLsbD (t.val / 8) && !l.saved.contains t then (teamUp s1 l t y).freed l else y) }

/-- The signal of a launch instruction: dropped when its launch has completed or no longer holds the
queue (R173). -/
def notifyDone (s : State) (l : Launch) : State :=
  match l.notify with
  | none => s
  | some (t, c, tq, id) =>
    match s.launchOf (.tile t c) with
    | some x => if x.id = id && bitOf x.tqmask tq.val then s.signal (.tile t c) tq else s
    | none => s

/-- The completion record is written and copied, the resources go back, the signal is given. A record that no page takes
is dropped, and the signal is given all the same, which the spec leaves open (DESIGN CHOICE, log 26). -/
def completeLaunch (s : State) (p : Partition) (l : Launch) : State :=
  let d := p.lead
  let bs := completionRecord s l d (l.ending.getD (0, 0, 0))
  match storeVa s (s.firstCluster l.q) l.mctx l.compl bs with
  | .wait => s
  | .park va lv => parkLaunch s l d l.mctx .write va lv
  | .fail _ _ => notifyDone (releaseLaunch (s.pushCompletion l.q bs) p l) l
  | .ok s1 => notifyDone (releaseLaunch (s1.pushCompletion l.q bs) p l) l

/-- The conversions of a launch. -/
def State.convsOf (s : State) (q : Fin 32) (c : Fin 4) : List Conv := s.convs.filter (fun v => v.q == q && v.c == c)

/-- LAUNCH_COMPLETE: a launch with nothing left to do, or one that has ended, performs the accesses it
made, and then completes; its conversions stop first, and break their handles (R219). -/
def execLaunchComplete (q : Fin 32) (c : Fin 4) (s : State) : Out :=
  match s.part q, s.launch q c with
  | some p, some l =>
    if (l.ending.isSome || l.quiet s p) && l.parked.isNone then
      let gs := l.agents p
      if !(s.convsOf q c).isEmpty then .next ((s.convsOf q c).foldl (fun s v => if v.pushing then endConv s v else breakHandle s v) s)
      else if gs.any (fun g => !(s.ctx g).wcb.isEmpty) then
        .next (gs.foldl (fun s g => s.drainAll g) s)
      else if gs.any (fun g => (s.ctx g).owes) then .next s
      else .next (completeLaunch s p l)
    else .next s
  | _, _ => .next s

/-- LAUNCH_ABORT: firmware or the host ends a launch with status 8 (R138, R390). -/
def execLaunchAbort (q : Fin 32) (c : Fin 4) (s : State) : Out := .next (endLaunch s q c 8 0 0)

/-! ### SEQ_CTXPRI and SEQ_FLOOR at a tile (R140, R147, R148) -/

/-- The tile's registers after a write of some bits; a context whose fields change notes the cycle. -/
def Tile.setPrio (y : Tile) (now : Nat) (pri : Bool) (mask v : Word) : Tile :=
  let old := if pri then y.ctxpri else y.floor
  let new := (old &&& ~~~mask) ||| (v &&& mask)
  let chg := fun (c : Fin 4) => bitsAt old.toNat (4 * c.val) 4 != bitsAt new.toNat (4 * c.val) 4
  { y with ctxpri := if pri then new else y.ctxpri, floor := if pri then y.floor else new,
           priChg := Vector.ofFn (fun c => if chg c then some now else y.priChg.get c) }

/-- SEQ_REGISTER_ARRIVAL: the oldest write on its way reaches the tile's sequencer. -/
def execSeqRegisterArrival (t : Fin 256) (s : State) : Out :=
  let now := (s.dies.get (dieOfTile t)).cycle.toNat
  .next (s.modTile t (fun y =>
    match y.arriving with
    | [] => y
    | w :: ws => ({ y with arriving := ws } : Tile).setPrio now w.1 w.2.1 w.2.2))

/-- The count of a command for a die. -/
def SliceCmd.count (k : SliceCmd) (d : Fin 2) : Nat := if d = 0 then k.n0 else k.n1

/-- The first held command of every partition is forwarded to its tiles; it is late where the die's
count has passed (R147, R148). A held command whose partition is gone waits for no tile that could apply it, and is
never reported in TSSTAT (DESIGN CHOICE, log 61). -/
def forwardFirst (s : State) : List SliceCmd → List (Fin 32) → List SliceCmd
  | [], _ => []
  | k :: ks, seen =>
    let k1 := if seen.contains k.q || k.active then k
      else match s.part k.q with
        | some p =>
          { k with active := true
                   waiting := (List.finRange 256).filter (fun t => p.clusters.getLsbD (t.val / 8))
                   late := p.dies.any (fun d => decide (k.count d < (s.dies.get d).cycle.toNat)) }
        | none => { k with active := true, waiting := [] }
    k1 :: forwardFirst s ks (k.q :: seen)

/-- TSSTAT: the tag, LATE, REFUSED and the number of commands handled (R148). -/
def tsReport (s : State) (tag : Nat) (late refused : Bool) : State :=
  let n := bitsAt s.pf.tsstat.toNat 40 24 + 1
  { s with pf := { s.pf with tsstat := BitVec.ofNat 64 (tag + 2 ^ 32 * b2n late + 2 ^ 33 * b2n refused + 2 ^ 40 * (n % 2 ^ 24)) } }

/-- A reserved bit of a time-slice record is set (Table 5.14). -/
def tsReserved (x : Nat) : Bool :=
  bitOf x 63 || bitOf x 127 || bitsAt x 133 11 != 0 || bitsAt x 144 16 &&& 0x8888 != 0 || bitsAt x 176 16 != 0
    || bitsAt x 224 288 != 0

/-- The floors of a record sum above 60 (R143). -/
def tsFloors (x : Nat) : Nat := bitsAt x 160 4 + bitsAt x 164 4 + bitsAt x 168 4 + bitsAt x 172 4

/-- TIME_SLICE_COMMAND: a write to TSWIN: discarded unless it is 64 bytes, refused, or held. -/
def execTimeSliceCommand (bytes : Nat) (rcd : BitVec 512) (s : State) : Out :=
  let x := rcd.toNat
  let q : Fin 32 := Fin.ofNat 32 (bitsAt x 128 5)
  let tag := bitsAt x 192 32
  if bytes ≠ 64 then .next s
  else if (s.part q).isNone || tsReserved x || decide (60 < tsFloors x) || decide (16 ≤ s.held.length) then
    .next (tsReport s tag false true)
  else
    let k : SliceCmd := ⟨bitsAt x 0 63, bitsAt x 64 63, q, BitVec.ofNat 64 (bitsAt x 144 16), BitVec.ofNat 64 (bitsAt x 160 16),
      tag, false, false, []⟩
    .next { s with held := forwardFirst s (s.held ++ [k]) [] }

/-- TIME_SLICE_APPLY: a tile takes a forwarded command whose count its die has reached; with the last
tile the command is done. -/
def execTimeSliceApply (t : Fin 256) (s : State) : Out :=
  let d := dieOfTile t
  let now := (s.dies.get d).cycle.toNat
  match s.held.find? (fun k => k.active && k.waiting.contains t && decide (k.count d ≤ now)) with
  | none => .next s
  | some k =>
    let s1 := s.modTile t (fun y => (y.setPrio now true (BitVec.ofNat 64 0x7777) k.pri).setPrio now false (BitVec.ofNat 64 0xFFFF) k.floor)
    let rest := k.waiting.filter (fun x => x != t)
    if rest.isEmpty then
      let s2 := tsReport { s1 with held := s1.held.erase k } k.tag k.late false
      .next { s2 with held := forwardFirst s2 s2.held [] }
    else .next { s1 with held := s1.held.map (fun x => if x = k then { x with waiting := rest } else x) }

end Sys2Proof.Machine
end

