-- ==== Sys2Proof/Machine/System.lean ====
section
/-! DEFINITION. System registers, translation invalidation, context switch, stall maps and pclr
(spec/14_traps.md R383, R389, R393, R395, R398 to R409; the register maps of R145, R240, R316, R317,
R356, R429, R430, R435 to R438, R451 to R454). -/

namespace Sys2Proof.Machine

/-! ### Privilege (R402) -/

/-- Registers that only firmware may read. -/
def readPriv (n : Nat) : Bool :=
  (0x400 ≤ n && n < 0x4A0) || (0x780 ≤ n && n < 0x800) || n == 0x980 || n == 0x990 || (0x9A0 ≤ n && n < 0x9C0) || 0xA00 ≤ n

/-- Registers that only firmware may write. -/
def writePriv (n : Nat) : Bool :=
  readPriv n || n == 1 || n == 2 || n == 3 || n == 6 || (0x700 ≤ n && n < 0x704)

/-- The word is reserved to firmware (R402). -/
def firmwareOnly : Instr → Bool
  | .tlbinv _ _ | .ctxsv _ _ _ _ | .ctxld _ _ _ _ => true
  | .mfs _ _ n => readPriv n.toNat
  | .mts _ _ n => writePriv n.toNat
  | _ => false

/-- The check of R52 that comes before the predicate: cause 0x03 in tenant code. -/
def privileged (i : Instr) (op : Nat) (s : State) (k : State → Out) : Out :=
  let c := s.ctx s.cur
  if (c.phase = .running ∨ c.phase = .inHandler) ∧ s.cur ≠ .mgmt ∧ firmwareOnly i then
    .next (takeTrap s s.cur [] 0x03 op 0 none)
  else k s

/-! ### Values read (R403) -/

/-- A unit whose cluster is available (R441). -/
def State.tileAvail (s : State) (t : Fin 256) : Bool := s.pf.availCl.getLsbD (t.val / 8)

/-- The tile that MC_TSEL names; the executing tile elsewhere (R453). -/
def State.regTile (s : State) : Fin 256 :=
  match s.cur with
  | .tile t _ => t
  | .mgmt => Fin.ofNat 256 s.mgmt.tsel.toNat

/-- A register that other names reach reads 0 through an unavailable tile (R453). -/
def State.selOk (s : State) : Bool :=
  match s.cur with
  | .tile _ _ => true
  | .mgmt => s.tileAvail s.regTile

/-- SEQ_ISSUETHR (Table 16.4). -/
def issueThr (s : State) (y : Tile) : Word := BitVec.ofNat 64 (y.thrN.val + 2 ^ 8 * s.lim.val + 2 ^ 16 * y.thrEff.val)

/-- STR_WMn (Table 11.7). -/
def wmWord (w : Watermark) : Word := BitVec.ofNat 64 (w.base % 2 ^ 21 + 2 ^ 21 * w.len + 2 ^ 42 * w.fill + 2 ^ 63 * b2n w.active)

/-- HBM_TEMPn (Table 16.1). -/
def sensorWord (x : Sensor) : Word :=
  BitVec.ofNat 64 (x.temp.toNat + 2 ^ 8 * b2n x.valid + 2 ^ 9 * x.level.val + 2 ^ 11 * b2n x.hot)

/-- The stack of a sensor (R430). -/
def stackOfSensor (n : Fin 128) : Fin 8 := ⟨n.val / 16, by omega⟩

/-- HBM_TMAX (Table 21.1). -/
def tmaxWord (h : Hbm) : Word :=
  let live := (List.finRange 128).filter (fun n => (h.sensors.get n).valid && (h.stack.get (stackOfSensor n)).powered)
  let best := live.foldl (fun (b : Option (Fin 128)) n => match b with
    | none => some n
    | some m => if (h.sensors.get m).temp.toInt < (h.sensors.get n).temp.toInt then some n else b) none
  let v := 2 ^ 15 * b2n ((List.finRange 128).any (fun n => (h.sensors.get n).valid))
  match best with
  | some n => BitVec.ofNat 64 ((h.sensors.get n).temp.toNat + 2 ^ 8 * n.val + v)
  | none => BitVec.ofNat 64 v

/-- The die whose log MC_ELOGCTL selects. -/
def State.logDie (s : State) : Fin 2 := Fin.ofNat 2 s.mgmt.elogctl.toNat

/-- Word w of the oldest unread entry (Table 16.9). -/
def elogWord (x : Die) (w : Nat) : Word :=
  match x.log with
  | [] => 0
  | e :: _ => BitVec.ofNat 64 (leNat ((e.bytes.drop (8 * w)).take 8))

/-- Reading MC_ELOGW3 frees the selected die's oldest entry (R438). -/
def freeLogEntry (s : State) : State := s.modDie s.logDie (fun x => { x with log := x.log.drop 1 })

def execMcElogw3 (s : State) : Out := .next (freeLogEntry s)

/-- Registers of the management core and of the device (0x900 and up). -/
def readDevice (s : State) (n : Nat) : Word :=
  if n < 0x980 then sensorWord (s.hbm.sensors.get (Fin.ofNat 128 (n - 0x900)))
  else if n = 0x980 then s.hbm.thr
  else if n = 0x988 then tmaxWord s.hbm
  else if n = 0x990 then s.hbm.sridle
  else if n < 0x9C0 then
    let x := s.clusters.get (Fin.ofNat 32 (n - 0x9A0))
    BitVec.ofNat 64 (x.ce + 2 ^ 32 * x.ue)
  else if n = 0xA00 then s.mgmt.evmask
  else if n = 0xA01 then s.mgmt.evstat
  else if n = 0xA10 then s.mgmt.elogctl
  else if n = 0xA11 then
    let x := s.dies.get s.logDie
    BitVec.ofNat 64 (x.log.length + 2 ^ 7 * Nat.min x.logLost (2 ^ 32 - 1))
  else if n < 0xA16 then elogWord (s.dies.get s.logDie) (n - 0xA12)
  else if n = 0xA20 then s.mgmt.tsel
  else s.mgmt.fwreg.get (Fin.ofNat 16 (n - 0xA30))

/-- The value of a system register (R403); the units of a tile read 0 on the management core. -/
def sysRead (s : State) (n : Nat) : Word :=
  let y := s.tile s.regTile
  let onTile := s.cur != .mgmt
  if n = 1 then (if s.selOk then y.ctxpri else 0)
  else if n = 2 then (if s.selOk then y.floor else 0)
  else if n = 3 then (if s.selOk then issueThr s y else 0)
  else if n = 4 then s.me.trapbase
  else if n = 5 then s.time (agentDie s.cur)
  else if n = 6 then (if s.selOk then (s.clusters.get (clusterOfTile s.regTile)).hangLim.zeroExtend 64 else 0)
  else if n < 0x103 then (if onTile then (y.cnt.get (Fin.ofNat 3 (n - 0x100))).zeroExtend 64 else 0)
  else if n = 0x103 then (if onTile then y.cntthr else 0)
  else if n < 0x480 then s.xltRoot.get (Fin.ofNat 128 (n - 0x400))
  else if n < 0x4A0 then s.xltWin.get (Fin.ofNat 32 (n - 0x480))
  else if n < 0x510 then (if onTile then wmWord (s.me.wm.get (Fin.ofNat 16 (n - 0x500))) else 0)
  else if n < 0x520 then (if onTile then (s.me.wm.get (Fin.ofNat 16 (n - 0x510))).stat.word else 0)
  else if n < 0x530 then (if onTile then evWord (s.me.wm.get (Fin.ofNat 16 (n - 0x520))).stat.ev else 0)
  else if n < 0x704 then
    (if s.selOk then (s.region (Fin.ofNat 128 (4 * (clusterOfTile s.regTile).val + (n - 0x700)))).cap.zeroExtend 64 else 0)
  else if n < 0x800 then (s.region (Fin.ofNat 128 (n - 0x780))).cap.zeroExtend 64
  else readDevice s n

def execMfs (h : Hdr) (d : Fin 32) (sys : BitVec 12) (s : State) : Out :=
  privileged (.mfs h d sys) 0xE0 s fun s =>
    issue (.mfs h d sys) [] s fun s =>
      let s1 := s.modCtx s.cur (fun c => c.writeS d (sysRead s sys.toNat) false)
      .done (if sys.toNat = 0xA15 then freeLogEntry s1 else s1)

/-! ### Values written (R403) -/

/-- The tiles that a write through MC_TSEL reaches (R453). -/
def State.selTiles (s : State) : List (Fin 256) :=
  if s.mgmt.tsel.getLsbD 8 then (List.finRange 256).filter s.tileAvail
  else if s.tileAvail s.regTile then [s.regTile] else []

/-- The clusters that a write through MC_TSEL reaches. -/
def State.selClusters (s : State) : List (Fin 32) := (s.selTiles.map clusterOfTile).eraseDups

/-- SEQ_TRAPBASE: a write of an area outside the scratchpad is ignored (Table 14.3); on the management
core, of an address outside local HBM (R389). -/
def writeTrapbase (s : State) (v : Word) : State :=
  match s.cur with
  | .tile _ _ =>
    let area := bitsAt v.toNat 8 13
    if area < 0x1800 then s.modCtx s.cur (fun c => { c with trapbase := BitVec.ofNat 64 (area * 256) }) else s
  | .mgmt =>
    let a := bitsAt v.toNat 8 42 * 256
    if a < 2 ^ 39 then s.modCtx s.cur (fun c => { c with trapbase := BitVec.ofNat 64 a }) else s

/-- SEQ_ISSUETHR.N: 0 stores 1, and 17 to 31 store 16. -/
def thrOf (v : Word) : Fin 32 :=
  let n := bitsAt v.toNat 0 5
  Fin.ofNat 32 (if n = 0 then 1 else Nat.min n 16)

/-- RGN_CAPn: stored within 10 to 40. -/
def capOf (v : Word) : BitVec 6 := BitVec.ofNat 6 (Nat.max 10 (Nat.min 40 (bitsAt v.toNat 0 6)))

/-- A write of the cap of a region. -/
def setCap (s : State) (r : Fin 128) (v : Word) : State := s.modRegion r (fun x => { x with cap := capOf v })

/-- The zone of a stack, from its latest samples (R451). -/
def zoneOf (h : Hbm) (k : Fin 8) : Zone :=
  let ts := ((List.finRange 128).filter (fun n => stackOfSensor n == k && (h.sensors.get n).valid)).map (fun n => (h.sensors.get n).temp.toInt)
  let alert : Int := (bitsAt h.thr.toNat 0 8 : Nat)
  let hyst : Int := (bitsAt h.thr.toNat 32 4 : Nat)
  if ts.any (fun t => decide (alert ≤ t)) then .above
  else if ts.all (fun t => decide (t < alert - hyst)) then .below else .band

/-- HBM_THR as it is stored: T3 at most 105, HYST at least 1 (Table 16.2). -/
def thrStored (v : Nat) : Nat :=
  let h := bitsAt v 32 4
  bitsAt v 0 24 + 2 ^ 24 * Nat.min 105 (bitsAt v 24 8) + 2 ^ 32 * (if h = 0 then 1 else h)

/-- A write of HBM_THR: ignored unless ALERT ≤ T1 < T2 < T3; it sets every zone without an event (R451). -/
def writeThr (s : State) (v : Word) : State :=
  let x := thrStored v.toNat
  if bitsAt x 0 8 ≤ bitsAt x 8 8 ∧ bitsAt x 8 8 < bitsAt x 16 8 ∧ bitsAt x 16 8 < bitsAt x 24 8 then
    let h := { s.hbm with thr := BitVec.ofNat 64 x }
    { s with hbm := { h with stack := Vector.ofFn (fun k => { h.stack.get k with zone := zoneOf h k }) } }
  else s

/-- HBM_THR: an accepted write resets every stack's zone without an event. -/
def execHbmThr (v : Word) (s : State) : Out := .next (writeThr s v)

/-- The low n bits of a word. -/
def lowBits (v : Word) (n : Nat) : Word := BitVec.ofNat 64 (bitsAt v.toNat 0 n)

/-- Registers of the management core and of the device (0x980 and up). -/
def writeDevice (s : State) (n : Nat) (v : Word) : State :=
  if n = 0x980 then writeThr s v
  else if n = 0x990 then { s with hbm := { s.hbm with sridle := lowBits v 16 } }
  else if n = 0xA00 then { s with mgmt := { s.mgmt with evmask := lowBits v 8 } }
  else if n = 0xA01 then { s with mgmt := { s.mgmt with evstat := s.mgmt.evstat &&& ~~~v } }
  else if n = 0xA10 then { s with mgmt := { s.mgmt with elogctl := lowBits v 1 } }
  else if n = 0xA20 then { s with mgmt := { s.mgmt with tsel := lowBits v 9 } }
  else if 0xA30 ≤ n then { s with mgmt := { s.mgmt with fwreg := vset s.mgmt.fwreg (Fin.ofNat 16 (n - 0xA30)) v } }
  else s

/-- A write that takes effect at once: its fields as their access codes say (R6, R7). -/
def sysWrite (s : State) (n : Nat) (v : Word) : State :=
  let onTile := s.cur != .mgmt
  if n = 3 then (if onTile then s else s.selTiles.foldl (fun s t => s.modTile t (fun y => { y with thrN := thrOf v })) s)
  else if n = 4 then writeTrapbase s v
  else if n = 6 then
    (if onTile then s else s.selClusters.foldl (fun s i => s.modCluster i (fun x => { x with hangLim := v.truncate 32 })) s)
  else if n < 0x100 then s
  else if n < 0x103 then
    (if onTile then s.modTile s.regTile (fun y => { y with cnt := vset y.cnt (Fin.ofNat 3 (n - 0x100)) (v.truncate 32) }) else s)
  else if n = 0x103 then (if onTile then s.modTile s.regTile (fun y => { y with cntthr := lowBits v 35 }) else s)
  else if n < 0x480 then
    { s with xltRoot := vset s.xltRoot (Fin.ofNat 128 (n - 0x400)) (BitVec.ofNat 64 (bitsAt v.toNat 0 1 + 2 ^ 20 * bitsAt v.toNat 20 30)) }
  else if n < 0x4A0 then { s with xltWin := vset s.xltWin (Fin.ofNat 32 (n - 0x480)) (lowBits v 34) }
  else if n < 0x700 then s
  else if n < 0x704 then
    (if onTile then s else s.selClusters.foldl (fun s i => setCap s (Fin.ofNat 128 (4 * i.val + (n - 0x700))) v) s)
  else if n < 0x800 then setCap s (Fin.ofNat 128 (n - 0x780)) v
  else writeDevice s n v

/-- SEQ_CTXPRI or SEQ_FLOOR of the tiles that MC_TSEL selects: the writes travel, and the management
core holds until every tile has accepted them (R453). -/
def writePrio (s : State) (pri : Bool) (v : Word) : Eff :=
  let mask : Word := BitVec.ofNat 64 (if pri then 0x7777 else 0xFFFF)
  if !s.mgmt.writing then
    .wait (fun s =>
      let s1 := s.selTiles.foldl (fun s t => s.modTile t (fun y => { y with arriving := y.arriving ++ [(pri, mask, v)] })) s
      { s1 with mgmt := { s1.mgmt with writing := true } })
  else if s.selTiles.any (fun t => !(s.tile t).arriving.isEmpty) then .hold
  else .done { s with mgmt := { s.mgmt with writing := false } }

def execMts (h : Hdr) (a : Fin 32) (sys : BitVec 12) (s : State) : Out :=
  privileged (.mts h a sys) 0xE0 s fun s =>
    issue (.mts h a sys) [.s a] s fun s =>
      let n := sys.toNat
      let v := s.me.readS a
      orTrap [poisonS s.me [a]] <|
        if n = 1 then writePrio s true v
        else if n = 2 then writePrio s false v
        else .done (sysWrite s n v)

/-! ### tlbinv (R406) -/

/-- The memory contexts that an invalidation covers. -/
def tlbCovers : TlbScope → Fin 128 → Bool
  | .va _ m, x => m == x
  | .mctx m, x => m == x
  | .part q, x => partOfMctx x == q
  | .all, _ => true

/-- Discard the entries of a scope; va is the address for KIND 0. -/
def dropEntries (k : TlbScope) (va : Nat) (l : List TlbEntry) : List TlbEntry :=
  l.filter (fun e => !(match k with
    | .va _ m => e.covers m va
    | _ => tlbCovers k e.mctx))

/-- The remembered missing pages outside a scope: a walk made before is made anew (R395). One address stands for all of its
memory context, since an entry of any level may have changed. -/
def dropMissed (k : TlbScope) (l : List (Fin 128 × Nat × Nat)) : List (Fin 128 × Nat × Nat) := l.filter (fun e => !tlbCovers k e.1)

/-- The TLBs of both dies discard the entries of a scope. -/
def invalidate (s : State) (k : TlbScope) (va : Nat) : State :=
  { s with
    tiles := Vector.ofFn (fun t => let y := s.tiles.get t; { y with tlb := dropEntries k va y.tlb, missed := dropMissed k y.missed })
    clusters := Vector.ofFn (fun i => let x := s.clusters.get i; { x with tlb := dropEntries k va x.tlb }) }

/-- An access of the scope has been translated and not performed (R395). -/
def scopeBusy (s : State) (k : TlbScope) : Bool :=
  (List.finRange 256).any (fun t => (List.finRange 4).any (fun c =>
    let x := (s.tile t).ctx.get c
    x.wcb.any (fun w => tlbCovers k w.mctx) || x.reqs.any (fun r => r.stage == .sent && tlbCovers k r.mctx)))

/-- The registers tlbinv reads. -/
def tlbRegs : TlbScope → List (Fin 32)
  | .va a _ => [a]
  | _ => []

def execTlbinv (h : Hdr) (k : TlbScope) (s : State) : Out :=
  privileged (.tlbinv h k) 0xE3 s fun s =>
    issue (.tlbinv h k) ((tlbRegs k).map .s) s fun s =>
      let va := match k with | .va a _ => (s.me.readS a).toNat | _ => 0
      orTrap [poisonS s.me (tlbRegs k)] <|
        if scopeBusy s k then .wait (fun s => invalidate s k va) else .done (invalidate s k va)

/-! ### ctxsv, ctxld (R401, R407) -/

/-- Nothing of the context is in progress: firing, trap, operations, requests, tokens toward the tile. -/
def ctxIdle (s : State) (l : Launch) (t : Fin 256) (c : Fin 4) : Bool :=
  let y := s.tile t
  let x := y.ctx.get c
  x.phase == .idle && x.firing.isNone && x.reqs.isEmpty && x.wcb.isEmpty && x.groups.isEmpty
    && (List.finRange 4).all (fun q => (y.mq.get q).all (fun o => o.ctx != c)) && y.cfgs.all (fun o => o.ctx != c)
    && (List.finRange 32).all (fun i => (s.clusters.get i).eng.all (fun r => !(r.t == t && r.c == c)))
    && s.convs.all (fun v => v.issuer != .tile t c)
    && l.edges.all (fun e => e.inflight.isEmpty || (match e.dst with
        | .actor i _ => (match l.inst i with | some i => i.tile != t | none => true)
        | .stream t' _ _ | .template t' _ _ => t' != t
        | _ => true))

/-- The scratchpad ranges of a launch on a tile, with the trap area (R401). -/
def saveRanges (l : Launch) (t : Fin 256) (x : Ctx) : List (Nat × Nat) :=
  (l.ranges.filter (fun r => r.1 == t)).map (fun r => r.2) ++ [(x.trapbase.toNat, 256)]

/-- What a saved context holds, before its image is made. -/
def savedPart (s : State) (l : Launch) (t : Fin 256) (c : Fin 4) (addr : Nat) : CtxSave :=
  let y := s.tile t
  let x := y.ctx.get c
  { num := s.nextSave, addr := addr, tile := t, c := c, launch := l.id,
    pri := bitsAt y.ctxpri.toNat (4 * c.val) 3, floor := bitsAt y.floor.toNat (4 * c.val) 4, ctx := x, tq := y.tq,
    banks := y.banks, shape := y.issueShape, sort := y.issueSort, imem := cellsRead y.imem l.ibase (l.ilimit - l.ibase),
    scratch := (saveRanges l t x).map (fun r => (r.1, y.scratch.read r.1 r.2, y.scratch.readPoison r.1 r.2)),
    insts := (l.insts.filter (fun i => i.tile == t)).map (fun i => ⟨i.num, i.enabled, i.started, i.ended⟩), image := [] }

/-- A stream slot's status as numbers. -/
def StreamStat.data (x : StreamStat) : List Nat :=
  [x.state, x.last, x.reason, b2n x.trunc, b2n x.short, b2n x.poison, x.moved, x.ev.sat, x.ev.nan, x.ev.bso, x.addr]

/-- The stream slots, templates and watermarks of a context as numbers. -/
def Ctx.streamData (c : Ctx) : List Nat :=
  let opt := fun (n : Option (Fin 16)) => match n with | some n => n.val + 16 | none => 0
  (List.finRange 16).flatMap (fun n =>
    let x := c.ss.get n
    (match x.record with | some r => [1, r.toNat] | none => [0]) ++ x.stat.data)
  ++ (List.finRange 16).flatMap (fun n => match c.tmpl.get n with
    | some t => [1, t.record.toNat, opt t.wm, opt t.sq, b2n t.disarming]
    | none => [0])
  ++ (List.finRange 16).flatMap (fun n => let w := c.wm.get n; [w.base, w.len, w.fill, b2n w.active] ++ w.stat.data)

/-- The ten sections of a saved context, in the order of R401: the launch record fields, v0 to v31 with lane
poison, h0 to h15 with validity, the granted token queues, the granted banks with cell poison, the issue-time
panel configuration, instruction memory, scratchpad ranges, streams, and instances with their edges' credits. -/
def CtxSave.sections (v : CtxSave) (l : Launch) : List (List Nat) :=
  [[l.rcd.toNat],
   (List.finRange 32).flatMap (fun n => [(v.ctx.v.get n).bits.toNat, (v.ctx.v.get n).poison.toNat]),
   (List.finRange 16).flatMap (fun n => [b2n (v.ctx.h.get n).valid, (v.ctx.h.get n).index, (v.ctx.h.get n).desc.toNat]),
   (List.finRange 16).filterMap (fun n => if bitOf l.tqmask n.val then some (v.tq.get n) else none),
   (List.finRange 4).flatMap (fun n => if bitOf l.abank n.val then
     (v.banks.get n).toList.flatMap (fun r => [r.cells.toNat, r.poison.toNat]) else []),
   if l.mqmask = 15 then [v.shape.val, v.sort.val] else [],
   v.imem.map BitVec.toNat,
   v.scratch.flatMap (fun r => r.1 :: r.2.1.map BitVec.toNat ++ r.2.2.map b2n),
   v.ctx.streamData,
   (l.insts.filter (fun i => v.insts.any (fun x => x.num == i.num))).flatMap (fun i =>
     [i.num, b2n i.enabled, i.started, i.ended] ++ (i.binds l).map (fun b => b.2.credits))]

/-- The 256-byte header: the offset and the length of each section, four bytes each from byte 0 (log 5). -/
def imageHeader (ns : List Nat) : List Byte :=
  (List.range 32).flatMap (fun k => match ns[k]? with
    | some n => leBytes 4 (256 + (ns.take k).foldl (· + ·) 0) ++ leBytes 4 n
    | none => leBytes 8 0)

/-- The image of a saved context: its header and its sections. -/
def CtxSave.bytes (v : CtxSave) (l : Launch) : List Byte :=
  let ss := (v.sections l).zipIdx.map (fun x => Config.saveSection x.2 x.1)
  imageHeader (ss.map List.length) ++ ss.flatten

/-- The saved context of a launch on a tile, with its image (R401). -/
def saveOf (s : State) (l : Launch) (t : Fin 256) (c : Fin 4) (addr : Nat) : CtxSave :=
  let v := savedPart s l t c addr
  { v with image := v.bytes l }

/-- Change a launch by its number. -/
def State.modLaunchId (s : State) (id : Nat) (f : Launch → Launch) : State :=
  { s with launches := s.launches.map (fun l => if l.id = id then f l else l) }

/-- A launch whose contexts are all saved leaves its partition and context free (R154). -/
def shelve (s : State) (id : Nat) : State :=
  match s.launches.find? (fun l => l.id == id) with
  | some l =>
    if l.tiles.all (fun t => l.saved.contains t) then
      { s with launches := s.launches.filter (fun x => x.id != id), shelf := s.shelf ++ [l] }
    else s
  | none => s

/-- The 4 KiB pages of n bytes at the address of an image, each with its bytes' number. -/
def imagePages (addr n : Nat) : List (Nat × Nat) := (List.range (ceilDiv n 4096)).map (fun i => (addr + 4096 * i, Nat.min 4096 (n - 4096 * i)))

/-- The first page of an image that no physical access reaches (R21). -/
def State.badPage (s : State) (addr n : Nat) : Option Nat :=
  ((imagePages addr n).map (fun p => p.1)).find? (fun a => match s.physical a with | .ok _ => false | _ => true)

/-- Cause 0x06 for such a page. -/
def pageTrap (s : State) (addr n : Nat) : Option (Nat × Nat × Nat) :=
  match s.badPage addr n with
  | some a => trapIf true 0x06 a a
  | none => none

/-- The bytes of an image, page by page. -/
def State.readImage (s : State) (addr n : Nat) : List Byte := (imagePages addr n).flatMap (fun p => (s.readPa none p.1 p.2).1)

/-- Write an image, page by page. -/
def State.writeImage (s : State) (addr : Nat) (bs : List Byte) : State :=
  (imagePages addr bs.length).foldl (fun s p => s.writePa none p.1 ((bs.drop (p.1 - addr)).take p.2) (List.replicate p.2 true)) s

/-- The context is saved: its image is written and the tile's resources are free. -/
def saveCtx (s : State) (l : Launch) (t : Fin 256) (c : Fin 4) (addr : Nat) : State :=
  let v := saveOf s l t c addr
  let s1 := { s with saves := s.saves ++ [v], nextSave := s.nextSave + 1 }
  let s2 := s1.writeImage addr v.image
  let s3 := s2.modTile t (fun y => y.freed l)
  shelve (s3.modLaunchId l.id (fun l => { l with saving := l.saving.filter (fun x => x != t), saved := l.saved ++ [t] })) l.id

/-- The address of an image: its alignment and its place. -/
def imageTraps (s : State) (d a : Fin 32) : List (Option (Nat × Nat × Nat)) :=
  let x := (s.me.readS a).toNat
  [poisonS s.me [d, a], alignCheck x 4096, match s.physical x with | .ok _ => none | _ => trapIf true 0x06 x x]

/-- S[D] receives a status. -/
def statusDone (s : State) (d : Fin 32) (n : Nat) : Eff := .done (s.modCtx s.cur (fun c => c.writeS d (BitVec.ofNat 64 n) false))

def execCtxsv (h : Hdr) (d a : Fin 32) (ctx : Fin 4) (s : State) : Out :=
  privileged (.ctxsv h d a ctx) 0xE4 s fun s =>
    issue (.ctxsv h d a ctx) [.s d, .s a] s fun s =>
      let t : Fin 256 := Fin.ofNat 256 (s.me.readS d).toNat
      let x := (s.me.readS a).toNat
      orTrap (imageTraps s d a) <|
        match s.launchOf (.tile t ctx) with
        | none => statusDone s d 1
        | some l =>
          orTrap [pageTrap s x (saveOf s l t ctx x).image.length] <|
            if !l.saving.contains t then .wait (fun s => s.modLaunchId l.id (fun l => { l with saving := l.saving ++ [t] }))
            else if !ctxIdle s l t ctx then .hold
            else statusDone (saveCtx s l t ctx x) d 0

/-- The saved context whose image stands at an address, the latest first. -/
def State.savedAt (s : State) (addr : Nat) : Option CtxSave :=
  s.saves.reverse.find? (fun v => s.readImage addr v.image.length == v.image)

/-- The first page at an address is that of a saved context whose image goes on to a page that no access reaches (R21). -/
def savedTrap (s : State) (addr : Nat) : Option (Nat × Nat × Nat) :=
  s.saves.reverse.findSome? (fun v =>
    if s.readImage addr (Nat.min 4096 v.image.length) = v.image.take 4096 then pageTrap s addr v.image.length else none)

/-- Another launch on the tile holds what the saved one needs. -/
def inUse (s : State) (l : Launch) (t : Fin 256) : Bool :=
  (List.finRange 4).any (fun c => match s.launchOf (.tile t c) with
    | some x => x.clashes l.rcd ||
        (l.ranges.any (fun r => r.1 == t && x.ranges.any (fun z => z.1 == t && decide (r.2.1 < z.2.1 + z.2.2) && decide (z.2.1 < r.2.1 + r.2.2))))
    | none => false)

/-- The tile with a saved context written back as context c: its issues in the window and its last issue stay those of this
tile (R142), and a panel that so enters or leaves SORT mode empties its list, as by a sweep (R244). -/
def Tile.restored (y : Tile) (l : Launch) (v : CtxSave) (c : Fin 4) (now : Nat) : Tile :=
  let sh := 4 * c.val
  let y1 := { y with
    tq := Vector.ofFn (fun n => if bitOf l.tqmask n.val then v.tq.get n else y.tq.get n)
    banks := Vector.ofFn (fun n => if bitOf l.abank n.val then v.banks.get n else y.banks.get n)
    imem := cellsWrite y.imem l.ibase v.imem
    scratch := v.scratch.foldl (fun (m : Memory) (r : Nat × List Byte × List Bool) => m.writePoison r.1 r.2.1 r.2.2) y.scratch
    ctx := vset y.ctx c { v.ctx with phase := .idle, winIssues := (y.ctx.get c).winIssues, lastIssue := (y.ctx.get c).lastIssue } }
  let y2 := if l.mqmask = 15 then { y1.setSort v.sort with shape := v.shape, issueShape := v.shape, issueSort := v.sort } else y1
  (y2.setPrio now true (BitVec.ofNat 64 (7 * 2 ^ sh)) (BitVec.ofNat 64 (v.pri * 2 ^ sh))).setPrio now false
    (BitVec.ofNat 64 (15 * 2 ^ sh)) (BitVec.ofNat 64 (v.floor * 2 ^ sh))

/-- The instances of a saved context, as they were. -/
def restoreInsts (v : CtxSave) (l : Launch) : Launch :=
  v.insts.foldl (fun l i => l.modInst i.num (fun x => { x with enabled := i.enabled, started := i.started, ended := i.ended })) l

/-- An end of an edge after its tile t has become t' and its launch's context c. -/
def Endpoint.moved (t t' : Fin 256) (c : Fin 4) : Endpoint → Endpoint
  | .stream x _ n => .stream (if x = t then t' else x) c n
  | .template x _ n => .template (if x = t then t' else x) c n
  | e => e

/-- A launch whose part on tile t stands on t', in context c. -/
def Launch.moved (l : Launch) (t t' : Fin 256) (c : Fin 4) : Launch :=
  let m := fun (x : Fin 256) => if x = t then t' else x
  let tag := fun (k : Token) => { k with tag := c }
  { l with
    c := c
    rcd := BitVec.ofNat 512 (putBits l.rcd.toNat 96 2 c.val)
    insts := l.insts.map (fun i => { i with tile := m i.tile })
    edges := l.edges.map (fun e =>
      { e with src := e.src.moved t t' c, dst := e.dst.moved t t' c, queue := e.queue.map tag, inflight := e.inflight.map tag })
    tiles := l.tiles.map m
    ranges := l.ranges.map (fun r => (m r.1, r.2)) }

/-- What a launch holds outside its tiles follows it to another context. -/
def rehome (s : State) (l : Launch) (c : Fin 4) : State :=
  { s with
    convs := s.convs.map (fun v => if v.q = l.q ∧ v.c = l.c then { v with c := c } else v)
    mapWrites := s.mapWrites.map (fun w => if w.q = l.q ∧ w.c = l.c then { w with c := c } else w)
    clusters := s.clusters.map (fun x =>
      { x with
        slices := x.slices.map (fun y => { y with push := y.push.map (fun g => g.map (fun p =>
          if p.owner = l.id then { p with c := c } else p)) }) }) }

/-- Where the instances of a saved context stand: its tile, or the one to which it was loaded last. -/
def CtxSave.place (v : CtxSave) (l : Launch) : Fin 256 :=
  match v.insts.findSome? (fun i => l.inst i.num) with
  | some i => i.tile
  | none => v.tile

/-- The status of a load of a saved context of launch l as context c of tile t, which is vacant there: 2 where
another launch of the partition has the context; 3 where the tile is not the partition's, the launch runs in
another context, its part is not saved, or a resource is in use (log 24). -/
def loadStatus (s : State) (l : Launch) (v : CtxSave) (t : Fin 256) (c : Fin 4) : Nat :=
  let live := s.launches.any (fun x => x.id == l.id)
  if s.launches.any (fun x => x.q == l.q && x.c == c && x.id != l.id) then 2
  else if !(s.clustersOf l.q).getLsbD (t.val / 8) || (live && l.c != c) || (live && !l.saved.contains (v.place l))
      || (t != v.place l && l.insts.any (fun i => i.tile == t)) || inUse s (l.moved (v.place l) t c) t then 3
  else 0

/-- The context is loaded on a tile: scheduling goes on. -/
def loadCtx (s : State) (l : Launch) (v : CtxSave) (t : Fin 256) (c : Fin 4) : State :=
  let now := (s.dies.get (dieOfTile t)).cycle.toNat
  let l1 := l.moved (v.place l) t c
  let s1 := if s.launches.any (fun x => x.id == l.id) then s.modLaunchId l.id (fun _ => l1)
    else { rehome s l c with launches := s.launches ++ [l1], shelf := s.shelf.filter (fun x => x.id != l.id) }
  (s1.modTile t (fun y => y.restored l1 v c now)).modLaunchId l.id
    (fun l => restoreInsts v { l with saved := l.saved.filter (fun x => x != t) })

def execCtxld (h : Hdr) (d a : Fin 32) (ctx : Fin 4) (s : State) : Out :=
  privileged (.ctxld h d a ctx) 0xE4 s fun s =>
    issue (.ctxld h d a ctx) [.s d, .s a] s fun s =>
      let t : Fin 256 := Fin.ofNat 256 (s.me.readS d).toNat
      orTrap (imageTraps s d a) <|
        if (s.launchOf (.tile t ctx)).isSome then statusDone s d 2
        else orTrap [savedTrap s (s.me.readS a).toNat] <| match s.savedAt (s.me.readS a).toNat with
          | none => statusDone s d 4
          | some v =>
            match (s.launches ++ s.shelf).find? (fun l => l.id == v.launch) with
            | none => statusDone s d 4
            | some l =>
              let n := loadStatus s l v t ctx
              if n ≠ 0 then statusDone s d n
              else if l.mqmask = 15 && (s.tile t).arrayBusy then .hold
              else statusDone (loadCtx s l v t ctx) d 0

/-! ### Stall maps (R400) -/

/-- An entry (Table 14.11), with the context of the launch it is about. -/
structure StallEntry where
  kind : Nat
  c : Fin 4
  eos : Bool
  part : Bool
  place : Nat
  who : Nat
  slot : Nat
  present : Nat
  awaited : Nat
  free : Nat
  edge : Nat

def StallEntry.bytes (e : StallEntry) : List Byte :=
  leBytes 1 e.kind ++ leBytes 1 (e.c.val + 4 * b2n e.eos + 8 * b2n e.part) ++ leBytes 2 e.place ++ leBytes 4 e.who
    ++ leBytes 2 e.slot ++ leBytes 2 0 ++ leBytes 4 e.present ++ leBytes 4 e.awaited ++ leBytes 4 e.free ++ leBytes 4 e.edge
    ++ leBytes 4 0

/-- The launch without the tokens that the firing of an instance in progress has reserved (R129, R131). -/
def unreservedOf (s : State) (l : Launch) (i : Inst) : Launch :=
  match (s.ctx (.tile i.tile l.c)).firing with
  | some f =>
    if f.inst = i.num then
      (List.finRange 16).foldl (fun l n => match i.slots.get n with
        | some b => if b.out then l else l.modEdge b.edge (fun e => { e with queue := e.queue.drop (f.slots.get n).len })
        | none => l) l
    else l
  | none => l

/-- An enabled instance that is neither finished nor ready. -/
def Inst.blocked (s : State) (l : Launch) (i : Inst) : Bool :=
  i.enabled && !i.handler && !i.finished l
    && (!i.ready (unreservedOf s l i) || (match (s.ctx (.tile i.tile l.c)).phase with | .idle | .running => false | _ => true))

/-- The instance holds a token on some input slot. -/
def Inst.holds (i : Inst) (l : Launch) : Bool := (i.binds l).any (fun b => !b.1.out && !b.2.queue.isEmpty)

def Edge.eosSeen (e : Edge) : Bool := e.ended || e.queue.any (fun t => t.eos)

/-- Kinds 1 and 2 of an instance. -/
def stallSlots (s : State) (p : Partition) (l : Launch) (i : Inst) (out : Bool) : List StallEntry :=
  (List.finRange 16).filterMap (fun n => match bindEdge (unreservedOf s l i) (i.slots.get n) with
    | none => none
    | some (b, e) =>
      if b.out ≠ out then none
      else if !out then
        if windowLen b.rate e = 0 then
          some ⟨1, l.c, e.eosSeen, i.holds l, partTile p i.tile, i.num, n.val, e.queue.length, b.rate, 0, e.num⟩
        else none
      else if e.credits < b.rate then
        some ⟨2, l.c, e.eosSeen, i.holds l, partTile p i.tile, i.num, n.val, 0, b.rate, e.credits, e.num⟩
      else none)

/-- Kinds 3 and 4 of a region. -/
def stallPorts (s : State) (l : Launch) (r : Fin 128) (out : Bool) : List StallEntry :=
  (List.finRange 14).filterMap (fun m =>
    if out then
      let n := ((s.region r).outbuf.filter (fun t => t.port == m)).length
      match l.edges.find? (fun e => e.src == .region r m) with
      | some e => if 0 < n ∧ e.credits = 0 then some ⟨4, l.c, e.eosSeen, false, s.regionPart l.q r, 0, m.val, n, 0, 0, e.num⟩ else none
      | none => none
    else
      match l.edges.find? (fun e => e.dst == .region r m) with
      | some e => if e.queue.isEmpty then none
        else some ⟨3, l.c, e.eosSeen, false, s.regionPart l.q r, 0, m.val, e.queue.length, 0, 0, e.num⟩
      | none => none)

/-- The members of a gang that have issued operation n. -/
def membersIssued (s : State) (l : Launch) (g : Gang) (q : Fin 4) (n : Nat) : Nat :=
  ((List.finRange 256).filter (fun t => (s.launchOf (.tile t l.c)).any (fun x => x.id == l.id) &&
    (match (s.tile t).gang.get q with | some x => x.key == g.key && decide (n < x.ops) | none => false))).length

/-- Kind 9 of a tile: gang operations that await members. -/
def stallGangs (s : State) (p : Partition) (l : Launch) (t : Fin 256) : List StallEntry :=
  (List.finRange 4).flatMap (fun q => match (s.tile t).gang.get q with
    | none => []
    | some g => ((s.tile t).mq.get q).filterMap (fun o =>
      if o.ctx = l.c && o.gangMac o.gidx then
        let n := membersIssued s l g q o.gidx
        if n < g.gR * g.gC then some ⟨9, l.c, false, false, partTile p t, g.key, q.val, n, g.gR * g.gC, 0, 0⟩ else none
      else none))

/-- EOS, the tokens present and the number of the edge of an endpoint that is a stream slot or a push program: of the edge
that brings it tokens, when it has one, else of the edge it feeds, on which none are present with it (DESIGN CHOICE, log 25). -/
def endStatus (l : Launch) (x : Endpoint) : Bool × Nat × Nat :=
  match l.edges.find? (fun e => e.dst == x), l.edges.find? (fun e => e.src == x) with
  | some e, _ => (e.eosSeen, e.queue.length, e.num)
  | none, some e => (e.eosSeen, 0, e.num)
  | none, none => (false, 0, 0)

/-- The entries of a cluster for a launch, by kind. -/
def stallCluster (s : State) (p : Partition) (cl : Fin 32) (ls : List Launch) : List StallEntry :=
  let tiles := (List.finRange 256).filter (fun t => clusterOfTile t == cl)
  let insts := fun (l : Launch) => l.insts.filter (fun i => clusterOfTile i.tile == cl && i.blocked s l)
  let regions := (List.finRange 128).filter (fun r => clusterOfRegion r == cl)
  let per := fun (f : Launch → List StallEntry) => ls.flatMap f
  per (fun l => (insts l).flatMap (fun i => stallSlots s p l i false))
  ++ per (fun l => (insts l).flatMap (fun i => stallSlots s p l i true))
  ++ per (fun l => regions.flatMap (fun r => if (s.region r).owner = some l.id then stallPorts s l r false else []))
  ++ per (fun l => regions.flatMap (fun r => if (s.region r).owner = some l.id then stallPorts s l r true else []))
  ++ per (fun l => tiles.flatMap (fun t => (List.finRange 16).filterMap (fun n =>
      if 2 ≤ (((s.tile t).ctx.get l.c).ss.get n).stat.state then
        let x := endStatus l (.stream t l.c n)
        some ⟨5, l.c, x.1, false, partTile p t, 0, n.val, x.2.1, 0, 0, x.2.2⟩ else none)))
  ++ per (fun l => tiles.flatMap (fun t => (List.finRange 16).filterMap (fun n =>
      match ((s.tile t).ctx.get l.c).tmpl.get n with
      | none => none
      | some m =>
        let e := l.edges.find? (fun e => e.dst == .template t l.c n)
        let k := match e with | some e => e.queue.length | none => 0
        if m.firing ∨ 0 < k then
          some ⟨6, l.c, (match e with | some e => e.eosSeen | none => false), false, partTile p t, 0, n.val, k, 0, 0,
            (match e with | some e => e.num | none => 0)⟩
        else none)))
  ++ per (fun l => (List.finRange 10).flatMap (fun n => (List.finRange 4).filterMap (fun j =>
      match ((s.clusters.get cl).slices.get n).push.get j with
      | some g => if g.owner = l.id ∧ g.pass.isSome then
          let x := endStatus l (.push ⟨10 * cl.val + n.val, by omega⟩ j)
          some ⟨7, l.c, x.1, false, 10 * (p.clusterList.takeWhile (fun x => x != cl)).length + n.val, 0, j.val, x.2.1, 0, 0, x.2.2⟩ else none
      | none => none)))
  ++ per (fun l => (s.groups.filter (fun o => o.q == l.q && l.groups.contains o.gid && o.slice / 10 == cl.val && decide (0 < o.n))).map (fun o =>
      ⟨8, l.c, false, false, 10 * (p.clusterList.takeWhile (fun x => x != cl)).length + o.slice % 10, o.gid, 0, o.n, o.m, 0, o.phase % 2 ^ 32⟩))
  ++ per (fun l => tiles.flatMap (stallGangs s p l))
  ++ per (fun l => tiles.filterMap (fun t =>
      let x := (s.tile t).ctx.get l.c
      if (match x.phase with | .idle | .running => false | _ => true) then
        some ⟨10, l.c, false, false, partTile p t, (match x.firing with | some f => f.inst | none => 0), 0, 0, 0, 0, 0⟩
      else none))

/-- The entries of launches of a partition, in ascending partition cluster order. -/
def stallEntries (s : State) (p : Partition) (ls : List Launch) : List StallEntry :=
  p.clusterList.flatMap (fun cl => stallCluster s p cl ls)

/-- Header and entries, at most room of them (Table 14.10). -/
def stallMap (s : State) (q : Fin 32) (trigger : Nat) (es : List StallEntry) (room : Nat) : List Byte :=
  let n := Nat.min es.length room
  leBytes 4 0x50414D53 ++ leBytes 2 1 ++ leBytes 1 trigger ++ leBytes 1 q.val ++ leBytes 4 n ++ leBytes 4 (es.length - n)
    ++ leBytes 8 (s.dies.get 0).cycle.toNat ++ leBytes 8 (s.dies.get 1).cycle.toNat ++ leBytes 32 0
    ++ (es.take n).flatMap StallEntry.bytes

/-- The map of the issuing launch; the management core's firmware has no entry of Table 14.11. -/
def ownMap (s : State) (room : Nat) : List Byte × Nat :=
  match s.launchOf s.cur, s.cur with
  | some l, .tile _ _ =>
    match s.part l.q with
    | some p =>
      let es := stallEntries s p [l]
      (stallMap s l.q 2 es room, Nat.min es.length room)
    | none => (stallMap s 0 2 [] room, 0)
  | _, _ => (stallMap s 0 2 [] room, 0)

/-- Bytes at an address, cut at the 128-byte lines. -/
def cutLines (a : Nat) (bs : List Byte) : List (Nat × List Byte) :=
  (List.range ((a + bs.length + 127) / 128 - a / 128)).map (fun i =>
    let lo := Max.max a ((a / 128 + i) * 128)
    (lo, (bs.drop (lo - a)).take ((a / 128 + i) * 128 + 128 - lo)))

/-- The map that an smap in progress has captured: what is left to store at r.ea, and the entries, r.va. -/
def smapRest (c : Ctx) : Option MemReq := c.reqs.find? (fun r => r.op == .syncRead && r.by_.pc == c.pc)

def Ctx.dropSmap (c : Ctx) : Ctx := { c with reqs := c.reqs.filter (fun r => !(r.op == .syncRead && r.by_.pc == c.pc)) }

/-- The captured map stands beside the context's requests; older stores leave the buffer first. -/
def smapKeep (s : State) (a n : Nat) (bs : List Byte) : State :=
  ((s.modCtx s.cur Ctx.dropSmap).drainAll s.cur).addReq
    (mkReq s ⟨.syncRead, a, n, 0, none⟩ 0 (.plain 0) none [] (.done bs []))

/-- The plain stores of some lines of a map (R408). -/
def smapParts (xs : List (Nat × List Byte)) : List Part :=
  xs.map (fun x => onePart (.store x.2 (List.replicate x.2.length true) false) x.1 x.2.length)

/-- A store of the context has not been performed. -/
def storesOpen (s : State) : Bool :=
  s.me.reqs.any (fun r => r.stage.open_ && (match r.op with | .store .. => true | _ => false))

/-- smap: the map is captured, stored some lines at a time, and the instruction completes when every store has
been performed (R408). -/
def execSmap (h : Hdr) (d a : Fin 32) (cap : BitVec 20) (s : State) : Out :=
  issue (.smap h d a cap) [.s a] s fun s =>
    match smapRest s.me with
    | none =>
      let x := (s.me.readS a).toNat
      orTrap [poisonS s.me [a], alignCheck x 64] <|
        .wait (fun s => let m := ownMap s cap.toNat; smapKeep s x m.2 m.1)
    | some r =>
      let bs := match r.stage with | .done bs _ => bs | _ => []
      if bs.isEmpty then
        (if !s.me.wcb.isEmpty then .wait (fun s => s.drainAll s.cur)
        else if storesOpen s then .hold
        else statusDone (s.modCtx s.cur Ctx.dropSmap) d r.va)
      else
        let now := (cutLines r.ea bs).take 16
        let n := (now.map (fun x => x.2.length)).foldl (· + ·) 0
        let ps := smapParts now
        globalAccess s .write .any 1 (partAddrs ps) (.plain 0) [] fun _ =>
          .wait (fun s => sendParts (smapKeep s (r.ea + n) r.va (bs.drop n)) .write (.plain 0) ps)

/-! ### HANG_DETECTED (R398, R399) -/

/-- Some endpoint of the partition holds partial work (R399). -/
def partialWork (s : State) (ls : List Launch) : Bool :=
  ls.any (fun l =>
    l.insts.any (fun i => i.blocked s l && i.holds l)
    || s.groups.any (fun o => o.q == l.q && l.groups.contains o.gid && decide (0 < o.n))
    || (List.finRange 256).any (fun t => (s.launchOf (.tile t l.c)).any (fun x => x.id == l.id) &&
        (List.finRange 4).any (fun q => match (s.tile t).gang.get q with
          | some g => ((s.tile t).mq.get q).any (fun o => o.ctx == l.c && o.gangMac o.gidx && decide (membersIssued s l g q o.gidx < g.gR * g.gC))
          | none => false)))

/-- HANG_DETECTED: the quiet cycles of every cluster of a partition have reached their limits with
partial work: the stall map is written and the launches in it end. -/
def execHangDetected (q : Fin 32) (s : State) : Out :=
  match s.part q with
  | none => .next s
  | some p =>
    let ls := s.launches.filter (fun l => l.q == q)
    if p.clusterList.all (fun i => (s.clusters.get i).hangLim != 0) && partialWork s ls then
      let es := stallEntries s p ls
      let bs := stallMap s q 1 es Config.mapRoom
      let s1 := s.writePa none p.mapArea.toNat bs (List.replicate bs.length true)
      let s2 := if (s1.vfs.get q).hang then s1 else (s1.modVf q (fun v => { v with hang := true })).raise q 2
      .next (ls.foldl (fun s l => if (es.take Config.mapRoom).any (fun e => e.c == l.c) then endLaunch s q l.c 7 0x10 2 else s) s2)
    else .next s

/-! ### pclr (R409) -/

def execPclr (h : Hdr) (f : PclrForm) (s : State) : Out :=
  issue (.pclr h f) [] s fun s =>
    match f with
    | .scalar d => s.onCtx fun c => { c with sp := setBit c.sp d.val false }
    | .vector d k => s.onCtx fun c => c.writeV d { c.readV d with poison := (c.readV d).poison &&& ~~~(c.readK k) }

end Sys2Proof.Machine
end

