-- ==== Sys2Proof/Machine/Host.lean ====
section
/-! DEFINITION. The host port and the stream links: resolved faults, the aperture, the rings, feature
negotiation, host-written registers, corrupted headers and link ports (spec/15_host_security.md R410 to
R416, R424 to R427; R394, R439, R440, R457). -/

namespace Sys2Proof.Machine

/-! ### Parked accesses (R394, R414) -/

/-- Where a parked access waits. -/
inductive Parked where
  | req (g : AgentId) (r : MemReq)
  | eng (cg : Fin 32) (r : EngReq)
  | pass (n : Fin 320) (j : Fin 4) (p : PushProg) (r : EngReq)
  | sta (cg : Fin 32) (k : Fin 8) (l : StaLoad)
  | region (r : Fin 128) (w : RgLoad)
  | unit (v : Conv) (u : Nat)
  | map (w : MapWrite)
  | launch (l : Launch)

/-- The parked request of a context. -/
def parkedReq (s : State) (q : Fin 32) (tok : Nat) : Option Parked :=
  (List.finRange 256).findSome? (fun t => (List.finRange 4).findSome? (fun c =>
    ((s.ctx (.tile t c)).reqs.find? (fun r => r.stage == .parked tok && partOfMctx r.mctx == q)).map (.req (.tile t c))))

/-- The parked access of an engine, of a push program or of a load of a transform array. -/
def parkedEngine (s : State) (q : Fin 32) (tok : Nat) : Option Parked :=
  (List.finRange 32).findSome? (fun cg =>
    let x := s.clusters.get cg
    match x.eng.find? (fun r => r.parked == some tok && r.q == q) with
    | some r => some (.eng cg r)
    | none => (List.finRange 8).findSome? (fun k =>
        ((x.sta.get k).loads.find? (fun l => l.parked == some tok
          && (match s.launchOf (.tile l.t l.c) with | some la => la.q == q | none => false))).map (fun l => .sta cg k l)))

def parkedPass (s : State) (q : Fin 32) (tok : Nat) : Option Parked :=
  (List.finRange 320).findSome? (fun n => (List.finRange 4).findSome? (fun j =>
    match s.pushProg n j with
    | some p => (match p.pass with | some r => if r.parked = some tok ∧ p.q = q then some (.pass n j p r) else none | none => none)
    | none => none))

/-- The parked access of a region, of a conversion or of a Launch Unit. -/
def parkedUnit (s : State) (q : Fin 32) (tok : Nat) : Option Parked :=
  match (List.finRange 128).findSome? (fun r => match (s.region r).load with
      | some w => if w.parked = some tok ∧ (s.ownerOf r).map (fun l => l.q) = some q then some (Parked.region r w) else none
      | none => none) with
  | some p => some p
  | none =>
    match s.convs.findSome? (fun v => if v.q ≠ q then none else (v.parked.find? (fun x => x.2 == tok)).map (fun x => Parked.unit v x.1)),
        s.mapWrites.find? (fun w => w.q == q && w.tok == some tok) with
    | some p, _ => some p
    | none, some w => some (.map w)
    | none, none => (s.launches.find? (fun l => l.q == q && l.parked == some tok)).map .launch

/-- The parked access of a partition that a token identifies. -/
def State.parkedOf (s : State) (q : Fin 32) (tok : Nat) : Option Parked :=
  match parkedReq s q tok with
  | some p => some p
  | none => match parkedEngine s q tok with
    | some p => some p
    | none => match parkedPass s q tok with
      | some p => some p
      | none => parkedUnit s q tok

/-- The requests of a context that wait on a token translate again, in their order (R394). -/
def retryReq (s : State) (g : AgentId) (tok : Nat) : State :=
  (s.modCtx g (fun c => { c with reqs := c.reqs.map (fun r => if r.stage = .parked tok then { r with stage := .queued } else r) })).flushAll g

/-- The requests of a context that wait on a token are lost with cause 0x05 (R394). -/
def failReqs (s : State) (g : AgentId) (tok : Nat) : Nat → State
  | 0 => s
  | n + 1 =>
    match (s.ctx g).reqs.findIdx? (fun r => r.stage == .parked tok) with
    | none => s
    | some i =>
      match (s.ctx g).reqs[i]? with
      | none => s
      | some r => failReqs (s.loseReq g i r 0x05 r.ea) g tok n

/-- A unit of a conversion is no longer parked; PARK stays while another is. -/
def unparkUnit (s : State) (v : Conv) (u : Nat) : State :=
  let v1 := { v with parked := v.parked.filter (fun x => x.1 != u) }
  let s1 := s.setConv v1
  if v1.parked.isEmpty then s1.updEntry v.q v.c v.index (fun d => dPut d 112 6 1 0) else s1

/-- A write of a map waits no longer. -/
def State.dropMap (s : State) (w : MapWrite) : State := { s with mapWrites := s.mapWrites.erase w }

/-- The parked access proceeds: a context's request is translated now, the other units translate again
in their next step. -/
def retryParked (s : State) : Parked → State
  | .req g r => match r.stage with | .parked tok => retryReq s g tok | _ => s
  | .eng cg r => s.putReq cg { r with parked := none }
  | .pass n j p r => s.setPush n j { p with pass := some { r with parked := none } }
  | .sta cg k l => s.modSta cg k (fun x => { x with loads := x.loads.map (fun y => if y.stamp = l.stamp then { y with parked := none } else y) })
  | .region r w => s.modRegion r (fun x => { x with load := some { w with parked := none } })
  | .unit v u => unparkUnit s v u
  | .map w => putMap (s.dropMap w) { w with tok := none }
  | .launch l => s.modLaunch l.q l.c (fun x => { x with parked := none })

/-- FRACT_RETRY: the access whose record carried FRTOKEN is replayed; another token is ignored. -/
def execFractRetry (q : Fin 32) (s : State) : Out :=
  let tok := (s.vfs.get q).frToken.toNat
  match s.parkedOf q tok with
  | none => .next s
  | some p => .next (retryParked (s.unpark tok) p)

/-- The completion record is not written; everything else of the completion happens. -/
def completeUnwritten (s : State) (p : Partition) (l : Launch) : State :=
  notifyDone (releaseLaunch (s.pushCompletion l.q (completionRecord s l p.lead (l.ending.getD (0, 0, 0)))) p l) l

/-- The parked access fails. -/
def failParked (s : State) : Parked → State
  | .req g r => match r.stage with
    | .parked tok => (failReqs s g tok (s.ctx g).reqs.length).flushAll g
    | _ => s
  | .eng cg r => let o := failReq s cg 0 { r with parked := none } 0x0D 12 0 r.parkVa; o.1.putReq cg o.2
  | .pass n j p r =>
    let o := failReq s (sliceNum n).1 n { r with parked := none } 0x0D 12 0 r.parkVa
    o.1.setPush n j { p with pass := some o.2 }
  | .sta cg k l => endLoad s cg k l (.inr 7)
  | .region r w => endStaging s r w.who (.inr 7)
  | .unit v _ => breakHandle s v
  | .map w => (s.dropMap w).logError (dieOfCluster w.cluster) 6 32 w.cluster.val 0 w.addr
  | .launch l =>
    match s.part l.q with
    | some p =>
      if l.ending.isSome || l.quiet s p then completeUnwritten s p l
      else failLaunch (s.modLaunch l.q l.c (fun x => { x with parked := none })) l 5
    | none => s

/-- FRACT_FAIL: the parked access fails (R394). -/
def execFractFail (q : Fin 32) (s : State) : Out :=
  let tok := (s.vfs.get q).frToken.toNat
  match s.parkedOf q tok with
  | none => .next s
  | some p => .next (failParked (s.unpark tok) p)

/-! ### The aperture (R415, R416) -/

/-- The virtual address and the memory context of an aperture offset. -/
def apertureAddr (v : Vf) (q : Fin 32) (off : Nat) : Nat × Fin 128 :=
  (bitsAt v.apctl.toNat 36 20 * 2 ^ 36 + off, mctxOf q (Fin.ofNat 4 (bitsAt v.apctl.toNat 0 2)))

/-- The key under which the home slice serves an aperture access: a page that is encrypted and not
HOSTVIS is served as the bytes stand in DRAM. -/
def State.hostKey (s : State) (x : Xlated) : Option Key :=
  if x.enc && !s.keys.any (fun k => k.slot.val == x.slot && k.hostvis) then none else x.key

/-- The access bypasses the inline cipher. -/
def State.rawAccess (s : State) (x : Xlated) : Bool :=
  x.enc && !s.keys.any (fun k => k.slot.val == x.slot && k.hostvis)

/-- The lines leave the slices' copies (R416), or a plain access passes the home slice. -/
def State.passHome (s : State) (x : Xlated) (n : Nat) (m : Fin 128) (how : Duel) : State :=
  if s.rawAccess x then
    (linesOf x.pa n).foldl (fun s l =>
      (s.wake (l * 128)).modSlice (cgOf (l * 128)) (sliceOf (l * 128)) (fun y => { y with lines := y.lines.filter (fun e => e.line != l) })) s
  else s.touch x.pa n 0 m how

/-- The bytes that an aperture request covers. -/
def AperOp.len : AperOp → Nat
  | .read n => n
  | .write bs => bs.length
  | .atomic _ _ b8 _ _ => if b8 then 8 else 4

/-- The access that an aperture request is, in translation and at the slices. -/
def AperOp.kind : AperOp → Kind
  | .read _ => .read
  | .write _ => .write
  | .atomic .. => .rmw

def AperOp.duel : AperOp → Duel
  | .atomic .. => .rmw
  | _ => .plain

/-- The new value of an AtomicOp, as atom or cas would make it. -/
def atomicValue (op : AtomOp) (isCas b8 : Bool) (v cmp : Word) (old : Nat) : Option Nat :=
  let w := if b8 then 64 else 32
  if isCas then (if old = cmp.toNat % 2 ^ w then some (v.toNat % 2 ^ w) else none)
  else some (atomNew op (if b8 then 3 else 2) old v.toNat)

/-- What an aperture request does at its home, with its reply. -/
def AperOp.perform (s : State) (x : Xlated) : AperOp → State
  | .read n => let (bs, po, s1) := s.readPa (s.hostKey x) x.pa n; { s1 with reply := .data bs po }
  | .write bs => { s.writePa (s.hostKey x) x.pa bs (List.replicate bs.length true) with reply := .done }
  | .atomic op isCas b8 v cmp =>
    let (bs, po, s1) := s.rmwPa (s.hostKey x) x.pa (if b8 then 8 else 4) (atomicValue op isCas b8 v cmp)
    { s1 with reply := .data bs po }

/-- The step of R391 that fails, for an aperture request. -/
def apertureFails (s : State) (step va : Nat) : State :=
  { s.logError 0 3 (16 + step) 16 0 va with reply := .abort }

/-- An aperture request goes through its translation and enters its home, or waits there behind a fill or an access that is
held (R263); whether it waits. A PCI Express request crosses no 4 KiB boundary, so it lies in one page (PRESUMED,
log 30). -/
def apertureGo (s : State) (a : Aper) : State × Bool :=
  let (va, m) := apertureAddr (s.vfs.get a.q) a.q a.off
  match s.walkStep m va with
  | some s1 => (s1, true)
  | none =>
    let s1 := s.passWalk m va
    match s1.retranslate m a.op.kind va with
    | .missing _ => (apertureFails s1 3 va, false)
    | .fault step cause _ => (if cause = 0x12 then { s1 with reply := .none } else apertureFails s1 step va, false)
    | .ok x =>
      let cp : Fin 4 := if s1.rawAccess x then 3 else 0
      if !s1.reachable x.pa then ({ s1 with reply := .none }, false)
      else if s1.mayEnter x.pa a.op.len cp then (a.op.perform (s1.passHome x a.op.len m a.op.duel) x, false)
      else (s1.askLines x.pa a.op.len cp m a.op.duel, true)

/-- An aperture request arrives: it goes behind those that wait. -/
def apertureArrive (s : State) (a : Aper) : State :=
  if !s.aper.isEmpty then { s with aper := s.aper ++ [a], reply := .none }
  else
    let o := apertureGo s a
    if o.2 then { o.1 with aper := [a], reply := .none } else o.1

/-- The oldest aperture request that waits presents itself again. -/
def apertureTurn (s : State) : State :=
  match s.aper with
  | [] => s
  | a :: as =>
    let o := apertureGo s a
    if o.2 then o.1 else { o.1 with aper := as }

/-- APERTURE_READ: a Memory Read of n bytes. A function without a partition reads all ones (R410). -/
def execApertureRead (q : Fin 32) (off : Nat) (n : Nat) (s : State) : Out :=
  if (s.part q).isNone then .next { s with reply := .data (List.replicate n 0xFF) (List.replicate n false) }
  else .next (apertureArrive s ⟨q, off, .read n⟩)

/-- APERTURE_WRITE: a Memory Write. -/
def execApertureWrite (q : Fin 32) (off : Nat) (bytes : List Byte) (s : State) : Out :=
  if (s.part q).isNone then .next s else .next (apertureArrive s ⟨q, off, .write bytes⟩)

/-- APERTURE_ATOMICOP: FetchAdd, Swap or CAS of four or eight bytes at the home slice; feature 2 (R440). -/
def execApertureAtomicop (q : Fin 32) (off : Nat) (op : AtomOp) (isCas b8 : Bool) (v cmp : Word) (s : State) : Out :=
  let n := if b8 then 8 else 4
  if (s.part q).isNone then .next { s with reply := .data (List.replicate n 0xFF) (List.replicate n false) }
  else if !s.featured 2 || !(isCas || op == .add || op == .swap) then .next { s with reply := .unsupported }
  else if off % n ≠ 0 then .next { s with reply := .abort }
  else .next (apertureArrive s ⟨q, off, .atomic op isCas b8 v cmp⟩)

/-! ### The rings (R413) -/

/-- CQHEAD: a write of CQHEAD or FQHEAD frees entries, and entries that wait are written. -/
def execCqhead (q : Fin 32) (fault : Bool) (v : Word) (s : State) : Out :=
  if (s.part q).isNone then .next s
  else
    let s1 := s.modVf q (fun x => if fault then { x with fq := { x.fq with head := v.toNat } } else { x with cq := { x.cq with head := v.toNat } })
    .next (s1.refillRing q fault)

/-! ### Features and readiness (R439, R440) -/

/-- FEATCTL_GO: GO holds the 1 that was written (R6); once per reset, the accepted bits are applied, or ERR is set when one
was not offered. -/
def execFeatctlGo (s : State) : Out :=
  let s := { s with pf := { s.pf with featGo := true } }
  if s.pf.featDone || s.pf.featErr then .next s
  else
    let bad := (s.pf.featAcc.get 0).toNat / 64 != 0 || s.pf.featAcc.get 1 != 0 || s.pf.featAcc.get 2 != 0 || s.pf.featAcc.get 3 != 0
    .next { s with pf := if bad then { s.pf with featErr := true } else { s.pf with featDone := true } }

/-- FUNCTION_READY: an available unit becomes usable and its READY bit sets. -/
def execFunctionReady (u : ReadyUnit) (s : State) : Out :=
  let p := s.pf
  .next { s with pf := match u with
    | .cluster i => if p.availCl.getLsbD i.val then { p with readyCl := setBit p.readyCl i.val true } else p
    | .region i => if p.availRg.getLsbD i.val then { p with readyRg := setBit p.readyRg i.val true } else p
    | .group g => if p.availCg.getLsbD g.val && (s.hbm.stack.get (stackOf g)).powered then
        { p with readyCg := setBit p.readyCg g.val true } else p
    | .misc i => if p.availLn.getLsbD i.val || decide (16 ≤ i.val) then { p with readyMisc := setBit p.readyMisc i.val true } else p }

/-- Every sequencer's context. -/
def allAgents : List AgentId :=
  (List.finRange 256).flatMap (fun t => (List.finRange 4).map (fun c => AgentId.tile t c)) ++ [.mgmt]

/-! ### Interfaces that are locked (R423) -/

/-- The lines of some keys are written back under them and leave the slices (R422). -/
def leaveSlices (s : State) (ks : List Key) : State :=
  let lost := fun (l : SliceLine) => match s.lineKey l.line with
    | some k => ks.contains k
    | none => false
  { s with
    clusters := Vector.ofFn (fun i =>
      let x := s.clusters.get i
      { x with slices := Vector.ofFn (fun n => let y := x.slices.get n; { y with lines := y.lines.filter (fun l => !lost l) }) }) }

/-- The key table of every channel group clears some slots. -/
def clearSlots (s : State) (slots : List (Fin 4096)) : State := { s with keys := s.keys.filter (fun k => !slots.contains k.slot) }

/-- Key slots are erased: their lines leave the slices, and they are empty (R422). -/
def eraseSlots (s : State) (slots : List (Fin 4096)) : State :=
  clearSlots (leaveSlices s ((s.keys.filter (fun k => slots.contains k.slot)).map (fun k => k.key))) slots

/-- A request that has translated to a page under a key is not performed yet (R422 step 1). The accesses of engines and of
the other units are translated and performed in one step, so they hold none between steps. -/
def keyInUse (s : State) (k : Key) : Bool :=
  allAgents.any (fun g => (s.ctx g).reqs.any (fun r => r.stage == .sent && r.key == some k)
    || (s.ctx g).wcb.any (fun w => w.key == some k))

/-- A slot is loaded. -/
def State.loaded (s : State) (slot : Fin 4096) : Option KeySlot := s.keys.find? (fun k => k.slot == slot)

/-- The answer that a virtual function's mailbox holds. -/
def State.answerVf (s : State) (q : Fin 32) (a : Answer) : State :=
  let n : Fin 33 := ⟨q.val + 1, by omega⟩
  { s with spdm := vset s.spdm n { s.spdm.get n with answer := a } }

/-- The slot of a key request. -/
def KeyJob.slot : KeyJob → Fin 4096
  | .erase _ slot _ _ _ => slot
  | .load _ slot _ _ _ => slot

/-- KEYLOAD takes effect: the wrapped key goes to the slot of every channel group (R421). -/
def loadKey (s : State) (q : Fin 32) (slot : Fin 4096) (hostvis : Bool) (wrapped : BitVec 576) (session : Nat) : State :=
  if (s.loaded slot).isSome then s.answerVf q (.status 2)
  else match Config.unwrapKey q.val session wrapped with
    | none => s.answerVf q (.status 3)
    | some k => ({ s with keys := s.keys ++ [(⟨slot, k, hostvis⟩ : KeySlot)] } : State).answerVf q (.status 0)

/-- An erasure whose step 1 has begun ends once no request holds its key: the lines leave the slices, and the response is
sent where one is owed (R422). What is left of it. -/
def finishErase (s : State) (q : Fin 32) (slot : Fin 4096) (k : Key) (reply : Bool) : State × Option KeyJob :=
  if keyInUse s k then (s, some (.erase q slot (some k) [] reply))
  else (let s1 := leaveSlices s [k]; if reply then s1.answerVf q (.status 0) else s1, none)

/-- A key request that no earlier one of its slot holds back: an erasure begins when the launches that end first have
completed, and from then on the slot is empty for every access that translates (R422, R423). -/
def stepKeyJob (s : State) : KeyJob → State × Option KeyJob
  | .load q slot hostvis wrapped session => (loadKey s q slot hostvis wrapped session, none)
  | .erase q slot (some k) _ reply => finishErase s q slot k reply
  | .erase q slot none after reply =>
    if after.any (fun n => s.launches.any (fun l => l.id == n)) then (s, some (.erase q slot none after reply))
    else match s.loaded slot with
      | none => (if reply then s.answerVf q (.status 0) else s, none)
      | some k => finishErase (clearSlots s [slot]) q slot k.key reply

/-- The key requests in the order in which they reached the mailbox; those of one slot wait for one another (R422). -/
def runKeyJobs (s : State) : State :=
  s.erasing.foldl (fun s j =>
    if s.erasing.any (fun x => x.slot == j.slot) then { s with erasing := s.erasing ++ [j] }
    else
      let o := stepKeyJob s j
      { o.1 with erasing := o.1.erasing ++ o.2.toList }) { s with erasing := [] }

/-- Every key slot of a partition is to be erased, once some launches have completed. -/
def eraseAll (s : State) (p : Partition) (after : List Nat) : State :=
  runKeyJobs { s with erasing := s.erasing ++ p.keys.map (fun k => .erase p.q k none after false) }

/-- A TDI leaves RUN or its lock: every launch of the partition ends with status 8, then its keys are erased. -/
def leaveRun (s : State) (q : Fin 32) (t : Tdi) : State :=
  let ls := s.launches.filter (fun l => l.q == q)
  let s1 := (ls.foldl (fun s l => endLaunch s q l.c 8 0 0) s).modVf q (fun x => { x with tdi := t })
  match s1.part q with
  | some p => eraseAll s1 p (ls.map (fun l => l.id))
  | none => s1

/-- The interface is locked, whether it runs or not: what LOCK_INTERFACE freezes moves it to ERROR when it changes (R423). -/
def Tdi.frozen : Tdi → Bool
  | .locked | .run => true
  | _ => false

/-! ### Registers that the host writes (R6, R411, R424, R440) -/

/-- A write of an MSI-X entry's half; an entry that is unmasked sends what is pending (log 9). -/
def writeVector (s : State) (q : Fin 32) (v : Fin 3) (half : Bool) (w : Word) : State :=
  let x := s.vfs.get q
  let old := (x.table.get v).toNat
  let new : BitVec 128 := BitVec.ofNat 128 (if half then old % 2 ^ 64 + 2 ^ 64 * w.toNat else old / 2 ^ 64 * 2 ^ 64 + w.toNat)
  let y := { x with table := vset x.table v new }
  s.modVf q (fun _ => if !y.masked v && y.pba.getLsbD v.val then { y with pba := setBit y.pba v.val false, msix := y.msix ++ [v] } else y)

/-- An entry count that a ring may have. -/
def ringSize (v : Word) : Bool := (List.range 13).any (fun i => v.toNat == 2 ^ (i + 4))

/-- APCTL: its fields; while the interface is locked a change moves the TDI to ERROR. -/
def writeApctl (s : State) (q : Fin 32) (v : Word) : State :=
  let new : Word := BitVec.ofNat 64 (bitsAt v.toNat 0 2 + 2 ^ 36 * bitsAt v.toNat 36 20)
  let x := s.vfs.get q
  if new = x.apctl then s
  else if x.tdi.frozen then leaveRun s q .error
  else s.modVf q (fun x => { x with apctl := new })

/-- The place of a BAR: while the interface is locked a change moves the TDI to ERROR. -/
def writeBar (s : State) (q : Fin 32) (k : Fin 2) (v : Word) : State :=
  let x := s.vfs.get q
  if v = x.bars.get k then s
  else if x.tdi.frozen then leaveRun s q .error
  else s.modVf q (fun x => { x with bars := vset x.bars k v })

/-- A request of the host that firmware handles (event 5, R436). -/
def hostRequest (s : State) : State :=
  { s with mgmt := { s.mgmt with requests := s.mgmt.requests + 1 } }.event 5 0 (s.mgmt.requests % 2 ^ 16)

/-- A launch has a cut edge on a port. -/
def Launch.onPort (l : Launch) (k : Fin 16) : Bool := l.vcs.any (fun x => x.1 == k)

/-- The registers of a function whose partition exists; of another they are discarded (R410). -/
def writeVfReg (s : State) (q : Fin 32) (f : State → State) : State := if (s.part q).isNone then s else f s

/-- A register of a virtual function's BAR0 by its offset (Table 15.1): one that has no row of its own. -/
def vfRegAt (q : Fin 32) (off : Nat) : Option HostReg :=
  if off = 0x80 then some (.cqBase q) else if off = 0x88 then some (.cqSize q)
  else if off = 0xC0 then some (.fqBase q) else if off = 0xC8 then some (.fqSize q)
  else if off = 0x100 then some (.frToken q) else if off = 0x140 then some (.apCtl q)
  else if 0x1000 ≤ off ∧ off < 0x1030 then some (.msix q (Fin.ofNat 3 ((off - 0x1000) / 16)) (off / 8 % 2 == 1))
  else none

/-- A register of PF0's BAR0 by its offset (Tables 15.6 and 16.10). -/
def pfRegAt (off : Nat) : Option HostReg :=
  if 0x420 ≤ off ∧ off < 0x440 then some (.featAcc (Fin.ofNat 4 ((off - 0x420) / 8)))
  else if off = 0x800 then some .pkgId
  else if 0x840 ≤ off ∧ off < 0x8C0 then some (.lnkMap (Fin.ofNat 16 ((off - 0x840) / 8)))
  else none

/-- A write of a register by its access code; RO registers and unlisted offsets discard it (R6, R411). -/
def writeReg (r : HostReg) (v : Word) (s : State) : State :=
  match r with
  | .cqBase q => writeVfReg s q (fun s => s.modVf q (fun x => { x with cq := { x.cq with base := v &&& ~~~31#64 } }))
  | .cqSize q => writeVfReg s q (fun s => if ringSize v then (s.modVf q (fun x => { x with cq := { x.cq with size := v } })).refillRing q false else s)
  | .fqBase q => writeVfReg s q (fun s => s.modVf q (fun x => { x with fq := { x.fq with base := v &&& ~~~31#64 } }))
  | .fqSize q => writeVfReg s q (fun s => if ringSize v then (s.modVf q (fun x => { x with fq := { x.fq with size := v } })).refillRing q true else s)
  | .frToken q => writeVfReg s q (fun s => s.modVf q (fun x => { x with frToken := v }))
  | .apCtl q => writeVfReg s q (fun s => writeApctl s q v)
  | .bar q k => writeBar s q k v
  | .msix q n half => writeVfReg s q (fun s => writeVector s q n half v)
  | .featAcc k => if s.pf.featDone || s.pf.featErr then s else { s with pf := { s.pf with featAcc := vset s.pf.featAcc k v } }
  | .pkgId =>
    let s1 := hostRequest s
    if s1.pf.pkgid.getLsbD 8 then s1
    else { s1 with pf := { s1.pf with pkgid := BitVec.ofNat 64 (bitsAt v.toNat 0 6 + 2 ^ 8 * bitsAt v.toNat 8 1) } }
  | .lnkMap k =>
    let s1 := hostRequest s
    if s1.launches.any (fun l => l.onPort k) then s1
    else
      let w : Word := BitVec.ofNat 64 (bitsAt v.toNat 0 6 + 2 ^ 8 * bitsAt v.toNat 8 4 + 2 ^ 16 * bitsAt v.toNat 16 1)
      { s1 with pf := { s1.pf with lnkmap := vset s1.pf.lnkmap k w } }
  | .vfOffset _ _ | .pfOffset _ => s

/-- A write of eight bytes at an offset of a virtual function's BAR0: SUBWIN refuses it, CQHEAD, FQHEAD and FRACT
act, and the rest is written by access code (Table 15.1). -/
def writeVfAt (q : Fin 32) (off : Nat) (v : Word) (s : State) : Out :=
  if off < 0x40 then execSubmission q ⟨off, 8⟩ 0 s
  else if off = 0x90 then execCqhead q false v s
  else if off = 0xD0 then execCqhead q true v s
  else if off = 0x108 then (if v.getLsbD 0 then execFractFail q s else execFractRetry q s)
  else .next (match vfRegAt q off with | some r => writeReg r v s | none => s)

/-- A write of eight bytes at an offset of PF0's BAR0: FEATCTL takes GO, and TSWIN discards what is not 64 bytes
(Table 16.10, R148). -/
def writePfAt (off : Nat) (v : Word) (s : State) : Out :=
  if off = 0x440 then (if v.getLsbD 0 then execFeatctlGo s else .next { s with pf := { s.pf with featGo := false } })
  else .next (match pfRegAt off with | some r => writeReg r v s | none => s)

/-- REGISTER_WRITE: a register without a row of its own takes a write by its access codes; a write may also be
given by its offset. -/
def execRegisterWrite (r : HostReg) (v : Word) (s : State) : Out :=
  match r with
  | .vfOffset q off => if (s.part q).isNone then .next s else writeVfAt q off.toNat v s
  | .pfOffset off => writePfAt off.toNat v s
  | r => .next (writeReg r v s)

/-! ### Registers that the host reads (R6, R7, R410, R411)

The opcode table has no row for a host's register read, which changes nothing: what it returns is a
function of the state. -/

/-- SUBSTAT (Table 15.2). -/
def substatWord (x : Vf) : Word := BitVec.ofNat 64 (x.status.toNat + 2 ^ 8 * x.seq.toNat)

/-- PSTAT: the partition exists; CQ overflow, hang map written, link down (Table 15.1). -/
def pstatWord (x : Vf) : Word := BitVec.ofNat 64 (1 + 2 * b2n x.overflow + 4 * b2n x.hang + 8 * b2n x.linkDown)

/-- The eight bytes at an offset of the BAR0 of a virtual function whose partition has a stall-map area: WO
registers and unlisted offsets read 0. -/
def vfReg (x : Vf) (area : Word) (off : Nat) : Word :=
  if off = 0x40 then substatWord x
  else if off = 0x80 then x.cq.base else if off = 0x88 then x.cq.size
  else if off = 0x90 then BitVec.ofNat 64 x.cq.head else if off = 0x98 then BitVec.ofNat 64 x.cq.tail
  else if off = 0xC0 then x.fq.base else if off = 0xC8 then x.fq.size
  else if off = 0xD0 then BitVec.ofNat 64 x.fq.head else if off = 0xD8 then BitVec.ofNat 64 x.fq.tail
  else if off = 0x100 then x.frToken
  else if off = 0x140 then x.apctl
  else if off = 0x180 then pstatWord x
  else if off = 0x188 then area
  else if 0x1000 ≤ off ∧ off < 0x1030 then
    BitVec.ofNat 64 ((x.table.get (Fin.ofNat 3 ((off - 0x1000) / 16))).toNat / 2 ^ (64 * (off / 8 % 2)))
  else if off = 0x2000 then x.pba.zeroExtend 64
  else 0

/-- What a read of a virtual function's BAR0 returns: all ones without a partition (R410). -/
def State.vfRead (s : State) (q : Fin 32) (off : Nat) : Word :=
  match s.part q with
  | none => BitVec.allOnes 64
  | some p => vfReg (s.vfs.get q) p.mapArea off

/-- What a read of PF0's BAR0 returns (Tables 15.6 and 16.10, R148, R454). -/
def State.pfRead (s : State) (off : Nat) : Word :=
  let p := s.pf
  let half := fun (x : BitVec 128) (k : Nat) => BitVec.ofNat 64 (x.toNat / 2 ^ (64 * k))
  if off = 0x400 then 0x3F
  else if 0x420 ≤ off ∧ off < 0x440 then p.featAcc.get (Fin.ofNat 4 ((off - 0x420) / 8))
  else if off = 0x440 then BitVec.ofNat 64 (b2n p.featGo + 2 * b2n p.featDone + 4 * b2n p.featErr)
  else if off = 0x480 then p.readyCl.zeroExtend 64
  else if off = 0x488 then half p.readyRg 0 else if off = 0x490 then half p.readyRg 1
  else if off = 0x498 then p.readyCg.zeroExtend 64
  else if off = 0x4A0 then p.readyMisc.zeroExtend 64
  else if off = 0x4C0 then p.availCl.zeroExtend 64
  else if off = 0x4C8 then half p.availRg 0 else if off = 0x4D0 then half p.availRg 1
  else if off = 0x4D8 then p.availCg.zeroExtend 64
  else if off = 0x4E0 then p.availLn.zeroExtend 64
  else if 0x600 ≤ off ∧ off < 0x680 then s.mgmt.fwreg.get (Fin.ofNat 16 ((off - 0x600) / 8))
  else if off = 0x800 then p.pkgid
  else if 0x840 ≤ off ∧ off < 0x8C0 then p.lnkmap.get (Fin.ofNat 16 ((off - 0x840) / 8))
  else if 0x900 ≤ off ∧ off < 0x980 then p.lnkst.get (Fin.ofNat 16 ((off - 0x900) / 8))
  else if off = 0xC40 then p.tsstat
  else 0

/-! ### Corrupted headers (R427) -/

/-- The die of a hop. -/
def hopDie : Hop → Fin 2
  | .router d _ _ => d
  | .seam d _ => d
  | .link k => if k.val < 8 then 0 else 1
  | .host => 0

/-- SOURCE, CODE and UNIT of a quarantined header (Table 16.12). -/
def hopRecord : Hop → Nat × Nat × Nat
  | .router d x y => (2, 1, 64 * d.val + 8 * y.val + x.val)
  | .seam d y => (2, 2, 128 + 8 * d.val + y.val)
  | .link k => (3, 1, k.val)
  | .host => (3, 1, 16)

/-- What the loss of a corrupted packet leads to: a request is lost, which its requester learns by its own timeout; a header
slot of the vector net stops its route at the receiving port, and the launches of that route end with status 8. -/
def loseHeader (s : State) : Quarantined → State
  | .request g n =>
    match (s.ctx g).reqs[n]? with
    | some r => if r.stage = .sent then s.modCtx g (fun c => { c with reqs := c.reqs.set n { r with stage := .dropped } }) else s
    | none => s
  | .slot cl box code =>
    let hit := fun (b : BoxOut) => b.elem == 4096 + box.val && b.cluster == cl && b.code == code.val && b.code != 0
    let owners := (s.boxes.filter hit).map (fun b => b.owner)
    (s.launches.filter (fun l => owners.contains l.id)).foldl (fun s l => endLaunch s l.q l.c 8 0 0)
      { s with boxes := s.boxes.filter (fun b => !hit b) }
  | .other => s

/-- PACKET_QUARANTINE: the hop drops what has the corrupted header, copies it into its die's log of 16 and logs the error. -/
def execPacketQuarantine (x : Quarantine) (s : State) : Out :=
  let s1 := s.modDie (hopDie x.hop) (fun d => { d with quarantine := (d.quarantine ++ [x]).take 16 })
  let r := hopRecord x.hop
  .next (loseHeader (s1.logError (hopDie x.hop) r.1 r.2.1 r.2.2 0 0) x.what)

/-! ### Link ports (R424, R426) -/

/-- A change of a port's LNKST. -/
def State.modLink (s : State) (k : Fin 16) (f : Nat → Nat) : State :=
  { s with pf := { s.pf with lnkst := vset s.pf.lnkst k (BitVec.ofNat 64 (f (s.pf.lnkst.get k).toNat)) } }

/-- The replays of the flit in transfer on a port that have failed. -/
def State.failures (s : State) (k : Fin 16) (n : Nat) : State := { s with pf := { s.pf with lnkFail := vset s.pf.lnkFail k n } }

/-- LINK_RETRAIN: the port is up with the lanes that it has, eight or fewer, and DOWN clears (R424, R441). -/
def execLinkRetrain (port : Fin 16) (s : State) : Out :=
  if s.pf.availLn.getLsbD port.val then
    .next ((s.modLink port (fun x => putBits (putBits x 0 2 1) 2 4 (Nat.min 8 (Config.linkLanes port.val)))).failures port 0)
  else .next s

/-- Every open request of an agent that matches is lost with cause 0x12 and reason 3. -/
def loseWhere (s : State) (g : AgentId) (f : MemReq → Bool) : State :=
  (List.range (s.ctx g).reqs.length).reverse.foldl (fun s n =>
    match (s.ctx g).reqs[n]? with
    | some r => if r.stage == .sent && f r then s.loseReq g n r 0x12 3 else s
    | none => s) s

/-- PSTAT bit 3 rises. -/
def linkLost (s : State) (q : Fin 32) : State :=
  if (s.vfs.get q).linkDown then s else (s.modVf q (fun v => { v with linkDown := true })).raise q 2

/-- The tokens on their way over a port are not delivered. -/
def Launch.cutOff (k : Fin 16) (l : Launch) : Launch :=
  let on := fun (e : Edge) => e.src.port?.any (fun x => x.1 == k) || e.dst.port?.any (fun x => x.1 == k)
  { l with edges := l.edges.map (fun e => if on e then { e with inflight := [] } else e) }

/-- An address leads through a port. -/
def State.throughPort (s : State) (port : Fin 16) (pa : Nat) : Bool :=
  match targetOf pa with
  | some (.peer p) => s.peerPort p == some port
  | _ => false

/-- The piece at which an engine request stands goes through a port: its access is the one that is outstanding (DEDUCED,
log 34). -/
def EngReq.onPort (s : State) (cg : Fin 32) (port : Fin 16) (r : EngReq) : Bool :=
  r.started && r.ending.isNone && r.parked.isNone
    && (match spotOf s r r.pos with
      | .cells false _ ps _ => ps.any (fun p => match s.translate none cg r.mctx (if r.rc.dir then .write else .read) p.addr with
        | .ok x => s.throughPort port x.pa
        | _ => false)
      | _ => false)

/-- The engine requests through a port end with reason 12. -/
def loseEngines (s : State) (port : Fin 16) : State :=
  (List.finRange 32).foldl (fun s0 cg =>
    ((s.clusters.get cg).eng.filter (EngReq.onPort s cg port)).foldl (fun s1 r =>
      let o := failReq s1 cg 0 r 0x0D 12 0 (visitAddr s r)
      o.1.putReq cg o.2) s0) s

/-- A partition uses a port: by a cut edge of a launch, or by a request through it. -/
def usesPort (s : State) (port : Fin 16) (p : Partition) : Bool :=
  s.launches.any (fun l => l.q == p.q && l.onPort port)
    || (List.finRange 256).any (fun t => p.clusters.getLsbD (t.val / 8) && (List.finRange 4).any (fun c =>
        (s.ctx (.tile t c)).reqs.any (fun r => r.stage == .sent && s.throughPort port r.pa)))
    || (List.finRange 32).any (fun cg => (s.clusters.get cg).eng.any (fun r => r.q == p.q && r.onPort s cg port))

/-- LINK_PORT_DOWN: requests through the port are lost, launches with a cut edge on it end, the
partitions that use it learn of it, and firmware receives the event. -/
def execLinkPortDown (port : Fin 16) (s : State) : Out :=
  let users := s.parts.filter (usesPort s port)
  let s0 := loseEngines s port
  let s1 := allAgents.foldl (fun s1 g => loseWhere s1 g (fun r => s.throughPort port r.pa)) s0
  let s2 := s1.modLink port (fun x => putBits x 0 2 2)
  let s3 := { s2 with launches := s2.launches.map (Launch.cutOff port) }
  let s4 := (s3.launches.filter (fun l => l.onPort port)).foldl (fun s l => endLaunch s l.q l.c 8 0 0) s3
  let s5 := users.foldl (fun s p => linkLost s p.q) s4
  .next (s5.event 6 port.val 0)

/-- FLIT_REPLAY: a flit is replayed, which REPLAYS counts, saturating; the sixteenth replay of it in a row that fails takes
the port down (R424). -/
def execFlitReplay (x : FlitRetry) (s : State) : Out :=
  let s1 := s.modLink x.port (fun v => putBits v 16 32 (Nat.min (2 ^ 32 - 1) (bitsAt v 16 32 + 1)))
  let n := if x.good then 0 else s.pf.lnkFail.get x.port + 1
  if n < 16 then .next (s1.failures x.port n) else execLinkPortDown x.port (s1.failures x.port 0)

end Sys2Proof.Machine
end

