-- ==== Sys2Proof/Machine/Security.lean ====
section
/-! DEFINITION. Attestation, model keys, TEE interfaces, partitions, power-on and reset
(spec/15_host_security.md R417 to R423; R6, R389, R432, R439 to R441). -/

namespace Sys2Proof.Machine

/-! ### LMS leaves (R419) -/

/-- The leaves of a key: 2^20. -/
def leafCount : Nat := 2 ^ 20

/-- The reservation that covers the next leaf, recorded before it is used. -/
def reserve (next res : Nat) : Nat := if next < res then res else Nat.min leafCount (res + 1024)

/-- The identity key certifies the next alias with one of its leaves. -/
def Leaves.nextAlias (x : Leaves) : Option Leaves :=
  if x.idNext < leafCount then
    some { idNext := x.idNext + 1, idRes := reserve x.idNext x.idRes, aliases := x.aliases + 1, idLeaf := x.idNext, alNext := 0, alRes := 0 }
  else none

/-- An alias with a leaf left is in use: the last one certified, or one that is certified now. -/
def Leaves.ready (x : Leaves) : Option Leaves := if x.aliases ≠ 0 ∧ x.alNext < leafCount then some x else x.nextAlias

/-- The leaves after one signature of the alias key that x has ready. -/
def Leaves.sign (x : Leaves) : Leaves := { x with alNext := x.alNext + 1, alRes := reserve x.alNext x.alRes }

/-- The number of the alias in use. -/
def Leaves.number (x : Leaves) : Nat := x.aliases - 1

/-- After a reset: the next unreserved leaves. -/
def Leaves.afterReset (x : Leaves) : Leaves := { x with idNext := x.idRes, alNext := x.alRes }

/-! ### The SPDM responders (R420) -/

/-- The responder of a function. -/
def fnIndex : PciFn → Fin 33
  | .pf => 0
  | .vf q => ⟨q.val + 1, by omega⟩

def State.responder (s : State) (f : PciFn) : Spdm := s.spdm.get (fnIndex f)

def State.modSpdm (s : State) (f : PciFn) (g : Spdm → Spdm) : State :=
  { s with spdm := vset s.spdm (fnIndex f) (g (s.responder f)) }

/-- Only the answer changes. -/
def State.answer (s : State) (f : PciFn) (a : Answer) : State := s.modSpdm f (fun x => { x with answer := a })

/-- The certificate chain: that of the identity key, which Zarquel made, and that of the alias in use (R418, R419). -/
def State.chain (s : State) : List Byte :=
  Config.identityCert ++ Config.aliasCert (Config.identityKey s.root) s.leaves.idLeaf (Config.aliasKey s.root s.leaves.number)

/-- Act with an alias that has a leaf left, or ERROR(Unspecified) when the identity leaves are spent (R419). -/
def withAlias (s : State) (f : PciFn) (k : State → State) : State :=
  match s.leaves.ready with
  | some x => k { s with leaves := x }
  | none => s.answer f .unspecified

def execGetVersion (f : PciFn) (s : State) : Out := .next (s.modSpdm f (fun x => { x with version := true, answer := .ok }))

def execGetCapabilities (f : PciFn) (s : State) : Out := .next (s.modSpdm f (fun x => { x with caps := true, answer := .ok }))

/-- NEGOTIATE_ALGORITHMS: ok says whether the requester offers the algorithms of R420; without them the answer is an error
(log 35). -/
def execNegotiateAlgorithms (f : PciFn) (ok : Bool) (s : State) : Out :=
  .next (s.modSpdm f (fun x => { x with algs := ok, answer := if ok then .ok else .unspecified }))

def execGetDigests (f : PciFn) (s : State) : Out := .next (withAlias s f (fun s => s.answer f (.digest (Config.chainHash s.chain))))

def execGetCertificate (f : PciFn) (s : State) : Out := .next (withAlias s f (fun s => s.answer f (.certificate s.chain)))

/-- An answer to request code with index and nonce, signed by the alias key with its next leaf. The model numbers the
requests that are signed: 0 CHALLENGE, 1 GET_MEASUREMENTS, 2 KEY_EXCHANGE. -/
def signedAnswer (s : State) (f : PciFn) (code index : Nat) (nonce : BitVec 256) (k : State → State) : State :=
  withAlias s f (fun s =>
    let sig := Config.spdmSign (Config.aliasKey s.root s.leaves.number) s.leaves.alNext (fnIndex f).val code index nonce
    (k { s with leaves := s.leaves.sign }).modSpdm f (fun x => { x with sig := sig }))

def execChallenge (r : SignedRequest) (s : State) : Out :=
  .next (signedAnswer s r.f 0 0 r.nonce (fun s => s.answer r.f (.digest (Config.chainHash s.chain))))

/-- The content of a measurement index (Table 15.4). -/
def measurementOf (s : State) (f : PciFn) (index : Nat) : Answer :=
  if index = 1 ∨ index = 2 ∨ index = 3 then .digest (Config.measurement index)
  else match f with
    | .pf => .empty
    | .vf q => match s.part q with
      | some p => .partition p.clusters p.keys (Config.keyHash p.owner) (s.vfs.get q).tdi
      | none => .empty

/-- GET_MEASUREMENTS: an index that Table 15.4 does not list has nothing to answer. -/
def execGetMeasurements (r : SignedRequest) (index : Nat) (s : State) : Out :=
  if index = 0 ∨ 4 < index then .next (s.answer r.f .unspecified)
  else .next (signedAnswer s r.f 1 index r.nonce (fun s => s.answer r.f (measurementOf s r.f index)))

/-- KEY_EXCHANGE: with the algorithms negotiated, a new session begins and ends any earlier one of the function (R420); with
the identity leaves spent every new session is refused (R419). -/
def execKeyExchange (r : SignedRequest) (s : State) : Out :=
  if leafCount ≤ s.leaves.idNext || !(s.responder r.f).algs then .next (s.answer r.f .unspecified)
  else .next (signedAnswer s r.f 2 0 r.nonce (fun s => s.modSpdm r.f (fun x =>
    { x with session := 1, number := x.number + 1, updates := 0, answer := .ok })))

/-- An exchange that needs the session at a stage. -/
def inSession (s : State) (f : PciFn) (stage : Nat) (k : Spdm → Spdm) : State :=
  if (s.responder f).session = stage then s.modSpdm f (fun x => { k x with answer := .ok }) else s.answer f .unspecified

def execFinish (f : PciFn) (s : State) : Out := .next (inSession s f 1 (fun x => { x with session := 2 }))

def execHeartbeat (f : PciFn) (s : State) : Out := .next (inSession s f 2 id)

def execKeyUpdate (f : PciFn) (s : State) : Out := .next (inSession s f 2 (fun x => { x with updates := x.updates + 1 }))

/-- END_SESSION: no key is erased (R422). -/
def execEndSession (f : PciFn) (s : State) : Out := .next (inSession s f 2 (fun x => { x with session := 0, updates := 0 }))

def execUnsupportedRequest (f : PciFn) (s : State) : Out := .next (s.answer f .unsupported)

/-! ### Model keys (R421, R422, Table 15.5) -/

/-- A key request: in the open session of the function, for a slot its partition owns (status 1). -/
def keyRequest (s : State) (q : Fin 32) (slot : Fin 4096) (k : Unit → State) : State :=
  if (s.responder (.vf q)).session ≠ 2 then s.answerVf q .unspecified
  else match s.part q with
    | some p => if p.keys.contains slot then k () else s.answerVf q (.status 1)
    | none => s.answerVf q (.status 1)

/-- A key request of this slot has not ended. -/
def State.slotBusy (s : State) (slot : Fin 4096) : Bool := s.erasing.any (fun j => j.slot == slot)

/-- KEYLOAD: at once, or behind the key requests of its slot that came before it (R422). -/
def execKeyload (q : Fin 32) (slot : Fin 4096) (hostvis : Bool) (wrapped : BitVec 576) (s : State) : Out :=
  let n := (s.responder (.vf q)).number
  .next (keyRequest s q slot (fun _ =>
    if s.slotBusy slot then ({ s with erasing := s.erasing ++ [.load q slot hostvis wrapped n] } : State).answerVf q .none
    else loadKey s q slot hostvis wrapped n))

/-- KEYERASE: an access that translates from now on finds the slot empty; where requests hold it, its lines leave the slices
and the response is sent after they have completed. It waits behind the key requests of its slot that came before. -/
def execKeyerase (q : Fin 32) (slot : Fin 4096) (s : State) : Out :=
  .next (keyRequest s q slot (fun _ =>
    let o := if s.slotBusy slot then (s, some (.erase q slot none [] true)) else stepKeyJob s (.erase q slot none [] true)
    match o.2 with
    | none => o.1
    | some j => ({ o.1 with erasing := o.1.erasing ++ [j] } : State).answerVf q .none))

/-- KEYSTAT. -/
def execKeystat (q : Fin 32) (slot : Fin 4096) (s : State) : Out :=
  .next (keyRequest s q slot (fun _ =>
    s.answerVf q (.status (match s.loaded slot with | none => 0 | some k => if k.hostvis then 5 else 4))))

/-! ### IDE and TDISP (R423) -/

/-- IDE_KM: PF0's session keys any stream, a virtual function's own session the selective ones. -/
def execIdeKm (f : PciFn) (stream : Fin 33) (s : State) : Out :=
  if !s.featured 0 then .next (s.answer f .unsupported)
  else
    let may := match f with | .pf => true | .vf _ => stream != 0
    if (s.responder f).session = 2 && may then .next ({ s with ide := setBit s.ide stream.val true }.answer f .ok)
    else .next (s.answer f .unspecified)

/-- LOCK_INTERFACE: the BAR layout, the partition's composition and APCTL are frozen. The row stands for the request that
starts a locked interface, too: the TDI is then in RUN, which R422 and R423 name (log 37). -/
def execLockInterface (r : TdiRequest) (s : State) : Out :=
  if !s.featured 1 then .next (s.answerVf r.q .unsupported)
  else match (s.vfs.get r.q).tdi, r.start with
    | .unlocked, false => .next ((s.modVf r.q (fun x => { x with tdi := .locked })).answerVf r.q .ok)
    | .locked, true => .next ((s.modVf r.q (fun x => { x with tdi := .run })).answerVf r.q .ok)
    | _, _ => .next (s.answerVf r.q .unspecified)

/-- TDI_UNLOCK: a TDI moves to ERROR or to CONFIG_UNLOCKED. -/
def execTdiUnlock (q : Fin 32) (error : Bool) (s : State) : Out :=
  let t : Tdi := if error then .error else .unlocked
  if (s.vfs.get q).tdi = t then .next s else .next (leaveRun s q t)

/-! ### Partitions (R417, R441) -/

/-- The clusters, key slots and windows asked for may make a partition. -/
def mayCreate (s : State) (q : Fin 32) (clusters : BitVec 32) (keys : List (Fin 4096)) : Bool :=
  (s.part q).isNone && clusters != 0 && (clusters &&& ~~~s.pf.availCl) == 0 && (clusters &&& s.pf.availCg) != 0
    && s.parts.all (fun p => (p.clusters &&& clusters) == 0 && p.keys.all (fun k => !keys.contains k))
    && keys.all (fun k => !s.slotBusy k)

/-- A tile with everything zeroed that its last owner may have left. -/
def Tile.zeroed (y : Tile) : Tile :=
  { y with scratch := Memory.empty, imem := [], banks := Vector.replicate 4 (Vector.replicate 128 ⟨0, 0⟩) }

/-- A cluster whose slices hold no line. -/
def Cluster.zeroed (x : Cluster) : Cluster :=
  { x with slices := Vector.ofFn (fun n => { x.slices.get n with lines := [], miss := [] }) }

/-- The resources of a partition are zeroed. -/
def zeroUnits (s : State) (clusters : BitVec 32) : State :=
  { s with
    tiles := Vector.ofFn (fun t => if clusters.getLsbD (t.val / 8) then (s.tiles.get t).zeroed else s.tiles.get t)
    clusters := Vector.ofFn (fun i => if clusters.getLsbD i.val then (s.clusters.get i).zeroed else s.clusters.get i)
    regions := Vector.ofFn (fun r => if clusters.getLsbD (r.val / 4) then (s.regions.get r).released else s.regions.get r) }

/-- PARTITION_CREATE: at PF0's request, with its resources zeroed, and the window of its available channel groups (R35,
R441); a request that breaks a rule is refused. -/
def execPartitionCreate (q : Fin 32) (clusters : BitVec 32) (keys : List (Fin 4096)) (peer host : Bool) (owner : BitVec 256)
    (mapArea : Word) (s : State) : Out :=
  let s0 := hostRequest s
  if mayCreate s0 q clusters keys then
    let s1 := eraseSlots (zeroUnits s0 clusters) keys
    let win : Word := BitVec.ofNat 64 ((clusters &&& s1.pf.availCg).toNat + 2 ^ 32 * b2n peer + 2 ^ 33 * b2n host)
    .next { s1 with parts := s1.parts ++ [⟨q, clusters, keys, peer, host, owner, mapArea⟩], xltWin := vset s1.xltWin q win }
  else .next s0

/-- A launch of a partition that is destroyed completes, its record written where that is possible. -/
def finishLaunch (s : State) (p : Partition) (l : Launch) : State :=
  let s1 := endLaunch s l.q l.c 8 0 0
  match s1.launch l.q l.c with
  | none => s1
  | some x =>
    let s2 := completeLaunch s1 p x
    match s2.launch l.q l.c with
    | some y => completeUnwritten s2 p y
    | none => s2

/-- PARTITION_DESTROY: its launches end with status 8, its key slots are erased as R422 states, its units are free. A change of
its composition moves a locked TDI to ERROR (R423). -/
def execPartitionDestroy (q : Fin 32) (s : State) : Out :=
  let s0 := hostRequest s
  match s0.part q with
  | none => .next s0
  | some p =>
    let s1 := (s0.launches.filter (fun l => l.q == q)).foldl (fun s l => finishLaunch s p l) s0
    let s2 := eraseAll s1 p []
    let s3 := s2.modVf q (fun x => { x with tdi := if x.tdi.frozen then .error else x.tdi })
    .next { s3 with
      parts := s3.parts.filter (fun x => x.q != q), aper := s3.aper.filter (fun a => a.q != q), shelf := s3.shelf.filter (fun l => l.q != q), xltWin := vset s3.xltWin q 0
      saves := s3.saves.filter (fun v => !s3.shelf.any (fun l => l.q == q && l.id == v.launch)) }

/-! ### Power-on and reset (R418, R419, R432) -/

/-- A slot of an actor of the firmware image. -/
def fwSlot (a : FwActor) (n : Fin 16) : Option SlotBind := (a.slots.find? (fun x => x.1 == n)).map (fun x => ⟨x.2.1, x.2.2.1, x.2.2.2⟩)

/-- Actor i of a firmware image. -/
def fwInst (a : FwActor) (i : Nat) : Inst :=
  { num := i, tile := 0, prio := a.prio, handler := a.handler, entry := a.entry, state := 0, slots := Vector.ofFn (fwSlot a),
    enabled := true, wanted := [], started := 0, ended := 0, eosDone := 0, lastFired := none }

/-- The end of a firmware edge: the actor that binds it, or, of the event edge, the sources of events, for which a link stands. -/
def fwEnd (w : Firmware) (edge : Nat) (out : Bool) : Endpoint :=
  let at_ := (w.actors.zipIdx.flatMap (fun a => (List.finRange 16).map (fun n => (a.2, n, fwSlot a.1 n)))).find? (fun x =>
    match x.2.2 with | some b => b.edge == edge && b.out == out | none => false)
  match at_ with
  | some x => .actor x.1 x.2.1
  | none => .link 0 0

/-- An edge of a firmware image, empty. -/
def fwEdge (w : Firmware) (x : Nat × Nat × Nat) : Edge :=
  { num := x.1, tokSize := x.2.1, depth := x.2.2, src := fwEnd w x.1 true, dst := fwEnd w x.1 false, way := none, base := none,
    arrived := 0, queue := [], inflight := [], credits := x.2.2, returning := 0, ended := false, crossed := 0 }

/-- A record that grants the management core's instruction memory and its token queues. -/
def firmwareRecord : BitVec 512 := BitVec.ofNat 512 (0x40000 * 2 ^ 146 + 0xFFFF * 2 ^ 176)

/-- The firmware as the management core runs it: its actors are enabled (R436, R439, log 66). -/
def fwLaunch (w : Firmware) : Launch :=
  { id := 0, q := 0, c := 0, rcd := firmwareRecord, phase := .sourced, doneDies := [], awaiting := [], mctx := 0, parked := none,
    ending := none, insts := w.actors.zipIdx.map (fun a => fwInst a.1 a.2), edges := w.edges.map (fwEdge w), handles := [], groups := [],
    tiles := [], ranges := [], routes := [], vcs := [], regions := [], staSlots := [], pushes := [], boxes := [], notify := none,
    saving := [], saved := [] }

/-- The management core with the firmware image that it has verified (R439, log 66). -/
def Mgmt.booted : Option Firmware → Mgmt
  | some w => { Mgmt.reset with imem := cellsWrite [] 0 w.code, fw := some (fwLaunch w) }
  | none => Mgmt.reset

/-- What the configuration image and its flash give the machine after any reset: its root secret, its firmware, the leaf
indices and the availability map (R418, R419, R439, R441). -/
def configured (s : State) : State :=
  { State.reset with
    leaves := s.leaves.afterReset, hostMem := s.hostMem, root := Config.rootSecret, mgmt := Mgmt.booted Config.firmware
    pf := { Pf0.reset with availCl := s.pf.availCl, availRg := s.pf.availRg, availCg := s.pf.availCg, availLn := s.pf.availLn } }

/-- POWER_ON: the root secret is derived and the images verified; every register is at its reset value. -/
def execPowerOn (s : State) : Out := .next (configured s)

/-- The memories of a tile outlast a device reset. -/
def Tile.afterReset (y : Tile) : Tile := { Tile.reset with scratch := y.scratch, imem := y.imem, banks := y.banks }

/-- DEVICE_RESET: reset values everywhere; a stack that was shut down has power again, RS bits, the lock
of PKGID and feature negotiation are clear; what memories hold stays. -/
def execDeviceReset (s : State) : Out :=
  .next { configured s with
    mem := s.mem, lineKeys := s.lineKeys, tiles := Vector.ofFn (fun t => (s.tiles.get t).afterReset) }

end Sys2Proof.Machine
end

