-- ==== Sys2Proof/Machine/Power.lean ====
section
/-! DEFINITION. Memory errors, thermal protection, self-refresh and the current limiter
(spec/16_memory_power.md R428 to R439; R396, R451). -/

namespace Sys2Proof.Machine

/-! ### Memory errors (R396, R437) -/

/-- Counters saturate at 2^32 − 1. -/
def bump (n : Nat) : Nat := Nat.min (2 ^ 32 - 1) (n + 1)

/-- An uncorrectable error of a local HBM address: its sector is poisoned, UE counts, and it is logged. -/
def hbmError (s : State) (pa : Nat) : State :=
  let g := cgOf pa
  let s1 := { s with mem := s.mem.poisonSector (pa / 32) }.modCluster g (fun x => { x with ue := bump x.ue })
  s1.logError (dieOfCluster g) 1 2 g.val (s1.clusters.get g).ue pa

/-- UNCORRECTABLE_ERROR: detected in HBM, in a slice or in a scratchpad. -/
def execUncorrectableError (p : ErrPlace) (s : State) : Out :=
  match p with
  | .hbm pa | .slice pa => if targetOf pa = some .hbm then .next (hbmError s pa) else .next s
  | .scratch t off =>
    if off < 0x180000 then .next (s.modTile t (fun y => { y with scratch := y.scratch.poisonSector (off / 32) })) else .next s

/-- CORRECTED_ERROR: CE counts and it is logged; the data are right. -/
def execCorrectedError (pa : Nat) (s : State) : Out :=
  if targetOf pa ≠ some .hbm then .next s
  else
    let g := cgOf pa
    let s1 := s.modCluster g (fun x => { x with ce := bump x.ce })
    .next (s1.logError (dieOfCluster g) 1 1 g.val (s1.clusters.get g).ce pa)

/-! ### Thermal protection (R430 to R432, R451) -/

/-- The thresholds of HBM_THR: T1 to T3. -/
def threshold (thr : Word) (level : Nat) : Int := (bitsAt thr.toNat (8 * level) 8 : Nat)

def hysteresis (thr : Word) : Int := (bitsAt thr.toNat 32 4 : Nat)

/-- LEVEL after a sample (R431): up to the highest threshold reached, down one step below the level's
threshold less HYST. -/
def nextLevel (thr : Word) (level : Fin 4) (t : Int) : Fin 4 :=
  let up : Fin 4 := if threshold thr 3 ≤ t then 3 else if threshold thr 2 ≤ t then 2 else if threshold thr 1 ≤ t then 1 else 0
  if level < up then up
  else if level ≠ 0 ∧ t < threshold thr level.val - hysteresis thr then level - 1 else level

/-- A sensor after a sample. -/
def Sensor.sample (x : Sensor) (thr : Word) (t : BitVec 8) : Sensor :=
  { temp := t, valid := true, level := nextLevel thr x.level t.toInt, hot := x.hot || decide (threshold thr 3 ≤ t.toInt) }

/-- The sensors of a stack. -/
def Hbm.layers (h : Hbm) (k : Fin 8) : List Sensor :=
  ((List.finRange 128).filter (fun n => stackOfSensor n == k)).map (fun n => h.sensors.get n)

/-- The thermal level of a stack: the highest LEVEL among its layers. -/
def Hbm.level (h : Hbm) (k : Fin 8) : Nat := (h.layers k).foldl (fun m x => Nat.max m x.level.val) 0

/-- The hottest TEMP of a stack, among the layers that have been sampled. -/
def Hbm.hottest (h : Hbm) (k : Fin 8) : BitVec 8 :=
  match (h.layers k).filter (fun x => x.valid) with
  | [] => 0
  | x :: xs => xs.foldl (fun m y => if m.toInt < y.temp.toInt then y.temp else m) x.temp

/-- The die of a stack (Table 0.3). -/
def dieOfStack (k : Fin 8) : Fin 2 := if k.val < 4 then 0 else 1

/-- The stack of a request's address. -/
def onStack (k : Fin 8) (pa : Nat) : Bool := targetOf pa == some .hbm && stackOf (cgOf pa) == k

/-- The contents of a stack are lost. -/
def Memory.without (m : Memory) (k : Fin 8) : Memory :=
  { cells := m.cells.filter (fun c => !onStack k c.1), poison := m.poison.filter (fun x => !onStack k (x * 32)) }

/-- Level 3: power is removed, the contents and the requests are lost, the channel groups are no longer
ready, and the launches of their partitions end with status 8 (R432, R439). -/
def shutDown (s : State) (k : Fin 8) : State :=
  let groups : BitVec 32 := BitVec.ofNat 32 (15 * 2 ^ (4 * k.val))
  let s1 := allAgents.foldl (fun s g => loseWhere s g (fun r => onStack k r.pa)) s
  let s2 := { s1 with
    mem := s1.mem.without k
    lineKeys := s1.lineKeys.filter (fun x => !onStack k (x.1 * 128))
    hbm := { s1.hbm with stack := vset s1.hbm.stack k { s1.hbm.stack.get k with powered := false } }
    pf := { s1.pf with readyCg := s1.pf.readyCg &&& ~~~groups } }
  (s2.launches.filter (fun l => match s2.part l.q with | some p => (p.clusters &&& groups) != 0 | none => false)).foldl
    (fun s l => endLaunch s l.q l.c 8 0 0) s2

/-- The alert event of a stack that has changed zone (R451). -/
def zoneEvent (s : State) (k : Fin 8) (old new : Zone) : State :=
  if old = new ∨ new = .band then s
  else s.event 0 k.val ((s.hbm.hottest k).toNat + if new = .below then 2 ^ 15 else 0)

/-- The event of a stack whose level has changed. -/
def levelEvent (s : State) (k : Fin 8) (old new : Nat) : State := if old = new then s else s.event 1 k.val new

/-- The stack's state after a sample: zone, and one idle slot in 4 again with every layer below T2. -/
def Stack.sampled (x : Stack) (h : Hbm) (k : Fin 8) : Stack :=
  { x with zone := zoneOf h k
           halfIdle := x.halfIdle && (h.layers k).any (fun y => y.valid && decide (threshold h.thr 2 ≤ y.temp.toInt)) }

/-- THERMAL_SAMPLE: sensor n is sampled. -/
def execThermalSample (n : Fin 128) (temp : BitVec 8) (s : State) : Out :=
  let k := stackOfSensor n
  let h0 := s.hbm
  let h1 := { h0 with sensors := vset h0.sensors n ((h0.sensors.get n).sample h0.thr temp) }
  let h2 := { h1 with stack := vset h1.stack k ((h1.stack.get k).sampled h1 k) }
  let s1 := { s with hbm := h2 }
  let s2 := zoneEvent s1 k (h0.stack.get k).zone (h2.stack.get k).zone
  let s3 := levelEvent s2 k (h0.level k) (h2.level k)
  .next (if h2.level k = 3 ∧ (h2.stack.get k).powered then shutDown s3 k else s3)

/-- LEVEL2_ESCALATION: after 1 ms at level 2 with a layer at T2, one idle slot in every 2. -/
def execLevel2Escalation (stack : Fin 8) (s : State) : Out :=
  let h := s.hbm
  if h.level stack = 2 && (h.layers stack).any (fun y => y.valid && decide (threshold h.thr 2 ≤ y.temp.toInt)) then
    .next { s with hbm := { h with stack := vset h.stack stack { h.stack.get stack with halfIdle := true } } }
  else .next s

/-! ### Self-refresh (R429) -/

/-- A request to a pseudo-channel is open. -/
def pseudoBusy (s : State) (pc : Fin 512) : Bool :=
  allAgents.any (fun g => (s.ctx g).reqs.any (fun r => r.stage == .sent && targetOf r.pa == some .hbm && pseudoOf r.pa == pc))
    || (List.finRange 32).any (fun i => (List.finRange 10).any (fun n =>
        ((s.clusters.get i).slices.get n).miss.any (fun e => pseudoOf (e.line * 128) == pc)))

/-- SELF_REFRESH_ENTRY: an idle pseudo-channel enters self-refresh, unless the IDLE that its timer started with disables entry
(R429). -/
def execSelfRefreshEntry (pc : Fin 512) (s : State) : Out :=
  if s.hbm.srIdle.get pc ≠ 0 && !pseudoBusy s pc then
    .next { s with hbm := { s.hbm with asleep := setBit s.hbm.asleep pc.val true } }
  else .next s

/-! ### The current limiter (R434) -/

/-- LIM changes; the limiter event fires when it leaves 16 or returns to it. -/
def setLim (s : State) (v : Fin 32) : State :=
  let s1 := { s with lim := v }
  if s.lim ≠ v ∧ (s.lim = 16 ∨ v = 16) then s1.event 2 0 v.val else s1

/-- LIMITER_ENGAGE: above 5,000 A LIM is 8. -/
def execLimiterEngage (s : State) : Out := .next (setLim s 8)

/-- LIMITER_STEP_DOWN: down to 1. -/
def execLimiterStepDown (s : State) : Out := .next (setLim s (if s.lim ≤ 1 then s.lim else s.lim - 1))

/-- LIMITER_STEP_UP: up to 16. -/
def execLimiterStepUp (s : State) : Out := .next (setLim s (if 16 ≤ s.lim then s.lim else s.lim + 1))

end Sys2Proof.Machine
end

