-- ==== Sys2Proof/Machine/Scalar.lean ====
section
/-! DEFINITION. Scalar, address and control instructions, OP 0x01 to 0x0B and 0x20 to 0x23
(spec/04_scalar_control.md). -/

namespace Sys2Proof.Machine

/-! ### Shared forms -/

/-- S[D] := f(S[A], S[B]), poisoned when a source is (R99). -/
def scalar2 (i : Instr) (d a b : Fin 32) (f : Word → Word → Word) (s : State) : Out :=
  issue i [] s fun s => s.onCtx fun c => c.writeS d (f (c.readS a) (c.readS b)) (c.poisS a || c.poisS b)

/-- S[D] := f(S[A]), poisoned when the source is (R99). -/
def scalar1 (i : Instr) (d a : Fin 32) (f : Word → Word) (s : State) : Out :=
  issue i [] s fun s => s.onCtx fun c => c.writeS d (f (c.readS a)) (c.poisS a)

/-- S[D] := v, poison cleared. -/
def scalar0 (i : Instr) (d : Fin 32) (f : Ctx → Word) (s : State) : Out :=
  issue i [] s fun s => s.onCtx fun c => c.writeS d (f c) false

/-- The arithmetic of R105: exact on Val of both sources, clamped when sat, written by Put. -/
def arith (t : Ty) (sat : Bool) (f : Int → Int → Int) (x y : Word) : Word :=
  let r := f (t.val x.toNat) (t.val y.toNat)
  t.put (if sat then clampInt t.lo t.hi r else r)

/-- The bit operations of R107: on the w low bits of both, written by Put. -/
def bitop (t : Ty) (f : Nat → Nat → Int) (x y : Word) : Word :=
  t.put (f (x.toNat % 2 ^ t.width) (y.toNat % 2 ^ t.width))

/-- The shifts of R107: the count is S[B] mod w. -/
def shiftop (t : Ty) (f : Nat → Nat → Int) (x y : Word) : Word :=
  t.put (f (x.toNat % 2 ^ t.width) (y.toNat % t.width))

/-! ### Results (R105 to R110) -/

/-- floor(a × b / 2^w) (R105). -/
def mulHigh (t : Ty) (a b : Int) : Int := a * b / ((2 ^ t.width : Nat) : Int)

/-- Quot(a, b) (Table 4.3). -/
def quot (t : Ty) (a b : Int) : Int :=
  if b = 0 then -1 else if t.signed ∧ a = t.lo ∧ b = -1 then t.lo else a.tdiv b

/-- Rem(a, b) (Table 4.3). -/
def remOf (t : Ty) (a b : Int) : Int :=
  if b = 0 then a else if t.signed ∧ a = t.lo ∧ b = -1 then 0 else a - b * quot t a b

def minInt (a b : Int) : Int := if a ≤ b then a else b
def maxInt (a b : Int) : Int := if a ≥ b then a else b

/-- x × 2^n, as in shl. -/
def shlNat (x n : Nat) : Int := (x * 2 ^ n : Nat)
/-- floor(x / 2^n), as in shr. -/
def shrNat (x n : Nat) : Int := (x / 2 ^ n : Nat)
/-- floor(Sext(x, w) / 2^n), as in sar. -/
def sarNat (w x n : Nat) : Int := sextInt x w / ((2 ^ n : Nat) : Int)
/-- Rotate left within w bits, as in rol. -/
def rolNat (w x n : Nat) : Int := (x * 2 ^ n + x / 2 ^ (w - n) : Nat)

/-- The w / 8 bytes in reverse order (R108). -/
def bswapNat : Nat → Nat → Nat
  | 0, _ => 0
  | n + 1, x => x % 256 * 2 ^ (8 * n) + bswapNat n (x / 256)

/-! ### OP 0x01 -/

def execAdd (h : Hdr) (d a b : Fin 32) (ty : Ty) (sat : Bool) (s : State) : Out :=
  scalar2 (.add h d a b ty sat) d a b (arith ty sat (· + ·)) s

def execSub (h : Hdr) (d a b : Fin 32) (ty : Ty) (sat : Bool) (s : State) : Out :=
  scalar2 (.sub h d a b ty sat) d a b (arith ty sat (· - ·)) s

def execMul (h : Hdr) (d a b : Fin 32) (ty : Ty) (sat : Bool) (s : State) : Out :=
  scalar2 (.mul h d a b ty sat) d a b (arith ty sat (· * ·)) s

def execMulh (h : Hdr) (d a b : Fin 32) (ty : Ty) (s : State) : Out :=
  scalar2 (.mulh h d a b ty) d a b (arith ty false (mulHigh ty)) s

def execDiv (h : Hdr) (d a b : Fin 32) (ty : Ty) (s : State) : Out :=
  scalar2 (.div h d a b ty) d a b (arith ty false (quot ty)) s

def execRem (h : Hdr) (d a b : Fin 32) (ty : Ty) (s : State) : Out :=
  scalar2 (.rem h d a b ty) d a b (arith ty false (remOf ty)) s

def execMin (h : Hdr) (d a b : Fin 32) (ty : Ty) (s : State) : Out :=
  scalar2 (.min h d a b ty) d a b (arith ty false minInt) s

def execMax (h : Hdr) (d a b : Fin 32) (ty : Ty) (s : State) : Out :=
  scalar2 (.max h d a b ty) d a b (arith ty false maxInt) s

/-! ### OP 0x02 -/

def execAnd (h : Hdr) (d a b : Fin 32) (ty : Ty) (s : State) : Out :=
  scalar2 (.and h d a b ty) d a b (bitop ty (fun x y => (x &&& y : Nat))) s

def execOr (h : Hdr) (d a b : Fin 32) (ty : Ty) (s : State) : Out :=
  scalar2 (.or h d a b ty) d a b (bitop ty (fun x y => (x ||| y : Nat))) s

def execXor (h : Hdr) (d a b : Fin 32) (ty : Ty) (s : State) : Out :=
  scalar2 (.xor h d a b ty) d a b (bitop ty (fun x y => (x ^^^ y : Nat))) s

def execAndn (h : Hdr) (d a b : Fin 32) (ty : Ty) (s : State) : Out :=
  scalar2 (.andn h d a b ty) d a b (bitop ty (fun x y => (x &&& (2 ^ ty.width - 1 - y) : Nat))) s

def execShl (h : Hdr) (d a b : Fin 32) (ty : Ty) (s : State) : Out :=
  scalar2 (.shl h d a b ty) d a b (shiftop ty shlNat) s

def execShr (h : Hdr) (d a b : Fin 32) (ty : Ty) (s : State) : Out :=
  scalar2 (.shr h d a b ty) d a b (shiftop ty shrNat) s

def execSar (h : Hdr) (d a b : Fin 32) (ty : Ty) (s : State) : Out :=
  scalar2 (.sar h d a b ty) d a b (shiftop ty (sarNat ty.width)) s

def execRol (h : Hdr) (d a b : Fin 32) (ty : Ty) (s : State) : Out :=
  scalar2 (.rol h d a b ty) d a b (shiftop ty (rolNat ty.width)) s

/-! ### OP 0x04 (R108, R109) -/

def execClz (h : Hdr) (d a : Fin 32) (ty : Ty) (s : State) : Out :=
  scalar1 (.clz h d a ty) d a (fun x => BitVec.ofNat 64 (leadZeros ty.width x.toNat)) s

def execCtz (h : Hdr) (d a : Fin 32) (ty : Ty) (s : State) : Out :=
  scalar1 (.ctz h d a ty) d a (fun x => BitVec.ofNat 64 (trailZeros ty.width x.toNat)) s

def execPopc (h : Hdr) (d a : Fin 32) (ty : Ty) (s : State) : Out :=
  scalar1 (.popc h d a ty) d a (fun x => BitVec.ofNat 64 (popCount ty.width x.toNat)) s

def execBswap (h : Hdr) (d a : Fin 32) (ty : Ty) (s : State) : Out :=
  scalar1 (.bswap h d a ty) d a (fun x => ty.put (bswapNat (ty.width / 8) (x.toNat % 2 ^ ty.width) : Nat)) s

def execSext (h : Hdr) (d a : Fin 32) (b : Fin 64) (s : State) : Out :=
  scalar1 (.sext h d a b) d a (fun x => wordOfInt (sextInt x.toNat (b.val + 1))) s

/-! ### OP 0x05 to 0x09 (R110 to R115) -/

def execAddi (h : Hdr) (d a : Fin 32) (imm : BitVec 32) (s : State) : Out :=
  scalar1 (.addi h d a imm) d a (fun x => x + imm.signExtend 64) s

def execMuli (h : Hdr) (d a : Fin 32) (imm : BitVec 32) (s : State) : Out :=
  scalar1 (.muli h d a imm) d a (fun x => x * imm.signExtend 64) s

def execAndi (h : Hdr) (d a : Fin 32) (imm : BitVec 32) (s : State) : Out :=
  scalar1 (.andi h d a imm) d a (fun x => x &&& imm.signExtend 64) s

def execOri (h : Hdr) (d a : Fin 32) (imm : BitVec 32) (s : State) : Out :=
  scalar1 (.ori h d a imm) d a (fun x => x ||| imm.signExtend 64) s

def execXori (h : Hdr) (d a : Fin 32) (imm : BitVec 32) (s : State) : Out :=
  scalar1 (.xori h d a imm) d a (fun x => x ^^^ imm.signExtend 64) s

def execShli (h : Hdr) (d a : Fin 32) (n : Fin 64) (s : State) : Out :=
  scalar1 (.shli h d a n) d a (fun x => x <<< n.val) s

def execShri (h : Hdr) (d a : Fin 32) (n : Fin 64) (s : State) : Out :=
  scalar1 (.shri h d a n) d a (fun x => x >>> n.val) s

def execSari (h : Hdr) (d a : Fin 32) (n : Fin 64) (s : State) : Out :=
  scalar1 (.sari h d a n) d a (fun x => x.sshiftRight n.val) s

def execLdi (h : Hdr) (d : Fin 32) (imm : BitVec 45) (s : State) : Out :=
  scalar0 (.ldi h d imm) d (fun _ => imm.signExtend 64) s

def execLdih (h : Hdr) (d a : Fin 32) (imm : BitVec 32) (s : State) : Out :=
  scalar1 (.ldih h d a imm) d a (fun x => imm ++ x.truncate 32) s

def execLea (h : Hdr) (d a b : Fin 32) (sh : Fin 16) (disp : BitVec 8) (s : State) : Out :=
  scalar2 (.lea h d a b sh disp) d a b (fun x y => x + (y <<< sh.val) + disp.signExtend 64) s

/-! ### Comparisons (R113, R114) -/

/-- P[D] := c, and P[C] := NOT c unless C = 0. -/
def Ctx.setCond (c : Ctx) (d e : Fin 16) (v : Bool) : Ctx := (c.writeP d v).writeP e (!v)

def execCmp (h : Hdr) (cond : Cond) (d e : Fin 16) (a b : Fin 32) (ty : Ty) (s : State) : Out :=
  issue (.cmp h cond d e a b ty) [.s a, .s b] s fun s =>
    orTrap [poisonS s.me [a, b]] <|
      s.onCtx fun c => c.setCond d e (cmpInt cond (ty.val (c.readS a).toNat) (ty.val (c.readS b).toNat))

def execCmpi (h : Hdr) (cond : Cond) (d : Fin 16) (a : Fin 32) (ty : Ty) (imm : BitVec 32) (s : State) : Out :=
  issue (.cmpi h cond d a ty imm) [.s a] s fun s =>
    orTrap [poisonS s.me [a]] <|
      s.onCtx fun c => c.writeP d
        (cmpInt cond (ty.val (c.readS a).toNat) (ty.val (imm.signExtend 64 : Word).toNat))

/-! ### Moves and selection (R116, R117) -/

/-- The value and poison of the chosen register only. -/
def execSel (h : Hdr) (d : Fin 32) (p : Fin 16) (a b : Fin 32) (s : State) : Out :=
  issue (.sel h d p a b) [] s fun s => s.onCtx fun c =>
    if c.readP p then c.writeS d (c.readS a) (c.poisS a) else c.writeS d (c.readS b) (c.poisS b)

def execMovSS (h : Hdr) (d a : Fin 32) (s : State) : Out := scalar1 (.movSS h d a) d a (fun x => x) s

def execMovPS (h : Hdr) (d : Fin 16) (a : Fin 32) (s : State) : Out :=
  issue (.movPS h d a) [.s a] s fun s =>
    orTrap [poisonS s.me [a]] <| s.onCtx fun c => c.writeP d ((c.readS a).getLsbD 0)

def execMovSP (h : Hdr) (d : Fin 32) (a : Fin 16) (s : State) : Out :=
  scalar0 (.movSP h d a) d (fun c => BitVec.ofNat 64 (b2n (c.readP a))) s

def execMovKS (h : Hdr) (d : Fin 8) (a : Fin 32) (s : State) : Out :=
  issue (.movKS h d a) [.s a] s fun s =>
    orTrap [poisonS s.me [a]] <| s.onCtx fun c => c.writeK d (c.readS a)

def execMovSK (h : Hdr) (d : Fin 32) (a : Fin 8) (s : State) : Out :=
  scalar0 (.movSK h d a) d (fun c => c.readK a) s

def execMovKK (h : Hdr) (d a : Fin 8) (s : State) : Out :=
  issue (.movKK h d a) [] s fun s => s.onCtx fun c => c.writeK d (c.readK a)

/-! ### Branches, calls and returns (R119 to R121) -/

/-- (PC + OFF32 × 8) mod 2^18 (R43). -/
def branchTarget (pc : Pc) (off : BitVec 32) : Pc := pc + BitVec.ofInt 18 (off.toInt * 8)

/-- Table 2.3; the counter of .dec is tested after its decrement. -/
def braTaken (cond : BraCond) (x : Word) : Bool :=
  match cond with
  | .always => true
  | .eq => x == 0
  | .ne => x != 0
  | .lt => decide (x.toInt < 0)
  | .ge => decide (0 ≤ x.toInt)
  | .gt => decide (0 < x.toInt)
  | .le => decide (x.toInt ≤ 0)
  | .dec => x - 1 != 0

/-- The target lies outside the context's range (R37). -/
def rangeTrap (s : State) (t : Nat) : Option (Nat × Nat × Nat) :=
  trapIf (!(s.view s.cur).inRange t) 0x06 t t

def execBra (h : Hdr) (cond : BraCond) (a : Fin 32) (off : BitVec 32) (s : State) : Out :=
  issue (.bra h cond a off) (if cond = .always then [] else [.s a]) s fun s =>
    let c := s.me
    let t := branchTarget c.pc off
    let taken := braTaken cond (c.readS a)
    orTrap [if cond = .always then none else poisonS c [a],
            if taken then rangeTrap s t.toNat else none] <|
      let s1 := if cond = .dec then s.modCtx s.cur (fun c => c.writeS a (c.readS a - 1) false) else s
      if taken then .goto s1 t else .done s1

/-- The link (PC + 8) mod 2^18, poison cleared. -/
def Ctx.link (c : Ctx) (d : Fin 32) : Ctx := c.writeS d ((c.pc + 8).zeroExtend 64) false

def execCall (h : Hdr) (a : Fin 32) (off : BitVec 32) (s : State) : Out :=
  issue (.call h a off) [] s fun s =>
    let t := branchTarget s.me.pc off
    orTrap [rangeTrap s t.toNat] <| .goto (s.modCtx s.cur (fun c => c.link a)) t

/-- The checks of an indirect target (R121). -/
def indirect (s : State) (a : Fin 32) (k : Pc → Eff) : Eff :=
  let t := (s.me.readS a).toNat
  orTrap [poisonS s.me [a], trapIf (decide (t % 8 ≠ 0)) 0x04 t t, rangeTrap s t] (k (BitVec.ofNat 18 t))

def execJmp (h : Hdr) (d a : Fin 32) (s : State) : Out :=
  issue (.jmp h d a) [.s a] s fun s =>
    indirect s a fun t => .goto (s.modCtx s.cur (fun c => c.link d)) t

def execRet (h : Hdr) (a : Fin 32) (s : State) : Out :=
  issue (.ret h a) [.s a] s fun s => indirect s a fun t => .goto s t

/-! ### Predicate instructions (R118) -/

def execPset (h : Hdr) (d : Fin 16) (v : Bool) (s : State) : Out :=
  issue (.pset h d v) [] s fun s => s.onCtx fun c => c.writeP d v

def execPand (h : Hdr) (d a b : Fin 16) (na nb : Bool) (s : State) : Out :=
  issue (.pand h d a b na nb) [] s fun s => s.onCtx fun c =>
    c.writeP d ((c.readP a ^^ na) && (c.readP b ^^ nb))

def execPor (h : Hdr) (d a b : Fin 16) (na nb : Bool) (s : State) : Out :=
  issue (.por h d a b na nb) [] s fun s => s.onCtx fun c =>
    c.writeP d ((c.readP a ^^ na) || (c.readP b ^^ nb))

def execPxor (h : Hdr) (d a b : Fin 16) (na nb : Bool) (s : State) : Out :=
  issue (.pxor h d a b na nb) [] s fun s => s.onCtx fun c =>
    c.writeP d ((c.readP a ^^ na) ^^ (c.readP b ^^ nb))

def execPnot (h : Hdr) (d a : Fin 16) (s : State) : Out :=
  issue (.pnot h d a) [] s fun s => s.onCtx fun c => c.writeP d (!(c.readP a))

/-! ### The never form (R39) -/

/-- The never form has no effect; the context goes on at the next word. -/
def execNop (op : BitVec 8) (rest : BitVec 51) (s : State) : Out :=
  issue (.nop op rest) [] s fun s => .done s

end Sys2Proof.Machine
end

