-- ==== Sys2Proof/Machine/Vector.lean ====
section
/-! DEFINITION. Vector instructions, OP 0x40 to 0x4F (spec/06_vector.md). -/

namespace Sys2Proof.Machine

/-! ### Shared forms (R178 to R181) -/

/-- A result element: its bits, its poison and its counted events. -/
structure ElemOut where
  bits : Nat
  poison : Bool
  ev : Ev
deriving DecidableEq, Repr

/-- An element without events. -/
def ElemOut.plain (x : Nat × Bool) : ElemOut := ⟨x.1, x.2, Ev.zero⟩

/-- Add a vector instruction's events to its tile; the trap they may owe waits for an end or a wait
clause (R181). -/
def State.vecEvents (s : State) (ev : Ev) : State :=
  match s.cur with
  | .tile t c => if ev = Ev.zero then s else s.addEvents t ⟨ev, c, s.issued s.cur, .endOrWait none, false⟩
  | .mgmt => s

/-- The events of the elements that are not poisoned (R96). -/
def evOf (rs : List (Option ElemOut)) : Ev :=
  Ev.sum (rs.map (fun r => match r with
    | some x => if x.poison then Ev.zero else x.ev
    | none => Ev.zero))

/-- The selected elements of a register take new values (R178, R180). -/
def VReg.update (v : VReg) (t : Ty) (rs : List (Option ElemOut)) : VReg :=
  v.write t (rs.map (fun r => r.map (fun x => (x.bits, x.poison))))

/-- The elements of type t that sel picks. -/
def elemList (t : Ty) (sel : Nat → Bool) (f : Nat → ElemOut) : List (Option ElemOut) :=
  (List.range (elems t)).map (fun j => if sel j then some (f j) else none)

/-- A vector instruction that writes the selected elements of V[D] and counts their events. -/
def vecInto (i : Instr) (d : Fin 32) (t : Ty) (sel : Ctx → Nat → Bool) (f : Ctx → Nat → ElemOut)
    (s : State) : Out :=
  issue i [] s fun s =>
    let c := s.me
    let rs := elemList t (sel c) (f c)
    .done ((s.modCtx s.cur (fun c => c.writeV d ((c.readV d).update t rs))).vecEvents (evOf rs))

/-- The same with the destination mask K (R178). -/
def vecMasked (i : Instr) (d : Fin 32) (k : Fin 8) (t : Ty) (f : Ctx → Nat → ElemOut) (s : State) : Out :=
  vecInto i d t (fun c j => active (c.readK k) t j) f s

/-- One source: element j of V[A]. -/
def vec1 (i : Instr) (d a : Fin 32) (k : Fin 8) (t : Ty) (f : Nat → Nat × Ev) (s : State) : Out :=
  vecMasked i d k t (fun c j =>
    let r := f ((c.readV a).elem t j)
    ⟨r.1, (c.readV a).elemPoison t j, r.2⟩) s

/-- Two sources: element j of V[A] and of operand B (R179). -/
def vec2 (i : Instr) (d a : Fin 32) (b : VOp) (k : Fin 8) (t : Ty) (f : Nat → Nat → Nat × Ev) (s : State) : Out :=
  vecMasked i d k t (fun c j =>
    let y := vopElem c b t j
    let r := f ((c.readV a).elem t j) y.1
    ⟨r.1, (c.readV a).elemPoison t j || y.2, r.2⟩) s

/-- Three sources: A, B and the addend C. -/
def vec3 (i : Instr) (d a : Fin 32) (b : VOp) (e : Fin 32) (k : Fin 8) (t : Ty)
    (f : Nat → Nat → Nat → Nat × Ev) (s : State) : Out :=
  vecMasked i d k t (fun c j =>
    let y := vopElem c b t j
    let r := f ((c.readV a).elem t j) y.1 ((c.readV e).elem t j)
    ⟨r.1, (c.readV a).elemPoison t j || y.2 || (c.readV e).elemPoison t j, r.2⟩) s

/-- A vector instruction that writes a scalar register. -/
def vecScalar (i : Instr) (d : Fin 32) (f : Ctx → Word × Bool × Ev) (s : State) : Out :=
  issue i [] s fun s =>
    let r := f s.me
    .done ((s.modCtx s.cur (fun c => c.writeS d r.1 r.2.1)).vecEvents r.2.2)

/-- A vector instruction that writes a mask register and examines nothing. -/
def vecMaskOut (i : Instr) (d : Fin 8) (f : Ctx → Word) (s : State) : Out :=
  issue i [] s fun s => s.onCtx fun c => c.writeK d (f c)

/-! ### Integer arithmetic (R183) -/

/-- An integer result, clamped and counted under SAT, else modulo 2^w. -/
def intResult (t : Ty) (sat : Bool) (r : Int) : Nat × Ev :=
  if sat && (decide (r < t.lo) || decide (r > t.hi)) then (intMod (clampInt t.lo t.hi r) t.width, Ev.oneSat)
  else (intMod r t.width, Ev.zero)

def vint2 (t : Ty) (sat : Bool) (f : Int → Int → Int) (x y : Nat) : Nat × Ev :=
  intResult t sat (f (t.val x) (t.val y))

def execVadd (h : Hdr) (d a : Fin 32) (b : VOp) (k : Fin 8) (ty : Ty) (sat : Bool) (s : State) : Out :=
  vec2 (.vadd h d a b k ty sat) d a b k ty (vint2 ty sat (· + ·)) s

def execVsub (h : Hdr) (d a : Fin 32) (b : VOp) (k : Fin 8) (ty : Ty) (sat : Bool) (s : State) : Out :=
  vec2 (.vsub h d a b k ty sat) d a b k ty (vint2 ty sat (· - ·)) s

def execVmul (h : Hdr) (d a : Fin 32) (b : VOp) (k : Fin 8) (ty : Ty) (sat : Bool) (s : State) : Out :=
  vec2 (.vmul h d a b k ty sat) d a b k ty (vint2 ty sat (· * ·)) s

def execVmulh (h : Hdr) (d a : Fin 32) (b : VOp) (k : Fin 8) (ty : Ty) (s : State) : Out :=
  vec2 (.vmulh h d a b k ty) d a b k ty (vint2 ty false (fun x y => x * y / ((2 ^ ty.width : Nat) : Int))) s

def execVmin (h : Hdr) (d a : Fin 32) (b : VOp) (k : Fin 8) (ty : Ty) (s : State) : Out :=
  vec2 (.vmin h d a b k ty) d a b k ty (vint2 ty false (fun x y => if x ≤ y then x else y)) s

def execVmax (h : Hdr) (d a : Fin 32) (b : VOp) (k : Fin 8) (ty : Ty) (s : State) : Out :=
  vec2 (.vmax h d a b k ty) d a b k ty (vint2 ty false (fun x y => if x ≥ y then x else y)) s

def execVabs (h : Hdr) (d a : Fin 32) (k : Fin 8) (ty : Ty) (sat : Bool) (s : State) : Out :=
  vec1 (.vabs h d a k ty sat) d a k ty (fun x => intResult ty sat ((ty.val x).natAbs : Int)) s

def execVneg (h : Hdr) (d a : Fin 32) (k : Fin 8) (ty : Ty) (sat : Bool) (s : State) : Out :=
  vec1 (.vneg h d a k ty sat) d a k ty (fun x => intResult ty sat (-(ty.val x))) s

/-! ### Floating-point arithmetic (R184, R185) -/

def execVaddFp (h : Hdr) (d a : Fin 32) (b : VOp) (k : Fin 8) (ty : Ty) (s : State) : Out :=
  vec2 (.vaddFp h d a b k ty) d a b k ty (addBits ty) s

def execVsubFp (h : Hdr) (d a : Fin 32) (b : VOp) (k : Fin 8) (ty : Ty) (s : State) : Out :=
  vec2 (.vsubFp h d a b k ty) d a b k ty (subBits ty) s

def execVmulFp (h : Hdr) (d a : Fin 32) (b : VOp) (k : Fin 8) (ty : Ty) (s : State) : Out :=
  vec2 (.vmulFp h d a b k ty) d a b k ty (mulBits ty) s

def execVminFp (h : Hdr) (d a : Fin 32) (b : VOp) (k : Fin 8) (ty : Ty) (s : State) : Out :=
  vec2 (.vminFp h d a b k ty) d a b k ty (fun x y => (minBits ty x y, Ev.zero)) s

def execVmaxFp (h : Hdr) (d a : Fin 32) (b : VOp) (k : Fin 8) (ty : Ty) (s : State) : Out :=
  vec2 (.vmaxFp h d a b k ty) d a b k ty (fun x y => (maxBits ty x y, Ev.zero)) s

/-- Set the sign bit of an encoding of type t to n; a NaN becomes the canonical NaN. -/
def withSign (t : Ty) (n : Bool) (x : Nat) : Nat :=
  if (decodeElem t x).isNan then (convert t .nan).1
  else x % 2 ^ (t.width - 1) + b2n n * 2 ^ (t.width - 1)

def execVabsFp (h : Hdr) (d a : Fin 32) (k : Fin 8) (ty : Ty) (s : State) : Out :=
  vec1 (.vabsFp h d a k ty) d a k ty (fun x => (withSign ty false x, Ev.zero)) s

def execVnegFp (h : Hdr) (d a : Fin 32) (k : Fin 8) (ty : Ty) (s : State) : Out :=
  vec1 (.vnegFp h d a k ty) d a k ty (fun x => (withSign ty (!(bitOf x (ty.width - 1))) x, Ev.zero)) s

/-- RoundRNE(±(a × b) ± c), with one rounding (R185). -/
def fmaBits (t : Ty) (negProd negAdd : Bool) (x y z : Nat) : Nat × Ev :=
  let a := decodeElem t x
  let c := decodeElem t z
  finish t (fusedSum [(if negProd then a.neg else a, decodeElem t y)] [if negAdd then c.neg else c])

def execVfma (h : Hdr) (d a : Fin 32) (b : VOp) (c : Fin 32) (k : Fin 8) (ty : Ty) (s : State) : Out :=
  vec3 (.vfma h d a b c k ty) d a b c k ty (fmaBits ty false false) s

def execVfms (h : Hdr) (d a : Fin 32) (b : VOp) (c : Fin 32) (k : Fin 8) (ty : Ty) (s : State) : Out :=
  vec3 (.vfms h d a b c k ty) d a b c k ty (fmaBits ty false true) s

def execVfnma (h : Hdr) (d a : Fin 32) (b : VOp) (c : Fin 32) (k : Fin 8) (ty : Ty) (s : State) : Out :=
  vec3 (.vfnma h d a b c k ty) d a b c k ty (fmaBits ty true false) s

/-- Element i of type t packed in a 32-bit lane value. -/
def inLane (t : Ty) (x i : Nat) : Nat := bitsAt x (i * t.width) t.width

/-- One lane of vdot2 and vdot4: g products of packed elements and the addend (R185). -/
def dotLane (t : Ty) (g x y z : Nat) : Nat × Ev :=
  if t.isInt then
    (intMod ((List.range g).foldl (fun r i => r + t.val (inLane t x i) * t.val (inLane t y i)) (sextInt z 32)) 32, Ev.zero)
  else
    finish .f32 (fusedSum
      ((List.range g).map (fun i => (decodeElem t (inLane t x i), decodeElem t (inLane t y i)))) [decodeElem .f32 z])

/-- The lanes of A, B and C are read whole (R179), so n32 is the unit here. -/
def execVdot2 (h : Hdr) (d a : Fin 32) (b : VOp) (c : Fin 32) (k : Fin 8) (ty : Ty) (s : State) : Out :=
  vec3 (.vdot2 h d a b c k ty) d a b c k .n32 (dotLane ty 2) s

def execVdot4 (h : Hdr) (d a : Fin 32) (b : VOp) (c : Fin 32) (k : Fin 8) (ty : Ty) (s : State) : Out :=
  vec3 (.vdot4 h d a b c k ty) d a b c k .n32 (dotLane ty 4) s

/-! ### Comparison, logic, selection (R186, R187) -/

/-- a FNcond b, or the unordered test. -/
def vcmpElem (cond : VCond) (t : Ty) (x y : Nat) : Bool :=
  let a := decodeElem t x
  let b := decodeElem t y
  match cond with
  | .eq => cmpVal .eq a b
  | .ne => cmpVal .ne a b
  | .lt => cmpVal .lt a b
  | .le => cmpVal .le a b
  | .gt => cmpVal .gt a b
  | .ge => cmpVal .ge a b
  | .unord => a.isNan || b.isNan

/-- A word from the numbers of its one bits. -/
def wordOfBits (f : Nat → Bool) : Word :=
  BitVec.ofNat 64 ((List.range 64).foldr (fun j a => a + b2n (f j) * 2 ^ j) 0)

/-- The mask of a test on the active elements; a 64-bit element sets both of its lanes' bits. -/
def maskOf (t : Ty) (k : Word) (f : Nat → Bool) : Word :=
  wordOfBits (fun l =>
    let j := if t.width = 64 then l / 2 else l
    active k t j && f j)

/-- Cause 0x07 of vcmp: A when any active element of A is poisoned, else B (R186). -/
def vcmpPoison (c : Ctx) (a : Fin 32) (b : VOp) (k : Word) (t : Ty) : Option (Nat × Nat × Nat) :=
  let js := (List.range (elems t)).filter (fun j => active k t j)
  if js.any (fun j => (c.readV a).elemPoison t j) then some (0x07, a.val + 256, 0)
  else if js.any (fun j => (vopElem c b t j).2) then
    some (0x07, (match b with | .vec r => r.val + 256 | .scal r => r.val), 0)
  else none

def execVcmp (h : Hdr) (cond : VCond) (d : Fin 8) (a : Fin 32) (b : VOp) (k : Fin 8) (ty : Ty) (s : State) : Out :=
  issue (.vcmp h cond d a b k ty) (.v a :: vopRegs b) s fun s =>
    orTrap [vcmpPoison s.me a b (s.me.readK k) ty] <|
      s.onCtx fun c => c.writeK d (maskOf ty (c.readK k) (fun j =>
        vcmpElem cond ty ((c.readV a).elem ty j) (vopElem c b ty j).1))

def execVand (h : Hdr) (d a : Fin 32) (b : VOp) (k : Fin 8) (ty : Ty) (s : State) : Out :=
  vec2 (.vand h d a b k ty) d a b k ty (fun x y => (x &&& y, Ev.zero)) s

def execVor (h : Hdr) (d a : Fin 32) (b : VOp) (k : Fin 8) (ty : Ty) (s : State) : Out :=
  vec2 (.vor h d a b k ty) d a b k ty (fun x y => (x ||| y, Ev.zero)) s

def execVxor (h : Hdr) (d a : Fin 32) (b : VOp) (k : Fin 8) (ty : Ty) (s : State) : Out :=
  vec2 (.vxor h d a b k ty) d a b k ty (fun x y => (x ^^^ y, Ev.zero)) s

def execVandn (h : Hdr) (d a : Fin 32) (b : VOp) (k : Fin 8) (ty : Ty) (s : State) : Out :=
  vec2 (.vandn h d a b k ty) d a b k ty (fun x y => (x &&& (2 ^ ty.width - 1 - y), Ev.zero)) s

def execVshl (h : Hdr) (d a : Fin 32) (b : VOp) (k : Fin 8) (ty : Ty) (s : State) : Out :=
  vec2 (.vshl h d a b k ty) d a b k ty (fun x y => (x * 2 ^ (y % ty.width) % 2 ^ ty.width, Ev.zero)) s

def execVshr (h : Hdr) (d a : Fin 32) (b : VOp) (k : Fin 8) (ty : Ty) (s : State) : Out :=
  vec2 (.vshr h d a b k ty) d a b k ty (fun x y => (x / 2 ^ (y % ty.width), Ev.zero)) s

def execVsar (h : Hdr) (d a : Fin 32) (b : VOp) (k : Fin 8) (ty : Ty) (s : State) : Out :=
  vec2 (.vsar h d a b k ty) d a b k ty
    (fun x y => (intMod (sextInt x ty.width / ((2 ^ (y % ty.width) : Nat) : Int)) ty.width, Ev.zero)) s

/-- The value and poison of the chosen element only. -/
def execVsel (h : Hdr) (d : Fin 32) (e : Fin 8) (a : Fin 32) (b : VOp) (ty : Ty) (s : State) : Out :=
  vecInto (.vsel h d e a b ty) d ty (fun _ _ => true) (fun c j =>
    if active (c.readK e) ty j then .plain ((c.readV a).elem ty j, (c.readV a).elemPoison ty j)
    else .plain (vopElem c b ty j)) s

/-! ### Conversion and MX quantisation (R188, R189) -/

/-- The element of V[A] that makes destination element j, or none where the part excludes it (R188). -/
def cvtSource (t st : Ty) (part j : Nat) : Option Nat :=
  if st.width ≤ t.width then some (part * elems t + j)
  else if part * elems st ≤ j ∧ j < (part + 1) * elems st then some (j - part * elems st) else none

def execVcvt (h : Hdr) (d a : Fin 32) (k : Fin 8) (ty sty : Ty) (part : Fin 16) (s : State) : Out :=
  vecInto (.vcvt h d a k ty sty part) d ty
    (fun c j => active (c.readK k) ty j && (cvtSource ty sty part.val j).isSome)
    (fun c j =>
      let i := (cvtSource ty sty part.val j).getD 0
      let r := convert ty (decodeElem sty ((c.readV a).elem sty i))
      ⟨r.1, (c.readV a).elemPoison sty i, r.2⟩) s

/-- Block b of vqmx: scale, elements, poison and events. -/
def qmxBlock (v : VReg) (t st : Ty) (b : Nat) : Nat × List Nat × Bool × Ev :=
  let js := (List.range 32).map (fun i => 32 * b + i)
  let po := js.any (fun j => v.elemPoison st j)
  let q := quantiseMX t (js.map (fun j => decodeElem st (v.elem st j)))
  (q.1, q.2.1, po, if po then Ev.zero else q.2.2)

def execVqmx (h : Hdr) (d a e : Fin 32) (ty sty : Ty) (part : Fin 16) (s : State) : Out :=
  issue (.vqmx h d a e ty sty part) [] s fun s =>
    let v := s.me.readV a
    let n := elems sty
    let bs := (List.range (n / 32)).map (qmxBlock v ty sty)
    let es := bs.flatMap (fun b => b.2.1.map (fun x => (some (ElemOut.plain (x, b.2.2.1)))))
    let rs := List.replicate (part.val * n) none ++ es
      ++ List.replicate (elems ty - (part.val + 1) * n) none
    let scales := leNat (bs.map (fun b => BitVec.ofNat 8 b.1))
    .done ((s.modCtx s.cur (fun c =>
      (c.writeV d ((c.readV d).update ty rs)).writeS e (BitVec.ofNat 64 scales) (bs.any (fun b => b.2.2.1)))).vecEvents
        (Ev.sum (bs.map (fun b => b.2.2.2))))

def execVdqmx (h : Hdr) (d a e : Fin 32) (k : Fin 8) (ty sty : Ty) (part : Fin 16) (s : State) : Out :=
  vecMasked (.vdqmx h d a e k ty sty part) d k ty (fun c j =>
    let i := part.val * elems ty + j
    let r := dequantise ty sty (bitsAt (c.readS e).toNat (8 * (j / 32)) 8) ((c.readV a).elem sty i)
    ⟨r.1, (c.readV a).elemPoison sty i || c.poisS e, r.2⟩) s

/-! ### Transcendental functions (R190) -/

def execVexp2 (h : Hdr) (d a : Fin 32) (k : Fin 8) (s : State) : Out :=
  vec1 (.vexp2 h d a k) d a k .f32 (transBits .exp2) s

def execVlog2 (h : Hdr) (d a : Fin 32) (k : Fin 8) (s : State) : Out :=
  vec1 (.vlog2 h d a k) d a k .f32 (transBits .log2) s

def execVrcp (h : Hdr) (d a : Fin 32) (k : Fin 8) (s : State) : Out :=
  vec1 (.vrcp h d a k) d a k .f32 (transBits .rcp) s

def execVrsqrt (h : Hdr) (d a : Fin 32) (k : Fin 8) (s : State) : Out :=
  vec1 (.vrsqrt h d a k) d a k .f32 (transBits .rsqrt) s

def execVsqrt (h : Hdr) (d a : Fin 32) (k : Fin 8) (s : State) : Out :=
  vec1 (.vsqrt h d a k) d a k .f32 (transBits .sqrt) s

/-! ### Permutation and lane access (R191, Table 6.6) -/

/-- Element i of V[R] with its poison. -/
def elemOf (c : Ctx) (r : Fin 32) (t : Ty) (i : Nat) : Nat × Bool := ((c.readV r).elem t i, (c.readV r).elemPoison t i)

/-- A copied element, also poisoned by the index that chose it. -/
def chosen (x : Nat × Bool) (po : Bool) : ElemOut := ⟨x.1, x.2 || po, Ev.zero⟩

def execVperm (h : Hdr) (d a b : Fin 32) (k : Fin 8) (ty : Ty) (s : State) : Out :=
  vecMasked (.vperm h d a b k ty) d k ty (fun c j =>
    let x := elemOf c b ty j
    chosen (elemOf c a ty (x.1 % elems ty)) x.2) s

def execVperm2 (h : Hdr) (d a b e : Fin 32) (k : Fin 8) (ty : Ty) (s : State) : Out :=
  vecMasked (.vperm2 h d a b e k ty) d k ty (fun c j =>
    let x := elemOf c b ty j
    let i := x.1 % (2 * elems ty)
    chosen (if i < elems ty then elemOf c a ty i else elemOf c e ty (i - elems ty)) x.2) s

def execVbcast (h : Hdr) (d a : Fin 32) (k : Fin 8) (ty : Ty) (s : State) : Out :=
  vecMasked (.vbcast h d a k ty) d k ty (fun c j => .plain (vopElem c (.scal a) ty j)) s

def execVbcastl (h : Hdr) (d a b : Fin 32) (k : Fin 8) (ty : Ty) (s : State) : Out :=
  vecMasked (.vbcastl h d a b k ty) d k ty (fun c _ =>
    chosen (elemOf c a ty ((c.readS b).toNat % elems ty)) (c.poisS b)) s

def execVrot (h : Hdr) (d a b : Fin 32) (k : Fin 8) (ty : Ty) (s : State) : Out :=
  vecMasked (.vrot h d a b k ty) d k ty (fun c j =>
    chosen (elemOf c a ty ((j + (c.readS b).toNat % elems ty) % elems ty)) (c.poisS b)) s

/-- The active elements, in ascending order. -/
def activeList (k : Word) (t : Ty) : List Nat := (List.range (elems t)).filter (fun j => active k t j)

def execVcompress (h : Hdr) (d a : Fin 32) (k : Fin 8) (ty : Ty) (s : State) : Out :=
  vecInto (.vcompress h d a k ty) d ty (fun _ _ => true) (fun c j =>
    match (activeList (c.readK k) ty)[j]? with
    | some i => .plain (elemOf c a ty i)
    | none => .plain (0, false)) s

def execVexpand (h : Hdr) (d a : Fin 32) (k : Fin 8) (ty : Ty) (s : State) : Out :=
  vecMasked (.vexpand h d a k ty) d k ty (fun c j =>
    .plain (elemOf c a ty ((activeList (c.readK k) ty).filter (fun i => decide (i < j))).length)) s

def execVext (h : Hdr) (d a : Fin 32) (idx : Fin 64) (ty : Ty) (s : State) : Out :=
  vecScalar (.vext h d a idx ty) d (fun c =>
    (ty.put ((c.readV a).elem ty idx.val : Nat), (c.readV a).elemPoison ty idx.val, Ev.zero)) s

def execVins (h : Hdr) (d a : Fin 32) (idx : Fin 64) (ty : Ty) (s : State) : Out :=
  vecInto (.vins h d a idx ty) d ty (fun _ j => j == idx.val)
    (fun c _ => .plain (vopElem c (.scal a) ty 0)) s

/-! ### Reductions, scans, arg-max (R91, R192 to R194) -/

/-- The active elements of V[A] with their poison. -/
def activeElems (c : Ctx) (a : Fin 32) (k : Fin 8) (t : Ty) : List (Nat × Bool) :=
  (activeList (c.readK k) t).map (elemOf c a t)

/-- One node of the f32 tree: a poisoned operand poisons it and it counts nothing then (R96). -/
def addNode (x y : Nat × Bool) : (Nat × Bool) × Ev :=
  let r := addBits .f32 x.1 y.1
  let po := x.2 || y.2
  ((r.1, po), if po then Ev.zero else r.2)

/-- n levels of the pairwise tree of R91, from its widest. -/
def sumTree : Nat → List (Nat × Bool) → Ev → (Nat × Bool) × Ev
  | 0, xs, ev => (xs.headD (0x80000000, false), ev)
  | n + 1, xs, ev =>
    let ys := List.zipWith addNode (xs.take (2 ^ n)) (xs.drop (2 ^ n))
    sumTree n (ys.map (fun y => y.1)) (Ev.add ev (Ev.sum (ys.map (fun y => y.2))))

/-- An integer reduction: exact over the active elements from its identity (Table 6.7). -/
def intReduce (c : Ctx) (a : Fin 32) (k : Fin 8) (t : Ty) (z : Int) (f : Int → Int → Int) : Int :=
  (activeElems c a k t).foldl (fun r x => f r (t.val x.1)) z

/-- Some active element of V[A] is poisoned. -/
def anyPoison (c : Ctx) (a : Fin 32) (k : Fin 8) (t : Ty) : Bool := (activeElems c a k t).any (fun x => x.2)

def redSum (c : Ctx) (a : Fin 32) (k : Fin 8) (t : Ty) : Word × Bool × Ev :=
  if t = .f32 then
    let r := sumTree 6 ((List.range 64).map (fun j =>
      if active (c.readK k) t j then elemOf c a t j else (0x80000000, false))) Ev.zero
    (BitVec.ofNat 64 r.1.1, anyPoison c a k t, r.2)
  else (wordOfInt (intReduce c a k t 0 (· + ·)), anyPoison c a k t, Ev.zero)

/-- min or max: R86 for f32, from NaN; by signedness else. -/
def redBound (c : Ctx) (a : Fin 32) (k : Fin 8) (t : Ty) (z : Int) (f : Int → Int → Int) (g : Nat → Nat → Nat) :
    Word × Bool × Ev :=
  if t = .f32 then
    (BitVec.ofNat 64 ((activeElems c a k t).foldl (fun r x => g r x.1) 0x7FC00000), anyPoison c a k t, Ev.zero)
  else (t.put (intReduce c a k t z f), anyPoison c a k t, Ev.zero)

/-- A bitwise reduction from its identity, through Put. -/
def redBits (c : Ctx) (a : Fin 32) (k : Fin 8) (t : Ty) (z : Nat) (f : Nat → Nat → Nat) : Word × Bool × Ev :=
  (t.put ((activeElems c a k t).foldl (fun r x => f r x.1) z : Nat), anyPoison c a k t, Ev.zero)

def execVredsum (h : Hdr) (d a : Fin 32) (k : Fin 8) (ty : Ty) (s : State) : Out :=
  vecScalar (.vredsum h d a k ty) d (fun c => redSum c a k ty) s

def execVredmin (h : Hdr) (d a : Fin 32) (k : Fin 8) (ty : Ty) (s : State) : Out :=
  vecScalar (.vredmin h d a k ty) d
    (fun c => redBound c a k ty ty.hi (fun x y => if x ≤ y then x else y) (minBits .f32)) s

def execVredmax (h : Hdr) (d a : Fin 32) (k : Fin 8) (ty : Ty) (s : State) : Out :=
  vecScalar (.vredmax h d a k ty) d
    (fun c => redBound c a k ty ty.lo (fun x y => if x ≥ y then x else y) (maxBits .f32)) s

def execVredand (h : Hdr) (d a : Fin 32) (k : Fin 8) (ty : Ty) (s : State) : Out :=
  vecScalar (.vredand h d a k ty) d (fun c => redBits c a k ty (2 ^ ty.width - 1) (· &&& ·)) s

def execVredor (h : Hdr) (d a : Fin 32) (k : Fin 8) (ty : Ty) (s : State) : Out :=
  vecScalar (.vredor h d a k ty) d (fun c => redBits c a k ty 0 (· ||| ·)) s

def execVredxor (h : Hdr) (d a : Fin 32) (k : Fin 8) (ty : Ty) (s : State) : Out :=
  vecScalar (.vredxor h d a k ty) d (fun c => redBits c a k ty 0 (· ^^^ ·)) s

/-- The value an excluded lane contributes to a scan (Table 6.7). -/
def scanIdent (op : ScanOp) (t : Ty) : Nat :=
  match t, op with
  | .f32, .add => 0x80000000
  | .f32, _ => 0x7FC00000
  | _, .add => 0
  | t, .max => intMod t.lo 32
  | t, .min => intMod t.hi 32

/-- One step of a scan. -/
def scanStep (op : ScanOp) (t : Ty) (sat : Bool) (y x : Nat) : Nat × Ev :=
  match op with
  | .add => if t = .f32 then addBits .f32 y x else intResult t sat (t.val y + t.val x)
  | .max => (if t = .f32 then maxBits .f32 y x else if t.val y ≥ t.val x then y else x, Ev.zero)
  | .min => (if t = .f32 then minBits .f32 y x else if t.val y ≤ t.val x then y else x, Ev.zero)

/-- The lanes of a scan from the prefix y on: x and its activity, in ascending order (R193). -/
def scanFrom (op : ScanOp) (t : Ty) (sat : Bool) : Nat → Bool → List (Nat × Bool × Bool) → List ElemOut
  | _, _, [] => []
  | y, po, (x, act, px) :: rest =>
    let r := scanStep op t sat y x
    let po' := po || (act && px)
    ⟨r.1, po', r.2⟩ :: scanFrom op t sat r.1 po' rest

/-- The prefix of the first lane: x[0] itself, or the canonical NaN for any NaN (R73). -/
def scanFirst (t : Ty) (x : Nat) : Nat :=
  if t = .f32 ∧ (decodeElem t x).isNan = true then (convert t .nan).1 else x

/-- All 64 lanes in ascending order. -/
def scanLanes (op : ScanOp) (t : Ty) (sat : Bool) (xs : List (Nat × Bool × Bool)) : List ElemOut :=
  match xs with
  | [] => []
  | (x, act, px) :: rest =>
    ⟨scanFirst t x, act && px, Ev.zero⟩ :: scanFrom op t sat (scanFirst t x) (act && px) rest

def execVscan (h : Hdr) (op : ScanOp) (d a : Fin 32) (k : Fin 8) (ty : Ty) (sat : Bool) (s : State) : Out :=
  issue (.vscan h op d a k ty sat) [] s fun s =>
    let c := s.me
    let m := c.readK k
    let ys := scanLanes op ty sat ((List.range 64).map (fun j =>
      let act := active m ty j
      (if act then (c.readV a).elem ty j else scanIdent op ty, act, (c.readV a).elemPoison ty j)))
    let rs := ys.zipIdx.map (fun y => if active m ty y.2 then some y.1 else none)
    let ev := Ev.sum (ys.map (fun y => if y.poison then Ev.zero else y.ev))
    .done ((s.modCtx s.cur (fun c => c.writeV d ((c.readV d).update ty rs))).vecEvents ev)

/-- Element x goes before y: larger (or smaller) value; a NaN loses to every number (R194). -/
def argBetter (t : Ty) (mx : Bool) (x y : Nat) : Bool :=
  let a := decodeElem t x
  let b := decodeElem t y
  if b.isNan then !a.isNan
  else if mx then ltMinMax b a else ltMinMax a b

/-- The chosen lane and its bits: the lowest index among the best. -/
def argPick (t : Ty) (mx : Bool) (xs : List (Nat × Nat)) : Option (Nat × Nat) :=
  xs.foldl (fun best x => match best with
    | none => some x
    | some b => some (if argBetter t mx x.2 b.2 then x else b)) none

/-- Table 6.8. -/
def argResult (c : Ctx) (a : Fin 32) (k : Fin 8) (t : Ty) (mx : Bool) : Word × Bool × Ev :=
  let xs := (activeList (c.readK k) t).map (fun j => (j, (c.readV a).elem t j))
  let w := match argPick t mx xs with
    | none => 2 ^ 38
    | some (j, x) => (if (decodeElem t x).isNan then 0x7FC00000 else x) + 2 ^ 32 * j
  (BitVec.ofNat 64 w, anyPoison c a k t, Ev.zero)

def execVargmax (h : Hdr) (d a : Fin 32) (k : Fin 8) (ty : Ty) (s : State) : Out :=
  vecScalar (.vargmax h d a k ty) d (fun c => argResult c a k ty true) s

def execVargmin (h : Hdr) (d a : Fin 32) (k : Fin 8) (ty : Ty) (s : State) : Out :=
  vecScalar (.vargmin h d a k ty) d (fun c => argResult c a k ty false) s

/-! ### Random numbers, poison tests, immediates (R195 to R197) -/

/-- The counter of lane j and its poison. -/
def rngCounter (c : Ctx) (a : VOp) (j : Nat) : BitVec 32 × Bool :=
  match a with
  | .vec r => ((c.readV r).lane j, (c.readV r).poison.getLsbD j)
  | .scal r => ((c.readS r).truncate 32 + BitVec.ofNat 32 j, c.poisS r)

def execVrng (h : Hdr) (d : Fin 32) (a : VOp) (b : Fin 32) (k : Fin 8) (ty : Ty) (s : State) : Out :=
  vecMasked (.vrng h d a b k ty) d k ty (fun c j =>
    let x := rngCounter c a j
    let z := rng32 x.1 ((c.readS b).truncate 32)
    .plain (if ty = .f32 then rngF32 z else z.toNat, x.2 || c.poisS b)) s

def execVptest (h : Hdr) (d : Fin 8) (a : Fin 32) (k : Fin 8) (s : State) : Out :=
  vecMaskOut (.vptest h d a k) d (fun c => c.readK k &&& (c.readV a).poison) s

/-- Every lane is written with poison clear (R197). -/
def vecFill (i : Instr) (d : Fin 32) (t : Ty) (f : Nat → Nat) (s : State) : Out :=
  vecInto i d t (fun _ _ => true) (fun _ j => .plain (f j, false)) s

def execVldi (h : Hdr) (d : Fin 32) (imm : BitVec 32) (s : State) : Out :=
  vecFill (.vldi h d imm) d .n32 (fun _ => imm.toNat) s

def execVldiI64 (h : Hdr) (d : Fin 32) (imm : BitVec 32) (s : State) : Out :=
  vecFill (.vldiI64 h d imm) d .i64 (fun _ => (imm.signExtend 64).toNat) s

def execViota (h : Hdr) (d : Fin 32) (imm : BitVec 32) (s : State) : Out :=
  vecFill (.viota h d imm) d .n32 (fun j => (imm.toNat + j) % 2 ^ 32) s

/-! ### Mask logic (R198) -/

def execKand (h : Hdr) (d a b : Fin 8) (s : State) : Out :=
  vecMaskOut (.kand h d a b) d (fun c => c.readK a &&& c.readK b) s

def execKor (h : Hdr) (d a b : Fin 8) (s : State) : Out :=
  vecMaskOut (.kor h d a b) d (fun c => c.readK a ||| c.readK b) s

def execKxor (h : Hdr) (d a b : Fin 8) (s : State) : Out :=
  vecMaskOut (.kxor h d a b) d (fun c => c.readK a ^^^ c.readK b) s

def execKandn (h : Hdr) (d a b : Fin 8) (s : State) : Out :=
  vecMaskOut (.kandn h d a b) d (fun c => c.readK a &&& ~~~(c.readK b)) s

def execKnot (h : Hdr) (d a : Fin 8) (s : State) : Out :=
  vecMaskOut (.knot h d a) d (fun c => ~~~(c.readK a)) s

def execKpopc (h : Hdr) (d : Fin 32) (a : Fin 8) (s : State) : Out :=
  vecScalar (.kpopc h d a) d (fun c => (BitVec.ofNat 64 (popCount 64 (c.readK a).toNat), false, Ev.zero)) s

def execKffs (h : Hdr) (d : Fin 32) (a : Fin 8) (s : State) : Out :=
  vecScalar (.kffs h d a) d (fun c => (BitVec.ofNat 64 (trailZeros 64 (c.readK a).toNat), false, Ev.zero)) s

end Sys2Proof.Machine
end

