-- ==== Sys2Proof/Machine/Dispatch.lean ====
section
/-! DEFINITION. The meaning of each instruction and step: one arm per constructor of Instr. -/

namespace Sys2Proof.Machine

def exec (i : Instr) (s : State) : Host.Outcome State Fault Refusal :=
  match i with
  | .nop op rest => Sys2Proof.Machine.execNop op rest s
  | .add h d a b ty sat => Sys2Proof.Machine.execAdd h d a b ty sat s
  | .sub h d a b ty sat => Sys2Proof.Machine.execSub h d a b ty sat s
  | .mul h d a b ty sat => Sys2Proof.Machine.execMul h d a b ty sat s
  | .mulh h d a b ty => Sys2Proof.Machine.execMulh h d a b ty s
  | .div h d a b ty => Sys2Proof.Machine.execDiv h d a b ty s
  | .rem h d a b ty => Sys2Proof.Machine.execRem h d a b ty s
  | .min h d a b ty => Sys2Proof.Machine.execMin h d a b ty s
  | .max h d a b ty => Sys2Proof.Machine.execMax h d a b ty s
  | .and h d a b ty => Sys2Proof.Machine.execAnd h d a b ty s
  | .or h d a b ty => Sys2Proof.Machine.execOr h d a b ty s
  | .xor h d a b ty => Sys2Proof.Machine.execXor h d a b ty s
  | .andn h d a b ty => Sys2Proof.Machine.execAndn h d a b ty s
  | .shl h d a b ty => Sys2Proof.Machine.execShl h d a b ty s
  | .shr h d a b ty => Sys2Proof.Machine.execShr h d a b ty s
  | .sar h d a b ty => Sys2Proof.Machine.execSar h d a b ty s
  | .rol h d a b ty => Sys2Proof.Machine.execRol h d a b ty s
  | .cmp h cond d c a b ty => Sys2Proof.Machine.execCmp h cond d c a b ty s
  | .clz h d a ty => Sys2Proof.Machine.execClz h d a ty s
  | .ctz h d a ty => Sys2Proof.Machine.execCtz h d a ty s
  | .popc h d a ty => Sys2Proof.Machine.execPopc h d a ty s
  | .bswap h d a ty => Sys2Proof.Machine.execBswap h d a ty s
  | .sext h d a b => Sys2Proof.Machine.execSext h d a b s
  | .addi h d a imm => Sys2Proof.Machine.execAddi h d a imm s
  | .muli h d a imm => Sys2Proof.Machine.execMuli h d a imm s
  | .andi h d a imm => Sys2Proof.Machine.execAndi h d a imm s
  | .ori h d a imm => Sys2Proof.Machine.execOri h d a imm s
  | .xori h d a imm => Sys2Proof.Machine.execXori h d a imm s
  | .shli h d a n => Sys2Proof.Machine.execShli h d a n s
  | .shri h d a n => Sys2Proof.Machine.execShri h d a n s
  | .sari h d a n => Sys2Proof.Machine.execSari h d a n s
  | .cmpi h cond d a ty imm => Sys2Proof.Machine.execCmpi h cond d a ty imm s
  | .ldi h d imm => Sys2Proof.Machine.execLdi h d imm s
  | .ldih h d a imm => Sys2Proof.Machine.execLdih h d a imm s
  | .lea h d a b sh disp => Sys2Proof.Machine.execLea h d a b sh disp s
  | .sel h d c a b => Sys2Proof.Machine.execSel h d c a b s
  | .movSS h d a => Sys2Proof.Machine.execMovSS h d a s
  | .movPS h d a => Sys2Proof.Machine.execMovPS h d a s
  | .movSP h d a => Sys2Proof.Machine.execMovSP h d a s
  | .movKS h d a => Sys2Proof.Machine.execMovKS h d a s
  | .movSK h d a => Sys2Proof.Machine.execMovSK h d a s
  | .movKK h d a => Sys2Proof.Machine.execMovKK h d a s
  | .bra h cond a off => Sys2Proof.Machine.execBra h cond a off s
  | .call h a off => Sys2Proof.Machine.execCall h a off s
  | .jmp h d a => Sys2Proof.Machine.execJmp h d a s
  | .ret h a => Sys2Proof.Machine.execRet h a s
  | .pset h d v => Sys2Proof.Machine.execPset h d v s
  | .pand h d a b na nb => Sys2Proof.Machine.execPand h d a b na nb s
  | .por h d a b na nb => Sys2Proof.Machine.execPor h d a b na nb s
  | .pxor h d a b na nb => Sys2Proof.Machine.execPxor h d a b na nb s
  | .pnot h d a => Sys2Proof.Machine.execPnot h d a s
  | .epop h x slot n1 cl => Sys2Proof.Machine.execEpop h x slot n1 cl s
  | .epeek h x slot z n1 cl => Sys2Proof.Machine.execEpeek h x slot z n1 cl s
  | .epush h x slot n1 cl => Sys2Proof.Machine.execEpush h x slot n1 cl s
  | .eeos h slot cl => Sys2Proof.Machine.execEeos h slot cl s
  | .estat h x slot cl => Sys2Proof.Machine.execEstat h x slot cl s
  | .tqsig h tq n cl => Sys2Proof.Machine.execTqsig h tq n cl s
  | .tqwait h cl => Sys2Proof.Machine.execTqwait h cl s
  | .tqrd h x tq cl => Sys2Proof.Machine.execTqrd h x tq cl s
  | .endF h => Sys2Proof.Machine.execEndF h s
  | .actena h a => Sys2Proof.Machine.execActena h a s
  | .actdis h a => Sys2Proof.Machine.execActdis h a s
  | .gjoin h x y cl => Sys2Proof.Machine.execGjoin h x y cl s
  | .gleave h arr y cl => Sys2Proof.Machine.execGleave h arr y cl s
  | .garrive h x y cl => Sys2Proof.Machine.execGarrive h x y cl s
  | .gwait h y z cl => Sys2Proof.Machine.execGwait h y z cl s
  | .gbar h x y cl => Sys2Proof.Machine.execGbar h x y cl s
  | .gred h op ty x y z cl => Sys2Proof.Machine.execGred h op ty x y z cl s
  | .launch h x y cl => Sys2Proof.Machine.execLaunch h x y cl s
  | .vadd h d a b k ty sat => Sys2Proof.Machine.execVadd h d a b k ty sat s
  | .vsub h d a b k ty sat => Sys2Proof.Machine.execVsub h d a b k ty sat s
  | .vmul h d a b k ty sat => Sys2Proof.Machine.execVmul h d a b k ty sat s
  | .vmulh h d a b k ty => Sys2Proof.Machine.execVmulh h d a b k ty s
  | .vmin h d a b k ty => Sys2Proof.Machine.execVmin h d a b k ty s
  | .vmax h d a b k ty => Sys2Proof.Machine.execVmax h d a b k ty s
  | .vabs h d a k ty sat => Sys2Proof.Machine.execVabs h d a k ty sat s
  | .vneg h d a k ty sat => Sys2Proof.Machine.execVneg h d a k ty sat s
  | .vaddFp h d a b k ty => Sys2Proof.Machine.execVaddFp h d a b k ty s
  | .vsubFp h d a b k ty => Sys2Proof.Machine.execVsubFp h d a b k ty s
  | .vmulFp h d a b k ty => Sys2Proof.Machine.execVmulFp h d a b k ty s
  | .vminFp h d a b k ty => Sys2Proof.Machine.execVminFp h d a b k ty s
  | .vmaxFp h d a b k ty => Sys2Proof.Machine.execVmaxFp h d a b k ty s
  | .vabsFp h d a k ty => Sys2Proof.Machine.execVabsFp h d a k ty s
  | .vnegFp h d a k ty => Sys2Proof.Machine.execVnegFp h d a k ty s
  | .vfma h d a b c k ty => Sys2Proof.Machine.execVfma h d a b c k ty s
  | .vfms h d a b c k ty => Sys2Proof.Machine.execVfms h d a b c k ty s
  | .vfnma h d a b c k ty => Sys2Proof.Machine.execVfnma h d a b c k ty s
  | .vdot2 h d a b c k ty => Sys2Proof.Machine.execVdot2 h d a b c k ty s
  | .vdot4 h d a b c k ty => Sys2Proof.Machine.execVdot4 h d a b c k ty s
  | .vcmp h cond d a b k ty => Sys2Proof.Machine.execVcmp h cond d a b k ty s
  | .vand h d a b k ty => Sys2Proof.Machine.execVand h d a b k ty s
  | .vor h d a b k ty => Sys2Proof.Machine.execVor h d a b k ty s
  | .vxor h d a b k ty => Sys2Proof.Machine.execVxor h d a b k ty s
  | .vandn h d a b k ty => Sys2Proof.Machine.execVandn h d a b k ty s
  | .vshl h d a b k ty => Sys2Proof.Machine.execVshl h d a b k ty s
  | .vshr h d a b k ty => Sys2Proof.Machine.execVshr h d a b k ty s
  | .vsar h d a b k ty => Sys2Proof.Machine.execVsar h d a b k ty s
  | .vsel h d c a b ty => Sys2Proof.Machine.execVsel h d c a b ty s
  | .vcvt h d a k ty sty part => Sys2Proof.Machine.execVcvt h d a k ty sty part s
  | .vqmx h d a c ty sty part => Sys2Proof.Machine.execVqmx h d a c ty sty part s
  | .vdqmx h d a c k ty sty part => Sys2Proof.Machine.execVdqmx h d a c k ty sty part s
  | .vexp2 h d a k => Sys2Proof.Machine.execVexp2 h d a k s
  | .vlog2 h d a k => Sys2Proof.Machine.execVlog2 h d a k s
  | .vrcp h d a k => Sys2Proof.Machine.execVrcp h d a k s
  | .vrsqrt h d a k => Sys2Proof.Machine.execVrsqrt h d a k s
  | .vsqrt h d a k => Sys2Proof.Machine.execVsqrt h d a k s
  | .vperm h d a b k ty => Sys2Proof.Machine.execVperm h d a b k ty s
  | .vperm2 h d a b c k ty => Sys2Proof.Machine.execVperm2 h d a b c k ty s
  | .vbcast h d a k ty => Sys2Proof.Machine.execVbcast h d a k ty s
  | .vbcastl h d a b k ty => Sys2Proof.Machine.execVbcastl h d a b k ty s
  | .vrot h d a b k ty => Sys2Proof.Machine.execVrot h d a b k ty s
  | .vcompress h d a k ty => Sys2Proof.Machine.execVcompress h d a k ty s
  | .vexpand h d a k ty => Sys2Proof.Machine.execVexpand h d a k ty s
  | .vext h d a idx ty => Sys2Proof.Machine.execVext h d a idx ty s
  | .vins h d a idx ty => Sys2Proof.Machine.execVins h d a idx ty s
  | .vredsum h d a k ty => Sys2Proof.Machine.execVredsum h d a k ty s
  | .vredmin h d a k ty => Sys2Proof.Machine.execVredmin h d a k ty s
  | .vredmax h d a k ty => Sys2Proof.Machine.execVredmax h d a k ty s
  | .vredand h d a k ty => Sys2Proof.Machine.execVredand h d a k ty s
  | .vredor h d a k ty => Sys2Proof.Machine.execVredor h d a k ty s
  | .vredxor h d a k ty => Sys2Proof.Machine.execVredxor h d a k ty s
  | .vscan h op d a k ty sat => Sys2Proof.Machine.execVscan h op d a k ty sat s
  | .vargmax h d a k ty => Sys2Proof.Machine.execVargmax h d a k ty s
  | .vargmin h d a k ty => Sys2Proof.Machine.execVargmin h d a k ty s
  | .vrng h d a b k ty => Sys2Proof.Machine.execVrng h d a b k ty s
  | .vptest h d a k => Sys2Proof.Machine.execVptest h d a k s
  | .vldi h d imm => Sys2Proof.Machine.execVldi h d imm s
  | .vldiI64 h d imm => Sys2Proof.Machine.execVldiI64 h d imm s
  | .viota h d imm => Sys2Proof.Machine.execViota h d imm s
  | .kand h d a b => Sys2Proof.Machine.execKand h d a b s
  | .kor h d a b => Sys2Proof.Machine.execKor h d a b s
  | .kxor h d a b => Sys2Proof.Machine.execKxor h d a b s
  | .kandn h d a b => Sys2Proof.Machine.execKandn h d a b s
  | .knot h d a => Sys2Proof.Machine.execKnot h d a s
  | .kpopc h d a => Sys2Proof.Machine.execKpopc h d a s
  | .kffs h d a => Sys2Proof.Machine.execKffs h d a s
  | .hdef h d a g => Sys2Proof.Machine.execHdef h d a g s
  | .hld h d a off => Sys2Proof.Machine.execHld h d a off s
  | .hst h d a g => Sys2Proof.Machine.execHst h d a g s
  | .hinv h d all => Sys2Proof.Machine.execHinv h d all s
  | .ldt h d hr cbase ty k cp => Sys2Proof.Machine.execLdt h d hr cbase ty k cp s
  | .stt h d hr cbase ty k cp => Sys2Proof.Machine.execStt h d hr cbase ty k cp s
  | .ldtb h d hr cbase ty k cp sc sr => Sys2Proof.Machine.execLdtb h d hr cbase ty k cp sc sr s
  | .sttb h d hr cbase ty k cp sc sr => Sys2Proof.Machine.execSttb h d hr cbase ty k cp sc sr s
  | .hrelayout h d a hr tag cslot ctok nb => Sys2Proof.Machine.execHrelayout h d a hr tag cslot ctok nb s
  | .hwait h hr => Sys2Proof.Machine.execHwait h hr s
  | .hstat h d hr => Sys2Proof.Machine.execHstat h d hr s
  | .mma h ty m cl => Sys2Proof.Machine.execMma h ty m cl s
  | .mmx h ty m cl => Sys2Proof.Machine.execMmx h ty m cl s
  | .mmi h f m cl => Sys2Proof.Machine.execMmi h f m cl s
  | .mmaG h ty m cl => Sys2Proof.Machine.execMmaG h ty m cl s
  | .mmxG h ty m cl => Sys2Proof.Machine.execMmxG h ty m cl s
  | .mgang h y gr gc gR gC q cl => Sys2Proof.Machine.execMgang h y gr gc gR gC q cl s
  | .mgangFree h q cl => Sys2Proof.Machine.execMgangFree h q cl s
  | .mcfg h shape sort cl => Sys2Proof.Machine.execMcfg h shape sort cl s
  | .mzero h bank q cl => Sys2Proof.Machine.execMzero h bank q cl s
  | .mscaleRow h y bank q cl => Sys2Proof.Machine.execMscaleRow h y bank q cl s
  | .mscaleCol h y bank q cl => Sys2Proof.Machine.execMscaleCol h y bank q cl s
  | .mld h x bank hr ty q cl => Sys2Proof.Machine.execMld h x bank hr ty q cl s
  | .mst h x bank hr ty q cl => Sys2Proof.Machine.execMst h x bank hr ty q cl s
  | .mrow h x y bank ty half q cl => Sys2Proof.Machine.execMrow h x y bank ty half q cl s
  | .msort h x y q cl => Sys2Proof.Machine.execMsort h x y q cl s
  | .mtopk h x y k1 clr rd q cl => Sys2Proof.Machine.execMtopk h x y k1 clr rd q cl s
  | .mstat h d sel => Sys2Proof.Machine.execMstat h d sel s
  | .ld h sx d sz m at_ => Sys2Proof.Machine.execLd h sx d sz m at_ s
  | .st h d sz m at_ => Sys2Proof.Machine.execSt h d sz m at_ s
  | .lds h sx d sz m => Sys2Proof.Machine.execLds h sx d sz m s
  | .sts h d sz m => Sys2Proof.Machine.execSts h d sz m s
  | .vld h d sz m at_ => Sys2Proof.Machine.execVld h d sz m at_ s
  | .vst h d sz m at_ => Sys2Proof.Machine.execVst h d sz m at_ s
  | .vlds h d sz m => Sys2Proof.Machine.execVlds h d sz m s
  | .vsts h d sz m => Sys2Proof.Machine.execVsts h d sz m s
  | .vgath h d b8 m cp => Sys2Proof.Machine.execVgath h d b8 m cp s
  | .vscat h d b8 m cp => Sys2Proof.Machine.execVscat h d b8 m cp s
  | .ldc h f d m => Sys2Proof.Machine.execLdc h f d m s
  | .pref h sz m cp => Sys2Proof.Machine.execPref h sz m cp s
  | .prefConst h sz m => Sys2Proof.Machine.execPrefConst h sz m s
  | .atom h op d sz m at_ => Sys2Proof.Machine.execAtom h op d sz m at_ s
  | .red h op d sz m at_ => Sys2Proof.Machine.execRed h op d sz m at_ s
  | .cas h d b8 m at_ => Sys2Proof.Machine.execCas h d b8 m at_ s
  | .xadd h r m scope rel => Sys2Proof.Machine.execXadd h r m scope rel s
  | .xrd h d m scope acq => Sys2Proof.Machine.execXrd h d m scope acq s
  | .xrdClr h d m scope ord => Sys2Proof.Machine.execXrdClr h d m scope ord s
  | .fence h kind scope => Sys2Proof.Machine.execFence h kind scope s
  | .cinv h => Sys2Proof.Machine.execCinv h s
  | .cinvLine h a => Sys2Proof.Machine.execCinvLine h a s
  | .sdef h x slot cl => Sys2Proof.Machine.execSdef h x slot cl s
  | .carm h x slot wm wmen cl => Sys2Proof.Machine.execCarm h x slot wm wmen cl s
  | .sgo h slot z cl => Sys2Proof.Machine.execSgo h slot z cl s
  | .sstop h slot cl => Sys2Proof.Machine.execSstop h slot cl s
  | .sstat h x slot sel cl => Sys2Proof.Machine.execSstat h x slot sel cl s
  | .cdis h slot cl => Sys2Proof.Machine.execCdis h slot cl s
  | .copy h x z wm wmen cl => Sys2Proof.Machine.execCopy h x z wm wmen cl s
  | .staload h x y slot cl => Sys2Proof.Machine.execStaload h x y slot cl s
  | .staloadUpd h x y slot cl => Sys2Proof.Machine.execStaloadUpd h x y slot cl s
  | .stafree h y slot cl => Sys2Proof.Machine.execStafree h y slot cl s
  | .stastat h x y slot sel cl => Sys2Proof.Machine.execStastat h x y slot sel cl s
  | .rgload h x y cl => Sys2Proof.Machine.execRgload h x y cl s
  | .rgswap h y cl => Sys2Proof.Machine.execRgswap h y cl s
  | .rgswapForce h y cl => Sys2Proof.Machine.execRgswapForce h y cl s
  | .rgsave h y cl => Sys2Proof.Machine.execRgsave h y cl s
  | .rgrest h y cl => Sys2Proof.Machine.execRgrest h y cl s
  | .rgclk h a f => Sys2Proof.Machine.execRgclk h a f s
  | .rgfrz h a => Sys2Proof.Machine.execRgfrz h a s
  | .rgfrzDrain h a => Sys2Proof.Machine.execRgfrzDrain h a s
  | .rgthaw h a => Sys2Proof.Machine.execRgthaw h a s
  | .rgstat h d a => Sys2Proof.Machine.execRgstat h d a s
  | .mfs h d sys => Sys2Proof.Machine.execMfs h d sys s
  | .mts h a sys => Sys2Proof.Machine.execMts h a sys s
  | .trap h code => Sys2Proof.Machine.execTrap h code s
  | .brk h code => Sys2Proof.Machine.execBrk h code s
  | .resume h => Sys2Proof.Machine.execResume h s
  | .resumeNext h => Sys2Proof.Machine.execResumeNext h s
  | .abort h => Sys2Proof.Machine.execAbort h s
  | .tlbinv h k => Sys2Proof.Machine.execTlbinv h k s
  | .ctxsv h d a ctx => Sys2Proof.Machine.execCtxsv h d a ctx s
  | .ctxld h d a ctx => Sys2Proof.Machine.execCtxld h d a ctx s
  | .smap h d a cap => Sys2Proof.Machine.execSmap h d a cap s
  | .pclr h f => Sys2Proof.Machine.execPclr h f s
  | .firingBudgetExpiry g => Sys2Proof.Machine.execFiringBudgetExpiry g s
  | .firingStart g => Sys2Proof.Machine.execFiringStart g s
  | .handlerFiring g => Sys2Proof.Machine.execHandlerFiring g s
  | .nonDelegatedTrap g => Sys2Proof.Machine.execNonDelegatedTrap g s
  | .tokenArrival q c edge => Sys2Proof.Machine.execTokenArrival q c edge s
  | .creditReturn q c edge => Sys2Proof.Machine.execCreditReturn q c edge s
  | .actorEnableArrival q c => Sys2Proof.Machine.execActorEnableArrival q c s
  | .tqPendingSignal t tq => Sys2Proof.Machine.execTqPendingSignal t tq s
  | .groupOperation g => Sys2Proof.Machine.execGroupOperation g s
  | .groupResponse g n => Sys2Proof.Machine.execGroupResponse g n s
  | .submission q w rcd => Sys2Proof.Machine.execSubmission q w rcd s
  | .launchSetup q c d => Sys2Proof.Machine.execLaunchSetup q c d s
  | .configurationAcknowledgement q c src => Sys2Proof.Machine.execConfigurationAcknowledgement q c src s
  | .launchEnable q c => Sys2Proof.Machine.execLaunchEnable q c s
  | .sourceEnable q c => Sys2Proof.Machine.execSourceEnable q c s
  | .launchComplete q c => Sys2Proof.Machine.execLaunchComplete q c s
  | .launchAbort q c => Sys2Proof.Machine.execLaunchAbort q c s
  | .timeSliceCommand bytes rcd => Sys2Proof.Machine.execTimeSliceCommand bytes rcd s
  | .timeSliceApply t => Sys2Proof.Machine.execTimeSliceApply t s
  | .seqRegisterArrival t => Sys2Proof.Machine.execSeqRegisterArrival t s
  | .writeCoalescingDrain g n => Sys2Proof.Machine.execWriteCoalescingDrain g n s
  | .sliceAccess g n => Sys2Proof.Machine.execSliceAccess g n s
  | .sliceFill mctx line => Sys2Proof.Machine.execSliceFill mctx line s
  | .memoryResponse g n => Sys2Proof.Machine.execMemoryResponse g n s
  | .lostRequest g n reason => Sys2Proof.Machine.execLostRequest g n reason s
  | .tableWalk t mctx va => Sys2Proof.Machine.execTableWalk t mctx va s
  | .fractRetry q => Sys2Proof.Machine.execFractRetry q s
  | .fractFail q => Sys2Proof.Machine.execFractFail q s
  | .matrixOpStart t q => Sys2Proof.Machine.execMatrixOpStart t q s
  | .waveFetch t q => Sys2Proof.Machine.execWaveFetch t q s
  | .matrixOpComplete t q => Sys2Proof.Machine.execMatrixOpComplete t q s
  | .sweepStart t => Sys2Proof.Machine.execSweepStart t s
  | .sweepEnd t => Sys2Proof.Machine.execSweepEnd t s
  | .gangFormation t q => Sys2Proof.Machine.execGangFormation t q s
  | .requestStart cg => Sys2Proof.Machine.execRequestStart cg s
  | .engineBeat cg n => Sys2Proof.Machine.execEngineBeat cg n s
  | .requestComplete cg n => Sys2Proof.Machine.execRequestComplete cg n s
  | .templateFiring g slot => Sys2Proof.Machine.execTemplateFiring g slot s
  | .pushProgramPass slice j => Sys2Proof.Machine.execPushProgramPass slice j s
  | .relayoutAcknowledgement conv cluster => Sys2Proof.Machine.execRelayoutAcknowledgement conv cluster s
  | .conversionUnitStart conv unit => Sys2Proof.Machine.execConversionUnitStart conv unit s
  | .conversionUnitDone conv unit => Sys2Proof.Machine.execConversionUnitDone conv unit s
  | .staBeat cg n => Sys2Proof.Machine.execStaBeat cg n s
  | .staloadComplete cg slot => Sys2Proof.Machine.execStaloadComplete cg slot s
  | .stafreeComplete cg slot => Sys2Proof.Machine.execStafreeComplete cg slot s
  | .stagingDone r => Sys2Proof.Machine.execStagingDone r s
  | .swapToken r => Sys2Proof.Machine.execSwapToken r s
  | .drainComplete r => Sys2Proof.Machine.execDrainComplete r s
  | .drainBudgetExpiry r => Sys2Proof.Machine.execDrainBudgetExpiry r s
  | .clockRelock r => Sys2Proof.Machine.execClockRelock r s
  | .powerWindow r tenthWatts => Sys2Proof.Machine.execPowerWindow r tenthWatts s
  | .packetQuarantine x => Sys2Proof.Machine.execPacketQuarantine x s
  | .flitReplay x => Sys2Proof.Machine.execFlitReplay x s
  | .linkPortDown port => Sys2Proof.Machine.execLinkPortDown port s
  | .linkRetrain port => Sys2Proof.Machine.execLinkRetrain port s
  | .uncorrectableError p => Sys2Proof.Machine.execUncorrectableError p s
  | .correctedError pa => Sys2Proof.Machine.execCorrectedError pa s
  | .thermalSample n temp => Sys2Proof.Machine.execThermalSample n temp s
  | .level2Escalation stack => Sys2Proof.Machine.execLevel2Escalation stack s
  | .selfRefreshEntry pc => Sys2Proof.Machine.execSelfRefreshEntry pc s
  | .limiterEngage => Sys2Proof.Machine.execLimiterEngage s
  | .limiterStepDown => Sys2Proof.Machine.execLimiterStepDown s
  | .limiterStepUp => Sys2Proof.Machine.execLimiterStepUp s
  | .hangDetected q => Sys2Proof.Machine.execHangDetected q s
  | .apertureRead q off n => Sys2Proof.Machine.execApertureRead q off n s
  | .apertureWrite q off bytes => Sys2Proof.Machine.execApertureWrite q off bytes s
  | .apertureAtomicop q off op isCas b8 v cmp => Sys2Proof.Machine.execApertureAtomicop q off op isCas b8 v cmp s
  | .cqhead q fault v => Sys2Proof.Machine.execCqhead q fault v s
  | .featctlGo => Sys2Proof.Machine.execFeatctlGo s
  | .hbmThr v => Sys2Proof.Machine.execHbmThr v s
  | .mcElogw3 => Sys2Proof.Machine.execMcElogw3 s
  | .registerWrite r v => Sys2Proof.Machine.execRegisterWrite r v s
  | .getVersion f => Sys2Proof.Machine.execGetVersion f s
  | .getCapabilities f => Sys2Proof.Machine.execGetCapabilities f s
  | .negotiateAlgorithms f ok => Sys2Proof.Machine.execNegotiateAlgorithms f ok s
  | .getDigests f => Sys2Proof.Machine.execGetDigests f s
  | .getCertificate f => Sys2Proof.Machine.execGetCertificate f s
  | .challenge r => Sys2Proof.Machine.execChallenge r s
  | .getMeasurements r index => Sys2Proof.Machine.execGetMeasurements r index s
  | .keyExchange r => Sys2Proof.Machine.execKeyExchange r s
  | .finish f => Sys2Proof.Machine.execFinish f s
  | .heartbeat f => Sys2Proof.Machine.execHeartbeat f s
  | .keyUpdate f => Sys2Proof.Machine.execKeyUpdate f s
  | .endSession f => Sys2Proof.Machine.execEndSession f s
  | .unsupportedRequest f => Sys2Proof.Machine.execUnsupportedRequest f s
  | .keyload q slot hostvis wrapped => Sys2Proof.Machine.execKeyload q slot hostvis wrapped s
  | .keyerase q slot => Sys2Proof.Machine.execKeyerase q slot s
  | .keystat q slot => Sys2Proof.Machine.execKeystat q slot s
  | .ideKm f stream => Sys2Proof.Machine.execIdeKm f stream s
  | .lockInterface r => Sys2Proof.Machine.execLockInterface r s
  | .tdiUnlock q error => Sys2Proof.Machine.execTdiUnlock q error s
  | .partitionCreate q clusters keys peer host owner mapArea => Sys2Proof.Machine.execPartitionCreate q clusters keys peer host owner mapArea s
  | .partitionDestroy q => Sys2Proof.Machine.execPartitionDestroy q s
  | .powerOn => Sys2Proof.Machine.execPowerOn s
  | .functionReady u => Sys2Proof.Machine.execFunctionReady u s
  | .deviceReset => Sys2Proof.Machine.execDeviceReset s
  | .operatorEmit r port accept => Sys2Proof.Machine.execOperatorEmit r port accept s
  | .operatorIdle r => Sys2Proof.Machine.execOperatorIdle r s

end Sys2Proof.Machine
end

