-- ==== Sys2Proof/Machine/Sequence.lean ====
section
/-! DEFINITION. How a step is chosen: the fetch and decode of an instruction, the arbitration of a
tile's contexts, the acts of the units that issue nothing, and the cycle count (R36, R37, R52, R129,
R136, R139, R141 to R145, R435; the order among units is the model's, log 3). -/

namespace Sys2Proof.Machine

/-! ### One instruction of an agent -/

/-- The bytes of the next instruction of an agent, decoded (R36, R52). -/
def State.fetch (s : State) (g : AgentId) : Option Decoded :=
  decodeBytes (g == .mgmt) (cellsRead (s.imem g) (s.ctx g).pc.toNat 8)

/-- The address of the next instruction; past the last word of instruction memory it is 2^18 (R37). -/
def Ctx.pcNat (c : Ctx) : Nat := c.pc.toNat + if c.pcOver then 2 ^ 18 else 0

/-- What comes before the budget's trap at an instruction: the decode fault of a word of the management core
(R52), and an owed fault, to which every precise fault but that gives way (R385, R390). -/
def goesFirst (s : State) (g : AgentId) (i : Instr) : Bool :=
  (firmwareOnly i && g != .mgmt) || (s.ctx g).owedAny.isSome || (predHolds (s.ctx g) i && ((s.ctx g).owedDue i).isSome)

/-- The instruction would be the first past the firing's budget, and its trap is what it meets (R136). -/
def budgetTraps (s : State) (g : AgentId) (i : Instr) : Bool := budgetSpent s g && !goesFirst s g i

/-- A group instruction blocks the context: its next instruction does not issue, nor is it checked (R52, R170). -/
def Ctx.blocked (c : Ctx) : Bool := c.groups.any (fun r => r.block)

/-- Fetch, decode and run the next instruction of the agent s.cur, unless a group instruction blocks it: cause 0x06 past the range of the
context, cause 0x01 or 0x02 for a word that is no instruction, the budget's trap, or the instruction. -/
def runAgent (s : State) : Out :=
  let g := s.cur
  let pc := (s.ctx g).pcNat
  if (s.ctx g).blocked then .next s
  else if (s.view g).inRange pc then
    match s.fetch g with
    | some (.instr i) => if budgetTraps s g i then execFiringBudgetExpiry g s else exec i s
    | some (.illegal d) => .next (takeTrap s g [] 0x01 d 0 none)
    | some (.reserved m) => .next (takeTrap s g [] 0x02 m 0 none)
    | none => .next s
  else .next (takeTrap s g [] 0x06 pc pc none)

/-! ### Arbitration (R141 to R143, R435) -/

/-- The context has a firing, or runs a handler. -/
def Ctx.active (c : Ctx) : Bool := c.phase == .running || c.phase == .inHandler

/-- The tile's current cycle is not withheld (R435). -/
def State.allowed (s : State) (t : Fin 256) : Bool :=
  let i := (s.dies.get (dieOfTile t)).cycle.toNat % 16
  let e := (s.tile t).thrEff.val
  decide (i * e / 16 < (i + 1) * e / 16)

/-- The issues that a context's floor F is worth in a window: floor(F × n / 16) when the throttle allows n
of every 16 slots (R143, R435). -/
def State.floorOf (s : State) (t : Fin 256) (c : Fin 4) : Nat :=
  bitsAt (s.tile t).floor.toNat (4 * c.val) 4 * (s.tile t).thrEff.val / 16

/-- The context has issued less than its floor in this window. -/
def State.owedSlot (s : State) (t : Fin 256) (c : Fin 4) : Bool := decide (((s.tile t).ctx.get c).winIssues < s.floorOf t c)

/-- Context a goes before b (R142): owed floors, then priority, then the least recent issue. -/
def State.ahead (s : State) (t : Fin 256) (a b : Fin 4) : Bool :=
  let pri := fun (c : Fin 4) => bitsAt (s.tile t).ctxpri.toNat (4 * c.val) 3
  let last := fun (c : Fin 4) => ((s.tile t).ctx.get c).lastIssue
  if s.owedSlot t a != s.owedSlot t b then s.owedSlot t a
  else if pri a ≠ pri b then decide (pri b < pri a)
  else match last a, last b with
    | none, none => decide (a ≤ b)
    | none, some _ => true
    | some _, none => false
    | some x, some y => decide (x ≤ y)

/-- Put a context where it ranks. -/
def State.rank (s : State) (t : Fin 256) (a : Fin 4) : List (Fin 4) → List (Fin 4)
  | [] => [a]
  | b :: r => if s.ahead t a b then a :: b :: r else b :: s.rank t a r

/-- The contexts of a tile that have a firing, the one that goes first in front. -/
def State.contenders (s : State) (t : Fin 256) : List (Fin 4) :=
  ((List.finRange 4).filter (fun c => ((s.tile t).ctx.get c).active)).foldl (fun l c => s.rank t c l) []

/-- The agent has issued, or trapped. -/
def issuedSince (s s1 : State) (g : AgentId) : Bool := s1.order g != s.order g || !s1.agenda.isEmpty

/-- One agent of a list issues: the first whose instruction is not held. -/
def tryIssue : List AgentId → State → Out
  | [], s => .next s
  | g :: gs, s =>
    match runAgent { s with cur := g } with
    | .next s1 => if issuedSince s s1 g then .next s1 else tryIssue gs s1
    | o => o

/-- The scheduler of an idle context has a firing to start (R129, R139). -/
def State.startable (s : State) (g : AgentId) : Bool := (s.ctx g).phase == .idle && s.settled g && (s.pickInst g).isSome

/-! ### The units that issue nothing -/

/-- What an act leaves. -/
def after (s : State) (o : Out) : State :=
  match o with
  | .next s1 => s1
  | _ => s

/-- Acts one after another. -/
def acts (fs : List (State → Out)) (s : State) : State := fs.foldl (fun s f => after s (f s)) s

/-- The positions of a list, the last one first. -/
def downFrom (n : Nat) : List Nat := (List.range n).reverse

/-- The buffer entries of a context that have not been written for 64 cycles (R257). -/
def oldLines (s : State) (g : AgentId) : List Nat :=
  (downFrom (s.ctx g).wcb.length).filter (fun n => match (s.ctx g).wcb[n]? with
    | some w => decide (w.last + 64 ≤ (s.dies.get (agentDie g)).cycle.toNat)
    | none => false)

/-- The requests and group instructions of an agent. -/
def agentActs (s : State) (g : AgentId) : List (State → Out) :=
  let n := (s.ctx g).reqs.length
  (oldLines s g).map (execWriteCoalescingDrain g)
    ++ [fun s => .next (s.flushAll g)]
    ++ (List.range n).map (execSliceAccess g)
    ++ (downFrom n).map (execMemoryResponse g)
    ++ [execGroupOperation g]
    ++ (downFrom (s.ctx g).groups.length).map (execGroupResponse g)
    ++ [execHandlerFiring g]

/-- The writes to SEQ_CTXPRI and SEQ_FLOOR that reach tile t's sequencer in this cycle (R140, R147). -/
def State.arrive (s : State) (t : Fin 256) : State := acts [execSeqRegisterArrival t, execTimeSliceApply t] s

/-- A tile: walks, requests, queues, templates and its matrix array. -/
def tileActs (s : State) (t : Fin 256) : List (State → Out) :=
  (s.tile t).walks.map (fun w => execTableWalk t w.1 w.2)
    ++ (List.finRange 4).flatMap (fun c => agentActs s (.tile t c))
    ++ (List.finRange 16).map (execTqPendingSignal t)
    ++ (List.finRange 4).flatMap (fun q => [execGangFormation t q, execMatrixOpStart t q, execWaveFetch t q, execMatrixOpComplete t q])
    ++ [execSweepStart t, execSweepEnd t]
    ++ (List.finRange 4).flatMap (fun c => (List.finRange 16).map (execTemplateFiring (.tile t c)))

/-- A cluster: slice fills, its stream engine, its transform array and its push programs. -/
def clusterActs (s : State) (i : Fin 32) : List (State → Out) :=
  let x := s.clusters.get i
  (List.finRange 10).flatMap (fun n => (x.slices.get n).miss.map (fun e => execSliceFill e.mctx e.line))
    ++ [execRequestStart i]
    ++ (List.range x.eng.length).flatMap (fun n => [execStaBeat i n, execEngineBeat i n])
    ++ (downFrom x.eng.length).map (execRequestComplete i)
    ++ (List.finRange 8).flatMap (fun k => [execStaloadComplete i k, execStafreeComplete i k])
    ++ (List.finRange 10).flatMap (fun n => (List.finRange 4).map (fun j =>
        execPushProgramPass (Fin.ofNat 320 (10 * i.val + n.val)) j))

/-- A region: its operator, staging, swap port, drain and synthesiser. -/
def regionActs (r : Fin 128) : List (State → Out) :=
  [execStagingDone r, execClockRelock r, execSwapToken r]
    ++ (List.finRange 14).flatMap (fun m => [execOperatorEmit r m true, execOperatorEmit r m false])
    ++ [execOperatorIdle r, execDrainComplete r]

/-- A launch: set-up, enabling, its edges and its completion. -/
def launchActs (l : Launch) : List (State → Out) :=
  [execLaunchSetup l.q l.c 0, execLaunchSetup l.q l.c 1]
    ++ [execConfigurationAcknowledgement l.q l.c (.die 0), execConfigurationAcknowledgement l.q l.c (.die 1),
        execLaunchEnable l.q l.c, execSourceEnable l.q l.c, execActorEnableArrival l.q l.c]
    ++ (l.edges.filter (fun e => !e.inflight.isEmpty || e.src.port?.isSome)).map (fun e => execTokenArrival l.q l.c e.num)
    ++ (l.edges.filter (fun e => e.returning != 0)).map (fun e => execCreditReturn l.q l.c e.num)
    ++ [execLaunchComplete l.q l.c]

/-- A conversion: acknowledgements, units done, and the first unit whose page names no engine. -/
def convActs (s : State) (v : Conv) : List (State → Out) :=
  (List.finRange 32).map (execRelayoutAcknowledgement v.id)
    ++ v.busy.map (fun b => execConversionUnitDone v.id b.1)
    ++ ((List.range v.units).find? (fun u => v.waiting u && (unitCg s v u).isNone)).toList.map (execConversionUnitStart v.id)

/-- A map write that waits at its walker asks again (R209, R394). -/
def retryMap (w : MapWrite) (s : State) : Out := .next (if s.mapWrites.contains w then putMap (s.dropMap w) w else s)

/-- The conversion engines: every conversion, the map writes that wait for room, and the unit that each
channel group's engine takes next (R210). -/
def engineActs (s : State) : List (State → Out) :=
  s.convs.flatMap (convActs s)
    ++ (s.mapWrites.filter (fun w => w.tok.isNone)).map retryMap
    ++ (List.finRange 32).filterMap (fun cg => (engineNext s cg).map (fun x => execConversionUnitStart x.1.id x.2))

/-- The edges of the firmware: tokens arrive and credits return (R436). -/
def firmwareEdges (s : State) : State :=
  { s with mgmt := { s.mgmt with fw := s.mgmt.fw.map (fun l =>
    { l with edges := l.edges.map (fun e => { arriveToken 0 e with credits := e.credits + e.returning, returning := 0 }) }) } }

/-- The management core's pending signals. -/
def mgmtSignals (s : State) : State :=
  (List.finRange 16).foldl (fun s q =>
    if 0 < s.pend .mgmt q ∧ s.tq .mgmt q < 63 then (s.setTq .mgmt q (s.tq .mgmt q + 1)).setPend .mgmt q (s.pend .mgmt q - 1) else s) s

/-- Unit n acts once; a tile's operations of the cycle are counted then (R181). -/
def unitAct (n : Nat) (s : State) : State :=
  if h : n < 256 then (acts (tileActs s ⟨n, h⟩) s).settleEvents ⟨n, h⟩
  else if n < 288 then acts (clusterActs s (Fin.ofNat 32 (n - 256))) s
  else if n < 416 then acts (regionActs (Fin.ofNat 128 (n - 288))) s
  else if n = 416 then acts (s.launches.flatMap launchActs) (apertureTurn s)
  else if n = 417 then acts (engineActs s) s
  else runKeyJobs (mgmtSignals (firmwareEdges (acts (agentActs s .mgmt) s)))

/-! ### The cycle count (R142, R145, R435) -/

/-- A tile when its die's count becomes n: the throttle of a new 16-cycle window, and a new floor window. -/
def Tile.tick (y : Tile) (n : Nat) (lim : Fin 32) : Tile :=
  let y1 := if n % 16 = 0 then { y with thrEff := if y.thrN ≤ lim then y.thrN else lim } else y
  if n % 64 = 0 then { y1 with ctx := y1.ctx.map (fun c => { c with winIssues := 0 }) } else y1

/-- A cycle has passed on both dies. -/
def State.tick (s : State) : State :=
  let dies := s.dies.map (fun d => { d with cycle := d.cycle + 1 })
  { s with
    dies := dies
    tiles := Vector.ofFn (fun t => (s.tiles.get t).tick (dies.get (dieOfTile t)).cycle.toNat s.lim) }

/-! ### Turns -/

/-- The turn after a tile's. -/
def afterTile (t : Fin 256) : Turn := if h : t.val + 1 < 256 then .tile ⟨t.val + 1, h⟩ else .mgmt

/-- A tile's turn: a firing starts; or the writes of this cycle reach the sequencer and a context issues,
chosen by the priorities and floors that stood before them (Table 5.1), which a trap of this cycle records
(R382, R390). -/
def tileTurn (t : Fin 256) (s : State) : Out :=
  match (List.finRange 4).find? (fun c => s.startable (.tile t c)) with
  | some c => execFiringStart (.tile t c) s
  | none =>
    let s1 := { s.arrive t with turn := afterTile t }
    if s.allowed t then tryIssue ((s.contenders t).map (fun c => .tile t c)) s1 else .next s1

/-- The management core's turn. -/
def mgmtTurn (s : State) : Out :=
  if s.startable .mgmt then execFiringStart .mgmt s
  else
    let s1 := { s with turn := .unit 0 }
    if s.mgmt.ctx.active then tryIssue [.mgmt] s1 else .next s1

/-- A unit's turn; after the last one the events and the log entries of the cycle are written in their order, and the cycle
has passed (R436, R438). -/
def unitTurn (n : Fin 419) (s : State) : Out :=
  let s1 := unitAct n.val s
  if h : n.val + 1 < 419 then .next { s1 with turn := .unit ⟨n.val + 1, h⟩ }
  else .next { s1.report.tick with turn := .tile 0 }

/-! ### An instruction placed for the next step (log 3) -/

/-- A launch record that grants the whole instruction memory, every bank, queue and token queue, and
device launches: ILIMIT 0x40000, ABANK, MQMASK and TQMASK all ones, DEVL (Table 5.5). -/
def placedRecord : BitVec 512 :=
  BitVec.ofNat 512 (2 ^ 105 + 0x40000 * 2 ^ 146 + 15 * 2 ^ 168 + 15 * 2 ^ 172 + 0xFFFF * 2 ^ 176)

/-- The instance whose firing runs the placed instruction. -/
def placedInst : Inst :=
  { num := 0, tile := 0, prio := 0, handler := false, entry := 0, state := 0, slots := Vector.replicate 16 none,
    enabled := false, wanted := [], started := 1, ended := 0, eosDone := 0, lastFired := none }

/-- The launch of the placed instruction: partition 0, context 0. -/
def placedLaunch : Launch :=
  { id := 0, q := 0, c := 0, rcd := placedRecord, phase := .running, doneDies := [], awaiting := [], mctx := 0, parked := none,
    ending := none, insts := [placedInst], edges := [], handles := [], groups := [], tiles := [0], ranges := [], routes := [], vcs := [],
    regions := [], staSlots := [], pushes := [], boxes := [], notify := none, saving := [], saved := [] }

/-- Context 0 in the firing, at address 0. -/
def placedCtx (c : Ctx) : Ctx :=
  { c with
    pc := 0, pcOver := false, phase := .running, owed := none, reqs := [], groups := []
    serials := c.serials + 1
    firing := some ⟨0, c.serials + 1, 0, Vector.replicate 16 ⟨0, 0, [], false⟩⟩ }

/-- Tile 0 with the word at address 0 and only context 0 in a firing. -/
def placedTile (y : Tile) (w : Word) : Tile :=
  let idle := fun (c : Ctx) => { c with phase := .idle }
  { y with
    imem := cellsWrite y.imem 0 (wordBytes w), thrEff := 16
    mq := Vector.replicate 4 [], cfgs := []
    ctx := #v[placedCtx (y.ctx.get 0), idle (y.ctx.get 1), idle (y.ctx.get 2), idle (y.ctx.get 3)] }

/-- The word as the next instruction: of context 0 of tile 0, in a launch of partition 0, whose turn it is. -/
def State.placed (s : State) (w : Word) : State :=
  { s with
    cur := .tile 0 0, turn := .tile 0, agenda := []
    parts := ⟨0, 1, [], false, false, 0, 0⟩ :: s.parts
    launches := placedLaunch :: s.launches.filter (fun l => l.q != 0)
    tiles := vset s.tiles 0 (placedTile (s.tiles.get 0) w) }

/-- The instruction is a word, which only a sequencer issues. -/
def isWord (i : Instr) : Bool := (encode i).isSome

end Sys2Proof.Machine
end

