-- ==== Sys2Proof/Machine/Step.lean ====
section
/-! DEFINITION. One step of the machine, and an instruction placed where the next step fetches it. -/

namespace Sys2Proof.Machine

/-- A step: the step of its own that the machine has to make next, or else the turn of a sequencer or
of another unit (log 3). A word on the agenda, where only sequencers put no word, is a fault. -/
def step (s : State) : Host.Outcome State Fault Refusal :=
  match s.agenda with
  | i :: rest => if isWord i then .fault .wordOnAgenda else exec i { s with agenda := rest }
  | [] =>
    match s.turn with
    | .tile t => tileTurn t s
    | .mgmt => mgmtTurn s
    | .unit n => unitTurn n s

/-- The instruction whose bits are w, placed where the next step fetches it; the bits above nbits are 0. -/
def State.withFetchWord (s : State) (nbits w : Nat) : State := s.placed (BitVec.ofNat 64 (w % 2 ^ nbits))

end Sys2Proof.Machine
end

