-- ==== Sys2Proof/Safety.lean ====
section
/-! DEFINITION. What counts as a safe step: it answers a next state. Traps are next states of this
machine; a fault or a refusal is none. And the words in which statements are made: when an
instruction issues, and what an instruction that issues leaves. -/

namespace Sys2Proof.Safety

/-- The outcome is a next state. -/
def Completes (o : Host.Outcome Machine.State Machine.Fault Machine.Refusal) : Prop := ∃ t, o = .next t

/-- The next state of an outcome, when it has one. -/
def nextOf : Host.Outcome Machine.State Machine.Fault Machine.Refusal → Option Machine.State
  | .next t => some t
  | _ => none

/-- No word stands on the agenda: the machine's own steps are none of the instruction words. -/
def AgendaClean (s : Machine.State) : Prop := ∀ i ∈ s.agenda, Machine.isWord i = false

/-- The memories of the machine are in canonical form. -/
def MemoryWf (s : Machine.State) : Prop :=
  s.mem.wf = true ∧ s.hostMem.wf = true ∧ ∀ t : Fin 256, (s.tiles.get t).scratch.wf = true

end Sys2Proof.Safety

namespace Sys2Proof.Machine

/-- Nothing keeps the issuing context from issuing the word, and its effect takes place: the context
executes (R33), no interlock holds it (R57, R170), its predicate holds (R39), its wait clause is satisfied
(R47), no owed fault is due at it (R239, R385), and no relayout it waits for is open (R213). -/
def ready (i : Instr) (s : State) : Bool :=
  (s.me.phase == .running || s.me.phase == .inHandler) && !s.interlocked s.cur i && predHolds s.me i
    && s.waitReady s.cur i && (s.due s.cur i).isNone && !(waitsForAcks i && s.unacked s.cur)

/-- The issuing context executes (R33), and no interlock holds the word (R57, R170). -/
def reached (i : Instr) (s : State) : Prop :=
  (s.me.phase = .running ∨ s.me.phase = .inHandler) ∧ s.interlocked s.cur i = false

/-- It is the turn of tile t, with none of the machine's own steps pending and no firing to start, its
cycle is not withheld, and context c goes first among the contexts that have a firing (R142, R435). -/
def turnOf (s : State) (t : Fin 256) (c : Fin 4) (rest : List (Fin 4)) : Prop :=
  s.agenda = [] ∧ s.turn = .tile t ∧ (∀ x : Fin 4, s.startable (.tile t x) = false) ∧ s.allowed t = true
    ∧ s.contenders t = c :: rest

/-- The state in which the sequencer of that turn runs its instruction: the writes of this cycle to its
priorities and floors have reached it (R140). -/
def atTurn (s : State) (t : Fin 256) (c : Fin 4) : State := { s.arrive t with turn := afterTile t, cur := .tile t c }

/-- The issuing context changes by f, and the word has issued: the next one follows. -/
def went (s : State) (f : Ctx → Ctx) : State := (s.modCtx s.cur f).retire s.cur s.me.pc

/-- A word writes S[d] with a poison bit, which s0 discards (R54, R99), and the next word follows. -/
def wroteS (s : State) (d : Fin 32) (v : Word) (po : Bool) : State := went s (fun c => c.writeS d v po)

/-- A word writes P[d], which p0 discards (R54), and the next word follows. -/
def wroteP (s : State) (d : Fin 16) (b : Bool) : State := went s (fun c => c.writeP d b)

/-- A word writes K[d], which k0 discards (R54), and the next word follows. -/
def wroteK (s : State) (d : Fin 8) (v : Word) : State := went s (fun c => c.writeK d v)

/-- A word with engine clauses completes at issue with the state t: its signal is made (R47), and the
next word follows. -/
def completed (i : Instr) (s t : State) : State := (t.signalOpt s.cur (sqOf i)).retire s.cur s.me.pc

/-- What a word with engine clauses leaves when it changes registers of its context and completes at
issue: its wait is taken, the issuing context changes by f, and it completes. -/
def wentE (i : Instr) (s : State) (f : Ctx → Ctx) : State := completed i s ((s.takeWait s.cur i).modCtx s.cur f)

/-- A group instruction has sent its request: stage 0, not yet applied at the object's home. -/
def groupSent (i : Instr) (s : State) (gid : Nat) (op : GroupOp) (dst : Option (Fin 32)) (block : Bool) : State :=
  ((s.takeWait s.cur i).modCtx s.cur (fun c => { c with groups := c.groups ++
    [{ gid := gid, op := op, dst := dst, sq := sqOf i, block := block && !i.clauses.se, by_ := s.issued s.cur,
       stage := 0, phase := 0, value := 0, err := 0 }] })).retire s.cur s.me.pc

/-- A release goes on at once: the context's write-coalescing buffer is empty (R257), and no other context of the tile has
sent a store before the context's mark that is not performed (R282, log 64). -/
def drained (s : State) : Prop := s.me.wcb = [] ∧ s.pastOpen s.cur = false

/-- No check of a list fails. -/
def passes (cs : List (Option (Nat × Nat × Nat))) : Bool := cs.all (fun x => x.isNone)

/-- A vector word writes the selected elements of V[D], counts their events (R178 to R181), and the
next word follows. -/
def wentV (s : State) (d : Fin 32) (t : Ty) (sel : Nat → Bool) (f : Nat → ElemOut) : State :=
  let rs := elemList t sel f
  ((s.modCtx s.cur (fun c => c.writeV d ((c.readV d).update t rs))).vecEvents (evOf rs)).retire s.cur s.me.pc

/-- The precise trap that the word takes, with the registers its fault checks examine (R384). -/
def trapped (s : State) (chk : List RegId) (cause detail addr : Nat) : State :=
  takeTrap s s.cur chk cause detail addr none

/-- The global accesses of a word, each at its own address and with the address its fault reports, pass the
checks of R267 on the address, and nothing holds the word: no acquire is open, no handle write waits for its
unit and fewer than 64 accesses are open (R222, R256, R284); each reported address is aligned, each address
translates with the key that its handle expects (R206), and its target admits the form; the write-coalescing
buffer of a release is empty (R257). -/
def passable (s : State) (k : Kind) (cls : Class) (align : Nat) (eas : List (Nat × Nat)) (a : Attr) : Prop :=
  globalHold s = false
    ∧ (∀ e ∈ eas, e.2 % align = 0
        ∧ ∃ x, resolve s k e.1 = .ok x ∧ cls.allows x.pa = true ∧ (∀ n, a.expect = some n → x.slot = n))
    ∧ (a.rel = true → s.me.wcb = [])

/-- The registers of an address are clean. -/
def addrClean (c : Ctx) (m : AddrArg) : Prop := c.poisS m.base = false ∧ c.poisS m.idx = false

/-- The word sends its accesses, and the next word follows. -/
def sent (s : State) (k : Kind) (a : Attr) (ps : List Part) : State := (sendParts s k a ps).retire s.cur s.me.pc

/-- A scratchpad access may take place: aligned, inside the scratchpad, behind no watermark and no
acquire (R251, R268, R284, R318). -/
def scratchOpen (s : State) (ea n align : Nat) : Prop :=
  ea % align = 0 ∧ ea + n ≤ scratchEnd ∧ scratchHold s ea n = false

/-- The word writes bytes of its tile's scratchpad, and the next word follows. -/
def scratchWrote (s : State) (ea : Nat) (bs : List Byte) : State :=
  (s.modScratch (fun m => m.write ea bs)).retire s.cur s.me.pc

/-- The scratchpad holds a good stream record at S[x]: 64 aligned clean bytes that nothing holds, and
no check of R302 fails (rank rule rk: 0 for a stream, 1 for a copy or a template). -/
def recordAt (s : State) (ins : Instr) (x : Fin 32) (rk : Nat) (rcd : BitVec 512) : Prop :=
  s.me.poisS x = false ∧ scratchOpen s (s.me.readS x).toNat 64 64 ∧ s.maskFault s.cur ins = none
    ∧ rcd = BitVec.ofNat 512 (s.scratch.readNat (s.me.readS x).toNat 64)
    ∧ (s.scratch.readPoison (s.me.readS x).toNat 64).any id = false
    ∧ recOk rcd rk (clusterCount s) (recRank s rcd) = true

/-- The partition group or region that S[y] names is the launch's own to use: l runs here, cg is the
global channel group, and the slot has no other owner (R348). -/
def slotAt (s : State) (ins : Instr) (y : Fin 32) (k : Fin 8) (l : Launch) (cg : Fin 32) : Prop :=
  s.me.poisS y = false ∧ s.launchOf s.cur = some l ∧ s.cgOfPart l.q (s.me.readS y).toNat = some cg
    ∧ (∀ o, (s.staSlot cg k).owner = some o → o = l.id) ∧ s.maskFault s.cur ins = none

/-- S[a] names region r of the partition, which the launch l owns; an instruction that may use a free
region may name an unowned one (R377). -/
def regionAt (s : State) (ins : Instr) (a : Fin 32) (free : Bool) (l : Launch) (r : Fin 128) : Prop :=
  s.me.poisS a = false ∧ s.launchOf s.cur = some l ∧ s.regionOf l.q (s.me.readS a).toNat = some r
    ∧ ((s.region r).owner = some l.id ∨ free = true ∧ (s.region r).owner = none) ∧ s.maskFault s.cur ins = none

/-! ### Frames -/

/-- The registers that a register word writes; none of every other instruction. -/
def registerDests : Instr → Option (List RegId)
  | .nop _ _ => some []
  | .add _ d _ _ _ _ => some [.s d]
  | .sub _ d _ _ _ _ => some [.s d]
  | .mul _ d _ _ _ _ => some [.s d]
  | .mulh _ d _ _ _ => some [.s d]
  | .div _ d _ _ _ => some [.s d]
  | .rem _ d _ _ _ => some [.s d]
  | .min _ d _ _ _ => some [.s d]
  | .max _ d _ _ _ => some [.s d]
  | .and _ d _ _ _ => some [.s d]
  | .or _ d _ _ _ => some [.s d]
  | .xor _ d _ _ _ => some [.s d]
  | .andn _ d _ _ _ => some [.s d]
  | .shl _ d _ _ _ => some [.s d]
  | .shr _ d _ _ _ => some [.s d]
  | .sar _ d _ _ _ => some [.s d]
  | .rol _ d _ _ _ => some [.s d]
  | .cmp _ _ d c _ _ _ => some [.p d, .p c]
  | .clz _ d _ _ => some [.s d]
  | .ctz _ d _ _ => some [.s d]
  | .popc _ d _ _ => some [.s d]
  | .bswap _ d _ _ => some [.s d]
  | .sext _ d _ _ => some [.s d]
  | .addi _ d _ _ => some [.s d]
  | .muli _ d _ _ => some [.s d]
  | .andi _ d _ _ => some [.s d]
  | .ori _ d _ _ => some [.s d]
  | .xori _ d _ _ => some [.s d]
  | .shli _ d _ _ => some [.s d]
  | .shri _ d _ _ => some [.s d]
  | .sari _ d _ _ => some [.s d]
  | .cmpi _ _ d _ _ _ => some [.p d]
  | .ldi _ d _ => some [.s d]
  | .ldih _ d _ _ => some [.s d]
  | .lea _ d _ _ _ _ => some [.s d]
  | .sel _ d _ _ _ => some [.s d]
  | .movSS _ d _ => some [.s d]
  | .movPS _ d _ => some [.p d]
  | .movSP _ d _ => some [.s d]
  | .movKS _ d _ => some [.k d]
  | .movSK _ d _ => some [.s d]
  | .movKK _ d _ => some [.k d]
  | .bra _ cond a _ => some (if cond = .dec then [.s a] else [])
  | .call _ a _ => some [.s a]
  | .jmp _ d _ => some [.s d]
  | .ret _ _ => some []
  | .pset _ d _ => some [.p d]
  | .pand _ d _ _ _ _ => some [.p d]
  | .por _ d _ _ _ _ => some [.p d]
  | .pxor _ d _ _ _ _ => some [.p d]
  | .pnot _ d _ => some [.p d]
  | .vadd _ d _ _ _ _ _ => some [.v d]
  | .vsub _ d _ _ _ _ _ => some [.v d]
  | .vmul _ d _ _ _ _ _ => some [.v d]
  | .vmulh _ d _ _ _ _ => some [.v d]
  | .vmin _ d _ _ _ _ => some [.v d]
  | .vmax _ d _ _ _ _ => some [.v d]
  | .vabs _ d _ _ _ _ => some [.v d]
  | .vneg _ d _ _ _ _ => some [.v d]
  | .vaddFp _ d _ _ _ _ => some [.v d]
  | .vsubFp _ d _ _ _ _ => some [.v d]
  | .vmulFp _ d _ _ _ _ => some [.v d]
  | .vminFp _ d _ _ _ _ => some [.v d]
  | .vmaxFp _ d _ _ _ _ => some [.v d]
  | .vabsFp _ d _ _ _ => some [.v d]
  | .vnegFp _ d _ _ _ => some [.v d]
  | .vfma _ d _ _ _ _ _ => some [.v d]
  | .vfms _ d _ _ _ _ _ => some [.v d]
  | .vfnma _ d _ _ _ _ _ => some [.v d]
  | .vdot2 _ d _ _ _ _ _ => some [.v d]
  | .vdot4 _ d _ _ _ _ _ => some [.v d]
  | .vcmp _ _ d _ _ _ _ => some [.k d]
  | .vand _ d _ _ _ _ => some [.v d]
  | .vor _ d _ _ _ _ => some [.v d]
  | .vxor _ d _ _ _ _ => some [.v d]
  | .vandn _ d _ _ _ _ => some [.v d]
  | .vshl _ d _ _ _ _ => some [.v d]
  | .vshr _ d _ _ _ _ => some [.v d]
  | .vsar _ d _ _ _ _ => some [.v d]
  | .vsel _ d _ _ _ _ => some [.v d]
  | .vcvt _ d _ _ _ _ _ => some [.v d]
  | .vqmx _ d _ c _ _ _ => some [.v d, .s c]
  | .vdqmx _ d _ _ _ _ _ _ => some [.v d]
  | .vexp2 _ d _ _ => some [.v d]
  | .vlog2 _ d _ _ => some [.v d]
  | .vrcp _ d _ _ => some [.v d]
  | .vrsqrt _ d _ _ => some [.v d]
  | .vsqrt _ d _ _ => some [.v d]
  | .vperm _ d _ _ _ _ => some [.v d]
  | .vperm2 _ d _ _ _ _ _ => some [.v d]
  | .vbcast _ d _ _ _ => some [.v d]
  | .vbcastl _ d _ _ _ _ => some [.v d]
  | .vrot _ d _ _ _ _ => some [.v d]
  | .vcompress _ d _ _ _ => some [.v d]
  | .vexpand _ d _ _ _ => some [.v d]
  | .vext _ d _ _ _ => some [.s d]
  | .vins _ d _ _ _ => some [.v d]
  | .vredsum _ d _ _ _ => some [.s d]
  | .vredmin _ d _ _ _ => some [.s d]
  | .vredmax _ d _ _ _ => some [.s d]
  | .vredand _ d _ _ _ => some [.s d]
  | .vredor _ d _ _ _ => some [.s d]
  | .vredxor _ d _ _ _ => some [.s d]
  | .vscan _ _ d _ _ _ _ => some [.v d]
  | .vargmax _ d _ _ _ => some [.s d]
  | .vargmin _ d _ _ _ => some [.s d]
  | .vrng _ d _ _ _ _ => some [.v d]
  | .vptest _ d _ _ => some [.k d]
  | .vldi _ d _ => some [.v d]
  | .vldiI64 _ d _ => some [.v d]
  | .viota _ d _ => some [.v d]
  | .kand _ d _ _ => some [.k d]
  | .kor _ d _ _ => some [.k d]
  | .kxor _ d _ _ => some [.k d]
  | .kandn _ d _ _ => some [.k d]
  | .knot _ d _ => some [.k d]
  | .kpopc _ d _ => some [.s d]
  | .kffs _ d _ => some [.s d]
  | .pclr _ (.scalar d) => some [.s d]
  | .pclr _ (.vector d _) => some [.v d]
  | _ => none

/-- A word that reads or writes global memory: its access is performed later, at the home of its address. -/
def globalWord : Instr → Bool
  | .ld .. | .st .. | .vld .. | .vst .. | .vgath .. | .vscat .. | .atom .. | .red .. | .cas .. | .xadd .. | .xrd ..
  | .xrdClr .. => true
  | _ => false

/-- A context keeps every scalar, predicate, mask and vector register but the listed ones, with their
poison, its handle registers, its trap area and the stream, template and watermark slots. -/
def KeepsRegisters (dst : List RegId) (c d : Ctx) : Prop :=
  (∀ r, .s r ∉ dst → d.readS r = c.readS r ∧ d.poisS r = c.poisS r) ∧ (∀ r, .p r ∉ dst → d.readP r = c.readP r)
    ∧ (∀ r, .k r ∉ dst → d.readK r = c.readK r) ∧ (∀ r, .v r ∉ dst → d.readV r = c.readV r) ∧ d.h = c.h
    ∧ d.trapbase = c.trapbase ∧ d.ss = c.ss ∧ d.tmpl = c.tmpl ∧ d.wm = c.wm

/-- The address is in the 128 bytes of the issuing context's trap record (R384). -/
def inRecord (s : State) (a : Nat) : Prop := s.me.trapbase.toNat ≤ a ∧ a < s.me.trapbase.toNat + 128

/-- HBM and the scratchpads hold the bytes they held, but for the trap record of the issuing context: in its tile's
scratchpad, or in HBM for the management core, whose plain store brings the record's line into plaintext (R389, R416). -/
def KeepsMemory (s t : State) : Prop :=
  (s.cur ≠ .mgmt → (∀ a, t.mem.get a = s.mem.get a) ∧ t.lineKeys = s.lineKeys)
    ∧ (∀ a, ¬(s.cur = .mgmt ∧ inRecord s a) → t.byteAt none a = s.byteAt none a)
    ∧ (∀ x a, ¬((∃ c, s.cur = .tile x c) ∧ inRecord s a) → (t.tile x).scratch.get a = (s.tile x).scratch.get a)

/-- Every other context is as it was, and so are instruction memories, accumulator banks and token
queues. -/
def KeepsOthers (s t : State) : Prop :=
  (∀ g, g ≠ s.cur → t.ctx g = s.ctx g)
    ∧ (∀ x, (t.tile x).imem = (s.tile x).imem ∧ (t.tile x).banks = (s.tile x).banks ∧ (t.tile x).tq = (s.tile x).tq)

end Sys2Proof.Machine
end

