-- ==== Sys2Proof/Certificates/Slice0/Obligations.lean ====
section
/-! DEFINITION. The statements for the provers. OBLIGATIONS.json lists them in the same order, with
the rules of the spec that each one rests on. -/

open Sys2Proof Sys2Proof.Machine Sys2Proof.Safety

/-! ### Encoding, decoding and the step -/

/-- R36, R38 to R53: the decoder gives every instruction back from the word that the encoder writes,
with every operand at every value that the encoding admits. -/
def Obligations.DecodeOfEncode : Prop :=
  ∀ i : Instr, i.wf = true → ∃ w : Word, encode i = some w ∧ decodeBytes false (wordBytes w) = some (.instr i)

/-- Words that the spec writes out decode to the instructions they stand for: one of each class. -/
def Obligations.SpecWordsDecode : Prop :=
  decodeTableWord 64 0x0080000000000000 = some (.nop 0 0)
  ∧ decodeTableWord 64 0x0300220A10205000 = some (.cmp ⟨false, 0⟩ .lt 1 2 4 5 .n32)
  ∧ decodeTableWord 64 0x0508C20000000181 = some (.muli ⟨false, 1⟩ 6 4 3)
  ∧ decodeTableWord 64 0x200127FFFFFFFF00 = some (.bra ⟨false, 0⟩ .dec 9 (-1))
  ∧ decodeTableWord 64 0x300081010061A000 = some (.epop ⟨false, 0⟩ (.vec 4) 2 3 ⟨3, 2, 0, false⟩)
  ∧ decodeTableWord 64 0x3900C38000000182 = some (.gbar ⟨false, 0⟩ 6 7 ⟨0, 0, 1, true⟩)
  ∧ decodeTableWord 64 0x4200620A30050000 = some (.vfma ⟨false, 0⟩ 3 4 (.vec 5) 6 2 .f32)
  ∧ decodeTableWord 64 0x4500A20000011030 = some (.vcvt ⟨false, 0⟩ 5 4 0 .bf16 .f32 1)
  ∧ decodeTableWord 64 0x7100844448000000 = some (.ldt ⟨false, 0⟩ 4 2 8 .bf16 1 0)
  ∧ decodeTableWord 64 0x800146002A480391 = some (.mma ⟨false, 0⟩ .bf16 ⟨10, 12, 0, 2, 4, 5, 1⟩ ⟨0, 0, 3, true⟩)
  ∧ decodeTableWord 64 0xA800A200000809C1 = some (.atom ⟨false, 0⟩ .addF 5 2 ⟨4, 0, 64⟩ ⟨3, 2, 0⟩)
  ∧ decodeTableWord 64 0xC000000000000780 = some (.fence ⟨false, 0⟩ .sc 3)
  ∧ decodeTableWord 64 0xCC00C00002400480 = some (.copy ⟨false, 0⟩ 6 0 2 true ⟨0, 0, 4, true⟩)
  ∧ decodeTableWord 64 0xD800028000000281 = some (.rgswap ⟨false, 0⟩ 5 ⟨0, 0, 2, true⟩)
  ∧ decodeTableWord 64 0xE000085100000001 = some (.mts ⟨false, 0⟩ 16 0xA20)
  ∧ decodeTableWord 64 0xE600800000160000 = some (.pclr ⟨false, 0⟩ (.vector 4 3))

/-- R50, R52, R53: a word that is no never form and whose OP Table 2.9 leaves unassigned is illegal,
with the OP as its detail, on a tile and on the management core. -/
def Obligations.UnassignedOpcodeIsIllegal : Prop :=
  ∀ (m : Bool) (w : Word), field w.toNat 51 5 ≠ 16 →
    (let op := field w.toNat 56 8
     op = 0 ∨ (0x0C ≤ op ∧ op ≤ 0x1F) ∨ (0x24 ≤ op ∧ op ≤ 0x2F) ∨ (0x35 ≤ op ∧ op ≤ 0x37) ∨ (0x3C ≤ op ∧ op ≤ 0x3F)
      ∨ (0x50 ≤ op ∧ op ≤ 0x6F) ∨ (0x77 ≤ op ∧ op ≤ 0x7F) ∨ (0x89 ≤ op ∧ op ≤ 0x9F) ∨ (0xAC ≤ op ∧ op ≤ 0xBF)
      ∨ (0xC2 ≤ op ∧ op ≤ 0xC7) ∨ (0xCF ≤ op ∧ op ≤ 0xD7) ∨ (0xDB ≤ op ∧ op ≤ 0xDF) ∨ 0xE7 ≤ op) →
    decodeBytes m (wordBytes w) = some (.illegal (field w.toNat 56 8))

/-- R39, R43, R44: a never-form word is an instruction without effect, whatever its other 51 bits
hold, and a word whose predicate is false occupies its issue slot and has no effect, unless a fault is owed that any
next instruction takes (R169, R385); the privileged words, which trap in tenant code before their predicate is looked at
(R52), are stated apart. -/
def Obligations.FalsePredicateHasNoEffect : Prop :=
  (∀ (m : Bool) (w : Word), field w.toNat 51 5 = 16 →
    decodeBytes m (wordBytes w) = some (.instr (.nop (BitVec.ofNat 8 (field w.toNat 56 8)) (BitVec.ofNat 51 (field w.toNat 0 51)))))
  ∧ (∀ (op : BitVec 8) (x : BitVec 51) (s : State), reached (.nop op x) s → s.me.owedAny = none →
      Machine.exec (.nop op x) s = .next (s.retire s.cur s.me.pc))
  ∧ (∀ (i : Instr) (s : State), i.isWord = true → (s.cur = .mgmt ∨ firmwareOnly i = false) → reached i s →
      predHolds s.me i = false →
      (s.me.owedAny = none → Machine.exec i s = .next (s.retire s.cur s.me.pc))
      ∧ (∀ o, s.me.owedAny = some o → ∃ chk, Machine.exec i s = .next (takeTrap
          (s.modCtx s.cur (fun c => { c with owed := none })) s.cur chk o.cause o.detail o.addr (some o.by_))))

/-- R57, R100: a word that names a register which an earlier instruction has yet to write does not
issue, whatever the word is.

R47: a word whose wait clause asks for more than its token queue holds does not issue. The queue
lies in the launch's mask (R56).

R122, R165, R239, R385: a deferred fault that is due at a word whose predicate holds and whose wait is
over is delivered there, is consumed, and the word has no effect: the trap carries the fault's cause, detail
and issuing PC. -/
def Obligations.InterlocksWaitsAndOwedFaults : Prop :=
  (∀ (i : Instr) (s : State), i.isWord = true → (s.cur = .mgmt ∨ firmwareOnly i = false) →
     (s.me.phase = .running ∨ s.me.phase = .inHandler) →
     (∃ r ∈ regsOf (rankOf s.me i) i, r.constant = false ∧ r ∈ s.pending s.cur) → Machine.exec i s = .next s) ∧
  (∀ (i : Instr) (s : State), i.isWord = true → reached i s → predHolds s.me i = true →
     0 < i.clauses.wn.val → bitOf (s.view s.cur).tqmask i.clauses.wq.val = true →
     s.tq s.cur i.clauses.wq < i.clauses.wn.val → Machine.exec i s = .next s) ∧
  (∀ (i : Instr) (s : State) (o : Owed), i.isWord = true → (s.cur = .mgmt ∨ firmwareOnly i = false) →
     reached i s → predHolds s.me i = true → s.waitReady s.cur i = true → s.due s.cur i = some o →
     ∃ chk, Machine.exec i s = .next (takeTrap (s.modCtx s.cur (fun c => { c with owed := none })) s.cur chk
       o.cause o.detail o.addr (some o.by_)))

/-- The step runs the decoded instruction: in the turn of a context that goes first, when the bytes
at its program counter hold an instruction and no budget stops it, the step is the meaning of that
instruction, if it is the only context with a firing or if the instruction issues or traps. The state
it runs in has the writes of this cycle to the tile's priorities and floors in it (R140). Words that
hold none trap with cause 0x01 or 0x02 and the detail of R52, an address outside the context's range
with cause 0x06 (R37), and a spent budget with cause 0x10 (R136), unless an owed fault or the decode
fault of a word of the management core goes first (R385, R390). A context that a group instruction blocks is left out: its
next word is not looked at (R170). Two things here are the model's choice and no rule of the spec: the order in which the
agents have their turns, turnOf and atTurn (log 3, DESIGN CHOICE), and that a decode fault goes before a spent budget
(log 13, DEDUCED). -/
def Obligations.StepRunsDecodedInstruction : Prop :=
  ∀ (s : State) (t : Fin 256) (c : Fin 4) (rest : List (Fin 4)), turnOf s t c rest →
    (let g : AgentId := .tile t c
     let a := atTurn s t c
     (a.ctx g).blocked = false →
     ((a.view g).inRange (a.ctx g).pcNat = false →
        Machine.step s = .next (takeTrap a g [] 0x06 (a.ctx g).pcNat (a.ctx g).pcNat none))
     ∧ ((a.view g).inRange (a.ctx g).pcNat = true →
        (∀ d, a.fetch g = some (.illegal d) → Machine.step s = .next (takeTrap a g [] 0x01 d 0 none))
        ∧ (∀ m, a.fetch g = some (.reserved m) → Machine.step s = .next (takeTrap a g [] 0x02 m 0 none))
        ∧ (∀ i, a.fetch g = some (.instr i) →
            (budgetSpent a g = true → (firmwareOnly i = false ∧ (a.ctx g).owedDue i = none) →
                Machine.step s = .next (takeTrap a g [] 0x10 1 0 none))
            ∧ (budgetTraps a g i = false → rest = [] → Machine.step s = Machine.exec i a)
            ∧ (∀ s1, budgetTraps a g i = false → Machine.exec i a = .next s1 → issuedSince a s1 g = true →
                Machine.step s = .next s1))))

/-- The model's own safety: no meaning ends in a fault or a refusal, from whatever state. -/
def Obligations.EveryMeaningAnswers : Prop := ∀ (i : Instr) (s : State), ∃ t, Machine.exec i s = .next t

/-! ### Reset -/

/-- What reset leaves, where the spec gives a value: the thresholds at 16 (R434, R435), the event
counters and their threshold 0 (R240), the trap areas of R383 and R389, SEQ_HANGLIM (R398), MC_EVMASK
(R436), HBM_THR (Table 16.2), HBM_SRIDLE (R429) and the power caps (R356). -/
def Obligations.ResetRegisters : Prop :=
  (∀ t : Fin 256, let y := Machine.State.reset.tile t
    y.thrN = 16 ∧ (∀ k : Fin 3, y.cnt.get k = 0) ∧ y.cntthr = 0
    ∧ (∀ c : Fin 4, (y.ctx.get c).trapbase = BitVec.ofNat 64 (0x17FC00 + 256 * c.val)))
  ∧ Machine.State.reset.lim = 16 ∧ Machine.State.reset.mgmt.evmask = 0xFF ∧ Machine.State.reset.mgmt.ctx.trapbase = 0
  ∧ (∀ i : Fin 32, (Machine.State.reset.clusters.get i).hangLim = 0x80000000)
  ∧ (∀ r : Fin 128, (Machine.State.reset.regions.get r).cap = 22)
  ∧ Machine.State.reset.hbm.thr = 0x3695f5550 ∧ Machine.State.reset.hbm.sridle = 1000

/-- The model's invariants hold after reset: memories in canonical form, no word on the agenda. -/
def Obligations.ResetInvariant : Prop := MemoryWf Machine.State.reset ∧ AgendaClean Machine.State.reset

/-! ### Scalar, address and control words (spec/04_scalar_control.md) -/

/-- R105: the sum, difference, product and high product of the values of both sources, clamped to the
range of the type when sat is set, and the lesser and the greater; poisoned as R99 says.

R107: the bit operations on the w low bits of both sources, and the shifts and the rotation by
S[B] modulo w. -/
def Obligations.ScalarArithmeticAndLogic : Prop :=
  (∀ (h : Hdr) (d a b : Fin 32) (ty : Ty) (sat : Bool) (s : State),
     (let x := ty.val (s.me.readS a).toNat
      let y := ty.val (s.me.readS b).toNat
      let po := s.me.poisS a || s.me.poisS b
      let put := fun (r : Int) => ty.put (if sat then max ty.lo (min ty.hi r) else r)
      (ready (.add h d a b ty sat) s = true → Machine.exec (.add h d a b ty sat) s = .next (wroteS s d (put (x + y)) po))
      ∧ (ready (.sub h d a b ty sat) s = true → Machine.exec (.sub h d a b ty sat) s = .next (wroteS s d (put (x - y)) po))
      ∧ (ready (.mul h d a b ty sat) s = true → Machine.exec (.mul h d a b ty sat) s = .next (wroteS s d (put (x * y)) po))
      ∧ (ready (.mulh h d a b ty) s = true →
         Machine.exec (.mulh h d a b ty) s = .next (wroteS s d (ty.put (x * y / (2 ^ ty.width : Int))) po))
      ∧ (ready (.min h d a b ty) s = true → Machine.exec (.min h d a b ty) s = .next (wroteS s d (ty.put (min x y)) po))
      ∧ (ready (.max h d a b ty) s = true → Machine.exec (.max h d a b ty) s = .next (wroteS s d (ty.put (max x y)) po)))) ∧
  (∀ (h : Hdr) (d a b : Fin 32) (ty : Ty) (s : State),
     (let w := ty.width
      let x := (s.me.readS a).toNat % 2 ^ w
      let y := (s.me.readS b).toNat % 2 ^ w
      let n := (s.me.readS b).toNat % w
      let put := fun (r : Int) => wroteS s d (ty.put r) (s.me.poisS a || s.me.poisS b)
      (ready (.and h d a b ty) s = true → Machine.exec (.and h d a b ty) s = .next (put ((x &&& y : Nat) : Int)))
      ∧ (ready (.or h d a b ty) s = true → Machine.exec (.or h d a b ty) s = .next (put ((x ||| y : Nat) : Int)))
      ∧ (ready (.xor h d a b ty) s = true → Machine.exec (.xor h d a b ty) s = .next (put ((x ^^^ y : Nat) : Int)))
      ∧ (ready (.andn h d a b ty) s = true →
         Machine.exec (.andn h d a b ty) s = .next (put ((x &&& (2 ^ w - 1 - y) : Nat) : Int)))
      ∧ (ready (.shl h d a b ty) s = true → Machine.exec (.shl h d a b ty) s = .next (put ((x * 2 ^ n : Nat) : Int)))
      ∧ (ready (.shr h d a b ty) s = true → Machine.exec (.shr h d a b ty) s = .next (put ((x / 2 ^ n : Nat) : Int)))
      ∧ (ready (.sar h d a b ty) s = true → Machine.exec (.sar h d a b ty) s = .next (put (sextInt x w / (2 ^ n : Int))))
      ∧ (ready (.rol h d a b ty) s = true →
         Machine.exec (.rol h d a b ty) s = .next (put ((x * 2 ^ n + x / 2 ^ (w - n) : Nat) : Int)))))

/-- R106: division truncates toward zero and never traps; its boundary cases are those of Table 4.3,
and the remainder is a − b × Quot(a, b). A word with MOD<0> = 1 and FN 0x03 to 0x07 is reserved. -/
def Obligations.ScalarDivision : Prop :=
  (∀ (h : Hdr) (d a b : Fin 32) (ty : Ty) (s : State),
     (let x := ty.val (s.me.readS a).toNat
      let y := ty.val (s.me.readS b).toNat
      let po := s.me.poisS a || s.me.poisS b
      (ready (.div h d a b ty) s = true →
        (y = 0 → Machine.exec (.div h d a b ty) s = .next (wroteS s d (ty.put (-1)) po))
        ∧ (ty.signed = true → x = ty.lo → y = -1 → Machine.exec (.div h d a b ty) s = .next (wroteS s d (ty.put ty.lo) po))
        ∧ (y ≠ 0 → ¬(ty.signed = true ∧ x = ty.lo ∧ y = -1) →
           Machine.exec (.div h d a b ty) s = .next (wroteS s d (ty.put (Int.tdiv x y)) po)))
      ∧ (ready (.rem h d a b ty) s = true →
        (y = 0 → Machine.exec (.rem h d a b ty) s = .next (wroteS s d (ty.put x) po))
        ∧ (ty.signed = true → x = ty.lo → y = -1 → Machine.exec (.rem h d a b ty) s = .next (wroteS s d (ty.put 0) po))
        ∧ (y ≠ 0 → ¬(ty.signed = true ∧ x = ty.lo ∧ y = -1) →
           Machine.exec (.rem h d a b ty) s = .next (wroteS s d (ty.put (x - y * Int.tdiv x y)) po))))) ∧
  (∀ (m : Bool) (w : Word), field w.toNat 51 5 ≠ 16 → field w.toNat 56 8 = 1 → 3 ≤ field w.toNat 20 7 → field w.toNat 20 7 ≤ 7 →
     field w.toNat 12 5 ≤ 7 → field w.toNat 0 1 = 1 → ∃ k, decodeBytes m (wordBytes w) = some (.reserved k))

/-- R108 to R112, R115: leading and trailing zeros (w for zero), the count of one bits, the bytes in
reverse order, the sign extension from a bit, the immediates, and the address sum of lea. -/
def Obligations.ScalarBitsAndImmediates : Prop :=
  ∀ (h : Hdr) (d a b : Fin 32) (ty : Ty) (n : Fin 64) (imm : BitVec 32) (l : BitVec 45) (sh : Fin 16) (disp : BitVec 8)
    (s : State),
    (let w := ty.width
     let u := (s.me.readS a).toNat % 2 ^ w
     let x := s.me.readS a
     let i := imm.signExtend 64
     let pa := s.me.poisS a
     (ready (.clz h d a ty) s = true → ∃ z, z ≤ w ∧ u < 2 ^ (w - z) ∧ (z < w → 2 ^ (w - z - 1) ≤ u)
        ∧ Machine.exec (.clz h d a ty) s = .next (wroteS s d (BitVec.ofNat 64 z) pa))
     ∧ (ready (.ctz h d a ty) s = true → ∃ z, z ≤ w ∧ u % 2 ^ z = 0 ∧ (z < w → u / 2 ^ z % 2 = 1)
        ∧ Machine.exec (.ctz h d a ty) s = .next (wroteS s d (BitVec.ofNat 64 z) pa))
     ∧ (ready (.popc h d a ty) s = true → Machine.exec (.popc h d a ty) s
        = .next (wroteS s d (BitVec.ofNat 64 ((List.range w).countP (fun j => u.testBit j))) pa))
     ∧ (ready (.bswap h d a ty) s = true → Machine.exec (.bswap h d a ty) s
        = .next (wroteS s d (ty.put (leNat (leBytes (w / 8) u).reverse : Nat)) pa))
     ∧ (ready (.sext h d a n) s = true → Machine.exec (.sext h d a n) s
        = .next (wroteS s d (BitVec.ofInt 64 (sextInt x.toNat (n.val + 1))) pa))
     ∧ (ready (.addi h d a imm) s = true → Machine.exec (.addi h d a imm) s = .next (wroteS s d (x + i) pa))
     ∧ (ready (.muli h d a imm) s = true → Machine.exec (.muli h d a imm) s = .next (wroteS s d (x * i) pa))
     ∧ (ready (.andi h d a imm) s = true → Machine.exec (.andi h d a imm) s = .next (wroteS s d (x &&& i) pa))
     ∧ (ready (.ori h d a imm) s = true → Machine.exec (.ori h d a imm) s = .next (wroteS s d (x ||| i) pa))
     ∧ (ready (.xori h d a imm) s = true → Machine.exec (.xori h d a imm) s = .next (wroteS s d (x ^^^ i) pa))
     ∧ (ready (.shli h d a n) s = true →
        Machine.exec (.shli h d a n) s = .next (wroteS s d (BitVec.ofNat 64 (x.toNat * 2 ^ n.val)) pa))
     ∧ (ready (.shri h d a n) s = true →
        Machine.exec (.shri h d a n) s = .next (wroteS s d (BitVec.ofNat 64 (x.toNat / 2 ^ n.val)) pa))
     ∧ (ready (.sari h d a n) s = true →
        Machine.exec (.sari h d a n) s = .next (wroteS s d (BitVec.ofInt 64 (x.toInt / (2 ^ n.val : Int))) pa))
     ∧ (ready (.ldi h d l) s = true → Machine.exec (.ldi h d l) s = .next (wroteS s d (l.signExtend 64) false))
     ∧ (ready (.ldih h d a imm) s = true → Machine.exec (.ldih h d a imm) s
        = .next (wroteS s d (BitVec.ofNat 64 (x.toNat % 2 ^ 32 + imm.toNat * 2 ^ 32)) pa))
     ∧ (ready (.lea h d a b sh disp) s = true → Machine.exec (.lea h d a b sh disp) s
        = .next (wroteS s d (BitVec.ofInt 64 (x.toInt + (s.me.readS b).toInt * 2 ^ sh.val + disp.toInt))
            (pa || s.me.poisS b))))

/-- R111, R112: the words of ldi and ldih, whatever their immediates. ldi is OP 0x07 and writes IMM45
sign-extended, clean; ldih is OP 0x08 with FN7 0x00, the other values of FN7 being unassigned, and
writes the low half of S[A] below IMM32, with the poison of S[A]. -/
def Obligations.LoadImmediateWords : Prop :=
  ∀ (m : Bool) (w : Word), field w.toNat 51 5 ≠ 16 →
    (let h : Hdr := ⟨field w.toNat 55 1 == 1, Fin.ofNat 16 (field w.toNat 51 4)⟩
     let d := Fin.ofNat 32 (field w.toNat 45 6)
     let a := Fin.ofNat 32 (field w.toNat 39 6)
     let l := BitVec.ofNat 45 (field w.toNat 0 45)
     let imm := BitVec.ofNat 32 (field w.toNat 7 32)
     (field w.toNat 56 8 = 7 → field w.toNat 45 6 < 32 →
        decodeBytes m (wordBytes w) = some (.instr (.ldi h d l))
        ∧ ∀ s : State, ready (.ldi h d l) s = true →
            Machine.exec (.ldi h d l) s = .next (wroteS s d (l.signExtend 64) false))
     ∧ (field w.toNat 56 8 = 8 → field w.toNat 0 7 = 0 → field w.toNat 45 6 < 32 → field w.toNat 39 6 < 32 →
        decodeBytes m (wordBytes w) = some (.instr (.ldih h d a imm))
        ∧ ∀ s : State, ready (.ldih h d a imm) s = true → Machine.exec (.ldih h d a imm) s
            = .next (wroteS s d (BitVec.ofNat 64 ((s.me.readS a).toNat % 2 ^ 32 + imm.toNat * 2 ^ 32)) (s.me.poisS a)))
     ∧ (field w.toNat 56 8 = 8 → field w.toNat 0 7 ≠ 0 →
        decodeBytes m (wordBytes w) = some (.illegal (8 + 256 * field w.toNat 0 7))))

/-- R113, R114: a comparison writes its predicate, and the complement predicate its negation; a
poisoned source traps with cause 0x07 and the number of the first one, before anything is written.

R116 to R118: the six forms of mov, sel, and the predicate words. -/
def Obligations.ComparisonsMovesAndPredicates : Prop :=
  (∀ (h : Hdr) (cond : Cond) (d e : Fin 16) (a b : Fin 32) (ty : Ty) (imm : BitVec 32) (s : State),
     (let x := ty.val (s.me.readS a).toNat
      let y := ty.val (s.me.readS b).toNat
      let k := ty.val (imm.signExtend 64 : Word).toNat
      let holds := fun (u v : Int) => match cond with
        | .eq => decide (u = v) | .ne => decide (u ≠ v) | .lt => decide (u < v)
        | .le => decide (u ≤ v) | .gt => decide (u > v) | .ge => decide (u ≥ v)
      (ready (.cmp h cond d e a b ty) s = true →
        (s.me.poisS a = false → s.me.poisS b = false → Machine.exec (.cmp h cond d e a b ty) s
           = .next (went s (fun c => (c.writeP d (holds x y)).writeP e (!holds x y))))
        ∧ (s.me.poisS a = true → Machine.exec (.cmp h cond d e a b ty) s = .next (trapped s [.s a, .s b] 0x07 a.val 0))
        ∧ (s.me.poisS a = false → s.me.poisS b = true →
           Machine.exec (.cmp h cond d e a b ty) s = .next (trapped s [.s a, .s b] 0x07 b.val 0)))
      ∧ (ready (.cmpi h cond d a ty imm) s = true →
        (s.me.poisS a = false → Machine.exec (.cmpi h cond d a ty imm) s = .next (wroteP s d (holds x k)))
        ∧ (s.me.poisS a = true → Machine.exec (.cmpi h cond d a ty imm) s = .next (trapped s [.s a] 0x07 a.val 0))))) ∧
  (∀ (h : Hdr) (d a b : Fin 32) (p q r : Fin 16) (k l : Fin 8) (v na nb : Bool) (s : State),
     (let x := s.me.readS a
      (ready (.movSS h d a) s = true → Machine.exec (.movSS h d a) s = .next (wroteS s d x (s.me.poisS a)))
      ∧ (ready (.movPS h p a) s = true →
         (s.me.poisS a = false → Machine.exec (.movPS h p a) s = .next (wroteP s p (x.getLsbD 0)))
         ∧ (s.me.poisS a = true → Machine.exec (.movPS h p a) s = .next (trapped s [.s a] 0x07 a.val 0)))
      ∧ (ready (.movSP h d p) s = true →
         Machine.exec (.movSP h d p) s = .next (wroteS s d (if s.me.readP p then 1 else 0) false))
      ∧ (ready (.movKS h k a) s = true →
         (s.me.poisS a = false → Machine.exec (.movKS h k a) s = .next (wroteK s k x))
         ∧ (s.me.poisS a = true → Machine.exec (.movKS h k a) s = .next (trapped s [.s a] 0x07 a.val 0)))
      ∧ (ready (.movSK h d k) s = true → Machine.exec (.movSK h d k) s = .next (wroteS s d (s.me.readK k) false))
      ∧ (ready (.movKK h k l) s = true → Machine.exec (.movKK h k l) s = .next (wroteK s k (s.me.readK l)))
      ∧ (ready (.sel h d p a b) s = true → Machine.exec (.sel h d p a b) s = .next
         (if s.me.readP p then wroteS s d x (s.me.poisS a) else wroteS s d (s.me.readS b) (s.me.poisS b)))
      ∧ (ready (.pset h p v) s = true → Machine.exec (.pset h p v) s = .next (wroteP s p v))
      ∧ (ready (.pand h p q r na nb) s = true → Machine.exec (.pand h p q r na nb) s
         = .next (wroteP s p ((s.me.readP q != na) && (s.me.readP r != nb))))
      ∧ (ready (.por h p q r na nb) s = true → Machine.exec (.por h p q r na nb) s
         = .next (wroteP s p ((s.me.readP q != na) || (s.me.readP r != nb))))
      ∧ (ready (.pxor h p q r na nb) s = true → Machine.exec (.pxor h p q r na nb) s
         = .next (wroteP s p ((s.me.readP q != na) != (s.me.readP r != nb))))
      ∧ (ready (.pnot h p q) s = true → Machine.exec (.pnot h p q) s = .next (wroteP s p (!s.me.readP q)))))

/-- R119 to R121: where a branch, call, jump or return goes when it does not trap, what it links, and
the counter of bra.dec, which the taken and the falling form both write.

R37, R119 to R121: the traps of control transfers, in their order: a poisoned register, a target
that is no multiple of 8, a target outside the context's range. Nothing is written. -/
def Obligations.ControlTransfers : Prop :=
  (∀ (h : Hdr) (cond : BraCond) (d a : Fin 32) (off : BitVec 32) (s : State),
     (let target : Pc := BitVec.ofInt 18 (s.me.pc.toInt + off.toInt * 8)
      let x := s.me.readS a
      let t := BitVec.ofNat 18 x.toNat
      let link : Word := BitVec.ofNat 64 ((s.me.pc.toNat + 8) % 2 ^ 18)
      let taken := match cond with
        | .always => true | .eq => x == 0 | .ne => x != 0 | .lt => decide (x.toInt < 0) | .ge => decide (0 ≤ x.toInt)
        | .gt => decide (0 < x.toInt) | .le => decide (x.toInt ≤ 0) | .dec => x - 1 != 0
      let counted := if cond = .dec then s.modCtx s.cur (fun c => c.writeS a (x - 1) false) else s
      (ready (.bra h cond a off) s = true → (cond = .always ∨ s.me.poisS a = false) →
        (taken = true → (s.view s.cur).inRange target.toNat = true →
           Machine.exec (.bra h cond a off) s = .next (counted.retireTo s.cur target))
        ∧ (taken = false → Machine.exec (.bra h cond a off) s = .next (counted.retire s.cur s.me.pc)))
      ∧ (ready (.call h a off) s = true → (s.view s.cur).inRange target.toNat = true → Machine.exec (.call h a off) s
         = .next ((s.modCtx s.cur (fun c => c.writeS a link false)).retireTo s.cur target))
      ∧ (ready (.jmp h d a) s = true → s.me.poisS a = false → x.toNat % 8 = 0 → (s.view s.cur).inRange x.toNat = true →
         Machine.exec (.jmp h d a) s = .next ((s.modCtx s.cur (fun c => c.writeS d link false)).retireTo s.cur t))
      ∧ (ready (.ret h a) s = true → s.me.poisS a = false → x.toNat % 8 = 0 → (s.view s.cur).inRange x.toNat = true →
         Machine.exec (.ret h a) s = .next (s.retireTo s.cur t)))) ∧
  (∀ (h : Hdr) (cond : BraCond) (d a : Fin 32) (off : BitVec 32) (s : State),
     (let target : Pc := BitVec.ofInt 18 (s.me.pc.toInt + off.toInt * 8)
      let x := (s.me.readS a).toNat
      (ready (.bra h cond a off) s = true → cond ≠ .always → s.me.poisS a = true →
         Machine.exec (.bra h cond a off) s = .next (trapped s [.s a] 0x07 a.val 0))
      ∧ (ready (.bra h cond a off) s = true → (cond = .always ∨ s.me.poisS a = false) → braTaken cond (s.me.readS a) = true →
         (s.view s.cur).inRange target.toNat = false → Machine.exec (.bra h cond a off) s
           = .next (trapped s (if cond = .always then [] else [.s a]) 0x06 target.toNat target.toNat))
      ∧ (ready (.call h a off) s = true → (s.view s.cur).inRange target.toNat = false →
         Machine.exec (.call h a off) s = .next (trapped s [] 0x06 target.toNat target.toNat))
      ∧ (∀ i, i = .jmp h d a ∨ i = .ret h a → ready i s = true →
         (s.me.poisS a = true → Machine.exec i s = .next (trapped s [.s a] 0x07 a.val 0))
         ∧ (s.me.poisS a = false → x % 8 ≠ 0 → Machine.exec i s = .next (trapped s [.s a] 0x04 x x))
         ∧ (s.me.poisS a = false → x % 8 = 0 → (s.view s.cur).inRange x = false →
            Machine.exec i s = .next (trapped s [.s a] 0x06 x x)))))

/-! ### Edges, token queues, the end of a firing and groups (spec/05_actors.md) -/

/-- R159: epop and epeek copy n tokens of the window to the register, from the cursor or from index
S[Z]; epop moves the cursor past them and epeek leaves it.

R160 to R162: epush appends n tokens with the context's tag, eeos marks the last token pushed or
pushes an all-zero one, estat writes the word of Table 5.12. -/
def Obligations.EdgePopsAndPushes : Prop :=
  (∀ (h : Hdr) (x : EReg) (slot : Fin 16) (z : Fin 32) (n1 : Fin 64) (cl : Clauses) (s : State) (b : SlotBind) (e : Edge),
     s.slotBind s.cur slot = some b → b.out = false → s.slotEdge s.cur slot = some e →
     (match x with | .scal _ => e.tokSize ≤ 8 | .vec _ => (n1.val + 1) * e.tokSize ≤ 256) →
     (let u := s.me.slotUse slot
      let n := n1.val + 1
      let popped := fun (i : Nat) (c : Ctx) =>
        let ts := (e.queue.drop i).take n
        match x with
        | .scal d => c.writeS d (BitVec.ofNat 64 (leNat (tokenBytes e.tokSize ts))) (ts.any (fun t => t.poison))
        | .vec d => c.writeV d (VReg.ofBytes (tokenBytes e.tokSize ts) (tokenPoison e.tokSize ts))
      (ready (.epop h x slot n1 cl) s = true → s.maskFault s.cur (.epop h x slot n1 cl) = none → u.cursor + n ≤ u.len →
         Machine.exec (.epop h x slot n1 cl) s = .next (wentE (.epop h x slot n1 cl) s
           (fun c => (popped u.cursor c).setSlotUse slot { u with cursor := u.cursor + n })))
      ∧ (ready (.epeek h x slot z n1 cl) s = true → s.maskFault s.cur (.epeek h x slot z n1 cl) = none →
         s.me.poisS z = false → (s.me.readS z).toNat + n ≤ u.len →
         Machine.exec (.epeek h x slot z n1 cl) s
           = .next (wentE (.epeek h x slot z n1 cl) s (popped (s.me.readS z).toNat))))) ∧
  (∀ (h : Hdr) (x : EReg) (d : Fin 32) (slot : Fin 16) (n1 : Fin 64) (cl : Clauses) (s : State) (b : SlotBind) (e : Edge),
     s.slotBind s.cur slot = some b → s.slotEdge s.cur slot = some e →
     (let u := s.me.slotUse slot
      let n := n1.val + 1
      (b.out = true → slotEos s slot = false →
        (ready (.epush h x slot n1 cl) s = true → s.maskFault s.cur (.epush h x slot n1 cl) = none →
          (match x with
            | .scal r => e.tokSize ≤ 8 ∧ s.me.poisS r = false
            | .vec r => n * e.tokSize ≤ 256 ∧ (s.me.readV r).poisonIn (n * e.tokSize) = false) →
          u.pushed.length + n ≤ b.rate →
          Machine.exec (.epush h x slot n1 cl) s = .next (wentE (.epush h x slot n1 cl) s
            (fun c => c.setSlotUse slot { u with pushed := u.pushed ++ pushTokens c x e.tokSize n (ctxTag s.cur) })))
        ∧ (ready (.eeos h slot cl) s = true → s.maskFault s.cur (.eeos h slot cl) = none →
          (∀ ts t, u.pushed = ts ++ [t] → Machine.exec (.eeos h slot cl) s = .next (wentE (.eeos h slot cl) s
              (fun c => c.setSlotUse slot { u with pushed := ts ++ [{ t with eos := true }], eos := true })))
          ∧ (u.pushed = [] → 1 ≤ b.rate → Machine.exec (.eeos h slot cl) s = .next (wentE (.eeos h slot cl) s
              (fun c => c.setSlotUse slot { u with pushed := [⟨0, true, false, ctxTag s.cur⟩], eos := true })))))
      ∧ (ready (.estat h d slot cl) s = true → s.maskFault s.cur (.estat h d slot cl) = none →
          Machine.exec (.estat h d slot cl) s
            = .next (wentE (.estat h d slot cl) s (fun c => c.writeS d (estatWord s slot) false)))))

/-- R137, R159 to R162: the edge rate violations, cause 0x0A with the slot in bits 3:0 and the reason
above it: unbound 1, wrong direction 2, past the window 3, past the reservation 4, after eeos 5, tokens that do not fit
the register operand 7; of epop, epeek, epush, eeos and estat. -/
def Obligations.EdgeRateViolations : Prop :=
  ∀ (h : Hdr) (x : EReg) (d z : Fin 32) (slot : Fin 16) (n1 : Fin 64) (cl : Clauses) (s : State) (i : Instr),
    (i = .epop h x slot n1 cl ∨ i = .epeek h x slot z n1 cl ∨ i = .epush h x slot n1 cl ∨ i = .eeos h slot cl
      ∨ i = .estat h d slot cl) →
    ready i s = true → s.maskFault s.cur i = none → s.me.poisS z = false →
    (match x with | .scal r => s.me.poisS r = false | .vec r => ∀ k, (s.me.readV r).poisonIn k = false) →
    (s.slotBind s.cur slot = none →
       ∃ chk, Machine.exec i s = .next (trapped s chk 0x0A (slot.val + 16) 0))
    ∧ (∀ b e, s.slotBind s.cur slot = some b → s.slotEdge s.cur slot = some e →
        ¬(match x with | .scal _ => e.tokSize ≤ 8 | .vec _ => (n1.val + 1) * e.tokSize ≤ 256) →
        ((i = .epop h x slot n1 cl ∨ i = .epeek h x slot z n1 cl) ∧ b.out = false ∨ i = .epush h x slot n1 cl ∧ b.out = true) →
        ∃ chk, Machine.exec i s = .next (trapped s chk 0x0A (slot.val + 112) 0))
    ∧ (∀ b e, s.slotBind s.cur slot = some b → s.slotEdge s.cur slot = some e →
        (match x with | .scal _ => e.tokSize ≤ 8 | .vec _ => (n1.val + 1) * e.tokSize ≤ 256) →
        ((i = .epop h x slot n1 cl ∨ i = .epeek h x slot z n1 cl) → b.out = true → ∃ chk, Machine.exec i s = .next (trapped s chk 0x0A (slot.val + 32) 0))
        ∧ (i = .epop h x slot n1 cl → b.out = false → (s.me.slotUse slot).len < (s.me.slotUse slot).cursor + (n1.val + 1) →
            ∃ chk, Machine.exec i s = .next (trapped s chk 0x0A (slot.val + 48) 0))
        ∧ (i = .epeek h x slot z n1 cl → b.out = false → (s.me.slotUse slot).len < (s.me.readS z).toNat + (n1.val + 1) →
            ∃ chk, Machine.exec i s = .next (trapped s chk 0x0A (slot.val + 48) 0))
        ∧ ((i = .epush h x slot n1 cl ∨ i = .eeos h slot cl) → b.out = false →
            ∃ chk, Machine.exec i s = .next (trapped s chk 0x0A (slot.val + 32) 0))
        ∧ ((i = .epush h x slot n1 cl ∨ i = .eeos h slot cl) → b.out = true → slotEos s slot = true →
            ∃ chk, Machine.exec i s = .next (trapped s chk 0x0A (slot.val + 80) 0))
        ∧ (i = .epush h x slot n1 cl → b.out = true → slotEos s slot = false →
            b.rate < (s.me.slotUse slot).pushed.length + (n1.val + 1) →
            ∃ chk, Machine.exec i s = .next (trapped s chk 0x0A (slot.val + 64) 0)))

/-- R163, R164: tqsig adds n once the sum fits in 63 and holds before, tqwait does no more than wait,
tqrd reads the queue as it stood before its own wait.

R170 to R172: a group word sends its request, with the group and the operands that its scalar
registers hold; the arrivals are releases, so their context's write-coalescing buffer is empty; a
poisoned operand traps with cause 0x07 and its number, the identifier's first. -/
def Obligations.TokenQueueAndGroupWords : Prop :=
  (∀ (h : Hdr) (d : Fin 32) (q : Fin 16) (n : Fin 64) (cl : Clauses) (s : State),
     (ready (.tqsig h q n cl) s = true → s.maskFault s.cur (.tqsig h q n cl) = none →
       (let t := s.takeWait s.cur (.tqsig h q n cl)
        (t.tq s.cur q + n.val ≤ 63 → Machine.exec (.tqsig h q n cl) s
           = .next (completed (.tqsig h q n cl) s (t.setTq s.cur q (t.tq s.cur q + n.val))))
        ∧ (63 < t.tq s.cur q + n.val → Machine.exec (.tqsig h q n cl) s = .next s)))
     ∧ (ready (.tqwait h cl) s = true → s.maskFault s.cur (.tqwait h cl) = none →
         Machine.exec (.tqwait h cl) s = .next (completed (.tqwait h cl) s (s.takeWait s.cur (.tqwait h cl))))
     ∧ (ready (.tqrd h d q cl) s = true → s.maskFault s.cur (.tqrd h d q cl) = none →
         Machine.exec (.tqrd h d q cl) s = .next (wentE (.tqrd h d q cl) s
           (fun c => c.writeS d (BitVec.ofNat 64 (s.tq s.cur q)) false)))) ∧
  (∀ (h : Hdr) (op : GredOp) (ty : Ty) (arr : Bool) (x y z : Fin 32) (cl : Clauses) (s : State),
     (∀ i, (i = .gjoin h x y cl ∨ i = .gleave h arr y cl ∨ i = .garrive h x y cl ∨ i = .gbar h x y cl) → ready i s = true →
       s.me.poisS y = true → Machine.exec i s = .next (trapped s [.s y] 0x07 y.val 0))
     ∧ (∀ i, (i = .gwait h y z cl ∨ i = .gred h op ty x y z cl) → ready i s = true →
       (s.me.poisS y = true → Machine.exec i s = .next (trapped s [.s y, .s z] 0x07 y.val 0))
       ∧ (s.me.poisS y = false → s.me.poisS z = true → Machine.exec i s = .next (trapped s [.s y, .s z] 0x07 z.val 0)))
     ∧ (s.me.poisS y = false → let gid := (s.me.readS y).toNat
      (ready (.gjoin h x y cl) s = true → s.maskFault s.cur (.gjoin h x y cl) = none →
         Machine.exec (.gjoin h x y cl) s = .next (groupSent (.gjoin h x y cl) s gid .join (some x) false))
      ∧ (ready (.gleave h arr y cl) s = true → s.maskFault s.cur (.gleave h arr y cl) = none →
         Machine.exec (.gleave h arr y cl) s = .next (groupSent (.gleave h arr y cl) s gid (.leave arr) none false))
      ∧ (ready (.gwait h y z cl) s = true → s.maskFault s.cur (.gwait h y z cl) = none → s.me.poisS z = false →
         Machine.exec (.gwait h y z cl) s
           = .next (groupSent (.gwait h y z cl) s gid (.wait (s.me.readS z).toNat) none true))
      ∧ (drained s →
         (ready (.garrive h x y cl) s = true → s.maskFault s.cur (.garrive h x y cl) = none →
           Machine.exec (.garrive h x y cl) s = .next (groupSent (.garrive h x y cl) s gid .arrive (some x) false))
         ∧ (ready (.gbar h x y cl) s = true → s.maskFault s.cur (.gbar h x y cl) = none →
           Machine.exec (.gbar h x y cl) s = .next (groupSent (.gbar h x y cl) s gid .bar (some x) true))
         ∧ (ready (.gred h op ty x y z cl) s = true → s.maskFault s.cur (.gred h op ty x y z cl) = none →
           s.me.poisS z = false → Machine.exec (.gred h op ty x y z cl) s
             = .next (groupSent (.gred h op ty x y z cl) s gid (.red op ty (s.me.readS z)) (some x) true)))))

/-- R165, R166: end leaves the context without a firing when nothing it waits for is outstanding and
every output slot has its tokens; a slot that is short traps; in a handler end is reserved. actena and
actdis send their request to an instance of the launch.

R132, R165: what the end of a firing does to the edge of one slot: an output slot publishes its
tokens in push order and pays their credits, an input slot frees its window in full; no other edge of
the launch changes. -/
def Obligations.EndAndEnable : Prop :=
  (∀ (h : Hdr) (a : Fin 32) (s : State),
     (ready (.endF h) s = true →
       (s.me.phase = .inHandler → Machine.exec (.endF h) s = .next (trapped s [] 0x03 0x34 0))
       ∧ (s.me.phase = .running → drained s → s.me.reqs = [] → matBusy s s.cur = false →
           (shortSlot s s.cur = none →
              Machine.exec (.endF h) s = .next (endFiring (s.countIssue s.cur) s.cur)
              ∧ ((s.me.firing).isSome = true → ((endFiring (s.countIssue s.cur) s.cur).ctx s.cur).firing = none
                 ∧ ((endFiring (s.countIssue s.cur) s.cur).ctx s.cur).phase = .idle))
           ∧ (∀ n, shortSlot s s.cur = some n → Machine.exec (.endF h) s = .next (trapped s [] 0x0A (n.val + 96) 0))))
     ∧ (∀ v i, ((i = .actena h a ∧ v = true) ∨ (i = .actdis h a ∧ v = false)) → ready i s = true →
         (s.me.poisS a = true → Machine.exec i s = .next (trapped s [.s a] 0x07 a.val 0))
         ∧ (∀ l, s.launchOf s.cur = some l → s.me.poisS a = false →
             (l.inst (s.me.readS a).toNat = none →
               Machine.exec i s = .next (trapped s [.s a] 0x06 (s.me.readS a).toNat 0))
             ∧ ((l.inst (s.me.readS a).toNat).isSome = true → Machine.exec i s
                 = .next ((s.modLaunchOf s.cur (fun l => l.modInst (s.me.readS a).toNat (fun x =>
                     match s.cur with
                     | .mgmt => { x with enabled := v }
                     | .tile _ _ => { x with wanted := x.wanted ++ [v] }))).retire s.cur s.me.pc))))) ∧
  (∀ (l : Launch) (c : Ctx) (b : SlotBind) (n : Fin 16) (e : Edge), l.edge b.edge = some e →
     (let u := c.slotUse n
      (publishSlot l c (some b) n).edge b.edge = some (if b.out
         then { e with inflight := e.inflight ++ u.pushed, credits := e.credits - u.pushed.length }
         else { e with queue := e.queue.drop u.len, returning := e.returning + u.len,
                       ended := e.ended || (e.queue.take u.len).any (fun t => t.eos) })
      ∧ ∀ m, m ≠ b.edge → (publishSlot l c (some b) n).edge m = l.edge m))

/-! ### Vector words (spec/06_vector.md) -/

/-- R178, R180, R58: the selected elements of a vector register take their new bits and every other
element keeps its own; a lane that receives some element is poisoned when one of those is, and every
other lane keeps its poison bit. -/
def Obligations.VectorElementsMerge : Prop :=
  ∀ (v : VReg) (t : Ty) (sel : Nat → Bool) (f : Nat → ElemOut),
    (∀ j, j < elems t → (v.update t (elemList t sel f)).elem t j
        = if sel j then (f j).bits % 2 ^ tyWidth t else v.elem t j)
    ∧ (∀ l, l < 64 → (v.update t (elemList t sel f)).poison.getLsbD l
        = if (List.range (elems t)).any (fun j => sel j && (elemLanes t j).contains l)
          then (List.range (elems t)).any (fun j => sel j && (elemLanes t j).contains l && (f j).poison)
          else v.poison.getLsbD l)

/-- R181, R239, R240: the events of the operations that completed on a tile in a cycle are added together to the tile's
counters, which saturate at 2^32 − 1; where an enabled counter goes from below the threshold to it or above, cause 0x09
is owed to the earliest-issued of these operations, unless its launch has ended; of two owed faults the one whose
instruction issued earlier is kept, with bit 63 of its detail set. -/
def Obligations.EventsAndOwedFaults : Prop :=
  (∀ (s : State) (t : Fin 256) (k : Fin 3) (as bs : List Counted) (o : Counted), (s.tile t).counted = as ++ o :: bs →
    (∀ x ∈ as, o.by_.order < x.by_.order) → (∀ x ∈ bs, o.by_.order ≤ x.by_.order) →
    (let e := Ev.sum ((s.tile t).counted.map (fun x => x.ev))
     let n := if k = 0 then e.sat else if k = 1 then e.nan else e.bso
     let old := ((s.tile t).cnt.get k).toNat
     let thr := (s.tile t).cntthr.toNat % 2 ^ 32
     ((s.settleEvents t).tile t).cnt.get k = BitVec.ofNat 32 (min (old + n) (2 ^ 32 - 1))
     ∧ ((s.settleEvents t).tile t).counted = []
     ∧ ((s.tile t).crossed e).testBit k.val
        = ((s.tile t).cntthr.getLsbD (32 + k.val) && decide (thr ≠ 0 ∧ old < thr ∧ thr ≤ min (old + n) (2 ^ 32 - 1)))
     ∧ ((s.tile t).crossed e = 0 ∨ o.dead = true → (s.settleEvents t).ctx (.tile t o.ctx) = s.ctx (.tile t o.ctx))
     ∧ ((s.tile t).crossed e ≠ 0 → o.dead = false → (s.settleEvents t).ctx (.tile t o.ctx)
        = (s.ctx (.tile t o.ctx)).recordOwed ⟨0x09, (s.tile t).crossed e, 0, o.by_, o.at_⟩)))
  ∧ (∀ (s : State) (e : Ev) (t : Fin 256) (c : Fin 4), s.cur = .tile t c → e ≠ Ev.zero →
    ((s.vecEvents e).tile t).counted = (s.tile t).counted ++ [⟨e, c, s.issued s.cur, .endOrWait none, false⟩])
  ∧ (∀ (c : Ctx) (o p : Owed),
    (c.aborted.contains o.by_.serial = true → c.recordOwed o = c)
    ∧ (c.aborted.contains o.by_.serial = false → c.owed = none → (c.recordOwed o).owed = some o)
    ∧ (c.aborted.contains o.by_.serial = false → c.owed = some p → (c.recordOwed o).owed
        = some (if o.by_.order < p.by_.order then { o with detail := o.detail ||| 2 ^ 63 }
                else { p with detail := p.detail ||| 2 ^ 63 })))

/-- R183: the integer forms on the active elements, wrapped modulo 2^w, or clamped and counted as a
saturation under sat. -/
def Obligations.VectorInteger : Prop :=
  ∀ (h : Hdr) (d a : Fin 32) (b : VOp) (k : Fin 8) (ty : Ty) (sat : Bool) (s : State),
    (let x := fun (j : Nat) => ty.val ((s.me.readV a).elem ty j)
     let y := fun (j : Nat) => ty.val (vopElem s.me b ty j).1
     let pa := fun (j : Nat) => (s.me.readV a).elemPoison ty j
     let out := fun (sat : Bool) (po : Bool) (r : Int) =>
       if sat = true ∧ (r < ty.lo ∨ ty.hi < r) then ElemOut.mk (intMod (max ty.lo (min ty.hi r)) ty.width) po Ev.oneSat
       else ElemOut.mk (intMod r ty.width) po Ev.zero
     let two := fun (sat : Bool) (f : Int → Int → Int) => wentV s d ty (fun j => active (s.me.readK k) ty j)
       (fun j => out sat (pa j || (vopElem s.me b ty j).2) (f (x j) (y j)))
     let one := fun (f : Int → Int) => wentV s d ty (fun j => active (s.me.readK k) ty j) (fun j => out sat (pa j) (f (x j)))
     (ready (.vadd h d a b k ty sat) s = true → Machine.exec (.vadd h d a b k ty sat) s = .next (two sat (fun u v => u + v)))
     ∧ (ready (.vsub h d a b k ty sat) s = true → Machine.exec (.vsub h d a b k ty sat) s = .next (two sat (fun u v => u - v)))
     ∧ (ready (.vmul h d a b k ty sat) s = true → Machine.exec (.vmul h d a b k ty sat) s = .next (two sat (fun u v => u * v)))
     ∧ (ready (.vmulh h d a b k ty) s = true → Machine.exec (.vmulh h d a b k ty) s
        = .next (two false (fun u v => u * v / (2 ^ ty.width : Int))))
     ∧ (ready (.vmin h d a b k ty) s = true → Machine.exec (.vmin h d a b k ty) s = .next (two false (fun u v => min u v)))
     ∧ (ready (.vmax h d a b k ty) s = true → Machine.exec (.vmax h d a b k ty) s = .next (two false (fun u v => max u v)))
     ∧ (ready (.vabs h d a k ty sat) s = true → Machine.exec (.vabs h d a k ty sat) s = .next (one (fun u => |u|)))
     ∧ (ready (.vneg h d a k ty sat) s = true → Machine.exec (.vneg h d a k ty sat) s = .next (one (fun u => -u))))

/-- R184, R185: the floating-point forms round the exact result once; the dot products work on whole
lanes with g packed elements each; a NaN is the canonical NaN. -/
def Obligations.VectorFloat : Prop :=
  ∀ (h : Hdr) (d a : Fin 32) (b : VOp) (c : Fin 32) (k : Fin 8) (ty : Ty) (s : State),
    (let el := fun (t : Ty) (f : Nat → Nat → Nat → Nat × Ev) (three : Bool) =>
       wentV s d t (fun j => active (s.me.readK k) t j) (fun j =>
         let y := vopElem s.me b t j
         let r := f ((s.me.readV a).elem t j) y.1 ((s.me.readV c).elem t j)
         ElemOut.mk r.1 ((s.me.readV a).elemPoison t j || y.2 || (three && (s.me.readV c).elemPoison t j)) r.2)
     let one := fun (f : Nat → Nat) => wentV s d ty (fun j => active (s.me.readK k) ty j) (fun j =>
         ElemOut.mk (f ((s.me.readV a).elem ty j)) ((s.me.readV a).elemPoison ty j) Ev.zero)
     let v := decodeElem ty
     let nan := (convert ty .nan).1
     let w := ty.width
     let dot := fun (g x y z : Nat) => if ty.isInt
       then (intMod ((List.range g).foldl (fun r i => r + ty.val (bitsAt x (i * w) w) * ty.val (bitsAt y (i * w) w)) (sextInt z 32)) 32, Ev.zero)
       else finish .f32 (fusedSum ((List.range g).map (fun i => (v (bitsAt x (i * w) w), v (bitsAt y (i * w) w)))) [decodeElem .f32 z])
     (ready (.vaddFp h d a b k ty) s = true → Machine.exec (.vaddFp h d a b k ty) s
        = .next (el ty (fun x y _ => finish ty (sumVals [v x, v y])) false))
     ∧ (ready (.vsubFp h d a b k ty) s = true → Machine.exec (.vsubFp h d a b k ty) s
        = .next (el ty (fun x y _ => finish ty (sumVals [v x, (v y).neg])) false))
     ∧ (ready (.vmulFp h d a b k ty) s = true → Machine.exec (.vmulFp h d a b k ty) s
        = .next (el ty (fun x y _ => finish ty (mulVal (v x) (v y))) false))
     ∧ (ready (.vminFp h d a b k ty) s = true → Machine.exec (.vminFp h d a b k ty) s
        = .next (el ty (fun x y _ => (minBits ty x y, Ev.zero)) false))
     ∧ (ready (.vmaxFp h d a b k ty) s = true → Machine.exec (.vmaxFp h d a b k ty) s
        = .next (el ty (fun x y _ => (maxBits ty x y, Ev.zero)) false))
     ∧ (ready (.vabsFp h d a k ty) s = true → Machine.exec (.vabsFp h d a k ty) s
        = .next (one (fun x => if (v x).isNan then nan else x % 2 ^ (w - 1))))
     ∧ (ready (.vnegFp h d a k ty) s = true → Machine.exec (.vnegFp h d a k ty) s
        = .next (one (fun x => if (v x).isNan then nan
            else x % 2 ^ (w - 1) + (if bitOf x (w - 1) then 0 else 2 ^ (w - 1)))))
     ∧ (ready (.vfma h d a b c k ty) s = true → Machine.exec (.vfma h d a b c k ty) s
        = .next (el ty (fun x y z => finish ty (fusedSum [(v x, v y)] [v z])) true))
     ∧ (ready (.vfms h d a b c k ty) s = true → Machine.exec (.vfms h d a b c k ty) s
        = .next (el ty (fun x y z => finish ty (fusedSum [(v x, v y)] [(v z).neg])) true))
     ∧ (ready (.vfnma h d a b c k ty) s = true → Machine.exec (.vfnma h d a b c k ty) s
        = .next (el ty (fun x y z => finish ty (fusedSum [((v x).neg, v y)] [v z])) true))
     ∧ (ready (.vdot2 h d a b c k ty) s = true → Machine.exec (.vdot2 h d a b c k ty) s = .next (el .n32 (dot 2) true))
     ∧ (ready (.vdot4 h d a b c k ty) s = true → Machine.exec (.vdot4 h d a b c k ty) s = .next (el .n32 (dot 4) true)))

/-- R186, R187, R196, R198: the logical forms, the shifts by an element modulo w, the choice of vsel,
comparison to a mask with its trap, vptest and the mask words. -/
def Obligations.VectorLogicAndMasks : Prop :=
  ∀ (h : Hdr) (d a : Fin 32) (b : VOp) (k e m : Fin 8) (cond : VCond) (ty : Ty) (s : State),
    (let w := ty.width
     let x := fun (j : Nat) => (s.me.readV a).elem ty j
     let pa := fun (j : Nat) => (s.me.readV a).elemPoison ty j
     let y := vopElem s.me b ty
     let two := fun (f : Nat → Nat → Nat) => wentV s d ty (fun j => active (s.me.readK k) ty j)
       (fun j => ElemOut.mk (f (x j) (y j).1) (pa j || (y j).2) Ev.zero)
     let act := (List.range (elems ty)).filter (fun j => active (s.me.readK k) ty j)
     (ready (.vand h d a b k ty) s = true → Machine.exec (.vand h d a b k ty) s = .next (two (fun u v => u &&& v)))
     ∧ (ready (.vor h d a b k ty) s = true → Machine.exec (.vor h d a b k ty) s = .next (two (fun u v => u ||| v)))
     ∧ (ready (.vxor h d a b k ty) s = true → Machine.exec (.vxor h d a b k ty) s = .next (two (fun u v => u ^^^ v)))
     ∧ (ready (.vandn h d a b k ty) s = true →
        Machine.exec (.vandn h d a b k ty) s = .next (two (fun u v => u &&& (2 ^ w - 1 - v))))
     ∧ (ready (.vshl h d a b k ty) s = true →
        Machine.exec (.vshl h d a b k ty) s = .next (two (fun u v => u * 2 ^ (v % w) % 2 ^ w)))
     ∧ (ready (.vshr h d a b k ty) s = true → Machine.exec (.vshr h d a b k ty) s = .next (two (fun u v => u / 2 ^ (v % w))))
     ∧ (ready (.vsar h d a b k ty) s = true → Machine.exec (.vsar h d a b k ty) s
        = .next (two (fun u v => intMod (sextInt u w / (2 ^ (v % w) : Int)) w)))
     ∧ (ready (.vsel h d e a b ty) s = true → Machine.exec (.vsel h d e a b ty) s = .next (wentV s d ty (fun _ => true)
        (fun j => if active (s.me.readK e) ty j then ElemOut.mk (x j) (pa j) Ev.zero
                  else ElemOut.mk (y j).1 (y j).2 Ev.zero)))
     ∧ (ready (.vcmp h cond e a b k ty) s = true →
        (act.all (fun j => !pa j && !(y j).2) = true → Machine.exec (.vcmp h cond e a b k ty) s
          = .next (wroteK s e (maskOf ty (s.me.readK k) (fun j => vcmpElem cond ty (x j) (y j).1))))
        ∧ (act.any pa = true → ∃ chk, Machine.exec (.vcmp h cond e a b k ty) s
          = .next (trapped s chk 0x07 (a.val + 256) 0)))
     ∧ (ready (.vptest h e a k) s = true →
        Machine.exec (.vptest h e a k) s = .next (wroteK s e (s.me.readK k &&& (s.me.readV a).poison)))
     ∧ (ready (.kand h e k m) s = true → Machine.exec (.kand h e k m) s = .next (wroteK s e (s.me.readK k &&& s.me.readK m)))
     ∧ (ready (.kor h e k m) s = true → Machine.exec (.kor h e k m) s = .next (wroteK s e (s.me.readK k ||| s.me.readK m)))
     ∧ (ready (.kxor h e k m) s = true → Machine.exec (.kxor h e k m) s = .next (wroteK s e (s.me.readK k ^^^ s.me.readK m)))
     ∧ (ready (.kandn h e k m) s = true →
        Machine.exec (.kandn h e k m) s = .next (wroteK s e (s.me.readK k &&& ~~~(s.me.readK m))))
     ∧ (ready (.knot h e k) s = true → Machine.exec (.knot h e k) s = .next (wroteK s e (~~~(s.me.readK k))))
     ∧ (ready (.kpopc h d k) s = true → Machine.exec (.kpopc h d k) s
        = .next (wroteS s d (BitVec.ofNat 64 ((List.range 64).countP (fun j => (s.me.readK k).getLsbD j))) false))
     ∧ (ready (.kffs h d k) s = true → ∃ z, z ≤ 64 ∧ (∀ j, j < z → (s.me.readK k).getLsbD j = false)
        ∧ (z < 64 → (s.me.readK k).getLsbD z = true)
        ∧ Machine.exec (.kffs h d k) s = .next (wroteS s d (BitVec.ofNat 64 z) false)))

/-- R188 to R190, R195, R197: conversion by parts, dequantisation, the transcendental functions on
f32, the generator, and the immediates that fill a register.

R189: vqmx quantises the blocks of 32 source elements: their elements go to the part, their scales
to the bytes of S[C], and a poisoned source element poisons its block and S[C]. -/
def Obligations.VectorConversions : Prop :=
  (∀ (h : Hdr) (d a e b : Fin 32) (op : VOp) (k : Fin 8) (ty sty : Ty) (part : Fin 16) (imm : BitVec 32) (s : State),
     (let v := s.me.readV a
      let tr := fun (f : Trans) => wentV s d .f32 (fun j => active (s.me.readK k) .f32 j) (fun j =>
        ElemOut.mk (transBits f (v.elem .f32 j)).1 (v.elemPoison .f32 j) (transBits f (v.elem .f32 j)).2)
      let ns := elems sty
      let cvt := fun (i : Nat) =>
        let r := convert ty (decodeElem sty (v.elem sty i))
        ElemOut.mk r.1 (v.elemPoison sty i) r.2
      (ready (.vcvt h d a k ty sty part) s = true →
         (sty.width ≤ ty.width → Machine.exec (.vcvt h d a k ty sty part) s
           = .next (wentV s d ty (fun j => active (s.me.readK k) ty j) (fun j => cvt (part.val * elems ty + j))))
         ∧ (ty.width < sty.width → Machine.exec (.vcvt h d a k ty sty part) s
           = .next (wentV s d ty
               (fun j => active (s.me.readK k) ty j && decide (part.val * ns ≤ j ∧ j < (part.val + 1) * ns))
               (fun j => cvt (if part.val * ns ≤ j ∧ j < (part.val + 1) * ns then j - part.val * ns else 0)))))
      ∧ (ready (.vdqmx h d a e k ty sty part) s = true → Machine.exec (.vdqmx h d a e k ty sty part) s
         = .next (wentV s d ty (fun j => active (s.me.readK k) ty j) (fun j =>
             let i := part.val * elems ty + j
             let r := convert ty (mxValue sty (bitsAt (s.me.readS e).toNat (8 * (j / 32)) 8) (v.elem sty i))
             ElemOut.mk r.1 (v.elemPoison sty i || s.me.poisS e) r.2)))
      ∧ (ready (.vexp2 h d a k) s = true → Machine.exec (.vexp2 h d a k) s = .next (tr .exp2))
      ∧ (ready (.vlog2 h d a k) s = true → Machine.exec (.vlog2 h d a k) s = .next (tr .log2))
      ∧ (ready (.vrcp h d a k) s = true → Machine.exec (.vrcp h d a k) s = .next (tr .rcp))
      ∧ (ready (.vrsqrt h d a k) s = true → Machine.exec (.vrsqrt h d a k) s = .next (tr .rsqrt))
      ∧ (ready (.vsqrt h d a k) s = true → Machine.exec (.vsqrt h d a k) s = .next (tr .sqrt))
      ∧ (ready (.vrng h d op b k ty) s = true → Machine.exec (.vrng h d op b k ty) s
         = .next (wentV s d ty (fun j => active (s.me.readK k) ty j) (fun j =>
             let c := match op with
               | .vec r => (s.me.readV r).lane j
               | .scal r => (s.me.readS r).truncate 32 + BitVec.ofNat 32 j
             let pc := match op with | .vec r => (s.me.readV r).poison.getLsbD j | .scal r => s.me.poisS r
             let z := rng32 c ((s.me.readS b).truncate 32)
             ElemOut.mk (if ty = .f32 then rngF32 z else z.toNat) (pc || s.me.poisS b) Ev.zero)))
      ∧ (ready (.vldi h d imm) s = true → Machine.exec (.vldi h d imm) s
         = .next (wentV s d .n32 (fun _ => true) (fun _ => ElemOut.mk imm.toNat false Ev.zero)))
      ∧ (ready (.vldiI64 h d imm) s = true → Machine.exec (.vldiI64 h d imm) s
         = .next (wentV s d .i64 (fun _ => true) (fun _ => ElemOut.mk (imm.signExtend 64).toNat false Ev.zero)))
      ∧ (ready (.viota h d imm) s = true → Machine.exec (.viota h d imm) s
         = .next (wentV s d .n32 (fun _ => true) (fun j => ElemOut.mk ((imm.toNat + j) % 2 ^ 32) false Ev.zero))))) ∧
  (∀ (h : Hdr) (d a e : Fin 32) (ty sty : Ty) (part : Fin 16) (s : State), ready (.vqmx h d a e ty sty part) s = true →
     (let v := s.me.readV a
      let ns := elems sty
      let block := fun (i : Nat) => quantiseMX ty ((List.range 32).map (fun j => decodeElem sty (v.elem sty (32 * i + j))))
      let bad := fun (i : Nat) => (List.range 32).any (fun j => v.elemPoison sty (32 * i + j))
      let blocks := List.range (ns / 32)
      let new := blocks.flatMap (fun i => (block i).2.1.map (fun x => some (ElemOut.mk x (bad i) Ev.zero)))
      let rs := List.replicate (part.val * ns) none ++ new ++ List.replicate (elems ty - (part.val + 1) * ns) none
      Machine.exec (.vqmx h d a e ty sty part) s = .next (((s.modCtx s.cur (fun c =>
        (c.writeV d ((c.readV d).update ty rs)).writeS e
          (BitVec.ofNat 64 (leNat (blocks.map (fun i => BitVec.ofNat 8 (block i).1)))) (blocks.any bad))).vecEvents
            (Ev.sum (blocks.map (fun i => if bad i then Ev.zero else (block i).2.2)))).retire s.cur s.me.pc)))

/-- R196, R197: the words of vptest and of the vector immediates. vptest is OP 0x4D: K[D] takes the
poison bits of V[A] that K[K] selects, and no poison changes; FN 0x01 to 0x7F are unassigned, and set bits of
B, C or MOD are reserved. vldi, vldi.i64 and viota are OP 0x4E with FN7 0 to 2, the other values being
unassigned and set bits of A reserved: every lane or element is written, with poison clear. -/
def Obligations.VectorImmediateWords : Prop :=
  ∀ w : Word, field w.toNat 51 5 ≠ 16 →
    (let h : Hdr := ⟨field w.toNat 55 1 == 1, Fin.ofNat 16 (field w.toNat 51 4)⟩
     let d := Fin.ofNat 32 (field w.toNat 45 6)
     let e := Fin.ofNat 8 (field w.toNat 45 6)
     let a := Fin.ofNat 32 (field w.toNat 39 6)
     let k := Fin.ofNat 8 (field w.toNat 17 3)
     let imm := BitVec.ofNat 32 (field w.toNat 7 32)
     let is := fun (i : Instr) => decodeBytes false (wordBytes w) = some (.instr i)
     let clean := fun (i : Instr) (ty : Ty) (f : Nat → Nat) => ∀ s : State, ready i s = true → Machine.exec i s
        = .next (wentV s d ty (fun _ => true) (fun j => ElemOut.mk (f j) false Ev.zero))
     (field w.toNat 56 8 = 0x4D →
        (field w.toNat 20 7 ≠ 0 → decodeBytes false (wordBytes w) = some (.illegal (0x4D + 256 * field w.toNat 20 7)))
        ∧ (field w.toNat 20 7 = 0 → field w.toNat 12 5 = 0 →
            (field w.toNat 33 6 ≠ 0 ∨ field w.toNat 27 6 ≠ 0 ∨ field w.toNat 0 12 ≠ 0 →
              ∃ r, decodeBytes false (wordBytes w) = some (.reserved r))
            ∧ (field w.toNat 33 6 = 0 → field w.toNat 27 6 = 0 → field w.toNat 0 12 = 0 → field w.toNat 45 6 < 8 →
               field w.toNat 39 6 < 32 → is (.vptest h e a k)
               ∧ ∀ s : State, ready (.vptest h e a k) s = true →
                   Machine.exec (.vptest h e a k) s = .next (wroteK s e (s.me.readK k &&& (s.me.readV a).poison)))))
     ∧ (field w.toNat 56 8 = 0x4E →
        (3 ≤ field w.toNat 0 7 → decodeBytes false (wordBytes w) = some (.illegal (0x4E + 256 * field w.toNat 0 7)))
        ∧ (field w.toNat 0 7 < 3 → field w.toNat 39 6 ≠ 0 → ∃ r, decodeBytes false (wordBytes w) = some (.reserved r))
        ∧ (field w.toNat 39 6 = 0 → field w.toNat 45 6 < 32 →
            (field w.toNat 0 7 = 0 → is (.vldi h d imm) ∧ clean (.vldi h d imm) .n32 (fun _ => imm.toNat))
            ∧ (field w.toNat 0 7 = 1 → is (.vldiI64 h d imm) ∧ clean (.vldiI64 h d imm) .i64 (fun _ => (imm.signExtend 64).toNat))
            ∧ (field w.toNat 0 7 = 2 → is (.viota h d imm) ∧ clean (.viota h d imm) .n32 (fun j => (imm.toNat + j) % 2 ^ 32)))))

/-- R191: the permutation and lane-access forms of Table 6.6: a written element takes the value and
the poison of the element it copies, and the poison of the index that chose it. -/
def Obligations.VectorPermutation : Prop :=
  ∀ (h : Hdr) (d a b c : Fin 32) (k : Fin 8) (idx : Fin 64) (ty : Ty) (s : State),
    (let n := elems ty
     let el := fun (r : Fin 32) (i : Nat) (po : Bool) =>
       ElemOut.mk ((s.me.readV r).elem ty i) ((s.me.readV r).elemPoison ty i || po) Ev.zero
     let x := (s.me.readV b).elem ty
     let px := (s.me.readV b).elemPoison ty
     let masked := fun (f : Nat → ElemOut) => wentV s d ty (fun j => active (s.me.readK k) ty j) f
     let sc := fun (r : Fin 32) => ElemOut.mk ((s.me.readS r).toNat % 2 ^ tyWidth ty) (s.me.poisS r) Ev.zero
     let act := (List.range n).filter (fun j => active (s.me.readK k) ty j)
     (ready (.vperm h d a b k ty) s = true → Machine.exec (.vperm h d a b k ty) s
        = .next (masked (fun j => el a (x j % n) (px j))))
     ∧ (ready (.vperm2 h d a b c k ty) s = true → Machine.exec (.vperm2 h d a b c k ty) s
        = .next (masked (fun j => if x j % (2 * n) < n then el a (x j % (2 * n)) (px j)
            else el c (x j % (2 * n) - n) (px j))))
     ∧ (ready (.vbcast h d a k ty) s = true → Machine.exec (.vbcast h d a k ty) s = .next (masked (fun _ => sc a)))
     ∧ (ready (.vbcastl h d a b k ty) s = true → Machine.exec (.vbcastl h d a b k ty) s
        = .next (masked (fun _ => el a ((s.me.readS b).toNat % n) (s.me.poisS b))))
     ∧ (ready (.vrot h d a b k ty) s = true → Machine.exec (.vrot h d a b k ty) s
        = .next (masked (fun j => el a ((j + (s.me.readS b).toNat) % n) (s.me.poisS b))))
     ∧ (ready (.vcompress h d a k ty) s = true → Machine.exec (.vcompress h d a k ty) s
        = .next (wentV s d ty (fun _ => true) (fun j => match act[j]? with
            | some i => el a i false
            | none => ElemOut.mk 0 false Ev.zero)))
     ∧ (ready (.vexpand h d a k ty) s = true → Machine.exec (.vexpand h d a k ty) s
        = .next (masked (fun j => el a (act.filter (fun i => decide (i < j))).length false)))
     ∧ (ready (.vext h d a idx ty) s = true → Machine.exec (.vext h d a idx ty) s
        = .next (wroteS s d (ty.put ((s.me.readV a).elem ty idx.val : Nat)) ((s.me.readV a).elemPoison ty idx.val)))
     ∧ (ready (.vins h d a idx ty) s = true → Machine.exec (.vins h d a idx ty) s
        = .next (wentV s d ty (fun j => j == idx.val) (fun _ => sc a))))

/-- R192 to R194: reductions of the active elements to a scalar, the scan and the arg-max and arg-min
words; their destination is poisoned when an active element is. -/
def Obligations.VectorReductions : Prop :=
  ∀ (h : Hdr) (op : ScanOp) (d a : Fin 32) (k : Fin 8) (ty : Ty) (sat : Bool) (s : State),
    (let act := (List.range (elems ty)).filter (fun j => active (s.me.readK k) ty j)
     let x := fun (j : Nat) => (s.me.readV a).elem ty j
     let po := act.any (fun j => (s.me.readV a).elemPoison ty j)
     let int := fun (z : Int) (f : Int → Int → Int) => (act.map (fun j => ty.val (x j))).foldl f z
     let arg := fun (mx : Bool) => argResult s.me a k ty mx
     (ready (.vredsum h d a k ty) s = true → Machine.exec (.vredsum h d a k ty) s = .next
        (if ty = .f32
         then ((s.modCtx s.cur (fun c => c.writeS d (redSum s.me a k ty).1 po)).vecEvents (redSum s.me a k ty).2.2).retire s.cur s.me.pc
         else wroteS s d (BitVec.ofInt 64 (int 0 (· + ·))) po))
     ∧ (ready (.vredmin h d a k ty) s = true → Machine.exec (.vredmin h d a k ty) s = .next (wroteS s d
        (if ty = .f32 then BitVec.ofNat 64 ((act.map x).foldl (minBits .f32) 0x7FC00000) else ty.put (int ty.hi min)) po))
     ∧ (ready (.vredmax h d a k ty) s = true → Machine.exec (.vredmax h d a k ty) s = .next (wroteS s d
        (if ty = .f32 then BitVec.ofNat 64 ((act.map x).foldl (maxBits .f32) 0x7FC00000) else ty.put (int ty.lo max)) po))
     ∧ (ready (.vredand h d a k ty) s = true → Machine.exec (.vredand h d a k ty) s
        = .next (wroteS s d (ty.put ((act.map x).foldl (· &&& ·) (2 ^ ty.width - 1) : Nat)) po))
     ∧ (ready (.vredor h d a k ty) s = true → Machine.exec (.vredor h d a k ty) s
        = .next (wroteS s d (ty.put ((act.map x).foldl (· ||| ·) 0 : Nat)) po))
     ∧ (ready (.vredxor h d a k ty) s = true → Machine.exec (.vredxor h d a k ty) s
        = .next (wroteS s d (ty.put ((act.map x).foldl (· ^^^ ·) 0 : Nat)) po))
     ∧ (ready (.vscan h op d a k ty sat) s = true →
        (let ys := scanLanes op ty sat ((List.range 64).map (fun j =>
            (if active (s.me.readK k) ty j then x j else scanIdent op ty, active (s.me.readK k) ty j,
             (s.me.readV a).elemPoison ty j)))
         Machine.exec (.vscan h op d a k ty sat) s = .next (((s.modCtx s.cur (fun c => c.writeV d ((c.readV d).update ty
           (ys.zipIdx.map (fun y => if active (s.me.readK k) ty y.2 then some y.1 else none))))).vecEvents
             (Ev.sum (ys.map (fun y => if y.poison then Ev.zero else y.ev)))).retire s.cur s.me.pc)))
     ∧ (ready (.vargmax h d a k ty) s = true → Machine.exec (.vargmax h d a k ty) s = .next (wroteS s d (arg true).1 po))
     ∧ (ready (.vargmin h d a k ty) s = true → Machine.exec (.vargmin h d a k ty) s = .next (wroteS s d (arg false).1 po)))

/-! ### Memory words (spec/09_memory.md) -/

/-- R252, R253, R256 to R258, R267 to R269: ld sends a read of 2^SZ bytes, which takes with it the bytes that
the write-coalescing buffer forwards, or waits behind a request of its context that has not been sent; vld sends reads of
16 to 64 bytes, or four units of 64, each with its own translation; st and vst send the low bytes of S[D] or V[D] in the
same way. The access carries its ordering, and the word has issued. That a later access waits behind one that has not been
sent is the model's reading (log 64, DEDUCED).

R264, R273 to R275, R284: atom, red and cas send a read-modify-write of 2^SZ bytes (cas: 4 or 8),
xadd the f32 values to add to a 64-byte accumulator, xrd the read of one, with or without its
clearing. -/
def Obligations.GlobalAccesses : Prop :=
  (∀ (h : Hdr) (sx : Bool) (d : Fin 32) (sz : Fin 4) (m : AddrArg) (at_ : MemAttr) (s : State), addrClean s.me m →
     (let ea := effAddr s.me m
      let a := Machine.attrOf at_
      let n := 2 ^ sz.val
      let vn := if sz = 3 then 256 else 16 * 2 ^ sz.val
      let al := if sz = 3 then 64 else 16 * 2 ^ sz.val
      let s' := s.takeMiss ea
      let units := fun (one : ReqOp) (unit : Nat → ReqOp) =>
        if sz = 3 then (List.range 4).map (fun j => Machine.Part.mk (unit j) ea (ea + 64 * j) 64 none) else [Machine.Part.mk one ea ea vn none]
      let loads := units (.loadV d) (fun j => .gather d 64 j)
      let bs := (s.me.readV d).bytes vn
      let stores := units (.store bs (List.replicate vn true) false) (fun j =>
        .store ((bs.drop (64 * j)).take 64) (((List.replicate vn true).drop (64 * j)).take 64) false)
      (∀ x, resolve s .read ea = .ok x → ready (.ld h sx d sz m at_) s = true → passable s .read .any n [(ea, ea)] a →
         (let r := fun (fwd : List (Option Byte)) => mkReq s' ⟨.loadS d sx, ea, ea, n, none⟩ x.pa a x.key fwd .queued
          (s.me.stuck = true → Machine.exec (.ld h sx d sz m at_) s = .next ((s'.addReq (r [])).retire s.cur s.me.pc))
          ∧ (s.me.stuck = false → a.rel = false → Machine.exec (.ld h sx d sz m at_) s
               = .next ((s'.sendReq s.cur (r (s'.me.forward x.pa n))).retire s.cur s.me.pc))))
      ∧ (ready (.vld h d sz m at_) s = true → passable s .read .any al (partAddrs loads) a →
         Machine.exec (.vld h d sz m at_) s = .next (sent s .read a loads))
      ∧ (ready (.st h d sz m at_) s = true → passable s .write .any n [(ea, ea)] a → s.me.poisS d = false →
         Machine.exec (.st h d sz m at_) s = .next (sent s .write a
           [⟨.store (leBytes n (s.me.readS d).toNat) (List.replicate n true) false, ea, ea, n, none⟩]))
      ∧ (ready (.vst h d sz m at_) s = true → passable s .write .any al (partAddrs stores) a →
         (s.me.readV d).poisonIn vn = false → Machine.exec (.vst h d sz m at_) s = .next (sent s .write a stores)))) ∧
  (∀ (h : Hdr) (op : AtomOp) (d : Fin 32) (sz : Fin 4) (b8 : Bool) (r : EReg) (m : AddrArg) (at_ : MemAttr)
     (scope : Fin 5) (ord : Fin 4) (b : Bool) (s : State), addrClean s.me m →
     (let ea := effAddr s.me m
      let a := Machine.attrOf at_
      let n := 2 ^ sz.val
      let cn := if b8 then 8 else 4
      let one := fun (k : Kind) (a : Attr) (op : ReqOp) (n : Nat) => sent s k a [⟨op, ea, ea, n, none⟩]
      let xa : Attr := ⟨false, b, scope == 0, 0, none, none⟩
      let xc : Attr := ⟨ord == 1 || ord == 3, ord == 2 || ord == 3, scope == 0, 0, none, none⟩
      let xr : Attr := ⟨b, false, scope == 0, 0, none, none⟩
      (s.me.poisS d = false → passable s .rmw (.rmw ((op == .add || op == .swap) && (sz == 2 || sz == 3))) n [(ea, ea)] a →
        (ready (.atom h op d sz m at_) s = true → Machine.exec (.atom h op d sz m at_) s
           = .next (one .rmw a (.rmw op sz (s.me.readS d) (some d)) n))
        ∧ (ready (.red h op d sz m at_) s = true → Machine.exec (.red h op d sz m at_) s
           = .next (one .rmw a (.rmw op sz (s.me.readS d) none) n)))
      ∧ (s.me.poisS d = false → s.me.poisS (d + 1) = false → passable s .rmw (.rmw true) cn [(ea, ea)] a →
        ready (.cas h d b8 m at_) s = true → Machine.exec (.cas h d b8 m at_) s
           = .next (one .rmw a (.cas (if b8 then 3 else 2) (s.me.readS d) (s.me.readS (d + 1)) d) cn))
      ∧ (passable s .rmw .local_ 64 [(ea, ea)] xa → ready (.xadd h r m scope b) s = true →
        (match r with | .scal n => s.me.poisS n = false | .vec n => (s.me.readV n).poisonIn 256 = false) →
        Machine.exec (.xadd h r m scope b) s = .next (one .rmw xa (.xadd (match r with
           | .scal n => [(s.me.readS n).truncate 32]
           | .vec n => (List.range 64).map (fun j => (s.me.readV n).lane j))) 64))
      ∧ (passable s .rmw .local_ 64 [(ea, ea)] xc → ready (.xrdClr h d m scope ord) s = true →
        Machine.exec (.xrdClr h d m scope ord) s = .next (one .rmw xc (.xrd d true) 64))
      ∧ (passable s .read .local_ 64 [(ea, ea)] xr → ready (.xrd h d m scope b) s = true →
        Machine.exec (.xrd h d m scope b) s = .next (one .read xr (.xrd d false) 64))))

/-- R267: the faults of the global accesses of one address, in their order: a poisoned address register 0x07, the base
before the index; a poisoned datum 0x07; a misaligned address 0x04; an address outside the range 0x06; a target that
does not admit the form 0x06; and, for ld, vld, st and vst of at most 64 bytes, a translation that fails with its own cause.
That ADDR is 0 for a poisoned address register, for the access has no address then, is the model's reading (log 13, DEDUCED).

R56, R207, R228, R234, R235, R241, R242, R244, R247, R249: the checks of the matrix words in their order, each with
its cause and detail; the first that fails decides. The product form is mma, the others are all those without a product.

R56, R302, R315, R325, R326, R329: the faults of the stream words at issue. sdef, carm and copy: a poisoned register, a
record address that is no multiple of 64 or runs past the scratchpad, a queue outside the launch's mask, a poisoned record,
and cause 0x0D: a bad record has reason 1, a busy slot or template reason 2, a slot that a relayout holds reason 3. sgo: a
poisoned register; a slot without a record has reason 3, a busy one reason 2, one without its edges reason 4, a dense record
that does not fit reason 1. sstop, sstat and cdis: a queue outside the mask.

R267, R270: the faults of vgath and vscat before any access: a poisoned address register, base before index; a
poisoned offset lane; of vscat a poisoned element of V[D + 1], with the address of the first one; and the first active
element in ascending order whose address is misaligned. -/
def Obligations.FaultsAtIssue : Prop :=
  (∀ (h : Hdr) (sx : Bool) (op : AtomOp) (d : Fin 32) (sz : Fin 4) (b8 : Bool) (m : AddrArg) (at_ : MemAttr) (r : Fin 32)
     (scope : Fin 5) (ord : Fin 4) (b : Bool) (s : State), globalHold s = false →
     (let ea := effAddr s.me m
      let n := 2 ^ sz.val
      let al := if sz = 3 then 64 else 16 * 2 ^ sz.val
      let vn := if sz = 3 then 256 else 16 * 2 ^ sz.val
      let cn := if b8 then 8 else 4
      -- each form with its data registers, its kind of access, its alignment and the poison of its data
      let forms : List (Instr × List RegId × Kind × Nat × Option Nat) :=
        [(.ld h sx d sz m at_, [], .read, n, none), (.vld h d sz m at_, [], .read, al, none),
         (.st h d sz m at_, [.s d], .write, n, if s.me.poisS d then some d.val else none),
         (.vst h d sz m at_, [.v d], .write, al, if (s.me.readV d).poisonIn vn then some (d.val + 256) else none),
         (.atom h op d sz m at_, [.s d], .rmw, n, if s.me.poisS d then some d.val else none),
         (.red h op d sz m at_, [.s d], .rmw, n, if s.me.poisS d then some d.val else none),
         (.cas h d b8 m at_, [.s d, .s (d + 1)], .rmw, cn,
           if s.me.poisS d then some d.val else if s.me.poisS (d + 1) then some (d + 1).val else none),
         (.xadd h (.scal r) m scope b, [.s r], .rmw, 64, if s.me.poisS r then some r.val else none),
         (.xrd h d m scope b, [], .read, 64, none), (.xrdClr h d m scope ord, [], .rmw, 64, none)]
      (∀ f ∈ forms, ready f.1 s = true →
        (let chk := [RegId.s m.base, .s m.idx] ++ f.2.1
         (s.me.poisS m.base = true → Machine.exec f.1 s = .next (trapped s chk 0x07 m.base.val 0))
         ∧ (s.me.poisS m.base = false → s.me.poisS m.idx = true → Machine.exec f.1 s = .next (trapped s chk 0x07 m.idx.val 0))
         ∧ (addrClean s.me m →
             (∀ k, f.2.2.2.2 = some k → Machine.exec f.1 s = .next (trapped s chk 0x07 k ea))
             ∧ (f.2.2.2.2 = none →
                 (ea % f.2.2.2.1 ≠ 0 → Machine.exec f.1 s = .next (trapped s chk 0x04 ea ea))
                 ∧ (ea % f.2.2.2.1 = 0 → s.cur ≠ .mgmt → 2 ^ 56 ≤ ea → Machine.exec f.1 s = .next (trapped s chk 0x06 ea ea))
                 ∧ (∀ c e, (f.1 = .ld h sx d sz m at_ ∨ f.1 = .st h d sz m at_
                       ∨ sz ≠ 3 ∧ (f.1 = .vld h d sz m at_ ∨ f.1 = .vst h d sz m at_)) →
                     ea % f.2.2.2.1 = 0 → ea < 2 ^ 56 → resolve s f.2.2.1 ea = .fault c e →
                     Machine.exec f.1 s = .next (trapped s chk c (if c = 0x06 then ea else e) ea))
                 ∧ (∀ x, (f.1 = .xadd h (.scal r) m scope b ∨ f.1 = .xrd h d m scope b ∨ f.1 = .xrdClr h d m scope ord) →
                     ea % 64 = 0 → ea < 2 ^ 56 → resolve s f.2.2.1 ea = .ok x → targetOf x.pa ≠ some .hbm →
                     Machine.exec f.1 s = .next (trapped s chk 0x06 ea ea)))))))) ∧
  (∀ (h : Hdr) (ty : Ty) (m : MacArg) (x y : Fin 32) (gr gc gR gC : Fin 4) (bank q shape : Fin 4) (sort : Fin 16) (hr : Fin 16)
     (half clr rd : Bool) (k1 : Fin 64) (cl : Clauses) (s : State) (t : Fin 256) (cx : Fin 4), s.cur = .tile t cx →
     (let w := s.tile t
      let c := s.me
      let mask := fun (i : Instr) => ((s.maskFault s.cur i).isSome, 0x06, (s.maskFault s.cur i).getD 0, 0)
      let pois := fun (r : Fin 32) => (c.poisS r, 0x07, r.val, 0)
      let mat := fun (b : Bool) (reason : Nat) => (b, 0x08, reason, 0)
      let inSort := bitOf w.issueSort.val q.val
      let panel := fun (b : Bool) => mat b 1
      let none_ := (panelOf w.issueShape q).isNone
      let p := (panelOf w.issueShape q).getD ⟨0, 0, 0, 0⟩
      let key := (c.readS y).toNat
      let desc := fun (hr : Fin 16) => hdesc (c.readH hr).desc
      let at_ := fun (hr : Fin 16) => (c.readH hr).index % 2 ^ 16 * 2 ^ 8 + hr.val * 2 ^ 24
      let handle := fun (hr : Fin 16) (ty : Ty) => [(!(c.readH hr).valid, 0x0B, 12 + hr.val * 2 ^ 24, 0),
        (dBits (c.readH hr).desc 112 4 2 == 2, 0x0C, (c.readH hr).index % 2 ^ 16 * 2 ^ 8, 0),
        ((desc hr).tyCode != tyCode ty, 0x0B, 10 + at_ hr, 0)]
      let window := fun (hr : Fin 16) (x0 : Int) (n0 : Nat) (x1 : Int) (n1 : Nat) =>
        ((windowTrap c hr x0 n0 x1 n1).isSome, 0x0B, ((windowTrap c hr x0 n0 x1 n1).map (fun z => z.2.1)).getD 0, 0)
      let move := fun (i : Instr) => [mask i, pois x, pois (x + 1)] ++ handle hr ty
        ++ [(!(desc hr).space || !((desc hr).tag == 0 || (desc hr).tag == 4) || (desc hr).rank != 2, 0x0B, 3 + at_ hr, 0),
            panel (none_ || inSort), window hr (c.readS x).toInt p.M (c.readS (x + 1)).toInt p.N]
      let z := (c.readS m.z).toNat
      let pm := (panelOf w.issueShape m.q).getD ⟨0, 0, 0, 0⟩
      let o := macOp c m ty ty false false false
      let product := [mask (.mma h ty m cl), pois m.x, pois m.y, pois (m.y + 1), pois (m.y + 2), pois m.z]
        ++ handle m.a ty ++ handle m.b ty
        ++ [mat ((panelOf w.issueShape m.q).isNone || bitOf w.issueSort.val m.q.val) 1,
            mat (!((desc m.a).space && (desc m.a).tag == 2 && decide ((desc m.a).base + (desc m.a).size ≤ 0x80000))) 2,
            mat (!((desc m.b).space && (desc m.b).tag == 3 && decide (0x80000 ≤ (desc m.b).base)
              && decide ((desc m.b).base + (desc m.b).size ≤ 0x100000))) 3,
            mat (m.z != 0 && !maskOk w.scratch z) 6,
            mat (o.K == 0 || decide (8192 < o.K) || o.K % o.G != 0 || o.k0 % (o.G : Int) != 0) 4,
            window m.a o.m0 pm.M o.k0 o.K, window m.b o.k0 o.K o.n0 pm.N,
            (m.z != 0 && z % 64 != 0, 0x04, z, z),
            mat (o.conflict pm ⟨true, true⟩).isSome
              (match o.conflict pm ⟨true, true⟩ with | some (v, b) => 5 + b * 2 ^ 8 + v * 2 ^ 16 | none => 0)]
      let regs := fun (rs : List (Fin 32)) => rs.map RegId.s
      let forms : List (Instr × List RegId × List (Bool × Nat × Nat × Nat)) :=
        [(.mma h ty m cl, regs [m.x, m.y, m.y + 1, m.y + 2, m.z], product),
         (.mgang h y gr gc gR gC q cl, regs [y],
           [mask (.mgang h y gr gc gR gC q cl), pois y, panel none_, mat (decide (255 < key) || (w.gang.get q).isSome) 7]),
         (.mgangFree h q cl, [], [mask (.mgangFree h q cl), panel none_, mat (w.gang.get q).isNone 7]),
         (.mcfg h shape sort cl, [], (List.range 4).map (fun q =>
             ((shape != w.issueShape || bitOf (sort.val ^^^ w.issueSort.val) q) && !bitOf (s.view s.cur).mqmask q, 0x06, q + 256, 0))
           ++ [mask (.mcfg h shape sort cl), mat ((List.finRange 4).any (fun q => (w.gang.get q).isSome)) 7]),
         (.mzero h bank q cl, [], [mask (.mzero h bank q cl), panel (none_ || inSort)]),
         (.mscaleRow h y bank q cl, [], [(y == 31 && p.M == 128, 0x02, 63 * 2 ^ 39, 0), mask (.mscaleRow h y bank q cl),
           panel (none_ || inSort)]),
         (.mscaleCol h y bank q cl, [], [mask (.mscaleCol h y bank q cl), panel (none_ || inSort)]),
         (.mrow h x y bank ty half q cl, regs [y], [mask (.mrow h x y bank ty half q cl), pois y, panel (none_ || inSort),
           mat (decide (p.M ≤ key)) 4]),
         (.msort h x y q cl, [], [mask (.msort h x y q cl), panel (none_ || !inSort)]),
         (.mtopk h x y k1 clr rd q cl, [], [mask (.mtopk h x y k1 clr rd q cl), panel (none_ || !inSort)]),
         (.mld h x bank hr ty q cl, regs [x, x + 1], move (.mld h x bank hr ty q cl)),
         (.mst h x bank hr ty q cl, regs [x, x + 1], move (.mst h x bank hr ty q cl))]
      ∀ f ∈ forms, ready f.1 s = true → ∀ v, f.2.2.find? (fun v => v.1) = some v →
        Machine.exec f.1 s = .next (trapped s f.2.1 v.2.1 v.2.2.1 v.2.2.2))) ∧
  (∀ (h : Hdr) (x z : Fin 32) (slot wm : Fin 16) (wmen : Bool) (sel : Fin 4) (cl : Clauses) (s : State) (t : Fin 256) (c : Fin 4),
     s.cur = .tile t c →
     (let a := (s.me.readS x).toNat
      let rcd := BitVec.ofNat 512 (s.scratch.readNat a 64)
      let sd := Instr.sdef h x slot cl
      let ca := Instr.carm h x slot wm wmen cl
      let cp := Instr.copy h x z wm wmen cl
      let sg := Instr.sgo h slot z cl
      let ss := s.me.ss.get slot
      let d := fun (reason num kind : Nat) => reason + 2 ^ 8 * num + 2 ^ 12 * kind
      -- each word that takes a record, with its registers, the rank rule of its record, and the number and kind of its detail
      let forms : List (Instr × List (Fin 32) × Nat × Nat × Nat) :=
        [(sd, [x], 0, slot.val, 0), (ca, [x], 1, slot.val, 2), (cp, [x, z], 1, wm.val, 1)]
      (∀ f ∈ forms, ready f.1 s = true →
        (let trap := fun (cause detail addr : Nat) => Machine.exec f.1 s = .next (trapped s (f.2.1.map RegId.s) cause detail addr)
         (∀ r, f.2.1.find? (fun r => s.me.poisS r) = some r → trap 0x07 r.val 0)
         ∧ (f.2.1.all (fun r => !s.me.poisS r) = true →
             (a % 64 ≠ 0 → trap 0x04 a a)
             ∧ (a % 64 = 0 → 0x180000 < a + 64 → trap 0x06 a a)
             ∧ (∀ n, a % 64 = 0 → a + 64 ≤ 0x180000 → s.maskFault s.cur f.1 = some n → trap 0x06 n 0)
             ∧ (scratchOpen s a 64 64 → s.maskFault s.cur f.1 = none →
                 ((s.scratch.readPoison a 64).any id = true → trap 0x07 x.val 0)
                 ∧ ((s.scratch.readPoison a 64).any id = false →
                     (recOk rcd f.2.2.1 (clusterCount s) (recRank s rcd) = false → trap 0x0D (d 1 f.2.2.2.1 f.2.2.2.2) 0)
                     ∧ (recOk rcd f.2.2.1 (clusterCount s) (recRank s rcd) = true →
                         (f.1 = sd → ss.held.isSome = true → trap 0x0D (d 3 slot.val 0) 0)
                         ∧ (f.1 = sd → ss.held = none → 2 ≤ ss.stat.state → trap 0x0D (d 2 slot.val 0) 0)
                         ∧ (f.1 = ca → (s.me.tmpl.get slot).isSome = true → trap 0x0D (d 2 slot.val 2) 0)
                         ∧ (f.1 = cp → (recOf rcd).denseBad = true → trap 0x0D (d 1 wm.val 1) 0)))))))
      ∧ (ready sg s = true →
        (let trap := fun (cause detail : Nat) => Machine.exec sg s = .next (trapped s [.s z] cause detail 0)
         (s.me.poisS z = true → trap 0x07 z.val)
         ∧ (s.me.poisS z = false → s.maskFault s.cur sg = none →
             (ss.record = none ∨ ss.held.isSome = true → trap 0x0D (d 3 slot.val 0))
             ∧ (∀ r, ss.record = some r → ss.held = none →
                 (2 ≤ ss.stat.state → trap 0x0D (d 2 slot.val 0))
                 ∧ (ss.stat.state < 2 → bindingOk s t c slot (recOf r) = false → trap 0x0D (d 4 slot.val 0))
                 ∧ (ss.stat.state < 2 → bindingOk s t c slot (recOf r) = true → (recOf r).denseBad = true →
                     trap 0x0D (d 1 slot.val 0))))))
      ∧ (∀ i n, (i = .sstop h slot cl ∨ i = .sstat h x slot sel cl ∨ i = .cdis h slot cl) → ready i s = true →
           s.maskFault s.cur i = some n → Machine.exec i s = .next (trapped s [] 0x06 n 0)))) ∧
  (∀ (h : Hdr) (d : Fin 32) (b8 : Bool) (m : AddrArg) (cp : Fin 4) (s : State), globalHold s = false →
     (let n := if b8 then 8 else 4
      let es := gatherElems s.me d b8 (effAddr s.me m)
      let lanes := (List.range (if b8 then 32 else 64)).all (fun j => !(s.me.readV d).poison.getLsbD (if b8 then 2 * j else j))
      let bad := fun (e : Nat × Nat) => (s.me.readV (d + 1)).elemPoison (if b8 then .i64 else .i32) e.1
      let chk := [RegId.s m.base, .s m.idx, .v d]
      ∀ i, (i = .vgath h d b8 m cp ∨ i = .vscat h d b8 m cp) → ready i s = true →
        (s.me.poisS m.base = true → Machine.exec i s = .next (trapped s chk 0x07 m.base.val 0))
        ∧ (s.me.poisS m.base = false → s.me.poisS m.idx = true → Machine.exec i s = .next (trapped s chk 0x07 m.idx.val 0))
        ∧ (addrClean s.me m →
            (lanes = false → Machine.exec i s = .next (trapped s chk 0x07 (d.val + 256) 0))
            ∧ (lanes = true →
                (∀ e, i = .vscat h d b8 m cp → es.find? bad = some e →
                    Machine.exec i s = .next (trapped s chk 0x07 ((d + 1).val + 256) e.2))
                ∧ (∀ e, (i = .vscat h d b8 m cp → es.find? bad = none) → es.find? (fun e => e.2 % n != 0) = some e →
                    Machine.exec i s = .next (trapped s chk 0x04 e.2 e.2))))))

/-- R270: vgath and vscat make one access for each active element, in ascending order: element j's
offset is lane j, or lane 2j for 8-byte elements, and the offset 0xFFFFFFFF makes it inactive. A
vgath without active elements writes zeros at once. -/
def Obligations.GatherScatter : Prop :=
  ∀ (h : Hdr) (d : Fin 32) (b8 : Bool) (m : AddrArg) (cp : Fin 4) (s : State), addrClean s.me m →
    (let ea := effAddr s.me m
     let es := ((List.range (if b8 then 32 else 64)).map (fun j => (j, ((s.me.readV d).lane (if b8 then 2 * j else j)).toNat))).filterMap
       (fun x => if x.2 = 0xFFFFFFFF then none else some (x.1, (ea + x.2) % 2 ^ 64))
     let n := if b8 then 8 else 4
     let parts := fun (op : Nat → ReqOp) => es.map (fun e => Machine.Part.mk (op e.1) e.2 e.2 n none)
     let gets := parts (fun j => .gather d n j)
     let puts := parts (fun j =>
       .store (leBytes n ((s.me.readV (d + 1)).elem (if b8 then .i64 else .i32) j)) (List.replicate n true) false)
     (∀ j, j < (if b8 then 32 else 64) → (s.me.readV d).poison.getLsbD (if b8 then 2 * j else j) = false) →
     (ready (.vgath h d b8 m cp) s = true → passable s .read .any n (partAddrs gets) (.plain cp) →
        (es = [] → Machine.exec (.vgath h d b8 m cp) s = .next (went s (fun c => c.writeV d ⟨0, 0⟩)))
        ∧ (es ≠ [] → Machine.exec (.vgath h d b8 m cp) s = .next (sent s .read (.plain cp) gets)))
     ∧ (ready (.vscat h d b8 m cp) s = true → passable s .write .any n (partAddrs puts) (.plain cp) →
        (∀ e ∈ es, (s.me.readV (d + 1)).elemPoison (if b8 then .i64 else .i32) e.1 = false) →
        Machine.exec (.vscat h d b8 m cp) s = .next (sent s .write (.plain cp) puts)))

/-- R251, R268, R269: lds and vlds read the tile's scratchpad at once, sts and vsts write it at once;
a byte outside the written ones reads as before, and the global memory stays.

R58, R251, R255: the frame of a scratchpad store: the bytes stored read back, every other byte of the
scratchpad and all of the global memory stay, a sector is healed exactly when it is written whole, and
no register of the context but its pc and its issue counts changes. -/
def Obligations.ScratchpadAccesses : Prop :=
  (∀ (h : Hdr) (sx : Bool) (d : Fin 32) (sz : Fin 4) (m : AddrArg) (s : State), addrClean s.me m →
     (let ea := effAddr s.me m
      let n := 2 ^ sz.val
      let vn := if sz = 3 then 256 else 16 * 2 ^ sz.val
      let al := if sz = 3 then 64 else 16 * 2 ^ sz.val
      let bs := s.scratch.read ea n
      (scratchOpen s ea n n →
        (ready (.lds h sx d sz m) s = true → Machine.exec (.lds h sx d sz m) s = .next (wroteS s d
           (if sx then wordOfInt (sextInt (leNat bs) (8 * n)) else BitVec.ofNat 64 (leNat bs))
           ((s.scratch.readPoison ea n).any id)))
        ∧ (s.me.poisS d = false → ready (.sts h d sz m) s = true →
           Machine.exec (.sts h d sz m) s = .next (scratchWrote s ea (leBytes n (s.me.readS d).toNat))))
      ∧ (scratchOpen s ea vn al →
        (ready (.vlds h d sz m) s = true → Machine.exec (.vlds h d sz m) s = .next (went s (fun c =>
           c.writeV d ((c.readV d).load (s.scratch.read ea vn) (s.scratch.readPoison ea vn)))))
        ∧ ((s.me.readV d).poisonIn vn = false → ready (.vsts h d sz m) s = true →
           Machine.exec (.vsts h d sz m) s = .next (scratchWrote s ea ((s.me.readV d).bytes vn)))))) ∧
  (∀ (s : State) (t : Fin 256) (c : Fin 4) (ea : Nat) (bs : List Byte), s.cur = .tile t c → (s.tile t).scratch.wf = true →
     (let u := scratchWrote s ea bs
      (∀ a, a < ea ∨ ea + bs.length ≤ a → (u.tile t).scratch.get a = (s.tile t).scratch.get a)
      ∧ (∀ k b, bs[k]? = some b → (u.tile t).scratch.get (ea + k) = b)
      ∧ (∀ a, (u.tile t).scratch.poisoned a
           = ((s.tile t).scratch.poisoned a && !(decide (ea ≤ a / 32 * 32) && decide (a / 32 * 32 + 32 ≤ ea + bs.length))))
      ∧ u.mem = s.mem ∧ u.hostMem = s.hostMem ∧ (∀ t', t' ≠ t → (u.tile t').scratch = (s.tile t').scratch)
      ∧ (∀ t' c', u.ctx (.tile t' c') = if t' = t ∧ c' = c then
            { s.me with pc := s.me.pc + 8, pcOver := s.me.pc == 0x3FFF8#18, lastIssue := some (s.order s.cur),
                        winIssues := s.me.winIssues + 1,
                        hIssued := if s.me.phase == .inHandler then s.me.hIssued + 1 else s.me.hIssued,
                        firing := if s.me.phase == .inHandler then s.me.firing
                          else s.me.firing.map (fun f => { f with issued := f.issued + 1 }) }
          else s.ctx (.tile t' c'))))

/-- R271, R272, R296, R298: ldc answers from the constant cache when it holds every line of the access, and
else fetches the lines it lacks and writes its register later; pref and its constant form bring lines and
write no register, and bring none where a line fails a check; fence completes when the accesses it orders are complete, those to local HBM once sent at
tile scope (R284); cinv discards the memory context's lines, or one line. -/
def Obligations.ConstantsPrefetchAndFences : Prop :=
  ∀ (h : Hdr) (f : LdcForm) (d a : Fin 32) (m : AddrArg) (z : Fin 8) (cp : Fin 4) (k : FenceKind) (scope : Fin 5) (s : State),
    (let ea := effAddr s.me m
     let mc := s.mctxOfAgent s.cur
     (∀ t c, s.cur = .tile t c → addrClean s.me m → ready (.ldc h f d m) s = true →
        passable s .read .local_ (ldcAlign f) (partAddrs (ldcParts f d ea)) (.plain 0) →
        (let line := fun (i : Nat) => (s.tile t).constLine mc (ea + i)
         let bs := (List.range (ldcBytes f)).map (fun i => match line i with | some l => l.bytes.getD ((ea + i) % 128) 0 | none => 0)
         let po := (List.range (ldcBytes f)).map (fun i => match line i with | some l => l.poison.getD ((ea + i) % 128) false | none => false)
         ((∀ l ∈ linesOf ea (ldcBytes f), ((s.tile t).constLine mc (l * 128)).isSome = true) →
            Machine.exec (.ldc h f d m) s = .next (went s (fun c => match f with
              | .scalar sx _ => c.writeS d (loadedS sx bs) (po.any id)
              | .vector _ => c.writeV d ((c.readV d).load bs po))))
         ∧ (s.me.stuck = false → (∃ l ∈ linesOf ea (ldcBytes f), (s.tile t).constLine mc (l * 128) = none) →
            ∃ u : State, Machine.exec (.ldc h f d m) s = .next (u.retire s.cur s.me.pc)
              ∧ ∃ r ∈ (u.ctx s.cur).reqs, r.op = .constFill true (some (f, d, ea)) ∧ r.stage = .sent)))
     ∧ (addrClean s.me m → globalHold s = false →
        (let lines := (linesOf ea (prefBytes z)).map (fun l => l * 128)
         let s' := lines.foldl (fun s a => s.takeMiss a) s
         (∀ l ∈ lines, resolve s .read l ≠ .walk) →
         (ready (.pref h z m cp) s = true → Machine.exec (.pref h z m cp) s = .next
           (((prefLines s .any ea (prefBytes z)).foldl (fun s x =>
             s.touchLines x.2.pa 128 cp (s.mctxOfAgent s.cur) .plain true) s').retire s.cur s.me.pc))
         ∧ (ready (.prefConst h z m) s = true → Machine.exec (.prefConst h z m) s = .next
           (((prefLines s .local_ ea (prefBytes z)).foldl (fun s x =>
             sendOk s ⟨.constFill true none, x.1, x.1, 128, none⟩ (.plain 0) x.2) s').retire s.cur s.me.pc))
         ∧ (∀ cls, (∃ l ∈ lines, ∀ x, resolve s .read l = .ok x → cls.allows x.pa = false) → prefLines s cls ea (prefBytes z) = [])))
     ∧ (ready (.fence h k scope) s = true →
        (k ≠ .acq → s.me.wcb = [] ∧ s.me.unperformed (scope == 0 && s.cur != .mgmt) = false
          ∧ ((scope == 0 && s.cur != .mgmt) = true ∨ s.pastOpen s.cur = false)) →
        (k ≠ .rel → s.me.awaiting = false) → Machine.exec (.fence h k scope) s = .next (went s (fun c => c)))
     ∧ (ready (.cinv h) s = true → Machine.exec (.cinv h) s = .next
          (((s.dropConst (fun l => l.mctx == mc)).modCtx s.cur dropFills).retire s.cur s.me.pc))
     ∧ (ready (.cinvLine h a) s = true → s.me.poisS a = false → Machine.exec (.cinvLine h a) s = .next
          (((s.dropConst (fun l => l.mctx == mc && l.line == (s.me.readS a).toNat / 128)).modCtx s.cur dropFills).retire
            s.cur s.me.pc)))
/-! ### Handle words (spec/07_handles.md) -/

/-- R200, R207, R220: hld copies the entry S[A] + OFF of the launch's table into H[D]; past the table it
takes cause 0x0B with reason 1; hinv makes one register invalid, or all; hst writes the 128 bytes of an
entry, and takes the same trap past the table.

R200, R220, R207: hdef replaces entry S[D] of the launch's table by the image at S[A], whose conversion state the
registers that hold the entry take, once the image has
been read and it passes the checks: no poison, an index inside the table, no conversion in progress of
the entry, and a valid image. A global image is read before the word issues. -/
def Obligations.HandleWords : Prop :=
  (∀ (h : Hdr) (dh : Fin 16) (d a : Fin 32) (off : BitVec 20) (s : State),
     (let idx := (s.me.readS a + off.zeroExtend 64).toNat
      let addr := (s.me.readS a).toNat
      let n := (s.me.readS d).toNat
      (ready (.hld h dh a off) s = true → s.me.poisS a = false →
         (∀ e, s.entry s.cur idx = some e →
            Machine.exec (.hld h dh a off) s = .next (went s (fun c => c.writeH dh ⟨true, idx, e⟩)))
         ∧ (s.entry s.cur idx = none → Machine.exec (.hld h dh a off) s
             = .next (trapped s [.s a] 0x0B (1 + idx % 2 ^ 16 * 2 ^ 8 + dh.val * 2 ^ 24) 0)))
      ∧ (ready (.hinv h dh false) s = true →
           Machine.exec (.hinv h dh false) s = .next (went s (fun c => c.writeH dh ⟨false, 0, 0⟩)))
      ∧ (ready (.hinv h dh true) s = true →
           Machine.exec (.hinv h dh true) s = .next (went s (fun c => { c with h := Vector.replicate 16 ⟨false, 0, 0⟩ })))
      ∧ (∀ e, s.me.poisS d = false → s.me.poisS a = false → s.entry s.cur n = some e →
           (ready (.hst h d a false) s = true → scratchOpen s addr 128 128 →
              Machine.exec (.hst h d a false) s = .next (scratchWrote s addr (leBytes 128 e.toNat)))
           ∧ (ready (.hst h d a true) s = true → passable s .write .any 128 [(addr, addr)] (.plain 0) →
              Machine.exec (.hst h d a true) s = .next (sent s .write (.plain 0)
                [⟨.store (leBytes 128 e.toNat) (List.replicate 128 true) false, addr, addr, 128, none⟩])))
      ∧ (∀ g, ready (.hst h d a g) s = true → s.me.poisS d = false → s.me.poisS a = false → addr % 128 = 0 →
           s.entry s.cur n = none → (g = true → globalHold s = false) →
           Machine.exec (.hst h d a g) s = .next (trapped s [.s d, .s a] 0x0B (1 + n % 2 ^ 16 * 2 ^ 8) 0)))) ∧
  (∀ (h : Hdr) (d a : Fin 32) (s : State),
     s.me.poisS d = false → s.me.poisS a = false → (s.me.readS a).toNat % 128 = 0 →
     (let addr := (s.me.readS a).toNat
      let idx := (s.me.readS d).toNat
      let fits := fun (s : State) (bs : List Byte) (po : List Bool) => po.any id = false
        ∧ (∃ l, s.launchOf s.cur = some l ∧ idx < l.handles.length)
        ∧ (∀ e, s.entry s.cur idx = some e → dBits e 112 4 2 ≠ 1) ∧ defReason (BitVec.ofNat 1024 (leNat bs)) = none
      let defined := fun (s : State) (bs : List Byte) =>
        let img := BitVec.ofNat 1024 (leNat bs)
        let s1 := s.modLaunchOf s.cur (fun l => { l with handles := l.handles.set idx img })
        match s.launchOf s.cur with
        | some l => s1.updEntry l.q l.c idx (fun d => dPut d 104 0 192 (dBits img 104 0 192))
        | none => s1
      (ready (.hdef h d a false) s = true → scratchOpen s addr 128 128 →
         fits s (s.scratch.read addr 128) (s.scratch.readPoison addr 128) →
         Machine.exec (.hdef h d a false) s = .next ((defined s (s.scratch.read addr 128)).retire s.cur s.me.pc))
      ∧ (ready (.hdef h d a true) s = true →
         (∀ r bs po, s.me.reqs.find? (fun r => r.op == .syncRead && r.ea == addr && r.by_.pc == s.me.pc) = some r →
           r.stage = .done bs po →
           (let u := s.modCtx s.cur (fun c => { c with reqs := c.reqs.filter (fun x => x.op != .syncRead) })
            fits u bs po → (u.me.readS d).toNat = idx →
            Machine.exec (.hdef h d a true) s = .next ((defined u bs).retire s.cur s.me.pc)))
         ∧ (s.me.reqs.find? (fun r => r.op == .syncRead && r.ea == addr && r.by_.pc == s.me.pc) = none →
            passable s .read .any 128 [(addr, addr)] (.plain 0) →
            Machine.exec (.hdef h d a true) s = .next (sendParts s .read (.plain 0) [⟨.syncRead, addr, addr, 128, none⟩])))))

/-- R215, R223, R224: hrelayout takes cause 0x0B with reason 11 for a target that R215 refuses, whatever the
handle does; it starts a conversion of the handle when none is in progress and the partition has fewer than
64; its non-blocking form writes 0, or 1 or 2 where it does not start; hwait ends when no conversion of the
handle is in progress, and takes cause 0x0C on a broken handle; hstat writes the word of Table 7.7. -/
def Obligations.RelayoutWords : Prop :=
  ∀ (h : Hdr) (d a : Fin 32) (hr : Fin 16) (tag : Fin 8) (cslot : Fin 16) (ctok nb : Bool) (s : State),
    (s.me.readH hr).valid = true →
    (let r := s.me.readH hr
     let x := hdesc r.desc
     let i := Instr.hrelayout h d a hr tag cslot ctok nb
     let slot := if ctok then some cslot else none
     (ready (.hstat h d hr) s = true → Machine.exec (.hstat h d hr) s = .next (wroteS s d (BitVec.ofNat 64
        (x.cstate + 4 * x.tag + (if x.cstate = 1 then 64 * x.newTag else 0) + 1024 * b2n x.park
          + 2 ^ 12 * (x.done % 2 ^ 24) + 2 ^ 36 * (x.units % 2 ^ 24))) false))
     ∧ (x.cstate ≠ 2 →
         (ready (.hwait h hr) s = true →
           (x.cstate ≠ 1 → Machine.exec (.hwait h hr) s = .next (s.retire s.cur s.me.pc))
           ∧ (x.cstate = 1 → Machine.exec (.hwait h hr) s = .next s))
         ∧ (ready i s = true → s.me.poisS a = false → relayoutRefused s r.desc tag.val (s.me.readS a).toNat slot = true →
             Machine.exec i s = .next (trapped s [.s a] 0x0B (11 + r.index % 2 ^ 16 * 2 ^ 8 + hr.val * 2 ^ 24) 0))
         ∧ (∀ l, ready i s = true → s.me.poisS a = false → s.launchOf s.cur = some l →
             relayoutRefused s r.desc tag.val (s.me.readS a).toNat slot = false →
             (x.cstate ≠ 1 → s.convCount l.q < 64 → drained s →
               Machine.exec i s = .next (((if nb then (fun t : State => t.modCtx s.cur (fun c => c.writeS d 0 false)) else id)
                 (startConv s l r.index tag.val (s.me.readS a).toNat r.desc slot)).retire s.cur s.me.pc))
             ∧ (x.cstate = 1 → nb = true → Machine.exec i s = .next (wroteS s d 1 false))
             ∧ (x.cstate ≠ 1 → nb = true → 64 ≤ s.convCount l.q → Machine.exec i s = .next (wroteS s d 2 false))))
     ∧ (x.cstate = 2 → ready (.hwait h hr) s = true →
         Machine.exec (.hwait h hr) s = .next (trapped s [] 0x0C (r.index % 2 ^ 16 * 2 ^ 8) 0)))

/-- R211, R221: ldt and stt access element x of the handle for each active element, x stepping along the
last dimension from the coordinates in the registers from CB on. Elements out of range read as zero and are
not written. During a conversion an element is read at its old place, or in the target when its unit is New,
and a read that touches a unit being converted does not issue; a write goes to the target, waits as a whole until every
unit it touches is New, and demands the Old ones.

R211, R221: ldtb and sttb move the 256 bytes of storage (192 of a packed 6-bit tensor) that begin at Loc of
the coordinates in the layout in force, the bytes of active lanes only; bytes past the store read as zero and
are not written; scale bytes of a block go with it. A block of coordinates out of range reads as zero and is
not written. During a conversion a block of an Old unit is gathered from the old places of its elements, with
free bytes as its padding, a block of a unit being converted holds the read, and a write goes to the target,
waits for its unit and demands it. Three clauses are the model's choice: the free bytes of the padding of a gathered Old
block (log 4, DESIGN CHOICE), and the alignment of the block's start being checked whatever the coordinates, with scale
runs of up to eight bytes (log 18, DEDUCED). -/
def Obligations.TensorAccesses : Prop :=
  (∀ (hd : Hdr) (d : Fin 32) (hr : Fin 16) (cb : Fin 32) (ty : Ty) (k : Fin 8) (cp : Fin 4) (s : State),
     (let c := s.me
      let h := hdesc (c.readH hr).desc
      let at_ := h.attr (c.readH hr).index cp
      let v := convFor s hr
      let es := ((List.range (elems ty)).filter (fun j => active (c.readK k) ty j)).map (fun j =>
        (j, stepLast ((coordRegs cb h.rank).map (fun r => (c.readS r).toInt)) h.rank j))
      let ins := es.filter (fun e => (h.outDim e.2).isNone)
      let us := match v with | some v => ins.map (fun e => v.unitOf (toNats e.2)) | none => []
      let w := tyWidth ty
      let gets := cellPieces (ins.map (fun e => { dst := w * e.1, cw := w, bit := placeBit h v (toNats e.2), w := h.ws }))
      let puts := cellPieces (ins.map (fun e =>
        { dst := w * e.1, cw := w, bit := writeBit h v (toNats e.2), w := h.ws }))
      let wait : Option (Nat × List Nat) := match v with
        | some v => if us.all (fun u => v.unitState u = .new) then none else some (v.id, us.eraseDups)
        | none => none
      let zeroed := fun (c : Ctx) => c.writeV d ((es.filter (fun e => (h.outDim e.2).isSome)).foldl (fun (v : VReg) e =>
        { bits := BitVec.ofNat 2048 (putBits v.bits.toNat (w * e.1) w 0)
          poison := setBit (setBit v.poison (w * e.1 / 32) false) ((w * e.1 + w - 1) / 32) false }) (c.readV d))
      (ready (.ldt hd d hr cb ty k cp) s = true →
         passes (tensorTraps c hr cb ty ++ [boundsTrap c hr (es.map (fun e => e.2))]) = true →
         (unitsHold v us = true → Machine.exec (.ldt hd d hr cb ty k cp) s = .next s)
         ∧ (unitsHold v us = false →
           (h.space = true → piecesHeld s gets [] = false →
              Machine.exec (.ldt hd d hr cb ty k cp) s = .next (went s (fun c =>
                (zeroed c).writeV d (scratchReads s.scratch ((zeroed c).readV d) gets))))
           ∧ (h.space = false → passable s .read .any 1 (partAddrs (readParts d gets [])) at_ →
              Machine.exec (.ldt hd d hr cb ty k cp) s
                = .next ((sendParts (s.modCtx s.cur zeroed) .read at_ (readParts d gets [])).retire s.cur s.me.pc))))
      ∧ (ready (.stt hd d hr cb ty k cp) s = true →
         passes (tensorTraps c hr cb ty ++ [storePoison c d ty (es.map (fun e => e.1)), boundsTrap c hr (es.map (fun e => e.2))]) = true →
         (h.space = true → piecesHeld s puts [] = false →
            Machine.exec (.stt hd d hr cb ty k cp) s
              = .next (((s.modScratch (fun m => scratchWrites m (c.readV d) puts)).demand v us).retire s.cur s.me.pc))
         ∧ (h.space = false → passable s .write .any 1 (partAddrs (writeParts c d puts [] wait)) at_ →
            Machine.exec (.stt hd d hr cb ty k cp) s
              = .next (((sendParts s .write at_ (writeParts c d puts [] wait)).demand v us).retire s.cur s.me.pc))))) ∧
  (∀ (hd : Hdr) (d : Fin 32) (hr : Fin 16) (cb : Fin 32) (ty : Ty) (k : Fin 8) (cp : Fin 4) (sc : Bool) (sr : Fin 31) (s : State),
     (let c := s.me
      let h := hdesc (c.readH hr).desc
      let at_ := h.attr (c.readH hr).index cp
      let v := convFor s hr
      let t := inForce h v
      let x := coords c cb h.rank
      let l := t.loc (toNats x)
      let rs := if sc then scaleRuns h (toNats x) sr else []
      let units := blockUnit h t l (c.readK k)
      let stored := (activeCells c t l k true).map (fun z => { z with bit := 8 * t.base + z.bit })
      let old := (oldCells h t l).filter (fun z => (c.readK k).getLsbD (z.dst / 32))
      let plan : State × List Machine.Cell × List ScaleRun := match v with
        | none => (s, stored, rs)
        | some v => if v.unitState (l / 8 / 32768) = .new then (s, stored, []) else (padRegister s d k old, old, [])
      let gets := cellPieces plan.2.1
      let zero := fun (cs : List Machine.Cell) (c : Ctx) => c.writeV d (cs.foldl (fun (v : VReg) z =>
        { bits := BitVec.ofNat 2048 (putBits v.bits.toNat z.dst z.cw 0)
          poison := setBit (setBit v.poison (z.dst / 32) false) ((z.dst + z.cw - 1) / 32) false }) (c.readV d))
      let base := fun (c : Ctx) => (plan.2.2.filter (fun r => r.len == 0)).foldl (fun c r => c.writeS r.reg 0 false)
        (zero (activeCells s.me t l k false) c)
      let us := match v with | some _ => units | none => []
      let wait : Option (Nat × List Nat) := match v with
        | some v => if us.all (fun u => v.unitState u = .new) then none else some (v.id, us.eraseDups)
        | none => none
      let puts := cellPieces stored
      let first : Fin 32 := ⟨sr.val, by omega⟩
      (ready (.ldtb hd d hr cb ty k cp sc sr) s = true →
         passes (tensorTraps c hr cb ty ++ blockTraps c hr cb v k sc) = true →
         ((h.outDim x).isSome = true → (h.space = false → globalHold s = false) →
            Machine.exec (.ldtb hd d hr cb ty k cp sc sr) s = .next (went s (fun c =>
              rs.foldl (fun c r => c.writeS r.reg 0 false) (zero ((blockCells t 0).filter (fun z => (c.readK k).getLsbD (z.dst / 32))) c))))
         ∧ (h.outDim x = none → unitsHold v units = true → Machine.exec (.ldtb hd d hr cb ty k cp sc sr) s = .next s)
         ∧ (h.outDim x = none → unitsHold v units = false →
           (h.space = true → piecesHeld plan.1 gets plan.2.2 = false →
             Machine.exec (.ldtb hd d hr cb ty k cp sc sr) s = .next ((plan.1.modCtx s.cur (fun c =>
               plan.2.2.foldl (fun c r => c.writeS r.reg (BitVec.ofNat 64 (s.scratch.readNat r.addr r.len))
                   ((s.scratch.readPoison r.addr r.len).any id))
                 ((base c).writeV d (scratchReads s.scratch ((base c).readV d) gets)))).retire s.cur s.me.pc))
           ∧ (h.space = false → passable plan.1 .read .any 1 (partAddrs (readParts d gets plan.2.2)) at_ →
             Machine.exec (.ldtb hd d hr cb ty k cp sc sr) s = .next ((sendParts (plan.1.modCtx s.cur base) .read at_
               (readParts d gets plan.2.2)).retire s.cur s.me.pc))))
      ∧ (ready (.sttb hd d hr cb ty k cp sc sr) s = true →
         passes (tensorTraps c hr cb ty ++ [storePoison c d .n32 ((List.range 64).filter (fun j => (c.readK k).getLsbD j)),
             if sc then poisonS c (if tyWidth h.ty = 4 then [first, first + 1] else [first]) else none]
           ++ blockTraps c hr cb v k sc) = true →
         ((h.outDim x).isSome = true → Machine.exec (.sttb hd d hr cb ty k cp sc sr) s = .next (s.retire s.cur s.me.pc))
         ∧ (h.outDim x = none → h.space = true → piecesHeld s puts rs = false →
            Machine.exec (.sttb hd d hr cb ty k cp sc sr) s = .next (((s.modScratch (fun m =>
              rs.foldl (fun m r => m.write r.addr (leBytes r.len (c.readS r.reg).toNat)) (scratchWrites m (c.readV d) puts))).demand
                v us).retire s.cur s.me.pc))
         ∧ (h.outDim x = none → h.space = false → passable s .write .any 1 (partAddrs (writeParts c d puts rs wait)) at_ →
            Machine.exec (.sttb hd d hr cb ty k cp sc sr) s
              = .next (((sendParts s .write at_ (writeParts c d puts rs wait)).demand v us).retire s.cur s.me.pc)))))

/-! ### Matrix words (spec/08_matrix.md) -/

/-- R229, R235, R241 to R243: a product word whose checks pass appends its operation to its queue, with
the operands its registers and handles hold now; a gang form takes the gang's next number.

R242, R244, R246 to R250: the other matrix words whose checks pass append their operation to their
queue, or to the tile's configuration list, and mstat writes a counter or the status word. -/
def Obligations.MatrixWords : Prop :=
  (∀ (h : Hdr) (ty : Ty) (f : MmiForm) (m : MacArg) (cl : Clauses) (s : State) (t : Fin 256) (cx : Fin 4) (i : Instr)
     (ta tb : Ty) (mx int gang : Bool), s.cur = .tile t cx →
     (i = .mma h ty m cl ∧ ta = ty ∧ tb = ty ∧ mx = false ∧ int = false ∧ gang = false
       ∨ i = .mmx h ty m cl ∧ ta = ty ∧ tb = ty ∧ mx = true ∧ int = false ∧ gang = false
       ∨ i = .mmi h f m cl ∧ (ta, tb) = mmiTypes f ∧ mx = false ∧ int = true ∧ gang = false
       ∨ i = .mmaG h ty m cl ∧ ta = ty ∧ tb = ty ∧ mx = false ∧ int = false ∧ gang = true
       ∨ i = .mmxG h ty m cl ∧ ta = ty ∧ tb = ty ∧ mx = true ∧ int = false ∧ gang = true) →
     ready i s = true → passes (macChecks (s.takeWait s.cur i) i t m ta tb mx int gang) = true →
     (let u := s.takeWait s.cur i
      let y := u.tile t
      let op : MatOp := {
        kind := .mac {
          ta := ta, tb := tb, mx := mx, int := int, gang := gang, K := (u.me.readS m.x).toNat,
          m0 := (u.me.readS m.y).toInt, k0 := (u.me.readS (m.y + 1)).toInt, n0 := (u.me.readS (m.y + 2)).toInt,
          a := (u.me.readH m.a).desc, b := (u.me.readH m.b).desc, sa := (u.me.readH (m.a + 1)).desc,
          sb := (u.me.readH (m.b + 1)).desc, z := if m.z = 0 then none else some (u.me.readS m.z).toNat }
        ctx := cx, bank := m.bank, shape := y.issueShape, sq := if cl.se then some cl.sq else none, by_ := u.issued u.cur,
        gidx := match y.gang.get m.q with | some g => g.ops | none => 0, started := false, waves := 0, mask := none,
        sclA := [], sclB := [], evs := [], err := none, dead := false, team := none }
      Machine.exec i s = .next ((u.modTile t (fun y =>
        { y with
          mq := vset y.mq m.q (y.mq.get m.q ++ [op]),
          gang := if gang then vset y.gang m.q ((y.gang.get m.q).map (fun g => { g with ops := g.ops + 1 })) else y.gang })).retire
          s.cur s.me.pc))) ∧
  (∀ (h : Hdr) (x y d : Fin 32) (gr gc gR gC : Fin 4) (bank q shape sel : Fin 4) (sort : Fin 16) (hr : Fin 16) (ty : Ty)
     (half clr rd : Bool) (k1 : Fin 64) (cl : Clauses) (s : State) (t : Fin 256) (cx : Fin 4), s.cur = .tile t cx →
     (let queued := fun (i : Instr) (cs : State → List (Option (Nat × Nat × Nat))) (b : Fin 4) (kind : State → MatKind)
          (more : Machine.Tile → Machine.Tile) =>
        ready i s = true → passes (cs (s.takeWait s.cur i)) = true →
        (let u := s.takeWait s.cur i
         Machine.exec i s = .next (((u.enqueue t q (newMatOp u cx b (u.tile t).issueShape cl (kind u))).modTile t more).retire
           s.cur s.me.pc))
      let panel := fun (u : State) => (panelOf (u.tile t).issueShape q).getD ⟨0, 0, 0, 0⟩
      let key := (s.me.readS y).toNat
      (queued (.mgang h y gr gc gR gC q cl)
         (fun u => [maskTrap u (.mgang h y gr gc gR gC q cl), poisonS u.me [y], panelTrap (u.tile t) q none,
           matTrap (decide (255 < key) || ((u.tile t).gang.get q).isSome) 7]) 0 (fun _ => .gang)
         (fun w => { w with gang := vset w.gang q (some ⟨key, gr.val, gc.val, gR.val + 1, gC.val + 1, false, 0, []⟩) }))
      ∧ queued (.mgangFree h q cl)
         (fun u => [maskTrap u (.mgangFree h q cl), panelTrap (u.tile t) q none, matTrap ((u.tile t).gang.get q).isNone 7])
         0 (fun _ => .gangFree) id
      ∧ queued (.mzero h bank q cl) (fun u => [maskTrap u (.mzero h bank q cl), panelTrap (u.tile t) q (some false)])
         bank (fun _ => .zero) id
      ∧ queued (.mscaleRow h y bank q cl)
         (fun u => [trapIf (y == 31 && (panel u).M == 128) 0x02 (63 * 2 ^ 39) 0, maskTrap u (.mscaleRow h y bank q cl),
           panelTrap (u.tile t) q (some false)])
         bank (fun u => .scale false ((factors (u.me.readV y) 64 ++ factors (u.me.readV (y + 1)) 64).take (panel u).M)) id
      ∧ queued (.mscaleCol h y bank q cl)
         (fun u => [maskTrap u (.mscaleCol h y bank q cl), panelTrap (u.tile t) q (some false)])
         bank (fun u => .scale true (factors (u.me.readV y) 64)) id
      ∧ queued (.mld h x bank hr ty q cl) (fun u => moveTraps u (.mld h x bank hr ty q cl) t x hr ty q)
         bank (fun u => .load ty (u.me.readH hr).desc (u.me.readS x).toInt (u.me.readS (x + 1)).toInt) id
      ∧ queued (.mst h x bank hr ty q cl) (fun u => moveTraps u (.mst h x bank hr ty q cl) t x hr ty q)
         bank (fun u => .store ty (u.me.readH hr).desc (u.me.readS x).toInt (u.me.readS (x + 1)).toInt) id
      ∧ queued (.mrow h x y bank ty half q cl)
         (fun u => [maskTrap u (.mrow h x y bank ty half q cl), poisonS u.me [y], panelTrap (u.tile t) q (some false),
           matTrap (decide ((panel u).M ≤ key)) 4])
         bank (fun _ => .row ty half key x) id
      ∧ queued (.msort h x y q cl) (fun u => [maskTrap u (.msort h x y q cl), panelTrap (u.tile t) q (some true)])
         0 (fun u => .sort x y (pairsOf (u.me.readV x) (u.me.readV y)) ((u.me.readV x).poison != 0 || (u.me.readV y).poison != 0)) id
      ∧ queued (.mtopk h x y k1 clr rd q cl)
         (fun u => [maskTrap u (.mtopk h x y k1 clr rd q cl), panelTrap (u.tile t) q (some true)])
         0 (fun u => .topk x y (pairsOf (u.me.readV x) (u.me.readV y))
             ((u.me.readV x).poison != 0 || (u.me.readV y).poison != 0) (k1.val + 1) clr rd) id
      ∧ (ready (.mcfg h shape sort cl) s = true →
         (∀ q : Fin 4, (shape != (s.tile t).issueShape || bitOf (sort.val ^^^ (s.tile t).issueSort.val) q.val) = true →
            bitOf (s.view s.cur).mqmask q.val = true) →
         s.maskFault s.cur (.mcfg h shape sort cl) = none → (∀ q, (s.tile t).gang.get q = none) →
         (let u := s.takeWait s.cur (.mcfg h shape sort cl)
          Machine.exec (.mcfg h shape sort cl) s = .next ((u.modTile t (fun w => { w with
             issueShape := shape, issueSort := sort,
             cfgs := w.cfgs ++ [newMatOp u cx 0 shape cl (.cfg shape sort)] })).retire s.cur s.me.pc)))
      ∧ (ready (.mstat h d sel) s = true → Machine.exec (.mstat h d sel) s = .next (wroteS s d (BitVec.ofNat 64
           (if hs : sel.val < 3 then ((s.tile t).cnt.get ⟨sel.val, hs⟩).toNat else matStatus (s.tile t) (s.view s.cur).mqmask)) false))))

/-! ### Streams, copies and stream transform arrays (spec/11_streams.md, spec/12_transform_arrays.md) -/

/-- R302, R324 to R326: sdef takes the record at S[X] for an idle slot; carm arms a free template with
it; sstop asks a busy stream to end, and signals at once when none is busy; sstat writes the selected
word; cdis disarms, after the firing in progress, and the firings that have not started go.

R299, R314, R317, R325, R329: sgo submits the slot's record to the engine of its channel group and
makes the stream busy; copy submits the record at S[X], taking its watermark; both are releases. -/
def Obligations.StreamWords : Prop :=
  (∀ (h : Hdr) (x : Fin 32) (slot wm : Fin 16) (wmen : Bool) (sel : Fin 4) (cl : Clauses) (s : State) (t : Fin 256) (c : Fin 4)
     (rcd : BitVec 512), s.cur = .tile t c →
     (let sd := Instr.sdef h x slot cl
      let ca := Instr.carm h x slot wm wmen cl
      let so := Instr.sstop h slot cl
      let st := Instr.sstat h x slot sel cl
      let cd := Instr.cdis h slot cl
      let ss := s.me.ss.get slot
      (ready sd s = true → recordAt (s.takeWait s.cur sd) sd x 0 rcd → ss.held = none → ss.stat.state < 2 →
         Machine.exec sd s = .next (wentE sd s (fun c => { c with
           ss := vset c.ss slot { ss with record := some rcd, stat := { ss.stat with state := 1 } } })))
      ∧ (ready ca s = true → recordAt (s.takeWait s.cur ca) ca x 1 rcd → s.me.tmpl.get slot = none → drained s →
         Machine.exec ca s = .next (((s.takeWait s.cur ca).modCtx s.cur (fun c => { c with
           tmpl := vset c.tmpl slot (some ⟨rcd, if wmen then some wm else none, sqOf ca, s.issued s.cur, false, false, []⟩) })).retire
             s.cur s.me.pc))
      ∧ (ready so s = true → s.maskFault s.cur so = none →
         (ss.stat.state < 2 → Machine.exec so s = .next (completed so s (s.takeWait s.cur so)))
         ∧ (2 ≤ ss.stat.state → Machine.exec so s = .next (((s.takeWait s.cur so).modCtx s.cur (fun c => { c with
             ss := vset c.ss slot { ss with stat := { ss.stat with state := 3 }, waiters := ss.waiters ++ (sqOf so).toList } })).retire
               s.cur s.me.pc)))
      ∧ (ready st s = true → s.maskFault s.cur st = none →
         Machine.exec st s = .next (wentE st s (fun c => c.writeS x (match sel with
           | 0 => ss.stat.word
           | 1 => BitVec.ofNat 64 ss.stat.moved
           | 2 => evWord ss.stat.ev
           | 3 => BitVec.ofNat 64 ss.stat.addr) false)))
      ∧ (ready cd s = true → s.maskFault s.cur cd = none →
         (s.me.tmpl.get slot = none → Machine.exec cd s = .next (completed cd s (s.takeWait s.cur cd)))
         ∧ (∀ tm, s.me.tmpl.get slot = some tm →
             (tm.firing = false → Machine.exec cd s
               = .next (completed cd s ((dropFirings (s.takeWait s.cur cd) s.cur slot).modCtx s.cur (fun c => { c with
                   tmpl := vset c.tmpl slot none }))))
             ∧ (tm.firing = true → Machine.exec cd s = .next (((dropFirings (s.takeWait s.cur cd) s.cur slot).modCtx s.cur (fun c => { c with
                 tmpl := vset c.tmpl slot (some { tm with disarming := true, waiters := tm.waiters ++ (sqOf cd).toList }) })).retire
                   s.cur s.me.pc)))))) ∧
  (∀ (h : Hdr) (x z : Fin 32) (slot wm : Fin 16) (wmen : Bool) (cl : Clauses) (s : State) (t : Fin 256) (c : Fin 4)
     (rcd : BitVec 512) (l : Launch) (cg : Fin 32), s.cur = .tile t c → s.launchOf s.cur = some l → s.me.poisS z = false →
     s.cgOfPart l.q (recOf rcd).cg = some cg → (recOf rcd).denseBad = false → drained s →
     (let sg := Instr.sgo h slot z cl
      let cp := Instr.copy h x z wm wmen cl
      let ss := s.me.ss.get slot
      (ready sg s = true → s.maskFault s.cur sg = none → ss.record = some rcd → ss.held = none → ss.stat.state < 2 →
         bindingOk s t c slot (recOf rcd) = true →
         (let u := s.takeWait s.cur sg
          Machine.exec sg s = .next (((u.modCtx s.cur (fun c => { c with
              ss := vset c.ss slot { ss with stat := { StreamStat.empty with state := 2, last := ss.stat.last } } })).submitReq cg
            (newReq 0 l.q t c slot rcd (s.me.readS z) 0 none (sqOf sg) (s.issued s.cur))).retire s.cur s.me.pc)))
      ∧ (ready cp s = true → recordAt (s.takeWait s.cur cp) cp x 1 rcd → (wmen = true → (s.me.wm.get wm).active = false) →
         (let u := s.takeWait s.cur cp
          let r := newReq 1 l.q t c wm rcd (s.me.readS z) (recOf rcd).soff (if wmen then some wm else none) (sqOf cp) (s.issued s.cur)
          Machine.exec cp s = .next (((takeWm u r (s.order s.cur + 1)).submitReq cg r).retire s.cur s.me.pc)))))

/-- R346 to R351: staload claims an empty slot of the channel group S[Y] and queues its load, its update
form needs a slot that is not empty; stafree queues the free, and signals at once on an empty slot;
stastat writes the selected word; each rejects a slot of another launch with cause 0x06. A slot that is being freed is not
empty yet: a staload of it takes cause 0x0E with reason 9, which is the model's reading (log 28, DEDUCED). -/
def Obligations.TransformArrayWords : Prop :=
  ∀ (h : Hdr) (x y : Fin 32) (slot : Fin 8) (sel : Fin 32) (cl : Clauses) (s : State) (t : Fin 256) (c : Fin 4)
    (l : Launch) (cg : Fin 32) (i : Instr) (upd : Bool), s.cur = .tile t c →
    (let u := s.takeWait s.cur i
     let a := (s.me.readS x).toNat
     (ready i s = true → s.me.poisS y = false → s.launchOf s.cur = some l → s.cgOfPart l.q (s.me.readS y).toNat = some cg →
      (∃ o, (s.staSlot cg slot).owner = some o ∧ o ≠ l.id) →
        (i = .staload h x y slot cl ∨ i = .staloadUpd h x y slot cl → s.me.poisS x = false → a % 256 = 0 →
           Machine.exec i s = .next (trapped s [.s x, .s y] 0x06 slot.val 0))
        ∧ (i = .stafree h y slot cl ∨ i = .stastat h x y slot sel cl →
           Machine.exec i s = .next (trapped s [.s y] 0x06 slot.val 0)))
     ∧ (ready i s = true → slotAt u i y slot l cg →
     (i = .staload h x y slot cl ∧ upd = false ∨ i = .staloadUpd h x y slot cl ∧ upd = true →
        s.me.poisS x = false → a % 256 = 0 →
        (((s.staSlot cg slot).st = 0 ↔ upd = false) → drained s → Machine.exec i s
          = .next ((((u.modCluster cg (fun k => { k with stamp := k.stamp + 1 })).modSta cg slot (fun k => { k with
              st := if upd then k.st else 1, owner := some l.id,
              loads := k.loads ++ [⟨upd, a, t, c, sqOf i, u.issued u.cur, (s.clusters.get cg).stamp, none, none⟩] }))).retire s.cur s.me.pc))
        ∧ (¬((s.staSlot cg slot).st = 0 ↔ upd = false) → Machine.exec i s
          = .next (trapped s [.s x, .s y] 0x0E (9 + 2 ^ 8 * slot.val + 2 ^ 11 * (s.me.readS y).toNat) 0)))
     ∧ (i = .stafree h y slot cl →
        ((s.staSlot cg slot).st = 0 → Machine.exec i s = .next (completed i s u))
        ∧ ((s.staSlot cg slot).st ≠ 0 → Machine.exec i s
          = .next ((((u.modCluster cg (fun k => { k with stamp := k.stamp + 1 })).modSta cg slot (fun k => { k with
              st := 3,
              frees := k.frees ++ [⟨t, c, sqOf i, (s.clusters.get cg).stamp⟩] }))).retire s.cur s.me.pc)))
     ∧ (i = .stastat h x y slot sel cl → Machine.exec i s = .next (wentE i s (fun k =>
          k.writeS x (BitVec.ofNat 64 (stastatValue (s.clusters.get cg) slot sel)) false)))))

/-! ### Fabric regions (spec/13_fabric.md) -/

/-- R357, R361 to R364, R377: rgload claims the region S[Y] and stages the bitstream at S[X]; rgswap asks
for the staged plane, at once when the region is Blank, else after a drain; rgswap.force does not wait
for the drain; a region without a staged plane takes cause 0x0F with reason 1, a Frozen one reason 2.

R355, R366 to R368, R377 to R380: rgsave keeps the image of a Frozen region, rgrest brings it back,
rgclk sets the requested clock inside the configuration's range, rgfrz freezes a Running region,
rgfrz.drain waits for it to drain, rgthaw makes a Frozen region run, rgstat writes its status. That rgsave and rgrest complete
and signal when they issue is the model's choice (log 29, DEDUCED); Table 13.8 names the image and the state written. -/
def Obligations.RegionWords : Prop :=
  (∀ (h : Hdr) (x y : Fin 32) (cl : Clauses) (s : State) (t : Fin 256) (c : Fin 4) (l : Launch) (r : Fin 128),
     s.cur = .tile t c →
     (let ld := Instr.rgload h x y cl
      let sw := Instr.rgswap h y cl
      let sf := Instr.rgswapForce h y cl
      let g := s.region r
      let n := (s.me.readS y).toNat
      let who := fun (i : Instr) => RgWait.mk t c (sqOf i) (s.issued s.cur)
      let committed := fun (i : Instr) => (s.takeWait s.cur i).modRegion r (fun k => { k with
        st := 1, stage := 0, active := k.staged, staged := none, op := RgOp.fresh, quiescent := false, swap := none })
      (ready ld s = true → regionAt (s.takeWait s.cur ld) ld y true l r → s.me.poisS x = false →
         (s.me.readS x).toNat % 256 = 0 →
         (g.stage = 1 → Machine.exec ld s = .next (trapped s [.s x, .s y] 0x0F (2 + 2 ^ 8 * n) 0))
         ∧ (g.stage ≠ 1 → g.swap = none → drained s → Machine.exec ld s = .next (((s.takeWait s.cur ld).modRegion r (fun k =>
             { k with owner := some l.id, stage := 1, load := some ⟨(s.me.readS x).toNat, who ld, none, false⟩ })).retire s.cur s.me.pc)))
      ∧ (ready sw s = true → regionAt (s.takeWait s.cur sw) sw y false l r → g.swap = none →
         (g.stage = 0 ∨ g.stage = 3 → Machine.exec sw s = .next (trapped s [.s y] 0x0F (1 + 2 ^ 8 * n) 0))
         ∧ (g.stage = 2 → g.st = 3 → Machine.exec sw s = .next (trapped s [.s y] 0x0F (2 + 2 ^ 8 * n) 0))
         ∧ (g.stage = 2 → g.st = 0 →
             Machine.exec sw s = .next ((endRegionOp r 0 (committed sw) (who sw)).retire s.cur s.me.pc))
         ∧ (g.stage = 2 → g.st = 1 → Machine.exec sw s = .next (((s.takeWait s.cur sw).modRegion r (fun k =>
             { k with st := 2, swap := some ⟨false, [who sw], false⟩ })).retire s.cur s.me.pc)))
      ∧ (ready sf s = true → regionAt (s.takeWait s.cur sf) sf y false l r → g.swap = none → g.stage = 2 → g.st ≠ 2 →
         Machine.exec sf s = .next ((endRegionOp r 0 (committed sf) (who sf)).retire s.cur s.me.pc)))) ∧
  (∀ (h : Hdr) (d y : Fin 32) (f : BitVec 20) (cl : Clauses) (s : State) (t : Fin 256) (c : Fin 4) (l : Launch) (r : Fin 128)
     (i : Instr), s.cur = .tile t c → ready i s = true →
     (let u := s.takeWait s.cur i
      let g := s.region r
      let put := fun (k : Region → Region) => (u.modRegion r k).retire s.cur s.me.pc
      (i = .rgsave h y cl → regionAt u i y false l r → g.st = 3 → Machine.exec i s = .next (completed i s
         (u.modRegion r (fun k => { k with image := k.active.map (fun c => ⟨c.idhash, k.op, k.taint⟩), saved := true }))))
      ∧ (∀ im cf, i = .rgrest h y cl → regionAt u i y false l r → g.st = 3 → g.image = some im → g.active = some cf →
         im.idhash = cf.idhash → Machine.exec i s = .next (completed i s (u.modRegion r (fun k => { k with op := im.op, taint := im.taint }))))
      ∧ (∀ cf, i = .rgclk h y f → regionAt u i y false l r → g.active = some cf → g.st ≠ 0 →
         (cf.fmin ≤ f.toNat ∧ f.toNat ≤ cf.fmax → Machine.exec i s = .next (put (fun k =>
            { k with req := f.toNat, relock := k.relock || f.toNat != k.reqFreq })))
         ∧ (f.toNat < cf.fmin ∨ cf.fmax < f.toNat → Machine.exec i s
             = .next (trapped s [.s y] 0x0F (8 + 2 ^ 8 * (s.me.readS y).toNat) 0)))
      ∧ (i = .rgfrz h y ∨ i = .rgfrzDrain h y → regionAt u i y false l r →
         (g.st = 0 ∨ g.st = 3 → Machine.exec i s = .next (u.retire s.cur s.me.pc))
         ∧ (g.st = 1 → g.swap = none →
             (i = .rgfrz h y → Machine.exec i s = .next (put (fun k => { k with st := 3, quiescent := false })))
             ∧ (i = .rgfrzDrain h y → Machine.exec i s = .next (s.modRegion r (fun k => { k with st := 2 })))))
      ∧ (i = .rgthaw h y → regionAt u i y false l r →
         (g.st = 3 → Machine.exec i s = .next (put (fun k => { k with st := 1, quiescent := false, saved := false })))
         ∧ (g.st = 1 ∨ g.st = 2 → Machine.exec i s = .next (u.retire s.cur s.me.pc))
         ∧ (g.st = 0 → Machine.exec i s = .next (trapped s [.s y] 0x0F (2 + 2 ^ 8 * (s.me.readS y).toNat) 0)))
      ∧ (i = .rgstat h d y → regionAt u i y true l r → Machine.exec i s = .next (wroteS s d (BitVec.ofNat 64
           (g.st + 2 ^ 2 * g.stage + 2 ^ 4 * b2n g.saved + 2 ^ 5 * b2n g.quiescent + 2 ^ 6 * b2n g.taint + 2 ^ 7 * b2n g.owner.isSome
             + 2 ^ 8 * (g.lasterr % 256) + 2 ^ 16 * (if g.clocked then 3600 / g.step else 0) + 2 ^ 26 * (g.req % 1024)
             + 2 ^ 36 * b2n (decide (g.reqStep < g.step)))) false))))

/-! ### Traps (spec/14_traps.md) -/

/-- R382, R384 to R386: a trap saves the trapped pc, the cause, its detail and the pc of its issuer, writes
the 128-byte record at the trap area and nothing else of the tile's scratchpad, leaves every register,
and what follows is the handler's firing where the cause is delegated, and the end of the launch where
it is not. -/
def Obligations.TrapEntry : Prop :=
  ∀ (s : State) (t : Fin 256) (c : Fin 4) (chk : List RegId) (cause detail addr : Nat) (dfr : Option Issued),
    (s.tile t).scratch.wf = true →
    (let g := AgentId.tile t c
     let u := takeTrap s g chk cause detail addr dfr
     let x := s.ctx g
     let y := u.ctx g
     let rec_ := trapRecord s g chk cause detail addr dfr
     (y.phase = if s.delegated g cause then .handlerPending else .stopped)
     ∧ y.dpc = x.pc ∧ y.tcause = cause ∧ y.tdetail = detail
     ∧ y.tpc = (match dfr with | some b => b.pc | none => x.pc)
     ∧ y.s = x.s ∧ y.sp = x.sp ∧ y.p = x.p ∧ y.k = x.k ∧ y.v = x.v ∧ y.h = x.h ∧ y.pc = x.pc ∧ y.firing = x.firing
     ∧ y.owed = x.owed ∧ y.trapbase = x.trapbase
     ∧ u.agenda = (if s.delegated g cause then .handlerFiring g else .nonDelegatedTrap g) :: s.agenda
     ∧ rec_.length = 128
     ∧ (∀ a, (u.tile t).scratch.get a
          = if x.trapbase.toNat ≤ a ∧ a < x.trapbase.toNat + 128 then rec_.getD (a - x.trapbase.toNat) 0 else (s.tile t).scratch.get a)
     ∧ u.mem = s.mem ∧ u.hostMem = s.hostMem ∧ u.launches = s.launches ∧ u.cur = s.cur
     ∧ (∀ g', g' ≠ g → u.ctx g' = s.ctx g') ∧ (∀ t', t' ≠ t → u.tile t' = s.tile t'))

/-- R52, R402: the words reserved to firmware take cause 0x03 with their OP in tenant code, whatever their
predicate, and before an owed fault. -/
def Obligations.PrivilegeTrap : Prop :=
  ∀ (h : Hdr) (d a : Fin 32) (n : BitVec 12) (k : TlbScope) (ctx : Fin 4) (s : State),
    s.cur ≠ .mgmt → (s.me.phase = .running ∨ s.me.phase = .inHandler) →
    (Machine.exec (.tlbinv h k) s = .next (trapped s [] 0x03 0xE3 0))
    ∧ Machine.exec (.ctxsv h d a ctx) s = .next (trapped s [] 0x03 0xE4 0)
    ∧ Machine.exec (.ctxld h d a ctx) s = .next (trapped s [] 0x03 0xE4 0)
    ∧ (((0x400 ≤ n.toNat ∧ n.toNat < 0x4A0) ∨ (0x780 ≤ n.toNat ∧ n.toNat < 0x800) ∨ 0xA00 ≤ n.toNat) →
        Machine.exec (.mfs h d n) s = .next (trapped s [] 0x03 0xE0 0)
        ∧ Machine.exec (.mts h a n) s = .next (trapped s [] 0x03 0xE0 0))
    ∧ ((n = 1 ∨ n = 2 ∨ n = 3 ∨ n = 6) → Machine.exec (.mts h a n) s = .next (trapped s [] 0x03 0xE0 0))

/-- R404, R405: trap and brk take causes 0x15 and 0x14 with their code. In a handler firing resume returns
to the trapped instruction and resume.next to the one after it, abort ends the trapped firing; S[28] to
S[31] take what the save block holds, in the tile's scratchpad or, of the management core, at its physical address, and the
other registers stay. Outside a handler firing the three
take cause 0x03. -/
def Obligations.TrapWordsAndReturns : Prop :=
  ∀ (h : Hdr) (code : BitVec 20) (s : State) (i : Instr), ready i s = true →
    (let c := s.me
     let a := c.trapbase.toNat + 128
     let bs := match s.cur with | .tile t _ => (s.tile t).scratch.read a 33 | .mgmt => (s.readPa none a 33).1
     let restored := fun (t : State) => ∀ r : Fin 32,
       ((t.ctx s.cur).readS r = if 28 ≤ r.val then BitVec.ofNat 64 (leNat ((bs.drop (8 * (r.val - 28))).take 8)) else c.readS r)
       ∧ ((t.ctx s.cur).poisS r = if 28 ≤ r.val then bitOf (bs.getD 32 0).toNat (r.val - 28) else c.poisS r)
     (i = .trap h code → Machine.exec i s = .next (trapped s [] 0x15 code.toNat 0))
     ∧ (i = .brk h code → Machine.exec i s = .next (trapped s [] 0x14 code.toNat 0))
     ∧ (s.me.phase = .inHandler →
        (i = .resume h → ∃ t, Machine.exec i s = .next t ∧ restored t ∧ (t.ctx s.cur).phase = .running
            ∧ (t.ctx s.cur).pc = c.dpc ∧ (t.ctx s.cur).firing = c.firing ∧ t.mem = s.mem)
        ∧ (i = .resumeNext h → ∃ t, Machine.exec i s = .next t ∧ restored t ∧ (t.ctx s.cur).phase = .running
            ∧ (t.ctx s.cur).pc = c.dpc + 8 ∧ (t.ctx s.cur).firing = c.firing ∧ t.mem = s.mem)
        ∧ (i = .abort h → ∃ t, Machine.exec i s = .next t ∧ restored t ∧ (t.ctx s.cur).phase = .idle
            ∧ (t.ctx s.cur).firing = none ∧ t.mem = s.mem
            ∧ (∀ f, c.firing = some f → (t.ctx s.cur).aborted = c.aborted ++ [f.serial])))
     ∧ (s.me.phase = .running → (i = .resume h ∨ i = .resumeNext h ∨ i = .abort h) →
        Machine.exec i s = .next (trapped s [] 0x03 0xE2 0)))

/-! ### System words (spec/14_traps.md) -/

/-- R403, R438, R453: mfs writes the value of a system register to S[D], clean; a read of MC_ELOGW3 frees the
oldest log entry. The values of some registers, as the register tables give them.

R6, R7, R240, R403, R453: mts writes a system register: the counters and their thresholds, the trap base
within the scratchpad, and on the management core the table roots, the windows, the event registers
(EVSTAT clears the bits that are written 1) and its own registers. A write of SEQ_CTXPRI or SEQ_FLOOR travels: each tile
that MC_TSEL selects gets one arriving entry with the register, the bits that may change and the value, the other tiles get
none, and the core holds the word until every selected tile has taken its entries. That the word holds and is tried again
until then is the model's choice (log 22). -/
def Obligations.SystemRegisters : Prop :=
  (∀ (h : Hdr) (d : Fin 32) (n : BitVec 12) (s : State), ready (.mfs h d n) s = true →
     (s.cur = .mgmt ∨ firmwareOnly (.mfs h d n) = false) →
     (let u := s.modCtx s.cur (fun c => c.writeS d (sysRead s n.toNat) false)
      let e := fun (v : Word) => Machine.exec (.mfs h d n) s = .next (wroteS s d v false)
      Machine.exec (.mfs h d n) s = .next ((if n = 0xA15 then
          u.modDie (Fin.ofNat 2 s.mgmt.elogctl.toNat) (fun x => { x with log := x.log.drop 1 }) else u).retire s.cur s.me.pc)
      ∧ (n = 4 → e s.me.trapbase)
      ∧ (n = 5 → e (BitVec.ofNat 64 ((s.dies.get (agentDie s.cur)).cycle.toNat + 2 ^ 63 * (agentDie s.cur).val)))
      ∧ (∀ t c, s.cur = .tile t c →
         (n = 1 → e (s.tile t).ctxpri) ∧ (n = 2 → e (s.tile t).floor)
         ∧ (n = 3 → e (BitVec.ofNat 64 ((s.tile t).thrN.val + 2 ^ 8 * s.lim.val + 2 ^ 16 * (s.tile t).thrEff.val)))
         ∧ (∀ k : Fin 3, n.toNat = 0x100 + k.val → e (((s.tile t).cnt.get k).zeroExtend 64))
         ∧ (n = 0x103 → e (s.tile t).cntthr)
         ∧ (∀ k : Fin 16, n.toNat = 0x500 + k.val →
             (let w := s.me.wm.get k
              e (BitVec.ofNat 64 (w.base % 2 ^ 21 + 2 ^ 21 * w.len + 2 ^ 42 * w.fill + 2 ^ 63 * b2n w.active))))
         ∧ (∀ k : Fin 4, n.toNat = 0x700 + k.val →
             e ((s.region ⟨4 * (t.val / 8) + k.val, by omega⟩).cap.zeroExtend 64)))
      ∧ (s.cur = .mgmt →
         (∀ k : Fin 128, n.toNat = 0x400 + k.val → e (s.xltRoot.get k))
         ∧ (∀ k : Fin 32, n.toNat = 0x480 + k.val → e (s.xltWin.get k))
         ∧ (n = 0xA00 → e s.mgmt.evmask) ∧ (n = 0xA01 → e s.mgmt.evstat) ∧ (n = 0xA20 → e s.mgmt.tsel)
         ∧ (∀ k : Fin 16, n.toNat = 0xA30 + k.val → e (s.mgmt.fwreg.get k))))) ∧
  (∀ (h : Hdr) (a : Fin 32) (n : BitVec 12) (s : State), ready (.mts h a n) s = true → s.me.poisS a = false →
     (s.cur = .mgmt ∨ firmwareOnly (.mts h a n) = false) →
     (let v := s.me.readS a
      let e := fun (t : State) => Machine.exec (.mts h a n) s = .next (t.retire s.cur s.me.pc)
      let low := fun (k : Nat) => BitVec.ofNat 64 (v.toNat % 2 ^ k)
      (n ≠ 1 → n ≠ 2 → e (sysWrite s n.toNat v))
      ∧ (∀ t c, s.cur = .tile t c →
         (∀ k : Fin 3, n.toNat = 0x100 + k.val → e (s.modTile t (fun y => { y with cnt := vset y.cnt k (v.truncate 32) })))
         ∧ (n = 0x103 → e (s.modTile t (fun y => { y with cntthr := low 35 })))
         ∧ (n = 4 →
             (v.toNat / 2 ^ 8 % 2 ^ 13 < 0x1800 → e (s.modCtx s.cur (fun c => { c with
               trapbase := BitVec.ofNat 64 (v.toNat / 2 ^ 8 % 2 ^ 13 * 256) })))
             ∧ (0x1800 ≤ v.toNat / 2 ^ 8 % 2 ^ 13 → e s)))
      ∧ (s.cur = .mgmt →
         (∀ k : Fin 128, n.toNat = 0x400 + k.val →
             e { s with xltRoot := vset s.xltRoot k (BitVec.ofNat 64 (v.toNat % 2 + 2 ^ 20 * (v.toNat / 2 ^ 20 % 2 ^ 30))) })
         ∧ (∀ k : Fin 32, n.toNat = 0x480 + k.val → e { s with xltWin := vset s.xltWin k (low 34) })
         ∧ (n = 0xA00 → e { s with mgmt := { s.mgmt with evmask := low 8 } })
         ∧ (n = 0xA01 → e { s with mgmt := { s.mgmt with evstat := s.mgmt.evstat &&& ~~~v } })
         ∧ (n = 0xA20 → e { s with mgmt := { s.mgmt with tsel := low 9 } })
         ∧ (∀ k : Fin 16, n.toNat = 0xA30 + k.val → e { s with mgmt := { s.mgmt with fwreg := vset s.mgmt.fwreg k v } })
         ∧ (n = 1 ∨ n = 2 →
             (let entry : Bool × Word × Word := (decide (n = 1), if n = 1 then 0x7777 else 0xFFFF, v)
              s.mgmt.writing = false → ∃ t, Machine.exec (.mts h a n) s = .next t ∧ t.mgmt = { s.mgmt with writing := true }
               ∧ (∀ x : Fin 256, t.tile x = if x ∈ s.selTiles then { s.tile x with arriving := (s.tile x).arriving ++ [entry] }
                   else s.tile x)
               ∧ t.mem = s.mem ∧ t.launches = s.launches ∧ t.hbm = s.hbm)
             ∧ (s.mgmt.writing = true → s.selTiles.any (fun t => !(s.tile t).arriving.isEmpty) = true →
                 Machine.exec (.mts h a n) s = .next s)
             ∧ (s.mgmt.writing = true → s.selTiles.any (fun t => !(s.tile t).arriving.isEmpty) = false →
                 e { s with mgmt := { s.mgmt with writing := false } })))))

/-- R395, R401, R406, R407: on the management core tlbinv discards the entries of its scope, and issues once no
translated access of the scope is open; ctxsv and ctxld answer 0 with the context saved or loaded, or
the status of what prevents it, and trap where their address, or a page of the image, is none that they reach (R21). Choices
of the model: tlbinv discards again while it holds (log 23); a save first stops the context and holds the word until
nothing of it is in progress, a load knows an image by the bytes that a save wrote there and answers 4 where none matches,
and waits for the array whose shape it sets (logs 5, 24).

R173, R400, R409: pclr clears the poison of a scalar register or of the lanes a mask selects; smap
captures the stall map of the launch, stores it by plain stores, and answers its number of
entries when every store has been performed; launch, a release, submits the record at
S[Y] and answers the status; a launch without DEVL takes cause 0x03. That smap stores sixteen lines at a time and that
launch reads its record before it issues are the model's choices (log 17). -/
def Obligations.FirmwareMapAndLaunchWords : Prop :=
  (∀ (h : Hdr) (d a : Fin 32) (k : TlbScope) (ctx : Fin 4) (s : State), s.cur = .mgmt →
     (let tb := Instr.tlbinv h k
      let sv := Instr.ctxsv h d a ctx
      let ld := Instr.ctxld h d a ctx
      let t : Fin 256 := Fin.ofNat 256 (s.me.readS d).toNat
      let addr := (s.me.readS a).toNat
      let answer := fun (i : Instr) (u : State) (n : Nat) =>
        Machine.exec i s = .next ((u.modCtx s.cur (fun c => c.writeS d (BitVec.ofNat 64 n) false)).retire s.cur s.me.pc)
      let trap := fun (i : Instr) (q : Nat × Nat × Nat) => Machine.exec i s = .next (trapped s [.s d, .s a] q.1 q.2.1 q.2.2)
      (ready tb s = true → (∀ r ∈ tlbRegs k, s.me.poisS r = false) →
         (let inv := invalidate s k (match k with | .va r _ => (s.me.readS r).toNat | _ => 0)
          (scopeBusy s k = true → Machine.exec tb s = .next inv)
          ∧ (scopeBusy s k = false → Machine.exec tb s = .next (inv.retire s.cur s.me.pc))))
      ∧ (∀ q, (imageTraps s d a).findSome? id = some q → (ready sv s = true → trap sv q) ∧ (ready ld s = true → trap ld q))
      ∧ (passes (imageTraps s d a) = true →
         (ready sv s = true →
           (s.launchOf (.tile t ctx) = none → answer sv s 1)
           ∧ (∀ l, s.launchOf (.tile t ctx) = some l →
               (∀ p, s.badPage addr (saveOf s l t ctx addr).image.length = some p → trap sv (0x06, p, p))
               ∧ (s.badPage addr (saveOf s l t ctx addr).image.length = none →
                   (t ∉ l.saving → Machine.exec sv s = .next (s.modLaunchId l.id (fun l => { l with saving := l.saving ++ [t] })))
                   ∧ (t ∈ l.saving → ctxIdle s l t ctx = false → Machine.exec sv s = .next s)
                   ∧ (t ∈ l.saving → ctxIdle s l t ctx = true → answer sv (saveCtx s l t ctx addr) 0))))
         ∧ (ready ld s = true →
           ((s.launchOf (.tile t ctx)).isSome = true → answer ld s 2)
           ∧ (s.launchOf (.tile t ctx) = none →
               (∀ q, savedTrap s addr = some q → trap ld q)
               ∧ (savedTrap s addr = none → s.savedAt addr = none → answer ld s 4)
               ∧ (∀ v l, savedTrap s addr = none → s.savedAt addr = some v →
                   (s.launches ++ s.shelf).find? (fun l => l.id == v.launch) = some l →
                   (let n := loadStatus s l v t ctx
                    (n ≠ 0 → answer ld s n)
                    ∧ (n = 0 → (l.mqmask = 15 ∧ (s.tile t).arrayBusy = true) → Machine.exec ld s = .next s)
                    ∧ (n = 0 → ¬(l.mqmask = 15 ∧ (s.tile t).arrayBusy = true) → answer ld (loadCtx s l v t ctx) 0)))))))) ∧
  (∀ (h : Hdr) (d a : Fin 32) (kr : Fin 8) (cap : BitVec 20) (cl : Clauses) (s : State),
     (let x := (s.me.readS a).toNat
      let sm := Instr.smap h d a cap
      let la := Instr.launch h d a cl
      let map := ownMap s cap.toNat
      (ready (.pclr h (.scalar d)) s = true →
         Machine.exec (.pclr h (.scalar d)) s = .next (went s (fun c => { c with sp := setBit c.sp d.val false })))
      ∧ (ready (.pclr h (.vector d kr)) s = true → Machine.exec (.pclr h (.vector d kr)) s = .next (went s (fun c =>
           c.writeV d { c.readV d with poison := (c.readV d).poison &&& ~~~(c.readK kr) })))
      ∧ (ready sm s = true →
         (smapRest s.me = none →
           (s.me.poisS a = true → Machine.exec sm s = .next (trapped s [.s a] 0x07 a.val 0))
           ∧ (s.me.poisS a = false → x % 64 ≠ 0 → Machine.exec sm s = .next (trapped s [.s a] 0x04 x x))
           ∧ (s.me.poisS a = false → x % 64 = 0 → Machine.exec sm s = .next (smapKeep s x map.2 map.1)))
         ∧ (∀ r bs po, smapRest s.me = some r → r.stage = .done bs po →
           (bs ≠ [] →
             (let now := (cutLines r.ea bs).take 16
              let n := (now.map (fun x => x.2.length)).foldl (· + ·) 0
              passable s .write .any 1 (partAddrs (smapParts now)) (.plain 0) →
              Machine.exec sm s = .next (sendParts (smapKeep s (r.ea + n) r.va (bs.drop n)) .write (.plain 0) (smapParts now))))
           ∧ (bs = [] → s.me.wcb = [] → storesOpen s = false →
              Machine.exec sm s = .next (went s (fun c => c.dropSmap.writeS d (BitVec.ofNat 64 r.va) false)))
           ∧ (bs = [] → s.me.wcb = [] → storesOpen s = true → Machine.exec sm s = .next s)))
      ∧ (∀ t c, s.cur = .tile t c → ready la s = true →
         ((s.view s.cur).devl = false → Machine.exec la s = .next (trapped s [.s a] 0x03 0x3B 0))
         ∧ (∀ l p r bs po, (s.view s.cur).devl = true → s.me.poisS a = false → x % 64 = 0 → s.maskFault s.cur la = none →
             drained s → s.launchOf s.cur = some l → s.part l.q = some p →
             unreleased s = false →
             s.me.reqs.find? (fun r => r.op == .syncRead && r.ea == x && r.by_.pc == s.me.pc) = some r →
             r.stage = .done bs po → po.any id = false →
             (let u := (s.takeWait s.cur la).modCtx s.cur (fun c => { c with reqs := c.reqs.filter (fun x => x.op != .syncRead) })
              let q := u.submit p (mctxOf l.q l.c) (BitVec.ofNat 512 (leNat bs)) ((sqOf la).map (fun q => (t, c, q, l.id)))
              Machine.exec la s = .next ((q.2.modCtx s.cur (fun k => k.writeS d (BitVec.ofNat 64 q.1) false)).retire s.cur s.me.pc))))))

/-! ### The machine's own steps: scheduling, tokens and groups (spec/05_actors.md, spec/14_traps.md) -/

/-- R130, R131, R136, R387 to R389: a firing starts at its instance's entry with S[1] to S[3] holding the
firing number, the instance and its state area and every other scalar, predicate and mask register 0, once no earlier
instruction has a scalar register to write; on each input slot it reserves the oldest c tokens, or the short window of all
that are queued, and on each output slot, where at least p slots are free, it has pushed nothing; a
spent budget takes cause 0x10; the handler fires with the save block written and S[28] to S[31] holding
the trap area, the cause, the detail and the pc; a trap that is not delegated ends the launch with
status 7, and on the management core restarts it and is reported through every virtual function. -/
def Obligations.FiringSteps : Prop :=
  ∀ (g : AgentId) (i : Inst) (l : Launch) (s : State), s.launchOf g = some l →
    ((s.ctx g).phase = .idle → s.settled g = true → s.pickInst g = some i →
       ∃ t, Machine.exec (.firingStart g) s = .next t ∧ (t.ctx g).phase = .running ∧ (t.ctx g).pc = i.entry
         ∧ (∀ r : Fin 32, (t.ctx g).readS r = if r = 1 then BitVec.ofNat 64 i.started else if r = 2 then BitVec.ofNat 64 i.num
             else if r = 3 then BitVec.ofNat 64 i.state else 0)
         ∧ (t.ctx g).sp = 0 ∧ (∀ r : Fin 16, (t.ctx g).readP r = (r == 0))
         ∧ (∀ r : Fin 8, r ≠ 0 → (t.ctx g).readK r = 0)
         ∧ (t.ctx g).v = (s.ctx g).v ∧ (t.ctx g).h = (s.ctx g).h
         ∧ t.launchOf g = some (l.modInst i.num (fun x =>
             { x with started := x.started + 1, lastFired := some ((s.ctx g).serials + 1) }))
         ∧ (∃ f, (t.ctx g).firing = some f ∧ f.inst = i.num ∧ f.issued = 0 ∧ f.serial = (s.ctx g).serials + 1
              ∧ (∀ n : Fin 16, bindEdge l (i.slots.get n) = none → f.slots.get n = ⟨0, 0, [], false⟩)
              ∧ (∀ (n : Fin 16) b e, bindEdge l (i.slots.get n) = some (b, e) → b.out = false →
                  f.slots.get n = ⟨if b.rate ≤ e.queue.length then b.rate else e.queue.length, 0, [], false⟩
                  ∧ (e.queue.length < b.rate → ∃ k, e.queue.getLast? = some k ∧ k.eos = true))
              ∧ (∀ (n : Fin 16) b e, bindEdge l (i.slots.get n) = some (b, e) → b.out = true →
                  f.slots.get n = ⟨0, 0, [], false⟩ ∧ b.rate ≤ e.credits))
         ∧ t.mem = s.mem)
    ∧ (budgetSpent s g = true → Machine.exec (.firingBudgetExpiry g) s = .next (takeTrap s g [] 0x10 1 0 none))
    ∧ ((s.ctx g).phase = .handlerPending → savePending s g = false → s.handlerInst g = some i →
       (let c := s.ctx g
        let block := [28, 29, 30, 31].flatMap (fun (n : Fin 32) => leBytes 8 (c.readS n).toNat)
          ++ leBytes 1 (b2n (c.poisS 28) + 2 * b2n (c.poisS 29) + 4 * b2n (c.poisS 30) + 8 * b2n (c.poisS 31))
        ∃ t, Machine.exec (.handlerFiring g) s = .next t ∧ (t.ctx g).phase = .inHandler ∧ (t.ctx g).pc = i.entry
          ∧ (t.ctx g).readS 28 = c.trapbase ∧ (t.ctx g).readS 29 = BitVec.ofNat 64 c.tcause
          ∧ (t.ctx g).readS 30 = BitVec.ofNat 64 c.tdetail ∧ (t.ctx g).readS 31 = c.tpc.zeroExtend 64
          ∧ (∀ r : Fin 32, r.val < 28 → (t.ctx g).readS r = c.readS r)
          ∧ (t.ctx g).p = c.p ∧ (t.ctx g).k = c.k ∧ (t.ctx g).v = c.v ∧ (t.ctx g).h = c.h ∧ (t.ctx g).firing = c.firing
          ∧ (∀ x k, g = .tile x k → (t.tile x).scratch = (s.tile x).scratch.write (c.trapbase.toNat + 128) block ∧ t.mem = s.mem)
          ∧ (g = .mgmt → t.mem = (s.writePa none (c.trapbase.toNat + 128) block (List.replicate 33 true)).mem)))
    ∧ ((s.ctx g).phase = .handlerPending → savePending s g = true → Machine.exec (.handlerFiring g) s = .next s)
    ∧ (∀ x c, g = .tile x c → (s.ctx g).phase = .stopped → Machine.exec (.nonDelegatedTrap g) s
        = .next ((endLaunch s l.q l.c 7 (s.ctx g).tcause (s.ctx g).tdetail).event 7 l.q.val (s.ctx g).tcause))
    ∧ (g = .mgmt → (s.ctx g).phase = .stopped → ∃ t, Machine.exec (.nonDelegatedTrap g) s = .next t
        ∧ t.mgmt.imem = s.mgmt.imem ∧ t.mgmt.resets = s.mgmt.resets + 1 ∧ t.mgmt.ctx = Mgmt.reset.ctx
        ∧ (∀ q : Fin 32, (t.vfs.get q).resets = (s.vfs.get q).resets + 1) ∧ t.tiles = s.tiles ∧ t.mem = s.mem)

/-- R126, R127, R140, R164, R166, R286, R318, R369, R425: where the boxes carry the edge and no watermark holds its port, the
oldest token on it becomes countable if its tag is the launch's context, with its bytes in its firkin's slot of the consumer's
scratchpad, and is discarded and logged if it is not; otherwise nothing moves. A token of a cut edge comes over its link, or
leaves over it, while the port carries traffic; the slots that a consumer in this package freed return as
credits; the oldest enable request of the first instance that has one takes effect; a pending signal enters a
token queue of the tile that has room. Choices of the model: the credit of a discarded token never returns (log 60); what
the far package of a cut edge sends and when it frees a slot are free values (log 51); where in its firkin a token stands, and
that slice rings hold no bytes (log 59).

R167 to R172: the home of a group applies the oldest request of a context, arrivals once the
context's earlier accesses are performed; an unbound identifier has error 1; the response writes the
destination and signals, or owes cause 0x11 with the error; that of a gbar writes its phase at once and signals
when the phase has ended. -/
def Obligations.EdgeQueueAndGroupSteps : Prop :=
  (∀ (q : Fin 32) (c : Fin 4) (n : Nat) (t : Fin 256) (tq : Fin 16) (l : Launch) (e : Edge) (s : State),
     s.launches.find? (fun l => l.q == q && l.c == c) = some l → l.edge n = some e →
     (let put := fun (f : Edge → Edge) => s.modLaunch q c (fun l => l.modEdge n f)
      let moves := s.carries l e = true ∧ edgeStalls s l e = false
      let taken := (put comeOff).modLaunch q c (fun l => l.modEdge n (arriveToken c))
      (¬moves → Machine.exec (.tokenArrival q c n) s = .next s)
      ∧ (∀ k ks, moves → e.src.port? = none → e.dst.port? = none → e.inflight = k :: ks →
         (let k' := offNet (e.way.map (fun w => w.1)) e.tokSize k
          arriveToken c (comeOff e) = { e with inflight := ks, queue := if k.tag = c then e.queue ++ [k'] else e.queue }
          ∧ (k.tag = c → l.firkinSlot e = none → Machine.exec (.tokenArrival q c n) s = .next taken)
          ∧ (k.tag = c → ∀ x a, l.firkinSlot e = some (x, a) → ∃ u, Machine.exec (.tokenArrival q c n) s = .next u
              ∧ (u.tile x).scratch
                 = (s.tile x).scratch.writeMasked a (leBytes e.tokSize k'.bits.toNat) (List.replicate e.tokSize true)
              ∧ u.launches = (taken.modLaunch l.q l.c (fun x => x.modEdge e.num (fun e => { e with arrived := e.arrived + 1 }))).launches
              ∧ u.mem = s.mem)
          ∧ (k.tag ≠ c → ∀ src unit d, endpointUnit s l e.dst = some (src, unit, d) →
             Machine.exec (.tokenArrival q c n) s = .next (taken.logError d src 2 unit 0 (k.tag.val + 4 * c.val)))))
      ∧ (∀ k v, moves → e.src.port? = some (k, v) → e.dst.port? = none →
         Machine.exec (.tokenArrival q c n) s = .next (deliverToken (match s.linkNext l e with
             | some tok => put (fun e => e.comeOver tok)
             | none => s) q c n)
           ∧ (∀ tok, e.comeOver tok = { e with inflight := e.inflight ++ [tok], credits := e.credits - 1, crossed := e.crossed + 1 })
           ∧ (s.linkCarries k = false ∨ e.credits = 0 → s.linkNext l e = none))
      ∧ (∀ k v, moves → e.src.port? = none → e.dst.port? = some (k, v) →
         (s.linkCarries k = false → Machine.exec (.tokenArrival q c n) s = .next s)
         ∧ (s.linkCarries k = true → Machine.exec (.tokenArrival q c n) s = .next (put Edge.leaveOver)
             ∧ (∀ x xs, e.inflight = x :: xs → e.leaveOver = { e with inflight := xs, returning := e.returning + 1 })))
      ∧ (e.dst.port? = none →
         (let back := s.modLaunch q c (fun l => l.modEdge n s.creditBack)
          s.creditBack e = { e with credits := e.credits + e.returning, returning := 0 }
          ∧ Machine.exec (.creditReturn q c n) s = .next (match e.src with
              | .region r _ => flushPorts back r
              | .stream _ _ _ => pushConvTokens back
              | _ => back)))
      ∧ Machine.exec (.actorEnableArrival q c) s = .next (s.modLaunch q c (fun l =>
          match l.insts.find? (fun i => !i.wanted.isEmpty) with
          | some i => l.modInst i.num (fun x => match x.wanted with
              | w :: ws => { x with enabled := w, wanted := ws }
              | [] => x)
          | none => l))
      ∧ (0 < s.pend (.tile t 0) tq → s.tq (.tile t 0) tq < 63 → Machine.exec (.tqPendingSignal t tq) s
          = .next ((s.setTq (.tile t 0) tq (s.tq (.tile t 0) tq + 1)).setPend (.tile t 0) tq (s.pend (.tile t 0) tq - 1))))) ∧
  (∀ (g : AgentId) (n : Nat) (r : GroupReq) (s : State),
     (nextGroupReq (s.ctx g) = some (n, r) → (r.op.arrival = true → olderStore (s.ctx g) r.by_.order = false ∧ olderAccess (s.ctx g) r.by_.order = false) →
        (s.groupOf g r.gid = none → Machine.exec (.groupOperation g) s = .next (s.modCtx g (fun c =>
           { c with groups := c.groups.set n { r with stage := 1, err := 1 } })))
        ∧ (∀ o, s.groupOf g r.gid = some o → (let a := o.apply r.op
           Machine.exec (.groupOperation g) s = .next ((s.setGroup a.1).modCtx g (fun c => { c with
             groups := c.groups.set n { r with stage := 1, value := a.2.1, phase := a.2.2.1, err := a.2.2.2 } })))))
     ∧ ((s.ctx g).groups[n]? = some r → r.stage = 1 →
        (r.err ≠ 0 → Machine.exec (.groupResponse g n) s = .next ((s.modCtx g (fun c => { c with groups := c.groups.eraseIdx n })).modCtx g
           (fun c => c.recordOwed ⟨0x11, r.gid % 2 ^ 16 + r.err * 2 ^ 16, 0, r.by_, .next r.sq⟩)))
        ∧ (r.err = 0 → groupDone s g r = true → Machine.exec (.groupResponse g n) s
           = .next ((((s.modCtx g (fun c => { c with groups := c.groups.eraseIdx n })).modCtx g
               (fun c => match r.dst with | some d => c.writeS d (groupValue s g r) false | none => c))).signalOpt g r.sq))
        ∧ (r.err = 0 → groupDone s g r = false → r.op ≠ .bar → Machine.exec (.groupResponse g n) s = .next s)
        ∧ (r.err = 0 → groupDone s g r = false → r.op = .bar → Machine.exec (.groupResponse g n) s = .next (s.modCtx g (fun c =>
             { (match r.dst with | some d => c.writeS d r.value false | none => c) with groups := c.groups.set n { r with stage := 2 } }))))
     ∧ ((s.ctx g).groups[n]? = some r → r.stage = 2 → r.err = 0 → r.op = .bar →
        Machine.exec (.groupResponse g n) s = .next (if groupDone s g r
          then (s.modCtx g (fun c => { c with groups := c.groups.eraseIdx n })).signalOpt g r.sq else s)))

/-! ### Launches and time slices (spec/05_actors.md) -/

/-- R138, R150 to R153, R219, R271, R390, R412, R425: a submission, one write of 64 bytes at the start of SUBWIN, answers its
status and counts; each die's Launch Unit checks the signatures of its own entries first, then what the image says and its
claims, and performs the other steps of R151 or fails the launch with their status; with every acknowledgement the
instances are enabled and the constant caches emptied, the sources last; a launch with nothing left, or ended,
ends its conversions, performs its accesses and then completes; an abort ends it with status 8. Choices of the model: which
status of several applies (log 19), when ARGS, GDATA and CDATA are read and written (log 55), and that a firing in progress
holds completion back (log 69).

R151, R245, R300, R323, R343, R352: what a die's Launch Unit has done when no step failed. The tiles of
the partition on the die hold the code, their token queues of TQMASK are empty, the context's vector registers are 0, its
handles invalid and its stream slots empty, and the context's fields of SEQ_CTXPRI and SEQ_FLOOR are on their way; the
regions and transform array slots of the image are the launch's, its groups are bound and its push programs placed; and the
die has acknowledged. Tiles of the other die, other regions and memory stay.

R138, R153, R173, R242, R301, R343, R352, R370, R413: what the completion of a launch leaves. The record of Table 5.7 is
written at COMPL, goes to the tail of the partition's completion queue when that has room, with its vector raised or
pending, and everything the launch held is given back: its regions, slots, boxes, push programs and its contexts. A record that no page takes is dropped (log 26, the model's choice).

R140, R143, R147, R148: a time-slice command is refused with the REFUSED bit or held; a tile takes a
forwarded command once its die's cycle count has reached the command's; a write of SEQ_CTXPRI or
SEQ_FLOOR on its way takes effect at the tile, under its mask. -/
def Obligations.LaunchAndTimeSliceSteps : Prop :=
  (∀ (q : Fin 32) (c : Fin 4) (d : Fin 2) (p : Partition) (s : State), s.part q = some p →
     (∀ rcd (w : SubWrite), ∃ t, Machine.exec (.submission q w rcd) s = .next t
        ∧ (t.vfs.get q).seq = (s.vfs.get q).seq + 1
        ∧ (¬(w.off = 0 ∧ w.bytes = 64) → (t.vfs.get q).status = 2 ∧ t.launches = s.launches)
        ∧ (w.off = 0 ∧ w.bytes = 64 →
            (let st := s.acceptStatus p (mctxOf q (Fin.ofNat 4 (rcd.toNat / 2 ^ 96 % 4))) rcd
             (t.vfs.get q).status = BitVec.ofNat 8 st ∧ (st ≠ 0 → t.launches = s.launches)
             ∧ (st = 0 → ∃ l, t.launches = s.launches ++ [l] ∧ l.q = p.q ∧ l.c = Fin.ofNat 4 (rcd.toNat / 2 ^ 96 % 4)
                 ∧ l.rcd = rcd ∧ l.phase = .setup ∧ l.id = s.nextLaunch ∧ l.ending = none ∧ l.doneDies = []
                 ∧ l.awaiting = p.dies.map .die))))
     ∧ (∀ l, s.launch q c = some l →
        (l.phase = .setup → l.ending = none → l.parked = none → l.doneDies.contains d = false → p.dies.contains d = true →
           (∀ bs s1, fetchVa s (s.firstCluster q) l.mctx l.image l.length = .bytes bs true s1 →
             Machine.exec (.launchSetup q c d) s = .next (failLaunch s1 l 5))
           ∧ (∀ bs s1, fetchVa s (s.firstCluster q) l.mctx l.image l.length = .bytes bs false s1 →
               imgHead bs = none ∨ sealedEntries p bs = none → Machine.exec (.launchSetup q c d) s = .next (failLaunch s1 l 5))
           ∧ (∀ bs s1 hd bits stas, fetchVa s (s.firstCluster q) l.mctx l.image l.length = .bytes bs false s1 →
               imgHead bs = some hd → sealedEntries p bs = some (bits, stas) →
               (let st := signStatus p.owner (bits.filter (fun x => dieOfRegion x.1 == d))
                  (stas.filter (fun x => dieOfCluster x.1 == d))
                let img := parseImage p l.id l.c l.ibase (l.ilimit - l.ibase) bs
                (st ≠ 0 → Machine.exec (.launchSetup q c d) s = .next (failLaunch s1 l st))
                ∧ (st = 0 → img = none → Machine.exec (.launchSetup q c d) s = .next (failLaunch s1 l 5))
                ∧ (∀ g, st = 0 → img = some g →
                    (s1.claimsFail p l.id (g.claims hd) = true → Machine.exec (.launchSetup q c d) s = .next (failLaunch s1 l 3))
                    ∧ (∀ args po s2 s3, s1.claimsFail p l.id (g.claims hd) = false → panelsBusy s1 d g = false →
                        (if l.args = 0 then Fetch.bytes [] false s1 else fetchVa s1 (s1.firstCluster p.q) l.mctx l.args g.args)
                          = .bytes args po s2 →
                        (if d = p.lead then storeAll s2 (s1.firstCluster p.q) (mctxOf l.q l.c) g.gdata else .ok s2) = .ok s3 →
                        Machine.exec (.launchSetup q c d) s = .next (match runSetup s3 p l d g args with
                          | .inl st => failLaunch s1 l st
                          | .inr u => u))))))
        ∧ (∀ k, Machine.exec (.configurationAcknowledgement q c (.die k)) s = .next (s.modLaunch q c (fun l =>
             if l.doneDies.contains k then { l with awaiting := l.awaiting.filter (fun a => a != .die k) } else l)))
        ∧ (Machine.exec (.configurationAcknowledgement q c .far) s = .next (s.modLaunch q c (fun l =>
             if l.awaiting.contains .far then
               { l with awaiting := l.awaiting.filter (fun a => a != .far)
                        edges := l.edges.map (fun e => if e.dst.port?.isSome then { e with credits := e.depth } else e) }
             else l)))
        ∧ (l.phase = .setup → l.ending = none → l.awaiting = [] → l.doneDies ≠ [] →
             Machine.exec (.launchEnable q c) s = .next ((s.modLaunch q c (fun l =>
               { l with phase := .running, insts := l.insts.map (fun i => if i.isSource then i else { i with enabled := true }) })).emptyConst q))
        ∧ (l.phase = .running → l.ending = none → Machine.exec (.sourceEnable q c) s = .next (l.pushes.foldl
             (fun s x => match s.pushProg x.1 x.2 with | some p => s.setPush x.1 x.2 { p with enabled := true } | none => s)
             (s.modLaunch q c (fun l => { l with
               phase := .sourced, insts := l.insts.map (fun i => if i.isSource then { i with enabled := true } else i) }))))
        ∧ ((l.ending.isSome || l.quiet s p) = true → l.parked = none → s.convsOf q c = [] → (∀ g ∈ l.agents p, (s.ctx g).wcb = [] ∧ (s.ctx g).owes = false) →
             Machine.exec (.launchComplete q c) s = .next (completeLaunch s p l))
        ∧ ((l.ending.isSome || l.quiet s p) = true → l.parked = none → s.convsOf q c ≠ [] →
             Machine.exec (.launchComplete q c) s
               = .next ((s.convsOf q c).foldl (fun s v => if v.pushing then endConv s v else breakHandle s v) s))
        ∧ (∃ t, Machine.exec (.launchAbort q c) s = .next t ∧ (l.ending = none → ∃ m, t.launch q c = some m ∧ m.ending = some (8, 0, 0))))) ∧
  (∀ (s u : State) (p : Partition) (l : Launch) (d : Fin 2) (g : Img) (args : List Byte), runSetup s p l d g args = .inr u →
     (u.launches = s.launches.map (fun x => if x.q == l.q && x.c == l.c
        then { loadTables g l with doneDies := l.doneDies ++ [d] } else x))
     ∧ (l.doneDies = [] → (let m := loadTables g l
         m.insts = g.insts ∧ m.edges = g.edges ∧ m.handles = g.handles ∧ m.groups = g.groups.map (fun x => x.1)
         ∧ m.regions = g.bits.map (fun x => x.1) ∧ m.id = l.id ∧ m.rcd = l.rcd ∧ m.phase = l.phase))
     ∧ (∀ t : Fin 256, ¬(dieOfTile t = d ∧ p.clusters.getLsbD (t.val / 8) = true) → u.tile t = s.tile t)
     ∧ (∀ t : Fin 256, dieOfTile t = d → p.clusters.getLsbD (t.val / 8) = true →
         (let x := s.tile t
          let y := u.tile t
          let k := y.ctx.get l.c
          (∀ n : Fin 16, y.tq.get n = if bitOf l.tqmask n.val then 0 else x.tq.get n)
          ∧ (∀ n : Fin 16, y.pend.get n = if bitOf l.tqmask n.val then 0 else x.pend.get n)
          ∧ (∀ n : Fin 32, k.v.get n = ⟨0, 0⟩) ∧ (∀ n : Fin 16, k.h.get n = ⟨false, 0, 0⟩) ∧ (∀ n : Fin 16, k.ss.get n = emptySlot)
          ∧ k.phase = .idle ∧ k.firing = none ∧ k.owed = none ∧ (∀ j, j ≠ l.c → y.ctx.get j = x.ctx.get j)
          ∧ (∀ z ∈ g.tmpl.tmpls, z.1 = t → (k.tmpl.get z.2.1).isSome = true)
          ∧ (∀ bs, g.code.filter (fun z => z.1 == t) = [(t, bs)] → y.imem = cellsWrite x.imem l.ibase bs)
          ∧ ((∀ z ∈ g.sdata, z.1 ≠ t) → (∀ i ∈ g.insts, i.tile ≠ t) → y.scratch = x.scratch)
          ∧ y.arriving = x.arriving ++
              [(true, BitVec.ofNat 64 (7 * 2 ^ (4 * l.c.val)), BitVec.ofNat 64 (l.pri * 2 ^ (4 * l.c.val))),
               (false, BitVec.ofNat 64 (15 * 2 ^ (4 * l.c.val)), BitVec.ofNat 64 (l.floor * 2 ^ (4 * l.c.val)))]))
     ∧ (∀ r : Fin 128, (∀ x ∈ g.bits, x.1 = r → dieOfRegion r ≠ d) → u.region r = s.region r)
     ∧ (∀ x ∈ g.bits, dieOfRegion x.1 = d → (let r := u.region x.1
         r.owner = some l.id ∧ r.st = 1 ∧ r.active = (bitstreamHead (x.2.2.take 128)).map (fun c => c.1) ∧ r.staged = none
         ∧ r.lasterr = (s.region x.1).lasterr))
     ∧ (∀ x ∈ g.stas, dieOfCluster x.1 = d → (u.staSlot x.1 x.2.1).st = 2 ∧ (u.staSlot x.1 x.2.1).owner = some l.id)
     ∧ (∀ x ∈ g.groups, dieOfCluster (sliceNum x.2.2).1 = d → ∃ o, u.groupObj l.q x.1 = some o ∧ o.mInit = x.2.1)
     ∧ (∀ x ∈ g.tmpl.pushes, dieOfCluster (sliceNum x.1).1 = d → ∃ m, u.pushProg x.1 x.2.1 = some m ∧ m.owner = l.id ∧ m.enabled = false)
     ∧ u.mem = s.mem ∧ u.hostMem = s.hostMem) ∧
  (∀ (s : State) (p : Partition) (l : Launch), s.part l.q = some p → s.launch l.q l.c = some l →
     l.ending.isSome = true ∨ l.quiet s p = true → l.parked = none → s.convsOf l.q l.c = [] →
     (∀ g ∈ l.agents p, (s.ctx g).wcb = [] ∧ (s.ctx g).owes = false) →
     (let e := l.ending.getD (0, 0, 0)
      let rec_ := leBytes 1 e.1 ++ leBytes 1 e.2.1 ++ leBytes 6 0 ++ leBytes 8 e.2.2 ++ leBytes 8 l.tag
        ++ leBytes 8 ((s.dies.get p.lead).cycle.toNat + 2 ^ 63 * p.lead.val)
      let cl := s.firstCluster l.q
      (∀ s1 s2 x, l.compl % 32 = 0 → s.walkNow cl l.mctx l.compl = some s1 → s1.translate none cl l.mctx .write l.compl = .ok x →
         s1.reachable x.pa = true → s1.passNow x.pa 32 0 l.mctx .plain = some s2 →
         storeVa s cl l.mctx l.compl rec_ = .ok (s2.writePa x.key x.pa rec_ (List.replicate 32 true)))
      ∧ (∀ va lv, storeVa s cl l.mctx l.compl rec_ = .park va lv →
          Machine.exec (.launchComplete l.q l.c) s = .next (parkLaunch s l p.lead l.mctx .write va lv))
      ∧ (∀ s1, (storeVa s cl l.mctx l.compl rec_ = .ok s1
             ∨ (∃ n a, storeVa s cl l.mctx l.compl rec_ = .fail n a) ∧ s1 = s) →
          ∃ t, Machine.exec (.launchComplete l.q l.c) s = .next t
           ∧ t.launches = s1.launches.filter (fun x => x.id != l.id) ∧ t.mem = s1.mem
           ∧ (let v := s1.vfs.get l.q
              v.cq.full = false → v.cq.wait = [] →
                t.hostMem = s1.hostMem.write (v.cq.base.toNat + 32 * v.cq.tail) rec_
                ∧ (t.vfs.get l.q).cq.tail = (v.cq.tail + 1) % v.cq.size.toNat
                ∧ (v.masked 0 = false → (t.vfs.get l.q).msix = v.msix ++ [0])
                ∧ (v.masked 0 = true → (t.vfs.get l.q).pba = setBit v.pba 0 true))
           ∧ (∀ r : Fin 128, (s1.region r).owner = some l.id → (t.region r).owner = none ∧ (t.region r).st = 0)
           ∧ (∀ r : Fin 128, (s1.region r).owner ≠ some l.id → t.region r = s1.region r)
           ∧ (∀ (cg : Fin 32) (k : Fin 8), (s1.staSlot cg k).owner = some l.id → (t.staSlot cg k).owner = none ∧ (t.staSlot cg k).st = 0)
           ∧ t.boxes = s1.boxes.filter (fun b => b.owner != l.id)
           ∧ (∀ (n : Fin 320) (j : Fin 4) m, s1.pushProg n j = some m → m.owner = l.id → t.pushProg n j = none)
           ∧ (∀ x : Fin 256, p.clusters.getLsbD (x.val / 8) = true → l.saved.contains x = false →
               ((t.tile x).ctx.get l.c).firing = none ∧ ((t.tile x).ctx.get l.c).phase = .idle ∧ ((t.tile x).ctx.get l.c).reqs = []
               ∧ (∀ j, j ≠ l.c → (t.tile x).ctx.get j = (s1.tile x).ctx.get j))))) ∧
  (∀ (rcd : BitVec 512) (t : Fin 256) (s : State),
     (let x := rcd.toNat
      let q : Fin 32 := Fin.ofNat 32 (x / 2 ^ 128 % 2 ^ 5)
      let bad := (s.part q).isNone || tsReserved x || decide (60 < tsFloors x) || decide (16 ≤ s.held.length)
      (∀ n, n ≠ 64 → Machine.exec (.timeSliceCommand n rcd) s = .next s)
      ∧ (bad = true → Machine.exec (.timeSliceCommand 64 rcd) s = .next { s with pf := { s.pf with
           tsstat := BitVec.ofNat 64 (x / 2 ^ 192 % 2 ^ 32 + 2 ^ 33 + 2 ^ 40 * ((s.pf.tsstat.toNat / 2 ^ 40 % 2 ^ 24 + 1) % 2 ^ 24)) } })
      ∧ (bad = false → ∃ u, Machine.exec (.timeSliceCommand 64 rcd) s = .next u ∧ u.held.length = s.held.length + 1
           ∧ u.pf = s.pf ∧ u.tiles = s.tiles ∧ ∃ k, u.held.getLast? = some k ∧ k.tag = x / 2 ^ 192 % 2 ^ 32 ∧ k.q = q
             ∧ k.n0 = x % 2 ^ 63 ∧ k.n1 = x / 2 ^ 64 % 2 ^ 63)
      ∧ (∀ k, s.held.find? (fun k => k.active && k.waiting.contains t
             && decide (k.count (dieOfTile t) ≤ (s.dies.get (dieOfTile t)).cycle.toNat)) = some k →
          ∃ u, Machine.exec (.timeSliceApply t) s = .next u
            ∧ (u.tile t).ctxpri = ((s.tile t).ctxpri &&& ~~~(0x7777#64)) ||| (k.pri &&& 0x7777#64)
            ∧ (u.tile t).floor = ((s.tile t).floor &&& ~~~(0xFFFF#64)) ||| (k.floor &&& 0xFFFF#64)
            ∧ ((k.waiting.filter (fun x => x != t)) ≠ [] → u.pf = s.pf)
            ∧ ((k.waiting.filter (fun x => x != t)) = [] → u.pf.tsstat.toNat % 2 ^ 32 = k.tag % 2 ^ 32))
      ∧ (∀ m v ws, (s.tile t).arriving = (true, m, v) :: ws → ∃ u, Machine.exec (.seqRegisterArrival t) s = .next u
           ∧ (u.tile t).arriving = ws ∧ (u.tile t).ctxpri = ((s.tile t).ctxpri &&& ~~~m) ||| (v &&& m)
           ∧ (u.tile t).floor = (s.tile t).floor ∧ u.mem = s.mem)
      ∧ (∀ m v ws, (s.tile t).arriving = (false, m, v) :: ws → ∃ u, Machine.exec (.seqRegisterArrival t) s = .next u
           ∧ (u.tile t).arriving = ws ∧ (u.tile t).floor = ((s.tile t).floor &&& ~~~m) ||| (v &&& m)
           ∧ (u.tile t).ctxpri = (s.tile t).ctxpri ∧ u.mem = s.mem)))

/-! ### The steps of memory (spec/09_memory.md, spec/14_traps.md) -/

/-- R256 to R258, R284, R394: how a context's request goes into the network. A translated access waits behind a request of its
context that has not been sent, or for its unit; else a plain store joins the entry of its line in the write-coalescing buffer
when that has room, a load takes the bytes the buffer holds, a release follows every entry, and another access the entry of
its line. A request that is sent stands behind those that have been and before those that have not. That later accesses wait
behind one that is unsent, and that a drained line is a request of its own, are the model's choices (logs 64, 16).

R211, R256, R257, R259, R263, R270, R271, R284, R391, R394: a drained entry becomes one masked store; a request
whose earlier requests, those of its tile and held accesses let it is performed at its home, where a load of plaintext lines
reads their bytes and a store writes its masked ones; a line that is missing is fetched first, and holds the
access; its response writes the destination, the parts of one instruction together; a lost request of an
instruction's single access owes cause 0x12 at the instruction's own address; a walk whose reads no line holds caches the page
or records what is missing; a retried access is translated anew and goes into the network, a failed one is lost
with cause 0x05. Choices of the model: a request is performed in one step, and its load returns the bytes of its home then,
of the values that R253 and R283 allow (log 44); a drained line is a request of its own (log 16). -/
def Obligations.MemorySteps : Prop :=
  (∀ (g : AgentId) (r : MemReq) (p : Machine.Part) (a : Attr) (x : Xlated) (s : State),
     (((s.sendReq g r).ctx g).reqs = (s.ctx g).reqs.takeWhile (fun e => !e.stage.unsent)
         ++ { r with stage := .sent, sentAt := s.sends g } :: (s.ctx g).reqs.dropWhile (fun e => !e.stage.unsent))
     ∧ ((s.sendReq g r).ctx g).wcb = (s.ctx g).wcb ∧ (s.sendReq g r).mem = s.mem ∧ (s.sendReq g r).clusters = s.clusters
     ∧ (∀ g', g' ≠ g → (s.sendReq g r).ctx g' = s.ctx g')
     ∧ (∀ t c, g = .tile t c → ((s.sendReq g r).tile t).sends = (s.tile t).sends + 1)
     ∧ (let q := mkReq s p x.pa a x.key [] .queued
        (s.me.stuck = true ∨ s.unitWaits q = true → sendOk s p a x = s.modCtx s.cur (fun c => { c with reqs := c.reqs ++ [q] }))
        ∧ (s.me.stuck = false → s.unitWaits q = false → sendOk s p a x = s.enter s.cur q))
     ∧ (r.op.forwards = true → r.rel = false → s.enter g r = s.sendReq g { r with fwd := (s.ctx g).forward r.pa r.len })
     ∧ (r.merges = none → r.op.forwards = false → (s.ctx g).wcb = [] → s.enter g r = s.sendReq g { r with fwd := [] })
     ∧ (∀ bs, r.merges = some bs → (s.ctx g).wcb.length < 4 →
         (let now := (s.dies.get (agentDie g)).cycle.toNat
          let w := r.entry bs ((s.ctx g).wcb.find? (fun w => w.line == r.pa / 128)) now
          (w.mask.all id = false → s.enter g r
             = s.modCtx g (fun c => { c with wcb := c.wcb.filter (fun w => w.line != r.pa / 128) ++ [w] }))
          ∧ (w.line = r.pa / 128 → w.mask.all id = true → (s.enter g r).ctx g
             = { (s.sendReq g w.req).ctx g with wcb := (s.ctx g).wcb.filter (fun w => w.line != r.pa / 128) })))) ∧
  (∀ (g : AgentId) (n : Nat) (s : State),
     (∀ w, (s.ctx g).wcb[n]? = some w → (s.ctx g).wcb.filter (fun x => x.line == w.line) = [w] →
        ∃ t, Machine.exec (.writeCoalescingDrain g n) s = .next t ∧ t.mem = s.mem
         ∧ (t.ctx g).wcb = (s.ctx g).wcb.filter (fun x => x.line != w.line)
         ∧ (t.ctx g).reqs = (s.ctx g).reqs.takeWhile (fun e => !e.stage.unsent) ++ [{
          op := .store w.bytes w.mask false, ea := w.ea, va := w.va, pa := w.line * 128, len := 128, acq := false, rel := false,
          tileRel := false, drain := true, cp := if w.keep then 2 else 0, mctx := w.mctx, key := w.key, expect := none,
          via := w.via, unit := none, fwd := [], sentAt := s.sends g, by_ := w.by_, stage := .sent }]
             ++ (s.ctx g).reqs.dropWhile (fun e => !e.stage.unsent))
     ∧ (∀ r, (s.ctx g).reqs[n]? = some r →
        (r.stage = .sent → ((s.ctx g).mayPerform n r = false ∨ s.tileWaits g r = true) → Machine.exec (.sliceAccess g n) s = .next s)
        ∧ (r.stage = .sent → (s.ctx g).mayPerform n r = true → s.tileWaits g r = false →
           (let u := s.enterHome g r
            let answered := fun (v : State) (bs : List Byte) (po : List Bool) => v.modCtx g (fun c =>
              { c with reqs := c.reqs.set n { r with stage := .done bs po } })
            (s.reachable r.pa = false → Machine.exec (.sliceAccess g n) s = .next (s.loseReq g n r 0x12 3))
            ∧ (s.reachable r.pa = true → (s.lineReady r.pa r.len r.cp && s.isNext g r) = false →
                Machine.exec (.sliceAccess g n) s = .next (s.waitHome g r))
            ∧ (s.reachable r.pa = true → s.lineReady r.pa r.len r.cp = true → s.isNext g r = true →
                Machine.exec (.sliceAccess g n) s = .next (answered (u.perform r).2.2 (u.perform r).1 (u.perform r).2.1)
                ∧ (targetOf r.pa = some .hbm → r.key = none → (∀ l, s.lineKey l = none) →
                    (∀ d sx, r.op = .loadS d sx → r.fwd = [] →
                       u.perform r = (s.mem.read r.pa r.len, s.mem.readPoison r.pa r.len, u))
                    ∧ (∀ bs mask z, r.op = .store bs mask z →
                       u.perform r = ([], [], { u with mem := s.mem.writeMasked r.pa bs mask }))))))
        ∧ (∀ bs po, r.stage = .done bs po →
           (let w := fun (f : Ctx → Ctx) => Machine.exec (.memoryResponse g n) s
              = .next (((s.mark g).modCtx g (fun c => { c with reqs := c.reqs.eraseIdx n })).modCtx g f)
            let gone := (s.mark g).modCtx g (fun c => { c with reqs := c.reqs.eraseIdx n })
            let mine := (s.ctx g).reqs.filter r.mates
            (∀ d sx, r.op = .loadS d sx → w (fun c => c.writeS d (if sx then wordOfInt (sextInt (leNat bs) (8 * bs.length))
               else BitVec.ofNat 64 (leNat bs)) (po.any id)))
            ∧ (∀ d, r.op = .loadV d → w (fun c => c.writeV d ((c.readV d).load bs po)))
            ∧ (r.mates r = true → Machine.exec (.memoryResponse g n) s
                 = .next (if mine.all (fun e => !e.stage.open_) then takeParts (s.mark g) g r mine else s))
            ∧ (r.op = .syncRead → Machine.exec (.memoryResponse g n) s = .next (if (s.ctx g).awaits r then s else gone))
            ∧ (∀ keep, r.op = .constFill keep none → Machine.exec (.memoryResponse g n) s = .next (gone.installConst g r))
            ∧ (∀ x m z, r.op = .store x m z → Machine.exec (.memoryResponse g n) s = .next gone)
            ∧ (∀ a z v d, r.op = .rmw a z v (some d) → w (fun c => c.writeS d (if a = .min ∨ a = .max
                 then wordOfInt (sextInt (leNat bs) (8 * bs.length)) else BitVec.ofNat 64 (leNat bs)) (po.any id)))
            ∧ (∀ k e v d, r.op = .cas k e v d → w (fun c => c.writeS d (BitVec.ofNat 64 (leNat bs)) (po.any id)))
            ∧ (∀ d c, r.op = .xrd d c → w (fun c => c.writeS d (BitVec.ofNat 64 (leNat bs)) (po.any id)))))
        ∧ (∀ reason : Fin 4, r.stage = .sent → r.mates r = false → r.op ≠ .syncRead → r.op.waited = true →
             Machine.exec (.lostRequest g n reason) s
               = .next (s.modCtx g (fun c => ({ c with reqs := c.reqs.eraseIdx n } : Ctx).recordOwed
                   ⟨0x12, reason.val, r.ea, r.by_, .endRelease (r.op.dst.filter (fun x => !x.constant))⟩)))
        ∧ (∀ q tok, s.parkedOf q (s.vfs.get q).frToken.toNat = some (.req g r) → tok = (s.vfs.get q).frToken.toNat →
             r.stage = .parked tok → (∀ k e, (s.ctx g).reqs[k]? = some e → k ≠ n → e.stage.unsent = false) →
             (let v := s.unpark tok
              let w := v.modCtx g (fun c => { c with reqs := c.reqs.set n { r with stage := .queued } })
              (∀ x, w.unitWaits r = false → w.retranslate r.mctx r.op.access.1 r.va = .ok x → r.op.access.2.allows x.pa = true →
                 (∀ e, r.expect = some e → x.slot = e) →
                 Machine.exec (.fractRetry q) s = .next ((v.modCtx g (fun c => { c with reqs := c.reqs.eraseIdx n })).enter g
                   { r with pa := x.pa, key := x.key, stage := .queued }))
              ∧ Machine.exec (.fractFail q) s = .next (v.loseReq g n r 0x05 r.ea))))
     ∧ (∀ m line e, (s.slice (cgOf (line * 128)) (sliceOf (line * 128))).miss.find? (fun e => e.line == line && e.mctx == m) = some e →
        Machine.exec (.sliceFill m line) s = .next (s.modSlice (cgOf (line * 128)) (sliceOf (line * 128)) (fun y =>
          e.later.foldl (fun y cp => y.promote line cp) { y.insert e with miss := y.miss.filter (fun e => e.line != line) })))
     ∧ (∀ t m va, (∀ s1, s.walkStep m va.toNat = some s1 → Machine.exec (.tableWalk t m va) s = .next s1)
         ∧ (s.walkStep m va.toNat = none →
           (let u := (s.passWalk m va.toNat).modTile t (fun y => { y with walks := y.walks.filter (fun x => x != (m, va)) })
            (∀ e, s.walk m va.toNat = .page e → Machine.exec (.tableWalk t m va) s = .next (u.tlbFill (some t) (clusterOfTile t) e))
            ∧ (∀ l, s.walk m va.toNat = .missing l → Machine.exec (.tableWalk t m va) s = .next (u.modTile t (fun y => { y with
                missed := (m, pageAddr va.toNat, l) :: y.missed.filter (fun x => !(x.1 == m && x.2.1 == pageAddr va.toNat)) })))))))

/-! ### The steps of the matrix array (spec/08_matrix.md) -/

/-- R229 to R231, R239, R242 to R244, R247: the oldest operation of a queue starts when no configuration
change stands before it, a masked product with its mask block, a store of poisoned cells with cause 0x07, and a
gang product that has no gang or whose members disagree with reason 8 on every member; a load and a store take their rows one by
one, a product its waves; a complete operation leaves its queue with its effect, its events and its signal, and, unless its
launch has ended, its deferred fault; a configuration change sweeps once what came before
it has fetched, and its sweep ends; a gang forms of its members, and mgang.free of no gang completes. Choices of the model,
where the spec states none (log 27): a load and a store take one row at each WAVE_FETCH, a wave is applied when it is
fetched, and a gang operation whose members disagree leaves every cell as it was.

R229, R246: mzero clears every cell of its panel and their poison, and no other cell. -/
def Obligations.MatrixSteps : Prop :=
  (∀ (t : Fin 256) (q : Fin 4) (o : MatOp) (rest : List MatOp) (s : State),
     (let y := s.tile t
      let p := (panelOf o.shape q).getD ⟨0, 0, 0, 0⟩
      let put := fun (o' : MatOp) => s.modTile t (fun y => { y with mq := vset y.mq q ((y.mq.get q).set 0 o') })
      (y.mq.get q = o :: rest →
        (o.started = false → y.cfgs = [] →
           (match o.kind with | .zero | .scale _ _ | .load _ _ _ _ | .row _ _ _ _ | .sort _ _ _ _ | .topk _ _ _ _ _ _ _ => True | _ => False) →
           Machine.exec (.matrixOpStart t q) s = .next (put { o with started := true }))
        ∧ (o.started = false → y.cfgs = [] → (∃ ty d r c, o.kind = .store ty d r c) →
           Machine.exec (.matrixOpStart t q) s = .next (put { o with
             started := true,
             err := if panelPoison y o.bank p then some (0x07, o.bank.val + 2 * 2 ^ 8) else none }))
        ∧ (∀ m, o.kind = .mac m → o.started = false → y.cfgs = [] →
           (m.gang = false ∨ teamOf y q o ≠ none ∧ gangIssued s t q o = true ∧ gangDiffers s t q o = false) →
           (m.z = none → Machine.exec (.matrixOpStart t q) s = .next (put { o with started := true }))
           ∧ (∀ z, m.z = some z → y.wmStall z 1088 o.by_.order = false →
              (let o' := { o with started := true, mask := some (maskBlock y.scratch z p.N) }
               Machine.exec (.matrixOpStart t q) s = .next (s.modTile t (fun y => (fillMasked y p o').setOp q 0 o')))))
        ∧ (∀ m, o.kind = .mac m → o.started = false → y.cfgs = [] → m.gang = true →
           (teamOf y q o = none ∨ gangIssued s t q o = true ∧ gangDiffers s t q o = true) →
           Machine.exec (.matrixOpStart t q) s = .next ((failGang s t q o).modTile t (fun y =>
             y.setOp q 0 { o with started := true, waves := m.waveCount, err := some (0x08, 8) })))
        ∧ (∀ m u, o.kind = .mac m → o.started = true → o.waves < m.waveCount → suppliers s t q o m = some u →
           (m.gang = false → u = ⟨t, m, t, m⟩)
           ∧ (waveStalls s p u q o = false → Machine.exec (.waveFetch t q) s = .next (applyWave s t q 0 o m u))
           ∧ (waveStalls s p u q o = true → Machine.exec (.waveFetch t q) s = .next s))
        ∧ (∀ ty d r c, o.kind = .load ty d r c → o.started = true → o.waves < p.M →
           rowStalls y ty (hdesc d) (r + o.waves) c p.N o.by_.order = false →
           Machine.exec (.waveFetch t q) s = .next (s.modTile t (fun y =>
             (loadRow y o.bank p ty (hdesc d) r c o.waves).setOp q 0 { o with waves := o.waves + 1 })))
        ∧ (∀ ty d r c, o.kind = .store ty d r c → o.started = true → o.waves < p.M →
           (o.err ≠ none → Machine.exec (.waveFetch t q) s = .next (put { o with waves := p.M }))
           ∧ (o.err = none → rowStalls y ty (hdesc d) (r + o.waves) c p.N o.by_.order = false →
              Machine.exec (.waveFetch t q) s = .next (s.modTile t (fun y =>
                (let x := storeRow y o.bank p ty (hdesc d) r c o.waves
                 x.1.setOp q 0 { o with waves := o.waves + 1, evs := o.evs ++ x.2 })))))
        ∧ (o.fetched q = true → (∀ m, o.kind = .mac m → m.gang = false) →
           (let u := (finishOp s t q o).1.modTile t (fun y => { y with mq := vset y.mq q ((y.mq.get q).drop 1) })
            let counted := u.addEvents t ⟨(finishOp s t q o).2, o.ctx, o.by_, .endOrWaitOn o.sq, o.dead⟩
            ((u.tile t).mq.get q = rest)
            ∧ (∀ ty half i d, o.kind = .row ty half i d → o.dead = true → (finishOp s t q o).1 = s)
            ∧ (o.dead = true ∨ o.err = none →
               Machine.exec (.matrixOpComplete t q) s = .next (counted.signalOpt (.tile t o.ctx) o.sq))
            ∧ (∀ cause detail, o.dead = false → o.err = some (cause, detail) →
               Machine.exec (.matrixOpComplete t q) s = .next ((counted.modCtx (.tile t o.ctx) (fun c =>
                 c.recordOwed ⟨cause, detail, 0, o.by_, .endOrWaitOn o.sq⟩)).signalOpt (.tile t o.ctx) o.sq))))
        ∧ (o.kind = .gangFree → y.gang.get q = none → Machine.exec (.gangFormation t q) s = .next (reportOp s t q o Ev.zero))
        ∧ (∀ g l, o.kind = .gang → y.gang.get q = some g → s.launchOf (.tile t o.ctx) = some l →
           (let ms := gangMembers q (g.gR * g.gC) (formingHeads s l g)
            (ms = [] → Machine.exec (.gangFormation t q) s = .next s)
            ∧ (ms ≠ [] → Machine.exec (.gangFormation t q) s = .next (formGang s l g.key ms)))))
      ∧ (y.cfgs = o :: rest →
         (∀ shape sort, o.kind = .cfg shape sort → y.sweep = false → sweepReady y o = true →
            ∃ u, Machine.exec (.sweepStart t) s = .next u ∧ (u.tile t).sweep = true ∧ (u.tile t).shape = shape
              ∧ (u.tile t).sort = sort ∧ (u.tile t).cfgs = y.cfgs ∧ (u.tile t).banks = y.banks ∧ (u.tile t).mq = y.mq
              ∧ (∀ q : Fin 4, bitOf sort.val q.val ≠ bitOf y.sort.val q.val → (u.tile t).topk.get q = []))
         ∧ (y.sweep = true →
             (let u := s.modTile t (fun y => { y with sweep := false, cfgs := rest })
              Machine.exec (.sweepEnd t) s = .next (u.signalOpt (.tile t o.ctx) o.sq)))))) ∧
  (∀ (t : Fin 256) (q : Fin 4) (o : MatOp) (p : Panel) (s : State), o.kind = .zero → panelOf o.shape q = some p →
     (let u := (finishOp s t q o).1
      (∀ i j, i < p.M → j < p.N → (u.tile t).cell o.bank (p.orow + i) (p.ocol + j) = (0, false))
      ∧ (∀ r c, r < 128 → c < 64 → (r < p.orow ∨ p.orow + p.M ≤ r ∨ c < p.ocol ∨ p.ocol + p.N ≤ c) →
          (u.tile t).cell o.bank r c = (s.tile t).cell o.bank r c)
      ∧ (∀ b, b ≠ o.bank → (u.tile t).banks.get b = (s.tile t).banks.get b)))

/-! ### The steps of engines, transform arrays and conversions -/

/-- R288, R299, R313 to R319, R322, R331, R344: an engine with fewer than 64 requests started starts the oldest
request that may; a request moves beat by beat; one that has ended with its last token pushed leaves the engine
with its status and its signal; each token that has come to an armed template is a request at its engine, in
order of arrival; a push program of a launch in progress begins a pass when its source is enabled, ends it with reason 6
where its next piece is at another slice, and signals when a pass has ended; the
transform array takes a beat of a request. What one beat moves is below. Choices of the model: the input of the array is
filled with zeros only where the stream ends (log 28), and the queue that a pass signals is on the tile that
Config.passTile names (log 50).

R290, R303, R309 to R314, R317: the data of a request without a transform stage, whose pattern is one of addresses. A
piece of a read is the bytes at its address, and goes behind those that came before; as soon as a token's bytes stand ready
and a credit is held the token is pushed, the last with end-of-stream when EOS asks for it; a copy writes what is ready, at most 64
bytes at a beat, behind what it has written, and its watermark follows. A write takes its tokens, or the bytes of its
range, and writes piece after piece at their addresses. A read ends when every byte has gone out, a write when its pattern
is done, or, short, when its input ends before; an error ends it with its reason and, of a stream that reads, with
a poisoned token of zeros after those already formed. How much moves in one beat is the model's (log 28). -/
def Obligations.EngineSteps : Prop :=
  (∀ (cg : Fin 32) (n : Nat) (r : EngReq) (s : State),
     (let x := s.clusters.get cg
      (64 ≤ (x.eng.filter (fun r => r.started)).length ∨ x.eng.find? (reqMayStart s cg) = none →
         Machine.exec (.requestStart cg) s = .next s)
      ∧ ((x.eng.filter (fun r => r.started)).length < 64 → x.eng.find? (reqMayStart s cg) = some r →
         Machine.exec (.requestStart cg) s = .next (startReq s cg r)
         ∧ (r.rc.sta = none → r.kind ≠ 2 →
             (let u := if r.kind = 1 then s else s.modTile r.t (fun y => { y with issues := y.issues + 1 })
              let r1 := { r with order := if r.kind = 1 then r.by_.order else (s.tile r.t).issues, started := true }
              startReason u r1 = 0 → startReq s cg r = u.putReq cg r1)))
      ∧ (s.engReq cg n = some r →
         (∀ u r1, reqBeat s cg 0 r = (u, some r1) → Machine.exec (.engineBeat cg n) s = .next (u.putReq cg r1))
         ∧ (∀ u, reqBeat s cg 0 r = (u, none) → Machine.exec (.engineBeat cg n) s = .next u)
         ∧ (∀ e, r.ending = some e → r.tail = [] → ∃ u, Machine.exec (.requestComplete cg n) s = .next u
             ∧ u = completeReq s cg r e ∧ (∀ z ∈ (u.clusters.get cg).eng, z.stamp ≠ r.stamp))
         ∧ (∀ k, r.rc.sta = some k → r.started = true → r.ending = none →
             (let p := staPending s cg r
              let size := 32 * (s.staSlot cg k).graph.inw
              p.1 ≠ [] → (size ≤ p.1.length ∨ p.2 = false) →
              Machine.exec (.staBeat cg n) s = .next (runBeat s cg r k (p.1.take size).length (p.1.take size)))))
      ∧ (∀ (t : Fin 256) (c : Fin 4) (slot : Fin 16) tm l e, (s.ctx (.tile t c)).tmpl.get slot = some tm →
          s.launchOf (.tile t c) = some l → l.edges.find? (fun e => e.dst == .template t c slot) = some e →
          s.cgOfPart l.q (recOf tm.record).cg = some cg →
          (let r0 := newReq 2 l.q t c slot tm.record 0 0 tm.wm tm.sq tm.by_
           let waiting := (x.eng.filter (fun y => r0.sameTemplate y && !y.started)).length
           (tm.disarming = false → waiting < e.queue.length → Machine.exec (.templateFiring (.tile t c) slot) s
             = .next (startNext (s.modCluster cg (fun y => { y with
                 eng := y.eng ++ [{ r0 with stamp := y.stamp }], stamp := y.stamp + 1 })) cg))
           ∧ (tm.disarming = true ∨ e.queue.length ≤ waiting → Machine.exec (.templateFiring (.tile t c) slot) s = .next s)))
      ∧ (∀ (k : Fin 320) (j : Fin 4) p, s.pushProg k j = some p →
          (let r0 := { newReq 3 p.q 0 p.c (Fin.ofNat 16 j.val) p.rcd 0 0 none p.sq ⟨0, 0, 0, false⟩ with started := true }
           let runs := s.launches.any (fun l => l.id == p.owner) = true
           (¬runs → Machine.exec (.pushProgramPass k j) s = .next s)
           ∧ (runs → p.pass = none → Machine.exec (.pushProgramPass k j) s = .next (startPass s k j p)
             ∧ (s.reqEdge r0 (fun e => e.dst == .push k j) = none →
                (p.enabled = true → startPass s k j p = s.setPush k j { p with enabled := false, pass := some r0 })
                ∧ (p.enabled = false → startPass s k j p = s)))
           ∧ (∀ z, runs → p.pass = some z → z.ending = none → z.parked = none → z.inEnd = false →
               allRead s (sliceNum k).1 z = false → ownSlice s k z = false →
               ∃ z', Machine.exec (.pushProgramPass k j) s = .next (s.setPush k j { p with pass := some z' })
                 ∧ z'.ending = some (3, 0x0D, 6, 0, visitAddr s z))
           ∧ (∀ z e, runs → p.pass = some z → z.ending = some e → z.tail = [] →
              (let u := (s.setPush k j { p with pass := none }).passSignal k j p
               Machine.exec (.pushProgramPass k j) s = .next (if e.1 = 3
                 then u.logError (dieOfCluster (sliceNum k).1) 4 e.2.2.1 k.val 0 e.2.2.2.2 else u))))))) ∧
  (∀ (cg : Fin 32) (slice : Fin 320) (r : EngReq) (s : State),
     (let rc := r.rc
      let n := 2 ^ rc.chunk
      let avail := r.src.drop r.sent
      let beat := reqBeat s cg slice r
      let dark := ∀ l, s.lineKey l = none
      rc.zs = 0 → rc.mx = false → rc.cv = false → rc.tr = false → rc.redop = 0 → rc.sta = none → rc.pat = 0 →
      r.ending = none → r.started = true → r.parked = none → s.stopping r = false →
      -- the place of a piece
      (∀ p, spotOf s r p = (let ii := visitIdx rc.count p
         let a := intMod ((List.range 5).foldl (fun (a : Int) d => a + (ii.getD d 0 : Int) * sextInt (rc.str d) 32)
           ((rc.addr + r.off.toNat : Nat) : Int)) 64
         if 2 ^ 56 ≤ a then .bad 6 a else if a % n ≠ 0 then .bad 7 a else .cells false none [⟨a, n, 0, 8 * n, 0⟩] none))
      -- a read
      ∧ (rc.dir = false →
         (∀ e, r.copies = false → s.reqEdge r (fun e => e.src == r.outEnd slice) = some e → avail ≠ [] → 0 < e.credits →
           (e.tokSize < avail.length ∨ e.tokSize = avail.length ∧ rc.eos = false ∨ r.inEnd = true) →
           (let ds := avail.take e.tokSize
            beat = (pushToken s r e ⟨BitVec.ofNat 512 (joinWord 8 (ds.map (fun d => d.1))),
                r.inEnd && decide (avail.length ≤ e.tokSize) && rc.eos, ds.any (fun d => d.2), r.c⟩,
              some { r with sent := r.sent + ds.length, poison := r.poison || ds.any (fun d => d.2) })))
         ∧ (r.copies = true → avail ≠ [] →
           (let k := Nat.min 64 avail.length
            k ≤ rc.slen - r.sent → engStall s r (r.soff + r.sent) k = false →
            (let s1 := engStore s cg r (some r.t) none (r.soff + r.sent) ((avail.take k).map Wb.whole)
             beat = (match r.wm with
               | some w => s1.modCtx r.agent (fun c => { c with wm := vset c.wm w { c.wm.get w with fill := r.sent + k } })
               | none => s1, some { r with sent := r.sent + k, poison := r.poison || (avail.take k).any (fun d => d.2) }))))
         ∧ (∀ p x, deliverBeat s cg slice r = none → r.inEnd = false → r.pos < rc.total →
             (r.copies = true ∨ fetchRoom s cg slice r = true) → spotOf s r r.pos = .cells false none [p] none →
             engAccess s cg r .read none [p] = .ok [(p, x)] → targetOf x.pa = some .hbm → x.key = none → dark →
             (let ds := (List.range n).map (fun i => ((s.mem.get (x.pa + i)).toNat, s.mem.poisoned (x.pa + i)))
              beat = (engTouch s cg r [(p, x)], some { r with
                src := r.src ++ ds, pos := r.pos + 1, moved := r.moved + 8 * n, poison := r.poison || ds.any (fun d => d.2) })))
         ∧ (deliverBeat s cg slice r = none → r.inEnd = false → rc.total ≤ r.pos → beat = (s, some { r with inEnd := true }))
         ∧ (r.inEnd = true → avail = [] → r.cut = false → beat = (s, some { r with
             ending := some (1, 0, 0, 0, 0)
             tail := if r.feeds && rc.eos && r.sent == 0 then [⟨0, rc.eos, false, r.c⟩] else [] }))
         ∧ (∀ m va, deliverBeat s cg slice r = none → r.inEnd = false → r.pos < rc.total →
             (r.copies = true ∨ fetchRoom s cg slice r = true) → spotOf s r r.pos = .bad m va →
             ∃ u z, beat = (u, some z) ∧ z.ending = some (3, 0x0D, m, 0, va) ∧ z.sent = r.sent ∧ z.pos = r.pos
               ∧ (r.feeds = false → z.tail = []) ∧ (r.feeds = true → z.tail.getLast? = some ⟨0, rc.eos, true, r.c⟩)))
      -- a write
      ∧ (rc.dir = true →
         (∀ e t ts, r.kind = 0 → s.reqEdge r (fun e => e.dst == .stream r.t r.c r.num) = some e → e.queue = t :: ts → r.inEnd = false →
           r.pos < rc.total → r.src.length < (r.pos + 1) * n →
           beat = (takeToken s r e, some { r with
             src := r.src ++ (leBytes e.tokSize t.bits.toNat).map (fun b => (b.toNat, t.poison))
             inEnd := t.eos, poison := r.poison || t.poison }))
         ∧ (r.kind = 1 → s.sectors = [] → r.inEnd = false → r.pos < rc.total → r.src.length < (r.pos + 1) * n →
           (let a := r.soff + r.src.length
            let k := Nat.min (Nat.min 64 (rc.slen - r.src.length)) (rc.total * n - r.src.length)
            let m := (s.tile r.t).scratch
            let ds := (List.range k).map (fun i => ((m.get (a + i)).toNat, m.poisoned (a + i)))
            engStall s r a k = false → beat = (s, some { r with
              src := r.src ++ ds, inEnd := decide (rc.slen ≤ r.src.length + k), poison := r.poison || ds.any (fun d => d.2) })))
         ∧ (∀ p x, r.pos < rc.total → (r.pos + 1) * n ≤ r.src.length → spotOf s r r.pos = .cells false none [p] none →
             engAccess s cg r .write none [p] = .ok [(p, x)] →
             beat = (engStore (engTouch s cg r [(p, x)]) cg r none x.key x.pa (((r.src.drop (r.pos * n)).take n).map Wb.whole),
               some { r with pos := r.pos + 1, moved := r.moved + 8 * n }))
         ∧ (r.cut = false → rc.total ≤ r.pos → rc.total * n ≤ r.src.length →
             beat = (s, some { r with ending := some (1, 0, 0, 0, 0), tail := [] }))
         ∧ (r.cut = false → r.inEnd = true → r.pos < rc.total → r.src.length ≤ r.pos * n →
             beat = (s, some { r with ending := some (1, 0, 0, 0, 0), short := true, tail := [] })))
      -- bytes that a request writes in a sector, when no other request in progress has written
      ∧ (∀ (d : List Datum) a, s.sectors = [] → d ≠ [] → a % 32 + d.length ≤ 32 → (∀ x ∈ d, x.2 = false ∧ x.1 < 256) →
           (let at_ := fun (m : Memory) (b : Nat) => if a ≤ b ∧ b < a + d.length
              then BitVec.ofNat 8 (d.getD (b - a) (0, false)).1 else m.get b
            (∀ (t : Fin 256) b, ((engStore s cg r (some t) none a (d.map Wb.whole)).tile t).scratch.get b = at_ (s.tile t).scratch b)
            ∧ (targetOf a = some .hbm → dark → ∀ b, (engStore s cg r none none a (d.map Wb.whole)).mem.get b = at_ s.mem b)))))

/-- R341, R342, R346 to R349: a load of a transform array slot reads its container, and fails with reason 7 when it
is lost or malformed, and with reason 6 when it is not signed; the oldest load, once read, takes effect when its
words make a good graph, an update after the requests before it, and fails with its reason else; a free takes
effect when nothing that came before it is left on the slot, and refuses what came after it. That a poisoned
container fails with reason 7 is the model's choice (log 28), and so is that the container's lines pass the slices as
they are read (log 64).

R209, R210, R213, R217, R218: a cluster acknowledges a conversion once its writes through the handle are
performed; the engine of a unit's channel group takes the unit when it is the next of that engine; a unit whose
target page or old page is missing parks, and one whose page fails breaks the handle; a unit whose writes are done
is New, its demand served, and with the last one the entry takes the layout of its target. What a unit waits for (a
walk or a line that misses, and the memory of a stack without power) holds it in the model's own steps (log 64). -/
def Obligations.ArrayAndConversionSteps : Prop :=
  (∀ (cg : Fin 32) (k : Fin 8) (s : State),
     (∀ l la, (s.staSlot cg k).loads.find? (loadReads s) = some l → s.launchOf (.tile l.t l.c) = some la →
     (let m := mctxOf la.q la.c
      Machine.exec (.staloadComplete cg k) s = .next (takeLoad (readLoad s cg k l m) cg k)
      ∧ (∀ step va, fetchVa s cg m l.addr 32 = .fail step va → readLoad s cg k l m = endLoad s cg k l (.inr 7))
      ∧ (fetchVa s cg m l.addr 32 = .wait → readLoad s cg k l m = s)
      ∧ (∀ hd po s1, fetchVa s cg m l.addr 32 = .bytes hd po s1 →
         (containerHead hd = none → readLoad s cg k l m = endLoad s1 cg k l (.inr 7))
         ∧ (∀ nw sl, containerHead hd = some (nw, sl) → (po = true → readLoad s cg k l m = endLoad s1 cg k l (.inr 7))
            ∧ (∀ bs po2 s2, po = false → fetchVa s1 cg m l.addr (32 + 4 * nw + sl) = .bytes bs po2 s2 →
               (let key := match s2.parts.find? (fun p => p.q == partOfMctx m) with | some p => p.owner | none => 0
                let good := Config.lmsSigned key (bs.take (32 + 4 * nw)) (bs.drop (32 + 4 * nw))
                readLoad s cg k l m = if po2 then endLoad s2 cg k l (.inr 7) else if good
                  then s2.modSta cg k (fun x => { x with loads := x.loads.map (fun y =>
                    if y.stamp = l.stamp then { y with got := some (containerWords bs nw) } else y) })
                  else endLoad s2 cg k l (.inr 6)))))))
     ∧ ((s.staSlot cg k).loads.find? (loadReads s) = none →
         Machine.exec (.staloadComplete cg k) s = .next (takeLoad s cg k)
         ∧ (∀ l ls, (s.staSlot cg k).loads = l :: ls →
            (l.got = none → takeLoad s cg k = s)
            ∧ (∀ ws, l.got = some ws →
               (loadWaits s cg k l = true → takeLoad s cg k = s)
               ∧ (loadWaits s cg k l = false → takeLoad s cg k = endLoad s cg k l
                  (if l.upd = true ∧ (s.staSlot cg k).st = 0 then .inr 7 else
                    applyGraph (s.clusters.get cg) k (if l.upd then (s.staSlot cg k).graph else StaGraph.empty) ws)))))
     ∧ (∀ l g n, l.upd = false → (s.staSlot cg k).frees = [] → l.sq = none →
         (let gone := fun (x : StaSlot) => x.loads.filter (fun y => y.stamp != l.stamp)
          endLoad s cg k l (.inl g) = s.modSta cg k (fun x => { x with loads := gone x, graph := g, ldstat := 1, st := 2 })
          ∧ endLoad s cg k l (.inr n) = s.modSta cg k (fun x => { x with loads := gone x, st := 0, owner := none, ldstat := n })))
     ∧ (∀ f fs, (s.staSlot cg k).frees = f :: fs →
         (freeReady (s.clusters.get cg) k f = false → Machine.exec (.stafreeComplete cg k) s = .next s)
         ∧ (fs = [] → (s.staSlot cg k).loads = [] → freeReady (s.clusters.get cg) k f = true →
            Machine.exec (.stafreeComplete cg k) s
              = .next ((refuseUsers (s.modSta cg k StaSlot.emptied) cg k).signalOpt (.tile f.t f.c) f.sq)))) ∧
  (∀ (id u : Nat) (v : Conv) (cl : Fin 32) (s : State), s.convs.find? (fun v => v.id == id) = some v →
     (let va := (hdesc v.target).base + 32768 * u
      let c0 := s.firstCluster v.q
      let start := Machine.exec (.conversionUnitStart id u) s
      ((s.clustersOf v.q).getLsbD cl.val = true →
         (let quiet := ∀ i : Fin 8, ((s.tile ⟨cl.val * 8 + i.val, by omega⟩).ctx.get v.c).handleWrites v.index = false
          (quiet → Machine.exec (.relayoutAcknowledgement id cl) s = .next { s with
             convs := s.convs.map (fun x => if x.id = id then { x with acks := setBit x.acks cl.val true } else x) })
          ∧ (¬quiet → Machine.exec (.relayoutAcknowledgement id cl) s = .next s)))
      ∧ (convReady s v = false ∨ v.waiting u = false ∨ v.units ≤ u → start = .next s)
      ∧ (convReady s v = true → v.waiting u = true → u < v.units → s.unitWalk c0 (mctxOf v.q v.c) va = none →
         (∀ lv, convPage s v c0 .write va = .missing lv → start = .next (parkUnit s v c0 .write u va lv))
         ∧ (∀ step c d, convPage s v c0 .write va = .fault step c d → start = .next (if c = 0x12 then s else breakConv s v c0 step va))
         ∧ (∀ x, convPage s v c0 .write va = .ok x →
             (targetOf x.pa ≠ some .hbm → start = .next (breakConv s v c0 5 va))
             ∧ (targetOf x.pa = some .hbm →
               (let cg := cgOf x.pa
                let turn := s.convs.any (fun w => w.busy.any (fun b => b.2 == cg)) = false
                  ∧ (engineNext s cg).map (fun x => (x.1.id, x.2)) = some (id, u)
                (¬turn → start = .next s)
                ∧ (∀ s1, turn → unitWalks s v cg u = some s1 → start = .next s1)
                ∧ (∀ s1, turn → unitWalks s v cg u = none → unitStopped s v cg u = some s1 → start = .next s1)
                ∧ (turn → unitWalks s v cg u = none → unitStopped s v cg u = none →
                   (let w := { v with busy := v.busy ++ [(u, cg)] }
                    start = .next (writeMap ((s.setConv w).modCluster cg (fun x => { x with convLast := some id })) w cg u)))))))
      ∧ (∀ cg x, v.busy.find? (fun b => b.1 == u) = some (u, cg) →
           (∀ s1, unitWalks s v cg u = some s1 → Machine.exec (.conversionUnitDone id u) s = .next s1)
           ∧ (∀ s1, unitWalks s v cg u = none → unitStopped s v cg u = some s1 → Machine.exec (.conversionUnitDone id u) s = .next s1)
           ∧ (∀ s1, unitWalks s v cg u = none → unitStopped s v cg u = none → convPage s v cg .write va = .ok x →
             unitHeld s v cg u = some s1 → Machine.exec (.conversionUnitDone id u) s = .next s1)
           ∧ (unitWalks s v cg u = none → unitStopped s v cg u = none → convPage s v cg .write va = .ok x → unitHeld s v cg u = none →
             (let s0 := passUnit s v cg u
              let bp := unitBytes s0 v cg u
              let s1 := { s0.writePa x.key x.pa bp.1 (List.replicate bp.1.length true) with
                freeCtr := s0.freeCtr + 1, demands := s0.demands.filter (fun d => d != (v.id, u)) }
              let s2 := bp.2.zipIdx.foldl (fun s p => if p.1 then s.poisonPa (x.pa + p.2) 1 else s) s1
              let w := { v with done := v.done ++ [u], busy := v.busy.filter (fun b => b.1 != u) }
              let s3 := writeMap ((s2.setConv w).updEntry v.q v.c v.index (fun d => dPut d 120 0 32 (v.done.length + 1))) w cg u
              Machine.exec (.conversionUnitDone id u) s
                = .next (if v.done.length + 1 = v.units then completeConv s3 w else s3))))
      ∧ (v.cslot = none → completeConv s v = endConv (s.updEntry v.q v.c v.index (takeLayout v.target)) v)))

/-! ### The steps of fabric regions (spec/13_fabric.md) -/

/-- R353, R355, R356, R358, R360 to R365, R368: a bitstream whose turn on its die it is ends staged or with its
reason, or parks; a swap token with bit 0 set asks for a swap, and is reported when nothing is staged; an idle
draining region takes the staged plane, or freezes quiescent; a spent drain budget freezes it with its state saved
and fails its swap with reason 3; the clock relocks; the power cap takes a step down or up, and freezes the region
at 50 MHz; the operator accepts a token from an input edge and emits one on an output port; an idle operator clears
the taint. Two points are the model's choice: the operator's next token is that of Table 17.3, or an uninterpreted
function of its configuration and of the tokens accepted (log 7), and the taint rises when a poisoned token is
accepted (log 29). -/
def Obligations.RegionSteps : Prop :=
  ∀ (r : Fin 128) (m : Fin 14) (w : Nat) (s : State),
    (let x := s.region r
     let put := fun (f : Region → Region) => s.modRegion r f
     (∀ ld l, x.load = some ld → ld.parked = none → s.launchOf (.tile ld.who.t ld.who.c) = some l →
        olderAccess (s.ctx (.tile ld.who.t ld.who.c)) ld.who.by_.order = false → dieStages s r = false →
        (match stageBits s l r ld.addr x.req with
         | .wait => Machine.exec (.stagingDone r) s = .next s
         | .ok c s1 => (s1.region r).swap = none → Machine.exec (.stagingDone r) s
             = .next (endRegionOp r 0 (s1.modRegion r (fun x => { x with stage := 2, staged := some c, load := none })) ld.who)
         | .bad k s1 => (s1.region r).swap = none → Machine.exec (.stagingDone r) s
             = .next (endRegionOp r k (s1.modRegion r (fun x => { x with stage := 3, staged := none, load := none, lasterr := k })) ld.who)
         | .park va lv => s.replayRoom (.unit (dieOfRegion r)) = true →
             (let k := s.park (.unit (dieOfRegion r)) (mctxOf l.q l.c) .read va lv
              Machine.exec (.stagingDone r) s
                = .next (k.2.modRegion r (fun x => { x with load := some { ld with parked := some k.1, begun := true } })))))
     ∧ (∀ c l e t, x.st = 1 → x.clocked = true → x.active = some c → c.swapctl = true → portHead s r 13 = some (l, e, t) →
        (let u := (takePort s l e).modRegion r (fun x => { x with taint := x.taint || t.poison })
         (t.bits.getLsbD 0 = false → Machine.exec (.swapToken r) s = .next u)
         ∧ (t.bits.getLsbD 0 = true → x.swap = none → (x.stage = 0 ∨ x.stage = 3) → Machine.exec (.swapToken r) s
              = .next ((u.modRegion r (fun x => { x with lasterr := 1 })).logError (dieOfRegion r) 7 1 r.val 0 0))
         ∧ (t.bits.getLsbD 0 = true → (x.swap ≠ none ∨ x.stage = 1 ∨ x.stage = 2) →
              Machine.exec (.swapToken r) s = .next (askSwap u r false [] true))))
     ∧ (x.st = 2 → x.clocked = true →
        (x.swap = none → Machine.exec (.drainComplete r) s
            = .next (if x.idle then put (fun x => { x with st := 3, quiescent := true }) else s))
        ∧ (∀ sw, x.swap = some sw → Machine.exec (.drainComplete r) s
            = .next (if x.idle then sw.who.foldl (endRegionOp r 0) (put (fun x => { x with
                st := 1, stage := 0, active := x.staged, staged := none, op := RgOp.fresh, quiescent := false, swap := none })) else s)))
     ∧ (x.st = 2 → (let frozen := put (fun x => { x with
          st := 3, saved := true, quiescent := false, image := x.active.map (fun c => ⟨c.idhash, x.op, x.taint⟩) })
         Machine.exec (.drainBudgetExpiry r) s = .next (if x.idle then s else if x.swap.isSome then failSwap frozen r 3 else frozen)))
     ∧ Machine.exec (.clockRelock r) s = .next (put (fun x => { x with relock := false }))
     ∧ (x.clocked = true →
        (x.cap.toNat < w → x.step < 72 → Machine.exec (.powerWindow r w) s
          = .next (put (fun x => { x with capk := x.step + 1, below := 0, above := 0 })))
        ∧ (x.cap.toNat < w → 72 ≤ x.step → x.above + 1 < 100 → Machine.exec (.powerWindow r w) s
          = .next (put (fun x => { x with below := 0, above := x.above + 1 })))
        ∧ (x.cap.toNat < w → 72 ≤ x.step → 100 ≤ x.above + 1 → Machine.exec (.powerWindow r w) s
          = .next ((put (fun x => { x with st := 3, quiescent := false, lasterr := 10, below := 0, above := 0 })).event
              3 r.val 0))
        ∧ (10 * w < 9 * x.cap.toNat → x.below + 1 = 10 → x.reqStep < x.step → Machine.exec (.powerWindow r w) s
          = .next (put (fun x => { x with capk := x.step - 1, below := 0, above := 0 })))
        ∧ (10 * w < 9 * x.cap.toNat → x.below + 1 < 10 → Machine.exec (.powerWindow r w) s
          = .next (put (fun x => { x with below := x.below + 1, above := 0 }))))
     ∧ (∀ c l e t, x.st = 1 → x.clocked = true → x.active = some c → portHead s r m = some (l, e, t) →
        (c.ports.getD m.val (0, 4)).1 = 1 → ¬(m = 13 ∧ c.swapctl = true) → Machine.exec (.operatorEmit r m true) s
          = .next ((takePort s l e).modRegion r (fun x => { x with
              taint := x.taint || t.poison
              op := { x.op with hist := x.op.hist ++ [⟨m, if 12 ≤ m.val then t.bits &&& 1 else t.bits, t.eos, t.poison⟩] } })))
     ∧ (∀ c, x.clocked = true → x.active = some c → (c.port m).1 = 2 →
        (x.outbuf.filter (fun b => b.port == m)).length < 16 →
        Machine.exec (.operatorEmit r m false) s = .next (
          match x.op.next c.idhash m with
          | some (bits, eos) => flushPorts (put (fun x => { x with
              outbuf := x.outbuf ++ [⟨m, portBits m (BitVec.ofNat 512 (bits.toNat % 2 ^ (8 * (c.port m).2))), eos, x.taint⟩]
              op := { x.op with emitted := x.op.emitted ++ [m] } })) r
          | none => s))
     ∧ (x.clocked = true →
        Machine.exec (.operatorIdle r) s = .next (if x.idle then put (fun x => { x with taint := false }) else s)))
/-! ### Errors, heat, current and links (spec/14_traps.md to spec/16_memory_power.md) -/

/-- R396, R427, R437, R457: an uncorrectable error in memory poisons its sector, counts and is logged with
code 2; a corrected one counts and is logged with code 1 and the data stay; a scratchpad's error poisons
its sector; a hop that drops a packet keeps it in its die's log and logs Table 16.12's record, a dropped request is lost
to its requester, and a dropped header slot of the vector net stops the routes through its port, whose launches end with
status 8; a read of MC_ELOGW3 frees the oldest entry of the log it reads. Two points are the model's choice: the log
keeps the first sixteen hops (log 33), and a slice's error counts for its channel group, a scratchpad's for none
(log 39).

R424, R426, R399, R400: a replay counts, saturating, and the sixteenth failed one of a flit takes its port down; a
retrained port is up; a port that goes down ends the launches with a cut edge on it and shows its loss to their
partitions; a partition whose clusters all have a hang limit and that holds partial work has its stall map written to its
stall-map area, raises PSTAT bit 2, and every launch of it that has an entry ends with status 7, cause 0x10 and
detail 2. These points are the model's choice: a retrained port has the lanes of Config.linkLanes, eight at most
(log 34), a failed replay is one that the row says is not good (log 34), and the map is a plain store at a physical
address (log 25). -/
def Obligations.ErrorsLinksAndHangs : Prop :=
  (∀ (pa : Nat) (t : Fin 256) (off : Nat) (x : Quarantine) (s : State),
     (targetOf pa = some .hbm →
       (let g := cgOf pa
        let d := dieOfCluster g
        let ue := Nat.min (2 ^ 32 - 1) ((s.clusters.get g).ue + 1)
        let ce := Nat.min (2 ^ 32 - 1) ((s.clusters.get g).ce + 1)
        (∀ p, (p = .hbm pa ∨ p = .slice pa) → Machine.exec (.uncorrectableError p) s
           = .next ((({ s with mem := s.mem.poisonSector (pa / 32) }).modCluster g (fun x => { x with ue := ue })).logError d 1 2 g.val ue pa))
        ∧ Machine.exec (.correctedError pa) s = .next ((s.modCluster g (fun x => { x with ce := ce })).logError d 1 1 g.val ce pa)))
     ∧ (off < 0x180000 → Machine.exec (.uncorrectableError (.scratch t off)) s
         = .next (s.modTile t (fun y => { y with scratch := y.scratch.poisonSector (off / 32) })))
     ∧ (let put := fun (d : Fin 2) => s.modDie d (fun y => { y with quarantine := (y.quarantine ++ [x]).take 16 })
        let logged : State := match x.hop with
          | .router d i j => (put d).logError d 2 1 (64 * d.val + 8 * j.val + i.val) 0 0
          | .seam d j => (put d).logError d 2 2 (128 + 8 * d.val + j.val) 0 0
          | .link k => (let d : Fin 2 := if k.val < 8 then 0 else 1; (put d).logError d 3 1 k.val 0 0)
          | .host => (put 0).logError 0 3 1 16 0 0
        match x.what with
        | .other => Machine.exec (.packetQuarantine x) s = .next logged
        | .request g n => ∀ r, (s.ctx g).reqs[n]? = some r → r.stage = .sent →
            Machine.exec (.packetQuarantine x) s
              = .next (logged.modCtx g (fun c => { c with reqs := c.reqs.set n { r with stage := .dropped } }))
        | .slot cl box code => ∃ u, Machine.exec (.packetQuarantine x) s = .next u
            ∧ u.boxes = s.boxes.filter (fun b => !(b.elem == 4096 + box.val && b.cluster == cl && b.code == code.val && b.code != 0))
            ∧ (∀ b ∈ s.boxes, b.elem = 4096 + box.val → b.cluster = cl → b.code = code.val → b.code ≠ 0 →
                ∀ l ∈ u.launches, l.id = b.owner → l.ending.isSome = true)
            ∧ u.mem = s.mem)
     ∧ ((s.dies.get s.logDie).log ≠ [] → ∃ u, Machine.exec .mcElogw3 s = .next u
         ∧ (u.dies.get s.logDie).log = (s.dies.get s.logDie).log.tail ∧ u.mem = s.mem ∧ u.mgmt = s.mgmt)) ∧
  (∀ (k : Fin 16) (q : Fin 32) (p : Partition) (s : State),
     (let st := (s.pf.lnkst.get k).toNat
      (∃ u, Machine.exec (.flitReplay ⟨k, true⟩) s = .next u
        ∧ u.pf.lnkFail.get k = 0
        ∧ (u.pf.lnkst.get k).toNat / 2 ^ 16 % 2 ^ 32 = Nat.min (2 ^ 32 - 1) (st / 2 ^ 16 % 2 ^ 32 + 1)
        ∧ (u.pf.lnkst.get k).toNat % 2 ^ 16 = st % 2 ^ 16 ∧ (u.pf.lnkst.get k).toNat / 2 ^ 48 = st / 2 ^ 48
        ∧ (∀ j, j ≠ k → u.pf.lnkst.get j = s.pf.lnkst.get j) ∧ u.mem = s.mem)
      ∧ (∀ n, s.pf.lnkFail.get k = n →
          (n < 15 → ∃ u, Machine.exec (.flitReplay ⟨k, false⟩) s = .next u ∧ u.pf.lnkFail.get k = n + 1
            ∧ (u.pf.lnkst.get k).toNat % 2 ^ 16 = st % 2 ^ 16 ∧ u.launches = s.launches)
          ∧ (n = 15 → ∃ u, Machine.exec (.flitReplay ⟨k, false⟩) s = .next u ∧ u.pf.lnkFail.get k = 0
            ∧ (u.pf.lnkst.get k).toNat % 4 = 2 ∧ (∀ l ∈ u.launches, l.onPort k = true → l.ending.isSome = true)))
      ∧ (s.pf.availLn.getLsbD k.val = true → ∃ u, Machine.exec (.linkRetrain k) s = .next u
        ∧ (u.pf.lnkst.get k).toNat % 4 = 1 ∧ (u.pf.lnkst.get k).toNat / 4 % 16 = Nat.min 8 (Config.linkLanes k.val)
        ∧ (u.pf.lnkst.get k).toNat / 64 = st / 64)
      ∧ (s.pf.availLn.getLsbD k.val = false → Machine.exec (.linkRetrain k) s = .next s))
     ∧ (∃ u, Machine.exec (.linkPortDown k) s = .next u
        ∧ (u.pf.lnkst.get k).toNat % 4 = 2 ∧ (∀ j, j ≠ k → u.pf.lnkst.get j = s.pf.lnkst.get j)
        ∧ (∀ l ∈ u.launches, l.onPort k = true → l.ending.isSome = true)
        ∧ (∀ x ∈ s.parts, s.launches.any (fun l => l.q == x.q && l.onPort k) = true → (u.vfs.get x.q).linkDown = true))
     ∧ (s.part q = some p → p.clusterList.all (fun i => (s.clusters.get i).hangLim != 0) = true →
         (let ls := s.launches.filter (fun l => l.q == q)
          let es := stallEntries s p ls
          let bs := stallMap s q 1 es Config.mapRoom
          partialWork s ls = true →
          ∃ u, Machine.exec (.hangDetected q) s = .next u ∧ (u.vfs.get q).hang = true
            ∧ u.mem = (s.writePa none p.mapArea.toNat bs (List.replicate bs.length true)).mem
            ∧ (∀ l ∈ ls, l.ending = none → (es.take Config.mapRoom).any (fun e => e.c == l.c) = true →
                 ∃ x ∈ u.launches, x.id = l.id ∧ x.q = q ∧ x.c = l.c ∧ x.ending = some (7, 0x10, 2))
            ∧ (∀ l ∈ ls, (es.take Config.mapRoom).any (fun e => e.c == l.c) = false → l ∈ u.launches)
            ∧ (∀ l ∈ s.launches, l.q ≠ q → l ∈ u.launches))))

/-- R430, R431, R432, R434, R429, R451: a sample sets TEMP and V, raises LEVEL to the highest threshold
reached, or lowers it by one below its own threshold less HYST, and HOT stays set; a stack that reaches level
3 loses power, its contents and the readiness of its groups, and the launches of the partitions that own one of them end;
a level that changes, and a zone that becomes above or below, are events; level 2 lasting takes every second slot;
an idle pseudo-channel whose timer runs falls asleep; the limiter sets LIM to 8, steps it down to 1 and up to 16, and
its leaving 16 or coming back is an event; an accepted HBM_THR has its thresholds in order, with the fourth at most
105 degrees, and changes no sensor; another one is ignored. These points are the model's choice: the thresholds are
unsigned numbers and LIMITER_ENGAGE sets 8 (log 40), and the order of the thresholds is checked on the clamped
value (log 22). -/
def Obligations.HeatAndCurrent : Prop :=
  ∀ (n : Fin 128) (temp : BitVec 8) (k : Fin 8) (pc : Fin 512) (v : Word) (s : State),
    (let h := s.hbm
     let thr := fun (i : Nat) => ((h.thr.toNat / 2 ^ (8 * i) % 256 : Nat) : Int)
     let old := h.sensors.get n
     (∃ u, Machine.exec (.thermalSample n temp) s = .next u
       ∧ (let x := u.hbm.sensors.get n
          let reached : Nat := if thr 3 ≤ temp.toInt then 3 else if thr 2 ≤ temp.toInt then 2 else if thr 1 ≤ temp.toInt then 1 else 0
          let below := temp.toInt < thr old.level.val - ((h.thr.toNat / 2 ^ 32 % 16 : Nat) : Int)
          x.temp = temp ∧ x.valid = true
          ∧ (old.level.val < reached → x.level.val = reached)
          ∧ (reached ≤ old.level.val → old.level ≠ 0 → below → x.level.val + 1 = old.level.val)
          ∧ (reached ≤ old.level.val → (old.level = 0 ∨ ¬below) → x.level = old.level)
          ∧ (x.hot = true ↔ old.hot = true ∨ thr 3 ≤ temp.toInt))
       ∧ (∀ m, m ≠ n → u.hbm.sensors.get m = h.sensors.get m)
       ∧ (let k := stackOfSensor n
          let on := fun (pa : Nat) => targetOf pa = some .hbm ∧ stackOf (cgOf pa) = k
          (u.hbm.level k = 3 → (h.stack.get k).powered = true →
            (u.hbm.stack.get k).powered = false
            ∧ (∀ g : Fin 32, g.val / 4 = n.val / 16 → u.pf.readyCg.getLsbD g.val = false)
            ∧ (∀ pa, (on pa → u.mem.get pa = Memory.empty.get pa) ∧ (¬on pa → u.mem.get pa = s.mem.get pa))
            ∧ (∀ l ∈ u.launches, ∀ p, s.part l.q = some p → (∃ g : Fin 32, g.val / 4 = n.val / 16 ∧ p.clusters.getLsbD g.val = true) →
                 l.ending.isSome = true))
          ∧ (u.hbm.level k ≠ 3 → u.mem = s.mem ∧ u.launches = s.launches ∧ u.pf = s.pf)
          ∧ (h.level k ≠ u.hbm.level k → s.mgmt.evmask.getLsbD 1 = false → u.mgmt.evstat.getLsbD 1 = true)
          ∧ (let z := (u.hbm.stack.get k).zone
             (h.stack.get k).zone ≠ z → z ≠ .band → s.mgmt.evmask.getLsbD 0 = false → u.mgmt.evstat.getLsbD 0 = true))))
    ∧ (s.hbm.level k = 2 → (∃ y ∈ s.hbm.layers k, y.valid = true ∧ ((s.hbm.thr.toNat / 2 ^ 16 % 256 : Nat) : Int) ≤ y.temp.toInt) →
        ∃ u, Machine.exec (.level2Escalation k) s = .next u ∧ (u.hbm.stack.get k).halfIdle = true ∧ u.mem = s.mem)
    ∧ (s.hbm.srIdle.get pc ≠ 0 → pseudoBusy s pc = false → Machine.exec (.selfRefreshEntry pc) s
        = .next { s with hbm := { s.hbm with asleep := setBit s.hbm.asleep pc.val true } })
    ∧ (let lim := fun (i : Instr) (x : Fin 32) (ev : Bool) => Machine.exec i s
          = .next (if ev then ({ s with lim := x } : State).event 2 0 x.val else { s with lim := x })
       (s.lim = 16 → lim .limiterEngage 8 true ∧ lim .limiterStepDown 15 true ∧ lim .limiterStepUp 16 false)
       ∧ (s.lim.val < 16 → s.lim ≠ 15 → lim .limiterStepUp (s.lim + 1) false)
       ∧ (s.lim = 15 → lim .limiterStepUp 16 true)
       ∧ (s.lim.val < 16 → lim .limiterEngage 8 false)
       ∧ (1 < s.lim.val → s.lim.val < 16 → lim .limiterStepDown (s.lim - 1) false)
       ∧ (s.lim = 1 → lim .limiterStepDown 1 false))
    ∧ (let b := fun (i : Nat) => v.toNat / 2 ^ (8 * i) % 256
       let t3 := Nat.min 105 (b 3)
       let hy := if v.toNat / 2 ^ 32 % 16 = 0 then 1 else v.toNat / 2 ^ 32 % 16
       (b 0 ≤ b 1 → b 1 < b 2 → b 2 < t3 → ∃ u, Machine.exec (.hbmThr v) s = .next u
          ∧ u.hbm.thr = BitVec.ofNat 64 (b 0 + 2 ^ 8 * b 1 + 2 ^ 16 * b 2 + 2 ^ 24 * t3 + 2 ^ 32 * hy)
          ∧ u.hbm.sensors = s.hbm.sensors ∧ u.mgmt = s.mgmt)
       ∧ (¬(b 0 ≤ b 1 ∧ b 1 < b 2 ∧ b 2 < t3) → Machine.exec (.hbmThr v) s = .next s))

/-! ### The host port (spec/15_host_security.md, spec/16_memory_power.md) -/

/-- R410, R415, R416: an aperture access translates in the context of APCTL; where a step of R391 fails it
is logged and completes with Completer Abort, and a walk that is lost gives no reply; a plain page answers and takes its
bytes; a page that is encrypted and not HOSTVIS answers with the bytes as they stand in DRAM; an AtomicOp writes what atom
or cas would and answers the old value; without a partition reads are all ones. These points are the model's choice: the
translation is from the tables alone, a request to a stack without power gives no reply (log 30), and a request behind
another, or whose walk or line a slice holds, waits in order (logs 30 and 64).

R6, R7, R410, R411, R413, R424, R440: a host write takes its register's fields; the rest of them keep; a
write of a read-only register, given by its offset, changes nothing; a write-only register and reserved fields
read 0, and a function without a partition reads all ones; FEATACC is writable until GO; GO holds the 1 that was
written, and accepts what was offered or fails, once; what is frozen by a locked interface keeps its value, and the change
moves the interface to ERROR; a write of a head or of a size writes the entries that wait for room, and with nothing
waiting only the register. These points are the model's choice: a base drops its low five bits, and a ring size that is
no power of two from 16 to 65,536 is ignored (log 31), and bit 96 of an MSI-X entry is its mask (log 9). -/
def Obligations.HostPort : Prop :=
  (∀ (q : Fin 32) (off n : Nat) (bytes : List Byte) (op : AtomOp) (b8 : Bool) (v cmp : Word) (p : Partition) (s : State),
     (let ctl := (s.vfs.get q).apctl.toNat
      let va := ctl / 2 ^ 36 % 2 ^ 20 * 2 ^ 36 + off
      let m := mctxOf q (Fin.ofNat 4 (ctl % 4))
      let w := if b8 then 8 else 4
      let rd := Machine.exec (.apertureRead q off n) s
      let wr := Machine.exec (.apertureWrite q off bytes) s
      let add := Machine.exec (.apertureAtomicop q off op false b8 v cmp) s
      let cas := Machine.exec (.apertureAtomicop q off op true b8 v cmp) s
      let u := s.passWalk m va
      (s.part q = none →
         rd = .next { s with reply := .data (List.replicate n 0xFF) (List.replicate n false) } ∧ wr = .next s)
      ∧ (s.part q = some p → s.aper ≠ [] →
         rd = .next { s with aper := s.aper ++ [⟨q, off, .read n⟩], reply := .none }
         ∧ wr = .next { s with aper := s.aper ++ [⟨q, off, .write bytes⟩], reply := .none })
      ∧ (s.part q = some p → s.aper = [] → ∀ t, s.walkStep m va = some t →
         rd = .next { t with aper := [⟨q, off, .read n⟩], reply := .none }
         ∧ wr = .next { t with aper := [⟨q, off, .write bytes⟩], reply := .none })
      ∧ (s.part q = some p → s.aper = [] → s.walkStep m va = none →
         (∀ step c d, u.retranslate m .read va = .fault step c d → rd = .next (if c = 0x12 then { u with reply := .none }
            else { u.logError 0 3 (16 + step) 16 0 va with reply := .abort }))
         ∧ (∀ step c d, u.retranslate m .write va = .fault step c d → wr = .next (if c = 0x12 then { u with reply := .none }
            else { u.logError 0 3 (16 + step) 16 0 va with reply := .abort }))
         ∧ (∀ l, u.retranslate m .read va = .missing l → rd = .next { u.logError 0 3 19 16 0 va with reply := .abort })
         ∧ (∀ l, u.retranslate m .write va = .missing l → wr = .next { u.logError 0 3 19 16 0 va with reply := .abort })
         ∧ (∀ x, u.retranslate m .read va = .ok x →
             (let raw := x.enc && !s.keys.any (fun k => k.slot.val == x.slot && k.hostvis)
              let cp : Fin 4 := if raw then 3 else 0
              (u.reachable x.pa = false → rd = .next { u with reply := .none })
              ∧ (u.reachable x.pa = true → u.mayEnter x.pa n cp = false →
                  rd = .next { u.askLines x.pa n cp m .plain with aper := [⟨q, off, .read n⟩], reply := .none })
              ∧ (u.reachable x.pa = true → u.mayEnter x.pa n cp = true → targetOf x.pa = some .hbm →
                  ∃ t, rd = .next t ∧ t.mem = s.mem ∧ t.lineKeys = s.lineKeys ∧ t.aper = []
                    ∧ t.reply = .data (s.bytesAt (if raw then none else x.key) x.pa n) (s.mem.readPoison x.pa n))))
         ∧ (∀ x, u.retranslate m .write va = .ok x → x.enc = false → x.key = none → targetOf x.pa = some .hbm → u.reachable x.pa = true →
             u.mayEnter x.pa bytes.length 0 = true → (∀ l, s.lineKey l = none) →
             ∃ t, wr = .next t ∧ t.reply = .done ∧ t.aper = []
               ∧ t.mem = s.mem.writeMasked x.pa bytes (List.replicate bytes.length true))
         ∧ (s.featured 2 = false → add = .next { s with reply := .unsupported })
         ∧ (s.featured 2 = true → off % w ≠ 0 → cas = .next { s with reply := .abort })
         ∧ (s.featured 2 = true → off % w = 0 → (∀ x, u.retranslate m .rmw va = .ok x → x.enc = false → u.reachable x.pa = true →
             u.mayEnter x.pa w 0 = true →
             (let t := u.touch x.pa w 0 m .rmw
              (op = .add ∨ op = .swap →
                 (let r := t.rmwPa x.key x.pa w (fun o => some (if op = .swap then v.toNat % 2 ^ (8 * w) else (o + v.toNat) % 2 ^ (8 * w)))
                  add = .next { r.2.2 with reply := .data r.1 r.2.1 }))
              ∧ (let r := t.rmwPa x.key x.pa w (fun o => if o = cmp.toNat % 2 ^ (8 * w) then some (v.toNat % 2 ^ (8 * w)) else none)
                 cas = .next { r.2.2 with reply := .data r.1 r.2.1 }))))))) ∧
  (∀ (q : Fin 32) (k : Fin 4) (port : Fin 16) (v : Word) (p : Partition) (s : State), s.part q = some p →
     (let w := fun (r : HostReg) => Machine.exec (.registerWrite r v) s
      let vf := fun (f : Vf → Vf) => (Host.Outcome.next (s.modVf q f) : Out)
      w (.cqBase q) = vf (fun x => { x with cq := { x.cq with base := v &&& ~~~31#64 } })
      ∧ w (.fqBase q) = vf (fun x => { x with fq := { x.fq with base := v &&& ~~~31#64 } })
      ∧ (∀ i, 4 ≤ i → i ≤ 16 → v.toNat = 2 ^ i →
           ((s.vfs.get q).cq.wait = [] → w (.cqSize q) = vf (fun x => { x with cq := { x.cq with size := v } }))
           ∧ ((s.vfs.get q).fq.wait = [] → w (.fqSize q) = vf (fun x => { x with fq := { x.fq with size := v } })))
      ∧ ((∀ i, 4 ≤ i → i ≤ 16 → v.toNat ≠ 2 ^ i) → w (.cqSize q) = .next s ∧ w (.fqSize q) = .next s)
      ∧ (∀ x e, x = (s.vfs.get q).cq → x.wait = [e] → (x.tail + 1) % v.toNat ≠ x.head % v.toNat → v.toNat = 16 →
           ((s.vfs.get q).table.get 0).getLsbD 96 = false →
           ∃ u, w (.cqSize q) = .next u ∧ u.hostMem = s.hostMem.write (x.base.toNat + 32 * x.tail) e
             ∧ (u.vfs.get q).cq.tail = (x.tail + 1) % 16 ∧ (u.vfs.get q).msix = (s.vfs.get q).msix ++ [0])
      ∧ (∀ off : BitVec 16, off.toNat ∈ [0x40, 0x98, 0xD8, 0x180, 0x188, 0x2000] → w (.vfOffset q off) = .next s)
      ∧ (∀ off : BitVec 16, off.toNat ∈ [0x400, 0x480, 0x488, 0x490, 0x498, 0x4A0, 0x4C0, 0x4C8, 0x4D0, 0x4D8, 0x4E0, 0xC40] →
           w (.pfOffset off) = .next s)
      ∧ (s.vfRead q 0 = 0 ∧ s.vfRead q 0x108 = 0 ∧ (s.vfRead q 0x40).toNat < 2 ^ 40 ∧ (s.vfRead q 0x180).toNat < 2 ^ 4
         ∧ (s.vfRead q 0x40).toNat % 2 ^ 8 = (s.vfs.get q).status.toNat ∧ s.vfRead q 0x140 = (s.vfs.get q).apctl)
      ∧ (∀ x off, s.part x = none → s.vfRead x off = BitVec.allOnes 64)
      ∧ w (.frToken q) = vf (fun x => { x with frToken := v })
      ∧ (let ap : Word := BitVec.ofNat 64 (v.toNat % 4 + 2 ^ 36 * (v.toNat / 2 ^ 36 % 2 ^ 20))
         let t := (s.vfs.get q).tdi
         (t ≠ .locked → t ≠ .run → w (.apCtl q) = vf (fun x => { x with apctl := ap })
            ∧ ∀ j, w (.bar q j) = vf (fun x => { x with bars := vset x.bars j v }))
         ∧ (t = .locked ∨ t = .run →
            (ap ≠ (s.vfs.get q).apctl → ∃ u, w (.apCtl q) = .next u ∧ (u.vfs.get q).tdi = .error
               ∧ (u.vfs.get q).apctl = (s.vfs.get q).apctl ∧ u.mem = s.mem)
            ∧ (∀ j, v ≠ (s.vfs.get q).bars.get j → ∃ u, w (.bar q j) = .next u ∧ (u.vfs.get q).tdi = .error
               ∧ (u.vfs.get q).bars = (s.vfs.get q).bars ∧ u.mem = s.mem)))
      ∧ (s.pf.featDone = false → s.pf.featErr = false →
           w (.featAcc k) = .next { s with pf := { s.pf with featAcc := vset s.pf.featAcc k v } }
           ∧ (∀ a, s.pf.featAcc = #v[a, 0, 0, 0] → a.toNat < 64 → Machine.exec .featctlGo s
               = .next { s with pf := { s.pf with featGo := true, featDone := true } })
           ∧ (∀ a b c d, s.pf.featAcc = #v[a, b, c, d] → (64 ≤ a.toNat ∨ b ≠ 0 ∨ c ≠ 0 ∨ d ≠ 0) → Machine.exec .featctlGo s
               = .next { s with pf := { s.pf with featGo := true, featErr := true } }))
      ∧ (s.pf.featDone = true → w (.featAcc k) = .next s ∧ Machine.exec .featctlGo s = .next { s with pf := { s.pf with featGo := true } })
      ∧ (s.pfRead 0x440).toNat = (if s.pf.featGo then 1 else 0) + (if s.pf.featDone then 2 else 0) + (if s.pf.featErr then 4 else 0)
      ∧ (∃ u, w .pkgId = .next u ∧ (s.pf.pkgid.getLsbD 8 = true → u.pf.pkgid = s.pf.pkgid)
           ∧ (s.pf.pkgid.getLsbD 8 = false → u.pf.pkgid = BitVec.ofNat 64 (v.toNat % 64 + 2 ^ 8 * (v.toNat / 2 ^ 8 % 2))))
      ∧ (s.launches.any (fun l => l.onPort port) = false → ∃ u, w (.lnkMap port) = .next u
           ∧ u.pf.lnkmap.get port = BitVec.ofNat 64 (v.toNat % 64 + 2 ^ 8 * (v.toNat / 2 ^ 8 % 16) + 2 ^ 16 * (v.toNat / 2 ^ 16 % 2)))
      ∧ ((s.vfs.get q).cq.wait = [] → Machine.exec (.cqhead q false v) s
           = .next (s.modVf q (fun x => { x with cq := { x.cq with head := v.toNat } })))
      ∧ ((s.vfs.get q).fq.wait = [] → Machine.exec (.cqhead q true v) s
           = .next (s.modVf q (fun x => { x with fq := { x.fq with head := v.toNat } })))
      ∧ (let r := (s.vfs.get q).cq
         ∀ e, r.wait = [e] → r.size ≠ 0 → (r.tail + 1) % r.size.toNat ≠ v.toNat % r.size.toNat →
           ((s.vfs.get q).table.get 0).getLsbD 96 = false →
           ∃ u, Machine.exec (.cqhead q false v) s = .next u ∧ u.hostMem = s.hostMem.write (r.base.toNat + 32 * r.tail) e
             ∧ (u.vfs.get q).cq.tail = (r.tail + 1) % r.size.toNat ∧ (u.vfs.get q).cq.wait = []
             ∧ (u.vfs.get q).msix = (s.vfs.get q).msix ++ [0])))

/-- R418, R419, R432, R439, R441: an available unit becomes ready, and another one does not; after power-on and after a
device reset every register is at its reset value but the availability map and the leaves, which go on at the next
unreserved one, the root secret is derived and the management core runs the firmware image that it has verified; what host
memory holds stays, and after a device reset HBM, scratchpads, code and matrix banks. These points are the model's choice:
the values that a register without a reset value in the spec takes (logs 1 and 2), that both steps end with the management
core's boot done (log 38), and the form of the firmware image (log 66). -/
def Obligations.ReadinessAndReset : Prop :=
  ∀ (i g : Fin 32) (r : Fin 128) (k : Fin 18) (s : State),
    (let ready := fun (u : ReadyUnit) (p : Pf0) => Machine.exec (.functionReady u) s = .next { s with pf := p }
     (s.pf.availCl.getLsbD i.val = true → ready (.cluster i) { s.pf with readyCl := setBit s.pf.readyCl i.val true })
     ∧ (s.pf.availCl.getLsbD i.val = false → ready (.cluster i) s.pf)
     ∧ (s.pf.availRg.getLsbD r.val = true → ready (.region r) { s.pf with readyRg := setBit s.pf.readyRg r.val true })
     ∧ (s.pf.availRg.getLsbD r.val = false → ready (.region r) s.pf)
     ∧ (s.pf.availCg.getLsbD g.val = true → (s.hbm.stack.get (stackOf g)).powered = true →
          ready (.group g) { s.pf with readyCg := setBit s.pf.readyCg g.val true })
     ∧ (s.pf.availCg.getLsbD g.val = false ∨ (s.hbm.stack.get (stackOf g)).powered = false → ready (.group g) s.pf)
     ∧ (s.pf.availLn.getLsbD k.val = true ∨ 16 ≤ k.val →
          ready (.misc k) { s.pf with readyMisc := setBit s.pf.readyMisc k.val true })
     ∧ (s.pf.availLn.getLsbD k.val = false → k.val < 16 → ready (.misc k) s.pf))
    ∧ (let boot : State := { State.reset with
         leaves := { s.leaves with idNext := s.leaves.idRes, alNext := s.leaves.alRes }
         hostMem := s.hostMem
         root := Config.rootSecret
         mgmt := Mgmt.booted Config.firmware
         pf := { Pf0.reset with availCl := s.pf.availCl, availRg := s.pf.availRg, availCg := s.pf.availCg, availLn := s.pf.availLn } }
       Machine.exec .powerOn s = .next boot
       ∧ (∃ u, Machine.exec .deviceReset s = .next u
          ∧ u = { boot with mem := s.mem, lineKeys := s.lineKeys, tiles := u.tiles }
          ∧ (∀ t, u.tiles.get t = { Machine.Tile.reset with
              scratch := (s.tiles.get t).scratch, imem := (s.tiles.get t).imem, banks := (s.tiles.get t).banks })))

/-! ### Attestation, keys, interfaces and partitions (spec/15_host_security.md) -/

/-- R419, R420: the answers of the responder: each signed answer takes the next leaf of an alias key, one that the
identity key certifies with a leaf of its own where none has a leaf left, and carries the signature over its nonce;
digests, certificates and the answer to CHALLENGE are of the chain of the identity and the alias key; KEY_EXCHANGE needs
an identity leaf and the negotiated algorithms, and opens a session in place of an earlier one, FINISH completes it,
END_SESSION ends it; a measurement is the one of its index; any other request is unsupported. These points are the model's
choice: messages are answered in any order, an offer without the algorithms and an index beyond 4 are answered
Unspecified, and GET_VERSION keeps a session (log 35); keys, signatures and hashes are uninterpreted (log 6).

R421, R422, Table 15.5: in the session of its function KEYLOAD loads an owned empty slot with the
unwrapped key and answers 0, or 1, 2, 3; KEYSTAT answers 0, 4 or 5; KEYERASE empties the slot and answers 0,
but not before the requests that hold the slot have completed; both wait behind the earlier key requests of their slot.
That the slot is empty at once while the answer is withheld is the model's choice (log 36). -/
def Obligations.AttestationAndKeys : Prop :=
  (∀ (r : SignedRequest) (ix : Nat) (s : State),
     (let f := r.f
      let x := s.responder f
      let lv := s.leaves
      let next (t : State) (g : Spdm → Spdm) : Out := .next (t.modSpdm f g)
      let put := fun (g : Spdm → Spdm) => next s (fun y => { g y with answer := .ok })
      let res := fun (n m : Nat) => if n < m then m else Nat.min (2 ^ 20) (m + 1024)
      let ready : Option Leaves := if lv.aliases ≠ 0 ∧ lv.alNext < 2 ^ 20 then some lv
        else if lv.idNext < 2 ^ 20 then some ⟨lv.idNext + 1, res lv.idNext lv.idRes, lv.aliases + 1, lv.idNext, 0, 0⟩ else none
      let refused := fun (i : Instr) => Machine.exec i s = next s (fun y => { y with answer := .unspecified })
      Machine.exec (.getVersion f) s = put (fun y => { y with version := true })
      ∧ Machine.exec (.getCapabilities f) s = put (fun y => { y with caps := true })
      ∧ Machine.exec (.negotiateAlgorithms f true) s = put (fun y => { y with algs := true })
      ∧ Machine.exec (.negotiateAlgorithms f false) s = next s (fun y => { y with algs := false, answer := .unspecified })
      ∧ (∀ l, ready = some l →
          (let key := Config.aliasKey s.root (l.aliases - 1)
           let chain := Config.identityCert ++ Config.aliasCert (Config.identityKey s.root) l.idLeaf key
           let signed : State := { s with leaves := { l with alNext := l.alNext + 1, alRes := res l.alNext l.alRes } }
           let sig := fun (code index : Nat) => Config.spdmSign key l.alNext (fnIndex f).val code index r.nonce
           Machine.exec (.getDigests f) s = next { s with leaves := l } (fun y => { y with answer := .digest (Config.chainHash chain) })
           ∧ Machine.exec (.getCertificate f) s = next { s with leaves := l } (fun y => { y with answer := .certificate chain })
           ∧ Machine.exec (.challenge r) s
               = next signed (fun y => { y with answer := .digest (Config.chainHash chain), sig := sig 0 0 })
           ∧ (lv.idNext < 2 ^ 20 → x.algs = true → Machine.exec (.keyExchange r) s = next signed (fun y =>
                { y with session := 1, number := y.number + 1, updates := 0, answer := .ok, sig := sig 2 0 }))
           ∧ (1 ≤ ix → ix ≤ 3 → Machine.exec (.getMeasurements r ix) s
                = next signed (fun y => { y with answer := .digest (Config.measurement ix), sig := sig 1 ix }))
           ∧ (f = .pf → Machine.exec (.getMeasurements r 4) s = next signed (fun y => { y with answer := .empty, sig := sig 1 4 }))
           ∧ (∀ q p, f = .vf q → s.part q = some p → Machine.exec (.getMeasurements r 4) s = next signed (fun y => { y with
                 answer := .partition p.clusters p.keys (Config.keyHash p.owner) (s.vfs.get q).tdi, sig := sig 1 4 }))))
      ∧ (ready = none → refused (.getDigests f) ∧ refused (.getCertificate f) ∧ refused (.challenge r)
          ∧ (1 ≤ ix → ix ≤ 4 → refused (.getMeasurements r ix)))
      ∧ (ix = 0 ∨ 4 < ix → refused (.getMeasurements r ix))
      ∧ (2 ^ 20 ≤ lv.idNext ∨ x.algs = false → refused (.keyExchange r))
      ∧ (x.session = 1 → Machine.exec (.finish f) s = put (fun y => { y with session := 2 }))
      ∧ (x.session ≠ 1 → refused (.finish f))
      ∧ (x.session = 2 → Machine.exec (.heartbeat f) s = put id
           ∧ Machine.exec (.keyUpdate f) s = put (fun y => { y with updates := y.updates + 1 })
           ∧ Machine.exec (.endSession f) s = put (fun y => { y with session := 0, updates := 0 }))
      ∧ (x.session ≠ 2 → refused (.heartbeat f) ∧ refused (.keyUpdate f) ∧ refused (.endSession f))
      ∧ Machine.exec (.unsupportedRequest f) s = next s (fun y => { y with answer := .unsupported }))) ∧
  (∀ (q : Fin 32) (slot : Fin 4096) (hv : Bool) (wr : BitVec 576) (p : Partition) (s : State),
     (s.responder (.vf q)).session = 2 → s.part q = some p →
     (let st := fun (t : State) (a : Answer) => (Host.Outcome.next (t.modSpdm (.vf q) (fun x => { x with answer := a })) : Out)
      let held := s.keys.find? (fun k => k.slot == slot)
      let load := Machine.exec (.keyload q slot hv wr) s
      let erase := Machine.exec (.keyerase q slot) s
      let number := (s.responder (.vf q)).number
      let busy := s.erasing.any (fun j => KeyJob.slot j == slot)
      (p.keys.contains slot = false → load = st s (.status 1) ∧ erase = st s (.status 1)
         ∧ Machine.exec (.keystat q slot) s = st s (.status 1))
      ∧ (p.keys.contains slot = true → busy = true →
         load = st { s with erasing := s.erasing ++ [.load q slot hv wr number] } .none
         ∧ erase = st { s with erasing := s.erasing ++ [.erase q slot none [] true] } .none)
      ∧ (p.keys.contains slot = true → busy = false →
         (held ≠ none → load = st s (.status 2))
         ∧ (held = none →
             load = (match Config.unwrapKey q.val number wr with
                  | none => st s (.status 3)
                  | some k => st { s with keys := s.keys ++ [⟨slot, k, hv⟩] } (.status 0))
             ∧ erase = st s (.status 0) ∧ Machine.exec (.keystat q slot) s = st s (.status 0))
         ∧ (∀ k, held = some k → Machine.exec (.keystat q slot) s = st s (.status (if k.hostvis then 5 else 4))
              ∧ ∃ u, erase = .next u ∧ u.keys = s.keys.filter (fun x => x.slot != slot) ∧ u.mem = s.mem
              ∧ (keyInUse s k.key = false → (u.responder (.vf q)).answer = .status 0 ∧ u.erasing = s.erasing)
              ∧ (keyInUse s k.key = true → (u.responder (.vf q)).answer = .none
                   ∧ u.erasing = s.erasing ++ [.erase q slot (some k.key) [] true])))))

/-- R417, R423, R436, R440, R441: IDE_KM keys a stream in an open session; LOCK_INTERFACE locks, and the row stands for
the request that starts a locked interface; a TDI that leaves its lock ends its launches, and every key slot of its
partition is empty or to be erased once those have completed; a partition is created when its units are available and no
other partition has them or its keys, with its units zeroed and the window of its channel groups, and destroying it takes
it and its keys away; without the feature the request is unsupported. These points are the model's choice: the features
that IDE_KM and TDISP need (log 36), the window of a new partition, and the state RUN that LOCK_INTERFACE leads
to (log 37). -/
def Obligations.InterfacesAndPartitions : Prop :=
  ∀ (q : Fin 32) (f : PciFn) (stream : Fin 33) (er : Bool) (cl : BitVec 32) (ks : List (Fin 4096)) (peer host : Bool)
    (owner : BitVec 256) (area : Word) (s : State),
    (let lock := fun (start : Bool) => Machine.exec (.lockInterface ⟨q, start⟩) s
     let vf := fun (g : Vf → Vf) (a : Answer) => (Host.Outcome.next ((s.modVf q g).modSpdm (.vf q) (fun x => { x with answer := a })) : Out)
     let tdi := (s.vfs.get q).tdi
     let create := Machine.exec (.partitionCreate q cl ks peer host owner area) s
     let cleared := fun (u : State) (n : Fin 4096) => (∀ k ∈ u.keys, k.slot ≠ n) ∨ u.erasing.any (fun j => KeyJob.slot j == n) = true
     (s.featured 0 = false → Machine.exec (.ideKm f stream) s = .next (s.modSpdm f (fun x => { x with answer := .unsupported })))
     ∧ (s.featured 0 = true → (s.responder f).session = 2 → (f = .pf ∨ stream ≠ 0) → Machine.exec (.ideKm f stream) s
         = .next (({ s with ide := setBit s.ide stream.val true } : State).modSpdm f (fun x => { x with answer := .ok })))
     ∧ (s.featured 1 = false → lock false = vf id .unsupported ∧ lock true = vf id .unsupported)
     ∧ (s.featured 1 = true →
         (tdi = .unlocked → lock false = vf (fun x => { x with tdi := .locked }) .ok ∧ lock true = vf id .unspecified)
         ∧ (tdi = .locked → lock true = vf (fun x => { x with tdi := .run }) .ok ∧ lock false = vf id .unspecified)
         ∧ (tdi = .run ∨ tdi = .error → lock true = vf id .unspecified ∧ lock false = vf id .unspecified))
     ∧ ((tdi = .locked ∨ tdi = .run) → ∃ u, Machine.exec (.tdiUnlock q er) s = .next u
         ∧ (u.vfs.get q).tdi = (if er then .error else .unlocked)
         ∧ (∀ l ∈ u.launches, l.q = q → l.ending.isSome = true)
         ∧ (∀ p, s.part q = some p → ∀ n ∈ p.keys, cleared u n
              ∧ (s.erasing = [] → (∀ l ∈ s.launches, l.q ≠ q) → ∀ k ∈ u.keys, k.slot ≠ n)) ∧ u.mem = s.mem)
     ∧ (s.part q = none → cl ≠ 0 → (cl &&& ~~~s.pf.availCl) = 0 → (cl &&& s.pf.availCg) ≠ 0 →
         (∀ p ∈ s.parts, (p.clusters &&& cl) = 0 ∧ ∀ k ∈ p.keys, k ∉ ks) → (∀ j ∈ s.erasing, KeyJob.slot j ∉ ks) →
         ∃ u, create = .next u
           ∧ u.parts = s.parts ++ [⟨q, cl, ks, peer, host, owner, area⟩]
           ∧ (∀ k ∈ u.keys, k.slot ∉ ks)
           ∧ u.xltWin = vset s.xltWin q (BitVec.ofNat 64 ((cl &&& s.pf.availCg).toNat + (if peer then 2 ^ 32 else 0) + (if host then 2 ^ 33 else 0)))
           ∧ (∀ t : Fin 256, cl.getLsbD (t.val / 8) = true → (u.tiles.get t).scratch = Memory.empty ∧ (u.tiles.get t).imem = [])
           ∧ (∀ t : Fin 256, cl.getLsbD (t.val / 8) = false → u.tiles.get t = s.tiles.get t)
           ∧ u.mem = s.mem ∧ u.mgmt.requests = s.mgmt.requests + 1)
     ∧ ((s.part q).isSome = true → ∃ u, create = .next u
           ∧ u.parts = s.parts ∧ u.keys = s.keys ∧ u.tiles = s.tiles ∧ u.mem = s.mem)
     ∧ (∀ p, s.part q = some p → ∃ u, Machine.exec (.partitionDestroy q) s = .next u ∧ u.part q = none
           ∧ (∀ n ∈ p.keys, cleared u n ∧ (s.erasing = [] → ∀ k ∈ u.keys, k.slot ≠ n))
           ∧ (tdi = .locked ∨ tdi = .run → (u.vfs.get q).tdi = .error)))

/-! ### Frames -/

/-- R54, R57, R99, R384: a register word that answers a next state — with its effect, held, predicated
off, or with a trap — leaves every register but its destinations as it was, with its poison, every other
context, and every byte of memory but the trap record.

R256, R257, R263, R270, R384: a word that addresses global memory changes no register and no byte of memory
when it issues, but the trap record, and but the destination of a gather without an active element: its access
is performed later, at the home of its address. -/
def Obligations.WordFrames : Prop :=
  (∀ (i : Instr) (ds : List RegId) (s t : State), registerDests i = some ds → Machine.exec i s = .next t →
     KeepsRegisters ds s.me (t.ctx s.cur) ∧ KeepsMemory s t ∧ KeepsOthers s t
       ∧ (¬(s.cur = .mgmt ∧ targetOf s.me.trapbase.toNat = some .host) → t.hostMem = s.hostMem)
       ∧ t.launches = s.launches ∧ t.parts = s.parts ∧ t.keys = s.keys ∧ t.regions = s.regions ∧ t.groups = s.groups) ∧
  (∀ (i : Instr) (s t : State), globalWord i = true → Machine.exec i s = .next t →
     KeepsRegisters (match i with | .vgath _ d _ _ _ => [.v d] | _ => []) s.me (t.ctx s.cur) ∧ KeepsMemory s t ∧ (∀ g, g ≠ s.cur → t.ctx g = s.ctx g) ∧ t.keys = s.keys
)
end

