-- ==== Sys2Proof/Laws/Mem.lean ====
section
/-! SUPPORT. The laws of memory: a read after a write, and that every operation keeps the canonical
form. -/

namespace Sys2Proof.Machine

theorem cellsWf_mono {lo lo' : Nat} {m : List Host.Cell} (h : lo' ≤ lo) (w : cellsWf lo m = true) : cellsWf lo' m = true := by
  cases m with
  | nil => rfl
  | cons x r =>
    obtain ⟨a, b⟩ := x
    simp only [cellsWf, Bool.and_eq_true, decide_eq_true_eq] at *
    exact ⟨⟨by omega, w.1.2⟩, w.2⟩

theorem natsWf_mono {lo lo' : Nat} {p : List Nat} (h : lo' ≤ lo) (w : natsWf lo p = true) : natsWf lo' p = true := by
  cases p with
  | nil => rfl
  | cons a r =>
    simp only [natsWf, Bool.and_eq_true, decide_eq_true_eq] at *
    exact ⟨by omega, w.2⟩

/-- No cell below the bound is listed. -/
theorem cellGet_below {lo : Nat} {m : List Host.Cell} (w : cellsWf lo m = true) {a : Nat} (h : a < lo) : cellGet m a = 0 := by
  induction m generalizing lo with
  | nil => rfl
  | cons x r ih =>
    obtain ⟨b, c⟩ := x
    simp only [cellsWf, Bool.and_eq_true, decide_eq_true_eq] at w
    simp only [cellGet]
    rw [if_neg (by omega)]
    exact ih w.2 (by omega)

theorem cellsWf_cons {lo a : Nat} {b : Byte} {r : List Host.Cell} :
    cellsWf lo ((a, b) :: r) = true ↔ lo ≤ a ∧ b ≠ 0 ∧ cellsWf (a + 1) r = true := by
  simp only [cellsWf, Bool.and_eq_true, decide_eq_true_eq, bne_iff_ne, and_assoc]

theorem cellSet_wf {lo : Nat} {m : List Host.Cell} (w : cellsWf lo m = true) {a : Nat} (h : lo ≤ a) (b : Byte) :
    cellsWf lo (cellSet m a b) = true := by
  induction m generalizing lo with
  | nil =>
    simp only [cellSet]
    split
    · rfl
    · rename_i hb; exact cellsWf_cons.2 ⟨h, hb, rfl⟩
  | cons x r ih =>
    obtain ⟨c, d⟩ := x
    obtain ⟨w1, w2, w3⟩ := cellsWf_cons.1 w
    simp only [cellSet]
    split
    · rename_i h1
      split
      · exact w
      · rename_i hb; exact cellsWf_cons.2 ⟨h, hb, cellsWf_cons.2 ⟨h1, w2, w3⟩⟩
    · split
      · split
        · exact cellsWf_mono (by omega) w3
        · rename_i hb; exact cellsWf_cons.2 ⟨w1, hb, w3⟩
      · rename_i h1 h2; exact cellsWf_cons.2 ⟨w1, w2, ih w3 (by omega)⟩

/-- A read after a write of one byte. -/
theorem cellGet_cellSet {lo : Nat} {m : List Host.Cell} (w : cellsWf lo m = true) (a x : Nat) (b : Byte) :
    cellGet (cellSet m a b) x = if x = a then b else cellGet m x := by
  induction m generalizing lo with
  | nil =>
    simp only [cellSet]
    split
    · rename_i hb; simp only [cellGet, hb, ite_self]
    · simp only [cellGet, eq_comm]
  | cons y r ih =>
    obtain ⟨c, d⟩ := y
    obtain ⟨w1, w2, w3⟩ := cellsWf_cons.1 w
    simp only [cellSet]
    split
    · rename_i h1
      split
      · rename_i hb
        split
        · rename_i hx; rw [cellGet_below (cellsWf_cons.2 ⟨Nat.le_refl c, w2, w3⟩) (hx ▸ h1), hb]
        · rfl
      · rw [cellGet]; simp only [eq_comm]
    · split
      · rename_i h1 h2
        subst h2
        split
        · rename_i hb
          split
          · rename_i hx; subst hx; rw [cellGet_below w3 (by omega), hb]
          · rename_i hx; rw [cellGet, if_neg (fun e => hx e.symm)]
        · simp only [cellGet]
          by_cases hx : x = a
          · rw [if_pos hx, if_pos hx.symm]
          · rw [if_neg hx, if_neg (fun e => hx e.symm), if_neg (fun e => hx e.symm)]
      · rename_i h1 h2
        simp only [cellGet, ih w3]
        by_cases hc : c = x
        · rw [if_pos hc, if_neg (fun e => h2 (e ▸ hc).symm), if_pos hc]
        · simp only [if_neg hc]

theorem cellsWrite_wf {m : List Host.Cell} (w : cellsWf 0 m = true) (a : Nat) (bs : List Byte) :
    cellsWf 0 (cellsWrite m a bs) = true := by
  induction bs generalizing m a with
  | nil => exact w
  | cons b bs ih => exact ih (cellSet_wf w (Nat.zero_le a) b) (a + 1)

theorem cellsWriteMasked_wf {m : List Host.Cell} (w : cellsWf 0 m = true) (a : Nat) (bs : List Byte) (ks : List Bool) :
    cellsWf 0 (cellsWriteMasked m a bs ks) = true := by
  induction bs generalizing m a ks with
  | nil => cases ks <;> exact w
  | cons b bs ih =>
    cases ks with
    | nil => exact w
    | cons k ks =>
      simp only [cellsWriteMasked]
      cases k
      · exact ih w (a + 1) ks
      · exact ih (cellSet_wf w (Nat.zero_le a) b) (a + 1) ks

/-- A read after a write of bytes. -/
theorem cellGet_cellsWrite {m : List Host.Cell} (w : cellsWf 0 m = true) (a : Nat) (bs : List Byte) (x : Nat) :
    cellGet (cellsWrite m a bs) x = if a ≤ x ∧ x < a + bs.length then bs.getD (x - a) 0 else cellGet m x := by
  induction bs generalizing m a with
  | nil => simp [cellsWrite]
  | cons b bs ih =>
    simp only [cellsWrite]
    rw [ih (cellSet_wf w (Nat.zero_le a) b), cellGet_cellSet w]
    by_cases h0 : x = a
    · subst h0; simp
    · rw [if_neg h0]
      simp only [List.length_cons]
      by_cases h1 : a + 1 ≤ x ∧ x < a + 1 + bs.length
      · rw [if_pos h1, if_pos (by omega), show x - a = (x - (a + 1)) + 1 by omega]; rfl
      · rw [if_neg h1, if_neg (by omega)]

theorem natInsert_wf {lo : Nat} {p : List Nat} (w : natsWf lo p = true) {x : Nat} (h : lo ≤ x) :
    natsWf lo (natInsert p x) = true := by
  induction p generalizing lo with
  | nil => simp [natInsert, natsWf, h]
  | cons a r ih =>
    simp only [natsWf, Bool.and_eq_true, decide_eq_true_eq] at w
    obtain ⟨w1, w2⟩ := w
    simp only [natInsert]
    by_cases h1 : x < a
    · rw [if_pos h1]; simp [natsWf, h, w2]; omega
    · rw [if_neg h1]
      by_cases h2 : x = a
      · rw [if_pos h2]; simp [natsWf, w1, w2]
      · rw [if_neg h2]; simp only [natsWf, Bool.and_eq_true, decide_eq_true_eq]; exact ⟨w1, ih w2 (by omega)⟩

theorem natsWf_filter {lo : Nat} {p : List Nat} (w : natsWf lo p = true) (f : Nat → Bool) :
    natsWf lo (p.filter f) = true := by
  induction p generalizing lo with
  | nil => rfl
  | cons a r ih =>
    simp only [natsWf, Bool.and_eq_true, decide_eq_true_eq] at w
    rw [List.filter_cons]
    by_cases hf : f a = true
    · rw [if_pos hf]; simp only [natsWf, Bool.and_eq_true, decide_eq_true_eq]; exact ⟨w.1, ih w.2⟩
    · rw [if_neg hf]; exact natsWf_mono (by omega) (ih w.2)

theorem natInsert_mem {p : List Nat} {x y : Nat} : y ∈ natInsert p x ↔ y = x ∨ y ∈ p := by
  induction p with
  | nil => simp [natInsert]
  | cons a r ih =>
    simp only [natInsert]
    by_cases h1 : x < a
    · simp [h1]
    · by_cases h2 : x = a
      · subst h2; simp
      · simp [h1, h2, ih]; constructor <;> (rintro (h | h | h) <;> simp [h])

/-! ### The operations of a memory -/

theorem wf_iff {m : Memory} : m.wf = true ↔ cellsWf 0 m.cells = true ∧ natsWf 0 m.poison = true := by
  simp [Memory.wf]

@[simp] theorem empty_wf : Memory.empty.wf = true := rfl

theorem write_wf {m : Memory} (w : m.wf = true) (a : Nat) (bs : List Byte) : (m.write a bs).wf = true := by
  rw [wf_iff] at *; exact ⟨cellsWrite_wf w.1 a bs, natsWf_filter w.2 _⟩

theorem writeNat_wf {m : Memory} (w : m.wf = true) (a n v : Nat) : (m.writeNat a n v).wf = true := write_wf w a _

theorem writeMasked_wf {m : Memory} (w : m.wf = true) (a : Nat) (bs : List Byte) (ks : List Bool) :
    (m.writeMasked a bs ks).wf = true := by
  rw [wf_iff] at *; exact ⟨cellsWriteMasked_wf w.1 a bs ks, natsWf_filter w.2 _⟩

theorem poisonSector_wf {m : Memory} (w : m.wf = true) (sec : Nat) : (m.poisonSector sec).wf = true := by
  rw [wf_iff] at *; exact ⟨w.1, natInsert_wf w.2 (Nat.zero_le _)⟩

theorem healBits_wf {m : Memory} (w : m.wf = true) (xs : List (Nat × Nat)) : (m.healBits xs).wf = true := by
  rw [wf_iff] at *; exact ⟨w.1, natsWf_filter w.2 _⟩

theorem healSector_wf {m : Memory} (w : m.wf = true) (sec : Nat) : (m.healSector sec).wf = true := by
  rw [wf_iff] at *; exact ⟨w.1, natsWf_filter w.2 _⟩

theorem poisonRange_wf {m : Memory} (w : m.wf = true) (a n : Nat) : (m.poisonRange a n).wf = true := by
  simp only [Memory.poisonRange]
  split
  · exact w
  rw [wf_iff] at *
  refine ⟨w.1, ?_⟩
  generalize List.range _ = l
  have h := w.2
  revert h
  generalize m.poison = p
  induction l generalizing p with
  | nil => exact id
  | cons i l ih => exact fun h => ih _ (natInsert_wf h (Nat.zero_le _))

theorem writePoison_wf {m : Memory} (w : m.wf = true) (a : Nat) (bs : List Byte) (po : List Bool) :
    (m.writePoison a bs po).wf = true := by
  simp only [Memory.writePoison]
  generalize List.range _ = l
  have h := write_wf w a bs
  revert h
  generalize m.write a bs = x
  induction l generalizing x with
  | nil => exact id
  | cons i l ih =>
    intro h
    refine ih _ ?_
    beta_reduce
    split
    · exact poisonSector_wf h _
    · exact h

/-- A read after a write. -/
theorem write_get {m : Memory} (w : m.wf = true) (a : Nat) (bs : List Byte) (x : Nat) :
    (m.write a bs).get x = if a ≤ x ∧ x < a + bs.length then bs.getD (x - a) 0 else m.get x :=
  cellGet_cellsWrite (wf_iff.1 w).1 a bs x

/-- A write heals exactly the sectors it covers. -/
theorem write_poisoned (m : Memory) (a : Nat) (bs : List Byte) (x : Nat) : (m.write a bs).poisoned x
    = (m.poisoned x && !(decide (a ≤ x / 32 * 32) && decide (x / 32 * 32 + 32 ≤ a + bs.length))) := by
  simp only [Memory.poisoned, Memory.write, healCovered, List.contains_eq_mem]
  rw [Bool.eq_iff_iff]
  simp [List.mem_filter]

theorem poisonSector_get (m : Memory) (sec x : Nat) : (m.poisonSector sec).get x = m.get x := rfl

end Sys2Proof.Machine
end

