-- ==== Sys2Proof/Laws/Issue.lean ====
section
/-! SUPPORT. What the issue of a word can do, said once: every path of issue, and the path on which
the word takes effect. -/

namespace Sys2Proof.Machine

/-- What the effect of a word answers, as an outcome. -/
def Eff.out (e : Eff) (chk : List RegId) (s : State) : Out :=
  match e with
  | .trap cause detail addr => .next (trapped s chk cause detail addr)
  | .hold => .next s
  | .wait f => .next (f s)
  | .done t => .next (t.retire s.cur s.me.pc)
  | .goto t pc => .next (t.retireTo s.cur pc)
  | .stay t => .next t

@[simp] theorem out_trap (chk : List RegId) (s : State) (c d a : Nat) :
    (Eff.trap c d a).out chk s = .next (trapped s chk c d a) := rfl
@[simp] theorem out_hold (chk : List RegId) (s : State) : Eff.hold.out chk s = .next s := rfl
@[simp] theorem out_wait (chk : List RegId) (s : State) (f : State → State) :
    (Eff.wait f).out chk s = .next (f s) := rfl
@[simp] theorem out_done (chk : List RegId) (s t : State) :
    (Eff.done t).out chk s = .next (t.retire s.cur s.me.pc) := rfl
@[simp] theorem out_goto (chk : List RegId) (s t : State) (pc : Pc) :
    (Eff.goto t pc).out chk s = .next (t.retireTo s.cur pc) := rfl
@[simp] theorem out_stay (chk : List RegId) (s t : State) :
    (Eff.stay t).out chk s = .next t := rfl

/-- An issued word's own effect decides (R39, R47, R57). -/
theorem issue_ready {i : Instr} {s : State} (h : ready i s = true) (chk : List RegId) (eff : State → Eff) :
    issue i chk s eff = (eff (s.takeWait s.cur i)).out chk s := by
  simp only [ready, State.me, Bool.and_eq_true, Bool.or_eq_true, beq_iff_eq, Bool.not_eq_true',
    Option.isNone_iff_eq_none] at h
  obtain ⟨⟨⟨⟨⟨h1, h2⟩, h4⟩, h5⟩, h3⟩, h6⟩ := h
  have h0 : ¬((s.ctx s.cur).phase ≠ .running ∧ (s.ctx s.cur).phase ≠ .inHandler) := by
    rintro ⟨a, b⟩; rcases h1 with h1 | h1 <;> contradiction
  simp only [issue, if_neg h0, h2, h3, h4, h5, h6, Bool.false_eq_true, if_false, Bool.not_true]
  cases eff (s.takeWait s.cur i) <;> rfl

/-- A context that executes nothing issues nothing. -/
theorem issue_inactive {i : Instr} {s : State} (h1 : s.me.phase ≠ .running) (h2 : s.me.phase ≠ .inHandler)
    (chk : List RegId) (eff : State → Eff) : issue i chk s eff = .next s := by
  simp only [issue]; rw [if_pos ⟨h1, h2⟩]

/-- The interlock holds the word (R57, R100, R170). -/
theorem issue_interlocked {i : Instr} {s : State} (h : s.interlocked s.cur i = true) (chk : List RegId)
    (eff : State → Eff) : issue i chk s eff = .next s := by
  simp only [issue, h, if_true]; split <;> rfl

/-- An owed fault is delivered at the word (R239, R385). -/
theorem issue_owed {i : Instr} {s : State} {o : Owed} (h1 : s.me.phase = .running ∨ s.me.phase = .inHandler)
    (h2 : s.interlocked s.cur i = false) (h4 : predHolds s.me i = true) (h5 : s.waitReady s.cur i = true)
    (h3 : s.due s.cur i = some o) (chk : List RegId) (eff : State → Eff) :
    issue i chk s eff = .next (takeTrap (s.modCtx s.cur (fun x => { x with owed := none })) s.cur chk
      o.cause o.detail o.addr (some o.by_)) := by
  have h0 : ¬((s.ctx s.cur).phase ≠ .running ∧ (s.ctx s.cur).phase ≠ .inHandler) := by
    rintro ⟨a, b⟩; rcases h1 with h1 | h1 <;> contradiction
  have h4' : predHolds (s.ctx s.cur) i = true := h4
  simp only [issue, if_neg h0, h2, Bool.false_eq_true, if_false, h3, h4', h5, Bool.not_true, takeOwed]

/-- A word whose predicate is false takes an owed fault like any other (R385). -/
theorem issue_false_owed {i : Instr} {s : State} {o : Owed} (h1 : s.me.phase = .running ∨ s.me.phase = .inHandler)
    (h2 : s.interlocked s.cur i = false) (h4 : predHolds s.me i = false) (h3 : s.me.owedAny = some o)
    (chk : List RegId) (eff : State → Eff) :
    issue i chk s eff = .next (takeTrap (s.modCtx s.cur (fun x => { x with owed := none })) s.cur chk
      o.cause o.detail o.addr (some o.by_)) := by
  have h0 : ¬((s.ctx s.cur).phase ≠ .running ∧ (s.ctx s.cur).phase ≠ .inHandler) := by
    rintro ⟨a, b⟩; rcases h1 with h1 | h1 <;> contradiction
  have h4' : predHolds (s.ctx s.cur) i = false := h4
  have h3' : (s.ctx s.cur).owedAny = some o := h3
  simp only [issue, if_neg h0, h2, Bool.false_eq_true, if_false, h4', h3', Bool.not_false, if_true, takeOwed]

/-- A word whose predicate is false, with no fault owed, occupies its issue slot and has no effect (R39). -/
theorem issue_false {i : Instr} {s : State} (h1 : s.me.phase = .running ∨ s.me.phase = .inHandler)
    (h2 : s.interlocked s.cur i = false) (h4 : predHolds s.me i = false) (h3 : s.me.owedAny = none)
    (chk : List RegId) (eff : State → Eff) : issue i chk s eff = .next (s.retire s.cur s.me.pc) := by
  have h0 : ¬((s.ctx s.cur).phase ≠ .running ∧ (s.ctx s.cur).phase ≠ .inHandler) := by
    rintro ⟨a, b⟩; rcases h1 with h1 | h1 <;> contradiction
  have h4' : predHolds (s.ctx s.cur) i = false := h4
  have h3' : (s.ctx s.cur).owedAny = none := h3
  simp only [issue, if_neg h0, h2, Bool.false_eq_true, if_false, h4', h3', Bool.not_false, if_true]
  rfl

/-- The wait clause holds the word (R47). -/
theorem issue_waits {i : Instr} {s : State} (h1 : s.me.phase = .running ∨ s.me.phase = .inHandler)
    (h2 : s.interlocked s.cur i = false) (h4 : predHolds s.me i = true) (h5 : s.waitReady s.cur i = false)
    (chk : List RegId) (eff : State → Eff) : issue i chk s eff = .next s := by
  have h0 : ¬((s.ctx s.cur).phase ≠ .running ∧ (s.ctx s.cur).phase ≠ .inHandler) := by
    rintro ⟨a, b⟩; rcases h1 with h1 | h1 <;> contradiction
  have h4' : predHolds (s.ctx s.cur) i = true := h4
  simp only [issue, if_neg h0, h2, Bool.false_eq_true, if_false, h4', Bool.not_true, h5, Bool.not_false, if_true]

/-- An open relayout holds the word (R213). -/
theorem issue_unacked {i : Instr} {s : State} (h1 : s.me.phase = .running ∨ s.me.phase = .inHandler)
    (h2 : s.interlocked s.cur i = false) (h4 : predHolds s.me i = true) (h5 : s.waitReady s.cur i = true)
    (h3 : s.due s.cur i = none) (h6 : (waitsForAcks i && s.unacked s.cur) = true)
    (chk : List RegId) (eff : State → Eff) : issue i chk s eff = .next s := by
  have h0 : ¬((s.ctx s.cur).phase ≠ .running ∧ (s.ctx s.cur).phase ≠ .inHandler) := by
    rintro ⟨a, b⟩; rcases h1 with h1 | h1 <;> contradiction
  have h4' : predHolds (s.ctx s.cur) i = true := h4
  simp only [issue, if_neg h0, h2, Bool.false_eq_true, if_false, h3, h4', Bool.not_true, h5, h6, if_true]

/-- Every path of the issue of a word. -/
theorem issue_cases (i : Instr) (chk : List RegId) (s : State) (eff : State → Eff) :
    issue i chk s eff = .next s ∨ issue i chk s eff = .next (s.retire s.cur s.me.pc)
    ∨ (∃ o, (s.due s.cur i = some o ∨ s.me.owedAny = some o) ∧ issue i chk s eff = .next (takeTrap (s.modCtx s.cur (fun x => { x with owed := none }))
        s.cur chk o.cause o.detail o.addr (some o.by_)))
    ∨ (ready i s = true ∧ issue i chk s eff = (eff (s.takeWait s.cur i)).out chk s) := by
  by_cases h0 : s.me.phase = .running ∨ s.me.phase = .inHandler
  · cases h1 : s.interlocked s.cur i
    · cases h3 : predHolds s.me i
      · cases h2 : s.me.owedAny with
        | some o => exact .inr (.inr (.inl ⟨o, .inr rfl, issue_false_owed h0 h1 h3 h2 chk eff⟩))
        | none => exact .inr (.inl (issue_false h0 h1 h3 h2 chk eff))
      · cases h4 : s.waitReady s.cur i
        · exact .inl (issue_waits h0 h1 h3 h4 chk eff)
        · cases h2 : s.due s.cur i with
          | some o => exact .inr (.inr (.inl ⟨o, .inl rfl, issue_owed h0 h1 h3 h4 h2 chk eff⟩))
          | none =>
            cases h5 : waitsForAcks i && s.unacked s.cur
            · have hr : ready i s = true := by
                have h0' : (s.me.phase == .running || s.me.phase == .inHandler) = true := by simpa using h0
                simp only [ready, h0', h1, h2, h3, h4, h5, Bool.not_false, Option.isNone_none, Bool.and_self]
              exact .inr (.inr (.inr ⟨hr, issue_ready hr chk eff⟩))
            · exact .inl (issue_unacked h0 h1 h3 h4 h2 h5 chk eff)
    · exact .inl (issue_interlocked h1 chk eff)
  · rw [not_or] at h0
    exact .inl (issue_inactive h0.1 h0.2 chk eff)

/-- A word without a wait clause takes nothing. -/
theorem takeWait_none {i : Instr} (h : i.clauses.wn = 0) (s : State) : s.takeWait s.cur i = s := by
  simp only [State.takeWait, h, if_true]

/-- Some check fails. -/
theorem orTrap_some {cs : List (Option (Nat × Nat × Nat))} {t : Nat × Nat × Nat} (h : cs.findSome? id = some t) (k : Eff) :
    orTrap cs k = .trap t.1 t.2.1 t.2.2 := by simp only [orTrap, h]

/-- Every check passes. -/
theorem orTrap_none {cs : List (Option (Nat × Nat × Nat))} (h : cs.findSome? id = none) (k : Eff) : orTrap cs k = k := by
  simp only [orTrap, h]

/-- A word answers a next state whenever its effect does. -/
theorem issue_next (i : Instr) (chk : List RegId) (s : State) (eff : State → Eff) : ∃ t, issue i chk s eff = .next t := by
  rcases issue_cases i chk s eff with h | h | ⟨o, -, h⟩ | ⟨-, h⟩
  · exact ⟨_, h⟩
  · exact ⟨_, h⟩
  · exact ⟨_, h⟩
  · rw [h]; cases eff (s.takeWait s.cur i) <;> exact ⟨_, rfl⟩

end Sys2Proof.Machine
end

