-- ==== Sys2Proof/Laws/Words.lean ====
section
/-! SUPPORT. Every word issues in the one way that issue describes: what holds of every word follows
from the lemmas about issue, once. -/

namespace Sys2Proof.Machine

/-- Firmware's words issue on the management core, and every other word anywhere (R52, R402). -/
theorem privileged_pass {i : Instr} {op : Nat} {s : State} (h : s.cur = .mgmt ∨ firmwareOnly i = false)
    (k : State → Out) : privileged i op s k = k s := by
  unfold privileged; rw [if_neg]; rintro ⟨-, h1, h2⟩; rcases h with h | h <;> simp_all

/-- The outcome is that of an issue of the word. -/
def Issues (i : Instr) (s : State) (o : Out) : Prop := ∃ chk eff, o = issue i chk s eff

/-- An issue is one. -/
theorem issues_issue (i : Instr) (s : State) (chk : List RegId) (eff : State → Eff) : Issues i s (issue i chk s eff) :=
  ⟨chk, eff, rfl⟩

/-- Every word is an issue, whatever its operands. -/
theorem exec_issues (i : Instr) (s : State) (hw : i.isWord = true) (hp : s.cur = .mgmt ∨ firmwareOnly i = false) :
    Issues i s (exec i s) := by
  cases i with
  | nop op rest => show Issues _ s (execNop op rest s); unfold execNop; exact issues_issue _ _ _ _
  | add h d a b ty sat => show Issues _ s (execAdd h d a b ty sat s); unfold execAdd scalar2; exact issues_issue _ _ _ _
  | sub h d a b ty sat => show Issues _ s (execSub h d a b ty sat s); unfold execSub scalar2; exact issues_issue _ _ _ _
  | mul h d a b ty sat => show Issues _ s (execMul h d a b ty sat s); unfold execMul scalar2; exact issues_issue _ _ _ _
  | mulh h d a b ty => show Issues _ s (execMulh h d a b ty s); unfold execMulh scalar2; exact issues_issue _ _ _ _
  | div h d a b ty => show Issues _ s (execDiv h d a b ty s); unfold execDiv scalar2; exact issues_issue _ _ _ _
  | rem h d a b ty => show Issues _ s (execRem h d a b ty s); unfold execRem scalar2; exact issues_issue _ _ _ _
  | min h d a b ty => show Issues _ s (execMin h d a b ty s); unfold execMin scalar2; exact issues_issue _ _ _ _
  | max h d a b ty => show Issues _ s (execMax h d a b ty s); unfold execMax scalar2; exact issues_issue _ _ _ _
  | and h d a b ty => show Issues _ s (execAnd h d a b ty s); unfold execAnd scalar2; exact issues_issue _ _ _ _
  | or h d a b ty => show Issues _ s (execOr h d a b ty s); unfold execOr scalar2; exact issues_issue _ _ _ _
  | xor h d a b ty => show Issues _ s (execXor h d a b ty s); unfold execXor scalar2; exact issues_issue _ _ _ _
  | andn h d a b ty => show Issues _ s (execAndn h d a b ty s); unfold execAndn scalar2; exact issues_issue _ _ _ _
  | shl h d a b ty => show Issues _ s (execShl h d a b ty s); unfold execShl scalar2; exact issues_issue _ _ _ _
  | shr h d a b ty => show Issues _ s (execShr h d a b ty s); unfold execShr scalar2; exact issues_issue _ _ _ _
  | sar h d a b ty => show Issues _ s (execSar h d a b ty s); unfold execSar scalar2; exact issues_issue _ _ _ _
  | rol h d a b ty => show Issues _ s (execRol h d a b ty s); unfold execRol scalar2; exact issues_issue _ _ _ _
  | cmp h cond d c a b ty => show Issues _ s (execCmp h cond d c a b ty s); unfold execCmp; exact issues_issue _ _ _ _
  | clz h d a ty => show Issues _ s (execClz h d a ty s); unfold execClz scalar1; exact issues_issue _ _ _ _
  | ctz h d a ty => show Issues _ s (execCtz h d a ty s); unfold execCtz scalar1; exact issues_issue _ _ _ _
  | popc h d a ty => show Issues _ s (execPopc h d a ty s); unfold execPopc scalar1; exact issues_issue _ _ _ _
  | bswap h d a ty => show Issues _ s (execBswap h d a ty s); unfold execBswap scalar1; exact issues_issue _ _ _ _
  | sext h d a b => show Issues _ s (execSext h d a b s); unfold execSext scalar1; exact issues_issue _ _ _ _
  | addi h d a imm => show Issues _ s (execAddi h d a imm s); unfold execAddi scalar1; exact issues_issue _ _ _ _
  | muli h d a imm => show Issues _ s (execMuli h d a imm s); unfold execMuli scalar1; exact issues_issue _ _ _ _
  | andi h d a imm => show Issues _ s (execAndi h d a imm s); unfold execAndi scalar1; exact issues_issue _ _ _ _
  | ori h d a imm => show Issues _ s (execOri h d a imm s); unfold execOri scalar1; exact issues_issue _ _ _ _
  | xori h d a imm => show Issues _ s (execXori h d a imm s); unfold execXori scalar1; exact issues_issue _ _ _ _
  | shli h d a n => show Issues _ s (execShli h d a n s); unfold execShli scalar1; exact issues_issue _ _ _ _
  | shri h d a n => show Issues _ s (execShri h d a n s); unfold execShri scalar1; exact issues_issue _ _ _ _
  | sari h d a n => show Issues _ s (execSari h d a n s); unfold execSari scalar1; exact issues_issue _ _ _ _
  | cmpi h cond d a ty imm => show Issues _ s (execCmpi h cond d a ty imm s); unfold execCmpi; exact issues_issue _ _ _ _
  | ldi h d imm => show Issues _ s (execLdi h d imm s); unfold execLdi scalar0; exact issues_issue _ _ _ _
  | ldih h d a imm => show Issues _ s (execLdih h d a imm s); unfold execLdih scalar1; exact issues_issue _ _ _ _
  | lea h d a b sh disp => show Issues _ s (execLea h d a b sh disp s); unfold execLea scalar2; exact issues_issue _ _ _ _
  | sel h d c a b => show Issues _ s (execSel h d c a b s); unfold execSel; exact issues_issue _ _ _ _
  | movSS h d a => show Issues _ s (execMovSS h d a s); unfold execMovSS scalar1; exact issues_issue _ _ _ _
  | movPS h d a => show Issues _ s (execMovPS h d a s); unfold execMovPS; exact issues_issue _ _ _ _
  | movSP h d a => show Issues _ s (execMovSP h d a s); unfold execMovSP scalar0; exact issues_issue _ _ _ _
  | movKS h d a => show Issues _ s (execMovKS h d a s); unfold execMovKS; exact issues_issue _ _ _ _
  | movSK h d a => show Issues _ s (execMovSK h d a s); unfold execMovSK scalar0; exact issues_issue _ _ _ _
  | movKK h d a => show Issues _ s (execMovKK h d a s); unfold execMovKK; exact issues_issue _ _ _ _
  | bra h cond a off => show Issues _ s (execBra h cond a off s); unfold execBra; exact issues_issue _ _ _ _
  | call h a off => show Issues _ s (execCall h a off s); unfold execCall; exact issues_issue _ _ _ _
  | jmp h d a => show Issues _ s (execJmp h d a s); unfold execJmp; exact issues_issue _ _ _ _
  | ret h a => show Issues _ s (execRet h a s); unfold execRet; exact issues_issue _ _ _ _
  | pset h d v => show Issues _ s (execPset h d v s); unfold execPset; exact issues_issue _ _ _ _
  | pand h d a b na nb => show Issues _ s (execPand h d a b na nb s); unfold execPand; exact issues_issue _ _ _ _
  | por h d a b na nb => show Issues _ s (execPor h d a b na nb s); unfold execPor; exact issues_issue _ _ _ _
  | pxor h d a b na nb => show Issues _ s (execPxor h d a b na nb s); unfold execPxor; exact issues_issue _ _ _ _
  | pnot h d a => show Issues _ s (execPnot h d a s); unfold execPnot; exact issues_issue _ _ _ _
  | epop h x slot n1 cl => show Issues _ s (execEpop h x slot n1 cl s); unfold execEpop; exact issues_issue _ _ _ _
  | epeek h x slot z n1 cl => show Issues _ s (execEpeek h x slot z n1 cl s); unfold execEpeek; exact issues_issue _ _ _ _
  | epush h x slot n1 cl => show Issues _ s (execEpush h x slot n1 cl s); unfold execEpush; exact issues_issue _ _ _ _
  | eeos h slot cl => show Issues _ s (execEeos h slot cl s); unfold execEeos; exact issues_issue _ _ _ _
  | estat h x slot cl => show Issues _ s (execEstat h x slot cl s); unfold execEstat; exact issues_issue _ _ _ _
  | tqsig h tq n cl => show Issues _ s (execTqsig h tq n cl s); unfold execTqsig; exact issues_issue _ _ _ _
  | tqwait h cl => show Issues _ s (execTqwait h cl s); unfold execTqwait; exact issues_issue _ _ _ _
  | tqrd h x tq cl => show Issues _ s (execTqrd h x tq cl s); unfold execTqrd; exact issues_issue _ _ _ _
  | endF h => show Issues _ s (execEndF h s); unfold execEndF; exact issues_issue _ _ _ _
  | actena h a => show Issues _ s (execActena h a s); unfold execActena; exact issues_issue _ _ _ _
  | actdis h a => show Issues _ s (execActdis h a s); unfold execActdis; exact issues_issue _ _ _ _
  | gjoin h x y cl => show Issues _ s (execGjoin h x y cl s); unfold execGjoin groupInstr; exact issues_issue _ _ _ _
  | gleave h arr y cl => show Issues _ s (execGleave h arr y cl s); unfold execGleave groupInstr; exact issues_issue _ _ _ _
  | garrive h x y cl => show Issues _ s (execGarrive h x y cl s); unfold execGarrive groupInstr; exact issues_issue _ _ _ _
  | gwait h y z cl => show Issues _ s (execGwait h y z cl s); unfold execGwait groupInstr; exact issues_issue _ _ _ _
  | gbar h x y cl => show Issues _ s (execGbar h x y cl s); unfold execGbar groupInstr; exact issues_issue _ _ _ _
  | gred h op ty x y z cl => show Issues _ s (execGred h op ty x y z cl s); unfold execGred groupInstr; exact issues_issue _ _ _ _
  | launch h x y cl => show Issues _ s (execLaunch h x y cl s); unfold execLaunch; exact issues_issue _ _ _ _
  | vadd h d a b k ty sat => show Issues _ s (execVadd h d a b k ty sat s); unfold execVadd vec2 vecMasked vecInto; exact issues_issue _ _ _ _
  | vsub h d a b k ty sat => show Issues _ s (execVsub h d a b k ty sat s); unfold execVsub vec2 vecMasked vecInto; exact issues_issue _ _ _ _
  | vmul h d a b k ty sat => show Issues _ s (execVmul h d a b k ty sat s); unfold execVmul vec2 vecMasked vecInto; exact issues_issue _ _ _ _
  | vmulh h d a b k ty => show Issues _ s (execVmulh h d a b k ty s); unfold execVmulh vec2 vecMasked vecInto; exact issues_issue _ _ _ _
  | vmin h d a b k ty => show Issues _ s (execVmin h d a b k ty s); unfold execVmin vec2 vecMasked vecInto; exact issues_issue _ _ _ _
  | vmax h d a b k ty => show Issues _ s (execVmax h d a b k ty s); unfold execVmax vec2 vecMasked vecInto; exact issues_issue _ _ _ _
  | vabs h d a k ty sat => show Issues _ s (execVabs h d a k ty sat s); unfold execVabs vec1 vecMasked vecInto; exact issues_issue _ _ _ _
  | vneg h d a k ty sat => show Issues _ s (execVneg h d a k ty sat s); unfold execVneg vec1 vecMasked vecInto; exact issues_issue _ _ _ _
  | vaddFp h d a b k ty => show Issues _ s (execVaddFp h d a b k ty s); unfold execVaddFp vec2 vecMasked vecInto; exact issues_issue _ _ _ _
  | vsubFp h d a b k ty => show Issues _ s (execVsubFp h d a b k ty s); unfold execVsubFp vec2 vecMasked vecInto; exact issues_issue _ _ _ _
  | vmulFp h d a b k ty => show Issues _ s (execVmulFp h d a b k ty s); unfold execVmulFp vec2 vecMasked vecInto; exact issues_issue _ _ _ _
  | vminFp h d a b k ty => show Issues _ s (execVminFp h d a b k ty s); unfold execVminFp vec2 vecMasked vecInto; exact issues_issue _ _ _ _
  | vmaxFp h d a b k ty => show Issues _ s (execVmaxFp h d a b k ty s); unfold execVmaxFp vec2 vecMasked vecInto; exact issues_issue _ _ _ _
  | vabsFp h d a k ty => show Issues _ s (execVabsFp h d a k ty s); unfold execVabsFp vec1 vecMasked vecInto; exact issues_issue _ _ _ _
  | vnegFp h d a k ty => show Issues _ s (execVnegFp h d a k ty s); unfold execVnegFp vec1 vecMasked vecInto; exact issues_issue _ _ _ _
  | vfma h d a b c k ty => show Issues _ s (execVfma h d a b c k ty s); unfold execVfma vec3 vecMasked vecInto; exact issues_issue _ _ _ _
  | vfms h d a b c k ty => show Issues _ s (execVfms h d a b c k ty s); unfold execVfms vec3 vecMasked vecInto; exact issues_issue _ _ _ _
  | vfnma h d a b c k ty => show Issues _ s (execVfnma h d a b c k ty s); unfold execVfnma vec3 vecMasked vecInto; exact issues_issue _ _ _ _
  | vdot2 h d a b c k ty => show Issues _ s (execVdot2 h d a b c k ty s); unfold execVdot2 vec3 vecMasked vecInto; exact issues_issue _ _ _ _
  | vdot4 h d a b c k ty => show Issues _ s (execVdot4 h d a b c k ty s); unfold execVdot4 vec3 vecMasked vecInto; exact issues_issue _ _ _ _
  | vcmp h cond d a b k ty => show Issues _ s (execVcmp h cond d a b k ty s); unfold execVcmp; exact issues_issue _ _ _ _
  | vand h d a b k ty => show Issues _ s (execVand h d a b k ty s); unfold execVand vec2 vecMasked vecInto; exact issues_issue _ _ _ _
  | vor h d a b k ty => show Issues _ s (execVor h d a b k ty s); unfold execVor vec2 vecMasked vecInto; exact issues_issue _ _ _ _
  | vxor h d a b k ty => show Issues _ s (execVxor h d a b k ty s); unfold execVxor vec2 vecMasked vecInto; exact issues_issue _ _ _ _
  | vandn h d a b k ty => show Issues _ s (execVandn h d a b k ty s); unfold execVandn vec2 vecMasked vecInto; exact issues_issue _ _ _ _
  | vshl h d a b k ty => show Issues _ s (execVshl h d a b k ty s); unfold execVshl vec2 vecMasked vecInto; exact issues_issue _ _ _ _
  | vshr h d a b k ty => show Issues _ s (execVshr h d a b k ty s); unfold execVshr vec2 vecMasked vecInto; exact issues_issue _ _ _ _
  | vsar h d a b k ty => show Issues _ s (execVsar h d a b k ty s); unfold execVsar vec2 vecMasked vecInto; exact issues_issue _ _ _ _
  | vsel h d c a b ty => show Issues _ s (execVsel h d c a b ty s); unfold execVsel vecInto; exact issues_issue _ _ _ _
  | vcvt h d a k ty sty part => show Issues _ s (execVcvt h d a k ty sty part s); unfold execVcvt vecInto; exact issues_issue _ _ _ _
  | vqmx h d a c ty sty part => show Issues _ s (execVqmx h d a c ty sty part s); unfold execVqmx; exact issues_issue _ _ _ _
  | vdqmx h d a c k ty sty part => show Issues _ s (execVdqmx h d a c k ty sty part s); unfold execVdqmx vecMasked vecInto; exact issues_issue _ _ _ _
  | vexp2 h d a k => show Issues _ s (execVexp2 h d a k s); unfold execVexp2 vec1 vecMasked vecInto; exact issues_issue _ _ _ _
  | vlog2 h d a k => show Issues _ s (execVlog2 h d a k s); unfold execVlog2 vec1 vecMasked vecInto; exact issues_issue _ _ _ _
  | vrcp h d a k => show Issues _ s (execVrcp h d a k s); unfold execVrcp vec1 vecMasked vecInto; exact issues_issue _ _ _ _
  | vrsqrt h d a k => show Issues _ s (execVrsqrt h d a k s); unfold execVrsqrt vec1 vecMasked vecInto; exact issues_issue _ _ _ _
  | vsqrt h d a k => show Issues _ s (execVsqrt h d a k s); unfold execVsqrt vec1 vecMasked vecInto; exact issues_issue _ _ _ _
  | vperm h d a b k ty => show Issues _ s (execVperm h d a b k ty s); unfold execVperm vecMasked vecInto; exact issues_issue _ _ _ _
  | vperm2 h d a b c k ty => show Issues _ s (execVperm2 h d a b c k ty s); unfold execVperm2 vecMasked vecInto; exact issues_issue _ _ _ _
  | vbcast h d a k ty => show Issues _ s (execVbcast h d a k ty s); unfold execVbcast vecMasked vecInto; exact issues_issue _ _ _ _
  | vbcastl h d a b k ty => show Issues _ s (execVbcastl h d a b k ty s); unfold execVbcastl vecMasked vecInto; exact issues_issue _ _ _ _
  | vrot h d a b k ty => show Issues _ s (execVrot h d a b k ty s); unfold execVrot vecMasked vecInto; exact issues_issue _ _ _ _
  | vcompress h d a k ty => show Issues _ s (execVcompress h d a k ty s); unfold execVcompress vecInto; exact issues_issue _ _ _ _
  | vexpand h d a k ty => show Issues _ s (execVexpand h d a k ty s); unfold execVexpand vecMasked vecInto; exact issues_issue _ _ _ _
  | vext h d a idx ty => show Issues _ s (execVext h d a idx ty s); unfold execVext vecScalar; exact issues_issue _ _ _ _
  | vins h d a idx ty => show Issues _ s (execVins h d a idx ty s); unfold execVins vecInto; exact issues_issue _ _ _ _
  | vredsum h d a k ty => show Issues _ s (execVredsum h d a k ty s); unfold execVredsum vecScalar; exact issues_issue _ _ _ _
  | vredmin h d a k ty => show Issues _ s (execVredmin h d a k ty s); unfold execVredmin vecScalar; exact issues_issue _ _ _ _
  | vredmax h d a k ty => show Issues _ s (execVredmax h d a k ty s); unfold execVredmax vecScalar; exact issues_issue _ _ _ _
  | vredand h d a k ty => show Issues _ s (execVredand h d a k ty s); unfold execVredand vecScalar; exact issues_issue _ _ _ _
  | vredor h d a k ty => show Issues _ s (execVredor h d a k ty s); unfold execVredor vecScalar; exact issues_issue _ _ _ _
  | vredxor h d a k ty => show Issues _ s (execVredxor h d a k ty s); unfold execVredxor vecScalar; exact issues_issue _ _ _ _
  | vscan h op d a k ty sat => show Issues _ s (execVscan h op d a k ty sat s); unfold execVscan; exact issues_issue _ _ _ _
  | vargmax h d a k ty => show Issues _ s (execVargmax h d a k ty s); unfold execVargmax vecScalar; exact issues_issue _ _ _ _
  | vargmin h d a k ty => show Issues _ s (execVargmin h d a k ty s); unfold execVargmin vecScalar; exact issues_issue _ _ _ _
  | vrng h d a b k ty => show Issues _ s (execVrng h d a b k ty s); unfold execVrng vecMasked vecInto; exact issues_issue _ _ _ _
  | vptest h d a k => show Issues _ s (execVptest h d a k s); unfold execVptest vecMaskOut; exact issues_issue _ _ _ _
  | vldi h d imm => show Issues _ s (execVldi h d imm s); unfold execVldi vecFill vecInto; exact issues_issue _ _ _ _
  | vldiI64 h d imm => show Issues _ s (execVldiI64 h d imm s); unfold execVldiI64 vecFill vecInto; exact issues_issue _ _ _ _
  | viota h d imm => show Issues _ s (execViota h d imm s); unfold execViota vecFill vecInto; exact issues_issue _ _ _ _
  | kand h d a b => show Issues _ s (execKand h d a b s); unfold execKand vecMaskOut; exact issues_issue _ _ _ _
  | kor h d a b => show Issues _ s (execKor h d a b s); unfold execKor vecMaskOut; exact issues_issue _ _ _ _
  | kxor h d a b => show Issues _ s (execKxor h d a b s); unfold execKxor vecMaskOut; exact issues_issue _ _ _ _
  | kandn h d a b => show Issues _ s (execKandn h d a b s); unfold execKandn vecMaskOut; exact issues_issue _ _ _ _
  | knot h d a => show Issues _ s (execKnot h d a s); unfold execKnot vecMaskOut; exact issues_issue _ _ _ _
  | kpopc h d a => show Issues _ s (execKpopc h d a s); unfold execKpopc vecScalar; exact issues_issue _ _ _ _
  | kffs h d a => show Issues _ s (execKffs h d a s); unfold execKffs vecScalar; exact issues_issue _ _ _ _
  | hdef h d a g => show Issues _ s (execHdef h d a g s); unfold execHdef; exact issues_issue _ _ _ _
  | hld h d a off => show Issues _ s (execHld h d a off s); unfold execHld; exact issues_issue _ _ _ _
  | hst h d a g => show Issues _ s (execHst h d a g s); unfold execHst; exact issues_issue _ _ _ _
  | hinv h d all => show Issues _ s (execHinv h d all s); unfold execHinv; exact issues_issue _ _ _ _
  | ldt h d hr cbase ty k cp => show Issues _ s (execLdt h d hr cbase ty k cp s); unfold execLdt; exact issues_issue _ _ _ _
  | stt h d hr cbase ty k cp => show Issues _ s (execStt h d hr cbase ty k cp s); unfold execStt; exact issues_issue _ _ _ _
  | ldtb h d hr cbase ty k cp sc sr => show Issues _ s (execLdtb h d hr cbase ty k cp sc sr s); unfold execLdtb; exact issues_issue _ _ _ _
  | sttb h d hr cbase ty k cp sc sr => show Issues _ s (execSttb h d hr cbase ty k cp sc sr s); unfold execSttb; exact issues_issue _ _ _ _
  | hrelayout h d a hr tag cslot ctok nb => show Issues _ s (execHrelayout h d a hr tag cslot ctok nb s); unfold execHrelayout; exact issues_issue _ _ _ _
  | hwait h hr => show Issues _ s (execHwait h hr s); unfold execHwait; exact issues_issue _ _ _ _
  | hstat h d hr => show Issues _ s (execHstat h d hr s); unfold execHstat; exact issues_issue _ _ _ _
  | mma h ty m cl => show Issues _ s (execMma h ty m cl s); unfold execMma; exact issues_issue _ _ _ _
  | mmx h ty m cl => show Issues _ s (execMmx h ty m cl s); unfold execMmx; exact issues_issue _ _ _ _
  | mmi h f m cl => show Issues _ s (execMmi h f m cl s); unfold execMmi; exact issues_issue _ _ _ _
  | mmaG h ty m cl => show Issues _ s (execMmaG h ty m cl s); unfold execMmaG; exact issues_issue _ _ _ _
  | mmxG h ty m cl => show Issues _ s (execMmxG h ty m cl s); unfold execMmxG; exact issues_issue _ _ _ _
  | mgang h y gr gc gR gC q cl => show Issues _ s (execMgang h y gr gc gR gC q cl s); unfold execMgang; exact issues_issue _ _ _ _
  | mgangFree h q cl => show Issues _ s (execMgangFree h q cl s); unfold execMgangFree; exact issues_issue _ _ _ _
  | mcfg h shape sort cl => show Issues _ s (execMcfg h shape sort cl s); unfold execMcfg; exact issues_issue _ _ _ _
  | mzero h bank q cl => show Issues _ s (execMzero h bank q cl s); unfold execMzero; exact issues_issue _ _ _ _
  | mscaleRow h y bank q cl => show Issues _ s (execMscaleRow h y bank q cl s); unfold execMscaleRow; exact issues_issue _ _ _ _
  | mscaleCol h y bank q cl => show Issues _ s (execMscaleCol h y bank q cl s); unfold execMscaleCol; exact issues_issue _ _ _ _
  | mld h x bank hr ty q cl => show Issues _ s (execMld h x bank hr ty q cl s); unfold execMld; exact issues_issue _ _ _ _
  | mst h x bank hr ty q cl => show Issues _ s (execMst h x bank hr ty q cl s); unfold execMst; exact issues_issue _ _ _ _
  | mrow h x y bank ty half q cl => show Issues _ s (execMrow h x y bank ty half q cl s); unfold execMrow; exact issues_issue _ _ _ _
  | msort h x y q cl => show Issues _ s (execMsort h x y q cl s); unfold execMsort; exact issues_issue _ _ _ _
  | mtopk h x y k1 clr rd q cl => show Issues _ s (execMtopk h x y k1 clr rd q cl s); unfold execMtopk; exact issues_issue _ _ _ _
  | mstat h d sel => show Issues _ s (execMstat h d sel s); unfold execMstat; exact issues_issue _ _ _ _
  | ld h sx d sz m at_ => show Issues _ s (execLd h sx d sz m at_ s); unfold execLd oneAccess; exact issues_issue _ _ _ _
  | st h d sz m at_ => show Issues _ s (execSt h d sz m at_ s); unfold execSt oneAccess; exact issues_issue _ _ _ _
  | lds h sx d sz m => show Issues _ s (execLds h sx d sz m s); unfold execLds scratchAccess; exact issues_issue _ _ _ _
  | sts h d sz m => show Issues _ s (execSts h d sz m s); unfold execSts scratchAccess; exact issues_issue _ _ _ _
  | vld h d sz m at_ => show Issues _ s (execVld h d sz m at_ s); unfold execVld oneAccess; exact issues_issue _ _ _ _
  | vst h d sz m at_ => show Issues _ s (execVst h d sz m at_ s); unfold execVst oneAccess; exact issues_issue _ _ _ _
  | vlds h d sz m => show Issues _ s (execVlds h d sz m s); unfold execVlds scratchAccess; exact issues_issue _ _ _ _
  | vsts h d sz m => show Issues _ s (execVsts h d sz m s); unfold execVsts scratchAccess; exact issues_issue _ _ _ _
  | vgath h d b8 m cp => show Issues _ s (execVgath h d b8 m cp s); unfold execVgath; exact issues_issue _ _ _ _
  | vscat h d b8 m cp => show Issues _ s (execVscat h d b8 m cp s); unfold execVscat; exact issues_issue _ _ _ _
  | ldc h f d m => show Issues _ s (execLdc h f d m s); unfold execLdc; exact issues_issue _ _ _ _
  | pref h sz m cp => show Issues _ s (execPref h sz m cp s); unfold execPref; exact issues_issue _ _ _ _
  | prefConst h sz m => show Issues _ s (execPrefConst h sz m s); unfold execPrefConst; exact issues_issue _ _ _ _
  | atom h op d sz m at_ => show Issues _ s (execAtom h op d sz m at_ s); unfold execAtom oneAccess; exact issues_issue _ _ _ _
  | red h op d sz m at_ => show Issues _ s (execRed h op d sz m at_ s); unfold execRed oneAccess; exact issues_issue _ _ _ _
  | cas h d b8 m at_ => show Issues _ s (execCas h d b8 m at_ s); unfold execCas oneAccess; exact issues_issue _ _ _ _
  | xadd h r m scope rel => show Issues _ s (execXadd h r m scope rel s); unfold execXadd oneAccess; exact issues_issue _ _ _ _
  | xrd h d m scope acq => show Issues _ s (execXrd h d m scope acq s); unfold execXrd oneAccess; exact issues_issue _ _ _ _
  | xrdClr h d m scope ord => show Issues _ s (execXrdClr h d m scope ord s); unfold execXrdClr oneAccess; exact issues_issue _ _ _ _
  | fence h kind scope => show Issues _ s (execFence h kind scope s); unfold execFence; exact issues_issue _ _ _ _
  | cinv h => show Issues _ s (execCinv h s); unfold execCinv; exact issues_issue _ _ _ _
  | cinvLine h a => show Issues _ s (execCinvLine h a s); unfold execCinvLine; exact issues_issue _ _ _ _
  | sdef h x slot cl => show Issues _ s (execSdef h x slot cl s); unfold execSdef; exact issues_issue _ _ _ _
  | carm h x slot wm wmen cl => show Issues _ s (execCarm h x slot wm wmen cl s); unfold execCarm; exact issues_issue _ _ _ _
  | sgo h slot z cl => show Issues _ s (execSgo h slot z cl s); unfold execSgo; exact issues_issue _ _ _ _
  | sstop h slot cl => show Issues _ s (execSstop h slot cl s); unfold execSstop; exact issues_issue _ _ _ _
  | sstat h x slot sel cl => show Issues _ s (execSstat h x slot sel cl s); unfold execSstat; exact issues_issue _ _ _ _
  | cdis h slot cl => show Issues _ s (execCdis h slot cl s); unfold execCdis; exact issues_issue _ _ _ _
  | copy h x z wm wmen cl => show Issues _ s (execCopy h x z wm wmen cl s); unfold execCopy; exact issues_issue _ _ _ _
  | staload h x y slot cl => show Issues _ s (execStaload h x y slot cl s); unfold execStaload; exact issues_issue _ _ _ _
  | staloadUpd h x y slot cl => show Issues _ s (execStaloadUpd h x y slot cl s); unfold execStaloadUpd; exact issues_issue _ _ _ _
  | stafree h y slot cl => show Issues _ s (execStafree h y slot cl s); unfold execStafree; exact issues_issue _ _ _ _
  | stastat h x y slot sel cl => show Issues _ s (execStastat h x y slot sel cl s); unfold execStastat; exact issues_issue _ _ _ _
  | rgload h x y cl => show Issues _ s (execRgload h x y cl s); unfold execRgload; exact issues_issue _ _ _ _
  | rgswap h y cl => show Issues _ s (execRgswap h y cl s); unfold execRgswap; exact issues_issue _ _ _ _
  | rgswapForce h y cl => show Issues _ s (execRgswapForce h y cl s); unfold execRgswapForce; exact issues_issue _ _ _ _
  | rgsave h y cl => show Issues _ s (execRgsave h y cl s); unfold execRgsave; exact issues_issue _ _ _ _
  | rgrest h y cl => show Issues _ s (execRgrest h y cl s); unfold execRgrest; exact issues_issue _ _ _ _
  | rgclk h a f => show Issues _ s (execRgclk h a f s); unfold execRgclk; exact issues_issue _ _ _ _
  | rgfrz h a => show Issues _ s (execRgfrz h a s); unfold execRgfrz; exact issues_issue _ _ _ _
  | rgfrzDrain h a => show Issues _ s (execRgfrzDrain h a s); unfold execRgfrzDrain; exact issues_issue _ _ _ _
  | rgthaw h a => show Issues _ s (execRgthaw h a s); unfold execRgthaw; exact issues_issue _ _ _ _
  | rgstat h d a => show Issues _ s (execRgstat h d a s); unfold execRgstat; exact issues_issue _ _ _ _
  | mfs h d sys => show Issues _ s (execMfs h d sys s); unfold execMfs; rw [privileged_pass hp]; exact issues_issue _ _ _ _
  | mts h a sys => show Issues _ s (execMts h a sys s); unfold execMts; rw [privileged_pass hp]; exact issues_issue _ _ _ _
  | trap h code => show Issues _ s (execTrap h code s); unfold execTrap; exact issues_issue _ _ _ _
  | brk h code => show Issues _ s (execBrk h code s); unfold execBrk; exact issues_issue _ _ _ _
  | resume h => show Issues _ s (execResume h s); unfold execResume; exact issues_issue _ _ _ _
  | resumeNext h => show Issues _ s (execResumeNext h s); unfold execResumeNext; exact issues_issue _ _ _ _
  | abort h => show Issues _ s (execAbort h s); unfold execAbort; exact issues_issue _ _ _ _
  | tlbinv h k => show Issues _ s (execTlbinv h k s); unfold execTlbinv; rw [privileged_pass hp]; exact issues_issue _ _ _ _
  | ctxsv h d a ctx => show Issues _ s (execCtxsv h d a ctx s); unfold execCtxsv; rw [privileged_pass hp]; exact issues_issue _ _ _ _
  | ctxld h d a ctx => show Issues _ s (execCtxld h d a ctx s); unfold execCtxld; rw [privileged_pass hp]; exact issues_issue _ _ _ _
  | smap h d a cap => show Issues _ s (execSmap h d a cap s); unfold execSmap; exact issues_issue _ _ _ _
  | pclr h f => show Issues _ s (execPclr h f s); unfold execPclr; exact issues_issue _ _ _ _
  | firingBudgetExpiry _ => exact Bool.noConfusion hw
  | firingStart _ => exact Bool.noConfusion hw
  | handlerFiring _ => exact Bool.noConfusion hw
  | nonDelegatedTrap _ => exact Bool.noConfusion hw
  | tokenArrival _ _ _ => exact Bool.noConfusion hw
  | creditReturn _ _ _ => exact Bool.noConfusion hw
  | actorEnableArrival _ _ => exact Bool.noConfusion hw
  | tqPendingSignal _ _ => exact Bool.noConfusion hw
  | groupOperation _ => exact Bool.noConfusion hw
  | groupResponse _ _ => exact Bool.noConfusion hw
  | submission _ _ _ => exact Bool.noConfusion hw
  | launchSetup _ _ _ => exact Bool.noConfusion hw
  | configurationAcknowledgement _ _ _ => exact Bool.noConfusion hw
  | launchEnable _ _ => exact Bool.noConfusion hw
  | sourceEnable _ _ => exact Bool.noConfusion hw
  | launchComplete _ _ => exact Bool.noConfusion hw
  | launchAbort _ _ => exact Bool.noConfusion hw
  | timeSliceCommand _ _ => exact Bool.noConfusion hw
  | timeSliceApply _ => exact Bool.noConfusion hw
  | seqRegisterArrival _ => exact Bool.noConfusion hw
  | writeCoalescingDrain _ _ => exact Bool.noConfusion hw
  | sliceAccess _ _ => exact Bool.noConfusion hw
  | sliceFill _ _ => exact Bool.noConfusion hw
  | memoryResponse _ _ => exact Bool.noConfusion hw
  | lostRequest _ _ _ => exact Bool.noConfusion hw
  | tableWalk _ _ _ => exact Bool.noConfusion hw
  | fractRetry _ => exact Bool.noConfusion hw
  | fractFail _ => exact Bool.noConfusion hw
  | matrixOpStart _ _ => exact Bool.noConfusion hw
  | waveFetch _ _ => exact Bool.noConfusion hw
  | matrixOpComplete _ _ => exact Bool.noConfusion hw
  | sweepStart _ => exact Bool.noConfusion hw
  | sweepEnd _ => exact Bool.noConfusion hw
  | gangFormation _ _ => exact Bool.noConfusion hw
  | requestStart _ => exact Bool.noConfusion hw
  | engineBeat _ _ => exact Bool.noConfusion hw
  | requestComplete _ _ => exact Bool.noConfusion hw
  | templateFiring _ _ => exact Bool.noConfusion hw
  | pushProgramPass _ _ => exact Bool.noConfusion hw
  | relayoutAcknowledgement _ _ => exact Bool.noConfusion hw
  | conversionUnitStart _ _ => exact Bool.noConfusion hw
  | conversionUnitDone _ _ => exact Bool.noConfusion hw
  | staBeat _ _ => exact Bool.noConfusion hw
  | staloadComplete _ _ => exact Bool.noConfusion hw
  | stafreeComplete _ _ => exact Bool.noConfusion hw
  | stagingDone _ => exact Bool.noConfusion hw
  | swapToken _ => exact Bool.noConfusion hw
  | drainComplete _ => exact Bool.noConfusion hw
  | drainBudgetExpiry _ => exact Bool.noConfusion hw
  | clockRelock _ => exact Bool.noConfusion hw
  | powerWindow _ _ => exact Bool.noConfusion hw
  | packetQuarantine _ => exact Bool.noConfusion hw
  | flitReplay _ => exact Bool.noConfusion hw
  | linkPortDown _ => exact Bool.noConfusion hw
  | linkRetrain _ => exact Bool.noConfusion hw
  | uncorrectableError _ => exact Bool.noConfusion hw
  | correctedError _ => exact Bool.noConfusion hw
  | thermalSample _ _ => exact Bool.noConfusion hw
  | level2Escalation _ => exact Bool.noConfusion hw
  | selfRefreshEntry _ => exact Bool.noConfusion hw
  | limiterEngage  => exact Bool.noConfusion hw
  | limiterStepDown  => exact Bool.noConfusion hw
  | limiterStepUp  => exact Bool.noConfusion hw
  | hangDetected _ => exact Bool.noConfusion hw
  | apertureRead _ _ _ => exact Bool.noConfusion hw
  | apertureWrite _ _ _ => exact Bool.noConfusion hw
  | apertureAtomicop _ _ _ _ _ _ _ => exact Bool.noConfusion hw
  | cqhead _ _ _ => exact Bool.noConfusion hw
  | featctlGo  => exact Bool.noConfusion hw
  | hbmThr _ => exact Bool.noConfusion hw
  | mcElogw3  => exact Bool.noConfusion hw
  | registerWrite _ _ => exact Bool.noConfusion hw
  | getVersion _ => exact Bool.noConfusion hw
  | getCapabilities _ => exact Bool.noConfusion hw
  | negotiateAlgorithms _ _ => exact Bool.noConfusion hw
  | getDigests _ => exact Bool.noConfusion hw
  | getCertificate _ => exact Bool.noConfusion hw
  | challenge _ => exact Bool.noConfusion hw
  | getMeasurements _ _ => exact Bool.noConfusion hw
  | keyExchange _ => exact Bool.noConfusion hw
  | finish _ => exact Bool.noConfusion hw
  | heartbeat _ => exact Bool.noConfusion hw
  | keyUpdate _ => exact Bool.noConfusion hw
  | endSession _ => exact Bool.noConfusion hw
  | unsupportedRequest _ => exact Bool.noConfusion hw
  | keyload _ _ _ _ => exact Bool.noConfusion hw
  | keyerase _ _ => exact Bool.noConfusion hw
  | keystat _ _ => exact Bool.noConfusion hw
  | ideKm _ _ => exact Bool.noConfusion hw
  | lockInterface _ => exact Bool.noConfusion hw
  | tdiUnlock _ _ => exact Bool.noConfusion hw
  | partitionCreate _ _ _ _ _ _ _ => exact Bool.noConfusion hw
  | partitionDestroy _ => exact Bool.noConfusion hw
  | powerOn  => exact Bool.noConfusion hw
  | functionReady _ => exact Bool.noConfusion hw
  | deviceReset  => exact Bool.noConfusion hw
  | operatorEmit _ _ _ => exact Bool.noConfusion hw
  | operatorIdle _ => exact Bool.noConfusion hw

end Sys2Proof.Machine
end

