-- ==== Sys2Proof/Laws/Scalar.lean ====
section
/-! SUPPORT. What the shared forms of the scalar words leave. -/

namespace Sys2Proof.Machine

/-- S[d] := f(S[a], S[b]). -/
theorem scalar2_ready {i : Instr} {d a b : Fin 32} {f : Word → Word → Word} {s : State} (hw : i.clauses.wn = 0)
    (hr : ready i s = true) : scalar2 i d a b f s
      = .next (wroteS s d (f (s.me.readS a) (s.me.readS b)) (s.me.poisS a || s.me.poisS b)) := by
  unfold scalar2; rw [issue_ready hr, takeWait_none hw]; rfl

/-- S[d] := f(S[a]). -/
theorem scalar1_ready {i : Instr} {d a : Fin 32} {f : Word → Word} {s : State} (hw : i.clauses.wn = 0)
    (hr : ready i s = true) : scalar1 i d a f s = .next (wroteS s d (f (s.me.readS a)) (s.me.poisS a)) := by
  unfold scalar1; rw [issue_ready hr, takeWait_none hw]; rfl

/-- S[d] := v, clean. -/
theorem scalar0_ready {i : Instr} {d : Fin 32} {f : Ctx → Word} {s : State} (hw : i.clauses.wn = 0)
    (hr : ready i s = true) : scalar0 i d f s = .next (wroteS s d (f s.me) false) := by
  unfold scalar0; rw [issue_ready hr, takeWait_none hw]; rfl

/-- The issue of a word whose effect is known. -/
theorem issue_done {i : Instr} {chk : List RegId} {s : State} {eff : State → Eff} {t : State} (hw : i.clauses.wn = 0)
    (hr : ready i s = true) (he : eff s = .done t) : issue i chk s eff = .next (t.retire s.cur s.me.pc) := by
  rw [issue_ready hr, takeWait_none hw, he]; rfl

/-- A word whose checks pass changes registers of its context. -/
theorem issue_onCtx {i : Instr} {chk : List RegId} {s : State} {eff : State → Eff} {f : Ctx → Ctx} (hw : i.clauses.wn = 0)
    (hr : ready i s = true) (he : eff s = s.onCtx f) : issue i chk s eff = .next (went s f) := issue_done hw hr he

/-- A word one of whose checks fails traps. -/
theorem issue_trap {i : Instr} {chk : List RegId} {s : State} {eff : State → Eff} {c d a : Nat} (hw : i.clauses.wn = 0)
    (hr : ready i s = true) (he : eff s = .trap c d a) : issue i chk s eff = .next (trapped s chk c d a) := by
  rw [issue_ready hr, takeWait_none hw, he]; rfl

end Sys2Proof.Machine
end

