-- ==== Sys2Proof/Laws/Access.lean ====
section
/-! SUPPORT. What the shared forms of the memory words do when their checks pass. -/

namespace Sys2Proof.Machine

theorem findSome_none {α : Type} {cs : List (Option α)} (h : ∀ c ∈ cs, c = none) : cs.findSome? id = none := by
  rw [List.findSome?_eq_none_iff]; exact h

theorem poisonS_none {c : Ctx} {rs : List (Fin 32)} (h : ∀ r ∈ rs, c.poisS r = false) : poisonS c rs = none := by
  unfold poisonS
  rw [List.find?_eq_none.2 (fun r hr => by simp [h r hr])]

theorem addrPoison_none {c : Ctx} {m : AddrArg} (h : addrClean c m) : addrPoison c m = none :=
  poisonS_none (by intro r hr; simp at hr; rcases hr with rfl | rfl; exact h.1; exact h.2)

theorem memPoison_none {c : Ctx} {rs : List (Fin 32)} {ea : Nat} (h : ∀ r ∈ rs, c.poisS r = false) :
    memPoison c rs ea = none := by unfold memPoison; rw [poisonS_none h]; rfl

theorem vecPoison_none {c : Ctx} {d : Fin 32} {n ea : Nat} (h : (c.readV d).poisonIn n = false) :
    vecPoison c d n ea = none := by simp [vecPoison, poisonV, h]

/-- An address of a tile that translates lies below 2^56 (R267). -/
theorem resolve_ok_low {s : State} {k : Kind} {ea : Nat} {x : Xlated} (h : resolve s k ea = .ok x)
    (hc : s.cur ≠ .mgmt) : ea < 2 ^ 56 := by
  unfold resolve at h
  split at h
  · contradiction
  · split at h
    · cases h
    · omega

/-- A page gives the address of its entry (R391). -/
theorem applyPage_pa {s : State} {q : Fin 32} {k : Kind} {va : Nat} {e : TlbEntry} {x : Xlated}
    (h : s.applyPage q k va e = .ok x) : x.pa = e.pa va := by
  unfold State.applyPage at h
  simp only at h
  split at h
  · cases h
  · split at h
    · split at h
      · cases h
      · cases h; rfl
    · cases h; rfl

/-- A physical address is its own (R391). -/
theorem physical_pa {s : State} {pa : Nat} {x : Xlated} (h : s.physical pa = .ok x) : x.pa = pa := by
  unfold State.physical at h
  split at h
  · split at h
    · cases h; rfl
    · cases h
  · cases h; rfl
  · cases h

/-- The address that a cached page gives is the one that the access takes (R267, R391). -/
theorem cachedPa_ok {s : State} {k : Kind} {ea pa : Nat} {x : Xlated} (h : resolve s k ea = .ok x)
    (hc : cachedPa s ea = some pa) : x.pa = pa := by
  unfold resolve at h
  unfold cachedPa at hc
  split at h
  · rename_i hm
    rw [hm] at hc
    cases hc
    split at h
    · rename_i hp; cases h; exact physical_pa hp
    · cases h
  · rename_i t c hm
    rw [hm] at hc
    simp only [Option.map_eq_some_iff] at hc
    obtain ⟨e, he, rfl⟩ := hc
    split at h
    · cases h
    · rw [hm] at h
      simp only [he] at h
      split at h
      · rename_i x' hx'
        injection h with h
        subst h
        exact applyPage_pa hx'
      · cases h
      · cases h

/-- A global access whose addresses pass their checks takes effect. -/
theorem globalAccess_pass {s : State} {k : Kind} {cls : Class} {align : Nat} {eas : List (Nat × Nat)} {a : Attr}
    {poison : List (Option (Nat × Nat × Nat))} {go : Unit → Eff} (hp : passable s k cls align eas a)
    (hq : ∀ c ∈ poison, c = none) : globalAccess s k cls align eas a poison go = go () := by
  obtain ⟨h1, h2, h3⟩ := hp
  have hw : firstWalk s k (eas.map (fun a => a.1)) = none := by
    unfold firstWalk
    rw [List.find?_eq_none]
    intro v hv
    obtain ⟨e, he, rfl⟩ := List.mem_map.1 hv
    obtain ⟨-, x, hx, -⟩ := h2 e he
    simp [hx]
  have hr : (a.rel && !s.me.wcb.isEmpty) = false := by
    cases hb : a.rel
    · rfl
    · simp [h3 hb]
  unfold globalAccess
  rw [h1]
  simp only [Bool.false_eq_true, if_false, hw, hr]
  rw [orTrap_none, orTrap_none]
  · apply findSome_none
    intro c hc
    simp only [List.mem_append, List.mem_map] at hc
    rcases hc with ⟨e, he, rfl⟩ | ⟨e, he, rfl⟩
    · obtain ⟨-, x, hx, hy, -⟩ := h2 e he
      cases hcp : cachedPa s e.1 with
      | none => simp [classCheck, hcp, trapIf]
      | some pa =>
        rw [cachedPa_ok hx hcp] at hy
        simp [classCheck, hcp, hy, trapIf]
    · obtain ⟨-, x, hx, -, hz⟩ := h2 e he
      cases hex : a.expect with
      | none => simp [pageCheck, hx]
      | some n => simp [pageCheck, hx, trapIf, hz n hex]
  · apply findSome_none
    intro c hc
    simp only [List.mem_append, List.mem_map] at hc
    rcases hc with (hc | ⟨e, he, rfl⟩) | ⟨e, he, rfl⟩
    · exact hq c hc
    · simp [alignCheck, trapIf, (h2 e he).1]
    · obtain ⟨-, x, hx, -⟩ := h2 e he
      by_cases hm : s.cur = .mgmt
      · simp [hm, trapIf]
      · have := resolve_ok_low hx hm
        simp [trapIf]; omega

/-- A word whose accesses pass their checks sends them. -/
theorem oneAccess_pass {i : Instr} {m : AddrArg} {srcs : List RegId} {k : Kind} {cls : Class} {align len : Nat} {a : Attr}
    {poison : State → Nat → List (Option (Nat × Nat × Nat))} {op : Ctx → ReqOp} {s : State}
    (hw : i.clauses.wn = 0) (hr : ready i s = true) (ha : addrClean s.me m)
    (hp : passable s k cls align (partAddrs (accessParts (op s.me) (effAddr s.me m) len)) a)
    (hq : ∀ c ∈ poison s (effAddr s.me m), c = none) :
    oneAccess i m srcs k cls align len a poison op s
      = .next (sent s k a (accessParts (op s.me) (effAddr s.me m) len)) := by
  unfold oneAccess
  refine issue_done hw hr ?_
  rw [globalAccess_pass hp]
  · intro c hc
    rcases List.mem_cons.1 hc with rfl | hc
    · exact addrPoison_none ha
    · exact hq c hc

/-- A scratchpad access that passes its checks takes effect. -/
theorem scratchAccess_pass {i : Instr} {m : AddrArg} {srcs : List RegId} {align n : Nat}
    {poison : State → Nat → List (Option (Nat × Nat × Nat))} {f : State → Nat → State} {s : State}
    (hw : i.clauses.wn = 0) (hr : ready i s = true) (ha : addrClean s.me m)
    (ho : scratchOpen s (effAddr s.me m) n align) (hq : ∀ c ∈ poison s (effAddr s.me m), c = none) :
    scratchAccess i m srcs align n poison f s = .next ((f s (effAddr s.me m)).retire s.cur s.me.pc) := by
  unfold scratchAccess
  refine issue_done hw hr ?_
  obtain ⟨h1, h2, h3⟩ := ho
  rw [orTrap_none]
  · simp only [h3, Bool.false_eq_true, if_false]
  · apply findSome_none
    intro c hc
    simp only [List.mem_append, List.mem_cons, List.not_mem_nil, or_false] at hc
    rcases hc with (rfl | hc) | rfl | rfl
    · exact addrPoison_none ha
    · exact hq c hc
    · simp [alignCheck, trapIf, h1]
    · simp [trapIf]; omega

end Sys2Proof.Machine
end

