-- ==== Sys2Proof/Laws/Bits.lean ====
section
/-! SUPPORT. What the bit helpers compute, in the terms of the spec. -/

namespace Sys2Proof.Machine

/-- The low bits of an exact integer, as the library writes them. -/
theorem wordOfInt_eq (r : Int) : wordOfInt r = BitVec.ofInt 64 r := by
  apply BitVec.eq_of_toNat_eq
  have : (0 : Int) < 2 ^ 64 := by decide
  have h1 := Int.emod_nonneg r (ne_of_gt this)
  have h2 := Int.emod_lt_of_pos r this
  simp only [wordOfInt, intMod, BitVec.toNat_ofNat, BitVec.toNat_ofInt, Nat.cast_pow, Nat.cast_ofNat]
  omega

/-- A clamp between ordered bounds. -/
theorem clampInt_eq {lo hi r : Int} (h : lo ≤ hi) : clampInt lo hi r = max lo (min hi r) := by
  unfold clampInt; split <;> [skip; split] <;> omega

/-- The range of a type is not empty. -/
theorem Ty.lo_le_hi (t : Ty) : t.lo ≤ t.hi := by
  have h : ∀ n : Nat, (0 : Int) < 2 ^ n := fun n => by positivity
  simp only [Sys2Proof.Ty.lo, Sys2Proof.Ty.hi, Nat.cast_pow, Nat.cast_ofNat]
  split
  · have := h (t.width - 1); omega
  · have := h t.width; omega

/-- Trailing zeros: a power of two divides x, and the next bit is one unless x is zero. -/
theorem trailZeros_spec (n x : Nat) :
    trailZeros n x ≤ n ∧ x % 2 ^ trailZeros n x = 0 ∧ (trailZeros n x < n → x / 2 ^ trailZeros n x % 2 = 1) := by
  induction n generalizing x with
  | zero => simp [trailZeros, Nat.mod_one]
  | succ n ih =>
    unfold trailZeros
    split
    · simp_all [Nat.mod_one]
    · obtain ⟨h1, h2, h3⟩ := ih (x / 2)
      rw [Nat.add_comm 1, pow_succ']
      refine ⟨by omega, ?_, fun h => ?_⟩
      · rw [Nat.mod_mul]; omega
      · rw [← Nat.div_div_eq_div_mul]; exact h3 (by omega)

/-- Leading zeros: x lies below the power of two that they leave, and reaches half of it unless x is zero. -/
theorem leadZeros_spec (n x : Nat) :
    leadZeros n x ≤ n ∧ x % 2 ^ n < 2 ^ (n - leadZeros n x) ∧ (leadZeros n x < n → 2 ^ (n - leadZeros n x - 1) ≤ x % 2 ^ n) := by
  unfold leadZeros
  simp only
  split
  · next h => simp [h]
  · next h =>
    have hl : Nat.log2 (x % 2 ^ n) < n := (Nat.log2_lt h).2 (Nat.mod_lt _ (by positivity))
    have e : n - (n - 1 - Nat.log2 (x % 2 ^ n)) = Nat.log2 (x % 2 ^ n) + 1 := by omega
    rw [e]
    exact ⟨by omega, Nat.lt_log2_self, fun _ => Nat.log2_self_le h⟩

/-- The count of one bits is the number of places that hold one. -/
theorem popCount_eq (n x : Nat) : popCount n x = (List.range n).countP (fun j => x.testBit j) := by
  induction n generalizing x with
  | zero => rfl
  | succ n ih =>
    rw [List.range_succ_eq_map, List.countP_cons, List.countP_map, popCount, ih]
    have h1 : ((fun j => x.testBit j) ∘ Nat.succ) = fun j => (x / 2).testBit j := by
      funext j; exact Nat.testBit_succ x j
    rw [h1, Nat.testBit_zero, Nat.add_comm]
    congr 1
    rcases Nat.mod_two_eq_zero_or_one x with h | h <;> simp [h]

theorem leNat_append (l m : List Byte) : leNat (l ++ m) = leNat l + 256 ^ l.length * leNat m := by
  induction l with
  | nil => simp [leNat]
  | cons b l ih => simp only [List.cons_append, leNat, ih, List.length_cons, pow_succ]; ring

theorem leBytes_length (n x : Nat) : (leBytes n x).length = n := by
  induction n generalizing x with
  | zero => rfl
  | succ n ih => simp [leBytes, ih]

/-- The bytes of a value, least significant first, make the value. -/
theorem leNat_leBytes (n x : Nat) : leNat (leBytes n x) = x % 256 ^ n := by
  induction n generalizing x with
  | zero => simp [leBytes, leNat, Nat.mod_one]
  | succ n ih =>
    have h : x % 256 ^ (n + 1) = x % 256 + 256 * (x / 256 % 256 ^ n) := by rw [pow_succ', Nat.mod_mul]
    rw [leBytes, leNat, ih, BitVec.toNat_ofNat, h]

/-- The byte swap reverses the bytes (R108). -/
theorem bswapNat_eq (n x : Nat) : bswapNat n x = leNat (leBytes n x).reverse := by
  induction n generalizing x with
  | zero => rfl
  | succ n ih =>
    rw [bswapNat, ih, leBytes, List.reverse_cons, leNat_append, List.length_reverse, leBytes_length]
    have : (2 : Nat) ^ (8 * n) = 256 ^ n := by rw [pow_mul]; norm_num
    rw [this]
    simp only [leNat, BitVec.toNat_ofNat]; ring

end Sys2Proof.Machine
end

