-- ==== Sys2Proof/Laws/Encoding.lean ====
section
/-! SUPPORT. The fields of the words that the encoder writes, format by format (R38, R40), and the
decoder on them. -/

namespace Sys2Proof.Laws

theorem decode_word (m : Bool) (w : Word) : decodeBytes m (wordBytes w) = some (decodeNat m w.toNat) := by
  have h := w.isLt
  have e : leOfBytes [BitVec.ofNat 8 (w.toNat / 2 ^ (8 * 0)), BitVec.ofNat 8 (w.toNat / 2 ^ (8 * 1)),
      BitVec.ofNat 8 (w.toNat / 2 ^ (8 * 2)), BitVec.ofNat 8 (w.toNat / 2 ^ (8 * 3)), BitVec.ofNat 8 (w.toNat / 2 ^ (8 * 4)),
      BitVec.ofNat 8 (w.toNat / 2 ^ (8 * 5)), BitVec.ofNat 8 (w.toNat / 2 ^ (8 * 6)),
      BitVec.ofNat 8 (w.toNat / 2 ^ (8 * 7))] = w.toNat := by
    simp only [leOfBytes, BitVec.toNat_ofNat]
    omega
  show some (decodeNat m (leOfBytes _)) = _
  exact congrArg (fun x => some (decodeNat m x)) e

/-- Bits k and up, m of them, of the field at lo. -/
theorem field_sub {w lo n v : Nat} (h : field w lo n = v) (k m : Nat) (hk : k + m ≤ n) :
    field w (lo + k) m = v / 2 ^ k % 2 ^ m := by
  subst h
  simp only [field]
  rw [pow_add, ← Nat.div_div_eq_div_mul]
  generalize w / 2 ^ lo = x
  obtain ⟨j, rfl⟩ := Nat.exists_eq_add_of_le hk
  rw [Nat.add_assoc, pow_add 2 k, Nat.mod_mul_right_div_self, pow_add 2 m, Nat.mod_mul_right_mod]

theorem tyOf_code (t : Ty) : tyOf (tyCode t) = some t := by cases t <;> rfl
theorem tyCode_lt (t : Ty) : tyCode t < 32 := by cases t <;> decide
theorem tyGet_code (t : Ty) : tyGet (tyCode t) = t := by cases t <;> rfl
theorem toNat_lt2 (b : Bool) : b.toNat < 2 := by cases b <;> decide
theorem tyBad_code {l : List Ty} {t : Ty} (h : l.contains t = true) : tyBad l (tyCode t) = (false, tyCode t) := by
  simp only [tyBad, tyOf_code, h, Bool.not_true]
theorem ofNat_val {n : Nat} [NeZero n] (x : Fin n) : Fin.ofNat n x.val = x := by
  ext; exact Nat.mod_eq_of_lt x.isLt
theorem f5_of {w lo : Nat} (r : Fin 32) (h : field w lo 6 = r.val) : f5 w lo = r := by simp [f5, h]
theorem f4_of {w lo : Nat} (r : Fin 16) (h : field w lo 6 = r.val) : f4 w lo = r := by simp [f4, h]
theorem f3_of {w lo : Nat} (r : Fin 8) (h : field w lo 6 = r.val) : f3 w lo = r := by simp [f3, h]
theorem unused_of {w lo n : Nat} (h : field w lo n = 0) : unused w lo n = 0 := by simp only [unused, h, Nat.zero_mul]
theorem regf_of {w lo size run v : Nat} (h : field w lo 6 = v) (hv : v + run ≤ size) : regf w lo size run = 0 := by
  simp only [regf, resv, h, decide_eq_true_eq]; rw [if_neg (by omega)]
theorem resv_false (lo n : Nat) : resv lo n false = 0 := rfl
theorem bit_eq (b : Bool) : (b.toNat == 1) = b := by cases b <;> rfl

theorem condOf_code (c : Cond) : condOf (condCode c) = c := by cases c <;> rfl
theorem condCode_le (c : Cond) : condCode c ≤ 5 := by cases c <;> decide
theorem vcondOf_code (c : VCond) : vcondOf (vcondCode c) = c := by cases c <;> rfl
theorem vcondCode_le (c : VCond) : vcondCode c ≤ 6 := by cases c <;> decide
theorem braOf_code (c : BraCond) : braOf (braCode c) = c := by cases c <;> rfl
theorem braCode_le (c : BraCond) : braCode c ≤ 7 := by cases c <;> decide
theorem gredOf_code (c : GredOp) : gredOf (gredCode c) = c := by cases c <;> rfl
theorem gredCode_le (c : GredOp) : gredCode c ≤ 5 := by cases c <;> decide
theorem scanOf_code (c : ScanOp) : scanOf (scanCode c) = c := by cases c <;> rfl
theorem scanCode_le (c : ScanOp) : scanCode c ≤ 2 := by cases c <;> decide
theorem atomOf_code (c : AtomOp) : atomOf (atomCode c) = c := by cases c <;> rfl
theorem atomCode_le (c : AtomOp) : atomCode c ≤ 7 := by cases c <;> decide
theorem mmiOf_code (c : MmiForm) : mmiOf (mmiCode c) = c := by cases c <;> rfl
theorem mmiCode_le (c : MmiForm) : mmiCode c ≤ 5 := by cases c <;> decide
theorem fenceOf_code (c : FenceKind) : fenceOf (fenceCode c) = c := by cases c <;> rfl
theorem fenceCode_le (c : FenceKind) : fenceCode c ≤ 3 := by cases c <;> decide

theorem ofNat_4 (x : Fin 4) : Fin.ofNat 4 x.val = x := ofNat_val x
theorem ofNat_5 (x : Fin 5) : Fin.ofNat 5 x.val = x := ofNat_val x
theorem ofNat_8 (x : Fin 8) : Fin.ofNat 8 x.val = x := ofNat_val x
theorem ofNat_16 (x : Fin 16) : Fin.ofNat 16 x.val = x := ofNat_val x
theorem ofNat_31 (x : Fin 31) : Fin.ofNat 31 x.val = x := ofNat_val x
theorem ofNat_32 (x : Fin 32) : Fin.ofNat 32 x.val = x := ofNat_val x
theorem ofNat_64 (x : Fin 64) : Fin.ofNat 64 x.val = x := ofNat_val x
theorem ofNat_128 (x : Fin 128) : Fin.ofNat 128 x.val = x := ofNat_val x
theorem vopReg_lt (b : VOp) : vopReg b < 32 := by cases b <;> exact Fin.isLt _
theorem vopSb_lt (b : VOp) : vopSb b < 2 := by cases b <;> simp [vopSb]
theorem eregReg_lt (b : EReg) : eregReg b < 32 := by cases b <;> exact Fin.isLt _
theorem eregVec_lt (b : EReg) : eregVec b < 2 := by cases b <;> simp [eregVec]
theorem vopOf_of {w lo : Nat} (b : VOp) (h : field w lo 6 = vopReg b) : vopOf w lo (vopSb b) = b := by
  cases b with
  | vec r => simp only [vopOf, vopSb, if_neg Nat.zero_ne_one, f5_of r h]
  | scal r => simp only [vopOf, vopSb, if_true, f5_of r h]
theorem eregOf_of {w : Nat} (b : EReg) (h1 : field w 45 6 = eregReg b) (h2 : field w 32 1 = eregVec b) : eregOf w = b := by
  cases b with
  | vec r => simp only [eregOf, h2, eregVec, if_true, f5_of r h1]
  | scal r => simp only [eregOf, h2, eregVec, if_neg Nat.zero_ne_one, f5_of r h1]
theorem edge_ok {x : EReg} {n : Fin 64} (h : edgeOk x n = true) : (eregVec x == 0 && n.val != 0) = false := by
  cases x with
  | vec r => rfl
  | scal r => simp only [edgeOk, beq_iff_eq] at h; subst h; rfl

/-- No selector is unassigned and no bit is reserved: the word is the instruction. -/
theorem form_of {op : Nat} {sels : List (Bool × Nat)} {res : List Nat} {i : Instr} (h1 : ∀ p ∈ sels, p.1 = false)
    (h2 : ∀ x ∈ res, x = 0) : form op sels res i = .instr i := by
  have e1 : sels.find? (fun p => p.1) = none := by
    rw [List.find?_eq_none]; intro p hp; simp [h1 p hp]
  have e2 : res.foldl (fun x y => x ||| y) 0 = 0 := by
    induction res with
    | nil => rfl
    | cons x l ih =>
      rw [List.foldl_cons, h2 x (by simp), Nat.zero_or]
      exact ih (fun y hy => h2 y (List.mem_cons_of_mem _ hy))
  simp only [form, e1, e2, if_true]

/-- The predicate of a well-formed word is none of the never form's. -/
theorem hdr_ok {i : Instr} {h : Hdr} (hw : i.wf = true) (hh : i.hdr? = some h) : h.ok = true := by
  simp only [Instr.wf, hh, Bool.and_eq_true] at hw; exact hw.2
theorem form_ok {i : Instr} (hw : i.wf = true) : i.formOk = true := by
  simp only [Instr.wf, Bool.and_eq_true] at hw; exact hw.1.1.2
theorem clauses_ok {i : Instr} (hw : i.wf = true) : i.clauses.ok = true := by
  simp only [Instr.wf, Bool.and_eq_true] at hw; exact hw.1.2

/-- The thirteen bits of R38 in a word. -/
structure Head (w op : Nat) (h : Hdr) : Prop where
  op_ : field w 56 8 = op
  pn5 : field w 51 5 = 16 * h.pn.toNat + h.pi.val
  pn_ : field w 55 1 = h.pn.toNat
  pi_ : field w 51 4 = h.pi.val

theorem Head.decode {w op : Nat} {h : Hdr} (F : Head w op h) (ok : h.ok = true) :
    decodeNat false w = decOp false op w h := by
  obtain ⟨pn, pi⟩ := h
  have hp := pi.isLt
  have h1 : field w 51 5 ≠ 16 := by
    have e := F.pn5
    simp only [Hdr.ok, Bool.not_eq_true', Bool.and_eq_false_iff, beq_eq_false_iff_ne] at ok e
    rcases ok with rfl | ok
    · simp only [Bool.toNat_false] at e; omega
    · have : pi.val ≠ 0 := fun h0 => ok (Fin.ext h0)
      cases pn <;> simp only [Bool.toNat_false, Bool.toNat_true] at e <;> omega
  have h2 : hdrOf w = ⟨pn, pi⟩ := by
    simp only [hdrOf, F.pn_, F.pi_, bit_eq, ofNat_val]
  simp only [decodeNat, F.op_, if_neg h1, Bool.false_and, Bool.false_eq_true, if_false, h2]


/-! ### Packed fields -/

/-- Every value fits its width. -/
def Fits (l : List (Nat × Nat)) : Prop := ∀ x ∈ l, x.2 < 2 ^ x.1

theorem foldl_pack (l : List (Nat × Nat)) (a : Nat) :
    l.foldl (fun acc f => acc * 2 ^ f.1 + f.2) a = a * 2 ^ (l.map Prod.fst).sum + pack l := by
  induction l generalizing a with
  | nil => simp [pack]
  | cons x l ih =>
    simp only [List.foldl_cons, List.map_cons, List.sum_cons, pack]
    rw [ih, ih (0 * 2 ^ x.1 + x.2)]
    simp only [pow_add, Nat.zero_mul, Nat.zero_add]; ring

theorem pack_cons (x : Nat × Nat) (l : List (Nat × Nat)) :
    pack (x :: l) = x.2 * 2 ^ (l.map Prod.fst).sum + pack l := by
  rw [show pack (x :: l) = l.foldl (fun acc f => acc * 2 ^ f.1 + f.2) (0 * 2 ^ x.1 + x.2) from rfl, foldl_pack]; simp

theorem pack_lt {l : List (Nat × Nat)} (h : Fits l) : pack l < 2 ^ (l.map Prod.fst).sum := by
  induction l with
  | nil => simp [pack]
  | cons x l ih =>
    rw [pack_cons, List.map_cons, List.sum_cons, pow_add]
    have h1 := h x (by simp)
    have h2 := ih (fun y hy => h y (List.mem_cons_of_mem _ hy))
    calc _ < x.2 * 2 ^ (l.map Prod.fst).sum + 2 ^ (l.map Prod.fst).sum := by omega
      _ = (x.2 + 1) * 2 ^ (l.map Prod.fst).sum := by ring
      _ ≤ _ := Nat.mul_le_mul_right _ h1

/-- Field k of a packed list stands above the widths of the fields after it. -/
theorem field_at {l : List (Nat × Nat)} (hf : Fits l) (k : Nat) {n v : Nat} (hk : l[k]? = some (n, v)) :
    field (pack l) ((l.drop (k + 1)).map Prod.fst).sum n = v := by
  induction l generalizing k with
  | nil => simp at hk
  | cons x l ih =>
    have hl : Fits l := fun y hy => hf y (List.mem_cons_of_mem _ hy)
    have hx := hf x (by simp)
    cases k with
    | zero =>
      simp only [List.getElem?_cons_zero, Option.some.injEq] at hk
      subst hk
      have h2 := pack_lt hl
      rw [pack_cons]
      simp only [List.drop_succ_cons, List.drop_zero, field]
      rw [Nat.add_comm, Nat.add_mul_div_right _ _ (by positivity), Nat.div_eq_of_lt h2, Nat.zero_add,
        Nat.mod_eq_of_lt hx]
    | succ k =>
      have h3 := ih hl k (by simpa using hk)
      rw [List.drop_succ_cons, ← h3, pack_cons]
      obtain ⟨e, he⟩ : ∃ e, (l.map Prod.fst).sum = (((l.drop (k + 1)).map Prod.fst).sum + n) + e := by
        have hm : (n, v) ∈ l := List.mem_of_getElem? (by simpa using hk)
        have hs : l.map Prod.fst = (l.take k).map Prod.fst ++ n :: (l.drop (k + 1)).map Prod.fst := by
          rw [← List.map_cons (f := Prod.fst) (a := (n, v)), ← List.map_append]
          congr 1
          have hlt : k < l.length := by
            by_contra hc; simp [List.getElem?_eq_none (Nat.le_of_not_lt hc)] at hk
          have : l[k] = (n, v) := by simpa [hlt] using hk
          rw [← this, ← List.drop_eq_getElem_cons hlt, List.take_append_drop]
        refine ⟨((l.take k).map Prod.fst).sum, ?_⟩
        rw [hs, List.sum_append, List.sum_cons]; omega
      generalize ((l.drop (k + 1)).map Prod.fst).sum = lo at *
      simp only [field]
      rw [he, show x.2 * 2 ^ (lo + n + e) + pack l = pack l + x.2 * 2 ^ e * 2 ^ n * 2 ^ lo by ring,
        Nat.add_mul_div_right _ _ (by positivity), Nat.add_mul_mod_self_right]

theorem packWord_nat {op : Nat} {h : Hdr} {l : List (Nat × Nat)} (h1 : op < 256) (hf : Fits l)
    (hs : (l.map Prod.fst).sum = 51) :
    (packWord op h l).toNat = pack ((8, op) :: (1, h.pn.toNat) :: (4, h.pi.val) :: l)
      ∧ Fits ((8, op) :: (1, h.pn.toNat) :: (4, h.pi.val) :: l) := by
  have F : Fits ((8, op) :: (1, h.pn.toNat) :: (4, h.pi.val) :: l) := by
    intro x hx
    simp only [List.mem_cons] at hx
    rcases hx with rfl | rfl | rfl | hx
    · exact h1
    · exact toNat_lt2 h.pn
    · exact h.pi.isLt
    · exact hf x hx
  refine ⟨?_, F⟩
  have := pack_lt F
  simp only [List.map_cons, List.sum_cons, hs] at this
  simp only [packWord, BitVec.toNat_ofNat]
  exact Nat.mod_eq_of_lt this

theorem field_split (w : Nat) : field w 51 5 = 16 * field w 55 1 + field w 51 4 := by
  simp only [field]; omega

theorem head_of {op : Nat} {h : Hdr} {l : List (Nat × Nat)} (F : Fits ((8, op) :: (1, h.pn.toNat) :: (4, h.pi.val) :: l))
    (hs : (l.map Prod.fst).sum = 51) : Head (pack ((8, op) :: (1, h.pn.toNat) :: (4, h.pi.val) :: l)) op h := by
  have h0 := field_at F 0 rfl
  have h1 := field_at F 1 rfl
  have h2 := field_at F 2 rfl
  simp only [List.drop_succ_cons, List.drop_zero, List.map_cons, List.sum_cons, hs] at h0 h1 h2
  exact ⟨h0, by rw [field_split, h1, h2], h1, h2⟩

/-- The fields of a format A word (R40). -/
structure FieldsA (w op : Nat) (h : Hdr) (d a b c fn k ty md : Nat) : Prop extends Head w op h where
  d_ : field w 45 6 = d
  a_ : field w 39 6 = a
  b_ : field w 33 6 = b
  c_ : field w 27 6 = c
  fn_ : field w 20 7 = fn
  k_ : field w 17 3 = k
  ty_ : field w 12 5 = ty
  md_ : field w 0 12 = md

theorem fmtA_fields {op : Nat} {h : Hdr} {d a b c fn k ty md : Nat} (h_op : op < 256) (h_d : d < 2 ^ 6) (h_a : a < 2 ^ 6) (h_b : b < 2 ^ 6) (h_c : c < 2 ^ 6) (h_fn : fn < 2 ^ 7) (h_k : k < 2 ^ 3) (h_ty : ty < 2 ^ 5) (h_md : md < 2 ^ 12) :
    FieldsA (fmtA op h d a b c fn k ty md).toNat op h d a b c fn k ty md := by
  have hf : Fits [(6, d), (6, a), (6, b), (6, c), (7, fn), (3, k), (5, ty), (12, md)] := by
    intro x hx
    simp only [List.mem_cons, List.not_mem_nil, or_false] at hx
    rcases hx with rfl | rfl | rfl | rfl | rfl | rfl | rfl | rfl
    · exact h_d
    · exact h_a
    · exact h_b
    · exact h_c
    · exact h_fn
    · exact h_k
    · exact h_ty
    · exact h_md
  obtain ⟨e, F⟩ := packWord_nat (h := h) h_op hf rfl
  have e' : (fmtA op h d a b c fn k ty md).toNat = _ := e
  rw [e']
  exact ⟨head_of F rfl, field_at F 3 rfl, field_at F 4 rfl, field_at F 5 rfl, field_at F 6 rfl, field_at F 7 rfl, field_at F 8 rfl, field_at F 9 rfl, field_at F 10 rfl⟩

/-- The fields of a format I word (R40). -/
structure FieldsI (w op : Nat) (h : Hdr) (d a imm fn : Nat) : Prop extends Head w op h where
  d_ : field w 45 6 = d
  a_ : field w 39 6 = a
  imm_ : field w 7 32 = imm
  fn_ : field w 0 7 = fn

theorem fmtI_fields {op : Nat} {h : Hdr} {d a imm fn : Nat} (h_op : op < 256) (h_d : d < 2 ^ 6) (h_a : a < 2 ^ 6) (h_imm : imm < 2 ^ 32) (h_fn : fn < 2 ^ 7) :
    FieldsI (fmtI op h d a imm fn).toNat op h d a imm fn := by
  have hf : Fits [(6, d), (6, a), (32, imm), (7, fn)] := by
    intro x hx
    simp only [List.mem_cons, List.not_mem_nil, or_false] at hx
    rcases hx with rfl | rfl | rfl | rfl
    · exact h_d
    · exact h_a
    · exact h_imm
    · exact h_fn
  obtain ⟨e, F⟩ := packWord_nat (h := h) h_op hf rfl
  have e' : (fmtI op h d a imm fn).toNat = _ := e
  rw [e']
  exact ⟨head_of F rfl, field_at F 3 rfl, field_at F 4 rfl, field_at F 5 rfl, field_at F 6 rfl⟩

/-- The fields of a format B word (R40). -/
structure FieldsB (w op : Nat) (h : Hdr) (a cp off : Nat) : Prop extends Head w op h where
  a_ : field w 45 6 = a
  cp_ : field w 40 5 = cp
  off_ : field w 8 32 = off
  lo_ : field w 0 8 = 0

theorem fmtB_fields {op : Nat} {h : Hdr} {a cp off : Nat} (h_op : op < 256) (h_a : a < 2 ^ 6) (h_cp : cp < 2 ^ 5) (h_off : off < 2 ^ 32) :
    FieldsB (fmtB op h a cp off).toNat op h a cp off := by
  have hf : Fits [(6, a), (5, cp), (32, off), (8, 0)] := by
    intro x hx
    simp only [List.mem_cons, List.not_mem_nil, or_false] at hx
    rcases hx with rfl | rfl | rfl | rfl
    · exact h_a
    · exact h_cp
    · exact h_off
    · exact by decide
  obtain ⟨e, F⟩ := packWord_nat (h := h) h_op hf rfl
  have e' : (fmtB op h a cp off).toNat = _ := e
  rw [e']
  exact ⟨head_of F rfl, field_at F 3 rfl, field_at F 4 rfl, field_at F 5 rfl, field_at F 6 rfl⟩

/-- The fields of a format M word (R40). -/
structure FieldsM (w op : Nat) (h : Hdr) (d : Nat) (m : AddrArg) (sz sc od cp fn : Nat) : Prop extends Head w op h where
  d_ : field w 45 6 = d
  base_ : field w 39 6 = m.base.val
  idx_ : field w 33 6 = m.idx.val
  disp_ : field w 13 20 = m.disp.toNat
  sz_ : field w 10 3 = sz
  sc_ : field w 7 3 = sc
  od_ : field w 5 2 = od
  cp_ : field w 3 2 = cp
  fn_ : field w 0 3 = fn

theorem fmtM_fields {op : Nat} {h : Hdr} {d : Nat} {m : AddrArg} {sz sc od cp fn : Nat} (h_op : op < 256) (h_d : d < 2 ^ 6) (h_sz : sz < 2 ^ 3) (h_sc : sc < 2 ^ 3) (h_od : od < 2 ^ 2) (h_cp : cp < 2 ^ 2) (h_fn : fn < 2 ^ 3) :
    FieldsM (fmtM op h d m sz sc od cp fn).toNat op h d m sz sc od cp fn := by
  have hf : Fits [(6, d), (6, m.base.val), (6, m.idx.val), (20, m.disp.toNat), (3, sz), (3, sc), (2, od), (2, cp), (3, fn)] := by
    intro x hx
    simp only [List.mem_cons, List.not_mem_nil, or_false] at hx
    rcases hx with rfl | rfl | rfl | rfl | rfl | rfl | rfl | rfl | rfl
    · exact h_d
    · exact (by have h := m.base.isLt; show m.base.val < 2 ^ 6; omega)
    · exact (by have h := m.idx.isLt; show m.idx.val < 2 ^ 6; omega)
    · exact m.disp.isLt
    · exact h_sz
    · exact h_sc
    · exact h_od
    · exact h_cp
    · exact h_fn
  obtain ⟨e, F⟩ := packWord_nat (h := h) h_op hf rfl
  have e' : (fmtM op h d m sz sc od cp fn).toNat = _ := e
  rw [e']
  exact ⟨head_of F rfl, field_at F 3 rfl, field_at F 4 rfl, field_at F 5 rfl, field_at F 6 rfl, field_at F 7 rfl, field_at F 8 rfl, field_at F 9 rfl, field_at F 10 rfl, field_at F 11 rfl⟩


theorem FieldsM.mform_of {w op : Nat} {h : Hdr} {d : Nat} {m : AddrArg} {sz sc od cp fn : Nat}
    (F : FieldsM w op h d m sz sc od cp fn) {dRun : Nat} {szs ords cps : List Nat} {rmw : Bool} {i : Instr}
    (hd : dRun = 0 ∧ d = 0 ∨ dRun ≠ 0 ∧ d + dRun ≤ 32) (hz : szs.contains sz = true) (ho : ords.contains od = true)
    (hc : cps.contains cp = true) (hs : sc ≤ 4) (hp : rmw = true ∨ od ≠ 0 ∨ sc = 0) :
    mform op w dRun szs ords cps rmw i = .instr i := by
  have hb := m.base.isLt
  have hi := m.idx.isLt
  have e1 : (if dRun = 0 then unused w 45 6 else regf w 45 32 dRun) = 0 := by
    rcases hd with ⟨h1, h2⟩ | ⟨h1, h2⟩
    · rw [if_pos h1, unused_of (by rw [F.d_, h2])]
    · rw [if_neg h1, regf_of F.d_ h2]
  have e2 : (decide (4 < sc) || (!rmw && od == 0 && sc != 0)) = false := by
    rcases hp with h | h | h <;> simp [h] <;> omega
  apply form_of
  · simp
  · intro x hx
    simp only [List.mem_cons, List.not_mem_nil, or_false, e1, regf_of F.base_ (show _ + 1 ≤ 32 by omega),
      regf_of F.idx_ (show _ + 1 ≤ 32 by omega), F.sz_, F.od_, F.cp_, F.sc_, hz, ho, hc, e2, Bool.not_true,
      resv_false, or_self] at hx
    exact hx

theorem FieldsM.addr {w op : Nat} {h : Hdr} {d : Nat} {m : AddrArg} {sz sc od cp fn : Nat}
    (F : FieldsM w op h d m sz sc od cp fn) : addrOf w = m := by
  obtain ⟨b, i, p⟩ := m
  simp only [addrOf, f5_of b F.base_, f5_of i F.idx_, F.disp_, BitVec.ofNat_toNat, BitVec.setWidth_eq]

theorem FieldsM.attr {w op : Nat} {h : Hdr} {d : Nat} {m : AddrArg} {sz fn : Nat} {t : MemAttr}
    (F : FieldsM w op h d m sz t.scope t.ord t.cp fn) : attrOf w = t := by
  simp only [attrOf, F.sc_, F.od_, F.cp_, ofNat_4, ofNat_5]

theorem plain_ord {m : MemAttr} {o : Fin 4} (h : m.plainOk o = true) : [0, o.val].contains m.ord.val = true := by
  simp only [MemAttr.plainOk, Bool.and_eq_true, Bool.or_eq_true, beq_iff_eq] at h
  rcases h.1 with e | e <;> simp [e]
theorem plain_scope {m : MemAttr} {o : Fin 4} (h : m.plainOk o = true) : m.ord.val ≠ 0 ∨ m.scope.val = 0 := by
  simp only [MemAttr.plainOk, Bool.and_eq_true, Bool.or_eq_true, beq_iff_eq, bne_iff_ne, ne_eq] at h
  rcases h.2 with e | e
  · exact .inl (fun x => e (Fin.ext x))
  · exact .inr (by rw [e]; rfl)
theorem rmw_cp {m : MemAttr} (h : m.rmwOk = true) : [0, 1, 2].contains m.cp.val = true := by
  simp only [MemAttr.rmwOk, bne_iff_ne, ne_eq] at h
  revert h
  generalize m.cp = c
  revert c
  decide
theorem atom_sz {op : AtomOp} {z : Fin 4} (h : atomSzOk op z = true) : (atomSzs (atomCode op)).contains z.val = true := by
  revert h
  revert z
  cases op <;> decide
theorem edge_imp {x : EReg} {n : Fin 64} (h : edgeOk x n = true) : eregVec x = 0 → n = 0 := by
  cases x with
  | vec r => intro e; simp [eregVec] at e
  | scal r => intro _; simpa [edgeOk] using h
theorem tyCode_inj {a b : Ty} (h : tyCode a = tyCode b) : a = b := by
  have := congrArg tyOf h; rw [tyOf_code, tyOf_code] at this; exact Option.some.inj this
theorem f32_of {t : Ty} (h : tyCode t = 16) : t = .f32 := tyCode_inj (h.trans rfl)
theorem acc_of {t : Ty} (h : tyCode t = 24) : t = .acc := tyCode_inj (h.trans rfl)

theorem sz4 (z : Fin 4) : [0, 1, 2, 3].contains z.val = true := by revert z; decide
theorem sz4v (z : Fin 4) : [4, 5, 6, 7].contains (z.val + 4) = true := by revert z; decide
theorem sz8 (z : Fin 8) : [0, 1, 2, 3, 4, 5, 6, 7].contains z.val = true := by revert z; decide
theorem szb (b : Bool) : [2, 3].contains (2 + b.toNat) = true := by cases b <;> rfl
theorem ofNat_4v (z : Fin 4) : Fin.ofNat 4 (z.val + 4) = z := by revert z; decide
theorem b8_eq (b : Bool) : (2 + b.toNat == 3) = b := by cases b <;> rfl
theorem scope_le (z : Fin 5) : z.val ≤ 4 := by omega
/-- The fields of a format T word (R40). -/
structure FieldsT (w op : Nat) (h : Hdr) (d hr cb ty k md : Nat) : Prop extends Head w op h where
  d_ : field w 45 6 = d
  hr_ : field w 41 4 = hr
  cb_ : field w 35 6 = cb
  ty_ : field w 30 5 = ty
  k_ : field w 27 3 = k
  md_ : field w 0 27 = md

theorem fmtT_fields {op : Nat} {h : Hdr} {d hr cb ty k md : Nat} (h_op : op < 256) (h_d : d < 2 ^ 6) (h_hr : hr < 2 ^ 4) (h_cb : cb < 2 ^ 6) (h_ty : ty < 2 ^ 5) (h_k : k < 2 ^ 3) (h_md : md < 2 ^ 27) :
    FieldsT (fmtT op h d hr cb ty k md).toNat op h d hr cb ty k md := by
  have hf : Fits [(6, d), (4, hr), (6, cb), (5, ty), (3, k), (27, md)] := by
    intro x hx
    simp only [List.mem_cons, List.not_mem_nil, or_false] at hx
    rcases hx with rfl | rfl | rfl | rfl | rfl | rfl
    · exact h_d
    · exact h_hr
    · exact h_cb
    · exact h_ty
    · exact h_k
    · exact h_md
  obtain ⟨e, F⟩ := packWord_nat (h := h) h_op hf rfl
  have e' : (fmtT op h d hr cb ty k md).toNat = _ := e
  rw [e']
  exact ⟨head_of F rfl, field_at F 3 rfl, field_at F 4 rfl, field_at F 5 rfl, field_at F 6 rfl, field_at F 7 rfl, field_at F 8 rfl⟩

/-- The fields of a format E word (R40). -/
structure FieldsE (w op : Nat) (h : Hdr) (x y z imm qn : Nat) (c : Clauses) (fn : Nat) : Prop extends Head w op h where
  x_ : field w 45 6 = x
  y_ : field w 39 6 = y
  z_ : field w 33 6 = z
  imm_ : field w 21 12 = imm
  qn_ : field w 19 2 = qn
  wq_ : field w 15 4 = c.wq.val
  wn_ : field w 12 3 = c.wn.val
  sq_ : field w 8 4 = c.sq.val
  se_ : field w 7 1 = c.se.toNat
  fn_ : field w 0 7 = fn

theorem fmtE_fields {op : Nat} {h : Hdr} {x y z imm qn : Nat} {c : Clauses} {fn : Nat} (h_op : op < 256) (h_x : x < 2 ^ 6) (h_y : y < 2 ^ 6) (h_z : z < 2 ^ 6) (h_imm : imm < 2 ^ 12) (h_qn : qn < 2 ^ 2) (h_fn : fn < 2 ^ 7) :
    FieldsE (fmtE op h x y z imm qn c fn).toNat op h x y z imm qn c fn := by
  have hf : Fits [(6, x), (6, y), (6, z), (12, imm), (2, qn), (4, c.wq.val), (3, c.wn.val), (4, c.sq.val), (1, c.se.toNat), (7, fn)] := by
    intro x hx
    simp only [List.mem_cons, List.not_mem_nil, or_false] at hx
    rcases hx with rfl | rfl | rfl | rfl | rfl | rfl | rfl | rfl | rfl | rfl
    · exact h_x
    · exact h_y
    · exact h_z
    · exact h_imm
    · exact h_qn
    · exact (by have h := c.wq.isLt; show c.wq.val < 2 ^ 4; omega)
    · exact (by have h := c.wn.isLt; show c.wn.val < 2 ^ 3; omega)
    · exact (by have h := c.sq.isLt; show c.sq.val < 2 ^ 4; omega)
    · exact toNat_lt2 _
    · exact h_fn
  obtain ⟨e, F⟩ := packWord_nat (h := h) h_op hf rfl
  have e' : (fmtE op h x y z imm qn c fn).toNat = _ := e
  rw [e']
  exact ⟨head_of F rfl, field_at F 3 rfl, field_at F 4 rfl, field_at F 5 rfl, field_at F 6 rfl, field_at F 7 rfl, field_at F 8 rfl, field_at F 9 rfl, field_at F 10 rfl, field_at F 11 rfl, field_at F 12 rfl⟩

theorem FieldsE.clauses {w op : Nat} {h : Hdr} {x y z imm qn : Nat} {c : Clauses} {fn : Nat}
    (F : FieldsE w op h x y z imm qn c fn) : clausesOf w = c := by
  simp only [clausesOf, F.wq_, F.wn_, F.sq_, F.se_, ofNat_val, bit_eq]

theorem FieldsE.res {w op : Nat} {h : Hdr} {x y z imm qn : Nat} {c : Clauses} {fn : Nat}
    (F : FieldsE w op h x y z imm qn c fn) (ok : c.ok = true) : clausesRes w = [0, 0] := by
  obtain ⟨wq, wn, sq, se⟩ := c
  simp only [Clauses.ok, Bool.and_eq_true, Bool.or_eq_true, bne_iff_ne, ne_eq, beq_iff_eq] at ok
  obtain ⟨h1, h2⟩ := ok
  have e1 : (wn.val == 0 && wq.val != 0) = false := by
    rcases h1 with h1 | h1
    · have : wn.val ≠ 0 := fun e => h1 (Fin.ext e)
      simp [this]
    · simp [h1]
  have e2 : (se.toNat == 0 && sq.val != 0) = false := by
    rcases h2 with h2 | h2
    · simp [h2]
    · simp [h2]
  simp only [clausesRes, F.wq_, F.wn_, F.sq_, F.se_, e1, e2, resv_false]

/-- The fields of a format X word (R40). -/
structure FieldsX (w op : Nat) (h : Hdr) (d a sys imm fn : Nat) : Prop extends Head w op h where
  d_ : field w 45 6 = d
  a_ : field w 39 6 = a
  sys_ : field w 27 12 = sys
  imm_ : field w 7 20 = imm
  fn_ : field w 0 7 = fn

theorem fmtX_fields {op : Nat} {h : Hdr} {d a sys imm fn : Nat} (h_op : op < 256) (h_d : d < 2 ^ 6) (h_a : a < 2 ^ 6) (h_sys : sys < 2 ^ 12) (h_imm : imm < 2 ^ 20) (h_fn : fn < 2 ^ 7) :
    FieldsX (fmtX op h d a sys imm fn).toNat op h d a sys imm fn := by
  have hf : Fits [(6, d), (6, a), (12, sys), (20, imm), (7, fn)] := by
    intro x hx
    simp only [List.mem_cons, List.not_mem_nil, or_false] at hx
    rcases hx with rfl | rfl | rfl | rfl | rfl
    · exact h_d
    · exact h_a
    · exact h_sys
    · exact h_imm
    · exact h_fn
  obtain ⟨e, F⟩ := packWord_nat (h := h) h_op hf rfl
  have e' : (fmtX op h d a sys imm fn).toNat = _ := e
  rw [e']
  exact ⟨head_of F rfl, field_at F 3 rfl, field_at F 4 rfl, field_at F 5 rfl, field_at F 6 rfl, field_at F 7 rfl⟩

/-- The fields of a format L word (R40). -/
structure FieldsL (w op : Nat) (h : Hdr) (d imm : Nat) : Prop extends Head w op h where
  d_ : field w 45 6 = d
  imm_ : field w 0 45 = imm

theorem fmtL_fields {op : Nat} {h : Hdr} {d imm : Nat} (h_op : op < 256) (h_d : d < 2 ^ 6) (h_imm : imm < 2 ^ 45) :
    FieldsL (fmtL op h d imm).toNat op h d imm := by
  have hf : Fits [(6, d), (45, imm)] := by
    intro x hx
    simp only [List.mem_cons, List.not_mem_nil, or_false] at hx
    rcases hx with rfl | rfl
    · exact h_d
    · exact h_imm
  obtain ⟨e, F⟩ := packWord_nat (h := h) h_op hf rfl
  have e' : (fmtL op h d imm).toNat = _ := e
  rw [e']
  exact ⟨head_of F rfl, field_at F 3 rfl, field_at F 4 rfl⟩

end Sys2Proof.Laws
end

