-- ==== Sys2Proof/Laws/Exec.lean ====
section
/-! SUPPORT. The arm of each instruction, by name: rewriting with one of these does not unfold the
other arms. -/

namespace Sys2Proof.Machine

theorem exec_nop (op : BitVec 8) (rest : BitVec 51) (s : State) : exec (.nop op rest) s = execNop op rest s := rfl
theorem exec_add (h : Hdr) (d a b : Fin 32) (ty : Ty) (sat : Bool) (s : State) : exec (.add h d a b ty sat) s = execAdd h d a b ty sat s := rfl
theorem exec_sub (h : Hdr) (d a b : Fin 32) (ty : Ty) (sat : Bool) (s : State) : exec (.sub h d a b ty sat) s = execSub h d a b ty sat s := rfl
theorem exec_mul (h : Hdr) (d a b : Fin 32) (ty : Ty) (sat : Bool) (s : State) : exec (.mul h d a b ty sat) s = execMul h d a b ty sat s := rfl
theorem exec_mulh (h : Hdr) (d a b : Fin 32) (ty : Ty) (s : State) : exec (.mulh h d a b ty) s = execMulh h d a b ty s := rfl
theorem exec_div (h : Hdr) (d a b : Fin 32) (ty : Ty) (s : State) : exec (.div h d a b ty) s = execDiv h d a b ty s := rfl
theorem exec_rem (h : Hdr) (d a b : Fin 32) (ty : Ty) (s : State) : exec (.rem h d a b ty) s = execRem h d a b ty s := rfl
theorem exec_min (h : Hdr) (d a b : Fin 32) (ty : Ty) (s : State) : exec (.min h d a b ty) s = execMin h d a b ty s := rfl
theorem exec_max (h : Hdr) (d a b : Fin 32) (ty : Ty) (s : State) : exec (.max h d a b ty) s = execMax h d a b ty s := rfl
theorem exec_and (h : Hdr) (d a b : Fin 32) (ty : Ty) (s : State) : exec (.and h d a b ty) s = execAnd h d a b ty s := rfl
theorem exec_or (h : Hdr) (d a b : Fin 32) (ty : Ty) (s : State) : exec (.or h d a b ty) s = execOr h d a b ty s := rfl
theorem exec_xor (h : Hdr) (d a b : Fin 32) (ty : Ty) (s : State) : exec (.xor h d a b ty) s = execXor h d a b ty s := rfl
theorem exec_andn (h : Hdr) (d a b : Fin 32) (ty : Ty) (s : State) : exec (.andn h d a b ty) s = execAndn h d a b ty s := rfl
theorem exec_shl (h : Hdr) (d a b : Fin 32) (ty : Ty) (s : State) : exec (.shl h d a b ty) s = execShl h d a b ty s := rfl
theorem exec_shr (h : Hdr) (d a b : Fin 32) (ty : Ty) (s : State) : exec (.shr h d a b ty) s = execShr h d a b ty s := rfl
theorem exec_sar (h : Hdr) (d a b : Fin 32) (ty : Ty) (s : State) : exec (.sar h d a b ty) s = execSar h d a b ty s := rfl
theorem exec_rol (h : Hdr) (d a b : Fin 32) (ty : Ty) (s : State) : exec (.rol h d a b ty) s = execRol h d a b ty s := rfl
theorem exec_cmp (h : Hdr) (cond : Cond) (d c : Fin 16) (a b : Fin 32) (ty : Ty) (s : State) : exec (.cmp h cond d c a b ty) s = execCmp h cond d c a b ty s := rfl
theorem exec_clz (h : Hdr) (d a : Fin 32) (ty : Ty) (s : State) : exec (.clz h d a ty) s = execClz h d a ty s := rfl
theorem exec_ctz (h : Hdr) (d a : Fin 32) (ty : Ty) (s : State) : exec (.ctz h d a ty) s = execCtz h d a ty s := rfl
theorem exec_popc (h : Hdr) (d a : Fin 32) (ty : Ty) (s : State) : exec (.popc h d a ty) s = execPopc h d a ty s := rfl
theorem exec_bswap (h : Hdr) (d a : Fin 32) (ty : Ty) (s : State) : exec (.bswap h d a ty) s = execBswap h d a ty s := rfl
theorem exec_sext (h : Hdr) (d a : Fin 32) (b : Fin 64) (s : State) : exec (.sext h d a b) s = execSext h d a b s := rfl
theorem exec_addi (h : Hdr) (d a : Fin 32) (imm : BitVec 32) (s : State) : exec (.addi h d a imm) s = execAddi h d a imm s := rfl
theorem exec_muli (h : Hdr) (d a : Fin 32) (imm : BitVec 32) (s : State) : exec (.muli h d a imm) s = execMuli h d a imm s := rfl
theorem exec_andi (h : Hdr) (d a : Fin 32) (imm : BitVec 32) (s : State) : exec (.andi h d a imm) s = execAndi h d a imm s := rfl
theorem exec_ori (h : Hdr) (d a : Fin 32) (imm : BitVec 32) (s : State) : exec (.ori h d a imm) s = execOri h d a imm s := rfl
theorem exec_xori (h : Hdr) (d a : Fin 32) (imm : BitVec 32) (s : State) : exec (.xori h d a imm) s = execXori h d a imm s := rfl
theorem exec_shli (h : Hdr) (d a : Fin 32) (n : Fin 64) (s : State) : exec (.shli h d a n) s = execShli h d a n s := rfl
theorem exec_shri (h : Hdr) (d a : Fin 32) (n : Fin 64) (s : State) : exec (.shri h d a n) s = execShri h d a n s := rfl
theorem exec_sari (h : Hdr) (d a : Fin 32) (n : Fin 64) (s : State) : exec (.sari h d a n) s = execSari h d a n s := rfl
theorem exec_cmpi (h : Hdr) (cond : Cond) (d : Fin 16) (a : Fin 32) (ty : Ty) (imm : BitVec 32) (s : State) : exec (.cmpi h cond d a ty imm) s = execCmpi h cond d a ty imm s := rfl
theorem exec_ldi (h : Hdr) (d : Fin 32) (imm : BitVec 45) (s : State) : exec (.ldi h d imm) s = execLdi h d imm s := rfl
theorem exec_ldih (h : Hdr) (d a : Fin 32) (imm : BitVec 32) (s : State) : exec (.ldih h d a imm) s = execLdih h d a imm s := rfl
theorem exec_lea (h : Hdr) (d a b : Fin 32) (sh : Fin 16) (disp : BitVec 8) (s : State) : exec (.lea h d a b sh disp) s = execLea h d a b sh disp s := rfl
theorem exec_sel (h : Hdr) (d : Fin 32) (c : Fin 16) (a b : Fin 32) (s : State) : exec (.sel h d c a b) s = execSel h d c a b s := rfl
theorem exec_movSS (h : Hdr) (d a : Fin 32) (s : State) : exec (.movSS h d a) s = execMovSS h d a s := rfl
theorem exec_movPS (h : Hdr) (d : Fin 16) (a : Fin 32) (s : State) : exec (.movPS h d a) s = execMovPS h d a s := rfl
theorem exec_movSP (h : Hdr) (d : Fin 32) (a : Fin 16) (s : State) : exec (.movSP h d a) s = execMovSP h d a s := rfl
theorem exec_movKS (h : Hdr) (d : Fin 8) (a : Fin 32) (s : State) : exec (.movKS h d a) s = execMovKS h d a s := rfl
theorem exec_movSK (h : Hdr) (d : Fin 32) (a : Fin 8) (s : State) : exec (.movSK h d a) s = execMovSK h d a s := rfl
theorem exec_movKK (h : Hdr) (d a : Fin 8) (s : State) : exec (.movKK h d a) s = execMovKK h d a s := rfl
theorem exec_bra (h : Hdr) (cond : BraCond) (a : Fin 32) (off : BitVec 32) (s : State) : exec (.bra h cond a off) s = execBra h cond a off s := rfl
theorem exec_call (h : Hdr) (a : Fin 32) (off : BitVec 32) (s : State) : exec (.call h a off) s = execCall h a off s := rfl
theorem exec_jmp (h : Hdr) (d a : Fin 32) (s : State) : exec (.jmp h d a) s = execJmp h d a s := rfl
theorem exec_ret (h : Hdr) (a : Fin 32) (s : State) : exec (.ret h a) s = execRet h a s := rfl
theorem exec_pset (h : Hdr) (d : Fin 16) (v : Bool) (s : State) : exec (.pset h d v) s = execPset h d v s := rfl
theorem exec_pand (h : Hdr) (d a b : Fin 16) (na nb : Bool) (s : State) : exec (.pand h d a b na nb) s = execPand h d a b na nb s := rfl
theorem exec_por (h : Hdr) (d a b : Fin 16) (na nb : Bool) (s : State) : exec (.por h d a b na nb) s = execPor h d a b na nb s := rfl
theorem exec_pxor (h : Hdr) (d a b : Fin 16) (na nb : Bool) (s : State) : exec (.pxor h d a b na nb) s = execPxor h d a b na nb s := rfl
theorem exec_pnot (h : Hdr) (d a : Fin 16) (s : State) : exec (.pnot h d a) s = execPnot h d a s := rfl
theorem exec_epop (h : Hdr) (x : EReg) (slot : Fin 16) (n1 : Fin 64) (cl : Clauses) (s : State) : exec (.epop h x slot n1 cl) s = execEpop h x slot n1 cl s := rfl
theorem exec_epeek (h : Hdr) (x : EReg) (slot : Fin 16) (z : Fin 32) (n1 : Fin 64) (cl : Clauses) (s : State) : exec (.epeek h x slot z n1 cl) s = execEpeek h x slot z n1 cl s := rfl
theorem exec_epush (h : Hdr) (x : EReg) (slot : Fin 16) (n1 : Fin 64) (cl : Clauses) (s : State) : exec (.epush h x slot n1 cl) s = execEpush h x slot n1 cl s := rfl
theorem exec_eeos (h : Hdr) (slot : Fin 16) (cl : Clauses) (s : State) : exec (.eeos h slot cl) s = execEeos h slot cl s := rfl
theorem exec_estat (h : Hdr) (x : Fin 32) (slot : Fin 16) (cl : Clauses) (s : State) : exec (.estat h x slot cl) s = execEstat h x slot cl s := rfl
theorem exec_tqsig (h : Hdr) (tq : Fin 16) (n : Fin 64) (cl : Clauses) (s : State) : exec (.tqsig h tq n cl) s = execTqsig h tq n cl s := rfl
theorem exec_tqwait (h : Hdr) (cl : Clauses) (s : State) : exec (.tqwait h cl) s = execTqwait h cl s := rfl
theorem exec_tqrd (h : Hdr) (x : Fin 32) (tq : Fin 16) (cl : Clauses) (s : State) : exec (.tqrd h x tq cl) s = execTqrd h x tq cl s := rfl
theorem exec_endF (h : Hdr) (s : State) : exec (.endF h) s = execEndF h s := rfl
theorem exec_actena (h : Hdr) (a : Fin 32) (s : State) : exec (.actena h a) s = execActena h a s := rfl
theorem exec_actdis (h : Hdr) (a : Fin 32) (s : State) : exec (.actdis h a) s = execActdis h a s := rfl
theorem exec_gjoin (h : Hdr) (x y : Fin 32) (cl : Clauses) (s : State) : exec (.gjoin h x y cl) s = execGjoin h x y cl s := rfl
theorem exec_gleave (h : Hdr) (arr : Bool) (y : Fin 32) (cl : Clauses) (s : State) : exec (.gleave h arr y cl) s = execGleave h arr y cl s := rfl
theorem exec_garrive (h : Hdr) (x y : Fin 32) (cl : Clauses) (s : State) : exec (.garrive h x y cl) s = execGarrive h x y cl s := rfl
theorem exec_gwait (h : Hdr) (y z : Fin 32) (cl : Clauses) (s : State) : exec (.gwait h y z cl) s = execGwait h y z cl s := rfl
theorem exec_gbar (h : Hdr) (x y : Fin 32) (cl : Clauses) (s : State) : exec (.gbar h x y cl) s = execGbar h x y cl s := rfl
theorem exec_gred (h : Hdr) (op : GredOp) (ty : Ty) (x y z : Fin 32) (cl : Clauses) (s : State) : exec (.gred h op ty x y z cl) s = execGred h op ty x y z cl s := rfl
theorem exec_launch (h : Hdr) (x y : Fin 32) (cl : Clauses) (s : State) : exec (.launch h x y cl) s = execLaunch h x y cl s := rfl
theorem exec_vadd (h : Hdr) (d a : Fin 32) (b : VOp) (k : Fin 8) (ty : Ty) (sat : Bool) (s : State) : exec (.vadd h d a b k ty sat) s = execVadd h d a b k ty sat s := rfl
theorem exec_vsub (h : Hdr) (d a : Fin 32) (b : VOp) (k : Fin 8) (ty : Ty) (sat : Bool) (s : State) : exec (.vsub h d a b k ty sat) s = execVsub h d a b k ty sat s := rfl
theorem exec_vmul (h : Hdr) (d a : Fin 32) (b : VOp) (k : Fin 8) (ty : Ty) (sat : Bool) (s : State) : exec (.vmul h d a b k ty sat) s = execVmul h d a b k ty sat s := rfl
theorem exec_vmulh (h : Hdr) (d a : Fin 32) (b : VOp) (k : Fin 8) (ty : Ty) (s : State) : exec (.vmulh h d a b k ty) s = execVmulh h d a b k ty s := rfl
theorem exec_vmin (h : Hdr) (d a : Fin 32) (b : VOp) (k : Fin 8) (ty : Ty) (s : State) : exec (.vmin h d a b k ty) s = execVmin h d a b k ty s := rfl
theorem exec_vmax (h : Hdr) (d a : Fin 32) (b : VOp) (k : Fin 8) (ty : Ty) (s : State) : exec (.vmax h d a b k ty) s = execVmax h d a b k ty s := rfl
theorem exec_vabs (h : Hdr) (d a : Fin 32) (k : Fin 8) (ty : Ty) (sat : Bool) (s : State) : exec (.vabs h d a k ty sat) s = execVabs h d a k ty sat s := rfl
theorem exec_vneg (h : Hdr) (d a : Fin 32) (k : Fin 8) (ty : Ty) (sat : Bool) (s : State) : exec (.vneg h d a k ty sat) s = execVneg h d a k ty sat s := rfl
theorem exec_vaddFp (h : Hdr) (d a : Fin 32) (b : VOp) (k : Fin 8) (ty : Ty) (s : State) : exec (.vaddFp h d a b k ty) s = execVaddFp h d a b k ty s := rfl
theorem exec_vsubFp (h : Hdr) (d a : Fin 32) (b : VOp) (k : Fin 8) (ty : Ty) (s : State) : exec (.vsubFp h d a b k ty) s = execVsubFp h d a b k ty s := rfl
theorem exec_vmulFp (h : Hdr) (d a : Fin 32) (b : VOp) (k : Fin 8) (ty : Ty) (s : State) : exec (.vmulFp h d a b k ty) s = execVmulFp h d a b k ty s := rfl
theorem exec_vminFp (h : Hdr) (d a : Fin 32) (b : VOp) (k : Fin 8) (ty : Ty) (s : State) : exec (.vminFp h d a b k ty) s = execVminFp h d a b k ty s := rfl
theorem exec_vmaxFp (h : Hdr) (d a : Fin 32) (b : VOp) (k : Fin 8) (ty : Ty) (s : State) : exec (.vmaxFp h d a b k ty) s = execVmaxFp h d a b k ty s := rfl
theorem exec_vabsFp (h : Hdr) (d a : Fin 32) (k : Fin 8) (ty : Ty) (s : State) : exec (.vabsFp h d a k ty) s = execVabsFp h d a k ty s := rfl
theorem exec_vnegFp (h : Hdr) (d a : Fin 32) (k : Fin 8) (ty : Ty) (s : State) : exec (.vnegFp h d a k ty) s = execVnegFp h d a k ty s := rfl
theorem exec_vfma (h : Hdr) (d a : Fin 32) (b : VOp) (c : Fin 32) (k : Fin 8) (ty : Ty) (s : State) : exec (.vfma h d a b c k ty) s = execVfma h d a b c k ty s := rfl
theorem exec_vfms (h : Hdr) (d a : Fin 32) (b : VOp) (c : Fin 32) (k : Fin 8) (ty : Ty) (s : State) : exec (.vfms h d a b c k ty) s = execVfms h d a b c k ty s := rfl
theorem exec_vfnma (h : Hdr) (d a : Fin 32) (b : VOp) (c : Fin 32) (k : Fin 8) (ty : Ty) (s : State) : exec (.vfnma h d a b c k ty) s = execVfnma h d a b c k ty s := rfl
theorem exec_vdot2 (h : Hdr) (d a : Fin 32) (b : VOp) (c : Fin 32) (k : Fin 8) (ty : Ty) (s : State) : exec (.vdot2 h d a b c k ty) s = execVdot2 h d a b c k ty s := rfl
theorem exec_vdot4 (h : Hdr) (d a : Fin 32) (b : VOp) (c : Fin 32) (k : Fin 8) (ty : Ty) (s : State) : exec (.vdot4 h d a b c k ty) s = execVdot4 h d a b c k ty s := rfl
theorem exec_vcmp (h : Hdr) (cond : VCond) (d : Fin 8) (a : Fin 32) (b : VOp) (k : Fin 8) (ty : Ty) (s : State) : exec (.vcmp h cond d a b k ty) s = execVcmp h cond d a b k ty s := rfl
theorem exec_vand (h : Hdr) (d a : Fin 32) (b : VOp) (k : Fin 8) (ty : Ty) (s : State) : exec (.vand h d a b k ty) s = execVand h d a b k ty s := rfl
theorem exec_vor (h : Hdr) (d a : Fin 32) (b : VOp) (k : Fin 8) (ty : Ty) (s : State) : exec (.vor h d a b k ty) s = execVor h d a b k ty s := rfl
theorem exec_vxor (h : Hdr) (d a : Fin 32) (b : VOp) (k : Fin 8) (ty : Ty) (s : State) : exec (.vxor h d a b k ty) s = execVxor h d a b k ty s := rfl
theorem exec_vandn (h : Hdr) (d a : Fin 32) (b : VOp) (k : Fin 8) (ty : Ty) (s : State) : exec (.vandn h d a b k ty) s = execVandn h d a b k ty s := rfl
theorem exec_vshl (h : Hdr) (d a : Fin 32) (b : VOp) (k : Fin 8) (ty : Ty) (s : State) : exec (.vshl h d a b k ty) s = execVshl h d a b k ty s := rfl
theorem exec_vshr (h : Hdr) (d a : Fin 32) (b : VOp) (k : Fin 8) (ty : Ty) (s : State) : exec (.vshr h d a b k ty) s = execVshr h d a b k ty s := rfl
theorem exec_vsar (h : Hdr) (d a : Fin 32) (b : VOp) (k : Fin 8) (ty : Ty) (s : State) : exec (.vsar h d a b k ty) s = execVsar h d a b k ty s := rfl
theorem exec_vsel (h : Hdr) (d : Fin 32) (c : Fin 8) (a : Fin 32) (b : VOp) (ty : Ty) (s : State) : exec (.vsel h d c a b ty) s = execVsel h d c a b ty s := rfl
theorem exec_vcvt (h : Hdr) (d a : Fin 32) (k : Fin 8) (ty sty : Ty) (part : Fin 16) (s : State) : exec (.vcvt h d a k ty sty part) s = execVcvt h d a k ty sty part s := rfl
theorem exec_vqmx (h : Hdr) (d a c : Fin 32) (ty sty : Ty) (part : Fin 16) (s : State) : exec (.vqmx h d a c ty sty part) s = execVqmx h d a c ty sty part s := rfl
theorem exec_vdqmx (h : Hdr) (d a c : Fin 32) (k : Fin 8) (ty sty : Ty) (part : Fin 16) (s : State) : exec (.vdqmx h d a c k ty sty part) s = execVdqmx h d a c k ty sty part s := rfl
theorem exec_vexp2 (h : Hdr) (d a : Fin 32) (k : Fin 8) (s : State) : exec (.vexp2 h d a k) s = execVexp2 h d a k s := rfl
theorem exec_vlog2 (h : Hdr) (d a : Fin 32) (k : Fin 8) (s : State) : exec (.vlog2 h d a k) s = execVlog2 h d a k s := rfl
theorem exec_vrcp (h : Hdr) (d a : Fin 32) (k : Fin 8) (s : State) : exec (.vrcp h d a k) s = execVrcp h d a k s := rfl
theorem exec_vrsqrt (h : Hdr) (d a : Fin 32) (k : Fin 8) (s : State) : exec (.vrsqrt h d a k) s = execVrsqrt h d a k s := rfl
theorem exec_vsqrt (h : Hdr) (d a : Fin 32) (k : Fin 8) (s : State) : exec (.vsqrt h d a k) s = execVsqrt h d a k s := rfl
theorem exec_vperm (h : Hdr) (d a b : Fin 32) (k : Fin 8) (ty : Ty) (s : State) : exec (.vperm h d a b k ty) s = execVperm h d a b k ty s := rfl
theorem exec_vperm2 (h : Hdr) (d a b c : Fin 32) (k : Fin 8) (ty : Ty) (s : State) : exec (.vperm2 h d a b c k ty) s = execVperm2 h d a b c k ty s := rfl
theorem exec_vbcast (h : Hdr) (d a : Fin 32) (k : Fin 8) (ty : Ty) (s : State) : exec (.vbcast h d a k ty) s = execVbcast h d a k ty s := rfl
theorem exec_vbcastl (h : Hdr) (d a b : Fin 32) (k : Fin 8) (ty : Ty) (s : State) : exec (.vbcastl h d a b k ty) s = execVbcastl h d a b k ty s := rfl
theorem exec_vrot (h : Hdr) (d a b : Fin 32) (k : Fin 8) (ty : Ty) (s : State) : exec (.vrot h d a b k ty) s = execVrot h d a b k ty s := rfl
theorem exec_vcompress (h : Hdr) (d a : Fin 32) (k : Fin 8) (ty : Ty) (s : State) : exec (.vcompress h d a k ty) s = execVcompress h d a k ty s := rfl
theorem exec_vexpand (h : Hdr) (d a : Fin 32) (k : Fin 8) (ty : Ty) (s : State) : exec (.vexpand h d a k ty) s = execVexpand h d a k ty s := rfl
theorem exec_vext (h : Hdr) (d a : Fin 32) (idx : Fin 64) (ty : Ty) (s : State) : exec (.vext h d a idx ty) s = execVext h d a idx ty s := rfl
theorem exec_vins (h : Hdr) (d a : Fin 32) (idx : Fin 64) (ty : Ty) (s : State) : exec (.vins h d a idx ty) s = execVins h d a idx ty s := rfl
theorem exec_vredsum (h : Hdr) (d a : Fin 32) (k : Fin 8) (ty : Ty) (s : State) : exec (.vredsum h d a k ty) s = execVredsum h d a k ty s := rfl
theorem exec_vredmin (h : Hdr) (d a : Fin 32) (k : Fin 8) (ty : Ty) (s : State) : exec (.vredmin h d a k ty) s = execVredmin h d a k ty s := rfl
theorem exec_vredmax (h : Hdr) (d a : Fin 32) (k : Fin 8) (ty : Ty) (s : State) : exec (.vredmax h d a k ty) s = execVredmax h d a k ty s := rfl
theorem exec_vredand (h : Hdr) (d a : Fin 32) (k : Fin 8) (ty : Ty) (s : State) : exec (.vredand h d a k ty) s = execVredand h d a k ty s := rfl
theorem exec_vredor (h : Hdr) (d a : Fin 32) (k : Fin 8) (ty : Ty) (s : State) : exec (.vredor h d a k ty) s = execVredor h d a k ty s := rfl
theorem exec_vredxor (h : Hdr) (d a : Fin 32) (k : Fin 8) (ty : Ty) (s : State) : exec (.vredxor h d a k ty) s = execVredxor h d a k ty s := rfl
theorem exec_vscan (h : Hdr) (op : ScanOp) (d a : Fin 32) (k : Fin 8) (ty : Ty) (sat : Bool) (s : State) : exec (.vscan h op d a k ty sat) s = execVscan h op d a k ty sat s := rfl
theorem exec_vargmax (h : Hdr) (d a : Fin 32) (k : Fin 8) (ty : Ty) (s : State) : exec (.vargmax h d a k ty) s = execVargmax h d a k ty s := rfl
theorem exec_vargmin (h : Hdr) (d a : Fin 32) (k : Fin 8) (ty : Ty) (s : State) : exec (.vargmin h d a k ty) s = execVargmin h d a k ty s := rfl
theorem exec_vrng (h : Hdr) (d : Fin 32) (a : VOp) (b : Fin 32) (k : Fin 8) (ty : Ty) (s : State) : exec (.vrng h d a b k ty) s = execVrng h d a b k ty s := rfl
theorem exec_vptest (h : Hdr) (d : Fin 8) (a : Fin 32) (k : Fin 8) (s : State) : exec (.vptest h d a k) s = execVptest h d a k s := rfl
theorem exec_vldi (h : Hdr) (d : Fin 32) (imm : BitVec 32) (s : State) : exec (.vldi h d imm) s = execVldi h d imm s := rfl
theorem exec_vldiI64 (h : Hdr) (d : Fin 32) (imm : BitVec 32) (s : State) : exec (.vldiI64 h d imm) s = execVldiI64 h d imm s := rfl
theorem exec_viota (h : Hdr) (d : Fin 32) (imm : BitVec 32) (s : State) : exec (.viota h d imm) s = execViota h d imm s := rfl
theorem exec_kand (h : Hdr) (d a b : Fin 8) (s : State) : exec (.kand h d a b) s = execKand h d a b s := rfl
theorem exec_kor (h : Hdr) (d a b : Fin 8) (s : State) : exec (.kor h d a b) s = execKor h d a b s := rfl
theorem exec_kxor (h : Hdr) (d a b : Fin 8) (s : State) : exec (.kxor h d a b) s = execKxor h d a b s := rfl
theorem exec_kandn (h : Hdr) (d a b : Fin 8) (s : State) : exec (.kandn h d a b) s = execKandn h d a b s := rfl
theorem exec_knot (h : Hdr) (d a : Fin 8) (s : State) : exec (.knot h d a) s = execKnot h d a s := rfl
theorem exec_kpopc (h : Hdr) (d : Fin 32) (a : Fin 8) (s : State) : exec (.kpopc h d a) s = execKpopc h d a s := rfl
theorem exec_kffs (h : Hdr) (d : Fin 32) (a : Fin 8) (s : State) : exec (.kffs h d a) s = execKffs h d a s := rfl
theorem exec_hdef (h : Hdr) (d a : Fin 32) (g : Bool) (s : State) : exec (.hdef h d a g) s = execHdef h d a g s := rfl
theorem exec_hld (h : Hdr) (d : Fin 16) (a : Fin 32) (off : BitVec 20) (s : State) : exec (.hld h d a off) s = execHld h d a off s := rfl
theorem exec_hst (h : Hdr) (d a : Fin 32) (g : Bool) (s : State) : exec (.hst h d a g) s = execHst h d a g s := rfl
theorem exec_hinv (h : Hdr) (d : Fin 16) (all : Bool) (s : State) : exec (.hinv h d all) s = execHinv h d all s := rfl
theorem exec_ldt (h : Hdr) (d : Fin 32) (hr : Fin 16) (cbase : Fin 32) (ty : Ty) (k : Fin 8) (cp : Fin 4) (s : State) : exec (.ldt h d hr cbase ty k cp) s = execLdt h d hr cbase ty k cp s := rfl
theorem exec_stt (h : Hdr) (d : Fin 32) (hr : Fin 16) (cbase : Fin 32) (ty : Ty) (k : Fin 8) (cp : Fin 4) (s : State) : exec (.stt h d hr cbase ty k cp) s = execStt h d hr cbase ty k cp s := rfl
theorem exec_ldtb (h : Hdr) (d : Fin 32) (hr : Fin 16) (cbase : Fin 32) (ty : Ty) (k : Fin 8) (cp : Fin 4) (sc : Bool) (sr : Fin 31) (s : State) : exec (.ldtb h d hr cbase ty k cp sc sr) s = execLdtb h d hr cbase ty k cp sc sr s := rfl
theorem exec_sttb (h : Hdr) (d : Fin 32) (hr : Fin 16) (cbase : Fin 32) (ty : Ty) (k : Fin 8) (cp : Fin 4) (sc : Bool) (sr : Fin 31) (s : State) : exec (.sttb h d hr cbase ty k cp sc sr) s = execSttb h d hr cbase ty k cp sc sr s := rfl
theorem exec_hrelayout (h : Hdr) (d a : Fin 32) (hr : Fin 16) (tag : Fin 8) (cslot : Fin 16) (ctok nb : Bool) (s : State) : exec (.hrelayout h d a hr tag cslot ctok nb) s = execHrelayout h d a hr tag cslot ctok nb s := rfl
theorem exec_hwait (h : Hdr) (hr : Fin 16) (s : State) : exec (.hwait h hr) s = execHwait h hr s := rfl
theorem exec_hstat (h : Hdr) (d : Fin 32) (hr : Fin 16) (s : State) : exec (.hstat h d hr) s = execHstat h d hr s := rfl
theorem exec_mma (h : Hdr) (ty : Ty) (m : MacArg) (cl : Clauses) (s : State) : exec (.mma h ty m cl) s = execMma h ty m cl s := rfl
theorem exec_mmx (h : Hdr) (ty : Ty) (m : MacArg) (cl : Clauses) (s : State) : exec (.mmx h ty m cl) s = execMmx h ty m cl s := rfl
theorem exec_mmi (h : Hdr) (f : MmiForm) (m : MacArg) (cl : Clauses) (s : State) : exec (.mmi h f m cl) s = execMmi h f m cl s := rfl
theorem exec_mmaG (h : Hdr) (ty : Ty) (m : MacArg) (cl : Clauses) (s : State) : exec (.mmaG h ty m cl) s = execMmaG h ty m cl s := rfl
theorem exec_mmxG (h : Hdr) (ty : Ty) (m : MacArg) (cl : Clauses) (s : State) : exec (.mmxG h ty m cl) s = execMmxG h ty m cl s := rfl
theorem exec_mgang (h : Hdr) (y : Fin 32) (gr gc gR gC : Fin 4) (q : Fin 4) (cl : Clauses) (s : State) : exec (.mgang h y gr gc gR gC q cl) s = execMgang h y gr gc gR gC q cl s := rfl
theorem exec_mgangFree (h : Hdr) (q : Fin 4) (cl : Clauses) (s : State) : exec (.mgangFree h q cl) s = execMgangFree h q cl s := rfl
theorem exec_mcfg (h : Hdr) (shape : Fin 4) (sort : Fin 16) (cl : Clauses) (s : State) : exec (.mcfg h shape sort cl) s = execMcfg h shape sort cl s := rfl
theorem exec_mzero (h : Hdr) (bank q : Fin 4) (cl : Clauses) (s : State) : exec (.mzero h bank q cl) s = execMzero h bank q cl s := rfl
theorem exec_mscaleRow (h : Hdr) (y : Fin 32) (bank q : Fin 4) (cl : Clauses) (s : State) : exec (.mscaleRow h y bank q cl) s = execMscaleRow h y bank q cl s := rfl
theorem exec_mscaleCol (h : Hdr) (y : Fin 32) (bank q : Fin 4) (cl : Clauses) (s : State) : exec (.mscaleCol h y bank q cl) s = execMscaleCol h y bank q cl s := rfl
theorem exec_mld (h : Hdr) (x : Fin 32) (bank : Fin 4) (hr : Fin 16) (ty : Ty) (q : Fin 4) (cl : Clauses) (s : State) : exec (.mld h x bank hr ty q cl) s = execMld h x bank hr ty q cl s := rfl
theorem exec_mst (h : Hdr) (x : Fin 32) (bank : Fin 4) (hr : Fin 16) (ty : Ty) (q : Fin 4) (cl : Clauses) (s : State) : exec (.mst h x bank hr ty q cl) s = execMst h x bank hr ty q cl s := rfl
theorem exec_mrow (h : Hdr) (x y : Fin 32) (bank : Fin 4) (ty : Ty) (half : Bool) (q : Fin 4) (cl : Clauses) (s : State) : exec (.mrow h x y bank ty half q cl) s = execMrow h x y bank ty half q cl s := rfl
theorem exec_msort (h : Hdr) (x y : Fin 32) (q : Fin 4) (cl : Clauses) (s : State) : exec (.msort h x y q cl) s = execMsort h x y q cl s := rfl
theorem exec_mtopk (h : Hdr) (x y : Fin 32) (k1 : Fin 64) (clr rd : Bool) (q : Fin 4) (cl : Clauses) (s : State) : exec (.mtopk h x y k1 clr rd q cl) s = execMtopk h x y k1 clr rd q cl s := rfl
theorem exec_mstat (h : Hdr) (d : Fin 32) (sel : Fin 4) (s : State) : exec (.mstat h d sel) s = execMstat h d sel s := rfl
theorem exec_ld (h : Hdr) (sx : Bool) (d : Fin 32) (sz : Fin 4) (m : AddrArg) (at_ : MemAttr) (s : State) : exec (.ld h sx d sz m at_) s = execLd h sx d sz m at_ s := rfl
theorem exec_st (h : Hdr) (d : Fin 32) (sz : Fin 4) (m : AddrArg) (at_ : MemAttr) (s : State) : exec (.st h d sz m at_) s = execSt h d sz m at_ s := rfl
theorem exec_lds (h : Hdr) (sx : Bool) (d : Fin 32) (sz : Fin 4) (m : AddrArg) (s : State) : exec (.lds h sx d sz m) s = execLds h sx d sz m s := rfl
theorem exec_sts (h : Hdr) (d : Fin 32) (sz : Fin 4) (m : AddrArg) (s : State) : exec (.sts h d sz m) s = execSts h d sz m s := rfl
theorem exec_vld (h : Hdr) (d : Fin 32) (sz : Fin 4) (m : AddrArg) (at_ : MemAttr) (s : State) : exec (.vld h d sz m at_) s = execVld h d sz m at_ s := rfl
theorem exec_vst (h : Hdr) (d : Fin 32) (sz : Fin 4) (m : AddrArg) (at_ : MemAttr) (s : State) : exec (.vst h d sz m at_) s = execVst h d sz m at_ s := rfl
theorem exec_vlds (h : Hdr) (d : Fin 32) (sz : Fin 4) (m : AddrArg) (s : State) : exec (.vlds h d sz m) s = execVlds h d sz m s := rfl
theorem exec_vsts (h : Hdr) (d : Fin 32) (sz : Fin 4) (m : AddrArg) (s : State) : exec (.vsts h d sz m) s = execVsts h d sz m s := rfl
theorem exec_vgath (h : Hdr) (d : Fin 32) (b8 : Bool) (m : AddrArg) (cp : Fin 4) (s : State) : exec (.vgath h d b8 m cp) s = execVgath h d b8 m cp s := rfl
theorem exec_vscat (h : Hdr) (d : Fin 32) (b8 : Bool) (m : AddrArg) (cp : Fin 4) (s : State) : exec (.vscat h d b8 m cp) s = execVscat h d b8 m cp s := rfl
theorem exec_ldc (h : Hdr) (f : LdcForm) (d : Fin 32) (m : AddrArg) (s : State) : exec (.ldc h f d m) s = execLdc h f d m s := rfl
theorem exec_pref (h : Hdr) (sz : Fin 8) (m : AddrArg) (cp : Fin 4) (s : State) : exec (.pref h sz m cp) s = execPref h sz m cp s := rfl
theorem exec_prefConst (h : Hdr) (sz : Fin 8) (m : AddrArg) (s : State) : exec (.prefConst h sz m) s = execPrefConst h sz m s := rfl
theorem exec_atom (h : Hdr) (op : AtomOp) (d : Fin 32) (sz : Fin 4) (m : AddrArg) (at_ : MemAttr) (s : State) : exec (.atom h op d sz m at_) s = execAtom h op d sz m at_ s := rfl
theorem exec_red (h : Hdr) (op : AtomOp) (d : Fin 32) (sz : Fin 4) (m : AddrArg) (at_ : MemAttr) (s : State) : exec (.red h op d sz m at_) s = execRed h op d sz m at_ s := rfl
theorem exec_cas (h : Hdr) (d : Fin 32) (b8 : Bool) (m : AddrArg) (at_ : MemAttr) (s : State) : exec (.cas h d b8 m at_) s = execCas h d b8 m at_ s := rfl
theorem exec_xadd (h : Hdr) (r : EReg) (m : AddrArg) (scope : Fin 5) (rel : Bool) (s : State) : exec (.xadd h r m scope rel) s = execXadd h r m scope rel s := rfl
theorem exec_xrd (h : Hdr) (d : Fin 32) (m : AddrArg) (scope : Fin 5) (acq : Bool) (s : State) : exec (.xrd h d m scope acq) s = execXrd h d m scope acq s := rfl
theorem exec_xrdClr (h : Hdr) (d : Fin 32) (m : AddrArg) (scope : Fin 5) (ord : Fin 4) (s : State) : exec (.xrdClr h d m scope ord) s = execXrdClr h d m scope ord s := rfl
theorem exec_fence (h : Hdr) (kind : FenceKind) (scope : Fin 5) (s : State) : exec (.fence h kind scope) s = execFence h kind scope s := rfl
theorem exec_cinv (h : Hdr) (s : State) : exec (.cinv h) s = execCinv h s := rfl
theorem exec_cinvLine (h : Hdr) (a : Fin 32) (s : State) : exec (.cinvLine h a) s = execCinvLine h a s := rfl
theorem exec_sdef (h : Hdr) (x : Fin 32) (slot : Fin 16) (cl : Clauses) (s : State) : exec (.sdef h x slot cl) s = execSdef h x slot cl s := rfl
theorem exec_carm (h : Hdr) (x : Fin 32) (slot : Fin 16) (wm : Fin 16) (wmen : Bool) (cl : Clauses) (s : State) : exec (.carm h x slot wm wmen cl) s = execCarm h x slot wm wmen cl s := rfl
theorem exec_sgo (h : Hdr) (slot : Fin 16) (z : Fin 32) (cl : Clauses) (s : State) : exec (.sgo h slot z cl) s = execSgo h slot z cl s := rfl
theorem exec_sstop (h : Hdr) (slot : Fin 16) (cl : Clauses) (s : State) : exec (.sstop h slot cl) s = execSstop h slot cl s := rfl
theorem exec_sstat (h : Hdr) (x : Fin 32) (slot : Fin 16) (sel : Fin 4) (cl : Clauses) (s : State) : exec (.sstat h x slot sel cl) s = execSstat h x slot sel cl s := rfl
theorem exec_cdis (h : Hdr) (slot : Fin 16) (cl : Clauses) (s : State) : exec (.cdis h slot cl) s = execCdis h slot cl s := rfl
theorem exec_copy (h : Hdr) (x z : Fin 32) (wm : Fin 16) (wmen : Bool) (cl : Clauses) (s : State) : exec (.copy h x z wm wmen cl) s = execCopy h x z wm wmen cl s := rfl
theorem exec_staload (h : Hdr) (x y : Fin 32) (slot : Fin 8) (cl : Clauses) (s : State) : exec (.staload h x y slot cl) s = execStaload h x y slot cl s := rfl
theorem exec_staloadUpd (h : Hdr) (x y : Fin 32) (slot : Fin 8) (cl : Clauses) (s : State) : exec (.staloadUpd h x y slot cl) s = execStaloadUpd h x y slot cl s := rfl
theorem exec_stafree (h : Hdr) (y : Fin 32) (slot : Fin 8) (cl : Clauses) (s : State) : exec (.stafree h y slot cl) s = execStafree h y slot cl s := rfl
theorem exec_stastat (h : Hdr) (x y : Fin 32) (slot : Fin 8) (sel : Fin 32) (cl : Clauses) (s : State) : exec (.stastat h x y slot sel cl) s = execStastat h x y slot sel cl s := rfl
theorem exec_rgload (h : Hdr) (x y : Fin 32) (cl : Clauses) (s : State) : exec (.rgload h x y cl) s = execRgload h x y cl s := rfl
theorem exec_rgswap (h : Hdr) (y : Fin 32) (cl : Clauses) (s : State) : exec (.rgswap h y cl) s = execRgswap h y cl s := rfl
theorem exec_rgswapForce (h : Hdr) (y : Fin 32) (cl : Clauses) (s : State) : exec (.rgswapForce h y cl) s = execRgswapForce h y cl s := rfl
theorem exec_rgsave (h : Hdr) (y : Fin 32) (cl : Clauses) (s : State) : exec (.rgsave h y cl) s = execRgsave h y cl s := rfl
theorem exec_rgrest (h : Hdr) (y : Fin 32) (cl : Clauses) (s : State) : exec (.rgrest h y cl) s = execRgrest h y cl s := rfl
theorem exec_rgclk (h : Hdr) (a : Fin 32) (f : BitVec 20) (s : State) : exec (.rgclk h a f) s = execRgclk h a f s := rfl
theorem exec_rgfrz (h : Hdr) (a : Fin 32) (s : State) : exec (.rgfrz h a) s = execRgfrz h a s := rfl
theorem exec_rgfrzDrain (h : Hdr) (a : Fin 32) (s : State) : exec (.rgfrzDrain h a) s = execRgfrzDrain h a s := rfl
theorem exec_rgthaw (h : Hdr) (a : Fin 32) (s : State) : exec (.rgthaw h a) s = execRgthaw h a s := rfl
theorem exec_rgstat (h : Hdr) (d a : Fin 32) (s : State) : exec (.rgstat h d a) s = execRgstat h d a s := rfl
theorem exec_mfs (h : Hdr) (d : Fin 32) (sys : BitVec 12) (s : State) : exec (.mfs h d sys) s = execMfs h d sys s := rfl
theorem exec_mts (h : Hdr) (a : Fin 32) (sys : BitVec 12) (s : State) : exec (.mts h a sys) s = execMts h a sys s := rfl
theorem exec_trap (h : Hdr) (code : BitVec 20) (s : State) : exec (.trap h code) s = execTrap h code s := rfl
theorem exec_brk (h : Hdr) (code : BitVec 20) (s : State) : exec (.brk h code) s = execBrk h code s := rfl
theorem exec_resume (h : Hdr) (s : State) : exec (.resume h) s = execResume h s := rfl
theorem exec_resumeNext (h : Hdr) (s : State) : exec (.resumeNext h) s = execResumeNext h s := rfl
theorem exec_abort (h : Hdr) (s : State) : exec (.abort h) s = execAbort h s := rfl
theorem exec_tlbinv (h : Hdr) (k : TlbScope) (s : State) : exec (.tlbinv h k) s = execTlbinv h k s := rfl
theorem exec_ctxsv (h : Hdr) (d a : Fin 32) (ctx : Fin 4) (s : State) : exec (.ctxsv h d a ctx) s = execCtxsv h d a ctx s := rfl
theorem exec_ctxld (h : Hdr) (d a : Fin 32) (ctx : Fin 4) (s : State) : exec (.ctxld h d a ctx) s = execCtxld h d a ctx s := rfl
theorem exec_smap (h : Hdr) (d a : Fin 32) (cap : BitVec 20) (s : State) : exec (.smap h d a cap) s = execSmap h d a cap s := rfl
theorem exec_pclr (h : Hdr) (f : PclrForm) (s : State) : exec (.pclr h f) s = execPclr h f s := rfl
theorem exec_firingBudgetExpiry (g : AgentId) (s : State) : exec (.firingBudgetExpiry g) s = execFiringBudgetExpiry g s := rfl
theorem exec_firingStart (g : AgentId) (s : State) : exec (.firingStart g) s = execFiringStart g s := rfl
theorem exec_handlerFiring (g : AgentId) (s : State) : exec (.handlerFiring g) s = execHandlerFiring g s := rfl
theorem exec_nonDelegatedTrap (g : AgentId) (s : State) : exec (.nonDelegatedTrap g) s = execNonDelegatedTrap g s := rfl
theorem exec_tokenArrival (q : Fin 32) (c : Fin 4) (edge : Nat) (s : State) : exec (.tokenArrival q c edge) s = execTokenArrival q c edge s := rfl
theorem exec_creditReturn (q : Fin 32) (c : Fin 4) (edge : Nat) (s : State) : exec (.creditReturn q c edge) s = execCreditReturn q c edge s := rfl
theorem exec_actorEnableArrival (q : Fin 32) (c : Fin 4) (s : State) : exec (.actorEnableArrival q c) s = execActorEnableArrival q c s := rfl
theorem exec_tqPendingSignal (t : Fin 256) (tq : Fin 16) (s : State) : exec (.tqPendingSignal t tq) s = execTqPendingSignal t tq s := rfl
theorem exec_groupOperation (g : AgentId) (s : State) : exec (.groupOperation g) s = execGroupOperation g s := rfl
theorem exec_groupResponse (g : AgentId) (n : Nat) (s : State) : exec (.groupResponse g n) s = execGroupResponse g n s := rfl
theorem exec_submission (q : Fin 32) (w : SubWrite) (rcd : BitVec 512) (s : State) : exec (.submission q w rcd) s = execSubmission q w rcd s := rfl
theorem exec_launchSetup (q : Fin 32) (c : Fin 4) (d : Fin 2) (s : State) : exec (.launchSetup q c d) s = execLaunchSetup q c d s := rfl
theorem exec_configurationAcknowledgement (q : Fin 32) (c : Fin 4) (src : AckSource) (s : State) : exec (.configurationAcknowledgement q c src) s = execConfigurationAcknowledgement q c src s := rfl
theorem exec_launchEnable (q : Fin 32) (c : Fin 4) (s : State) : exec (.launchEnable q c) s = execLaunchEnable q c s := rfl
theorem exec_sourceEnable (q : Fin 32) (c : Fin 4) (s : State) : exec (.sourceEnable q c) s = execSourceEnable q c s := rfl
theorem exec_launchComplete (q : Fin 32) (c : Fin 4) (s : State) : exec (.launchComplete q c) s = execLaunchComplete q c s := rfl
theorem exec_launchAbort (q : Fin 32) (c : Fin 4) (s : State) : exec (.launchAbort q c) s = execLaunchAbort q c s := rfl
theorem exec_timeSliceCommand (bytes : Nat) (rcd : BitVec 512) (s : State) : exec (.timeSliceCommand bytes rcd) s = execTimeSliceCommand bytes rcd s := rfl
theorem exec_timeSliceApply (t : Fin 256) (s : State) : exec (.timeSliceApply t) s = execTimeSliceApply t s := rfl
theorem exec_seqRegisterArrival (t : Fin 256) (s : State) : exec (.seqRegisterArrival t) s = execSeqRegisterArrival t s := rfl
theorem exec_writeCoalescingDrain (g : AgentId) (n : Nat) (s : State) : exec (.writeCoalescingDrain g n) s = execWriteCoalescingDrain g n s := rfl
theorem exec_sliceAccess (g : AgentId) (n : Nat) (s : State) : exec (.sliceAccess g n) s = execSliceAccess g n s := rfl
theorem exec_sliceFill (mctx : Fin 128) (line : Nat) (s : State) : exec (.sliceFill mctx line) s = execSliceFill mctx line s := rfl
theorem exec_memoryResponse (g : AgentId) (n : Nat) (s : State) : exec (.memoryResponse g n) s = execMemoryResponse g n s := rfl
theorem exec_lostRequest (g : AgentId) (n : Nat) (reason : Fin 4) (s : State) : exec (.lostRequest g n reason) s = execLostRequest g n reason s := rfl
theorem exec_tableWalk (t : Fin 256) (mctx : Fin 128) (va : Word) (s : State) : exec (.tableWalk t mctx va) s = execTableWalk t mctx va s := rfl
theorem exec_fractRetry (q : Fin 32) (s : State) : exec (.fractRetry q) s = execFractRetry q s := rfl
theorem exec_fractFail (q : Fin 32) (s : State) : exec (.fractFail q) s = execFractFail q s := rfl
theorem exec_matrixOpStart (t : Fin 256) (q : Fin 4) (s : State) : exec (.matrixOpStart t q) s = execMatrixOpStart t q s := rfl
theorem exec_waveFetch (t : Fin 256) (q : Fin 4) (s : State) : exec (.waveFetch t q) s = execWaveFetch t q s := rfl
theorem exec_matrixOpComplete (t : Fin 256) (q : Fin 4) (s : State) : exec (.matrixOpComplete t q) s = execMatrixOpComplete t q s := rfl
theorem exec_sweepStart (t : Fin 256) (s : State) : exec (.sweepStart t) s = execSweepStart t s := rfl
theorem exec_sweepEnd (t : Fin 256) (s : State) : exec (.sweepEnd t) s = execSweepEnd t s := rfl
theorem exec_gangFormation (t : Fin 256) (q : Fin 4) (s : State) : exec (.gangFormation t q) s = execGangFormation t q s := rfl
theorem exec_requestStart (cg : Fin 32) (s : State) : exec (.requestStart cg) s = execRequestStart cg s := rfl
theorem exec_engineBeat (cg : Fin 32) (n : Nat) (s : State) : exec (.engineBeat cg n) s = execEngineBeat cg n s := rfl
theorem exec_requestComplete (cg : Fin 32) (n : Nat) (s : State) : exec (.requestComplete cg n) s = execRequestComplete cg n s := rfl
theorem exec_templateFiring (g : AgentId) (slot : Fin 16) (s : State) : exec (.templateFiring g slot) s = execTemplateFiring g slot s := rfl
theorem exec_pushProgramPass (slice : Fin 320) (j : Fin 4) (s : State) : exec (.pushProgramPass slice j) s = execPushProgramPass slice j s := rfl
theorem exec_relayoutAcknowledgement (conv : Nat) (cluster : Fin 32) (s : State) : exec (.relayoutAcknowledgement conv cluster) s = execRelayoutAcknowledgement conv cluster s := rfl
theorem exec_conversionUnitStart (conv unit : Nat) (s : State) : exec (.conversionUnitStart conv unit) s = execConversionUnitStart conv unit s := rfl
theorem exec_conversionUnitDone (conv unit : Nat) (s : State) : exec (.conversionUnitDone conv unit) s = execConversionUnitDone conv unit s := rfl
theorem exec_staBeat (cg : Fin 32) (n : Nat) (s : State) : exec (.staBeat cg n) s = execStaBeat cg n s := rfl
theorem exec_staloadComplete (cg : Fin 32) (slot : Fin 8) (s : State) : exec (.staloadComplete cg slot) s = execStaloadComplete cg slot s := rfl
theorem exec_stafreeComplete (cg : Fin 32) (slot : Fin 8) (s : State) : exec (.stafreeComplete cg slot) s = execStafreeComplete cg slot s := rfl
theorem exec_stagingDone (r : Fin 128) (s : State) : exec (.stagingDone r) s = execStagingDone r s := rfl
theorem exec_swapToken (r : Fin 128) (s : State) : exec (.swapToken r) s = execSwapToken r s := rfl
theorem exec_drainComplete (r : Fin 128) (s : State) : exec (.drainComplete r) s = execDrainComplete r s := rfl
theorem exec_drainBudgetExpiry (r : Fin 128) (s : State) : exec (.drainBudgetExpiry r) s = execDrainBudgetExpiry r s := rfl
theorem exec_clockRelock (r : Fin 128) (s : State) : exec (.clockRelock r) s = execClockRelock r s := rfl
theorem exec_powerWindow (r : Fin 128) (tenthWatts : Nat) (s : State) : exec (.powerWindow r tenthWatts) s = execPowerWindow r tenthWatts s := rfl
theorem exec_packetQuarantine (x : Quarantine) (s : State) : exec (.packetQuarantine x) s = execPacketQuarantine x s := rfl
theorem exec_flitReplay (x : FlitRetry) (s : State) : exec (.flitReplay x) s = execFlitReplay x s := rfl
theorem exec_linkPortDown (port : Fin 16) (s : State) : exec (.linkPortDown port) s = execLinkPortDown port s := rfl
theorem exec_linkRetrain (port : Fin 16) (s : State) : exec (.linkRetrain port) s = execLinkRetrain port s := rfl
theorem exec_uncorrectableError (p : ErrPlace) (s : State) : exec (.uncorrectableError p) s = execUncorrectableError p s := rfl
theorem exec_correctedError (pa : Nat) (s : State) : exec (.correctedError pa) s = execCorrectedError pa s := rfl
theorem exec_thermalSample (n : Fin 128) (temp : BitVec 8) (s : State) : exec (.thermalSample n temp) s = execThermalSample n temp s := rfl
theorem exec_level2Escalation (stack : Fin 8) (s : State) : exec (.level2Escalation stack) s = execLevel2Escalation stack s := rfl
theorem exec_selfRefreshEntry (pc : Fin 512) (s : State) : exec (.selfRefreshEntry pc) s = execSelfRefreshEntry pc s := rfl
theorem exec_limiterEngage (s : State) : exec (.limiterEngage) s = execLimiterEngage  s := rfl
theorem exec_limiterStepDown (s : State) : exec (.limiterStepDown) s = execLimiterStepDown  s := rfl
theorem exec_limiterStepUp (s : State) : exec (.limiterStepUp) s = execLimiterStepUp  s := rfl
theorem exec_hangDetected (q : Fin 32) (s : State) : exec (.hangDetected q) s = execHangDetected q s := rfl
theorem exec_apertureRead (q : Fin 32) (off : Nat) (n : Nat) (s : State) : exec (.apertureRead q off n) s = execApertureRead q off n s := rfl
theorem exec_apertureWrite (q : Fin 32) (off : Nat) (bytes : List Byte) (s : State) : exec (.apertureWrite q off bytes) s = execApertureWrite q off bytes s := rfl
theorem exec_apertureAtomicop (q : Fin 32) (off : Nat) (op : AtomOp) (isCas b8 : Bool) (v cmp : Word) (s : State) : exec (.apertureAtomicop q off op isCas b8 v cmp) s = execApertureAtomicop q off op isCas b8 v cmp s := rfl
theorem exec_cqhead (q : Fin 32) (fault : Bool) (v : Word) (s : State) : exec (.cqhead q fault v) s = execCqhead q fault v s := rfl
theorem exec_featctlGo (s : State) : exec (.featctlGo) s = execFeatctlGo  s := rfl
theorem exec_hbmThr (v : Word) (s : State) : exec (.hbmThr v) s = execHbmThr v s := rfl
theorem exec_mcElogw3 (s : State) : exec (.mcElogw3) s = execMcElogw3  s := rfl
theorem exec_registerWrite (r : HostReg) (v : Word) (s : State) : exec (.registerWrite r v) s = execRegisterWrite r v s := rfl
theorem exec_getVersion (f : PciFn) (s : State) : exec (.getVersion f) s = execGetVersion f s := rfl
theorem exec_getCapabilities (f : PciFn) (s : State) : exec (.getCapabilities f) s = execGetCapabilities f s := rfl
theorem exec_negotiateAlgorithms (f : PciFn) (ok : Bool) (s : State) : exec (.negotiateAlgorithms f ok) s = execNegotiateAlgorithms f ok s := rfl
theorem exec_getDigests (f : PciFn) (s : State) : exec (.getDigests f) s = execGetDigests f s := rfl
theorem exec_getCertificate (f : PciFn) (s : State) : exec (.getCertificate f) s = execGetCertificate f s := rfl
theorem exec_challenge (r : SignedRequest) (s : State) : exec (.challenge r) s = execChallenge r s := rfl
theorem exec_getMeasurements (r : SignedRequest) (index : Nat) (s : State) : exec (.getMeasurements r index) s = execGetMeasurements r index s := rfl
theorem exec_keyExchange (r : SignedRequest) (s : State) : exec (.keyExchange r) s = execKeyExchange r s := rfl
theorem exec_finish (f : PciFn) (s : State) : exec (.finish f) s = execFinish f s := rfl
theorem exec_heartbeat (f : PciFn) (s : State) : exec (.heartbeat f) s = execHeartbeat f s := rfl
theorem exec_keyUpdate (f : PciFn) (s : State) : exec (.keyUpdate f) s = execKeyUpdate f s := rfl
theorem exec_endSession (f : PciFn) (s : State) : exec (.endSession f) s = execEndSession f s := rfl
theorem exec_unsupportedRequest (f : PciFn) (s : State) : exec (.unsupportedRequest f) s = execUnsupportedRequest f s := rfl
theorem exec_keyload (q : Fin 32) (slot : Fin 4096) (hostvis : Bool) (wrapped : BitVec 576) (s : State) : exec (.keyload q slot hostvis wrapped) s = execKeyload q slot hostvis wrapped s := rfl
theorem exec_keyerase (q : Fin 32) (slot : Fin 4096) (s : State) : exec (.keyerase q slot) s = execKeyerase q slot s := rfl
theorem exec_keystat (q : Fin 32) (slot : Fin 4096) (s : State) : exec (.keystat q slot) s = execKeystat q slot s := rfl
theorem exec_ideKm (f : PciFn) (stream : Fin 33) (s : State) : exec (.ideKm f stream) s = execIdeKm f stream s := rfl
theorem exec_lockInterface (r : TdiRequest) (s : State) : exec (.lockInterface r) s = execLockInterface r s := rfl
theorem exec_tdiUnlock (q : Fin 32) (error : Bool) (s : State) : exec (.tdiUnlock q error) s = execTdiUnlock q error s := rfl
theorem exec_partitionCreate (q : Fin 32) (clusters : BitVec 32) (keys : List (Fin 4096)) (peer host : Bool) (owner : BitVec 256) (mapArea : Word) (s : State) : exec (.partitionCreate q clusters keys peer host owner mapArea) s = execPartitionCreate q clusters keys peer host owner mapArea s := rfl
theorem exec_partitionDestroy (q : Fin 32) (s : State) : exec (.partitionDestroy q) s = execPartitionDestroy q s := rfl
theorem exec_powerOn (s : State) : exec (.powerOn) s = execPowerOn  s := rfl
theorem exec_functionReady (u : ReadyUnit) (s : State) : exec (.functionReady u) s = execFunctionReady u s := rfl
theorem exec_deviceReset (s : State) : exec (.deviceReset) s = execDeviceReset  s := rfl
theorem exec_operatorEmit (r : Fin 128) (port : Fin 14) (accept : Bool) (s : State) : exec (.operatorEmit r port accept) s = execOperatorEmit r port accept s := rfl
theorem exec_operatorIdle (r : Fin 128) (s : State) : exec (.operatorIdle r) s = execOperatorIdle r s := rfl

end Sys2Proof.Machine
end

