-- ==== Sys2Proof/Laws/PerInstr.lean ====
section
/-! SUPPORT. The round trip of every instruction, one lemma per constructor: the decoder gives it back
from the word that the encoder writes. -/

namespace Sys2Proof.Laws.RoundTrip

set_option linter.unusedSimpArgs false
set_option Elab.async false

/-- A well-formed instruction has a word, and its word decodes to it. -/
def Statement (i : Instr) : Prop :=
  i.wf = true → ∃ w : Word, encode i = some w ∧ decodeBytes false (wordBytes w) = some (.instr i)

theorem back {i : Instr} {w : Word} (h1 : encode i = some w) (h2 : decodeNat false w.toNat = .instr i) :
    ∃ w : Word, encode i = some w ∧ decodeBytes false (wordBytes w) = some (.instr i) :=
  ⟨w, h1, by rw [decode_word, h2]⟩

theorem nop_of {w : Nat} {op : BitVec 8} {rest : BitVec 51} (h1 : field w 51 5 = 16) (h2 : field w 56 8 = op.toNat)
    (h3 : field w 0 51 = rest.toNat) : decodeNat false w = .instr (.nop op rest) := by
  simp only [decodeNat, h1, h2, h3, if_true, BitVec.ofNat_toNat, BitVec.setWidth_eq]

theorem nop (op : BitVec 8) (rest : BitVec 51) : Statement (.nop op rest) := fun _ => by
  refine back rfl ?_
  have hf : Fits [(51, rest.toNat)] := by
    intro x hx
    simp only [List.mem_cons, List.not_mem_nil, or_false] at hx
    subst hx
    exact rest.isLt
  obtain ⟨e, F⟩ := packWord_nat (h := ⟨true, 0⟩) op.isLt hf rfl
  have hd := head_of F rfl
  have h3 := field_at F 3 rfl
  rw [e]
  simp only [List.drop_succ_cons, List.drop_zero, List.map_nil, List.sum_nil, List.drop_nil] at h3
  exact nop_of hd.pn5 hd.op_ h3

theorem dec_add (h : Hdr) (d : Fin 32) (a : Fin 32) (b : Fin 32) (ty : Ty) (sat : Bool) (hw : (Instr.add h d a b ty sat).wf = true) {w : Nat}
    (F : FieldsA w 0x01 h d a b 0 0 0 (tyCode ty) sat.toNat) : decodeNat false w = .instr (.add h d a b ty sat) := by
  rw [F.decode (hdr_ok hw rfl)]
  have wt : (tyInts.contains ty : Bool) = true := form_ok hw
  have s_0_1 : field w 0 1 = sat.toNat := by
    have := d.isLt; have := a.isLt; have := b.isLt; have := tyCode_lt ty; have := toNat_lt2 sat; rw [show field w 0 1 = _ from field_sub F.md_ 0 1 (by decide)]; omega
  have s_1_11 : field w 1 11 = 0 := by
    have := d.isLt; have := a.isLt; have := b.isLt; have := tyCode_lt ty; have := toNat_lt2 sat; rw [show field w 1 11 = _ from field_sub F.md_ 1 11 (by decide)]; omega
  show decArith w h = _
  simp [decArith, form, unused, regf, resv, F.fn_, F.d_, F.a_, F.b_, F.c_, F.k_, F.ty_, f5_of d F.d_, f5_of a F.a_, f5_of b F.b_, s_0_1, s_1_11, tyBad_code wt, tyGet_code]

theorem add (h : Hdr) (d : Fin 32) (a : Fin 32) (b : Fin 32) (ty : Ty) (sat : Bool) : Statement (.add h d a b ty sat) := fun hw =>
  back rfl (dec_add h d a b ty sat hw (fmtA_fields (by decide)
    (h_d := d.isLt.trans_le (by decide))
    (h_a := a.isLt.trans_le (by decide))
    (h_b := b.isLt.trans_le (by decide))
    (h_c := by omega)
    (h_fn := by omega)
    (h_k := by omega)
    (h_ty := tyCode_lt _)
    (h_md := (toNat_lt2 sat).trans_le (by decide))))

theorem dec_sub (h : Hdr) (d : Fin 32) (a : Fin 32) (b : Fin 32) (ty : Ty) (sat : Bool) (hw : (Instr.sub h d a b ty sat).wf = true) {w : Nat}
    (F : FieldsA w 0x01 h d a b 0 1 0 (tyCode ty) sat.toNat) : decodeNat false w = .instr (.sub h d a b ty sat) := by
  rw [F.decode (hdr_ok hw rfl)]
  have wt : (tyInts.contains ty : Bool) = true := form_ok hw
  have s_0_1 : field w 0 1 = sat.toNat := by
    have := d.isLt; have := a.isLt; have := b.isLt; have := tyCode_lt ty; have := toNat_lt2 sat; rw [show field w 0 1 = _ from field_sub F.md_ 0 1 (by decide)]; omega
  have s_1_11 : field w 1 11 = 0 := by
    have := d.isLt; have := a.isLt; have := b.isLt; have := tyCode_lt ty; have := toNat_lt2 sat; rw [show field w 1 11 = _ from field_sub F.md_ 1 11 (by decide)]; omega
  show decArith w h = _
  simp [decArith, form, unused, regf, resv, F.fn_, F.d_, F.a_, F.b_, F.c_, F.k_, F.ty_, f5_of d F.d_, f5_of a F.a_, f5_of b F.b_, s_0_1, s_1_11, tyBad_code wt, tyGet_code]

theorem sub (h : Hdr) (d : Fin 32) (a : Fin 32) (b : Fin 32) (ty : Ty) (sat : Bool) : Statement (.sub h d a b ty sat) := fun hw =>
  back rfl (dec_sub h d a b ty sat hw (fmtA_fields (by decide)
    (h_d := d.isLt.trans_le (by decide))
    (h_a := a.isLt.trans_le (by decide))
    (h_b := b.isLt.trans_le (by decide))
    (h_c := by omega)
    (h_fn := by omega)
    (h_k := by omega)
    (h_ty := tyCode_lt _)
    (h_md := (toNat_lt2 sat).trans_le (by decide))))

theorem dec_mul (h : Hdr) (d : Fin 32) (a : Fin 32) (b : Fin 32) (ty : Ty) (sat : Bool) (hw : (Instr.mul h d a b ty sat).wf = true) {w : Nat}
    (F : FieldsA w 0x01 h d a b 0 2 0 (tyCode ty) sat.toNat) : decodeNat false w = .instr (.mul h d a b ty sat) := by
  rw [F.decode (hdr_ok hw rfl)]
  have wt : (tyInts.contains ty : Bool) = true := form_ok hw
  have s_0_1 : field w 0 1 = sat.toNat := by
    have := d.isLt; have := a.isLt; have := b.isLt; have := tyCode_lt ty; have := toNat_lt2 sat; rw [show field w 0 1 = _ from field_sub F.md_ 0 1 (by decide)]; omega
  have s_1_11 : field w 1 11 = 0 := by
    have := d.isLt; have := a.isLt; have := b.isLt; have := tyCode_lt ty; have := toNat_lt2 sat; rw [show field w 1 11 = _ from field_sub F.md_ 1 11 (by decide)]; omega
  show decArith w h = _
  simp [decArith, form, unused, regf, resv, F.fn_, F.d_, F.a_, F.b_, F.c_, F.k_, F.ty_, f5_of d F.d_, f5_of a F.a_, f5_of b F.b_, s_0_1, s_1_11, tyBad_code wt, tyGet_code]

theorem mul (h : Hdr) (d : Fin 32) (a : Fin 32) (b : Fin 32) (ty : Ty) (sat : Bool) : Statement (.mul h d a b ty sat) := fun hw =>
  back rfl (dec_mul h d a b ty sat hw (fmtA_fields (by decide)
    (h_d := d.isLt.trans_le (by decide))
    (h_a := a.isLt.trans_le (by decide))
    (h_b := b.isLt.trans_le (by decide))
    (h_c := by omega)
    (h_fn := by omega)
    (h_k := by omega)
    (h_ty := tyCode_lt _)
    (h_md := (toNat_lt2 sat).trans_le (by decide))))

theorem dec_mulh (h : Hdr) (d : Fin 32) (a : Fin 32) (b : Fin 32) (ty : Ty) (hw : (Instr.mulh h d a b ty).wf = true) {w : Nat}
    (F : FieldsA w 0x01 h d a b 0 3 0 (tyCode ty) 0) : decodeNat false w = .instr (.mulh h d a b ty) := by
  rw [F.decode (hdr_ok hw rfl)]
  have wt : (tyInts.contains ty : Bool) = true := form_ok hw
  have s_0_1 : field w 0 1 = _ := field_sub F.md_ 0 1 (by decide)
  have s_1_11 : field w 1 11 = _ := field_sub F.md_ 1 11 (by decide)
  show decArith w h = _
  simp [decArith, form, unused, regf, resv, F.fn_, F.d_, F.a_, F.b_, F.c_, F.k_, F.ty_, f5_of d F.d_, f5_of a F.a_, f5_of b F.b_, s_0_1, s_1_11, tyBad_code wt, tyGet_code]

theorem mulh (h : Hdr) (d : Fin 32) (a : Fin 32) (b : Fin 32) (ty : Ty) : Statement (.mulh h d a b ty) := fun hw =>
  back rfl (dec_mulh h d a b ty hw (fmtA_fields (by decide)
    (h_d := d.isLt.trans_le (by decide))
    (h_a := a.isLt.trans_le (by decide))
    (h_b := b.isLt.trans_le (by decide))
    (h_c := by omega)
    (h_fn := by omega)
    (h_k := by omega)
    (h_ty := tyCode_lt _)
    (h_md := by omega)))

theorem dec_div (h : Hdr) (d : Fin 32) (a : Fin 32) (b : Fin 32) (ty : Ty) (hw : (Instr.div h d a b ty).wf = true) {w : Nat}
    (F : FieldsA w 0x01 h d a b 0 4 0 (tyCode ty) 0) : decodeNat false w = .instr (.div h d a b ty) := by
  rw [F.decode (hdr_ok hw rfl)]
  have wt : (tyInts.contains ty : Bool) = true := form_ok hw
  have s_0_1 : field w 0 1 = _ := field_sub F.md_ 0 1 (by decide)
  have s_1_11 : field w 1 11 = _ := field_sub F.md_ 1 11 (by decide)
  show decArith w h = _
  simp [decArith, form, unused, regf, resv, F.fn_, F.d_, F.a_, F.b_, F.c_, F.k_, F.ty_, f5_of d F.d_, f5_of a F.a_, f5_of b F.b_, s_0_1, s_1_11, tyBad_code wt, tyGet_code]

theorem div (h : Hdr) (d : Fin 32) (a : Fin 32) (b : Fin 32) (ty : Ty) : Statement (.div h d a b ty) := fun hw =>
  back rfl (dec_div h d a b ty hw (fmtA_fields (by decide)
    (h_d := d.isLt.trans_le (by decide))
    (h_a := a.isLt.trans_le (by decide))
    (h_b := b.isLt.trans_le (by decide))
    (h_c := by omega)
    (h_fn := by omega)
    (h_k := by omega)
    (h_ty := tyCode_lt _)
    (h_md := by omega)))

theorem dec_rem (h : Hdr) (d : Fin 32) (a : Fin 32) (b : Fin 32) (ty : Ty) (hw : (Instr.rem h d a b ty).wf = true) {w : Nat}
    (F : FieldsA w 0x01 h d a b 0 5 0 (tyCode ty) 0) : decodeNat false w = .instr (.rem h d a b ty) := by
  rw [F.decode (hdr_ok hw rfl)]
  have wt : (tyInts.contains ty : Bool) = true := form_ok hw
  have s_0_1 : field w 0 1 = _ := field_sub F.md_ 0 1 (by decide)
  have s_1_11 : field w 1 11 = _ := field_sub F.md_ 1 11 (by decide)
  show decArith w h = _
  simp [decArith, form, unused, regf, resv, F.fn_, F.d_, F.a_, F.b_, F.c_, F.k_, F.ty_, f5_of d F.d_, f5_of a F.a_, f5_of b F.b_, s_0_1, s_1_11, tyBad_code wt, tyGet_code]

theorem rem (h : Hdr) (d : Fin 32) (a : Fin 32) (b : Fin 32) (ty : Ty) : Statement (.rem h d a b ty) := fun hw =>
  back rfl (dec_rem h d a b ty hw (fmtA_fields (by decide)
    (h_d := d.isLt.trans_le (by decide))
    (h_a := a.isLt.trans_le (by decide))
    (h_b := b.isLt.trans_le (by decide))
    (h_c := by omega)
    (h_fn := by omega)
    (h_k := by omega)
    (h_ty := tyCode_lt _)
    (h_md := by omega)))

theorem dec_min (h : Hdr) (d : Fin 32) (a : Fin 32) (b : Fin 32) (ty : Ty) (hw : (Instr.min h d a b ty).wf = true) {w : Nat}
    (F : FieldsA w 0x01 h d a b 0 6 0 (tyCode ty) 0) : decodeNat false w = .instr (.min h d a b ty) := by
  rw [F.decode (hdr_ok hw rfl)]
  have wt : (tyInts.contains ty : Bool) = true := form_ok hw
  have s_0_1 : field w 0 1 = _ := field_sub F.md_ 0 1 (by decide)
  have s_1_11 : field w 1 11 = _ := field_sub F.md_ 1 11 (by decide)
  show decArith w h = _
  simp [decArith, form, unused, regf, resv, F.fn_, F.d_, F.a_, F.b_, F.c_, F.k_, F.ty_, f5_of d F.d_, f5_of a F.a_, f5_of b F.b_, s_0_1, s_1_11, tyBad_code wt, tyGet_code]

theorem min (h : Hdr) (d : Fin 32) (a : Fin 32) (b : Fin 32) (ty : Ty) : Statement (.min h d a b ty) := fun hw =>
  back rfl (dec_min h d a b ty hw (fmtA_fields (by decide)
    (h_d := d.isLt.trans_le (by decide))
    (h_a := a.isLt.trans_le (by decide))
    (h_b := b.isLt.trans_le (by decide))
    (h_c := by omega)
    (h_fn := by omega)
    (h_k := by omega)
    (h_ty := tyCode_lt _)
    (h_md := by omega)))

theorem dec_max (h : Hdr) (d : Fin 32) (a : Fin 32) (b : Fin 32) (ty : Ty) (hw : (Instr.max h d a b ty).wf = true) {w : Nat}
    (F : FieldsA w 0x01 h d a b 0 7 0 (tyCode ty) 0) : decodeNat false w = .instr (.max h d a b ty) := by
  rw [F.decode (hdr_ok hw rfl)]
  have wt : (tyInts.contains ty : Bool) = true := form_ok hw
  have s_0_1 : field w 0 1 = _ := field_sub F.md_ 0 1 (by decide)
  have s_1_11 : field w 1 11 = _ := field_sub F.md_ 1 11 (by decide)
  show decArith w h = _
  simp [decArith, form, unused, regf, resv, F.fn_, F.d_, F.a_, F.b_, F.c_, F.k_, F.ty_, f5_of d F.d_, f5_of a F.a_, f5_of b F.b_, s_0_1, s_1_11, tyBad_code wt, tyGet_code]

theorem max (h : Hdr) (d : Fin 32) (a : Fin 32) (b : Fin 32) (ty : Ty) : Statement (.max h d a b ty) := fun hw =>
  back rfl (dec_max h d a b ty hw (fmtA_fields (by decide)
    (h_d := d.isLt.trans_le (by decide))
    (h_a := a.isLt.trans_le (by decide))
    (h_b := b.isLt.trans_le (by decide))
    (h_c := by omega)
    (h_fn := by omega)
    (h_k := by omega)
    (h_ty := tyCode_lt _)
    (h_md := by omega)))

theorem dec_and (h : Hdr) (d : Fin 32) (a : Fin 32) (b : Fin 32) (ty : Ty) (hw : (Instr.and h d a b ty).wf = true) {w : Nat}
    (F : FieldsA w 0x02 h d a b 0 0 0 (tyCode ty) 0) : decodeNat false w = .instr (.and h d a b ty) := by
  rw [F.decode (hdr_ok hw rfl)]
  have wt : (tyInts.contains ty : Bool) = true := form_ok hw
  show decLogic w h = _
  simp [decLogic, form, unused, regf, resv, decA3, F.fn_, F.d_, F.a_, F.b_, F.c_, F.k_, F.ty_, F.md_, f5_of d F.d_, f5_of a F.a_, f5_of b F.b_, tyBad_code wt, tyGet_code]

theorem and (h : Hdr) (d : Fin 32) (a : Fin 32) (b : Fin 32) (ty : Ty) : Statement (.and h d a b ty) := fun hw =>
  back rfl (dec_and h d a b ty hw (fmtA_fields (by decide)
    (h_d := d.isLt.trans_le (by decide))
    (h_a := a.isLt.trans_le (by decide))
    (h_b := b.isLt.trans_le (by decide))
    (h_c := by omega)
    (h_fn := by omega)
    (h_k := by omega)
    (h_ty := tyCode_lt _)
    (h_md := by omega)))

theorem dec_or (h : Hdr) (d : Fin 32) (a : Fin 32) (b : Fin 32) (ty : Ty) (hw : (Instr.or h d a b ty).wf = true) {w : Nat}
    (F : FieldsA w 0x02 h d a b 0 1 0 (tyCode ty) 0) : decodeNat false w = .instr (.or h d a b ty) := by
  rw [F.decode (hdr_ok hw rfl)]
  have wt : (tyInts.contains ty : Bool) = true := form_ok hw
  show decLogic w h = _
  simp [decLogic, form, unused, regf, resv, decA3, F.fn_, F.d_, F.a_, F.b_, F.c_, F.k_, F.ty_, F.md_, f5_of d F.d_, f5_of a F.a_, f5_of b F.b_, tyBad_code wt, tyGet_code]

theorem or (h : Hdr) (d : Fin 32) (a : Fin 32) (b : Fin 32) (ty : Ty) : Statement (.or h d a b ty) := fun hw =>
  back rfl (dec_or h d a b ty hw (fmtA_fields (by decide)
    (h_d := d.isLt.trans_le (by decide))
    (h_a := a.isLt.trans_le (by decide))
    (h_b := b.isLt.trans_le (by decide))
    (h_c := by omega)
    (h_fn := by omega)
    (h_k := by omega)
    (h_ty := tyCode_lt _)
    (h_md := by omega)))

theorem dec_xor (h : Hdr) (d : Fin 32) (a : Fin 32) (b : Fin 32) (ty : Ty) (hw : (Instr.xor h d a b ty).wf = true) {w : Nat}
    (F : FieldsA w 0x02 h d a b 0 2 0 (tyCode ty) 0) : decodeNat false w = .instr (.xor h d a b ty) := by
  rw [F.decode (hdr_ok hw rfl)]
  have wt : (tyInts.contains ty : Bool) = true := form_ok hw
  show decLogic w h = _
  simp [decLogic, form, unused, regf, resv, decA3, F.fn_, F.d_, F.a_, F.b_, F.c_, F.k_, F.ty_, F.md_, f5_of d F.d_, f5_of a F.a_, f5_of b F.b_, tyBad_code wt, tyGet_code]

theorem xor (h : Hdr) (d : Fin 32) (a : Fin 32) (b : Fin 32) (ty : Ty) : Statement (.xor h d a b ty) := fun hw =>
  back rfl (dec_xor h d a b ty hw (fmtA_fields (by decide)
    (h_d := d.isLt.trans_le (by decide))
    (h_a := a.isLt.trans_le (by decide))
    (h_b := b.isLt.trans_le (by decide))
    (h_c := by omega)
    (h_fn := by omega)
    (h_k := by omega)
    (h_ty := tyCode_lt _)
    (h_md := by omega)))

theorem dec_andn (h : Hdr) (d : Fin 32) (a : Fin 32) (b : Fin 32) (ty : Ty) (hw : (Instr.andn h d a b ty).wf = true) {w : Nat}
    (F : FieldsA w 0x02 h d a b 0 3 0 (tyCode ty) 0) : decodeNat false w = .instr (.andn h d a b ty) := by
  rw [F.decode (hdr_ok hw rfl)]
  have wt : (tyInts.contains ty : Bool) = true := form_ok hw
  show decLogic w h = _
  simp [decLogic, form, unused, regf, resv, decA3, F.fn_, F.d_, F.a_, F.b_, F.c_, F.k_, F.ty_, F.md_, f5_of d F.d_, f5_of a F.a_, f5_of b F.b_, tyBad_code wt, tyGet_code]

theorem andn (h : Hdr) (d : Fin 32) (a : Fin 32) (b : Fin 32) (ty : Ty) : Statement (.andn h d a b ty) := fun hw =>
  back rfl (dec_andn h d a b ty hw (fmtA_fields (by decide)
    (h_d := d.isLt.trans_le (by decide))
    (h_a := a.isLt.trans_le (by decide))
    (h_b := b.isLt.trans_le (by decide))
    (h_c := by omega)
    (h_fn := by omega)
    (h_k := by omega)
    (h_ty := tyCode_lt _)
    (h_md := by omega)))

theorem dec_shl (h : Hdr) (d : Fin 32) (a : Fin 32) (b : Fin 32) (ty : Ty) (hw : (Instr.shl h d a b ty).wf = true) {w : Nat}
    (F : FieldsA w 0x02 h d a b 0 4 0 (tyCode ty) 0) : decodeNat false w = .instr (.shl h d a b ty) := by
  rw [F.decode (hdr_ok hw rfl)]
  have wt : (tyInts.contains ty : Bool) = true := form_ok hw
  show decLogic w h = _
  simp [decLogic, form, unused, regf, resv, decA3, F.fn_, F.d_, F.a_, F.b_, F.c_, F.k_, F.ty_, F.md_, f5_of d F.d_, f5_of a F.a_, f5_of b F.b_, tyBad_code wt, tyGet_code]

theorem shl (h : Hdr) (d : Fin 32) (a : Fin 32) (b : Fin 32) (ty : Ty) : Statement (.shl h d a b ty) := fun hw =>
  back rfl (dec_shl h d a b ty hw (fmtA_fields (by decide)
    (h_d := d.isLt.trans_le (by decide))
    (h_a := a.isLt.trans_le (by decide))
    (h_b := b.isLt.trans_le (by decide))
    (h_c := by omega)
    (h_fn := by omega)
    (h_k := by omega)
    (h_ty := tyCode_lt _)
    (h_md := by omega)))

theorem dec_shr (h : Hdr) (d : Fin 32) (a : Fin 32) (b : Fin 32) (ty : Ty) (hw : (Instr.shr h d a b ty).wf = true) {w : Nat}
    (F : FieldsA w 0x02 h d a b 0 5 0 (tyCode ty) 0) : decodeNat false w = .instr (.shr h d a b ty) := by
  rw [F.decode (hdr_ok hw rfl)]
  have wt : (tyInts.contains ty : Bool) = true := form_ok hw
  show decLogic w h = _
  simp [decLogic, form, unused, regf, resv, decA3, F.fn_, F.d_, F.a_, F.b_, F.c_, F.k_, F.ty_, F.md_, f5_of d F.d_, f5_of a F.a_, f5_of b F.b_, tyBad_code wt, tyGet_code]

theorem shr (h : Hdr) (d : Fin 32) (a : Fin 32) (b : Fin 32) (ty : Ty) : Statement (.shr h d a b ty) := fun hw =>
  back rfl (dec_shr h d a b ty hw (fmtA_fields (by decide)
    (h_d := d.isLt.trans_le (by decide))
    (h_a := a.isLt.trans_le (by decide))
    (h_b := b.isLt.trans_le (by decide))
    (h_c := by omega)
    (h_fn := by omega)
    (h_k := by omega)
    (h_ty := tyCode_lt _)
    (h_md := by omega)))

theorem dec_sar (h : Hdr) (d : Fin 32) (a : Fin 32) (b : Fin 32) (ty : Ty) (hw : (Instr.sar h d a b ty).wf = true) {w : Nat}
    (F : FieldsA w 0x02 h d a b 0 6 0 (tyCode ty) 0) : decodeNat false w = .instr (.sar h d a b ty) := by
  rw [F.decode (hdr_ok hw rfl)]
  have wt : (tyInts.contains ty : Bool) = true := form_ok hw
  show decLogic w h = _
  simp [decLogic, form, unused, regf, resv, decA3, F.fn_, F.d_, F.a_, F.b_, F.c_, F.k_, F.ty_, F.md_, f5_of d F.d_, f5_of a F.a_, f5_of b F.b_, tyBad_code wt, tyGet_code]

theorem sar (h : Hdr) (d : Fin 32) (a : Fin 32) (b : Fin 32) (ty : Ty) : Statement (.sar h d a b ty) := fun hw =>
  back rfl (dec_sar h d a b ty hw (fmtA_fields (by decide)
    (h_d := d.isLt.trans_le (by decide))
    (h_a := a.isLt.trans_le (by decide))
    (h_b := b.isLt.trans_le (by decide))
    (h_c := by omega)
    (h_fn := by omega)
    (h_k := by omega)
    (h_ty := tyCode_lt _)
    (h_md := by omega)))

theorem dec_rol (h : Hdr) (d : Fin 32) (a : Fin 32) (b : Fin 32) (ty : Ty) (hw : (Instr.rol h d a b ty).wf = true) {w : Nat}
    (F : FieldsA w 0x02 h d a b 0 7 0 (tyCode ty) 0) : decodeNat false w = .instr (.rol h d a b ty) := by
  rw [F.decode (hdr_ok hw rfl)]
  have wt : (tyInts.contains ty : Bool) = true := form_ok hw
  show decLogic w h = _
  simp [decLogic, form, unused, regf, resv, decA3, F.fn_, F.d_, F.a_, F.b_, F.c_, F.k_, F.ty_, F.md_, f5_of d F.d_, f5_of a F.a_, f5_of b F.b_, tyBad_code wt, tyGet_code]

theorem rol (h : Hdr) (d : Fin 32) (a : Fin 32) (b : Fin 32) (ty : Ty) : Statement (.rol h d a b ty) := fun hw =>
  back rfl (dec_rol h d a b ty hw (fmtA_fields (by decide)
    (h_d := d.isLt.trans_le (by decide))
    (h_a := a.isLt.trans_le (by decide))
    (h_b := b.isLt.trans_le (by decide))
    (h_c := by omega)
    (h_fn := by omega)
    (h_k := by omega)
    (h_ty := tyCode_lt _)
    (h_md := by omega)))

theorem dec_cmp (h : Hdr) (cond : Cond) (d : Fin 16) (c : Fin 16) (a : Fin 32) (b : Fin 32) (ty : Ty) (hw : (Instr.cmp h cond d c a b ty).wf = true) {w : Nat}
    (F : FieldsA w 0x03 h d a b c (condCode cond) 0 (tyCode ty) 0) : decodeNat false w = .instr (.cmp h cond d c a b ty) := by
  rw [F.decode (hdr_ok hw rfl)]
  have wt : (tyInts.contains ty && (c == 0 || d != c) : Bool) = true := form_ok hw
  simp only [Bool.and_eq_true, Bool.or_eq_true, beq_iff_eq, bne_iff_ne, ne_eq] at wt
  have e : ((c.val != 0) && (d.val == c.val)) = false := by
    rcases wt.2 with e | e
    · simp [e]
    · have e2 : d.val ≠ c.val := fun x => e (Fin.ext x)
      simp [e2]
  show decCmp w h = _
  simp [decCmp, form, unused, regf, resv, condOf_code, Nat.not_lt.2 (condCode_le _), F.fn_, F.d_, F.a_, F.b_, F.c_, F.k_, F.ty_, F.md_, f4_of d F.d_, f5_of a F.a_, f5_of b F.b_, f4_of c F.c_, tyBad_code wt.1, e, tyGet_code]

theorem cmp (h : Hdr) (cond : Cond) (d : Fin 16) (c : Fin 16) (a : Fin 32) (b : Fin 32) (ty : Ty) : Statement (.cmp h cond d c a b ty) := fun hw =>
  back rfl (dec_cmp h cond d c a b ty hw (fmtA_fields (by decide)
    (h_d := d.isLt.trans_le (by decide))
    (h_a := a.isLt.trans_le (by decide))
    (h_b := b.isLt.trans_le (by decide))
    (h_c := c.isLt.trans_le (by decide))
    (h_fn := by have := condCode_le cond; have := d.isLt; have := c.isLt; have := a.isLt; have := b.isLt; have := tyCode_lt ty; omega)
    (h_k := by omega)
    (h_ty := tyCode_lt _)
    (h_md := by omega)))

theorem dec_clz (h : Hdr) (d : Fin 32) (a : Fin 32) (ty : Ty) (hw : (Instr.clz h d a ty).wf = true) {w : Nat}
    (F : FieldsA w 0x04 h d a 0 0 0 0 (tyCode ty) 0) : decodeNat false w = .instr (.clz h d a ty) := by
  rw [F.decode (hdr_ok hw rfl)]
  have wt : (tyInts.contains ty : Bool) = true := form_ok hw
  show decBits w h = _
  simp [decBits, form, unused, regf, resv, F.fn_, F.d_, F.a_, F.b_, F.c_, F.k_, F.ty_, F.md_, f5_of d F.d_, f5_of a F.a_, tyBad_code wt, tyGet_code]

theorem clz (h : Hdr) (d : Fin 32) (a : Fin 32) (ty : Ty) : Statement (.clz h d a ty) := fun hw =>
  back rfl (dec_clz h d a ty hw (fmtA_fields (by decide)
    (h_d := d.isLt.trans_le (by decide))
    (h_a := a.isLt.trans_le (by decide))
    (h_b := by omega)
    (h_c := by omega)
    (h_fn := by omega)
    (h_k := by omega)
    (h_ty := tyCode_lt _)
    (h_md := by omega)))

theorem dec_ctz (h : Hdr) (d : Fin 32) (a : Fin 32) (ty : Ty) (hw : (Instr.ctz h d a ty).wf = true) {w : Nat}
    (F : FieldsA w 0x04 h d a 0 0 1 0 (tyCode ty) 0) : decodeNat false w = .instr (.ctz h d a ty) := by
  rw [F.decode (hdr_ok hw rfl)]
  have wt : (tyInts.contains ty : Bool) = true := form_ok hw
  show decBits w h = _
  simp [decBits, form, unused, regf, resv, F.fn_, F.d_, F.a_, F.b_, F.c_, F.k_, F.ty_, F.md_, f5_of d F.d_, f5_of a F.a_, tyBad_code wt, tyGet_code]

theorem ctz (h : Hdr) (d : Fin 32) (a : Fin 32) (ty : Ty) : Statement (.ctz h d a ty) := fun hw =>
  back rfl (dec_ctz h d a ty hw (fmtA_fields (by decide)
    (h_d := d.isLt.trans_le (by decide))
    (h_a := a.isLt.trans_le (by decide))
    (h_b := by omega)
    (h_c := by omega)
    (h_fn := by omega)
    (h_k := by omega)
    (h_ty := tyCode_lt _)
    (h_md := by omega)))

theorem dec_popc (h : Hdr) (d : Fin 32) (a : Fin 32) (ty : Ty) (hw : (Instr.popc h d a ty).wf = true) {w : Nat}
    (F : FieldsA w 0x04 h d a 0 0 2 0 (tyCode ty) 0) : decodeNat false w = .instr (.popc h d a ty) := by
  rw [F.decode (hdr_ok hw rfl)]
  have wt : (tyInts.contains ty : Bool) = true := form_ok hw
  show decBits w h = _
  simp [decBits, form, unused, regf, resv, F.fn_, F.d_, F.a_, F.b_, F.c_, F.k_, F.ty_, F.md_, f5_of d F.d_, f5_of a F.a_, tyBad_code wt, tyGet_code]

theorem popc (h : Hdr) (d : Fin 32) (a : Fin 32) (ty : Ty) : Statement (.popc h d a ty) := fun hw =>
  back rfl (dec_popc h d a ty hw (fmtA_fields (by decide)
    (h_d := d.isLt.trans_le (by decide))
    (h_a := a.isLt.trans_le (by decide))
    (h_b := by omega)
    (h_c := by omega)
    (h_fn := by omega)
    (h_k := by omega)
    (h_ty := tyCode_lt _)
    (h_md := by omega)))

theorem dec_bswap (h : Hdr) (d : Fin 32) (a : Fin 32) (ty : Ty) (hw : (Instr.bswap h d a ty).wf = true) {w : Nat}
    (F : FieldsA w 0x04 h d a 0 0 3 0 (tyCode ty) 0) : decodeNat false w = .instr (.bswap h d a ty) := by
  rw [F.decode (hdr_ok hw rfl)]
  have wt : (tyBswap.contains ty : Bool) = true := form_ok hw
  show decBits w h = _
  simp [decBits, form, unused, regf, resv, F.fn_, F.d_, F.a_, F.b_, F.c_, F.k_, F.ty_, F.md_, f5_of d F.d_, f5_of a F.a_, tyBad_code wt, tyGet_code]

theorem bswap (h : Hdr) (d : Fin 32) (a : Fin 32) (ty : Ty) : Statement (.bswap h d a ty) := fun hw =>
  back rfl (dec_bswap h d a ty hw (fmtA_fields (by decide)
    (h_d := d.isLt.trans_le (by decide))
    (h_a := a.isLt.trans_le (by decide))
    (h_b := by omega)
    (h_c := by omega)
    (h_fn := by omega)
    (h_k := by omega)
    (h_ty := tyCode_lt _)
    (h_md := by omega)))

theorem dec_sext (h : Hdr) (d : Fin 32) (a : Fin 32) (b : Fin 64) (hw : (Instr.sext h d a b).wf = true) {w : Nat}
    (F : FieldsA w 0x04 h d a 0 0 4 0 0 b) : decodeNat false w = .instr (.sext h d a b) := by
  rw [F.decode (hdr_ok hw rfl)]
  have s_0_6 : field w 0 6 = b := by
    have := d.isLt; have := a.isLt; have := b.isLt; rw [show field w 0 6 = _ from field_sub F.md_ 0 6 (by decide)]; omega
  have s_6_6 : field w 6 6 = 0 := by
    have := d.isLt; have := a.isLt; have := b.isLt; rw [show field w 6 6 = _ from field_sub F.md_ 6 6 (by decide)]; omega
  show decBits w h = _
  simp [decBits, form, unused, regf, resv, F.fn_, F.d_, F.a_, F.b_, F.c_, F.k_, F.ty_, f5_of d F.d_, f5_of a F.a_, s_0_6, s_6_6]

theorem sext (h : Hdr) (d : Fin 32) (a : Fin 32) (b : Fin 64) : Statement (.sext h d a b) := fun hw =>
  back rfl (dec_sext h d a b hw (fmtA_fields (by decide)
    (h_d := d.isLt.trans_le (by decide))
    (h_a := a.isLt.trans_le (by decide))
    (h_b := by omega)
    (h_c := by omega)
    (h_fn := by omega)
    (h_k := by omega)
    (h_ty := by omega)
    (h_md := b.isLt.trans_le (by decide))))

theorem dec_addi (h : Hdr) (d : Fin 32) (a : Fin 32) (imm : BitVec 32) (hw : (Instr.addi h d a imm).wf = true) {w : Nat}
    (F : FieldsI w 0x05 h d a imm.toNat 0) : decodeNat false w = .instr (.addi h d a imm) := by
  rw [F.decode (hdr_ok hw rfl)]
  show decImm w h = _
  simp [decImm, form, regf, resv, F.fn_, F.d_, F.a_, F.imm_, f5_of d F.d_, f5_of a F.a_]

theorem addi (h : Hdr) (d : Fin 32) (a : Fin 32) (imm : BitVec 32) : Statement (.addi h d a imm) := fun hw =>
  back rfl (dec_addi h d a imm hw (fmtI_fields (by decide)
    (h_d := d.isLt.trans_le (by decide))
    (h_a := a.isLt.trans_le (by decide))
    (h_imm := imm.isLt)
    (h_fn := by omega)))

theorem dec_muli (h : Hdr) (d : Fin 32) (a : Fin 32) (imm : BitVec 32) (hw : (Instr.muli h d a imm).wf = true) {w : Nat}
    (F : FieldsI w 0x05 h d a imm.toNat 1) : decodeNat false w = .instr (.muli h d a imm) := by
  rw [F.decode (hdr_ok hw rfl)]
  show decImm w h = _
  simp [decImm, form, regf, resv, F.fn_, F.d_, F.a_, F.imm_, f5_of d F.d_, f5_of a F.a_]

theorem muli (h : Hdr) (d : Fin 32) (a : Fin 32) (imm : BitVec 32) : Statement (.muli h d a imm) := fun hw =>
  back rfl (dec_muli h d a imm hw (fmtI_fields (by decide)
    (h_d := d.isLt.trans_le (by decide))
    (h_a := a.isLt.trans_le (by decide))
    (h_imm := imm.isLt)
    (h_fn := by omega)))

theorem dec_andi (h : Hdr) (d : Fin 32) (a : Fin 32) (imm : BitVec 32) (hw : (Instr.andi h d a imm).wf = true) {w : Nat}
    (F : FieldsI w 0x05 h d a imm.toNat 2) : decodeNat false w = .instr (.andi h d a imm) := by
  rw [F.decode (hdr_ok hw rfl)]
  show decImm w h = _
  simp [decImm, form, regf, resv, F.fn_, F.d_, F.a_, F.imm_, f5_of d F.d_, f5_of a F.a_]

theorem andi (h : Hdr) (d : Fin 32) (a : Fin 32) (imm : BitVec 32) : Statement (.andi h d a imm) := fun hw =>
  back rfl (dec_andi h d a imm hw (fmtI_fields (by decide)
    (h_d := d.isLt.trans_le (by decide))
    (h_a := a.isLt.trans_le (by decide))
    (h_imm := imm.isLt)
    (h_fn := by omega)))

theorem dec_ori (h : Hdr) (d : Fin 32) (a : Fin 32) (imm : BitVec 32) (hw : (Instr.ori h d a imm).wf = true) {w : Nat}
    (F : FieldsI w 0x05 h d a imm.toNat 3) : decodeNat false w = .instr (.ori h d a imm) := by
  rw [F.decode (hdr_ok hw rfl)]
  show decImm w h = _
  simp [decImm, form, regf, resv, F.fn_, F.d_, F.a_, F.imm_, f5_of d F.d_, f5_of a F.a_]

theorem ori (h : Hdr) (d : Fin 32) (a : Fin 32) (imm : BitVec 32) : Statement (.ori h d a imm) := fun hw =>
  back rfl (dec_ori h d a imm hw (fmtI_fields (by decide)
    (h_d := d.isLt.trans_le (by decide))
    (h_a := a.isLt.trans_le (by decide))
    (h_imm := imm.isLt)
    (h_fn := by omega)))

theorem dec_xori (h : Hdr) (d : Fin 32) (a : Fin 32) (imm : BitVec 32) (hw : (Instr.xori h d a imm).wf = true) {w : Nat}
    (F : FieldsI w 0x05 h d a imm.toNat 4) : decodeNat false w = .instr (.xori h d a imm) := by
  rw [F.decode (hdr_ok hw rfl)]
  show decImm w h = _
  simp [decImm, form, regf, resv, F.fn_, F.d_, F.a_, F.imm_, f5_of d F.d_, f5_of a F.a_]

theorem xori (h : Hdr) (d : Fin 32) (a : Fin 32) (imm : BitVec 32) : Statement (.xori h d a imm) := fun hw =>
  back rfl (dec_xori h d a imm hw (fmtI_fields (by decide)
    (h_d := d.isLt.trans_le (by decide))
    (h_a := a.isLt.trans_le (by decide))
    (h_imm := imm.isLt)
    (h_fn := by omega)))

theorem dec_shli (h : Hdr) (d : Fin 32) (a : Fin 32) (n : Fin 64) (hw : (Instr.shli h d a n).wf = true) {w : Nat}
    (F : FieldsI w 0x05 h d a n 5) : decodeNat false w = .instr (.shli h d a n) := by
  rw [F.decode (hdr_ok hw rfl)]
  have s_7_6 : field w 7 6 = n := by
    have := d.isLt; have := a.isLt; have := n.isLt; rw [show field w 7 6 = _ from field_sub F.imm_ 0 6 (by decide)]; omega
  have s_13_26 : field w 13 26 = 0 := by
    have := d.isLt; have := a.isLt; have := n.isLt; rw [show field w 13 26 = _ from field_sub F.imm_ 6 26 (by decide)]; omega
  show decImm w h = _
  simp [decImm, form, unused, regf, resv, F.fn_, F.d_, F.a_, f5_of d F.d_, f5_of a F.a_, s_7_6, s_13_26]

theorem shli (h : Hdr) (d : Fin 32) (a : Fin 32) (n : Fin 64) : Statement (.shli h d a n) := fun hw =>
  back rfl (dec_shli h d a n hw (fmtI_fields (by decide)
    (h_d := d.isLt.trans_le (by decide))
    (h_a := a.isLt.trans_le (by decide))
    (h_imm := n.isLt.trans_le (by decide))
    (h_fn := by omega)))

theorem dec_shri (h : Hdr) (d : Fin 32) (a : Fin 32) (n : Fin 64) (hw : (Instr.shri h d a n).wf = true) {w : Nat}
    (F : FieldsI w 0x05 h d a n 6) : decodeNat false w = .instr (.shri h d a n) := by
  rw [F.decode (hdr_ok hw rfl)]
  have s_7_6 : field w 7 6 = n := by
    have := d.isLt; have := a.isLt; have := n.isLt; rw [show field w 7 6 = _ from field_sub F.imm_ 0 6 (by decide)]; omega
  have s_13_26 : field w 13 26 = 0 := by
    have := d.isLt; have := a.isLt; have := n.isLt; rw [show field w 13 26 = _ from field_sub F.imm_ 6 26 (by decide)]; omega
  show decImm w h = _
  simp [decImm, form, unused, regf, resv, F.fn_, F.d_, F.a_, f5_of d F.d_, f5_of a F.a_, s_7_6, s_13_26]

theorem shri (h : Hdr) (d : Fin 32) (a : Fin 32) (n : Fin 64) : Statement (.shri h d a n) := fun hw =>
  back rfl (dec_shri h d a n hw (fmtI_fields (by decide)
    (h_d := d.isLt.trans_le (by decide))
    (h_a := a.isLt.trans_le (by decide))
    (h_imm := n.isLt.trans_le (by decide))
    (h_fn := by omega)))

theorem dec_sari (h : Hdr) (d : Fin 32) (a : Fin 32) (n : Fin 64) (hw : (Instr.sari h d a n).wf = true) {w : Nat}
    (F : FieldsI w 0x05 h d a n 7) : decodeNat false w = .instr (.sari h d a n) := by
  rw [F.decode (hdr_ok hw rfl)]
  have s_7_6 : field w 7 6 = n := by
    have := d.isLt; have := a.isLt; have := n.isLt; rw [show field w 7 6 = _ from field_sub F.imm_ 0 6 (by decide)]; omega
  have s_13_26 : field w 13 26 = 0 := by
    have := d.isLt; have := a.isLt; have := n.isLt; rw [show field w 13 26 = _ from field_sub F.imm_ 6 26 (by decide)]; omega
  show decImm w h = _
  simp [decImm, form, unused, regf, resv, F.fn_, F.d_, F.a_, f5_of d F.d_, f5_of a F.a_, s_7_6, s_13_26]

theorem sari (h : Hdr) (d : Fin 32) (a : Fin 32) (n : Fin 64) : Statement (.sari h d a n) := fun hw =>
  back rfl (dec_sari h d a n hw (fmtI_fields (by decide)
    (h_d := d.isLt.trans_le (by decide))
    (h_a := a.isLt.trans_le (by decide))
    (h_imm := n.isLt.trans_le (by decide))
    (h_fn := by omega)))

theorem cmpi_code (c : Cond) (t : Ty) (h : tyInts.contains t = true) :
    (decide (63 < tyCode t * 8 + condCode c) || decide (5 < (tyCode t * 8 + condCode c) % 8)) = false
      ∧ (tyCode t * 8 + condCode c) % 8 = condCode c ∧ (tyCode t * 8 + condCode c) / 8 = tyCode t
      ∧ tyCode t * 8 + condCode c < 2 ^ 7 := by
  revert h; cases t <;> cases c <;> decide

theorem dec_cmpi (h : Hdr) (cond : Cond) (d : Fin 16) (a : Fin 32) (ty : Ty) (imm : BitVec 32) (hw : (Instr.cmpi h cond d a ty imm).wf = true) {w : Nat}
    (F : FieldsI w 0x06 h d a imm.toNat (tyCode ty * 8 + condCode cond)) : decodeNat false w = .instr (.cmpi h cond d a ty imm) := by
  rw [F.decode (hdr_ok hw rfl)]
  have wt : (tyInts.contains ty : Bool) = true := form_ok hw
  obtain ⟨e1, e2, e3, -⟩ := cmpi_code cond ty wt
  have e4 := e1
  rw [e2] at e4
  show decCmpi w h = _
  unfold decCmpi
  rw [F.fn_]
  simp only [e1, e2, e3, condOf_code, tyGet_code, f4_of d F.d_, f5_of a F.a_, F.imm_, BitVec.ofNat_toNat, BitVec.setWidth_eq]
  apply form_of
  · intro p hp
    rw [List.mem_singleton.1 hp]
    exact e4
  · simp [regf, resv, F.d_, F.a_]

theorem cmpi (h : Hdr) (cond : Cond) (d : Fin 16) (a : Fin 32) (ty : Ty) (imm : BitVec 32) : Statement (.cmpi h cond d a ty imm) := by
  intro hw
  have wt : (tyInts.contains ty : Bool) = true := form_ok hw
  exact back rfl (dec_cmpi h cond d a ty imm hw (fmtI_fields (by decide) (by omega) (by omega) (by have := imm.isLt; omega)
    (cmpi_code cond ty wt).2.2.2))

theorem dec_ldi (h : Hdr) (d : Fin 32) (imm : BitVec 45) (hw : (Instr.ldi h d imm).wf = true) {w : Nat}
    (F : FieldsL w 0x07 h d imm.toNat) : decodeNat false w = .instr (.ldi h d imm) := by
  rw [F.decode (hdr_ok hw rfl)]
  show decScalar 0x07 w h = _
  simp [decScalar, form, regf, resv, F.d_, F.imm_, f5_of d F.d_]

theorem ldi (h : Hdr) (d : Fin 32) (imm : BitVec 45) : Statement (.ldi h d imm) := fun hw =>
  back rfl (dec_ldi h d imm hw (fmtL_fields (by decide)
    (h_d := d.isLt.trans_le (by decide))
    (h_imm := imm.isLt)))

theorem dec_ldih (h : Hdr) (d : Fin 32) (a : Fin 32) (imm : BitVec 32) (hw : (Instr.ldih h d a imm).wf = true) {w : Nat}
    (F : FieldsI w 0x08 h d a imm.toNat 0) : decodeNat false w = .instr (.ldih h d a imm) := by
  rw [F.decode (hdr_ok hw rfl)]
  show decScalar 0x08 w h = _
  simp [decScalar, form, regf, resv, F.fn_, F.d_, F.a_, F.imm_, f5_of d F.d_, f5_of a F.a_]

theorem ldih (h : Hdr) (d : Fin 32) (a : Fin 32) (imm : BitVec 32) : Statement (.ldih h d a imm) := fun hw =>
  back rfl (dec_ldih h d a imm hw (fmtI_fields (by decide)
    (h_d := d.isLt.trans_le (by decide))
    (h_a := a.isLt.trans_le (by decide))
    (h_imm := imm.isLt)
    (h_fn := by omega)))

theorem dec_lea (h : Hdr) (d : Fin 32) (a : Fin 32) (b : Fin 32) (sh : Fin 16) (disp : BitVec 8) (hw : (Instr.lea h d a b sh disp).wf = true) {w : Nat}
    (F : FieldsA w 0x09 h d a b 0 0 0 0 (sh + 16 * disp.toNat)) : decodeNat false w = .instr (.lea h d a b sh disp) := by
  rw [F.decode (hdr_ok hw rfl)]
  have s_0_4 : field w 0 4 = sh := by
    have := d.isLt; have := a.isLt; have := b.isLt; have := sh.isLt; have := disp.isLt; rw [show field w 0 4 = _ from field_sub F.md_ 0 4 (by decide)]; omega
  have s_4_8 : field w 4 8 = disp.toNat := by
    have := d.isLt; have := a.isLt; have := b.isLt; have := sh.isLt; have := disp.isLt; rw [show field w 4 8 = _ from field_sub F.md_ 4 8 (by decide)]; omega
  show decScalar 0x09 w h = _
  simp [decScalar, form, unused, regf, resv, F.fn_, F.d_, F.a_, F.b_, F.c_, F.k_, F.ty_, f5_of d F.d_, f5_of a F.a_, f5_of b F.b_, s_0_4, s_4_8]

theorem lea (h : Hdr) (d : Fin 32) (a : Fin 32) (b : Fin 32) (sh : Fin 16) (disp : BitVec 8) : Statement (.lea h d a b sh disp) := fun hw =>
  back rfl (dec_lea h d a b sh disp hw (fmtA_fields (by decide)
    (h_d := d.isLt.trans_le (by decide))
    (h_a := a.isLt.trans_le (by decide))
    (h_b := b.isLt.trans_le (by decide))
    (h_c := by omega)
    (h_fn := by omega)
    (h_k := by omega)
    (h_ty := by omega)
    (h_md := by have := d.isLt; have := a.isLt; have := b.isLt; have := sh.isLt; have := disp.isLt; omega)))

theorem dec_sel (h : Hdr) (d : Fin 32) (c : Fin 16) (a : Fin 32) (b : Fin 32) (hw : (Instr.sel h d c a b).wf = true) {w : Nat}
    (F : FieldsA w 0x0A h d a b c 0 0 0 0) : decodeNat false w = .instr (.sel h d c a b) := by
  rw [F.decode (hdr_ok hw rfl)]
  show decScalar 0x0A w h = _
  simp [decScalar, form, unused, regf, resv, F.fn_, F.d_, F.a_, F.b_, F.c_, F.k_, F.ty_, F.md_, f5_of d F.d_, f5_of a F.a_, f5_of b F.b_, f4_of c F.c_]

theorem sel (h : Hdr) (d : Fin 32) (c : Fin 16) (a : Fin 32) (b : Fin 32) : Statement (.sel h d c a b) := fun hw =>
  back rfl (dec_sel h d c a b hw (fmtA_fields (by decide)
    (h_d := d.isLt.trans_le (by decide))
    (h_a := a.isLt.trans_le (by decide))
    (h_b := b.isLt.trans_le (by decide))
    (h_c := c.isLt.trans_le (by decide))
    (h_fn := by omega)
    (h_k := by omega)
    (h_ty := by omega)
    (h_md := by omega)))

theorem dec_movSS (h : Hdr) (d : Fin 32) (a : Fin 32) (hw : (Instr.movSS h d a).wf = true) {w : Nat}
    (F : FieldsA w 0x0B h d a 0 0 0 0 0 0) : decodeNat false w = .instr (.movSS h d a) := by
  rw [F.decode (hdr_ok hw rfl)]
  show decMov w h = _
  simp [decMov, form, unused, regf, resv, F.fn_, F.d_, F.a_, F.b_, F.c_, F.k_, F.ty_, F.md_, f5_of d F.d_, f5_of a F.a_]

theorem movSS (h : Hdr) (d : Fin 32) (a : Fin 32) : Statement (.movSS h d a) := fun hw =>
  back rfl (dec_movSS h d a hw (fmtA_fields (by decide)
    (h_d := d.isLt.trans_le (by decide))
    (h_a := a.isLt.trans_le (by decide))
    (h_b := by omega)
    (h_c := by omega)
    (h_fn := by omega)
    (h_k := by omega)
    (h_ty := by omega)
    (h_md := by omega)))

theorem dec_movPS (h : Hdr) (d : Fin 16) (a : Fin 32) (hw : (Instr.movPS h d a).wf = true) {w : Nat}
    (F : FieldsA w 0x0B h d a 0 0 1 0 0 0) : decodeNat false w = .instr (.movPS h d a) := by
  rw [F.decode (hdr_ok hw rfl)]
  show decMov w h = _
  simp [decMov, form, unused, regf, resv, F.fn_, F.d_, F.a_, F.b_, F.c_, F.k_, F.ty_, F.md_, f4_of d F.d_, f5_of a F.a_]

theorem movPS (h : Hdr) (d : Fin 16) (a : Fin 32) : Statement (.movPS h d a) := fun hw =>
  back rfl (dec_movPS h d a hw (fmtA_fields (by decide)
    (h_d := d.isLt.trans_le (by decide))
    (h_a := a.isLt.trans_le (by decide))
    (h_b := by omega)
    (h_c := by omega)
    (h_fn := by omega)
    (h_k := by omega)
    (h_ty := by omega)
    (h_md := by omega)))

theorem dec_movSP (h : Hdr) (d : Fin 32) (a : Fin 16) (hw : (Instr.movSP h d a).wf = true) {w : Nat}
    (F : FieldsA w 0x0B h d a 0 0 2 0 0 0) : decodeNat false w = .instr (.movSP h d a) := by
  rw [F.decode (hdr_ok hw rfl)]
  show decMov w h = _
  simp [decMov, form, unused, regf, resv, F.fn_, F.d_, F.a_, F.b_, F.c_, F.k_, F.ty_, F.md_, f5_of d F.d_, f4_of a F.a_]

theorem movSP (h : Hdr) (d : Fin 32) (a : Fin 16) : Statement (.movSP h d a) := fun hw =>
  back rfl (dec_movSP h d a hw (fmtA_fields (by decide)
    (h_d := d.isLt.trans_le (by decide))
    (h_a := a.isLt.trans_le (by decide))
    (h_b := by omega)
    (h_c := by omega)
    (h_fn := by omega)
    (h_k := by omega)
    (h_ty := by omega)
    (h_md := by omega)))

theorem dec_movKS (h : Hdr) (d : Fin 8) (a : Fin 32) (hw : (Instr.movKS h d a).wf = true) {w : Nat}
    (F : FieldsA w 0x0B h d a 0 0 3 0 0 0) : decodeNat false w = .instr (.movKS h d a) := by
  rw [F.decode (hdr_ok hw rfl)]
  show decMov w h = _
  simp [decMov, form, unused, regf, resv, F.fn_, F.d_, F.a_, F.b_, F.c_, F.k_, F.ty_, F.md_, f3_of d F.d_, f5_of a F.a_]

theorem movKS (h : Hdr) (d : Fin 8) (a : Fin 32) : Statement (.movKS h d a) := fun hw =>
  back rfl (dec_movKS h d a hw (fmtA_fields (by decide)
    (h_d := d.isLt.trans_le (by decide))
    (h_a := a.isLt.trans_le (by decide))
    (h_b := by omega)
    (h_c := by omega)
    (h_fn := by omega)
    (h_k := by omega)
    (h_ty := by omega)
    (h_md := by omega)))

theorem dec_movSK (h : Hdr) (d : Fin 32) (a : Fin 8) (hw : (Instr.movSK h d a).wf = true) {w : Nat}
    (F : FieldsA w 0x0B h d a 0 0 4 0 0 0) : decodeNat false w = .instr (.movSK h d a) := by
  rw [F.decode (hdr_ok hw rfl)]
  show decMov w h = _
  simp [decMov, form, unused, regf, resv, F.fn_, F.d_, F.a_, F.b_, F.c_, F.k_, F.ty_, F.md_, f5_of d F.d_, f3_of a F.a_]

theorem movSK (h : Hdr) (d : Fin 32) (a : Fin 8) : Statement (.movSK h d a) := fun hw =>
  back rfl (dec_movSK h d a hw (fmtA_fields (by decide)
    (h_d := d.isLt.trans_le (by decide))
    (h_a := a.isLt.trans_le (by decide))
    (h_b := by omega)
    (h_c := by omega)
    (h_fn := by omega)
    (h_k := by omega)
    (h_ty := by omega)
    (h_md := by omega)))

theorem dec_movKK (h : Hdr) (d : Fin 8) (a : Fin 8) (hw : (Instr.movKK h d a).wf = true) {w : Nat}
    (F : FieldsA w 0x0B h d a 0 0 5 0 0 0) : decodeNat false w = .instr (.movKK h d a) := by
  rw [F.decode (hdr_ok hw rfl)]
  show decMov w h = _
  simp [decMov, form, unused, regf, resv, F.fn_, F.d_, F.a_, F.b_, F.c_, F.k_, F.ty_, F.md_, f3_of d F.d_, f3_of a F.a_]

theorem movKK (h : Hdr) (d : Fin 8) (a : Fin 8) : Statement (.movKK h d a) := fun hw =>
  back rfl (dec_movKK h d a hw (fmtA_fields (by decide)
    (h_d := d.isLt.trans_le (by decide))
    (h_a := a.isLt.trans_le (by decide))
    (h_b := by omega)
    (h_c := by omega)
    (h_fn := by omega)
    (h_k := by omega)
    (h_ty := by omega)
    (h_md := by omega)))

theorem dec_bra (h : Hdr) (cond : BraCond) (a : Fin 32) (off : BitVec 32) (hw : (Instr.bra h cond a off).wf = true) {w : Nat}
    (F : FieldsB w 0x20 h a (braCode cond) off.toNat) : decodeNat false w = .instr (.bra h cond a off) := by
  rw [F.decode (hdr_ok hw rfl)]
  have wt : (cond != .always || a == 0 : Bool) = true := form_ok hw
  simp only [MacArg.ok, Bool.and_eq_true, Bool.or_eq_true, beq_iff_eq, bne_iff_ne, ne_eq, Bool.not_eq_true', decide_eq_true_eq] at wt
  have ne : (braCode cond == 0 && a.val != 0) = false := by
    rcases wt with e | e
    · cases cond <;> first | rfl | exact absurd rfl e
    · rw [e]; simp
  show decBra w h = _
  simp [decBra, form, regf, resv, braOf_code, Nat.not_lt.2 (braCode_le _), F.a_, F.cp_, F.off_, F.lo_, f5_of a F.a_, ne]

theorem bra (h : Hdr) (cond : BraCond) (a : Fin 32) (off : BitVec 32) : Statement (.bra h cond a off) := fun hw =>
  back rfl (dec_bra h cond a off hw (fmtB_fields (by decide)
    (h_a := a.isLt.trans_le (by decide))
    (h_cp := by have := braCode_le cond; have := a.isLt; have := off.isLt; omega)
    (h_off := off.isLt)))

theorem dec_call (h : Hdr) (a : Fin 32) (off : BitVec 32) (hw : (Instr.call h a off).wf = true) {w : Nat}
    (F : FieldsB w 0x21 h a 0 off.toNat) : decodeNat false w = .instr (.call h a off) := by
  rw [F.decode (hdr_ok hw rfl)]
  show decCall w h = _
  simp [decCall, form, unused, regf, resv, F.a_, F.cp_, F.off_, F.lo_, f5_of a F.a_]

theorem call (h : Hdr) (a : Fin 32) (off : BitVec 32) : Statement (.call h a off) := fun hw =>
  back rfl (dec_call h a off hw (fmtB_fields (by decide)
    (h_a := a.isLt.trans_le (by decide))
    (h_cp := by omega)
    (h_off := off.isLt)))

theorem dec_jmp (h : Hdr) (d : Fin 32) (a : Fin 32) (hw : (Instr.jmp h d a).wf = true) {w : Nat}
    (F : FieldsA w 0x22 h d a 0 0 0 0 0 0) : decodeNat false w = .instr (.jmp h d a) := by
  rw [F.decode (hdr_ok hw rfl)]
  show decJmp w h = _
  simp [decJmp, form, unused, regf, resv, F.fn_, F.d_, F.a_, F.b_, F.c_, F.k_, F.ty_, F.md_, f5_of d F.d_, f5_of a F.a_]

theorem jmp (h : Hdr) (d : Fin 32) (a : Fin 32) : Statement (.jmp h d a) := fun hw =>
  back rfl (dec_jmp h d a hw (fmtA_fields (by decide)
    (h_d := d.isLt.trans_le (by decide))
    (h_a := a.isLt.trans_le (by decide))
    (h_b := by omega)
    (h_c := by omega)
    (h_fn := by omega)
    (h_k := by omega)
    (h_ty := by omega)
    (h_md := by omega)))

theorem dec_ret (h : Hdr) (a : Fin 32) (hw : (Instr.ret h a).wf = true) {w : Nat}
    (F : FieldsA w 0x22 h 0 a 0 0 1 0 0 0) : decodeNat false w = .instr (.ret h a) := by
  rw [F.decode (hdr_ok hw rfl)]
  show decJmp w h = _
  simp [decJmp, form, unused, regf, resv, F.fn_, F.d_, F.a_, F.b_, F.c_, F.k_, F.ty_, F.md_, f5_of a F.a_]

theorem ret (h : Hdr) (a : Fin 32) : Statement (.ret h a) := fun hw =>
  back rfl (dec_ret h a hw (fmtA_fields (by decide)
    (h_d := by omega)
    (h_a := a.isLt.trans_le (by decide))
    (h_b := by omega)
    (h_c := by omega)
    (h_fn := by omega)
    (h_k := by omega)
    (h_ty := by omega)
    (h_md := by omega)))

theorem dec_pset (h : Hdr) (d : Fin 16) (v : Bool) (hw : (Instr.pset h d v).wf = true) {w : Nat}
    (F : FieldsA w 0x23 h d 0 0 0 0 0 0 v.toNat) : decodeNat false w = .instr (.pset h d v) := by
  rw [F.decode (hdr_ok hw rfl)]
  have s_0_1 : field w 0 1 = v.toNat := by
    have := d.isLt; have := toNat_lt2 v; rw [show field w 0 1 = _ from field_sub F.md_ 0 1 (by decide)]; omega
  have s_1_11 : field w 1 11 = 0 := by
    have := d.isLt; have := toNat_lt2 v; rw [show field w 1 11 = _ from field_sub F.md_ 1 11 (by decide)]; omega
  show decPred w h = _
  simp [decPred, form, unused, regf, resv, F.fn_, F.d_, F.a_, F.b_, F.c_, F.k_, F.ty_, f4_of d F.d_, s_0_1, s_1_11]

theorem pset (h : Hdr) (d : Fin 16) (v : Bool) : Statement (.pset h d v) := fun hw =>
  back rfl (dec_pset h d v hw (fmtA_fields (by decide)
    (h_d := d.isLt.trans_le (by decide))
    (h_a := by omega)
    (h_b := by omega)
    (h_c := by omega)
    (h_fn := by omega)
    (h_k := by omega)
    (h_ty := by omega)
    (h_md := (toNat_lt2 v).trans_le (by decide))))

theorem dec_pand (h : Hdr) (d : Fin 16) (a : Fin 16) (b : Fin 16) (na : Bool) (nb : Bool) (hw : (Instr.pand h d a b na nb).wf = true) {w : Nat}
    (F : FieldsA w 0x23 h d a b 0 1 0 0 (na.toNat + 2 * nb.toNat)) : decodeNat false w = .instr (.pand h d a b na nb) := by
  rw [F.decode (hdr_ok hw rfl)]
  have s_0_1 : field w 0 1 = na.toNat := by
    have := d.isLt; have := a.isLt; have := b.isLt; have := toNat_lt2 na; have := toNat_lt2 nb; rw [show field w 0 1 = _ from field_sub F.md_ 0 1 (by decide)]; omega
  have s_1_1 : field w 1 1 = nb.toNat := by
    have := d.isLt; have := a.isLt; have := b.isLt; have := toNat_lt2 na; have := toNat_lt2 nb; rw [show field w 1 1 = _ from field_sub F.md_ 1 1 (by decide)]; omega
  have s_2_10 : field w 2 10 = 0 := by
    have := d.isLt; have := a.isLt; have := b.isLt; have := toNat_lt2 na; have := toNat_lt2 nb; rw [show field w 2 10 = _ from field_sub F.md_ 2 10 (by decide)]; omega
  show decPred w h = _
  simp [decPred, form, unused, regf, resv, F.fn_, F.d_, F.a_, F.b_, F.c_, F.k_, F.ty_, f4_of d F.d_, f4_of a F.a_, f4_of b F.b_, s_0_1, s_1_1, s_2_10]

theorem pand (h : Hdr) (d : Fin 16) (a : Fin 16) (b : Fin 16) (na : Bool) (nb : Bool) : Statement (.pand h d a b na nb) := fun hw =>
  back rfl (dec_pand h d a b na nb hw (fmtA_fields (by decide)
    (h_d := d.isLt.trans_le (by decide))
    (h_a := a.isLt.trans_le (by decide))
    (h_b := b.isLt.trans_le (by decide))
    (h_c := by omega)
    (h_fn := by omega)
    (h_k := by omega)
    (h_ty := by omega)
    (h_md := by have := d.isLt; have := a.isLt; have := b.isLt; have := toNat_lt2 na; have := toNat_lt2 nb; omega)))

theorem dec_por (h : Hdr) (d : Fin 16) (a : Fin 16) (b : Fin 16) (na : Bool) (nb : Bool) (hw : (Instr.por h d a b na nb).wf = true) {w : Nat}
    (F : FieldsA w 0x23 h d a b 0 2 0 0 (na.toNat + 2 * nb.toNat)) : decodeNat false w = .instr (.por h d a b na nb) := by
  rw [F.decode (hdr_ok hw rfl)]
  have s_0_1 : field w 0 1 = na.toNat := by
    have := d.isLt; have := a.isLt; have := b.isLt; have := toNat_lt2 na; have := toNat_lt2 nb; rw [show field w 0 1 = _ from field_sub F.md_ 0 1 (by decide)]; omega
  have s_1_1 : field w 1 1 = nb.toNat := by
    have := d.isLt; have := a.isLt; have := b.isLt; have := toNat_lt2 na; have := toNat_lt2 nb; rw [show field w 1 1 = _ from field_sub F.md_ 1 1 (by decide)]; omega
  have s_2_10 : field w 2 10 = 0 := by
    have := d.isLt; have := a.isLt; have := b.isLt; have := toNat_lt2 na; have := toNat_lt2 nb; rw [show field w 2 10 = _ from field_sub F.md_ 2 10 (by decide)]; omega
  show decPred w h = _
  simp [decPred, form, unused, regf, resv, F.fn_, F.d_, F.a_, F.b_, F.c_, F.k_, F.ty_, f4_of d F.d_, f4_of a F.a_, f4_of b F.b_, s_0_1, s_1_1, s_2_10]

theorem por (h : Hdr) (d : Fin 16) (a : Fin 16) (b : Fin 16) (na : Bool) (nb : Bool) : Statement (.por h d a b na nb) := fun hw =>
  back rfl (dec_por h d a b na nb hw (fmtA_fields (by decide)
    (h_d := d.isLt.trans_le (by decide))
    (h_a := a.isLt.trans_le (by decide))
    (h_b := b.isLt.trans_le (by decide))
    (h_c := by omega)
    (h_fn := by omega)
    (h_k := by omega)
    (h_ty := by omega)
    (h_md := by have := d.isLt; have := a.isLt; have := b.isLt; have := toNat_lt2 na; have := toNat_lt2 nb; omega)))

theorem dec_pxor (h : Hdr) (d : Fin 16) (a : Fin 16) (b : Fin 16) (na : Bool) (nb : Bool) (hw : (Instr.pxor h d a b na nb).wf = true) {w : Nat}
    (F : FieldsA w 0x23 h d a b 0 3 0 0 (na.toNat + 2 * nb.toNat)) : decodeNat false w = .instr (.pxor h d a b na nb) := by
  rw [F.decode (hdr_ok hw rfl)]
  have s_0_1 : field w 0 1 = na.toNat := by
    have := d.isLt; have := a.isLt; have := b.isLt; have := toNat_lt2 na; have := toNat_lt2 nb; rw [show field w 0 1 = _ from field_sub F.md_ 0 1 (by decide)]; omega
  have s_1_1 : field w 1 1 = nb.toNat := by
    have := d.isLt; have := a.isLt; have := b.isLt; have := toNat_lt2 na; have := toNat_lt2 nb; rw [show field w 1 1 = _ from field_sub F.md_ 1 1 (by decide)]; omega
  have s_2_10 : field w 2 10 = 0 := by
    have := d.isLt; have := a.isLt; have := b.isLt; have := toNat_lt2 na; have := toNat_lt2 nb; rw [show field w 2 10 = _ from field_sub F.md_ 2 10 (by decide)]; omega
  show decPred w h = _
  simp [decPred, form, unused, regf, resv, F.fn_, F.d_, F.a_, F.b_, F.c_, F.k_, F.ty_, f4_of d F.d_, f4_of a F.a_, f4_of b F.b_, s_0_1, s_1_1, s_2_10]

theorem pxor (h : Hdr) (d : Fin 16) (a : Fin 16) (b : Fin 16) (na : Bool) (nb : Bool) : Statement (.pxor h d a b na nb) := fun hw =>
  back rfl (dec_pxor h d a b na nb hw (fmtA_fields (by decide)
    (h_d := d.isLt.trans_le (by decide))
    (h_a := a.isLt.trans_le (by decide))
    (h_b := b.isLt.trans_le (by decide))
    (h_c := by omega)
    (h_fn := by omega)
    (h_k := by omega)
    (h_ty := by omega)
    (h_md := by have := d.isLt; have := a.isLt; have := b.isLt; have := toNat_lt2 na; have := toNat_lt2 nb; omega)))

theorem dec_pnot (h : Hdr) (d : Fin 16) (a : Fin 16) (hw : (Instr.pnot h d a).wf = true) {w : Nat}
    (F : FieldsA w 0x23 h d a 0 0 4 0 0 0) : decodeNat false w = .instr (.pnot h d a) := by
  rw [F.decode (hdr_ok hw rfl)]
  show decPred w h = _
  simp [decPred, form, unused, regf, resv, F.fn_, F.d_, F.a_, F.b_, F.c_, F.k_, F.ty_, F.md_, f4_of d F.d_, f4_of a F.a_]

theorem pnot (h : Hdr) (d : Fin 16) (a : Fin 16) : Statement (.pnot h d a) := fun hw =>
  back rfl (dec_pnot h d a hw (fmtA_fields (by decide)
    (h_d := d.isLt.trans_le (by decide))
    (h_a := a.isLt.trans_le (by decide))
    (h_b := by omega)
    (h_c := by omega)
    (h_fn := by omega)
    (h_k := by omega)
    (h_ty := by omega)
    (h_md := by omega)))

theorem dec_epop (h : Hdr) (x : EReg) (slot : Fin 16) (n1 : Fin 64) (cl : Clauses) (hw : (Instr.epop h x slot n1 cl).wf = true) {w : Nat}
    (F : FieldsE w 0x30 h (eregReg x) slot 0 (n1 + 2048 * eregVec x) 0 cl 0) : decodeNat false w = .instr (.epop h x slot n1 cl) := by
  rw [F.decode (hdr_ok hw rfl)]
  have co : cl.ok = true := clauses_ok hw
  have wt : (edgeOk x n1 : Bool) = true := form_ok hw
  have s_21_6 : field w 21 6 = n1 := by
    have := eregReg_lt x; have := eregVec_lt x; have := slot.isLt; have := n1.isLt; rw [show field w 21 6 = _ from field_sub F.imm_ 0 6 (by decide)]; omega
  have s_27_5 : field w 27 5 = 0 := by
    have := eregReg_lt x; have := eregVec_lt x; have := slot.isLt; have := n1.isLt; rw [show field w 27 5 = _ from field_sub F.imm_ 6 5 (by decide)]; omega
  have s_32_1 : field w 32 1 = eregVec x := by
    have := eregReg_lt x; have := eregVec_lt x; have := slot.isLt; have := n1.isLt; rw [show field w 32 1 = _ from field_sub F.imm_ 11 1 (by decide)]; omega
  show decEdge false 0x30 w h = _
  simp [decEdge, form, unused, regf, resv, edgeRes, F.fn_, F.x_, F.y_, F.z_, F.qn_, F.clauses, F.res co, eregOf_of x F.x_ s_32_1, eregReg_lt x, f4_of slot F.y_, s_21_6, s_27_5, s_32_1]
  exact edge_imp wt

theorem epop (h : Hdr) (x : EReg) (slot : Fin 16) (n1 : Fin 64) (cl : Clauses) : Statement (.epop h x slot n1 cl) := fun hw =>
  back rfl (dec_epop h x slot n1 cl hw (fmtE_fields (by decide)
    (h_x := (eregReg_lt x).trans_le (by decide))
    (h_y := slot.isLt.trans_le (by decide))
    (h_z := by omega)
    (h_imm := by have := eregReg_lt x; have := eregVec_lt x; have := slot.isLt; have := n1.isLt; omega)
    (h_qn := by omega)
    (h_fn := by omega)))

theorem dec_epeek (h : Hdr) (x : EReg) (slot : Fin 16) (z : Fin 32) (n1 : Fin 64) (cl : Clauses) (hw : (Instr.epeek h x slot z n1 cl).wf = true) {w : Nat}
    (F : FieldsE w 0x30 h (eregReg x) slot z (n1 + 2048 * eregVec x) 0 cl 1) : decodeNat false w = .instr (.epeek h x slot z n1 cl) := by
  rw [F.decode (hdr_ok hw rfl)]
  have co : cl.ok = true := clauses_ok hw
  have wt : (edgeOk x n1 : Bool) = true := form_ok hw
  have s_21_6 : field w 21 6 = n1 := by
    have := eregReg_lt x; have := eregVec_lt x; have := slot.isLt; have := z.isLt; have := n1.isLt; rw [show field w 21 6 = _ from field_sub F.imm_ 0 6 (by decide)]; omega
  have s_27_5 : field w 27 5 = 0 := by
    have := eregReg_lt x; have := eregVec_lt x; have := slot.isLt; have := z.isLt; have := n1.isLt; rw [show field w 27 5 = _ from field_sub F.imm_ 6 5 (by decide)]; omega
  have s_32_1 : field w 32 1 = eregVec x := by
    have := eregReg_lt x; have := eregVec_lt x; have := slot.isLt; have := z.isLt; have := n1.isLt; rw [show field w 32 1 = _ from field_sub F.imm_ 11 1 (by decide)]; omega
  show decEdge false 0x30 w h = _
  simp [decEdge, form, unused, regf, resv, edgeRes, F.fn_, F.x_, F.y_, F.z_, F.qn_, F.clauses, F.res co, eregOf_of x F.x_ s_32_1, eregReg_lt x, f4_of slot F.y_, f5_of z F.z_, s_21_6, s_27_5, s_32_1]
  exact edge_imp wt

theorem epeek (h : Hdr) (x : EReg) (slot : Fin 16) (z : Fin 32) (n1 : Fin 64) (cl : Clauses) : Statement (.epeek h x slot z n1 cl) := fun hw =>
  back rfl (dec_epeek h x slot z n1 cl hw (fmtE_fields (by decide)
    (h_x := (eregReg_lt x).trans_le (by decide))
    (h_y := slot.isLt.trans_le (by decide))
    (h_z := z.isLt.trans_le (by decide))
    (h_imm := by have := eregReg_lt x; have := eregVec_lt x; have := slot.isLt; have := z.isLt; have := n1.isLt; omega)
    (h_qn := by omega)
    (h_fn := by omega)))

theorem dec_epush (h : Hdr) (x : EReg) (slot : Fin 16) (n1 : Fin 64) (cl : Clauses) (hw : (Instr.epush h x slot n1 cl).wf = true) {w : Nat}
    (F : FieldsE w 0x31 h (eregReg x) slot 0 (n1 + 2048 * eregVec x) 0 cl 0) : decodeNat false w = .instr (.epush h x slot n1 cl) := by
  rw [F.decode (hdr_ok hw rfl)]
  have co : cl.ok = true := clauses_ok hw
  have wt : (edgeOk x n1 : Bool) = true := form_ok hw
  have s_21_6 : field w 21 6 = n1 := by
    have := eregReg_lt x; have := eregVec_lt x; have := slot.isLt; have := n1.isLt; rw [show field w 21 6 = _ from field_sub F.imm_ 0 6 (by decide)]; omega
  have s_27_5 : field w 27 5 = 0 := by
    have := eregReg_lt x; have := eregVec_lt x; have := slot.isLt; have := n1.isLt; rw [show field w 27 5 = _ from field_sub F.imm_ 6 5 (by decide)]; omega
  have s_32_1 : field w 32 1 = eregVec x := by
    have := eregReg_lt x; have := eregVec_lt x; have := slot.isLt; have := n1.isLt; rw [show field w 32 1 = _ from field_sub F.imm_ 11 1 (by decide)]; omega
  show decEdge false 0x31 w h = _
  simp [decEdge, form, unused, regf, resv, edgeRes, F.fn_, F.x_, F.y_, F.z_, F.qn_, F.clauses, F.res co, eregOf_of x F.x_ s_32_1, eregReg_lt x, f4_of slot F.y_, s_21_6, s_27_5, s_32_1]
  exact edge_imp wt

theorem epush (h : Hdr) (x : EReg) (slot : Fin 16) (n1 : Fin 64) (cl : Clauses) : Statement (.epush h x slot n1 cl) := fun hw =>
  back rfl (dec_epush h x slot n1 cl hw (fmtE_fields (by decide)
    (h_x := (eregReg_lt x).trans_le (by decide))
    (h_y := slot.isLt.trans_le (by decide))
    (h_z := by omega)
    (h_imm := by have := eregReg_lt x; have := eregVec_lt x; have := slot.isLt; have := n1.isLt; omega)
    (h_qn := by omega)
    (h_fn := by omega)))

theorem dec_eeos (h : Hdr) (slot : Fin 16) (cl : Clauses) (hw : (Instr.eeos h slot cl).wf = true) {w : Nat}
    (F : FieldsE w 0x32 h 0 slot 0 0 0 cl 0) : decodeNat false w = .instr (.eeos h slot cl) := by
  rw [F.decode (hdr_ok hw rfl)]
  have co : cl.ok = true := clauses_ok hw
  show decEdge false 0x32 w h = _
  simp [decEdge, form, unused, regf, resv, eRes, F.fn_, F.x_, F.y_, F.z_, F.imm_, F.qn_, F.clauses, F.res co, f4_of slot F.y_]

theorem eeos (h : Hdr) (slot : Fin 16) (cl : Clauses) : Statement (.eeos h slot cl) := fun hw =>
  back rfl (dec_eeos h slot cl hw (fmtE_fields (by decide)
    (h_x := by omega)
    (h_y := slot.isLt.trans_le (by decide))
    (h_z := by omega)
    (h_imm := by omega)
    (h_qn := by omega)
    (h_fn := by omega)))

theorem dec_estat (h : Hdr) (x : Fin 32) (slot : Fin 16) (cl : Clauses) (hw : (Instr.estat h x slot cl).wf = true) {w : Nat}
    (F : FieldsE w 0x32 h x slot 0 0 0 cl 1) : decodeNat false w = .instr (.estat h x slot cl) := by
  rw [F.decode (hdr_ok hw rfl)]
  have co : cl.ok = true := clauses_ok hw
  show decEdge false 0x32 w h = _
  simp [decEdge, form, unused, regf, resv, eRes, F.fn_, F.x_, F.y_, F.z_, F.imm_, F.qn_, F.clauses, F.res co, f5_of x F.x_, f4_of slot F.y_]

theorem estat (h : Hdr) (x : Fin 32) (slot : Fin 16) (cl : Clauses) : Statement (.estat h x slot cl) := fun hw =>
  back rfl (dec_estat h x slot cl hw (fmtE_fields (by decide)
    (h_x := x.isLt.trans_le (by decide))
    (h_y := slot.isLt.trans_le (by decide))
    (h_z := by omega)
    (h_imm := by omega)
    (h_qn := by omega)
    (h_fn := by omega)))

theorem dec_tqsig (h : Hdr) (tq : Fin 16) (n : Fin 64) (cl : Clauses) (hw : (Instr.tqsig h tq n cl).wf = true) {w : Nat}
    (F : FieldsE w 0x33 h 0 tq 0 n 0 cl 0) : decodeNat false w = .instr (.tqsig h tq n cl) := by
  rw [F.decode (hdr_ok hw rfl)]
  have co : cl.ok = true := clauses_ok hw
  have wt : (n != 0 : Bool) = true := form_ok hw
  simp only [MacArg.ok, Bool.and_eq_true, Bool.or_eq_true, beq_iff_eq, bne_iff_ne, ne_eq, Bool.not_eq_true', decide_eq_true_eq] at wt
  have s_21_6 : field w 21 6 = n := by
    have := tq.isLt; have := n.isLt; rw [show field w 21 6 = _ from field_sub F.imm_ 0 6 (by decide)]; omega
  have s_27_6 : field w 27 6 = 0 := by
    have := tq.isLt; have := n.isLt; rw [show field w 27 6 = _ from field_sub F.imm_ 6 6 (by decide)]; omega
  show decTq w h = _
  simp [decTq, form, unused, regf, resv, eRes, F.fn_, F.x_, F.y_, F.z_, F.qn_, F.clauses, F.res co, f4_of tq F.y_, s_21_6, s_27_6]
  exact wt

theorem tqsig (h : Hdr) (tq : Fin 16) (n : Fin 64) (cl : Clauses) : Statement (.tqsig h tq n cl) := fun hw =>
  back rfl (dec_tqsig h tq n cl hw (fmtE_fields (by decide)
    (h_x := by omega)
    (h_y := tq.isLt.trans_le (by decide))
    (h_z := by omega)
    (h_imm := n.isLt.trans_le (by decide))
    (h_qn := by omega)
    (h_fn := by omega)))

theorem dec_tqwait (h : Hdr) (cl : Clauses) (hw : (Instr.tqwait h cl).wf = true) {w : Nat}
    (F : FieldsE w 0x33 h 0 0 0 0 0 cl 1) : decodeNat false w = .instr (.tqwait h cl) := by
  rw [F.decode (hdr_ok hw rfl)]
  have co : cl.ok = true := clauses_ok hw
  have wt : (cl.wn != 0 : Bool) = true := form_ok hw
  simp only [MacArg.ok, Bool.and_eq_true, Bool.or_eq_true, beq_iff_eq, bne_iff_ne, ne_eq, Bool.not_eq_true', decide_eq_true_eq] at wt
  show decTq w h = _
  simp [decTq, form, unused, resv, eRes, F.fn_, F.x_, F.y_, F.z_, F.imm_, F.qn_, F.clauses, F.res co, F.wn_]
  exact wt

theorem tqwait (h : Hdr) (cl : Clauses) : Statement (.tqwait h cl) := fun hw =>
  back rfl (dec_tqwait h cl hw (fmtE_fields (by decide)
    (h_x := by omega)
    (h_y := by omega)
    (h_z := by omega)
    (h_imm := by omega)
    (h_qn := by omega)
    (h_fn := by omega)))

theorem dec_tqrd (h : Hdr) (x : Fin 32) (tq : Fin 16) (cl : Clauses) (hw : (Instr.tqrd h x tq cl).wf = true) {w : Nat}
    (F : FieldsE w 0x33 h x tq 0 0 0 cl 2) : decodeNat false w = .instr (.tqrd h x tq cl) := by
  rw [F.decode (hdr_ok hw rfl)]
  have co : cl.ok = true := clauses_ok hw
  show decTq w h = _
  simp [decTq, form, unused, regf, resv, eRes, F.fn_, F.x_, F.y_, F.z_, F.imm_, F.qn_, F.clauses, F.res co, f5_of x F.x_, f4_of tq F.y_]

theorem tqrd (h : Hdr) (x : Fin 32) (tq : Fin 16) (cl : Clauses) : Statement (.tqrd h x tq cl) := fun hw =>
  back rfl (dec_tqrd h x tq cl hw (fmtE_fields (by decide)
    (h_x := x.isLt.trans_le (by decide))
    (h_y := tq.isLt.trans_le (by decide))
    (h_z := by omega)
    (h_imm := by omega)
    (h_qn := by omega)
    (h_fn := by omega)))

theorem dec_endF (h : Hdr) (hw : (Instr.endF h).wf = true) {w : Nat}
    (F : FieldsX w 0x34 h 0 0 0 0 0) : decodeNat false w = .instr (.endF h) := by
  rw [F.decode (hdr_ok hw rfl)]
  show decEnd w h = _
  simp [decEnd, form, unused, xform, F.fn_, F.d_, F.a_, F.sys_, F.imm_]

theorem endF (h : Hdr) : Statement (.endF h) := fun hw =>
  back rfl (dec_endF h hw (fmtX_fields (by decide)
    (h_d := by omega)
    (h_a := by omega)
    (h_sys := by omega)
    (h_imm := by omega)
    (h_fn := by omega)))

theorem dec_actena (h : Hdr) (a : Fin 32) (hw : (Instr.actena h a).wf = true) {w : Nat}
    (F : FieldsX w 0x34 h 0 a 0 0 1) : decodeNat false w = .instr (.actena h a) := by
  rw [F.decode (hdr_ok hw rfl)]
  show decEnd w h = _
  simp [decEnd, form, unused, regf, resv, xform, F.fn_, F.d_, F.a_, F.sys_, F.imm_, f5_of a F.a_]

theorem actena (h : Hdr) (a : Fin 32) : Statement (.actena h a) := fun hw =>
  back rfl (dec_actena h a hw (fmtX_fields (by decide)
    (h_d := by omega)
    (h_a := a.isLt.trans_le (by decide))
    (h_sys := by omega)
    (h_imm := by omega)
    (h_fn := by omega)))

theorem dec_actdis (h : Hdr) (a : Fin 32) (hw : (Instr.actdis h a).wf = true) {w : Nat}
    (F : FieldsX w 0x34 h 0 a 0 0 2) : decodeNat false w = .instr (.actdis h a) := by
  rw [F.decode (hdr_ok hw rfl)]
  show decEnd w h = _
  simp [decEnd, form, unused, regf, resv, xform, F.fn_, F.d_, F.a_, F.sys_, F.imm_, f5_of a F.a_]

theorem actdis (h : Hdr) (a : Fin 32) : Statement (.actdis h a) := fun hw =>
  back rfl (dec_actdis h a hw (fmtX_fields (by decide)
    (h_d := by omega)
    (h_a := a.isLt.trans_le (by decide))
    (h_sys := by omega)
    (h_imm := by omega)
    (h_fn := by omega)))

theorem dec_gjoin (h : Hdr) (x : Fin 32) (y : Fin 32) (cl : Clauses) (hw : (Instr.gjoin h x y cl).wf = true) {w : Nat}
    (F : FieldsE w 0x38 h x y 0 0 0 cl 0) : decodeNat false w = .instr (.gjoin h x y cl) := by
  rw [F.decode (hdr_ok hw rfl)]
  have co : cl.ok = true := clauses_ok hw
  show decGroup 0x38 w h = _
  simp [decGroup, form, unused, regf, resv, eRes, F.fn_, F.x_, F.y_, F.z_, F.imm_, F.qn_, F.clauses, F.res co, f5_of x F.x_, f5_of y F.y_]

theorem gjoin (h : Hdr) (x : Fin 32) (y : Fin 32) (cl : Clauses) : Statement (.gjoin h x y cl) := fun hw =>
  back rfl (dec_gjoin h x y cl hw (fmtE_fields (by decide)
    (h_x := x.isLt.trans_le (by decide))
    (h_y := y.isLt.trans_le (by decide))
    (h_z := by omega)
    (h_imm := by omega)
    (h_qn := by omega)
    (h_fn := by omega)))

theorem dec_gleave (h : Hdr) (arr : Bool) (y : Fin 32) (cl : Clauses) (hw : (Instr.gleave h arr y cl).wf = true) {w : Nat}
    (F : FieldsE w 0x38 h 0 y 0 arr.toNat 0 cl 1) : decodeNat false w = .instr (.gleave h arr y cl) := by
  rw [F.decode (hdr_ok hw rfl)]
  have co : cl.ok = true := clauses_ok hw
  have s_21_1 : field w 21 1 = arr.toNat := by
    have := toNat_lt2 arr; have := y.isLt; rw [show field w 21 1 = _ from field_sub F.imm_ 0 1 (by decide)]; omega
  have s_22_11 : field w 22 11 = 0 := by
    have := toNat_lt2 arr; have := y.isLt; rw [show field w 22 11 = _ from field_sub F.imm_ 1 11 (by decide)]; omega
  show decGroup 0x38 w h = _
  simp [decGroup, form, unused, regf, resv, eRes, F.fn_, F.x_, F.y_, F.z_, F.qn_, F.clauses, F.res co, f5_of y F.y_, s_21_1, s_22_11]

theorem gleave (h : Hdr) (arr : Bool) (y : Fin 32) (cl : Clauses) : Statement (.gleave h arr y cl) := fun hw =>
  back rfl (dec_gleave h arr y cl hw (fmtE_fields (by decide)
    (h_x := by omega)
    (h_y := y.isLt.trans_le (by decide))
    (h_z := by omega)
    (h_imm := (toNat_lt2 arr).trans_le (by decide))
    (h_qn := by omega)
    (h_fn := by omega)))

theorem dec_garrive (h : Hdr) (x : Fin 32) (y : Fin 32) (cl : Clauses) (hw : (Instr.garrive h x y cl).wf = true) {w : Nat}
    (F : FieldsE w 0x39 h x y 0 0 0 cl 0) : decodeNat false w = .instr (.garrive h x y cl) := by
  rw [F.decode (hdr_ok hw rfl)]
  have co : cl.ok = true := clauses_ok hw
  show decGroup 0x39 w h = _
  simp [decGroup, form, unused, regf, resv, eRes, F.fn_, F.x_, F.y_, F.z_, F.imm_, F.qn_, F.clauses, F.res co, f5_of x F.x_, f5_of y F.y_]

theorem garrive (h : Hdr) (x : Fin 32) (y : Fin 32) (cl : Clauses) : Statement (.garrive h x y cl) := fun hw =>
  back rfl (dec_garrive h x y cl hw (fmtE_fields (by decide)
    (h_x := x.isLt.trans_le (by decide))
    (h_y := y.isLt.trans_le (by decide))
    (h_z := by omega)
    (h_imm := by omega)
    (h_qn := by omega)
    (h_fn := by omega)))

theorem dec_gwait (h : Hdr) (y : Fin 32) (z : Fin 32) (cl : Clauses) (hw : (Instr.gwait h y z cl).wf = true) {w : Nat}
    (F : FieldsE w 0x39 h 0 y z 0 0 cl 1) : decodeNat false w = .instr (.gwait h y z cl) := by
  rw [F.decode (hdr_ok hw rfl)]
  have co : cl.ok = true := clauses_ok hw
  show decGroup 0x39 w h = _
  simp [decGroup, form, unused, regf, resv, eRes, F.fn_, F.x_, F.y_, F.z_, F.imm_, F.qn_, F.clauses, F.res co, f5_of y F.y_, f5_of z F.z_]

theorem gwait (h : Hdr) (y : Fin 32) (z : Fin 32) (cl : Clauses) : Statement (.gwait h y z cl) := fun hw =>
  back rfl (dec_gwait h y z cl hw (fmtE_fields (by decide)
    (h_x := by omega)
    (h_y := y.isLt.trans_le (by decide))
    (h_z := z.isLt.trans_le (by decide))
    (h_imm := by omega)
    (h_qn := by omega)
    (h_fn := by omega)))

theorem dec_gbar (h : Hdr) (x : Fin 32) (y : Fin 32) (cl : Clauses) (hw : (Instr.gbar h x y cl).wf = true) {w : Nat}
    (F : FieldsE w 0x39 h x y 0 0 0 cl 2) : decodeNat false w = .instr (.gbar h x y cl) := by
  rw [F.decode (hdr_ok hw rfl)]
  have co : cl.ok = true := clauses_ok hw
  show decGroup 0x39 w h = _
  simp [decGroup, form, unused, regf, resv, eRes, F.fn_, F.x_, F.y_, F.z_, F.imm_, F.qn_, F.clauses, F.res co, f5_of x F.x_, f5_of y F.y_]

theorem gbar (h : Hdr) (x : Fin 32) (y : Fin 32) (cl : Clauses) : Statement (.gbar h x y cl) := fun hw =>
  back rfl (dec_gbar h x y cl hw (fmtE_fields (by decide)
    (h_x := x.isLt.trans_le (by decide))
    (h_y := y.isLt.trans_le (by decide))
    (h_z := by omega)
    (h_imm := by omega)
    (h_qn := by omega)
    (h_fn := by omega)))

theorem dec_gred (h : Hdr) (op : GredOp) (ty : Ty) (x : Fin 32) (y : Fin 32) (z : Fin 32) (cl : Clauses) (hw : (Instr.gred h op ty x y z cl).wf = true) {w : Nat}
    (F : FieldsE w 0x3A h x y z (tyCode ty) 0 cl (gredCode op)) : decodeNat false w = .instr (.gred h op ty x y z cl) := by
  rw [F.decode (hdr_ok hw rfl)]
  have co : cl.ok = true := clauses_ok hw
  have wt : (tyGred.contains ty && (ty != .f32 || op == .add || op == .min || op == .max) : Bool) = true := form_ok hw
  simp only [MacArg.ok, Bool.and_eq_true, Bool.or_eq_true, beq_iff_eq, bne_iff_ne, ne_eq, Bool.not_eq_true', decide_eq_true_eq] at wt
  have ne : (tyCode ty == 16 && decide (2 < gredCode op)) = false := by
    rcases wt.2 with ((e | e) | e) | e
    · have : tyCode ty ≠ 16 := fun x => e (f32_of x)
      simp [this]
    all_goals rw [e]; simp [gredCode]
  have s_21_5 : field w 21 5 = tyCode ty := by
    have := gredCode_le op; have := tyCode_lt ty; have := x.isLt; have := y.isLt; have := z.isLt; rw [show field w 21 5 = _ from field_sub F.imm_ 0 5 (by decide)]; omega
  have s_26_7 : field w 26 7 = 0 := by
    have := gredCode_le op; have := tyCode_lt ty; have := x.isLt; have := y.isLt; have := z.isLt; rw [show field w 26 7 = _ from field_sub F.imm_ 5 7 (by decide)]; omega
  show decGred w h = _
  simp [decGred, form, unused, regf, resv, eRes, gredOf_code, Nat.not_lt.2 (gredCode_le _), F.fn_, F.x_, F.y_, F.z_, F.qn_, F.clauses, F.res co, f5_of x F.x_, f5_of y F.y_, f5_of z F.z_, s_21_5, s_26_7, tyBad_code wt.1, ne, tyGet_code]

theorem gred (h : Hdr) (op : GredOp) (ty : Ty) (x : Fin 32) (y : Fin 32) (z : Fin 32) (cl : Clauses) : Statement (.gred h op ty x y z cl) := fun hw =>
  back rfl (dec_gred h op ty x y z cl hw (fmtE_fields (by decide)
    (h_x := x.isLt.trans_le (by decide))
    (h_y := y.isLt.trans_le (by decide))
    (h_z := z.isLt.trans_le (by decide))
    (h_imm := (tyCode_lt ty).trans_le (by decide))
    (h_qn := by omega)
    (h_fn := by have := gredCode_le op; have := tyCode_lt ty; have := x.isLt; have := y.isLt; have := z.isLt; omega)))

theorem dec_launch (h : Hdr) (x : Fin 32) (y : Fin 32) (cl : Clauses) (hw : (Instr.launch h x y cl).wf = true) {w : Nat}
    (F : FieldsE w 0x3B h x y 0 0 0 cl 0) : decodeNat false w = .instr (.launch h x y cl) := by
  rw [F.decode (hdr_ok hw rfl)]
  have co : cl.ok = true := clauses_ok hw
  show decGroup 0x3B w h = _
  simp [decGroup, form, unused, regf, resv, eRes, F.fn_, F.x_, F.y_, F.z_, F.imm_, F.qn_, F.clauses, F.res co, f5_of x F.x_, f5_of y F.y_]

theorem launch (h : Hdr) (x : Fin 32) (y : Fin 32) (cl : Clauses) : Statement (.launch h x y cl) := fun hw =>
  back rfl (dec_launch h x y cl hw (fmtE_fields (by decide)
    (h_x := x.isLt.trans_le (by decide))
    (h_y := y.isLt.trans_le (by decide))
    (h_z := by omega)
    (h_imm := by omega)
    (h_qn := by omega)
    (h_fn := by omega)))

theorem dec_vadd (h : Hdr) (d : Fin 32) (a : Fin 32) (b : VOp) (k : Fin 8) (ty : Ty) (sat : Bool) (hw : (Instr.vadd h d a b k ty sat).wf = true) {w : Nat}
    (F : FieldsA w 0x40 h d a (vopReg b) 0 0 k (tyCode ty) (vopSb b + 2 * sat.toNat)) : decodeNat false w = .instr (.vadd h d a b k ty sat) := by
  rw [F.decode (hdr_ok hw rfl)]
  have wt : (tyInts.contains ty : Bool) = true := form_ok hw
  have s_0_1 : field w 0 1 = vopSb b := by
    have := d.isLt; have := a.isLt; have := vopReg_lt b; have := vopSb_lt b; have := k.isLt; have := tyCode_lt ty; have := toNat_lt2 sat; rw [show field w 0 1 = _ from field_sub F.md_ 0 1 (by decide)]; omega
  have s_1_1 : field w 1 1 = sat.toNat := by
    have := d.isLt; have := a.isLt; have := vopReg_lt b; have := vopSb_lt b; have := k.isLt; have := tyCode_lt ty; have := toNat_lt2 sat; rw [show field w 1 1 = _ from field_sub F.md_ 1 1 (by decide)]; omega
  have s_2_10 : field w 2 10 = 0 := by
    have := d.isLt; have := a.isLt; have := vopReg_lt b; have := vopSb_lt b; have := k.isLt; have := tyCode_lt ty; have := toNat_lt2 sat; rw [show field w 2 10 = _ from field_sub F.md_ 2 10 (by decide)]; omega
  show decVInt w h = _
  simp [decVInt, form, unused, regf, resv, F.fn_, F.d_, F.a_, F.b_, F.c_, F.k_, F.ty_, f5_of d F.d_, f5_of a F.a_, vopOf_of b F.b_, Nat.not_le.2 (vopReg_lt b), s_0_1, s_1_1, s_2_10, tyBad_code wt, tyGet_code]

theorem vadd (h : Hdr) (d : Fin 32) (a : Fin 32) (b : VOp) (k : Fin 8) (ty : Ty) (sat : Bool) : Statement (.vadd h d a b k ty sat) := fun hw =>
  back rfl (dec_vadd h d a b k ty sat hw (fmtA_fields (by decide)
    (h_d := d.isLt.trans_le (by decide))
    (h_a := a.isLt.trans_le (by decide))
    (h_b := (vopReg_lt b).trans_le (by decide))
    (h_c := by omega)
    (h_fn := by omega)
    (h_k := k.isLt.trans_le (by decide))
    (h_ty := tyCode_lt _)
    (h_md := by have := d.isLt; have := a.isLt; have := vopReg_lt b; have := vopSb_lt b; have := k.isLt; have := tyCode_lt ty; have := toNat_lt2 sat; omega)))

theorem dec_vsub (h : Hdr) (d : Fin 32) (a : Fin 32) (b : VOp) (k : Fin 8) (ty : Ty) (sat : Bool) (hw : (Instr.vsub h d a b k ty sat).wf = true) {w : Nat}
    (F : FieldsA w 0x40 h d a (vopReg b) 0 1 k (tyCode ty) (vopSb b + 2 * sat.toNat)) : decodeNat false w = .instr (.vsub h d a b k ty sat) := by
  rw [F.decode (hdr_ok hw rfl)]
  have wt : (tyInts.contains ty : Bool) = true := form_ok hw
  have s_0_1 : field w 0 1 = vopSb b := by
    have := d.isLt; have := a.isLt; have := vopReg_lt b; have := vopSb_lt b; have := k.isLt; have := tyCode_lt ty; have := toNat_lt2 sat; rw [show field w 0 1 = _ from field_sub F.md_ 0 1 (by decide)]; omega
  have s_1_1 : field w 1 1 = sat.toNat := by
    have := d.isLt; have := a.isLt; have := vopReg_lt b; have := vopSb_lt b; have := k.isLt; have := tyCode_lt ty; have := toNat_lt2 sat; rw [show field w 1 1 = _ from field_sub F.md_ 1 1 (by decide)]; omega
  have s_2_10 : field w 2 10 = 0 := by
    have := d.isLt; have := a.isLt; have := vopReg_lt b; have := vopSb_lt b; have := k.isLt; have := tyCode_lt ty; have := toNat_lt2 sat; rw [show field w 2 10 = _ from field_sub F.md_ 2 10 (by decide)]; omega
  show decVInt w h = _
  simp [decVInt, form, unused, regf, resv, F.fn_, F.d_, F.a_, F.b_, F.c_, F.k_, F.ty_, f5_of d F.d_, f5_of a F.a_, vopOf_of b F.b_, Nat.not_le.2 (vopReg_lt b), s_0_1, s_1_1, s_2_10, tyBad_code wt, tyGet_code]

theorem vsub (h : Hdr) (d : Fin 32) (a : Fin 32) (b : VOp) (k : Fin 8) (ty : Ty) (sat : Bool) : Statement (.vsub h d a b k ty sat) := fun hw =>
  back rfl (dec_vsub h d a b k ty sat hw (fmtA_fields (by decide)
    (h_d := d.isLt.trans_le (by decide))
    (h_a := a.isLt.trans_le (by decide))
    (h_b := (vopReg_lt b).trans_le (by decide))
    (h_c := by omega)
    (h_fn := by omega)
    (h_k := k.isLt.trans_le (by decide))
    (h_ty := tyCode_lt _)
    (h_md := by have := d.isLt; have := a.isLt; have := vopReg_lt b; have := vopSb_lt b; have := k.isLt; have := tyCode_lt ty; have := toNat_lt2 sat; omega)))

theorem dec_vmul (h : Hdr) (d : Fin 32) (a : Fin 32) (b : VOp) (k : Fin 8) (ty : Ty) (sat : Bool) (hw : (Instr.vmul h d a b k ty sat).wf = true) {w : Nat}
    (F : FieldsA w 0x40 h d a (vopReg b) 0 2 k (tyCode ty) (vopSb b + 2 * sat.toNat)) : decodeNat false w = .instr (.vmul h d a b k ty sat) := by
  rw [F.decode (hdr_ok hw rfl)]
  have wt : (tyInts.contains ty : Bool) = true := form_ok hw
  have s_0_1 : field w 0 1 = vopSb b := by
    have := d.isLt; have := a.isLt; have := vopReg_lt b; have := vopSb_lt b; have := k.isLt; have := tyCode_lt ty; have := toNat_lt2 sat; rw [show field w 0 1 = _ from field_sub F.md_ 0 1 (by decide)]; omega
  have s_1_1 : field w 1 1 = sat.toNat := by
    have := d.isLt; have := a.isLt; have := vopReg_lt b; have := vopSb_lt b; have := k.isLt; have := tyCode_lt ty; have := toNat_lt2 sat; rw [show field w 1 1 = _ from field_sub F.md_ 1 1 (by decide)]; omega
  have s_2_10 : field w 2 10 = 0 := by
    have := d.isLt; have := a.isLt; have := vopReg_lt b; have := vopSb_lt b; have := k.isLt; have := tyCode_lt ty; have := toNat_lt2 sat; rw [show field w 2 10 = _ from field_sub F.md_ 2 10 (by decide)]; omega
  show decVInt w h = _
  simp [decVInt, form, unused, regf, resv, F.fn_, F.d_, F.a_, F.b_, F.c_, F.k_, F.ty_, f5_of d F.d_, f5_of a F.a_, vopOf_of b F.b_, Nat.not_le.2 (vopReg_lt b), s_0_1, s_1_1, s_2_10, tyBad_code wt, tyGet_code]

theorem vmul (h : Hdr) (d : Fin 32) (a : Fin 32) (b : VOp) (k : Fin 8) (ty : Ty) (sat : Bool) : Statement (.vmul h d a b k ty sat) := fun hw =>
  back rfl (dec_vmul h d a b k ty sat hw (fmtA_fields (by decide)
    (h_d := d.isLt.trans_le (by decide))
    (h_a := a.isLt.trans_le (by decide))
    (h_b := (vopReg_lt b).trans_le (by decide))
    (h_c := by omega)
    (h_fn := by omega)
    (h_k := k.isLt.trans_le (by decide))
    (h_ty := tyCode_lt _)
    (h_md := by have := d.isLt; have := a.isLt; have := vopReg_lt b; have := vopSb_lt b; have := k.isLt; have := tyCode_lt ty; have := toNat_lt2 sat; omega)))

theorem dec_vmulh (h : Hdr) (d : Fin 32) (a : Fin 32) (b : VOp) (k : Fin 8) (ty : Ty) (hw : (Instr.vmulh h d a b k ty).wf = true) {w : Nat}
    (F : FieldsA w 0x40 h d a (vopReg b) 0 3 k (tyCode ty) (vopSb b)) : decodeNat false w = .instr (.vmulh h d a b k ty) := by
  rw [F.decode (hdr_ok hw rfl)]
  have wt : (tyInts.contains ty : Bool) = true := form_ok hw
  have s_0_1 : field w 0 1 = vopSb b := by
    have := d.isLt; have := a.isLt; have := vopReg_lt b; have := vopSb_lt b; have := k.isLt; have := tyCode_lt ty; rw [show field w 0 1 = _ from field_sub F.md_ 0 1 (by decide)]; omega
  have s_1_1 : field w 1 1 = 0 := by
    have := d.isLt; have := a.isLt; have := vopReg_lt b; have := vopSb_lt b; have := k.isLt; have := tyCode_lt ty; rw [show field w 1 1 = _ from field_sub F.md_ 1 1 (by decide)]; omega
  have s_2_10 : field w 2 10 = 0 := by
    have := d.isLt; have := a.isLt; have := vopReg_lt b; have := vopSb_lt b; have := k.isLt; have := tyCode_lt ty; rw [show field w 2 10 = _ from field_sub F.md_ 2 10 (by decide)]; omega
  show decVInt w h = _
  simp [decVInt, form, unused, regf, resv, F.fn_, F.d_, F.a_, F.b_, F.c_, F.k_, F.ty_, f5_of d F.d_, f5_of a F.a_, vopOf_of b F.b_, Nat.not_le.2 (vopReg_lt b), s_0_1, s_1_1, s_2_10, tyBad_code wt, tyGet_code]

theorem vmulh (h : Hdr) (d : Fin 32) (a : Fin 32) (b : VOp) (k : Fin 8) (ty : Ty) : Statement (.vmulh h d a b k ty) := fun hw =>
  back rfl (dec_vmulh h d a b k ty hw (fmtA_fields (by decide)
    (h_d := d.isLt.trans_le (by decide))
    (h_a := a.isLt.trans_le (by decide))
    (h_b := (vopReg_lt b).trans_le (by decide))
    (h_c := by omega)
    (h_fn := by omega)
    (h_k := k.isLt.trans_le (by decide))
    (h_ty := tyCode_lt _)
    (h_md := (vopSb_lt b).trans_le (by decide))))

theorem dec_vmin (h : Hdr) (d : Fin 32) (a : Fin 32) (b : VOp) (k : Fin 8) (ty : Ty) (hw : (Instr.vmin h d a b k ty).wf = true) {w : Nat}
    (F : FieldsA w 0x40 h d a (vopReg b) 0 4 k (tyCode ty) (vopSb b)) : decodeNat false w = .instr (.vmin h d a b k ty) := by
  rw [F.decode (hdr_ok hw rfl)]
  have wt : (tyInts.contains ty : Bool) = true := form_ok hw
  have s_0_1 : field w 0 1 = vopSb b := by
    have := d.isLt; have := a.isLt; have := vopReg_lt b; have := vopSb_lt b; have := k.isLt; have := tyCode_lt ty; rw [show field w 0 1 = _ from field_sub F.md_ 0 1 (by decide)]; omega
  have s_1_1 : field w 1 1 = 0 := by
    have := d.isLt; have := a.isLt; have := vopReg_lt b; have := vopSb_lt b; have := k.isLt; have := tyCode_lt ty; rw [show field w 1 1 = _ from field_sub F.md_ 1 1 (by decide)]; omega
  have s_2_10 : field w 2 10 = 0 := by
    have := d.isLt; have := a.isLt; have := vopReg_lt b; have := vopSb_lt b; have := k.isLt; have := tyCode_lt ty; rw [show field w 2 10 = _ from field_sub F.md_ 2 10 (by decide)]; omega
  show decVInt w h = _
  simp [decVInt, form, unused, regf, resv, F.fn_, F.d_, F.a_, F.b_, F.c_, F.k_, F.ty_, f5_of d F.d_, f5_of a F.a_, vopOf_of b F.b_, Nat.not_le.2 (vopReg_lt b), s_0_1, s_1_1, s_2_10, tyBad_code wt, tyGet_code]

theorem vmin (h : Hdr) (d : Fin 32) (a : Fin 32) (b : VOp) (k : Fin 8) (ty : Ty) : Statement (.vmin h d a b k ty) := fun hw =>
  back rfl (dec_vmin h d a b k ty hw (fmtA_fields (by decide)
    (h_d := d.isLt.trans_le (by decide))
    (h_a := a.isLt.trans_le (by decide))
    (h_b := (vopReg_lt b).trans_le (by decide))
    (h_c := by omega)
    (h_fn := by omega)
    (h_k := k.isLt.trans_le (by decide))
    (h_ty := tyCode_lt _)
    (h_md := (vopSb_lt b).trans_le (by decide))))

theorem dec_vmax (h : Hdr) (d : Fin 32) (a : Fin 32) (b : VOp) (k : Fin 8) (ty : Ty) (hw : (Instr.vmax h d a b k ty).wf = true) {w : Nat}
    (F : FieldsA w 0x40 h d a (vopReg b) 0 5 k (tyCode ty) (vopSb b)) : decodeNat false w = .instr (.vmax h d a b k ty) := by
  rw [F.decode (hdr_ok hw rfl)]
  have wt : (tyInts.contains ty : Bool) = true := form_ok hw
  have s_0_1 : field w 0 1 = vopSb b := by
    have := d.isLt; have := a.isLt; have := vopReg_lt b; have := vopSb_lt b; have := k.isLt; have := tyCode_lt ty; rw [show field w 0 1 = _ from field_sub F.md_ 0 1 (by decide)]; omega
  have s_1_1 : field w 1 1 = 0 := by
    have := d.isLt; have := a.isLt; have := vopReg_lt b; have := vopSb_lt b; have := k.isLt; have := tyCode_lt ty; rw [show field w 1 1 = _ from field_sub F.md_ 1 1 (by decide)]; omega
  have s_2_10 : field w 2 10 = 0 := by
    have := d.isLt; have := a.isLt; have := vopReg_lt b; have := vopSb_lt b; have := k.isLt; have := tyCode_lt ty; rw [show field w 2 10 = _ from field_sub F.md_ 2 10 (by decide)]; omega
  show decVInt w h = _
  simp [decVInt, form, unused, regf, resv, F.fn_, F.d_, F.a_, F.b_, F.c_, F.k_, F.ty_, f5_of d F.d_, f5_of a F.a_, vopOf_of b F.b_, Nat.not_le.2 (vopReg_lt b), s_0_1, s_1_1, s_2_10, tyBad_code wt, tyGet_code]

theorem vmax (h : Hdr) (d : Fin 32) (a : Fin 32) (b : VOp) (k : Fin 8) (ty : Ty) : Statement (.vmax h d a b k ty) := fun hw =>
  back rfl (dec_vmax h d a b k ty hw (fmtA_fields (by decide)
    (h_d := d.isLt.trans_le (by decide))
    (h_a := a.isLt.trans_le (by decide))
    (h_b := (vopReg_lt b).trans_le (by decide))
    (h_c := by omega)
    (h_fn := by omega)
    (h_k := k.isLt.trans_le (by decide))
    (h_ty := tyCode_lt _)
    (h_md := (vopSb_lt b).trans_le (by decide))))

theorem dec_vabs (h : Hdr) (d : Fin 32) (a : Fin 32) (k : Fin 8) (ty : Ty) (sat : Bool) (hw : (Instr.vabs h d a k ty sat).wf = true) {w : Nat}
    (F : FieldsA w 0x40 h d a 0 0 6 k (tyCode ty) (2 * sat.toNat)) : decodeNat false w = .instr (.vabs h d a k ty sat) := by
  rw [F.decode (hdr_ok hw rfl)]
  have wt : (tyInts.contains ty : Bool) = true := form_ok hw
  have s_0_1 : field w 0 1 = 0 := by
    have := d.isLt; have := a.isLt; have := k.isLt; have := tyCode_lt ty; have := toNat_lt2 sat; rw [show field w 0 1 = _ from field_sub F.md_ 0 1 (by decide)]; omega
  have s_1_1 : field w 1 1 = sat.toNat := by
    have := d.isLt; have := a.isLt; have := k.isLt; have := tyCode_lt ty; have := toNat_lt2 sat; rw [show field w 1 1 = _ from field_sub F.md_ 1 1 (by decide)]; omega
  have s_2_10 : field w 2 10 = 0 := by
    have := d.isLt; have := a.isLt; have := k.isLt; have := tyCode_lt ty; have := toNat_lt2 sat; rw [show field w 2 10 = _ from field_sub F.md_ 2 10 (by decide)]; omega
  show decVInt w h = _
  simp [decVInt, form, unused, regf, resv, F.fn_, F.d_, F.a_, F.b_, F.c_, F.k_, F.ty_, f5_of d F.d_, f5_of a F.a_, s_0_1, s_1_1, s_2_10, tyBad_code wt, tyGet_code]

theorem vabs (h : Hdr) (d : Fin 32) (a : Fin 32) (k : Fin 8) (ty : Ty) (sat : Bool) : Statement (.vabs h d a k ty sat) := fun hw =>
  back rfl (dec_vabs h d a k ty sat hw (fmtA_fields (by decide)
    (h_d := d.isLt.trans_le (by decide))
    (h_a := a.isLt.trans_le (by decide))
    (h_b := by omega)
    (h_c := by omega)
    (h_fn := by omega)
    (h_k := k.isLt.trans_le (by decide))
    (h_ty := tyCode_lt _)
    (h_md := by have := d.isLt; have := a.isLt; have := k.isLt; have := tyCode_lt ty; have := toNat_lt2 sat; omega)))

theorem dec_vneg (h : Hdr) (d : Fin 32) (a : Fin 32) (k : Fin 8) (ty : Ty) (sat : Bool) (hw : (Instr.vneg h d a k ty sat).wf = true) {w : Nat}
    (F : FieldsA w 0x40 h d a 0 0 7 k (tyCode ty) (2 * sat.toNat)) : decodeNat false w = .instr (.vneg h d a k ty sat) := by
  rw [F.decode (hdr_ok hw rfl)]
  have wt : (tyInts.contains ty : Bool) = true := form_ok hw
  have s_0_1 : field w 0 1 = 0 := by
    have := d.isLt; have := a.isLt; have := k.isLt; have := tyCode_lt ty; have := toNat_lt2 sat; rw [show field w 0 1 = _ from field_sub F.md_ 0 1 (by decide)]; omega
  have s_1_1 : field w 1 1 = sat.toNat := by
    have := d.isLt; have := a.isLt; have := k.isLt; have := tyCode_lt ty; have := toNat_lt2 sat; rw [show field w 1 1 = _ from field_sub F.md_ 1 1 (by decide)]; omega
  have s_2_10 : field w 2 10 = 0 := by
    have := d.isLt; have := a.isLt; have := k.isLt; have := tyCode_lt ty; have := toNat_lt2 sat; rw [show field w 2 10 = _ from field_sub F.md_ 2 10 (by decide)]; omega
  show decVInt w h = _
  simp [decVInt, form, unused, regf, resv, F.fn_, F.d_, F.a_, F.b_, F.c_, F.k_, F.ty_, f5_of d F.d_, f5_of a F.a_, s_0_1, s_1_1, s_2_10, tyBad_code wt, tyGet_code]

theorem vneg (h : Hdr) (d : Fin 32) (a : Fin 32) (k : Fin 8) (ty : Ty) (sat : Bool) : Statement (.vneg h d a k ty sat) := fun hw =>
  back rfl (dec_vneg h d a k ty sat hw (fmtA_fields (by decide)
    (h_d := d.isLt.trans_le (by decide))
    (h_a := a.isLt.trans_le (by decide))
    (h_b := by omega)
    (h_c := by omega)
    (h_fn := by omega)
    (h_k := k.isLt.trans_le (by decide))
    (h_ty := tyCode_lt _)
    (h_md := by have := d.isLt; have := a.isLt; have := k.isLt; have := tyCode_lt ty; have := toNat_lt2 sat; omega)))

theorem dec_vaddFp (h : Hdr) (d : Fin 32) (a : Fin 32) (b : VOp) (k : Fin 8) (ty : Ty) (hw : (Instr.vaddFp h d a b k ty).wf = true) {w : Nat}
    (F : FieldsA w 0x41 h d a (vopReg b) 0 0 k (tyCode ty) (vopSb b)) : decodeNat false w = .instr (.vaddFp h d a b k ty) := by
  rw [F.decode (hdr_ok hw rfl)]
  have wt : (tyFloats.contains ty : Bool) = true := form_ok hw
  have s_0_1 : field w 0 1 = vopSb b := by
    have := d.isLt; have := a.isLt; have := vopReg_lt b; have := vopSb_lt b; have := k.isLt; have := tyCode_lt ty; rw [show field w 0 1 = _ from field_sub F.md_ 0 1 (by decide)]; omega
  have s_1_11 : field w 1 11 = 0 := by
    have := d.isLt; have := a.isLt; have := vopReg_lt b; have := vopSb_lt b; have := k.isLt; have := tyCode_lt ty; rw [show field w 1 11 = _ from field_sub F.md_ 1 11 (by decide)]; omega
  show decVFp w h = _
  simp [decVFp, form, unused, regf, resv, F.fn_, F.d_, F.a_, F.b_, F.c_, F.k_, F.ty_, f5_of d F.d_, f5_of a F.a_, vopOf_of b F.b_, Nat.not_le.2 (vopReg_lt b), s_0_1, s_1_11, tyBad_code wt, tyGet_code]

theorem vaddFp (h : Hdr) (d : Fin 32) (a : Fin 32) (b : VOp) (k : Fin 8) (ty : Ty) : Statement (.vaddFp h d a b k ty) := fun hw =>
  back rfl (dec_vaddFp h d a b k ty hw (fmtA_fields (by decide)
    (h_d := d.isLt.trans_le (by decide))
    (h_a := a.isLt.trans_le (by decide))
    (h_b := (vopReg_lt b).trans_le (by decide))
    (h_c := by omega)
    (h_fn := by omega)
    (h_k := k.isLt.trans_le (by decide))
    (h_ty := tyCode_lt _)
    (h_md := (vopSb_lt b).trans_le (by decide))))

theorem dec_vsubFp (h : Hdr) (d : Fin 32) (a : Fin 32) (b : VOp) (k : Fin 8) (ty : Ty) (hw : (Instr.vsubFp h d a b k ty).wf = true) {w : Nat}
    (F : FieldsA w 0x41 h d a (vopReg b) 0 1 k (tyCode ty) (vopSb b)) : decodeNat false w = .instr (.vsubFp h d a b k ty) := by
  rw [F.decode (hdr_ok hw rfl)]
  have wt : (tyFloats.contains ty : Bool) = true := form_ok hw
  have s_0_1 : field w 0 1 = vopSb b := by
    have := d.isLt; have := a.isLt; have := vopReg_lt b; have := vopSb_lt b; have := k.isLt; have := tyCode_lt ty; rw [show field w 0 1 = _ from field_sub F.md_ 0 1 (by decide)]; omega
  have s_1_11 : field w 1 11 = 0 := by
    have := d.isLt; have := a.isLt; have := vopReg_lt b; have := vopSb_lt b; have := k.isLt; have := tyCode_lt ty; rw [show field w 1 11 = _ from field_sub F.md_ 1 11 (by decide)]; omega
  show decVFp w h = _
  simp [decVFp, form, unused, regf, resv, F.fn_, F.d_, F.a_, F.b_, F.c_, F.k_, F.ty_, f5_of d F.d_, f5_of a F.a_, vopOf_of b F.b_, Nat.not_le.2 (vopReg_lt b), s_0_1, s_1_11, tyBad_code wt, tyGet_code]

theorem vsubFp (h : Hdr) (d : Fin 32) (a : Fin 32) (b : VOp) (k : Fin 8) (ty : Ty) : Statement (.vsubFp h d a b k ty) := fun hw =>
  back rfl (dec_vsubFp h d a b k ty hw (fmtA_fields (by decide)
    (h_d := d.isLt.trans_le (by decide))
    (h_a := a.isLt.trans_le (by decide))
    (h_b := (vopReg_lt b).trans_le (by decide))
    (h_c := by omega)
    (h_fn := by omega)
    (h_k := k.isLt.trans_le (by decide))
    (h_ty := tyCode_lt _)
    (h_md := (vopSb_lt b).trans_le (by decide))))

theorem dec_vmulFp (h : Hdr) (d : Fin 32) (a : Fin 32) (b : VOp) (k : Fin 8) (ty : Ty) (hw : (Instr.vmulFp h d a b k ty).wf = true) {w : Nat}
    (F : FieldsA w 0x41 h d a (vopReg b) 0 2 k (tyCode ty) (vopSb b)) : decodeNat false w = .instr (.vmulFp h d a b k ty) := by
  rw [F.decode (hdr_ok hw rfl)]
  have wt : (tyFloats.contains ty : Bool) = true := form_ok hw
  have s_0_1 : field w 0 1 = vopSb b := by
    have := d.isLt; have := a.isLt; have := vopReg_lt b; have := vopSb_lt b; have := k.isLt; have := tyCode_lt ty; rw [show field w 0 1 = _ from field_sub F.md_ 0 1 (by decide)]; omega
  have s_1_11 : field w 1 11 = 0 := by
    have := d.isLt; have := a.isLt; have := vopReg_lt b; have := vopSb_lt b; have := k.isLt; have := tyCode_lt ty; rw [show field w 1 11 = _ from field_sub F.md_ 1 11 (by decide)]; omega
  show decVFp w h = _
  simp [decVFp, form, unused, regf, resv, F.fn_, F.d_, F.a_, F.b_, F.c_, F.k_, F.ty_, f5_of d F.d_, f5_of a F.a_, vopOf_of b F.b_, Nat.not_le.2 (vopReg_lt b), s_0_1, s_1_11, tyBad_code wt, tyGet_code]

theorem vmulFp (h : Hdr) (d : Fin 32) (a : Fin 32) (b : VOp) (k : Fin 8) (ty : Ty) : Statement (.vmulFp h d a b k ty) := fun hw =>
  back rfl (dec_vmulFp h d a b k ty hw (fmtA_fields (by decide)
    (h_d := d.isLt.trans_le (by decide))
    (h_a := a.isLt.trans_le (by decide))
    (h_b := (vopReg_lt b).trans_le (by decide))
    (h_c := by omega)
    (h_fn := by omega)
    (h_k := k.isLt.trans_le (by decide))
    (h_ty := tyCode_lt _)
    (h_md := (vopSb_lt b).trans_le (by decide))))

theorem dec_vminFp (h : Hdr) (d : Fin 32) (a : Fin 32) (b : VOp) (k : Fin 8) (ty : Ty) (hw : (Instr.vminFp h d a b k ty).wf = true) {w : Nat}
    (F : FieldsA w 0x41 h d a (vopReg b) 0 4 k (tyCode ty) (vopSb b)) : decodeNat false w = .instr (.vminFp h d a b k ty) := by
  rw [F.decode (hdr_ok hw rfl)]
  have wt : (tyFloats.contains ty : Bool) = true := form_ok hw
  have s_0_1 : field w 0 1 = vopSb b := by
    have := d.isLt; have := a.isLt; have := vopReg_lt b; have := vopSb_lt b; have := k.isLt; have := tyCode_lt ty; rw [show field w 0 1 = _ from field_sub F.md_ 0 1 (by decide)]; omega
  have s_1_11 : field w 1 11 = 0 := by
    have := d.isLt; have := a.isLt; have := vopReg_lt b; have := vopSb_lt b; have := k.isLt; have := tyCode_lt ty; rw [show field w 1 11 = _ from field_sub F.md_ 1 11 (by decide)]; omega
  show decVFp w h = _
  simp [decVFp, form, unused, regf, resv, F.fn_, F.d_, F.a_, F.b_, F.c_, F.k_, F.ty_, f5_of d F.d_, f5_of a F.a_, vopOf_of b F.b_, Nat.not_le.2 (vopReg_lt b), s_0_1, s_1_11, tyBad_code wt, tyGet_code]

theorem vminFp (h : Hdr) (d : Fin 32) (a : Fin 32) (b : VOp) (k : Fin 8) (ty : Ty) : Statement (.vminFp h d a b k ty) := fun hw =>
  back rfl (dec_vminFp h d a b k ty hw (fmtA_fields (by decide)
    (h_d := d.isLt.trans_le (by decide))
    (h_a := a.isLt.trans_le (by decide))
    (h_b := (vopReg_lt b).trans_le (by decide))
    (h_c := by omega)
    (h_fn := by omega)
    (h_k := k.isLt.trans_le (by decide))
    (h_ty := tyCode_lt _)
    (h_md := (vopSb_lt b).trans_le (by decide))))

theorem dec_vmaxFp (h : Hdr) (d : Fin 32) (a : Fin 32) (b : VOp) (k : Fin 8) (ty : Ty) (hw : (Instr.vmaxFp h d a b k ty).wf = true) {w : Nat}
    (F : FieldsA w 0x41 h d a (vopReg b) 0 5 k (tyCode ty) (vopSb b)) : decodeNat false w = .instr (.vmaxFp h d a b k ty) := by
  rw [F.decode (hdr_ok hw rfl)]
  have wt : (tyFloats.contains ty : Bool) = true := form_ok hw
  have s_0_1 : field w 0 1 = vopSb b := by
    have := d.isLt; have := a.isLt; have := vopReg_lt b; have := vopSb_lt b; have := k.isLt; have := tyCode_lt ty; rw [show field w 0 1 = _ from field_sub F.md_ 0 1 (by decide)]; omega
  have s_1_11 : field w 1 11 = 0 := by
    have := d.isLt; have := a.isLt; have := vopReg_lt b; have := vopSb_lt b; have := k.isLt; have := tyCode_lt ty; rw [show field w 1 11 = _ from field_sub F.md_ 1 11 (by decide)]; omega
  show decVFp w h = _
  simp [decVFp, form, unused, regf, resv, F.fn_, F.d_, F.a_, F.b_, F.c_, F.k_, F.ty_, f5_of d F.d_, f5_of a F.a_, vopOf_of b F.b_, Nat.not_le.2 (vopReg_lt b), s_0_1, s_1_11, tyBad_code wt, tyGet_code]

theorem vmaxFp (h : Hdr) (d : Fin 32) (a : Fin 32) (b : VOp) (k : Fin 8) (ty : Ty) : Statement (.vmaxFp h d a b k ty) := fun hw =>
  back rfl (dec_vmaxFp h d a b k ty hw (fmtA_fields (by decide)
    (h_d := d.isLt.trans_le (by decide))
    (h_a := a.isLt.trans_le (by decide))
    (h_b := (vopReg_lt b).trans_le (by decide))
    (h_c := by omega)
    (h_fn := by omega)
    (h_k := k.isLt.trans_le (by decide))
    (h_ty := tyCode_lt _)
    (h_md := (vopSb_lt b).trans_le (by decide))))

theorem dec_vabsFp (h : Hdr) (d : Fin 32) (a : Fin 32) (k : Fin 8) (ty : Ty) (hw : (Instr.vabsFp h d a k ty).wf = true) {w : Nat}
    (F : FieldsA w 0x41 h d a 0 0 6 k (tyCode ty) 0) : decodeNat false w = .instr (.vabsFp h d a k ty) := by
  rw [F.decode (hdr_ok hw rfl)]
  have wt : (tyFloats.contains ty : Bool) = true := form_ok hw
  have s_0_1 : field w 0 1 = _ := field_sub F.md_ 0 1 (by decide)
  have s_1_11 : field w 1 11 = _ := field_sub F.md_ 1 11 (by decide)
  show decVFp w h = _
  simp [decVFp, form, unused, regf, resv, F.fn_, F.d_, F.a_, F.b_, F.c_, F.k_, F.ty_, f5_of d F.d_, f5_of a F.a_, s_0_1, s_1_11, tyBad_code wt, tyGet_code]

theorem vabsFp (h : Hdr) (d : Fin 32) (a : Fin 32) (k : Fin 8) (ty : Ty) : Statement (.vabsFp h d a k ty) := fun hw =>
  back rfl (dec_vabsFp h d a k ty hw (fmtA_fields (by decide)
    (h_d := d.isLt.trans_le (by decide))
    (h_a := a.isLt.trans_le (by decide))
    (h_b := by omega)
    (h_c := by omega)
    (h_fn := by omega)
    (h_k := k.isLt.trans_le (by decide))
    (h_ty := tyCode_lt _)
    (h_md := by omega)))

theorem dec_vnegFp (h : Hdr) (d : Fin 32) (a : Fin 32) (k : Fin 8) (ty : Ty) (hw : (Instr.vnegFp h d a k ty).wf = true) {w : Nat}
    (F : FieldsA w 0x41 h d a 0 0 7 k (tyCode ty) 0) : decodeNat false w = .instr (.vnegFp h d a k ty) := by
  rw [F.decode (hdr_ok hw rfl)]
  have wt : (tyFloats.contains ty : Bool) = true := form_ok hw
  have s_0_1 : field w 0 1 = _ := field_sub F.md_ 0 1 (by decide)
  have s_1_11 : field w 1 11 = _ := field_sub F.md_ 1 11 (by decide)
  show decVFp w h = _
  simp [decVFp, form, unused, regf, resv, F.fn_, F.d_, F.a_, F.b_, F.c_, F.k_, F.ty_, f5_of d F.d_, f5_of a F.a_, s_0_1, s_1_11, tyBad_code wt, tyGet_code]

theorem vnegFp (h : Hdr) (d : Fin 32) (a : Fin 32) (k : Fin 8) (ty : Ty) : Statement (.vnegFp h d a k ty) := fun hw =>
  back rfl (dec_vnegFp h d a k ty hw (fmtA_fields (by decide)
    (h_d := d.isLt.trans_le (by decide))
    (h_a := a.isLt.trans_le (by decide))
    (h_b := by omega)
    (h_c := by omega)
    (h_fn := by omega)
    (h_k := k.isLt.trans_le (by decide))
    (h_ty := tyCode_lt _)
    (h_md := by omega)))

theorem dec_vfma (h : Hdr) (d : Fin 32) (a : Fin 32) (b : VOp) (c : Fin 32) (k : Fin 8) (ty : Ty) (hw : (Instr.vfma h d a b c k ty).wf = true) {w : Nat}
    (F : FieldsA w 0x42 h d a (vopReg b) c 0 k (tyCode ty) (vopSb b)) : decodeNat false w = .instr (.vfma h d a b c k ty) := by
  rw [F.decode (hdr_ok hw rfl)]
  have wt : (tyFloats.contains ty : Bool) = true := form_ok hw
  have s_0_1 : field w 0 1 = vopSb b := by
    have := d.isLt; have := a.isLt; have := vopReg_lt b; have := vopSb_lt b; have := c.isLt; have := k.isLt; have := tyCode_lt ty; rw [show field w 0 1 = _ from field_sub F.md_ 0 1 (by decide)]; omega
  have s_1_11 : field w 1 11 = 0 := by
    have := d.isLt; have := a.isLt; have := vopReg_lt b; have := vopSb_lt b; have := c.isLt; have := k.isLt; have := tyCode_lt ty; rw [show field w 1 11 = _ from field_sub F.md_ 1 11 (by decide)]; omega
  show decVFma w h = _
  simp [decVFma, form, unused, regf, resv, F.fn_, F.d_, F.a_, F.b_, F.c_, F.k_, F.ty_, f5_of d F.d_, f5_of a F.a_, vopOf_of b F.b_, Nat.not_le.2 (vopReg_lt b), f5_of c F.c_, s_0_1, s_1_11, tyBad_code wt, tyGet_code]

theorem vfma (h : Hdr) (d : Fin 32) (a : Fin 32) (b : VOp) (c : Fin 32) (k : Fin 8) (ty : Ty) : Statement (.vfma h d a b c k ty) := fun hw =>
  back rfl (dec_vfma h d a b c k ty hw (fmtA_fields (by decide)
    (h_d := d.isLt.trans_le (by decide))
    (h_a := a.isLt.trans_le (by decide))
    (h_b := (vopReg_lt b).trans_le (by decide))
    (h_c := c.isLt.trans_le (by decide))
    (h_fn := by omega)
    (h_k := k.isLt.trans_le (by decide))
    (h_ty := tyCode_lt _)
    (h_md := (vopSb_lt b).trans_le (by decide))))

theorem dec_vfms (h : Hdr) (d : Fin 32) (a : Fin 32) (b : VOp) (c : Fin 32) (k : Fin 8) (ty : Ty) (hw : (Instr.vfms h d a b c k ty).wf = true) {w : Nat}
    (F : FieldsA w 0x42 h d a (vopReg b) c 1 k (tyCode ty) (vopSb b)) : decodeNat false w = .instr (.vfms h d a b c k ty) := by
  rw [F.decode (hdr_ok hw rfl)]
  have wt : (tyFloats.contains ty : Bool) = true := form_ok hw
  have s_0_1 : field w 0 1 = vopSb b := by
    have := d.isLt; have := a.isLt; have := vopReg_lt b; have := vopSb_lt b; have := c.isLt; have := k.isLt; have := tyCode_lt ty; rw [show field w 0 1 = _ from field_sub F.md_ 0 1 (by decide)]; omega
  have s_1_11 : field w 1 11 = 0 := by
    have := d.isLt; have := a.isLt; have := vopReg_lt b; have := vopSb_lt b; have := c.isLt; have := k.isLt; have := tyCode_lt ty; rw [show field w 1 11 = _ from field_sub F.md_ 1 11 (by decide)]; omega
  show decVFma w h = _
  simp [decVFma, form, unused, regf, resv, F.fn_, F.d_, F.a_, F.b_, F.c_, F.k_, F.ty_, f5_of d F.d_, f5_of a F.a_, vopOf_of b F.b_, Nat.not_le.2 (vopReg_lt b), f5_of c F.c_, s_0_1, s_1_11, tyBad_code wt, tyGet_code]

theorem vfms (h : Hdr) (d : Fin 32) (a : Fin 32) (b : VOp) (c : Fin 32) (k : Fin 8) (ty : Ty) : Statement (.vfms h d a b c k ty) := fun hw =>
  back rfl (dec_vfms h d a b c k ty hw (fmtA_fields (by decide)
    (h_d := d.isLt.trans_le (by decide))
    (h_a := a.isLt.trans_le (by decide))
    (h_b := (vopReg_lt b).trans_le (by decide))
    (h_c := c.isLt.trans_le (by decide))
    (h_fn := by omega)
    (h_k := k.isLt.trans_le (by decide))
    (h_ty := tyCode_lt _)
    (h_md := (vopSb_lt b).trans_le (by decide))))

theorem dec_vfnma (h : Hdr) (d : Fin 32) (a : Fin 32) (b : VOp) (c : Fin 32) (k : Fin 8) (ty : Ty) (hw : (Instr.vfnma h d a b c k ty).wf = true) {w : Nat}
    (F : FieldsA w 0x42 h d a (vopReg b) c 2 k (tyCode ty) (vopSb b)) : decodeNat false w = .instr (.vfnma h d a b c k ty) := by
  rw [F.decode (hdr_ok hw rfl)]
  have wt : (tyFloats.contains ty : Bool) = true := form_ok hw
  have s_0_1 : field w 0 1 = vopSb b := by
    have := d.isLt; have := a.isLt; have := vopReg_lt b; have := vopSb_lt b; have := c.isLt; have := k.isLt; have := tyCode_lt ty; rw [show field w 0 1 = _ from field_sub F.md_ 0 1 (by decide)]; omega
  have s_1_11 : field w 1 11 = 0 := by
    have := d.isLt; have := a.isLt; have := vopReg_lt b; have := vopSb_lt b; have := c.isLt; have := k.isLt; have := tyCode_lt ty; rw [show field w 1 11 = _ from field_sub F.md_ 1 11 (by decide)]; omega
  show decVFma w h = _
  simp [decVFma, form, unused, regf, resv, F.fn_, F.d_, F.a_, F.b_, F.c_, F.k_, F.ty_, f5_of d F.d_, f5_of a F.a_, vopOf_of b F.b_, Nat.not_le.2 (vopReg_lt b), f5_of c F.c_, s_0_1, s_1_11, tyBad_code wt, tyGet_code]

theorem vfnma (h : Hdr) (d : Fin 32) (a : Fin 32) (b : VOp) (c : Fin 32) (k : Fin 8) (ty : Ty) : Statement (.vfnma h d a b c k ty) := fun hw =>
  back rfl (dec_vfnma h d a b c k ty hw (fmtA_fields (by decide)
    (h_d := d.isLt.trans_le (by decide))
    (h_a := a.isLt.trans_le (by decide))
    (h_b := (vopReg_lt b).trans_le (by decide))
    (h_c := c.isLt.trans_le (by decide))
    (h_fn := by omega)
    (h_k := k.isLt.trans_le (by decide))
    (h_ty := tyCode_lt _)
    (h_md := (vopSb_lt b).trans_le (by decide))))

theorem dec_vdot2 (h : Hdr) (d : Fin 32) (a : Fin 32) (b : VOp) (c : Fin 32) (k : Fin 8) (ty : Ty) (hw : (Instr.vdot2 h d a b c k ty).wf = true) {w : Nat}
    (F : FieldsA w 0x42 h d a (vopReg b) c 3 k (tyCode ty) (vopSb b)) : decodeNat false w = .instr (.vdot2 h d a b c k ty) := by
  rw [F.decode (hdr_ok hw rfl)]
  have wt : (tyHalf.contains ty : Bool) = true := form_ok hw
  have s_0_1 : field w 0 1 = vopSb b := by
    have := d.isLt; have := a.isLt; have := vopReg_lt b; have := vopSb_lt b; have := c.isLt; have := k.isLt; have := tyCode_lt ty; rw [show field w 0 1 = _ from field_sub F.md_ 0 1 (by decide)]; omega
  have s_1_11 : field w 1 11 = 0 := by
    have := d.isLt; have := a.isLt; have := vopReg_lt b; have := vopSb_lt b; have := c.isLt; have := k.isLt; have := tyCode_lt ty; rw [show field w 1 11 = _ from field_sub F.md_ 1 11 (by decide)]; omega
  show decVFma w h = _
  simp [decVFma, form, unused, regf, resv, F.fn_, F.d_, F.a_, F.b_, F.c_, F.k_, F.ty_, f5_of d F.d_, f5_of a F.a_, vopOf_of b F.b_, Nat.not_le.2 (vopReg_lt b), f5_of c F.c_, s_0_1, s_1_11, tyBad_code wt, tyGet_code]

theorem vdot2 (h : Hdr) (d : Fin 32) (a : Fin 32) (b : VOp) (c : Fin 32) (k : Fin 8) (ty : Ty) : Statement (.vdot2 h d a b c k ty) := fun hw =>
  back rfl (dec_vdot2 h d a b c k ty hw (fmtA_fields (by decide)
    (h_d := d.isLt.trans_le (by decide))
    (h_a := a.isLt.trans_le (by decide))
    (h_b := (vopReg_lt b).trans_le (by decide))
    (h_c := c.isLt.trans_le (by decide))
    (h_fn := by omega)
    (h_k := k.isLt.trans_le (by decide))
    (h_ty := tyCode_lt _)
    (h_md := (vopSb_lt b).trans_le (by decide))))

theorem dec_vdot4 (h : Hdr) (d : Fin 32) (a : Fin 32) (b : VOp) (c : Fin 32) (k : Fin 8) (ty : Ty) (hw : (Instr.vdot4 h d a b c k ty).wf = true) {w : Nat}
    (F : FieldsA w 0x42 h d a (vopReg b) c 4 k (tyCode ty) (vopSb b)) : decodeNat false w = .instr (.vdot4 h d a b c k ty) := by
  rw [F.decode (hdr_ok hw rfl)]
  have wt : (tyDot4.contains ty : Bool) = true := form_ok hw
  have s_0_1 : field w 0 1 = vopSb b := by
    have := d.isLt; have := a.isLt; have := vopReg_lt b; have := vopSb_lt b; have := c.isLt; have := k.isLt; have := tyCode_lt ty; rw [show field w 0 1 = _ from field_sub F.md_ 0 1 (by decide)]; omega
  have s_1_11 : field w 1 11 = 0 := by
    have := d.isLt; have := a.isLt; have := vopReg_lt b; have := vopSb_lt b; have := c.isLt; have := k.isLt; have := tyCode_lt ty; rw [show field w 1 11 = _ from field_sub F.md_ 1 11 (by decide)]; omega
  show decVFma w h = _
  simp [decVFma, form, unused, regf, resv, F.fn_, F.d_, F.a_, F.b_, F.c_, F.k_, F.ty_, f5_of d F.d_, f5_of a F.a_, vopOf_of b F.b_, Nat.not_le.2 (vopReg_lt b), f5_of c F.c_, s_0_1, s_1_11, tyBad_code wt, tyGet_code]

theorem vdot4 (h : Hdr) (d : Fin 32) (a : Fin 32) (b : VOp) (c : Fin 32) (k : Fin 8) (ty : Ty) : Statement (.vdot4 h d a b c k ty) := fun hw =>
  back rfl (dec_vdot4 h d a b c k ty hw (fmtA_fields (by decide)
    (h_d := d.isLt.trans_le (by decide))
    (h_a := a.isLt.trans_le (by decide))
    (h_b := (vopReg_lt b).trans_le (by decide))
    (h_c := c.isLt.trans_le (by decide))
    (h_fn := by omega)
    (h_k := k.isLt.trans_le (by decide))
    (h_ty := tyCode_lt _)
    (h_md := (vopSb_lt b).trans_le (by decide))))

theorem dec_vcmp (h : Hdr) (cond : VCond) (d : Fin 8) (a : Fin 32) (b : VOp) (k : Fin 8) (ty : Ty) (hw : (Instr.vcmp h cond d a b k ty).wf = true) {w : Nat}
    (F : FieldsA w 0x43 h d a (vopReg b) 0 (vcondCode cond) k (tyCode ty) (vopSb b)) : decodeNat false w = .instr (.vcmp h cond d a b k ty) := by
  rw [F.decode (hdr_ok hw rfl)]
  have wt : (tyCmp.contains ty && (cond != .unord || ty == .f32) : Bool) = true := form_ok hw
  simp only [MacArg.ok, Bool.and_eq_true, Bool.or_eq_true, beq_iff_eq, bne_iff_ne, ne_eq, Bool.not_eq_true', decide_eq_true_eq] at wt
  have ne : (vcondCode cond == 6 && tyCode ty != 16) = false := by
    rcases wt.2 with e | e
    · cases cond <;> first | rfl | exact absurd rfl e
    · rw [e]; simp [tyCode]
  have s_0_1 : field w 0 1 = vopSb b := by
    have := vcondCode_le cond; have := d.isLt; have := a.isLt; have := vopReg_lt b; have := vopSb_lt b; have := k.isLt; have := tyCode_lt ty; rw [show field w 0 1 = _ from field_sub F.md_ 0 1 (by decide)]; omega
  have s_1_11 : field w 1 11 = 0 := by
    have := vcondCode_le cond; have := d.isLt; have := a.isLt; have := vopReg_lt b; have := vopSb_lt b; have := k.isLt; have := tyCode_lt ty; rw [show field w 1 11 = _ from field_sub F.md_ 1 11 (by decide)]; omega
  show decVCmp w h = _
  simp [decVCmp, form, unused, regf, resv, vcondOf_code, Nat.not_lt.2 (vcondCode_le _), F.fn_, F.d_, F.a_, F.b_, F.c_, F.k_, F.ty_, f3_of d F.d_, f5_of a F.a_, vopOf_of b F.b_, Nat.not_le.2 (vopReg_lt b), s_0_1, s_1_11, tyBad_code wt.1, ne, tyGet_code]

theorem vcmp (h : Hdr) (cond : VCond) (d : Fin 8) (a : Fin 32) (b : VOp) (k : Fin 8) (ty : Ty) : Statement (.vcmp h cond d a b k ty) := fun hw =>
  back rfl (dec_vcmp h cond d a b k ty hw (fmtA_fields (by decide)
    (h_d := d.isLt.trans_le (by decide))
    (h_a := a.isLt.trans_le (by decide))
    (h_b := (vopReg_lt b).trans_le (by decide))
    (h_c := by omega)
    (h_fn := by have := vcondCode_le cond; have := d.isLt; have := a.isLt; have := vopReg_lt b; have := vopSb_lt b; have := k.isLt; have := tyCode_lt ty; omega)
    (h_k := k.isLt.trans_le (by decide))
    (h_ty := tyCode_lt _)
    (h_md := (vopSb_lt b).trans_le (by decide))))

theorem dec_vand (h : Hdr) (d : Fin 32) (a : Fin 32) (b : VOp) (k : Fin 8) (ty : Ty) (hw : (Instr.vand h d a b k ty).wf = true) {w : Nat}
    (F : FieldsA w 0x44 h d a (vopReg b) 0 0 k (tyCode ty) (vopSb b)) : decodeNat false w = .instr (.vand h d a b k ty) := by
  rw [F.decode (hdr_ok hw rfl)]
  have wt : (tyLogic.contains ty : Bool) = true := form_ok hw
  have s_0_1 : field w 0 1 = vopSb b := by
    have := d.isLt; have := a.isLt; have := vopReg_lt b; have := vopSb_lt b; have := k.isLt; have := tyCode_lt ty; rw [show field w 0 1 = _ from field_sub F.md_ 0 1 (by decide)]; omega
  have s_1_11 : field w 1 11 = 0 := by
    have := d.isLt; have := a.isLt; have := vopReg_lt b; have := vopSb_lt b; have := k.isLt; have := tyCode_lt ty; rw [show field w 1 11 = _ from field_sub F.md_ 1 11 (by decide)]; omega
  show decVLogic w h = _
  simp [decVLogic, form, unused, regf, resv, F.fn_, F.d_, F.a_, F.b_, F.c_, F.k_, F.ty_, f5_of d F.d_, f5_of a F.a_, vopOf_of b F.b_, Nat.not_le.2 (vopReg_lt b), s_0_1, s_1_11, tyBad_code wt, tyGet_code]

theorem vand (h : Hdr) (d : Fin 32) (a : Fin 32) (b : VOp) (k : Fin 8) (ty : Ty) : Statement (.vand h d a b k ty) := fun hw =>
  back rfl (dec_vand h d a b k ty hw (fmtA_fields (by decide)
    (h_d := d.isLt.trans_le (by decide))
    (h_a := a.isLt.trans_le (by decide))
    (h_b := (vopReg_lt b).trans_le (by decide))
    (h_c := by omega)
    (h_fn := by omega)
    (h_k := k.isLt.trans_le (by decide))
    (h_ty := tyCode_lt _)
    (h_md := (vopSb_lt b).trans_le (by decide))))

theorem dec_vor (h : Hdr) (d : Fin 32) (a : Fin 32) (b : VOp) (k : Fin 8) (ty : Ty) (hw : (Instr.vor h d a b k ty).wf = true) {w : Nat}
    (F : FieldsA w 0x44 h d a (vopReg b) 0 1 k (tyCode ty) (vopSb b)) : decodeNat false w = .instr (.vor h d a b k ty) := by
  rw [F.decode (hdr_ok hw rfl)]
  have wt : (tyLogic.contains ty : Bool) = true := form_ok hw
  have s_0_1 : field w 0 1 = vopSb b := by
    have := d.isLt; have := a.isLt; have := vopReg_lt b; have := vopSb_lt b; have := k.isLt; have := tyCode_lt ty; rw [show field w 0 1 = _ from field_sub F.md_ 0 1 (by decide)]; omega
  have s_1_11 : field w 1 11 = 0 := by
    have := d.isLt; have := a.isLt; have := vopReg_lt b; have := vopSb_lt b; have := k.isLt; have := tyCode_lt ty; rw [show field w 1 11 = _ from field_sub F.md_ 1 11 (by decide)]; omega
  show decVLogic w h = _
  simp [decVLogic, form, unused, regf, resv, F.fn_, F.d_, F.a_, F.b_, F.c_, F.k_, F.ty_, f5_of d F.d_, f5_of a F.a_, vopOf_of b F.b_, Nat.not_le.2 (vopReg_lt b), s_0_1, s_1_11, tyBad_code wt, tyGet_code]

theorem vor (h : Hdr) (d : Fin 32) (a : Fin 32) (b : VOp) (k : Fin 8) (ty : Ty) : Statement (.vor h d a b k ty) := fun hw =>
  back rfl (dec_vor h d a b k ty hw (fmtA_fields (by decide)
    (h_d := d.isLt.trans_le (by decide))
    (h_a := a.isLt.trans_le (by decide))
    (h_b := (vopReg_lt b).trans_le (by decide))
    (h_c := by omega)
    (h_fn := by omega)
    (h_k := k.isLt.trans_le (by decide))
    (h_ty := tyCode_lt _)
    (h_md := (vopSb_lt b).trans_le (by decide))))

theorem dec_vxor (h : Hdr) (d : Fin 32) (a : Fin 32) (b : VOp) (k : Fin 8) (ty : Ty) (hw : (Instr.vxor h d a b k ty).wf = true) {w : Nat}
    (F : FieldsA w 0x44 h d a (vopReg b) 0 2 k (tyCode ty) (vopSb b)) : decodeNat false w = .instr (.vxor h d a b k ty) := by
  rw [F.decode (hdr_ok hw rfl)]
  have wt : (tyLogic.contains ty : Bool) = true := form_ok hw
  have s_0_1 : field w 0 1 = vopSb b := by
    have := d.isLt; have := a.isLt; have := vopReg_lt b; have := vopSb_lt b; have := k.isLt; have := tyCode_lt ty; rw [show field w 0 1 = _ from field_sub F.md_ 0 1 (by decide)]; omega
  have s_1_11 : field w 1 11 = 0 := by
    have := d.isLt; have := a.isLt; have := vopReg_lt b; have := vopSb_lt b; have := k.isLt; have := tyCode_lt ty; rw [show field w 1 11 = _ from field_sub F.md_ 1 11 (by decide)]; omega
  show decVLogic w h = _
  simp [decVLogic, form, unused, regf, resv, F.fn_, F.d_, F.a_, F.b_, F.c_, F.k_, F.ty_, f5_of d F.d_, f5_of a F.a_, vopOf_of b F.b_, Nat.not_le.2 (vopReg_lt b), s_0_1, s_1_11, tyBad_code wt, tyGet_code]

theorem vxor (h : Hdr) (d : Fin 32) (a : Fin 32) (b : VOp) (k : Fin 8) (ty : Ty) : Statement (.vxor h d a b k ty) := fun hw =>
  back rfl (dec_vxor h d a b k ty hw (fmtA_fields (by decide)
    (h_d := d.isLt.trans_le (by decide))
    (h_a := a.isLt.trans_le (by decide))
    (h_b := (vopReg_lt b).trans_le (by decide))
    (h_c := by omega)
    (h_fn := by omega)
    (h_k := k.isLt.trans_le (by decide))
    (h_ty := tyCode_lt _)
    (h_md := (vopSb_lt b).trans_le (by decide))))

theorem dec_vandn (h : Hdr) (d : Fin 32) (a : Fin 32) (b : VOp) (k : Fin 8) (ty : Ty) (hw : (Instr.vandn h d a b k ty).wf = true) {w : Nat}
    (F : FieldsA w 0x44 h d a (vopReg b) 0 3 k (tyCode ty) (vopSb b)) : decodeNat false w = .instr (.vandn h d a b k ty) := by
  rw [F.decode (hdr_ok hw rfl)]
  have wt : (tyLogic.contains ty : Bool) = true := form_ok hw
  have s_0_1 : field w 0 1 = vopSb b := by
    have := d.isLt; have := a.isLt; have := vopReg_lt b; have := vopSb_lt b; have := k.isLt; have := tyCode_lt ty; rw [show field w 0 1 = _ from field_sub F.md_ 0 1 (by decide)]; omega
  have s_1_11 : field w 1 11 = 0 := by
    have := d.isLt; have := a.isLt; have := vopReg_lt b; have := vopSb_lt b; have := k.isLt; have := tyCode_lt ty; rw [show field w 1 11 = _ from field_sub F.md_ 1 11 (by decide)]; omega
  show decVLogic w h = _
  simp [decVLogic, form, unused, regf, resv, F.fn_, F.d_, F.a_, F.b_, F.c_, F.k_, F.ty_, f5_of d F.d_, f5_of a F.a_, vopOf_of b F.b_, Nat.not_le.2 (vopReg_lt b), s_0_1, s_1_11, tyBad_code wt, tyGet_code]

theorem vandn (h : Hdr) (d : Fin 32) (a : Fin 32) (b : VOp) (k : Fin 8) (ty : Ty) : Statement (.vandn h d a b k ty) := fun hw =>
  back rfl (dec_vandn h d a b k ty hw (fmtA_fields (by decide)
    (h_d := d.isLt.trans_le (by decide))
    (h_a := a.isLt.trans_le (by decide))
    (h_b := (vopReg_lt b).trans_le (by decide))
    (h_c := by omega)
    (h_fn := by omega)
    (h_k := k.isLt.trans_le (by decide))
    (h_ty := tyCode_lt _)
    (h_md := (vopSb_lt b).trans_le (by decide))))

theorem dec_vshl (h : Hdr) (d : Fin 32) (a : Fin 32) (b : VOp) (k : Fin 8) (ty : Ty) (hw : (Instr.vshl h d a b k ty).wf = true) {w : Nat}
    (F : FieldsA w 0x44 h d a (vopReg b) 0 4 k (tyCode ty) (vopSb b)) : decodeNat false w = .instr (.vshl h d a b k ty) := by
  rw [F.decode (hdr_ok hw rfl)]
  have wt : (tyInts.contains ty : Bool) = true := form_ok hw
  have s_0_1 : field w 0 1 = vopSb b := by
    have := d.isLt; have := a.isLt; have := vopReg_lt b; have := vopSb_lt b; have := k.isLt; have := tyCode_lt ty; rw [show field w 0 1 = _ from field_sub F.md_ 0 1 (by decide)]; omega
  have s_1_11 : field w 1 11 = 0 := by
    have := d.isLt; have := a.isLt; have := vopReg_lt b; have := vopSb_lt b; have := k.isLt; have := tyCode_lt ty; rw [show field w 1 11 = _ from field_sub F.md_ 1 11 (by decide)]; omega
  show decVLogic w h = _
  simp [decVLogic, form, unused, regf, resv, F.fn_, F.d_, F.a_, F.b_, F.c_, F.k_, F.ty_, f5_of d F.d_, f5_of a F.a_, vopOf_of b F.b_, Nat.not_le.2 (vopReg_lt b), s_0_1, s_1_11, tyBad_code wt, tyGet_code]

theorem vshl (h : Hdr) (d : Fin 32) (a : Fin 32) (b : VOp) (k : Fin 8) (ty : Ty) : Statement (.vshl h d a b k ty) := fun hw =>
  back rfl (dec_vshl h d a b k ty hw (fmtA_fields (by decide)
    (h_d := d.isLt.trans_le (by decide))
    (h_a := a.isLt.trans_le (by decide))
    (h_b := (vopReg_lt b).trans_le (by decide))
    (h_c := by omega)
    (h_fn := by omega)
    (h_k := k.isLt.trans_le (by decide))
    (h_ty := tyCode_lt _)
    (h_md := (vopSb_lt b).trans_le (by decide))))

theorem dec_vshr (h : Hdr) (d : Fin 32) (a : Fin 32) (b : VOp) (k : Fin 8) (ty : Ty) (hw : (Instr.vshr h d a b k ty).wf = true) {w : Nat}
    (F : FieldsA w 0x44 h d a (vopReg b) 0 5 k (tyCode ty) (vopSb b)) : decodeNat false w = .instr (.vshr h d a b k ty) := by
  rw [F.decode (hdr_ok hw rfl)]
  have wt : (tyInts.contains ty : Bool) = true := form_ok hw
  have s_0_1 : field w 0 1 = vopSb b := by
    have := d.isLt; have := a.isLt; have := vopReg_lt b; have := vopSb_lt b; have := k.isLt; have := tyCode_lt ty; rw [show field w 0 1 = _ from field_sub F.md_ 0 1 (by decide)]; omega
  have s_1_11 : field w 1 11 = 0 := by
    have := d.isLt; have := a.isLt; have := vopReg_lt b; have := vopSb_lt b; have := k.isLt; have := tyCode_lt ty; rw [show field w 1 11 = _ from field_sub F.md_ 1 11 (by decide)]; omega
  show decVLogic w h = _
  simp [decVLogic, form, unused, regf, resv, F.fn_, F.d_, F.a_, F.b_, F.c_, F.k_, F.ty_, f5_of d F.d_, f5_of a F.a_, vopOf_of b F.b_, Nat.not_le.2 (vopReg_lt b), s_0_1, s_1_11, tyBad_code wt, tyGet_code]

theorem vshr (h : Hdr) (d : Fin 32) (a : Fin 32) (b : VOp) (k : Fin 8) (ty : Ty) : Statement (.vshr h d a b k ty) := fun hw =>
  back rfl (dec_vshr h d a b k ty hw (fmtA_fields (by decide)
    (h_d := d.isLt.trans_le (by decide))
    (h_a := a.isLt.trans_le (by decide))
    (h_b := (vopReg_lt b).trans_le (by decide))
    (h_c := by omega)
    (h_fn := by omega)
    (h_k := k.isLt.trans_le (by decide))
    (h_ty := tyCode_lt _)
    (h_md := (vopSb_lt b).trans_le (by decide))))

theorem dec_vsar (h : Hdr) (d : Fin 32) (a : Fin 32) (b : VOp) (k : Fin 8) (ty : Ty) (hw : (Instr.vsar h d a b k ty).wf = true) {w : Nat}
    (F : FieldsA w 0x44 h d a (vopReg b) 0 6 k (tyCode ty) (vopSb b)) : decodeNat false w = .instr (.vsar h d a b k ty) := by
  rw [F.decode (hdr_ok hw rfl)]
  have wt : (tyInts.contains ty : Bool) = true := form_ok hw
  have s_0_1 : field w 0 1 = vopSb b := by
    have := d.isLt; have := a.isLt; have := vopReg_lt b; have := vopSb_lt b; have := k.isLt; have := tyCode_lt ty; rw [show field w 0 1 = _ from field_sub F.md_ 0 1 (by decide)]; omega
  have s_1_11 : field w 1 11 = 0 := by
    have := d.isLt; have := a.isLt; have := vopReg_lt b; have := vopSb_lt b; have := k.isLt; have := tyCode_lt ty; rw [show field w 1 11 = _ from field_sub F.md_ 1 11 (by decide)]; omega
  show decVLogic w h = _
  simp [decVLogic, form, unused, regf, resv, F.fn_, F.d_, F.a_, F.b_, F.c_, F.k_, F.ty_, f5_of d F.d_, f5_of a F.a_, vopOf_of b F.b_, Nat.not_le.2 (vopReg_lt b), s_0_1, s_1_11, tyBad_code wt, tyGet_code]

theorem vsar (h : Hdr) (d : Fin 32) (a : Fin 32) (b : VOp) (k : Fin 8) (ty : Ty) : Statement (.vsar h d a b k ty) := fun hw =>
  back rfl (dec_vsar h d a b k ty hw (fmtA_fields (by decide)
    (h_d := d.isLt.trans_le (by decide))
    (h_a := a.isLt.trans_le (by decide))
    (h_b := (vopReg_lt b).trans_le (by decide))
    (h_c := by omega)
    (h_fn := by omega)
    (h_k := k.isLt.trans_le (by decide))
    (h_ty := tyCode_lt _)
    (h_md := (vopSb_lt b).trans_le (by decide))))

theorem dec_vsel (h : Hdr) (d : Fin 32) (c : Fin 8) (a : Fin 32) (b : VOp) (ty : Ty) (hw : (Instr.vsel h d c a b ty).wf = true) {w : Nat}
    (F : FieldsA w 0x44 h d a (vopReg b) c 7 0 (tyCode ty) (vopSb b)) : decodeNat false w = .instr (.vsel h d c a b ty) := by
  rw [F.decode (hdr_ok hw rfl)]
  have wt : (tyLogic.contains ty : Bool) = true := form_ok hw
  have s_0_1 : field w 0 1 = vopSb b := by
    have := d.isLt; have := c.isLt; have := a.isLt; have := vopReg_lt b; have := vopSb_lt b; have := tyCode_lt ty; rw [show field w 0 1 = _ from field_sub F.md_ 0 1 (by decide)]; omega
  have s_1_11 : field w 1 11 = 0 := by
    have := d.isLt; have := c.isLt; have := a.isLt; have := vopReg_lt b; have := vopSb_lt b; have := tyCode_lt ty; rw [show field w 1 11 = _ from field_sub F.md_ 1 11 (by decide)]; omega
  show decVLogic w h = _
  simp [decVLogic, form, unused, regf, resv, F.fn_, F.d_, F.a_, F.b_, F.c_, F.k_, F.ty_, f5_of d F.d_, f5_of a F.a_, vopOf_of b F.b_, Nat.not_le.2 (vopReg_lt b), f3_of c F.c_, s_0_1, s_1_11, tyBad_code wt, tyGet_code]

theorem vsel (h : Hdr) (d : Fin 32) (c : Fin 8) (a : Fin 32) (b : VOp) (ty : Ty) : Statement (.vsel h d c a b ty) := fun hw =>
  back rfl (dec_vsel h d c a b ty hw (fmtA_fields (by decide)
    (h_d := d.isLt.trans_le (by decide))
    (h_a := a.isLt.trans_le (by decide))
    (h_b := (vopReg_lt b).trans_le (by decide))
    (h_c := c.isLt.trans_le (by decide))
    (h_fn := by omega)
    (h_k := by omega)
    (h_ty := tyCode_lt _)
    (h_md := (vopSb_lt b).trans_le (by decide))))

theorem dec_vcvt (h : Hdr) (d : Fin 32) (a : Fin 32) (k : Fin 8) (ty : Ty) (sty : Ty) (part : Fin 16) (hw : (Instr.vcvt h d a k ty sty part).wf = true) {w : Nat}
    (F : FieldsA w 0x45 h d a 0 0 0 k (tyCode ty) (tyCode sty + 32 * part)) : decodeNat false w = .instr (.vcvt h d a k ty sty part) := by
  rw [F.decode (hdr_ok hw rfl)]
  have wt : (tyCvtDst.contains ty && tyCvtSrc.contains sty && ty != sty && part.val < tyRatio ty sty : Bool) = true := form_ok hw
  simp only [MacArg.ok, Bool.and_eq_true, Bool.or_eq_true, beq_iff_eq, bne_iff_ne, ne_eq, Bool.not_eq_true', decide_eq_true_eq] at wt
  have ne : (tyCode sty == tyCode ty) = false := by
    simp only [beq_eq_false_iff_ne, ne_eq]
    exact fun e => wt.1.2 (tyCode_inj e).symm
  have s_0_5 : field w 0 5 = tyCode sty := by
    have := d.isLt; have := a.isLt; have := k.isLt; have := tyCode_lt ty; have := tyCode_lt sty; have := part.isLt; rw [show field w 0 5 = _ from field_sub F.md_ 0 5 (by decide)]; omega
  have s_5_4 : field w 5 4 = part := by
    have := d.isLt; have := a.isLt; have := k.isLt; have := tyCode_lt ty; have := tyCode_lt sty; have := part.isLt; rw [show field w 5 4 = _ from field_sub F.md_ 5 4 (by decide)]; omega
  have s_9_3 : field w 9 3 = 0 := by
    have := d.isLt; have := a.isLt; have := k.isLt; have := tyCode_lt ty; have := tyCode_lt sty; have := part.isLt; rw [show field w 9 3 = _ from field_sub F.md_ 9 3 (by decide)]; omega
  show decVCvt w h = _
  simp [decVCvt, form, unused, regf, resv, F.fn_, F.d_, F.a_, F.b_, F.c_, F.k_, F.ty_, f5_of d F.d_, f5_of a F.a_, s_0_5, s_5_4, s_9_3, tyBad_code wt.1.1.1, tyBad_code wt.1.1.2, ne, wt.2, tyGet_code]

theorem vcvt (h : Hdr) (d : Fin 32) (a : Fin 32) (k : Fin 8) (ty : Ty) (sty : Ty) (part : Fin 16) : Statement (.vcvt h d a k ty sty part) := fun hw =>
  back rfl (dec_vcvt h d a k ty sty part hw (fmtA_fields (by decide)
    (h_d := d.isLt.trans_le (by decide))
    (h_a := a.isLt.trans_le (by decide))
    (h_b := by omega)
    (h_c := by omega)
    (h_fn := by omega)
    (h_k := k.isLt.trans_le (by decide))
    (h_ty := tyCode_lt _)
    (h_md := by have := d.isLt; have := a.isLt; have := k.isLt; have := tyCode_lt ty; have := tyCode_lt sty; have := part.isLt; omega)))

theorem dec_vqmx (h : Hdr) (d : Fin 32) (a : Fin 32) (c : Fin 32) (ty : Ty) (sty : Ty) (part : Fin 16) (hw : (Instr.vqmx h d a c ty sty part).wf = true) {w : Nat}
    (F : FieldsA w 0x46 h d a 0 c 0 0 (tyCode ty) (tyCode sty + 32 * part)) : decodeNat false w = .instr (.vqmx h d a c ty sty part) := by
  rw [F.decode (hdr_ok hw rfl)]
  have wt : (tyMx.contains ty && tyQmxSrc.contains sty && part.val < tyRatio ty sty : Bool) = true := form_ok hw
  simp only [MacArg.ok, Bool.and_eq_true, Bool.or_eq_true, beq_iff_eq, bne_iff_ne, ne_eq, Bool.not_eq_true', decide_eq_true_eq] at wt
  have s_0_5 : field w 0 5 = tyCode sty := by
    have := d.isLt; have := a.isLt; have := c.isLt; have := tyCode_lt ty; have := tyCode_lt sty; have := part.isLt; rw [show field w 0 5 = _ from field_sub F.md_ 0 5 (by decide)]; omega
  have s_5_4 : field w 5 4 = part := by
    have := d.isLt; have := a.isLt; have := c.isLt; have := tyCode_lt ty; have := tyCode_lt sty; have := part.isLt; rw [show field w 5 4 = _ from field_sub F.md_ 5 4 (by decide)]; omega
  have s_9_3 : field w 9 3 = 0 := by
    have := d.isLt; have := a.isLt; have := c.isLt; have := tyCode_lt ty; have := tyCode_lt sty; have := part.isLt; rw [show field w 9 3 = _ from field_sub F.md_ 9 3 (by decide)]; omega
  show decVMx w h = _
  simp [decVMx, form, unused, regf, resv, F.fn_, F.d_, F.a_, F.b_, F.c_, F.k_, F.ty_, f5_of d F.d_, f5_of a F.a_, f5_of c F.c_, s_0_5, s_5_4, s_9_3, tyBad_code wt.1.1, tyBad_code wt.1.2, wt.2, tyGet_code]

theorem vqmx (h : Hdr) (d : Fin 32) (a : Fin 32) (c : Fin 32) (ty : Ty) (sty : Ty) (part : Fin 16) : Statement (.vqmx h d a c ty sty part) := fun hw =>
  back rfl (dec_vqmx h d a c ty sty part hw (fmtA_fields (by decide)
    (h_d := d.isLt.trans_le (by decide))
    (h_a := a.isLt.trans_le (by decide))
    (h_b := by omega)
    (h_c := c.isLt.trans_le (by decide))
    (h_fn := by omega)
    (h_k := by omega)
    (h_ty := tyCode_lt _)
    (h_md := by have := d.isLt; have := a.isLt; have := c.isLt; have := tyCode_lt ty; have := tyCode_lt sty; have := part.isLt; omega)))

theorem dec_vdqmx (h : Hdr) (d : Fin 32) (a : Fin 32) (c : Fin 32) (k : Fin 8) (ty : Ty) (sty : Ty) (part : Fin 16) (hw : (Instr.vdqmx h d a c k ty sty part).wf = true) {w : Nat}
    (F : FieldsA w 0x46 h d a 0 c 1 k (tyCode ty) (tyCode sty + 32 * part)) : decodeNat false w = .instr (.vdqmx h d a c k ty sty part) := by
  rw [F.decode (hdr_ok hw rfl)]
  have wt : (tyFloats.contains ty && tyMx.contains sty && part.val < tyRatio ty sty : Bool) = true := form_ok hw
  simp only [MacArg.ok, Bool.and_eq_true, Bool.or_eq_true, beq_iff_eq, bne_iff_ne, ne_eq, Bool.not_eq_true', decide_eq_true_eq] at wt
  have s_0_5 : field w 0 5 = tyCode sty := by
    have := d.isLt; have := a.isLt; have := c.isLt; have := k.isLt; have := tyCode_lt ty; have := tyCode_lt sty; have := part.isLt; rw [show field w 0 5 = _ from field_sub F.md_ 0 5 (by decide)]; omega
  have s_5_4 : field w 5 4 = part := by
    have := d.isLt; have := a.isLt; have := c.isLt; have := k.isLt; have := tyCode_lt ty; have := tyCode_lt sty; have := part.isLt; rw [show field w 5 4 = _ from field_sub F.md_ 5 4 (by decide)]; omega
  have s_9_3 : field w 9 3 = 0 := by
    have := d.isLt; have := a.isLt; have := c.isLt; have := k.isLt; have := tyCode_lt ty; have := tyCode_lt sty; have := part.isLt; rw [show field w 9 3 = _ from field_sub F.md_ 9 3 (by decide)]; omega
  show decVMx w h = _
  simp [decVMx, form, unused, regf, resv, F.fn_, F.d_, F.a_, F.b_, F.c_, F.k_, F.ty_, f5_of d F.d_, f5_of a F.a_, f5_of c F.c_, s_0_5, s_5_4, s_9_3, tyBad_code wt.1.1, tyBad_code wt.1.2, wt.2, tyGet_code]

theorem vdqmx (h : Hdr) (d : Fin 32) (a : Fin 32) (c : Fin 32) (k : Fin 8) (ty : Ty) (sty : Ty) (part : Fin 16) : Statement (.vdqmx h d a c k ty sty part) := fun hw =>
  back rfl (dec_vdqmx h d a c k ty sty part hw (fmtA_fields (by decide)
    (h_d := d.isLt.trans_le (by decide))
    (h_a := a.isLt.trans_le (by decide))
    (h_b := by omega)
    (h_c := c.isLt.trans_le (by decide))
    (h_fn := by omega)
    (h_k := k.isLt.trans_le (by decide))
    (h_ty := tyCode_lt _)
    (h_md := by have := d.isLt; have := a.isLt; have := c.isLt; have := k.isLt; have := tyCode_lt ty; have := tyCode_lt sty; have := part.isLt; omega)))

theorem dec_vexp2 (h : Hdr) (d : Fin 32) (a : Fin 32) (k : Fin 8) (hw : (Instr.vexp2 h d a k).wf = true) {w : Nat}
    (F : FieldsA w 0x47 h d a 0 0 0 k 16 0) : decodeNat false w = .instr (.vexp2 h d a k) := by
  rw [F.decode (hdr_ok hw rfl)]
  show decVTrans w h = _
  simp [decVTrans, form, unused, regf, resv, F.fn_, F.d_, F.a_, F.b_, F.c_, F.k_, F.ty_, F.md_, f5_of d F.d_, f5_of a F.a_]

theorem vexp2 (h : Hdr) (d : Fin 32) (a : Fin 32) (k : Fin 8) : Statement (.vexp2 h d a k) := fun hw =>
  back rfl (dec_vexp2 h d a k hw (fmtA_fields (by decide)
    (h_d := d.isLt.trans_le (by decide))
    (h_a := a.isLt.trans_le (by decide))
    (h_b := by omega)
    (h_c := by omega)
    (h_fn := by omega)
    (h_k := k.isLt.trans_le (by decide))
    (h_ty := by omega)
    (h_md := by omega)))

theorem dec_vlog2 (h : Hdr) (d : Fin 32) (a : Fin 32) (k : Fin 8) (hw : (Instr.vlog2 h d a k).wf = true) {w : Nat}
    (F : FieldsA w 0x47 h d a 0 0 1 k 16 0) : decodeNat false w = .instr (.vlog2 h d a k) := by
  rw [F.decode (hdr_ok hw rfl)]
  show decVTrans w h = _
  simp [decVTrans, form, unused, regf, resv, F.fn_, F.d_, F.a_, F.b_, F.c_, F.k_, F.ty_, F.md_, f5_of d F.d_, f5_of a F.a_]

theorem vlog2 (h : Hdr) (d : Fin 32) (a : Fin 32) (k : Fin 8) : Statement (.vlog2 h d a k) := fun hw =>
  back rfl (dec_vlog2 h d a k hw (fmtA_fields (by decide)
    (h_d := d.isLt.trans_le (by decide))
    (h_a := a.isLt.trans_le (by decide))
    (h_b := by omega)
    (h_c := by omega)
    (h_fn := by omega)
    (h_k := k.isLt.trans_le (by decide))
    (h_ty := by omega)
    (h_md := by omega)))

theorem dec_vrcp (h : Hdr) (d : Fin 32) (a : Fin 32) (k : Fin 8) (hw : (Instr.vrcp h d a k).wf = true) {w : Nat}
    (F : FieldsA w 0x47 h d a 0 0 2 k 16 0) : decodeNat false w = .instr (.vrcp h d a k) := by
  rw [F.decode (hdr_ok hw rfl)]
  show decVTrans w h = _
  simp [decVTrans, form, unused, regf, resv, F.fn_, F.d_, F.a_, F.b_, F.c_, F.k_, F.ty_, F.md_, f5_of d F.d_, f5_of a F.a_]

theorem vrcp (h : Hdr) (d : Fin 32) (a : Fin 32) (k : Fin 8) : Statement (.vrcp h d a k) := fun hw =>
  back rfl (dec_vrcp h d a k hw (fmtA_fields (by decide)
    (h_d := d.isLt.trans_le (by decide))
    (h_a := a.isLt.trans_le (by decide))
    (h_b := by omega)
    (h_c := by omega)
    (h_fn := by omega)
    (h_k := k.isLt.trans_le (by decide))
    (h_ty := by omega)
    (h_md := by omega)))

theorem dec_vrsqrt (h : Hdr) (d : Fin 32) (a : Fin 32) (k : Fin 8) (hw : (Instr.vrsqrt h d a k).wf = true) {w : Nat}
    (F : FieldsA w 0x47 h d a 0 0 3 k 16 0) : decodeNat false w = .instr (.vrsqrt h d a k) := by
  rw [F.decode (hdr_ok hw rfl)]
  show decVTrans w h = _
  simp [decVTrans, form, unused, regf, resv, F.fn_, F.d_, F.a_, F.b_, F.c_, F.k_, F.ty_, F.md_, f5_of d F.d_, f5_of a F.a_]

theorem vrsqrt (h : Hdr) (d : Fin 32) (a : Fin 32) (k : Fin 8) : Statement (.vrsqrt h d a k) := fun hw =>
  back rfl (dec_vrsqrt h d a k hw (fmtA_fields (by decide)
    (h_d := d.isLt.trans_le (by decide))
    (h_a := a.isLt.trans_le (by decide))
    (h_b := by omega)
    (h_c := by omega)
    (h_fn := by omega)
    (h_k := k.isLt.trans_le (by decide))
    (h_ty := by omega)
    (h_md := by omega)))

theorem dec_vsqrt (h : Hdr) (d : Fin 32) (a : Fin 32) (k : Fin 8) (hw : (Instr.vsqrt h d a k).wf = true) {w : Nat}
    (F : FieldsA w 0x47 h d a 0 0 4 k 16 0) : decodeNat false w = .instr (.vsqrt h d a k) := by
  rw [F.decode (hdr_ok hw rfl)]
  show decVTrans w h = _
  simp [decVTrans, form, unused, regf, resv, F.fn_, F.d_, F.a_, F.b_, F.c_, F.k_, F.ty_, F.md_, f5_of d F.d_, f5_of a F.a_]

theorem vsqrt (h : Hdr) (d : Fin 32) (a : Fin 32) (k : Fin 8) : Statement (.vsqrt h d a k) := fun hw =>
  back rfl (dec_vsqrt h d a k hw (fmtA_fields (by decide)
    (h_d := d.isLt.trans_le (by decide))
    (h_a := a.isLt.trans_le (by decide))
    (h_b := by omega)
    (h_c := by omega)
    (h_fn := by omega)
    (h_k := k.isLt.trans_le (by decide))
    (h_ty := by omega)
    (h_md := by omega)))

theorem dec_vperm (h : Hdr) (d : Fin 32) (a : Fin 32) (b : Fin 32) (k : Fin 8) (ty : Ty) (hw : (Instr.vperm h d a b k ty).wf = true) {w : Nat}
    (F : FieldsA w 0x48 h d a b 0 0 k (tyCode ty) 0) : decodeNat false w = .instr (.vperm h d a b k ty) := by
  rw [F.decode (hdr_ok hw rfl)]
  have wt : (tyLogic.contains ty : Bool) = true := form_ok hw
  show decVPerm w h = _
  simp [decVPerm, form, unused, regf, resv, F.fn_, F.d_, F.a_, F.b_, F.c_, F.k_, F.ty_, F.md_, f5_of d F.d_, f5_of a F.a_, f5_of b F.b_, tyBad_code wt, tyGet_code]

theorem vperm (h : Hdr) (d : Fin 32) (a : Fin 32) (b : Fin 32) (k : Fin 8) (ty : Ty) : Statement (.vperm h d a b k ty) := fun hw =>
  back rfl (dec_vperm h d a b k ty hw (fmtA_fields (by decide)
    (h_d := d.isLt.trans_le (by decide))
    (h_a := a.isLt.trans_le (by decide))
    (h_b := b.isLt.trans_le (by decide))
    (h_c := by omega)
    (h_fn := by omega)
    (h_k := k.isLt.trans_le (by decide))
    (h_ty := tyCode_lt _)
    (h_md := by omega)))

theorem dec_vperm2 (h : Hdr) (d : Fin 32) (a : Fin 32) (b : Fin 32) (c : Fin 32) (k : Fin 8) (ty : Ty) (hw : (Instr.vperm2 h d a b c k ty).wf = true) {w : Nat}
    (F : FieldsA w 0x48 h d a b c 1 k (tyCode ty) 0) : decodeNat false w = .instr (.vperm2 h d a b c k ty) := by
  rw [F.decode (hdr_ok hw rfl)]
  have wt : (tyLogic.contains ty : Bool) = true := form_ok hw
  show decVPerm w h = _
  simp [decVPerm, form, unused, regf, resv, F.fn_, F.d_, F.a_, F.b_, F.c_, F.k_, F.ty_, F.md_, f5_of d F.d_, f5_of a F.a_, f5_of b F.b_, f5_of c F.c_, tyBad_code wt, tyGet_code]

theorem vperm2 (h : Hdr) (d : Fin 32) (a : Fin 32) (b : Fin 32) (c : Fin 32) (k : Fin 8) (ty : Ty) : Statement (.vperm2 h d a b c k ty) := fun hw =>
  back rfl (dec_vperm2 h d a b c k ty hw (fmtA_fields (by decide)
    (h_d := d.isLt.trans_le (by decide))
    (h_a := a.isLt.trans_le (by decide))
    (h_b := b.isLt.trans_le (by decide))
    (h_c := c.isLt.trans_le (by decide))
    (h_fn := by omega)
    (h_k := k.isLt.trans_le (by decide))
    (h_ty := tyCode_lt _)
    (h_md := by omega)))

theorem dec_vbcast (h : Hdr) (d : Fin 32) (a : Fin 32) (k : Fin 8) (ty : Ty) (hw : (Instr.vbcast h d a k ty).wf = true) {w : Nat}
    (F : FieldsA w 0x48 h d a 0 0 2 k (tyCode ty) 0) : decodeNat false w = .instr (.vbcast h d a k ty) := by
  rw [F.decode (hdr_ok hw rfl)]
  have wt : (tyLogic.contains ty : Bool) = true := form_ok hw
  show decVPerm w h = _
  simp [decVPerm, form, unused, regf, resv, F.fn_, F.d_, F.a_, F.b_, F.c_, F.k_, F.ty_, F.md_, f5_of d F.d_, f5_of a F.a_, tyBad_code wt, tyGet_code]

theorem vbcast (h : Hdr) (d : Fin 32) (a : Fin 32) (k : Fin 8) (ty : Ty) : Statement (.vbcast h d a k ty) := fun hw =>
  back rfl (dec_vbcast h d a k ty hw (fmtA_fields (by decide)
    (h_d := d.isLt.trans_le (by decide))
    (h_a := a.isLt.trans_le (by decide))
    (h_b := by omega)
    (h_c := by omega)
    (h_fn := by omega)
    (h_k := k.isLt.trans_le (by decide))
    (h_ty := tyCode_lt _)
    (h_md := by omega)))

theorem dec_vbcastl (h : Hdr) (d : Fin 32) (a : Fin 32) (b : Fin 32) (k : Fin 8) (ty : Ty) (hw : (Instr.vbcastl h d a b k ty).wf = true) {w : Nat}
    (F : FieldsA w 0x48 h d a b 0 3 k (tyCode ty) 0) : decodeNat false w = .instr (.vbcastl h d a b k ty) := by
  rw [F.decode (hdr_ok hw rfl)]
  have wt : (tyLogic.contains ty : Bool) = true := form_ok hw
  show decVPerm w h = _
  simp [decVPerm, form, unused, regf, resv, F.fn_, F.d_, F.a_, F.b_, F.c_, F.k_, F.ty_, F.md_, f5_of d F.d_, f5_of a F.a_, f5_of b F.b_, tyBad_code wt, tyGet_code]

theorem vbcastl (h : Hdr) (d : Fin 32) (a : Fin 32) (b : Fin 32) (k : Fin 8) (ty : Ty) : Statement (.vbcastl h d a b k ty) := fun hw =>
  back rfl (dec_vbcastl h d a b k ty hw (fmtA_fields (by decide)
    (h_d := d.isLt.trans_le (by decide))
    (h_a := a.isLt.trans_le (by decide))
    (h_b := b.isLt.trans_le (by decide))
    (h_c := by omega)
    (h_fn := by omega)
    (h_k := k.isLt.trans_le (by decide))
    (h_ty := tyCode_lt _)
    (h_md := by omega)))

theorem dec_vrot (h : Hdr) (d : Fin 32) (a : Fin 32) (b : Fin 32) (k : Fin 8) (ty : Ty) (hw : (Instr.vrot h d a b k ty).wf = true) {w : Nat}
    (F : FieldsA w 0x48 h d a b 0 4 k (tyCode ty) 0) : decodeNat false w = .instr (.vrot h d a b k ty) := by
  rw [F.decode (hdr_ok hw rfl)]
  have wt : (tyLogic.contains ty : Bool) = true := form_ok hw
  show decVPerm w h = _
  simp [decVPerm, form, unused, regf, resv, F.fn_, F.d_, F.a_, F.b_, F.c_, F.k_, F.ty_, F.md_, f5_of d F.d_, f5_of a F.a_, f5_of b F.b_, tyBad_code wt, tyGet_code]

theorem vrot (h : Hdr) (d : Fin 32) (a : Fin 32) (b : Fin 32) (k : Fin 8) (ty : Ty) : Statement (.vrot h d a b k ty) := fun hw =>
  back rfl (dec_vrot h d a b k ty hw (fmtA_fields (by decide)
    (h_d := d.isLt.trans_le (by decide))
    (h_a := a.isLt.trans_le (by decide))
    (h_b := b.isLt.trans_le (by decide))
    (h_c := by omega)
    (h_fn := by omega)
    (h_k := k.isLt.trans_le (by decide))
    (h_ty := tyCode_lt _)
    (h_md := by omega)))

theorem dec_vcompress (h : Hdr) (d : Fin 32) (a : Fin 32) (k : Fin 8) (ty : Ty) (hw : (Instr.vcompress h d a k ty).wf = true) {w : Nat}
    (F : FieldsA w 0x48 h d a 0 0 5 k (tyCode ty) 0) : decodeNat false w = .instr (.vcompress h d a k ty) := by
  rw [F.decode (hdr_ok hw rfl)]
  have wt : (tyLogic.contains ty : Bool) = true := form_ok hw
  show decVPerm w h = _
  simp [decVPerm, form, unused, regf, resv, F.fn_, F.d_, F.a_, F.b_, F.c_, F.k_, F.ty_, F.md_, f5_of d F.d_, f5_of a F.a_, tyBad_code wt, tyGet_code]

theorem vcompress (h : Hdr) (d : Fin 32) (a : Fin 32) (k : Fin 8) (ty : Ty) : Statement (.vcompress h d a k ty) := fun hw =>
  back rfl (dec_vcompress h d a k ty hw (fmtA_fields (by decide)
    (h_d := d.isLt.trans_le (by decide))
    (h_a := a.isLt.trans_le (by decide))
    (h_b := by omega)
    (h_c := by omega)
    (h_fn := by omega)
    (h_k := k.isLt.trans_le (by decide))
    (h_ty := tyCode_lt _)
    (h_md := by omega)))

theorem dec_vexpand (h : Hdr) (d : Fin 32) (a : Fin 32) (k : Fin 8) (ty : Ty) (hw : (Instr.vexpand h d a k ty).wf = true) {w : Nat}
    (F : FieldsA w 0x48 h d a 0 0 6 k (tyCode ty) 0) : decodeNat false w = .instr (.vexpand h d a k ty) := by
  rw [F.decode (hdr_ok hw rfl)]
  have wt : (tyLogic.contains ty : Bool) = true := form_ok hw
  show decVPerm w h = _
  simp [decVPerm, form, unused, regf, resv, F.fn_, F.d_, F.a_, F.b_, F.c_, F.k_, F.ty_, F.md_, f5_of d F.d_, f5_of a F.a_, tyBad_code wt, tyGet_code]

theorem vexpand (h : Hdr) (d : Fin 32) (a : Fin 32) (k : Fin 8) (ty : Ty) : Statement (.vexpand h d a k ty) := fun hw =>
  back rfl (dec_vexpand h d a k ty hw (fmtA_fields (by decide)
    (h_d := d.isLt.trans_le (by decide))
    (h_a := a.isLt.trans_le (by decide))
    (h_b := by omega)
    (h_c := by omega)
    (h_fn := by omega)
    (h_k := k.isLt.trans_le (by decide))
    (h_ty := tyCode_lt _)
    (h_md := by omega)))

theorem dec_vext (h : Hdr) (d : Fin 32) (a : Fin 32) (idx : Fin 64) (ty : Ty) (hw : (Instr.vext h d a idx ty).wf = true) {w : Nat}
    (F : FieldsA w 0x48 h d a 0 0 7 0 (tyCode ty) idx) : decodeNat false w = .instr (.vext h d a idx ty) := by
  rw [F.decode (hdr_ok hw rfl)]
  have wt : (tyExt.contains ty && idx.val < 2048 / tyWidth ty : Bool) = true := form_ok hw
  simp only [MacArg.ok, Bool.and_eq_true, Bool.or_eq_true, beq_iff_eq, bne_iff_ne, ne_eq, Bool.not_eq_true', decide_eq_true_eq] at wt
  have s_0_6 : field w 0 6 = idx := by
    have := d.isLt; have := a.isLt; have := idx.isLt; have := tyCode_lt ty; rw [show field w 0 6 = _ from field_sub F.md_ 0 6 (by decide)]; omega
  have s_6_6 : field w 6 6 = 0 := by
    have := d.isLt; have := a.isLt; have := idx.isLt; have := tyCode_lt ty; rw [show field w 6 6 = _ from field_sub F.md_ 6 6 (by decide)]; omega
  show decVPerm w h = _
  simp [decVPerm, form, unused, regf, resv, F.fn_, F.d_, F.a_, F.b_, F.c_, F.k_, F.ty_, f5_of d F.d_, f5_of a F.a_, s_0_6, s_6_6, tyBad_code wt.1, wt.2, tyGet_code]

theorem vext (h : Hdr) (d : Fin 32) (a : Fin 32) (idx : Fin 64) (ty : Ty) : Statement (.vext h d a idx ty) := fun hw =>
  back rfl (dec_vext h d a idx ty hw (fmtA_fields (by decide)
    (h_d := d.isLt.trans_le (by decide))
    (h_a := a.isLt.trans_le (by decide))
    (h_b := by omega)
    (h_c := by omega)
    (h_fn := by omega)
    (h_k := by omega)
    (h_ty := tyCode_lt _)
    (h_md := idx.isLt.trans_le (by decide))))

theorem dec_vins (h : Hdr) (d : Fin 32) (a : Fin 32) (idx : Fin 64) (ty : Ty) (hw : (Instr.vins h d a idx ty).wf = true) {w : Nat}
    (F : FieldsA w 0x48 h d a 0 0 8 0 (tyCode ty) idx) : decodeNat false w = .instr (.vins h d a idx ty) := by
  rw [F.decode (hdr_ok hw rfl)]
  have wt : (tyLogic.contains ty && idx.val < 2048 / tyWidth ty : Bool) = true := form_ok hw
  simp only [MacArg.ok, Bool.and_eq_true, Bool.or_eq_true, beq_iff_eq, bne_iff_ne, ne_eq, Bool.not_eq_true', decide_eq_true_eq] at wt
  have s_0_6 : field w 0 6 = idx := by
    have := d.isLt; have := a.isLt; have := idx.isLt; have := tyCode_lt ty; rw [show field w 0 6 = _ from field_sub F.md_ 0 6 (by decide)]; omega
  have s_6_6 : field w 6 6 = 0 := by
    have := d.isLt; have := a.isLt; have := idx.isLt; have := tyCode_lt ty; rw [show field w 6 6 = _ from field_sub F.md_ 6 6 (by decide)]; omega
  show decVPerm w h = _
  simp [decVPerm, form, unused, regf, resv, F.fn_, F.d_, F.a_, F.b_, F.c_, F.k_, F.ty_, f5_of d F.d_, f5_of a F.a_, s_0_6, s_6_6, tyBad_code wt.1, wt.2, tyGet_code]

theorem vins (h : Hdr) (d : Fin 32) (a : Fin 32) (idx : Fin 64) (ty : Ty) : Statement (.vins h d a idx ty) := fun hw =>
  back rfl (dec_vins h d a idx ty hw (fmtA_fields (by decide)
    (h_d := d.isLt.trans_le (by decide))
    (h_a := a.isLt.trans_le (by decide))
    (h_b := by omega)
    (h_c := by omega)
    (h_fn := by omega)
    (h_k := by omega)
    (h_ty := tyCode_lt _)
    (h_md := idx.isLt.trans_le (by decide))))

theorem dec_vredsum (h : Hdr) (d : Fin 32) (a : Fin 32) (k : Fin 8) (ty : Ty) (hw : (Instr.vredsum h d a k ty).wf = true) {w : Nat}
    (F : FieldsA w 0x49 h d a 0 0 0 k (tyCode ty) 0) : decodeNat false w = .instr (.vredsum h d a k ty) := by
  rw [F.decode (hdr_ok hw rfl)]
  have wt : (tyCmp.contains ty : Bool) = true := form_ok hw
  show decVRed w h = _
  simp [decVRed, form, unused, regf, resv, F.fn_, F.d_, F.a_, F.b_, F.c_, F.k_, F.ty_, F.md_, f5_of d F.d_, f5_of a F.a_, tyBad_code wt, tyGet_code]

theorem vredsum (h : Hdr) (d : Fin 32) (a : Fin 32) (k : Fin 8) (ty : Ty) : Statement (.vredsum h d a k ty) := fun hw =>
  back rfl (dec_vredsum h d a k ty hw (fmtA_fields (by decide)
    (h_d := d.isLt.trans_le (by decide))
    (h_a := a.isLt.trans_le (by decide))
    (h_b := by omega)
    (h_c := by omega)
    (h_fn := by omega)
    (h_k := k.isLt.trans_le (by decide))
    (h_ty := tyCode_lt _)
    (h_md := by omega)))

theorem dec_vredmin (h : Hdr) (d : Fin 32) (a : Fin 32) (k : Fin 8) (ty : Ty) (hw : (Instr.vredmin h d a k ty).wf = true) {w : Nat}
    (F : FieldsA w 0x49 h d a 0 0 1 k (tyCode ty) 0) : decodeNat false w = .instr (.vredmin h d a k ty) := by
  rw [F.decode (hdr_ok hw rfl)]
  have wt : (tyCmp.contains ty : Bool) = true := form_ok hw
  show decVRed w h = _
  simp [decVRed, form, unused, regf, resv, F.fn_, F.d_, F.a_, F.b_, F.c_, F.k_, F.ty_, F.md_, f5_of d F.d_, f5_of a F.a_, tyBad_code wt, tyGet_code]

theorem vredmin (h : Hdr) (d : Fin 32) (a : Fin 32) (k : Fin 8) (ty : Ty) : Statement (.vredmin h d a k ty) := fun hw =>
  back rfl (dec_vredmin h d a k ty hw (fmtA_fields (by decide)
    (h_d := d.isLt.trans_le (by decide))
    (h_a := a.isLt.trans_le (by decide))
    (h_b := by omega)
    (h_c := by omega)
    (h_fn := by omega)
    (h_k := k.isLt.trans_le (by decide))
    (h_ty := tyCode_lt _)
    (h_md := by omega)))

theorem dec_vredmax (h : Hdr) (d : Fin 32) (a : Fin 32) (k : Fin 8) (ty : Ty) (hw : (Instr.vredmax h d a k ty).wf = true) {w : Nat}
    (F : FieldsA w 0x49 h d a 0 0 2 k (tyCode ty) 0) : decodeNat false w = .instr (.vredmax h d a k ty) := by
  rw [F.decode (hdr_ok hw rfl)]
  have wt : (tyCmp.contains ty : Bool) = true := form_ok hw
  show decVRed w h = _
  simp [decVRed, form, unused, regf, resv, F.fn_, F.d_, F.a_, F.b_, F.c_, F.k_, F.ty_, F.md_, f5_of d F.d_, f5_of a F.a_, tyBad_code wt, tyGet_code]

theorem vredmax (h : Hdr) (d : Fin 32) (a : Fin 32) (k : Fin 8) (ty : Ty) : Statement (.vredmax h d a k ty) := fun hw =>
  back rfl (dec_vredmax h d a k ty hw (fmtA_fields (by decide)
    (h_d := d.isLt.trans_le (by decide))
    (h_a := a.isLt.trans_le (by decide))
    (h_b := by omega)
    (h_c := by omega)
    (h_fn := by omega)
    (h_k := k.isLt.trans_le (by decide))
    (h_ty := tyCode_lt _)
    (h_md := by omega)))

theorem dec_vredand (h : Hdr) (d : Fin 32) (a : Fin 32) (k : Fin 8) (ty : Ty) (hw : (Instr.vredand h d a k ty).wf = true) {w : Nat}
    (F : FieldsA w 0x49 h d a 0 0 3 k (tyCode ty) 0) : decodeNat false w = .instr (.vredand h d a k ty) := by
  rw [F.decode (hdr_ok hw rfl)]
  have wt : (tyLogic.contains ty : Bool) = true := form_ok hw
  show decVRed w h = _
  simp [decVRed, form, unused, regf, resv, F.fn_, F.d_, F.a_, F.b_, F.c_, F.k_, F.ty_, F.md_, f5_of d F.d_, f5_of a F.a_, tyBad_code wt, tyGet_code]

theorem vredand (h : Hdr) (d : Fin 32) (a : Fin 32) (k : Fin 8) (ty : Ty) : Statement (.vredand h d a k ty) := fun hw =>
  back rfl (dec_vredand h d a k ty hw (fmtA_fields (by decide)
    (h_d := d.isLt.trans_le (by decide))
    (h_a := a.isLt.trans_le (by decide))
    (h_b := by omega)
    (h_c := by omega)
    (h_fn := by omega)
    (h_k := k.isLt.trans_le (by decide))
    (h_ty := tyCode_lt _)
    (h_md := by omega)))

theorem dec_vredor (h : Hdr) (d : Fin 32) (a : Fin 32) (k : Fin 8) (ty : Ty) (hw : (Instr.vredor h d a k ty).wf = true) {w : Nat}
    (F : FieldsA w 0x49 h d a 0 0 4 k (tyCode ty) 0) : decodeNat false w = .instr (.vredor h d a k ty) := by
  rw [F.decode (hdr_ok hw rfl)]
  have wt : (tyLogic.contains ty : Bool) = true := form_ok hw
  show decVRed w h = _
  simp [decVRed, form, unused, regf, resv, F.fn_, F.d_, F.a_, F.b_, F.c_, F.k_, F.ty_, F.md_, f5_of d F.d_, f5_of a F.a_, tyBad_code wt, tyGet_code]

theorem vredor (h : Hdr) (d : Fin 32) (a : Fin 32) (k : Fin 8) (ty : Ty) : Statement (.vredor h d a k ty) := fun hw =>
  back rfl (dec_vredor h d a k ty hw (fmtA_fields (by decide)
    (h_d := d.isLt.trans_le (by decide))
    (h_a := a.isLt.trans_le (by decide))
    (h_b := by omega)
    (h_c := by omega)
    (h_fn := by omega)
    (h_k := k.isLt.trans_le (by decide))
    (h_ty := tyCode_lt _)
    (h_md := by omega)))

theorem dec_vredxor (h : Hdr) (d : Fin 32) (a : Fin 32) (k : Fin 8) (ty : Ty) (hw : (Instr.vredxor h d a k ty).wf = true) {w : Nat}
    (F : FieldsA w 0x49 h d a 0 0 5 k (tyCode ty) 0) : decodeNat false w = .instr (.vredxor h d a k ty) := by
  rw [F.decode (hdr_ok hw rfl)]
  have wt : (tyLogic.contains ty : Bool) = true := form_ok hw
  show decVRed w h = _
  simp [decVRed, form, unused, regf, resv, F.fn_, F.d_, F.a_, F.b_, F.c_, F.k_, F.ty_, F.md_, f5_of d F.d_, f5_of a F.a_, tyBad_code wt, tyGet_code]

theorem vredxor (h : Hdr) (d : Fin 32) (a : Fin 32) (k : Fin 8) (ty : Ty) : Statement (.vredxor h d a k ty) := fun hw =>
  back rfl (dec_vredxor h d a k ty hw (fmtA_fields (by decide)
    (h_d := d.isLt.trans_le (by decide))
    (h_a := a.isLt.trans_le (by decide))
    (h_b := by omega)
    (h_c := by omega)
    (h_fn := by omega)
    (h_k := k.isLt.trans_le (by decide))
    (h_ty := tyCode_lt _)
    (h_md := by omega)))

theorem dec_vscan (h : Hdr) (op : ScanOp) (d : Fin 32) (a : Fin 32) (k : Fin 8) (ty : Ty) (sat : Bool) (hw : (Instr.vscan h op d a k ty sat).wf = true) {w : Nat}
    (F : FieldsA w 0x4A h d a 0 0 (scanCode op) k (tyCode ty) (2 * sat.toNat)) : decodeNat false w = .instr (.vscan h op d a k ty sat) := by
  rw [F.decode (hdr_ok hw rfl)]
  have wt : (tyScan.contains ty && (!sat || (op == .add && ty != .f32)) : Bool) = true := form_ok hw
  simp only [MacArg.ok, Bool.and_eq_true, Bool.or_eq_true, beq_iff_eq, bne_iff_ne, ne_eq, Bool.not_eq_true', decide_eq_true_eq] at wt
  have ne : (sat && (scanCode op != 0 || tyCode ty == 16)) = false := by
    rcases wt.2 with e | e
    · rw [e]; rfl
    · rw [e.1]; simp only [scanCode, bne_self_eq_false, Bool.false_or, Bool.and_eq_false_imp, beq_eq_false_iff_ne, ne_eq]
      exact fun _ x => e.2 (f32_of x)
  have s_0_1 : field w 0 1 = 0 := by
    have := scanCode_le op; have := d.isLt; have := a.isLt; have := k.isLt; have := tyCode_lt ty; have := toNat_lt2 sat; rw [show field w 0 1 = _ from field_sub F.md_ 0 1 (by decide)]; omega
  have s_1_1 : field w 1 1 = sat.toNat := by
    have := scanCode_le op; have := d.isLt; have := a.isLt; have := k.isLt; have := tyCode_lt ty; have := toNat_lt2 sat; rw [show field w 1 1 = _ from field_sub F.md_ 1 1 (by decide)]; omega
  have s_2_10 : field w 2 10 = 0 := by
    have := scanCode_le op; have := d.isLt; have := a.isLt; have := k.isLt; have := tyCode_lt ty; have := toNat_lt2 sat; rw [show field w 2 10 = _ from field_sub F.md_ 2 10 (by decide)]; omega
  show decVScan w h = _
  simp [decVScan, form, unused, regf, resv, scanOf_code, Nat.not_lt.2 (scanCode_le _), F.fn_, F.d_, F.a_, F.b_, F.c_, F.k_, F.ty_, f5_of d F.d_, f5_of a F.a_, s_0_1, s_1_1, s_2_10, tyBad_code wt.1, ne, tyGet_code]

theorem vscan (h : Hdr) (op : ScanOp) (d : Fin 32) (a : Fin 32) (k : Fin 8) (ty : Ty) (sat : Bool) : Statement (.vscan h op d a k ty sat) := fun hw =>
  back rfl (dec_vscan h op d a k ty sat hw (fmtA_fields (by decide)
    (h_d := d.isLt.trans_le (by decide))
    (h_a := a.isLt.trans_le (by decide))
    (h_b := by omega)
    (h_c := by omega)
    (h_fn := by have := scanCode_le op; have := d.isLt; have := a.isLt; have := k.isLt; have := tyCode_lt ty; have := toNat_lt2 sat; omega)
    (h_k := k.isLt.trans_le (by decide))
    (h_ty := tyCode_lt _)
    (h_md := by have := scanCode_le op; have := d.isLt; have := a.isLt; have := k.isLt; have := tyCode_lt ty; have := toNat_lt2 sat; omega)))

theorem dec_vargmax (h : Hdr) (d : Fin 32) (a : Fin 32) (k : Fin 8) (ty : Ty) (hw : (Instr.vargmax h d a k ty).wf = true) {w : Nat}
    (F : FieldsA w 0x4B h d a 0 0 0 k (tyCode ty) 0) : decodeNat false w = .instr (.vargmax h d a k ty) := by
  rw [F.decode (hdr_ok hw rfl)]
  have wt : (tyScan.contains ty : Bool) = true := form_ok hw
  show decVArg w h = _
  simp [decVArg, form, unused, regf, resv, F.fn_, F.d_, F.a_, F.b_, F.c_, F.k_, F.ty_, F.md_, f5_of d F.d_, f5_of a F.a_, tyBad_code wt, tyGet_code]

theorem vargmax (h : Hdr) (d : Fin 32) (a : Fin 32) (k : Fin 8) (ty : Ty) : Statement (.vargmax h d a k ty) := fun hw =>
  back rfl (dec_vargmax h d a k ty hw (fmtA_fields (by decide)
    (h_d := d.isLt.trans_le (by decide))
    (h_a := a.isLt.trans_le (by decide))
    (h_b := by omega)
    (h_c := by omega)
    (h_fn := by omega)
    (h_k := k.isLt.trans_le (by decide))
    (h_ty := tyCode_lt _)
    (h_md := by omega)))

theorem dec_vargmin (h : Hdr) (d : Fin 32) (a : Fin 32) (k : Fin 8) (ty : Ty) (hw : (Instr.vargmin h d a k ty).wf = true) {w : Nat}
    (F : FieldsA w 0x4B h d a 0 0 1 k (tyCode ty) 0) : decodeNat false w = .instr (.vargmin h d a k ty) := by
  rw [F.decode (hdr_ok hw rfl)]
  have wt : (tyScan.contains ty : Bool) = true := form_ok hw
  show decVArg w h = _
  simp [decVArg, form, unused, regf, resv, F.fn_, F.d_, F.a_, F.b_, F.c_, F.k_, F.ty_, F.md_, f5_of d F.d_, f5_of a F.a_, tyBad_code wt, tyGet_code]

theorem vargmin (h : Hdr) (d : Fin 32) (a : Fin 32) (k : Fin 8) (ty : Ty) : Statement (.vargmin h d a k ty) := fun hw =>
  back rfl (dec_vargmin h d a k ty hw (fmtA_fields (by decide)
    (h_d := d.isLt.trans_le (by decide))
    (h_a := a.isLt.trans_le (by decide))
    (h_b := by omega)
    (h_c := by omega)
    (h_fn := by omega)
    (h_k := k.isLt.trans_le (by decide))
    (h_ty := tyCode_lt _)
    (h_md := by omega)))

theorem dec_vrng (h : Hdr) (d : Fin 32) (a : VOp) (b : Fin 32) (k : Fin 8) (ty : Ty) (hw : (Instr.vrng h d a b k ty).wf = true) {w : Nat}
    (F : FieldsA w 0x4C h d (vopReg a) b 0 0 k (tyCode ty) (1 - vopSb a)) : decodeNat false w = .instr (.vrng h d a b k ty) := by
  rw [F.decode (hdr_ok hw rfl)]
  have wt : (tyRng.contains ty : Bool) = true := form_ok hw
  have sb : 1 - (1 - vopSb a) = vopSb a := by have := vopSb_lt a; omega
  have s_0_1 : field w 0 1 = 1 - vopSb a := by
    have := d.isLt; have := vopReg_lt a; have := vopSb_lt a; have := b.isLt; have := k.isLt; have := tyCode_lt ty; rw [show field w 0 1 = _ from field_sub F.md_ 0 1 (by decide)]; omega
  have s_1_11 : field w 1 11 = 0 := by
    have := d.isLt; have := vopReg_lt a; have := vopSb_lt a; have := b.isLt; have := k.isLt; have := tyCode_lt ty; rw [show field w 1 11 = _ from field_sub F.md_ 1 11 (by decide)]; omega
  show decVRng w h = _
  simp [decVRng, form, unused, regf, resv, F.fn_, F.d_, F.a_, F.b_, F.c_, F.k_, F.ty_, f5_of d F.d_, vopOf_of a F.a_, Nat.not_le.2 (vopReg_lt a), f5_of b F.b_, s_0_1, s_1_11, tyBad_code wt, sb, tyGet_code]

theorem vrng (h : Hdr) (d : Fin 32) (a : VOp) (b : Fin 32) (k : Fin 8) (ty : Ty) : Statement (.vrng h d a b k ty) := fun hw =>
  back rfl (dec_vrng h d a b k ty hw (fmtA_fields (by decide)
    (h_d := d.isLt.trans_le (by decide))
    (h_a := (vopReg_lt a).trans_le (by decide))
    (h_b := b.isLt.trans_le (by decide))
    (h_c := by omega)
    (h_fn := by omega)
    (h_k := k.isLt.trans_le (by decide))
    (h_ty := tyCode_lt _)
    (h_md := by have := d.isLt; have := vopReg_lt a; have := vopSb_lt a; have := b.isLt; have := k.isLt; have := tyCode_lt ty; omega)))

theorem dec_vptest (h : Hdr) (d : Fin 8) (a : Fin 32) (k : Fin 8) (hw : (Instr.vptest h d a k).wf = true) {w : Nat}
    (F : FieldsA w 0x4D h d a 0 0 0 k 0 0) : decodeNat false w = .instr (.vptest h d a k) := by
  rw [F.decode (hdr_ok hw rfl)]
  show decVPtest w h = _
  simp [decVPtest, form, unused, regf, resv, F.fn_, F.d_, F.a_, F.b_, F.c_, F.k_, F.ty_, F.md_, f3_of d F.d_, f5_of a F.a_]

theorem vptest (h : Hdr) (d : Fin 8) (a : Fin 32) (k : Fin 8) : Statement (.vptest h d a k) := fun hw =>
  back rfl (dec_vptest h d a k hw (fmtA_fields (by decide)
    (h_d := d.isLt.trans_le (by decide))
    (h_a := a.isLt.trans_le (by decide))
    (h_b := by omega)
    (h_c := by omega)
    (h_fn := by omega)
    (h_k := k.isLt.trans_le (by decide))
    (h_ty := by omega)
    (h_md := by omega)))

theorem dec_vldi (h : Hdr) (d : Fin 32) (imm : BitVec 32) (hw : (Instr.vldi h d imm).wf = true) {w : Nat}
    (F : FieldsI w 0x4E h d 0 imm.toNat 0) : decodeNat false w = .instr (.vldi h d imm) := by
  rw [F.decode (hdr_ok hw rfl)]
  show decVImm w h = _
  simp [decVImm, form, unused, regf, resv, F.fn_, F.d_, F.a_, F.imm_, f5_of d F.d_]

theorem vldi (h : Hdr) (d : Fin 32) (imm : BitVec 32) : Statement (.vldi h d imm) := fun hw =>
  back rfl (dec_vldi h d imm hw (fmtI_fields (by decide)
    (h_d := d.isLt.trans_le (by decide))
    (h_a := by omega)
    (h_imm := imm.isLt)
    (h_fn := by omega)))

theorem dec_vldiI64 (h : Hdr) (d : Fin 32) (imm : BitVec 32) (hw : (Instr.vldiI64 h d imm).wf = true) {w : Nat}
    (F : FieldsI w 0x4E h d 0 imm.toNat 1) : decodeNat false w = .instr (.vldiI64 h d imm) := by
  rw [F.decode (hdr_ok hw rfl)]
  show decVImm w h = _
  simp [decVImm, form, unused, regf, resv, F.fn_, F.d_, F.a_, F.imm_, f5_of d F.d_]

theorem vldiI64 (h : Hdr) (d : Fin 32) (imm : BitVec 32) : Statement (.vldiI64 h d imm) := fun hw =>
  back rfl (dec_vldiI64 h d imm hw (fmtI_fields (by decide)
    (h_d := d.isLt.trans_le (by decide))
    (h_a := by omega)
    (h_imm := imm.isLt)
    (h_fn := by omega)))

theorem dec_viota (h : Hdr) (d : Fin 32) (imm : BitVec 32) (hw : (Instr.viota h d imm).wf = true) {w : Nat}
    (F : FieldsI w 0x4E h d 0 imm.toNat 2) : decodeNat false w = .instr (.viota h d imm) := by
  rw [F.decode (hdr_ok hw rfl)]
  show decVImm w h = _
  simp [decVImm, form, unused, regf, resv, F.fn_, F.d_, F.a_, F.imm_, f5_of d F.d_]

theorem viota (h : Hdr) (d : Fin 32) (imm : BitVec 32) : Statement (.viota h d imm) := fun hw =>
  back rfl (dec_viota h d imm hw (fmtI_fields (by decide)
    (h_d := d.isLt.trans_le (by decide))
    (h_a := by omega)
    (h_imm := imm.isLt)
    (h_fn := by omega)))

theorem dec_kand (h : Hdr) (d : Fin 8) (a : Fin 8) (b : Fin 8) (hw : (Instr.kand h d a b).wf = true) {w : Nat}
    (F : FieldsA w 0x4F h d a b 0 0 0 0 0) : decodeNat false w = .instr (.kand h d a b) := by
  rw [F.decode (hdr_ok hw rfl)]
  show decMask w h = _
  simp [decMask, form, unused, regf, resv, F.fn_, F.d_, F.a_, F.b_, F.c_, F.k_, F.ty_, F.md_, f3_of d F.d_, f3_of a F.a_, f3_of b F.b_]

theorem kand (h : Hdr) (d : Fin 8) (a : Fin 8) (b : Fin 8) : Statement (.kand h d a b) := fun hw =>
  back rfl (dec_kand h d a b hw (fmtA_fields (by decide)
    (h_d := d.isLt.trans_le (by decide))
    (h_a := a.isLt.trans_le (by decide))
    (h_b := b.isLt.trans_le (by decide))
    (h_c := by omega)
    (h_fn := by omega)
    (h_k := by omega)
    (h_ty := by omega)
    (h_md := by omega)))

theorem dec_kor (h : Hdr) (d : Fin 8) (a : Fin 8) (b : Fin 8) (hw : (Instr.kor h d a b).wf = true) {w : Nat}
    (F : FieldsA w 0x4F h d a b 0 1 0 0 0) : decodeNat false w = .instr (.kor h d a b) := by
  rw [F.decode (hdr_ok hw rfl)]
  show decMask w h = _
  simp [decMask, form, unused, regf, resv, F.fn_, F.d_, F.a_, F.b_, F.c_, F.k_, F.ty_, F.md_, f3_of d F.d_, f3_of a F.a_, f3_of b F.b_]

theorem kor (h : Hdr) (d : Fin 8) (a : Fin 8) (b : Fin 8) : Statement (.kor h d a b) := fun hw =>
  back rfl (dec_kor h d a b hw (fmtA_fields (by decide)
    (h_d := d.isLt.trans_le (by decide))
    (h_a := a.isLt.trans_le (by decide))
    (h_b := b.isLt.trans_le (by decide))
    (h_c := by omega)
    (h_fn := by omega)
    (h_k := by omega)
    (h_ty := by omega)
    (h_md := by omega)))

theorem dec_kxor (h : Hdr) (d : Fin 8) (a : Fin 8) (b : Fin 8) (hw : (Instr.kxor h d a b).wf = true) {w : Nat}
    (F : FieldsA w 0x4F h d a b 0 2 0 0 0) : decodeNat false w = .instr (.kxor h d a b) := by
  rw [F.decode (hdr_ok hw rfl)]
  show decMask w h = _
  simp [decMask, form, unused, regf, resv, F.fn_, F.d_, F.a_, F.b_, F.c_, F.k_, F.ty_, F.md_, f3_of d F.d_, f3_of a F.a_, f3_of b F.b_]

theorem kxor (h : Hdr) (d : Fin 8) (a : Fin 8) (b : Fin 8) : Statement (.kxor h d a b) := fun hw =>
  back rfl (dec_kxor h d a b hw (fmtA_fields (by decide)
    (h_d := d.isLt.trans_le (by decide))
    (h_a := a.isLt.trans_le (by decide))
    (h_b := b.isLt.trans_le (by decide))
    (h_c := by omega)
    (h_fn := by omega)
    (h_k := by omega)
    (h_ty := by omega)
    (h_md := by omega)))

theorem dec_kandn (h : Hdr) (d : Fin 8) (a : Fin 8) (b : Fin 8) (hw : (Instr.kandn h d a b).wf = true) {w : Nat}
    (F : FieldsA w 0x4F h d a b 0 3 0 0 0) : decodeNat false w = .instr (.kandn h d a b) := by
  rw [F.decode (hdr_ok hw rfl)]
  show decMask w h = _
  simp [decMask, form, unused, regf, resv, F.fn_, F.d_, F.a_, F.b_, F.c_, F.k_, F.ty_, F.md_, f3_of d F.d_, f3_of a F.a_, f3_of b F.b_]

theorem kandn (h : Hdr) (d : Fin 8) (a : Fin 8) (b : Fin 8) : Statement (.kandn h d a b) := fun hw =>
  back rfl (dec_kandn h d a b hw (fmtA_fields (by decide)
    (h_d := d.isLt.trans_le (by decide))
    (h_a := a.isLt.trans_le (by decide))
    (h_b := b.isLt.trans_le (by decide))
    (h_c := by omega)
    (h_fn := by omega)
    (h_k := by omega)
    (h_ty := by omega)
    (h_md := by omega)))

theorem dec_knot (h : Hdr) (d : Fin 8) (a : Fin 8) (hw : (Instr.knot h d a).wf = true) {w : Nat}
    (F : FieldsA w 0x4F h d a 0 0 4 0 0 0) : decodeNat false w = .instr (.knot h d a) := by
  rw [F.decode (hdr_ok hw rfl)]
  show decMask w h = _
  simp [decMask, form, unused, regf, resv, F.fn_, F.d_, F.a_, F.b_, F.c_, F.k_, F.ty_, F.md_, f3_of d F.d_, f3_of a F.a_]

theorem knot (h : Hdr) (d : Fin 8) (a : Fin 8) : Statement (.knot h d a) := fun hw =>
  back rfl (dec_knot h d a hw (fmtA_fields (by decide)
    (h_d := d.isLt.trans_le (by decide))
    (h_a := a.isLt.trans_le (by decide))
    (h_b := by omega)
    (h_c := by omega)
    (h_fn := by omega)
    (h_k := by omega)
    (h_ty := by omega)
    (h_md := by omega)))

theorem dec_kpopc (h : Hdr) (d : Fin 32) (a : Fin 8) (hw : (Instr.kpopc h d a).wf = true) {w : Nat}
    (F : FieldsA w 0x4F h d a 0 0 5 0 0 0) : decodeNat false w = .instr (.kpopc h d a) := by
  rw [F.decode (hdr_ok hw rfl)]
  show decMask w h = _
  simp [decMask, form, unused, regf, resv, F.fn_, F.d_, F.a_, F.b_, F.c_, F.k_, F.ty_, F.md_, f5_of d F.d_, f3_of a F.a_]

theorem kpopc (h : Hdr) (d : Fin 32) (a : Fin 8) : Statement (.kpopc h d a) := fun hw =>
  back rfl (dec_kpopc h d a hw (fmtA_fields (by decide)
    (h_d := d.isLt.trans_le (by decide))
    (h_a := a.isLt.trans_le (by decide))
    (h_b := by omega)
    (h_c := by omega)
    (h_fn := by omega)
    (h_k := by omega)
    (h_ty := by omega)
    (h_md := by omega)))

theorem dec_kffs (h : Hdr) (d : Fin 32) (a : Fin 8) (hw : (Instr.kffs h d a).wf = true) {w : Nat}
    (F : FieldsA w 0x4F h d a 0 0 6 0 0 0) : decodeNat false w = .instr (.kffs h d a) := by
  rw [F.decode (hdr_ok hw rfl)]
  show decMask w h = _
  simp [decMask, form, unused, regf, resv, F.fn_, F.d_, F.a_, F.b_, F.c_, F.k_, F.ty_, F.md_, f5_of d F.d_, f3_of a F.a_]

theorem kffs (h : Hdr) (d : Fin 32) (a : Fin 8) : Statement (.kffs h d a) := fun hw =>
  back rfl (dec_kffs h d a hw (fmtA_fields (by decide)
    (h_d := d.isLt.trans_le (by decide))
    (h_a := a.isLt.trans_le (by decide))
    (h_b := by omega)
    (h_c := by omega)
    (h_fn := by omega)
    (h_k := by omega)
    (h_ty := by omega)
    (h_md := by omega)))

theorem dec_hdef (h : Hdr) (d : Fin 32) (a : Fin 32) (g : Bool) (hw : (Instr.hdef h d a g).wf = true) {w : Nat}
    (F : FieldsX w 0x70 h d a 0 g.toNat 0) : decodeNat false w = .instr (.hdef h d a g) := by
  rw [F.decode (hdr_ok hw rfl)]
  have s_7_1 : field w 7 1 = g.toNat := by
    have := d.isLt; have := a.isLt; have := toNat_lt2 g; rw [show field w 7 1 = _ from field_sub F.imm_ 0 1 (by decide)]; omega
  have s_8_19 : field w 8 19 = 0 := by
    have := d.isLt; have := a.isLt; have := toNat_lt2 g; rw [show field w 8 19 = _ from field_sub F.imm_ 1 19 (by decide)]; omega
  show decHandle w h = _
  simp [decHandle, form, unused, regf, resv, xform, F.fn_, F.d_, F.a_, F.sys_, f5_of d F.d_, f5_of a F.a_, s_7_1, s_8_19]

theorem hdef (h : Hdr) (d : Fin 32) (a : Fin 32) (g : Bool) : Statement (.hdef h d a g) := fun hw =>
  back rfl (dec_hdef h d a g hw (fmtX_fields (by decide)
    (h_d := d.isLt.trans_le (by decide))
    (h_a := a.isLt.trans_le (by decide))
    (h_sys := by omega)
    (h_imm := (toNat_lt2 g).trans_le (by decide))
    (h_fn := by omega)))

theorem dec_hld (h : Hdr) (d : Fin 16) (a : Fin 32) (off : BitVec 20) (hw : (Instr.hld h d a off).wf = true) {w : Nat}
    (F : FieldsX w 0x70 h d a 0 off.toNat 1) : decodeNat false w = .instr (.hld h d a off) := by
  rw [F.decode (hdr_ok hw rfl)]
  show decHandle w h = _
  simp [decHandle, form, regf, resv, xform, F.fn_, F.d_, F.a_, F.sys_, F.imm_, f4_of d F.d_, f5_of a F.a_]

theorem hld (h : Hdr) (d : Fin 16) (a : Fin 32) (off : BitVec 20) : Statement (.hld h d a off) := fun hw =>
  back rfl (dec_hld h d a off hw (fmtX_fields (by decide)
    (h_d := d.isLt.trans_le (by decide))
    (h_a := a.isLt.trans_le (by decide))
    (h_sys := by omega)
    (h_imm := off.isLt)
    (h_fn := by omega)))

theorem dec_hst (h : Hdr) (d : Fin 32) (a : Fin 32) (g : Bool) (hw : (Instr.hst h d a g).wf = true) {w : Nat}
    (F : FieldsX w 0x70 h d a 0 g.toNat 2) : decodeNat false w = .instr (.hst h d a g) := by
  rw [F.decode (hdr_ok hw rfl)]
  have s_7_1 : field w 7 1 = g.toNat := by
    have := d.isLt; have := a.isLt; have := toNat_lt2 g; rw [show field w 7 1 = _ from field_sub F.imm_ 0 1 (by decide)]; omega
  have s_8_19 : field w 8 19 = 0 := by
    have := d.isLt; have := a.isLt; have := toNat_lt2 g; rw [show field w 8 19 = _ from field_sub F.imm_ 1 19 (by decide)]; omega
  show decHandle w h = _
  simp [decHandle, form, unused, regf, resv, xform, F.fn_, F.d_, F.a_, F.sys_, f5_of d F.d_, f5_of a F.a_, s_7_1, s_8_19]

theorem hst (h : Hdr) (d : Fin 32) (a : Fin 32) (g : Bool) : Statement (.hst h d a g) := fun hw =>
  back rfl (dec_hst h d a g hw (fmtX_fields (by decide)
    (h_d := d.isLt.trans_le (by decide))
    (h_a := a.isLt.trans_le (by decide))
    (h_sys := by omega)
    (h_imm := (toNat_lt2 g).trans_le (by decide))
    (h_fn := by omega)))

theorem dec_hinv (h : Hdr) (d : Fin 16) (all : Bool) (hw : (Instr.hinv h d all).wf = true) {w : Nat}
    (F : FieldsX w 0x70 h d 0 0 all.toNat 3) : decodeNat false w = .instr (.hinv h d all) := by
  rw [F.decode (hdr_ok hw rfl)]
  have wt : (!all || d == 0 : Bool) = true := form_ok hw
  simp only [MacArg.ok, Bool.and_eq_true, Bool.or_eq_true, beq_iff_eq, bne_iff_ne, ne_eq, Bool.not_eq_true', decide_eq_true_eq] at wt
  have ne : (all && d.val != 0) = false := by
    rcases wt with e | e <;> rw [e] <;> simp
  have s_7_1 : field w 7 1 = all.toNat := by
    have := d.isLt; have := toNat_lt2 all; rw [show field w 7 1 = _ from field_sub F.imm_ 0 1 (by decide)]; omega
  have s_8_19 : field w 8 19 = 0 := by
    have := d.isLt; have := toNat_lt2 all; rw [show field w 8 19 = _ from field_sub F.imm_ 1 19 (by decide)]; omega
  show decHandle w h = _
  simp [decHandle, form, unused, regf, resv, xform, F.fn_, F.d_, F.a_, F.sys_, f4_of d F.d_, s_7_1, s_8_19, ne]

theorem hinv (h : Hdr) (d : Fin 16) (all : Bool) : Statement (.hinv h d all) := fun hw =>
  back rfl (dec_hinv h d all hw (fmtX_fields (by decide)
    (h_d := d.isLt.trans_le (by decide))
    (h_a := by omega)
    (h_sys := by omega)
    (h_imm := (toNat_lt2 all).trans_le (by decide))
    (h_fn := by omega)))

theorem dec_ldt (h : Hdr) (d : Fin 32) (hr : Fin 16) (cbase : Fin 32) (ty : Ty) (k : Fin 8) (cp : Fin 4) (hw : (Instr.ldt h d hr cbase ty k cp).wf = true) {w : Nat}
    (F : FieldsT w 0x71 h d hr cbase (tyCode ty) k cp) : decodeNat false w = .instr (.ldt h d hr cbase ty k cp) := by
  rw [F.decode (hdr_ok hw rfl)]
  have wt : (tyCvtSrc.contains ty : Bool) = true := form_ok hw
  have s_0_2 : field w 0 2 = cp := by
    have := d.isLt; have := hr.isLt; have := cbase.isLt; have := tyCode_lt ty; have := k.isLt; have := cp.isLt; rw [show field w 0 2 = _ from field_sub F.md_ 0 2 (by decide)]; omega
  have s_2_7 : field w 2 7 = 0 := by
    have := d.isLt; have := hr.isLt; have := cbase.isLt; have := tyCode_lt ty; have := k.isLt; have := cp.isLt; rw [show field w 2 7 = _ from field_sub F.md_ 2 7 (by decide)]; omega
  have s_9_18 : field w 9 18 = 0 := by
    have := d.isLt; have := hr.isLt; have := cbase.isLt; have := tyCode_lt ty; have := k.isLt; have := cp.isLt; rw [show field w 9 18 = _ from field_sub F.md_ 9 18 (by decide)]; omega
  show decTensor 0x71 w h = _
  simp [decTensor, form, unused, regf, resv, F.d_, F.hr_, F.cb_, F.ty_, F.k_, f5_of d F.d_, f5_of cbase F.cb_, s_0_2, s_2_7, s_9_18, tyBad_code wt, tyGet_code]

theorem ldt (h : Hdr) (d : Fin 32) (hr : Fin 16) (cbase : Fin 32) (ty : Ty) (k : Fin 8) (cp : Fin 4) : Statement (.ldt h d hr cbase ty k cp) := fun hw =>
  back rfl (dec_ldt h d hr cbase ty k cp hw (fmtT_fields (by decide)
    (h_d := d.isLt.trans_le (by decide))
    (h_hr := hr.isLt.trans_le (by decide))
    (h_cb := cbase.isLt.trans_le (by decide))
    (h_ty := tyCode_lt _)
    (h_k := k.isLt.trans_le (by decide))
    (h_md := cp.isLt.trans_le (by decide))))

theorem dec_stt (h : Hdr) (d : Fin 32) (hr : Fin 16) (cbase : Fin 32) (ty : Ty) (k : Fin 8) (cp : Fin 4) (hw : (Instr.stt h d hr cbase ty k cp).wf = true) {w : Nat}
    (F : FieldsT w 0x72 h d hr cbase (tyCode ty) k cp) : decodeNat false w = .instr (.stt h d hr cbase ty k cp) := by
  rw [F.decode (hdr_ok hw rfl)]
  have wt : (tyCvtSrc.contains ty : Bool) = true := form_ok hw
  have s_0_2 : field w 0 2 = cp := by
    have := d.isLt; have := hr.isLt; have := cbase.isLt; have := tyCode_lt ty; have := k.isLt; have := cp.isLt; rw [show field w 0 2 = _ from field_sub F.md_ 0 2 (by decide)]; omega
  have s_2_7 : field w 2 7 = 0 := by
    have := d.isLt; have := hr.isLt; have := cbase.isLt; have := tyCode_lt ty; have := k.isLt; have := cp.isLt; rw [show field w 2 7 = _ from field_sub F.md_ 2 7 (by decide)]; omega
  have s_9_18 : field w 9 18 = 0 := by
    have := d.isLt; have := hr.isLt; have := cbase.isLt; have := tyCode_lt ty; have := k.isLt; have := cp.isLt; rw [show field w 9 18 = _ from field_sub F.md_ 9 18 (by decide)]; omega
  show decTensor 0x72 w h = _
  simp [decTensor, form, unused, regf, resv, F.d_, F.hr_, F.cb_, F.ty_, F.k_, f5_of d F.d_, f5_of cbase F.cb_, s_0_2, s_2_7, s_9_18, tyBad_code wt, tyGet_code]

theorem stt (h : Hdr) (d : Fin 32) (hr : Fin 16) (cbase : Fin 32) (ty : Ty) (k : Fin 8) (cp : Fin 4) : Statement (.stt h d hr cbase ty k cp) := fun hw =>
  back rfl (dec_stt h d hr cbase ty k cp hw (fmtT_fields (by decide)
    (h_d := d.isLt.trans_le (by decide))
    (h_hr := hr.isLt.trans_le (by decide))
    (h_cb := cbase.isLt.trans_le (by decide))
    (h_ty := tyCode_lt _)
    (h_k := k.isLt.trans_le (by decide))
    (h_md := cp.isLt.trans_le (by decide))))

theorem dec_ldtb (h : Hdr) (d : Fin 32) (hr : Fin 16) (cbase : Fin 32) (ty : Ty) (k : Fin 8) (cp : Fin 4) (sc : Bool) (sr : Fin 31) (hw : (Instr.ldtb h d hr cbase ty k cp sc sr).wf = true) {w : Nat}
    (F : FieldsT w 0x73 h d hr cbase (tyCode ty) k (cp + 4 * sr + 256 * sc.toNat)) : decodeNat false w = .instr (.ldtb h d hr cbase ty k cp sc sr) := by
  rw [F.decode (hdr_ok hw rfl)]
  have wt : (tyCvtSrc.contains ty : Bool) = true := form_ok hw
  have s_0_2 : field w 0 2 = cp := by
    have := d.isLt; have := hr.isLt; have := cbase.isLt; have := tyCode_lt ty; have := k.isLt; have := cp.isLt; have := toNat_lt2 sc; have := sr.isLt; rw [show field w 0 2 = _ from field_sub F.md_ 0 2 (by decide)]; omega
  have s_2_6 : field w 2 6 = sr := by
    have := d.isLt; have := hr.isLt; have := cbase.isLt; have := tyCode_lt ty; have := k.isLt; have := cp.isLt; have := toNat_lt2 sc; have := sr.isLt; rw [show field w 2 6 = _ from field_sub F.md_ 2 6 (by decide)]; omega
  have s_8_1 : field w 8 1 = sc.toNat := by
    have := d.isLt; have := hr.isLt; have := cbase.isLt; have := tyCode_lt ty; have := k.isLt; have := cp.isLt; have := toNat_lt2 sc; have := sr.isLt; rw [show field w 8 1 = _ from field_sub F.md_ 8 1 (by decide)]; omega
  have s_9_18 : field w 9 18 = 0 := by
    have := d.isLt; have := hr.isLt; have := cbase.isLt; have := tyCode_lt ty; have := k.isLt; have := cp.isLt; have := toNat_lt2 sc; have := sr.isLt; rw [show field w 9 18 = _ from field_sub F.md_ 9 18 (by decide)]; omega
  show decTensor 0x73 w h = _
  simp [decTensor, form, unused, regf, resv, F.d_, F.hr_, F.cb_, F.ty_, F.k_, f5_of d F.d_, f5_of cbase F.cb_, s_0_2, s_2_6, s_8_1, s_9_18, tyBad_code wt, Nat.not_lt.2 (Nat.le_of_lt_succ sr.isLt), tyGet_code]

theorem ldtb (h : Hdr) (d : Fin 32) (hr : Fin 16) (cbase : Fin 32) (ty : Ty) (k : Fin 8) (cp : Fin 4) (sc : Bool) (sr : Fin 31) : Statement (.ldtb h d hr cbase ty k cp sc sr) := fun hw =>
  back rfl (dec_ldtb h d hr cbase ty k cp sc sr hw (fmtT_fields (by decide)
    (h_d := d.isLt.trans_le (by decide))
    (h_hr := hr.isLt.trans_le (by decide))
    (h_cb := cbase.isLt.trans_le (by decide))
    (h_ty := tyCode_lt _)
    (h_k := k.isLt.trans_le (by decide))
    (h_md := by have := d.isLt; have := hr.isLt; have := cbase.isLt; have := tyCode_lt ty; have := k.isLt; have := cp.isLt; have := toNat_lt2 sc; have := sr.isLt; omega)))

theorem dec_sttb (h : Hdr) (d : Fin 32) (hr : Fin 16) (cbase : Fin 32) (ty : Ty) (k : Fin 8) (cp : Fin 4) (sc : Bool) (sr : Fin 31) (hw : (Instr.sttb h d hr cbase ty k cp sc sr).wf = true) {w : Nat}
    (F : FieldsT w 0x74 h d hr cbase (tyCode ty) k (cp + 4 * sr + 256 * sc.toNat)) : decodeNat false w = .instr (.sttb h d hr cbase ty k cp sc sr) := by
  rw [F.decode (hdr_ok hw rfl)]
  have wt : (tyCvtSrc.contains ty : Bool) = true := form_ok hw
  have s_0_2 : field w 0 2 = cp := by
    have := d.isLt; have := hr.isLt; have := cbase.isLt; have := tyCode_lt ty; have := k.isLt; have := cp.isLt; have := toNat_lt2 sc; have := sr.isLt; rw [show field w 0 2 = _ from field_sub F.md_ 0 2 (by decide)]; omega
  have s_2_6 : field w 2 6 = sr := by
    have := d.isLt; have := hr.isLt; have := cbase.isLt; have := tyCode_lt ty; have := k.isLt; have := cp.isLt; have := toNat_lt2 sc; have := sr.isLt; rw [show field w 2 6 = _ from field_sub F.md_ 2 6 (by decide)]; omega
  have s_8_1 : field w 8 1 = sc.toNat := by
    have := d.isLt; have := hr.isLt; have := cbase.isLt; have := tyCode_lt ty; have := k.isLt; have := cp.isLt; have := toNat_lt2 sc; have := sr.isLt; rw [show field w 8 1 = _ from field_sub F.md_ 8 1 (by decide)]; omega
  have s_9_18 : field w 9 18 = 0 := by
    have := d.isLt; have := hr.isLt; have := cbase.isLt; have := tyCode_lt ty; have := k.isLt; have := cp.isLt; have := toNat_lt2 sc; have := sr.isLt; rw [show field w 9 18 = _ from field_sub F.md_ 9 18 (by decide)]; omega
  show decTensor 0x74 w h = _
  simp [decTensor, form, unused, regf, resv, F.d_, F.hr_, F.cb_, F.ty_, F.k_, f5_of d F.d_, f5_of cbase F.cb_, s_0_2, s_2_6, s_8_1, s_9_18, tyBad_code wt, Nat.not_lt.2 (Nat.le_of_lt_succ sr.isLt), tyGet_code]

theorem sttb (h : Hdr) (d : Fin 32) (hr : Fin 16) (cbase : Fin 32) (ty : Ty) (k : Fin 8) (cp : Fin 4) (sc : Bool) (sr : Fin 31) : Statement (.sttb h d hr cbase ty k cp sc sr) := fun hw =>
  back rfl (dec_sttb h d hr cbase ty k cp sc sr hw (fmtT_fields (by decide)
    (h_d := d.isLt.trans_le (by decide))
    (h_hr := hr.isLt.trans_le (by decide))
    (h_cb := cbase.isLt.trans_le (by decide))
    (h_ty := tyCode_lt _)
    (h_k := k.isLt.trans_le (by decide))
    (h_md := by have := d.isLt; have := hr.isLt; have := cbase.isLt; have := tyCode_lt ty; have := k.isLt; have := cp.isLt; have := toNat_lt2 sc; have := sr.isLt; omega)))

theorem dec_hrelayout (h : Hdr) (d : Fin 32) (a : Fin 32) (hr : Fin 16) (tag : Fin 8) (cslot : Fin 16) (ctok : Bool) (nb : Bool) (hw : (Instr.hrelayout h d a hr tag cslot ctok nb).wf = true) {w : Nat}
    (F : FieldsX w 0x75 h d a 0 (hr + 16 * tag + 256 * cslot + 4096 * ctok.toNat + 8192 * nb.toNat) 0) : decodeNat false w = .instr (.hrelayout h d a hr tag cslot ctok nb) := by
  rw [F.decode (hdr_ok hw rfl)]
  have wt : ((ctok || cslot == 0) && (nb || d == 0) : Bool) = true := form_ok hw
  simp only [MacArg.ok, Bool.and_eq_true, Bool.or_eq_true, beq_iff_eq, bne_iff_ne, ne_eq, Bool.not_eq_true', decide_eq_true_eq] at wt
  have ne1 : (!ctok && cslot.val != 0) = false := by
    rcases wt.1 with e | e <;> rw [e] <;> simp
  have ne2 : (!nb && d.val != 0) = false := by
    rcases wt.2 with e | e <;> rw [e] <;> simp
  have s_7_4 : field w 7 4 = hr := by
    have := d.isLt; have := a.isLt; have := hr.isLt; have := tag.isLt; have := cslot.isLt; have := toNat_lt2 ctok; have := toNat_lt2 nb; rw [show field w 7 4 = _ from field_sub F.imm_ 0 4 (by decide)]; omega
  have s_11_4 : field w 11 4 = tag := by
    have := d.isLt; have := a.isLt; have := hr.isLt; have := tag.isLt; have := cslot.isLt; have := toNat_lt2 ctok; have := toNat_lt2 nb; rw [show field w 11 4 = _ from field_sub F.imm_ 4 4 (by decide)]; omega
  have s_15_4 : field w 15 4 = cslot := by
    have := d.isLt; have := a.isLt; have := hr.isLt; have := tag.isLt; have := cslot.isLt; have := toNat_lt2 ctok; have := toNat_lt2 nb; rw [show field w 15 4 = _ from field_sub F.imm_ 8 4 (by decide)]; omega
  have s_19_1 : field w 19 1 = ctok.toNat := by
    have := d.isLt; have := a.isLt; have := hr.isLt; have := tag.isLt; have := cslot.isLt; have := toNat_lt2 ctok; have := toNat_lt2 nb; rw [show field w 19 1 = _ from field_sub F.imm_ 12 1 (by decide)]; omega
  have s_20_1 : field w 20 1 = nb.toNat := by
    have := d.isLt; have := a.isLt; have := hr.isLt; have := tag.isLt; have := cslot.isLt; have := toNat_lt2 ctok; have := toNat_lt2 nb; rw [show field w 20 1 = _ from field_sub F.imm_ 13 1 (by decide)]; omega
  have s_21_6 : field w 21 6 = 0 := by
    have := d.isLt; have := a.isLt; have := hr.isLt; have := tag.isLt; have := cslot.isLt; have := toNat_lt2 ctok; have := toNat_lt2 nb; rw [show field w 21 6 = _ from field_sub F.imm_ 14 6 (by decide)]; omega
  show decRelayout w h = _
  simp [decRelayout, form, unused, regf, resv, F.fn_, F.d_, F.a_, F.sys_, f5_of d F.d_, f5_of a F.a_, s_7_4, s_11_4, s_15_4, s_19_1, s_20_1, s_21_6, ne1, ne2, Nat.not_lt.2 (Nat.le_of_lt_succ tag.isLt)]

theorem hrelayout (h : Hdr) (d : Fin 32) (a : Fin 32) (hr : Fin 16) (tag : Fin 8) (cslot : Fin 16) (ctok : Bool) (nb : Bool) : Statement (.hrelayout h d a hr tag cslot ctok nb) := fun hw =>
  back rfl (dec_hrelayout h d a hr tag cslot ctok nb hw (fmtX_fields (by decide)
    (h_d := d.isLt.trans_le (by decide))
    (h_a := a.isLt.trans_le (by decide))
    (h_sys := by omega)
    (h_imm := by have := d.isLt; have := a.isLt; have := hr.isLt; have := tag.isLt; have := cslot.isLt; have := toNat_lt2 ctok; have := toNat_lt2 nb; omega)
    (h_fn := by omega)))

theorem dec_hwait (h : Hdr) (hr : Fin 16) (hw : (Instr.hwait h hr).wf = true) {w : Nat}
    (F : FieldsX w 0x76 h 0 0 0 hr 0) : decodeNat false w = .instr (.hwait h hr) := by
  rw [F.decode (hdr_ok hw rfl)]
  have s_7_4 : field w 7 4 = hr := by
    have := hr.isLt; rw [show field w 7 4 = _ from field_sub F.imm_ 0 4 (by decide)]; omega
  have s_11_16 : field w 11 16 = 0 := by
    have := hr.isLt; rw [show field w 11 16 = _ from field_sub F.imm_ 4 16 (by decide)]; omega
  show decHwait w h = _
  simp [decHwait, form, unused, xform, F.fn_, F.d_, F.a_, F.sys_, s_7_4, s_11_16]

theorem hwait (h : Hdr) (hr : Fin 16) : Statement (.hwait h hr) := fun hw =>
  back rfl (dec_hwait h hr hw (fmtX_fields (by decide)
    (h_d := by omega)
    (h_a := by omega)
    (h_sys := by omega)
    (h_imm := hr.isLt.trans_le (by decide))
    (h_fn := by omega)))

theorem dec_hstat (h : Hdr) (d : Fin 32) (hr : Fin 16) (hw : (Instr.hstat h d hr).wf = true) {w : Nat}
    (F : FieldsX w 0x76 h d 0 0 hr 1) : decodeNat false w = .instr (.hstat h d hr) := by
  rw [F.decode (hdr_ok hw rfl)]
  have s_7_4 : field w 7 4 = hr := by
    have := d.isLt; have := hr.isLt; rw [show field w 7 4 = _ from field_sub F.imm_ 0 4 (by decide)]; omega
  have s_11_16 : field w 11 16 = 0 := by
    have := d.isLt; have := hr.isLt; rw [show field w 11 16 = _ from field_sub F.imm_ 4 16 (by decide)]; omega
  show decHwait w h = _
  simp [decHwait, form, unused, regf, resv, xform, F.fn_, F.d_, F.a_, F.sys_, f5_of d F.d_, s_7_4, s_11_16]

theorem hstat (h : Hdr) (d : Fin 32) (hr : Fin 16) : Statement (.hstat h d hr) := fun hw =>
  back rfl (dec_hstat h d hr hw (fmtX_fields (by decide)
    (h_d := d.isLt.trans_le (by decide))
    (h_a := by omega)
    (h_sys := by omega)
    (h_imm := hr.isLt.trans_le (by decide))
    (h_fn := by omega)))

theorem dec_mma (h : Hdr) (ty : Ty) (m : MacArg) (cl : Clauses) (hw : (Instr.mma h ty m cl).wf = true) {w : Nat}
    (F : FieldsE w 0x80 h m.x m.y m.z (macImm m) m.q cl (tyCode ty)) : decodeNat false w = .instr (.mma h ty m cl) := by
  rw [F.decode (hdr_ok hw rfl)]
  have co : cl.ok = true := clauses_ok hw
  have wt : (tyMma.contains ty && m.ok : Bool) = true := form_ok hw
  simp only [MacArg.ok, Bool.and_eq_true, Bool.or_eq_true, beq_iff_eq, bne_iff_ne, ne_eq, Bool.not_eq_true', decide_eq_true_eq] at wt
  have y2 : ¬ 32 < m.y.val + 3 := by omega
  have s_21_2 : field w 21 2 = m.bank := by
    have := tyCode_lt ty; have := m.x.isLt; have := m.y.isLt; have := m.z.isLt; have := m.bank.isLt; have := m.a.isLt; have := m.b.isLt; have := m.q.isLt; rw [show field w 21 2 = _ from field_sub F.imm_ 0 2 (by decide)]; simp only [macImm]; omega
  have s_23_4 : field w 23 4 = m.a := by
    have := tyCode_lt ty; have := m.x.isLt; have := m.y.isLt; have := m.z.isLt; have := m.bank.isLt; have := m.a.isLt; have := m.b.isLt; have := m.q.isLt; rw [show field w 23 4 = _ from field_sub F.imm_ 2 4 (by decide)]; simp only [macImm]; omega
  have s_27_4 : field w 27 4 = m.b := by
    have := tyCode_lt ty; have := m.x.isLt; have := m.y.isLt; have := m.z.isLt; have := m.bank.isLt; have := m.a.isLt; have := m.b.isLt; have := m.q.isLt; rw [show field w 27 4 = _ from field_sub F.imm_ 6 4 (by decide)]; simp only [macImm]; omega
  have s_31_2 : field w 31 2 = 0 := by
    have := tyCode_lt ty; have := m.x.isLt; have := m.y.isLt; have := m.z.isLt; have := m.bank.isLt; have := m.a.isLt; have := m.b.isLt; have := m.q.isLt; rw [show field w 31 2 = _ from field_sub F.imm_ 10 2 (by decide)]; simp only [macImm]; omega
  show decMac 0x80 w h = _
  simp [decMac, form, unused, regf, resv, eRes, macOf, F.fn_, F.x_, F.y_, F.z_, F.qn_, F.clauses, F.res co, f5_of m.x F.x_, f5_of m.y F.y_, f5_of m.z F.z_, s_21_2, s_23_4, s_27_4, s_31_2, tyBad_code wt.1, y2, tyGet_code]

theorem mma (h : Hdr) (ty : Ty) (m : MacArg) (cl : Clauses) : Statement (.mma h ty m cl) := fun hw =>
  back rfl (dec_mma h ty m cl hw (fmtE_fields (by decide)
    (h_x := m.x.isLt.trans_le (by decide))
    (h_y := m.y.isLt.trans_le (by decide))
    (h_z := m.z.isLt.trans_le (by decide))
    (h_imm := by have := tyCode_lt ty; have := m.x.isLt; have := m.y.isLt; have := m.z.isLt; have := m.bank.isLt; have := m.a.isLt; have := m.b.isLt; have := m.q.isLt; simp only [macImm]; omega)
    (h_qn := m.q.isLt.trans_le (by decide))
    (h_fn := (tyCode_lt ty).trans_le (by decide))))

theorem dec_mmx (h : Hdr) (ty : Ty) (m : MacArg) (cl : Clauses) (hw : (Instr.mmx h ty m cl).wf = true) {w : Nat}
    (F : FieldsE w 0x81 h m.x m.y m.z (macImm m) m.q cl (tyCode ty)) : decodeNat false w = .instr (.mmx h ty m cl) := by
  rw [F.decode (hdr_ok hw rfl)]
  have co : cl.ok = true := clauses_ok hw
  have wt : (tyMx.contains ty && m.ok : Bool) = true := form_ok hw
  simp only [MacArg.ok, Bool.and_eq_true, Bool.or_eq_true, beq_iff_eq, bne_iff_ne, ne_eq, Bool.not_eq_true', decide_eq_true_eq] at wt
  have y2 : ¬ 32 < m.y.val + 3 := by omega
  have s_21_2 : field w 21 2 = m.bank := by
    have := tyCode_lt ty; have := m.x.isLt; have := m.y.isLt; have := m.z.isLt; have := m.bank.isLt; have := m.a.isLt; have := m.b.isLt; have := m.q.isLt; rw [show field w 21 2 = _ from field_sub F.imm_ 0 2 (by decide)]; simp only [macImm]; omega
  have s_23_4 : field w 23 4 = m.a := by
    have := tyCode_lt ty; have := m.x.isLt; have := m.y.isLt; have := m.z.isLt; have := m.bank.isLt; have := m.a.isLt; have := m.b.isLt; have := m.q.isLt; rw [show field w 23 4 = _ from field_sub F.imm_ 2 4 (by decide)]; simp only [macImm]; omega
  have s_27_4 : field w 27 4 = m.b := by
    have := tyCode_lt ty; have := m.x.isLt; have := m.y.isLt; have := m.z.isLt; have := m.bank.isLt; have := m.a.isLt; have := m.b.isLt; have := m.q.isLt; rw [show field w 27 4 = _ from field_sub F.imm_ 6 4 (by decide)]; simp only [macImm]; omega
  have s_31_2 : field w 31 2 = 0 := by
    have := tyCode_lt ty; have := m.x.isLt; have := m.y.isLt; have := m.z.isLt; have := m.bank.isLt; have := m.a.isLt; have := m.b.isLt; have := m.q.isLt; rw [show field w 31 2 = _ from field_sub F.imm_ 10 2 (by decide)]; simp only [macImm]; omega
  show decMac 0x81 w h = _
  simp [decMac, form, unused, regf, resv, eRes, macOf, F.fn_, F.x_, F.y_, F.z_, F.qn_, F.clauses, F.res co, f5_of m.x F.x_, f5_of m.y F.y_, f5_of m.z F.z_, s_21_2, s_23_4, s_27_4, s_31_2, tyBad_code wt.1, y2, tyGet_code]

theorem mmx (h : Hdr) (ty : Ty) (m : MacArg) (cl : Clauses) : Statement (.mmx h ty m cl) := fun hw =>
  back rfl (dec_mmx h ty m cl hw (fmtE_fields (by decide)
    (h_x := m.x.isLt.trans_le (by decide))
    (h_y := m.y.isLt.trans_le (by decide))
    (h_z := m.z.isLt.trans_le (by decide))
    (h_imm := by have := tyCode_lt ty; have := m.x.isLt; have := m.y.isLt; have := m.z.isLt; have := m.bank.isLt; have := m.a.isLt; have := m.b.isLt; have := m.q.isLt; simp only [macImm]; omega)
    (h_qn := m.q.isLt.trans_le (by decide))
    (h_fn := (tyCode_lt ty).trans_le (by decide))))

theorem dec_mmi (h : Hdr) (f : MmiForm) (m : MacArg) (cl : Clauses) (hw : (Instr.mmi h f m cl).wf = true) {w : Nat}
    (F : FieldsE w 0x82 h m.x m.y m.z (macImm m) m.q cl (mmiCode f)) : decodeNat false w = .instr (.mmi h f m cl) := by
  rw [F.decode (hdr_ok hw rfl)]
  have co : cl.ok = true := clauses_ok hw
  have wt : (m.ok : Bool) = true := form_ok hw
  simp only [MacArg.ok, Bool.and_eq_true, Bool.or_eq_true, beq_iff_eq, bne_iff_ne, ne_eq, Bool.not_eq_true', decide_eq_true_eq] at wt
  have y2 : ¬ 32 < m.y.val + 3 := by omega
  have s_21_2 : field w 21 2 = m.bank := by
    have := mmiCode_le f; have := m.x.isLt; have := m.y.isLt; have := m.z.isLt; have := m.bank.isLt; have := m.a.isLt; have := m.b.isLt; have := m.q.isLt; rw [show field w 21 2 = _ from field_sub F.imm_ 0 2 (by decide)]; simp only [macImm]; omega
  have s_23_4 : field w 23 4 = m.a := by
    have := mmiCode_le f; have := m.x.isLt; have := m.y.isLt; have := m.z.isLt; have := m.bank.isLt; have := m.a.isLt; have := m.b.isLt; have := m.q.isLt; rw [show field w 23 4 = _ from field_sub F.imm_ 2 4 (by decide)]; simp only [macImm]; omega
  have s_27_4 : field w 27 4 = m.b := by
    have := mmiCode_le f; have := m.x.isLt; have := m.y.isLt; have := m.z.isLt; have := m.bank.isLt; have := m.a.isLt; have := m.b.isLt; have := m.q.isLt; rw [show field w 27 4 = _ from field_sub F.imm_ 6 4 (by decide)]; simp only [macImm]; omega
  have s_31_2 : field w 31 2 = 0 := by
    have := mmiCode_le f; have := m.x.isLt; have := m.y.isLt; have := m.z.isLt; have := m.bank.isLt; have := m.a.isLt; have := m.b.isLt; have := m.q.isLt; rw [show field w 31 2 = _ from field_sub F.imm_ 10 2 (by decide)]; simp only [macImm]; omega
  show decMac 0x82 w h = _
  simp [decMac, form, unused, regf, resv, eRes, macOf, mmiOf_code, Nat.not_lt.2 (mmiCode_le _), F.fn_, F.x_, F.y_, F.z_, F.qn_, F.clauses, F.res co, f5_of m.x F.x_, f5_of m.y F.y_, f5_of m.z F.z_, s_21_2, s_23_4, s_27_4, s_31_2, y2]

theorem mmi (h : Hdr) (f : MmiForm) (m : MacArg) (cl : Clauses) : Statement (.mmi h f m cl) := fun hw =>
  back rfl (dec_mmi h f m cl hw (fmtE_fields (by decide)
    (h_x := m.x.isLt.trans_le (by decide))
    (h_y := m.y.isLt.trans_le (by decide))
    (h_z := m.z.isLt.trans_le (by decide))
    (h_imm := by have := mmiCode_le f; have := m.x.isLt; have := m.y.isLt; have := m.z.isLt; have := m.bank.isLt; have := m.a.isLt; have := m.b.isLt; have := m.q.isLt; simp only [macImm]; omega)
    (h_qn := m.q.isLt.trans_le (by decide))
    (h_fn := by have := mmiCode_le f; have := m.x.isLt; have := m.y.isLt; have := m.z.isLt; have := m.bank.isLt; have := m.a.isLt; have := m.b.isLt; have := m.q.isLt; omega)))

theorem dec_mmaG (h : Hdr) (ty : Ty) (m : MacArg) (cl : Clauses) (hw : (Instr.mmaG h ty m cl).wf = true) {w : Nat}
    (F : FieldsE w 0x83 h m.x m.y m.z (macImm m) m.q cl (tyCode ty)) : decodeNat false w = .instr (.mmaG h ty m cl) := by
  rw [F.decode (hdr_ok hw rfl)]
  have co : cl.ok = true := clauses_ok hw
  have wt : (tyMma.contains ty && m.ok : Bool) = true := form_ok hw
  simp only [MacArg.ok, Bool.and_eq_true, Bool.or_eq_true, beq_iff_eq, bne_iff_ne, ne_eq, Bool.not_eq_true', decide_eq_true_eq] at wt
  have y2 : ¬ 32 < m.y.val + 3 := by omega
  have md : tyCode ty % 32 = tyCode ty := Nat.mod_eq_of_lt (tyCode_lt ty)
  have s_5_2 : field w 5 2 = 0 := by
    have := tyCode_lt ty; have := m.x.isLt; have := m.y.isLt; have := m.z.isLt; have := m.bank.isLt; have := m.a.isLt; have := m.b.isLt; have := m.q.isLt; rw [show field w 5 2 = _ from field_sub F.fn_ 5 2 (by decide)]; omega
  have s_21_2 : field w 21 2 = m.bank := by
    have := tyCode_lt ty; have := m.x.isLt; have := m.y.isLt; have := m.z.isLt; have := m.bank.isLt; have := m.a.isLt; have := m.b.isLt; have := m.q.isLt; rw [show field w 21 2 = _ from field_sub F.imm_ 0 2 (by decide)]; simp only [macImm]; omega
  have s_23_4 : field w 23 4 = m.a := by
    have := tyCode_lt ty; have := m.x.isLt; have := m.y.isLt; have := m.z.isLt; have := m.bank.isLt; have := m.a.isLt; have := m.b.isLt; have := m.q.isLt; rw [show field w 23 4 = _ from field_sub F.imm_ 2 4 (by decide)]; simp only [macImm]; omega
  have s_27_4 : field w 27 4 = m.b := by
    have := tyCode_lt ty; have := m.x.isLt; have := m.y.isLt; have := m.z.isLt; have := m.bank.isLt; have := m.a.isLt; have := m.b.isLt; have := m.q.isLt; rw [show field w 27 4 = _ from field_sub F.imm_ 6 4 (by decide)]; simp only [macImm]; omega
  have s_31_2 : field w 31 2 = 0 := by
    have := tyCode_lt ty; have := m.x.isLt; have := m.y.isLt; have := m.z.isLt; have := m.bank.isLt; have := m.a.isLt; have := m.b.isLt; have := m.q.isLt; rw [show field w 31 2 = _ from field_sub F.imm_ 10 2 (by decide)]; simp only [macImm]; omega
  show decMac 0x83 w h = _
  simp [decMac, form, unused, regf, resv, eRes, macOf, F.fn_, F.x_, F.y_, F.z_, F.qn_, F.clauses, F.res co, f5_of m.x F.x_, f5_of m.y F.y_, f5_of m.z F.z_, s_5_2, s_21_2, s_23_4, s_27_4, s_31_2, tyBad_code wt.1, y2, md, tyGet_code]

theorem mmaG (h : Hdr) (ty : Ty) (m : MacArg) (cl : Clauses) : Statement (.mmaG h ty m cl) := fun hw =>
  back rfl (dec_mmaG h ty m cl hw (fmtE_fields (by decide)
    (h_x := m.x.isLt.trans_le (by decide))
    (h_y := m.y.isLt.trans_le (by decide))
    (h_z := m.z.isLt.trans_le (by decide))
    (h_imm := by have := tyCode_lt ty; have := m.x.isLt; have := m.y.isLt; have := m.z.isLt; have := m.bank.isLt; have := m.a.isLt; have := m.b.isLt; have := m.q.isLt; simp only [macImm]; omega)
    (h_qn := m.q.isLt.trans_le (by decide))
    (h_fn := (tyCode_lt ty).trans_le (by decide))))

theorem dec_mmxG (h : Hdr) (ty : Ty) (m : MacArg) (cl : Clauses) (hw : (Instr.mmxG h ty m cl).wf = true) {w : Nat}
    (F : FieldsE w 0x83 h m.x m.y m.z (macImm m) m.q cl (32 + tyCode ty)) : decodeNat false w = .instr (.mmxG h ty m cl) := by
  rw [F.decode (hdr_ok hw rfl)]
  have co : cl.ok = true := clauses_ok hw
  have wt : (tyMx.contains ty && m.ok : Bool) = true := form_ok hw
  simp only [MacArg.ok, Bool.and_eq_true, Bool.or_eq_true, beq_iff_eq, bne_iff_ne, ne_eq, Bool.not_eq_true', decide_eq_true_eq] at wt
  have y2 : ¬ 32 < m.y.val + 3 := by omega
  have md : tyCode ty % 32 = tyCode ty := Nat.mod_eq_of_lt (tyCode_lt ty)
  have s_5_2 : field w 5 2 = 1 := by
    have := tyCode_lt ty; have := m.x.isLt; have := m.y.isLt; have := m.z.isLt; have := m.bank.isLt; have := m.a.isLt; have := m.b.isLt; have := m.q.isLt; rw [show field w 5 2 = _ from field_sub F.fn_ 5 2 (by decide)]; omega
  have s_21_2 : field w 21 2 = m.bank := by
    have := tyCode_lt ty; have := m.x.isLt; have := m.y.isLt; have := m.z.isLt; have := m.bank.isLt; have := m.a.isLt; have := m.b.isLt; have := m.q.isLt; rw [show field w 21 2 = _ from field_sub F.imm_ 0 2 (by decide)]; simp only [macImm]; omega
  have s_23_4 : field w 23 4 = m.a := by
    have := tyCode_lt ty; have := m.x.isLt; have := m.y.isLt; have := m.z.isLt; have := m.bank.isLt; have := m.a.isLt; have := m.b.isLt; have := m.q.isLt; rw [show field w 23 4 = _ from field_sub F.imm_ 2 4 (by decide)]; simp only [macImm]; omega
  have s_27_4 : field w 27 4 = m.b := by
    have := tyCode_lt ty; have := m.x.isLt; have := m.y.isLt; have := m.z.isLt; have := m.bank.isLt; have := m.a.isLt; have := m.b.isLt; have := m.q.isLt; rw [show field w 27 4 = _ from field_sub F.imm_ 6 4 (by decide)]; simp only [macImm]; omega
  have s_31_2 : field w 31 2 = 0 := by
    have := tyCode_lt ty; have := m.x.isLt; have := m.y.isLt; have := m.z.isLt; have := m.bank.isLt; have := m.a.isLt; have := m.b.isLt; have := m.q.isLt; rw [show field w 31 2 = _ from field_sub F.imm_ 10 2 (by decide)]; simp only [macImm]; omega
  show decMac 0x83 w h = _
  simp [decMac, form, unused, regf, resv, eRes, macOf, F.fn_, F.x_, F.y_, F.z_, F.qn_, F.clauses, F.res co, f5_of m.x F.x_, f5_of m.y F.y_, f5_of m.z F.z_, s_5_2, s_21_2, s_23_4, s_27_4, s_31_2, tyBad_code wt.1, y2, md, tyGet_code]

theorem mmxG (h : Hdr) (ty : Ty) (m : MacArg) (cl : Clauses) : Statement (.mmxG h ty m cl) := fun hw =>
  back rfl (dec_mmxG h ty m cl hw (fmtE_fields (by decide)
    (h_x := m.x.isLt.trans_le (by decide))
    (h_y := m.y.isLt.trans_le (by decide))
    (h_z := m.z.isLt.trans_le (by decide))
    (h_imm := by have := tyCode_lt ty; have := m.x.isLt; have := m.y.isLt; have := m.z.isLt; have := m.bank.isLt; have := m.a.isLt; have := m.b.isLt; have := m.q.isLt; simp only [macImm]; omega)
    (h_qn := m.q.isLt.trans_le (by decide))
    (h_fn := by have := tyCode_lt ty; have := m.x.isLt; have := m.y.isLt; have := m.z.isLt; have := m.bank.isLt; have := m.a.isLt; have := m.b.isLt; have := m.q.isLt; omega)))

theorem dec_mgang (h : Hdr) (y : Fin 32) (gr : Fin 4) (gc : Fin 4) (gR : Fin 4) (gC : Fin 4) (q : Fin 4) (cl : Clauses) (hw : (Instr.mgang h y gr gc gR gC q cl).wf = true) {w : Nat}
    (F : FieldsE w 0x86 h 0 y 0 (gr + 4 * gc + 16 * gR + 64 * gC) q cl 1) : decodeNat false w = .instr (.mgang h y gr gc gR gC q cl) := by
  rw [F.decode (hdr_ok hw rfl)]
  have co : cl.ok = true := clauses_ok hw
  have wt : (gr ≤ gR && gc ≤ gC : Bool) = true := form_ok hw
  simp only [MacArg.ok, Bool.and_eq_true, Bool.or_eq_true, beq_iff_eq, bne_iff_ne, ne_eq, Bool.not_eq_true', decide_eq_true_eq] at wt
  simp only [Fin.le_def] at wt
  have s_21_2 : field w 21 2 = gr := by
    rw [show field w 21 2 = _ from field_sub F.imm_ 0 2 (by decide)]; clear * - h y gr gc gR gC q cl; have := y.isLt; have := gr.isLt; have := gc.isLt; have := gR.isLt; have := gC.isLt; have := q.isLt; omega
  have s_23_2 : field w 23 2 = gc := by
    rw [show field w 23 2 = _ from field_sub F.imm_ 2 2 (by decide)]; clear * - h y gr gc gR gC q cl; have := y.isLt; have := gr.isLt; have := gc.isLt; have := gR.isLt; have := gC.isLt; have := q.isLt; omega
  have s_25_2 : field w 25 2 = gR := by
    rw [show field w 25 2 = _ from field_sub F.imm_ 4 2 (by decide)]; clear * - h y gr gc gR gC q cl; have := y.isLt; have := gr.isLt; have := gc.isLt; have := gR.isLt; have := gC.isLt; have := q.isLt; omega
  have s_27_2 : field w 27 2 = gC := by
    rw [show field w 27 2 = _ from field_sub F.imm_ 6 2 (by decide)]; clear * - h y gr gc gR gC q cl; have := y.isLt; have := gr.isLt; have := gc.isLt; have := gR.isLt; have := gC.isLt; have := q.isLt; omega
  have s_29_4 : field w 29 4 = 0 := by
    rw [show field w 29 4 = _ from field_sub F.imm_ 8 4 (by decide)]; clear * - h y gr gc gR gC q cl; have := y.isLt; have := gr.isLt; have := gc.isLt; have := gR.isLt; have := gC.isLt; have := q.isLt; omega
  show decMat 0x86 w h = _
  simp [decMat, form, unused, regf, resv, eRes, F.fn_, F.x_, F.y_, F.z_, F.qn_, F.clauses, F.res co, f5_of y F.y_, s_21_2, s_23_2, s_25_2, s_27_2, s_29_4, Nat.not_lt.2 wt.1, Nat.not_lt.2 wt.2]

theorem mgang (h : Hdr) (y : Fin 32) (gr : Fin 4) (gc : Fin 4) (gR : Fin 4) (gC : Fin 4) (q : Fin 4) (cl : Clauses) : Statement (.mgang h y gr gc gR gC q cl) := fun hw =>
  back rfl (dec_mgang h y gr gc gR gC q cl hw (fmtE_fields (by decide)
    (h_x := by omega)
    (h_y := y.isLt.trans_le (by decide))
    (h_z := by omega)
    (h_imm := by have := y.isLt; have := gr.isLt; have := gc.isLt; have := gR.isLt; have := gC.isLt; have := q.isLt; omega)
    (h_qn := q.isLt.trans_le (by decide))
    (h_fn := by omega)))

theorem dec_mgangFree (h : Hdr) (q : Fin 4) (cl : Clauses) (hw : (Instr.mgangFree h q cl).wf = true) {w : Nat}
    (F : FieldsE w 0x86 h 0 0 0 0 q cl 2) : decodeNat false w = .instr (.mgangFree h q cl) := by
  rw [F.decode (hdr_ok hw rfl)]
  have co : cl.ok = true := clauses_ok hw
  show decMat 0x86 w h = _
  simp [decMat, form, unused, eRes, F.fn_, F.x_, F.y_, F.z_, F.imm_, F.qn_, F.clauses, F.res co]

theorem mgangFree (h : Hdr) (q : Fin 4) (cl : Clauses) : Statement (.mgangFree h q cl) := fun hw =>
  back rfl (dec_mgangFree h q cl hw (fmtE_fields (by decide)
    (h_x := by omega)
    (h_y := by omega)
    (h_z := by omega)
    (h_imm := by omega)
    (h_qn := q.isLt.trans_le (by decide))
    (h_fn := by omega)))

theorem dec_mcfg (h : Hdr) (shape : Fin 4) (sort : Fin 16) (cl : Clauses) (hw : (Instr.mcfg h shape sort cl).wf = true) {w : Nat}
    (F : FieldsE w 0x86 h 0 0 0 (shape + 16 * sort) 0 cl 0) : decodeNat false w = .instr (.mcfg h shape sort cl) := by
  rw [F.decode (hdr_ok hw rfl)]
  have co : cl.ok = true := clauses_ok hw
  have wt : (sort == 0 || shape == 3 : Bool) = true := form_ok hw
  simp only [MacArg.ok, Bool.and_eq_true, Bool.or_eq_true, beq_iff_eq, bne_iff_ne, ne_eq, Bool.not_eq_true', decide_eq_true_eq] at wt
  have ne : (sort.val != 0 && shape.val != 3) = false := by
    rcases wt with e | e <;> rw [e] <;> simp
  have s_21_2 : field w 21 2 = shape := by
    have := shape.isLt; have := sort.isLt; rw [show field w 21 2 = _ from field_sub F.imm_ 0 2 (by decide)]; omega
  have s_23_2 : field w 23 2 = 0 := by
    have := shape.isLt; have := sort.isLt; rw [show field w 23 2 = _ from field_sub F.imm_ 2 2 (by decide)]; omega
  have s_25_4 : field w 25 4 = sort := by
    have := shape.isLt; have := sort.isLt; rw [show field w 25 4 = _ from field_sub F.imm_ 4 4 (by decide)]; omega
  have s_29_4 : field w 29 4 = 0 := by
    have := shape.isLt; have := sort.isLt; rw [show field w 29 4 = _ from field_sub F.imm_ 8 4 (by decide)]; omega
  show decMat 0x86 w h = _
  simp [decMat, form, unused, resv, eRes, F.fn_, F.x_, F.y_, F.z_, F.qn_, F.clauses, F.res co, s_21_2, s_23_2, s_25_4, s_29_4, ne]

theorem mcfg (h : Hdr) (shape : Fin 4) (sort : Fin 16) (cl : Clauses) : Statement (.mcfg h shape sort cl) := fun hw =>
  back rfl (dec_mcfg h shape sort cl hw (fmtE_fields (by decide)
    (h_x := by omega)
    (h_y := by omega)
    (h_z := by omega)
    (h_imm := by have := shape.isLt; have := sort.isLt; omega)
    (h_qn := by omega)
    (h_fn := by omega)))

theorem dec_mzero (h : Hdr) (bank : Fin 4) (q : Fin 4) (cl : Clauses) (hw : (Instr.mzero h bank q cl).wf = true) {w : Nat}
    (F : FieldsE w 0x84 h 0 0 0 bank q cl 0) : decodeNat false w = .instr (.mzero h bank q cl) := by
  rw [F.decode (hdr_ok hw rfl)]
  have co : cl.ok = true := clauses_ok hw
  have s_21_2 : field w 21 2 = bank := by
    have := bank.isLt; have := q.isLt; rw [show field w 21 2 = _ from field_sub F.imm_ 0 2 (by decide)]; omega
  have s_23_10 : field w 23 10 = 0 := by
    have := bank.isLt; have := q.isLt; rw [show field w 23 10 = _ from field_sub F.imm_ 2 10 (by decide)]; omega
  show decMat 0x84 w h = _
  simp [decMat, form, unused, eRes, F.fn_, F.x_, F.y_, F.z_, F.qn_, F.clauses, F.res co, s_21_2, s_23_10]

theorem mzero (h : Hdr) (bank : Fin 4) (q : Fin 4) (cl : Clauses) : Statement (.mzero h bank q cl) := fun hw =>
  back rfl (dec_mzero h bank q cl hw (fmtE_fields (by decide)
    (h_x := by omega)
    (h_y := by omega)
    (h_z := by omega)
    (h_imm := bank.isLt.trans_le (by decide))
    (h_qn := q.isLt.trans_le (by decide))
    (h_fn := by omega)))

theorem dec_mscaleRow (h : Hdr) (y : Fin 32) (bank : Fin 4) (q : Fin 4) (cl : Clauses) (hw : (Instr.mscaleRow h y bank q cl).wf = true) {w : Nat}
    (F : FieldsE w 0x84 h 0 y 0 bank q cl 1) : decodeNat false w = .instr (.mscaleRow h y bank q cl) := by
  rw [F.decode (hdr_ok hw rfl)]
  have co : cl.ok = true := clauses_ok hw
  have s_21_2 : field w 21 2 = bank := by
    have := y.isLt; have := bank.isLt; have := q.isLt; rw [show field w 21 2 = _ from field_sub F.imm_ 0 2 (by decide)]; omega
  have s_23_10 : field w 23 10 = 0 := by
    have := y.isLt; have := bank.isLt; have := q.isLt; rw [show field w 23 10 = _ from field_sub F.imm_ 2 10 (by decide)]; omega
  show decMat 0x84 w h = _
  simp [decMat, form, unused, regf, resv, eRes, F.fn_, F.x_, F.y_, F.z_, F.qn_, F.clauses, F.res co, f5_of y F.y_, s_21_2, s_23_10]

theorem mscaleRow (h : Hdr) (y : Fin 32) (bank : Fin 4) (q : Fin 4) (cl : Clauses) : Statement (.mscaleRow h y bank q cl) := fun hw =>
  back rfl (dec_mscaleRow h y bank q cl hw (fmtE_fields (by decide)
    (h_x := by omega)
    (h_y := y.isLt.trans_le (by decide))
    (h_z := by omega)
    (h_imm := bank.isLt.trans_le (by decide))
    (h_qn := q.isLt.trans_le (by decide))
    (h_fn := by omega)))

theorem dec_mscaleCol (h : Hdr) (y : Fin 32) (bank : Fin 4) (q : Fin 4) (cl : Clauses) (hw : (Instr.mscaleCol h y bank q cl).wf = true) {w : Nat}
    (F : FieldsE w 0x84 h 0 y 0 bank q cl 2) : decodeNat false w = .instr (.mscaleCol h y bank q cl) := by
  rw [F.decode (hdr_ok hw rfl)]
  have co : cl.ok = true := clauses_ok hw
  have s_21_2 : field w 21 2 = bank := by
    have := y.isLt; have := bank.isLt; have := q.isLt; rw [show field w 21 2 = _ from field_sub F.imm_ 0 2 (by decide)]; omega
  have s_23_10 : field w 23 10 = 0 := by
    have := y.isLt; have := bank.isLt; have := q.isLt; rw [show field w 23 10 = _ from field_sub F.imm_ 2 10 (by decide)]; omega
  show decMat 0x84 w h = _
  simp [decMat, form, unused, regf, resv, eRes, F.fn_, F.x_, F.y_, F.z_, F.qn_, F.clauses, F.res co, f5_of y F.y_, s_21_2, s_23_10]

theorem mscaleCol (h : Hdr) (y : Fin 32) (bank : Fin 4) (q : Fin 4) (cl : Clauses) : Statement (.mscaleCol h y bank q cl) := fun hw =>
  back rfl (dec_mscaleCol h y bank q cl hw (fmtE_fields (by decide)
    (h_x := by omega)
    (h_y := y.isLt.trans_le (by decide))
    (h_z := by omega)
    (h_imm := bank.isLt.trans_le (by decide))
    (h_qn := q.isLt.trans_le (by decide))
    (h_fn := by omega)))

theorem dec_mld (h : Hdr) (x : Fin 32) (bank : Fin 4) (hr : Fin 16) (ty : Ty) (q : Fin 4) (cl : Clauses) (hw : (Instr.mld h x bank hr ty q cl).wf = true) {w : Nat}
    (F : FieldsE w 0x85 h x 0 0 (bank + 4 * hr + 64 * tyCode ty) q cl 0) : decodeNat false w = .instr (.mld h x bank hr ty q cl) := by
  rw [F.decode (hdr_ok hw rfl)]
  have co : cl.ok = true := clauses_ok hw
  have wt : (tyMld.contains ty && x.val < 31 : Bool) = true := form_ok hw
  simp only [MacArg.ok, Bool.and_eq_true, Bool.or_eq_true, beq_iff_eq, bne_iff_ne, ne_eq, Bool.not_eq_true', decide_eq_true_eq] at wt
  have wt2 : ¬ 32 < x.val + 2 := by omega
  have s_21_2 : field w 21 2 = bank := by
    have := x.isLt; have := bank.isLt; have := hr.isLt; have := tyCode_lt ty; have := q.isLt; rw [show field w 21 2 = _ from field_sub F.imm_ 0 2 (by decide)]; omega
  have s_23_4 : field w 23 4 = hr := by
    have := x.isLt; have := bank.isLt; have := hr.isLt; have := tyCode_lt ty; have := q.isLt; rw [show field w 23 4 = _ from field_sub F.imm_ 2 4 (by decide)]; omega
  have s_27_5 : field w 27 5 = tyCode ty := by
    have := x.isLt; have := bank.isLt; have := hr.isLt; have := tyCode_lt ty; have := q.isLt; rw [show field w 27 5 = _ from field_sub F.imm_ 6 5 (by decide)]; omega
  have s_32_1 : field w 32 1 = 0 := by
    have := x.isLt; have := bank.isLt; have := hr.isLt; have := tyCode_lt ty; have := q.isLt; rw [show field w 32 1 = _ from field_sub F.imm_ 11 1 (by decide)]; omega
  show decMat 0x85 w h = _
  simp [decMat, form, unused, regf, resv, eRes, F.fn_, F.x_, F.y_, F.z_, F.qn_, F.clauses, F.res co, f5_of x F.x_, s_21_2, s_23_4, s_27_5, s_32_1, tyBad_code wt.1, wt2, tyGet_code]

theorem mld (h : Hdr) (x : Fin 32) (bank : Fin 4) (hr : Fin 16) (ty : Ty) (q : Fin 4) (cl : Clauses) : Statement (.mld h x bank hr ty q cl) := fun hw =>
  back rfl (dec_mld h x bank hr ty q cl hw (fmtE_fields (by decide)
    (h_x := x.isLt.trans_le (by decide))
    (h_y := by omega)
    (h_z := by omega)
    (h_imm := by have := x.isLt; have := bank.isLt; have := hr.isLt; have := tyCode_lt ty; have := q.isLt; omega)
    (h_qn := q.isLt.trans_le (by decide))
    (h_fn := by omega)))

theorem dec_mst (h : Hdr) (x : Fin 32) (bank : Fin 4) (hr : Fin 16) (ty : Ty) (q : Fin 4) (cl : Clauses) (hw : (Instr.mst h x bank hr ty q cl).wf = true) {w : Nat}
    (F : FieldsE w 0x85 h x 0 0 (bank + 4 * hr + 64 * tyCode ty) q cl 1) : decodeNat false w = .instr (.mst h x bank hr ty q cl) := by
  rw [F.decode (hdr_ok hw rfl)]
  have co : cl.ok = true := clauses_ok hw
  have wt : (tyMst.contains ty && x.val < 31 : Bool) = true := form_ok hw
  simp only [MacArg.ok, Bool.and_eq_true, Bool.or_eq_true, beq_iff_eq, bne_iff_ne, ne_eq, Bool.not_eq_true', decide_eq_true_eq] at wt
  have wt2 : ¬ 32 < x.val + 2 := by omega
  have s_21_2 : field w 21 2 = bank := by
    have := x.isLt; have := bank.isLt; have := hr.isLt; have := tyCode_lt ty; have := q.isLt; rw [show field w 21 2 = _ from field_sub F.imm_ 0 2 (by decide)]; omega
  have s_23_4 : field w 23 4 = hr := by
    have := x.isLt; have := bank.isLt; have := hr.isLt; have := tyCode_lt ty; have := q.isLt; rw [show field w 23 4 = _ from field_sub F.imm_ 2 4 (by decide)]; omega
  have s_27_5 : field w 27 5 = tyCode ty := by
    have := x.isLt; have := bank.isLt; have := hr.isLt; have := tyCode_lt ty; have := q.isLt; rw [show field w 27 5 = _ from field_sub F.imm_ 6 5 (by decide)]; omega
  have s_32_1 : field w 32 1 = 0 := by
    have := x.isLt; have := bank.isLt; have := hr.isLt; have := tyCode_lt ty; have := q.isLt; rw [show field w 32 1 = _ from field_sub F.imm_ 11 1 (by decide)]; omega
  show decMat 0x85 w h = _
  simp [decMat, form, unused, regf, resv, eRes, F.fn_, F.x_, F.y_, F.z_, F.qn_, F.clauses, F.res co, f5_of x F.x_, s_21_2, s_23_4, s_27_5, s_32_1, tyBad_code wt.1, wt2, tyGet_code]

theorem mst (h : Hdr) (x : Fin 32) (bank : Fin 4) (hr : Fin 16) (ty : Ty) (q : Fin 4) (cl : Clauses) : Statement (.mst h x bank hr ty q cl) := fun hw =>
  back rfl (dec_mst h x bank hr ty q cl hw (fmtE_fields (by decide)
    (h_x := x.isLt.trans_le (by decide))
    (h_y := by omega)
    (h_z := by omega)
    (h_imm := by have := x.isLt; have := bank.isLt; have := hr.isLt; have := tyCode_lt ty; have := q.isLt; omega)
    (h_qn := q.isLt.trans_le (by decide))
    (h_fn := by omega)))

theorem dec_mrow (h : Hdr) (x : Fin 32) (y : Fin 32) (bank : Fin 4) (ty : Ty) (half : Bool) (q : Fin 4) (cl : Clauses) (hw : (Instr.mrow h x y bank ty half q cl).wf = true) {w : Nat}
    (F : FieldsE w 0x85 h x y 0 (bank + 4 * tyCode ty + 128 * half.toNat) q cl 2) : decodeNat false w = .instr (.mrow h x y bank ty half q cl) := by
  rw [F.decode (hdr_ok hw rfl)]
  have co : cl.ok = true := clauses_ok hw
  have wt : (tyMrow.contains ty && (!half || ty == .acc) : Bool) = true := form_ok hw
  simp only [MacArg.ok, Bool.and_eq_true, Bool.or_eq_true, beq_iff_eq, bne_iff_ne, ne_eq, Bool.not_eq_true', decide_eq_true_eq] at wt
  have ne : (half && tyCode ty != 24) = false := by
    rcases wt.2 with e | e
    · rw [e]; rfl
    · rw [e]; simp [tyCode]
  have s_21_2 : field w 21 2 = bank := by
    have := x.isLt; have := y.isLt; have := bank.isLt; have := tyCode_lt ty; have := toNat_lt2 half; have := q.isLt; rw [show field w 21 2 = _ from field_sub F.imm_ 0 2 (by decide)]; omega
  have s_23_5 : field w 23 5 = tyCode ty := by
    have := x.isLt; have := y.isLt; have := bank.isLt; have := tyCode_lt ty; have := toNat_lt2 half; have := q.isLt; rw [show field w 23 5 = _ from field_sub F.imm_ 2 5 (by decide)]; omega
  have s_28_1 : field w 28 1 = half.toNat := by
    have := x.isLt; have := y.isLt; have := bank.isLt; have := tyCode_lt ty; have := toNat_lt2 half; have := q.isLt; rw [show field w 28 1 = _ from field_sub F.imm_ 7 1 (by decide)]; omega
  have s_29_4 : field w 29 4 = 0 := by
    have := x.isLt; have := y.isLt; have := bank.isLt; have := tyCode_lt ty; have := toNat_lt2 half; have := q.isLt; rw [show field w 29 4 = _ from field_sub F.imm_ 8 4 (by decide)]; omega
  show decMat 0x85 w h = _
  simp [decMat, form, unused, regf, resv, eRes, F.fn_, F.x_, F.y_, F.z_, F.qn_, F.clauses, F.res co, f5_of x F.x_, f5_of y F.y_, s_21_2, s_23_5, s_28_1, s_29_4, tyBad_code wt.1, ne, tyGet_code]

theorem mrow (h : Hdr) (x : Fin 32) (y : Fin 32) (bank : Fin 4) (ty : Ty) (half : Bool) (q : Fin 4) (cl : Clauses) : Statement (.mrow h x y bank ty half q cl) := fun hw =>
  back rfl (dec_mrow h x y bank ty half q cl hw (fmtE_fields (by decide)
    (h_x := x.isLt.trans_le (by decide))
    (h_y := y.isLt.trans_le (by decide))
    (h_z := by omega)
    (h_imm := by have := x.isLt; have := y.isLt; have := bank.isLt; have := tyCode_lt ty; have := toNat_lt2 half; have := q.isLt; omega)
    (h_qn := q.isLt.trans_le (by decide))
    (h_fn := by omega)))

theorem dec_msort (h : Hdr) (x : Fin 32) (y : Fin 32) (q : Fin 4) (cl : Clauses) (hw : (Instr.msort h x y q cl).wf = true) {w : Nat}
    (F : FieldsE w 0x87 h x y 0 0 q cl 0) : decodeNat false w = .instr (.msort h x y q cl) := by
  rw [F.decode (hdr_ok hw rfl)]
  have co : cl.ok = true := clauses_ok hw
  have wt : (x != y : Bool) = true := form_ok hw
  simp only [MacArg.ok, Bool.and_eq_true, Bool.or_eq_true, beq_iff_eq, bne_iff_ne, ne_eq, Bool.not_eq_true', decide_eq_true_eq] at wt
  have ne : (x.val == y.val) = false := by
    simp only [beq_eq_false_iff_ne, ne_eq]
    exact fun e => wt (Fin.ext e)
  show decMat 0x87 w h = _
  simp [decMat, form, unused, regf, resv, eRes, F.fn_, F.x_, F.y_, F.z_, F.imm_, F.qn_, F.clauses, F.res co, f5_of x F.x_, f5_of y F.y_, ne]

theorem msort (h : Hdr) (x : Fin 32) (y : Fin 32) (q : Fin 4) (cl : Clauses) : Statement (.msort h x y q cl) := fun hw =>
  back rfl (dec_msort h x y q cl hw (fmtE_fields (by decide)
    (h_x := x.isLt.trans_le (by decide))
    (h_y := y.isLt.trans_le (by decide))
    (h_z := by omega)
    (h_imm := by omega)
    (h_qn := q.isLt.trans_le (by decide))
    (h_fn := by omega)))

theorem dec_mtopk (h : Hdr) (x : Fin 32) (y : Fin 32) (k1 : Fin 64) (clr : Bool) (rd : Bool) (q : Fin 4) (cl : Clauses) (hw : (Instr.mtopk h x y k1 clr rd q cl).wf = true) {w : Nat}
    (F : FieldsE w 0x87 h x y 0 (k1 + 64 * clr.toNat + 128 * rd.toNat) q cl 1) : decodeNat false w = .instr (.mtopk h x y k1 clr rd q cl) := by
  rw [F.decode (hdr_ok hw rfl)]
  have co : cl.ok = true := clauses_ok hw
  have wt : (x != y : Bool) = true := form_ok hw
  simp only [MacArg.ok, Bool.and_eq_true, Bool.or_eq_true, beq_iff_eq, bne_iff_ne, ne_eq, Bool.not_eq_true', decide_eq_true_eq] at wt
  have ne : (x.val == y.val) = false := by
    simp only [beq_eq_false_iff_ne, ne_eq]
    exact fun e => wt (Fin.ext e)
  have s_21_6 : field w 21 6 = k1 := by
    have := x.isLt; have := y.isLt; have := k1.isLt; have := toNat_lt2 clr; have := toNat_lt2 rd; have := q.isLt; rw [show field w 21 6 = _ from field_sub F.imm_ 0 6 (by decide)]; omega
  have s_27_1 : field w 27 1 = clr.toNat := by
    have := x.isLt; have := y.isLt; have := k1.isLt; have := toNat_lt2 clr; have := toNat_lt2 rd; have := q.isLt; rw [show field w 27 1 = _ from field_sub F.imm_ 6 1 (by decide)]; omega
  have s_28_1 : field w 28 1 = rd.toNat := by
    have := x.isLt; have := y.isLt; have := k1.isLt; have := toNat_lt2 clr; have := toNat_lt2 rd; have := q.isLt; rw [show field w 28 1 = _ from field_sub F.imm_ 7 1 (by decide)]; omega
  have s_29_4 : field w 29 4 = 0 := by
    have := x.isLt; have := y.isLt; have := k1.isLt; have := toNat_lt2 clr; have := toNat_lt2 rd; have := q.isLt; rw [show field w 29 4 = _ from field_sub F.imm_ 8 4 (by decide)]; omega
  show decMat 0x87 w h = _
  simp [decMat, form, unused, regf, resv, eRes, F.fn_, F.x_, F.y_, F.z_, F.qn_, F.clauses, F.res co, f5_of x F.x_, f5_of y F.y_, s_21_6, s_27_1, s_28_1, s_29_4, ne]

theorem mtopk (h : Hdr) (x : Fin 32) (y : Fin 32) (k1 : Fin 64) (clr : Bool) (rd : Bool) (q : Fin 4) (cl : Clauses) : Statement (.mtopk h x y k1 clr rd q cl) := fun hw =>
  back rfl (dec_mtopk h x y k1 clr rd q cl hw (fmtE_fields (by decide)
    (h_x := x.isLt.trans_le (by decide))
    (h_y := y.isLt.trans_le (by decide))
    (h_z := by omega)
    (h_imm := by have := x.isLt; have := y.isLt; have := k1.isLt; have := toNat_lt2 clr; have := toNat_lt2 rd; have := q.isLt; omega)
    (h_qn := q.isLt.trans_le (by decide))
    (h_fn := by omega)))

theorem dec_mstat (h : Hdr) (d : Fin 32) (sel : Fin 4) (hw : (Instr.mstat h d sel).wf = true) {w : Nat}
    (F : FieldsX w 0x88 h d 0 0 sel 0) : decodeNat false w = .instr (.mstat h d sel) := by
  rw [F.decode (hdr_ok hw rfl)]
  have s_7_2 : field w 7 2 = sel := by
    have := d.isLt; have := sel.isLt; rw [show field w 7 2 = _ from field_sub F.imm_ 0 2 (by decide)]; omega
  have s_9_18 : field w 9 18 = 0 := by
    have := d.isLt; have := sel.isLt; rw [show field w 9 18 = _ from field_sub F.imm_ 2 18 (by decide)]; omega
  show decMstat w h = _
  simp [decMstat, form, unused, regf, resv, xform, F.fn_, F.d_, F.a_, F.sys_, f5_of d F.d_, s_7_2, s_9_18]

theorem mstat (h : Hdr) (d : Fin 32) (sel : Fin 4) : Statement (.mstat h d sel) := fun hw =>
  back rfl (dec_mstat h d sel hw (fmtX_fields (by decide)
    (h_d := d.isLt.trans_le (by decide))
    (h_a := by omega)
    (h_sys := by omega)
    (h_imm := sel.isLt.trans_le (by decide))
    (h_fn := by omega)))

theorem dec_ld (h : Hdr) (sx : Bool) (d : Fin 32) (sz : Fin 4) (m : AddrArg) (at_ : MemAttr) (hw : (Instr.ld h sx d sz m at_).wf = true) {w : Nat}
    (F : FieldsM w 0xA0 h d m sz at_.scope at_.ord at_.cp sx.toNat) : decodeNat false w = .instr (.ld h sx d sz m at_) := by
  have ok := hdr_ok hw rfl
  have wt : (at_.plainOk 1 : Bool) = true := form_ok hw
  rw [F.decode ok]
  have e : decOp false 0xA0 w h = mform 0xA0 w 1 [0, 1, 2, 3] [0, 1] [0, 1, 2, 3] false
      (.ld h sx (f5 w 45) (Fin.ofNat 4 (field w 10 3)) (addrOf w) (attrOf w)) := by
    cases sx <;> simp [decOp, decLdSt, F.fn_]
  rw [e, F.mform_of (.inr ⟨by decide, by have := d.isLt; omega⟩) (sz4 _) (show [0, 1].contains _ = true from plain_ord wt) (sz4 _) (scope_le _) (.inr (plain_scope wt))]
  simp [-Fin.ofNat_eq_cast, F.addr, F.sz_, F.sc_, F.od_, F.cp_, ofNat_4, ofNat_4v, ofNat_5, ofNat_8, b8_eq, bit_eq, f5_of d F.d_, F.attr]

theorem ld (h : Hdr) (sx : Bool) (d : Fin 32) (sz : Fin 4) (m : AddrArg) (at_ : MemAttr) : Statement (.ld h sx d sz m at_) := fun hw =>
  back rfl (dec_ld h sx d sz m at_ hw (fmtM_fields (by decide)
    (d.isLt.trans_le (by decide))
    (sz.isLt.trans_le (by decide))
    (at_.scope.isLt.trans_le (by decide))
    (at_.ord.isLt.trans_le (by decide))
    (at_.cp.isLt.trans_le (by decide))
    ((toNat_lt2 sx).trans_le (by decide))))

theorem dec_st (h : Hdr) (d : Fin 32) (sz : Fin 4) (m : AddrArg) (at_ : MemAttr) (hw : (Instr.st h d sz m at_).wf = true) {w : Nat}
    (F : FieldsM w 0xA1 h d m sz at_.scope at_.ord at_.cp 0) : decodeNat false w = .instr (.st h d sz m at_) := by
  have ok := hdr_ok hw rfl
  have wt : (at_.plainOk 2 : Bool) = true := form_ok hw
  rw [F.decode ok]
  have e : decOp false 0xA1 w h = mform 0xA1 w 1 [0, 1, 2, 3] [0, 2] [0, 1, 2, 3] false
      (.st h (f5 w 45) (Fin.ofNat 4 (field w 10 3)) (addrOf w) (attrOf w)) := by
    simp [decOp, decLdSt, F.fn_]
  rw [e, F.mform_of (.inr ⟨by decide, by have := d.isLt; omega⟩) (sz4 _) (show [0, 2].contains _ = true from plain_ord wt) (sz4 _) (scope_le _) (.inr (plain_scope wt))]
  simp [-Fin.ofNat_eq_cast, F.addr, F.sz_, F.sc_, F.od_, F.cp_, ofNat_4, ofNat_4v, ofNat_5, ofNat_8, b8_eq, bit_eq, f5_of d F.d_, F.attr]

theorem st (h : Hdr) (d : Fin 32) (sz : Fin 4) (m : AddrArg) (at_ : MemAttr) : Statement (.st h d sz m at_) := fun hw =>
  back rfl (dec_st h d sz m at_ hw (fmtM_fields (by decide)
    (d.isLt.trans_le (by decide))
    (sz.isLt.trans_le (by decide))
    (at_.scope.isLt.trans_le (by decide))
    (at_.ord.isLt.trans_le (by decide))
    (at_.cp.isLt.trans_le (by decide))
    (by decide)))

theorem dec_lds (h : Hdr) (sx : Bool) (d : Fin 32) (sz : Fin 4) (m : AddrArg) (hw : (Instr.lds h sx d sz m).wf = true) {w : Nat}
    (F : FieldsM w 0xA4 h d m sz 0 0 0 sx.toNat) : decodeNat false w = .instr (.lds h sx d sz m) := by
  have ok := hdr_ok hw rfl
  rw [F.decode ok]
  have e : decOp false 0xA4 w h = mform 0xA4 w 1 [0, 1, 2, 3] [0] [0] false
      (.lds h sx (f5 w 45) (Fin.ofNat 4 (field w 10 3)) (addrOf w)) := by
    cases sx <;> simp [decOp, decScr, F.fn_]
  rw [e, F.mform_of (.inr ⟨by decide, by have := d.isLt; omega⟩) (sz4 _) (rfl) (rfl) (by decide) (.inr (.inr rfl))]
  simp [-Fin.ofNat_eq_cast, F.addr, F.sz_, F.sc_, F.od_, F.cp_, ofNat_4, ofNat_4v, ofNat_5, ofNat_8, b8_eq, bit_eq, f5_of d F.d_]

theorem lds (h : Hdr) (sx : Bool) (d : Fin 32) (sz : Fin 4) (m : AddrArg) : Statement (.lds h sx d sz m) := fun hw =>
  back rfl (dec_lds h sx d sz m hw (fmtM_fields (by decide)
    (d.isLt.trans_le (by decide))
    (sz.isLt.trans_le (by decide))
    (by decide)
    (by decide)
    (by decide)
    ((toNat_lt2 sx).trans_le (by decide))))

theorem dec_sts (h : Hdr) (d : Fin 32) (sz : Fin 4) (m : AddrArg) (hw : (Instr.sts h d sz m).wf = true) {w : Nat}
    (F : FieldsM w 0xA4 h d m sz 0 0 0 2) : decodeNat false w = .instr (.sts h d sz m) := by
  have ok := hdr_ok hw rfl
  rw [F.decode ok]
  have e : decOp false 0xA4 w h = mform 0xA4 w 1 [0, 1, 2, 3] [0] [0] false
      (.sts h (f5 w 45) (Fin.ofNat 4 (field w 10 3)) (addrOf w)) := by
    simp [decOp, decScr, F.fn_]
  rw [e, F.mform_of (.inr ⟨by decide, by have := d.isLt; omega⟩) (sz4 _) (rfl) (rfl) (by decide) (.inr (.inr rfl))]
  simp [-Fin.ofNat_eq_cast, F.addr, F.sz_, F.sc_, F.od_, F.cp_, ofNat_4, ofNat_4v, ofNat_5, ofNat_8, b8_eq, bit_eq, f5_of d F.d_]

theorem sts (h : Hdr) (d : Fin 32) (sz : Fin 4) (m : AddrArg) : Statement (.sts h d sz m) := fun hw =>
  back rfl (dec_sts h d sz m hw (fmtM_fields (by decide)
    (d.isLt.trans_le (by decide))
    (sz.isLt.trans_le (by decide))
    (by decide)
    (by decide)
    (by decide)
    (by decide)))

theorem dec_vld (h : Hdr) (d : Fin 32) (sz : Fin 4) (m : AddrArg) (at_ : MemAttr) (hw : (Instr.vld h d sz m at_).wf = true) {w : Nat}
    (F : FieldsM w 0xA2 h d m (sz.val + 4) at_.scope at_.ord at_.cp 0) : decodeNat false w = .instr (.vld h d sz m at_) := by
  have ok := hdr_ok hw rfl
  have wt : (at_.plainOk 1 : Bool) = true := form_ok hw
  rw [F.decode ok]
  have e : decOp false 0xA2 w h = mform 0xA2 w 1 [4, 5, 6, 7] [0, 1] [0, 1, 2, 3] false
      (.vld h (f5 w 45) (Fin.ofNat 4 (field w 10 3)) (addrOf w) (attrOf w)) := by
    simp [decOp, decLdSt, F.fn_]
  rw [e, F.mform_of (.inr ⟨by decide, by have := d.isLt; omega⟩) (sz4v _) (show [0, 1].contains _ = true from plain_ord wt) (sz4 _) (scope_le _) (.inr (plain_scope wt))]
  simp [-Fin.ofNat_eq_cast, F.addr, F.sz_, F.sc_, F.od_, F.cp_, ofNat_4, ofNat_4v, ofNat_5, ofNat_8, b8_eq, bit_eq, f5_of d F.d_, F.attr]

theorem vld (h : Hdr) (d : Fin 32) (sz : Fin 4) (m : AddrArg) (at_ : MemAttr) : Statement (.vld h d sz m at_) := fun hw =>
  back rfl (dec_vld h d sz m at_ hw (fmtM_fields (by decide)
    (d.isLt.trans_le (by decide))
    (by have := d.isLt; have := sz.isLt; have := at_.scope.isLt; have := at_.ord.isLt; have := at_.cp.isLt; omega)
    (at_.scope.isLt.trans_le (by decide))
    (at_.ord.isLt.trans_le (by decide))
    (at_.cp.isLt.trans_le (by decide))
    (by decide)))

theorem dec_vst (h : Hdr) (d : Fin 32) (sz : Fin 4) (m : AddrArg) (at_ : MemAttr) (hw : (Instr.vst h d sz m at_).wf = true) {w : Nat}
    (F : FieldsM w 0xA3 h d m (sz.val + 4) at_.scope at_.ord at_.cp 0) : decodeNat false w = .instr (.vst h d sz m at_) := by
  have ok := hdr_ok hw rfl
  have wt : (at_.plainOk 2 : Bool) = true := form_ok hw
  rw [F.decode ok]
  have e : decOp false 0xA3 w h = mform 0xA3 w 1 [4, 5, 6, 7] [0, 2] [0, 1, 2, 3] false
      (.vst h (f5 w 45) (Fin.ofNat 4 (field w 10 3)) (addrOf w) (attrOf w)) := by
    simp [decOp, decLdSt, F.fn_]
  rw [e, F.mform_of (.inr ⟨by decide, by have := d.isLt; omega⟩) (sz4v _) (show [0, 2].contains _ = true from plain_ord wt) (sz4 _) (scope_le _) (.inr (plain_scope wt))]
  simp [-Fin.ofNat_eq_cast, F.addr, F.sz_, F.sc_, F.od_, F.cp_, ofNat_4, ofNat_4v, ofNat_5, ofNat_8, b8_eq, bit_eq, f5_of d F.d_, F.attr]

theorem vst (h : Hdr) (d : Fin 32) (sz : Fin 4) (m : AddrArg) (at_ : MemAttr) : Statement (.vst h d sz m at_) := fun hw =>
  back rfl (dec_vst h d sz m at_ hw (fmtM_fields (by decide)
    (d.isLt.trans_le (by decide))
    (by have := d.isLt; have := sz.isLt; have := at_.scope.isLt; have := at_.ord.isLt; have := at_.cp.isLt; omega)
    (at_.scope.isLt.trans_le (by decide))
    (at_.ord.isLt.trans_le (by decide))
    (at_.cp.isLt.trans_le (by decide))
    (by decide)))

theorem dec_vlds (h : Hdr) (d : Fin 32) (sz : Fin 4) (m : AddrArg) (hw : (Instr.vlds h d sz m).wf = true) {w : Nat}
    (F : FieldsM w 0xA4 h d m (sz.val + 4) 0 0 0 3) : decodeNat false w = .instr (.vlds h d sz m) := by
  have ok := hdr_ok hw rfl
  rw [F.decode ok]
  have e : decOp false 0xA4 w h = mform 0xA4 w 1 [4, 5, 6, 7] [0] [0] false
      (.vlds h (f5 w 45) (Fin.ofNat 4 (field w 10 3)) (addrOf w)) := by
    simp [decOp, decScr, F.fn_]
  rw [e, F.mform_of (.inr ⟨by decide, by have := d.isLt; omega⟩) (sz4v _) (rfl) (rfl) (by decide) (.inr (.inr rfl))]
  simp [-Fin.ofNat_eq_cast, F.addr, F.sz_, F.sc_, F.od_, F.cp_, ofNat_4, ofNat_4v, ofNat_5, ofNat_8, b8_eq, bit_eq, f5_of d F.d_]

theorem vlds (h : Hdr) (d : Fin 32) (sz : Fin 4) (m : AddrArg) : Statement (.vlds h d sz m) := fun hw =>
  back rfl (dec_vlds h d sz m hw (fmtM_fields (by decide)
    (d.isLt.trans_le (by decide))
    (by have := d.isLt; have := sz.isLt; omega)
    (by decide)
    (by decide)
    (by decide)
    (by decide)))

theorem dec_vsts (h : Hdr) (d : Fin 32) (sz : Fin 4) (m : AddrArg) (hw : (Instr.vsts h d sz m).wf = true) {w : Nat}
    (F : FieldsM w 0xA4 h d m (sz.val + 4) 0 0 0 4) : decodeNat false w = .instr (.vsts h d sz m) := by
  have ok := hdr_ok hw rfl
  rw [F.decode ok]
  have e : decOp false 0xA4 w h = mform 0xA4 w 1 [4, 5, 6, 7] [0] [0] false
      (.vsts h (f5 w 45) (Fin.ofNat 4 (field w 10 3)) (addrOf w)) := by
    simp [decOp, decScr, F.fn_]
  rw [e, F.mform_of (.inr ⟨by decide, by have := d.isLt; omega⟩) (sz4v _) (rfl) (rfl) (by decide) (.inr (.inr rfl))]
  simp [-Fin.ofNat_eq_cast, F.addr, F.sz_, F.sc_, F.od_, F.cp_, ofNat_4, ofNat_4v, ofNat_5, ofNat_8, b8_eq, bit_eq, f5_of d F.d_]

theorem vsts (h : Hdr) (d : Fin 32) (sz : Fin 4) (m : AddrArg) : Statement (.vsts h d sz m) := fun hw =>
  back rfl (dec_vsts h d sz m hw (fmtM_fields (by decide)
    (d.isLt.trans_le (by decide))
    (by have := d.isLt; have := sz.isLt; omega)
    (by decide)
    (by decide)
    (by decide)
    (by decide)))

theorem dec_vgath (h : Hdr) (d : Fin 32) (b8 : Bool) (m : AddrArg) (cp : Fin 4) (hw : (Instr.vgath h d b8 m cp).wf = true) {w : Nat}
    (F : FieldsM w 0xA5 h d m (2 + b8.toNat) 0 0 cp 0) : decodeNat false w = .instr (.vgath h d b8 m cp) := by
  have ok := hdr_ok hw rfl
  rw [F.decode ok]
  have e : decOp false 0xA5 w h = mform 0xA5 w 1 [2, 3] [0] [0, 1, 2, 3] false
      (.vgath h (f5 w 45) (field w 10 3 == 3) (addrOf w) (Fin.ofNat 4 (field w 3 2))) := by
    simp [decOp, decScr, F.fn_]
  rw [e, F.mform_of (.inr ⟨by decide, by have := d.isLt; omega⟩) (szb _) (rfl) (sz4 _) (by decide) (.inr (.inr rfl))]
  simp [-Fin.ofNat_eq_cast, F.addr, F.sz_, F.sc_, F.od_, F.cp_, ofNat_4, ofNat_4v, ofNat_5, ofNat_8, b8_eq, bit_eq, f5_of d F.d_]

theorem vgath (h : Hdr) (d : Fin 32) (b8 : Bool) (m : AddrArg) (cp : Fin 4) : Statement (.vgath h d b8 m cp) := fun hw =>
  back rfl (dec_vgath h d b8 m cp hw (fmtM_fields (by decide)
    (d.isLt.trans_le (by decide))
    (by have := d.isLt; have := toNat_lt2 b8; have := cp.isLt; omega)
    (by decide)
    (by decide)
    (cp.isLt.trans_le (by decide))
    (by decide)))

theorem dec_vscat (h : Hdr) (d : Fin 32) (b8 : Bool) (m : AddrArg) (cp : Fin 4) (hw : (Instr.vscat h d b8 m cp).wf = true) {w : Nat}
    (F : FieldsM w 0xA5 h d m (2 + b8.toNat) 0 0 cp 1) : decodeNat false w = .instr (.vscat h d b8 m cp) := by
  have ok := hdr_ok hw rfl
  have wt : (d.val < 31 : Bool) = true := form_ok hw
  rw [F.decode ok]
  have e : decOp false 0xA5 w h = mform 0xA5 w 2 [2, 3] [0] [0, 1, 2, 3] false
      (.vscat h (f5 w 45) (field w 10 3 == 3) (addrOf w) (Fin.ofNat 4 (field w 3 2))) := by
    simp [decOp, decScr, F.fn_]
  rw [e, F.mform_of (.inr ⟨by decide, by simp at wt; omega⟩) (szb _) (rfl) (sz4 _) (by decide) (.inr (.inr rfl))]
  simp [-Fin.ofNat_eq_cast, F.addr, F.sz_, F.sc_, F.od_, F.cp_, ofNat_4, ofNat_4v, ofNat_5, ofNat_8, b8_eq, bit_eq, f5_of d F.d_]

theorem vscat (h : Hdr) (d : Fin 32) (b8 : Bool) (m : AddrArg) (cp : Fin 4) : Statement (.vscat h d b8 m cp) := fun hw =>
  back rfl (dec_vscat h d b8 m cp hw (fmtM_fields (by decide)
    (d.isLt.trans_le (by decide))
    (by have := d.isLt; have := toNat_lt2 b8; have := cp.isLt; omega)
    (by decide)
    (by decide)
    (cp.isLt.trans_le (by decide))
    (by decide)))

theorem dec_ldc (h : Hdr) (f : LdcForm) (d : Fin 32) (m : AddrArg) (hw : (Instr.ldc h f d m).wf = true) {w : Nat}
    (F : FieldsM w 0xA6 h d m (ldcEnc f).2 0 0 0 (ldcEnc f).1) : decodeNat false w = .instr (.ldc h f d m) := by
  have ok := hdr_ok hw rfl
  rw [F.decode ok]
  cases f with
  | scalar sx sz =>
    have e : decOp false 0xA6 w h = mform 0xA6 w 1 [0, 1, 2, 3] [0] [0] false
        (.ldc h (.scalar sx (Fin.ofNat 4 (field w 10 3))) (f5 w 45) (addrOf w)) := by
      cases sx <;> simp [decOp, decScr, F.fn_, ldcEnc]
    rw [e, F.mform_of (.inr ⟨by decide, by have := d.isLt; omega⟩) (sz4 sz) rfl rfl (by decide) (.inr (.inr rfl))]
    simp [-Fin.ofNat_eq_cast, F.addr, F.sz_, ldcEnc, ofNat_4, f5_of d F.d_]
  | vector sz =>
    have e : decOp false 0xA6 w h = mform 0xA6 w 1 [4, 5, 6, 7] [0] [0] false
        (.ldc h (.vector (Fin.ofNat 4 (field w 10 3))) (f5 w 45) (addrOf w)) := by
      simp [decOp, decScr, F.fn_, ldcEnc]
    rw [e, F.mform_of (.inr ⟨by decide, by have := d.isLt; omega⟩) (sz4v sz) rfl rfl (by decide) (.inr (.inr rfl))]
    simp [-Fin.ofNat_eq_cast, F.addr, F.sz_, ldcEnc, ofNat_4v, f5_of d F.d_]

theorem ldc (h : Hdr) (f : LdcForm) (d : Fin 32) (m : AddrArg) : Statement (.ldc h f d m) := fun hw =>
  back rfl (dec_ldc h f d m hw (fmtM_fields (by decide) (by have := d.isLt; omega)
    (by rcases f with ⟨sx, sz⟩ | sz <;> simp only [ldcEnc] <;> omega) (by omega) (by omega) (by omega)
    (by rcases f with ⟨sx, sz⟩ | sz
        · cases sx <;> simp [ldcEnc]
        · simp [ldcEnc])))

theorem dec_pref (h : Hdr) (sz : Fin 8) (m : AddrArg) (cp : Fin 4) (hw : (Instr.pref h sz m cp).wf = true) {w : Nat}
    (F : FieldsM w 0xA7 h 0 m sz 0 0 cp 0) : decodeNat false w = .instr (.pref h sz m cp) := by
  have ok := hdr_ok hw rfl
  rw [F.decode ok]
  have e : decOp false 0xA7 w h = mform 0xA7 w 0 [0, 1, 2, 3, 4, 5, 6, 7] [0] [0, 1, 2, 3] false
      (.pref h (Fin.ofNat 8 (field w 10 3)) (addrOf w) (Fin.ofNat 4 (field w 3 2))) := by
    simp [decOp, decScr, F.fn_]
  rw [e, F.mform_of (.inl ⟨rfl, rfl⟩) (sz8 _) (rfl) (sz4 _) (by decide) (.inr (.inr rfl))]
  simp [-Fin.ofNat_eq_cast, F.addr, F.sz_, F.sc_, F.od_, F.cp_, ofNat_4, ofNat_4v, ofNat_5, ofNat_8, b8_eq, bit_eq]

theorem pref (h : Hdr) (sz : Fin 8) (m : AddrArg) (cp : Fin 4) : Statement (.pref h sz m cp) := fun hw =>
  back rfl (dec_pref h sz m cp hw (fmtM_fields (by decide)
    (by decide)
    (sz.isLt.trans_le (by decide))
    (by decide)
    (by decide)
    (cp.isLt.trans_le (by decide))
    (by decide)))

theorem dec_prefConst (h : Hdr) (sz : Fin 8) (m : AddrArg) (hw : (Instr.prefConst h sz m).wf = true) {w : Nat}
    (F : FieldsM w 0xA7 h 0 m sz 0 0 0 1) : decodeNat false w = .instr (.prefConst h sz m) := by
  have ok := hdr_ok hw rfl
  rw [F.decode ok]
  have e : decOp false 0xA7 w h = mform 0xA7 w 0 [0, 1, 2, 3, 4, 5, 6, 7] [0] [0] false
      (.prefConst h (Fin.ofNat 8 (field w 10 3)) (addrOf w)) := by
    simp [decOp, decScr, F.fn_]
  rw [e, F.mform_of (.inl ⟨rfl, rfl⟩) (sz8 _) (rfl) (rfl) (by decide) (.inr (.inr rfl))]
  simp [-Fin.ofNat_eq_cast, F.addr, F.sz_, F.sc_, F.od_, F.cp_, ofNat_4, ofNat_4v, ofNat_5, ofNat_8, b8_eq, bit_eq]

theorem prefConst (h : Hdr) (sz : Fin 8) (m : AddrArg) : Statement (.prefConst h sz m) := fun hw =>
  back rfl (dec_prefConst h sz m hw (fmtM_fields (by decide)
    (by decide)
    (sz.isLt.trans_le (by decide))
    (by decide)
    (by decide)
    (by decide)
    (by decide)))

theorem dec_atom (h : Hdr) (op : AtomOp) (d : Fin 32) (sz : Fin 4) (m : AddrArg) (at_ : MemAttr) (hw : (Instr.atom h op d sz m at_).wf = true) {w : Nat}
    (F : FieldsM w 0xA8 h d m sz at_.scope at_.ord at_.cp (atomCode op)) : decodeNat false w = .instr (.atom h op d sz m at_) := by
  have ok := hdr_ok hw rfl
  have wt : (atomSzOk op sz && at_.rmwOk : Bool) = true := form_ok hw
  simp only [Bool.and_eq_true] at wt
  rw [F.decode ok]
  have e : decOp false 0xA8 w h = mform 0xA8 w 1 (atomSzs (atomCode op)) [0, 1, 2, 3] [0, 1, 2] true
      (.atom h op (f5 w 45) (Fin.ofNat 4 (field w 10 3)) (addrOf w) (attrOf w)) := by
    simp [decOp, decAtom, F.fn_, atomOf_code]
  rw [e, F.mform_of (.inr ⟨by decide, by have := d.isLt; omega⟩) (atom_sz wt.1) (sz4 _) (rmw_cp wt.2) (scope_le _) (.inl rfl)]
  simp [-Fin.ofNat_eq_cast, F.addr, F.sz_, F.sc_, F.od_, F.cp_, ofNat_4, ofNat_4v, ofNat_5, ofNat_8, b8_eq, bit_eq, f5_of d F.d_, F.attr]

theorem atom (h : Hdr) (op : AtomOp) (d : Fin 32) (sz : Fin 4) (m : AddrArg) (at_ : MemAttr) : Statement (.atom h op d sz m at_) := fun hw =>
  back rfl (dec_atom h op d sz m at_ hw (fmtM_fields (by decide)
    (d.isLt.trans_le (by decide))
    (sz.isLt.trans_le (by decide))
    (at_.scope.isLt.trans_le (by decide))
    (at_.ord.isLt.trans_le (by decide))
    (at_.cp.isLt.trans_le (by decide))
    (by have := atomCode_le op; have := d.isLt; have := sz.isLt; have := at_.scope.isLt; have := at_.ord.isLt; have := at_.cp.isLt; omega)))

theorem dec_red (h : Hdr) (op : AtomOp) (d : Fin 32) (sz : Fin 4) (m : AddrArg) (at_ : MemAttr) (hw : (Instr.red h op d sz m at_).wf = true) {w : Nat}
    (F : FieldsM w 0xA9 h d m sz at_.scope at_.ord at_.cp (atomCode op)) : decodeNat false w = .instr (.red h op d sz m at_) := by
  have ok := hdr_ok hw rfl
  have wt : (atomSzOk op sz && at_.rmwOk && (at_.ord == 0 || at_.ord == 2) : Bool) = true := form_ok hw
  simp only [Bool.and_eq_true, Bool.or_eq_true, beq_iff_eq] at wt
  rw [F.decode ok]
  have e : decOp false 0xA9 w h = mform 0xA9 w 1 (atomSzs (atomCode op)) [0, 2] [0, 1, 2] true
      (.red h op (f5 w 45) (Fin.ofNat 4 (field w 10 3)) (addrOf w) (attrOf w)) := by
    simp [decOp, decAtom, F.fn_, atomOf_code]
  rw [e, F.mform_of (.inr ⟨by decide, by have := d.isLt; omega⟩) (atom_sz wt.1.1) (by rcases wt.2 with e | e <;> simp [e]) (rmw_cp wt.1.2) (scope_le _) (.inl rfl)]
  simp [-Fin.ofNat_eq_cast, F.addr, F.sz_, F.sc_, F.od_, F.cp_, ofNat_4, ofNat_4v, ofNat_5, ofNat_8, b8_eq, bit_eq, f5_of d F.d_, F.attr]

theorem red (h : Hdr) (op : AtomOp) (d : Fin 32) (sz : Fin 4) (m : AddrArg) (at_ : MemAttr) : Statement (.red h op d sz m at_) := fun hw =>
  back rfl (dec_red h op d sz m at_ hw (fmtM_fields (by decide)
    (d.isLt.trans_le (by decide))
    (sz.isLt.trans_le (by decide))
    (at_.scope.isLt.trans_le (by decide))
    (at_.ord.isLt.trans_le (by decide))
    (at_.cp.isLt.trans_le (by decide))
    (by have := atomCode_le op; have := d.isLt; have := sz.isLt; have := at_.scope.isLt; have := at_.ord.isLt; have := at_.cp.isLt; omega)))

theorem dec_cas (h : Hdr) (d : Fin 32) (b8 : Bool) (m : AddrArg) (at_ : MemAttr) (hw : (Instr.cas h d b8 m at_).wf = true) {w : Nat}
    (F : FieldsM w 0xAA h d m (2 + b8.toNat) at_.scope at_.ord at_.cp 0) : decodeNat false w = .instr (.cas h d b8 m at_) := by
  have ok := hdr_ok hw rfl
  have wt : (at_.rmwOk && d.val < 31 : Bool) = true := form_ok hw
  simp only [Bool.and_eq_true, decide_eq_true_eq] at wt
  rw [F.decode ok]
  have e : decOp false 0xAA w h = mform 0xAA w 2 [2, 3] [0, 1, 2, 3] [0, 1, 2] true
      (.cas h (f5 w 45) (field w 10 3 == 3) (addrOf w) (attrOf w)) := by
    simp [decOp, decAtom, F.fn_]
  rw [e, F.mform_of (.inr ⟨by decide, by have := wt.2; omega⟩) (szb _) (sz4 _) (rmw_cp wt.1) (scope_le _) (.inl rfl)]
  simp [-Fin.ofNat_eq_cast, F.addr, F.sz_, F.sc_, F.od_, F.cp_, ofNat_4, ofNat_4v, ofNat_5, ofNat_8, b8_eq, bit_eq, f5_of d F.d_, F.attr]

theorem cas (h : Hdr) (d : Fin 32) (b8 : Bool) (m : AddrArg) (at_ : MemAttr) : Statement (.cas h d b8 m at_) := fun hw =>
  back rfl (dec_cas h d b8 m at_ hw (fmtM_fields (by decide)
    (d.isLt.trans_le (by decide))
    (by have := d.isLt; have := toNat_lt2 b8; have := at_.scope.isLt; have := at_.ord.isLt; have := at_.cp.isLt; omega)
    (at_.scope.isLt.trans_le (by decide))
    (at_.ord.isLt.trans_le (by decide))
    (at_.cp.isLt.trans_le (by decide))
    (by decide)))

theorem dec_xadd (h : Hdr) (r : EReg) (m : AddrArg) (scope : Fin 5) (rel : Bool) (hw : (Instr.xadd h r m scope rel).wf = true) {w : Nat}
    (F : FieldsM w 0xAB h (eregReg r) m (2 + 5 * eregVec r) scope (2 * rel.toNat) 0 0) : decodeNat false w = .instr (.xadd h r m scope rel) := by
  have ok := hdr_ok hw rfl
  rw [F.decode ok]
  have e : decOp false 0xAB w h = mform 0xAB w 1 [2, 7] [0, 2] [0] true
      (.xadd h r (addrOf w) (Fin.ofNat 5 (field w 7 3)) (field w 5 2 == 2)) := by
    cases r <;> simp [decOp, decAtom, F.fn_, F.sz_, eregVec, f5_of _ F.d_, eregReg]
  rw [e, F.mform_of (.inr ⟨by decide, eregReg_lt r⟩) (by cases r <;> rfl) (by cases rel <;> rfl) (rfl) (scope_le _) (.inl rfl)]
  have e2 : (2 * rel.toNat == 2) = rel := by cases rel <;> rfl
  simp [e2, F.addr, F.sc_, F.od_]

theorem xadd (h : Hdr) (r : EReg) (m : AddrArg) (scope : Fin 5) (rel : Bool) : Statement (.xadd h r m scope rel) := fun hw =>
  back rfl (dec_xadd h r m scope rel hw (fmtM_fields (by decide)
    ((eregReg_lt r).trans_le (by decide))
    (by have := eregReg_lt r; have := eregVec_lt r; have := scope.isLt; have := toNat_lt2 rel; omega)
    (scope.isLt.trans_le (by decide))
    (by have := eregReg_lt r; have := eregVec_lt r; have := scope.isLt; have := toNat_lt2 rel; omega)
    (by decide)
    (by decide)))

theorem dec_xrd (h : Hdr) (d : Fin 32) (m : AddrArg) (scope : Fin 5) (acq : Bool) (hw : (Instr.xrd h d m scope acq).wf = true) {w : Nat}
    (F : FieldsM w 0xAB h d m 6 scope acq.toNat 0 1) : decodeNat false w = .instr (.xrd h d m scope acq) := by
  have ok := hdr_ok hw rfl
  rw [F.decode ok]
  have e : decOp false 0xAB w h = mform 0xAB w 1 [6] [0, 1] [0] true
      (.xrd h (f5 w 45) (addrOf w) (Fin.ofNat 5 (field w 7 3)) (field w 5 2 == 1)) := by
    simp [decOp, decAtom, F.fn_]
  rw [e, F.mform_of (.inr ⟨by decide, by have := d.isLt; omega⟩) (rfl) (by cases acq <;> rfl) (rfl) (scope_le _) (.inl rfl)]
  simp [-Fin.ofNat_eq_cast, F.addr, F.sz_, F.sc_, F.od_, F.cp_, ofNat_4, ofNat_4v, ofNat_5, ofNat_8, b8_eq, bit_eq, f5_of d F.d_]

theorem xrd (h : Hdr) (d : Fin 32) (m : AddrArg) (scope : Fin 5) (acq : Bool) : Statement (.xrd h d m scope acq) := fun hw =>
  back rfl (dec_xrd h d m scope acq hw (fmtM_fields (by decide)
    (d.isLt.trans_le (by decide))
    (by decide)
    (scope.isLt.trans_le (by decide))
    ((toNat_lt2 acq).trans_le (by decide))
    (by decide)
    (by decide)))

theorem dec_xrdClr (h : Hdr) (d : Fin 32) (m : AddrArg) (scope : Fin 5) (ord : Fin 4) (hw : (Instr.xrdClr h d m scope ord).wf = true) {w : Nat}
    (F : FieldsM w 0xAB h d m 6 scope ord 0 2) : decodeNat false w = .instr (.xrdClr h d m scope ord) := by
  have ok := hdr_ok hw rfl
  rw [F.decode ok]
  have e : decOp false 0xAB w h = mform 0xAB w 1 [6] [0, 1, 2, 3] [0] true
      (.xrdClr h (f5 w 45) (addrOf w) (Fin.ofNat 5 (field w 7 3)) (Fin.ofNat 4 (field w 5 2))) := by
    simp [decOp, decAtom, F.fn_]
  rw [e, F.mform_of (.inr ⟨by decide, by have := d.isLt; omega⟩) (rfl) (sz4 _) (rfl) (scope_le _) (.inl rfl)]
  simp [-Fin.ofNat_eq_cast, F.addr, F.sz_, F.sc_, F.od_, F.cp_, ofNat_4, ofNat_4v, ofNat_5, ofNat_8, b8_eq, bit_eq, f5_of d F.d_]

theorem xrdClr (h : Hdr) (d : Fin 32) (m : AddrArg) (scope : Fin 5) (ord : Fin 4) : Statement (.xrdClr h d m scope ord) := fun hw =>
  back rfl (dec_xrdClr h d m scope ord hw (fmtM_fields (by decide)
    (d.isLt.trans_le (by decide))
    (by decide)
    (scope.isLt.trans_le (by decide))
    (ord.isLt.trans_le (by decide))
    (by decide)
    (by decide)))

theorem dec_fence (h : Hdr) (kind : FenceKind) (scope : Fin 5) (hw : (Instr.fence h kind scope).wf = true) {w : Nat}
    (F : FieldsX w 0xC0 h 0 0 0 (fenceCode kind + 4 * scope) 0) : decodeNat false w = .instr (.fence h kind scope) := by
  rw [F.decode (hdr_ok hw rfl)]
  have s_7_2 : field w 7 2 = fenceCode kind := by
    have := fenceCode_le kind; have := scope.isLt; rw [show field w 7 2 = _ from field_sub F.imm_ 0 2 (by decide)]; omega
  have s_9_3 : field w 9 3 = scope.val := by
    have := fenceCode_le kind; have := scope.isLt; rw [show field w 9 3 = _ from field_sub F.imm_ 2 3 (by decide)]; omega
  have s_12_15 : field w 12 15 = 0 := by
    have := fenceCode_le kind; have := scope.isLt; rw [show field w 12 15 = _ from field_sub F.imm_ 5 15 (by decide)]; omega
  show decFence 0xC0 w h = _
  simp [decFence, form, unused, resv, xform, fenceOf_code, F.fn_, F.d_, F.a_, F.sys_, s_7_2, s_9_3, s_12_15, Nat.not_lt.2 (scope_le scope)]

theorem fence (h : Hdr) (kind : FenceKind) (scope : Fin 5) : Statement (.fence h kind scope) := fun hw =>
  back rfl (dec_fence h kind scope hw (fmtX_fields (by decide)
    (h_d := by omega)
    (h_a := by omega)
    (h_sys := by omega)
    (h_imm := by have := fenceCode_le kind; have := scope.isLt; omega)
    (h_fn := by omega)))

theorem dec_cinv (h : Hdr) (hw : (Instr.cinv h).wf = true) {w : Nat}
    (F : FieldsX w 0xC1 h 0 0 0 0 0) : decodeNat false w = .instr (.cinv h) := by
  rw [F.decode (hdr_ok hw rfl)]
  show decFence 0xC1 w h = _
  simp [decFence, form, unused, xform, F.fn_, F.d_, F.a_, F.sys_, F.imm_]

theorem cinv (h : Hdr) : Statement (.cinv h) := fun hw =>
  back rfl (dec_cinv h hw (fmtX_fields (by decide)
    (h_d := by omega)
    (h_a := by omega)
    (h_sys := by omega)
    (h_imm := by omega)
    (h_fn := by omega)))

theorem dec_cinvLine (h : Hdr) (a : Fin 32) (hw : (Instr.cinvLine h a).wf = true) {w : Nat}
    (F : FieldsX w 0xC1 h 0 a 0 0 1) : decodeNat false w = .instr (.cinvLine h a) := by
  rw [F.decode (hdr_ok hw rfl)]
  show decFence 0xC1 w h = _
  simp [decFence, form, unused, regf, resv, xform, F.fn_, F.d_, F.a_, F.sys_, F.imm_, f5_of a F.a_]

theorem cinvLine (h : Hdr) (a : Fin 32) : Statement (.cinvLine h a) := fun hw =>
  back rfl (dec_cinvLine h a hw (fmtX_fields (by decide)
    (h_d := by omega)
    (h_a := a.isLt.trans_le (by decide))
    (h_sys := by omega)
    (h_imm := by omega)
    (h_fn := by omega)))

theorem dec_sdef (h : Hdr) (x : Fin 32) (slot : Fin 16) (cl : Clauses) (hw : (Instr.sdef h x slot cl).wf = true) {w : Nat}
    (F : FieldsE w 0xC8 h x slot 0 0 0 cl 0) : decodeNat false w = .instr (.sdef h x slot cl) := by
  rw [F.decode (hdr_ok hw rfl)]
  have co : cl.ok = true := clauses_ok hw
  show decStream 0xC8 w h = _
  simp [decStream, form, unused, regf, resv, eRes, F.fn_, F.x_, F.y_, F.z_, F.imm_, F.qn_, F.clauses, F.res co, f5_of x F.x_, f4_of slot F.y_]

theorem sdef (h : Hdr) (x : Fin 32) (slot : Fin 16) (cl : Clauses) : Statement (.sdef h x slot cl) := fun hw =>
  back rfl (dec_sdef h x slot cl hw (fmtE_fields (by decide)
    (h_x := x.isLt.trans_le (by decide))
    (h_y := slot.isLt.trans_le (by decide))
    (h_z := by omega)
    (h_imm := by omega)
    (h_qn := by omega)
    (h_fn := by omega)))

theorem dec_carm (h : Hdr) (x : Fin 32) (slot : Fin 16) (wm : Fin 16) (wmen : Bool) (cl : Clauses) (hw : (Instr.carm h x slot wm wmen cl).wf = true) {w : Nat}
    (F : FieldsE w 0xCB h x slot 0 (wm + 16 * wmen.toNat) 0 cl 0) : decodeNat false w = .instr (.carm h x slot wm wmen cl) := by
  rw [F.decode (hdr_ok hw rfl)]
  have co : cl.ok = true := clauses_ok hw
  have wt : (wmOk wm wmen : Bool) = true := form_ok hw
  simp only [wmOk, Bool.or_eq_true, beq_iff_eq] at wt
  have s_21_4 : field w 21 4 = wm := by
    have := x.isLt; have := slot.isLt; have := wm.isLt; have := toNat_lt2 wmen; rw [show field w 21 4 = _ from field_sub F.imm_ 0 4 (by decide)]; omega
  have s_25_1 : field w 25 1 = wmen.toNat := by
    have := x.isLt; have := slot.isLt; have := wm.isLt; have := toNat_lt2 wmen; rw [show field w 25 1 = _ from field_sub F.imm_ 4 1 (by decide)]; omega
  have s_26_7 : field w 26 7 = 0 := by
    have := x.isLt; have := slot.isLt; have := wm.isLt; have := toNat_lt2 wmen; rw [show field w 26 7 = _ from field_sub F.imm_ 5 7 (by decide)]; omega
  show decStream 0xCB w h = _
  simp [decStream, form, unused, regf, resv, eRes, F.fn_, F.x_, F.y_, F.z_, F.qn_, F.clauses, F.res co, f5_of x F.x_, f4_of slot F.y_, s_21_4, s_25_1, s_26_7]
  exact fun e => wt.resolve_left (by rw [e]; decide)

theorem carm (h : Hdr) (x : Fin 32) (slot : Fin 16) (wm : Fin 16) (wmen : Bool) (cl : Clauses) : Statement (.carm h x slot wm wmen cl) := fun hw =>
  back rfl (dec_carm h x slot wm wmen cl hw (fmtE_fields (by decide)
    (h_x := x.isLt.trans_le (by decide))
    (h_y := slot.isLt.trans_le (by decide))
    (h_z := by omega)
    (h_imm := by have := x.isLt; have := slot.isLt; have := wm.isLt; have := toNat_lt2 wmen; omega)
    (h_qn := by omega)
    (h_fn := by omega)))

theorem dec_sgo (h : Hdr) (slot : Fin 16) (z : Fin 32) (cl : Clauses) (hw : (Instr.sgo h slot z cl).wf = true) {w : Nat}
    (F : FieldsE w 0xC9 h 0 slot z 0 0 cl 0) : decodeNat false w = .instr (.sgo h slot z cl) := by
  rw [F.decode (hdr_ok hw rfl)]
  have co : cl.ok = true := clauses_ok hw
  show decStream 0xC9 w h = _
  simp [decStream, form, unused, regf, resv, eRes, F.fn_, F.x_, F.y_, F.z_, F.imm_, F.qn_, F.clauses, F.res co, f4_of slot F.y_, f5_of z F.z_]

theorem sgo (h : Hdr) (slot : Fin 16) (z : Fin 32) (cl : Clauses) : Statement (.sgo h slot z cl) := fun hw =>
  back rfl (dec_sgo h slot z cl hw (fmtE_fields (by decide)
    (h_x := by omega)
    (h_y := slot.isLt.trans_le (by decide))
    (h_z := z.isLt.trans_le (by decide))
    (h_imm := by omega)
    (h_qn := by omega)
    (h_fn := by omega)))

theorem dec_sstop (h : Hdr) (slot : Fin 16) (cl : Clauses) (hw : (Instr.sstop h slot cl).wf = true) {w : Nat}
    (F : FieldsE w 0xC9 h 0 slot 0 0 0 cl 1) : decodeNat false w = .instr (.sstop h slot cl) := by
  rw [F.decode (hdr_ok hw rfl)]
  have co : cl.ok = true := clauses_ok hw
  show decStream 0xC9 w h = _
  simp [decStream, form, unused, regf, resv, eRes, F.fn_, F.x_, F.y_, F.z_, F.imm_, F.qn_, F.clauses, F.res co, f4_of slot F.y_]

theorem sstop (h : Hdr) (slot : Fin 16) (cl : Clauses) : Statement (.sstop h slot cl) := fun hw =>
  back rfl (dec_sstop h slot cl hw (fmtE_fields (by decide)
    (h_x := by omega)
    (h_y := slot.isLt.trans_le (by decide))
    (h_z := by omega)
    (h_imm := by omega)
    (h_qn := by omega)
    (h_fn := by omega)))

theorem dec_sstat (h : Hdr) (x : Fin 32) (slot : Fin 16) (sel : Fin 4) (cl : Clauses) (hw : (Instr.sstat h x slot sel cl).wf = true) {w : Nat}
    (F : FieldsE w 0xCA h x slot 0 sel 0 cl 0) : decodeNat false w = .instr (.sstat h x slot sel cl) := by
  rw [F.decode (hdr_ok hw rfl)]
  have co : cl.ok = true := clauses_ok hw
  have s_21_2 : field w 21 2 = sel := by
    have := x.isLt; have := slot.isLt; have := sel.isLt; rw [show field w 21 2 = _ from field_sub F.imm_ 0 2 (by decide)]; omega
  have s_23_10 : field w 23 10 = 0 := by
    have := x.isLt; have := slot.isLt; have := sel.isLt; rw [show field w 23 10 = _ from field_sub F.imm_ 2 10 (by decide)]; omega
  show decStream 0xCA w h = _
  simp [decStream, form, unused, regf, resv, eRes, F.fn_, F.x_, F.y_, F.z_, F.qn_, F.clauses, F.res co, f5_of x F.x_, f4_of slot F.y_, s_21_2, s_23_10]

theorem sstat (h : Hdr) (x : Fin 32) (slot : Fin 16) (sel : Fin 4) (cl : Clauses) : Statement (.sstat h x slot sel cl) := fun hw =>
  back rfl (dec_sstat h x slot sel cl hw (fmtE_fields (by decide)
    (h_x := x.isLt.trans_le (by decide))
    (h_y := slot.isLt.trans_le (by decide))
    (h_z := by omega)
    (h_imm := sel.isLt.trans_le (by decide))
    (h_qn := by omega)
    (h_fn := by omega)))

theorem dec_cdis (h : Hdr) (slot : Fin 16) (cl : Clauses) (hw : (Instr.cdis h slot cl).wf = true) {w : Nat}
    (F : FieldsE w 0xCB h 0 slot 0 0 0 cl 1) : decodeNat false w = .instr (.cdis h slot cl) := by
  rw [F.decode (hdr_ok hw rfl)]
  have co : cl.ok = true := clauses_ok hw
  show decStream 0xCB w h = _
  simp [decStream, form, unused, regf, resv, eRes, F.fn_, F.x_, F.y_, F.z_, F.imm_, F.qn_, F.clauses, F.res co, f4_of slot F.y_]

theorem cdis (h : Hdr) (slot : Fin 16) (cl : Clauses) : Statement (.cdis h slot cl) := fun hw =>
  back rfl (dec_cdis h slot cl hw (fmtE_fields (by decide)
    (h_x := by omega)
    (h_y := slot.isLt.trans_le (by decide))
    (h_z := by omega)
    (h_imm := by omega)
    (h_qn := by omega)
    (h_fn := by omega)))

theorem dec_copy (h : Hdr) (x : Fin 32) (z : Fin 32) (wm : Fin 16) (wmen : Bool) (cl : Clauses) (hw : (Instr.copy h x z wm wmen cl).wf = true) {w : Nat}
    (F : FieldsE w 0xCC h x 0 z (wm + 16 * wmen.toNat) 0 cl 0) : decodeNat false w = .instr (.copy h x z wm wmen cl) := by
  rw [F.decode (hdr_ok hw rfl)]
  have co : cl.ok = true := clauses_ok hw
  have wt : (wmOk wm wmen : Bool) = true := form_ok hw
  simp only [wmOk, Bool.or_eq_true, beq_iff_eq] at wt
  have s_21_4 : field w 21 4 = wm := by
    have := x.isLt; have := z.isLt; have := wm.isLt; have := toNat_lt2 wmen; rw [show field w 21 4 = _ from field_sub F.imm_ 0 4 (by decide)]; omega
  have s_25_1 : field w 25 1 = wmen.toNat := by
    have := x.isLt; have := z.isLt; have := wm.isLt; have := toNat_lt2 wmen; rw [show field w 25 1 = _ from field_sub F.imm_ 4 1 (by decide)]; omega
  have s_26_7 : field w 26 7 = 0 := by
    have := x.isLt; have := z.isLt; have := wm.isLt; have := toNat_lt2 wmen; rw [show field w 26 7 = _ from field_sub F.imm_ 5 7 (by decide)]; omega
  show decStream 0xCC w h = _
  simp [decStream, form, unused, regf, resv, eRes, F.fn_, F.x_, F.y_, F.z_, F.qn_, F.clauses, F.res co, f5_of x F.x_, f5_of z F.z_, s_21_4, s_25_1, s_26_7]
  exact fun e => wt.resolve_left (by rw [e]; decide)

theorem copy (h : Hdr) (x : Fin 32) (z : Fin 32) (wm : Fin 16) (wmen : Bool) (cl : Clauses) : Statement (.copy h x z wm wmen cl) := fun hw =>
  back rfl (dec_copy h x z wm wmen cl hw (fmtE_fields (by decide)
    (h_x := x.isLt.trans_le (by decide))
    (h_y := by omega)
    (h_z := z.isLt.trans_le (by decide))
    (h_imm := by have := x.isLt; have := z.isLt; have := wm.isLt; have := toNat_lt2 wmen; omega)
    (h_qn := by omega)
    (h_fn := by omega)))

theorem dec_staload (h : Hdr) (x : Fin 32) (y : Fin 32) (slot : Fin 8) (cl : Clauses) (hw : (Instr.staload h x y slot cl).wf = true) {w : Nat}
    (F : FieldsE w 0xCD h x y 0 slot 0 cl 0) : decodeNat false w = .instr (.staload h x y slot cl) := by
  rw [F.decode (hdr_ok hw rfl)]
  have co : cl.ok = true := clauses_ok hw
  have s_21_3 : field w 21 3 = slot := by
    have := x.isLt; have := y.isLt; have := slot.isLt; rw [show field w 21 3 = _ from field_sub F.imm_ 0 3 (by decide)]; omega
  have s_24_1 : field w 24 1 = 0 := by
    have := x.isLt; have := y.isLt; have := slot.isLt; rw [show field w 24 1 = _ from field_sub F.imm_ 3 1 (by decide)]; omega
  have s_25_8 : field w 25 8 = 0 := by
    have := x.isLt; have := y.isLt; have := slot.isLt; rw [show field w 25 8 = _ from field_sub F.imm_ 4 8 (by decide)]; omega
  show decStream 0xCD w h = _
  simp [decStream, form, unused, regf, resv, eRes, F.fn_, F.x_, F.y_, F.z_, F.qn_, F.clauses, F.res co, f5_of x F.x_, f5_of y F.y_, s_21_3, s_24_1, s_25_8]

theorem staload (h : Hdr) (x : Fin 32) (y : Fin 32) (slot : Fin 8) (cl : Clauses) : Statement (.staload h x y slot cl) := fun hw =>
  back rfl (dec_staload h x y slot cl hw (fmtE_fields (by decide)
    (h_x := x.isLt.trans_le (by decide))
    (h_y := y.isLt.trans_le (by decide))
    (h_z := by omega)
    (h_imm := slot.isLt.trans_le (by decide))
    (h_qn := by omega)
    (h_fn := by omega)))

theorem dec_staloadUpd (h : Hdr) (x : Fin 32) (y : Fin 32) (slot : Fin 8) (cl : Clauses) (hw : (Instr.staloadUpd h x y slot cl).wf = true) {w : Nat}
    (F : FieldsE w 0xCD h x y 0 (slot + 8) 0 cl 0) : decodeNat false w = .instr (.staloadUpd h x y slot cl) := by
  rw [F.decode (hdr_ok hw rfl)]
  have co : cl.ok = true := clauses_ok hw
  have s_21_3 : field w 21 3 = slot.val := by
    have := x.isLt; have := y.isLt; have := slot.isLt; rw [show field w 21 3 = _ from field_sub F.imm_ 0 3 (by decide)]; omega
  have s_24_1 : field w 24 1 = 1 := by
    have := x.isLt; have := y.isLt; have := slot.isLt; rw [show field w 24 1 = _ from field_sub F.imm_ 3 1 (by decide)]; omega
  have s_25_8 : field w 25 8 = 0 := by
    have := x.isLt; have := y.isLt; have := slot.isLt; rw [show field w 25 8 = _ from field_sub F.imm_ 4 8 (by decide)]; omega
  show decStream 0xCD w h = _
  simp [decStream, form, unused, regf, resv, eRes, F.fn_, F.x_, F.y_, F.z_, F.qn_, F.clauses, F.res co, f5_of x F.x_, f5_of y F.y_, s_21_3, s_24_1, s_25_8]

theorem staloadUpd (h : Hdr) (x : Fin 32) (y : Fin 32) (slot : Fin 8) (cl : Clauses) : Statement (.staloadUpd h x y slot cl) := fun hw =>
  back rfl (dec_staloadUpd h x y slot cl hw (fmtE_fields (by decide)
    (h_x := x.isLt.trans_le (by decide))
    (h_y := y.isLt.trans_le (by decide))
    (h_z := by omega)
    (h_imm := by have := x.isLt; have := y.isLt; have := slot.isLt; omega)
    (h_qn := by omega)
    (h_fn := by omega)))

theorem dec_stafree (h : Hdr) (y : Fin 32) (slot : Fin 8) (cl : Clauses) (hw : (Instr.stafree h y slot cl).wf = true) {w : Nat}
    (F : FieldsE w 0xCD h 0 y 0 slot 0 cl 1) : decodeNat false w = .instr (.stafree h y slot cl) := by
  rw [F.decode (hdr_ok hw rfl)]
  have co : cl.ok = true := clauses_ok hw
  have s_21_3 : field w 21 3 = slot := by
    have := y.isLt; have := slot.isLt; rw [show field w 21 3 = _ from field_sub F.imm_ 0 3 (by decide)]; omega
  have s_24_9 : field w 24 9 = 0 := by
    have := y.isLt; have := slot.isLt; rw [show field w 24 9 = _ from field_sub F.imm_ 3 9 (by decide)]; omega
  show decStream 0xCD w h = _
  simp [decStream, form, unused, regf, resv, eRes, F.fn_, F.x_, F.y_, F.z_, F.qn_, F.clauses, F.res co, f5_of y F.y_, s_21_3, s_24_9]

theorem stafree (h : Hdr) (y : Fin 32) (slot : Fin 8) (cl : Clauses) : Statement (.stafree h y slot cl) := fun hw =>
  back rfl (dec_stafree h y slot cl hw (fmtE_fields (by decide)
    (h_x := by omega)
    (h_y := y.isLt.trans_le (by decide))
    (h_z := by omega)
    (h_imm := slot.isLt.trans_le (by decide))
    (h_qn := by omega)
    (h_fn := by omega)))

theorem dec_stastat (h : Hdr) (x : Fin 32) (y : Fin 32) (slot : Fin 8) (sel : Fin 32) (cl : Clauses) (hw : (Instr.stastat h x y slot sel cl).wf = true) {w : Nat}
    (F : FieldsE w 0xCE h x y 0 (slot + 8 * sel) 0 cl 0) : decodeNat false w = .instr (.stastat h x y slot sel cl) := by
  rw [F.decode (hdr_ok hw rfl)]
  have co : cl.ok = true := clauses_ok hw
  have wt : (sel.val < 5 || 8 ≤ sel.val : Bool) = true := form_ok hw
  simp only [Bool.or_eq_true, decide_eq_true_eq] at wt
  have s_21_3 : field w 21 3 = slot := by
    have := x.isLt; have := y.isLt; have := slot.isLt; have := sel.isLt; rw [show field w 21 3 = _ from field_sub F.imm_ 0 3 (by decide)]; omega
  have s_24_5 : field w 24 5 = sel := by
    have := x.isLt; have := y.isLt; have := slot.isLt; have := sel.isLt; rw [show field w 24 5 = _ from field_sub F.imm_ 3 5 (by decide)]; omega
  have s_29_4 : field w 29 4 = 0 := by
    have := x.isLt; have := y.isLt; have := slot.isLt; have := sel.isLt; rw [show field w 29 4 = _ from field_sub F.imm_ 8 4 (by decide)]; omega
  show decStream 0xCE w h = _
  simp [decStream, form, unused, regf, resv, eRes, F.fn_, F.x_, F.y_, F.z_, F.qn_, F.clauses, F.res co, f5_of x F.x_, f5_of y F.y_, s_21_3, s_24_5, s_29_4]
  exact fun e => wt.resolve_left (by omega)

theorem stastat (h : Hdr) (x : Fin 32) (y : Fin 32) (slot : Fin 8) (sel : Fin 32) (cl : Clauses) : Statement (.stastat h x y slot sel cl) := fun hw =>
  back rfl (dec_stastat h x y slot sel cl hw (fmtE_fields (by decide)
    (h_x := x.isLt.trans_le (by decide))
    (h_y := y.isLt.trans_le (by decide))
    (h_z := by omega)
    (h_imm := by have := x.isLt; have := y.isLt; have := slot.isLt; have := sel.isLt; omega)
    (h_qn := by omega)
    (h_fn := by omega)))

theorem dec_rgload (h : Hdr) (x : Fin 32) (y : Fin 32) (cl : Clauses) (hw : (Instr.rgload h x y cl).wf = true) {w : Nat}
    (F : FieldsE w 0xD8 h x y 0 0 0 cl 0) : decodeNat false w = .instr (.rgload h x y cl) := by
  rw [F.decode (hdr_ok hw rfl)]
  have co : cl.ok = true := clauses_ok hw
  show decRegion 0xD8 w h = _
  simp [decRegion, form, unused, regf, resv, eRes, F.fn_, F.x_, F.y_, F.z_, F.imm_, F.qn_, F.clauses, F.res co, f5_of x F.x_, f5_of y F.y_]

theorem rgload (h : Hdr) (x : Fin 32) (y : Fin 32) (cl : Clauses) : Statement (.rgload h x y cl) := fun hw =>
  back rfl (dec_rgload h x y cl hw (fmtE_fields (by decide)
    (h_x := x.isLt.trans_le (by decide))
    (h_y := y.isLt.trans_le (by decide))
    (h_z := by omega)
    (h_imm := by omega)
    (h_qn := by omega)
    (h_fn := by omega)))

theorem dec_rgswap (h : Hdr) (y : Fin 32) (cl : Clauses) (hw : (Instr.rgswap h y cl).wf = true) {w : Nat}
    (F : FieldsE w 0xD8 h 0 y 0 0 0 cl 1) : decodeNat false w = .instr (.rgswap h y cl) := by
  rw [F.decode (hdr_ok hw rfl)]
  have co : cl.ok = true := clauses_ok hw
  have s_21_1 : field w 21 1 = _ := field_sub F.imm_ 0 1 (by decide)
  have s_22_11 : field w 22 11 = _ := field_sub F.imm_ 1 11 (by decide)
  show decRegion 0xD8 w h = _
  simp [decRegion, form, unused, regf, resv, eRes, F.fn_, F.x_, F.y_, F.z_, F.qn_, F.clauses, F.res co, f5_of y F.y_, s_21_1, s_22_11]

theorem rgswap (h : Hdr) (y : Fin 32) (cl : Clauses) : Statement (.rgswap h y cl) := fun hw =>
  back rfl (dec_rgswap h y cl hw (fmtE_fields (by decide)
    (h_x := by omega)
    (h_y := y.isLt.trans_le (by decide))
    (h_z := by omega)
    (h_imm := by omega)
    (h_qn := by omega)
    (h_fn := by omega)))

theorem dec_rgswapForce (h : Hdr) (y : Fin 32) (cl : Clauses) (hw : (Instr.rgswapForce h y cl).wf = true) {w : Nat}
    (F : FieldsE w 0xD8 h 0 y 0 1 0 cl 1) : decodeNat false w = .instr (.rgswapForce h y cl) := by
  rw [F.decode (hdr_ok hw rfl)]
  have co : cl.ok = true := clauses_ok hw
  have s_21_1 : field w 21 1 = _ := field_sub F.imm_ 0 1 (by decide)
  have s_22_11 : field w 22 11 = _ := field_sub F.imm_ 1 11 (by decide)
  show decRegion 0xD8 w h = _
  simp [decRegion, form, unused, regf, resv, eRes, F.fn_, F.x_, F.y_, F.z_, F.qn_, F.clauses, F.res co, f5_of y F.y_, s_21_1, s_22_11]

theorem rgswapForce (h : Hdr) (y : Fin 32) (cl : Clauses) : Statement (.rgswapForce h y cl) := fun hw =>
  back rfl (dec_rgswapForce h y cl hw (fmtE_fields (by decide)
    (h_x := by omega)
    (h_y := y.isLt.trans_le (by decide))
    (h_z := by omega)
    (h_imm := by omega)
    (h_qn := by omega)
    (h_fn := by omega)))

theorem dec_rgsave (h : Hdr) (y : Fin 32) (cl : Clauses) (hw : (Instr.rgsave h y cl).wf = true) {w : Nat}
    (F : FieldsE w 0xD9 h 0 y 0 0 0 cl 0) : decodeNat false w = .instr (.rgsave h y cl) := by
  rw [F.decode (hdr_ok hw rfl)]
  have co : cl.ok = true := clauses_ok hw
  show decRegion 0xD9 w h = _
  simp [decRegion, form, unused, regf, resv, eRes, F.fn_, F.x_, F.y_, F.z_, F.imm_, F.qn_, F.clauses, F.res co, f5_of y F.y_]

theorem rgsave (h : Hdr) (y : Fin 32) (cl : Clauses) : Statement (.rgsave h y cl) := fun hw =>
  back rfl (dec_rgsave h y cl hw (fmtE_fields (by decide)
    (h_x := by omega)
    (h_y := y.isLt.trans_le (by decide))
    (h_z := by omega)
    (h_imm := by omega)
    (h_qn := by omega)
    (h_fn := by omega)))

theorem dec_rgrest (h : Hdr) (y : Fin 32) (cl : Clauses) (hw : (Instr.rgrest h y cl).wf = true) {w : Nat}
    (F : FieldsE w 0xD9 h 0 y 0 0 0 cl 1) : decodeNat false w = .instr (.rgrest h y cl) := by
  rw [F.decode (hdr_ok hw rfl)]
  have co : cl.ok = true := clauses_ok hw
  show decRegion 0xD9 w h = _
  simp [decRegion, form, unused, regf, resv, eRes, F.fn_, F.x_, F.y_, F.z_, F.imm_, F.qn_, F.clauses, F.res co, f5_of y F.y_]

theorem rgrest (h : Hdr) (y : Fin 32) (cl : Clauses) : Statement (.rgrest h y cl) := fun hw =>
  back rfl (dec_rgrest h y cl hw (fmtE_fields (by decide)
    (h_x := by omega)
    (h_y := y.isLt.trans_le (by decide))
    (h_z := by omega)
    (h_imm := by omega)
    (h_qn := by omega)
    (h_fn := by omega)))

theorem dec_rgclk (h : Hdr) (a : Fin 32) (f : BitVec 20) (hw : (Instr.rgclk h a f).wf = true) {w : Nat}
    (F : FieldsX w 0xDA h 0 a 0 f.toNat 0) : decodeNat false w = .instr (.rgclk h a f) := by
  rw [F.decode (hdr_ok hw rfl)]
  have wt : (50 ≤ f.toNat && f.toNat ≤ 900 : Bool) = true := form_ok hw
  simp only [MacArg.ok, Bool.and_eq_true, Bool.or_eq_true, beq_iff_eq, bne_iff_ne, ne_eq, Bool.not_eq_true', decide_eq_true_eq] at wt
  show decRegion 0xDA w h = _
  simp [decRegion, form, unused, regf, resv, xform, F.fn_, F.d_, F.a_, F.sys_, F.imm_, f5_of a F.a_, Nat.not_lt.2 wt.1, Nat.not_lt.2 wt.2]

theorem rgclk (h : Hdr) (a : Fin 32) (f : BitVec 20) : Statement (.rgclk h a f) := fun hw =>
  back rfl (dec_rgclk h a f hw (fmtX_fields (by decide)
    (h_d := by omega)
    (h_a := a.isLt.trans_le (by decide))
    (h_sys := by omega)
    (h_imm := f.isLt)
    (h_fn := by omega)))

theorem dec_rgfrz (h : Hdr) (a : Fin 32) (hw : (Instr.rgfrz h a).wf = true) {w : Nat}
    (F : FieldsX w 0xDA h 0 a 0 0 1) : decodeNat false w = .instr (.rgfrz h a) := by
  rw [F.decode (hdr_ok hw rfl)]
  have s_7_1 : field w 7 1 = _ := field_sub F.imm_ 0 1 (by decide)
  have s_8_19 : field w 8 19 = _ := field_sub F.imm_ 1 19 (by decide)
  show decRegion 0xDA w h = _
  simp [decRegion, form, unused, regf, resv, xform, F.fn_, F.d_, F.a_, F.sys_, f5_of a F.a_, s_7_1, s_8_19]

theorem rgfrz (h : Hdr) (a : Fin 32) : Statement (.rgfrz h a) := fun hw =>
  back rfl (dec_rgfrz h a hw (fmtX_fields (by decide)
    (h_d := by omega)
    (h_a := a.isLt.trans_le (by decide))
    (h_sys := by omega)
    (h_imm := by omega)
    (h_fn := by omega)))

theorem dec_rgfrzDrain (h : Hdr) (a : Fin 32) (hw : (Instr.rgfrzDrain h a).wf = true) {w : Nat}
    (F : FieldsX w 0xDA h 0 a 0 1 1) : decodeNat false w = .instr (.rgfrzDrain h a) := by
  rw [F.decode (hdr_ok hw rfl)]
  have s_7_1 : field w 7 1 = _ := field_sub F.imm_ 0 1 (by decide)
  have s_8_19 : field w 8 19 = _ := field_sub F.imm_ 1 19 (by decide)
  show decRegion 0xDA w h = _
  simp [decRegion, form, unused, regf, resv, xform, F.fn_, F.d_, F.a_, F.sys_, f5_of a F.a_, s_7_1, s_8_19]

theorem rgfrzDrain (h : Hdr) (a : Fin 32) : Statement (.rgfrzDrain h a) := fun hw =>
  back rfl (dec_rgfrzDrain h a hw (fmtX_fields (by decide)
    (h_d := by omega)
    (h_a := a.isLt.trans_le (by decide))
    (h_sys := by omega)
    (h_imm := by omega)
    (h_fn := by omega)))

theorem dec_rgthaw (h : Hdr) (a : Fin 32) (hw : (Instr.rgthaw h a).wf = true) {w : Nat}
    (F : FieldsX w 0xDA h 0 a 0 0 2) : decodeNat false w = .instr (.rgthaw h a) := by
  rw [F.decode (hdr_ok hw rfl)]
  show decRegion 0xDA w h = _
  simp [decRegion, form, unused, regf, resv, xform, F.fn_, F.d_, F.a_, F.sys_, F.imm_, f5_of a F.a_]

theorem rgthaw (h : Hdr) (a : Fin 32) : Statement (.rgthaw h a) := fun hw =>
  back rfl (dec_rgthaw h a hw (fmtX_fields (by decide)
    (h_d := by omega)
    (h_a := a.isLt.trans_le (by decide))
    (h_sys := by omega)
    (h_imm := by omega)
    (h_fn := by omega)))

theorem dec_rgstat (h : Hdr) (d : Fin 32) (a : Fin 32) (hw : (Instr.rgstat h d a).wf = true) {w : Nat}
    (F : FieldsX w 0xDA h d a 0 0 3) : decodeNat false w = .instr (.rgstat h d a) := by
  rw [F.decode (hdr_ok hw rfl)]
  show decRegion 0xDA w h = _
  simp [decRegion, form, unused, regf, resv, xform, F.fn_, F.d_, F.a_, F.sys_, F.imm_, f5_of d F.d_, f5_of a F.a_]

theorem rgstat (h : Hdr) (d : Fin 32) (a : Fin 32) : Statement (.rgstat h d a) := fun hw =>
  back rfl (dec_rgstat h d a hw (fmtX_fields (by decide)
    (h_d := d.isLt.trans_le (by decide))
    (h_a := a.isLt.trans_le (by decide))
    (h_sys := by omega)
    (h_imm := by omega)
    (h_fn := by omega)))

theorem dec_mfs (h : Hdr) (d : Fin 32) (sys : BitVec 12) (hw : (Instr.mfs h d sys).wf = true) {w : Nat}
    (F : FieldsX w 0xE0 h d 0 sys.toNat 0 0) : decodeNat false w = .instr (.mfs h d sys) := by
  rw [F.decode (hdr_ok hw rfl)]
  have wt : (sysAssigned sys.toNat : Bool) = true := form_ok hw
  have e : decOp false 0xE0 w h = form 0xE0 [(!sysAssigned (field w 27 12), field w 27 12)] [regf w 45 32 1, unused w 39 6, unused w 7 20]
      (.mfs h (f5 w 45) (BitVec.ofNat 12 (field w 27 12))) := by
    show decSys 0xE0 w h = _
    unfold decSys
    rw [F.fn_]
    rfl
  rw [e]
  simp [form, unused, regf, resv, F.d_, F.a_, F.imm_, F.sys_, f5_of d F.d_, wt]

theorem mfs (h : Hdr) (d : Fin 32) (sys : BitVec 12) : Statement (.mfs h d sys) := fun hw =>
  back rfl (dec_mfs h d sys hw (fmtX_fields (by decide)
    (d.isLt.trans_le (by decide))
    (by decide)
    sys.isLt
    (by decide)
    (by decide)))

theorem dec_mts (h : Hdr) (a : Fin 32) (sys : BitVec 12) (hw : (Instr.mts h a sys).wf = true) {w : Nat}
    (F : FieldsX w 0xE0 h 0 a sys.toNat 0 1) : decodeNat false w = .instr (.mts h a sys) := by
  rw [F.decode (hdr_ok hw rfl)]
  have wt : (sysAssigned sys.toNat : Bool) = true := form_ok hw
  have e : decOp false 0xE0 w h = form 0xE0 [(!sysAssigned (field w 27 12), field w 27 12)] [unused w 45 6, regf w 39 32 1, unused w 7 20]
      (.mts h (f5 w 39) (BitVec.ofNat 12 (field w 27 12))) := by
    show decSys 0xE0 w h = _
    unfold decSys
    rw [F.fn_]
    rfl
  rw [e]
  simp [form, unused, regf, resv, F.d_, F.a_, F.imm_, F.sys_, f5_of a F.a_, wt]

theorem mts (h : Hdr) (a : Fin 32) (sys : BitVec 12) : Statement (.mts h a sys) := fun hw =>
  back rfl (dec_mts h a sys hw (fmtX_fields (by decide)
    (by decide)
    (a.isLt.trans_le (by decide))
    sys.isLt
    (by decide)
    (by decide)))

theorem dec_trap (h : Hdr) (code : BitVec 20) (hw : (Instr.trap h code).wf = true) {w : Nat}
    (F : FieldsX w 0xE1 h 0 0 0 code.toNat 0) : decodeNat false w = .instr (.trap h code) := by
  rw [F.decode (hdr_ok hw rfl)]
  have e : decOp false 0xE1 w h = xform 0xE1 w [unused w 45 6, unused w 39 6] (.trap h (BitVec.ofNat 20 (field w 7 20))) := by
    show decSys 0xE1 w h = _
    unfold decSys
    rw [F.fn_]
    rfl
  rw [e]
  simp [xform, form, unused, F.d_, F.a_, F.imm_, F.sys_]

theorem trap (h : Hdr) (code : BitVec 20) : Statement (.trap h code) := fun hw =>
  back rfl (dec_trap h code hw (fmtX_fields (by decide)
    (by decide)
    (by decide)
    (by decide)
    (code.isLt)
    (by decide)))

theorem dec_brk (h : Hdr) (code : BitVec 20) (hw : (Instr.brk h code).wf = true) {w : Nat}
    (F : FieldsX w 0xE1 h 0 0 0 code.toNat 1) : decodeNat false w = .instr (.brk h code) := by
  rw [F.decode (hdr_ok hw rfl)]
  have e : decOp false 0xE1 w h = xform 0xE1 w [unused w 45 6, unused w 39 6] (.brk h (BitVec.ofNat 20 (field w 7 20))) := by
    show decSys 0xE1 w h = _
    unfold decSys
    rw [F.fn_]
    rfl
  rw [e]
  simp [xform, form, unused, F.d_, F.a_, F.imm_, F.sys_]

theorem brk (h : Hdr) (code : BitVec 20) : Statement (.brk h code) := fun hw =>
  back rfl (dec_brk h code hw (fmtX_fields (by decide)
    (by decide)
    (by decide)
    (by decide)
    (code.isLt)
    (by decide)))

theorem dec_resume (h : Hdr) (hw : (Instr.resume h).wf = true) {w : Nat}
    (F : FieldsX w 0xE2 h 0 0 0 0 0) : decodeNat false w = .instr (.resume h) := by
  rw [F.decode (hdr_ok hw rfl)]
  have e : decOp false 0xE2 w h = xform 0xE2 w [unused w 45 6, unused w 39 6, unused w 7 20] (.resume h) := by
    show decSys 0xE2 w h = _
    unfold decSys
    rw [F.fn_]
    rfl
  rw [e]
  simp [xform, form, unused, F.d_, F.a_, F.imm_, F.sys_]

theorem resume (h : Hdr) : Statement (.resume h) := fun hw =>
  back rfl (dec_resume h hw (fmtX_fields (by decide)
    (by decide)
    (by decide)
    (by decide)
    (by decide)
    (by decide)))

theorem dec_resumeNext (h : Hdr) (hw : (Instr.resumeNext h).wf = true) {w : Nat}
    (F : FieldsX w 0xE2 h 0 0 0 0 1) : decodeNat false w = .instr (.resumeNext h) := by
  rw [F.decode (hdr_ok hw rfl)]
  have e : decOp false 0xE2 w h = xform 0xE2 w [unused w 45 6, unused w 39 6, unused w 7 20] (.resumeNext h) := by
    show decSys 0xE2 w h = _
    unfold decSys
    rw [F.fn_]
    rfl
  rw [e]
  simp [xform, form, unused, F.d_, F.a_, F.imm_, F.sys_]

theorem resumeNext (h : Hdr) : Statement (.resumeNext h) := fun hw =>
  back rfl (dec_resumeNext h hw (fmtX_fields (by decide)
    (by decide)
    (by decide)
    (by decide)
    (by decide)
    (by decide)))

theorem dec_abort (h : Hdr) (hw : (Instr.abort h).wf = true) {w : Nat}
    (F : FieldsX w 0xE2 h 0 0 0 0 2) : decodeNat false w = .instr (.abort h) := by
  rw [F.decode (hdr_ok hw rfl)]
  have e : decOp false 0xE2 w h = xform 0xE2 w [unused w 45 6, unused w 39 6, unused w 7 20] (.abort h) := by
    show decSys 0xE2 w h = _
    unfold decSys
    rw [F.fn_]
    rfl
  rw [e]
  simp [xform, form, unused, F.d_, F.a_, F.imm_, F.sys_]

theorem abort (h : Hdr) : Statement (.abort h) := fun hw =>
  back rfl (dec_abort h hw (fmtX_fields (by decide)
    (by decide)
    (by decide)
    (by decide)
    (by decide)
    (by decide)))

theorem tlbEnc_lt (k : TlbScope) : (tlbEnc k).1 < 2 ^ 6 ∧ (tlbEnc k).2 < 2 ^ 20 := by
  cases k <;> simp only [tlbEnc] <;> omega

theorem dec_tlbinv (h : Hdr) (k : TlbScope) (hw : (Instr.tlbinv h k).wf = true) {w : Nat}
    (F : FieldsX w 0xE3 h 0 (tlbEnc k).1 0 (tlbEnc k).2 0) : decodeNat false w = .instr (.tlbinv h k) := by
  rw [F.decode (hdr_ok hw rfl)]
  have e : decOp false 0xE3 w h = xform 0xE3 w (unused w 45 6 :: (tlbOf w).2) (.tlbinv h (tlbOf w).1) := by
    show decSys 0xE3 w h = _
    unfold decSys
    rw [F.fn_]
    rfl
  have s1 : field w 7 2 = _ := field_sub F.imm_ 0 2 (by decide)
  have s2 : field w 9 7 = _ := field_sub F.imm_ 2 7 (by decide)
  have s3 : field w 9 5 = _ := field_sub F.imm_ 2 5 (by decide)
  have s4 : field w 16 11 = _ := field_sub F.imm_ 9 11 (by decide)
  have s5 : field w 14 13 = _ := field_sub F.imm_ 7 13 (by decide)
  have s6 : field w 9 18 = _ := field_sub F.imm_ 2 18 (by decide)
  suffices t : (tlbOf w).1 = k ∧ ∀ x ∈ (tlbOf w).2, x = 0 by
    rw [e, t.1]
    apply form_of
    · simp [F.sys_]
    · intro x hx
      rcases List.mem_cons.1 hx with rfl | hx
      · simp [unused, F.d_]
      · exact t.2 x hx
  cases k with
  | va a m =>
    have e1 : field w 7 2 = 0 := by rw [s1]; simp only [tlbEnc]; omega
    have e2 : field w 9 7 = m.val := by rw [s2]; simp only [tlbEnc]; omega
    have e3 : field w 16 11 = 0 := by rw [s4]; simp only [tlbEnc]; omega
    simp [-Fin.ofNat_eq_cast, tlbOf, e1, e2, e3, unused, regf, resv, F.a_, f5_of a F.a_, ofNat_128, tlbEnc]
  | mctx m =>
    have e1 : field w 7 2 = 1 := by rw [s1]; simp only [tlbEnc]; omega
    have e2 : field w 9 7 = m.val := by rw [s2]; simp only [tlbEnc]; omega
    have e3 : field w 16 11 = 0 := by rw [s4]; simp only [tlbEnc]; omega
    simp [-Fin.ofNat_eq_cast, tlbOf, e1, e2, e3, unused, F.a_, ofNat_128, tlbEnc]
  | part q =>
    have e1 : field w 7 2 = 2 := by rw [s1]; simp only [tlbEnc]; omega
    have e2 : field w 9 5 = q.val := by rw [s3]; simp only [tlbEnc]; omega
    have e3 : field w 14 13 = 0 := by rw [s5]; simp only [tlbEnc]; omega
    simp [-Fin.ofNat_eq_cast, tlbOf, e1, e2, e3, unused, F.a_, ofNat_32, tlbEnc]
  | all =>
    have e1 : field w 7 2 = 3 := by rw [s1]; simp only [tlbEnc]; omega
    have e3 : field w 9 18 = 0 := by rw [s6]; simp only [tlbEnc]; omega
    simp [tlbOf, e1, e3, unused, F.a_, tlbEnc]

theorem tlbinv (h : Hdr) (k : TlbScope) : Statement (.tlbinv h k) := fun hw =>
  back rfl (dec_tlbinv h k hw (fmtX_fields (by decide) (by omega) (tlbEnc_lt k).1 (by omega) (tlbEnc_lt k).2 (by omega)))

theorem dec_ctxsv (h : Hdr) (d : Fin 32) (a : Fin 32) (ctx : Fin 4) (hw : (Instr.ctxsv h d a ctx).wf = true) {w : Nat}
    (F : FieldsX w 0xE4 h d a 0 ctx 0) : decodeNat false w = .instr (.ctxsv h d a ctx) := by
  rw [F.decode (hdr_ok hw rfl)]
  have s1 : field w 7 2 = ctx.val := by rw [show field w 7 2 = _ from field_sub F.imm_ 0 2 (by decide)]; omega
  have s2 : field w 9 18 = 0 := by rw [show field w 9 18 = _ from field_sub F.imm_ 2 18 (by decide)]; omega
  have e : decOp false 0xE4 w h = xform 0xE4 w [regf w 45 32 1, regf w 39 32 1, unused w 9 18] (.ctxsv h (f5 w 45) (f5 w 39) (Fin.ofNat 4 (field w 7 2))) := by
    show decSys 0xE4 w h = _
    unfold decSys
    rw [F.fn_]
    rfl
  rw [e, s1, ofNat_4]
  simp [xform, form, unused, regf, resv, F.d_, F.a_, F.sys_, f5_of d F.d_, f5_of a F.a_, s2]

theorem ctxsv (h : Hdr) (d : Fin 32) (a : Fin 32) (ctx : Fin 4) : Statement (.ctxsv h d a ctx) := fun hw =>
  back rfl (dec_ctxsv h d a ctx hw (fmtX_fields (by decide)
    (d.isLt.trans_le (by decide))
    (a.isLt.trans_le (by decide))
    (by decide)
    (ctx.isLt.trans_le (by decide))
    (by decide)))

theorem dec_ctxld (h : Hdr) (d : Fin 32) (a : Fin 32) (ctx : Fin 4) (hw : (Instr.ctxld h d a ctx).wf = true) {w : Nat}
    (F : FieldsX w 0xE4 h d a 0 ctx 1) : decodeNat false w = .instr (.ctxld h d a ctx) := by
  rw [F.decode (hdr_ok hw rfl)]
  have s1 : field w 7 2 = ctx.val := by rw [show field w 7 2 = _ from field_sub F.imm_ 0 2 (by decide)]; omega
  have s2 : field w 9 18 = 0 := by rw [show field w 9 18 = _ from field_sub F.imm_ 2 18 (by decide)]; omega
  have e : decOp false 0xE4 w h = xform 0xE4 w [regf w 45 32 1, regf w 39 32 1, unused w 9 18] (.ctxld h (f5 w 45) (f5 w 39) (Fin.ofNat 4 (field w 7 2))) := by
    show decSys 0xE4 w h = _
    unfold decSys
    rw [F.fn_]
    rfl
  rw [e, s1, ofNat_4]
  simp [xform, form, unused, regf, resv, F.d_, F.a_, F.sys_, f5_of d F.d_, f5_of a F.a_, s2]

theorem ctxld (h : Hdr) (d : Fin 32) (a : Fin 32) (ctx : Fin 4) : Statement (.ctxld h d a ctx) := fun hw =>
  back rfl (dec_ctxld h d a ctx hw (fmtX_fields (by decide)
    (d.isLt.trans_le (by decide))
    (a.isLt.trans_le (by decide))
    (by decide)
    (ctx.isLt.trans_le (by decide))
    (by decide)))

theorem dec_smap (h : Hdr) (d : Fin 32) (a : Fin 32) (cap : BitVec 20) (hw : (Instr.smap h d a cap).wf = true) {w : Nat}
    (F : FieldsX w 0xE5 h d a 0 cap.toNat 0) : decodeNat false w = .instr (.smap h d a cap) := by
  rw [F.decode (hdr_ok hw rfl)]
  have wt : (cap != 0 : Bool) = true := form_ok hw
  simp only [MacArg.ok, Bool.and_eq_true, Bool.or_eq_true, beq_iff_eq, bne_iff_ne, ne_eq, Bool.not_eq_true', decide_eq_true_eq] at wt
  have ne : (cap.toNat == 0) = false := by
    simp only [beq_eq_false_iff_ne, ne_eq]
    exact fun e => wt (BitVec.eq_of_toNat_eq e)
  have e : decOp false 0xE5 w h = xform 0xE5 w [regf w 45 32 1, regf w 39 32 1, resv 7 20 (field w 7 20 == 0)] (.smap h (f5 w 45) (f5 w 39) (BitVec.ofNat 20 (field w 7 20))) := by
    show decSys 0xE5 w h = _
    unfold decSys
    rw [F.fn_]
    rfl
  rw [e]
  simp [xform, form, regf, resv, F.d_, F.a_, F.imm_, F.sys_, f5_of d F.d_, f5_of a F.a_, ne]

theorem smap (h : Hdr) (d : Fin 32) (a : Fin 32) (cap : BitVec 20) : Statement (.smap h d a cap) := fun hw =>
  back rfl (dec_smap h d a cap hw (fmtX_fields (by decide)
    (d.isLt.trans_le (by decide))
    (a.isLt.trans_le (by decide))
    (by decide)
    (cap.isLt)
    (by decide)))

theorem dec_pclr (h : Hdr) (f : PclrForm) (hw : (Instr.pclr h f).wf = true) {w : Nat}
    (F : match f with
      | .scalar d => FieldsA w 0xE6 h d 0 0 0 0 0 0 0
      | .vector d k => FieldsA w 0xE6 h d 0 0 0 1 k 0 0) : decodeNat false w = .instr (.pclr h f) := by
  have ok := hdr_ok hw rfl
  cases f with
  | scalar d =>
    rw [F.decode ok]
    show decPclr false w h = _
    simp [decPclr, form, regf, resv, unused, F.fn_, F.d_, F.a_, F.b_, F.c_, F.k_, F.ty_, F.md_, f5_of d F.d_]
  | vector d k =>
    rw [F.decode ok]
    show decPclr false w h = _
    simp [-Fin.ofNat_eq_cast, decPclr, form, regf, resv, unused, F.fn_, F.d_, F.a_, F.b_, F.c_, F.k_, F.ty_, F.md_,
      f5_of d F.d_, ofNat_8]

theorem pclr (h : Hdr) (f : PclrForm) : Statement (.pclr h f) := fun hw => by
  cases f with
  | scalar d =>
    exact back rfl (dec_pclr h (.scalar d) hw (fmtA_fields (by decide) (by omega) (by omega) (by omega) (by omega)
      (by omega) (by omega) (by omega) (by omega)))
  | vector d k =>
    exact back rfl (dec_pclr h (.vector d k) hw (fmtA_fields (by decide) (by omega) (by omega) (by omega) (by omega)
      (by omega) (by omega) (by omega) (by omega)))

/-! The machine's own steps have no word. -/

theorem firingBudgetExpiry (g : AgentId) : Statement (.firingBudgetExpiry g) := fun h => Bool.noConfusion h
theorem firingStart (g : AgentId) : Statement (.firingStart g) := fun h => Bool.noConfusion h
theorem handlerFiring (g : AgentId) : Statement (.handlerFiring g) := fun h => Bool.noConfusion h
theorem nonDelegatedTrap (g : AgentId) : Statement (.nonDelegatedTrap g) := fun h => Bool.noConfusion h
theorem tokenArrival (q : Fin 32) (c : Fin 4) (edge : Nat) : Statement (.tokenArrival q c edge) := fun h => Bool.noConfusion h
theorem creditReturn (q : Fin 32) (c : Fin 4) (edge : Nat) : Statement (.creditReturn q c edge) := fun h => Bool.noConfusion h
theorem actorEnableArrival (q : Fin 32) (c : Fin 4) : Statement (.actorEnableArrival q c) := fun h => Bool.noConfusion h
theorem tqPendingSignal (t : Fin 256) (tq : Fin 16) : Statement (.tqPendingSignal t tq) := fun h => Bool.noConfusion h
theorem groupOperation (g : AgentId) : Statement (.groupOperation g) := fun h => Bool.noConfusion h
theorem groupResponse (g : AgentId) (n : Nat) : Statement (.groupResponse g n) := fun h => Bool.noConfusion h
theorem submission (q : Fin 32) (w : SubWrite) (rcd : BitVec 512) : Statement (.submission q w rcd) := fun h => Bool.noConfusion h
theorem launchSetup (q : Fin 32) (c : Fin 4) (d : Fin 2) : Statement (.launchSetup q c d) := fun h => Bool.noConfusion h
theorem configurationAcknowledgement (q : Fin 32) (c : Fin 4) (src : AckSource) : Statement (.configurationAcknowledgement q c src) := fun h => Bool.noConfusion h
theorem launchEnable (q : Fin 32) (c : Fin 4) : Statement (.launchEnable q c) := fun h => Bool.noConfusion h
theorem sourceEnable (q : Fin 32) (c : Fin 4) : Statement (.sourceEnable q c) := fun h => Bool.noConfusion h
theorem launchComplete (q : Fin 32) (c : Fin 4) : Statement (.launchComplete q c) := fun h => Bool.noConfusion h
theorem launchAbort (q : Fin 32) (c : Fin 4) : Statement (.launchAbort q c) := fun h => Bool.noConfusion h
theorem timeSliceCommand (bytes : Nat) (rcd : BitVec 512) : Statement (.timeSliceCommand bytes rcd) := fun h => Bool.noConfusion h
theorem timeSliceApply (t : Fin 256) : Statement (.timeSliceApply t) := fun h => Bool.noConfusion h
theorem seqRegisterArrival (t : Fin 256) : Statement (.seqRegisterArrival t) := fun h => Bool.noConfusion h
theorem writeCoalescingDrain (g : AgentId) (n : Nat) : Statement (.writeCoalescingDrain g n) := fun h => Bool.noConfusion h
theorem sliceAccess (g : AgentId) (n : Nat) : Statement (.sliceAccess g n) := fun h => Bool.noConfusion h
theorem sliceFill (mctx : Fin 128) (line : Nat) : Statement (.sliceFill mctx line) := fun h => Bool.noConfusion h
theorem memoryResponse (g : AgentId) (n : Nat) : Statement (.memoryResponse g n) := fun h => Bool.noConfusion h
theorem lostRequest (g : AgentId) (n : Nat) (reason : Fin 4) : Statement (.lostRequest g n reason) := fun h => Bool.noConfusion h
theorem tableWalk (t : Fin 256) (mctx : Fin 128) (va : Word) : Statement (.tableWalk t mctx va) := fun h => Bool.noConfusion h
theorem fractRetry (q : Fin 32) : Statement (.fractRetry q) := fun h => Bool.noConfusion h
theorem fractFail (q : Fin 32) : Statement (.fractFail q) := fun h => Bool.noConfusion h
theorem matrixOpStart (t : Fin 256) (q : Fin 4) : Statement (.matrixOpStart t q) := fun h => Bool.noConfusion h
theorem waveFetch (t : Fin 256) (q : Fin 4) : Statement (.waveFetch t q) := fun h => Bool.noConfusion h
theorem matrixOpComplete (t : Fin 256) (q : Fin 4) : Statement (.matrixOpComplete t q) := fun h => Bool.noConfusion h
theorem sweepStart (t : Fin 256) : Statement (.sweepStart t) := fun h => Bool.noConfusion h
theorem sweepEnd (t : Fin 256) : Statement (.sweepEnd t) := fun h => Bool.noConfusion h
theorem gangFormation (t : Fin 256) (q : Fin 4) : Statement (.gangFormation t q) := fun h => Bool.noConfusion h
theorem requestStart (cg : Fin 32) : Statement (.requestStart cg) := fun h => Bool.noConfusion h
theorem engineBeat (cg : Fin 32) (n : Nat) : Statement (.engineBeat cg n) := fun h => Bool.noConfusion h
theorem requestComplete (cg : Fin 32) (n : Nat) : Statement (.requestComplete cg n) := fun h => Bool.noConfusion h
theorem templateFiring (g : AgentId) (slot : Fin 16) : Statement (.templateFiring g slot) := fun h => Bool.noConfusion h
theorem pushProgramPass (slice : Fin 320) (j : Fin 4) : Statement (.pushProgramPass slice j) := fun h => Bool.noConfusion h
theorem relayoutAcknowledgement (conv : Nat) (cluster : Fin 32) : Statement (.relayoutAcknowledgement conv cluster) := fun h => Bool.noConfusion h
theorem conversionUnitStart (conv : Nat) (unit : Nat) : Statement (.conversionUnitStart conv unit) := fun h => Bool.noConfusion h
theorem conversionUnitDone (conv : Nat) (unit : Nat) : Statement (.conversionUnitDone conv unit) := fun h => Bool.noConfusion h
theorem staBeat (cg : Fin 32) (n : Nat) : Statement (.staBeat cg n) := fun h => Bool.noConfusion h
theorem staloadComplete (cg : Fin 32) (slot : Fin 8) : Statement (.staloadComplete cg slot) := fun h => Bool.noConfusion h
theorem stafreeComplete (cg : Fin 32) (slot : Fin 8) : Statement (.stafreeComplete cg slot) := fun h => Bool.noConfusion h
theorem stagingDone (r : Fin 128) : Statement (.stagingDone r) := fun h => Bool.noConfusion h
theorem swapToken (r : Fin 128) : Statement (.swapToken r) := fun h => Bool.noConfusion h
theorem drainComplete (r : Fin 128) : Statement (.drainComplete r) := fun h => Bool.noConfusion h
theorem drainBudgetExpiry (r : Fin 128) : Statement (.drainBudgetExpiry r) := fun h => Bool.noConfusion h
theorem clockRelock (r : Fin 128) : Statement (.clockRelock r) := fun h => Bool.noConfusion h
theorem powerWindow (r : Fin 128) (tenthWatts : Nat) : Statement (.powerWindow r tenthWatts) := fun h => Bool.noConfusion h
theorem packetQuarantine (x : Quarantine) : Statement (.packetQuarantine x) := fun h => Bool.noConfusion h
theorem flitReplay (x : FlitRetry) : Statement (.flitReplay x) := fun h => Bool.noConfusion h
theorem linkPortDown (port : Fin 16) : Statement (.linkPortDown port) := fun h => Bool.noConfusion h
theorem linkRetrain (port : Fin 16) : Statement (.linkRetrain port) := fun h => Bool.noConfusion h
theorem uncorrectableError (p : ErrPlace) : Statement (.uncorrectableError p) := fun h => Bool.noConfusion h
theorem correctedError (pa : Nat) : Statement (.correctedError pa) := fun h => Bool.noConfusion h
theorem thermalSample (n : Fin 128) (temp : BitVec 8) : Statement (.thermalSample n temp) := fun h => Bool.noConfusion h
theorem level2Escalation (stack : Fin 8) : Statement (.level2Escalation stack) := fun h => Bool.noConfusion h
theorem selfRefreshEntry (pc : Fin 512) : Statement (.selfRefreshEntry pc) := fun h => Bool.noConfusion h
theorem limiterEngage : Statement .limiterEngage := fun h => Bool.noConfusion h
theorem limiterStepDown : Statement .limiterStepDown := fun h => Bool.noConfusion h
theorem limiterStepUp : Statement .limiterStepUp := fun h => Bool.noConfusion h
theorem hangDetected (q : Fin 32) : Statement (.hangDetected q) := fun h => Bool.noConfusion h
theorem apertureRead (q : Fin 32) (off : Nat) (n : Nat) : Statement (.apertureRead q off n) := fun h => Bool.noConfusion h
theorem apertureWrite (q : Fin 32) (off : Nat) (bytes : List Byte) : Statement (.apertureWrite q off bytes) := fun h => Bool.noConfusion h
theorem apertureAtomicop (q : Fin 32) (off : Nat) (op : AtomOp) (isCas : Bool) (b8 : Bool) (v : Word) (cmp : Word) : Statement (.apertureAtomicop q off op isCas b8 v cmp) := fun h => Bool.noConfusion h
theorem cqhead (q : Fin 32) (fault : Bool) (v : Word) : Statement (.cqhead q fault v) := fun h => Bool.noConfusion h
theorem featctlGo : Statement .featctlGo := fun h => Bool.noConfusion h
theorem hbmThr (v : Word) : Statement (.hbmThr v) := fun h => Bool.noConfusion h
theorem mcElogw3 : Statement .mcElogw3 := fun h => Bool.noConfusion h
theorem registerWrite (r : HostReg) (v : Word) : Statement (.registerWrite r v) := fun h => Bool.noConfusion h
theorem getVersion (f : PciFn) : Statement (.getVersion f) := fun h => Bool.noConfusion h
theorem getCapabilities (f : PciFn) : Statement (.getCapabilities f) := fun h => Bool.noConfusion h
theorem negotiateAlgorithms (f : PciFn) (ok : Bool) : Statement (.negotiateAlgorithms f ok) := fun h => Bool.noConfusion h
theorem getDigests (f : PciFn) : Statement (.getDigests f) := fun h => Bool.noConfusion h
theorem getCertificate (f : PciFn) : Statement (.getCertificate f) := fun h => Bool.noConfusion h
theorem challenge (r : SignedRequest) : Statement (.challenge r) := fun h => Bool.noConfusion h
theorem getMeasurements (r : SignedRequest) (index : Nat) : Statement (.getMeasurements r index) := fun h => Bool.noConfusion h
theorem keyExchange (r : SignedRequest) : Statement (.keyExchange r) := fun h => Bool.noConfusion h
theorem finish (f : PciFn) : Statement (.finish f) := fun h => Bool.noConfusion h
theorem heartbeat (f : PciFn) : Statement (.heartbeat f) := fun h => Bool.noConfusion h
theorem keyUpdate (f : PciFn) : Statement (.keyUpdate f) := fun h => Bool.noConfusion h
theorem endSession (f : PciFn) : Statement (.endSession f) := fun h => Bool.noConfusion h
theorem unsupportedRequest (f : PciFn) : Statement (.unsupportedRequest f) := fun h => Bool.noConfusion h
theorem keyload (q : Fin 32) (slot : Fin 4096) (hostvis : Bool) (wrapped : BitVec 576) : Statement (.keyload q slot hostvis wrapped) := fun h => Bool.noConfusion h
theorem keyerase (q : Fin 32) (slot : Fin 4096) : Statement (.keyerase q slot) := fun h => Bool.noConfusion h
theorem keystat (q : Fin 32) (slot : Fin 4096) : Statement (.keystat q slot) := fun h => Bool.noConfusion h
theorem ideKm (f : PciFn) (stream : Fin 33) : Statement (.ideKm f stream) := fun h => Bool.noConfusion h
theorem lockInterface (r : TdiRequest) : Statement (.lockInterface r) := fun h => Bool.noConfusion h
theorem tdiUnlock (q : Fin 32) (error : Bool) : Statement (.tdiUnlock q error) := fun h => Bool.noConfusion h
theorem partitionDestroy (q : Fin 32) : Statement (.partitionDestroy q) := fun h => Bool.noConfusion h
theorem powerOn : Statement .powerOn := fun h => Bool.noConfusion h
theorem functionReady (u : ReadyUnit) : Statement (.functionReady u) := fun h => Bool.noConfusion h
theorem deviceReset : Statement .deviceReset := fun h => Bool.noConfusion h
theorem operatorEmit (r : Fin 128) (port : Fin 14) (accept : Bool) : Statement (.operatorEmit r port accept) := fun h => Bool.noConfusion h
theorem operatorIdle (r : Fin 128) : Statement (.operatorIdle r) := fun h => Bool.noConfusion h

end Sys2Proof.Laws.RoundTrip
end

