-- ==== Sys2Proof/Laws/State.lean ====
section
/-! SUPPORT. What each named update of the state, and each register write of a context, leaves alone:
one lemma per field, so that no proof unfolds a record update; and what an update changes, read back. -/

namespace Sys2Proof.Machine

/-! ### Registers of a context -/

theorem vset_get {α : Type} {n : Nat} (v : Vector α n) (i j : Fin n) (x : α) :
    (vset v i x).get j = if i = j then x else v.get j := by
  simp only [vset, Vector.get_eq_getElem, Vector.getElem_set, Fin.ext_iff]

@[simp] theorem vset_self {α : Type} {n : Nat} (v : Vector α n) (i : Fin n) (x : α) : (vset v i x).get i = x := by
  simp [vset_get]

theorem vset_other {α : Type} {n : Nat} (v : Vector α n) {i j : Fin n} (h : i ≠ j) (x : α) :
    (vset v i x).get j = v.get j := by simp [vset_get, h]

theorem setBit_get {w : Nat} (x : BitVec w) (i j : Nat) (b : Bool) (h : j < w) :
    (setBit x i b).getLsbD j = if i = j then b else x.getLsbD j := by
  unfold setBit
  cases b <;> by_cases e : i = j <;> simp [e, h, eq_comm]

@[simp] theorem writeS_p (c : Ctx) (n : Fin 32) (v : Word) (po : Bool) : (c.writeS n v po).p = c.p := by
  unfold Ctx.writeS; split <;> rfl
@[simp] theorem writeS_k (c : Ctx) (n : Fin 32) (v : Word) (po : Bool) : (c.writeS n v po).k = c.k := by
  unfold Ctx.writeS; split <;> rfl
@[simp] theorem writeS_v (c : Ctx) (n : Fin 32) (v : Word) (po : Bool) : (c.writeS n v po).v = c.v := by
  unfold Ctx.writeS; split <;> rfl
@[simp] theorem writeS_h (c : Ctx) (n : Fin 32) (v : Word) (po : Bool) : (c.writeS n v po).h = c.h := by
  unfold Ctx.writeS; split <;> rfl
@[simp] theorem writeS_pc (c : Ctx) (n : Fin 32) (v : Word) (po : Bool) : (c.writeS n v po).pc = c.pc := by
  unfold Ctx.writeS; split <;> rfl
@[simp] theorem writeS_pcOver (c : Ctx) (n : Fin 32) (v : Word) (po : Bool) : (c.writeS n v po).pcOver = c.pcOver := by
  unfold Ctx.writeS; split <;> rfl
@[simp] theorem writeS_phase (c : Ctx) (n : Fin 32) (v : Word) (po : Bool) : (c.writeS n v po).phase = c.phase := by
  unfold Ctx.writeS; split <;> rfl
@[simp] theorem writeS_firing (c : Ctx) (n : Fin 32) (v : Word) (po : Bool) : (c.writeS n v po).firing = c.firing := by
  unfold Ctx.writeS; split <;> rfl
@[simp] theorem writeS_serials (c : Ctx) (n : Fin 32) (v : Word) (po : Bool) : (c.writeS n v po).serials = c.serials := by
  unfold Ctx.writeS; split <;> rfl
@[simp] theorem writeS_hIssued (c : Ctx) (n : Fin 32) (v : Word) (po : Bool) : (c.writeS n v po).hIssued = c.hIssued := by
  unfold Ctx.writeS; split <;> rfl
@[simp] theorem writeS_hInst (c : Ctx) (n : Fin 32) (v : Word) (po : Bool) : (c.writeS n v po).hInst = c.hInst := by
  unfold Ctx.writeS; split <;> rfl
@[simp] theorem writeS_hSerial (c : Ctx) (n : Fin 32) (v : Word) (po : Bool) : (c.writeS n v po).hSerial = c.hSerial := by
  unfold Ctx.writeS; split <;> rfl
@[simp] theorem writeS_aborted (c : Ctx) (n : Fin 32) (v : Word) (po : Bool) : (c.writeS n v po).aborted = c.aborted := by
  unfold Ctx.writeS; split <;> rfl
@[simp] theorem writeS_dpc (c : Ctx) (n : Fin 32) (v : Word) (po : Bool) : (c.writeS n v po).dpc = c.dpc := by
  unfold Ctx.writeS; split <;> rfl
@[simp] theorem writeS_tcause (c : Ctx) (n : Fin 32) (v : Word) (po : Bool) : (c.writeS n v po).tcause = c.tcause := by
  unfold Ctx.writeS; split <;> rfl
@[simp] theorem writeS_tdetail (c : Ctx) (n : Fin 32) (v : Word) (po : Bool) : (c.writeS n v po).tdetail = c.tdetail := by
  unfold Ctx.writeS; split <;> rfl
@[simp] theorem writeS_tpc (c : Ctx) (n : Fin 32) (v : Word) (po : Bool) : (c.writeS n v po).tpc = c.tpc := by
  unfold Ctx.writeS; split <;> rfl
@[simp] theorem writeS_owed (c : Ctx) (n : Fin 32) (v : Word) (po : Bool) : (c.writeS n v po).owed = c.owed := by
  unfold Ctx.writeS; split <;> rfl
@[simp] theorem writeS_trapbase (c : Ctx) (n : Fin 32) (v : Word) (po : Bool) : (c.writeS n v po).trapbase = c.trapbase := by
  unfold Ctx.writeS; split <;> rfl
@[simp] theorem writeS_ss (c : Ctx) (n : Fin 32) (v : Word) (po : Bool) : (c.writeS n v po).ss = c.ss := by
  unfold Ctx.writeS; split <;> rfl
@[simp] theorem writeS_tmpl (c : Ctx) (n : Fin 32) (v : Word) (po : Bool) : (c.writeS n v po).tmpl = c.tmpl := by
  unfold Ctx.writeS; split <;> rfl
@[simp] theorem writeS_wm (c : Ctx) (n : Fin 32) (v : Word) (po : Bool) : (c.writeS n v po).wm = c.wm := by
  unfold Ctx.writeS; split <;> rfl
@[simp] theorem writeS_wcb (c : Ctx) (n : Fin 32) (v : Word) (po : Bool) : (c.writeS n v po).wcb = c.wcb := by
  unfold Ctx.writeS; split <;> rfl
@[simp] theorem writeS_reqs (c : Ctx) (n : Fin 32) (v : Word) (po : Bool) : (c.writeS n v po).reqs = c.reqs := by
  unfold Ctx.writeS; split <;> rfl
@[simp] theorem writeS_groups (c : Ctx) (n : Fin 32) (v : Word) (po : Bool) : (c.writeS n v po).groups = c.groups := by
  unfold Ctx.writeS; split <;> rfl
@[simp] theorem writeS_lastIssue (c : Ctx) (n : Fin 32) (v : Word) (po : Bool) : (c.writeS n v po).lastIssue = c.lastIssue := by
  unfold Ctx.writeS; split <;> rfl
@[simp] theorem writeS_winIssues (c : Ctx) (n : Fin 32) (v : Word) (po : Bool) : (c.writeS n v po).winIssues = c.winIssues := by
  unfold Ctx.writeS; split <;> rfl
@[simp] theorem writeP_s (c : Ctx) (n : Fin 16) (b : Bool) : (c.writeP n b).s = c.s := by
  unfold Ctx.writeP; split <;> rfl
@[simp] theorem writeP_sp (c : Ctx) (n : Fin 16) (b : Bool) : (c.writeP n b).sp = c.sp := by
  unfold Ctx.writeP; split <;> rfl
@[simp] theorem writeP_k (c : Ctx) (n : Fin 16) (b : Bool) : (c.writeP n b).k = c.k := by
  unfold Ctx.writeP; split <;> rfl
@[simp] theorem writeP_v (c : Ctx) (n : Fin 16) (b : Bool) : (c.writeP n b).v = c.v := by
  unfold Ctx.writeP; split <;> rfl
@[simp] theorem writeP_h (c : Ctx) (n : Fin 16) (b : Bool) : (c.writeP n b).h = c.h := by
  unfold Ctx.writeP; split <;> rfl
@[simp] theorem writeP_pc (c : Ctx) (n : Fin 16) (b : Bool) : (c.writeP n b).pc = c.pc := by
  unfold Ctx.writeP; split <;> rfl
@[simp] theorem writeP_pcOver (c : Ctx) (n : Fin 16) (b : Bool) : (c.writeP n b).pcOver = c.pcOver := by
  unfold Ctx.writeP; split <;> rfl
@[simp] theorem writeP_phase (c : Ctx) (n : Fin 16) (b : Bool) : (c.writeP n b).phase = c.phase := by
  unfold Ctx.writeP; split <;> rfl
@[simp] theorem writeP_firing (c : Ctx) (n : Fin 16) (b : Bool) : (c.writeP n b).firing = c.firing := by
  unfold Ctx.writeP; split <;> rfl
@[simp] theorem writeP_serials (c : Ctx) (n : Fin 16) (b : Bool) : (c.writeP n b).serials = c.serials := by
  unfold Ctx.writeP; split <;> rfl
@[simp] theorem writeP_hIssued (c : Ctx) (n : Fin 16) (b : Bool) : (c.writeP n b).hIssued = c.hIssued := by
  unfold Ctx.writeP; split <;> rfl
@[simp] theorem writeP_hInst (c : Ctx) (n : Fin 16) (b : Bool) : (c.writeP n b).hInst = c.hInst := by
  unfold Ctx.writeP; split <;> rfl
@[simp] theorem writeP_hSerial (c : Ctx) (n : Fin 16) (b : Bool) : (c.writeP n b).hSerial = c.hSerial := by
  unfold Ctx.writeP; split <;> rfl
@[simp] theorem writeP_aborted (c : Ctx) (n : Fin 16) (b : Bool) : (c.writeP n b).aborted = c.aborted := by
  unfold Ctx.writeP; split <;> rfl
@[simp] theorem writeP_dpc (c : Ctx) (n : Fin 16) (b : Bool) : (c.writeP n b).dpc = c.dpc := by
  unfold Ctx.writeP; split <;> rfl
@[simp] theorem writeP_tcause (c : Ctx) (n : Fin 16) (b : Bool) : (c.writeP n b).tcause = c.tcause := by
  unfold Ctx.writeP; split <;> rfl
@[simp] theorem writeP_tdetail (c : Ctx) (n : Fin 16) (b : Bool) : (c.writeP n b).tdetail = c.tdetail := by
  unfold Ctx.writeP; split <;> rfl
@[simp] theorem writeP_tpc (c : Ctx) (n : Fin 16) (b : Bool) : (c.writeP n b).tpc = c.tpc := by
  unfold Ctx.writeP; split <;> rfl
@[simp] theorem writeP_owed (c : Ctx) (n : Fin 16) (b : Bool) : (c.writeP n b).owed = c.owed := by
  unfold Ctx.writeP; split <;> rfl
@[simp] theorem writeP_trapbase (c : Ctx) (n : Fin 16) (b : Bool) : (c.writeP n b).trapbase = c.trapbase := by
  unfold Ctx.writeP; split <;> rfl
@[simp] theorem writeP_ss (c : Ctx) (n : Fin 16) (b : Bool) : (c.writeP n b).ss = c.ss := by
  unfold Ctx.writeP; split <;> rfl
@[simp] theorem writeP_tmpl (c : Ctx) (n : Fin 16) (b : Bool) : (c.writeP n b).tmpl = c.tmpl := by
  unfold Ctx.writeP; split <;> rfl
@[simp] theorem writeP_wm (c : Ctx) (n : Fin 16) (b : Bool) : (c.writeP n b).wm = c.wm := by
  unfold Ctx.writeP; split <;> rfl
@[simp] theorem writeP_wcb (c : Ctx) (n : Fin 16) (b : Bool) : (c.writeP n b).wcb = c.wcb := by
  unfold Ctx.writeP; split <;> rfl
@[simp] theorem writeP_reqs (c : Ctx) (n : Fin 16) (b : Bool) : (c.writeP n b).reqs = c.reqs := by
  unfold Ctx.writeP; split <;> rfl
@[simp] theorem writeP_groups (c : Ctx) (n : Fin 16) (b : Bool) : (c.writeP n b).groups = c.groups := by
  unfold Ctx.writeP; split <;> rfl
@[simp] theorem writeP_lastIssue (c : Ctx) (n : Fin 16) (b : Bool) : (c.writeP n b).lastIssue = c.lastIssue := by
  unfold Ctx.writeP; split <;> rfl
@[simp] theorem writeP_winIssues (c : Ctx) (n : Fin 16) (b : Bool) : (c.writeP n b).winIssues = c.winIssues := by
  unfold Ctx.writeP; split <;> rfl
@[simp] theorem writeK_s (c : Ctx) (n : Fin 8) (v : Word) : (c.writeK n v).s = c.s := by
  unfold Ctx.writeK; split <;> rfl
@[simp] theorem writeK_sp (c : Ctx) (n : Fin 8) (v : Word) : (c.writeK n v).sp = c.sp := by
  unfold Ctx.writeK; split <;> rfl
@[simp] theorem writeK_p (c : Ctx) (n : Fin 8) (v : Word) : (c.writeK n v).p = c.p := by
  unfold Ctx.writeK; split <;> rfl
@[simp] theorem writeK_v (c : Ctx) (n : Fin 8) (v : Word) : (c.writeK n v).v = c.v := by
  unfold Ctx.writeK; split <;> rfl
@[simp] theorem writeK_h (c : Ctx) (n : Fin 8) (v : Word) : (c.writeK n v).h = c.h := by
  unfold Ctx.writeK; split <;> rfl
@[simp] theorem writeK_pc (c : Ctx) (n : Fin 8) (v : Word) : (c.writeK n v).pc = c.pc := by
  unfold Ctx.writeK; split <;> rfl
@[simp] theorem writeK_pcOver (c : Ctx) (n : Fin 8) (v : Word) : (c.writeK n v).pcOver = c.pcOver := by
  unfold Ctx.writeK; split <;> rfl
@[simp] theorem writeK_phase (c : Ctx) (n : Fin 8) (v : Word) : (c.writeK n v).phase = c.phase := by
  unfold Ctx.writeK; split <;> rfl
@[simp] theorem writeK_firing (c : Ctx) (n : Fin 8) (v : Word) : (c.writeK n v).firing = c.firing := by
  unfold Ctx.writeK; split <;> rfl
@[simp] theorem writeK_serials (c : Ctx) (n : Fin 8) (v : Word) : (c.writeK n v).serials = c.serials := by
  unfold Ctx.writeK; split <;> rfl
@[simp] theorem writeK_hIssued (c : Ctx) (n : Fin 8) (v : Word) : (c.writeK n v).hIssued = c.hIssued := by
  unfold Ctx.writeK; split <;> rfl
@[simp] theorem writeK_hInst (c : Ctx) (n : Fin 8) (v : Word) : (c.writeK n v).hInst = c.hInst := by
  unfold Ctx.writeK; split <;> rfl
@[simp] theorem writeK_hSerial (c : Ctx) (n : Fin 8) (v : Word) : (c.writeK n v).hSerial = c.hSerial := by
  unfold Ctx.writeK; split <;> rfl
@[simp] theorem writeK_aborted (c : Ctx) (n : Fin 8) (v : Word) : (c.writeK n v).aborted = c.aborted := by
  unfold Ctx.writeK; split <;> rfl
@[simp] theorem writeK_dpc (c : Ctx) (n : Fin 8) (v : Word) : (c.writeK n v).dpc = c.dpc := by
  unfold Ctx.writeK; split <;> rfl
@[simp] theorem writeK_tcause (c : Ctx) (n : Fin 8) (v : Word) : (c.writeK n v).tcause = c.tcause := by
  unfold Ctx.writeK; split <;> rfl
@[simp] theorem writeK_tdetail (c : Ctx) (n : Fin 8) (v : Word) : (c.writeK n v).tdetail = c.tdetail := by
  unfold Ctx.writeK; split <;> rfl
@[simp] theorem writeK_tpc (c : Ctx) (n : Fin 8) (v : Word) : (c.writeK n v).tpc = c.tpc := by
  unfold Ctx.writeK; split <;> rfl
@[simp] theorem writeK_owed (c : Ctx) (n : Fin 8) (v : Word) : (c.writeK n v).owed = c.owed := by
  unfold Ctx.writeK; split <;> rfl
@[simp] theorem writeK_trapbase (c : Ctx) (n : Fin 8) (v : Word) : (c.writeK n v).trapbase = c.trapbase := by
  unfold Ctx.writeK; split <;> rfl
@[simp] theorem writeK_ss (c : Ctx) (n : Fin 8) (v : Word) : (c.writeK n v).ss = c.ss := by
  unfold Ctx.writeK; split <;> rfl
@[simp] theorem writeK_tmpl (c : Ctx) (n : Fin 8) (v : Word) : (c.writeK n v).tmpl = c.tmpl := by
  unfold Ctx.writeK; split <;> rfl
@[simp] theorem writeK_wm (c : Ctx) (n : Fin 8) (v : Word) : (c.writeK n v).wm = c.wm := by
  unfold Ctx.writeK; split <;> rfl
@[simp] theorem writeK_wcb (c : Ctx) (n : Fin 8) (v : Word) : (c.writeK n v).wcb = c.wcb := by
  unfold Ctx.writeK; split <;> rfl
@[simp] theorem writeK_reqs (c : Ctx) (n : Fin 8) (v : Word) : (c.writeK n v).reqs = c.reqs := by
  unfold Ctx.writeK; split <;> rfl
@[simp] theorem writeK_groups (c : Ctx) (n : Fin 8) (v : Word) : (c.writeK n v).groups = c.groups := by
  unfold Ctx.writeK; split <;> rfl
@[simp] theorem writeK_lastIssue (c : Ctx) (n : Fin 8) (v : Word) : (c.writeK n v).lastIssue = c.lastIssue := by
  unfold Ctx.writeK; split <;> rfl
@[simp] theorem writeK_winIssues (c : Ctx) (n : Fin 8) (v : Word) : (c.writeK n v).winIssues = c.winIssues := by
  unfold Ctx.writeK; split <;> rfl
@[simp] theorem writeV_s (c : Ctx) (n : Fin 32) (v : VReg) : (c.writeV n v).s = c.s := rfl
@[simp] theorem writeV_sp (c : Ctx) (n : Fin 32) (v : VReg) : (c.writeV n v).sp = c.sp := rfl
@[simp] theorem writeV_p (c : Ctx) (n : Fin 32) (v : VReg) : (c.writeV n v).p = c.p := rfl
@[simp] theorem writeV_k (c : Ctx) (n : Fin 32) (v : VReg) : (c.writeV n v).k = c.k := rfl
@[simp] theorem writeV_h (c : Ctx) (n : Fin 32) (v : VReg) : (c.writeV n v).h = c.h := rfl
@[simp] theorem writeV_pc (c : Ctx) (n : Fin 32) (v : VReg) : (c.writeV n v).pc = c.pc := rfl
@[simp] theorem writeV_pcOver (c : Ctx) (n : Fin 32) (v : VReg) : (c.writeV n v).pcOver = c.pcOver := rfl
@[simp] theorem writeV_phase (c : Ctx) (n : Fin 32) (v : VReg) : (c.writeV n v).phase = c.phase := rfl
@[simp] theorem writeV_firing (c : Ctx) (n : Fin 32) (v : VReg) : (c.writeV n v).firing = c.firing := rfl
@[simp] theorem writeV_serials (c : Ctx) (n : Fin 32) (v : VReg) : (c.writeV n v).serials = c.serials := rfl
@[simp] theorem writeV_hIssued (c : Ctx) (n : Fin 32) (v : VReg) : (c.writeV n v).hIssued = c.hIssued := rfl
@[simp] theorem writeV_hInst (c : Ctx) (n : Fin 32) (v : VReg) : (c.writeV n v).hInst = c.hInst := rfl
@[simp] theorem writeV_hSerial (c : Ctx) (n : Fin 32) (v : VReg) : (c.writeV n v).hSerial = c.hSerial := rfl
@[simp] theorem writeV_aborted (c : Ctx) (n : Fin 32) (v : VReg) : (c.writeV n v).aborted = c.aborted := rfl
@[simp] theorem writeV_dpc (c : Ctx) (n : Fin 32) (v : VReg) : (c.writeV n v).dpc = c.dpc := rfl
@[simp] theorem writeV_tcause (c : Ctx) (n : Fin 32) (v : VReg) : (c.writeV n v).tcause = c.tcause := rfl
@[simp] theorem writeV_tdetail (c : Ctx) (n : Fin 32) (v : VReg) : (c.writeV n v).tdetail = c.tdetail := rfl
@[simp] theorem writeV_tpc (c : Ctx) (n : Fin 32) (v : VReg) : (c.writeV n v).tpc = c.tpc := rfl
@[simp] theorem writeV_owed (c : Ctx) (n : Fin 32) (v : VReg) : (c.writeV n v).owed = c.owed := rfl
@[simp] theorem writeV_trapbase (c : Ctx) (n : Fin 32) (v : VReg) : (c.writeV n v).trapbase = c.trapbase := rfl
@[simp] theorem writeV_ss (c : Ctx) (n : Fin 32) (v : VReg) : (c.writeV n v).ss = c.ss := rfl
@[simp] theorem writeV_tmpl (c : Ctx) (n : Fin 32) (v : VReg) : (c.writeV n v).tmpl = c.tmpl := rfl
@[simp] theorem writeV_wm (c : Ctx) (n : Fin 32) (v : VReg) : (c.writeV n v).wm = c.wm := rfl
@[simp] theorem writeV_wcb (c : Ctx) (n : Fin 32) (v : VReg) : (c.writeV n v).wcb = c.wcb := rfl
@[simp] theorem writeV_reqs (c : Ctx) (n : Fin 32) (v : VReg) : (c.writeV n v).reqs = c.reqs := rfl
@[simp] theorem writeV_groups (c : Ctx) (n : Fin 32) (v : VReg) : (c.writeV n v).groups = c.groups := rfl
@[simp] theorem writeV_lastIssue (c : Ctx) (n : Fin 32) (v : VReg) : (c.writeV n v).lastIssue = c.lastIssue := rfl
@[simp] theorem writeV_winIssues (c : Ctx) (n : Fin 32) (v : VReg) : (c.writeV n v).winIssues = c.winIssues := rfl
@[simp] theorem writeH_s (c : Ctx) (n : Fin 16) (v : HReg) : (c.writeH n v).s = c.s := rfl
@[simp] theorem writeH_sp (c : Ctx) (n : Fin 16) (v : HReg) : (c.writeH n v).sp = c.sp := rfl
@[simp] theorem writeH_p (c : Ctx) (n : Fin 16) (v : HReg) : (c.writeH n v).p = c.p := rfl
@[simp] theorem writeH_k (c : Ctx) (n : Fin 16) (v : HReg) : (c.writeH n v).k = c.k := rfl
@[simp] theorem writeH_v (c : Ctx) (n : Fin 16) (v : HReg) : (c.writeH n v).v = c.v := rfl
@[simp] theorem writeH_pc (c : Ctx) (n : Fin 16) (v : HReg) : (c.writeH n v).pc = c.pc := rfl
@[simp] theorem writeH_pcOver (c : Ctx) (n : Fin 16) (v : HReg) : (c.writeH n v).pcOver = c.pcOver := rfl
@[simp] theorem writeH_phase (c : Ctx) (n : Fin 16) (v : HReg) : (c.writeH n v).phase = c.phase := rfl
@[simp] theorem writeH_firing (c : Ctx) (n : Fin 16) (v : HReg) : (c.writeH n v).firing = c.firing := rfl
@[simp] theorem writeH_serials (c : Ctx) (n : Fin 16) (v : HReg) : (c.writeH n v).serials = c.serials := rfl
@[simp] theorem writeH_hIssued (c : Ctx) (n : Fin 16) (v : HReg) : (c.writeH n v).hIssued = c.hIssued := rfl
@[simp] theorem writeH_hInst (c : Ctx) (n : Fin 16) (v : HReg) : (c.writeH n v).hInst = c.hInst := rfl
@[simp] theorem writeH_hSerial (c : Ctx) (n : Fin 16) (v : HReg) : (c.writeH n v).hSerial = c.hSerial := rfl
@[simp] theorem writeH_aborted (c : Ctx) (n : Fin 16) (v : HReg) : (c.writeH n v).aborted = c.aborted := rfl
@[simp] theorem writeH_dpc (c : Ctx) (n : Fin 16) (v : HReg) : (c.writeH n v).dpc = c.dpc := rfl
@[simp] theorem writeH_tcause (c : Ctx) (n : Fin 16) (v : HReg) : (c.writeH n v).tcause = c.tcause := rfl
@[simp] theorem writeH_tdetail (c : Ctx) (n : Fin 16) (v : HReg) : (c.writeH n v).tdetail = c.tdetail := rfl
@[simp] theorem writeH_tpc (c : Ctx) (n : Fin 16) (v : HReg) : (c.writeH n v).tpc = c.tpc := rfl
@[simp] theorem writeH_owed (c : Ctx) (n : Fin 16) (v : HReg) : (c.writeH n v).owed = c.owed := rfl
@[simp] theorem writeH_trapbase (c : Ctx) (n : Fin 16) (v : HReg) : (c.writeH n v).trapbase = c.trapbase := rfl
@[simp] theorem writeH_ss (c : Ctx) (n : Fin 16) (v : HReg) : (c.writeH n v).ss = c.ss := rfl
@[simp] theorem writeH_tmpl (c : Ctx) (n : Fin 16) (v : HReg) : (c.writeH n v).tmpl = c.tmpl := rfl
@[simp] theorem writeH_wm (c : Ctx) (n : Fin 16) (v : HReg) : (c.writeH n v).wm = c.wm := rfl
@[simp] theorem writeH_wcb (c : Ctx) (n : Fin 16) (v : HReg) : (c.writeH n v).wcb = c.wcb := rfl
@[simp] theorem writeH_reqs (c : Ctx) (n : Fin 16) (v : HReg) : (c.writeH n v).reqs = c.reqs := rfl
@[simp] theorem writeH_groups (c : Ctx) (n : Fin 16) (v : HReg) : (c.writeH n v).groups = c.groups := rfl
@[simp] theorem writeH_lastIssue (c : Ctx) (n : Fin 16) (v : HReg) : (c.writeH n v).lastIssue = c.lastIssue := rfl
@[simp] theorem writeH_winIssues (c : Ctx) (n : Fin 16) (v : HReg) : (c.writeH n v).winIssues = c.winIssues := rfl
@[simp] theorem setSlotUse_s (c : Ctx) (n : Fin 16) (u : SlotUse) : (c.setSlotUse n u).s = c.s := by
  unfold Ctx.setSlotUse; split <;> rfl
@[simp] theorem setSlotUse_sp (c : Ctx) (n : Fin 16) (u : SlotUse) : (c.setSlotUse n u).sp = c.sp := by
  unfold Ctx.setSlotUse; split <;> rfl
@[simp] theorem setSlotUse_p (c : Ctx) (n : Fin 16) (u : SlotUse) : (c.setSlotUse n u).p = c.p := by
  unfold Ctx.setSlotUse; split <;> rfl
@[simp] theorem setSlotUse_k (c : Ctx) (n : Fin 16) (u : SlotUse) : (c.setSlotUse n u).k = c.k := by
  unfold Ctx.setSlotUse; split <;> rfl
@[simp] theorem setSlotUse_v (c : Ctx) (n : Fin 16) (u : SlotUse) : (c.setSlotUse n u).v = c.v := by
  unfold Ctx.setSlotUse; split <;> rfl
@[simp] theorem setSlotUse_h (c : Ctx) (n : Fin 16) (u : SlotUse) : (c.setSlotUse n u).h = c.h := by
  unfold Ctx.setSlotUse; split <;> rfl
@[simp] theorem setSlotUse_pc (c : Ctx) (n : Fin 16) (u : SlotUse) : (c.setSlotUse n u).pc = c.pc := by
  unfold Ctx.setSlotUse; split <;> rfl
@[simp] theorem setSlotUse_pcOver (c : Ctx) (n : Fin 16) (u : SlotUse) : (c.setSlotUse n u).pcOver = c.pcOver := by
  unfold Ctx.setSlotUse; split <;> rfl
@[simp] theorem setSlotUse_phase (c : Ctx) (n : Fin 16) (u : SlotUse) : (c.setSlotUse n u).phase = c.phase := by
  unfold Ctx.setSlotUse; split <;> rfl
@[simp] theorem setSlotUse_serials (c : Ctx) (n : Fin 16) (u : SlotUse) : (c.setSlotUse n u).serials = c.serials := by
  unfold Ctx.setSlotUse; split <;> rfl
@[simp] theorem setSlotUse_hIssued (c : Ctx) (n : Fin 16) (u : SlotUse) : (c.setSlotUse n u).hIssued = c.hIssued := by
  unfold Ctx.setSlotUse; split <;> rfl
@[simp] theorem setSlotUse_hInst (c : Ctx) (n : Fin 16) (u : SlotUse) : (c.setSlotUse n u).hInst = c.hInst := by
  unfold Ctx.setSlotUse; split <;> rfl
@[simp] theorem setSlotUse_hSerial (c : Ctx) (n : Fin 16) (u : SlotUse) : (c.setSlotUse n u).hSerial = c.hSerial := by
  unfold Ctx.setSlotUse; split <;> rfl
@[simp] theorem setSlotUse_aborted (c : Ctx) (n : Fin 16) (u : SlotUse) : (c.setSlotUse n u).aborted = c.aborted := by
  unfold Ctx.setSlotUse; split <;> rfl
@[simp] theorem setSlotUse_dpc (c : Ctx) (n : Fin 16) (u : SlotUse) : (c.setSlotUse n u).dpc = c.dpc := by
  unfold Ctx.setSlotUse; split <;> rfl
@[simp] theorem setSlotUse_tcause (c : Ctx) (n : Fin 16) (u : SlotUse) : (c.setSlotUse n u).tcause = c.tcause := by
  unfold Ctx.setSlotUse; split <;> rfl
@[simp] theorem setSlotUse_tdetail (c : Ctx) (n : Fin 16) (u : SlotUse) : (c.setSlotUse n u).tdetail = c.tdetail := by
  unfold Ctx.setSlotUse; split <;> rfl
@[simp] theorem setSlotUse_tpc (c : Ctx) (n : Fin 16) (u : SlotUse) : (c.setSlotUse n u).tpc = c.tpc := by
  unfold Ctx.setSlotUse; split <;> rfl
@[simp] theorem setSlotUse_owed (c : Ctx) (n : Fin 16) (u : SlotUse) : (c.setSlotUse n u).owed = c.owed := by
  unfold Ctx.setSlotUse; split <;> rfl
@[simp] theorem setSlotUse_trapbase (c : Ctx) (n : Fin 16) (u : SlotUse) : (c.setSlotUse n u).trapbase = c.trapbase := by
  unfold Ctx.setSlotUse; split <;> rfl
@[simp] theorem setSlotUse_ss (c : Ctx) (n : Fin 16) (u : SlotUse) : (c.setSlotUse n u).ss = c.ss := by
  unfold Ctx.setSlotUse; split <;> rfl
@[simp] theorem setSlotUse_tmpl (c : Ctx) (n : Fin 16) (u : SlotUse) : (c.setSlotUse n u).tmpl = c.tmpl := by
  unfold Ctx.setSlotUse; split <;> rfl
@[simp] theorem setSlotUse_wm (c : Ctx) (n : Fin 16) (u : SlotUse) : (c.setSlotUse n u).wm = c.wm := by
  unfold Ctx.setSlotUse; split <;> rfl
@[simp] theorem setSlotUse_wcb (c : Ctx) (n : Fin 16) (u : SlotUse) : (c.setSlotUse n u).wcb = c.wcb := by
  unfold Ctx.setSlotUse; split <;> rfl
@[simp] theorem setSlotUse_reqs (c : Ctx) (n : Fin 16) (u : SlotUse) : (c.setSlotUse n u).reqs = c.reqs := by
  unfold Ctx.setSlotUse; split <;> rfl
@[simp] theorem setSlotUse_groups (c : Ctx) (n : Fin 16) (u : SlotUse) : (c.setSlotUse n u).groups = c.groups := by
  unfold Ctx.setSlotUse; split <;> rfl
@[simp] theorem setSlotUse_lastIssue (c : Ctx) (n : Fin 16) (u : SlotUse) : (c.setSlotUse n u).lastIssue = c.lastIssue := by
  unfold Ctx.setSlotUse; split <;> rfl
@[simp] theorem setSlotUse_winIssues (c : Ctx) (n : Fin 16) (u : SlotUse) : (c.setSlotUse n u).winIssues = c.winIssues := by
  unfold Ctx.setSlotUse; split <;> rfl

/-! ### Registers read back -/

/-- A write of S[n] is read at n, but for s0; every other scalar register is as before. -/
theorem writeS_readS (c : Ctx) (n m : Fin 32) (v : Word) (po : Bool) :
    (c.writeS n v po).readS m = if n = m ∧ n ≠ 0 then v else c.readS m := by
  unfold Ctx.writeS Ctx.readS
  by_cases h : n = 0
  · simp [h]
  · by_cases e : n = m
    · subst e; simp [h]
    · simp [h, e, vset_other]

theorem writeS_poisS (c : Ctx) (n m : Fin 32) (v : Word) (po : Bool) :
    (c.writeS n v po).poisS m = if n = m ∧ n ≠ 0 then po else c.poisS m := by
  unfold Ctx.writeS Ctx.poisS
  by_cases h : n = 0
  · simp [h]
  · simp only [if_neg h]
    rw [setBit_get _ _ _ _ m.isLt]
    by_cases e : n = m
    · subst e; simp [h]
    · simp [h, e, mt Fin.ext e]

theorem writeP_readP (c : Ctx) (n m : Fin 16) (b : Bool) :
    (c.writeP n b).readP m = if n = m ∧ n ≠ 0 then b else c.readP m := by
  unfold Ctx.writeP Ctx.readP
  by_cases h : n = 0
  · simp [h]
  · simp only [if_neg h]
    rw [setBit_get _ _ _ _ m.isLt]
    by_cases e : n = m
    · subst e; simp [h]
    · simp [h, e, mt Fin.ext e]

theorem writeK_readK (c : Ctx) (n m : Fin 8) (v : Word) :
    (c.writeK n v).readK m = if n = m ∧ n ≠ 0 then v else c.readK m := by
  unfold Ctx.writeK Ctx.readK
  by_cases h : n = 0
  · simp [h]
  · by_cases e : n = m
    · subst e; simp [h]
    · simp [h, e, vset_other]

theorem writeV_readV (c : Ctx) (n m : Fin 32) (v : VReg) :
    (c.writeV n v).readV m = if n = m then v else c.readV m := by
  unfold Ctx.writeV Ctx.readV; exact vset_get _ _ _ _

theorem writeH_readH (c : Ctx) (n m : Fin 16) (v : HReg) :
    (c.writeH n v).readH m = if n = m then v else c.readH m := by
  unfold Ctx.writeH Ctx.readH; exact vset_get _ _ _ _

/-! ### Updates of the state, field by field -/

@[simp] theorem setTile_cur (s : State) (t : Fin 256) (x : Tile) : (s.setTile t x).cur = s.cur := rfl
@[simp] theorem setTile_turn (s : State) (t : Fin 256) (x : Tile) : (s.setTile t x).turn = s.turn := rfl
@[simp] theorem setTile_agenda (s : State) (t : Fin 256) (x : Tile) : (s.setTile t x).agenda = s.agenda := rfl
@[simp] theorem setTile_mgmt (s : State) (t : Fin 256) (x : Tile) : (s.setTile t x).mgmt = s.mgmt := rfl
@[simp] theorem setTile_clusters (s : State) (t : Fin 256) (x : Tile) : (s.setTile t x).clusters = s.clusters := rfl
@[simp] theorem setTile_dies (s : State) (t : Fin 256) (x : Tile) : (s.setTile t x).dies = s.dies := rfl
@[simp] theorem setTile_parts (s : State) (t : Fin 256) (x : Tile) : (s.setTile t x).parts = s.parts := rfl
@[simp] theorem setTile_launches (s : State) (t : Fin 256) (x : Tile) : (s.setTile t x).launches = s.launches := rfl
@[simp] theorem setTile_shelf (s : State) (t : Fin 256) (x : Tile) : (s.setTile t x).shelf = s.shelf := rfl
@[simp] theorem setTile_saves (s : State) (t : Fin 256) (x : Tile) : (s.setTile t x).saves = s.saves := rfl
@[simp] theorem setTile_nextSave (s : State) (t : Fin 256) (x : Tile) : (s.setTile t x).nextSave = s.nextSave := rfl
@[simp] theorem setTile_nextLaunch (s : State) (t : Fin 256) (x : Tile) : (s.setTile t x).nextLaunch = s.nextLaunch := rfl
@[simp] theorem setTile_boxes (s : State) (t : Fin 256) (x : Tile) : (s.setTile t x).boxes = s.boxes := rfl
@[simp] theorem setTile_groups (s : State) (t : Fin 256) (x : Tile) : (s.setTile t x).groups = s.groups := rfl
@[simp] theorem setTile_convs (s : State) (t : Fin 256) (x : Tile) : (s.setTile t x).convs = s.convs := rfl
@[simp] theorem setTile_demands (s : State) (t : Fin 256) (x : Tile) : (s.setTile t x).demands = s.demands := rfl
@[simp] theorem setTile_mapWrites (s : State) (t : Fin 256) (x : Tile) : (s.setTile t x).mapWrites = s.mapWrites := rfl
@[simp] theorem setTile_erasing (s : State) (t : Fin 256) (x : Tile) : (s.setTile t x).erasing = s.erasing := rfl
@[simp] theorem setTile_root (s : State) (t : Fin 256) (x : Tile) : (s.setTile t x).root = s.root := rfl
@[simp] theorem setTile_aper (s : State) (t : Fin 256) (x : Tile) : (s.setTile t x).aper = s.aper := rfl
@[simp] theorem setTile_nextConv (s : State) (t : Fin 256) (x : Tile) : (s.setTile t x).nextConv = s.nextConv := rfl
@[simp] theorem setTile_sectors (s : State) (t : Fin 256) (x : Tile) : (s.setTile t x).sectors = s.sectors := rfl
@[simp] theorem setTile_mem (s : State) (t : Fin 256) (x : Tile) : (s.setTile t x).mem = s.mem := rfl
@[simp] theorem setTile_hostMem (s : State) (t : Fin 256) (x : Tile) : (s.setTile t x).hostMem = s.hostMem := rfl
@[simp] theorem setTile_lineKeys (s : State) (t : Fin 256) (x : Tile) : (s.setTile t x).lineKeys = s.lineKeys := rfl
@[simp] theorem setTile_keys (s : State) (t : Fin 256) (x : Tile) : (s.setTile t x).keys = s.keys := rfl
@[simp] theorem setTile_vfs (s : State) (t : Fin 256) (x : Tile) : (s.setTile t x).vfs = s.vfs := rfl
@[simp] theorem setTile_pf (s : State) (t : Fin 256) (x : Tile) : (s.setTile t x).pf = s.pf := rfl
@[simp] theorem setTile_reply (s : State) (t : Fin 256) (x : Tile) : (s.setTile t x).reply = s.reply := rfl
@[simp] theorem setTile_held (s : State) (t : Fin 256) (x : Tile) : (s.setTile t x).held = s.held := rfl
@[simp] theorem setTile_spdm (s : State) (t : Fin 256) (x : Tile) : (s.setTile t x).spdm = s.spdm := rfl
@[simp] theorem setTile_leaves (s : State) (t : Fin 256) (x : Tile) : (s.setTile t x).leaves = s.leaves := rfl
@[simp] theorem setTile_ide (s : State) (t : Fin 256) (x : Tile) : (s.setTile t x).ide = s.ide := rfl
@[simp] theorem setTile_hbm (s : State) (t : Fin 256) (x : Tile) : (s.setTile t x).hbm = s.hbm := rfl
@[simp] theorem setTile_regions (s : State) (t : Fin 256) (x : Tile) : (s.setTile t x).regions = s.regions := rfl
@[simp] theorem setTile_lim (s : State) (t : Fin 256) (x : Tile) : (s.setTile t x).lim = s.lim := rfl
@[simp] theorem setTile_xltRoot (s : State) (t : Fin 256) (x : Tile) : (s.setTile t x).xltRoot = s.xltRoot := rfl
@[simp] theorem setTile_xltWin (s : State) (t : Fin 256) (x : Tile) : (s.setTile t x).xltWin = s.xltWin := rfl
@[simp] theorem setTile_freeCtr (s : State) (t : Fin 256) (x : Tile) : (s.setTile t x).freeCtr = s.freeCtr := rfl
@[simp] theorem setTile_nextTok (s : State) (t : Fin 256) (x : Tile) : (s.setTile t x).nextTok = s.nextTok := rfl
@[simp] theorem modTile_cur (s : State) (t : Fin 256) (f : Tile → Tile) : (s.modTile t f).cur = s.cur := rfl
@[simp] theorem modTile_turn (s : State) (t : Fin 256) (f : Tile → Tile) : (s.modTile t f).turn = s.turn := rfl
@[simp] theorem modTile_agenda (s : State) (t : Fin 256) (f : Tile → Tile) : (s.modTile t f).agenda = s.agenda := rfl
@[simp] theorem modTile_mgmt (s : State) (t : Fin 256) (f : Tile → Tile) : (s.modTile t f).mgmt = s.mgmt := rfl
@[simp] theorem modTile_clusters (s : State) (t : Fin 256) (f : Tile → Tile) : (s.modTile t f).clusters = s.clusters := rfl
@[simp] theorem modTile_dies (s : State) (t : Fin 256) (f : Tile → Tile) : (s.modTile t f).dies = s.dies := rfl
@[simp] theorem modTile_parts (s : State) (t : Fin 256) (f : Tile → Tile) : (s.modTile t f).parts = s.parts := rfl
@[simp] theorem modTile_launches (s : State) (t : Fin 256) (f : Tile → Tile) : (s.modTile t f).launches = s.launches := rfl
@[simp] theorem modTile_shelf (s : State) (t : Fin 256) (f : Tile → Tile) : (s.modTile t f).shelf = s.shelf := rfl
@[simp] theorem modTile_saves (s : State) (t : Fin 256) (f : Tile → Tile) : (s.modTile t f).saves = s.saves := rfl
@[simp] theorem modTile_nextSave (s : State) (t : Fin 256) (f : Tile → Tile) : (s.modTile t f).nextSave = s.nextSave := rfl
@[simp] theorem modTile_nextLaunch (s : State) (t : Fin 256) (f : Tile → Tile) : (s.modTile t f).nextLaunch = s.nextLaunch := rfl
@[simp] theorem modTile_boxes (s : State) (t : Fin 256) (f : Tile → Tile) : (s.modTile t f).boxes = s.boxes := rfl
@[simp] theorem modTile_groups (s : State) (t : Fin 256) (f : Tile → Tile) : (s.modTile t f).groups = s.groups := rfl
@[simp] theorem modTile_convs (s : State) (t : Fin 256) (f : Tile → Tile) : (s.modTile t f).convs = s.convs := rfl
@[simp] theorem modTile_demands (s : State) (t : Fin 256) (f : Tile → Tile) : (s.modTile t f).demands = s.demands := rfl
@[simp] theorem modTile_mapWrites (s : State) (t : Fin 256) (f : Tile → Tile) : (s.modTile t f).mapWrites = s.mapWrites := rfl
@[simp] theorem modTile_erasing (s : State) (t : Fin 256) (f : Tile → Tile) : (s.modTile t f).erasing = s.erasing := rfl
@[simp] theorem modTile_root (s : State) (t : Fin 256) (f : Tile → Tile) : (s.modTile t f).root = s.root := rfl
@[simp] theorem modTile_aper (s : State) (t : Fin 256) (f : Tile → Tile) : (s.modTile t f).aper = s.aper := rfl
@[simp] theorem modTile_nextConv (s : State) (t : Fin 256) (f : Tile → Tile) : (s.modTile t f).nextConv = s.nextConv := rfl
@[simp] theorem modTile_sectors (s : State) (t : Fin 256) (f : Tile → Tile) : (s.modTile t f).sectors = s.sectors := rfl
@[simp] theorem modTile_mem (s : State) (t : Fin 256) (f : Tile → Tile) : (s.modTile t f).mem = s.mem := rfl
@[simp] theorem modTile_hostMem (s : State) (t : Fin 256) (f : Tile → Tile) : (s.modTile t f).hostMem = s.hostMem := rfl
@[simp] theorem modTile_lineKeys (s : State) (t : Fin 256) (f : Tile → Tile) : (s.modTile t f).lineKeys = s.lineKeys := rfl
@[simp] theorem modTile_keys (s : State) (t : Fin 256) (f : Tile → Tile) : (s.modTile t f).keys = s.keys := rfl
@[simp] theorem modTile_vfs (s : State) (t : Fin 256) (f : Tile → Tile) : (s.modTile t f).vfs = s.vfs := rfl
@[simp] theorem modTile_pf (s : State) (t : Fin 256) (f : Tile → Tile) : (s.modTile t f).pf = s.pf := rfl
@[simp] theorem modTile_reply (s : State) (t : Fin 256) (f : Tile → Tile) : (s.modTile t f).reply = s.reply := rfl
@[simp] theorem modTile_held (s : State) (t : Fin 256) (f : Tile → Tile) : (s.modTile t f).held = s.held := rfl
@[simp] theorem modTile_spdm (s : State) (t : Fin 256) (f : Tile → Tile) : (s.modTile t f).spdm = s.spdm := rfl
@[simp] theorem modTile_leaves (s : State) (t : Fin 256) (f : Tile → Tile) : (s.modTile t f).leaves = s.leaves := rfl
@[simp] theorem modTile_ide (s : State) (t : Fin 256) (f : Tile → Tile) : (s.modTile t f).ide = s.ide := rfl
@[simp] theorem modTile_hbm (s : State) (t : Fin 256) (f : Tile → Tile) : (s.modTile t f).hbm = s.hbm := rfl
@[simp] theorem modTile_regions (s : State) (t : Fin 256) (f : Tile → Tile) : (s.modTile t f).regions = s.regions := rfl
@[simp] theorem modTile_lim (s : State) (t : Fin 256) (f : Tile → Tile) : (s.modTile t f).lim = s.lim := rfl
@[simp] theorem modTile_xltRoot (s : State) (t : Fin 256) (f : Tile → Tile) : (s.modTile t f).xltRoot = s.xltRoot := rfl
@[simp] theorem modTile_xltWin (s : State) (t : Fin 256) (f : Tile → Tile) : (s.modTile t f).xltWin = s.xltWin := rfl
@[simp] theorem modTile_freeCtr (s : State) (t : Fin 256) (f : Tile → Tile) : (s.modTile t f).freeCtr = s.freeCtr := rfl
@[simp] theorem modTile_nextTok (s : State) (t : Fin 256) (f : Tile → Tile) : (s.modTile t f).nextTok = s.nextTok := rfl
@[simp] theorem setCtx_cur (s : State) (g : AgentId) (x : Ctx) : (s.setCtx g x).cur = s.cur := by cases g <;> rfl
@[simp] theorem setCtx_turn (s : State) (g : AgentId) (x : Ctx) : (s.setCtx g x).turn = s.turn := by cases g <;> rfl
@[simp] theorem setCtx_agenda (s : State) (g : AgentId) (x : Ctx) : (s.setCtx g x).agenda = s.agenda := by cases g <;> rfl
@[simp] theorem setCtx_clusters (s : State) (g : AgentId) (x : Ctx) : (s.setCtx g x).clusters = s.clusters := by cases g <;> rfl
@[simp] theorem setCtx_dies (s : State) (g : AgentId) (x : Ctx) : (s.setCtx g x).dies = s.dies := by cases g <;> rfl
@[simp] theorem setCtx_parts (s : State) (g : AgentId) (x : Ctx) : (s.setCtx g x).parts = s.parts := by cases g <;> rfl
@[simp] theorem setCtx_launches (s : State) (g : AgentId) (x : Ctx) : (s.setCtx g x).launches = s.launches := by cases g <;> rfl
@[simp] theorem setCtx_shelf (s : State) (g : AgentId) (x : Ctx) : (s.setCtx g x).shelf = s.shelf := by cases g <;> rfl
@[simp] theorem setCtx_saves (s : State) (g : AgentId) (x : Ctx) : (s.setCtx g x).saves = s.saves := by cases g <;> rfl
@[simp] theorem setCtx_nextSave (s : State) (g : AgentId) (x : Ctx) : (s.setCtx g x).nextSave = s.nextSave := by cases g <;> rfl
@[simp] theorem setCtx_nextLaunch (s : State) (g : AgentId) (x : Ctx) : (s.setCtx g x).nextLaunch = s.nextLaunch := by cases g <;> rfl
@[simp] theorem setCtx_boxes (s : State) (g : AgentId) (x : Ctx) : (s.setCtx g x).boxes = s.boxes := by cases g <;> rfl
@[simp] theorem setCtx_groups (s : State) (g : AgentId) (x : Ctx) : (s.setCtx g x).groups = s.groups := by cases g <;> rfl
@[simp] theorem setCtx_convs (s : State) (g : AgentId) (x : Ctx) : (s.setCtx g x).convs = s.convs := by cases g <;> rfl
@[simp] theorem setCtx_demands (s : State) (g : AgentId) (x : Ctx) : (s.setCtx g x).demands = s.demands := by cases g <;> rfl
@[simp] theorem setCtx_mapWrites (s : State) (g : AgentId) (x : Ctx) : (s.setCtx g x).mapWrites = s.mapWrites := by cases g <;> rfl
@[simp] theorem setCtx_erasing (s : State) (g : AgentId) (x : Ctx) : (s.setCtx g x).erasing = s.erasing := by cases g <;> rfl
@[simp] theorem setCtx_root (s : State) (g : AgentId) (x : Ctx) : (s.setCtx g x).root = s.root := by cases g <;> rfl
@[simp] theorem setCtx_aper (s : State) (g : AgentId) (x : Ctx) : (s.setCtx g x).aper = s.aper := by cases g <;> rfl
@[simp] theorem setCtx_nextConv (s : State) (g : AgentId) (x : Ctx) : (s.setCtx g x).nextConv = s.nextConv := by cases g <;> rfl
@[simp] theorem setCtx_sectors (s : State) (g : AgentId) (x : Ctx) : (s.setCtx g x).sectors = s.sectors := by cases g <;> rfl
@[simp] theorem setCtx_mem (s : State) (g : AgentId) (x : Ctx) : (s.setCtx g x).mem = s.mem := by cases g <;> rfl
@[simp] theorem setCtx_hostMem (s : State) (g : AgentId) (x : Ctx) : (s.setCtx g x).hostMem = s.hostMem := by cases g <;> rfl
@[simp] theorem setCtx_lineKeys (s : State) (g : AgentId) (x : Ctx) : (s.setCtx g x).lineKeys = s.lineKeys := by cases g <;> rfl
@[simp] theorem setCtx_keys (s : State) (g : AgentId) (x : Ctx) : (s.setCtx g x).keys = s.keys := by cases g <;> rfl
@[simp] theorem setCtx_vfs (s : State) (g : AgentId) (x : Ctx) : (s.setCtx g x).vfs = s.vfs := by cases g <;> rfl
@[simp] theorem setCtx_pf (s : State) (g : AgentId) (x : Ctx) : (s.setCtx g x).pf = s.pf := by cases g <;> rfl
@[simp] theorem setCtx_reply (s : State) (g : AgentId) (x : Ctx) : (s.setCtx g x).reply = s.reply := by cases g <;> rfl
@[simp] theorem setCtx_held (s : State) (g : AgentId) (x : Ctx) : (s.setCtx g x).held = s.held := by cases g <;> rfl
@[simp] theorem setCtx_spdm (s : State) (g : AgentId) (x : Ctx) : (s.setCtx g x).spdm = s.spdm := by cases g <;> rfl
@[simp] theorem setCtx_leaves (s : State) (g : AgentId) (x : Ctx) : (s.setCtx g x).leaves = s.leaves := by cases g <;> rfl
@[simp] theorem setCtx_ide (s : State) (g : AgentId) (x : Ctx) : (s.setCtx g x).ide = s.ide := by cases g <;> rfl
@[simp] theorem setCtx_hbm (s : State) (g : AgentId) (x : Ctx) : (s.setCtx g x).hbm = s.hbm := by cases g <;> rfl
@[simp] theorem setCtx_regions (s : State) (g : AgentId) (x : Ctx) : (s.setCtx g x).regions = s.regions := by cases g <;> rfl
@[simp] theorem setCtx_lim (s : State) (g : AgentId) (x : Ctx) : (s.setCtx g x).lim = s.lim := by cases g <;> rfl
@[simp] theorem setCtx_xltRoot (s : State) (g : AgentId) (x : Ctx) : (s.setCtx g x).xltRoot = s.xltRoot := by cases g <;> rfl
@[simp] theorem setCtx_xltWin (s : State) (g : AgentId) (x : Ctx) : (s.setCtx g x).xltWin = s.xltWin := by cases g <;> rfl
@[simp] theorem setCtx_freeCtr (s : State) (g : AgentId) (x : Ctx) : (s.setCtx g x).freeCtr = s.freeCtr := by cases g <;> rfl
@[simp] theorem setCtx_nextTok (s : State) (g : AgentId) (x : Ctx) : (s.setCtx g x).nextTok = s.nextTok := by cases g <;> rfl
@[simp] theorem modCtx_cur (s : State) (g : AgentId) (f : Ctx → Ctx) : (s.modCtx g f).cur = s.cur := by cases g <;> rfl
@[simp] theorem modCtx_turn (s : State) (g : AgentId) (f : Ctx → Ctx) : (s.modCtx g f).turn = s.turn := by cases g <;> rfl
@[simp] theorem modCtx_agenda (s : State) (g : AgentId) (f : Ctx → Ctx) : (s.modCtx g f).agenda = s.agenda := by cases g <;> rfl
@[simp] theorem modCtx_clusters (s : State) (g : AgentId) (f : Ctx → Ctx) : (s.modCtx g f).clusters = s.clusters := by cases g <;> rfl
@[simp] theorem modCtx_dies (s : State) (g : AgentId) (f : Ctx → Ctx) : (s.modCtx g f).dies = s.dies := by cases g <;> rfl
@[simp] theorem modCtx_parts (s : State) (g : AgentId) (f : Ctx → Ctx) : (s.modCtx g f).parts = s.parts := by cases g <;> rfl
@[simp] theorem modCtx_launches (s : State) (g : AgentId) (f : Ctx → Ctx) : (s.modCtx g f).launches = s.launches := by cases g <;> rfl
@[simp] theorem modCtx_shelf (s : State) (g : AgentId) (f : Ctx → Ctx) : (s.modCtx g f).shelf = s.shelf := by cases g <;> rfl
@[simp] theorem modCtx_saves (s : State) (g : AgentId) (f : Ctx → Ctx) : (s.modCtx g f).saves = s.saves := by cases g <;> rfl
@[simp] theorem modCtx_nextSave (s : State) (g : AgentId) (f : Ctx → Ctx) : (s.modCtx g f).nextSave = s.nextSave := by cases g <;> rfl
@[simp] theorem modCtx_nextLaunch (s : State) (g : AgentId) (f : Ctx → Ctx) : (s.modCtx g f).nextLaunch = s.nextLaunch := by cases g <;> rfl
@[simp] theorem modCtx_boxes (s : State) (g : AgentId) (f : Ctx → Ctx) : (s.modCtx g f).boxes = s.boxes := by cases g <;> rfl
@[simp] theorem modCtx_groups (s : State) (g : AgentId) (f : Ctx → Ctx) : (s.modCtx g f).groups = s.groups := by cases g <;> rfl
@[simp] theorem modCtx_convs (s : State) (g : AgentId) (f : Ctx → Ctx) : (s.modCtx g f).convs = s.convs := by cases g <;> rfl
@[simp] theorem modCtx_demands (s : State) (g : AgentId) (f : Ctx → Ctx) : (s.modCtx g f).demands = s.demands := by cases g <;> rfl
@[simp] theorem modCtx_mapWrites (s : State) (g : AgentId) (f : Ctx → Ctx) : (s.modCtx g f).mapWrites = s.mapWrites := by cases g <;> rfl
@[simp] theorem modCtx_erasing (s : State) (g : AgentId) (f : Ctx → Ctx) : (s.modCtx g f).erasing = s.erasing := by cases g <;> rfl
@[simp] theorem modCtx_root (s : State) (g : AgentId) (f : Ctx → Ctx) : (s.modCtx g f).root = s.root := by cases g <;> rfl
@[simp] theorem modCtx_aper (s : State) (g : AgentId) (f : Ctx → Ctx) : (s.modCtx g f).aper = s.aper := by cases g <;> rfl
@[simp] theorem modCtx_nextConv (s : State) (g : AgentId) (f : Ctx → Ctx) : (s.modCtx g f).nextConv = s.nextConv := by cases g <;> rfl
@[simp] theorem modCtx_sectors (s : State) (g : AgentId) (f : Ctx → Ctx) : (s.modCtx g f).sectors = s.sectors := by cases g <;> rfl
@[simp] theorem modCtx_mem (s : State) (g : AgentId) (f : Ctx → Ctx) : (s.modCtx g f).mem = s.mem := by cases g <;> rfl
@[simp] theorem modCtx_hostMem (s : State) (g : AgentId) (f : Ctx → Ctx) : (s.modCtx g f).hostMem = s.hostMem := by cases g <;> rfl
@[simp] theorem modCtx_lineKeys (s : State) (g : AgentId) (f : Ctx → Ctx) : (s.modCtx g f).lineKeys = s.lineKeys := by cases g <;> rfl
@[simp] theorem modCtx_keys (s : State) (g : AgentId) (f : Ctx → Ctx) : (s.modCtx g f).keys = s.keys := by cases g <;> rfl
@[simp] theorem modCtx_vfs (s : State) (g : AgentId) (f : Ctx → Ctx) : (s.modCtx g f).vfs = s.vfs := by cases g <;> rfl
@[simp] theorem modCtx_pf (s : State) (g : AgentId) (f : Ctx → Ctx) : (s.modCtx g f).pf = s.pf := by cases g <;> rfl
@[simp] theorem modCtx_reply (s : State) (g : AgentId) (f : Ctx → Ctx) : (s.modCtx g f).reply = s.reply := by cases g <;> rfl
@[simp] theorem modCtx_held (s : State) (g : AgentId) (f : Ctx → Ctx) : (s.modCtx g f).held = s.held := by cases g <;> rfl
@[simp] theorem modCtx_spdm (s : State) (g : AgentId) (f : Ctx → Ctx) : (s.modCtx g f).spdm = s.spdm := by cases g <;> rfl
@[simp] theorem modCtx_leaves (s : State) (g : AgentId) (f : Ctx → Ctx) : (s.modCtx g f).leaves = s.leaves := by cases g <;> rfl
@[simp] theorem modCtx_ide (s : State) (g : AgentId) (f : Ctx → Ctx) : (s.modCtx g f).ide = s.ide := by cases g <;> rfl
@[simp] theorem modCtx_hbm (s : State) (g : AgentId) (f : Ctx → Ctx) : (s.modCtx g f).hbm = s.hbm := by cases g <;> rfl
@[simp] theorem modCtx_regions (s : State) (g : AgentId) (f : Ctx → Ctx) : (s.modCtx g f).regions = s.regions := by cases g <;> rfl
@[simp] theorem modCtx_lim (s : State) (g : AgentId) (f : Ctx → Ctx) : (s.modCtx g f).lim = s.lim := by cases g <;> rfl
@[simp] theorem modCtx_xltRoot (s : State) (g : AgentId) (f : Ctx → Ctx) : (s.modCtx g f).xltRoot = s.xltRoot := by cases g <;> rfl
@[simp] theorem modCtx_xltWin (s : State) (g : AgentId) (f : Ctx → Ctx) : (s.modCtx g f).xltWin = s.xltWin := by cases g <;> rfl
@[simp] theorem modCtx_freeCtr (s : State) (g : AgentId) (f : Ctx → Ctx) : (s.modCtx g f).freeCtr = s.freeCtr := by cases g <;> rfl
@[simp] theorem modCtx_nextTok (s : State) (g : AgentId) (f : Ctx → Ctx) : (s.modCtx g f).nextTok = s.nextTok := by cases g <;> rfl
@[simp] theorem setTq_cur (s : State) (g : AgentId) (q : Fin 16) (n : Nat) : (s.setTq g q n).cur = s.cur := by cases g <;> rfl
@[simp] theorem setTq_turn (s : State) (g : AgentId) (q : Fin 16) (n : Nat) : (s.setTq g q n).turn = s.turn := by cases g <;> rfl
@[simp] theorem setTq_agenda (s : State) (g : AgentId) (q : Fin 16) (n : Nat) : (s.setTq g q n).agenda = s.agenda := by cases g <;> rfl
@[simp] theorem setTq_clusters (s : State) (g : AgentId) (q : Fin 16) (n : Nat) : (s.setTq g q n).clusters = s.clusters := by cases g <;> rfl
@[simp] theorem setTq_dies (s : State) (g : AgentId) (q : Fin 16) (n : Nat) : (s.setTq g q n).dies = s.dies := by cases g <;> rfl
@[simp] theorem setTq_parts (s : State) (g : AgentId) (q : Fin 16) (n : Nat) : (s.setTq g q n).parts = s.parts := by cases g <;> rfl
@[simp] theorem setTq_launches (s : State) (g : AgentId) (q : Fin 16) (n : Nat) : (s.setTq g q n).launches = s.launches := by cases g <;> rfl
@[simp] theorem setTq_shelf (s : State) (g : AgentId) (q : Fin 16) (n : Nat) : (s.setTq g q n).shelf = s.shelf := by cases g <;> rfl
@[simp] theorem setTq_saves (s : State) (g : AgentId) (q : Fin 16) (n : Nat) : (s.setTq g q n).saves = s.saves := by cases g <;> rfl
@[simp] theorem setTq_nextSave (s : State) (g : AgentId) (q : Fin 16) (n : Nat) : (s.setTq g q n).nextSave = s.nextSave := by cases g <;> rfl
@[simp] theorem setTq_nextLaunch (s : State) (g : AgentId) (q : Fin 16) (n : Nat) : (s.setTq g q n).nextLaunch = s.nextLaunch := by cases g <;> rfl
@[simp] theorem setTq_boxes (s : State) (g : AgentId) (q : Fin 16) (n : Nat) : (s.setTq g q n).boxes = s.boxes := by cases g <;> rfl
@[simp] theorem setTq_groups (s : State) (g : AgentId) (q : Fin 16) (n : Nat) : (s.setTq g q n).groups = s.groups := by cases g <;> rfl
@[simp] theorem setTq_convs (s : State) (g : AgentId) (q : Fin 16) (n : Nat) : (s.setTq g q n).convs = s.convs := by cases g <;> rfl
@[simp] theorem setTq_demands (s : State) (g : AgentId) (q : Fin 16) (n : Nat) : (s.setTq g q n).demands = s.demands := by cases g <;> rfl
@[simp] theorem setTq_mapWrites (s : State) (g : AgentId) (q : Fin 16) (n : Nat) : (s.setTq g q n).mapWrites = s.mapWrites := by cases g <;> rfl
@[simp] theorem setTq_erasing (s : State) (g : AgentId) (q : Fin 16) (n : Nat) : (s.setTq g q n).erasing = s.erasing := by cases g <;> rfl
@[simp] theorem setTq_root (s : State) (g : AgentId) (q : Fin 16) (n : Nat) : (s.setTq g q n).root = s.root := by cases g <;> rfl
@[simp] theorem setTq_aper (s : State) (g : AgentId) (q : Fin 16) (n : Nat) : (s.setTq g q n).aper = s.aper := by cases g <;> rfl
@[simp] theorem setTq_nextConv (s : State) (g : AgentId) (q : Fin 16) (n : Nat) : (s.setTq g q n).nextConv = s.nextConv := by cases g <;> rfl
@[simp] theorem setTq_sectors (s : State) (g : AgentId) (q : Fin 16) (n : Nat) : (s.setTq g q n).sectors = s.sectors := by cases g <;> rfl
@[simp] theorem setTq_mem (s : State) (g : AgentId) (q : Fin 16) (n : Nat) : (s.setTq g q n).mem = s.mem := by cases g <;> rfl
@[simp] theorem setTq_hostMem (s : State) (g : AgentId) (q : Fin 16) (n : Nat) : (s.setTq g q n).hostMem = s.hostMem := by cases g <;> rfl
@[simp] theorem setTq_lineKeys (s : State) (g : AgentId) (q : Fin 16) (n : Nat) : (s.setTq g q n).lineKeys = s.lineKeys := by cases g <;> rfl
@[simp] theorem setTq_keys (s : State) (g : AgentId) (q : Fin 16) (n : Nat) : (s.setTq g q n).keys = s.keys := by cases g <;> rfl
@[simp] theorem setTq_vfs (s : State) (g : AgentId) (q : Fin 16) (n : Nat) : (s.setTq g q n).vfs = s.vfs := by cases g <;> rfl
@[simp] theorem setTq_pf (s : State) (g : AgentId) (q : Fin 16) (n : Nat) : (s.setTq g q n).pf = s.pf := by cases g <;> rfl
@[simp] theorem setTq_reply (s : State) (g : AgentId) (q : Fin 16) (n : Nat) : (s.setTq g q n).reply = s.reply := by cases g <;> rfl
@[simp] theorem setTq_held (s : State) (g : AgentId) (q : Fin 16) (n : Nat) : (s.setTq g q n).held = s.held := by cases g <;> rfl
@[simp] theorem setTq_spdm (s : State) (g : AgentId) (q : Fin 16) (n : Nat) : (s.setTq g q n).spdm = s.spdm := by cases g <;> rfl
@[simp] theorem setTq_leaves (s : State) (g : AgentId) (q : Fin 16) (n : Nat) : (s.setTq g q n).leaves = s.leaves := by cases g <;> rfl
@[simp] theorem setTq_ide (s : State) (g : AgentId) (q : Fin 16) (n : Nat) : (s.setTq g q n).ide = s.ide := by cases g <;> rfl
@[simp] theorem setTq_hbm (s : State) (g : AgentId) (q : Fin 16) (n : Nat) : (s.setTq g q n).hbm = s.hbm := by cases g <;> rfl
@[simp] theorem setTq_regions (s : State) (g : AgentId) (q : Fin 16) (n : Nat) : (s.setTq g q n).regions = s.regions := by cases g <;> rfl
@[simp] theorem setTq_lim (s : State) (g : AgentId) (q : Fin 16) (n : Nat) : (s.setTq g q n).lim = s.lim := by cases g <;> rfl
@[simp] theorem setTq_xltRoot (s : State) (g : AgentId) (q : Fin 16) (n : Nat) : (s.setTq g q n).xltRoot = s.xltRoot := by cases g <;> rfl
@[simp] theorem setTq_xltWin (s : State) (g : AgentId) (q : Fin 16) (n : Nat) : (s.setTq g q n).xltWin = s.xltWin := by cases g <;> rfl
@[simp] theorem setTq_freeCtr (s : State) (g : AgentId) (q : Fin 16) (n : Nat) : (s.setTq g q n).freeCtr = s.freeCtr := by cases g <;> rfl
@[simp] theorem setTq_nextTok (s : State) (g : AgentId) (q : Fin 16) (n : Nat) : (s.setTq g q n).nextTok = s.nextTok := by cases g <;> rfl
@[simp] theorem setPend_cur (s : State) (g : AgentId) (q : Fin 16) (n : Nat) : (s.setPend g q n).cur = s.cur := by cases g <;> rfl
@[simp] theorem setPend_turn (s : State) (g : AgentId) (q : Fin 16) (n : Nat) : (s.setPend g q n).turn = s.turn := by cases g <;> rfl
@[simp] theorem setPend_agenda (s : State) (g : AgentId) (q : Fin 16) (n : Nat) : (s.setPend g q n).agenda = s.agenda := by cases g <;> rfl
@[simp] theorem setPend_clusters (s : State) (g : AgentId) (q : Fin 16) (n : Nat) : (s.setPend g q n).clusters = s.clusters := by cases g <;> rfl
@[simp] theorem setPend_dies (s : State) (g : AgentId) (q : Fin 16) (n : Nat) : (s.setPend g q n).dies = s.dies := by cases g <;> rfl
@[simp] theorem setPend_parts (s : State) (g : AgentId) (q : Fin 16) (n : Nat) : (s.setPend g q n).parts = s.parts := by cases g <;> rfl
@[simp] theorem setPend_launches (s : State) (g : AgentId) (q : Fin 16) (n : Nat) : (s.setPend g q n).launches = s.launches := by cases g <;> rfl
@[simp] theorem setPend_shelf (s : State) (g : AgentId) (q : Fin 16) (n : Nat) : (s.setPend g q n).shelf = s.shelf := by cases g <;> rfl
@[simp] theorem setPend_saves (s : State) (g : AgentId) (q : Fin 16) (n : Nat) : (s.setPend g q n).saves = s.saves := by cases g <;> rfl
@[simp] theorem setPend_nextSave (s : State) (g : AgentId) (q : Fin 16) (n : Nat) : (s.setPend g q n).nextSave = s.nextSave := by cases g <;> rfl
@[simp] theorem setPend_nextLaunch (s : State) (g : AgentId) (q : Fin 16) (n : Nat) : (s.setPend g q n).nextLaunch = s.nextLaunch := by cases g <;> rfl
@[simp] theorem setPend_boxes (s : State) (g : AgentId) (q : Fin 16) (n : Nat) : (s.setPend g q n).boxes = s.boxes := by cases g <;> rfl
@[simp] theorem setPend_groups (s : State) (g : AgentId) (q : Fin 16) (n : Nat) : (s.setPend g q n).groups = s.groups := by cases g <;> rfl
@[simp] theorem setPend_convs (s : State) (g : AgentId) (q : Fin 16) (n : Nat) : (s.setPend g q n).convs = s.convs := by cases g <;> rfl
@[simp] theorem setPend_demands (s : State) (g : AgentId) (q : Fin 16) (n : Nat) : (s.setPend g q n).demands = s.demands := by cases g <;> rfl
@[simp] theorem setPend_mapWrites (s : State) (g : AgentId) (q : Fin 16) (n : Nat) : (s.setPend g q n).mapWrites = s.mapWrites := by cases g <;> rfl
@[simp] theorem setPend_erasing (s : State) (g : AgentId) (q : Fin 16) (n : Nat) : (s.setPend g q n).erasing = s.erasing := by cases g <;> rfl
@[simp] theorem setPend_root (s : State) (g : AgentId) (q : Fin 16) (n : Nat) : (s.setPend g q n).root = s.root := by cases g <;> rfl
@[simp] theorem setPend_aper (s : State) (g : AgentId) (q : Fin 16) (n : Nat) : (s.setPend g q n).aper = s.aper := by cases g <;> rfl
@[simp] theorem setPend_nextConv (s : State) (g : AgentId) (q : Fin 16) (n : Nat) : (s.setPend g q n).nextConv = s.nextConv := by cases g <;> rfl
@[simp] theorem setPend_sectors (s : State) (g : AgentId) (q : Fin 16) (n : Nat) : (s.setPend g q n).sectors = s.sectors := by cases g <;> rfl
@[simp] theorem setPend_mem (s : State) (g : AgentId) (q : Fin 16) (n : Nat) : (s.setPend g q n).mem = s.mem := by cases g <;> rfl
@[simp] theorem setPend_hostMem (s : State) (g : AgentId) (q : Fin 16) (n : Nat) : (s.setPend g q n).hostMem = s.hostMem := by cases g <;> rfl
@[simp] theorem setPend_lineKeys (s : State) (g : AgentId) (q : Fin 16) (n : Nat) : (s.setPend g q n).lineKeys = s.lineKeys := by cases g <;> rfl
@[simp] theorem setPend_keys (s : State) (g : AgentId) (q : Fin 16) (n : Nat) : (s.setPend g q n).keys = s.keys := by cases g <;> rfl
@[simp] theorem setPend_vfs (s : State) (g : AgentId) (q : Fin 16) (n : Nat) : (s.setPend g q n).vfs = s.vfs := by cases g <;> rfl
@[simp] theorem setPend_pf (s : State) (g : AgentId) (q : Fin 16) (n : Nat) : (s.setPend g q n).pf = s.pf := by cases g <;> rfl
@[simp] theorem setPend_reply (s : State) (g : AgentId) (q : Fin 16) (n : Nat) : (s.setPend g q n).reply = s.reply := by cases g <;> rfl
@[simp] theorem setPend_held (s : State) (g : AgentId) (q : Fin 16) (n : Nat) : (s.setPend g q n).held = s.held := by cases g <;> rfl
@[simp] theorem setPend_spdm (s : State) (g : AgentId) (q : Fin 16) (n : Nat) : (s.setPend g q n).spdm = s.spdm := by cases g <;> rfl
@[simp] theorem setPend_leaves (s : State) (g : AgentId) (q : Fin 16) (n : Nat) : (s.setPend g q n).leaves = s.leaves := by cases g <;> rfl
@[simp] theorem setPend_ide (s : State) (g : AgentId) (q : Fin 16) (n : Nat) : (s.setPend g q n).ide = s.ide := by cases g <;> rfl
@[simp] theorem setPend_hbm (s : State) (g : AgentId) (q : Fin 16) (n : Nat) : (s.setPend g q n).hbm = s.hbm := by cases g <;> rfl
@[simp] theorem setPend_regions (s : State) (g : AgentId) (q : Fin 16) (n : Nat) : (s.setPend g q n).regions = s.regions := by cases g <;> rfl
@[simp] theorem setPend_lim (s : State) (g : AgentId) (q : Fin 16) (n : Nat) : (s.setPend g q n).lim = s.lim := by cases g <;> rfl
@[simp] theorem setPend_xltRoot (s : State) (g : AgentId) (q : Fin 16) (n : Nat) : (s.setPend g q n).xltRoot = s.xltRoot := by cases g <;> rfl
@[simp] theorem setPend_xltWin (s : State) (g : AgentId) (q : Fin 16) (n : Nat) : (s.setPend g q n).xltWin = s.xltWin := by cases g <;> rfl
@[simp] theorem setPend_freeCtr (s : State) (g : AgentId) (q : Fin 16) (n : Nat) : (s.setPend g q n).freeCtr = s.freeCtr := by cases g <;> rfl
@[simp] theorem setPend_nextTok (s : State) (g : AgentId) (q : Fin 16) (n : Nat) : (s.setPend g q n).nextTok = s.nextTok := by cases g <;> rfl
@[simp] theorem signal_cur (s : State) (g : AgentId) (q : Fin 16) : (s.signal g q).cur = s.cur := by
  unfold State.signal; split <;> simp
@[simp] theorem signal_turn (s : State) (g : AgentId) (q : Fin 16) : (s.signal g q).turn = s.turn := by
  unfold State.signal; split <;> simp
@[simp] theorem signal_agenda (s : State) (g : AgentId) (q : Fin 16) : (s.signal g q).agenda = s.agenda := by
  unfold State.signal; split <;> simp
@[simp] theorem signal_clusters (s : State) (g : AgentId) (q : Fin 16) : (s.signal g q).clusters = s.clusters := by
  unfold State.signal; split <;> simp
@[simp] theorem signal_dies (s : State) (g : AgentId) (q : Fin 16) : (s.signal g q).dies = s.dies := by
  unfold State.signal; split <;> simp
@[simp] theorem signal_parts (s : State) (g : AgentId) (q : Fin 16) : (s.signal g q).parts = s.parts := by
  unfold State.signal; split <;> simp
@[simp] theorem signal_launches (s : State) (g : AgentId) (q : Fin 16) : (s.signal g q).launches = s.launches := by
  unfold State.signal; split <;> simp
@[simp] theorem signal_shelf (s : State) (g : AgentId) (q : Fin 16) : (s.signal g q).shelf = s.shelf := by
  unfold State.signal; split <;> simp
@[simp] theorem signal_saves (s : State) (g : AgentId) (q : Fin 16) : (s.signal g q).saves = s.saves := by
  unfold State.signal; split <;> simp
@[simp] theorem signal_nextSave (s : State) (g : AgentId) (q : Fin 16) : (s.signal g q).nextSave = s.nextSave := by
  unfold State.signal; split <;> simp
@[simp] theorem signal_nextLaunch (s : State) (g : AgentId) (q : Fin 16) : (s.signal g q).nextLaunch = s.nextLaunch := by
  unfold State.signal; split <;> simp
@[simp] theorem signal_boxes (s : State) (g : AgentId) (q : Fin 16) : (s.signal g q).boxes = s.boxes := by
  unfold State.signal; split <;> simp
@[simp] theorem signal_groups (s : State) (g : AgentId) (q : Fin 16) : (s.signal g q).groups = s.groups := by
  unfold State.signal; split <;> simp
@[simp] theorem signal_convs (s : State) (g : AgentId) (q : Fin 16) : (s.signal g q).convs = s.convs := by
  unfold State.signal; split <;> simp
@[simp] theorem signal_demands (s : State) (g : AgentId) (q : Fin 16) : (s.signal g q).demands = s.demands := by
  unfold State.signal; split <;> simp
@[simp] theorem signal_mapWrites (s : State) (g : AgentId) (q : Fin 16) : (s.signal g q).mapWrites = s.mapWrites := by
  unfold State.signal; split <;> simp
@[simp] theorem signal_erasing (s : State) (g : AgentId) (q : Fin 16) : (s.signal g q).erasing = s.erasing := by
  unfold State.signal; split <;> simp
@[simp] theorem signal_root (s : State) (g : AgentId) (q : Fin 16) : (s.signal g q).root = s.root := by
  unfold State.signal; split <;> simp
@[simp] theorem signal_aper (s : State) (g : AgentId) (q : Fin 16) : (s.signal g q).aper = s.aper := by
  unfold State.signal; split <;> simp
@[simp] theorem signal_nextConv (s : State) (g : AgentId) (q : Fin 16) : (s.signal g q).nextConv = s.nextConv := by
  unfold State.signal; split <;> simp
@[simp] theorem signal_sectors (s : State) (g : AgentId) (q : Fin 16) : (s.signal g q).sectors = s.sectors := by
  unfold State.signal; split <;> simp
@[simp] theorem signal_mem (s : State) (g : AgentId) (q : Fin 16) : (s.signal g q).mem = s.mem := by
  unfold State.signal; split <;> simp
@[simp] theorem signal_hostMem (s : State) (g : AgentId) (q : Fin 16) : (s.signal g q).hostMem = s.hostMem := by
  unfold State.signal; split <;> simp
@[simp] theorem signal_lineKeys (s : State) (g : AgentId) (q : Fin 16) : (s.signal g q).lineKeys = s.lineKeys := by
  unfold State.signal; split <;> simp
@[simp] theorem signal_keys (s : State) (g : AgentId) (q : Fin 16) : (s.signal g q).keys = s.keys := by
  unfold State.signal; split <;> simp
@[simp] theorem signal_vfs (s : State) (g : AgentId) (q : Fin 16) : (s.signal g q).vfs = s.vfs := by
  unfold State.signal; split <;> simp
@[simp] theorem signal_pf (s : State) (g : AgentId) (q : Fin 16) : (s.signal g q).pf = s.pf := by
  unfold State.signal; split <;> simp
@[simp] theorem signal_reply (s : State) (g : AgentId) (q : Fin 16) : (s.signal g q).reply = s.reply := by
  unfold State.signal; split <;> simp
@[simp] theorem signal_held (s : State) (g : AgentId) (q : Fin 16) : (s.signal g q).held = s.held := by
  unfold State.signal; split <;> simp
@[simp] theorem signal_spdm (s : State) (g : AgentId) (q : Fin 16) : (s.signal g q).spdm = s.spdm := by
  unfold State.signal; split <;> simp
@[simp] theorem signal_leaves (s : State) (g : AgentId) (q : Fin 16) : (s.signal g q).leaves = s.leaves := by
  unfold State.signal; split <;> simp
@[simp] theorem signal_ide (s : State) (g : AgentId) (q : Fin 16) : (s.signal g q).ide = s.ide := by
  unfold State.signal; split <;> simp
@[simp] theorem signal_hbm (s : State) (g : AgentId) (q : Fin 16) : (s.signal g q).hbm = s.hbm := by
  unfold State.signal; split <;> simp
@[simp] theorem signal_regions (s : State) (g : AgentId) (q : Fin 16) : (s.signal g q).regions = s.regions := by
  unfold State.signal; split <;> simp
@[simp] theorem signal_lim (s : State) (g : AgentId) (q : Fin 16) : (s.signal g q).lim = s.lim := by
  unfold State.signal; split <;> simp
@[simp] theorem signal_xltRoot (s : State) (g : AgentId) (q : Fin 16) : (s.signal g q).xltRoot = s.xltRoot := by
  unfold State.signal; split <;> simp
@[simp] theorem signal_xltWin (s : State) (g : AgentId) (q : Fin 16) : (s.signal g q).xltWin = s.xltWin := by
  unfold State.signal; split <;> simp
@[simp] theorem signal_freeCtr (s : State) (g : AgentId) (q : Fin 16) : (s.signal g q).freeCtr = s.freeCtr := by
  unfold State.signal; split <;> simp
@[simp] theorem signal_nextTok (s : State) (g : AgentId) (q : Fin 16) : (s.signal g q).nextTok = s.nextTok := by
  unfold State.signal; split <;> simp
@[simp] theorem signalOpt_cur (s : State) (g : AgentId) (q : Option (Fin 16)) : (s.signalOpt g q).cur = s.cur := by
  unfold State.signalOpt; split <;> simp
@[simp] theorem signalOpt_turn (s : State) (g : AgentId) (q : Option (Fin 16)) : (s.signalOpt g q).turn = s.turn := by
  unfold State.signalOpt; split <;> simp
@[simp] theorem signalOpt_agenda (s : State) (g : AgentId) (q : Option (Fin 16)) : (s.signalOpt g q).agenda = s.agenda := by
  unfold State.signalOpt; split <;> simp
@[simp] theorem signalOpt_clusters (s : State) (g : AgentId) (q : Option (Fin 16)) : (s.signalOpt g q).clusters = s.clusters := by
  unfold State.signalOpt; split <;> simp
@[simp] theorem signalOpt_dies (s : State) (g : AgentId) (q : Option (Fin 16)) : (s.signalOpt g q).dies = s.dies := by
  unfold State.signalOpt; split <;> simp
@[simp] theorem signalOpt_parts (s : State) (g : AgentId) (q : Option (Fin 16)) : (s.signalOpt g q).parts = s.parts := by
  unfold State.signalOpt; split <;> simp
@[simp] theorem signalOpt_launches (s : State) (g : AgentId) (q : Option (Fin 16)) : (s.signalOpt g q).launches = s.launches := by
  unfold State.signalOpt; split <;> simp
@[simp] theorem signalOpt_shelf (s : State) (g : AgentId) (q : Option (Fin 16)) : (s.signalOpt g q).shelf = s.shelf := by
  unfold State.signalOpt; split <;> simp
@[simp] theorem signalOpt_saves (s : State) (g : AgentId) (q : Option (Fin 16)) : (s.signalOpt g q).saves = s.saves := by
  unfold State.signalOpt; split <;> simp
@[simp] theorem signalOpt_nextSave (s : State) (g : AgentId) (q : Option (Fin 16)) : (s.signalOpt g q).nextSave = s.nextSave := by
  unfold State.signalOpt; split <;> simp
@[simp] theorem signalOpt_nextLaunch (s : State) (g : AgentId) (q : Option (Fin 16)) : (s.signalOpt g q).nextLaunch = s.nextLaunch := by
  unfold State.signalOpt; split <;> simp
@[simp] theorem signalOpt_boxes (s : State) (g : AgentId) (q : Option (Fin 16)) : (s.signalOpt g q).boxes = s.boxes := by
  unfold State.signalOpt; split <;> simp
@[simp] theorem signalOpt_groups (s : State) (g : AgentId) (q : Option (Fin 16)) : (s.signalOpt g q).groups = s.groups := by
  unfold State.signalOpt; split <;> simp
@[simp] theorem signalOpt_convs (s : State) (g : AgentId) (q : Option (Fin 16)) : (s.signalOpt g q).convs = s.convs := by
  unfold State.signalOpt; split <;> simp
@[simp] theorem signalOpt_demands (s : State) (g : AgentId) (q : Option (Fin 16)) : (s.signalOpt g q).demands = s.demands := by
  unfold State.signalOpt; split <;> simp
@[simp] theorem signalOpt_mapWrites (s : State) (g : AgentId) (q : Option (Fin 16)) : (s.signalOpt g q).mapWrites = s.mapWrites := by
  unfold State.signalOpt; split <;> simp
@[simp] theorem signalOpt_erasing (s : State) (g : AgentId) (q : Option (Fin 16)) : (s.signalOpt g q).erasing = s.erasing := by
  unfold State.signalOpt; split <;> simp
@[simp] theorem signalOpt_root (s : State) (g : AgentId) (q : Option (Fin 16)) : (s.signalOpt g q).root = s.root := by
  unfold State.signalOpt; split <;> simp
@[simp] theorem signalOpt_aper (s : State) (g : AgentId) (q : Option (Fin 16)) : (s.signalOpt g q).aper = s.aper := by
  unfold State.signalOpt; split <;> simp
@[simp] theorem signalOpt_nextConv (s : State) (g : AgentId) (q : Option (Fin 16)) : (s.signalOpt g q).nextConv = s.nextConv := by
  unfold State.signalOpt; split <;> simp
@[simp] theorem signalOpt_sectors (s : State) (g : AgentId) (q : Option (Fin 16)) : (s.signalOpt g q).sectors = s.sectors := by
  unfold State.signalOpt; split <;> simp
@[simp] theorem signalOpt_mem (s : State) (g : AgentId) (q : Option (Fin 16)) : (s.signalOpt g q).mem = s.mem := by
  unfold State.signalOpt; split <;> simp
@[simp] theorem signalOpt_hostMem (s : State) (g : AgentId) (q : Option (Fin 16)) : (s.signalOpt g q).hostMem = s.hostMem := by
  unfold State.signalOpt; split <;> simp
@[simp] theorem signalOpt_lineKeys (s : State) (g : AgentId) (q : Option (Fin 16)) : (s.signalOpt g q).lineKeys = s.lineKeys := by
  unfold State.signalOpt; split <;> simp
@[simp] theorem signalOpt_keys (s : State) (g : AgentId) (q : Option (Fin 16)) : (s.signalOpt g q).keys = s.keys := by
  unfold State.signalOpt; split <;> simp
@[simp] theorem signalOpt_vfs (s : State) (g : AgentId) (q : Option (Fin 16)) : (s.signalOpt g q).vfs = s.vfs := by
  unfold State.signalOpt; split <;> simp
@[simp] theorem signalOpt_pf (s : State) (g : AgentId) (q : Option (Fin 16)) : (s.signalOpt g q).pf = s.pf := by
  unfold State.signalOpt; split <;> simp
@[simp] theorem signalOpt_reply (s : State) (g : AgentId) (q : Option (Fin 16)) : (s.signalOpt g q).reply = s.reply := by
  unfold State.signalOpt; split <;> simp
@[simp] theorem signalOpt_held (s : State) (g : AgentId) (q : Option (Fin 16)) : (s.signalOpt g q).held = s.held := by
  unfold State.signalOpt; split <;> simp
@[simp] theorem signalOpt_spdm (s : State) (g : AgentId) (q : Option (Fin 16)) : (s.signalOpt g q).spdm = s.spdm := by
  unfold State.signalOpt; split <;> simp
@[simp] theorem signalOpt_leaves (s : State) (g : AgentId) (q : Option (Fin 16)) : (s.signalOpt g q).leaves = s.leaves := by
  unfold State.signalOpt; split <;> simp
@[simp] theorem signalOpt_ide (s : State) (g : AgentId) (q : Option (Fin 16)) : (s.signalOpt g q).ide = s.ide := by
  unfold State.signalOpt; split <;> simp
@[simp] theorem signalOpt_hbm (s : State) (g : AgentId) (q : Option (Fin 16)) : (s.signalOpt g q).hbm = s.hbm := by
  unfold State.signalOpt; split <;> simp
@[simp] theorem signalOpt_regions (s : State) (g : AgentId) (q : Option (Fin 16)) : (s.signalOpt g q).regions = s.regions := by
  unfold State.signalOpt; split <;> simp
@[simp] theorem signalOpt_lim (s : State) (g : AgentId) (q : Option (Fin 16)) : (s.signalOpt g q).lim = s.lim := by
  unfold State.signalOpt; split <;> simp
@[simp] theorem signalOpt_xltRoot (s : State) (g : AgentId) (q : Option (Fin 16)) : (s.signalOpt g q).xltRoot = s.xltRoot := by
  unfold State.signalOpt; split <;> simp
@[simp] theorem signalOpt_xltWin (s : State) (g : AgentId) (q : Option (Fin 16)) : (s.signalOpt g q).xltWin = s.xltWin := by
  unfold State.signalOpt; split <;> simp
@[simp] theorem signalOpt_freeCtr (s : State) (g : AgentId) (q : Option (Fin 16)) : (s.signalOpt g q).freeCtr = s.freeCtr := by
  unfold State.signalOpt; split <;> simp
@[simp] theorem signalOpt_nextTok (s : State) (g : AgentId) (q : Option (Fin 16)) : (s.signalOpt g q).nextTok = s.nextTok := by
  unfold State.signalOpt; split <;> simp
@[simp] theorem takeWait_cur (s : State) (g : AgentId) (i : Instr) : (s.takeWait g i).cur = s.cur := by
  unfold State.takeWait; simp only; split <;> simp
@[simp] theorem takeWait_turn (s : State) (g : AgentId) (i : Instr) : (s.takeWait g i).turn = s.turn := by
  unfold State.takeWait; simp only; split <;> simp
@[simp] theorem takeWait_agenda (s : State) (g : AgentId) (i : Instr) : (s.takeWait g i).agenda = s.agenda := by
  unfold State.takeWait; simp only; split <;> simp
@[simp] theorem takeWait_clusters (s : State) (g : AgentId) (i : Instr) : (s.takeWait g i).clusters = s.clusters := by
  unfold State.takeWait; simp only; split <;> simp
@[simp] theorem takeWait_dies (s : State) (g : AgentId) (i : Instr) : (s.takeWait g i).dies = s.dies := by
  unfold State.takeWait; simp only; split <;> simp
@[simp] theorem takeWait_parts (s : State) (g : AgentId) (i : Instr) : (s.takeWait g i).parts = s.parts := by
  unfold State.takeWait; simp only; split <;> simp
@[simp] theorem takeWait_launches (s : State) (g : AgentId) (i : Instr) : (s.takeWait g i).launches = s.launches := by
  unfold State.takeWait; simp only; split <;> simp
@[simp] theorem takeWait_shelf (s : State) (g : AgentId) (i : Instr) : (s.takeWait g i).shelf = s.shelf := by
  unfold State.takeWait; simp only; split <;> simp
@[simp] theorem takeWait_saves (s : State) (g : AgentId) (i : Instr) : (s.takeWait g i).saves = s.saves := by
  unfold State.takeWait; simp only; split <;> simp
@[simp] theorem takeWait_nextSave (s : State) (g : AgentId) (i : Instr) : (s.takeWait g i).nextSave = s.nextSave := by
  unfold State.takeWait; simp only; split <;> simp
@[simp] theorem takeWait_nextLaunch (s : State) (g : AgentId) (i : Instr) : (s.takeWait g i).nextLaunch = s.nextLaunch := by
  unfold State.takeWait; simp only; split <;> simp
@[simp] theorem takeWait_boxes (s : State) (g : AgentId) (i : Instr) : (s.takeWait g i).boxes = s.boxes := by
  unfold State.takeWait; simp only; split <;> simp
@[simp] theorem takeWait_groups (s : State) (g : AgentId) (i : Instr) : (s.takeWait g i).groups = s.groups := by
  unfold State.takeWait; simp only; split <;> simp
@[simp] theorem takeWait_convs (s : State) (g : AgentId) (i : Instr) : (s.takeWait g i).convs = s.convs := by
  unfold State.takeWait; simp only; split <;> simp
@[simp] theorem takeWait_demands (s : State) (g : AgentId) (i : Instr) : (s.takeWait g i).demands = s.demands := by
  unfold State.takeWait; simp only; split <;> simp
@[simp] theorem takeWait_mapWrites (s : State) (g : AgentId) (i : Instr) : (s.takeWait g i).mapWrites = s.mapWrites := by
  unfold State.takeWait; simp only; split <;> simp
@[simp] theorem takeWait_erasing (s : State) (g : AgentId) (i : Instr) : (s.takeWait g i).erasing = s.erasing := by
  unfold State.takeWait; simp only; split <;> simp
@[simp] theorem takeWait_root (s : State) (g : AgentId) (i : Instr) : (s.takeWait g i).root = s.root := by
  unfold State.takeWait; simp only; split <;> simp
@[simp] theorem takeWait_aper (s : State) (g : AgentId) (i : Instr) : (s.takeWait g i).aper = s.aper := by
  unfold State.takeWait; simp only; split <;> simp
@[simp] theorem takeWait_nextConv (s : State) (g : AgentId) (i : Instr) : (s.takeWait g i).nextConv = s.nextConv := by
  unfold State.takeWait; simp only; split <;> simp
@[simp] theorem takeWait_sectors (s : State) (g : AgentId) (i : Instr) : (s.takeWait g i).sectors = s.sectors := by
  unfold State.takeWait; simp only; split <;> simp
@[simp] theorem takeWait_mem (s : State) (g : AgentId) (i : Instr) : (s.takeWait g i).mem = s.mem := by
  unfold State.takeWait; simp only; split <;> simp
@[simp] theorem takeWait_hostMem (s : State) (g : AgentId) (i : Instr) : (s.takeWait g i).hostMem = s.hostMem := by
  unfold State.takeWait; simp only; split <;> simp
@[simp] theorem takeWait_lineKeys (s : State) (g : AgentId) (i : Instr) : (s.takeWait g i).lineKeys = s.lineKeys := by
  unfold State.takeWait; simp only; split <;> simp
@[simp] theorem takeWait_keys (s : State) (g : AgentId) (i : Instr) : (s.takeWait g i).keys = s.keys := by
  unfold State.takeWait; simp only; split <;> simp
@[simp] theorem takeWait_vfs (s : State) (g : AgentId) (i : Instr) : (s.takeWait g i).vfs = s.vfs := by
  unfold State.takeWait; simp only; split <;> simp
@[simp] theorem takeWait_pf (s : State) (g : AgentId) (i : Instr) : (s.takeWait g i).pf = s.pf := by
  unfold State.takeWait; simp only; split <;> simp
@[simp] theorem takeWait_reply (s : State) (g : AgentId) (i : Instr) : (s.takeWait g i).reply = s.reply := by
  unfold State.takeWait; simp only; split <;> simp
@[simp] theorem takeWait_held (s : State) (g : AgentId) (i : Instr) : (s.takeWait g i).held = s.held := by
  unfold State.takeWait; simp only; split <;> simp
@[simp] theorem takeWait_spdm (s : State) (g : AgentId) (i : Instr) : (s.takeWait g i).spdm = s.spdm := by
  unfold State.takeWait; simp only; split <;> simp
@[simp] theorem takeWait_leaves (s : State) (g : AgentId) (i : Instr) : (s.takeWait g i).leaves = s.leaves := by
  unfold State.takeWait; simp only; split <;> simp
@[simp] theorem takeWait_ide (s : State) (g : AgentId) (i : Instr) : (s.takeWait g i).ide = s.ide := by
  unfold State.takeWait; simp only; split <;> simp
@[simp] theorem takeWait_hbm (s : State) (g : AgentId) (i : Instr) : (s.takeWait g i).hbm = s.hbm := by
  unfold State.takeWait; simp only; split <;> simp
@[simp] theorem takeWait_regions (s : State) (g : AgentId) (i : Instr) : (s.takeWait g i).regions = s.regions := by
  unfold State.takeWait; simp only; split <;> simp
@[simp] theorem takeWait_lim (s : State) (g : AgentId) (i : Instr) : (s.takeWait g i).lim = s.lim := by
  unfold State.takeWait; simp only; split <;> simp
@[simp] theorem takeWait_xltRoot (s : State) (g : AgentId) (i : Instr) : (s.takeWait g i).xltRoot = s.xltRoot := by
  unfold State.takeWait; simp only; split <;> simp
@[simp] theorem takeWait_xltWin (s : State) (g : AgentId) (i : Instr) : (s.takeWait g i).xltWin = s.xltWin := by
  unfold State.takeWait; simp only; split <;> simp
@[simp] theorem takeWait_freeCtr (s : State) (g : AgentId) (i : Instr) : (s.takeWait g i).freeCtr = s.freeCtr := by
  unfold State.takeWait; simp only; split <;> simp
@[simp] theorem takeWait_nextTok (s : State) (g : AgentId) (i : Instr) : (s.takeWait g i).nextTok = s.nextTok := by
  unfold State.takeWait; simp only; split <;> simp
@[simp] theorem countIssue_cur (s : State) (g : AgentId) : (s.countIssue g).cur = s.cur := by cases g <;> rfl
@[simp] theorem countIssue_turn (s : State) (g : AgentId) : (s.countIssue g).turn = s.turn := by cases g <;> rfl
@[simp] theorem countIssue_agenda (s : State) (g : AgentId) : (s.countIssue g).agenda = s.agenda := by cases g <;> rfl
@[simp] theorem countIssue_clusters (s : State) (g : AgentId) : (s.countIssue g).clusters = s.clusters := by cases g <;> rfl
@[simp] theorem countIssue_dies (s : State) (g : AgentId) : (s.countIssue g).dies = s.dies := by cases g <;> rfl
@[simp] theorem countIssue_parts (s : State) (g : AgentId) : (s.countIssue g).parts = s.parts := by cases g <;> rfl
@[simp] theorem countIssue_launches (s : State) (g : AgentId) : (s.countIssue g).launches = s.launches := by cases g <;> rfl
@[simp] theorem countIssue_shelf (s : State) (g : AgentId) : (s.countIssue g).shelf = s.shelf := by cases g <;> rfl
@[simp] theorem countIssue_saves (s : State) (g : AgentId) : (s.countIssue g).saves = s.saves := by cases g <;> rfl
@[simp] theorem countIssue_nextSave (s : State) (g : AgentId) : (s.countIssue g).nextSave = s.nextSave := by cases g <;> rfl
@[simp] theorem countIssue_nextLaunch (s : State) (g : AgentId) : (s.countIssue g).nextLaunch = s.nextLaunch := by cases g <;> rfl
@[simp] theorem countIssue_boxes (s : State) (g : AgentId) : (s.countIssue g).boxes = s.boxes := by cases g <;> rfl
@[simp] theorem countIssue_groups (s : State) (g : AgentId) : (s.countIssue g).groups = s.groups := by cases g <;> rfl
@[simp] theorem countIssue_convs (s : State) (g : AgentId) : (s.countIssue g).convs = s.convs := by cases g <;> rfl
@[simp] theorem countIssue_demands (s : State) (g : AgentId) : (s.countIssue g).demands = s.demands := by cases g <;> rfl
@[simp] theorem countIssue_mapWrites (s : State) (g : AgentId) : (s.countIssue g).mapWrites = s.mapWrites := by cases g <;> rfl
@[simp] theorem countIssue_erasing (s : State) (g : AgentId) : (s.countIssue g).erasing = s.erasing := by cases g <;> rfl
@[simp] theorem countIssue_root (s : State) (g : AgentId) : (s.countIssue g).root = s.root := by cases g <;> rfl
@[simp] theorem countIssue_aper (s : State) (g : AgentId) : (s.countIssue g).aper = s.aper := by cases g <;> rfl
@[simp] theorem countIssue_nextConv (s : State) (g : AgentId) : (s.countIssue g).nextConv = s.nextConv := by cases g <;> rfl
@[simp] theorem countIssue_sectors (s : State) (g : AgentId) : (s.countIssue g).sectors = s.sectors := by cases g <;> rfl
@[simp] theorem countIssue_mem (s : State) (g : AgentId) : (s.countIssue g).mem = s.mem := by cases g <;> rfl
@[simp] theorem countIssue_hostMem (s : State) (g : AgentId) : (s.countIssue g).hostMem = s.hostMem := by cases g <;> rfl
@[simp] theorem countIssue_lineKeys (s : State) (g : AgentId) : (s.countIssue g).lineKeys = s.lineKeys := by cases g <;> rfl
@[simp] theorem countIssue_keys (s : State) (g : AgentId) : (s.countIssue g).keys = s.keys := by cases g <;> rfl
@[simp] theorem countIssue_vfs (s : State) (g : AgentId) : (s.countIssue g).vfs = s.vfs := by cases g <;> rfl
@[simp] theorem countIssue_pf (s : State) (g : AgentId) : (s.countIssue g).pf = s.pf := by cases g <;> rfl
@[simp] theorem countIssue_reply (s : State) (g : AgentId) : (s.countIssue g).reply = s.reply := by cases g <;> rfl
@[simp] theorem countIssue_held (s : State) (g : AgentId) : (s.countIssue g).held = s.held := by cases g <;> rfl
@[simp] theorem countIssue_spdm (s : State) (g : AgentId) : (s.countIssue g).spdm = s.spdm := by cases g <;> rfl
@[simp] theorem countIssue_leaves (s : State) (g : AgentId) : (s.countIssue g).leaves = s.leaves := by cases g <;> rfl
@[simp] theorem countIssue_ide (s : State) (g : AgentId) : (s.countIssue g).ide = s.ide := by cases g <;> rfl
@[simp] theorem countIssue_hbm (s : State) (g : AgentId) : (s.countIssue g).hbm = s.hbm := by cases g <;> rfl
@[simp] theorem countIssue_regions (s : State) (g : AgentId) : (s.countIssue g).regions = s.regions := by cases g <;> rfl
@[simp] theorem countIssue_lim (s : State) (g : AgentId) : (s.countIssue g).lim = s.lim := by cases g <;> rfl
@[simp] theorem countIssue_xltRoot (s : State) (g : AgentId) : (s.countIssue g).xltRoot = s.xltRoot := by cases g <;> rfl
@[simp] theorem countIssue_xltWin (s : State) (g : AgentId) : (s.countIssue g).xltWin = s.xltWin := by cases g <;> rfl
@[simp] theorem countIssue_freeCtr (s : State) (g : AgentId) : (s.countIssue g).freeCtr = s.freeCtr := by cases g <;> rfl
@[simp] theorem countIssue_nextTok (s : State) (g : AgentId) : (s.countIssue g).nextTok = s.nextTok := by cases g <;> rfl
@[simp] theorem retireTo_cur (s : State) (g : AgentId) (pc : Pc) : (s.retireTo g pc).cur = s.cur := by cases g <;> rfl
@[simp] theorem retireTo_turn (s : State) (g : AgentId) (pc : Pc) : (s.retireTo g pc).turn = s.turn := by cases g <;> rfl
@[simp] theorem retireTo_agenda (s : State) (g : AgentId) (pc : Pc) : (s.retireTo g pc).agenda = s.agenda := by cases g <;> rfl
@[simp] theorem retireTo_clusters (s : State) (g : AgentId) (pc : Pc) : (s.retireTo g pc).clusters = s.clusters := by cases g <;> rfl
@[simp] theorem retireTo_dies (s : State) (g : AgentId) (pc : Pc) : (s.retireTo g pc).dies = s.dies := by cases g <;> rfl
@[simp] theorem retireTo_parts (s : State) (g : AgentId) (pc : Pc) : (s.retireTo g pc).parts = s.parts := by cases g <;> rfl
@[simp] theorem retireTo_launches (s : State) (g : AgentId) (pc : Pc) : (s.retireTo g pc).launches = s.launches := by cases g <;> rfl
@[simp] theorem retireTo_shelf (s : State) (g : AgentId) (pc : Pc) : (s.retireTo g pc).shelf = s.shelf := by cases g <;> rfl
@[simp] theorem retireTo_saves (s : State) (g : AgentId) (pc : Pc) : (s.retireTo g pc).saves = s.saves := by cases g <;> rfl
@[simp] theorem retireTo_nextSave (s : State) (g : AgentId) (pc : Pc) : (s.retireTo g pc).nextSave = s.nextSave := by cases g <;> rfl
@[simp] theorem retireTo_nextLaunch (s : State) (g : AgentId) (pc : Pc) : (s.retireTo g pc).nextLaunch = s.nextLaunch := by cases g <;> rfl
@[simp] theorem retireTo_boxes (s : State) (g : AgentId) (pc : Pc) : (s.retireTo g pc).boxes = s.boxes := by cases g <;> rfl
@[simp] theorem retireTo_groups (s : State) (g : AgentId) (pc : Pc) : (s.retireTo g pc).groups = s.groups := by cases g <;> rfl
@[simp] theorem retireTo_convs (s : State) (g : AgentId) (pc : Pc) : (s.retireTo g pc).convs = s.convs := by cases g <;> rfl
@[simp] theorem retireTo_demands (s : State) (g : AgentId) (pc : Pc) : (s.retireTo g pc).demands = s.demands := by cases g <;> rfl
@[simp] theorem retireTo_mapWrites (s : State) (g : AgentId) (pc : Pc) : (s.retireTo g pc).mapWrites = s.mapWrites := by cases g <;> rfl
@[simp] theorem retireTo_erasing (s : State) (g : AgentId) (pc : Pc) : (s.retireTo g pc).erasing = s.erasing := by cases g <;> rfl
@[simp] theorem retireTo_root (s : State) (g : AgentId) (pc : Pc) : (s.retireTo g pc).root = s.root := by cases g <;> rfl
@[simp] theorem retireTo_aper (s : State) (g : AgentId) (pc : Pc) : (s.retireTo g pc).aper = s.aper := by cases g <;> rfl
@[simp] theorem retireTo_nextConv (s : State) (g : AgentId) (pc : Pc) : (s.retireTo g pc).nextConv = s.nextConv := by cases g <;> rfl
@[simp] theorem retireTo_sectors (s : State) (g : AgentId) (pc : Pc) : (s.retireTo g pc).sectors = s.sectors := by cases g <;> rfl
@[simp] theorem retireTo_mem (s : State) (g : AgentId) (pc : Pc) : (s.retireTo g pc).mem = s.mem := by cases g <;> rfl
@[simp] theorem retireTo_hostMem (s : State) (g : AgentId) (pc : Pc) : (s.retireTo g pc).hostMem = s.hostMem := by cases g <;> rfl
@[simp] theorem retireTo_lineKeys (s : State) (g : AgentId) (pc : Pc) : (s.retireTo g pc).lineKeys = s.lineKeys := by cases g <;> rfl
@[simp] theorem retireTo_keys (s : State) (g : AgentId) (pc : Pc) : (s.retireTo g pc).keys = s.keys := by cases g <;> rfl
@[simp] theorem retireTo_vfs (s : State) (g : AgentId) (pc : Pc) : (s.retireTo g pc).vfs = s.vfs := by cases g <;> rfl
@[simp] theorem retireTo_pf (s : State) (g : AgentId) (pc : Pc) : (s.retireTo g pc).pf = s.pf := by cases g <;> rfl
@[simp] theorem retireTo_reply (s : State) (g : AgentId) (pc : Pc) : (s.retireTo g pc).reply = s.reply := by cases g <;> rfl
@[simp] theorem retireTo_held (s : State) (g : AgentId) (pc : Pc) : (s.retireTo g pc).held = s.held := by cases g <;> rfl
@[simp] theorem retireTo_spdm (s : State) (g : AgentId) (pc : Pc) : (s.retireTo g pc).spdm = s.spdm := by cases g <;> rfl
@[simp] theorem retireTo_leaves (s : State) (g : AgentId) (pc : Pc) : (s.retireTo g pc).leaves = s.leaves := by cases g <;> rfl
@[simp] theorem retireTo_ide (s : State) (g : AgentId) (pc : Pc) : (s.retireTo g pc).ide = s.ide := by cases g <;> rfl
@[simp] theorem retireTo_hbm (s : State) (g : AgentId) (pc : Pc) : (s.retireTo g pc).hbm = s.hbm := by cases g <;> rfl
@[simp] theorem retireTo_regions (s : State) (g : AgentId) (pc : Pc) : (s.retireTo g pc).regions = s.regions := by cases g <;> rfl
@[simp] theorem retireTo_lim (s : State) (g : AgentId) (pc : Pc) : (s.retireTo g pc).lim = s.lim := by cases g <;> rfl
@[simp] theorem retireTo_xltRoot (s : State) (g : AgentId) (pc : Pc) : (s.retireTo g pc).xltRoot = s.xltRoot := by cases g <;> rfl
@[simp] theorem retireTo_xltWin (s : State) (g : AgentId) (pc : Pc) : (s.retireTo g pc).xltWin = s.xltWin := by cases g <;> rfl
@[simp] theorem retireTo_freeCtr (s : State) (g : AgentId) (pc : Pc) : (s.retireTo g pc).freeCtr = s.freeCtr := by cases g <;> rfl
@[simp] theorem retireTo_nextTok (s : State) (g : AgentId) (pc : Pc) : (s.retireTo g pc).nextTok = s.nextTok := by cases g <;> rfl
@[simp] theorem retire_cur (s : State) (g : AgentId) (pc : Pc) : (s.retire g pc).cur = s.cur := by cases g <;> rfl
@[simp] theorem retire_turn (s : State) (g : AgentId) (pc : Pc) : (s.retire g pc).turn = s.turn := by cases g <;> rfl
@[simp] theorem retire_agenda (s : State) (g : AgentId) (pc : Pc) : (s.retire g pc).agenda = s.agenda := by cases g <;> rfl
@[simp] theorem retire_clusters (s : State) (g : AgentId) (pc : Pc) : (s.retire g pc).clusters = s.clusters := by cases g <;> rfl
@[simp] theorem retire_dies (s : State) (g : AgentId) (pc : Pc) : (s.retire g pc).dies = s.dies := by cases g <;> rfl
@[simp] theorem retire_parts (s : State) (g : AgentId) (pc : Pc) : (s.retire g pc).parts = s.parts := by cases g <;> rfl
@[simp] theorem retire_launches (s : State) (g : AgentId) (pc : Pc) : (s.retire g pc).launches = s.launches := by cases g <;> rfl
@[simp] theorem retire_shelf (s : State) (g : AgentId) (pc : Pc) : (s.retire g pc).shelf = s.shelf := by cases g <;> rfl
@[simp] theorem retire_saves (s : State) (g : AgentId) (pc : Pc) : (s.retire g pc).saves = s.saves := by cases g <;> rfl
@[simp] theorem retire_nextSave (s : State) (g : AgentId) (pc : Pc) : (s.retire g pc).nextSave = s.nextSave := by cases g <;> rfl
@[simp] theorem retire_nextLaunch (s : State) (g : AgentId) (pc : Pc) : (s.retire g pc).nextLaunch = s.nextLaunch := by cases g <;> rfl
@[simp] theorem retire_boxes (s : State) (g : AgentId) (pc : Pc) : (s.retire g pc).boxes = s.boxes := by cases g <;> rfl
@[simp] theorem retire_groups (s : State) (g : AgentId) (pc : Pc) : (s.retire g pc).groups = s.groups := by cases g <;> rfl
@[simp] theorem retire_convs (s : State) (g : AgentId) (pc : Pc) : (s.retire g pc).convs = s.convs := by cases g <;> rfl
@[simp] theorem retire_demands (s : State) (g : AgentId) (pc : Pc) : (s.retire g pc).demands = s.demands := by cases g <;> rfl
@[simp] theorem retire_mapWrites (s : State) (g : AgentId) (pc : Pc) : (s.retire g pc).mapWrites = s.mapWrites := by cases g <;> rfl
@[simp] theorem retire_erasing (s : State) (g : AgentId) (pc : Pc) : (s.retire g pc).erasing = s.erasing := by cases g <;> rfl
@[simp] theorem retire_root (s : State) (g : AgentId) (pc : Pc) : (s.retire g pc).root = s.root := by cases g <;> rfl
@[simp] theorem retire_aper (s : State) (g : AgentId) (pc : Pc) : (s.retire g pc).aper = s.aper := by cases g <;> rfl
@[simp] theorem retire_nextConv (s : State) (g : AgentId) (pc : Pc) : (s.retire g pc).nextConv = s.nextConv := by cases g <;> rfl
@[simp] theorem retire_sectors (s : State) (g : AgentId) (pc : Pc) : (s.retire g pc).sectors = s.sectors := by cases g <;> rfl
@[simp] theorem retire_mem (s : State) (g : AgentId) (pc : Pc) : (s.retire g pc).mem = s.mem := by cases g <;> rfl
@[simp] theorem retire_hostMem (s : State) (g : AgentId) (pc : Pc) : (s.retire g pc).hostMem = s.hostMem := by cases g <;> rfl
@[simp] theorem retire_lineKeys (s : State) (g : AgentId) (pc : Pc) : (s.retire g pc).lineKeys = s.lineKeys := by cases g <;> rfl
@[simp] theorem retire_keys (s : State) (g : AgentId) (pc : Pc) : (s.retire g pc).keys = s.keys := by cases g <;> rfl
@[simp] theorem retire_vfs (s : State) (g : AgentId) (pc : Pc) : (s.retire g pc).vfs = s.vfs := by cases g <;> rfl
@[simp] theorem retire_pf (s : State) (g : AgentId) (pc : Pc) : (s.retire g pc).pf = s.pf := by cases g <;> rfl
@[simp] theorem retire_reply (s : State) (g : AgentId) (pc : Pc) : (s.retire g pc).reply = s.reply := by cases g <;> rfl
@[simp] theorem retire_held (s : State) (g : AgentId) (pc : Pc) : (s.retire g pc).held = s.held := by cases g <;> rfl
@[simp] theorem retire_spdm (s : State) (g : AgentId) (pc : Pc) : (s.retire g pc).spdm = s.spdm := by cases g <;> rfl
@[simp] theorem retire_leaves (s : State) (g : AgentId) (pc : Pc) : (s.retire g pc).leaves = s.leaves := by cases g <;> rfl
@[simp] theorem retire_ide (s : State) (g : AgentId) (pc : Pc) : (s.retire g pc).ide = s.ide := by cases g <;> rfl
@[simp] theorem retire_hbm (s : State) (g : AgentId) (pc : Pc) : (s.retire g pc).hbm = s.hbm := by cases g <;> rfl
@[simp] theorem retire_regions (s : State) (g : AgentId) (pc : Pc) : (s.retire g pc).regions = s.regions := by cases g <;> rfl
@[simp] theorem retire_lim (s : State) (g : AgentId) (pc : Pc) : (s.retire g pc).lim = s.lim := by cases g <;> rfl
@[simp] theorem retire_xltRoot (s : State) (g : AgentId) (pc : Pc) : (s.retire g pc).xltRoot = s.xltRoot := by cases g <;> rfl
@[simp] theorem retire_xltWin (s : State) (g : AgentId) (pc : Pc) : (s.retire g pc).xltWin = s.xltWin := by cases g <;> rfl
@[simp] theorem retire_freeCtr (s : State) (g : AgentId) (pc : Pc) : (s.retire g pc).freeCtr = s.freeCtr := by cases g <;> rfl
@[simp] theorem retire_nextTok (s : State) (g : AgentId) (pc : Pc) : (s.retire g pc).nextTok = s.nextTok := by cases g <;> rfl
@[simp] theorem modLaunch_cur (s : State) (q : Fin 32) (c : Fin 4) (f : Launch → Launch) : (s.modLaunch q c f).cur = s.cur := rfl
@[simp] theorem modLaunch_turn (s : State) (q : Fin 32) (c : Fin 4) (f : Launch → Launch) : (s.modLaunch q c f).turn = s.turn := rfl
@[simp] theorem modLaunch_agenda (s : State) (q : Fin 32) (c : Fin 4) (f : Launch → Launch) : (s.modLaunch q c f).agenda = s.agenda := rfl
@[simp] theorem modLaunch_tiles (s : State) (q : Fin 32) (c : Fin 4) (f : Launch → Launch) : (s.modLaunch q c f).tiles = s.tiles := rfl
@[simp] theorem modLaunch_mgmt (s : State) (q : Fin 32) (c : Fin 4) (f : Launch → Launch) : (s.modLaunch q c f).mgmt = s.mgmt := rfl
@[simp] theorem modLaunch_clusters (s : State) (q : Fin 32) (c : Fin 4) (f : Launch → Launch) : (s.modLaunch q c f).clusters = s.clusters := rfl
@[simp] theorem modLaunch_dies (s : State) (q : Fin 32) (c : Fin 4) (f : Launch → Launch) : (s.modLaunch q c f).dies = s.dies := rfl
@[simp] theorem modLaunch_parts (s : State) (q : Fin 32) (c : Fin 4) (f : Launch → Launch) : (s.modLaunch q c f).parts = s.parts := rfl
@[simp] theorem modLaunch_shelf (s : State) (q : Fin 32) (c : Fin 4) (f : Launch → Launch) : (s.modLaunch q c f).shelf = s.shelf := rfl
@[simp] theorem modLaunch_saves (s : State) (q : Fin 32) (c : Fin 4) (f : Launch → Launch) : (s.modLaunch q c f).saves = s.saves := rfl
@[simp] theorem modLaunch_nextSave (s : State) (q : Fin 32) (c : Fin 4) (f : Launch → Launch) : (s.modLaunch q c f).nextSave = s.nextSave := rfl
@[simp] theorem modLaunch_nextLaunch (s : State) (q : Fin 32) (c : Fin 4) (f : Launch → Launch) : (s.modLaunch q c f).nextLaunch = s.nextLaunch := rfl
@[simp] theorem modLaunch_boxes (s : State) (q : Fin 32) (c : Fin 4) (f : Launch → Launch) : (s.modLaunch q c f).boxes = s.boxes := rfl
@[simp] theorem modLaunch_groups (s : State) (q : Fin 32) (c : Fin 4) (f : Launch → Launch) : (s.modLaunch q c f).groups = s.groups := rfl
@[simp] theorem modLaunch_convs (s : State) (q : Fin 32) (c : Fin 4) (f : Launch → Launch) : (s.modLaunch q c f).convs = s.convs := rfl
@[simp] theorem modLaunch_demands (s : State) (q : Fin 32) (c : Fin 4) (f : Launch → Launch) : (s.modLaunch q c f).demands = s.demands := rfl
@[simp] theorem modLaunch_mapWrites (s : State) (q : Fin 32) (c : Fin 4) (f : Launch → Launch) : (s.modLaunch q c f).mapWrites = s.mapWrites := rfl
@[simp] theorem modLaunch_erasing (s : State) (q : Fin 32) (c : Fin 4) (f : Launch → Launch) : (s.modLaunch q c f).erasing = s.erasing := rfl
@[simp] theorem modLaunch_root (s : State) (q : Fin 32) (c : Fin 4) (f : Launch → Launch) : (s.modLaunch q c f).root = s.root := rfl
@[simp] theorem modLaunch_aper (s : State) (q : Fin 32) (c : Fin 4) (f : Launch → Launch) : (s.modLaunch q c f).aper = s.aper := rfl
@[simp] theorem modLaunch_nextConv (s : State) (q : Fin 32) (c : Fin 4) (f : Launch → Launch) : (s.modLaunch q c f).nextConv = s.nextConv := rfl
@[simp] theorem modLaunch_sectors (s : State) (q : Fin 32) (c : Fin 4) (f : Launch → Launch) : (s.modLaunch q c f).sectors = s.sectors := rfl
@[simp] theorem modLaunch_mem (s : State) (q : Fin 32) (c : Fin 4) (f : Launch → Launch) : (s.modLaunch q c f).mem = s.mem := rfl
@[simp] theorem modLaunch_hostMem (s : State) (q : Fin 32) (c : Fin 4) (f : Launch → Launch) : (s.modLaunch q c f).hostMem = s.hostMem := rfl
@[simp] theorem modLaunch_lineKeys (s : State) (q : Fin 32) (c : Fin 4) (f : Launch → Launch) : (s.modLaunch q c f).lineKeys = s.lineKeys := rfl
@[simp] theorem modLaunch_keys (s : State) (q : Fin 32) (c : Fin 4) (f : Launch → Launch) : (s.modLaunch q c f).keys = s.keys := rfl
@[simp] theorem modLaunch_vfs (s : State) (q : Fin 32) (c : Fin 4) (f : Launch → Launch) : (s.modLaunch q c f).vfs = s.vfs := rfl
@[simp] theorem modLaunch_pf (s : State) (q : Fin 32) (c : Fin 4) (f : Launch → Launch) : (s.modLaunch q c f).pf = s.pf := rfl
@[simp] theorem modLaunch_reply (s : State) (q : Fin 32) (c : Fin 4) (f : Launch → Launch) : (s.modLaunch q c f).reply = s.reply := rfl
@[simp] theorem modLaunch_held (s : State) (q : Fin 32) (c : Fin 4) (f : Launch → Launch) : (s.modLaunch q c f).held = s.held := rfl
@[simp] theorem modLaunch_spdm (s : State) (q : Fin 32) (c : Fin 4) (f : Launch → Launch) : (s.modLaunch q c f).spdm = s.spdm := rfl
@[simp] theorem modLaunch_leaves (s : State) (q : Fin 32) (c : Fin 4) (f : Launch → Launch) : (s.modLaunch q c f).leaves = s.leaves := rfl
@[simp] theorem modLaunch_ide (s : State) (q : Fin 32) (c : Fin 4) (f : Launch → Launch) : (s.modLaunch q c f).ide = s.ide := rfl
@[simp] theorem modLaunch_hbm (s : State) (q : Fin 32) (c : Fin 4) (f : Launch → Launch) : (s.modLaunch q c f).hbm = s.hbm := rfl
@[simp] theorem modLaunch_regions (s : State) (q : Fin 32) (c : Fin 4) (f : Launch → Launch) : (s.modLaunch q c f).regions = s.regions := rfl
@[simp] theorem modLaunch_lim (s : State) (q : Fin 32) (c : Fin 4) (f : Launch → Launch) : (s.modLaunch q c f).lim = s.lim := rfl
@[simp] theorem modLaunch_xltRoot (s : State) (q : Fin 32) (c : Fin 4) (f : Launch → Launch) : (s.modLaunch q c f).xltRoot = s.xltRoot := rfl
@[simp] theorem modLaunch_xltWin (s : State) (q : Fin 32) (c : Fin 4) (f : Launch → Launch) : (s.modLaunch q c f).xltWin = s.xltWin := rfl
@[simp] theorem modLaunch_freeCtr (s : State) (q : Fin 32) (c : Fin 4) (f : Launch → Launch) : (s.modLaunch q c f).freeCtr = s.freeCtr := rfl
@[simp] theorem modLaunch_nextTok (s : State) (q : Fin 32) (c : Fin 4) (f : Launch → Launch) : (s.modLaunch q c f).nextTok = s.nextTok := rfl

/-! ### Contexts and queues, read back -/

/-- The context of an agent that is replaced, and of every other one. -/
theorem ctx_setCtx (s : State) (g g' : AgentId) (x : Ctx) : (s.setCtx g x).ctx g' = if g = g' then x else s.ctx g' := by
  cases g with
  | mgmt => cases g' with
    | mgmt => simp [State.setCtx, State.ctx]
    | tile t c => simp [State.setCtx, State.ctx, State.tile]
  | tile t c => cases g' with
    | mgmt => simp [State.setCtx, State.ctx, State.modTile, State.setTile]
    | tile t' c' =>
      simp only [State.setCtx, State.ctx, State.modTile, State.setTile, State.tile, vset_get, AgentId.tile.injEq]
      by_cases h : t = t'
      · subst h; by_cases h2 : c = c' <;> simp [h2, vset_get]
      · simp [h]

@[simp] theorem ctx_setCtx_self (s : State) (g : AgentId) (x : Ctx) : (s.setCtx g x).ctx g = x := by simp [ctx_setCtx]

theorem ctx_modCtx (s : State) (g g' : AgentId) (f : Ctx → Ctx) :
    (s.modCtx g f).ctx g' = if g = g' then f (s.ctx g) else s.ctx g' := ctx_setCtx _ _ _ _

@[simp] theorem ctx_modCtx_self (s : State) (g : AgentId) (f : Ctx → Ctx) : (s.modCtx g f).ctx g = f (s.ctx g) := by
  simp [ctx_modCtx]

/-- A change of token queues changes no context. -/
@[simp] theorem ctx_setTq (s : State) (g g' : AgentId) (q : Fin 16) (n : Nat) : (s.setTq g q n).ctx g' = s.ctx g' := by
  cases g with
  | mgmt => cases g' <;> rfl
  | tile t c => cases g' with
    | mgmt => rfl
    | tile t' c' =>
      simp only [State.setTq, State.ctx, State.modTile, State.setTile, State.tile, vset_get]
      split <;> simp_all

@[simp] theorem ctx_setPend (s : State) (g g' : AgentId) (q : Fin 16) (n : Nat) : (s.setPend g q n).ctx g' = s.ctx g' := by
  cases g with
  | mgmt => cases g' <;> rfl
  | tile t c => cases g' with
    | mgmt => rfl
    | tile t' c' =>
      simp only [State.setPend, State.ctx, State.modTile, State.setTile, State.tile, vset_get]
      split <;> simp_all

@[simp] theorem ctx_signal (s : State) (g g' : AgentId) (q : Fin 16) : (s.signal g q).ctx g' = s.ctx g' := by
  unfold State.signal; split <;> simp

@[simp] theorem ctx_signalOpt (s : State) (g g' : AgentId) (q : Option (Fin 16)) : (s.signalOpt g q).ctx g' = s.ctx g' := by
  unfold State.signalOpt; split <;> simp

@[simp] theorem ctx_takeWait (s : State) (g g' : AgentId) (i : Instr) : (s.takeWait g i).ctx g' = s.ctx g' := by
  unfold State.takeWait; simp only; split <;> simp

@[simp] theorem me_takeWait (s : State) (i : Instr) : (s.takeWait s.cur i).me = s.me := by simp [State.me]

/-- The launch of an agent is a matter of the partitions and launches. -/
theorem launchOf_congr {s t : State} (h1 : t.parts = s.parts) (h2 : t.launches = s.launches) (h3 : t.mgmt.fw = s.mgmt.fw)
    (g : AgentId) : t.launchOf g = s.launchOf g := by
  unfold State.launchOf State.partOf; cases g <;> simp [h1, h2, h3]

theorem mgmt_fw_setCtx (s : State) (g : AgentId) (x : Ctx) : (s.setCtx g x).mgmt.fw = s.mgmt.fw := by cases g <;> rfl
theorem mgmt_fw_modCtx (s : State) (g : AgentId) (f : Ctx → Ctx) : (s.modCtx g f).mgmt.fw = s.mgmt.fw := by cases g <;> rfl
theorem mgmt_fw_setTq (s : State) (g : AgentId) (q : Fin 16) (n : Nat) : (s.setTq g q n).mgmt.fw = s.mgmt.fw := by
  cases g <;> rfl
theorem mgmt_fw_takeWait (s : State) (g : AgentId) (i : Instr) : (s.takeWait g i).mgmt.fw = s.mgmt.fw := by
  unfold State.takeWait; simp only; split <;> simp [mgmt_fw_setTq]

@[simp] theorem launchOf_modCtx (s : State) (g g' : AgentId) (f : Ctx → Ctx) : (s.modCtx g f).launchOf g' = s.launchOf g' :=
  launchOf_congr (by simp) (by simp) (mgmt_fw_modCtx _ _ _) _
@[simp] theorem launchOf_setTq (s : State) (g g' : AgentId) (q : Fin 16) (n : Nat) :
    (s.setTq g q n).launchOf g' = s.launchOf g' := launchOf_congr (by simp) (by simp) (mgmt_fw_setTq _ _ _ _) _
@[simp] theorem launchOf_takeWait (s : State) (g g' : AgentId) (i : Instr) :
    (s.takeWait g i).launchOf g' = s.launchOf g' := launchOf_congr (by simp) (by simp) (mgmt_fw_takeWait _ _ _) _

@[simp] theorem view_takeWait (s : State) (g g' : AgentId) (i : Instr) : (s.takeWait g i).view g' = s.view g' := by
  unfold State.view; cases g' <;> simp
@[simp] theorem maskFault_takeWait (s : State) (g g' : AgentId) (i j : Instr) :
    (s.takeWait g i).maskFault g' j = s.maskFault g' j := by unfold State.maskFault; simp
@[simp] theorem slotBind_takeWait (s : State) (g g' : AgentId) (i : Instr) (n : Fin 16) :
    (s.takeWait g i).slotBind g' n = s.slotBind g' n := by unfold State.slotBind; simp
@[simp] theorem slotEdge_takeWait (s : State) (g g' : AgentId) (i : Instr) (n : Fin 16) :
    (s.takeWait g i).slotEdge g' n = s.slotEdge g' n := by unfold State.slotEdge; simp
theorem order_setTq (s : State) (g g' : AgentId) (q : Fin 16) (n : Nat) : (s.setTq g q n).order g' = s.order g' := by
  cases g with
  | mgmt => cases g' <;> rfl
  | tile t c => cases g' with
    | mgmt => rfl
    | tile t' c' =>
      simp only [State.setTq, State.order, State.modTile, State.setTile, State.tile, vset_get]
      split <;> simp_all
@[simp] theorem order_takeWait (s : State) (g g' : AgentId) (i : Instr) : (s.takeWait g i).order g' = s.order g' := by
  unfold State.takeWait; simp only; split <;> simp [order_setTq]
@[simp] theorem issued_takeWait (s : State) (g g' : AgentId) (i : Instr) : (s.takeWait g i).issued g' = s.issued g' := by
  unfold State.issued; simp

/-- Two changes of one context are one. -/
theorem modCtx_modCtx (s : State) (g : AgentId) (f h : Ctx → Ctx) :
    (s.modCtx g f).modCtx g h = s.modCtx g (fun c => h (f c)) := by
  cases g with
  | mgmt => rfl
  | tile t c =>
    simp only [State.modCtx, State.setCtx, State.modTile, State.setTile, State.tile, State.ctx, vset_self]
    congr 1
    simp [vset, Vector.set_set]

end Sys2Proof.Machine
end

