-- ==== Sys2Proof/Laws/Vector.lean ====
section
/-! SUPPORT. What the shared forms of the vector words leave. -/

namespace Sys2Proof.Machine

/-- No events, no change. -/
@[simp] theorem vecEvents_zero (s : State) : s.vecEvents Ev.zero = s := by
  unfold State.vecEvents; cases s.cur <;> simp

/-- The selected elements of V[d] take the values that f gives. -/
theorem vecInto_ready {i : Instr} {d : Fin 32} {t : Ty} {sel : Ctx → Nat → Bool} {f : Ctx → Nat → ElemOut} {s : State}
    (hw : i.clauses.wn = 0) (hr : ready i s = true) :
    vecInto i d t sel f s = .next (wentV s d t (sel s.me) (f s.me)) := by
  unfold vecInto; rw [issue_ready hr, takeWait_none hw]; rfl

/-- The same under a destination mask. -/
theorem vecMasked_ready {i : Instr} {d : Fin 32} {k : Fin 8} {t : Ty} {f : Ctx → Nat → ElemOut} {s : State}
    (hw : i.clauses.wn = 0) (hr : ready i s = true) :
    vecMasked i d k t f s = .next (wentV s d t (fun j => active (s.me.readK k) t j) (f s.me)) := vecInto_ready hw hr

/-- A scalar result without events. -/
theorem vecScalar_ready {i : Instr} {d : Fin 32} {f : Ctx → Word × Bool × Ev} {s : State} (hw : i.clauses.wn = 0)
    (hr : ready i s = true) (he : (f s.me).2.2 = Ev.zero) :
    vecScalar i d f s = .next (wroteS s d (f s.me).1 (f s.me).2.1) := by
  unfold vecScalar; rw [issue_ready hr, takeWait_none hw]; simp only [he, vecEvents_zero]; rfl

/-- A mask result. -/
theorem vecMaskOut_ready {i : Instr} {d : Fin 8} {f : Ctx → Word} {s : State} (hw : i.clauses.wn = 0)
    (hr : ready i s = true) : vecMaskOut i d f s = .next (wroteK s d (f s.me)) := by
  unfold vecMaskOut; rw [issue_ready hr, takeWait_none hw]; rfl

end Sys2Proof.Machine
end

