-- ==== Sys2Proof/Machine/Network.lean ====
section
/-! DEFINITION. The networks as carriers: where units attach to the packet network, the path of a packet,
the buffers of a ring and the arbitration of a router (R22, R23, R374 to R376); the buffers of a route (R369); and the
beats of the vector net (R373). They settle when a packet, a beat or a credit gets through, never what it
carries: the step's own accesses and tokens act when their turn comes, whatever the way (log 56). -/

namespace Sys2Proof.Machine

/-! ### The packet network (R23, R374 to R376) -/

/-- A router of a die's 8 × 8 torus. -/
structure Router where
  die : Fin 2
  x : Fin 8
  y : Fin 8
deriving DecidableEq, Repr

/-- The router (lx, ly) of a cluster (R23). -/
def clusterRouter (cl : Fin 32) (lx ly : Fin 2) : Router :=
  let cc := cl.val % 16
  ⟨dieOfCluster cl, Fin.ofNat 8 (2 * (cc % 4) + lx.val), Fin.ofNat 8 (2 * (cc / 4) + ly.val)⟩

/-- The router of a tile (Table 1.6). -/
def tileRouter (t : Fin 256) : Router :=
  let n := t.val % 8
  clusterRouter (clusterOfTile t) (Fin.ofNat 2 (n / 2)) (Fin.ofNat 2 (n / 4))

/-- The router of a cluster's slice n (Table 1.6). -/
def sliceRouter (cl : Fin 32) (n : Fin 10) : Router :=
  if n.val < 3 then clusterRouter cl 0 0
  else if n.val < 5 then clusterRouter cl 1 0
  else if n.val < 8 then clusterRouter cl 0 1
  else clusterRouter cl 1 1

/-- The router of a cluster's stream engine, transform array and controller (Table 1.6). -/
def engineRouter (cl : Fin 32) : Router := clusterRouter cl 1 1

/-- The router of a region's configuration port (Table 1.6). -/
def regionRouter (r : Fin 128) : Router := clusterRouter (Fin.ofNat 32 (r.val / 4)) 1 (Fin.ofNat 2 (r.val % 4 / 2))

/-- The router of a die's Launch Unit, Region Manager, walkers and error log (Table 1.6). -/
def managerRouter (d : Fin 2) : Router := ⟨d, 0, 0⟩

/-- The router of the management core and of the host port (Table 1.6). -/
def mgmtRouter : Router := ⟨0, 0, 1⟩

/-- The router of a stream-link port (Table 1.6). -/
def linkRouter (k : Fin 16) : Router := ⟨Fin.ofNat 2 (k.val / 8), 7, Fin.ofNat 8 k.val⟩

/-- The router where an address of local HBM has its home (R22). -/
def homeRouter (pa : Nat) : Router := sliceRouter (cgOf pa) (sliceOf pa)

/-- The ways out of a router: along a ring in a direction, over the seam, or to an endpoint. -/
inductive Way where
  | x (pos : Bool)
  | y (pos : Bool)
  | seam
  | endpoint
deriving DecidableEq, Repr

/-- The direction on a ring of 8 from a place to another: the shorter, the positive when both are 4 hops. -/
def ringPos (a b : Fin 8) : Bool := decide ((b.val + 8 - a.val) % 8 ≤ 4)

/-- The way of a packet at a router: to the destination column, then to its row; a packet for the other die goes
to column 0 and over the seam first (R374). -/
def nextWay (at_ dst : Router) : Way :=
  if at_.die ≠ dst.die then (if at_.x = 0 then .seam else .x (ringPos at_.x 0))
  else if at_.x ≠ dst.x then .x (ringPos at_.x dst.x)
  else if at_.y ≠ dst.y then .y (ringPos at_.y dst.y)
  else .endpoint

/-- The router at the end of a way. -/
def Router.go (r : Router) : Way → Router
  | .x p => { r with x := if p then r.x + 1 else r.x - 1 }
  | .y p => { r with y := if p then r.y + 1 else r.y - 1 }
  | .seam => { r with die := r.die + 1 }
  | .endpoint => r

/-- The routers of a packet's path, its source first, within a number of hops; 17 suffice. -/
def pathOf : Nat → Router → Router → List Router
  | 0, a, _ => [a]
  | n + 1, a, b => if nextWay a b = .endpoint then [a] else a :: pathOf n (a.go (nextWay a b)) b

/-- The router cycles of a path, unloaded: two for each hop (R374). -/
def hopCycles (a b : Router) : Nat := 2 * ((pathOf 17 a b).length - 1)

/-- The input port by which a packet enters the next router; ports 5 and above belong to the attached units
(the numbers are the model's, log 56). -/
def Way.port : Way → Nat
  | .x true => 0
  | .x false => 1
  | .y true => 2
  | .y false => 3
  | .seam => 4
  | .endpoint => 5

/-- A packet in the network: the input buffer that holds it, its virtual network (0 request, 1 response,
2 configuration, 3 control) and its AGE. -/
structure Packet where
  id : Nat
  vnet : Fin 4
  dst : Router
  at_ : Router
  port : Nat
  age : Fin 2048
deriving DecidableEq, Repr

/-- The packets in the order in which they entered their buffers, and the port each output served last. -/
structure Net where
  packets : List Packet
  served : List ((Router × Way) × Nat)
deriving DecidableEq, Repr

/-- The free packets of an input buffer: four on each virtual network (R374). -/
def Net.free (n : Net) (r : Router) (port : Nat) (v : Fin 4) : Nat :=
  4 - (n.packets.filter (fun p => p.at_ == r && p.port == port && p.vnet == v)).length

/-- A packet stands on the ring of a way already: it came by the same ring in the same direction. -/
def onRing (port : Nat) (w : Way) : Bool := port == w.port

/-- The next buffer takes the packet: one free place for a packet that is on the ring, two for one that enters
it; an endpoint always takes it, and the seam's buffer asks for one place (R375). -/
def Net.mayGo (n : Net) (r : Router) (port : Nat) (v : Fin 4) (w : Way) : Bool :=
  match w with
  | .endpoint => true
  | .seam => decide (1 ≤ n.free (r.go w) w.port v)
  | w => decide ((if onRing port w then 1 else 2) ≤ n.free (r.go w) w.port v)

/-- The oldest packet of its buffer. -/
def Net.head (n : Net) (p : Packet) : Bool :=
  (n.packets.find? (fun x => x.at_ == p.at_ && x.port == p.port && x.vnet == p.vnet)) == some p

/-- The packets that contend for an output of a router and may advance. -/
def Net.contend (n : Net) (r : Router) (w : Way) : List Packet :=
  n.packets.filter (fun p => p.at_ == r && n.head p && nextWay r p.dst == w && n.mayGo r p.port p.vnet w)

/-- a goes before b: with an AGE of 1,024 or more about, the higher AGE, then the lower port; else the port
that comes next after the one served last (R376). -/
def goesBefore (aged : Bool) (last : Option Nat) (a b : Packet) : Bool :=
  let turn := fun (p : Packet) => match last with
    | some l => if l < p.port then p.port else p.port + 64
    | none => p.port
  if aged then decide (b.age < a.age) || (a.age == b.age && decide (a.port ≤ b.port))
  else decide (turn a ≤ turn b)

/-- The packet that an output of a router serves (R376). -/
def Net.winner (n : Net) (r : Router) (w : Way) : Option Packet :=
  let ps := n.contend r w
  let aged := ps.any (fun p => decide (1024 ≤ p.age.val))
  let last := (n.served.find? (fun x => x.1 == (r, w))).map (fun x => x.2)
  ps.foldl (fun b p => match b with
    | none => some p
    | some b => if goesBefore aged last b p then some b else some p) none

/-- One router cycle older, saturating at 2,047 (R376). -/
def older (a : Fin 2048) : Fin 2048 := if a = 2047 then a else a + 1

/-- The outputs that have a packet to serve. -/
def Net.outputs (n : Net) : List (Router × Way) := (n.packets.map (fun p => (p.at_, nextWay p.at_ p.dst))).eraseDups

/-- One router cycle: every output serves one packet; the packets that reach their endpoint come out. -/
def Net.cycle (n : Net) : Net × List Packet :=
  let won := n.outputs.filterMap (fun o => (n.winner o.1 o.2).map (fun p => (o, p)))
  let moved := won.filterMap (fun x => if x.1.2 = .endpoint then none
    else some { x.2 with at_ := x.1.1.go x.1.2, port := x.1.2.port, age := older x.2.age })
  let stay := (n.packets.filter (fun p => !won.any (fun x => x.2 == p))).map (fun p => { p with age := older p.age })
  (⟨stay ++ moved, won.map (fun x => (x.1, x.2.port)) ++ n.served.filter (fun y => !won.any (fun x => x.1 == y.1))⟩,
    (won.filter (fun x => x.1.2 == .endpoint)).map (fun x => x.2))

/-- A unit injects a packet at its router by its own port, where the ring it enters has room (R375). -/
def Net.inject (n : Net) (p : Packet) : Option Net :=
  if n.mayGo p.at_ p.port p.vnet (nextWay p.at_ p.dst) && decide (0 < n.free p.at_ p.port p.vnet) then
    some { n with packets := n.packets ++ [p] }
  else none

/-- A hop drops a packet whose header is uncorrectable (R427). -/
def Net.quarantine (n : Net) (id : Nat) : Net := { n with packets := n.packets.filter (fun p => p.id != id) }

/-! ### Box stages (R369) -/

/-- One cycle of a route's box stages, each a buffer of two beats, the producer's first: a beat moves on where
the next stage has room, and leaves the last when the consumer is ready; none is lost (R369). -/
def routeCycle {β : Type} (ready : Bool) : Option β → List (List β) → List (List β) × Option β
  | inp, [] => ([], inp)
  | inp, [b] =>
    let out := if ready then b.head? else none
    ([b.drop (b2n out.isSome) ++ inp.toList], out)
  | inp, b :: b' :: r =>
    let out := if b'.length < 2 then b.head? else none
    let rest := routeCycle ready out (b' :: r)
    ((b.drop (b2n out.isSome) ++ inp.toList) :: rest.1, rest.2)

/-- The first stage takes a beat while it holds fewer than two. -/
def routeTakes {β : Type} (st : List (List β)) : Bool :=
  match st with
  | b :: _ => decide (b.length < 2)
  | [] => true

/-! ### Beats of the vector net (R373) -/

/-- A beat: 16 payload words and two header slots. -/
structure VBeat where
  words : Vector (BitVec 32) 16
  slots : Vector (BitVec 22) 2
deriving DecidableEq, Repr

/-- What a header slot begins: count tokens of one tag with their flags, and the words still to come. -/
structure Begun where
  tag : Fin 4
  eos : Bool
  poison : Bool
  mask : BitVec 16
  count : Nat
  got : List (BitVec 32)
deriving DecidableEq, Repr

/-- A header slot: KIND, tag, EOS, poison, and MASK or COUNT. -/
def readSlot (w : BitVec 22) : Option Begun :=
  let x := w.toNat
  let b : Begun := ⟨Fin.ofNat 4 (bitsAt x 2 2), bitOf x 4, bitOf x 5, 0, 1, []⟩
  if x % 4 = 1 then some { b with mask := BitVec.ofNat 16 (bitsAt x 6 16) }
  else if x % 4 = 2 then some { b with count := bitsAt x 6 8 }
  else none

/-- The words of a mask, in ascending order. -/
def maskWords (m : BitVec 16) : List Nat := (List.range 16).filter (fun i => m.getLsbD i)

/-- The payload words go to the tokens begun, in order. -/
def giveWords : List Begun → List (BitVec 32) → List Begun
  | [], _ => []
  | b :: bs, ws =>
    let n := (maskWords b.mask).length - b.got.length
    { b with got := b.got ++ ws.take n } :: giveWords bs (ws.drop n)

/-- Its words have all come. -/
def Begun.whole (b : Begun) : Bool := decide ((maskWords b.mask).length ≤ b.got.length)

/-- The tokens that it stands for: unset words are zero. -/
def Begun.tokens (b : Begun) : List Token :=
  let v := ((maskWords b.mask).zip b.got).foldl (fun a x => a + x.2.toNat * 2 ^ (32 * x.1)) 0
  List.replicate b.count ⟨BitVec.ofNat 512 v, b.eos, b.poison, b.tag⟩

/-- An input port takes a beat: the tokens it completes, and what still waits for words. -/
def expandBeat (open_ : List Begun) (b : VBeat) : List Token × List Begun :=
  let st := giveWords (open_ ++ b.slots.toList.filterMap readSlot) b.words.toList
  ((st.takeWhile Begun.whole).flatMap Begun.tokens, st.dropWhile Begun.whole)

/-- An input port expands beats into the tokens that it counts, credits and delivers. -/
def expandBeats (open_ : List Begun) : List VBeat → List Token
  | [] => []
  | b :: bs => (expandBeat open_ b).1 ++ expandBeats (expandBeat open_ b).2 bs

/-- A token of w words as one beat. -/
def packToken (w : Nat) (t : Token) : VBeat :=
  let word := fun (i : Nat) => bitsAt t.bits.toNat (32 * i) 32
  let set := (List.range w).filter (fun i => word i != 0)
  let mask := set.foldl (fun a i => a + 2 ^ i) 0
  ⟨Vector.ofFn (fun i => BitVec.ofNat 32 (match set[i.val]? with | some k => word k | none => 0)),
    #v[BitVec.ofNat 22 (1 + 4 * t.tag.val + 16 * b2n t.eos + 32 * b2n t.poison + 64 * mask), 0]⟩

/-- A run of n all-zero tokens of one tag, without EOS or poison, as one beat. -/
def packRun (tag : Fin 4) (n : Fin 256) : VBeat :=
  ⟨Vector.replicate 16 0, #v[BitVec.ofNat 22 (2 + 4 * tag.val + 64 * n.val), 0]⟩

end Sys2Proof.Machine
end

