-- ==== Sys2Proof/Tests/Slice0.lean ====
section
/-! SUPPORT. Tests: ill-formed instructions, words written out from the encodings of the spec, the
spec's worked examples, and states that meet the hypotheses of the statements. -/

namespace Sys2Proof.Tests

open Sys2Proof Sys2Proof.Machine Sys2Proof.Safety

set_option Elab.async false

/-! ### Ill-formed instructions, one for each check of WellFormed -/

/-- The predicate of a word of no condition. -/
abbrev hd : Hdr := ⟨false, 0⟩
/-- No clause. -/
abbrev nc : Clauses := ⟨0, 0, 0, false⟩

theorem test_illformed_predicate_and_clauses :
    Instr.wf (.add ⟨true, 0⟩ 1 2 3 .i32 false) = false
    ∧ Instr.wf (.eeos hd 1 ⟨3, 0, 0, false⟩) = false
    ∧ Instr.wf (.eeos hd 1 ⟨0, 0, 2, false⟩) = false
    ∧ Instr.wf (.firingStart .mgmt) = false := by
  decide +kernel

theorem test_illformed_scalar :
    Instr.wf (.add hd 1 2 3 .f32 false) = false
    ∧ Instr.wf (.bswap hd 1 2 .n8) = false
    ∧ Instr.wf (.cmp hd .eq 3 3 1 2 .i32) = false
    ∧ Instr.wf (.cmpi hd .eq 1 2 .f32 0) = false
    ∧ Instr.wf (.bra hd .always 1 0) = false := by
  decide +kernel

theorem test_illformed_actors :
    Instr.wf (.epop hd (.scal 3) 0 1 nc) = false
    ∧ Instr.wf (.epeek hd (.scal 3) 0 0 1 nc) = false
    ∧ Instr.wf (.epush hd (.scal 3) 0 1 nc) = false
    ∧ Instr.wf (.tqsig hd 1 0 nc) = false
    ∧ Instr.wf (.tqwait hd nc) = false
    ∧ Instr.wf (.gred hd .add .i32 1 2 3 nc) = false
    ∧ Instr.wf (.gred hd .xor .f32 1 2 3 nc) = false := by
  decide +kernel

theorem test_illformed_vector_arithmetic :
    Instr.wf (.vadd hd 1 2 (.vec 3) 0 .f32 false) = false
    ∧ Instr.wf (.vaddFp hd 1 2 (.vec 3) 0 .i32) = false
    ∧ Instr.wf (.vdot2 hd 1 2 (.vec 3) 4 0 .f32) = false
    ∧ Instr.wf (.vdot4 hd 1 2 (.vec 3) 4 0 .f16) = false
    ∧ Instr.wf (.vcmp hd .eq 1 2 (.vec 3) 0 .i16) = false
    ∧ Instr.wf (.vcmp hd .unord 1 2 (.vec 3) 0 .i32) = false
    ∧ Instr.wf (.vand hd 1 2 (.vec 3) 0 .i32) = false
    ∧ Instr.wf (.vsel hd 1 2 3 (.vec 3) .i64) = false := by
  decide +kernel

theorem test_illformed_vector_conversions :
    Instr.wf (.vcvt hd 1 2 0 .e8m0 .f32 0) = false
    ∧ Instr.wf (.vcvt hd 1 2 0 .f32 .xacc 0) = false
    ∧ Instr.wf (.vcvt hd 1 2 0 .f32 .f32 0) = false
    ∧ Instr.wf (.vcvt hd 1 2 0 .f32 .bf16 2) = false
    ∧ Instr.wf (.vqmx hd 1 2 3 .f32 .f32 0) = false
    ∧ Instr.wf (.vqmx hd 1 2 3 .i8 .f16 0) = false
    ∧ Instr.wf (.vqmx hd 1 2 3 .i8 .f32 4) = false
    ∧ Instr.wf (.vdqmx hd 1 2 3 0 .i32 .i8 0) = false
    ∧ Instr.wf (.vdqmx hd 1 2 3 0 .f32 .f32 0) = false
    ∧ Instr.wf (.vdqmx hd 1 2 3 0 .f32 .i8 4) = false := by
  decide +kernel

theorem test_illformed_vector_permutation :
    Instr.wf (.vext hd 1 2 0 .i16) = false
    ∧ Instr.wf (.vext hd 1 2 32 .i64) = false
    ∧ Instr.wf (.vins hd 1 2 0 .i32) = false
    ∧ Instr.wf (.vins hd 1 2 32 .n64) = false
    ∧ Instr.wf (.vredsum hd 1 2 0 .i16) = false
    ∧ Instr.wf (.vredand hd 1 2 0 .i32) = false
    ∧ Instr.wf (.vscan hd .add 1 2 0 .i64 false) = false
    ∧ Instr.wf (.vscan hd .max 1 2 0 .i32 true) = false
    ∧ Instr.wf (.vscan hd .add 1 2 0 .f32 true) = false
    ∧ Instr.wf (.vargmax hd 1 2 0 .i64) = false
    ∧ Instr.wf (.vrng hd 1 (.vec 2) 3 0 .i32) = false := by
  decide +kernel

theorem test_illformed_handles :
    Instr.wf (.hinv hd 1 true) = false
    ∧ Instr.wf (.ldt hd 1 2 3 .xacc 0 0) = false
    ∧ Instr.wf (.sttb hd 1 2 3 .xacc 0 0 false 0) = false
    ∧ Instr.wf (.hrelayout hd 0 1 2 3 1 false false) = false
    ∧ Instr.wf (.hrelayout hd 1 1 2 3 0 true false) = false := by
  decide +kernel

theorem test_illformed_matrix :
    Instr.wf (.mma hd .f32 ⟨1, 2, 3, 0, 0, 0, 0⟩ nc) = false
    ∧ Instr.wf (.mma hd .bf16 ⟨1, 30, 3, 0, 0, 0, 0⟩ nc) = false
    ∧ Instr.wf (.mmx hd .bf16 ⟨1, 2, 3, 0, 0, 0, 0⟩ nc) = false
    ∧ Instr.wf (.mmi hd .i8 ⟨1, 31, 3, 0, 0, 0, 0⟩ nc) = false
    ∧ Instr.wf (.mmxG hd .f16 ⟨1, 2, 3, 0, 0, 0, 0⟩ nc) = false
    ∧ Instr.wf (.mgang hd 1 2 0 1 0 0 nc) = false
    ∧ Instr.wf (.mgang hd 1 0 2 1 1 0 nc) = false
    ∧ Instr.wf (.mcfg hd 2 1 nc) = false
    ∧ Instr.wf (.mld hd 1 0 0 .i8 0 nc) = false
    ∧ Instr.wf (.mld hd 31 0 0 .f32 0 nc) = false
    ∧ Instr.wf (.mst hd 1 0 0 .n8 0 nc) = false
    ∧ Instr.wf (.mst hd 31 0 0 .f32 0 nc) = false
    ∧ Instr.wf (.mrow hd 1 2 0 .bf16 false 0 nc) = false
    ∧ Instr.wf (.mrow hd 1 2 0 .f32 true 0 nc) = false
    ∧ Instr.wf (.msort hd 4 4 0 nc) = false
    ∧ Instr.wf (.mtopk hd 4 4 0 false false 0 nc) = false := by
  decide +kernel

theorem test_illformed_memory :
    Instr.wf (.ld hd false 1 0 ⟨1, 2, 0⟩ ⟨0, 2, 0⟩) = false
    ∧ Instr.wf (.ld hd false 1 0 ⟨1, 2, 0⟩ ⟨1, 0, 0⟩) = false
    ∧ Instr.wf (.st hd 1 0 ⟨1, 2, 0⟩ ⟨0, 1, 0⟩) = false
    ∧ Instr.wf (.vscat hd 31 false ⟨1, 2, 0⟩ 0) = false
    ∧ Instr.wf (.atom hd .addF 1 3 ⟨1, 2, 0⟩ ⟨0, 0, 0⟩) = false
    ∧ Instr.wf (.atom hd .add 1 3 ⟨1, 2, 0⟩ ⟨0, 0, 3⟩) = false
    ∧ Instr.wf (.red hd .add 1 3 ⟨1, 2, 0⟩ ⟨0, 1, 0⟩) = false
    ∧ Instr.wf (.cas hd 31 true ⟨1, 2, 0⟩ ⟨0, 0, 0⟩) = false
    ∧ Instr.wf (.cas hd 1 true ⟨1, 2, 0⟩ ⟨0, 0, 3⟩) = false := by
  decide +kernel

theorem test_illformed_streams_regions_system :
    Instr.wf (.carm hd 1 2 3 false nc) = false
    ∧ Instr.wf (.copy hd 1 2 3 false nc) = false
    ∧ Instr.wf (.stastat hd 1 2 3 7 nc) = false
    ∧ Instr.wf (.rgclk hd 1 49) = false
    ∧ Instr.wf (.rgclk hd 1 901) = false
    ∧ Instr.wf (.mfs hd 1 0) = false
    ∧ Instr.wf (.mts hd 1 0xFFF) = false
    ∧ Instr.wf (.smap hd 1 2 0) = false := by
  decide +kernel

/-! ### Words of every instruction, from the formats of R40 and the encodings of chapters 04 to 14 -/

/-- Words of the spec's encodings with the instructions they stand for. -/
def words_scalar_arithmetic : List (Nat × Instr) :=
  [(0x4580000000000007, .nop 0x45 7),
   (0x0108620A00004001, .add ⟨false, 1⟩ 3 4 5 .i32 true),
   (0x0108620A00104001, .sub ⟨false, 1⟩ 3 4 5 .i32 true),
   (0x0108620A00204001, .mul ⟨false, 1⟩ 3 4 5 .i32 true),
   (0x0108620A00304000, .mulh ⟨false, 1⟩ 3 4 5 .i32),
   (0x0108620A00404000, .div ⟨false, 1⟩ 3 4 5 .i32),
   (0x0108620A00504000, .rem ⟨false, 1⟩ 3 4 5 .i32),
   (0x0108620A00604000, .min ⟨false, 1⟩ 3 4 5 .i32),
   (0x0108620A00704000, .max ⟨false, 1⟩ 3 4 5 .i32)]

theorem test_decode_scalar_arithmetic : words_scalar_arithmetic.all (fun r => decodeTableWord 64 r.1 == some r.2) = true := by
  decide +kernel

/-- Words of the spec's encodings with the instructions they stand for. -/
def words_scalar_logic : List (Nat × Instr) :=
  [(0x0208620A00004000, .and ⟨false, 1⟩ 3 4 5 .i32),
   (0x0208620A00104000, .or ⟨false, 1⟩ 3 4 5 .i32),
   (0x0208620A00204000, .xor ⟨false, 1⟩ 3 4 5 .i32),
   (0x0208620A00304000, .andn ⟨false, 1⟩ 3 4 5 .i32),
   (0x0208620A00404000, .shl ⟨false, 1⟩ 3 4 5 .i32),
   (0x0208620A00504000, .shr ⟨false, 1⟩ 3 4 5 .i32),
   (0x0208620A00604000, .sar ⟨false, 1⟩ 3 4 5 .i32),
   (0x0208620A00704000, .rol ⟨false, 1⟩ 3 4 5 .i32),
   (0x0308220A10205000, .cmp ⟨false, 1⟩ .lt 1 2 4 5 .n32),
   (0x0408620000003000, .clz ⟨false, 1⟩ 3 4 .n16),
   (0x0408620000103000, .ctz ⟨false, 1⟩ 3 4 .n16),
   (0x0408620000203000, .popc ⟨false, 1⟩ 3 4 .n16),
   (0x0408620000303000, .bswap ⟨false, 1⟩ 3 4 .n16),
   (0x040882800040000B, .sext ⟨false, 1⟩ 4 5 11)]

theorem test_decode_scalar_logic : words_scalar_logic.all (fun r => decodeTableWord 64 r.1 == some r.2) = true := by
  decide +kernel

/-- Words of the spec's encodings with the instructions they stand for. -/
def words_immediates : List (Nat × Instr) :=
  [(0x0508C244D5E6F780, .addi ⟨false, 1⟩ 6 4 0x89ABCDEF),
   (0x0508C244D5E6F781, .muli ⟨false, 1⟩ 6 4 0x89ABCDEF),
   (0x0508C244D5E6F782, .andi ⟨false, 1⟩ 6 4 0x89ABCDEF),
   (0x0508C244D5E6F783, .ori ⟨false, 1⟩ 6 4 0x89ABCDEF),
   (0x0508C244D5E6F784, .xori ⟨false, 1⟩ 6 4 0x89ABCDEF),
   (0x0508C20000001F85, .shli ⟨false, 1⟩ 6 4 63),
   (0x0508C20000001F86, .shri ⟨false, 1⟩ 6 4 63),
   (0x0508C20000001F87, .sari ⟨false, 1⟩ 6 4 63),
   (0x060884FFFFFFFFBD, .cmpi ⟨false, 1⟩ .ge 4 9 .n64 0xFFFFFFFF),
   (0x07092123456789AB, .ldi ⟨false, 1⟩ 9 0x123456789AB),
   (0x0808828091A2B380, .ldih ⟨false, 1⟩ 4 5 0x01234567),
   (0x0908620A00000819, .lea ⟨false, 1⟩ 3 4 5 9 0x81)]

theorem test_decode_immediates : words_immediates.all (fun r => decodeTableWord 64 r.1 == some r.2) = true := by
  decide +kernel

/-- Words of the spec's encodings with the instructions they stand for. -/
def words_moves_and_predicates : List (Nat × Instr) :=
  [(0x0A08E20A08000000, .sel ⟨false, 1⟩ 7 1 4 5),
   (0x0B08C28000000000, .movSS ⟨false, 1⟩ 6 5),
   (0x0B08C28000100000, .movPS ⟨false, 1⟩ 6 5),
   (0x0B08C28000200000, .movSP ⟨false, 1⟩ 6 5),
   (0x0B08C28000300000, .movKS ⟨false, 1⟩ 6 5),
   (0x0B08C28000400000, .movSK ⟨false, 1⟩ 6 5),
   (0x0B08C28000500000, .movKK ⟨false, 1⟩ 6 5),
   (0x2308C00000000001, .pset ⟨false, 1⟩ 6 true),
   (0x2308C28800100001, .pand ⟨false, 1⟩ 6 5 4 true false),
   (0x2308C28800200001, .por ⟨false, 1⟩ 6 5 4 true false),
   (0x2308C28800300001, .pxor ⟨false, 1⟩ 6 5 4 true false),
   (0x2308C28000400000, .pnot ⟨false, 1⟩ 6 5)]

theorem test_decode_moves_and_predicates : words_moves_and_predicates.all (fun r => decodeTableWord 64 r.1 == some r.2) = true := by
  decide +kernel

/-- Words of the spec's encodings with the instructions they stand for. -/
def words_control : List (Nat × Instr) :=
  [(0x200927FFFFFFFF00, .bra ⟨false, 1⟩ .dec 9 0xFFFFFFFF),
   (0x210A800000000500, .call ⟨false, 1⟩ 20 5),
   (0x220BE30000000000, .jmp ⟨false, 1⟩ 31 6),
   (0x22080A0000100000, .ret ⟨false, 1⟩ 20)]

theorem test_decode_control : words_control.all (fun r => decodeTableWord 64 r.1 == some r.2) = true := by
  decide +kernel

/-- Words of the spec's encodings with the instructions they stand for. -/
def words_edges_and_queues : List (Nat × Instr) :=
  [(0x3008810100611380, .epop ⟨false, 1⟩ (.vec 4) 2 3 ⟨2, 1, 3, true⟩),
   (0x3008811300611381, .epeek ⟨false, 1⟩ (.vec 4) 2 9 3 ⟨2, 1, 3, true⟩),
   (0x3108810000011380, .epush ⟨false, 1⟩ (.scal 4) 2 0 ⟨2, 1, 3, true⟩),
   (0x3208028000011380, .eeos ⟨false, 1⟩ 5 ⟨2, 1, 3, true⟩),
   (0x3209010000011381, .estat ⟨false, 1⟩ 8 2 ⟨2, 1, 3, true⟩),
   (0x3308028004211380, .tqsig ⟨false, 1⟩ 5 33 ⟨2, 1, 3, true⟩),
   (0x3308000000011381, .tqwait ⟨false, 1⟩ ⟨2, 1, 3, true⟩),
   (0x3308E10000011382, .tqrd ⟨false, 1⟩ 7 2 ⟨2, 1, 3, true⟩),
   (0x3408000000000000, .endF ⟨false, 1⟩),
   (0x3408020000000001, .actena ⟨false, 1⟩ 4),
   (0x3408020000000002, .actdis ⟨false, 1⟩ 4)]

theorem test_decode_edges_and_queues : words_edges_and_queues.all (fun r => decodeTableWord 64 r.1 == some r.2) = true := by
  decide +kernel

/-- Words of the spec's encodings with the instructions they stand for. -/
def words_groups : List (Nat × Instr) :=
  [(0x3808C38000011380, .gjoin ⟨false, 1⟩ 6 7 ⟨2, 1, 3, true⟩),
   (0x3808038000211381, .gleave ⟨false, 1⟩ true 7 ⟨2, 1, 3, true⟩),
   (0x3908C38000011380, .garrive ⟨false, 1⟩ 6 7 ⟨2, 1, 3, true⟩),
   (0x3908039000011381, .gwait ⟨false, 1⟩ 7 8 ⟨2, 1, 3, true⟩),
   (0x3908C38000011382, .gbar ⟨false, 1⟩ 6 7 ⟨2, 1, 3, true⟩),
   (0x3A08C39002011382, .gred ⟨false, 1⟩ .max .f32 6 7 8 ⟨2, 1, 3, true⟩),
   (0x3B08A20000011380, .launch ⟨false, 1⟩ 5 4 ⟨2, 1, 3, true⟩)]

theorem test_decode_groups : words_groups.all (fun r => decodeTableWord 64 r.1 == some r.2) = true := by
  decide +kernel

/-- Words of the spec's encodings with the instructions they stand for. -/
def words_vector_integer : List (Nat × Instr) :=
  [(0x4008620A00043003, .vadd ⟨false, 1⟩ 3 4 (.scal 5) 2 .n16 true),
   (0x4008620A00143003, .vsub ⟨false, 1⟩ 3 4 (.scal 5) 2 .n16 true),
   (0x4008620A00243003, .vmul ⟨false, 1⟩ 3 4 (.scal 5) 2 .n16 true),
   (0x4008620A00346000, .vmulh ⟨false, 1⟩ 3 4 (.vec 5) 2 .i64),
   (0x4008620A00446000, .vmin ⟨false, 1⟩ 3 4 (.vec 5) 2 .i64),
   (0x4008620A00546000, .vmax ⟨false, 1⟩ 3 4 (.vec 5) 2 .i64),
   (0x4008620000643002, .vabs ⟨false, 1⟩ 3 4 2 .n16 true),
   (0x4008620000743002, .vneg ⟨false, 1⟩ 3 4 2 .n16 true)]

theorem test_decode_vector_integer : words_vector_integer.all (fun r => decodeTableWord 64 r.1 == some r.2) = true := by
  decide +kernel

/-- Words of the spec's encodings with the instructions they stand for. -/
def words_vector_float : List (Nat × Instr) :=
  [(0x4108620A00051000, .vaddFp ⟨false, 1⟩ 3 4 (.vec 5) 2 .bf16),
   (0x4108620A00151000, .vsubFp ⟨false, 1⟩ 3 4 (.vec 5) 2 .bf16),
   (0x4108620A00251000, .vmulFp ⟨false, 1⟩ 3 4 (.vec 5) 2 .bf16),
   (0x4108620A00451000, .vminFp ⟨false, 1⟩ 3 4 (.vec 5) 2 .bf16),
   (0x4108620A00551000, .vmaxFp ⟨false, 1⟩ 3 4 (.vec 5) 2 .bf16),
   (0x4108620000652000, .vabsFp ⟨false, 1⟩ 3 4 2 .f16),
   (0x4108620000752000, .vnegFp ⟨false, 1⟩ 3 4 2 .f16),
   (0x4208620A30050001, .vfma ⟨false, 1⟩ 3 4 (.scal 5) 6 2 .f32),
   (0x4208620A30150001, .vfms ⟨false, 1⟩ 3 4 (.scal 5) 6 2 .f32),
   (0x4208620A30250001, .vfnma ⟨false, 1⟩ 3 4 (.scal 5) 6 2 .f32),
   (0x4208620A30351001, .vdot2 ⟨false, 1⟩ 3 4 (.scal 5) 6 2 .bf16),
   (0x4208620A30454001, .vdot4 ⟨false, 1⟩ 3 4 (.scal 5) 6 2 .e5m2)]

theorem test_decode_vector_float : words_vector_float.all (fun r => decodeTableWord 64 r.1 == some r.2) = true := by
  decide +kernel

/-- Words of the spec's encodings with the instructions they stand for. -/
def words_vector_logic : List (Nat × Instr) :=
  [(0x4308C20A00650000, .vcmp ⟨false, 1⟩ .unord 6 4 (.vec 5) 2 .f32),
   (0x4408620A00047000, .vand ⟨false, 1⟩ 3 4 (.vec 5) 2 .n64),
   (0x4408620A00147000, .vor ⟨false, 1⟩ 3 4 (.vec 5) 2 .n64),
   (0x4408620A00247000, .vxor ⟨false, 1⟩ 3 4 (.vec 5) 2 .n64),
   (0x4408620A00347000, .vandn ⟨false, 1⟩ 3 4 (.vec 5) 2 .n64),
   (0x4408620A00447000, .vshl ⟨false, 1⟩ 3 4 (.vec 5) 2 .n64),
   (0x4408620A00547000, .vshr ⟨false, 1⟩ 3 4 (.vec 5) 2 .n64),
   (0x4408620A00647000, .vsar ⟨false, 1⟩ 3 4 (.vec 5) 2 .n64),
   (0x4408E41218707000, .vsel ⟨false, 1⟩ 7 3 8 (.vec 9) .n64)]

theorem test_decode_vector_logic : words_vector_logic.all (fun r => decodeTableWord 64 r.1 == some r.2) = true := by
  decide +kernel

/-- Words of the spec's encodings with the instructions they stand for. -/
def words_vector_conversions : List (Nat × Instr) :=
  [(0x4508A20000031030, .vcvt ⟨false, 1⟩ 5 4 1 .bf16 .f32 1),
   (0x4608A20030017071, .vqmx ⟨false, 1⟩ 5 4 6 .e2m1 .bf16 3),
   (0x4608A20030132033, .vdqmx ⟨false, 1⟩ 5 4 6 1 .f16 .e4m3 1),
   (0x4708620000050000, .vexp2 ⟨false, 1⟩ 3 4 2),
   (0x4708620000150000, .vlog2 ⟨false, 1⟩ 3 4 2),
   (0x4708620000250000, .vrcp ⟨false, 1⟩ 3 4 2),
   (0x4708620000350000, .vrsqrt ⟨false, 1⟩ 3 4 2),
   (0x4708620000450000, .vsqrt ⟨false, 1⟩ 3 4 2)]

theorem test_decode_vector_conversions : words_vector_conversions.all (fun r => decodeTableWord 64 r.1 == some r.2) = true := by
  decide +kernel

/-- Words of the spec's encodings with the instructions they stand for. -/
def words_vector_permutation : List (Nat × Instr) :=
  [(0x4808620A00047000, .vperm ⟨false, 1⟩ 3 4 5 2 .n64),
   (0x4808620A30147000, .vperm2 ⟨false, 1⟩ 3 4 5 6 2 .n64),
   (0x4808620000247000, .vbcast ⟨false, 1⟩ 3 4 2 .n64),
   (0x4808620A00347000, .vbcastl ⟨false, 1⟩ 3 4 5 2 .n64),
   (0x4808620A00447000, .vrot ⟨false, 1⟩ 3 4 5 2 .n64),
   (0x4808620000547000, .vcompress ⟨false, 1⟩ 3 4 2 .n64),
   (0x4808620000647000, .vexpand ⟨false, 1⟩ 3 4 2 .n64),
   (0x480862000070403F, .vext ⟨false, 1⟩ 3 4 63 .i32),
   (0x480862000080701F, .vins ⟨false, 1⟩ 3 4 31 .n64)]

theorem test_decode_vector_permutation : words_vector_permutation.all (fun r => decodeTableWord 64 r.1 == some r.2) = true := by
  decide +kernel

/-- Words of the spec's encodings with the instructions they stand for. -/
def words_vector_reductions : List (Nat × Instr) :=
  [(0x4908620000047000, .vredsum ⟨false, 1⟩ 3 4 2 .n64),
   (0x4908620000147000, .vredmin ⟨false, 1⟩ 3 4 2 .n64),
   (0x4908620000247000, .vredmax ⟨false, 1⟩ 3 4 2 .n64),
   (0x4908620000347000, .vredand ⟨false, 1⟩ 3 4 2 .n64),
   (0x4908620000447000, .vredor ⟨false, 1⟩ 3 4 2 .n64),
   (0x4908620000547000, .vredxor ⟨false, 1⟩ 3 4 2 .n64),
   (0x4A08620000045002, .vscan ⟨false, 1⟩ .add 3 4 2 .n32 true),
   (0x4B08620000044000, .vargmax ⟨false, 1⟩ 3 4 2 .i32),
   (0x4B08620000150000, .vargmin ⟨false, 1⟩ 3 4 2 .f32),
   (0x4C09020A00045001, .vrng ⟨false, 1⟩ 8 (.vec 4) 5 2 .n32),
   (0x4D08C20000040000, .vptest ⟨false, 1⟩ 6 4 2)]

theorem test_decode_vector_reductions : words_vector_reductions.all (fun r => decodeTableWord 64 r.1 == some r.2) = true := by
  decide +kernel

/-- Words of the spec's encodings with the instructions they stand for. -/
def words_vector_immediates_and_masks : List (Nat × Instr) :=
  [(0x4E08401FC0000000, .vldi ⟨false, 1⟩ 2 0x3F800000),
   (0x4E08607FFFFFFF81, .vldiI64 ⟨false, 1⟩ 3 0xFFFFFFFF),
   (0x4E08800000003202, .viota ⟨false, 1⟩ 4 100),
   (0x4F08620A00000000, .kand ⟨false, 1⟩ 3 4 5),
   (0x4F08620A00100000, .kor ⟨false, 1⟩ 3 4 5),
   (0x4F08620A00200000, .kxor ⟨false, 1⟩ 3 4 5),
   (0x4F08620A00300000, .kandn ⟨false, 1⟩ 3 4 5),
   (0x4F08620000400000, .knot ⟨false, 1⟩ 3 4),
   (0x4F08620000500000, .kpopc ⟨false, 1⟩ 3 4),
   (0x4F08620000600000, .kffs ⟨false, 1⟩ 3 4)]

theorem test_decode_vector_immediates_and_masks : words_vector_immediates_and_masks.all (fun r => decodeTableWord 64 r.1 == some r.2) = true := by
  decide +kernel

/-- Words of the spec's encodings with the instructions they stand for. -/
def words_handles : List (Nat × Instr) :=
  [(0x7008A30000000080, .hdef ⟨false, 1⟩ 5 6 true),
   (0x7008E300055E6F01, .hld ⟨false, 1⟩ 7 6 0xABCDE),
   (0x7008A30000000002, .hst ⟨false, 1⟩ 5 6 false),
   (0x7008000000000083, .hinv ⟨false, 1⟩ 0 true),
   (0x7108844448000002, .ldt ⟨false, 1⟩ 4 2 8 .bf16 1 2),
   (0x7208844448000003, .stt ⟨false, 1⟩ 4 2 8 .bf16 1 3),
   (0x73088444C800017A, .ldtb ⟨false, 1⟩ 4 2 8 .e4m3 1 2 true 30),
   (0x74088444C8000116, .sttb ⟨false, 1⟩ 4 2 8 .e4m3 1 2 true 5),
   (0x7508A300001CB980, .hrelayout ⟨false, 1⟩ 5 6 3 7 9 true true),
   (0x7608000000000480, .hwait ⟨false, 1⟩ 9),
   (0x7608A00000000481, .hstat ⟨false, 1⟩ 5 9)]

theorem test_decode_handles : words_handles.all (fun r => decodeTableWord 64 r.1 == some r.2) = true := by
  decide +kernel

/-- Words of the spec's encodings with the instructions they stand for. -/
def words_matrix : List (Nat × Instr) :=
  [(0x800946122A491391, .mma ⟨false, 1⟩ .bf16 ⟨10, 12, 9, 2, 4, 5, 1⟩ ⟨2, 1, 3, true⟩),
   (0x810946122A491388, .mmx ⟨false, 1⟩ .i4 ⟨10, 12, 9, 2, 4, 5, 1⟩ ⟨2, 1, 3, true⟩),
   (0x820946122A491384, .mmi ⟨false, 1⟩ .i8n8 ⟨10, 12, 9, 2, 4, 5, 1⟩ ⟨2, 1, 3, true⟩),
   (0x830946122A491392, .mmaG ⟨false, 1⟩ .f16 ⟨10, 12, 9, 2, 4, 5, 1⟩ ⟨2, 1, 3, true⟩),
   (0x830946122A4913B7, .mmxG ⟨false, 1⟩ .e2m1 ⟨10, 12, 9, 2, 4, 5, 1⟩ ⟨2, 1, 3, true⟩),
   (0x8608038016311381, .mgang ⟨false, 1⟩ 7 1 0 3 2 2 ⟨2, 1, 3, true⟩),
   (0x8608000000111382, .mgangFree ⟨false, 1⟩ 2 ⟨2, 1, 3, true⟩),
   (0x8608000012611380, .mcfg ⟨false, 1⟩ 3 9 ⟨2, 1, 3, true⟩),
   (0x8408000000711380, .mzero ⟨false, 1⟩ 3 2 ⟨2, 1, 3, true⟩),
   (0x8408038000711381, .mscaleRow ⟨false, 1⟩ 7 3 2 ⟨2, 1, 3, true⟩),
   (0x8408038000711382, .mscaleCol ⟨false, 1⟩ 7 3 2 ⟨2, 1, 3, true⟩)]

theorem test_decode_matrix : words_matrix.all (fun r => decodeTableWord 64 r.1 == some r.2) = true := by
  decide +kernel

/-- Words of the spec's encodings with the instructions they stand for. -/
def words_matrix_moves : List (Nat × Instr) :=
  [(0x8509C00083491380, .mld ⟨false, 1⟩ 14 2 6 .f32 1 ⟨2, 1, 3, true⟩),
   (0x8509C0008BC91381, .mst ⟨false, 1⟩ 14 2 7 .bf16 1 ⟨2, 1, 3, true⟩),
   (0x850A84801C291382, .mrow ⟨false, 1⟩ 20 9 1 .acc true 1 ⟨2, 1, 3, true⟩),
   (0x8708C38000091380, .msort ⟨false, 1⟩ 6 7 1 ⟨2, 1, 3, true⟩),
   (0x8708C3800D091381, .mtopk ⟨false, 1⟩ 6 7 40 true false 1 ⟨2, 1, 3, true⟩),
   (0x8809000000000180, .mstat ⟨false, 1⟩ 8 3)]

theorem test_decode_matrix_moves : words_matrix_moves.all (fun r => decodeTableWord 64 r.1 == some r.2) = true := by
  decide +kernel

/-- Words of the spec's encodings with the instructions they stand for. -/
def words_memory : List (Nat × Instr) :=
  [(0xA008620B02468A31, .ld ⟨false, 1⟩ true 3 2 ⟨4, 5, 0x81234⟩ ⟨4, 1, 2⟩),
   (0xA108620B024685C8, .st ⟨false, 1⟩ 3 1 ⟨4, 5, 0x81234⟩ ⟨3, 2, 1⟩),
   (0xA208620B02469E30, .vld ⟨false, 1⟩ 3 3 ⟨4, 5, 0x81234⟩ ⟨4, 1, 2⟩),
   (0xA308620B024690D8, .vst ⟨false, 1⟩ 3 0 ⟨4, 5, 0x81234⟩ ⟨1, 2, 3⟩),
   (0xA408620B02468C00, .lds ⟨false, 1⟩ false 3 3 ⟨4, 5, 0x81234⟩),
   (0xA408620B02468C02, .sts ⟨false, 1⟩ 3 3 ⟨4, 5, 0x81234⟩),
   (0xA408620B02469803, .vlds ⟨false, 1⟩ 3 2 ⟨4, 5, 0x81234⟩),
   (0xA408620B02469804, .vsts ⟨false, 1⟩ 3 2 ⟨4, 5, 0x81234⟩),
   (0xA508620B02468C18, .vgath ⟨false, 1⟩ 3 true ⟨4, 5, 0x81234⟩ 3),
   (0xA508620B02468809, .vscat ⟨false, 1⟩ 3 false ⟨4, 5, 0x81234⟩ 1),
   (0xA608620B02468401, .ldc ⟨false, 1⟩ (.scalar true 1) 3 ⟨4, 5, 0x81234⟩),
   (0xA608620B02469402, .ldc ⟨false, 1⟩ (.vector 1) 3 ⟨4, 5, 0x81234⟩),
   (0xA708020B02469418, .pref ⟨false, 1⟩ 5 ⟨4, 5, 0x81234⟩ 3),
   (0xA708020B02469801, .prefConst ⟨false, 1⟩ 6 ⟨4, 5, 0x81234⟩)]

theorem test_decode_memory : words_memory.all (fun r => decodeTableWord 64 r.1 == some r.2) = true := by
  decide +kernel

/-- Words of the spec's encodings with the instructions they stand for. -/
def words_atomics : List (Nat × Instr) :=
  [(0xA808620B02468A77, .atom ⟨false, 1⟩ .swap 3 2 ⟨4, 5, 0x81234⟩ ⟨4, 3, 2⟩),
   (0xA908620B024685C9, .red ⟨false, 1⟩ .addF 3 1 ⟨4, 5, 0x81234⟩ ⟨3, 2, 1⟩),
   (0xAA08620B02468D68, .cas ⟨false, 1⟩ 3 true ⟨4, 5, 0x81234⟩ ⟨2, 3, 1⟩),
   (0xAB08620B02469DC0, .xadd ⟨false, 1⟩ (.vec 3) ⟨4, 5, 0x81234⟩ 3 true),
   (0xAB08620B02469A21, .xrd ⟨false, 1⟩ 3 ⟨4, 5, 0x81234⟩ 4 true),
   (0xAB08620B02469962, .xrdClr ⟨false, 1⟩ 3 ⟨4, 5, 0x81234⟩ 2 3),
   (0xC008000000000900, .fence ⟨false, 1⟩ .acqrel 4),
   (0xC108000000000000, .cinv ⟨false, 1⟩),
   (0xC108030000000001, .cinvLine ⟨false, 1⟩ 6)]

theorem test_decode_atomics : words_atomics.all (fun r => decodeTableWord 64 r.1 == some r.2) = true := by
  decide +kernel

/-- Words of the spec's encodings with the instructions they stand for. -/
def words_streams : List (Nat × Instr) :=
  [(0xC808C48000011380, .sdef ⟨false, 1⟩ 6 9 ⟨2, 1, 3, true⟩),
   (0xC908048E00011380, .sgo ⟨false, 1⟩ 9 7 ⟨2, 1, 3, true⟩),
   (0xC908048000011381, .sstop ⟨false, 1⟩ 9 ⟨2, 1, 3, true⟩),
   (0xCA08C48000611380, .sstat ⟨false, 1⟩ 6 9 3 ⟨2, 1, 3, true⟩),
   (0xCB08C48002A11380, .carm ⟨false, 1⟩ 6 9 5 true ⟨2, 1, 3, true⟩),
   (0xCB08048000011381, .cdis ⟨false, 1⟩ 9 ⟨2, 1, 3, true⟩),
   (0xCC08C00E02A11380, .copy ⟨false, 1⟩ 6 7 5 true ⟨2, 1, 3, true⟩),
   (0xCD08C38000A11380, .staload ⟨false, 1⟩ 6 7 5 ⟨2, 1, 3, true⟩),
   (0xCD08C38001A11380, .staloadUpd ⟨false, 1⟩ 6 7 5 ⟨2, 1, 3, true⟩),
   (0xCD08038000A11381, .stafree ⟨false, 1⟩ 7 5 ⟨2, 1, 3, true⟩),
   (0xCE08C3801FA11380, .stastat ⟨false, 1⟩ 6 7 5 31 ⟨2, 1, 3, true⟩)]

theorem test_decode_streams : words_streams.all (fun r => decodeTableWord 64 r.1 == some r.2) = true := by
  decide +kernel

/-- Words of the spec's encodings with the instructions they stand for. -/
def words_regions : List (Nat × Instr) :=
  [(0xD808C38000011380, .rgload ⟨false, 1⟩ 6 7 ⟨2, 1, 3, true⟩),
   (0xD808038000011381, .rgswap ⟨false, 1⟩ 7 ⟨2, 1, 3, true⟩),
   (0xD808038000211381, .rgswapForce ⟨false, 1⟩ 7 ⟨2, 1, 3, true⟩),
   (0xD908038000011380, .rgsave ⟨false, 1⟩ 7 ⟨2, 1, 3, true⟩),
   (0xD908038000011381, .rgrest ⟨false, 1⟩ 7 ⟨2, 1, 3, true⟩),
   (0xDA0803800001C200, .rgclk ⟨false, 1⟩ 7 900),
   (0xDA08038000000001, .rgfrz ⟨false, 1⟩ 7),
   (0xDA08038000000081, .rgfrzDrain ⟨false, 1⟩ 7),
   (0xDA08038000000002, .rgthaw ⟨false, 1⟩ 7),
   (0xDA08C38000000003, .rgstat ⟨false, 1⟩ 6 7)]

theorem test_decode_regions : words_regions.all (fun r => decodeTableWord 64 r.1 == some r.2) = true := by
  decide +kernel

/-- Words of the spec's encodings with the instructions they stand for. -/
def words_system : List (Nat × Instr) :=
  [(0xE008E00818000000, .mfs ⟨false, 1⟩ 7 0x103),
   (0xE008038020000001, .mts ⟨false, 1⟩ 7 4),
   (0xE108000000001500, .trap ⟨false, 1⟩ 0x2A),
   (0xE108000007FFFF81, .brk ⟨false, 1⟩ 0xFFFFF),
   (0xE208000000000000, .resume ⟨false, 1⟩),
   (0xE208000000000001, .resumeNext ⟨false, 1⟩),
   (0xE208000000000002, .abort ⟨false, 1⟩),
   (0xE308030000009A00, .tlbinv ⟨false, 1⟩ (.va 6 77)),
   (0xE308000000002300, .tlbinv ⟨false, 1⟩ (.part 17)),
   (0xE408830000000100, .ctxsv ⟨false, 1⟩ 4 6 2),
   (0xE408830000000101, .ctxld ⟨false, 1⟩ 4 6 2),
   (0xE509230000010000, .smap ⟨false, 1⟩ 9 6 512),
   (0xE608A00000000000, .pclr ⟨false, 1⟩ (.scalar 5)),
   (0xE608800000160000, .pclr ⟨false, 1⟩ (.vector 4 3))]

theorem test_decode_system : words_system.all (fun r => decodeTableWord 64 r.1 == some r.2) = true := by
  decide +kernel

/-- A state in which the clauses and predicates of those words are satisfied: p1 is set and every token queue
holds a token. -/
def runs : State :=
  (State.reset.placed 0).modTile 0 (fun y => { y with
    tq := Vector.replicate 16 1, ctx := vset y.ctx 0 { y.ctx.get 0 with p := 0xFFFF } })

theorem witness_ready_scalar_arithmetic : words_scalar_arithmetic.all (fun r => r.2.wf && (ready r.2 runs || !predHolds runs.me r.2)) = true := by
  decide +kernel

theorem witness_ready_scalar_logic : words_scalar_logic.all (fun r => r.2.wf && (ready r.2 runs || firmwareOnly r.2)) = true := by
  decide +kernel

theorem witness_ready_immediates : words_immediates.all (fun r => r.2.wf && (ready r.2 runs || firmwareOnly r.2)) = true := by
  decide +kernel

theorem witness_ready_moves_and_predicates : words_moves_and_predicates.all (fun r => r.2.wf && (ready r.2 runs || firmwareOnly r.2)) = true := by
  decide +kernel

theorem witness_ready_control : words_control.all (fun r => r.2.wf && (ready r.2 runs || firmwareOnly r.2)) = true := by
  decide +kernel

theorem witness_ready_edges_and_queues : words_edges_and_queues.all (fun r => r.2.wf && (ready r.2 runs || firmwareOnly r.2)) = true := by
  decide +kernel

theorem witness_ready_groups : words_groups.all (fun r => r.2.wf && (ready r.2 runs || firmwareOnly r.2)) = true := by
  decide +kernel

theorem witness_ready_vector_integer : words_vector_integer.all (fun r => r.2.wf && (ready r.2 runs || firmwareOnly r.2)) = true := by
  decide +kernel

theorem witness_ready_vector_float : words_vector_float.all (fun r => r.2.wf && (ready r.2 runs || firmwareOnly r.2)) = true := by
  decide +kernel

theorem witness_ready_vector_logic : words_vector_logic.all (fun r => r.2.wf && (ready r.2 runs || firmwareOnly r.2)) = true := by
  decide +kernel

theorem witness_ready_vector_conversions : words_vector_conversions.all (fun r => r.2.wf && (ready r.2 runs || firmwareOnly r.2)) = true := by
  decide +kernel

theorem witness_ready_vector_permutation : words_vector_permutation.all (fun r => r.2.wf && (ready r.2 runs || firmwareOnly r.2)) = true := by
  decide +kernel

theorem witness_ready_vector_reductions : words_vector_reductions.all (fun r => r.2.wf && (ready r.2 runs || firmwareOnly r.2)) = true := by
  decide +kernel

theorem witness_ready_vector_immediates_and_masks : words_vector_immediates_and_masks.all (fun r => r.2.wf && (ready r.2 runs || firmwareOnly r.2)) = true := by
  decide +kernel

theorem witness_ready_handles : words_handles.all (fun r => r.2.wf && (ready r.2 runs || firmwareOnly r.2)) = true := by
  decide +kernel

theorem witness_ready_matrix : words_matrix.all (fun r => r.2.wf && (ready r.2 runs || firmwareOnly r.2)) = true := by
  decide +kernel

theorem witness_ready_matrix_moves : words_matrix_moves.all (fun r => r.2.wf && (ready r.2 runs || firmwareOnly r.2)) = true := by
  decide +kernel

theorem witness_ready_memory : words_memory.all (fun r => r.2.wf && (ready r.2 runs || firmwareOnly r.2)) = true := by
  decide +kernel

theorem witness_ready_atomics : words_atomics.all (fun r => r.2.wf && (ready r.2 runs || firmwareOnly r.2)) = true := by
  decide +kernel

theorem witness_ready_streams : words_streams.all (fun r => r.2.wf && (ready r.2 runs || firmwareOnly r.2)) = true := by
  decide +kernel

theorem witness_ready_regions : words_regions.all (fun r => r.2.wf && (ready r.2 runs || firmwareOnly r.2)) = true := by
  decide +kernel

theorem witness_ready_system : words_system.all (fun r => r.2.wf && (ready r.2 runs || firmwareOnly r.2)) = true := by
  decide +kernel

/-! ### States that meet the hypotheses of the statements -/

/-- Scalar registers take values. -/
def put (s : State) (l : List (Fin 32 × Word)) : State := s.modCtx s.cur (fun c => l.foldl (fun c x => c.writeS x.1 x.2 false) c)

/-- A scalar register is poisoned. -/
def spoil (s : State) (d : Fin 32) : State := s.modCtx s.cur (fun c => c.writeS d 0 true)

/-- The context has another program counter and phase. -/
def going (s : State) (pc : Pc) (ph : Phase) : State := s.modCtx s.cur (fun c => { c with pc := pc, phase := ph })

/-- The issuer of a test's operation. -/
abbrev by0 : Issued := ⟨0, 0, 0, false⟩

/-- A group instruction whose response writes s3 is outstanding. -/
def awaitsS3 : State := runs.modCtx runs.cur (fun c => { c with groups := [⟨0, .arrive, some 3, none, false, by0, 0, 0, 0, 0⟩] })

/-- A deferred fault is due at the next instruction. -/
def owes : State := runs.modCtx runs.cur (fun c => { c with owed := some ⟨0x11, 5, 0, by0, .next none⟩ })

/-- UnassignedOpcodeIsIllegal: the first and the last opcode of each range, and none of their neighbours. -/
theorem witness_unassigned_opcodes :
    [0x00, 0x0C, 0x1F, 0x24, 0x2F, 0x35, 0x37, 0x3C, 0x3F, 0x50, 0x6F, 0x77, 0x7F, 0x89, 0x9F, 0xAC, 0xBF, 0xC2, 0xC7,
      0xCF, 0xD7, 0xDB, 0xDF, 0xE7, 0xFF].all (fun op => field (op * 2 ^ 56) 51 5 != 16
        && decodeBytes false (wordBytes (BitVec.ofNat 64 (op * 2 ^ 56))) == some (.illegal op)) = true
    ∧ [0x0B, 0x20, 0x23, 0x30, 0x34, 0x38, 0x3B, 0x40, 0x4F, 0x70, 0x76, 0x88, 0xA0, 0xAB, 0xC0, 0xC1, 0xC8, 0xCE,
      0xD8, 0xDA, 0xE1, 0xE6].all (fun op =>
        decodeBytes false (wordBytes (BitVec.ofNat 64 (op * 2 ^ 56))) != some (.illegal op)) = true := by
  decide +kernel

/-- FalsePredicateHasNoEffect: a never form and a word under the false p1. -/
theorem witness_false_predicate :
    field 0x0080000000000000 51 5 = 16 ∧ reached (.nop 0 0) (State.reset.placed 0)
    ∧ reached (.add ⟨false, 1⟩ 3 4 5 .i32 false) (State.reset.placed 0)
    ∧ predHolds (State.reset.placed 0).me (.add ⟨false, 1⟩ 3 4 5 .i32 false) = false := by
  unfold reached; decide +kernel

/-- InterlocksWaitsAndOwedFaults: a pending s3, a wait for two tokens of a queue that holds one, an owed fault. -/
theorem witness_interlocks :
    (.s 3 ∈ awaitsS3.pending awaitsS3.cur ∧ .s 3 ∈ regsOf (rankOf awaitsS3.me (.add hd 6 3 5 .i32 false)) (.add hd 6 3 5 .i32 false)
      ∧ awaitsS3.me.phase = .running)
    ∧ (reached (.tqwait hd ⟨2, 2, 0, false⟩) runs ∧ bitOf (runs.view runs.cur).tqmask 2 = true ∧ runs.tq runs.cur 2 < 2)
    ∧ ((Instr.add hd 6 3 5 .i32 false).isWord = true ∧ firmwareOnly (.add hd 6 3 5 .i32 false) = false
      ∧ reached (.add hd 6 3 5 .i32 false) owes ∧ predHolds owes.me (.add hd 6 3 5 .i32 false) = true
      ∧ owes.waitReady owes.cur (.add hd 6 3 5 .i32 false) = true
      ∧ owes.due owes.cur (.add hd 6 3 5 .i32 false) = owes.me.owed ∧ owes.me.owed.isSome = true) := by
  unfold reached; decide +kernel

/-- The words 0x0C…, cinv with an unused bit and addi, placed. -/
def placedIllegal : State := State.reset.placed 0x0C00000000000000
def placedReserved : State := State.reset.placed 0xC100000000000080
def placedAddi : State := State.reset.placed 0x0500C20000000180

/-- A firing that has issued as many instructions as its budget of 1 allows. -/
def spent : State :=
  (placedAddi.modCtx placedAddi.cur (fun c => { c with firing := c.firing.map (fun f => { f with issued := 1 }) })).modLaunchOf
    placedAddi.cur (fun l => { l with rcd := l.rcd ||| BitVec.ofNat 512 (2 ^ 192) })

/-- StepRunsDecodedInstruction: its turn, and each of its clauses. -/
theorem witness_step :
    (turnOf placedIllegal 0 0 [] ∧ (atTurn placedIllegal 0 0).fetch (.tile 0 0) = some (.illegal 0x0C)
      ∧ ((atTurn placedIllegal 0 0).view (.tile 0 0)).inRange ((atTurn placedIllegal 0 0).ctx (.tile 0 0)).pcNat = true)
    ∧ (turnOf placedReserved 0 0 [] ∧ (atTurn placedReserved 0 0).fetch (.tile 0 0) = some (.reserved 0x80))
    ∧ (turnOf placedAddi 0 0 [] ∧ (atTurn placedAddi 0 0).fetch (.tile 0 0) = some (.instr (.addi hd 6 4 3))
      ∧ [placedIllegal, placedReserved, placedAddi, spent].all (fun s => !((atTurn s 0 0).ctx (.tile 0 0)).blocked) = true
      ∧ budgetTraps (atTurn placedAddi 0 0) (.tile 0 0) (.addi hd 6 4 3) = false
      ∧ (nextOf (exec (.addi hd 6 4 3) (atTurn placedAddi 0 0))).any
          (fun s1 => issuedSince (atTurn placedAddi 0 0) s1 (.tile 0 0)) = true)
    ∧ (turnOf spent 0 0 [] ∧ budgetSpent (atTurn spent 0 0) (.tile 0 0) = true
      ∧ (atTurn spent 0 0).fetch (.tile 0 0) = some (.instr (.addi hd 6 4 3)) ∧ firmwareOnly (.addi hd 6 4 3) = false
      ∧ ((atTurn spent 0 0).ctx (.tile 0 0)).owedDue (.addi hd 6 4 3) = none)
    ∧ (let past := atTurn (runs.modCtx runs.cur (fun c => { c with pcOver := true })) 0 0
       turnOf (runs.modCtx runs.cur (fun c => { c with pcOver := true })) 0 0 []
       ∧ (past.view (.tile 0 0)).inRange (past.ctx (.tile 0 0)).pcNat = false) := by
  unfold turnOf; decide +kernel

/-! ### The worked examples of the spec -/

/-- The issuing context after one word, from a state. -/
def ran (i : Instr) (s : State) : Ctx := ((nextOf (exec i s)).getD State.reset).me

/-- A vector register of given lanes, clean. -/
def lanes (f : Nat → Nat) : VReg := VReg.ofLanes f

/-- Vector registers take values. -/
def putV (s : State) (l : List (Fin 32 × VReg)) : State := s.modCtx s.cur (fun c => l.foldl (fun c x => c.writeV x.1 x.2) c)

/-- R106's example: the quotient of the least i8 by −1 is itself, sign-extended; a division by zero leaves the dividend. -/
theorem test_division_corners :
    (ran (.div hd 4 5 6 .i8) (put runs [(5, 0x80), (6, 0xFFFFFFFFFFFFFFFF)])).readS 4 = 0xFFFFFFFFFFFFFF80
    ∧ (ran (.rem hd 4 5 6 .n32) (put runs [(5, 0xABCD00000007), (6, 0)])).readS 4 = 7 := by decide +kernel

/-- Table 4.6: −7 as n32 is not below 10, its complement predicate is set, and as i32 it is below. -/
theorem test_table_4_6 :
    (let s := put runs [(4, 0xFFFFFFFFFFFFFFF9), (5, 10)]
     (ran (.cmp hd .lt 1 2 4 5 .n32) s).readP 1 = false ∧ (ran (.cmp hd .lt 1 2 4 5 .n32) s).readP 2 = true
     ∧ (ran (.cmp hd .lt 3 0 4 5 .i32) s).readP 3 = true ∧ (ran (.sel hd 8 1 4 5) s).readS 8 = 0xFFFFFFFFFFFFFFF9) := by
  decide +kernel

/-- Table 4.6's first word and R123: the immediate is sign-extended; a count of 0 wraps and the branch is taken. -/
theorem test_ldi_and_bra_dec :
    (ran (.ldi hd 4 0x1FFFFFFFFFF9) runs).readS 4 = 0xFFFFFFFFFFFFFFF9
    ∧ (let c := ran (.bra hd .dec 9 (-1)) (going (put runs [(9, 0)]) 64 .running)
       c.readS 9 = 0xFFFFFFFFFFFFFFFF ∧ c.pc = 56)
    ∧ (let c := ran (.bra hd .dec 9 (-1)) (going (put runs [(9, 1)]) 64 .running)
       c.readS 9 = 0 ∧ c.pc = 72) := by decide +kernel

/-- The worked conversions under R87. -/
theorem test_conversions :
    (convert .bf16 (decodeElem .f32 0x3F808000)).1 = 0x3F80 ∧ (convert .bf16 (decodeElem .f32 0x3F818000)).1 = 0x3F82
    ∧ (convert .e4m3 (decodeElem .f32 0x43960000)).1 = 0x79
    ∧ convert .e4m3 (decodeElem .f32 0x43FA0000) = (0x7E, Ev.oneSat) ∧ convert .e4m3 (decodeElem .f32 0x7F800000) = (0x7E, Ev.oneSat)
    ∧ convert .e5m2 (decodeElem .f32 0x7F800000) = (0x7C, Ev.zero) ∧ convert .e4m3 (decodeElem .f32 0x3A800000) = (0, Ev.zero)
    ∧ convert .e2m1 (decodeElem .f32 0x7FC00000) = (0, Ev.oneNan) ∧ convert .i8 (decodeElem .f32 0xC0600000) = (0xFC, Ev.zero)
    ∧ convert .i8 (decodeElem .f32 0x4348B333) = (0x7F, Ev.oneSat) := by decide +kernel

/-- acc48 of 1.0 and −1.5 (after R78), and the e2m1 block after R89. -/
theorem test_acc_and_block :
    (convert .acc (decodeElem .f32 0x3F800000)).1 = 0x3FE000000000 ∧ (convert .acc (decodeElem .f32 0xBFC00000)).1 = 0xBFF000000000
    ∧ (let q := quantiseMX .e2m1 ([0x40A00000, 0x3E99999A, 0xC02CCCCD].map (decodeElem .f32) ++ List.replicate 29 (.fin false 0 0))
       q.1 = 0x7F ∧ q.2.1.take 4 = [0x6, 0x1, 0xD, 0x0]) := by decide +kernel

/-- Rng32(1, 0) (R97), and the f32 form of its first lane. -/
theorem test_rng :
    rng32 1 0 = 0x92CA2F0E
    ∧ ((ran (.vrng hd 8 (.scal 4) 5 0 .n32) (put runs [(4, 1), (5, 0)])).readV 8).elem .n32 0 = 0x92CA2F0E := by decide +kernel

/-- 2^24 and 63 ones: the scan stays at 2^24, the tree gives 2^24 + 62, an xacc object 2^24 + 64 (R91, R275). -/
theorem test_sums :
    (let x := lanes (fun j => if j = 0 then 0x4B800000 else 0x3F800000)
     ((ran (.vscan hd .add 5 4 0 .f32 false) (putV runs [(4, x)])).readV 5).elem .f32 63 = 0x4B800000
     ∧ (ran (.vredsum hd 6 4 0 .f32) (putV runs [(4, x)])).readS 6 = 0x4B80001F
     ∧ ((List.range 64).foldl (fun o j => o.add (x.elem .f32 j)) Xacc.zero).toF32 = 0x4B800020) := by decide +kernel

/-- The upper part of a widening conversion writes lanes 32 to 63 only (the example after R190). -/
theorem test_upper_part :
    (let v := (ran (.vcvt hd 5 4 0 .bf16 .f32 1) (putV runs [(4, lanes (fun _ => 0x3F818000)), (5, lanes (fun j => j))])).readV 5
     v.lane 31 = 31 ∧ v.lane 32 = 0x3F823F82) := by decide +kernel

/-- The layout example after R204: element (37, 70) row-major and in tag 3. -/
theorem test_layout :
    (let d := fun (tag p0 : Nat) => hdesc (BitVec.ofNat 1024 ([(16, 2 * 2), (17, 17), (18, tag), (24, 256), (28, 128), (44, p0)].foldl
       (fun n x => n + x.2 * 2 ^ (8 * x.1)) 0))
     (d 0 256).loc [37, 70] = 8 * 0x258C ∧ (d 3 0).size = 65536 ∧ (d 3 0).loc [37, 70] = 8 * 0x928C) := by decide +kernel

/-- The order of the sort example (R249). -/
theorem test_sort :
    sortPairs [(0x40000000, 7), (0x7FC00000, 1), (0x40000000, 3), (0x80000000, 5), (0, 9)]
      = [(0x40000000, 3), (0x40000000, 7), (0, 9), (0x80000000, 5), (0x7FC00000, 1)] := by decide +kernel

/-- The home of the example after R22: channel group 5, local slice 1. -/
theorem test_home : cgOf 0x1680000A80 = 5 ∧ sliceOf 0x1680000A80 = 1 := by decide +kernel

/-- The example after R198: vptest, and a merge under its mask. -/
theorem test_vptest :
    (let s := putV runs [(4, ⟨0, 0x0000000000000014⟩), (7, lanes (fun j => j))]
     (ran (.vptest hd 3 4 0) s).readK 3 = 0x14
     ∧ (let c := ran (.vor hd 4 7 (.vec 7) 3 .n32) (s.modCtx s.cur (fun c => c.writeK 3 0x14))
        (c.readV 4).poison = 0 ∧ (c.readV 4).lane 2 = 2 ∧ (c.readV 4).lane 3 = 0)) := by decide +kernel

/-- R54: s0, p0 and k0 discard what is written to them; v0 is a register like the others. -/
theorem test_constants :
    (ran (.ldi hd 0 5) runs).readS 0 = 0 ∧ (ran (.pset hd 0 false) runs).readP 0 = true
    ∧ (ran (.movKS hd 0 0) runs).readK 0 = 0xFFFFFFFFFFFFFFFF ∧ ((ran (.vldi hd 0 7) runs).readV 0).lane 63 = 7 := by decide +kernel

/-- R382: the explicit trap of `trap 0x2A` at byte 16: the cause, tile, detail, PC and DPC of the record, where the
trap area of context 0 lies after reset (R383); the context is stopped, since no handler is declared (R388). -/
theorem test_trap_record :
    (let s := (nextOf (exec (.trap hd 0x2A) (going runs 16 .running))).getD State.reset
     let m := (s.tiles.get 0).scratch
     m.readNat 0x17FC00 1 = 0x15 ∧ m.readNat 0x17FC02 2 = 0 ∧ m.readNat 0x17FC08 8 = 0x2A ∧ m.readNat 0x17FC10 4 = 16
     ∧ m.readNat 0x17FC14 4 = 16 ∧ s.me.phase = .stopped ∧ s.me.dpc = 16 ∧ s.me.tcause = 0x15) := by decide +kernel

/-! ### Scalar words: the extra hypotheses of their statements -/

/-- ScalarArithmeticAndLogic and ScalarBitsAndImmediates ask only that the word is ready. -/
theorem witness_scalar_ready :
    [Instr.add hd 3 4 5 .i32 true, .mulh hd 3 4 5 .n64, .rol hd 3 4 5 .i8, .clz hd 3 4 .n16, .sext hd 3 4 63, .sari hd 3 4 0,
      .lea hd 3 4 5 15 0x80].all (fun i => ready i runs) = true := by decide +kernel

/-- ScalarDivision: its three cases. -/
theorem witness_division :
    (let s := put runs [(5, 0x80), (6, 0xFF), (7, 0)]
     ready (.div hd 4 5 6 .i8) s = true ∧ ready (.rem hd 4 5 6 .i8) s = true
     ∧ (Ty.i8.val (s.me.readS 7).toNat = 0)
     ∧ (Ty.i8.signed = true ∧ Ty.i8.val (s.me.readS 5).toNat = Ty.i8.lo ∧ Ty.i8.val (s.me.readS 6).toNat = -1)
     ∧ (Ty.n8.val (s.me.readS 6).toNat ≠ 0 ∧ ¬(Ty.n8.signed = true ∧ Ty.n8.val (s.me.readS 5).toNat = Ty.n8.lo))) := by
  decide +kernel

/-- ComparisonsMovesAndPredicates: clean sources, and each poisoned one. -/
theorem witness_comparisons :
    (let i := Instr.cmp hd .ge 1 2 4 5 .n32
     let a := spoil runs 4
     let b := spoil runs 5
     (ready i runs = true ∧ runs.me.poisS 4 = false ∧ runs.me.poisS 5 = false)
     ∧ (ready i a = true ∧ a.me.poisS 4 = true ∧ ready (.movKS hd 1 4) a = true ∧ ready (.movPS hd 1 4) a = true)
     ∧ (ready i b = true ∧ b.me.poisS 4 = false ∧ b.me.poisS 5 = true)) := by
  decide +kernel

/-- The launch's code ends at byte 0x40. -/
def narrow (s : State) : State :=
  s.modLaunchOf s.cur (fun l => { l with rcd := l.rcd - BitVec.ofNat 512 ((0x40000 - 0x40) * 2 ^ 146) })

/-- ControlTransfers: taken at the limits of the range, not taken, poisoned, misaligned, and past the range. -/
theorem witness_control :
    (let s := put (narrow runs) [(4, 0x40), (5, 4), (6, 0x38), (7, 1)]
     let b := spoil s 5
     let target := fun (off : BitVec 32) => (BitVec.ofInt 18 (s.me.pc.toInt + off.toInt * 8) : Pc).toNat
     let inr := fun (n : Nat) => (s.view s.cur).inRange n
     (ready (.bra hd .always 0 7) s = true ∧ ready (.call hd 3 7) s = true ∧ ready (.jmp hd 3 6) s = true
       ∧ ready (.ret hd 6) s = true ∧ inr (target 7) = true ∧ inr (target 0) = true
       ∧ s.me.poisS 6 = false ∧ (s.me.readS 6).toNat % 8 = 0 ∧ inr (s.me.readS 6).toNat = true)
     ∧ (ready (.bra hd .dec 7 0) s = true ∧ s.me.poisS 7 = false ∧ braTaken .dec (s.me.readS 7) = false
       ∧ braTaken .gt (s.me.readS 7) = true)
     ∧ (ready (.bra hd .eq 5 0) b = true ∧ b.me.poisS 5 = true ∧ ready (.jmp hd 3 5) b = true ∧ ready (.ret hd 5) b = true)
     ∧ (s.me.poisS 5 = false ∧ (s.me.readS 5).toNat % 8 ≠ 0)
     ∧ (s.me.poisS 4 = false ∧ (s.me.readS 4).toNat % 8 = 0 ∧ inr (s.me.readS 4).toNat = false)
     ∧ (inr (target 8) = false ∧ inr (target (-1)) = false)) := by
  decide +kernel

/-! ### Edges -/

/-- A token of a number. -/
abbrev tok (n : Nat) : Token := ⟨BitVec.ofNat 512 n, false, false, 0⟩

/-- Slot 0 reads two tokens of 8 bytes a firing from edge 1, slot 1 writes two of them to edge 2, slot 2
writes to edge 3 and has ended it; the other slots are unbound. -/
def edged : State :=
  (runs.modLaunchOf runs.cur (fun l => { l with
    insts := [{ placedInst with slots := vset (vset (vset placedInst.slots 0 (some ⟨1, 2, false⟩)) 1 (some ⟨2, 2, true⟩)) 2 (some ⟨3, 1, true⟩) }]
    edges := [⟨1, 8, 4, .actor 1 0, .actor 0 0, none, none, 0, [tok 5, tok 6, tok 7], [], 0, 0, false, 0⟩,
              ⟨2, 8, 4, .actor 0 1, .actor 1 1, none, none, 0, [], [], 4, 0, false, 0⟩, ⟨3, 64, 4, .actor 0 2, .actor 1 2, none, none, 0, [], [], 4, 0, false, 0⟩] })).modCtx
    runs.cur (fun c => (c.setSlotUse 0 ⟨2, 0, [], false⟩).setSlotUse 2 ⟨0, 0, [tok 9], true⟩)

/-- The output slots hold what their rates ask for. -/
def filled : State := edged.modCtx edged.cur (fun c => c.setSlotUse 1 ⟨0, 0, [tok 1, tok 2], false⟩)

/-- EdgePopsAndPushes: a pop and a peek up to the window's end, a push up to the rate, eeos after a push and before
one, the status. -/
theorem witness_edges :
    (let g := edged.cur
     let eq (s : State) (n : Fin 16) (b : SlotBind) (k : Nat) : Bool :=
       s.slotBind g n == some b && (s.slotEdge g n).any (fun e => e.tokSize == k)
     (eq edged 0 ⟨1, 2, false⟩ 8 && eq edged 1 ⟨2, 2, true⟩ 8 && eq edged 2 ⟨3, 1, true⟩ 64) = true
     ∧ (ready (.epop hd (.vec 4) 0 1 nc) edged && (edged.maskFault g (.epop hd (.vec 4) 0 1 nc)).isNone) = true
     ∧ (edged.me.slotUse 0).cursor + 2 ≤ (edged.me.slotUse 0).len
     ∧ (ready (.epeek hd (.scal 4) 0 5 0 nc) (put edged [(5, 1)])
        && ((put edged [(5, 1)]).maskFault g (.epeek hd (.scal 4) 0 5 0 nc)).isNone && !(put edged [(5, 1)]).me.poisS 5) = true
     ∧ ((put edged [(5, 1)]).me.readS 5).toNat + 1 ≤ ((put edged [(5, 1)]).me.slotUse 0).len
     ∧ (slotEos edged 1 || (edged.me.readV 4).poisonIn 16 || edged.me.poisS 4) = false
     ∧ (ready (.epush hd (.vec 4) 1 1 nc) edged && (edged.maskFault g (.epush hd (.vec 4) 1 1 nc)).isNone) = true
     ∧ (edged.me.slotUse 1).pushed.length + 2 ≤ 2
     ∧ (ready (.eeos hd 1 nc) edged && (edged.maskFault g (.eeos hd 1 nc)).isNone) = true ∧ (edged.me.slotUse 1).pushed = []
     ∧ (ready (.eeos hd 1 nc) filled && (filled.maskFault g (.eeos hd 1 nc)).isNone && !slotEos filled 1) = true
     ∧ (filled.me.slotUse 1).pushed = [tok 1] ++ [tok 2]
     ∧ (ready (.estat hd 4 1 nc) edged && (edged.maskFault g (.estat hd 4 1 nc)).isNone) = true) := by
  decide +kernel

/-- EdgeRateViolations: an unbound slot, a wrong direction, past the window, past the rate, after the end. -/
theorem witness_edge_violations :
    (let g := edged.cur
     [Instr.epop hd (.scal 4) 3 0 nc, .epop hd (.scal 4) 1 0 nc, .epop hd (.scal 4) 0 2 nc, .epush hd (.scal 4) 0 0 nc,
       .eeos hd 0 nc, .epush hd (.vec 4) 2 0 nc, .eeos hd 2 nc, .epush hd (.vec 4) 1 2 nc, .estat hd 4 3 nc].all
         (fun i => ready i edged && (edged.maskFault g i).isNone) = true
     ∧ edged.slotBind g 3 = none ∧ (edged.slotBind g 1).any (fun b => b.out) = true
     ∧ (edged.me.slotUse 0).len < (edged.me.slotUse 0).cursor + 3 ∧ slotEos edged 2 = true ∧ slotEos edged 1 = false
     ∧ 2 < (edged.me.slotUse 1).pushed.length + 3 ∧ edged.me.poisS 4 = false ∧ (edged.me.readV 4).poison = 0) := by
  decide +kernel

/-- TokenQueueAndGroupWords: a sum of 63, and one past it; a group word with clean registers and no merged stores. -/
theorem witness_queues_and_groups :
    (let a := Instr.tqsig hd 5 62 nc
     let b := Instr.tqsig hd 5 63 nc
     let g := runs.cur
     (ready a runs && (runs.maskFault g a).isNone && ready b runs && (runs.maskFault g b).isNone) = true
     ∧ (runs.takeWait g a).tq g 5 + 62 ≤ 63 ∧ 63 < (runs.takeWait g b).tq g 5 + 63
     ∧ [Instr.tqwait hd ⟨2, 1, 3, true⟩, .tqrd hd 4 2 ⟨2, 1, 3, true⟩, .gjoin hd 6 7 nc, .gleave hd true 7 nc, .gwait hd 7 8 nc,
        .garrive hd 6 7 nc, .gbar hd 6 7 nc, .gred hd .max .f32 6 7 8 nc].all
        (fun i => ready i runs && (runs.maskFault g i).isNone) = true
     ∧ runs.me.poisS 7 = false ∧ runs.me.poisS 8 = false ∧ runs.me.wcb = []) := by
  decide +kernel

/-- EndAndEnable: an end with its tokens pushed, one that is short, one in a handler; an enable of an instance of
the launch, of none, and of a poisoned number; a slot's edge. -/
theorem witness_end :
    (let h := going runs 0 .inHandler
     let p := put runs [(4, 7)]
     (ready (.endF hd) filled && ready (.endF hd) edged && ready (.endF hd) h) = true
     ∧ h.me.phase = .inHandler ∧ filled.me.phase = .running ∧ filled.me.wcb = [] ∧ filled.me.reqs = [] ∧ matBusy filled filled.cur = false
     ∧ shortSlot filled filled.cur = none ∧ filled.me.firing.isSome = true ∧ shortSlot edged edged.cur = some 1
     ∧ (ready (.actena hd 4) (spoil runs 4) && ready (.actdis hd 4) p && ready (.actena hd 4) runs) = true
     ∧ (spoil runs 4).me.poisS 4 = true ∧ p.me.poisS 4 = false
     ∧ (p.launchOf p.cur).any (fun l => (l.inst 7).isNone && (l.inst 0).isSome) = true ∧ (p.me.readS 4).toNat = 7
     ∧ (runs.me.readS 4).toNat = 0 ∧ (edged.launchOf edged.cur).any (fun l => (l.edge 1).isSome) = true) := by
  decide +kernel

/-! ### Vector words -/

/-- EventsAndOwedFaults: no event, events below and above an enabled threshold; a context that owes nothing, one that
owes a fault, and a firing that was aborted. -/
theorem witness_events :
    (let y := { runs.tile 0 with cntthr := BitVec.ofNat 64 (2 ^ 32 * 7 + 3), cnt := #v[2, 0, 0] }
     (runs.tile 0).crossed ⟨1, 0, 0⟩ = 0 ∧ y.crossed Ev.zero = 0 ∧ y.crossed ⟨1, 0, 0⟩ ≠ 0 ∧ (⟨1, 0, 0⟩ : Ev) ≠ Ev.zero
     ∧ runs.me.owed = none ∧ owes.me.owed.isSome = true ∧ runs.me.aborted.contains 0 = false
     ∧ ({ runs.me with aborted := [4] }).aborted.contains 4 = true) := by
  decide +kernel

/-- The vector statements ask that the word is ready; vcvt widens and narrows, vcmp has clean sources or poisoned ones. -/
theorem witness_vector :
    (let b := putV runs [(4, ⟨0, 1⟩)]
     [Instr.vadd hd 3 4 (.scal 5) 0 .i8 true, .vneg hd 3 4 0 .i64 false, .vfma hd 3 4 (.vec 5) 6 0 .bf16, .vdot4 hd 3 4 (.vec 5) 6 0 .e4m3,
       .vcvt hd 5 4 0 .f32 .bf16 1, .vcvt hd 5 4 0 .e4m3 .f32 3, .vqmx hd 5 4 6 .e2m1 .f32 7, .vdqmx hd 5 4 6 0 .f32 .i8 3,
       .vrng hd 8 (.vec 4) 5 0 .f32, .vperm2 hd 3 4 5 6 0 .n64, .vext hd 3 4 31 .i64, .vredsum hd 3 4 0 .n32, .vscan hd .max 3 4 0 .f32 false,
       .vcmp hd .unord 6 4 (.vec 5) 0 .f32].all (fun i => i.wf && ready i runs) = true
     ∧ Ty.bf16.width ≤ Ty.f32.width ∧ Ty.e4m3.width < Ty.f32.width
     ∧ ready (.vcmp hd .eq 6 4 (.vec 5) 0 .i32) b = true
     ∧ ((List.range (elems .i32)).filter (fun j => active (b.me.readK 0) .i32 j)).any (fun j => (b.me.readV 4).elemPoison .i32 j) = true
     ∧ ((List.range (elems .i32)).filter (fun j => active (runs.me.readK 0) .i32 j)).all
         (fun j => !(runs.me.readV 4).elemPoison .i32 j && !(vopElem runs.me (.vec 5) .i32 j).2) = true) := by
  decide +kernel

/-! ### Memory words -/

/-- The first page of memory context 0 is readable and writable and lies at the start of channel group 0; the
second is readable only. -/
def mapped : State :=
  { runs.modTile 0 (fun y => { y with tlb := [⟨0, 0, 2 ^ 16, 0x33⟩, ⟨0, 2 ^ 16, 2 ^ 16, 0x10013⟩] }) with
    xltWin := vset runs.xltWin 0 0x3FFFFFFFF }

/-- The checks of passable, as a test. -/
def opens (s : State) (k : Kind) (cls : Machine.Class) (align : Nat) (eas : List (Nat × Nat)) (a : Attr) : Bool :=
  !globalHold s && (!a.rel || s.me.wcb.isEmpty) && eas.all (fun e => e.2 % align == 0 &&
    match resolve s k e.1 with | .ok x => cls.allows x.pa && (match a.expect with | some n => x.slot == n | none => true) | _ => false)

theorem opens_passable {s : State} {k : Kind} {cls : Machine.Class} {align : Nat} {eas : List (Nat × Nat)} {a : Attr}
    (h : opens s k cls align eas a = true) : passable s k cls align eas a := by
  simp only [opens, Bool.and_eq_true, Bool.not_eq_true', Bool.or_eq_true, List.all_eq_true, beq_iff_eq, List.isEmpty_iff] at h
  refine ⟨h.1.1, fun e m => ⟨(h.2 e m).1, ?_⟩, fun hr => ?_⟩
  · have h2 := (h.2 e m).2
    cases hx : resolve s k e.1 with
    | ok x =>
      simp only [hx, Bool.and_eq_true] at h2
      exact ⟨x, rfl, h2.1, fun n hn => by simpa [hn] using h2.2⟩
    | park l => simp [hx] at h2
    | walk => simp [hx] at h2
    | fault c d => simp [hx] at h2
  · rcases h.1.2 with h1 | h1
    · rw [hr] at h1; cases h1
    · exact h1

/-- Addresses that a fault reports as they are. -/
def flat (l : List Nat) : List (Nat × Nat) := l.map (fun a => (a, a))

/-- What translation answers, when it answers a page. -/
def seen (s : State) (k : Kind) (ea : Nat) : Option Xlated := match resolve s k ea with | .ok x => some x | _ => none

/-- Address registers s4 (0x100) and s5 (0), displacement 0. -/
abbrev at4 : AddrArg := ⟨4, 5, 0⟩
def near : State := put mapped [(4, 0x100)]

/-- GlobalAccesses: clean addresses that translate, each class of access, with a release and without. -/
theorem witness_global_ready :
    (seen near .read 0x100 = some ⟨0x100, none, 0, false⟩ ∧ seen near .write 0x100 = some ⟨0x100, none, 0, false⟩
      ∧ seen near .rmw 0x100 = some ⟨0x100, none, 0, false⟩ ∧ effAddr near.me at4 = 0x100 ∧ near.me.poisS 4 = false
      ∧ near.me.poisS 5 = false ∧ near.me.poisS 3 = false ∧ (near.me.readV 3).poison = 0 ∧ near.me.poisS 6 = false)
    ∧ [Instr.ld hd true 3 3 at4 ⟨3, 1, 0⟩, .vld hd 3 3 at4 ⟨0, 0, 0⟩, .st hd 3 0 at4 ⟨3, 2, 0⟩, .vst hd 3 3 at4 ⟨0, 0, 0⟩,
        .atom hd .addF 3 2 at4 ⟨3, 3, 0⟩, .red hd .max 3 3 at4 ⟨3, 2, 0⟩, .cas hd 3 true at4 ⟨0, 0, 0⟩, .xadd hd (.vec 3) at4 3 true,
        .xrd hd 3 at4 3 true, .xrdClr hd 3 at4 3 2].all (fun i => i.wf && ready i near) = true := by
  decide +kernel
theorem witness_global_passable :
    passable near .read .any 8 [(0x100, 0x100)] (Machine.attrOf ⟨0, 0, 0⟩)
    ∧ passable near .read .any 64 (flat [0x100, 0x140, 0x180, 0x1C0]) (Machine.attrOf ⟨0, 1, 0⟩)
    ∧ passable near .write .any 1 [(0x100, 0x100)] (Machine.attrOf ⟨3, 2, 0⟩)
    ∧ passable near .rmw (.rmw false) 4 [(0x100, 0x100)] (Machine.attrOf ⟨3, 3, 0⟩)
    ∧ passable near .rmw .local_ 64 [(0x100, 0x100)] ⟨false, true, true, 0, none, none⟩
    ∧ passable near .read .local_ 64 [(0x100, 0x100)] (.plain 0) :=
  ⟨opens_passable (by decide +kernel), opens_passable (by decide +kernel), opens_passable (by decide +kernel),
    opens_passable (by decide +kernel), opens_passable (by decide +kernel), opens_passable (by decide +kernel)⟩

/-- FaultsAtIssue, the store: a poisoned base, a poisoned datum, a misaligned address, one at 2^56, a page without W. -/
theorem witness_faults_store :
    (let i := Instr.st hd 3 2 at4 ⟨0, 0, 0⟩
     let z := fun (a : Word) => put mapped [(4, a)]
     [spoil near 4, spoil near 3, z 0x102, z 0x100000000000000, z 0x10000].all (fun s => ready i s && !globalHold s) = true
     ∧ (spoil near 4).me.poisS 4 = true ∧ (spoil near 3).me.poisS 3 = true ∧ addrClean (spoil near 3).me at4
     ∧ effAddr (z 0x102).me at4 % 4 ≠ 0 ∧ effAddr (z 0x100000000000000).me at4 = 2 ^ 56 ∧ (z 0).cur ≠ .mgmt
     ∧ resolve (z 0x10000) .write 0x10000 = .fault 0x06 0x10000) := by
  unfold addrClean; decide +kernel

/-- FaultsAtIssue, every other form of one address: each runs on clean registers; a poisoned index, and a page of host memory. -/
theorem witness_faults_forms :
    (let s := mapped.modTile 0 (fun y => { y with tlb := ⟨0, 2 ^ 17, 2 ^ 16, 0x2000000000033⟩ :: y.tlb })
     let far := put s [(4, 0x20000)]
     [Instr.ld hd true 3 3 at4 ⟨3, 1, 0⟩, .vld hd 3 3 at4 ⟨0, 0, 0⟩, .vst hd 3 3 at4 ⟨0, 0, 0⟩, .atom hd .addF 3 2 at4 ⟨3, 3, 0⟩,
        .red hd .max 3 3 at4 ⟨3, 2, 0⟩, .cas hd 3 true at4 ⟨0, 0, 0⟩, .xadd hd (.scal 3) at4 3 true, .xrd hd 3 at4 3 true,
        .xrdClr hd 3 at4 3 2].all (fun i => [near, spoil near 5, spoil near 3, spoil near 4, far].all (fun s => ready i s && !globalHold s)) = true
     ∧ addrClean (spoil near 3).me at4 ∧ (spoil near 5).me.poisS 4 = false ∧ (spoil near 5).me.poisS 5 = true
     ∧ effAddr far.me at4 % 64 = 0
     ∧ (seen far .rmw 0x20000).any (fun x => targetOf x.pa != some .hbm) = true ∧ (seen far .read 0x20000).any (fun x => targetOf x.pa != some .hbm) = true) := by
  unfold addrClean; decide +kernel

/-- FaultsAtIssue, vgath and vscat: a poisoned base or index, a poisoned offset lane, a poisoned element, a misaligned element. -/
theorem witness_faults_gather :
    (let g := putV near [(6, lanes (fun j => if j = 5 then 6 else 0))]
     let bad := putV near [(6, ⟨(lanes (fun j => 4 * j)).bits, 4⟩)]
     let el := putV near [(6, lanes (fun j => 4 * j)), (7, ⟨0, 4⟩)]
     let clean := fun (s : State) => (List.range 64).all (fun j => !(s.me.readV 6).poison.getLsbD j)
     [Instr.vgath hd 6 false at4 0, .vscat hd 6 false at4 0].all (fun i => [g, bad, el, spoil near 4, spoil near 5].all (fun s =>
        ready i s && !globalHold s)) = true
     ∧ clean g = true ∧ clean bad = false ∧ clean el = true ∧ addrClean g.me at4 ∧ (spoil near 4).me.poisS 4 = true
     ∧ (gatherElems el.me 6 false 0x100).find? (fun e => (el.me.readV 7).elemPoison .i32 e.1) = some (2, 0x108)
     ∧ ((gatherElems g.me 6 false 0x100).find? (fun e => (g.me.readV 7).elemPoison .i32 e.1)).isNone = true
     ∧ (gatherElems g.me 6 false 0x100).find? (fun e => e.2 % 4 != 0) = some (5, 0x106)) := by
  unfold addrClean; decide +kernel

/-- FaultsAtIssue, the matrix and stream words: queue 3 outside the mask, no panel, a sort panel; a slot without a record,
a busy one, and one without its edges. -/
theorem witness_faults_units :
    (let i := fun (q : Fin 4) => Instr.mzero hd 1 q nc
     let m := runs.modLaunchOf runs.cur (fun l => { l with rcd := l.rcd - BitVec.ofNat 512 (2 ^ 175) })
     let so := runs.modTile 0 (fun y => { y with issueSort := 1 })
     let g := Instr.sgo hd 9 7 nc
     let rec_ := fun (st : Nat) => runs.modCtx runs.cur (fun c => { c with ss := vset c.ss 9 { c.ss.get 9 with
        record := some 0, stat := { (c.ss.get 9).stat with state := st } } })
     ready (i 3) m = true ∧ m.maskFault m.cur (i 3) = some 259
     ∧ ready (i 1) runs = true ∧ runs.maskFault runs.cur (i 1) = none ∧ panelOf (runs.tile 0).issueShape 1 = none
     ∧ ready (i 0) so = true ∧ so.maskFault so.cur (i 0) = none ∧ bitOf (so.tile 0).issueSort.val 0 = true
     ∧ [runs, rec_ 2, rec_ 1].all (fun s => ready g s && (s.maskFault s.cur g).isNone && !s.me.poisS 7) = true
     ∧ (runs.me.ss.get 9).record = none ∧ ((rec_ 2).me.ss.get 9).held = none ∧ ((rec_ 2).me.ss.get 9).stat.state = 2
     ∧ ((rec_ 1).me.ss.get 9).stat.state = 1 ∧ bindingOk (rec_ 1) 0 0 9 (recOf 0) = false) := by
  decide +kernel

/-- GatherScatter: no active element, and two of them. -/
theorem witness_gather :
    (let s := putV near [(3, lanes (fun _ => 0xFFFFFFFF)), (6, lanes (fun j => if j = 5 then 8 else if j = 7 then 0 else 0xFFFFFFFF))]
     [Instr.vgath hd 3 false at4 0, .vgath hd 6 false at4 3, .vscat hd 6 false at4 0, .vgath hd 3 true at4 0].all (fun i => ready i s) = true
     ∧ gatherElems s.me 3 false 0x100 = [] ∧ gatherElems s.me 6 false 0x100 = [(5, 0x108), (7, 0x100)]
     ∧ (s.me.readV 6).poison = 0 ∧ (s.me.readV 7).poison = 0 ∧ opens s .read .any 4 (flat [0x108, 0x100]) (.plain 0) = true
     ∧ opens s .write .any 4 (flat [0x108, 0x100]) (.plain 0) = true ∧ opens s .read .any 4 [] (.plain 3) = true) := by
  decide +kernel

/-- ScratchpadAccesses: the last bytes of the scratchpad, scalar and vector; its memory in canonical form. -/
theorem witness_scratchpad :
    (let s := put runs [(4, 0x17FFF8), (6, 0x17FF00)]
     addrClean s.me at4 ∧ scratchOpen s 0x17FFF8 8 8 ∧ scratchOpen s 0x17FF00 256 64 ∧ effAddr s.me at4 = 0x17FFF8
     ∧ effAddr s.me ⟨6, 5, 0⟩ = 0x17FF00 ∧ (s.me.readV 3).poisonIn 256 = false ∧ s.me.poisS 3 = false ∧ (s.tile 0).scratch.wf = true
     ∧ s.cur = .tile 0 0
     ∧ [Instr.lds hd true 3 3 at4, .sts hd 3 3 at4, .vlds hd 3 3 ⟨6, 5, 0⟩, .vsts hd 3 3 ⟨6, 5, 0⟩].all (fun i => ready i s) = true) := by
  unfold addrClean scratchOpen; decide +kernel

/-- The constant cache of tile 0 holds line 2 of memory context 0. -/
def cached : State := near.modTile 0 (fun y => { y with cc := [⟨0, 2, List.replicate 128 7, List.replicate 128 false⟩] })

/-- ConstantsPrefetchAndFences: a constant line that is cached, prefetches, fences with nothing outstanding. -/
theorem witness_constants :
    (let held := fun (s : State) (f : LdcForm) => (linesOf 0x100 (ldcBytes f)).all (fun l =>
       ((s.tile 0).constLine (s.mctxOfAgent s.cur) (l * 128)).isSome)
     held cached (.scalar true 2) = true ∧ held cached (.vector 1) = true ∧ held near (.vector 1) = false
      ∧ globalHold cached = false ∧ [0x100, 0x180].all (fun l => match resolve cached .read l with | .walk => false | _ => true) = true
      ∧ linesOf 0x100 (prefBytes 7) = [2, 3] ∧ cached.me.wcb = [] ∧ cached.me.unperformed true = false ∧ cached.me.awaiting = false
      ∧ cached.me.poisS 4 = false ∧ cached.cur = .tile 0 0)
    ∧ [Instr.ldc hd (.scalar true 2) 3 at4, .ldc hd (.vector 1) 3 at4, .pref hd 7 at4 0, .prefConst hd 7 at4, .fence hd .rel 0,
        .fence hd .acq 4, .fence hd .sc 3, .cinv hd, .cinvLine hd 4].all (fun i => ready i cached && ready i near) = true := by
  decide +kernel
theorem witness_constants_passable :
    passable cached .read .local_ (ldcAlign (.scalar true 2)) (partAddrs (ldcParts (.scalar true 2) 3 0x100)) (.plain 0)
    ∧ passable near .read .local_ (ldcAlign (.vector 1)) (partAddrs (ldcParts (.vector 1) 3 0x100)) (.plain 0) :=
  ⟨opens_passable (by decide +kernel), opens_passable (by decide +kernel)⟩

/-! ### Handle words -/

/-- A descriptor of rank 1 over n elements: its space, type, tag 0, base and map of unit states. -/
def desc1 (space : Bool) (ty n base map : Nat) : BitVec 1024 :=
  BitVec.ofNat 1024 (base + (if space then 3 else 2) * 2 ^ 128 + ty * 2 ^ 136 + n * 2 ^ 192 + map * 2 ^ 768)

/-- The launch has a handle table of four entries, which h1 to h4 hold: 48 i32 elements in the scratchpad and in global
memory, a conversion in progress, and 64 i8 elements with a map; the first entry's image stands at 0x2000 of the
scratchpad. s6 holds 0x2000, s7 the conversion's new base. -/
def handled : State :=
  let ds := [desc1 true 4 48 0x1000 0, desc1 false 4 48 0x200 0, desc1 false 4 48 0 0 + BitVec.ofNat 1024 (2 ^ 900),
    desc1 false 0 64 0x8000 0x6000]
  ((put (mapped.modLaunchOf mapped.cur (fun l => { l with handles := ds })) [(6, 0x2000), (7, 0x8000000)]).modScratch
    (fun m => m.write 0x2000 (leBytes 128 (desc1 true 4 48 0x1000 0).toNat))).modCtx mapped.cur (fun c =>
      { c with h := (vset (vset (vset (vset c.h 1 ⟨true, 0, ds.getD 0 0⟩) 2 ⟨true, 1, ds.getD 1 0⟩) 3 ⟨true, 2, ds.getD 2 0⟩)
          4 ⟨true, 3, ds.getD 3 0⟩) })

/-- A read that an hdef of the image at 0x100 waits for has been answered. -/
def imageRead : State :=
  let s := put handled [(6, 0x100)]
  s.addReq (mkReq s ⟨.syncRead, 0x100, 0x100, 128, none⟩ 0x100 (.plain 0) none []
    (.done (leBytes 128 (desc1 true 4 48 0x1000 0).toNat) (List.replicate 128 false)))

/-- HandleWords: entry 3 and the first index past the table; an image in the scratchpad, one that is read, one to read. -/
theorem witness_handles :
    (let d := desc1 true 4 48 0x1000 0
     let g := put handled [(6, 0x100)]
     (ready (.hld hd 4 5 3) handled && ready (.hld hd 4 5 4) handled && ready (.hinv hd 4 false) handled && ready (.hinv hd 0 true) handled
       && ready (.hst hd 5 6 false) handled && ready (.hdef hd 5 6 false) handled && ready (.hst hd 5 6 true) g
       && ready (.hdef hd 5 6 true) g && ready (.hdef hd 5 6 true) imageRead) = true
     ∧ (handled.entry handled.cur 3).isSome = true ∧ handled.entry handled.cur 4 = none ∧ handled.me.poisS 5 = false
     ∧ handled.me.poisS 6 = false ∧ (handled.me.readS 6).toNat % 128 = 0 ∧ scratchOpen handled 0x2000 128 128
     ∧ handled.scratch.readNat 0x2000 128 = d.toNat ∧ (handled.scratch.readPoison 0x2000 128).any id = false ∧ defReason d = none
     ∧ (handled.launchOf handled.cur).any (fun l => decide (0 < l.handles.length)) = true
     ∧ (handled.entry handled.cur 0).all (fun e => dBits e 112 4 2 != 1) = true
     ∧ (imageRead.me.reqs.find? (fun r => r.op == .syncRead && r.ea == 0x100 && r.by_.pc == imageRead.me.pc)).any
         (fun r => match r.stage with | .done bs po => leNat bs == d.toNat && !po.any id | _ => false) = true
     ∧ g.me.reqs = [] ∧ opens g .read .any 128 [(0x100, 0x100)] (.plain 0) = true
     ∧ opens g .write .any 128 [(0x100, 0x100)] (.plain 0) = true ∧ (handled.me.readS 5).toNat = 0) := by
  unfold scratchOpen; decide +kernel

/-- A conversion of a launch of partition 0. -/
def conv (n : Nat) : Conv :=
  ⟨n, 0, 1, n, 0, 0, .tile 0 1, by0, BitVec.ofNat 32 0, [], [], [], none, false⟩

/-- RelayoutWords: a handle with no conversion and one with a conversion in progress; room for one, and none. -/
theorem witness_relayout :
    (let i := fun (h : Fin 16) => Instr.hrelayout hd 5 7 h 0 0 false true
     let j := Instr.hrelayout hd 0 7 4 0 0 false false
     let full := { handled with convs := (List.range 64).map conv }
     (handled.me.readH 4).valid = true ∧ relayoutRefused handled (handled.me.readH 4).desc 0 0x7FFFFFC none = true ∧ (put handled [(7, 0x7FFFFFC)]).me.readS 7 = 0x7FFFFFC
     ∧ (ready (i 4) handled && ready (i 3) handled && ready j handled && ready (.hstat hd 5 4) handled && ready (.hwait hd 4) handled
       && ready (.hwait hd 3) handled && ready (i 4) full) = true
     ∧ (handled.me.readH 4).valid = true ∧ (handled.me.readH 3).valid = true ∧ (hdesc (handled.me.readH 4).desc).cstate = 0
     ∧ (hdesc (handled.me.readH 3).desc).cstate = 1 ∧ handled.me.poisS 7 = false ∧ (handled.launchOf handled.cur).isSome = true
     ∧ relayoutRefused handled (handled.me.readH 4).desc 0 (handled.me.readS 7).toNat none = false
     ∧ relayoutRefused full (full.me.readH 4).desc 0 (full.me.readS 7).toNat none = false
     ∧ handled.convCount 0 = 0 ∧ full.convCount 0 = 64 ∧ handled.me.wcb = []) := by
  decide +kernel

/-- The launch's handles with two block-scaled ones added: 256 i8 elements with their scales, in the scratchpad (h5) and in
global memory (h6). -/
def blocked : State :=
  let d := fun (space : Bool) (b sb : Nat) => desc1 space 0 256 b 0 + BitVec.ofNat 1024 (sb * 2 ^ 64 + 5 * 2 ^ 144)
  handled.modCtx handled.cur (fun c => { c with h := vset (vset c.h 5 ⟨true, 4, d true 0x1000 0x3000⟩) 6 ⟨true, 5, d false 0x400 0x1000⟩ })

/-- The first handle's elements are being converted to a new base, in one unit of a given state. -/
def midway (s : State) (idx : Nat) (done : List Nat) (busy : List (Nat × Fin 32)) : State :=
  { s with convs := [⟨0, 0, 0, idx, desc1 false 4 48 0x200 0x6000, desc1 false 4 48 0x800 0x6000, .tile 0 0, by0, 1, done, busy, [], none, false⟩] }

/-- The active elements of ldt and stt, and their pieces where they are read and written, as TensorAccesses names them. -/
def elemsAt (s : State) (hr : Fin 16) (cb : Fin 32) (ty : Ty) (k : Fin 8) : List (Nat × List Int) :=
  ((List.range (elems ty)).filter (fun j => active (s.me.readK k) ty j)).map (fun j =>
    (j, stepLast ((coordRegs cb (hdesc (s.me.readH hr).desc).rank).map (fun r => (s.me.readS r).toInt)) (hdesc (s.me.readH hr).desc).rank j))
def piecesAt (s : State) (hr : Fin 16) (cb : Fin 32) (ty : Ty) (k : Fin 8) (wr : Bool) : List (Piece × Nat × Nat) :=
  let h := hdesc (s.me.readH hr).desc
  let v := convFor s hr
  cellPieces (((elemsAt s hr cb ty k).filter (fun e => (h.outDim e.2).isNone)).map (fun e => if wr
    then { dst := tyWidth ty * e.1, cw := tyWidth ty, bit := writeBit h v (toNats e.2), w := h.ws }
    else { dst := tyWidth ty * e.1, cw := tyWidth ty, bit := placeBit h v (toNats e.2), w := h.ws }))

/-- The units that the elements in range touch. -/
def unitsAt (s : State) (hr : Fin 16) (cb : Fin 32) (ty : Ty) (k : Fin 8) : List Nat :=
  match convFor s hr with
  | some v => ((elemsAt s hr cb ty k).filter (fun e => ((hdesc (s.me.readH hr).desc).outDim e.2).isNone)).map (fun e => v.unitOf (toNats e.2))
  | none => []

/-- The conversion and the units that a write waits for. -/
def waitAt (s : State) (hr : Fin 16) (us : List Nat) : Option (Nat × List Nat) :=
  match convFor s hr with
  | some v => if us.all (fun u => v.unitState u = .new) then none else some (v.id, us.eraseDups)
  | none => none

/-- Every check of ldt and stt of a handle passes, and nothing holds them. -/
def elemsOpen (s : State) (hr : Fin 16) : Bool :=
  let h := hdesc (s.me.readH hr).desc
  let a := h.attr (s.me.readH hr).index 0
  let es := elemsAt s hr 10 .i32 0
  ready (.ldt hd 3 hr 10 .i32 0 0) s && ready (.stt hd 3 hr 10 .i32 0 0) s
    && passes (tensorTraps s.me hr 10 .i32 ++ [storePoison s.me 3 .i32 (es.map (fun e => e.1)), boundsTrap s.me hr (es.map (fun e => e.2))])
    && (if h.space then !piecesHeld s (piecesAt s hr 10 .i32 0 false) [] && !piecesHeld s (piecesAt s hr 10 .i32 0 true) []
        else opens s .read .any 1 (partAddrs (readParts 3 (piecesAt s hr 10 .i32 0 false) [])) a
          && opens s .write .any 1 (partAddrs (writeParts s.me 3 (piecesAt s hr 10 .i32 0 true) [] (waitAt s hr (unitsAt s hr 10 .i32 0)))) a)

/-- TensorAccesses, ldt and stt: 48 elements in range of h1 (scratchpad) and h2 (global), 16 out of range; h2 while its one unit
is Old, New and being converted. -/
theorem witness_ldt :
    (elemsOpen handled 1 && elemsOpen handled 2 && elemsOpen (midway handled 1 [] []) 2 && elemsOpen (midway handled 1 [0] []) 2
      && elemsOpen (midway handled 1 [] [(0, 0)]) 2) = true
    ∧ convFor handled 1 = none ∧ convFor handled 2 = none ∧ (piecesAt handled 1 10 .i32 0 false).length = 48
    ∧ ([midway handled 1 [] [], midway handled 1 [0] [], midway handled 1 [] [(0, 0)]].map (fun s =>
        unitsHold (convFor s 2) (unitsAt s 2 10 .i32 0))) = [false, false, true] := by
  decide +kernel

/-- Every check of ldtb and sttb of a block passes outside a conversion, and nothing holds them. -/
def blockOpen (s : State) (hr : Fin 16) (sc : Bool) : Bool :=
  let h := hdesc (s.me.readH hr).desc
  let a := h.attr (s.me.readH hr).index 0
  let x := coords s.me 10 1
  let l := h.loc (toNats x)
  let rs := if sc then scaleRuns h (toNats x) 8 else []
  let ps := cellPieces ((activeCells s.me h l 0 true).map (fun z => { z with bit := 8 * h.base + z.bit }))
  let lanes := (List.range 64).filter (fun j => (s.me.readK 0).getLsbD j)
  ready (.ldtb hd 3 hr 10 .i8 0 0 sc 8) s && ready (.sttb hd 3 hr 10 .i8 0 0 sc 8) s && (convFor s hr).isNone
    && passes (tensorTraps s.me hr 10 .i8 ++ [storePoison s.me 3 .n32 lanes, if sc then poisonS s.me [8] else none] ++ blockTraps s.me hr 10 none 0 sc)
    && (if h.space then !piecesHeld s ps rs
        else opens s .read .any 1 (partAddrs (readParts 3 ps rs)) a && opens s .write .any 1 (partAddrs (writeParts s.me 3 ps rs none)) a)

/-- TensorAccesses, ldtb and sttb: a block of 256 bytes with its 8 scale bytes, in both spaces; coordinates out of range. -/
theorem witness_ldtb :
    (let s := put blocked [(10, 256)]
     (blockOpen blocked 5 true && blockOpen blocked 6 true && blockOpen s 5 false && blockOpen s 6 false) = true
     ∧ (hdesc (blocked.me.readH 5).desc).outDim (coords blocked.me 10 1) = none
     ∧ (hdesc (s.me.readH 5).desc).outDim (coords s.me 10 1) = some 0 ∧ globalHold s = false) := by
  decide +kernel

/-- TensorAccesses, a block under a conversion: its unit Old, New and being converted. -/
theorem witness_ldtb_converting :
    (let s := fun (done : List Nat) (busy : List (Nat × Fin 32)) => { handled with convs := [⟨0, 0, 0, 3, desc1 false 0 64 0x8000 0x6000,
        desc1 false 0 64 0x800 0x6000, .tile 0 0, by0, 1, done, busy, [], none, false⟩] }
     let k := fun (s : State) => match convFor s 4 with
       | some v => (passes (tensorTraps s.me 4 10 .i8 ++ blockTraps s.me 4 10 (some v) 0 false), unitsHold (some v)
          (blockUnit (hdesc (s.me.readH 4).desc) (hdesc v.target) ((hdesc v.target).loc [0]) (s.me.readK 0)), v.unitState 0)
       | none => (false, false, .old)
     [s [] [], s [0] [], s [] [(0, 0)]].map k = [(true, false, .old), (true, false, .new), (true, true, .converting)]
     ∧ [s [] [], s [0] [], s [] [(0, 0)]].all (fun s => ready (.ldtb hd 3 4 10 .i8 0 0 false 8) s && ready (.sttb hd 3 4 10 .i8 0 0 false 8) s)
        = true) := by
  decide +kernel

/-! ### Matrix words -/

/-- A rank-2 descriptor in the scratchpad. -/
def desc2 (ty tag d0 d1 base : Nat) : BitVec 1024 :=
  BitVec.ofNat 1024 (base + 5 * 2 ^ 128 + ty * 2 ^ 136 + tag * 2 ^ 144 + d0 * 2 ^ 192 + d1 * 2 ^ 224)

/-- Operands of a type for queue 0 in shape 3 (64 × 32): A (128 × 32) in h4 with its scales in h5, B (32 × 64) in h8 with its scales in h9, an f32
matrix in h6; K = 32 in s10; s9 names a mask block of zeros. -/
def operands (ty : Nat) : State :=
  ((put runs [(10, 32), (9, 0x100000)]).modTile 0 (fun y => { y with issueShape := 3 })).modCtx runs.cur (fun c => { c with
    h := vset (vset (vset (vset (vset c.h 4 ⟨true, 0, desc2 ty 2 128 32 0⟩) 5 ⟨true, 1, desc2 25 1 128 1 0x110200⟩)
      8 ⟨true, 2, desc2 ty 3 32 64 0x80000⟩) 9 ⟨true, 3, desc2 25 0 1 64 0x120300⟩) 6 ⟨true, 4, desc2 16 0 128 64 0x140000⟩ })

/-- Queue 0 belongs to member (0, 0) of a gang. -/
def ganged (s : State) : State := s.modTile 0 (fun y => { y with gang := vset y.gang 0 (some ⟨3, 0, 0, 1, 2, true, 0, []⟩) })

/-- Queue 0 sorts. -/
def sorting : State := runs.modTile 0 (fun y => { y with issueSort := 1 })

abbrev mac0 : MacArg := ⟨10, 12, 9, 1, 4, 8, 0⟩
abbrev cl0 : Clauses := ⟨2, 1, 3, true⟩

/-- FaultsAtIssue, the matrix words: of each, a check that fails: its queue outside the mask, its panel, its registers, its gang, its handle,
its row. -/
theorem witness_faults_matrix :
    (let m := runs.modLaunchOf runs.cur (fun l => { l with rcd := l.rcd - BitVec.ofNat 512 (2 ^ 175) })
     let p := spoil (operands 17) 10
     let none_ := fun (s : State) => !(s.me.readH 6).valid
     ([Instr.mgang hd 7 0 0 1 1 3 nc, .mgangFree hd 3 nc, .mzero hd 1 3 nc, .mscaleRow hd 7 1 3 nc, .mscaleCol hd 7 1 3 nc,
        .mrow hd 6 7 1 .f32 false 3 nc, .msort hd 6 7 3 nc, .mtopk hd 6 7 3 false true 3 nc, .mld hd 6 1 6 .f32 3 nc, .mst hd 6 1 6 .f32 3 nc].all
        (fun i => ready i m && m.maskFault m.cur i == some 259)
       && ready (.mma hd .bf16 mac0 nc) p && p.me.poisS 10 && none_ runs && ready (.mld hd 6 1 6 .f32 0 nc) runs
       && ready (.mcfg hd 3 0 nc) (ganged runs) && ((ganged runs).tile 0).gang.toList.any (fun g => g.isSome)
       && ready (.mrow hd 6 7 1 .f32 false 0 nc) (put runs [(7, 128)]) && ready (.mscaleRow hd 31 1 0 nc) runs) = true
     ∧ runs.cur = .tile 0 0) := by
  decide +kernel

/-- MatrixWords, the products: the checks of each form pass. -/
theorem witness_products :
    (let ok := fun (i : Instr) (s : State) (ta tb : Ty) (mx int gang : Bool) =>
       i.wf && ready i s && passes (macChecks (s.takeWait s.cur i) i 0 mac0 ta tb mx int gang)
     (ok (.mma hd .bf16 mac0 cl0) (operands 17) .bf16 .bf16 false false false
      && ok (.mmx hd .e4m3 mac0 cl0) (operands 19) .e4m3 .e4m3 true false false
      && ok (.mmi hd .i8 mac0 cl0) (operands 0) .i8 .i8 false true false
      && ok (.mmaG hd .f16 mac0 cl0) (ganged (operands 18)) .f16 .f16 false false true
      && ok (.mmxG hd .e2m1 mac0 cl0) (ganged (operands 23)) .e2m1 .e2m1 true false true) = true
     ∧ runs.cur = .tile 0 0) := by
  decide +kernel

/-- MatrixWords, the others: their checks pass. -/
theorem witness_matrix_others :
    (let ok := fun (i : Instr) (s : State) (cs : State → List (Option (Nat × Nat × Nat))) => i.wf && ready i s && passes (cs (s.takeWait s.cur i))
     let o := operands 17
     let mask := fun (i : Instr) (u : State) => maskTrap u i
     let pan := fun (so : Option Bool) (u : State) => panelTrap (u.tile 0) 0 so
     (let i := Instr.mgang hd 7 0 1 0 1 0 cl0
      ok i runs (fun u => [mask i u, poisonS u.me [7], pan none u, matTrap (decide (255 < (runs.me.readS 7).toNat) || ((u.tile 0).gang.get 0).isSome) 7]))
     && (let i := Instr.mgangFree hd 0 cl0
         ok i (ganged runs) (fun u => [mask i u, pan none u, matTrap ((u.tile 0).gang.get 0).isNone 7]))
     && (let i := Instr.mzero hd 3 0 cl0
         ok i runs (fun u => [mask i u, pan (some false) u]))
     && (let i := Instr.mscaleRow hd 7 3 0 cl0
         ok i runs (fun u => [mask i u, pan (some false) u]))
     && (let i := Instr.mscaleCol hd 31 3 0 cl0
         ok i runs (fun u => [mask i u, pan (some false) u]))
     && (let i := Instr.mld hd 14 2 6 .f32 0 cl0
         ok i o (fun u => moveTraps u i 0 14 6 .f32 0))
     && (let i := Instr.mst hd 14 2 6 .f32 0 cl0
         ok i o (fun u => moveTraps u i 0 14 6 .f32 0))
     && (let i := Instr.mrow hd 20 7 1 .acc true 0 cl0
         ok i (put runs [(7, 127)]) (fun u => [mask i u, poisonS u.me [7], pan (some false) u, matTrap (decide (128 ≤ 127)) 4]))
     && (let i := Instr.msort hd 6 7 0 cl0
         ok i sorting (fun u => [mask i u, pan (some true) u]))
     && (let i := Instr.mtopk hd 6 7 63 true true 0 cl0
         ok i sorting (fun u => [mask i u, pan (some true) u]))
     && (let i := Instr.mcfg hd 3 15 cl0
         i.wf && ready i runs && (runs.maskFault runs.cur i).isNone && (List.finRange 4).all (fun q => (runs.view runs.cur).mqmask.testBit q.val
           && ((runs.tile 0).gang.get q).isNone))
     && ready (.mstat hd 5 3) runs) = true := by
  decide +kernel

/-! ### Streams, arrays and regions -/

/-- The all-zero record of a stream stands at 0x2000 of the scratchpad and a copy of one byte to 0 at 0x2040; s6 and s7 name
them, s8 = 0. Slot 9 has a record and an edge, slot 10 is busy; template 1 is armed, template 2 is firing. -/
def streaming : State :=
  let tm : Template := ⟨0, none, none, by0, false, false, []⟩
  (((put (runs.modLaunchOf runs.cur (fun l => { l with edges := [⟨1, 8, 4, .stream 0 0 9, .actor 0 0, none, none, 0, [], [], 4, 0, false, 0⟩] }))
    [(6, 0x2000), (7, 0x2040)]).modScratch (fun m => m.writeNat 0x2040 64 (2 ^ 304 + 2 ^ 408))).modCtx runs.cur (fun c => { c with
      ss := vset (vset c.ss 9 { c.ss.get 9 with record := some 0, stat := { (c.ss.get 9).stat with state := 1 } }) 10
        { c.ss.get 10 with record := some 0, stat := { (c.ss.get 10).stat with state := 2 } }
      tmpl := vset (vset c.tmpl 1 (some tm)) 2 (some { tm with firing := true }) }))

/-- StreamWords: the records and the slots of each form. -/
theorem witness_streams :
    (let s := streaming
     let copyRec := BitVec.ofNat 512 (2 ^ 304 + 2 ^ 408)
     recordAt s (.sdef hd 6 9 nc) 6 0 0 ∧ recordAt s (.carm hd 7 0 5 true nc) 7 1 copyRec ∧ recordAt s (.copy hd 7 8 5 true nc) 7 1 copyRec
     ∧ [Instr.sdef hd 6 9 nc, .carm hd 7 0 5 true nc, .sstop hd 9 nc, .sstop hd 10 nc, .sstat hd 6 9 3 nc, .cdis hd 0 nc, .cdis hd 1 nc,
         .cdis hd 2 nc, .sgo hd 9 8 nc, .copy hd 7 8 5 true nc].all (fun i => i.wf && ready i s && (s.maskFault s.cur i).isNone) = true
     ∧ s.cur = .tile 0 0 ∧ (s.me.ss.get 9).held = none ∧ (s.me.ss.get 9).stat.state < 2 ∧ 2 ≤ (s.me.ss.get 10).stat.state
     ∧ s.me.tmpl.get 0 = none ∧ (s.me.tmpl.get 1).any (fun t => !t.firing) = true ∧ (s.me.tmpl.get 2).any (fun t => t.firing) = true
     ∧ s.me.wcb = [] ∧ s.me.poisS 8 = false ∧ (s.launchOf s.cur).any (fun l => l.q == 0) = true
     ∧ s.cgOfPart 0 (recOf 0).cg = some 0 ∧ s.cgOfPart 0 (recOf copyRec).cg = some 0 ∧ (recOf 0).denseBad = false
     ∧ (recOf copyRec).denseBad = false ∧ (s.me.ss.get 9).record = some 0 ∧ bindingOk s 0 0 9 (recOf 0) = true
     ∧ (s.me.wm.get 5).active = false) := by
  unfold recordAt scratchOpen; decide +kernel

/-- slotAt, from a test of its slot's owner. -/
theorem slot_at {s : State} {i : Instr} {y : Fin 32} {k : Fin 8} {l : Launch} {cg : Fin 32} (h1 : s.me.poisS y = false)
    (h2 : s.launchOf s.cur = some l) (h3 : s.cgOfPart l.q (s.me.readS y).toNat = some cg)
    (h4 : (s.staSlot cg k).owner.all (fun o => o == l.id) = true) (h5 : s.maskFault s.cur i = none) : slotAt s i y k l cg :=
  ⟨h1, h2, h3, fun o ho => by simpa [ho] using h4, h5⟩

/-- Slot 2 of the first cluster is loaded and the launch's. -/
def loaded : State := runs.modSta 0 2 (fun k => { k with st := 2, owner := some 0 })

/-- TransformArrayWords: an empty slot, a loaded one of the launch, one of another launch; a load of each form refused. -/
theorem witness_arrays :
    (let foreign := runs.modSta 0 2 (fun k => { k with st := 2, owner := some 9 })
     [Instr.staload hd 6 7 2 nc, .staloadUpd hd 6 7 2 nc, .stafree hd 7 2 nc, .stastat hd 6 7 2 31 nc].all (fun i => ready i foreign) = true
     ∧ (foreign.staSlot 0 2).owner = some 9 ∧ foreign.me.poisS 7 = false ∧ foreign.cgOfPart 0 (foreign.me.readS 7).toNat = some 0) ∧
    ([Instr.staload hd 6 7 2 nc, .staloadUpd hd 6 7 2 nc, .stafree hd 7 2 nc, .stastat hd 6 7 2 31 nc].all
         (fun i => i.wf && ready i runs && ready i loaded) = true
     ∧ runs.me.poisS 6 = false ∧ (runs.me.readS 6).toNat % 256 = 0 ∧ (runs.staSlot 0 2).st = 0 ∧ (loaded.staSlot 0 2).st = 2 ∧ runs.me.wcb = []
     ∧ runs.pastOpen runs.cur = false) := by
  decide +kernel
theorem witness_slot_at :
    slotAt runs (.staload hd 6 7 2 nc) 7 2 placedLaunch 0 ∧ slotAt loaded (.staloadUpd hd 6 7 2 nc) 7 2 placedLaunch 0 :=
  ⟨slot_at (by decide +kernel) (by decide +kernel) (by decide +kernel) (by decide +kernel) (by decide +kernel),
    slot_at (by decide +kernel) (by decide +kernel) (by decide +kernel) (by decide +kernel) (by decide +kernel)⟩

/-- Region 0 belongs to the launch, with a state, a stage, an active configuration from 100 to 800 MHz, a staged one and an image. -/
def region (st stage : Nat) : State :=
  runs.modRegion 0 (fun k => { k with
    st := st, stage := stage, owner := some 0, active := some ⟨7, true, 100, 800, 0, []⟩
    staged := some ⟨8, true, 100, 800, 0, []⟩, image := some ⟨7, ⟨[], []⟩, false⟩ })

/-- RegionWords: every state and stage that its clauses name. -/
theorem witness_regions :
    (let all := [region 0 2, region 1 2, region 1 0, region 3 2, region 2 0, region 0 1, region 3 0]
     let ok := fun (i : Instr) => i.wf && all.all (fun s => ready i s && (s.maskFault s.cur i).isNone)
     (ok (.rgload hd 6 7 nc) && ok (.rgswap hd 7 nc) && ok (.rgswapForce hd 7 nc) && ok (.rgsave hd 7 nc) && ok (.rgrest hd 7 nc)
       && ok (.rgclk hd 7 100) && ok (.rgclk hd 7 801) && ok (.rgfrz hd 7) && ok (.rgfrzDrain hd 7) && ok (.rgthaw hd 7)
       && ok (.rgstat hd 6 7)) = true
     ∧ all.all (fun s => !s.me.poisS 7 && !s.me.poisS 6 && (s.regionOf 0 (s.me.readS 7).toNat == some 0)
         && (s.region 0).owner == some 0 && (s.region 0).swap.isNone && s.launchOf s.cur == some placedLaunch && s.me.wcb.isEmpty) = true
     ∧ (runs.me.readS 6).toNat % 256 = 0 ∧ runs.cur = .tile 0 0 ∧ (runs.region 0).owner = none) := by
  decide +kernel
theorem witness_region_at :
    regionAt (region 1 2) (.rgswap hd 7 nc) 7 false placedLaunch 0 ∧ regionAt runs (.rgload hd 6 7 nc) 7 true placedLaunch 0 := by
  unfold regionAt; decide +kernel

/-! ### Traps and system words -/

/-- A context in a handler firing, and the management core running firmware. -/
def handling : State := going runs 8 .inHandler
def firmware : State :=
  { runs with cur := .mgmt, mgmt := { runs.mgmt with ctx := { runs.mgmt.ctx with phase := .running } } }

/-- TrapEntry, PrivilegeTrap and TrapWordsAndReturns: a canonical scratchpad, tenant code, a handler firing and none. -/
theorem witness_traps :
    (runs.tile 0).scratch.wf = true ∧ runs.cur ≠ .mgmt ∧ runs.me.phase = .running ∧ handling.me.phase = .inHandler
    ∧ [Instr.trap hd 0xFFFFF, .brk hd 0, .resume hd, .resumeNext hd, .abort hd].all (fun i => ready i runs && ready i handling) = true
    ∧ handling.me.firing.isSome = true := by
  decide +kernel

/-- SystemRegisters: a tenant's registers on a tile, the management core's on it; a write of SEQ_CTXPRI before and after its
journey. -/
theorem witness_system_registers :
    (let w := { firmware with mgmt := { firmware.mgmt with writing := true } }
     ([4, 5, 1, 2, 3, 0x100, 0x102, 0x103, 0x500, 0x50F, 0x700, 0x703].all (fun n => ready (.mfs hd 6 n) runs && !firmwareOnly (.mfs hd 6 n))
      && [0x100, 0x102, 0x103, 4].all (fun n => ready (.mts hd 6 n) runs && !firmwareOnly (.mts hd 6 n))
      && [0x400, 0x47F, 0x480, 0x49F, 0xA00, 0xA01, 0xA15, 0xA20, 0xA30, 0xA3F].all (fun n => ready (.mfs hd 6 n) firmware)
      && [1, 2, 0x480, 0x49F, 0xA00, 0xA01, 0xA20, 0xA30, 0xA3F].all (fun n => ready (.mts hd 6 n) firmware && ready (.mts hd 6 n) w)) = true
     ∧ runs.me.poisS 6 = false ∧ firmware.me.poisS 6 = false ∧ firmware.mgmt.writing = false ∧ w.mgmt.writing = true
     ∧ w.selTiles.any (fun t => !(w.tile t).arriving.isEmpty) = false
     ∧ (put runs [(6, 0x17FF00)]).me.readS 6 = 0x17FF00 ∧ 0x17FF00 / 2 ^ 8 % 2 ^ 13 < 0x1800 ∧ 0x1800 ≤ 0x180000 / 2 ^ 8 % 2 ^ 13) := by
  decide +kernel

/-- FirmwareMapAndLaunchWords on the management core: each scope; no launch there, a launch to stop, and one that is idle. -/
theorem witness_firmware :
    (let s := put firmware [(6, 0), (7, 0x1000), (8, 5)]
     let saving := { s with launches := [{ placedLaunch with saving := [0] }] }
     let idle := saving.modCtx (.tile 0 0) (fun c => { c with phase := .idle, firing := none })
     s.cur = .mgmt ∧ [TlbScope.va 6 0, .mctx 0, .part 0, .all].all (fun k => ready (.tlbinv hd k) s && !scopeBusy s k && (tlbRegs k).all (fun r => !s.me.poisS r)) = true
     ∧ passes (imageTraps s 6 7) = true ∧ passes (imageTraps s 8 7) = true
     ∧ [s, saving, idle].all (fun s => ready (.ctxsv hd 6 7 0) s && ready (.ctxld hd 6 7 0) s && ready (.ctxsv hd 6 7 1) s && ready (.ctxld hd 6 7 1) s) = true
     ∧ s.launchOf (.tile 0 1) = none ∧ (s.launchOf (.tile 0 0)).any (fun l => !l.saving.contains 0) = true
     ∧ (idle.launchOf (.tile 0 0)).any (fun l => l.saving.contains 0 && ctxIdle idle l 0 0) = true
     ∧ s.savedAt 0x1000 = none) := by
  decide +kernel

/-- FirmwareMapAndLaunchWords on a tile: pclr; smap before its map is captured, with bytes to store, with its stores on their
way and with none; launch without DEVL, and with its record read. -/
theorem witness_launch_word :
    (let la := Instr.launch hd 5 6 nc
     let s := put mapped [(6, 0x100)]
     let sm := smapKeep s 0x100 1 (List.replicate 128 3)
     let ended := smapKeep s 0x180 1 []
     let storing := ended.addReq (mkReq ended ⟨.store [1] [true] false, 0x100, 0x100, 1, none⟩ 0x100 (.plain 0) none [] .sent)
     let map := fun (s : State) => match smapRest s.me with | some r => (match r.stage with | .done bs _ => some (r.ea, bs.length) | _ => none) | none => none
     let no := s.modLaunchOf s.cur (fun l => { l with rcd := l.rcd - BitVec.ofNat 512 (2 ^ 105) })
     let got := s.addReq (mkReq s ⟨.syncRead, 0x100, 0x100, 64, none⟩ 0x100 (.plain 0) none [] (.done (List.replicate 64 0) (List.replicate 64 false)))
     (ready (.pclr hd (.scalar 5)) s && ready (.pclr hd (.vector 4 3)) s && ready (.smap hd 5 6 0) s && ready la no && ready la got) = true
     ∧ [sm, ended, storing].all (fun s => ready (.smap hd 5 6 0) s) = true ∧ (smapRest s.me).isNone = true ∧ map sm = some (0x100, 128)
     ∧ map ended = some (0x180, 0) ∧ map storing = some (0x180, 0) ∧ [sm, ended, storing].map storesOpen = [false, false, true] ∧ storing.me.wcb = []
     ∧ opens sm .write .any 1 (partAddrs (smapParts ((cutLines 0x100 (List.replicate 128 3)).take 16))) (.plain 0) = true
     ∧ s.me.reqs = [] ∧ s.me.poisS 6 = false ∧ unreleased got = false ∧ (spoil s 6).me.poisS 6 = true ∧ ready (.smap hd 5 6 0) (spoil s 6) = true
     ∧ (no.view no.cur).devl = false ∧ (got.view got.cur).devl = true ∧ got.maskFault got.cur la = none ∧ got.me.wcb = []
     ∧ got.launchOf got.cur = some placedLaunch ∧ (got.part 0).isSome = true ∧ got.me.reqs.any (fun r => r.op != .syncRead) = false
     ∧ (got.me.reqs.find? (fun r => r.op == .syncRead && r.ea == 0x100 && r.by_.pc == got.me.pc)).any
         (fun r => match r.stage with | .done _ po => !po.any id | _ => false) = true) := by
  decide +kernel

/-! ### The machine's own steps -/

/-- FiringSteps: an idle context with a ready instance, a spent budget, a handler that waits, a stopped context of a tile
and of the management core. -/
theorem witness_firing :
    (let ready1 := (going runs 0 .idle).modLaunchOf runs.cur (fun l => { l with phase := .sourced, insts := [{ placedInst with enabled := true }] })
     let hp := (going runs 0 .handlerPending).modLaunchOf runs.cur (fun l => { l with insts := [{ placedInst with handler := true }] })
     let fw := { firmware with mgmt := { firmware.mgmt with fw := some placedLaunch, ctx := { firmware.mgmt.ctx with phase := .stopped } } }
     (ready1.ctx (.tile 0 0)).phase = .idle ∧ (ready1.pickInst (.tile 0 0)).any (fun i => i.enabled) = true
     ∧ (ready1.launchOf (.tile 0 0)).isSome = true ∧ budgetSpent spent (.tile 0 0) = true ∧ (spent.launchOf (.tile 0 0)).isSome = true
     ∧ (hp.ctx (.tile 0 0)).phase = .handlerPending ∧ (hp.handlerInst (.tile 0 0)).isSome = true ∧ (hp.launchOf (.tile 0 0)).isSome = true
     ∧ ((going runs 0 .stopped).ctx (.tile 0 0)).phase = .stopped ∧ ((going runs 0 .stopped).launchOf (.tile 0 0)).isSome = true
     ∧ (fw.ctx .mgmt).phase = .stopped ∧ (fw.launchOf .mgmt).isSome = true) := by
  decide +kernel

/-- FiringSteps, the windows: an instance whose input slots have a whole and a short window and whose output slot has room
fires in a context with nothing pending; one with a pending s3 does not, and a handler waits for a pending s28. -/
theorem witness_windows :
    (let inst := { placedInst with enabled := true, slots := vset (vset (vset placedInst.slots 0 (some ⟨1, 2, false⟩)) 1 (some ⟨2, 2, true⟩)) 2 (some ⟨3, 2, false⟩) }
     let w := (going runs 0 .idle).modLaunchOf runs.cur (fun l => { l with
       insts := [inst]
       edges := [⟨1, 8, 4, .actor 1 0, .actor 0 0, none, none, 0, [tok 5, tok 6, tok 7], [], 0, 0, false, 0⟩,
         ⟨2, 8, 4, .actor 0 1, .actor 1 1, none, none, 0, [], [], 4, 0, false, 0⟩,
         ⟨3, 8, 4, .actor 1 2, .actor 0 2, none, none, 0, [{ tok 9 with eos := true }], [], 0, 0, false, 0⟩] })
     let waits := fun (n : Fin 32) (s : State) => s.modCtx s.cur (fun c => { c with groups := [⟨0, .arrive, some n, none, false, by0, 0, 0, 0, 0⟩] })
     let hp := going runs 0 .handlerPending
     let bound := fun (n : Fin 16) => (w.launchOf (.tile 0 0)).bind (fun l => (bindEdge l (inst.slots.get n)).map (fun x => (x.1.out, x.1.rate, x.2.queue.length, x.2.credits)))
     w.pickInst (.tile 0 0) = some inst ∧ w.settled (.tile 0 0) = true ∧ (waits 3 w).settled (.tile 0 0) = false
     ∧ [0, 1, 2, 3].map bound = [some (false, 2, 3, 0), some (true, 2, 0, 4), some (false, 2, 1, 0), none]
     ∧ savePending hp (.tile 0 0) = false ∧ savePending (waits 28 hp) (.tile 0 0) = true) := by
  decide +kernel

/-- A group 5 of one member, at phase 3. -/
def grouped (r : GroupReq) : State :=
  { runs.modCtx runs.cur (fun c => { c with groups := [r] }) with groups := [⟨0, 5, 0, 1, 0, 1, 1, 3, 0, none, 0, [7, 8, 9]⟩] }

/-- EdgeQueueAndGroupSteps: a token of the launch's context and of another on their way, a signal and room for it, requests at
a bound and an unbound identifier, responses with an error and without. -/
theorem witness_edge_steps :
    (let e : Edge := ⟨1, 8, 4, .stream 0 0 3, .actor 0 0, none, none, 0, [], [tok 5], 0, 2, false, 0⟩
     let f : Edge := ⟨2, 8, 4, .actor 0 0, .stream 0 0 3, none, none, 0, [], [{ tok 5 with tag := 3 }], 0, 2, false, 0⟩
     let s := (runs.modLaunchOf runs.cur (fun l => { l with edges := [e, f] })).modTile 0 (fun y => { y with pend := vset y.pend 4 2 })
     let q := fun (gid : Nat) (op : GroupOp) (st err ph : Nat) => grouped ⟨gid, op, some 3, none, false, by0, st, ph, 0, err⟩
     s.launches.find? (fun l => l.q == 0 && l.c == 0) = s.launchOf (.tile 0 0) ∧ (s.launchOf (.tile 0 0)).bind (fun l => l.edge 1) = some e
     ∧ (s.launchOf (.tile 0 0)).bind (fun l => l.edge 2) = some f ∧ e.inflight = [tok 5] ∧ (tok 5).tag = 0
     ∧ ((s.launchOf (.tile 0 0)).bind (fun l => endpointUnit s l f.dst)).isSome = true
     ∧ 0 < s.pend (.tile 0 0) 4 ∧ s.tq (.tile 0 0) 4 < 63
     ∧ (nextGroupReq (q 5 .arrive 0 0 0).me).isSome = true ∧ olderAccess (q 5 .arrive 0 0 0).me 0 = false
     ∧ (q 6 .arrive 0 0 0).groupOf (.tile 0 0) 6 = none ∧ ((q 5 .arrive 0 0 0).groupOf (.tile 0 0) 5).isSome = true
     ∧ (q 5 .bar 1 2 0).me.groups.all (fun r => r.stage == 1 && r.err != 0) = true
     ∧ (q 5 .bar 1 0 2).me.groups.all (fun r => r.stage == 1 && r.err == 0 && groupDone (q 5 .bar 1 0 2) (.tile 0 0) r) = true
     ∧ (q 5 .bar 1 0 3).me.groups.all (fun r => r.stage == 1 && r.err == 0 && !groupDone (q 5 .bar 1 0 3) (.tile 0 0) r) = true) := by
  decide +kernel

/-- EdgeQueueAndGroupSteps, the networks: an edge that no box carries, one whose firkin lies in the tile's scratchpad, and one
that a watermark there holds. -/
theorem witness_firkin :
    (let e : Edge := ⟨1, 8, 4, .stream 0 0 3, .actor 0 0, none, some 0x4000, 5, [], [tok 5], 0, 2, false, 0⟩
     let off := { e with way := some (1, 0, 3) }
     let s := runs.modLaunchOf runs.cur (fun l => { l with edges := [e] })
     let wm := s.modTile 0 (fun y => { y with ctx := vset y.ctx 0 { y.ctx.get 0 with wm := vset (y.ctx.get 0).wm 2 { (y.ctx.get 0).wm.get 2 with active := true, base := 0x4000, len := 64, fill := 0 } } })
     let at_ := fun (f : Launch → Bool) (s : State) => (s.launchOf (.tile 0 0)).any f
     at_ (fun l => l.firkinSlot e == some (0, 0x4008) && s.carries l e && !s.carries l off && !edgeStalls s l e) s = true
     ∧ at_ (fun l => edgeStalls wm l e && l.firkinSlot { e with base := none } == none) wm = true) := by
  decide +kernel

/-- EdgeQueueAndGroupSteps, cut edges: one that a link feeds and one that leaves over a link, with the port up and down; a gbar whose
phase is still open after its response, and one whose phase has ended. -/
theorem witness_link_edges :
    (let e : Edge := ⟨1, 8, 4, .link 3 7, .actor 0 0, none, none, 0, [], [], 2, 0, false, 0⟩
     let f : Edge := ⟨2, 8, 4, .actor 0 0, .link 3 8, none, none, 0, [], [tok 5], 0, 2, false, 0⟩
     let s := runs.modLaunchOf runs.cur (fun l => { l with edges := [e, f] })
     let up := { s with pf := { s.pf with lnkmap := vset s.pf.lnkmap 3 0x10000, lnkst := vset s.pf.lnkst 3 1 } }
     let bar := fun (ph : Nat) => grouped ⟨5, .bar, some 3, none, false, by0, 2, ph, 0, 0⟩
     e.src.port? = some (3, 7) ∧ e.dst.port? = none ∧ f.src.port? = none ∧ f.dst.port? = some (3, 8)
     ∧ (up.linkCarries 3 && !s.linkCarries 3) = true ∧ f.inflight = [tok 5]
     ∧ ((up.launchOf (.tile 0 0)).bind (fun l => l.edge 1)) = some e ∧ ((up.launchOf (.tile 0 0)).bind (fun l => l.edge 2)) = some f
     ∧ [bar 2, bar 3].map (fun s => s.me.groups.all (fun r => groupDone s (.tile 0 0) r)) = [true, false]) := by
  decide +kernel

/-! ### Launches and time slices -/

/-- An image of one actor on tile 0 whose code is one word. -/
def image : List Byte :=
  let sec := fun (ty off len : Nat) => leBytes 4 ty ++ leBytes 4 0 ++ leBytes 4 off ++ leBytes 4 len
  leBytes 4 0x4C594C52 ++ leBytes 2 1 ++ leBytes 2 2 ++ leBytes 4 2 ++ leBytes 4 1 ++ leBytes 16 0 ++ sec 1 64 16 ++ sec 2 80 128
    ++ leBytes 4 0 ++ leBytes 4 8 ++ leBytes 8 0x0080000000000000 ++ leBytes 128 0

/-- Partition 0 has a cluster of each die, whose first one translates the first page; the image stands at 0 of channel group 0,
and the launch is in set-up. -/
def setup : State :=
  let s := (runs.modLaunchOf runs.cur (fun l => { l with rcd := l.rcd + BitVec.ofNat 512 (208 * 2 ^ 64), phase := .setup })).modCluster 0
    (fun c => { c with tlb := [⟨0, 0, 2 ^ 16, 0x33⟩] })
  { s with parts := [⟨0, 0x10001, [], false, false, 0, 0⟩], mem := s.mem.write 0 image, xltWin := vset s.xltWin 0 0x3FFFFFFFF }

/-- LaunchAndTimeSliceSteps, the set-up: the image is read, with a poisoned byte and without; one that is none; the signatures
pass, the image is well formed, its claims hold and its panels are free; each die's steps succeed. The layout of the sections
with signed entries is not the spec's, so a bad signature is shown of the entries. -/
theorem witness_launch_setup :
    (let p : Partition := ⟨0, 0x10001, [], false, false, 0, 0⟩
     let fetched := fun (s : State) (f : Launch → List Byte → Bool → State → Bool) => (s.launch 0 0).any (fun l =>
       match fetchVa s (s.firstCluster 0) l.mctx l.image l.length with | .bytes bs po s1 => f l bs po s1 | _ => false)
     let steps := fun (l : Launch) (bs : List Byte) (s1 : State) (d : Fin 2) =>
       match imgHead bs, sealedEntries p bs, parseImage p l.id l.c l.ibase (l.ilimit - l.ibase) bs with
       | some hd, some (bits, stas), some g =>
         signStatus p.owner bits stas == 0 && !s1.claimsFail p l.id (g.claims hd) && !panelsBusy s1 d g && g.gdata.isEmpty
           && (match runSetup s1 p l d g [] with | .inr u => (u.launch 0 0).any (fun x => x.doneDies == [d]) | _ => false)
       | _, _, _ => false
     setup.part 0 = some p ∧ p.dies = [0, 1] ∧ (1 : Fin 2) ≠ p.lead
     ∧ (setup.launch 0 0).any (fun l => l.phase == .setup && l.ending.isNone && l.parked.isNone && l.doneDies.isEmpty && l.args == 0) = true
     ∧ fetched (setup.poisonPa 0 1) (fun _ _ po _ => po) = true
     ∧ fetched { setup with mem := setup.mem.write 0 [0] } (fun _ bs po _ => !po && (imgHead bs).isNone) = true
     ∧ fetched setup (fun l bs po s1 => bs == image && !po && steps l bs s1 0 && steps l bs s1 1) = true
     ∧ signStatus 0 [(0, 0, [])] [] = 5) := by
  decide +kernel

/-- LaunchAndTimeSliceSteps, the end: a record whose page is there, missing, or refused; a completion queue with room. -/
theorem witness_launch_end :
    (let e := setup.modLaunchOf setup.cur (fun l => { l with ending := some (8, 0, 0) })
     let at_ := fun (va : Nat) => storeVa e 0 0 va (leBytes 32 0)
     let v : Vf := { e.vfs.get 0 with cq := ⟨0x1000, 16, 0, 3, []⟩ }
     (e.launch 0 0).any (fun l => l.ending.isSome && l.parked.isNone && l.compl % 32 == 0) = true
     ∧ (match at_ 0x200 with | .ok s => s.mem.read 0x200 32 == e.mem.read 0x200 32 | _ => false) = true
     ∧ (match (e.walkNow 0 0 0x200).map (fun s => (s, s.translate none 0 0 .write 0x200)) with
        | some (s, .ok x) => s.reachable x.pa && (s.passNow x.pa 32 0 0 .plain).isSome
        | _ => false) = true
     ∧ (match at_ 0x100000 with | .park va _ => va == 0x100000 | _ => false) = true
     ∧ (match at_ (2 ^ 56) with | .fail _ _ => true | _ => false) = true
     ∧ v.cq.full = false ∧ v.cq.wait = [] ∧ v.masked 0 = true ∧ ({ v with table := #v[0, 0, 0] } : Vf).masked 0 = false) := by
  decide +kernel

/-- LaunchAndTimeSliceSteps: submissions of 64 bytes and of 63, launches that are running, ended and quiet; a time-slice record
with a reserved bit and a good one; a command that is due at tile 0; a register write on its way. -/
theorem witness_launch_steps :
    (let ended := runs.modLaunchOf runs.cur (fun l => { l with ending := some (8, 0, 0) })
     let quiet := (runs.modLaunchOf runs.cur (fun l => { l with phase := .sourced, insts := [] })).modCtx runs.cur (fun c => { c with firing := none, phase := .idle })
     let due := { runs with held := [⟨0, 5, 0, 0x1234, 0x5678, 9, true, false, [0, 3]⟩] }
     let moving := runs.modTile 0 (fun y => { y with arriving := [(true, 0x7, 0x3), (false, 0xF, 0x2)] })
     let sub := BitVec.ofNat 512 (208 * 2 ^ 64 + 2 ^ 96 + 0x40000 * 2 ^ 146)
     let p : Partition := ⟨0, 1, [], false, false, 0, 0⟩
     let bad := fun (x : Nat) => (runs.part (Fin.ofNat 32 (x / 2 ^ 128 % 2 ^ 5))).isNone || tsReserved x || decide (60 < tsFloors x) || decide (16 ≤ runs.held.length)
     runs.part 0 = some p ∧ (runs.launch 0 0).any (fun l => l.phase == .running && l.ending.isNone) = true
     ∧ (ended.launch 0 0).any (fun l => l.ending.isSome && l.parked.isNone && (l.agents p).all (fun g => (ended.ctx g).wcb.isEmpty && !(ended.ctx g).owes)) = true
     ∧ (quiet.launch 0 0).any (fun l => Launch.quiet quiet p l) = true
     ∧ ended.convsOf 0 0 = [] ∧ { ended with convs := [{ conv 1 with c := 0 }] }.convsOf 0 0 ≠ []
     ∧ runs.acceptStatus p (mctxOf 0 1) sub = 3 ∧ { runs with launches := [] }.acceptStatus p (mctxOf 0 1) sub = 0 ∧ runs.acceptStatus p (mctxOf 0 0) (sub - BitVec.ofNat 512 (2 ^ 96)) = 1
     ∧ (⟨0, 64⟩ : SubWrite).off = 0 ∧ (⟨32, 32⟩ : SubWrite).off ≠ 0
     ∧ bad (2 ^ 63) = true ∧ bad (5 * 2 ^ 192) = false
     ∧ (due.held.find? (fun k => k.active && k.waiting.contains 0 && decide (k.count (dieOfTile 0) ≤ (due.dies.get (dieOfTile 0)).cycle.toNat))).isSome = true
     ∧ (moving.tile 0).arriving = [(true, 0x7, 0x3), (false, 0xF, 0x2)]) := by
  decide +kernel

/-- A saved context whose image stands at 0x1000, its launch on the shelf. -/
def save0 : CtxSave :=
  ⟨0, 0x1000, 0, 0, 0, 0, 0, Ctx.reset 0, Vector.replicate 16 0, Vector.replicate 4 (Vector.replicate 128 AccRow.reset), 0, 0, [], [],
    [⟨0, false, 0, 0⟩], [7, 9, 7]⟩
def shelved : State :=
  { put firmware [(6, 0), (7, 0x1000)] with
    launches := [], shelf := [placedLaunch], saves := [save0], mem := Memory.empty.write 0x1000 [7, 9, 7] }

/-- FirmwareMapAndLaunchWords, ctxld: the saved context is found by the bytes of its image. -/
theorem witness_saved : shelved.savedAt 0x1000 = some save0 := by
  decide +kernel
theorem witness_ctxld :
    (let other := { shelved with launches := [{ placedLaunch with id := 1, c := 1 }] }
     [shelved, other].all (fun s => ready (.ctxld hd 6 7 0) s && passes (imageTraps s 6 7) && (s.launchOf (.tile 0 0)).isNone) = true
     ∧ (shelved.launches ++ shelved.shelf).find? (fun l => l.id == 0) = some placedLaunch
     ∧ (other.launches ++ other.shelf).find? (fun l => l.id == 0) = some placedLaunch
     ∧ loadStatus shelved placedLaunch save0 0 0 = 0 ∧ loadStatus other placedLaunch save0 0 0 = 3) := by
  decide +kernel

/-- FirmwareMapAndLaunchWords, the pages of an image: all reached, and the second beyond HBM; an array that is busy. How long
an image is stands open, so the pages are those of a length. -/
theorem witness_image_pages :
    (firmware.badPage 0x1000 4097 = none ∧ firmware.badPage (2 ^ 39 - 4096) 4097 = some (2 ^ 39)
     ∧ pageTrap firmware (2 ^ 39 - 4096) 4097 = some (0x06, 2 ^ 39, 2 ^ 39)
     ∧ savedTrap shelved 0x1000 = none
     ∧ (shelved.tile 0).arrayBusy = false ∧ ((shelved.modTile 0 (fun y => { y with sweep := true })).tile 0).arrayBusy = true) := by
  decide +kernel

/-- The states of the witnesses in which words of release semantics run have nothing before them. -/
theorem witness_drained :
    [runs, near, mapped, loaded, streaming, region 1 2, handled, shelved].all (fun s => s.me.wcb.isEmpty && !s.pastOpen s.cur) = true := by
  decide +kernel

/-! ### The steps of memory and of the matrix array -/

/-- Context 0 has one request, to the line at 0x80 of channel group 0, which its slice holds. -/
def asking (op : ReqOp) (st : ReqStage) : State :=
  (near.addReq (mkReq near ⟨op, 0x100, 0x100, 4, none⟩ 0x100 (.plain 0) none [] st)).modSlice 0 2 (fun x => { x with lines := [⟨2, false, false⟩] })

/-- MemorySteps: requests of each kind, sent and answered; a home without power, a missing line, a held one; a merged line. -/
theorem witness_memory_steps :
    (let g := AgentId.tile 0 0
     let done := ReqStage.done [1, 2, 3, 4] [false, false, false, true]
     let one := fun (s : State) => (s.ctx g).reqs.length == 1 && (s.ctx g).reqs.all (fun r => (s.ctx g).mayPerform 0 r && r.pa == 0x100)
     let off := { asking (.loadS 3 true) .sent with hbm := { near.hbm with stack := vset near.hbm.stack 0 ⟨.above, false, false⟩ } }
     let merged := near.modCtx g (fun c => { c with wcb := [⟨2, List.replicate 128 1, List.replicate 128 true, true, 0, none, by0, 0x100, 0x100, [], 0⟩] })
     (one (asking (.loadS 3 true) .sent) && one off && one (asking (.store [1, 2, 3, 4] [true, true, true, true] false) .sent)
       && one (asking (.loadS 3 true) done) && one (asking (.loadV 3) done) && one (asking (.store [] [] false) done)
       && one (asking (.rmw .min 2 5 (some 3)) done) && one (asking (.cas 2 1 2 3) done) && one (asking (.xrd 3 true) done)) = true
     ∧ off.reachable 0x100 = false ∧ near.reachable 0x100 = true ∧ near.lineReady 0x100 4 0 = false
     ∧ (asking (.loadS 3 true) .sent).lineReady 0x100 4 0 = true ∧ targetOf 0x100 = some .hbm ∧ (asking (.loadS 3 true) .sent).lineKeys = []
     ∧ (merged.ctx g).wcb.length = 1) := by
  decide +kernel

/-- MemorySteps: a parked request that the host names, on a page that is there now; a line being filled; a walk that finds a
page and one that misses. -/
theorem witness_memory_faults :
    (let parked := { asking (.loadS 3 true) (.parked 7) with
       vfs := vset near.vfs 0 { near.vfs.get 0 with frToken := 7 }
       xltRoot := vset near.xltRoot 0 1 }
     let table := { parked with mem := (Memory.empty.writeNat 0 8 0x2001).writeNat 0x2000 8 0x33 }
     let filling := near.modSlice 0 2 (fun x => { x with miss := [⟨2, 0, 0, .plain, false, [2]⟩] })
     (match table.parkedOf 0 7 with | some (.req g r) => g == .tile 0 0 && r.stage == .parked 7 | _ => false) = true
     ∧ (match (table.unpark 7).retranslate 0 .read 0x100 with | .ok x => x.pa == 0x100 | _ => false) = true
     ∧ ((filling.slice (cgOf 0x100) (sliceOf 0x100)).miss.find? (fun e => e.line == 2 && e.mctx == 0)).isSome = true
     ∧ (match table.walk 0 0x100 with | .page e => e.size == 2 ^ 30 | _ => false) = true ∧ near.walk 0 0x100 = .missing 0) := by
  decide +kernel

/-- MemorySteps: a write that waits for its unit, an access behind another on its line, and answers of the other kinds. -/
theorem witness_memory_waits :
    (let g := AgentId.tile 0 0
     let w := asking (.store [1, 2, 3, 4] [true, true, true, true] false) .sent
     let unit := { w.modCtx g (fun c => { c with reqs := c.reqs.map (fun r => { r with unit := some (0, [0]) }) }) with convs := [conv 0] }
     let done := ReqStage.done [1, 2, 3, 4] [false, false, false, true]
     let mine := fun (op : ReqOp) => (asking op done).me.reqs.map (fun r => r.mates r)
     unit.me.reqs.map (fun r => unit.unitWaits r) = [true] ∧ w.me.reqs.map (fun r => w.unitWaits r) = [false]
     ∧ w.me.reqs.map (fun r => w.isNext g r) = [true] ∧ w.me.reqs.map (fun r => !r.mates r && r.op.waited && r.op != .syncRead) = [true]
     ∧ mine (.gather 3 4 1) = [true] ∧ mine (.bits 3 0 8 8 0) = [true] ∧ mine .syncRead = [false] ∧ mine (.constFill true none) = [false]) := by
  decide +kernel

/-- MemorySteps, the sending: a store that joins the buffer, with a part of a line and with the last bytes of one, a load that
forwards, an atomic that does neither; a context with an access that is parked. -/
theorem witness_sending :
    (let req := fun (op : ReqOp) => mkReq near ⟨op, 0x100, 0x100, 4, none⟩ 0x100 (.plain 0) none [] .queued
     let st := req (.store [1, 2, 3, 4] [true, true, true, true] false)
     let old : WcbLine := ⟨2, List.replicate 128 1, List.replicate 4 false ++ List.replicate 124 true, false, 0, none, by0, 0x100, 0x100, [], 0⟩
     let stuck := near.addReq { st with stage := .parked 7 }
     st.merges = some [1, 2, 3, 4] ∧ (st.entry [1, 2, 3, 4] none 0).mask.all id = false ∧ (st.entry [1, 2, 3, 4] (some old) 0).mask.all id = true
     ∧ (st.entry [1, 2, 3, 4] (some old) 0).line = 0x100 / 128
     ∧ (req (.loadS 3 true)).op.forwards = true ∧ (req (.loadS 3 true)).rel = false
     ∧ (req (.rmw .add 2 5 none)).merges = none ∧ (req (.rmw .add 2 5 none)).op.forwards = false
     ∧ near.me.stuck = false ∧ stuck.me.stuck = true ∧ near.unitWaits st = false
     ∧ ({ near with convs := [conv 0] } : State).unitWaits { st with unit := some (0, [0]) } = true) := by
  decide +kernel

/-- MemorySteps, the order: a request behind one of another context of its tile to the same home, sent earlier, and one that is
not; a walk whose tables' lines are there, and one that reads them. -/
theorem witness_tile_order :
    (let r := { mkReq near ⟨.loadS 3 true, 0x100, 0x100, 4, none⟩ 0x100 (.plain 0) none [] .sent with sentAt := 5 }
     let e := { mkReq near ⟨.store [1] [true] false, 0x104, 0x104, 1, none⟩ 0x104 (.plain 0) none [] .sent with sentAt := 3 }
     let other := near.modCtx (.tile 0 1) (fun c => { c with reqs := [e] })
     let cold := { near with xltRoot := vset near.xltRoot 0 1 }
     other.tileWaits (.tile 0 0) r = true ∧ near.tileWaits (.tile 0 0) r = false ∧ other.tileWaits (.tile 0 0) { r with sentAt := 2 } = false
     ∧ (cold.walkStep 0 0x100).isSome = true ∧ (near.walkStep 0 0x100).isNone = true) := by
  decide +kernel

/-- Queue 0 of tile 0 holds one operation. -/
def queued (k : MatKind) (started : Bool) (waves : Nat) (s : State) : State :=
  s.enqueue 0 0 { newMatOp s 0 1 (s.tile 0).issueShape nc k with started := started, waves := waves }

/-- MatrixSteps: operations of each kind that may start, fetch and end; a configuration change that may sweep, and one that does. -/
theorem witness_matrix_steps :
    (let o := operands 17
     let m := { macOp o.me mac0 .bf16 .bf16 false false false with z := none }
     let d := (o.me.readH 6).desc
     let has := fun (s : State) (f : MatOp → Bool) => match (s.tile 0).mq.get 0 with | [x] => f x && (s.tile 0).cfgs.isEmpty | _ => false
     let p : Panel := ⟨0, 0, 64, 32⟩
     panelOf 3 0 = some p
     ∧ (has (queued .zero false 0 o) (fun x => !x.started) && has (queued (.store .f32 d 0 0) false 0 o) (fun x => !x.started)
        && has (queued (.mac m) false 0 o) (fun x => !x.started) && has (queued (.mac m) true 0 o) (fun x => x.started && decide (x.waves < m.waveCount)
            && !waveStalls (queued (.mac m) true 0 o) p ⟨0, m, 0, m⟩ 0 x)
        && has (queued (.load .f32 d 0 0) true 63 o) (fun x => decide (x.waves < 64) && !rowStalls (o.tile 0) .f32 (hdesc d) (0 + x.waves) 0 32 x.by_.order)
        && has (queued .zero true 0 o) (fun x => x.fetched 0) && has (queued (.mac m) true m.waveCount o) (fun x => x.fetched 0)
        && has (queued .gangFree false 0 o) (fun _ => ((o.tile 0).gang.get 0).isNone)) = true
     ∧ (let c := o.modTile 0 (fun y => { y with cfgs := [newMatOp o 0 0 3 nc (.cfg 1 2)] })
        (c.tile 0).sweep = false ∧ (c.tile 0).cfgs.all (fun x => sweepReady (c.tile 0) x) = true)) := by
  decide +kernel

/-- MatrixSteps: a masked product, a gang product without a gang and one whose members disagree, a store that has failed, an operation
of a launch that has ended, a gang that no other member joins yet. -/
theorem witness_matrix_gangs :
    (let o := operands 17
     let m := { macOp o.me mac0 .bf16 .bf16 false false true with z := none }
     let z := { m with gang := false, z := some 0x100000 }
     let d := (o.me.readH 6).desc
     let gang := fun (f : List Nat) => (queued (.mac m) false 0 o).modTile 0 (fun y => { y with gang := vset y.gang 0 (some ⟨3, 0, 0, 1, 1, true, 1, f⟩) })
     let has := fun (s : State) (f : MatOp → Bool) => match (s.tile 0).mq.get 0 with | [x] => f x | _ => false
     let dead := (queued (.row .f32 false 0 3) true 1 o).modTile 0 (fun y => { y with mq := vset y.mq 0 ((y.mq.get 0).map (fun x => { x with dead := true })) })
     (has (gang []) (fun x => (teamOf ((gang []).tile 0) 0 x).isSome) && has (queued (.mac m) false 0 o) (fun x => (teamOf ((queued (.mac m) false 0 o).tile 0) 0 x).isNone)
       && has dead (fun x => x.dead && x.fetched 0 && x.err.isNone)
       && has (queued .zero true 0 o) (fun x => !x.dead && x.err.isNone && ({ x with err := some (8, 8) } : MatOp).fetched 0)) = true
     ∧ has (queued (.mac z) false 0 o) (fun x => !x.started && !(o.tile 0).wmStall 0x100000 1088 x.by_.order) = true
     ∧ ((queued (.mac m) false 0 o).tile 0).gang.get 0 = none
     ∧ has (gang []) (fun x => gangIssued (gang []) 0 0 x && !gangDiffers (gang []) 0 0 x) = true
     ∧ has (gang [0]) (fun x => gangIssued (gang [0]) 0 0 x && gangDiffers (gang [0]) 0 0 x) = true
     ∧ has (queued (.store .f32 d 0 0) true 3 o) (fun x => decide (x.waves < 64) && x.err.isNone
         && !rowStalls (o.tile 0) .f32 (hdesc d) (0 + x.waves) 0 32 x.by_.order) = true
     ∧ (let s := ganged (queued .gang false 0 o)
        has s (fun _ => match s.launchOf (.tile 0 0), (s.tile 0).gang.get 0 with
          | some l, some g => (gangMembers 0 (g.gR * g.gC) (formingHeads s l g)).isEmpty
          | _, _ => false)) = true) := by
  decide +kernel

/-- An engine of channel group 0 with one request, of a stream that reads one byte from address 0x100. -/
def engined (f : EngReq → EngReq) : State :=
  streaming.modCluster 0 (fun c => { c with eng := [f (newReq 0 0 0 0 9 0x100 0 0 none none by0)], stamp := 1 })

/-- EngineSteps: a request that may start, one that has started, one that has ended, one through the array; an armed template
with a token; a push program that is enabled. -/
theorem witness_engine_steps :
    (let s := engined id
     let e := engined (fun r => { r with started := true, ending := some (1, 0, 0, 0, 0) })
     let a := (engined (fun r => { r with rcd := r.rcd + BitVec.ofNat 512 (2 ^ 363), started := true, src := List.replicate 32 (0, false) })).modSta 0 0
       (fun k => { k with st := 2, graph := { k.graph with inw := 1 } })
     let t := streaming.modLaunchOf streaming.cur (fun l => { l with edges := [⟨1, 64, 4, .actor 0 1, .template 0 0 1, none, none, 0, [tok 0], [], 0, 0, false, 0⟩] })
     let r0 : EngReq := { newReq 2 0 0 0 1 0 0 0 none none by0 with last := false }
     let g := runs.setPush 3 2 ⟨0, 0, 0, 0, none, true, none⟩
     ((s.clusters.get 0).eng.filter (fun r => r.started)).length < 64 ∧ ((s.clusters.get 0).eng.find? (reqMayStart s 0)).any (fun r => r.rc.sta.isNone
        && startReason (s.modTile r.t (fun y => { y with issues := y.issues + 1 })) { r with order := (s.tile r.t).issues, started := true } == 0) = true
     ∧ (s.engReq 0 0).isSome = true ∧ ((reqBeat (engined (fun r => { r with started := true })) 0 0 { newReq 0 0 0 0 9 0x100 0 0 none none by0 with started := true }).2).isSome = true
     ∧ (e.engReq 0 0).any (fun r => r.ending.isSome && r.tail.isEmpty && (reqBeat e 0 0 r).2.isNone) = true
     ∧ (a.engReq 0 0).any (fun r => r.rc.sta == some 0 && r.started && r.ending.isNone && decide ((staPending a 0 r).1.length = 32)
         && (a.staSlot 0 0).graph.inw == 1) = true
     ∧ (t.me.tmpl.get 1).any (fun x => !x.disarming) = true ∧ ((t.clusters.get 0).eng.filter (fun y => r0.sameTemplate y && !y.started)).length = 0 ∧ t.cgOfPart 0 (recOf 0).cg = some 0
     ∧ (t.launchOf (.tile 0 0)).any (fun l => (l.edges.find? (fun e => e.dst == .template 0 0 1)).any (fun e => e.queue == [tok 0])) = true
     ∧ (g.pushProg 3 2).any (fun p => p.pass.isNone && p.enabled) = true) := by
  decide +kernel

/-- EngineSteps: a template that is disarmed, a push program that is not enabled and one whose pass has ended. -/
theorem witness_engine_ends :
    (let off := streaming.modCtx streaming.cur (fun c => { c with tmpl := vset c.tmpl 1 ((c.tmpl.get 1).map (fun t => { t with disarming := true })) })
     let z := { newReq 3 0 0 0 2 0 0 0 none none ⟨0, 0, 0, false⟩ with started := true, ending := some (1, 0, 0, 0, 0) }
     let g := runs.setPush 3 2 ⟨0, 0, 0, 0, none, false, none⟩
     let p := runs.setPush 3 2 ⟨0, 0, 0, 0, some 4, true, some z⟩
     let paged := mapped.modCluster 0 (fun c => { c with tlb := (mapped.tile 0).tlb })
     let n : Fin 320 := if homeOf 0x100 = .slice 0 3 then 4 else 3
     let foreign := paged.setPush n 2 ⟨0, 0, 0, 0x100, none, true, some { z with rcd := 0x100, ending := none }⟩
     let gone := p.setPush 3 2 ⟨9, 0, 0, 0, none, true, none⟩
     (foreign.pushProg n 2).any (fun p => p.pass.any (fun z => z.ending.isNone && !z.inEnd && !allRead foreign (sliceNum n).1 z && !ownSlice foreign n z)) = true
     ∧ (gone.launches.any (fun l => l.id == 9)) = false ∧ (p.launches.any (fun l => l.id == 0)) = true ∧
     (off.me.tmpl.get 1).any (fun t => t.disarming) = true ∧ (g.pushProg 3 2).any (fun p => p.pass.isNone && !p.enabled) = true
     ∧ (p.pushProg 3 2).any (fun p => p.pass.any (fun z => z.ending.isSome && z.tail.isEmpty)) = true
     ∧ (runs.clusters.get 0).eng.find? (reqMayStart runs 0) = none) := by
  decide +kernel

/-- Slot 9 of the first context and the first cluster's engine, with the page, the line and the edges of a stream. -/
def beating : State :=
  let s := (mapped.modLaunchOf mapped.cur (fun l => { l with edges := [⟨1, 8, 4, .stream 0 0 9, .actor 0 0, none, none, 0, [], [], 4, 0, false, 0⟩,
    ⟨2, 8, 4, .actor 0 1, .stream 0 0 8, none, none, 0, [tok 5, tok 6], [], 2, 0, false, 0⟩] })).modCluster 0 (fun c => { c with tlb := (mapped.tile 0).tlb })
  s.modSlice (cgOf 0x100) (sliceOf 0x100) (fun x => { x with lines := [⟨2, false, false⟩] })

/-- A request of one byte at 0x100 in progress: a stream's read, a copy's, a stream's write and a copy's. -/
def beatReq (kind : Nat) (dir : Bool) : EngReq :=
  let rcd := BitVec.ofNat 512 (0x100 + kind * 2 ^ 304 + b2n dir * 2 ^ 308 + 8 * 2 ^ 408)
  { newReq kind 0 0 0 (if dir then 8 else 9) rcd 0 0x2000 none none by0 with started := true }

/-- EngineSteps, a beat: a token's bytes that are formed and a copy's, a piece to fetch, the end of the pattern, the end of the
data, a piece at no address; a token and bytes of the range to take, a piece to write, and the ends of a write. -/
theorem witness_beats :
    (let s := beating
     let plain := fun (r : EngReq) => let rc := r.rc
       rc.zs == 0 && !rc.mx && !rc.cv && !rc.tr && rc.redop == 0 && rc.sta.isNone && rc.pat == 0 && rc.total == 1 && r.ending.isNone && r.started
         && r.parked.isNone && !s.stopping r
     let rd := beatReq 0 false
     let cp := beatReq 1 false
     let wr := beatReq 0 true
     let wc := beatReq 1 true
     let formed := { rd with src := List.replicate 8 (1, false) }
     let got := { wr with src := List.replicate 8 (1, false) }
     let one := fun (r : EngReq) (k : Kind) => match spotOf s r 0 with
       | .cells false none [p] none => (match engAccess s 0 r k none [p] with | .ok [(_, x)] => x.pa == 0x100 && x.key.isNone | _ => false)
       | _ => false
     [rd, cp, wr, wc].all plain = true ∧ [rd, cp, wr, wc].map (fun r => r.rc.dir) = [false, false, true, true]
     ∧ (s.reqEdge formed (fun e => e.src == formed.outEnd 0)).any (fun e => decide (0 < e.credits) && e.tokSize == 8 && !formed.rc.eos) = true
     ∧ cp.copies = true ∧ engStall s cp 0x2000 1 = false ∧ cp.rc.slen = 8
     ∧ (deliverBeat s 0 0 rd).isNone = true ∧ fetchRoom s 0 0 rd = true ∧ (one rd .read && one wr .write) = true
     ∧ (deliverBeat s 0 0 { rd with pos := 1 }).isNone = true ∧ rd.feeds = true ∧ cp.feeds = false
     ∧ (match spotOf s { rd with off := 2 ^ 56 } 0 with | .bad 6 a => a == 2 ^ 56 + 0x100 | _ => false) = true
     ∧ (s.reqEdge wr (fun e => e.dst == .stream wr.t wr.c wr.num)).any (fun e => e.queue == [tok 5, tok 6]) = true ∧ s.sectors = []
     ∧ (0 + 1) * 2 ^ wr.rc.chunk ≤ got.src.length ∧ wc.src.length < (0 + 1) * 2 ^ wc.rc.chunk ∧ s.lineKeys = []) := by
  decide +kernel

/-- A container of one word without a signature, and a header that is none. -/
def container : List Byte := leBytes 4 0x53544147 ++ leBytes 2 1 ++ leBytes 2 0 ++ leBytes 4 1 ++ leBytes 20 0 ++ leBytes 4 0

/-- Slot 0 of channel group 0 loads from an address. -/
def loading (addr : Nat) : State :=
  let s := (mapped.modCluster 0 (fun c => { c with tlb := (mapped.tile 0).tlb })).modSta 0 0 (fun k => { k with
    st := 1, owner := some 0, loads := [⟨false, addr, 0, 0, none, by0, 0, none, none⟩] })
  { s with mem := s.mem.write 0 container }

/-- ArrayAndConversionSteps, the arrays: a container that is to be read, one whose header is none, a poisoned one, a page that
forbids the read; a load that has been read, one that waits as an update, and an empty slot's; a free with nothing before it,
and one that waits. -/
theorem witness_array_steps :
    (let head := fun (s : State) (n : Nat) => match fetchVa s 0 0 n 32 with | .bytes bs po s1 => some (bs, po, s1) | _ => none
     let f := mapped.modSta 0 0 (fun k => { k with st := 3, frees := [⟨0, 0, none, 5⟩] })
     let shut := { loading 0 with xltWin := mapped.xltWin.set 0 0 }
     let got := fun (u : Bool) => (loading 0).modSta 0 0 (fun k => { k with loads := k.loads.map (fun l => { l with upd := u, stamp := 7, got := some [0] }) })
     let busy := (got true).modCluster 0 (fun c => { c with eng := [{ newReq 0 0 0 0 9 (2 ^ 363) 0 0 none none by0 with stamp := 0 }] })
     ((loading 0).staSlot 0 0).loads.any (loadReads (loading 0)) = true ∧ ((got false).staSlot 0 0).loads.find? (loadReads (got false)) = none
     ∧ [got false, got true, busy].map (fun s => (s.staSlot 0 0).loads.all (fun l => loadWaits s 0 0 l)) = [false, false, true]
     ∧ ((loading 0).launchOf (.tile 0 0)).any (fun l => mctxOf l.q l.c == 0) = true ∧ ((loading 0).staSlot 0 0).frees = []
     ∧ (head (loading 0) 0).any (fun h => containerHead h.1 == some (1, 0) && !h.2.1
         && (match fetchVa h.2.2 0 0 0 36 with | .bytes bs po _ => bs == container && !po | _ => false)) = true
     ∧ (head (loading 0) 256).any (fun h => containerHead h.1 == none) = true
     ∧ (head ((loading 0).poisonPa 0 1) 0).any (fun h => h.2.1) = true
     ∧ (match fetchVa shut 0 0 0 32 with | .fail st va => st == 5 && va == 0 | _ => false) = true
     ∧ (f.staSlot 0 0).frees = [⟨0, 0, none, 5⟩] ∧ (f.staSlot 0 0).loads = [] ∧ freeReady (f.clusters.get 0) 0 ⟨0, 0, none, 5⟩ = true
     ∧ freeReady (busy.clusters.get 0) 0 ⟨0, 0, none, 5⟩ = false) := by
  decide +kernel

/-- A conversion of n bytes from 0x8000 to an address, acknowledged by the one cluster. -/
def converting (n dst : Nat) (busy : List (Nat × Fin 32)) : State :=
  { mapped.modCluster 0 (fun c => { c with tlb := (mapped.tile 0).tlb }) with
    convs := [⟨0, 0, 0, 0, desc1 false 0 n 0x8000 0x6000, desc1 false 0 n dst 0x6000, .tile 0 0, by0, 1, [], busy, [], none, false⟩] }

/-- What a conversion's page answers: the address, or the failing step, or the level of a missing page. -/
def convSees (s : State) (k : Kind) (va : Nat) : Nat × Nat :=
  match s.convs with
  | v :: _ => (match convPage s v 0 k va with | .ok x => (0, x.pa) | .missing l => (1, l) | .fault st _ _ => (2, st))
  | [] => (3, 0)

/-- ArrayAndConversionSteps, the conversions: a cluster whose writes through the handle are performed, and one with such a write;
a unit that has not come to its turn, one whose page is there, missing, or not writable, or whose engine has another unit; one
whose old page is missing; a unit that is done. -/
theorem witness_conversion_steps :
    (let s := converting 64 0 []
     let d := converting 64 0 [(0, 0)]
     let ok := fun (s : State) => match s.convs with
       | v :: _ => convReady s v && v.waiting 0 && decide (0 < v.units)
       | _ => false
     let turn := fun (s : State) => !s.convs.any (fun w => w.busy.any (fun b => b.2 == 0))
       && (engineNext s 0).map (fun x => (x.1.id, x.2)) == some (0, 0)
     let stops := fun (s : State) => match s.convs with | v :: _ => ((unitWalks s v 0 0).isSome, (unitStopped s v 0 0).isSome, (unitHeld s v 0 0).isSome) | [] => default
     let off := { d with hbm := { d.hbm with stack := vset d.hbm.stack 0 ⟨.above, false, false⟩ } }
     let held := fun (s : State) (n : Nat) => s.modSlice (cgOf (128 * n)) (sliceOf (128 * n)) (fun x => { x with lines := ⟨n, false, false⟩ :: x.lines })
     let warm := held (held d 0) 256
     let cold := { s with clusters := mapped.clusters, xltRoot := vset s.xltRoot 0 1 }
     let old := { s with convs := s.convs.map (fun v => { v with old := desc1 false 0 64 0x200000 0x6000 }) }
     let busy := { s with convs := s.convs ++ [{ conv 3 with busy := [(9, 0)] }] }
     let raw := s.addReq (mkReq s ⟨.store [1] [true] false, 0x8000, 0x8000, 1, none⟩ 0x8000 { Attr.plain 0 with via := some 0 } none [] .sent)
     let quiet := fun (s : State) => (List.finRange 8).all (fun i => !((s.tile ⟨i.val, by omega⟩).ctx.get 0).handleWrites 0)
     (ok s && ok (converting 64 0x100000 []) && ok (converting 64 0x10000 []) && ok old && ok busy && !ok d) = true
     ∧ (s.clustersOf 0).getLsbD 0 = true ∧ quiet s = true ∧ quiet raw = false
     ∧ convSees s .write 0 = (0, 0) ∧ convSees (converting 64 0x100000 []) .write 0x100000 = (1, 0)
     ∧ convSees (converting 64 0x10000 []) .write 0x10000 = (2, 4) ∧ s.firstCluster 0 = 0 ∧ cgOf 0 = 0 ∧ targetOf 0 = some .hbm
     ∧ (turn s && turn old && !turn busy) = true ∧ [s, old, d, off, cold, warm].map stops
         = [(false, false, true), (false, true, true), (false, false, true), (false, false, true), (true, true, false), (false, false, false)]
     ∧ d.convs.all (fun v => v.busy.find? (fun b => b.1 == 0) == some (0, 0) && v.cslot.isNone) = true ∧ convSees d .write 0 = (0, 0)) := by
  decide +kernel

/-! ### Regions, errors, heat, the host port and security -/

/-- Region 0 runs for the launch with edges into its ports 2 and 13, or drains with and without a swap. -/
def operating (st : Nat) (sw : Option RgSwap) (bit : Nat) : State :=
  let cfg : RgCfg := ⟨7, true, 100, 800, 0, [(0, 4), (0, 4), (1, 4), (2, 4)]⟩
  (runs.modLaunchOf runs.cur (fun l => { l with
      edges := [⟨1, 8, 4, .actor 0 0, .region 0 2, none, none, 0, [tok 5], [], 4, 0, false, 0⟩, ⟨2, 8, 4, .actor 0 0, .region 0 13, none, none, 0, [tok bit], [], 4, 0, false, 0⟩] })).modRegion 0
    (fun k => { k with
      st := st, owner := some 0, active := some cfg, staged := some cfg, swap := sw, cap := 20, capk := 60 })

/-- RegionSteps: a staging launch, the swap port and an input port, a draining region with a swap and without one, and
windows above the cap and below 9 / 10 of it, the tenth and an earlier one. -/
theorem witness_region_steps :
    (let a := operating 1 none 4
     let w := fun (b : Nat) => (a.modRegion 0 (fun k => { k with below := b })).region 0
     let ld := runs.modRegion 0 (fun k => { k with load := some ⟨0x1000, ⟨0, 0, none, by0⟩, none, false⟩ })
     ((ld.region 0).load.any (fun l => l.parked.isNone && !olderAccess (ld.ctx (.tile l.who.t l.who.c)) l.who.by_.order)) = true
     ∧ (ld.launchOf (.tile 0 0)).isSome = true ∧ (ld.region 0).swap = none
     ∧ (a.region 0).st = 1 ∧ (a.region 0).clocked = true ∧ (a.region 0).active.any (fun c => c.swapctl && (c.ports.getD 2 (0, 4)).1 == 1) = true
     ∧ (portHead a 0 13).any (fun x => !x.2.2.bits.getLsbD 0) = true ∧ (portHead a 0 2).isSome = true
     ∧ (a.region 0).active.any (fun c => (c.port 3).1 == 2) = true ∧ (a.region 0).outbuf = [] ∧ dieStages ld 0 = false
     ∧ (portHead (operating 1 none 5) 0 13).any (fun x => x.2.2.bits.getLsbD 0) = true ∧ (a.region 0).stage = 0 ∧ (a.region 0).swap = none
     ∧ ((a.modRegion 0 (fun k => { k with stage := 2 })).region 0).stage = 2
     ∧ ((operating 2 none 0).region 0).st = 2 ∧ ((operating 2 none 0).region 0).clocked = true ∧ ((operating 2 none 0).region 0).swap = none
     ∧ ((operating 2 (some ⟨false, [], true⟩) 0).region 0).swap.any (fun x => x.who.isEmpty) = true
     ∧ (w 0).cap.toNat < 21 ∧ (w 0).step < 72 ∧ 10 * 17 < 9 * (w 0).cap.toNat ∧ (w 9).below + 1 = 10 ∧ (w 9).reqStep < (w 9).step
     ∧ (w 0).below + 1 < 10) := by
  decide +kernel

/-- RegionSteps, the staging: a header that is none, a page that is missing with room to park, nothing else in the die's stager. -/
theorem witness_staging :
    (let s := (mapped.modCluster (clusterOfRegion 0) (fun c => { c with tlb := (mapped.tile 0).tlb })).modRegion 0 (fun k => { k with load := some ⟨0x1000, ⟨0, 0, none, by0⟩, none, false⟩ })
     let sees := fun (addr : Nat) => (s.launchOf (.tile 0 0)).map (fun l => match stageBits s l 0 addr 0 with
       | .wait => 0 | .ok _ _ => 1 | .bad n _ => 2 + n | .park _ _ => 100)
     sees 0x1000 = some 6 ∧ sees 0x100000 = some 100 ∧ s.replayRoom (.unit (dieOfRegion 0)) = true ∧ (s.region 0).swap = none
     ∧ (s.region 0).load.any (fun l => l.parked.isNone) = true ∧ dieStages s 0 = false) := by
  decide +kernel

/-- ErrorsLinksAndHangs: an address in HBM, the last byte of a scratchpad, a log with an entry, an available port, and a
partition with a hang limit and partial work. -/
theorem witness_errors :
    (let s := ((runs.modLaunchOf runs.cur (fun l => { l with groups := [5] })).modCluster 0 (fun x => { x with hangLim := 1 })).logError 0 1 1 0 1 0
     let h := { s with groups := [⟨0, 5, 0, 2, 0, 2, 1, 3, 0, none, 0, []⟩] }
     let w := s.writeLogs 0
     let req := near.addReq (mkReq near ⟨.loadS 3 true, 0x100, 0x100, 4, none⟩ 0x100 (.plain 0) none [] .sent)
     let failed := { s with pf := { s.pf with lnkFail := vset s.pf.lnkFail 3 15, availLn := 1 } }
     let ended := h.launches.filter (fun l => l.q == 0)
     targetOf 0x100 = some .hbm ∧ 0x17FFFF < 0x180000 ∧ (w.dies.get w.logDie).log ≠ [] ∧ s.pf.availLn.getLsbD 15 = true
     ∧ failed.pf.availLn.getLsbD 15 = false ∧ s.pf.lnkFail.get 3 = 0 ∧ failed.pf.lnkFail.get 3 = 15
     ∧ req.me.reqs.map (fun r => r.stage) = [.sent] ∧ (ended.all (fun l => l.ending.isNone)) = true
     ∧ (stallEntries h ⟨0, 1, [], false, false, 0, 0⟩ ended).any (fun e => e.c == 0) = true
     ∧ (h.part 0).any (fun p => p.clusterList.all (fun i => (h.clusters.get i).hangLim != 0)) = true
     ∧ partialWork h (h.launches.filter (fun l => l.q == 0)) = true) := by
  decide +kernel

/-- Sensor 3 of stack 0 at a level, with 85, 95 and 105 degrees as thresholds and 5 degrees of hysteresis. -/
def heated (lv : Fin 4) (hot : Bool) : State :=
  { runs with hbm := { runs.hbm with
      thr := 0x569_5F5500, srIdle := Vector.replicate 512 100, sensors := vset runs.hbm.sensors 3 ⟨96, true, lv, hot⟩ } }

/-- HeatAndCurrent: each level, a stack at level 2 that stays hot, and one at level 3 with power; every state of the limiter. -/
theorem witness_heat :
    (let h := heated 2 true
     (h.hbm.sensors.get 3).level = 2 ∧ (h.hbm.sensors.get 3).hot = true ∧ ((heated 0 false).hbm.sensors.get 3).level = 0
     ∧ h.hbm.level 0 = 2 ∧ (h.hbm.layers 0).any (fun y => y.valid && decide (((h.hbm.thr.toNat / 2 ^ 16 % 256 : Nat) : Int) ≤ y.temp.toInt)) = true
     ∧ (heated 3 true).hbm.level (stackOfSensor 3) = 3 ∧ (h.hbm.stack.get (stackOfSensor 3)).powered = true
     ∧ h.hbm.srIdle.get 0 ≠ 0 ∧ h.lim = 16 ∧ ({ h with lim := 15 } : State).lim = 15 ∧ ({ h with lim := 1 } : State).lim = 1
     ∧ h.hbm.thr.toNat / 2 ^ 8 % 256 = 85 ∧ h.hbm.thr.toNat / 2 ^ 16 % 256 = 95 ∧ h.hbm.thr.toNat / 2 ^ 24 % 256 = 105) := by
  decide +kernel
/-- R430: what samples of sensor 3 leave: one level less, from 2 at 80 and from 3 at 97 degrees; the level kept from 2 at 92. -/
theorem test_samples :
    (let after := fun (lv : Fin 4) (temp : BitVec 8) => match execThermalSample 3 temp (heated lv false) with
       | .next u => ((u.hbm.sensors.get 3).level.val, (u.hbm.stack.get 0).powered)
       | _ => (9, false)
     [after 2 80, after 3 97, after 2 92] = [(1, true), (2, true), (2, true)]) := by
  decide +kernel
theorem witness_pseudo_idle : pseudoBusy (heated 0 false) 0 = false := by decide +kernel

/-- HostPort: an address below the aperture's table that faults, a missing one and one that translates; APCTL 0, the ring with one
entry waiting. -/
theorem witness_host :
    (let t := { runs with mem := (Memory.empty.writeNat 0 8 0x2001).writeNat 0x2000 8 0x33, xltRoot := vset runs.xltRoot 0 1, xltWin := vset runs.xltWin 0 0x3FFFFFFFF }
     let f := { t with pf := { t.pf with featAcc := #v[4, 0, 0, 0], featDone := true } }
     let ok := fun (s : State) (k : Kind) => match s.retranslate (mctxOf 0 0) k 0x100 with
       | .ok x => !x.enc && x.key.isNone && !s.rawAccess x && s.reachable x.pa && targetOf x.pa == some .hbm
       | _ => false
     let ring := { runs with vfs := vset runs.vfs 0 { runs.vfs.get 0 with cq := ⟨0x1000, 16, 0, 15, [[1]]⟩, table := #v[0, 0, 0] } }
     (ok t .read && ok t .write && ok t .rmw && ok f .rmw) = true ∧ (t.vfs.get 0).apctl = 0 ∧ t.lineKeys = []
     ∧ (match t.retranslate (mctxOf 0 0) .write (2 ^ 40) with | .missing _ => true | _ => false) = true
     ∧ (match t.retranslate (mctxOf 0 0) .write (2 ^ 56) with | .fault _ _ _ => true | _ => false) = true
     ∧ t.featured 2 = false ∧ f.featured 2 = true ∧ (t.part 0).isSome = true ∧ t.part 1 = none
     ∧ t.pf.featDone = false ∧ t.pf.featErr = false ∧ t.pf.featAcc = #v[0, 0, 0, 0] ∧ (t.vfs.get 0).tdi ≠ .locked
     ∧ (t.launches.any (fun l => l.onPort 3)) = false ∧ (t.vfs.get 0).cq.wait = [] ∧ (ring.vfs.get 0).cq.wait = [[1]]
     ∧ (15 + 1) % 16 ≠ 1 ∧ ((ring.vfs.get 0).table.get 0).getLsbD 96 = false) := by
  decide +kernel

/-- HostPort, the aperture's order: a walk that reads its tables, one whose lines are there, with the access's line and without;
an access behind another; a page under a key without HOSTVIS. Frozen and free interfaces, an entry that waits for a ring. -/
theorem witness_aperture :
    (let t := { runs with mem := (Memory.empty.writeNat 0 8 0x2001).writeNat 0x2000 8 0x33, xltRoot := vset runs.xltRoot 0 1, xltWin := vset runs.xltWin 0 0x3FFFFFFFF }
     let held := fun (s : State) (n : Nat) => s.modSlice (cgOf (128 * n)) (sliceOf (128 * n)) (fun x => { x with lines := ⟨n, false, false⟩ :: x.lines })
     let warm := held (held t 0) 64
     let enters := fun (s : State) => let u := s.passWalk 0 0x100
       match u.retranslate 0 .read 0x100 with
       | .ok x => x.pa == 0x100 && u.reachable x.pa && u.mayEnter x.pa 4 0
       | _ => false
     let raw := { held (held t 0) 64 with mem := t.mem.writeNat 0x2000 8 0x20000000000033 }
     let vf := runs.vfs.get 0
     (t.walkStep 0 0x100).isSome = true ∧ (warm.walkStep 0 0x100).isNone = true ∧ ((held warm 2).walkStep 0 0x100).isNone = true
     ∧ enters warm = false ∧ enters (held warm 2) = true ∧ t.aper = [] ∧ ({ t with aper := [⟨0, 0, .read 4⟩] } : State).aper ≠ []
     ∧ (raw.walkStep 0 0x100).isNone = true
     ∧ vf.tdi ≠ .locked ∧ vf.tdi ≠ .run ∧ vf.apctl ≠ 3 ∧ vf.bars.get 0 ≠ 1
     ∧ ({ vf.cq with wait := [[1]], tail := 3 } : Ring).wait = [[1]] ∧ (3 + 1) % (16 : Word).toNat ≠ 0 % (16 : Word).toNat) := by
  decide +kernel

/-- ReadinessAndReset: units available and not. -/
theorem witness_readiness :
    (let s := { runs with pf := { runs.pf with availCl := 1 } }
     s.pf.availCl.getLsbD 0 = true ∧ s.pf.availCl.getLsbD 1 = false ∧ s.pf.availRg.getLsbD 127 = true ∧ s.pf.availCg.getLsbD 31 = true
     ∧ (s.hbm.stack.get (stackOf 31)).powered = true) := by
  decide +kernel

/-- Function 0 in a session of the given stage, its partition with slot 9 and its slot loaded or empty. -/
def secured (n : Nat) (ks : List KeySlot) : State :=
  { runs with
    parts := [⟨0, 1, [9], false, false, 0, 0⟩], keys := ks
    vfs := vset runs.vfs 0 { runs.vfs.get 0 with tdi := .locked } }.modSpdm (.vf 0) (fun x => { x with session := n })

/-- AttestationAndKeys and InterfacesAndPartitions: sessions, leaves, a slot held and empty, owned or not, the features. -/
theorem witness_security :
    (let a := secured 2 []
     let b := secured 1 [⟨9, 5, true⟩]
     let c := { a with pf := { a.pf with featAcc := #v[3, 0, 0, 0], featDone := true } }
     let n := { a with parts := [], vfs := runs.vfs }
     (a.responder (.vf 0)).session = 2 ∧ (b.responder (.vf 0)).session = 1 ∧ a.leaves.alNext < 2 ^ 20 ∧ a.leaves.idNext < 2 ^ 20
     ∧ (a.part 0).any (fun p => p.keys.contains 9 && !p.keys.contains 8) = true ∧ a.keys.find? (fun k => k.slot == 9) = none
     ∧ b.keys.find? (fun k => k.slot == 9) = some ⟨9, 5, true⟩ ∧ a.featured 0 = false ∧ c.featured 0 = true ∧ a.featured 1 = false ∧ c.featured 1 = true
     ∧ (c.responder (.vf 0)).session = 2 ∧ (a.vfs.get 0).tdi = .locked ∧ (n.vfs.get 0).tdi = .unlocked
     ∧ n.part 0 = none ∧ (1#32 &&& ~~~n.pf.availCl) = 0 ∧ (1#32 &&& n.pf.availCg) ≠ 0 ∧ n.parts = []) := by
  decide +kernel
theorem witness_key_idle : keyInUse (secured 2 [⟨9, 5, true⟩]) 5 = false := by decide +kernel
theorem witness_key_held :
    (let s := (secured 2 [⟨9, 5, true⟩]).modCtx (.tile 0 0) (fun c => { c with wcb := [⟨2, List.replicate 128 1, List.replicate 128 true, true, 0, some 5, by0, 0x100, 0x100, [], 0⟩] })
     keyInUse s 5 = true ∧ (s.responder (.vf 0)).session = 2 ∧ s.keys.find? (fun k => k.slot == 9) = some ⟨9, 5, true⟩) := by decide +kernel
/-- R422: while a request holds the slot it is empty for others, and the response comes when none holds it; a load of the slot
waits behind the erasure. -/
theorem test_erase_waits :
    (let s := (secured 2 [⟨9, 5, true⟩]).modCtx (.tile 0 0) (fun c => { c with wcb := [⟨2, List.replicate 128 1, List.replicate 128 true, true, 0, some 5, by0, 0x100, 0x100, [], 0⟩] })
     match execKeyerase 0 9 s with
     | .next u =>
       let v := runKeyJobs (u.modCtx (.tile 0 0) (fun c => { c with wcb := [] }))
       u.keys.isEmpty && (u.responder (.vf 0)).answer == .none && (runKeyJobs u).erasing == [.erase 0 9 (some 5) [] true]
         && v.erasing.isEmpty && (v.responder (.vf 0)).answer == .status 0 && u.erasing.any (fun j => KeyJob.slot j == 9)
     | _ => false) = true := by decide +kernel

/-- WordFrames: a register word and a global one that answer a next state. -/
theorem witness_frames :
    (registerDests (.add hd 3 1 2 .i32 false)).isSome = true ∧ (match exec (.add hd 3 1 2 .i32 false) runs with | .next _ => true | _ => false) = true
    ∧ globalWord (.ld hd false 1 0 ⟨1, 2, 0⟩ ⟨0, 0, 0⟩) = true ∧ (match exec (.ld hd false 1 0 ⟨1, 2, 0⟩ ⟨0, 0, 0⟩) mapped with | .next _ => true | _ => false) = true := by
  decide +kernel

/-- ScalarDivision, LoadImmediateWords and VectorImmediateWords: words of each form, and words that are reserved or unassigned. -/
theorem witness_immediate_words :
    (let fs := fun (w : Nat) (op d a : Nat) => field w 51 5 != 16 && field w 56 8 == op && field w 45 6 == d && field w 39 6 == a
     let ldih := 0x0800_A300_0000_0080
     let vptest := 0x4D00_6200_0004_0000
     let vldi := 0x4E00_A000_0000_0080
     (fs 0x0700_BFFF_FFFF_FFFF 7 5 63 && fs ldih 8 5 6 && fs (ldih + 3) 8 5 6 && fs vptest 0x4D 3 4
       && fs (vptest + 5 * 2 ^ 20) 0x4D 3 4 && fs (vptest + 2 ^ 33) 0x4D 3 4 && fs vldi 0x4E 5 0
       && fs (vldi + 2) 0x4E 5 0 && fs (vldi + 3) 0x4E 5 0 && fs (vldi + 2 ^ 39) 0x4E 5 1) = true
     ∧ field ldih 0 7 = 0 ∧ field (ldih + 3) 0 7 = 3 ∧ field vptest 20 7 = 0 ∧ field (vptest + 5 * 2 ^ 20) 20 7 = 5
     ∧ field vptest 12 5 = 0 ∧ field (vptest + 2 ^ 33) 33 6 = 1 ∧ field vldi 0 7 = 0
     ∧ fs 0x0100_0000_0040_0001 1 0 0 = true ∧ field 0x0100_0000_0040_0001 20 7 = 4 ∧ field 0x0100_0000_0040_0001 0 1 = 1
     ∧ decodeTableWord 64 vptest = some (.vptest hd 3 4 2)) := by
  decide +kernel

/-! ### The networks -/

/-- R374: X before Y, the shorter direction, the positive one for 4 hops; over the seam at column 0. -/
theorem test_packet_paths :
    (pathOf 17 ⟨0, 1, 1⟩ ⟨0, 7, 5⟩).map (fun r => (r.x.val, r.y.val)) = [(1, 1), (0, 1), (7, 1), (7, 2), (7, 3), (7, 4), (7, 5)]
    ∧ (pathOf 17 ⟨0, 1, 3⟩ ⟨1, 1, 2⟩).map (fun r => (r.die.val, r.x.val, r.y.val)) = [(0, 1, 3), (0, 0, 3), (1, 0, 3), (1, 1, 3), (1, 1, 2)] := by
  decide +kernel

/-- R375, R376: a ring's buffer with one free place takes a packet that is on the ring, not one that enters; an aged packet goes
before the round-robin. -/
theorem test_packet_rules :
    (let p := fun (id : Nat) (at_ : Router) (port : Nat) (age : Fin 2048) => (⟨id, 0, ⟨0, 4, 0⟩, at_, port, age⟩ : Packet)
     let full : Net := ⟨(List.range 3).map (fun i => p i ⟨0, 2, 0⟩ 0 0), []⟩
     let two := fun (a b : Fin 2048) => (⟨[p 1 ⟨0, 1, 0⟩ 0 a, p 2 ⟨0, 1, 0⟩ 5 b], [((⟨0, 1, 0⟩, .x true), 0)]⟩ : Net)
     full.mayGo ⟨0, 1, 0⟩ 0 0 (.x true) = true ∧ full.mayGo ⟨0, 1, 0⟩ 5 0 (.x true) = false
     ∧ ((two 3 9).winner ⟨0, 1, 0⟩ (.x true)).map (fun p => p.id) = some 2
     ∧ ((two 1500 9).winner ⟨0, 1, 0⟩ (.x true)).map (fun p => p.id) = some 1) := by
  decide +kernel

/-- R373: a beat gives back the token that it packs, and a run its zero tokens. -/
theorem test_beats :
    (let t : Token := ⟨BitVec.ofNat 512 (5 + 7 * 2 ^ 96), true, false, 2⟩
     (expandBeat [] (packToken 16 t)).1 = [t] ∧ (expandBeat [] (packRun 3 4)).1 = List.replicate 4 ⟨0, false, false, 3⟩) := by
  decide +kernel

/-- R369: a route holds two beats in each box, and hands the oldest on when its consumer is ready. -/
theorem test_route : routeCycle true (some 4) [[3], [1, 2]] = ([[3, 4], [2]], some 1) ∧ routeTakes [[1, 2]] = false := by
  decide +kernel

end Sys2Proof.Tests
end

/-! Division and remainder, and the load of immediates (04_scalar_control.md, R106, R111, R112). -/

namespace Sys2Proof.Laws

/-- The mask of R52 is zero exactly when no field contributes a bit. -/
theorem foldl_or_eq_zero_iff (l : List Nat) (a : Nat) :
    l.foldl (fun x y => x ||| y) a = 0 ↔ a = 0 ∧ ∀ x ∈ l, x = 0 := by
  induction l generalizing a with
  | nil => simp
  | cons y l ih => simp only [List.foldl_cons, ih, Nat.or_eq_zero_iff, List.forall_mem_cons, and_assoc]

/-- No selector is unassigned and some bit is reserved: the word is reserved (cause 0x02 of R52). -/
theorem form_reserved {op : Nat} {sels : List (Bool × Nat)} {res : List Nat} {i : Instr} {x : Nat}
    (hsel : ∀ p ∈ sels, p.1 = false) (hx : x ∈ res) (h0 : x ≠ 0) :
    form op sels res i = .reserved (res.foldl (fun x y => x ||| y) 0) := by
  have hfind : sels.find? (fun p => p.1) = none := by
    rw [List.find?_eq_none]; intro p hp; simp [hsel p hp]
  have hmask : res.foldl (fun x y => x ||| y) 0 ≠ 0 :=
    fun h => h0 (((foldl_or_eq_zero_iff res 0).mp h).2 x hx)
  simp only [form, hfind, if_neg hmask]

/-- The first selector is unassigned: the word is illegal, whatever else it holds (cause 0x01 of R52). -/
theorem form_illegal (op v : Nat) (sels : List (Bool × Nat)) (res : List Nat) (i : Instr) :
    form op ((true, v) :: sels) res i = .illegal (op + 256 * v) := rfl

/-- A word of OP 0x01 to 0x23 that is no never form has its class decoded, on a tile and on the management
core alike (R53). -/
theorem decodeBytes_scalar {m : Bool} {w : Word} {op : Nat} (hn : field w.toNat 51 5 ≠ 16)
    (hop : field w.toNat 56 8 = op) (hlo : 1 ≤ op) (hhi : op ≤ 0x23) :
    decodeBytes m (wordBytes w) = some (decScalar op w.toNat (hdrOf w.toNat)) := by
  have hm : mgmtOp op = true := by simp [mgmtOp, hlo, hhi]
  have ht : op < 0x30 := by omega
  simp only [decode_word, decodeNat, hop, if_neg hn, hm, Bool.not_true, Bool.and_false, Bool.false_eq_true, if_false,
    decOp, if_pos ht]

/-- TY 0 to 7 are the integer types that scalar arithmetic takes (R98). -/
theorem tyBad_ints_of_le {c : Nat} (h : c ≤ 7) : tyBad tyInts c = (false, c) := by
  interval_cases c <;> rfl

/-- SAT is reserved with FN 0x03 to 0x07 (R105, R106). -/
theorem decArith_sat_reserved {w : Nat} {h : Hdr} (hlo : 3 ≤ field w 20 7) (hhi : field w 20 7 ≤ 7)
    (hty : field w 12 5 ≤ 7) (hsat : field w 0 1 = 1) : ∃ k, decArith w h = .reserved k := by
  have hsel : ∀ p ∈ [tyBad tyInts (field w 12 5)], p.1 = false := by simp [tyBad_ints_of_le hty]
  have hbit : resv 0 1 (field w 0 1 == 1 && !false) ≠ 0 := by rw [hsat]; decide
  have hform : ∃ i, decArith w h = form 1 [tyBad tyInts (field w 12 5)]
      [regf w 45 32 1, regf w 39 32 1, regf w 33 32 1, unused w 27 6, unused w 17 3, unused w 1 11,
        resv 0 1 (field w 0 1 == 1 && !false)] i := by
    have hfn : field w 20 7 = 3 ∨ field w 20 7 = 4 ∨ field w 20 7 = 5 ∨ field w 20 7 = 6 ∨ field w 20 7 = 7 := by omega
    rcases hfn with hfn | hfn | hfn | hfn | hfn <;> (simp only [decArith, hfn]; exact ⟨_, rfl⟩)
  obtain ⟨i, hi⟩ := hform
  exact ⟨_, hi.trans (form_reserved hsel (by simp) hbit)⟩

/-- A word of OP 0x07 whose D names a register is ldi (R111). -/
theorem decodeBytes_ldi {m : Bool} {w : Word} (hn : field w.toNat 51 5 ≠ 16) (hop : field w.toNat 56 8 = 7)
    (hd : field w.toNat 45 6 < 32) : decodeBytes m (wordBytes w)
      = some (.instr (.ldi (hdrOf w.toNat) (f5 w.toNat 45) (BitVec.ofNat 45 (field w.toNat 0 45)))) := by
  have hD : regf w.toNat 45 32 1 = 0 := regf_of rfl hd
  rw [decodeBytes_scalar hn hop (by decide) (by decide), decScalar, form_of (by simp) (by simp [hD])]

/-- A word of OP 0x08 and FN7 0x00 whose D and A name registers is ldih (R112). -/
theorem decodeBytes_ldih {m : Bool} {w : Word} (hn : field w.toNat 51 5 ≠ 16) (hop : field w.toNat 56 8 = 8)
    (hfn : field w.toNat 0 7 = 0) (hd : field w.toNat 45 6 < 32) (ha : field w.toNat 39 6 < 32) :
    decodeBytes m (wordBytes w) = some (.instr (.ldih (hdrOf w.toNat) (f5 w.toNat 45) (f5 w.toNat 39)
      (BitVec.ofNat 32 (field w.toNat 7 32)))) := by
  have hD : regf w.toNat 45 32 1 = 0 := regf_of rfl hd
  have hA : regf w.toNat 39 32 1 = 0 := regf_of rfl ha
  rw [decodeBytes_scalar hn hop (by decide) (by decide), decScalar, form_of (by simp [hfn]) (by simp [hD, hA])]

/-- A word of OP 0x08 with another FN7 is illegal (R112). -/
theorem decodeBytes_ldih_illegal {m : Bool} {w : Word} (hn : field w.toNat 51 5 ≠ 16) (hop : field w.toNat 56 8 = 8)
    (hfn : field w.toNat 0 7 ≠ 0) : decodeBytes m (wordBytes w) = some (.illegal (8 + 256 * field w.toNat 0 7)) := by
  have hsel : (field w.toNat 0 7 != 0) = true := by simpa using hfn
  rw [decodeBytes_scalar hn hop (by decide) (by decide)]
  simp only [decScalar, hsel, form_illegal]

end Sys2Proof.Laws

namespace Sys2Proof.Machine

/-! The cases of Table 4.3. -/

theorem quot_zero (t : Ty) (a : Int) : quot t a 0 = -1 := rfl
theorem remOf_zero (t : Ty) (a : Int) : remOf t a 0 = a := rfl

theorem quot_lo_neg_one {t : Ty} (hs : t.signed = true) : quot t t.lo (-1) = t.lo := by simp [quot, hs]
theorem remOf_lo_neg_one {t : Ty} (hs : t.signed = true) : remOf t t.lo (-1) = 0 := by simp [remOf, hs]

theorem quot_eq_tdiv {t : Ty} {a b : Int} (h0 : b ≠ 0) (h1 : ¬(t.signed = true ∧ a = t.lo ∧ b = -1)) :
    quot t a b = a.tdiv b := by rw [quot, if_neg h0, if_neg h1]
theorem remOf_eq_sub_tdiv {t : Ty} {a b : Int} (h0 : b ≠ 0) (h1 : ¬(t.signed = true ∧ a = t.lo ∧ b = -1)) :
    remOf t a b = a - b * a.tdiv b := by rw [remOf, if_neg h0, if_neg h1, quot_eq_tdiv h0 h1]

/-- Without SAT the exact result is written by Put alone. -/
theorem arith_wrap (t : Ty) (f : Int → Int → Int) (x y : Word) :
    arith t false f x y = t.put (f (t.val x.toNat) (t.val y.toNat)) := rfl

/-- A division that takes effect writes Quot of the two values. -/
theorem exec_div_ready {h : Hdr} {d a b : Fin 32} {ty : Ty} {s : State} (hr : ready (.div h d a b ty) s = true) :
    exec (.div h d a b ty) s = .next (wroteS s d
      (ty.put (quot ty (ty.val (s.me.readS a).toNat) (ty.val (s.me.readS b).toNat))) (s.me.poisS a || s.me.poisS b)) := by
  rw [exec_div, execDiv, scalar2_ready rfl hr, arith_wrap]

/-- A remainder that takes effect writes Rem of the two values. -/
theorem exec_rem_ready {h : Hdr} {d a b : Fin 32} {ty : Ty} {s : State} (hr : ready (.rem h d a b ty) s = true) :
    exec (.rem h d a b ty) s = .next (wroteS s d
      (ty.put (remOf ty (ty.val (s.me.readS a).toNat) (ty.val (s.me.readS b).toNat))) (s.me.poisS a || s.me.poisS b)) := by
  rw [exec_rem, execRem, scalar2_ready rfl hr, arith_wrap]

/-- Settles O11: Quot and Rem case by case of Table 4.3, and the reserved SAT bit in the mask of R52. -/
theorem scalarDivision : Obligations.ScalarDivision := by
  refine ⟨fun h d a b ty s => ⟨fun hr => ?_, fun hr => ?_⟩, fun m w hn hop hlo hhi hty hsat => ?_⟩
  · rw [exec_div_ready hr]
    refine ⟨fun h0 => ?_, fun hs hx hy => ?_, fun h0 h1 => ?_⟩
    · rw [h0, quot_zero]
    · rw [hx, hy, quot_lo_neg_one hs]
    · rw [quot_eq_tdiv h0 h1]
  · rw [exec_rem_ready hr]
    refine ⟨fun h0 => ?_, fun hs hx hy => ?_, fun h0 h1 => ?_⟩
    · rw [h0, remOf_zero]
    · rw [hx, hy, remOf_lo_neg_one hs]
    · rw [remOf_eq_sub_tdiv h0 h1]
  · obtain ⟨k, hk⟩ := Laws.decArith_sat_reserved (h := hdrOf w.toNat) hlo hhi hty hsat
    exact ⟨k, (Laws.decodeBytes_scalar hn hop (by decide) (by decide)).trans (congrArg some hk)⟩

/-- The high half from an immediate over the low half of a word, as a number (R112). -/
theorem append_truncate_eq_ofNat (imm : BitVec 32) (x : Word) :
    imm ++ x.truncate 32 = BitVec.ofNat 64 (x.toNat % 2 ^ 32 + imm.toNat * 2 ^ 32) := by
  apply BitVec.eq_of_toNat_eq
  have hlow : x.toNat % 2 ^ 32 < 2 ^ 32 := Nat.mod_lt _ (by decide)
  have himm := imm.isLt
  rw [BitVec.toNat_append, BitVec.toNat_ofNat, BitVec.truncate_eq_setWidth, BitVec.toNat_setWidth,
    ← Nat.shiftLeft_add_eq_or_of_lt hlow, Nat.shiftLeft_eq]
  omega

/-- An ldi that takes effect writes its immediate, clean. -/
theorem exec_ldi_ready {h : Hdr} {d : Fin 32} {l : BitVec 45} {s : State} (hr : ready (.ldi h d l) s = true) :
    exec (.ldi h d l) s = .next (wroteS s d (l.signExtend 64) false) := by
  rw [exec_ldi, execLdi, scalar0_ready rfl hr]

/-- An ldih that takes effect writes its immediate above the low half of its source, with the poison of the source. -/
theorem exec_ldih_ready {h : Hdr} {d a : Fin 32} {imm : BitVec 32} {s : State} (hr : ready (.ldih h d a imm) s = true) :
    exec (.ldih h d a imm) s = .next (wroteS s d
      (BitVec.ofNat 64 ((s.me.readS a).toNat % 2 ^ 32 + imm.toNat * 2 ^ 32)) (s.me.poisS a)) := by
  rw [exec_ldih, execLdih, scalar1_ready rfl hr, append_truncate_eq_ofNat]

/-- Settles O13: the words by the checks of R52, the results by the shared scalar forms. -/
theorem loadImmediateWords : Obligations.LoadImmediateWords := by
  intro m w hn
  refine ⟨fun hop hd => ⟨?_, fun s hr => ?_⟩, fun hop hfn hd ha => ⟨?_, fun s hr => ?_⟩, fun hop hfn => ?_⟩
  · exact Laws.decodeBytes_ldi hn hop hd
  · exact exec_ldi_ready hr
  · exact Laws.decodeBytes_ldih hn hop hfn hd ha
  · exact exec_ldih_ready hr
  · exact Laws.decodeBytes_ldih_illegal hn hop hfn

end Sys2Proof.Machine

/-! The words of vptest and of the vector immediates (06_vector.md, R196, R197). -/

namespace Sys2Proof.Laws

/-- A set bit of an unused field stands in the mask of R52. -/
theorem unused_ne_zero {w lo n : Nat} (h : field w lo n ≠ 0) : unused w lo n ≠ 0 :=
  Nat.mul_ne_zero h (Nat.two_pow_pos lo).ne'

/-- OP 0x40 to 0x4F are the vector class of Table 2.9. -/
theorem decOp_vector {op : Nat} (w : Nat) (h : Hdr) (hlo : 0x40 ≤ op) (hhi : op ≤ 0x4F) :
    decOp false op w h = decVector op w h := by
  have hscalar : ¬op < 0x30 := by omega
  have hedge : ¬op < 0x33 := by omega
  have hbelow : ∀ n < 0x40, op ≠ n := by omega
  simp [decOp, hlo, hhi, hscalar, hedge, hbelow]

/-- A word of OP 0x40 to 0x4F that is no never form has its vector class decoded. -/
theorem decodeBytes_vector {w : Word} {op : Nat} (hn : field w.toNat 51 5 ≠ 16) (hop : field w.toNat 56 8 = op)
    (hlo : 0x40 ≤ op) (hhi : op ≤ 0x4F) :
    decodeBytes false (wordBytes w) = some (decVector op w.toNat (hdrOf w.toNat)) := by
  simp only [decode_word, decodeNat, hop, if_neg hn, Bool.false_and, Bool.false_eq_true, if_false, decOp_vector _ _ hlo hhi]

/-- FN 0x01 to 0x7F of vptest are unassigned (R196). -/
theorem decVPtest_illegal {w : Nat} (h : Hdr) (hfn : field w 20 7 ≠ 0) :
    decVPtest w h = .illegal (0x4D + 256 * field w 20 7) := by
  have hsel : (field w 20 7 != 0) = true := by simpa using hfn
  simp only [decVPtest, hsel, form_illegal]

/-- Set bits of B, C or MOD of vptest are reserved (R196). -/
theorem decVPtest_reserved {w : Nat} (h : Hdr) (hfn : field w 20 7 = 0) (hty : field w 12 5 = 0)
    (hset : field w 33 6 ≠ 0 ∨ field w 27 6 ≠ 0 ∨ field w 0 12 ≠ 0) : ∃ r, decVPtest w h = .reserved r := by
  have hsel : ∀ p ∈ [(field w 20 7 != 0, field w 20 7), (field w 12 5 != 0, field w 12 5)], p.1 = false := by
    simp [hfn, hty]
  rcases hset with hB | hC | hM
  · exact ⟨_, form_reserved hsel (x := unused w 33 6) (by simp) (unused_ne_zero hB)⟩
  · exact ⟨_, form_reserved hsel (x := unused w 27 6) (by simp) (unused_ne_zero hC)⟩
  · exact ⟨_, form_reserved hsel (x := unused w 0 12) (by simp) (unused_ne_zero hM)⟩

/-- D names a mask register and A a vector register of vptest, and nothing else is set (R196). -/
theorem decVPtest_instr {w : Nat} (h : Hdr) (hfn : field w 20 7 = 0) (hty : field w 12 5 = 0)
    (hB : field w 33 6 = 0) (hC : field w 27 6 = 0) (hM : field w 0 12 = 0) (hd : field w 45 6 < 8)
    (ha : field w 39 6 < 32) :
    decVPtest w h = .instr (.vptest h (f3 w 45) (f5 w 39) (Fin.ofNat 8 (field w 17 3))) := by
  have hD : regf w 45 8 1 = 0 := regf_of rfl hd
  have hA : regf w 39 32 1 = 0 := regf_of rfl ha
  exact form_of (by simp [hfn, hty]) (by simp [hD, hA, unused_of hB, unused_of hC, unused_of hM])

/-- FN7 from 3 on are unassigned (R197). -/
theorem decVImm_illegal {w : Nat} (h : Hdr) (hfn : 3 ≤ field w 0 7) :
    decVImm w h = .illegal (0x4E + 256 * field w 0 7) := by
  obtain ⟨v, hv⟩ := Nat.exists_eq_add_of_le' hfn
  simp only [decVImm, hv, noFn]

/-- The instruction that FN7 0 to 2 selects, under the checks on D and A that the three share (R197). -/
theorem decVImm_form (w : Nat) (h : Hdr) :
    let checked := form 0x4E [] [regf w 45 32 1, unused w 39 6]
    let imm := BitVec.ofNat 32 (field w 7 32)
    (field w 0 7 = 0 → decVImm w h = checked (.vldi h (f5 w 45) imm))
    ∧ (field w 0 7 = 1 → decVImm w h = checked (.vldiI64 h (f5 w 45) imm))
    ∧ (field w 0 7 = 2 → decVImm w h = checked (.viota h (f5 w 45) imm)) := by
  refine ⟨fun hfn => ?_, fun hfn => ?_, fun hfn => ?_⟩ <;> simp only [decVImm, hfn]

/-- D names a vector register and A is clear: no check of the vector immediates fails (R197). -/
theorem form_vImm_instr {w : Nat} (i : Instr) (hA : field w 39 6 = 0) (hd : field w 45 6 < 32) :
    form 0x4E [] [regf w 45 32 1, unused w 39 6] i = .instr i := by
  have hD : regf w 45 32 1 = 0 := regf_of rfl hd
  exact form_of (by simp) (by simp [hD, unused_of hA])

/-- Set bits of A of a vector immediate are reserved (R197). -/
theorem decVImm_reserved {w : Nat} (h : Hdr) (hfn : field w 0 7 < 3) (hA : field w 39 6 ≠ 0) :
    ∃ r, decVImm w h = .reserved r := by
  have hres : ∀ i, ∃ r, form 0x4E [] [regf w 45 32 1, unused w 39 6] i = .reserved r := fun i =>
    ⟨_, form_reserved (x := unused w 39 6) (by simp) (by simp) (unused_ne_zero hA)⟩
  obtain ⟨hvldi, hvldiI64, hviota⟩ := decVImm_form w h
  have hcases : field w 0 7 = 0 ∨ field w 0 7 = 1 ∨ field w 0 7 = 2 := by omega
  rcases hcases with h0 | h1 | h2
  · rw [hvldi h0]; exact hres _
  · rw [hvldiI64 h1]; exact hres _
  · rw [hviota h2]; exact hres _

end Sys2Proof.Laws

namespace Sys2Proof.Machine

/-- Every element of V[d] takes the value that f gives, clean and without events (R197). -/
theorem vecFill_ready {i : Instr} {d : Fin 32} {t : Ty} {f : Nat → Nat} {s : State} (hw : i.clauses.wn = 0)
    (hr : ready i s = true) :
    vecFill i d t f s = .next (wentV s d t (fun _ => true) (fun j => ElemOut.mk (f j) false Ev.zero)) :=
  vecInto_ready hw hr

/-- A vptest that takes effect writes the poison bits that its mask selects (R196). -/
theorem exec_vptest_ready {h : Hdr} {d : Fin 8} {a : Fin 32} {k : Fin 8} {s : State}
    (hr : ready (.vptest h d a k) s = true) :
    exec (.vptest h d a k) s = .next (wroteK s d (s.me.readK k &&& (s.me.readV a).poison)) := by
  rw [exec_vptest, execVptest, vecMaskOut_ready rfl hr]

/-- Settles O26: the words by the checks of R52, the results by the shared mask and fill forms. -/
theorem vectorImmediateWords : Obligations.VectorImmediateWords := by
  intro w hn
  refine ⟨fun hop => ?vptest, fun hop => ?immediates⟩
  case vptest =>
    rw [Laws.decodeBytes_vector hn hop (by decide) (by decide), decVector]
    refine ⟨fun hfn => ?_, fun hfn hty => ⟨fun hset => ?_, fun hB hC hM hd ha => ⟨?_, fun s hr => ?_⟩⟩⟩
    · rw [Laws.decVPtest_illegal _ hfn]
    · obtain ⟨r, hr⟩ := Laws.decVPtest_reserved (hdrOf w.toNat) hfn hty hset
      exact ⟨r, congrArg some hr⟩
    · exact congrArg some (Laws.decVPtest_instr _ hfn hty hB hC hM hd ha)
    · exact exec_vptest_ready hr
  case immediates =>
    obtain ⟨hvldi, hvldiI64, hviota⟩ := Laws.decVImm_form w.toNat (hdrOf w.toNat)
    rw [Laws.decodeBytes_vector hn hop (by decide) (by decide), decVector]
    refine ⟨fun hfn => ?_, fun hfn hA => ?_, fun hA hd => ⟨fun hfn => ⟨?_, fun s hr => ?_⟩,
      fun hfn => ⟨?_, fun s hr => ?_⟩, fun hfn => ⟨?_, fun s hr => ?_⟩⟩⟩
    · rw [Laws.decVImm_illegal _ hfn]
    · obtain ⟨r, hr⟩ := Laws.decVImm_reserved (hdrOf w.toNat) hfn hA
      exact ⟨r, congrArg some hr⟩
    · exact congrArg some ((hvldi hfn).trans (Laws.form_vImm_instr _ hA hd))
    · rw [exec_vldi, execVldi, vecFill_ready rfl hr]
    · exact congrArg some ((hvldiI64 hfn).trans (Laws.form_vImm_instr _ hA hd))
    · rw [exec_vldiI64, execVldiI64, vecFill_ready rfl hr]
    · exact congrArg some ((hviota hfn).trans (Laws.form_vImm_instr _ hA hd))
    · rw [exec_viota, execViota, vecFill_ready rfl hr]

end Sys2Proof.Machine

/-! ## Encoding, issue and outcomes (02_encoding.md, 14_traps.md). -/

namespace Sys2Proof.Laws

/-- The round trip of every instruction, from those of its constructors. -/
theorem roundTrip : ∀ i : Instr, RoundTrip.Statement i
  | .nop op rest => RoundTrip.nop op rest
  | .add h d a b ty sat => RoundTrip.add h d a b ty sat
  | .sub h d a b ty sat => RoundTrip.sub h d a b ty sat
  | .mul h d a b ty sat => RoundTrip.mul h d a b ty sat
  | .mulh h d a b ty => RoundTrip.mulh h d a b ty
  | .div h d a b ty => RoundTrip.div h d a b ty
  | .rem h d a b ty => RoundTrip.rem h d a b ty
  | .min h d a b ty => RoundTrip.min h d a b ty
  | .max h d a b ty => RoundTrip.max h d a b ty
  | .and h d a b ty => RoundTrip.and h d a b ty
  | .or h d a b ty => RoundTrip.or h d a b ty
  | .xor h d a b ty => RoundTrip.xor h d a b ty
  | .andn h d a b ty => RoundTrip.andn h d a b ty
  | .shl h d a b ty => RoundTrip.shl h d a b ty
  | .shr h d a b ty => RoundTrip.shr h d a b ty
  | .sar h d a b ty => RoundTrip.sar h d a b ty
  | .rol h d a b ty => RoundTrip.rol h d a b ty
  | .cmp h cond d c a b ty => RoundTrip.cmp h cond d c a b ty
  | .clz h d a ty => RoundTrip.clz h d a ty
  | .ctz h d a ty => RoundTrip.ctz h d a ty
  | .popc h d a ty => RoundTrip.popc h d a ty
  | .bswap h d a ty => RoundTrip.bswap h d a ty
  | .sext h d a b => RoundTrip.sext h d a b
  | .addi h d a imm => RoundTrip.addi h d a imm
  | .muli h d a imm => RoundTrip.muli h d a imm
  | .andi h d a imm => RoundTrip.andi h d a imm
  | .ori h d a imm => RoundTrip.ori h d a imm
  | .xori h d a imm => RoundTrip.xori h d a imm
  | .shli h d a n => RoundTrip.shli h d a n
  | .shri h d a n => RoundTrip.shri h d a n
  | .sari h d a n => RoundTrip.sari h d a n
  | .cmpi h cond d a ty imm => RoundTrip.cmpi h cond d a ty imm
  | .ldi h d imm => RoundTrip.ldi h d imm
  | .ldih h d a imm => RoundTrip.ldih h d a imm
  | .lea h d a b sh disp => RoundTrip.lea h d a b sh disp
  | .sel h d c a b => RoundTrip.sel h d c a b
  | .movSS h d a => RoundTrip.movSS h d a
  | .movPS h d a => RoundTrip.movPS h d a
  | .movSP h d a => RoundTrip.movSP h d a
  | .movKS h d a => RoundTrip.movKS h d a
  | .movSK h d a => RoundTrip.movSK h d a
  | .movKK h d a => RoundTrip.movKK h d a
  | .bra h cond a off => RoundTrip.bra h cond a off
  | .call h a off => RoundTrip.call h a off
  | .jmp h d a => RoundTrip.jmp h d a
  | .ret h a => RoundTrip.ret h a
  | .pset h d v => RoundTrip.pset h d v
  | .pand h d a b na nb => RoundTrip.pand h d a b na nb
  | .por h d a b na nb => RoundTrip.por h d a b na nb
  | .pxor h d a b na nb => RoundTrip.pxor h d a b na nb
  | .pnot h d a => RoundTrip.pnot h d a
  | .epop h x slot n1 cl => RoundTrip.epop h x slot n1 cl
  | .epeek h x slot z n1 cl => RoundTrip.epeek h x slot z n1 cl
  | .epush h x slot n1 cl => RoundTrip.epush h x slot n1 cl
  | .eeos h slot cl => RoundTrip.eeos h slot cl
  | .estat h x slot cl => RoundTrip.estat h x slot cl
  | .tqsig h tq n cl => RoundTrip.tqsig h tq n cl
  | .tqwait h cl => RoundTrip.tqwait h cl
  | .tqrd h x tq cl => RoundTrip.tqrd h x tq cl
  | .endF h => RoundTrip.endF h
  | .actena h a => RoundTrip.actena h a
  | .actdis h a => RoundTrip.actdis h a
  | .gjoin h x y cl => RoundTrip.gjoin h x y cl
  | .gleave h arr y cl => RoundTrip.gleave h arr y cl
  | .garrive h x y cl => RoundTrip.garrive h x y cl
  | .gwait h y z cl => RoundTrip.gwait h y z cl
  | .gbar h x y cl => RoundTrip.gbar h x y cl
  | .gred h op ty x y z cl => RoundTrip.gred h op ty x y z cl
  | .launch h x y cl => RoundTrip.launch h x y cl
  | .vadd h d a b k ty sat => RoundTrip.vadd h d a b k ty sat
  | .vsub h d a b k ty sat => RoundTrip.vsub h d a b k ty sat
  | .vmul h d a b k ty sat => RoundTrip.vmul h d a b k ty sat
  | .vmulh h d a b k ty => RoundTrip.vmulh h d a b k ty
  | .vmin h d a b k ty => RoundTrip.vmin h d a b k ty
  | .vmax h d a b k ty => RoundTrip.vmax h d a b k ty
  | .vabs h d a k ty sat => RoundTrip.vabs h d a k ty sat
  | .vneg h d a k ty sat => RoundTrip.vneg h d a k ty sat
  | .vaddFp h d a b k ty => RoundTrip.vaddFp h d a b k ty
  | .vsubFp h d a b k ty => RoundTrip.vsubFp h d a b k ty
  | .vmulFp h d a b k ty => RoundTrip.vmulFp h d a b k ty
  | .vminFp h d a b k ty => RoundTrip.vminFp h d a b k ty
  | .vmaxFp h d a b k ty => RoundTrip.vmaxFp h d a b k ty
  | .vabsFp h d a k ty => RoundTrip.vabsFp h d a k ty
  | .vnegFp h d a k ty => RoundTrip.vnegFp h d a k ty
  | .vfma h d a b c k ty => RoundTrip.vfma h d a b c k ty
  | .vfms h d a b c k ty => RoundTrip.vfms h d a b c k ty
  | .vfnma h d a b c k ty => RoundTrip.vfnma h d a b c k ty
  | .vdot2 h d a b c k ty => RoundTrip.vdot2 h d a b c k ty
  | .vdot4 h d a b c k ty => RoundTrip.vdot4 h d a b c k ty
  | .vcmp h cond d a b k ty => RoundTrip.vcmp h cond d a b k ty
  | .vand h d a b k ty => RoundTrip.vand h d a b k ty
  | .vor h d a b k ty => RoundTrip.vor h d a b k ty
  | .vxor h d a b k ty => RoundTrip.vxor h d a b k ty
  | .vandn h d a b k ty => RoundTrip.vandn h d a b k ty
  | .vshl h d a b k ty => RoundTrip.vshl h d a b k ty
  | .vshr h d a b k ty => RoundTrip.vshr h d a b k ty
  | .vsar h d a b k ty => RoundTrip.vsar h d a b k ty
  | .vsel h d c a b ty => RoundTrip.vsel h d c a b ty
  | .vcvt h d a k ty sty part => RoundTrip.vcvt h d a k ty sty part
  | .vqmx h d a c ty sty part => RoundTrip.vqmx h d a c ty sty part
  | .vdqmx h d a c k ty sty part => RoundTrip.vdqmx h d a c k ty sty part
  | .vexp2 h d a k => RoundTrip.vexp2 h d a k
  | .vlog2 h d a k => RoundTrip.vlog2 h d a k
  | .vrcp h d a k => RoundTrip.vrcp h d a k
  | .vrsqrt h d a k => RoundTrip.vrsqrt h d a k
  | .vsqrt h d a k => RoundTrip.vsqrt h d a k
  | .vperm h d a b k ty => RoundTrip.vperm h d a b k ty
  | .vperm2 h d a b c k ty => RoundTrip.vperm2 h d a b c k ty
  | .vbcast h d a k ty => RoundTrip.vbcast h d a k ty
  | .vbcastl h d a b k ty => RoundTrip.vbcastl h d a b k ty
  | .vrot h d a b k ty => RoundTrip.vrot h d a b k ty
  | .vcompress h d a k ty => RoundTrip.vcompress h d a k ty
  | .vexpand h d a k ty => RoundTrip.vexpand h d a k ty
  | .vext h d a idx ty => RoundTrip.vext h d a idx ty
  | .vins h d a idx ty => RoundTrip.vins h d a idx ty
  | .vredsum h d a k ty => RoundTrip.vredsum h d a k ty
  | .vredmin h d a k ty => RoundTrip.vredmin h d a k ty
  | .vredmax h d a k ty => RoundTrip.vredmax h d a k ty
  | .vredand h d a k ty => RoundTrip.vredand h d a k ty
  | .vredor h d a k ty => RoundTrip.vredor h d a k ty
  | .vredxor h d a k ty => RoundTrip.vredxor h d a k ty
  | .vscan h op d a k ty sat => RoundTrip.vscan h op d a k ty sat
  | .vargmax h d a k ty => RoundTrip.vargmax h d a k ty
  | .vargmin h d a k ty => RoundTrip.vargmin h d a k ty
  | .vrng h d a b k ty => RoundTrip.vrng h d a b k ty
  | .vptest h d a k => RoundTrip.vptest h d a k
  | .vldi h d imm => RoundTrip.vldi h d imm
  | .vldiI64 h d imm => RoundTrip.vldiI64 h d imm
  | .viota h d imm => RoundTrip.viota h d imm
  | .kand h d a b => RoundTrip.kand h d a b
  | .kor h d a b => RoundTrip.kor h d a b
  | .kxor h d a b => RoundTrip.kxor h d a b
  | .kandn h d a b => RoundTrip.kandn h d a b
  | .knot h d a => RoundTrip.knot h d a
  | .kpopc h d a => RoundTrip.kpopc h d a
  | .kffs h d a => RoundTrip.kffs h d a
  | .hdef h d a g => RoundTrip.hdef h d a g
  | .hld h d a off => RoundTrip.hld h d a off
  | .hst h d a g => RoundTrip.hst h d a g
  | .hinv h d all => RoundTrip.hinv h d all
  | .ldt h d hr cbase ty k cp => RoundTrip.ldt h d hr cbase ty k cp
  | .stt h d hr cbase ty k cp => RoundTrip.stt h d hr cbase ty k cp
  | .ldtb h d hr cbase ty k cp sc sr => RoundTrip.ldtb h d hr cbase ty k cp sc sr
  | .sttb h d hr cbase ty k cp sc sr => RoundTrip.sttb h d hr cbase ty k cp sc sr
  | .hrelayout h d a hr tag cslot ctok nb => RoundTrip.hrelayout h d a hr tag cslot ctok nb
  | .hwait h hr => RoundTrip.hwait h hr
  | .hstat h d hr => RoundTrip.hstat h d hr
  | .mma h ty m cl => RoundTrip.mma h ty m cl
  | .mmx h ty m cl => RoundTrip.mmx h ty m cl
  | .mmi h f m cl => RoundTrip.mmi h f m cl
  | .mmaG h ty m cl => RoundTrip.mmaG h ty m cl
  | .mmxG h ty m cl => RoundTrip.mmxG h ty m cl
  | .mgang h y gr gc gR gC q cl => RoundTrip.mgang h y gr gc gR gC q cl
  | .mgangFree h q cl => RoundTrip.mgangFree h q cl
  | .mcfg h shape sort cl => RoundTrip.mcfg h shape sort cl
  | .mzero h bank q cl => RoundTrip.mzero h bank q cl
  | .mscaleRow h y bank q cl => RoundTrip.mscaleRow h y bank q cl
  | .mscaleCol h y bank q cl => RoundTrip.mscaleCol h y bank q cl
  | .mld h x bank hr ty q cl => RoundTrip.mld h x bank hr ty q cl
  | .mst h x bank hr ty q cl => RoundTrip.mst h x bank hr ty q cl
  | .mrow h x y bank ty half q cl => RoundTrip.mrow h x y bank ty half q cl
  | .msort h x y q cl => RoundTrip.msort h x y q cl
  | .mtopk h x y k1 clr rd q cl => RoundTrip.mtopk h x y k1 clr rd q cl
  | .mstat h d sel => RoundTrip.mstat h d sel
  | .ld h sx d sz m at_ => RoundTrip.ld h sx d sz m at_
  | .st h d sz m at_ => RoundTrip.st h d sz m at_
  | .lds h sx d sz m => RoundTrip.lds h sx d sz m
  | .sts h d sz m => RoundTrip.sts h d sz m
  | .vld h d sz m at_ => RoundTrip.vld h d sz m at_
  | .vst h d sz m at_ => RoundTrip.vst h d sz m at_
  | .vlds h d sz m => RoundTrip.vlds h d sz m
  | .vsts h d sz m => RoundTrip.vsts h d sz m
  | .vgath h d b8 m cp => RoundTrip.vgath h d b8 m cp
  | .vscat h d b8 m cp => RoundTrip.vscat h d b8 m cp
  | .ldc h f d m => RoundTrip.ldc h f d m
  | .pref h sz m cp => RoundTrip.pref h sz m cp
  | .prefConst h sz m => RoundTrip.prefConst h sz m
  | .atom h op d sz m at_ => RoundTrip.atom h op d sz m at_
  | .red h op d sz m at_ => RoundTrip.red h op d sz m at_
  | .cas h d b8 m at_ => RoundTrip.cas h d b8 m at_
  | .xadd h r m scope rel => RoundTrip.xadd h r m scope rel
  | .xrd h d m scope acq => RoundTrip.xrd h d m scope acq
  | .xrdClr h d m scope ord => RoundTrip.xrdClr h d m scope ord
  | .fence h kind scope => RoundTrip.fence h kind scope
  | .cinv h => RoundTrip.cinv h
  | .cinvLine h a => RoundTrip.cinvLine h a
  | .sdef h x slot cl => RoundTrip.sdef h x slot cl
  | .carm h x slot wm wmen cl => RoundTrip.carm h x slot wm wmen cl
  | .sgo h slot z cl => RoundTrip.sgo h slot z cl
  | .sstop h slot cl => RoundTrip.sstop h slot cl
  | .sstat h x slot sel cl => RoundTrip.sstat h x slot sel cl
  | .cdis h slot cl => RoundTrip.cdis h slot cl
  | .copy h x z wm wmen cl => RoundTrip.copy h x z wm wmen cl
  | .staload h x y slot cl => RoundTrip.staload h x y slot cl
  | .staloadUpd h x y slot cl => RoundTrip.staloadUpd h x y slot cl
  | .stafree h y slot cl => RoundTrip.stafree h y slot cl
  | .stastat h x y slot sel cl => RoundTrip.stastat h x y slot sel cl
  | .rgload h x y cl => RoundTrip.rgload h x y cl
  | .rgswap h y cl => RoundTrip.rgswap h y cl
  | .rgswapForce h y cl => RoundTrip.rgswapForce h y cl
  | .rgsave h y cl => RoundTrip.rgsave h y cl
  | .rgrest h y cl => RoundTrip.rgrest h y cl
  | .rgclk h a f => RoundTrip.rgclk h a f
  | .rgfrz h a => RoundTrip.rgfrz h a
  | .rgfrzDrain h a => RoundTrip.rgfrzDrain h a
  | .rgthaw h a => RoundTrip.rgthaw h a
  | .rgstat h d a => RoundTrip.rgstat h d a
  | .mfs h d sys => RoundTrip.mfs h d sys
  | .mts h a sys => RoundTrip.mts h a sys
  | .trap h code => RoundTrip.trap h code
  | .brk h code => RoundTrip.brk h code
  | .resume h => RoundTrip.resume h
  | .resumeNext h => RoundTrip.resumeNext h
  | .abort h => RoundTrip.abort h
  | .tlbinv h k => RoundTrip.tlbinv h k
  | .ctxsv h d a ctx => RoundTrip.ctxsv h d a ctx
  | .ctxld h d a ctx => RoundTrip.ctxld h d a ctx
  | .smap h d a cap => RoundTrip.smap h d a cap
  | .pclr h f => RoundTrip.pclr h f
  | .firingBudgetExpiry g => RoundTrip.firingBudgetExpiry g
  | .firingStart g => RoundTrip.firingStart g
  | .handlerFiring g => RoundTrip.handlerFiring g
  | .nonDelegatedTrap g => RoundTrip.nonDelegatedTrap g
  | .tokenArrival q c edge => RoundTrip.tokenArrival q c edge
  | .creditReturn q c edge => RoundTrip.creditReturn q c edge
  | .actorEnableArrival q c => RoundTrip.actorEnableArrival q c
  | .tqPendingSignal t tq => RoundTrip.tqPendingSignal t tq
  | .groupOperation g => RoundTrip.groupOperation g
  | .groupResponse g n => RoundTrip.groupResponse g n
  | .submission q w rcd => RoundTrip.submission q w rcd
  | .launchSetup q c d => RoundTrip.launchSetup q c d
  | .configurationAcknowledgement q c src => RoundTrip.configurationAcknowledgement q c src
  | .launchEnable q c => RoundTrip.launchEnable q c
  | .sourceEnable q c => RoundTrip.sourceEnable q c
  | .launchComplete q c => RoundTrip.launchComplete q c
  | .launchAbort q c => RoundTrip.launchAbort q c
  | .timeSliceCommand bytes rcd => RoundTrip.timeSliceCommand bytes rcd
  | .timeSliceApply t => RoundTrip.timeSliceApply t
  | .seqRegisterArrival t => RoundTrip.seqRegisterArrival t
  | .writeCoalescingDrain g n => RoundTrip.writeCoalescingDrain g n
  | .sliceAccess g n => RoundTrip.sliceAccess g n
  | .sliceFill mctx line => RoundTrip.sliceFill mctx line
  | .memoryResponse g n => RoundTrip.memoryResponse g n
  | .lostRequest g n reason => RoundTrip.lostRequest g n reason
  | .tableWalk t mctx va => RoundTrip.tableWalk t mctx va
  | .fractRetry q => RoundTrip.fractRetry q
  | .fractFail q => RoundTrip.fractFail q
  | .matrixOpStart t q => RoundTrip.matrixOpStart t q
  | .waveFetch t q => RoundTrip.waveFetch t q
  | .matrixOpComplete t q => RoundTrip.matrixOpComplete t q
  | .sweepStart t => RoundTrip.sweepStart t
  | .sweepEnd t => RoundTrip.sweepEnd t
  | .gangFormation t q => RoundTrip.gangFormation t q
  | .requestStart cg => RoundTrip.requestStart cg
  | .engineBeat cg n => RoundTrip.engineBeat cg n
  | .requestComplete cg n => RoundTrip.requestComplete cg n
  | .templateFiring g slot => RoundTrip.templateFiring g slot
  | .pushProgramPass slice j => RoundTrip.pushProgramPass slice j
  | .relayoutAcknowledgement conv cluster => RoundTrip.relayoutAcknowledgement conv cluster
  | .conversionUnitStart conv unit => RoundTrip.conversionUnitStart conv unit
  | .conversionUnitDone conv unit => RoundTrip.conversionUnitDone conv unit
  | .staBeat cg n => RoundTrip.staBeat cg n
  | .staloadComplete cg slot => RoundTrip.staloadComplete cg slot
  | .stafreeComplete cg slot => RoundTrip.stafreeComplete cg slot
  | .stagingDone r => RoundTrip.stagingDone r
  | .swapToken r => RoundTrip.swapToken r
  | .drainComplete r => RoundTrip.drainComplete r
  | .drainBudgetExpiry r => RoundTrip.drainBudgetExpiry r
  | .clockRelock r => RoundTrip.clockRelock r
  | .powerWindow r tenthWatts => RoundTrip.powerWindow r tenthWatts
  | .packetQuarantine x => RoundTrip.packetQuarantine x
  | .flitReplay x => RoundTrip.flitReplay x
  | .linkPortDown port => RoundTrip.linkPortDown port
  | .linkRetrain port => RoundTrip.linkRetrain port
  | .uncorrectableError p => RoundTrip.uncorrectableError p
  | .correctedError pa => RoundTrip.correctedError pa
  | .thermalSample n temp => RoundTrip.thermalSample n temp
  | .level2Escalation stack => RoundTrip.level2Escalation stack
  | .selfRefreshEntry pc => RoundTrip.selfRefreshEntry pc
  | .limiterEngage => RoundTrip.limiterEngage
  | .limiterStepDown => RoundTrip.limiterStepDown
  | .limiterStepUp => RoundTrip.limiterStepUp
  | .hangDetected q => RoundTrip.hangDetected q
  | .apertureRead q off n => RoundTrip.apertureRead q off n
  | .apertureWrite q off bytes => RoundTrip.apertureWrite q off bytes
  | .apertureAtomicop q off op isCas b8 v cmp => RoundTrip.apertureAtomicop q off op isCas b8 v cmp
  | .cqhead q fault v => RoundTrip.cqhead q fault v
  | .featctlGo => RoundTrip.featctlGo
  | .hbmThr v => RoundTrip.hbmThr v
  | .mcElogw3 => RoundTrip.mcElogw3
  | .registerWrite r v => RoundTrip.registerWrite r v
  | .getVersion f => RoundTrip.getVersion f
  | .getCapabilities f => RoundTrip.getCapabilities f
  | .negotiateAlgorithms f ok => RoundTrip.negotiateAlgorithms f ok
  | .getDigests f => RoundTrip.getDigests f
  | .getCertificate f => RoundTrip.getCertificate f
  | .challenge r => RoundTrip.challenge r
  | .getMeasurements r index => RoundTrip.getMeasurements r index
  | .keyExchange r => RoundTrip.keyExchange r
  | .finish f => RoundTrip.finish f
  | .heartbeat f => RoundTrip.heartbeat f
  | .keyUpdate f => RoundTrip.keyUpdate f
  | .endSession f => RoundTrip.endSession f
  | .unsupportedRequest f => RoundTrip.unsupportedRequest f
  | .keyload q slot hostvis wrapped => RoundTrip.keyload q slot hostvis wrapped
  | .keyerase q slot => RoundTrip.keyerase q slot
  | .keystat q slot => RoundTrip.keystat q slot
  | .ideKm f stream => RoundTrip.ideKm f stream
  | .lockInterface r => RoundTrip.lockInterface r
  | .tdiUnlock q error => RoundTrip.tdiUnlock q error
  | .partitionCreate .. => fun h => Bool.noConfusion h
  | .partitionDestroy q => RoundTrip.partitionDestroy q
  | .powerOn => RoundTrip.powerOn
  | .functionReady u => RoundTrip.functionReady u
  | .deviceReset => RoundTrip.deviceReset
  | .operatorEmit r port accept => RoundTrip.operatorEmit r port accept
  | .operatorIdle r => RoundTrip.operatorIdle r

/-- Settles O1, constructor by constructor. -/
theorem decodeOfEncode : Obligations.DecodeOfEncode := roundTrip

/-- An OP that Table 2.9 leaves unassigned. -/
def Unassigned (op : Nat) : Prop :=
  op = 0 ∨ (0x0C ≤ op ∧ op ≤ 0x1F) ∨ (0x24 ≤ op ∧ op ≤ 0x2F) ∨ (0x35 ≤ op ∧ op ≤ 0x37) ∨ (0x3C ≤ op ∧ op ≤ 0x3F)
    ∨ (0x50 ≤ op ∧ op ≤ 0x6F) ∨ (0x77 ≤ op ∧ op ≤ 0x7F) ∨ (0x89 ≤ op ∧ op ≤ 0x9F) ∨ (0xAC ≤ op ∧ op ≤ 0xBF)
    ∨ (0xC2 ≤ op ∧ op ≤ 0xC7) ∨ (0xCF ≤ op ∧ op ≤ 0xD7) ∨ (0xDB ≤ op ∧ op ≤ 0xDF) ∨ 0xE7 ≤ op

/-- The scalar class holds OP 0x01 to 0x0B and 0x20 to 0x23 alone. -/
theorem decScalar_unassigned {op : Nat} (w : Nat) (h : Hdr) (hlt : op < 0x30) (hop : Unassigned op) :
    decScalar op w h = .illegal op := by
  have hne : ∀ n, (1 ≤ n ∧ n ≤ 0x0B) ∨ (0x20 ≤ n ∧ n ≤ 0x23) → op ≠ n := by
    unfold Unassigned at hop; omega
  unfold decScalar
  split
  case h_16 => rfl
  all_goals exact absurd rfl (hne _ (by decide))

/-- No class of Table 2.9 holds an unassigned OP. -/
theorem decOp_unassigned {op : Nat} (m : Bool) (w : Nat) (h : Hdr) (hop : Unassigned op) :
    decOp m op w h = .illegal op := by
  by_cases hlt : op < 0x30
  · rw [decOp, if_pos hlt, decScalar_unassigned w h hlt hop]
  · unfold Unassigned at hop
    have hne : ∀ n, (0x30 ≤ n ∧ n ≤ 0x34) ∨ (0x38 ≤ n ∧ n ≤ 0x3B) ∨ n = 0x70 ∨ n = 0x75 ∨ n = 0x76 ∨ n = 0x88 ∨ n = 0xC0
        ∨ n = 0xC1 ∨ n = 0xE6 → op ≠ n := by omega
    have hvec : ¬(0x40 ≤ op ∧ op ≤ 0x4F) := by omega
    have htensor : ¬(0x71 ≤ op ∧ op ≤ 0x74) := by omega
    have hmat : ¬(0x80 ≤ op ∧ op ≤ 0x83) ∧ ¬(0x84 ≤ op ∧ op ≤ 0x87) := by omega
    have hmem : ¬(0xA0 ≤ op ∧ op ≤ 0xA3) ∧ ¬(0xA4 ≤ op ∧ op ≤ 0xA7) ∧ ¬(0xA8 ≤ op ∧ op ≤ 0xAB) := by omega
    have hstream : ¬(0xC8 ≤ op ∧ op ≤ 0xCE) ∧ ¬(0xD8 ≤ op ∧ op ≤ 0xDA) := by omega
    have hsys : ¬(0xE0 ≤ op ∧ op ≤ 0xE5) := by omega
    have hedge : ¬op < 0x33 := by omega
    simp [decOp, hlt, hne, hvec, htensor, hmat, hmem, hstream, hsys, hedge]

/-- Settles O3: neither the management core's opcodes nor the classes of Table 2.9 hold the OP. -/
theorem unassignedOpcodeIsIllegal : Obligations.UnassignedOpcodeIsIllegal := by
  intro m w hn hop
  simp only [decode_word, decodeNat, if_neg hn, decOp_unassigned m w.toNat _ hop, ite_self]

/-- Eight bytes whose predicate field is that of the never form are the never form (R39). -/
theorem decodeBytes_nop (m : Bool) {w : Word} (hn : field w.toNat 51 5 = 16) : decodeBytes m (wordBytes w)
    = some (.instr (.nop (BitVec.ofNat 8 (field w.toNat 56 8)) (BitVec.ofNat 51 (field w.toNat 0 51)))) := by
  simp only [decode_word, decodeNat, if_pos hn]

end Sys2Proof.Laws

namespace Sys2Proof.Machine

/-! A word's issue, from its instruction alone. -/

/-- Firmware's words have no wait clause: none is of format E. -/
theorem wn_of_firmwareOnly {i : Instr} (h : firmwareOnly i = true) : i.clauses.wn = 0 := by
  unfold firmwareOnly at h
  split at h
  any_goals contradiction
  all_goals rfl

/-- A word whose predicate is false, with no fault owed to the next word, has no effect. -/
theorem exec_predFalse {i : Instr} {s : State} (hw : i.isWord = true) (hp : s.cur = .mgmt ∨ firmwareOnly i = false)
    (hr : reached i s) (hf : predHolds s.me i = false) (ho : s.me.owedAny = none) :
    exec i s = .next (s.retire s.cur s.me.pc) := by
  obtain ⟨chk, eff, he⟩ := exec_issues i s hw hp
  rw [he, issue_false hr.1 hr.2 hf ho]

/-- A word whose predicate is false takes the fault owed to the next word. -/
theorem exec_predFalse_owed {i : Instr} {s : State} {o : Owed} (hw : i.isWord = true)
    (hp : s.cur = .mgmt ∨ firmwareOnly i = false) (hr : reached i s) (hf : predHolds s.me i = false)
    (ho : s.me.owedAny = some o) : ∃ chk, exec i s = .next (takeTrap
      (s.modCtx s.cur (fun c => { c with owed := none })) s.cur chk o.cause o.detail o.addr (some o.by_)) := by
  obtain ⟨chk, eff, he⟩ := exec_issues i s hw hp
  exact ⟨chk, by rw [he, issue_false_owed hr.1 hr.2 hf ho]⟩

/-- Settles O4: the never form's predicate is false of every context, and a false predicate leaves no effect. -/
theorem falsePredicateHasNoEffect : Obligations.FalsePredicateHasNoEffect := by
  refine ⟨fun m w hn => Laws.decodeBytes_nop m hn, fun op x s hr ho => ?_, fun i s hw hp hr hf => ⟨?_, ?_⟩⟩
  · exact exec_predFalse rfl (.inr rfl) hr rfl ho
  · exact exec_predFalse hw hp hr hf
  · exact fun o ho => exec_predFalse_owed hw hp hr hf ho

/-- A pending register of the word holds it. -/
theorem interlocked_of_pending {i : Instr} {s : State}
    (h : ∃ r ∈ regsOf (rankOf s.me i) i, r.constant = false ∧ r ∈ s.pending s.cur) : s.interlocked s.cur i = true := by
  obtain ⟨r, hr, hc, hp⟩ := h
  have hany : (regsOf (rankOf s.me i) i).any (fun r => !r.constant && (s.pending s.cur).contains r) = true :=
    List.any_eq_true.mpr ⟨r, hr, by simp [hc, hp]⟩
  exact Bool.or_eq_true_iff.mpr (.inl hany)

/-- A queue of the launch that holds less than WN leaves the wait unsatisfied (R47). -/
theorem waitReady_of_short {i : Instr} {s : State} (hn : 0 < i.clauses.wn.val)
    (hm : bitOf (s.view s.cur).tqmask i.clauses.wq.val = true) (hq : s.tq s.cur i.clauses.wq < i.clauses.wn.val) :
    s.waitReady s.cur i = false := by
  have hwn : (i.clauses.wn == 0) = false := beq_false_of_ne fun h => by simp [h] at hn
  simp [State.waitReady, hwn, hm, hq]

/-- Settles O5: the interlock, the wait clause and the owed fault, in the order in which a word meets them. -/
theorem interlocksWaitsAndOwedFaults : Obligations.InterlocksWaitsAndOwedFaults := by
  refine ⟨fun i s hw hp _ hpend => ?interlock, fun i s hw hr hf hn hm hq => ?wait, fun i s o hw hp hr hf hwr hd => ?owed⟩
  case interlock =>
    obtain ⟨chk, eff, he⟩ := exec_issues i s hw hp
    rw [he, issue_interlocked (interlocked_of_pending hpend)]
  case wait =>
    have hp : firmwareOnly i = false := by
      by_contra hfw
      rw [wn_of_firmwareOnly (by simpa using hfw)] at hn
      exact absurd hn (by decide)
    obtain ⟨chk, eff, he⟩ := exec_issues i s hw (.inr hp)
    rw [he, issue_waits hr.1 hr.2 hf (waitReady_of_short hn hm hq)]
  case owed =>
    obtain ⟨chk, eff, he⟩ := exec_issues i s hw hp
    exact ⟨chk, by rw [he, issue_owed hr.1 hr.2 hf hwr hd]⟩

/-! Every meaning answers a next state. -/

/-- The outcome is a next state. -/
def Answers (o : Out) : Prop := ∃ t, o = .next t

theorem answers_next (t : State) : Answers (.next t) := ⟨t, rfl⟩

theorem answers_issue (i : Instr) (chk : List RegId) (s : State) (eff : State → Eff) : Answers (issue i chk s eff) :=
  issue_next i chk s eff

theorem answers_ite {p : Prop} [Decidable p] {a b : Out} (ha : Answers a) (hb : Answers b) :
    Answers (if p then a else b) := by
  split
  · exact ha
  · exact hb

/-- A word answers: its issue does, and so does the trap of R52 that comes before it. -/
theorem answers_privileged {i : Instr} {op : Nat} {s : State} {k : State → Out} (h : Answers (k s)) :
    Answers (privileged i op s k) := answers_ite (answers_next _) h

theorem answers_word {i : Instr} (hw : i.isWord = true) (s : State) : Answers (exec i s) := by
  by_cases hp : firmwareOnly i = false
  · obtain ⟨chk, eff, he⟩ := exec_issues i s hw (.inr hp)
    rw [he]; exact answers_issue i chk s eff
  · cases i with
    | mfs h d sys => rw [exec_mfs, execMfs]; exact answers_privileged (answers_issue ..)
    | mts h a sys => rw [exec_mts, execMts]; exact answers_privileged (answers_issue ..)
    | tlbinv h k => rw [exec_tlbinv, execTlbinv]; exact answers_privileged (answers_issue ..)
    | ctxsv h d a ctx => rw [exec_ctxsv, execCtxsv]; exact answers_privileged (answers_issue ..)
    | ctxld h d a ctx => rw [exec_ctxld, execCtxld]; exact answers_privileged (answers_issue ..)
    | _ => exact absurd rfl hp


/-- A step of the machine answers on every branch of its meaning. -/
theorem answers_step {i : Instr} (hw : i.isWord = false) (s : State) : Answers (exec i s) := by
  cases i
  case' firingBudgetExpiry g => dsimp only [exec_firingBudgetExpiry, execFiringBudgetExpiry]
  case' firingStart g => dsimp only [exec_firingStart, execFiringStart]
  case' handlerFiring g => dsimp only [exec_handlerFiring, execHandlerFiring]
  case' nonDelegatedTrap g => dsimp only [exec_nonDelegatedTrap, execNonDelegatedTrap]
  case' tokenArrival q c edge => dsimp only [exec_tokenArrival, execTokenArrival]
  case' creditReturn q c edge => dsimp only [exec_creditReturn, execCreditReturn]
  case' actorEnableArrival q c => dsimp only [exec_actorEnableArrival, execActorEnableArrival]
  case' tqPendingSignal t tq => dsimp only [exec_tqPendingSignal, execTqPendingSignal]
  case' groupOperation g => dsimp only [exec_groupOperation, execGroupOperation]
  case' groupResponse g n => dsimp only [exec_groupResponse, execGroupResponse]
  case' submission q w rcd => dsimp only [exec_submission, execSubmission]
  case' launchSetup q c d => dsimp only [exec_launchSetup, execLaunchSetup]
  case' configurationAcknowledgement q c src => dsimp only [exec_configurationAcknowledgement, execConfigurationAcknowledgement]
  case' launchEnable q c => dsimp only [exec_launchEnable, execLaunchEnable]
  case' sourceEnable q c => dsimp only [exec_sourceEnable, execSourceEnable]
  case' launchComplete q c => dsimp only [exec_launchComplete, execLaunchComplete]
  case' launchAbort q c => dsimp only [exec_launchAbort, execLaunchAbort]
  case' timeSliceCommand bytes rcd => dsimp only [exec_timeSliceCommand, execTimeSliceCommand]
  case' timeSliceApply t => dsimp only [exec_timeSliceApply, execTimeSliceApply]
  case' seqRegisterArrival t => dsimp only [exec_seqRegisterArrival, execSeqRegisterArrival]
  case' writeCoalescingDrain g n => dsimp only [exec_writeCoalescingDrain, execWriteCoalescingDrain]
  case' sliceAccess g n => dsimp only [exec_sliceAccess, execSliceAccess]
  case' sliceFill mctx line => dsimp only [exec_sliceFill, execSliceFill]
  case' memoryResponse g n => dsimp only [exec_memoryResponse, execMemoryResponse]
  case' lostRequest g n reason => dsimp only [exec_lostRequest, execLostRequest]
  case' tableWalk t mctx va => dsimp only [exec_tableWalk, execTableWalk]
  case' fractRetry q => dsimp only [exec_fractRetry, execFractRetry]
  case' fractFail q => dsimp only [exec_fractFail, execFractFail]
  case' matrixOpStart t q => dsimp only [exec_matrixOpStart, execMatrixOpStart]
  case' waveFetch t q => dsimp only [exec_waveFetch, execWaveFetch]
  case' matrixOpComplete t q => dsimp only [exec_matrixOpComplete, execMatrixOpComplete]
  case' sweepStart t => dsimp only [exec_sweepStart, execSweepStart]
  case' sweepEnd t => dsimp only [exec_sweepEnd, execSweepEnd]
  case' gangFormation t q => dsimp only [exec_gangFormation, execGangFormation]
  case' requestStart cg => dsimp only [exec_requestStart, execRequestStart]
  case' engineBeat cg n => dsimp only [exec_engineBeat, execEngineBeat]
  case' requestComplete cg n => dsimp only [exec_requestComplete, execRequestComplete]
  case' templateFiring g slot => dsimp only [exec_templateFiring, execTemplateFiring]
  case' pushProgramPass slice j => dsimp only [exec_pushProgramPass, execPushProgramPass]
  case' relayoutAcknowledgement conv cluster => dsimp only [exec_relayoutAcknowledgement, execRelayoutAcknowledgement]
  case' conversionUnitStart conv unit => dsimp only [exec_conversionUnitStart, execConversionUnitStart]
  case' conversionUnitDone conv unit => dsimp only [exec_conversionUnitDone, execConversionUnitDone]
  case' staBeat cg n => dsimp only [exec_staBeat, execStaBeat]
  case' staloadComplete cg slot => dsimp only [exec_staloadComplete, execStaloadComplete]
  case' stafreeComplete cg slot => dsimp only [exec_stafreeComplete, execStafreeComplete]
  case' stagingDone r => dsimp only [exec_stagingDone, execStagingDone]
  case' swapToken r => dsimp only [exec_swapToken, execSwapToken]
  case' drainComplete r => dsimp only [exec_drainComplete, execDrainComplete]
  case' drainBudgetExpiry r => dsimp only [exec_drainBudgetExpiry, execDrainBudgetExpiry]
  case' clockRelock r => dsimp only [exec_clockRelock, execClockRelock]
  case' powerWindow r tenthWatts => dsimp only [exec_powerWindow, execPowerWindow]
  case' packetQuarantine x => dsimp only [exec_packetQuarantine, execPacketQuarantine]
  case' flitReplay x => dsimp only [exec_flitReplay, execFlitReplay, execLinkPortDown]
  case' linkPortDown port => dsimp only [exec_linkPortDown, execLinkPortDown]
  case' linkRetrain port => dsimp only [exec_linkRetrain, execLinkRetrain]
  case' uncorrectableError p => dsimp only [exec_uncorrectableError, execUncorrectableError]
  case' correctedError pa => dsimp only [exec_correctedError, execCorrectedError]
  case' thermalSample n temp => dsimp only [exec_thermalSample, execThermalSample]
  case' level2Escalation stack => dsimp only [exec_level2Escalation, execLevel2Escalation]
  case' selfRefreshEntry pc => dsimp only [exec_selfRefreshEntry, execSelfRefreshEntry]
  case' limiterEngage => dsimp only [exec_limiterEngage, execLimiterEngage]
  case' limiterStepDown => dsimp only [exec_limiterStepDown, execLimiterStepDown]
  case' limiterStepUp => dsimp only [exec_limiterStepUp, execLimiterStepUp]
  case' hangDetected q => dsimp only [exec_hangDetected, execHangDetected]
  case' apertureRead q off n => dsimp only [exec_apertureRead, execApertureRead]
  case' apertureWrite q off bytes => dsimp only [exec_apertureWrite, execApertureWrite]
  case' apertureAtomicop q off op isCas b8 v cmp => dsimp only [exec_apertureAtomicop, execApertureAtomicop]
  case' cqhead q fault v => dsimp only [exec_cqhead, execCqhead]
  case' featctlGo => dsimp only [exec_featctlGo, execFeatctlGo]
  case' hbmThr v => dsimp only [exec_hbmThr, execHbmThr]
  case' mcElogw3 => dsimp only [exec_mcElogw3, execMcElogw3]
  case' registerWrite r v => dsimp only [exec_registerWrite, execRegisterWrite, writeVfAt, writePfAt, execSubmission, execCqhead,
    execFractRetry, execFractFail, execFeatctlGo]
  case' getVersion f => dsimp only [exec_getVersion, execGetVersion]
  case' getCapabilities f => dsimp only [exec_getCapabilities, execGetCapabilities]
  case' negotiateAlgorithms f ok => dsimp only [exec_negotiateAlgorithms, execNegotiateAlgorithms]
  case' getDigests f => dsimp only [exec_getDigests, execGetDigests]
  case' getCertificate f => dsimp only [exec_getCertificate, execGetCertificate]
  case' challenge r => dsimp only [exec_challenge, execChallenge]
  case' getMeasurements r index => dsimp only [exec_getMeasurements, execGetMeasurements]
  case' keyExchange r => dsimp only [exec_keyExchange, execKeyExchange]
  case' finish f => dsimp only [exec_finish, execFinish]
  case' heartbeat f => dsimp only [exec_heartbeat, execHeartbeat]
  case' keyUpdate f => dsimp only [exec_keyUpdate, execKeyUpdate]
  case' endSession f => dsimp only [exec_endSession, execEndSession]
  case' unsupportedRequest f => dsimp only [exec_unsupportedRequest, execUnsupportedRequest]
  case' keyload q slot hostvis wrapped => dsimp only [exec_keyload, execKeyload]
  case' keyerase q slot => dsimp only [exec_keyerase, execKeyerase]
  case' keystat q slot => dsimp only [exec_keystat, execKeystat]
  case' ideKm f stream => dsimp only [exec_ideKm, execIdeKm]
  case' lockInterface r => dsimp only [exec_lockInterface, execLockInterface]
  case' tdiUnlock q error => dsimp only [exec_tdiUnlock, execTdiUnlock]
  case' partitionCreate q clusters keys peer host owner mapArea => dsimp only [exec_partitionCreate, execPartitionCreate]
  case' partitionDestroy q => dsimp only [exec_partitionDestroy, execPartitionDestroy]
  case' powerOn => dsimp only [exec_powerOn, execPowerOn]
  case' functionReady u => dsimp only [exec_functionReady, execFunctionReady]
  case' deviceReset => dsimp only [exec_deviceReset, execDeviceReset]
  case' operatorEmit r port accept => dsimp only [exec_operatorEmit, execOperatorEmit]
  case' operatorIdle r => dsimp only [exec_operatorIdle, execOperatorIdle]
  any_goals exact Bool.noConfusion hw
  all_goals repeat' (first | with_reducible exact answers_next _ | split)

/-- Settles O7: a word answers as its issue does, a step on every branch. -/
theorem everyMeaningAnswers : Obligations.EveryMeaningAnswers := fun i s =>
  if hw : i.isWord = true then answers_word hw s else answers_step (by simpa using hw) s

end Sys2Proof.Machine

/-! ## Scalar, address and control words (04_scalar_control.md). -/

namespace Sys2Proof.Machine

/-! Results of the scalar forms, in the library's terms. -/

/-- The exact result, clamped to the range of the type when SAT is set (R105). -/
theorem arith_eq (t : Ty) (sat : Bool) (f : Int → Int → Int) (x y : Word) : arith t sat f x y
    = t.put (if sat then max t.lo (min t.hi (f (t.val x.toNat) (t.val y.toNat))) else f (t.val x.toNat) (t.val y.toNat)) := by
  simp only [arith, clampInt_eq (Ty.lo_le_hi t)]

theorem minInt_eq (a b : Int) : minInt a b = min a b := by unfold minInt; omega
theorem maxInt_eq (a b : Int) : maxInt a b = max a b := by unfold maxInt; omega

theorem mulHigh_eq (t : Ty) (a b : Int) : mulHigh t a b = a * b / 2 ^ t.width := by
  simp only [mulHigh, Nat.cast_pow, Nat.cast_ofNat]

theorem sarNat_eq (w x n : Nat) : sarNat w x n = sextInt x w / 2 ^ n := by
  simp only [sarNat, Nat.cast_pow, Nat.cast_ofNat]

/-- Settles O10: each word is the shared two-source form, whose result is the rule's. -/
theorem scalarArithmeticAndLogic : Obligations.ScalarArithmeticAndLogic := by
  refine ⟨fun h d a b ty sat s => ⟨fun hr => ?_, fun hr => ?_, fun hr => ?_, fun hr => ?_, fun hr => ?_, fun hr => ?_⟩,
    fun h d a b ty s => ⟨fun hr => ?_, fun hr => ?_, fun hr => ?_, fun hr => ?_, fun hr => ?_, fun hr => ?_, fun hr => ?_,
      fun hr => ?_⟩⟩
  · rw [exec_add, execAdd, scalar2_ready rfl hr, arith_eq]
  · rw [exec_sub, execSub, scalar2_ready rfl hr, arith_eq]
  · rw [exec_mul, execMul, scalar2_ready rfl hr, arith_eq]
  · rw [exec_mulh, execMulh, scalar2_ready rfl hr, arith_wrap, mulHigh_eq]
  · rw [exec_min, execMin, scalar2_ready rfl hr, arith_wrap, minInt_eq]
  · rw [exec_max, execMax, scalar2_ready rfl hr, arith_wrap, maxInt_eq]
  · rw [exec_and, execAnd, scalar2_ready rfl hr, bitop]
  · rw [exec_or, execOr, scalar2_ready rfl hr, bitop]
  · rw [exec_xor, execXor, scalar2_ready rfl hr, bitop]
  · rw [exec_andn, execAndn, scalar2_ready rfl hr, bitop]
  · rw [exec_shl, execShl, scalar2_ready rfl hr, shiftop, shlNat]
  · rw [exec_shr, execShr, scalar2_ready rfl hr, shiftop, shrNat]
  · rw [exec_sar, execSar, scalar2_ready rfl hr, shiftop, sarNat_eq]
  · rw [exec_rol, execRol, scalar2_ready rfl hr, shiftop, rolNat]

/-! Bit counts and immediates. -/

/-- Trailing zeros look at the low n bits alone. -/
theorem trailZeros_mod_spec (n x : Nat) : trailZeros n x ≤ n ∧ x % 2 ^ n % 2 ^ trailZeros n x = 0
    ∧ (trailZeros n x < n → x % 2 ^ n / 2 ^ trailZeros n x % 2 = 1) := by
  obtain ⟨hle, hmod, hbit⟩ := trailZeros_spec n x
  refine ⟨hle, ?_, fun hlt => ?_⟩
  · rw [Nat.mod_mod_of_dvd _ (Nat.pow_dvd_pow 2 hle), hmod]
  · have htest := Nat.testBit_mod_two_pow x n (trailZeros n x)
    simp only [hlt, decide_true, Bool.true_and, Nat.testBit_eq_decide_div_mod_eq, hbit hlt, decide_eq_true_eq] at htest
    exact htest

/-- The count of one bits looks at the low n bits alone. -/
theorem popCount_mod_eq (n x : Nat) : popCount n x = (List.range n).countP (fun j => (x % 2 ^ n).testBit j) := by
  rw [popCount_eq]
  refine List.countP_congr fun j hj => ?_
  have hlt : j < n := List.mem_range.mp hj
  simp only [Nat.testBit_mod_two_pow, hlt, decide_true, Bool.true_and]

theorem shiftLeft_eq_ofNat (x : Word) (n : Nat) : x <<< n = BitVec.ofNat 64 (x.toNat * 2 ^ n) := by
  apply BitVec.eq_of_toNat_eq
  simp only [BitVec.toNat_shiftLeft, BitVec.toNat_ofNat, Nat.shiftLeft_eq]

theorem shiftRight_eq_ofNat (x : Word) (n : Nat) : x >>> n = BitVec.ofNat 64 (x.toNat / 2 ^ n) := by
  apply BitVec.eq_of_toNat_eq
  have hlt : x.toNat / 2 ^ n < 2 ^ 64 := (Nat.div_le_self _ _).trans_lt x.isLt
  simp only [BitVec.toNat_ushiftRight, BitVec.toNat_ofNat, Nat.shiftRight_eq_div_pow, Nat.mod_eq_of_lt hlt]

theorem sshiftRight_eq_ofInt (x : Word) (n : Nat) : x.sshiftRight n = BitVec.ofInt 64 (x.toInt / 2 ^ n) := by
  simp only [BitVec.sshiftRight, Int.shiftRight_eq_div_pow, Nat.cast_pow, Nat.cast_ofNat]

/-- The address sum of lea, modulo 2^64 (R115). -/
theorem lea_eq_ofInt (x y : Word) (sh : Nat) (disp : BitVec 8) : x + (y <<< sh) + disp.signExtend 64
    = BitVec.ofInt 64 (x.toInt + y.toInt * 2 ^ sh + disp.toInt) := by
  have hpow : BitVec.ofInt 64 (2 ^ sh) = BitVec.twoPow 64 sh := by
    apply BitVec.eq_of_toNat_eq
    rw [BitVec.toNat_twoPow, show (2 : Int) ^ sh = ((2 ^ sh : Nat) : Int) by push_cast; rfl, BitVec.ofInt_natCast,
      BitVec.toNat_ofNat]
  rw [BitVec.ofInt_add, BitVec.ofInt_add, BitVec.ofInt_mul, BitVec.ofInt_toInt, BitVec.ofInt_toInt, hpow,
    BitVec.shiftLeft_eq_mul_twoPow]
  rfl

/-- Settles O12: each word is a shared form of one or two sources, whose result is the rule's. -/
theorem scalarBitsAndImmediates : Obligations.ScalarBitsAndImmediates := by
  intro h d a b ty n imm l sh disp s
  refine ⟨fun hr => ?clz, fun hr => ?ctz, fun hr => ?popc, fun hr => ?bswap, fun hr => ?sext, fun hr => ?addi,
    fun hr => ?muli, fun hr => ?andi, fun hr => ?ori, fun hr => ?xori, fun hr => ?shli, fun hr => ?shri, fun hr => ?sari,
    exec_ldi_ready, exec_ldih_ready, fun hr => ?lea⟩
  case clz =>
    obtain ⟨hle, hlt, hge⟩ := leadZeros_spec ty.width (s.me.readS a).toNat
    exact ⟨_, hle, hlt, hge, by rw [exec_clz, execClz, scalar1_ready rfl hr]⟩
  case ctz =>
    obtain ⟨hle, hmod, hbit⟩ := trailZeros_mod_spec ty.width (s.me.readS a).toNat
    exact ⟨_, hle, hmod, hbit, by rw [exec_ctz, execCtz, scalar1_ready rfl hr]⟩
  case popc => rw [exec_popc, execPopc, scalar1_ready rfl hr, popCount_mod_eq]
  case bswap => rw [exec_bswap, execBswap, scalar1_ready rfl hr, bswapNat_eq]
  case sext => rw [exec_sext, execSext, scalar1_ready rfl hr, wordOfInt_eq]
  case addi => rw [exec_addi, execAddi, scalar1_ready rfl hr]
  case muli => rw [exec_muli, execMuli, scalar1_ready rfl hr]
  case andi => rw [exec_andi, execAndi, scalar1_ready rfl hr]
  case ori => rw [exec_ori, execOri, scalar1_ready rfl hr]
  case xori => rw [exec_xori, execXori, scalar1_ready rfl hr]
  case shli => rw [exec_shli, execShli, scalar1_ready rfl hr, shiftLeft_eq_ofNat]
  case shri => rw [exec_shri, execShri, scalar1_ready rfl hr, shiftRight_eq_ofNat]
  case sari => rw [exec_sari, execSari, scalar1_ready rfl hr, sshiftRight_eq_ofInt]
  case lea => rw [exec_lea, execLea, scalar2_ready rfl hr, lea_eq_ofInt]

/-! Checks and their traps. -/

/-- The first register is poisoned: cause 0x07 with its number (R99). -/
theorem poisonS_head {c : Ctx} {r : Fin 32} (rs : List (Fin 32)) (h : c.poisS r = true) :
    poisonS c (r :: rs) = some (0x07, r.val, 0) := by simp [poisonS, h]

/-- A clean register leaves the check to those after it. -/
theorem poisonS_cons {c : Ctx} {r : Fin 32} (rs : List (Fin 32)) (h : c.poisS r = false) :
    poisonS c (r :: rs) = poisonS c rs := by simp [poisonS, h]

@[simp] theorem poisonS_nil (c : Ctx) : poisonS c [] = none := rfl

/-- The first check fails. -/
@[simp] theorem orTrap_cons_some (t : Nat × Nat × Nat) (cs : List (Option (Nat × Nat × Nat))) (k : Eff) :
    orTrap (some t :: cs) k = .trap t.1 t.2.1 t.2.2 := rfl

/-- The first check passes: those after it decide. -/
@[simp] theorem orTrap_cons_none (cs : List (Option (Nat × Nat × Nat))) (k : Eff) : orTrap (none :: cs) k = orTrap cs k := rfl

@[simp] theorem orTrap_nil (k : Eff) : orTrap [] k = k := rfl

/-- A change of the issuing context is what it makes of the context that stands. -/
theorem went_congr {s : State} {f g : Ctx → Ctx} (h : f s.me = g s.me) : went s f = went s g :=
  congrArg (fun c => (s.setCtx s.cur c).retire s.cur s.me.pc) h

/-- A word that checks one scalar register: clean, it takes effect; poisoned, it traps. -/
theorem issue_checkS {i : Instr} {a : Fin 32} {s : State} {f : Ctx → Ctx} (hw : i.clauses.wn = 0) (hr : ready i s = true) :
    (s.me.poisS a = false → issue i [.s a] s (fun s => orTrap [poisonS s.me [a]] (s.onCtx f)) = .next (went s f))
    ∧ (s.me.poisS a = true → issue i [.s a] s (fun s => orTrap [poisonS s.me [a]] (s.onCtx f))
        = .next (trapped s [.s a] 0x07 a.val 0)) :=
  ⟨fun h => issue_onCtx hw hr (by rw [poisonS_cons [] h]; rfl), fun h => issue_trap hw hr (by rw [poisonS_head [] h]; rfl)⟩

/-- A word that checks two scalar registers: clean, it takes effect; else the first poisoned one decides the trap. -/
theorem issue_checkSS {i : Instr} {a b : Fin 32} {s : State} {f : Ctx → Ctx} (hw : i.clauses.wn = 0) (hr : ready i s = true) :
    let o := issue i [.s a, .s b] s (fun s => orTrap [poisonS s.me [a, b]] (s.onCtx f))
    (s.me.poisS a = false → s.me.poisS b = false → o = .next (went s f))
    ∧ (s.me.poisS a = true → o = .next (trapped s [.s a, .s b] 0x07 a.val 0))
    ∧ (s.me.poisS a = false → s.me.poisS b = true → o = .next (trapped s [.s a, .s b] 0x07 b.val 0)) :=
  ⟨fun ha hb => issue_onCtx hw hr (by rw [poisonS_cons _ ha, poisonS_cons _ hb]; rfl),
    fun ha => issue_trap hw hr (by rw [poisonS_head _ ha]; rfl),
    fun ha hb => issue_trap hw hr (by rw [poisonS_cons _ ha, poisonS_head _ hb]; rfl)⟩

/-! Comparisons, moves and predicate words. -/

/-- The complement predicate takes the negation (R113). -/
theorem setCond_eq (c : Ctx) (d e : Fin 16) (v : Bool) : c.setCond d e v = (c.writeP d v).writeP e (!v) := rfl

/-- Not equal is the negation of equal, as the conditions of R113 are written. -/
theorem cmpInt_ne (u v : Int) : cmpInt .ne u v = decide (u ≠ v) := by
  simp only [cmpInt, bne, beq_eq_decide, ne_eq, decide_not]

/-- Settles O14: the comparisons by their checks, the moves and predicate words by the shared forms. -/
theorem comparisonsMovesAndPredicates : Obligations.ComparisonsMovesAndPredicates := by
  refine ⟨fun h cond d e a b ty imm s => ⟨fun hr => ?cmp, fun hr => ?cmpi⟩, fun h d a b p q r k l v na nb s =>
    ⟨fun hr => ?movSS, fun hr => ?movPS, fun hr => ?movSP, fun hr => ?movKS, fun hr => ?movSK, fun hr => ?movKK,
      fun hr => ?sel, fun hr => ?pset, fun hr => ?pand, fun hr => ?por, fun hr => ?pxor, fun hr => ?pnot⟩⟩
  case cmp =>
    rw [exec_cmp, execCmp]
    obtain ⟨hclean, hfirst, hsecond⟩ := issue_checkSS (f := fun c => c.setCond d e
      (cmpInt cond (ty.val (c.readS a).toNat) (ty.val (c.readS b).toNat))) rfl hr
    refine ⟨fun ha hb => ?_, hfirst, hsecond⟩
    rw [hclean ha hb]
    cases cond with
    | ne => simp only [went, State.modCtx, setCond_eq, cmpInt_ne]; rfl
    | _ => rfl
  case cmpi =>
    rw [exec_cmpi, execCmpi]
    obtain ⟨hclean, htrap⟩ := issue_checkS (f := fun c => c.writeP d
      (cmpInt cond (ty.val (c.readS a).toNat) (ty.val (imm.signExtend 64 : Word).toNat))) rfl hr
    refine ⟨fun ha => ?_, htrap⟩
    rw [hclean ha]
    cases cond with
    | ne => simp only [went, wroteP, State.modCtx, cmpInt_ne]; rfl
    | _ => rfl
  case movSS => rw [exec_movSS, execMovSS, scalar1_ready rfl hr]
  case movPS => exact issue_checkS rfl hr
  case movSP =>
    rw [exec_movSP, execMovSP, scalar0_ready rfl hr]
    cases s.me.readP p <;> rfl
  case movKS => exact issue_checkS rfl hr
  case movSK => rw [exec_movSK, execMovSK, scalar0_ready rfl hr]
  case movKK => rw [exec_movKK, execMovKK, issue_onCtx rfl hr rfl]; rfl
  case sel =>
    rw [exec_sel, execSel, issue_onCtx rfl hr rfl]
    cases hp : s.me.readP p
    · exact congrArg _ (went_congr (by simp only [hp]; rfl))
    · exact congrArg _ (went_congr (by simp only [hp]; rfl))
  case pset => rw [exec_pset, execPset, issue_onCtx rfl hr rfl]; rfl
  case pand => rw [exec_pand, execPand, issue_onCtx rfl hr rfl]; rfl
  case por => rw [exec_por, execPor, issue_onCtx rfl hr rfl]; rfl
  case pxor => rw [exec_pxor, execPxor, issue_onCtx rfl hr rfl]; rfl
  case pnot => rw [exec_pnot, execPnot, issue_onCtx rfl hr rfl]; rfl

/-! Control transfers. -/

/-- The target of a branch, modulo 2^18 (R43). -/
theorem branchTarget_eq (pc : Pc) (off : BitVec 32) : branchTarget pc off = BitVec.ofInt 18 (pc.toInt + off.toInt * 8) := by
  rw [branchTarget, BitVec.ofInt_add, BitVec.ofInt_toInt]

/-- The link is the address of the next word, modulo 2^18, clean (R120). -/
theorem link_eq (c : Ctx) (d : Fin 32) : c.link d = c.writeS d (BitVec.ofNat 64 ((c.pc.toNat + 8) % 2 ^ 18)) false := by
  have hlink : (c.pc + 8).zeroExtend 64 = BitVec.ofNat 64 ((c.pc.toNat + 8) % 2 ^ 18) := by
    apply BitVec.eq_of_toNat_eq
    simp only [BitVec.truncate_eq_setWidth, BitVec.toNat_setWidth, BitVec.toNat_add, BitVec.toNat_ofNat]
    rfl
  rw [Ctx.link, hlink]

theorem rangeTrap_inside {s : State} {t : Nat} (h : (s.view s.cur).inRange t = true) : rangeTrap s t = none := by
  simp [rangeTrap, trapIf, h]

theorem rangeTrap_outside {s : State} {t : Nat} (h : (s.view s.cur).inRange t = false) :
    rangeTrap s t = some (0x06, t, t) := by simp [rangeTrap, trapIf, h]

/-- A word whose effect goes to an address. -/
theorem issue_goto {i : Instr} {chk : List RegId} {s : State} {eff : State → Eff} {t : State} {pc : Pc}
    (hw : i.clauses.wn = 0) (hr : ready i s = true) (he : eff s = .goto t pc) :
    issue i chk s eff = .next (t.retireTo s.cur pc) := by
  rw [issue_ready hr, takeWait_none hw, he]; rfl

/-- The condition register of a branch is checked unless the branch looks at none. -/
theorem braPoison_none {cond : BraCond} {c : Ctx} {a : Fin 32} (h : cond = .always ∨ c.poisS a = false) :
    (if cond = .always then none else poisonS c [a]) = none := by
  rcases h with rfl | h
  · rfl
  · rw [poisonS_cons _ h, poisonS_nil, ite_self]

/-- The checks of an indirect target, one after another (R121). -/
theorem indirect_poisoned {s : State} {a : Fin 32} (k : Pc → Eff) (h : s.me.poisS a = true) :
    indirect s a k = .trap 0x07 a.val 0 := by rw [indirect, poisonS_head _ h]; rfl

theorem indirect_misaligned {s : State} {a : Fin 32} (k : Pc → Eff) (h : s.me.poisS a = false)
    (h8 : (s.me.readS a).toNat % 8 ≠ 0) : indirect s a k = .trap 0x04 (s.me.readS a).toNat (s.me.readS a).toNat := by
  rw [indirect, poisonS_cons _ h, trapIf, if_pos (decide_eq_true h8)]; rfl

theorem indirect_aligned {s : State} {a : Fin 32} (k : Pc → Eff) (h : s.me.poisS a = false)
    (h8 : (s.me.readS a).toNat % 8 = 0) : indirect s a k
      = orTrap [rangeTrap s (s.me.readS a).toNat] (k (BitVec.ofNat 18 (s.me.readS a).toNat)) := by
  have hno : ¬decide ((s.me.readS a).toNat % 8 ≠ 0) = true := by simp [h8]
  rw [indirect, poisonS_cons _ h, trapIf, if_neg hno]; rfl

theorem indirect_outside {s : State} {a : Fin 32} (k : Pc → Eff) (h : s.me.poisS a = false)
    (h8 : (s.me.readS a).toNat % 8 = 0) (hout : (s.view s.cur).inRange (s.me.readS a).toNat = false) :
    indirect s a k = .trap 0x06 (s.me.readS a).toNat (s.me.readS a).toNat := by
  rw [indirect_aligned k h h8, rangeTrap_outside hout]; rfl

theorem indirect_inside {s : State} {a : Fin 32} (k : Pc → Eff) (h : s.me.poisS a = false)
    (h8 : (s.me.readS a).toNat % 8 = 0) (hin : (s.view s.cur).inRange (s.me.readS a).toNat = true) :
    indirect s a k = k (BitVec.ofNat 18 (s.me.readS a).toNat) := by
  rw [indirect_aligned k h h8, rangeTrap_inside hin]; rfl

/-- The state in which a branch goes on: the counter of .dec is written whether it is taken or not (R119). -/
def braCounted (s : State) (cond : BraCond) (a : Fin 32) : State :=
  if cond = .dec then s.modCtx s.cur (fun c => c.writeS a (s.me.readS a - 1) false) else s

/-- A taken branch goes to its target. -/
theorem exec_bra_taken {h : Hdr} {cond : BraCond} {a : Fin 32} {off : BitVec 32} {s : State}
    (hr : ready (.bra h cond a off) s = true) (hp : cond = .always ∨ s.me.poisS a = false)
    (ht : braTaken cond (s.me.readS a) = true) (hin : (s.view s.cur).inRange (branchTarget s.me.pc off).toNat = true) :
    exec (.bra h cond a off) s = .next ((braCounted s cond a).retireTo s.cur (branchTarget s.me.pc off)) := by
  rw [exec_bra, execBra]
  refine issue_goto rfl hr ?_
  simp only [braPoison_none hp, ht, if_true, rangeTrap_inside hin, orTrap_cons_none, orTrap_nil]
  rfl

/-- A branch that falls goes on at the next word. -/
theorem exec_bra_falls {h : Hdr} {cond : BraCond} {a : Fin 32} {off : BitVec 32} {s : State}
    (hr : ready (.bra h cond a off) s = true) (hp : cond = .always ∨ s.me.poisS a = false)
    (ht : braTaken cond (s.me.readS a) = false) :
    exec (.bra h cond a off) s = .next ((braCounted s cond a).retire s.cur s.me.pc) := by
  rw [exec_bra, execBra]
  refine issue_done rfl hr ?_
  simp only [braPoison_none hp, ht, Bool.false_eq_true, if_false, orTrap_cons_none, orTrap_nil]
  rfl

/-- Settles O15: the two ways of a branch, and the checks of direct and indirect targets in their order. -/
theorem controlTransfers : Obligations.ControlTransfers := by
  refine ⟨fun h cond d a off s => ⟨fun hr hp => ⟨fun ht hin => ?taken, fun ht => ?falls⟩, fun hr hin => ?call,
      fun hr hp h8 hin => ?jmp, fun hr hp h8 hin => ?ret⟩,
    fun h cond d a off s => ⟨fun hr hc hp => ?braPoisoned, fun hr hp ht hout => ?braOutside, fun hr hout => ?callOutside,
      fun i hi hr => ?indirectTraps⟩⟩
  case taken =>
    rw [← branchTarget_eq] at hin ⊢
    exact exec_bra_taken hr hp (by rw [← ht]; cases cond <;> rfl) hin
  case falls => exact exec_bra_falls hr hp (by rw [← ht]; cases cond <;> rfl)
  case call =>
    rw [← branchTarget_eq] at hin ⊢
    rw [exec_call, execCall, issue_goto rfl hr (by simp only [rangeTrap_inside hin, link_eq]; rfl)]
    rfl
  case jmp =>
    rw [exec_jmp, execJmp, issue_goto rfl hr (indirect_inside _ hp h8 hin)]
    simp only [link_eq]; rfl
  case ret => rw [exec_ret, execRet, issue_goto rfl hr (indirect_inside _ hp h8 hin)]
  case braPoisoned =>
    rw [exec_bra, execBra, if_neg hc]
    exact issue_trap rfl hr (by simp only [if_neg hc, poisonS_head _ hp]; rfl)
  case braOutside =>
    rw [← branchTarget_eq] at hout ⊢
    rw [exec_bra, execBra]
    exact issue_trap rfl hr (by simp only [braPoison_none hp, ht, if_true, rangeTrap_outside hout]; rfl)
  case callOutside =>
    rw [← branchTarget_eq] at hout ⊢
    rw [exec_call, execCall]
    exact issue_trap rfl hr (by simp only [rangeTrap_outside hout]; rfl)
  case indirectTraps =>
    rcases hi with rfl | rfl
    · rw [exec_jmp, execJmp]
      exact ⟨fun hp => issue_trap rfl hr (indirect_poisoned _ hp), fun hp h8 => issue_trap rfl hr (indirect_misaligned _ hp h8),
        fun hp h8 hout => issue_trap rfl hr (indirect_outside _ hp h8 hout)⟩
    · rw [exec_ret, execRet]
      exact ⟨fun hp => issue_trap rfl hr (indirect_poisoned _ hp), fun hp h8 => issue_trap rfl hr (indirect_misaligned _ hp h8),
        fun hp h8 hout => issue_trap rfl hr (indirect_outside _ hp h8 hout)⟩

end Sys2Proof.Machine

/-! ## Vector words (06_vector.md). -/

namespace Sys2Proof.Machine

/-! The elements and lanes of a register that is written (R178, R180). -/

/-- A list of bits set or cleared. -/
theorem foldl_setBit_get {w : Nat} (ls : List Nat) (x : BitVec w) (b : Bool) {l : Nat} (hl : l < w) :
    (ls.foldl (fun q i => setBit q i b) x).getLsbD l = if ls.contains l then b else x.getLsbD l := by
  induction ls generalizing x with
  | nil => simp
  | cons i is ih =>
    rw [List.foldl_cons, ih, setBit_get _ _ _ _ hl]
    by_cases h : i = l
    · simp [h]
    · simp [h, Ne.symm h]

/-- The lanes of the elements that a condition picks, set or cleared. -/
theorem foldl_lanes_get {w : Nat} (js : List Nat) (cond : Nat → Bool) (lanes : Nat → List Nat) (x : BitVec w) (b : Bool)
    {l : Nat} (hl : l < w) :
    (js.foldl (fun p j => if cond j then (lanes j).foldl (fun q i => setBit q i b) p else p) x).getLsbD l
      = if js.any (fun j => cond j && (lanes j).contains l) then b else x.getLsbD l := by
  induction js generalizing x with
  | nil => simp
  | cons j js ih =>
    rw [List.foldl_cons, ih, List.any_cons]
    cases hc : cond j
    · simp
    · rw [if_pos rfl, foldl_setBit_get _ _ _ hl]
      cases hj : (lanes j).contains l <;> simp

/-- A mapped range with its positions. -/
theorem zipIdx_map_range {α : Type} (g : Nat → α) (n : Nat) :
    ((List.range n).map g).zipIdx = (List.range n).map (fun j => (g j, j)) := by
  refine List.ext_getElem (by simp) fun i h1 h2 => ?_
  simp

/-- The poison of a register whose selected elements are written (R180). -/
theorem packPoison_get (t : Ty) (old : BitVec 64) (sel : Nat → Bool) (g : Nat → Nat × Bool) {l : Nat} (hl : l < 64) :
    (packPoison t old ((List.range (elems t)).map (fun j => if sel j then some (g j) else none))).getLsbD l
      = if (List.range (elems t)).any (fun j => sel j && (elemLanes t j).contains l)
        then (List.range (elems t)).any (fun j => sel j && (elemLanes t j).contains l && (g j).2)
        else old.getLsbD l := by
  have hclear : (fun (p : BitVec 64) (j : Nat) => match (if sel j then some (g j) else none : Option (Nat × Bool)) with
      | some _ => (elemLanes t j).foldl (fun q l => setBit q l false) p
      | none => p) = fun p j => if sel j then (elemLanes t j).foldl (fun q l => setBit q l false) p else p := by
    funext p j; cases sel j <;> rfl
  have hset : (fun (p : BitVec 64) (j : Nat) => match (if sel j then some (g j) else none : Option (Nat × Bool)) with
      | some (_, true) => (elemLanes t j).foldl (fun q l => setBit q l true) p
      | _ => p) = fun p j => if sel j && (g j).2 then (elemLanes t j).foldl (fun q l => setBit q l true) p else p := by
    funext p j
    cases sel j
    · rfl
    · obtain ⟨x, po⟩ := g j
      cases po <;> rfl
  have hany : ∀ j, (sel j && (g j).2 && (elemLanes t j).contains l) = (sel j && (elemLanes t j).contains l && (g j).2) := by
    intro j; cases sel j <;> cases (g j).2 <;> simp
  have key : (packPoison t old ((List.range (elems t)).map (fun j => if sel j then some (g j) else none)))
      = (List.range (elems t)).foldl (fun p j => if sel j && (g j).2 then (elemLanes t j).foldl (fun q l => setBit q l true) p else p)
        ((List.range (elems t)).foldl (fun p j => if sel j then (elemLanes t j).foldl (fun q l => setBit q l false) p else p) old) := by
    rw [← hclear, ← hset, packPoison, zipIdx_map_range, List.foldl_map, List.foldl_map]
    rfl
  rw [key, foldl_lanes_get _ _ _ _ _ hl, foldl_lanes_get _ _ _ _ _ hl]
  simp only [hany]
  by_cases hw : (List.range (elems t)).any (fun j => sel j && (elemLanes t j).contains l) = true
  · rw [if_pos hw, if_pos hw]
    cases (List.range (elems t)).any (fun j => sel j && (elemLanes t j).contains l && (g j).2) <;> rfl
  · have hp : ¬ (List.range (elems t)).any (fun j => sel j && (elemLanes t j).contains l && (g j).2) = true := by
      intro h
      obtain ⟨j, hj, h⟩ := List.any_eq_true.mp h
      exact hw (List.any_eq_true.mpr ⟨j, hj, (Bool.and_eq_true _ _ ▸ h).1⟩)
    rw [if_neg hw, if_neg hw, if_neg hp]

/-- A field of a packed register lies above the fields before it. -/
theorem packElems_dvd (w old : Nat) (es : List NewElem) (j : Nat) : 2 ^ (j * w) ∣ packElems w old j es := by
  induction es generalizing j with
  | nil => exact dvd_zero _
  | cons e es ih =>
    exact dvd_add (Dvd.intro_left _ rfl) ((pow_dvd_pow 2 (by rw [Nat.succ_mul]; omega)).trans (ih (j + 1)))

/-- The bits of one new element: its own, or those that stood there (R178). -/
def newBits (w old j : Nat) (e : NewElem) : Nat :=
  match e with | some (x, _) => x % 2 ^ w | none => bitsAt old (j * w) w

theorem newBits_lt (w old j : Nat) (e : NewElem) : newBits w old j e < 2 ^ w := by
  cases e <;> exact Nat.mod_lt _ (Nat.two_pow_pos w)

theorem packElems_cons (w old j : Nat) (e : NewElem) (es : List NewElem) :
    packElems w old j (e :: es) = newBits w old j e * 2 ^ (j * w) + packElems w old (j + 1) es := rfl

/-- A packed register over the fields before one element. -/
theorem packElems_shift (w old : Nat) (es : List NewElem) (j i : Nat) (e : NewElem) (h : es[i]? = some e) :
    packElems w old j es / 2 ^ ((j + i) * w) % 2 ^ w = newBits w old (j + i) e := by
  induction es generalizing j i with
  | nil => cases h
  | cons e' es ih =>
    obtain ⟨q, hq⟩ := packElems_dvd w old es (j + 1)
    have hpow : 2 ^ ((j + 1) * w) = 2 ^ (j * w) * 2 ^ w := by rw [Nat.succ_mul, pow_add]
    have hsplit : packElems w old j (e' :: es) = 2 ^ (j * w) * (newBits w old j e' + 2 ^ w * q) := by
      rw [packElems_cons, hq, hpow]; ring
    cases i with
    | zero =>
      obtain rfl : e' = e := Option.some.inj h
      rw [hsplit, Nat.add_zero, Nat.mul_div_cancel_left _ (Nat.two_pow_pos _), Nat.add_mul_mod_self_left,
        Nat.mod_eq_of_lt (newBits_lt ..)]
    | succ i =>
      have hidx : j + (i + 1) = j + 1 + i := by omega
      have hdrop : packElems w old j (e' :: es) / 2 ^ ((j + 1) * w) = packElems w old (j + 1) es / 2 ^ ((j + 1) * w) := by
        rw [hsplit, hpow, ← Nat.div_div_eq_div_mul, Nat.mul_div_cancel_left _ (Nat.two_pow_pos _),
          Nat.add_mul_div_left _ _ (Nat.two_pow_pos w), Nat.div_eq_of_lt (newBits_lt ..), hq, hpow, Nat.zero_add,
          Nat.mul_div_cancel_left _ (by positivity)]
      have hexp : (j + 1 + i) * w = (j + 1) * w + i * w := by ring
      rw [hidx, ← ih (j + 1) i h, hexp, pow_add, ← Nat.div_div_eq_div_mul, ← Nat.div_div_eq_div_mul, hdrop]

theorem bitsAt_eq (x lo n : Nat) : bitsAt x lo n = x / 2 ^ lo % 2 ^ n := by rw [bitsAt, Nat.shiftRight_eq_div_pow]

/-- A field that lies inside a word. -/
theorem bitsAt_ofNat {x lo n m : Nat} (h : lo + n ≤ m) : bitsAt (BitVec.ofNat m x).toNat lo n = bitsAt x lo n := by
  refine Nat.eq_of_testBit_eq fun k => ?_
  simp only [bitsAt, BitVec.toNat_ofNat, Nat.testBit_mod_two_pow, Nat.testBit_shiftRight]
  by_cases hk : k < n
  · simp [hk, show lo + k < m by omega]
  · simp [hk]

/-- The elements fill the register. -/
theorem elem_fits {t : Ty} {j : Nat} (h : j < elems t) : j * tyWidth t + tyWidth t ≤ 2048 := by
  have hmul : (j + 1) * tyWidth t ≤ elems t * tyWidth t := Nat.mul_le_mul_right _ h
  have hall : elems t * tyWidth t ≤ 2048 := Nat.div_mul_le_self ..
  rw [Nat.succ_mul] at hmul; omega

/-- Settles O20: the fields of the packed register, and the lanes cleared and then set. -/
theorem vectorElementsMerge : Obligations.VectorElementsMerge := by
  intro v t sel f
  have hes : (elemList t sel f).map (fun r => r.map (fun x => (x.bits, x.poison)))
      = (List.range (elems t)).map (fun j => if sel j then some ((f j).bits, (f j).poison) else none) := by
    rw [elemList, List.map_map]
    exact List.map_congr_left fun j _ => by cases h : sel j <;> simp [h]
  refine ⟨fun j hj => ?_, fun l hl => ?_⟩
  · have hget : ((List.range (elems t)).map (fun j => if sel j then some ((f j).bits, (f j).poison) else none))[j]?
        = some (if sel j then some ((f j).bits, (f j).poison) else none) := by simp [hj]
    have hfield := packElems_shift (tyWidth t) v.bits.toNat _ 0 j _ hget
    rw [Nat.zero_add] at hfield
    rw [VReg.update, hes, VReg.elem, VReg.write, bitsAt_ofNat (elem_fits hj), bitsAt_eq, hfield]
    cases sel j <;> rfl
  · rw [VReg.update, hes]
    exact packPoison_get t v.poison sel (fun j => ((f j).bits, (f j).poison)) hl

/-! Counted events (R181, R239, R240). -/

theorem earliest_mem {l : List Counted} {y : Counted} (h : earliest l = some y) : y ∈ l := by
  induction l generalizing y with
  | nil => cases h
  | cons x xs ih =>
    rw [earliest] at h
    cases he : earliest xs with
    | none => rw [he] at h; exact Option.some.inj h ▸ List.mem_cons_self
    | some z =>
      rw [he] at h
      obtain rfl := Option.some.inj h
      by_cases hlt : z.by_.order < x.by_.order
      · rw [if_pos hlt]; exact List.mem_cons_of_mem _ (ih he)
      · rw [if_neg hlt]; exact List.mem_cons_self

/-- Of some operations the first one of the least order (R181). -/
theorem earliest_eq {o : Counted} {as bs : List Counted} (ha : ∀ x ∈ as, o.by_.order < x.by_.order)
    (hb : ∀ x ∈ bs, o.by_.order ≤ x.by_.order) : earliest (as ++ o :: bs) = some o := by
  induction as with
  | nil =>
    rw [List.nil_append, earliest]
    cases he : earliest bs with
    | none => rfl
    | some y => exact congrArg some (if_neg (Nat.not_lt.mpr (hb y (earliest_mem he))))
  | cons x xs ih =>
    rw [List.cons_append, earliest, ih fun y hy => ha y (List.mem_cons_of_mem _ hy)]
    exact congrArg some (if_pos (ha x List.mem_cons_self))

theorem toNat_countUp (c : BitVec 32) (n : Nat) : (countUp c n).toNat = min (c.toNat + n) (2 ^ 32 - 1) := by
  have hlt : min (c.toNat + n) (2 ^ 32 - 1) < 2 ^ 32 := by omega
  exact (BitVec.toNat_ofNat ..).trans (Nat.mod_eq_of_lt hlt)

/-- Three flags as bits 2:0 of a number. -/
theorem testBit_flags (x y z : Bool) (k : Fin 3) :
    (b2n x + 2 * b2n y + 4 * b2n z).testBit k.val = if k = 0 then x else if k = 1 then y else z := by
  cases x <;> cases y <;> cases z <;> fin_cases k <;> rfl

/-- A counter crosses the threshold when it is enabled and its sum goes from below to it or above (R240). -/
theorem crossed_testBit (y : Tile) (e : Ev) (k : Fin 3) : (y.crossed e).testBit k.val
    = crosses y.cntthr k.val (y.cnt.get k) (countUp (y.cnt.get k) (e.count k)) := by
  rw [Tile.crossed, testBit_flags]
  fin_cases k <;> rfl

theorem crosses_eq (thr : Word) (k : Nat) (old : BitVec 32) (n : Nat) : crosses thr k old (countUp old n)
    = (thr.getLsbD (32 + k) && decide (thr.toNat % 2 ^ 32 ≠ 0 ∧ old.toNat < thr.toNat % 2 ^ 32
        ∧ thr.toNat % 2 ^ 32 ≤ min (old.toNat + n) (2 ^ 32 - 1))) := by
  rw [crosses, toNat_countUp, bitsAt, Nat.shiftRight_zero, Bool.eq_iff_iff]
  simp only [Bool.and_eq_true, decide_eq_true_iff, and_assoc]

theorem tile_modTile_self (s : State) (t : Fin 256) (f : Tile → Tile) : (s.modTile t f).tile t = f (s.tile t) := vset_self ..

/-- A change of a tile that leaves its contexts. -/
theorem ctx_modTile_self {s : State} {t : Fin 256} {f : Tile → Tile} (h : (f (s.tile t)).ctx = (s.tile t).ctx) (c : Fin 4) :
    (s.modTile t f).ctx (.tile t c) = s.ctx (.tile t c) := by
  rw [State.ctx, tile_modTile_self, h]; rfl

/-- What a change of a context leaves of the counters of its tile. -/
theorem tile_modCtx_self (s : State) (t : Fin 256) (c : Fin 4) (f : Ctx → Ctx) :
    ((s.modCtx (.tile t c) f).tile t) = { s.tile t with ctx := vset (s.tile t).ctx c (f (s.ctx (.tile t c))) } :=
  tile_modTile_self ..

/-- The counters after the cycle, with the fault owed where one crosses its threshold (R181). -/
theorem settleEvents_eq {s : State} {t : Fin 256} {o : Counted} (h : earliest (s.tile t).counted = some o) :
    s.settleEvents t
      = (let e := Ev.sum ((s.tile t).counted.map (fun x => x.ev))
         let s1 := s.modTile t (fun y => { y.addEv e with counted := [] })
         if (s.tile t).crossed e = 0 || o.dead then s1
         else s1.modCtx (.tile t o.ctx) (fun c => c.recordOwed ⟨0x09, (s.tile t).crossed e, 0, o.by_, o.at_⟩)) := by
  rw [State.settleEvents, h]

/-- The older of two owed faults stays (R239). -/
theorem recordOwed_second {c : Ctx} {o p : Owed} (ha : c.aborted.contains o.by_.serial = false) (hp : c.owed = some p) :
    (c.recordOwed o).owed = some (if o.by_.order < p.by_.order then { o with detail := o.detail ||| 2 ^ 63 }
      else { p with detail := p.detail ||| 2 ^ 63 }) := by
  rw [Ctx.recordOwed, if_neg (by rw [ha]; exact Bool.false_ne_true), hp]
  by_cases h : o.by_.order < p.by_.order <;> simp [h]

/-- Settles O21: the first operation of the least order, and the counters one by one. -/
theorem eventsAndOwedFaults : Obligations.EventsAndOwedFaults := by
  refine ⟨fun s t k as bs o hc ha hb => ?_, fun s e t c hcur he => ?_, fun c o p => ⟨fun h => if_pos h, fun h hn => ?_, recordOwed_second⟩⟩
  · have hset := settleEvents_eq (hc ▸ earliest_eq ha hb)
    dsimp only at hset ⊢
    generalize he : Ev.sum ((s.tile t).counted.map (fun x => x.ev)) = e at hset ⊢
    have hcnt : ∀ y : Tile, y = { (s.tile t).addEv e with counted := [], ctx := y.ctx } →
        y.cnt.get k = BitVec.ofNat 32 (min (((s.tile t).cnt.get k).toNat + e.count k) (2 ^ 32 - 1)) ∧ y.counted = [] := by
      intro y hy
      rw [hy]
      exact ⟨by simp only [Tile.addEv, Vector.get_ofFn]; rfl, rfl⟩
    have htile : ((s.settleEvents t).tile t).cnt.get k
        = BitVec.ofNat 32 (min (((s.tile t).cnt.get k).toNat + e.count k) (2 ^ 32 - 1)) ∧ ((s.settleEvents t).tile t).counted = [] := by
      rw [hset]
      split
      · exact hcnt _ (by rw [tile_modTile_self])
      · exact hcnt _ (by rw [tile_modCtx_self, tile_modTile_self])
    refine ⟨htile.1, htile.2, ?_, fun h => ?_, fun h1 h2 => ?_⟩
    · rw [crossed_testBit, crosses_eq]; rfl
    · rw [hset, if_pos (by simpa using h)]; exact ctx_modTile_self rfl _
    · rw [hset, if_neg (by simp [h1, h2]), ctx_modCtx_self, ctx_modTile_self rfl]
  · rw [State.vecEvents, hcur]
    simp only [if_neg he, State.addEvents, tile_modTile_self]
  · rw [Ctx.recordOwed, if_neg (by rw [h]; exact Bool.false_ne_true), hn]

/-! The shared forms of one, two and three sources, when they take effect. -/

theorem wentV_congr {s : State} {d : Fin 32} {t : Ty} {sel : Nat → Bool} {f g : Nat → ElemOut} (h : ∀ j, f j = g j) :
    wentV s d t sel f = wentV s d t sel g := by rw [funext h]

/-- One source under a mask. -/
theorem vec1_ready {i : Instr} {d a : Fin 32} {k : Fin 8} {t : Ty} {f : Nat → Nat × Ev} {s : State}
    (hw : i.clauses.wn = 0) (hr : ready i s = true) : vec1 i d a k t f s
      = .next (wentV s d t (fun j => active (s.me.readK k) t j) (fun j =>
          ElemOut.mk (f ((s.me.readV a).elem t j)).1 ((s.me.readV a).elemPoison t j) (f ((s.me.readV a).elem t j)).2)) :=
  vecMasked_ready hw hr

/-- Two sources under a mask. -/
theorem vec2_ready {i : Instr} {d a : Fin 32} {b : VOp} {k : Fin 8} {t : Ty} {f : Nat → Nat → Nat × Ev} {s : State}
    (hw : i.clauses.wn = 0) (hr : ready i s = true) : vec2 i d a b k t f s
      = .next (wentV s d t (fun j => active (s.me.readK k) t j) (fun j =>
          let r := f ((s.me.readV a).elem t j) (vopElem s.me b t j).1
          ElemOut.mk r.1 ((s.me.readV a).elemPoison t j || (vopElem s.me b t j).2) r.2)) :=
  vecMasked_ready hw hr

/-- Three sources under a mask. -/
theorem vec3_ready {i : Instr} {d a e : Fin 32} {b : VOp} {k : Fin 8} {t : Ty} {f : Nat → Nat → Nat → Nat × Ev} {s : State}
    (hw : i.clauses.wn = 0) (hr : ready i s = true) : vec3 i d a b e k t f s
      = .next (wentV s d t (fun j => active (s.me.readK k) t j) (fun j =>
          let r := f ((s.me.readV a).elem t j) (vopElem s.me b t j).1 ((s.me.readV e).elem t j)
          ElemOut.mk r.1 ((s.me.readV a).elemPoison t j || (vopElem s.me b t j).2 || (s.me.readV e).elemPoison t j) r.2)) :=
  vecMasked_ready hw hr

/-! Integer forms (R183). -/

/-- An integer result: clamped and counted when SAT is set and the exact result is out of range, else wrapped. -/
theorem intResult_out (t : Ty) (sat po : Bool) (r : Int) : ElemOut.mk (intResult t sat r).1 po (intResult t sat r).2
    = if sat = true ∧ (r < t.lo ∨ t.hi < r) then ElemOut.mk (intMod (max t.lo (min t.hi r)) t.width) po Ev.oneSat
      else ElemOut.mk (intMod r t.width) po Ev.zero := by
  unfold intResult
  by_cases h : sat = true ∧ (r < t.lo ∨ t.hi < r)
  · rw [if_pos h, if_pos (by simpa using h), clampInt_eq (Ty.lo_le_hi t)]
  · rw [if_neg h, if_neg (by simpa using h)]

theorem vmin_eq_min : (fun x y : Int => if x ≤ y then x else y) = fun x y => min x y := by funext x y; omega
theorem vmax_eq_max : (fun x y : Int => if x ≥ y then x else y) = fun x y => max x y := by funext x y; omega

/-- Settles O22: one or two sources, and the result of R183. -/
theorem vectorInteger : Obligations.VectorInteger := by
  intro h d a b k ty sat s
  refine ⟨fun hr => ?_, fun hr => ?_, fun hr => ?_, fun hr => ?_, fun hr => ?_, fun hr => ?_, fun hr => ?_, fun hr => ?_⟩
  · rw [exec_vadd, execVadd, vec2_ready rfl hr]; exact congrArg _ (wentV_congr fun j => intResult_out ..)
  · rw [exec_vsub, execVsub, vec2_ready rfl hr]; exact congrArg _ (wentV_congr fun j => intResult_out ..)
  · rw [exec_vmul, execVmul, vec2_ready rfl hr]; exact congrArg _ (wentV_congr fun j => intResult_out ..)
  · rw [exec_vmulh, execVmulh, vec2_ready rfl hr]
    simp only [Nat.cast_pow, Nat.cast_ofNat]
    exact congrArg _ (wentV_congr fun j => intResult_out ..)
  · rw [exec_vmin, execVmin, vec2_ready rfl hr, vmin_eq_min]; exact congrArg _ (wentV_congr fun j => intResult_out ..)
  · rw [exec_vmax, execVmax, vec2_ready rfl hr, vmax_eq_max]; exact congrArg _ (wentV_congr fun j => intResult_out ..)
  · rw [exec_vabs, execVabs, vec1_ready rfl hr]
    simp only [Int.natCast_natAbs]
    exact congrArg _ (wentV_congr fun j => intResult_out ..)
  · rw [exec_vneg, execVneg, vec1_ready rfl hr]; exact congrArg _ (wentV_congr fun j => intResult_out ..)

/-! Floating-point forms (R184, R185). -/

/-- A sign put on an encoding that is no NaN (R184). -/
theorem withSign_eq (t : Ty) (n : Bool) (x : Nat) : withSign t n x = if (decodeElem t x).isNan then (convert t .nan).1
    else x % 2 ^ (t.width - 1) + (if n then 2 ^ (t.width - 1) else 0) := by
  cases n <;> simp [withSign, b2n]

/-- Settles O23: the shared forms on the exact result, rounded once. -/
theorem vectorFloat : Obligations.VectorFloat := by
  intro h d a b c k ty s
  refine ⟨fun hr => ?_, fun hr => ?_, fun hr => ?_, fun hr => ?_, fun hr => ?_, fun hr => ?_, fun hr => ?_, fun hr => ?_,
    fun hr => ?_, fun hr => ?_, fun hr => ?_, fun hr => ?_⟩
  · rw [exec_vaddFp, execVaddFp, vec2_ready rfl hr]; exact congrArg _ (wentV_congr fun j => by simp [addBits])
  · rw [exec_vsubFp, execVsubFp, vec2_ready rfl hr]; exact congrArg _ (wentV_congr fun j => by simp [subBits])
  · rw [exec_vmulFp, execVmulFp, vec2_ready rfl hr]; exact congrArg _ (wentV_congr fun j => by simp [mulBits])
  · rw [exec_vminFp, execVminFp, vec2_ready rfl hr]; exact congrArg _ (wentV_congr fun j => by simp)
  · rw [exec_vmaxFp, execVmaxFp, vec2_ready rfl hr]; exact congrArg _ (wentV_congr fun j => by simp)
  · rw [exec_vabsFp, execVabsFp, vec1_ready rfl hr]; exact congrArg _ (wentV_congr fun j => by simp [withSign_eq])
  · rw [exec_vnegFp, execVnegFp, vec1_ready rfl hr]
    exact congrArg _ (wentV_congr fun j => by
      cases hb : bitOf ((s.me.readV a).elem ty j) (ty.width - 1) <;> simp [withSign_eq, hb])
  · rw [exec_vfma, execVfma, vec3_ready rfl hr]; exact congrArg _ (wentV_congr fun j => by simp [fmaBits])
  · rw [exec_vfms, execVfms, vec3_ready rfl hr]; exact congrArg _ (wentV_congr fun j => by simp [fmaBits])
  · rw [exec_vfnma, execVfnma, vec3_ready rfl hr]; exact congrArg _ (wentV_congr fun j => by simp [fmaBits])
  · rw [exec_vdot2, execVdot2, vec3_ready rfl hr]; exact congrArg _ (wentV_congr fun j => by simp [dotLane, inLane])
  · rw [exec_vdot4, execVdot4, vec3_ready rfl hr]; exact congrArg _ (wentV_congr fun j => by simp [dotLane, inLane])

/-! Logic, selection and masks (R186, R187, R196, R198). -/

/-- No active element of A or B is poisoned: vcmp has no trap. -/
theorem vcmpPoison_none {c : Ctx} {a : Fin 32} {b : VOp} {k : Word} {t : Ty}
    (h : ((List.range (elems t)).filter (fun j => active k t j)).all
      (fun j => !(c.readV a).elemPoison t j && !(vopElem c b t j).2) = true) : vcmpPoison c a b k t = none := by
  simp only [List.all_eq_true, Bool.and_eq_true, Bool.not_eq_true'] at h
  have hA : ¬ ((List.range (elems t)).filter (fun j => active k t j)).any (fun j => (c.readV a).elemPoison t j) = true := by
    simpa only [List.any_eq_true, not_exists, not_and, Bool.not_eq_true] using fun j hj => (h j hj).1
  have hB : ¬ ((List.range (elems t)).filter (fun j => active k t j)).any (fun j => (vopElem c b t j).2) = true := by
    simpa only [List.any_eq_true, not_exists, not_and, Bool.not_eq_true] using fun j hj => (h j hj).2
  exact (if_neg hA).trans (if_neg hB)

/-- An active element of A is poisoned: cause 0x07 names A (R186). -/
theorem vcmpPoison_first {c : Ctx} {a : Fin 32} {b : VOp} {k : Word} {t : Ty}
    (h : ((List.range (elems t)).filter (fun j => active k t j)).any (fun j => (c.readV a).elemPoison t j) = true) :
    vcmpPoison c a b k t = some (0x07, a.val + 256, 0) := if_pos h

/-- The first one bit of a word, from the bit up (R198). -/
theorem trailZeros_word (x : Word) : trailZeros 64 x.toNat ≤ 64 ∧ (∀ j, j < trailZeros 64 x.toNat → x.getLsbD j = false)
    ∧ (trailZeros 64 x.toNat < 64 → x.getLsbD (trailZeros 64 x.toNat) = true) := by
  obtain ⟨hle, hmod, hbit⟩ := trailZeros_spec 64 x.toNat
  refine ⟨hle, fun j hj => ?_, fun hlt => ?_⟩
  · have htest := Nat.testBit_mod_two_pow x.toNat (trailZeros 64 x.toNat) j
    simpa [hmod, hj, BitVec.testBit_toNat] using htest.symm
  · rw [← BitVec.testBit_toNat, Nat.testBit_eq_decide_div_mod_eq, hbit hlt]; rfl

/-- Settles O24: the two-source form for the logic words, the checks of vcmp, and the mask and scalar results. -/
theorem vectorLogicAndMasks : Obligations.VectorLogicAndMasks := by
  intro h d a b k e m cond ty s
  refine ⟨fun hr => ?_, fun hr => ?_, fun hr => ?_, fun hr => ?_, fun hr => ?_, fun hr => ?_, fun hr => ?vsar,
    fun hr => ?vsel, fun hr => ⟨fun hclean => ?vcmp, fun hpo => ?vcmpTrap⟩, exec_vptest_ready, fun hr => ?_, fun hr => ?_,
    fun hr => ?_, fun hr => ?_, fun hr => ?_, fun hr => ?kpopc, fun hr => ?kffs⟩
  case vsar =>
    rw [exec_vsar, execVsar, vec2_ready rfl hr]
    simp only [Nat.cast_pow, Nat.cast_ofNat]
  case vsel =>
    rw [exec_vsel, execVsel, vecInto_ready rfl hr]
    exact congrArg _ (wentV_congr fun j => by cases active (s.me.readK e) ty j <;> rfl)
  case vcmp =>
    rw [exec_vcmp, execVcmp]
    refine (issue_onCtx (f := fun c => c.writeK e (maskOf ty (c.readK k) (fun j =>
      vcmpElem cond ty ((c.readV a).elem ty j) (vopElem c b ty j).1))) rfl hr ?_).trans
      (congrArg _ (went_congr rfl))
    rw [vcmpPoison_none hclean, orTrap_cons_none, orTrap_nil]
  case vcmpTrap =>
    rw [exec_vcmp, execVcmp]
    exact ⟨_, issue_trap rfl hr (by rw [vcmpPoison_first hpo]; rfl)⟩
  case kpopc =>
    rw [exec_kpopc, execKpopc, vecScalar_ready rfl hr rfl]
    simp only [popCount_eq, BitVec.testBit_toNat]
  case kffs =>
    obtain ⟨hle, hbelow, hat⟩ := trailZeros_word (s.me.readK k)
    exact ⟨_, hle, hbelow, hat, by rw [exec_kffs, execKffs, vecScalar_ready rfl hr rfl]⟩
  · rw [exec_vand, execVand, vec2_ready rfl hr]
  · rw [exec_vor, execVor, vec2_ready rfl hr]
  · rw [exec_vxor, execVxor, vec2_ready rfl hr]
  · rw [exec_vandn, execVandn, vec2_ready rfl hr]
  · rw [exec_vshl, execVshl, vec2_ready rfl hr]
  · rw [exec_vshr, execVshr, vec2_ready rfl hr]
  · rw [exec_kand, execKand, vecMaskOut_ready rfl hr]
  · rw [exec_kor, execKor, vecMaskOut_ready rfl hr]
  · rw [exec_kxor, execKxor, vecMaskOut_ready rfl hr]
  · rw [exec_kandn, execKandn, vecMaskOut_ready rfl hr]
  · rw [exec_knot, execKnot, vecMaskOut_ready rfl hr]

/-! Conversion (R188 to R190, R195, R197). -/

/-- A destination no narrower than the source takes the elements of one part (R188). -/
theorem cvtSource_widen {t st : Ty} (h : st.width ≤ t.width) (part j : Nat) : cvtSource t st part j = some (part * elems t + j) :=
  if_pos h

/-- A narrower destination has the elements of one part written (R188). -/
theorem cvtSource_narrow {t st : Ty} (h : t.width < st.width) (part j : Nat) : cvtSource t st part j
    = if part * elems st ≤ j ∧ j < (part + 1) * elems st then some (j - part * elems st) else none :=
  if_neg (Nat.not_le.mpr h)

/-- The blocks of vqmx, when it takes effect (R189). -/
theorem vqmx_ready {h : Hdr} {d a e : Fin 32} {ty sty : Ty} {part : Fin 16} {s : State}
    (hr : ready (.vqmx h d a e ty sty part) s = true) : execVqmx h d a e ty sty part s
      = .next (((s.modCtx s.cur (fun c =>
          (c.writeV d ((c.readV d).update ty (List.replicate (part.val * elems sty) none
            ++ ((List.range (elems sty / 32)).map (qmxBlock (s.me.readV a) ty sty)).flatMap (fun b =>
                  b.2.1.map (fun x => some (ElemOut.plain (x, b.2.2.1))))
            ++ List.replicate (elems ty - (part.val + 1) * elems sty) none))).writeS e
          (BitVec.ofNat 64 (leNat (((List.range (elems sty / 32)).map (qmxBlock (s.me.readV a) ty sty)).map
            (fun b => BitVec.ofNat 8 b.1))))
          (((List.range (elems sty / 32)).map (qmxBlock (s.me.readV a) ty sty)).any (fun b => b.2.2.1)))).vecEvents
          (Ev.sum (((List.range (elems sty / 32)).map (qmxBlock (s.me.readV a) ty sty)).map (fun b => b.2.2.2)))).retire
            s.cur s.me.pc) := issue_done rfl hr rfl

/-- Settles O25: the shared forms under a mask, and the blocks of vqmx. -/
theorem vectorConversions : Obligations.VectorConversions := by
  refine ⟨fun h d a e b op k ty sty part imm s => ⟨fun hr => ⟨fun hle => ?widen, fun hlt => ?narrow⟩, fun hr => ?dqmx,
    fun hr => ?_, fun hr => ?_, fun hr => ?_, fun hr => ?_, fun hr => ?_, fun hr => ?rng, fun hr => ?_, fun hr => ?_,
    fun hr => ?_⟩, fun h d a e ty sty part s hr => ?qmx⟩
  case widen =>
    rw [exec_vcvt, execVcvt, vecInto_ready rfl hr]
    simp only [cvtSource_widen hle, Option.isSome_some, Bool.and_true, Option.getD_some]
  case narrow =>
    have hsome : ∀ j, (cvtSource ty sty part.val j).isSome
        = decide (part.val * elems sty ≤ j ∧ j < (part.val + 1) * elems sty) := fun j => by
      rw [cvtSource_narrow hlt]; split <;> simp [*]
    have hget : ∀ j, (cvtSource ty sty part.val j).getD 0
        = if part.val * elems sty ≤ j ∧ j < (part.val + 1) * elems sty then j - part.val * elems sty else 0 := fun j => by
      rw [cvtSource_narrow hlt]; split <;> rfl
    rw [exec_vcvt, execVcvt, vecInto_ready rfl hr]
    simp only [hsome, hget]
  case dqmx =>
    rw [exec_vdqmx, execVdqmx, vecMasked_ready rfl hr]
    rfl
  case rng =>
    rw [exec_vrng, execVrng, vecMasked_ready rfl hr]
    exact congrArg _ (wentV_congr fun j => by cases op <;> rfl)
  case qmx =>
    rw [exec_vqmx, vqmx_ready hr]
    simp only [List.flatMap_map, List.map_map, List.any_map, qmxBlock, Function.comp_def]
    rfl
  · rw [exec_vexp2, execVexp2, vec1_ready rfl hr]
  · rw [exec_vlog2, execVlog2, vec1_ready rfl hr]
  · rw [exec_vrcp, execVrcp, vec1_ready rfl hr]
  · rw [exec_vrsqrt, execVrsqrt, vec1_ready rfl hr]
  · rw [exec_vsqrt, execVsqrt, vec1_ready rfl hr]
  · rw [exec_vldi]; exact vecFill_ready rfl hr
  · rw [exec_vldiI64]; exact vecFill_ready rfl hr
  · rw [exec_viota]; exact vecFill_ready rfl hr

/-! Permutation (R191). -/

/-- Settles O27: a copied element with its poison and that of its index. -/
theorem vectorPermutation : Obligations.VectorPermutation := by
  intro h d a b c k idx ty s
  refine ⟨fun hr => ?_, fun hr => ?perm2, fun hr => ?_, fun hr => ?_, fun hr => ?rot, fun hr => ?compress, fun hr => ?expand,
    fun hr => ?_, fun hr => ?ins⟩
  case perm2 =>
    rw [exec_vperm2, execVperm2, vecMasked_ready rfl hr]
    refine congrArg _ (wentV_congr fun j => ?_)
    by_cases hi : (elemOf s.me b ty j).1 % (2 * elems ty) < elems ty
    · exact (congrArg (fun z => chosen z _) (if_pos hi)).trans (if_pos hi).symm
    · exact (congrArg (fun z => chosen z _) (if_neg hi)).trans (if_neg hi).symm
  case rot =>
    rw [exec_vrot, execVrot, vecMasked_ready rfl hr]
    simp only [Nat.add_mod_mod]
    rfl
  case compress =>
    rw [exec_vcompress, execVcompress, vecInto_ready rfl hr]
    refine congrArg _ (wentV_congr fun j => ?_)
    rw [activeList]
    cases ((List.range (elems ty)).filter (fun j => active (s.me.readK k) ty j))[j]? with
    | none => rfl
    | some i => simp [ElemOut.plain, elemOf]
  case expand =>
    rw [exec_vexpand, execVexpand, vecMasked_ready rfl hr]
    exact congrArg _ (wentV_congr fun j => by simp [ElemOut.plain, elemOf, activeList])
  case ins =>
    rw [exec_vins, execVins, vecInto_ready rfl hr]
    rfl
  · rw [exec_vperm, execVperm, vecMasked_ready rfl hr]; rfl
  · rw [exec_vbcast, execVbcast, vecMasked_ready rfl hr]; rfl
  · rw [exec_vbcastl, execVbcastl, vecMasked_ready rfl hr]; rfl
  · rw [exec_vext, execVext, vecScalar_ready rfl hr rfl]

/-! Reductions (R192 to R194). -/

/-- An integer reduction over the values of the active elements. -/
theorem intReduce_eq (c : Ctx) (a : Fin 32) (k : Fin 8) (t : Ty) (z : Int) (f : Int → Int → Int) : intReduce c a k t z f
    = (((List.range (elems t)).filter (fun j => active (c.readK k) t j)).map (fun j => t.val ((c.readV a).elem t j))).foldl f z := by
  rw [intReduce, activeElems, activeList, List.foldl_map, List.foldl_map]; rfl

/-- A reduction of the active elements as they stand. -/
theorem foldl_activeElems (c : Ctx) (a : Fin 32) (k : Fin 8) (t : Ty) (z : Nat) (f : Nat → Nat → Nat) :
    (activeElems c a k t).foldl (fun r x => f r x.1) z
      = (((List.range (elems t)).filter (fun j => active (c.readK k) t j)).map ((c.readV a).elem t)).foldl f z := by
  rw [activeElems, activeList, List.foldl_map, List.foldl_map]; rfl

theorem anyPoison_eq (c : Ctx) (a : Fin 32) (k : Fin 8) (t : Ty) : anyPoison c a k t
    = ((List.range (elems t)).filter (fun j => active (c.readK k) t j)).any (fun j => (c.readV a).elemPoison t j) := by
  rw [anyPoison, activeElems, activeList, List.any_map]; rfl

/-- The lesser or greater of the active elements (Table 6.7). -/
theorem redBound_eq (c : Ctx) (a : Fin 32) (k : Fin 8) (t : Ty) (z : Int) (f : Int → Int → Int) (g : Nat → Nat → Nat) :
    redBound c a k t z f g
      = (let act := (List.range (elems t)).filter (fun j => active (c.readK k) t j)
         (if t = .f32 then BitVec.ofNat 64 ((act.map ((c.readV a).elem t)).foldl g 0x7FC00000)
           else t.put ((act.map (fun j => t.val ((c.readV a).elem t j))).foldl f z),
          act.any (fun j => (c.readV a).elemPoison t j), Ev.zero)) := by
  dsimp only
  rw [redBound, intReduce_eq, foldl_activeElems, anyPoison_eq]
  by_cases h : t = .f32 <;> simp only [h, if_true, if_false]

/-- A bitwise reduction of the active elements (Table 6.7). -/
theorem redBits_eq (c : Ctx) (a : Fin 32) (k : Fin 8) (t : Ty) (z : Nat) (f : Nat → Nat → Nat) :
    redBits c a k t z f
      = (let act := (List.range (elems t)).filter (fun j => active (c.readK k) t j)
         (t.put ((act.map ((c.readV a).elem t)).foldl f z : Nat), act.any (fun j => (c.readV a).elemPoison t j), Ev.zero)) := by
  rw [redBits, foldl_activeElems, anyPoison_eq]

/-- A scalar result with its events. -/
theorem vecScalar_events {i : Instr} {d : Fin 32} {f : Ctx → Word × Bool × Ev} {s : State} (hw : i.clauses.wn = 0)
    (hr : ready i s = true) : vecScalar i d f s = .next (((s.modCtx s.cur (fun c => c.writeS d (f s.me).1 (f s.me).2.1)).vecEvents
      (f s.me).2.2).retire s.cur s.me.pc) := issue_done hw hr rfl

theorem intMin_eq : (fun x y : Int => if x ≤ y then x else y) = min := by funext x y; omega
theorem intMax_eq : (fun x y : Int => if x ≥ y then x else y) = max := by funext x y; omega

/-- Settles O28: folds over the active elements, the f32 tree, the scan and the arg-max. -/
theorem vectorReductions : Obligations.VectorReductions := by
  intro h op d a k ty sat s
  refine ⟨fun hr => ?sum, fun hr => ?_, fun hr => ?_, fun hr => ?_, fun hr => ?_, fun hr => ?_, fun hr => ?scan,
    fun hr => ?_, fun hr => ?_⟩
  case sum =>
    rw [exec_vredsum, execVredsum]
    by_cases hty : ty = .f32
    · rw [if_pos hty, vecScalar_events rfl hr]
      have hpo : (redSum s.me a k ty).2.1 = anyPoison s.me a k ty := by rw [redSum, if_pos hty]
      rw [hpo, anyPoison_eq]
    · have hsum : redSum s.me a k ty = (wordOfInt (intReduce s.me a k ty 0 (· + ·)), anyPoison s.me a k ty, Ev.zero) := if_neg hty
      rw [if_neg hty, vecScalar_ready rfl hr (by rw [hsum]), hsum, intReduce_eq, anyPoison_eq, wordOfInt_eq]
  case scan => rw [exec_vscan, execVscan]; exact issue_done rfl hr rfl
  · rw [exec_vredmin, execVredmin, vecScalar_ready rfl hr (by rw [redBound_eq]), redBound_eq, intMin_eq]
  · rw [exec_vredmax, execVredmax, vecScalar_ready rfl hr (by rw [redBound_eq]), redBound_eq, intMax_eq]
  · rw [exec_vredand, execVredand, vecScalar_ready rfl hr rfl, redBits_eq]
  · rw [exec_vredor, execVredor, vecScalar_ready rfl hr rfl, redBits_eq]
  · rw [exec_vredxor, execVredxor, vecScalar_ready rfl hr rfl, redBits_eq]
  · rw [exec_vargmax, execVargmax, vecScalar_ready rfl hr rfl, ← anyPoison_eq]; rfl
  · rw [exec_vargmin, execVargmin, vecScalar_ready rfl hr rfl, ← anyPoison_eq]; rfl

end Sys2Proof.Machine

/-! ## Edges, token queues, the end of a firing and groups (05_actors.md). -/

namespace Sys2Proof.Machine

/-! What a word's checks look at is not changed by the wait clause that it takes (R47). -/

@[simp] theorem tokSizeOf_takeWait (s : State) (g : AgentId) (i : Instr) (n : Fin 16) :
    tokSizeOf (s.takeWait g i) n = tokSizeOf s n := by simp only [tokSizeOf, takeWait_cur, slotEdge_takeWait]
@[simp] theorem rateOf_takeWait (s : State) (g : AgentId) (i : Instr) (n : Fin 16) :
    rateOf (s.takeWait g i) n = rateOf s n := by simp only [rateOf, takeWait_cur, slotBind_takeWait]
@[simp] theorem windowTokens_takeWait (s : State) (g : AgentId) (i : Instr) (n : Fin 16) (j m : Nat) :
    windowTokens (s.takeWait g i) n j m = windowTokens s n j m := by simp only [windowTokens, takeWait_cur, slotEdge_takeWait]
@[simp] theorem bindTraps_takeWait (s : State) (g : AgentId) (i : Instr) (n : Fin 16) (out : Bool) :
    bindTraps (s.takeWait g i) n out = bindTraps s n out := by simp only [bindTraps, takeWait_cur, slotBind_takeWait]
@[simp] theorem sizeTrap_takeWait (s : State) (g : AgentId) (i : Instr) (x : EReg) (n : Fin 16) (m : Nat) :
    sizeTrap (s.takeWait g i) x n m = sizeTrap s x n m := by simp only [sizeTrap, tokSizeOf_takeWait]
@[simp] theorem maskTrap_takeWait (s : State) (g : AgentId) (i j : Instr) :
    maskTrap (s.takeWait g i) j = maskTrap s j := by simp only [maskTrap, takeWait_cur, maskFault_takeWait]
@[simp] theorem slotEos_takeWait (s : State) (i : Instr) (n : Fin 16) :
    slotEos (s.takeWait s.cur i) n = slotEos s n := by simp only [slotEos, me_takeWait, takeWait_cur, launchOf_takeWait]
@[simp] theorem estatWord_takeWait (s : State) (i : Instr) (n : Fin 16) :
    estatWord (s.takeWait s.cur i) n = estatWord s n := by
  simp only [estatWord, me_takeWait, takeWait_cur, slotBind_takeWait, slotEdge_takeWait, slotEos_takeWait]

theorem maskTrap_none {s : State} {i : Instr} (h : s.maskFault s.cur i = none) : maskTrap s i = none := by rw [maskTrap, h]

/-- A word that completes at issue, with its wait taken (R47). -/
theorem doneSig_out {i : Instr} {chk : List RegId} {s t : State} (hc : t.cur = s.cur) :
    (doneSig i t).out chk s = .next (completed i s t) := by rw [doneSig, hc]; rfl

/-- A word that changes registers and completes at issue. -/
theorem doneSig_modCtx {i : Instr} {chk : List RegId} {s : State} {f : Ctx → Ctx} :
    (doneSig i ((s.takeWait s.cur i).modCtx s.cur f)).out chk s = .next (wentE i s f) := doneSig_out (by simp)

/-- The checks of a pop or push on clean registers and queues of the mask (R159, R160). -/
theorem orTrap_tokenTraps {s : State} {i : Instr} {early late : List (Option (Nat × Nat × Nat))}
    (hm : s.maskFault s.cur i = none) (k : Eff) : orTrap (tokenTraps s i early none late) k = orTrap (early ++ late) k := by
  rw [tokenTraps, maskTrap_none hm, ite_self, List.cons_append, List.cons_append, orTrap_cons_none, orTrap_cons_none]

/-- The checks of a pop or peek on clean registers, from window index j (R159). -/
def windowChecks (s : State) (x : EReg) (slot : Fin 16) (j n : Nat) : List (Option (Nat × Nat × Nat)) :=
  bindTraps s slot false ++ [sizeTrap s x slot n] ++ [rateTrap (decide ((s.me.slotUse slot).len < j + n)) slot 3]

/-- The checks of a push on clean registers (R160). -/
def pushChecks (s : State) (x : EReg) (slot : Fin 16) (n : Nat) : List (Option (Nat × Nat × Nat)) :=
  bindTraps s slot true ++ [sizeTrap s x slot n]
    ++ [rateTrap (slotEos s slot) slot 5, rateTrap (decide (rateOf s slot < (s.me.slotUse slot).pushed.length + n)) slot 4]

/-- epop on a queue of the mask: its checks, then the tokens and the cursor (R159). -/
theorem epop_out {h : Hdr} {x : EReg} {slot : Fin 16} {n1 : Fin 64} {cl : Clauses} {s : State}
    (hr : ready (.epop h x slot n1 cl) s = true) (hm : s.maskFault s.cur (.epop h x slot n1 cl) = none) :
    Machine.exec (.epop h x slot n1 cl) s
      = (orTrap (windowChecks s x slot (s.me.slotUse slot).cursor (n1.val + 1))
          (doneSig (.epop h x slot n1 cl) ((s.takeWait s.cur (.epop h x slot n1 cl)).modCtx s.cur (fun c =>
            (c.putTokens x (tokSizeOf s slot) (windowTokens s slot (s.me.slotUse slot).cursor (n1.val + 1))).setSlotUse slot
              { s.me.slotUse slot with cursor := (s.me.slotUse slot).cursor + (n1.val + 1) })))).out [] s := by
  rw [exec_epop, execEpop, issue_ready hr, popEffect]
  simp only [me_takeWait, takeWait_cur, poisonS_nil, tokSizeOf_takeWait, windowTokens_takeWait, bindTraps_takeWait,
    sizeTrap_takeWait, modCtx_modCtx, if_true]
  rw [orTrap_tokenTraps (by simpa using hm)]
  rfl

/-- epeek on a queue of the mask with a clean index (R159). -/
theorem epeek_out {h : Hdr} {x : EReg} {slot : Fin 16} {z : Fin 32} {n1 : Fin 64} {cl : Clauses} {s : State}
    (hr : ready (.epeek h x slot z n1 cl) s = true) (hm : s.maskFault s.cur (.epeek h x slot z n1 cl) = none)
    (hz : s.me.poisS z = false) : Machine.exec (.epeek h x slot z n1 cl) s
      = (orTrap (windowChecks s x slot (s.me.readS z).toNat (n1.val + 1))
          (doneSig (.epeek h x slot z n1 cl) ((s.takeWait s.cur (.epeek h x slot z n1 cl)).modCtx s.cur (fun c =>
            c.putTokens x (tokSizeOf s slot) (windowTokens s slot (s.me.readS z).toNat (n1.val + 1)))))).out [.s z] s := by
  have hp : poisonS s.me [z] = none := by rw [poisonS_cons _ hz, poisonS_nil]
  rw [exec_epeek, execEpeek, issue_ready hr, popEffect]
  simp only [me_takeWait, takeWait_cur, hp, tokSizeOf_takeWait, windowTokens_takeWait, bindTraps_takeWait,
    sizeTrap_takeWait, Bool.false_eq_true, if_false]
  rw [orTrap_tokenTraps (by simpa using hm)]
  rfl

/-- epush of a clean source on a queue of the mask (R160). -/
theorem epush_out {h : Hdr} {x : EReg} {slot : Fin 16} {n1 : Fin 64} {cl : Clauses} {s : State}
    (hr : ready (.epush h x slot n1 cl) s = true) (hm : s.maskFault s.cur (.epush h x slot n1 cl) = none)
    (hp : pushPoison s.me x (Nat.min 256 ((n1.val + 1) * tokSizeOf s slot)) = none) :
    Machine.exec (.epush h x slot n1 cl) s
      = (orTrap (pushChecks s x slot (n1.val + 1))
          (doneSig (.epush h x slot n1 cl) ((s.takeWait s.cur (.epush h x slot n1 cl)).modCtx s.cur (fun c =>
            c.setSlotUse slot { s.me.slotUse slot with
              pushed := (s.me.slotUse slot).pushed ++ pushTokens c x (tokSizeOf s slot) (n1.val + 1) (ctxTag s.cur) })))).out
                (eregRegs x) s := by
  rw [exec_epush, execEpush, issue_ready hr]
  simp only [me_takeWait, takeWait_cur, hp, tokSizeOf_takeWait, bindTraps_takeWait, sizeTrap_takeWait, slotEos_takeWait,
    rateOf_takeWait]
  rw [orTrap_tokenTraps (by simpa using hm)]
  rfl

/-- eeos on a queue of the mask (R161). -/
theorem eeos_out {h : Hdr} {slot : Fin 16} {cl : Clauses} {s : State}
    (hr : ready (.eeos h slot cl) s = true) (hm : s.maskFault s.cur (.eeos h slot cl) = none) :
    Machine.exec (.eeos h slot cl) s
      = (orTrap (bindTraps s slot true ++ [rateTrap (slotEos s slot) slot 5,
            rateTrap ((s.me.slotUse slot).pushed.isEmpty && decide (rateOf s slot < 1)) slot 4])
          (doneSig (.eeos h slot cl) ((s.takeWait s.cur (.eeos h slot cl)).modCtx s.cur (fun c =>
            c.setSlotUse slot { s.me.slotUse slot with
              pushed := if (s.me.slotUse slot).pushed.isEmpty then [⟨0, true, false, ctxTag s.cur⟩]
                else markEos (s.me.slotUse slot).pushed, eos := true })))).out [] s := by
  rw [exec_eeos, execEeos, issue_ready hr]
  simp only [me_takeWait, takeWait_cur, maskTrap_takeWait, maskTrap_none hm, bindTraps_takeWait, slotEos_takeWait,
    rateOf_takeWait, List.cons_append, List.nil_append, orTrap_cons_none]

/-- estat on a queue of the mask (R162). -/
theorem estat_out {h : Hdr} {d : Fin 32} {slot : Fin 16} {cl : Clauses} {s : State}
    (hr : ready (.estat h d slot cl) s = true) (hm : s.maskFault s.cur (.estat h d slot cl) = none) :
    Machine.exec (.estat h d slot cl) s
      = (orTrap [rateTrap (s.slotBind s.cur slot).isNone slot 1]
          (doneSig (.estat h d slot cl) ((s.takeWait s.cur (.estat h d slot cl)).modCtx s.cur (fun c =>
            c.writeS d (estatWord s slot) false)))).out [] s := by
  rw [exec_estat, execEstat, issue_ready hr]
  simp only [takeWait_cur, maskTrap_takeWait, maskTrap_none hm, slotBind_takeWait, estatWord_takeWait, orTrap_cons_none]

/-! Which check of an edge word fails (R137). -/

@[simp] theorem rateTrap_true (slot : Fin 16) (r : Nat) : rateTrap true slot r = some (0x0A, slot.val + 16 * r, 0) := rfl
@[simp] theorem rateTrap_false (slot : Fin 16) (r : Nat) : rateTrap false slot r = none := rfl

theorem bindTraps_unbound {s : State} {slot : Fin 16} (h : s.slotBind s.cur slot = none) (out : Bool) :
    bindTraps s slot out = [rateTrap true slot 1] := by rw [bindTraps, h]

theorem bindTraps_bound {s : State} {slot : Fin 16} {b : SlotBind} (h : s.slotBind s.cur slot = some b) (out : Bool) :
    bindTraps s slot out = [rateTrap (b.out != out) slot 2] := by rw [bindTraps, h]

theorem tokSizeOf_eq {s : State} {slot : Fin 16} {e : Edge} (h : s.slotEdge s.cur slot = some e) : tokSizeOf s slot = e.tokSize := by
  rw [tokSizeOf, h]

theorem rateOf_eq {s : State} {slot : Fin 16} {b : SlotBind} (h : s.slotBind s.cur slot = some b) : rateOf s slot = b.rate := by
  rw [rateOf, h]

theorem windowTokens_eq {s : State} {slot : Fin 16} {e : Edge} (h : s.slotEdge s.cur slot = some e) (j n : Nat) :
    windowTokens s slot j n = (e.queue.drop j).take n := by rw [windowTokens, h]

/-- The tokens fit the register operand (R159). -/
def fits (x : EReg) (n sz : Nat) : Prop := match x with | .scal _ => sz ≤ 8 | .vec _ => n * sz ≤ 256

theorem sizeTrap_fits {s : State} {x : EReg} {slot : Fin 16} {n : Nat} (h : fits x n (tokSizeOf s slot)) :
    sizeTrap s x slot n = none := by
  cases x with
  | scal r => rw [sizeTrap, decide_eq_false (Nat.not_lt.mpr h), rateTrap_false]
  | vec r => rw [sizeTrap, decide_eq_false (Nat.not_lt.mpr h), rateTrap_false]

theorem sizeTrap_not_fits {s : State} {x : EReg} {slot : Fin 16} {n : Nat} (h : ¬ fits x n (tokSizeOf s slot)) :
    sizeTrap s x slot n = some (0x0A, slot.val + 112, 0) := by
  cases x with
  | scal r => rw [sizeTrap, decide_eq_true (Nat.not_le.mp h), rateTrap_true]
  | vec r => rw [sizeTrap, decide_eq_true (Nat.not_le.mp h), rateTrap_true]

/-- The last token pushed gets the mark (R161). -/
theorem markEos_append (ts : List Token) (t : Token) : markEos (ts ++ [t]) = ts ++ [{ t with eos := true }] := by
  induction ts with
  | nil => rfl
  | cons u us ih => cases us <;> simp_all [markEos]

/-- Settles O16: the checks pass, and the tokens or the marks are those of the edge. -/
theorem edgePopsAndPushes : Obligations.EdgePopsAndPushes := by
  refine ⟨fun h x slot z n1 cl s b e hb ho he hfit => ⟨fun hr hm hlen => ?pop, fun hr hm hz hlen => ?peek⟩,
    fun h x d slot n1 cl s b e hb he => ⟨fun ho heos => ⟨fun hr hm hsrc hrate => ?push, fun hr hm => ⟨fun ts t hts => ?mark, fun hts h1 => ?zero⟩⟩, fun hr hm => ?stat⟩⟩
  case pop =>
    have hfit' : fits x (n1.val + 1) (tokSizeOf s slot) := by rw [tokSizeOf_eq he]; cases x <;> exact hfit
    rw [epop_out hr hm, windowChecks, bindTraps_bound hb, sizeTrap_fits hfit', ho, decide_eq_false (Nat.not_lt.mpr hlen),
      tokSizeOf_eq he, windowTokens_eq he]
    refine (doneSig_modCtx (chk := [])).trans ?_
    cases x <;> rfl
  case peek =>
    have hfit' : fits x (n1.val + 1) (tokSizeOf s slot) := by rw [tokSizeOf_eq he]; cases x <;> exact hfit
    rw [epeek_out hr hm hz, windowChecks, bindTraps_bound hb, sizeTrap_fits hfit', ho, decide_eq_false (Nat.not_lt.mpr hlen),
      tokSizeOf_eq he, windowTokens_eq he]
    refine (doneSig_modCtx (chk := [.s z])).trans ?_
    cases x <;> rfl
  case push =>
    have hsrc' : fits x (n1.val + 1) (tokSizeOf s slot)
        ∧ pushPoison s.me x (Nat.min 256 ((n1.val + 1) * tokSizeOf s slot)) = none := by
      rw [tokSizeOf_eq he]
      cases x with
      | scal r => exact ⟨hsrc.1, by rw [pushPoison, poisonS_cons _ hsrc.2, poisonS_nil]⟩
      | vec r =>
        have hmin : Nat.min 256 ((n1.val + 1) * e.tokSize) = (n1.val + 1) * e.tokSize := Nat.min_eq_right hsrc.1
        exact ⟨hsrc.1, by rw [pushPoison, poisonV, hmin, hsrc.2]; rfl⟩
    obtain ⟨hfit, hpo⟩ := hsrc'
    rw [epush_out hr hm hpo, pushChecks, bindTraps_bound hb, sizeTrap_fits hfit, ho, heos, rateOf_eq hb,
      decide_eq_false (Nat.not_lt.mpr hrate), tokSizeOf_eq he]
    exact doneSig_modCtx (chk := eregRegs x)
  case mark =>
    have hne : (s.me.slotUse slot).pushed.isEmpty = false := by rw [hts]; cases ts <;> rfl
    have hmark : markEos (s.me.slotUse slot).pushed = ts ++ [{ t with eos := true }] := by rw [hts, markEos_append]
    rw [eeos_out hr hm, bindTraps_bound hb, ho, heos, hne, hmark]
    exact doneSig_modCtx (chk := [])
  case zero =>
    have hnil : (s.me.slotUse slot).pushed.isEmpty = true := by rw [hts]; rfl
    rw [eeos_out hr hm, bindTraps_bound hb, ho, heos, hnil, rateOf_eq hb, decide_eq_false (Nat.not_lt.mpr h1)]
    exact doneSig_modCtx (chk := [])
  case stat =>
    rw [estat_out hr hm, hb]
    exact doneSig_modCtx (chk := [])

/-! Edge rate violations (R137). -/

/-- A failing check of an edge word. -/
theorem out_findSome {cs : List (Option (Nat × Nat × Nat))} {k : Eff} {chk : List RegId} {s : State} {c d a : Nat}
    (h : cs.findSome? id = some (c, d, a)) : (orTrap cs k).out chk s = .next (trapped s chk c d a) := by
  rw [orTrap_some h]; rfl

/-- Some check is that of a violation on the slot (R137). -/
theorem edge_violation {cs : List (Option (Nat × Nat × Nat))} {k : Eff} {chk : List RegId} {s : State} {i : Instr} {d d' : Nat}
    (he : Machine.exec i s = (orTrap cs k).out chk s) (h : cs.findSome? id = some (0x0A, d, 0)) (hd : d = d') :
    ∃ chk, Machine.exec i s = .next (trapped s chk 0x0A d' 0) := ⟨chk, by rw [he, out_findSome h, hd]⟩

theorem pushPoison_none {c : Ctx} {x : EReg} {n : Nat}
    (h : match x with | .scal r => c.poisS r = false | .vec r => ∀ k, (c.readV r).poisonIn k = false) :
    pushPoison c x n = none := by
  cases x with
  | scal r => rw [pushPoison, poisonS_cons _ h, poisonS_nil]
  | vec r => rw [pushPoison, poisonV, h n]; rfl

/-- Settles O17: in the order of the checks, the first that fails. -/
theorem edgeRateViolations : Obligations.EdgeRateViolations := by
  intro h x d z slot n1 cl s i hi hr hm hz hx
  have hp : ∀ n, pushPoison s.me x n = none := fun n => pushPoison_none (by cases x <;> exact hx)
  refine ⟨fun hb => ?unbound, fun b e hb he hbig hdir => ?size, fun b e hb he hfit => ⟨fun hpop ho => ?popWay, fun hi' ho hlen => ?past,
    fun hi' ho hlen => ?pastPeek, fun hpush ho => ?pushWay, fun hpush ho heos => ?eos, fun hi' ho heos hrate => ?reserved⟩⟩
  case unbound =>
    rcases hi with rfl | rfl | rfl | rfl | rfl
    · exact edge_violation (epop_out hr hm) (by rw [windowChecks, bindTraps_unbound hb]; rfl) rfl
    · exact edge_violation (epeek_out hr hm hz) (by rw [windowChecks, bindTraps_unbound hb]; rfl) rfl
    · exact edge_violation (epush_out hr hm (hp _)) (by rw [pushChecks, bindTraps_unbound hb]; rfl) rfl
    · exact edge_violation (eeos_out hr hm) (by rw [bindTraps_unbound hb]; rfl) rfl
    · exact edge_violation (estat_out hr hm) (by rw [hb]; rfl) rfl
  case size =>
    have hbig' : sizeTrap s x slot (n1.val + 1) = some (0x0A, slot.val + 112, 0) :=
      sizeTrap_not_fits (by rw [tokSizeOf_eq he]; cases x <;> exact hbig)
    rcases hdir with ⟨rfl | rfl, ho⟩ | ⟨rfl, ho⟩
    · exact edge_violation (epop_out hr hm) (by rw [windowChecks, bindTraps_bound hb, ho, hbig']; rfl) rfl
    · exact edge_violation (epeek_out hr hm hz) (by rw [windowChecks, bindTraps_bound hb, ho, hbig']; rfl) rfl
    · exact edge_violation (epush_out hr hm (hp _)) (by rw [pushChecks, bindTraps_bound hb, ho, hbig']; rfl) rfl
  all_goals
    have hfit' : sizeTrap s x slot (n1.val + 1) = none := sizeTrap_fits (by rw [tokSizeOf_eq he]; cases x <;> exact hfit)
  case popWay =>
    rcases hpop with rfl | rfl
    · exact edge_violation (epop_out hr hm) (by rw [windowChecks, bindTraps_bound hb, ho]; rfl) rfl
    · exact edge_violation (epeek_out hr hm hz) (by rw [windowChecks, bindTraps_bound hb, ho]; rfl) rfl
  case past =>
    subst hi'
    exact edge_violation (epop_out hr hm)
      (by rw [windowChecks, bindTraps_bound hb, ho, hfit', decide_eq_true hlen]; rfl) rfl
  case pastPeek =>
    subst hi'
    exact edge_violation (epeek_out hr hm hz)
      (by rw [windowChecks, bindTraps_bound hb, ho, hfit', decide_eq_true hlen]; rfl) rfl
  case pushWay =>
    rcases hpush with rfl | rfl
    · exact edge_violation (epush_out hr hm (hp _)) (by rw [pushChecks, bindTraps_bound hb, ho]; rfl) rfl
    · exact edge_violation (eeos_out hr hm) (by rw [bindTraps_bound hb, ho]; rfl) rfl
  case eos =>
    rcases hpush with rfl | rfl
    · exact edge_violation (epush_out hr hm (hp _)) (by rw [pushChecks, bindTraps_bound hb, ho, hfit', heos]; rfl) rfl
    · exact edge_violation (eeos_out hr hm) (by rw [bindTraps_bound hb, ho, heos]; rfl) rfl
  case reserved =>
    subst hi'
    exact edge_violation (epush_out hr hm (hp _))
      (by rw [pushChecks, bindTraps_bound hb, ho, hfit', heos, rateOf_eq hb, decide_eq_true hrate]; rfl) rfl

/-! Token queues (R163, R164). -/

/-- Every token queue that an unmasked word names is in the launch's mask (R56). -/
theorem maskFault_tqs {s : State} {g : AgentId} {i : Instr} (h : s.maskFault g i = none) :
    ∀ q ∈ tqsOf i, bitOf (s.view g).tqmask q.val = true := by
  have hT : State.maskFault.restT i (s.view g) = none := by
    have hQ : State.maskFault.restQ i (s.view g) = none := by
      rw [State.maskFault] at h
      cases hb : bankOf i with
      | none => simpa [hb] using h
      | some b => rw [hb] at h; dsimp only at h; split at h; exacts [h, nomatch h]
    rw [State.maskFault.restQ] at hQ
    cases hq : mqOf i with
    | none => simpa [hq] using hQ
    | some q => rw [hq] at hQ; dsimp only at hQ; split at hQ; exacts [hQ, nomatch hQ]
  intro q hq
  rw [State.maskFault.restT] at hT
  cases hf : (tqsOf i).find? (fun q => !bitOf (s.view g).tqmask q.val) with
  | some q' => rw [hf] at hT; nomatch hT
  | none => simpa using List.find?_eq_none.mp hf q hq

/-- The wait clause of an issued word is satisfied (R47). -/
theorem ready_wait {i : Instr} {s : State} (hr : ready i s = true) (hm : s.maskFault s.cur i = none) (hw : i.clauses.wn ≠ 0) :
    i.clauses.wn.val ≤ s.tq s.cur i.clauses.wq := by
  have hbit := maskFault_tqs hm i.clauses.wq (by simp [tqsOf, hw])
  have hwait : s.waitReady s.cur i = true := by
    simp only [ready, Bool.and_eq_true] at hr
    exact hr.1.1.2
  simpa [State.waitReady, hw, hbit] using hwait

theorem tq_setTq (s : State) (g : AgentId) (q q' : Fin 16) (n : Nat) :
    (s.setTq g q n).tq g q' = if q = q' then n else s.tq g q' := by
  cases g with
  | mgmt => exact vset_get ..
  | tile t c =>
    rw [State.setTq, State.tq, tile_modTile_self]
    exact vset_get ..

/-- What a queue holds once the word's own wait is put back (R163). -/
theorem tq_takeWait_add {i : Instr} {s : State} (hr : ready i s = true) (hm : s.maskFault s.cur i = none) (q : Fin 16) :
    (s.takeWait s.cur i).tq s.cur q + (if i.clauses.wq = q then i.clauses.wn.val else 0) = s.tq s.cur q := by
  by_cases hw : i.clauses.wn = 0
  · rw [takeWait_none hw, hw]; simp
  · have hle := ready_wait hr hm hw
    rw [State.takeWait, if_neg hw, tq_setTq]
    by_cases hq : i.clauses.wq = q
    · subst hq; rw [if_pos rfl, if_pos rfl]; omega
    · rw [if_neg hq, if_neg hq, Nat.add_zero]

/-! Group words (R170 to R172). -/

@[simp] theorem pastOpen_takeWait (s : State) (i : Instr) : (s.takeWait s.cur i).pastOpen s.cur = s.pastOpen s.cur := by
  have hctx : ∀ t c, (s.takeWait s.cur i).ctx (.tile t c) = s.ctx (.tile t c) := fun t c => ctx_takeWait ..
  simp only [State.ctx] at hctx
  cases hc : s.cur with
  | mgmt => rfl
  | tile t c => simp only [hc] at hctx; simp only [State.pastOpen, hctx]

/-- The effect of a group word with its wait taken (R170). -/
theorem groupInstr_out {i : Instr} {srcs : List (Fin 32)} {y : Fin 32} {op : Ctx → GroupOp} {dst : Option (Fin 32)}
    {blocks release : Bool} {s : State} (hr : ready i s = true) (hd : release = true → drained s) :
    groupInstr i srcs y op dst blocks release s
      = (orTrap [poisonS s.me srcs, maskTrap s i] (.done (sendGroup (s.takeWait s.cur i) (s.me.readS y).toNat (op s.me) dst (sqOf i)
          (blocks && !i.clauses.se)))).out (srcs.map .s) s := by
  rw [groupInstr, issue_ready hr]
  cases release with
  | false => simp only [me_takeWait, maskTrap_takeWait, Bool.false_eq_true, if_false]
  | true =>
    obtain ⟨hw, ho⟩ := hd rfl
    simp only [me_takeWait, maskTrap_takeWait, if_true, afterDrain, hw, List.isEmpty_nil, Bool.not_true, Bool.false_eq_true,
      if_false, takeWait_cur, pastOpen_takeWait, ho]

/-- A group word with clean operands and queues of the mask sends its request (R170). -/
theorem groupInstr_sent {i : Instr} {srcs : List (Fin 32)} {y : Fin 32} {op : Ctx → GroupOp} {dst : Option (Fin 32)}
    {blocks release : Bool} {s : State} (hr : ready i s = true) (hd : release = true → drained s)
    (hm : s.maskFault s.cur i = none) (hc : ∀ r ∈ srcs, s.me.poisS r = false) :
    groupInstr i srcs y op dst blocks release s
      = .next (groupSent i s (s.me.readS y).toNat (op s.me) dst blocks) := by
  rw [groupInstr_out hr hd, poisonS_none hc, maskTrap_none hm, orTrap_cons_none, orTrap_cons_none, orTrap_nil]
  simp only [sendGroup, takeWait_cur, issued_takeWait, out_done, groupSent]

/-- A poisoned operand of a group word traps before anything is sent (R170). -/
theorem groupInstr_poison {i : Instr} {srcs : List (Fin 32)} {y r : Fin 32} {op : Ctx → GroupOp} {dst : Option (Fin 32)}
    {blocks release : Bool} {s : State} (hr : ready i s = true) (hp : poisonS s.me srcs = some (0x07, r.val, 0)) :
    groupInstr i srcs y op dst blocks release s = .next (trapped s (srcs.map .s) 0x07 r.val 0) := by
  rw [groupInstr, issue_ready hr]
  simp only [me_takeWait, hp, orTrap_cons_some]
  rfl

/-- Settles O18: the queue after its own wait, and the request of each group word. -/
theorem tokenQueueAndGroupWords : Obligations.TokenQueueAndGroupWords := by
  refine ⟨fun h d q n cl s => ⟨fun hr hm => ⟨fun hle => ?sig, fun hgt => ?sigFull⟩, fun hr hm => ?wait, fun hr hm => ?rd⟩,
    fun h op ty arr x y z cl s => ⟨fun i hi hr hp => ?poison, fun i hi hr => ⟨fun hp => ?poisonY, fun hc hp => ?poisonZ⟩,
      fun hy => ⟨fun hr hm => ?join, fun hr hm => ?leave, fun hr hm hz => ?gwait, fun hd => ⟨fun hr hm => ?arrive, fun hr hm => ?bar,
        fun hr hm hz => ?red⟩⟩⟩⟩
  case sig =>
    rw [exec_tqsig, execTqsig, issue_ready hr]
    simp only [maskTrap_takeWait, maskTrap_none hm, orTrap_cons_none, orTrap_nil, takeWait_cur, if_neg (Nat.not_lt.mpr hle)]
    exact doneSig_out (chk := []) (by simp)
  case sigFull =>
    rw [exec_tqsig, execTqsig, issue_ready hr]
    simp only [maskTrap_takeWait, maskTrap_none hm, orTrap_cons_none, orTrap_nil, takeWait_cur, if_pos hgt, out_hold]
  case wait =>
    rw [exec_tqwait, execTqwait, issue_ready hr]
    simp only [maskTrap_takeWait, maskTrap_none hm, orTrap_cons_none, orTrap_nil]
    exact doneSig_out (chk := []) (by simp)
  case rd =>
    have hq := tq_takeWait_add hr hm q
    rw [exec_tqrd, execTqrd, issue_ready hr]
    simp only [maskTrap_takeWait, maskTrap_none hm, orTrap_cons_none, orTrap_nil, takeWait_cur]
    refine (doneSig_modCtx (chk := [])).trans ?_
    rw [← hq]; rfl
  case poison =>
    have hp' := poisonS_head [] hp
    rcases hi with rfl | rfl | rfl | rfl
    · rw [exec_gjoin, execGjoin]; exact groupInstr_poison hr hp'
    · rw [exec_gleave, execGleave]; exact groupInstr_poison hr hp'
    · rw [exec_garrive, execGarrive]; exact groupInstr_poison hr hp'
    · rw [exec_gbar, execGbar]; exact groupInstr_poison hr hp'
  case poisonY =>
    have hp' := poisonS_head [z] hp
    rcases hi with rfl | rfl
    · rw [exec_gwait, execGwait]; exact groupInstr_poison hr hp'
    · rw [exec_gred, execGred]; exact groupInstr_poison hr hp'
  case poisonZ =>
    have hp' := (poisonS_cons [z] hc).trans (poisonS_head [] hp)
    rcases hi with rfl | rfl
    · rw [exec_gwait, execGwait]; exact groupInstr_poison hr hp'
    · rw [exec_gred, execGred]; exact groupInstr_poison hr hp'
  all_goals
    have hone : ∀ r ∈ [y], s.me.poisS r = false := by simpa using hy
    have htwo : s.me.poisS z = false → ∀ r ∈ [y, z], s.me.poisS r = false := fun hz => by simpa using ⟨hy, hz⟩
  case join => rw [exec_gjoin, execGjoin]; exact groupInstr_sent hr (fun h => nomatch h) hm hone
  case leave => rw [exec_gleave, execGleave]; exact groupInstr_sent hr (fun h => nomatch h) hm hone
  case gwait => rw [exec_gwait, execGwait]; exact groupInstr_sent hr (fun h => nomatch h) hm (htwo hz)
  case arrive => rw [exec_garrive, execGarrive]; exact groupInstr_sent hr (fun _ => hd) hm hone
  case bar => rw [exec_gbar, execGbar]; exact groupInstr_sent hr (fun _ => hd) hm hone
  case red => rw [exec_gred, execGred]; exact groupInstr_sent hr (fun _ => hd) hm (htwo hz)

/-! The end of a firing (R132, R165, R166). -/

/-- An edge of a launch after a change of the edges of one number. -/
theorem edge_modEdge (l : Launch) (n m : Nat) (f : Edge → Edge) (hnum : ∀ e, (f e).num = e.num) :
    (l.modEdge n f).edge m = if m = n then (l.edge m).map f else l.edge m := by
  have hkey : ∀ e : Edge, (if (e.num == n) = true then f e else e).num = e.num := fun e => by split <;> simp [hnum]
  rw [Launch.edge, Launch.modEdge, List.find?_map]
  have hcomp : ((fun e : Edge => e.num == m) ∘ fun e => if (e.num == n) = true then f e else e) = fun e => e.num == m :=
    funext fun e => by rw [Function.comp, hkey]
  rw [hcomp, Launch.edge]
  cases he : l.edges.find? (fun e => e.num == m) with
  | none => split <;> rfl
  | some e =>
    have hm : e.num = m := by simpa using List.find?_some he
    rw [Option.map_some, hm]
    by_cases h : m = n <;> simp [h]

theorem edge_modEdge_self {l : Launch} {n : Nat} {f : Edge → Edge} {e : Edge} (hnum : ∀ e, (f e).num = e.num)
    (he : l.edge n = some e) : (l.modEdge n f).edge n = some (f e) := by rw [edge_modEdge _ _ _ _ hnum, if_pos rfl, he]; rfl

theorem edge_modEdge_other {l : Launch} {n m : Nat} {f : Edge → Edge} (hnum : ∀ e, (f e).num = e.num) (hm : m ≠ n) :
    (l.modEdge n f).edge m = l.edge m := by rw [edge_modEdge _ _ _ _ hnum, if_neg hm]

@[simp] theorem ctx_modLaunchOf (s : State) (g g' : AgentId) (f : Launch → Launch) : (s.modLaunchOf g f).ctx g' = s.ctx g' := by
  cases g with
  | mgmt => cases g' <;> rfl
  | tile t c => rw [State.modLaunchOf]; cases s.launchOf (.tile t c) <;> cases g' <;> rfl

/-- Counting an issue keeps whether there is a firing. -/
theorem firing_countIssue (s : State) (g : AgentId) : ((s.countIssue g).ctx g).firing.isSome = (s.ctx g).firing.isSome := by
  have hctx : (s.countIssue g).ctx g = (s.modCtx g (fun c =>
      { c with
        lastIssue := some (s.order g)
        winIssues := c.winIssues + 1
        hIssued := if c.phase == .inHandler then c.hIssued + 1 else c.hIssued
        firing := if c.phase == .inHandler then c.firing
          else c.firing.map (fun f => { f with issued := f.issued + 1 }) })).ctx g := by
    cases g with
    | mgmt => rfl
    | tile t c => exact ctx_modTile_self rfl c
  rw [hctx, ctx_modCtx_self]
  dsimp only
  split <;> simp

/-- After an end the context has no firing (R165). -/
theorem endFiring_ctx {s : State} {g : AgentId} (h : (s.ctx g).firing.isSome = true) :
    ((endFiring s g).ctx g).firing = none ∧ ((endFiring s g).ctx g).phase = .idle := by
  obtain ⟨f, hf⟩ := Option.isSome_iff_exists.mp h
  rw [endFiring, hf]
  simp only [ctx_modCtx_self, and_self]

/-- end in an ordinary firing, with nothing outstanding (R165). -/
theorem endF_cases {h : Hdr} {s : State} (hr : ready (.endF h) s = true) (hp : s.me.phase = .running) (hd : drained s)
    (hq : s.me.reqs = []) (hb : matBusy s s.cur = false) :
    (shortSlot s s.cur = none → Machine.exec (.endF h) s = .next (endFiring (s.countIssue s.cur) s.cur))
    ∧ (∀ n, shortSlot s s.cur = some n → Machine.exec (.endF h) s = .next (trapped s [] 0x0A (n.val + 96) 0)) := by
  obtain ⟨hw, ho⟩ := hd
  have hbusy : s.me.busy = false := by rw [Ctx.busy, hq]; rfl
  have hph : trapIf (s.me.phase == .inHandler) 0x03 0x34 0 = none := by rw [hp]; rfl
  rw [exec_endF, execEndF, issue_ready hr, takeWait_none rfl]
  simp only [hph, orTrap_cons_none, orTrap_nil, hw, List.isEmpty_nil, Bool.not_true, Bool.false_eq_true, if_false, hbusy, ho, hb,
    Bool.or_false]
  cases shortSlot s s.cur with
  | none => exact ⟨fun _ => rfl, fun n hn => nomatch hn⟩
  | some m => exact ⟨(fun hn => nomatch hn), fun n hn => by cases hn; rfl⟩

/-- A request to enable or disable an actor (R166). -/
theorem askEnable_out {i : Instr} {a : Fin 32} {v : Bool} {s : State} (hr : ready i s = true) (hw : i.clauses.wn = 0) :
    issue i [.s a] s (fun s => orTrap [poisonS s.me [a], instTrap s a] <| .done (askEnable s s.cur (s.me.readS a).toNat v))
      = (orTrap [poisonS s.me [a], instTrap s a] <| .done (askEnable s s.cur (s.me.readS a).toNat v)).out [.s a] s := by
  rw [issue_ready hr, takeWait_none hw]

/-- The checks of actena and actdis, and what they send (R166). -/
theorem askEnable_cases {i : Instr} {a : Fin 32} {v : Bool} {s : State} (he : Machine.exec i s
      = (orTrap [poisonS s.me [a], instTrap s a] <| .done (askEnable s s.cur (s.me.readS a).toNat v)).out [.s a] s) :
    (s.me.poisS a = true → Machine.exec i s = .next (trapped s [.s a] 0x07 a.val 0))
    ∧ (∀ l, s.launchOf s.cur = some l → s.me.poisS a = false →
        (l.inst (s.me.readS a).toNat = none → Machine.exec i s = .next (trapped s [.s a] 0x06 (s.me.readS a).toNat 0))
        ∧ ((l.inst (s.me.readS a).toNat).isSome = true →
            Machine.exec i s = .next ((askEnable s s.cur (s.me.readS a).toNat v).retire s.cur s.me.pc))) := by
  refine ⟨fun hp => ?_, fun l hl hc => ⟨fun hn => ?_, fun hs => ?_⟩⟩
  · rw [he, poisonS_head [] hp]; rfl
  · have ht : instTrap s a = some (0x06, (s.me.readS a).toNat, 0) := by simp [instTrap, hl, hn, trapIf]
    rw [he, poisonS_cons [] hc, poisonS_nil, ht]; rfl
  · have ht : instTrap s a = none := by
      obtain ⟨x, hx⟩ := Option.isSome_iff_exists.mp hs
      simp [instTrap, hl, hx, trapIf]
    rw [he, poisonS_cons [] hc, poisonS_nil, ht]; rfl

/-- Settles O19: the order of the checks of end, the requests, and one edge of the launch. -/
theorem endAndEnable : Obligations.EndAndEnable := by
  refine ⟨fun h a s => ⟨fun hr => ⟨fun hp => ?handler, fun hp hd hq hb => ⟨fun hs => ⟨?ends, fun hf => ?idle⟩, fun n hn => ?short⟩⟩,
    fun v i hi hr => ?ask⟩, fun l c b n e he => ?slot⟩
  case handler =>
    rw [exec_endF, execEndF]
    refine issue_trap rfl hr ?_
    have hph : trapIf (s.me.phase == .inHandler) 0x03 0x34 0 = some (0x03, 0x34, 0) := by rw [hp]; rfl
    simp only [hph, orTrap_cons_some]
  case ends => exact (endF_cases hr hp hd hq hb).1 hs
  case idle => exact endFiring_ctx (by rw [firing_countIssue]; exact hf)
  case short => exact (endF_cases hr hp hd hq hb).2 n hn
  case ask =>
    rcases hi with ⟨rfl, rfl⟩ | ⟨rfl, rfl⟩
    · exact askEnable_cases (by rw [exec_actena, execActena]; exact askEnable_out hr rfl)
    · exact askEnable_cases (by rw [exec_actdis, execActdis]; exact askEnable_out hr rfl)
  case slot =>
    dsimp only [publishSlot]
    cases b.out with
    | true => exact ⟨edge_modEdge_self (fun _ => rfl) he, fun m hm => edge_modEdge_other (fun _ => rfl) hm⟩
    | false => exact ⟨edge_modEdge_self (fun _ => rfl) he, fun m hm => edge_modEdge_other (fun _ => rfl) hm⟩

end Sys2Proof.Machine

/-! ## Memory words (09_memory.md). -/

namespace Sys2Proof.Machine

/-! The state when nothing changes, and what a walk's bookkeeping leaves. -/

theorem vset_get_self {α : Type} {n : Nat} (v : Vector α n) (i : Fin n) : vset v i (v.get i) = v := by
  refine Vector.ext fun j hj => ?_
  have h := vset_get v i ⟨j, hj⟩ (v.get i)
  by_cases hij : i = ⟨j, hj⟩
  · subst hij; rw [if_pos rfl] at h; exact h
  · rw [if_neg hij] at h; exact h

/-- A context replaced by itself. -/
theorem modCtx_self {s : State} {g : AgentId} {f : Ctx → Ctx} (h : f (s.ctx g) = s.ctx g) : s.modCtx g f = s := by
  rw [State.modCtx, h]
  cases g with
  | mgmt => rfl
  | tile t c =>
    have hctx : vset (s.tile t).ctx c ((s.tile t).ctx.get c) = (s.tile t).ctx := vset_get_self ..
    have htile : ({ s.tile t with ctx := vset (s.tile t).ctx c ((s.tile t).ctx.get c) } : Tile) = s.tile t := by rw [hctx]
    have hset : s.setTile t (s.tile t) = s := by rw [State.setTile]; exact congrArg (fun v => { s with tiles := v }) (vset_get_self ..)
    exact (congrArg (s.setTile t) htile).trans hset

theorem ctx_takeMiss (s : State) (ea : Nat) (g : AgentId) : (s.takeMiss ea).ctx g = s.ctx g := by
  rw [State.takeMiss]
  cases s.cur with
  | mgmt => rfl
  | tile t c =>
    cases g with
    | mgmt => rfl
    | tile t' c' =>
      by_cases h : t = t'
      · subst h; exact ctx_modTile_self rfl c'
      · simp only [State.ctx, State.modTile, State.setTile, State.tile, vset_get, if_neg h]

@[simp] theorem takeMiss_cur (s : State) (ea : Nat) : (s.takeMiss ea).cur = s.cur := by
  rw [State.takeMiss]; cases h : s.cur <;> simp [h, State.modTile, State.setTile]

@[simp] theorem me_takeMiss (s : State) (ea : Nat) : (s.takeMiss ea).me = s.me := by
  rw [State.me, takeMiss_cur, ctx_takeMiss]; rfl

/-- Nothing of the buffer drains. -/
theorem drain_none {s : State} {g : AgentId} {p : WcbLine → Bool} (h : ∀ w ∈ (s.ctx g).wcb, p w = false) : s.drain g p = s := by
  have hnil : (s.ctx g).wcb.filter p = [] := List.filter_eq_nil_iff.mpr fun w hw => by simp [h w hw]
  have hall : (s.ctx g).wcb.filter (fun w => !p w) = (s.ctx g).wcb := List.filter_eq_self.mpr fun w hw => by simp [h w hw]
  rw [State.drain, hnil, List.foldl_nil]
  exact modCtx_self (by rw [hall])

/-! Sending one access. -/

/-- An access of at most a line is one part. -/
theorem accessParts_small {op : ReqOp} {ea len : Nat} (h : len ≤ 128) : accessParts op ea len = [⟨op, ea, ea, len, none⟩] := if_pos h

theorem szBytes_le (sz : Fin 4) : szBytes sz ≤ 128 := by fin_cases sz <;> decide

theorem gathBytes_le (b8 : Bool) : gathBytes b8 ≤ 128 := by cases b8 <;> decide

/-- One access that resolves at issue. -/
theorem sendParts_one {s : State} {k : Kind} {a : Attr} {p : Part} {x : Xlated} (h : resolve s k p.va = .ok x) :
    sendParts s k a [p] = sendOk (s.takeMiss p.va) p a x := by
  simp only [sendParts, List.map_cons, List.map_nil, List.foldl_cons, List.foldl_nil, h]

theorem unitWaits_none {s : State} {r : MemReq} (h : r.unit = none) : s.unitWaits r = false := by rw [State.unitWaits, h]

/-- An access behind a request that has not been sent waits (log 64). -/
theorem sendOk_stuck {s : State} {p : Part} {a : Attr} {x : Xlated} (h : s.me.stuck = true) :
    sendOk s p a x = s.addReq (mkReq s p x.pa a x.key [] .queued) := if_pos (by rw [h]; rfl)

/-- An access goes into the network (R256). -/
theorem sendOk_enter {s : State} {p : Part} {a : Attr} {x : Xlated} (h : s.me.stuck = false) (hu : p.unit = none) :
    sendOk s p a x = s.enter s.cur (mkReq s p x.pa a x.key [] .queued) :=
  if_neg (by rw [h, unitWaits_none (r := mkReq s p x.pa a x.key [] .queued) hu]; exact Bool.false_ne_true)

/-- A load takes the bytes that the buffer forwards (R258). -/
theorem enter_load {s : State} {g : AgentId} {r : MemReq} (hf : r.op.forwards = true) (hrel : r.rel = false) :
    s.enter g r = s.sendReq g { r with fwd := (s.ctx g).forward r.pa r.len } := by
  have hm : r.merges = none := by
    cases hop : r.op <;> simp_all [MemReq.merges, ReqOp.forwards]
  rw [State.enter, hm]
  simp only [hf, if_true]
  rw [drain_none fun w _ => by rw [hrel]; rfl]

/-! The forms of one access, when their checks pass (R267). -/

/-- A global word of one part whose checks pass. -/
theorem oneAccess_sent {i : Instr} {m : AddrArg} {srcs : List RegId} {k : Kind} {cls : Class} {align len : Nat} {a : Attr}
    {poison : State → Nat → List (Option (Nat × Nat × Nat))} {op : Ctx → ReqOp} {s : State} {ps : List Part}
    (hps : accessParts (op s.me) (effAddr s.me m) len = ps) (hw : i.clauses.wn = 0) (hr : ready i s = true) (ha : addrClean s.me m)
    (hp : passable s k cls align (partAddrs ps) a) (hq : ∀ c ∈ poison s (effAddr s.me m), c = none) :
    oneAccess i m srcs k cls align len a poison op s = .next (sent s k a ps) := by
  subst hps; exact oneAccess_pass hw hr ha hp hq

theorem accessParts_loadV {d : Fin 32} {ea : Nat} {sz : Fin 4} : accessParts (.loadV d) ea (vszBytes sz)
    = if sz = 3 then (List.range 4).map (fun j => Part.mk (.gather d 64 j) ea (ea + 64 * j) 64 none)
      else [Part.mk (.loadV d) ea ea (vszBytes sz) none] := by
  fin_cases sz <;> rfl

theorem accessParts_storeV {bs : List Byte} {mask : List Bool} {ea : Nat} {sz : Fin 4} :
    accessParts (.store bs mask false) ea (vszBytes sz)
      = if sz = 3 then (List.range 4).map (fun j => Part.mk (.store ((bs.drop (64 * j)).take 64)
            ((mask.drop (64 * j)).take 64) false) ea (ea + 64 * j) 64 none)
        else [Part.mk (.store bs mask false) ea ea (vszBytes sz) none] := by
  fin_cases sz <;> rfl

/-- Settles O29: one part for the scalar forms, four units for 256 bytes, and the load behind what has not been sent. -/
theorem globalAccesses : Obligations.GlobalAccesses := by
  refine ⟨fun h sx d sz m at_ s ha => ⟨fun x hx hr hp => ?ld, fun hr hp => ?vld, fun hr hp hd => ?st, fun hr hp hd => ?vst⟩,
    fun h op d sz b8 r m at_ scope ord b s ha => ⟨fun hd hp => ⟨fun hr => ?atom, fun hr => ?red⟩, fun hd hd1 hp hr => ?cas,
      fun hp hr hsrc => ?xadd, fun hp hr => ?xrdClr, fun hp hr => ?xrd⟩⟩
  case ld =>
    have hparts : accessParts (.loadS d sx) (effAddr s.me m) (szBytes sz) = [⟨.loadS d sx, effAddr s.me m, effAddr s.me m, szBytes sz, none⟩] :=
      accessParts_small (szBytes_le sz)
    have hsend : Machine.exec (.ld h sx d sz m at_) s = .next ((sendOk (s.takeMiss (effAddr s.me m))
        ⟨.loadS d sx, effAddr s.me m, effAddr s.me m, szBytes sz, none⟩ (attrOf at_) x).retire s.cur s.me.pc) := by
      rw [exec_ld, execLd, oneAccess_sent hparts rfl hr ha hp (by simp), sent, sendParts_one hx]
    refine ⟨fun hs => ?_, fun hs hrel => ?_⟩
    · rw [hsend, sendOk_stuck (by rw [me_takeMiss]; exact hs)]; rfl
    · rw [hsend, sendOk_enter (by rw [me_takeMiss]; exact hs) rfl, enter_load rfl hrel, takeMiss_cur]
      simp only [State.me, takeMiss_cur]
      rfl
  case vld =>
    rw [exec_vld, execVld]
    exact oneAccess_sent accessParts_loadV rfl hr ha hp (by simp)
  case st =>
    rw [exec_st, execSt]
    exact oneAccess_sent (accessParts_small (szBytes_le sz)) rfl hr ha hp (by simpa using memPoison_none (by simpa using hd))
  case vst =>
    rw [exec_vst, execVst]
    exact oneAccess_sent accessParts_storeV rfl hr ha hp (List.forall_mem_singleton.mpr (vecPoison_none hd))
  case atom =>
    rw [exec_atom, execAtom]
    exact oneAccess_sent (accessParts_small (szBytes_le sz)) rfl hr ha hp (by simpa using memPoison_none (by simpa using hd))
  case red =>
    rw [exec_red, execRed]
    exact oneAccess_sent (accessParts_small (szBytes_le sz)) rfl hr ha hp (by simpa using memPoison_none (by simpa using hd))
  case cas =>
    rw [exec_cas, execCas]
    exact oneAccess_sent (accessParts_small (gathBytes_le b8)) rfl hr ha hp
      (by simpa using memPoison_none (by simpa [nextReg] using ⟨hd, hd1⟩))
  case xadd =>
    have hclean : xaddPoison s.me r (effAddr s.me m) = none := by
      cases r with
      | scal n => exact memPoison_none (by simpa using hsrc)
      | vec n => exact vecPoison_none hsrc
    rw [exec_xadd, execXadd, oneAccess_sent (accessParts_small (by decide)) rfl hr ha hp (by simpa using hclean)]
    cases r <;> rfl
  case xrdClr =>
    rw [exec_xrdClr, execXrdClr]
    exact oneAccess_sent (accessParts_small (by decide)) rfl hr ha hp (by simp)
  case xrd =>
    rw [exec_xrd, execXrd]
    exact oneAccess_sent (accessParts_small (by decide)) rfl hr ha hp (by simp)

/-! Gather and scatter (R270). -/

theorem offsetPoison_none {c : Ctx} {d : Fin 32} {b8 : Bool}
    (h : ∀ j, j < (if b8 then 32 else 64) → (c.readV d).poison.getLsbD (if b8 then 2 * j else j) = false) :
    offsetPoison c d b8 = none := by
  have hany : (List.range (if b8 then 32 else 64)).any (fun j => (c.readV d).poison.getLsbD (if b8 then 2 * j else j)) = false := by
    rw [List.any_eq_false]
    intro j hj
    rw [h j (List.mem_range.mp hj)]
    exact Bool.false_ne_true
  rw [offsetPoison, hany]; rfl

/-- Settles O31: the active elements' parts, or zeros. -/
theorem gatherScatter : Obligations.GatherScatter := by
  intro h d b8 m cp s ha
  refine fun hoff => ?_
  have hclean : ∀ c ∈ [addrPoison s.me m, offsetPoison s.me d b8], c = none := by
    simpa using ⟨addrPoison_none ha, offsetPoison_none hoff⟩
  refine ⟨fun hr hp => ⟨fun hes => ?empty, fun hes => ?gath⟩, fun hr hp hdat => ?scat⟩
  case empty =>
    rw [exec_vgath, execVgath, issue_ready hr, takeWait_none rfl]
    have hes' : gatherElems s.me d b8 (effAddr s.me m) = [] := hes
    refine (congrArg (fun e => Eff.out e _ s) (globalAccess_pass hp hclean)).trans ?_
    simp only [hes', List.isEmpty_nil, if_true]
    rfl
  case gath =>
    rw [exec_vgath, execVgath, issue_ready hr, takeWait_none rfl]
    have hes' : (gatherElems s.me d b8 (effAddr s.me m)).isEmpty = false := by
      rw [List.isEmpty_eq_false_iff]; exact hes
    refine (congrArg (fun e => Eff.out e _ s) (globalAccess_pass hp hclean)).trans ?_
    simp only [hes', Bool.false_eq_true, if_false]
    rfl
  case scat =>
    rw [exec_vscat, execVscat, issue_ready hr, takeWait_none rfl]
    have hdat' : dataPoison s.me (nextReg d) b8 (gatherElems s.me d b8 (effAddr s.me m)) = none := by
      rw [dataPoison, List.find?_eq_none.mpr fun e he => by rw [nextReg, hdat e he]; exact Bool.false_ne_true]; rfl
    refine (congrArg (fun e => Eff.out e _ s) (globalAccess_pass hp (by simpa using ⟨hclean _ (by simp), hclean _ (by simp), hdat'⟩))).trans ?_
    rfl

/-! Scratchpad accesses (R251, R268, R269). -/

theorem length_cellsRead (m : List Host.Cell) (a n : Nat) : (cellsRead m a n).length = n := by
  simp [cellsRead]

theorem loadedS_read (sx : Bool) (m : Memory) (a n : Nat) : loadedS sx (m.read a n)
    = if sx then wordOfInt (sextInt (leNat (m.read a n)) (8 * n)) else BitVec.ofNat 64 (leNat (m.read a n)) := by
  rw [loadedS, Memory.read, length_cellsRead]

@[simp] theorem vset_vset {α : Type} {n : Nat} (v : Vector α n) (i : Fin n) (x y : α) : vset (vset v i x) i y = vset v i y := by
  simp [vset, Vector.set_set]

/-- What the tiles are after a change of one. -/
theorem tile_modTile (s : State) (t t' : Fin 256) (f : Tile → Tile) :
    (s.modTile t f).tile t' = if t = t' then f (s.tile t) else s.tile t' := vset_get ..

/-- A context whose word has issued as number n of its tile (R37, R398). -/
def Ctx.counted (c : Ctx) (n : Nat) : Ctx :=
  { c with
    lastIssue := some n
    winIssues := c.winIssues + 1
    hIssued := if c.phase == .inHandler then c.hIssued + 1 else c.hIssued
    firing := if c.phase == .inHandler then c.firing else c.firing.map (fun f => { f with issued := f.issued + 1 }) }

/-- The same with the next word to follow. -/
def Ctx.passed (c : Ctx) (n : Nat) (pc : Pc) : Ctx := { c.counted n with pc := pc + 8, pcOver := pc == 0x3FFF8#18 }

/-- The tile of a context whose word has issued. -/
theorem tile_countIssue (s : State) (t t' : Fin 256) (c : Fin 4) : (s.countIssue (.tile t c)).tile t'
    = if t = t' then { s.tile t with ctx := vset (s.tile t).ctx c (((s.tile t).ctx.get c).counted (s.tile t).issues),
                                     issues := (s.tile t).issues + 1 } else s.tile t' := by
  have h : s.countIssue (.tile t c)
      = (s.modCtx (.tile t c) (fun x => x.counted (s.tile t).issues)).modTile t (fun y => { y with issues := y.issues + 1 }) := rfl
  rw [h, tile_modTile, tile_modCtx_self]
  by_cases ht : t = t'
  · rw [if_pos ht, if_pos ht]; rfl
  · rw [if_neg ht, if_neg ht]; exact (tile_modTile ..).trans (if_neg ht)

/-- The tile of a context whose word has issued, with the next one to follow. -/
theorem tile_retire (s : State) (t t' : Fin 256) (c : Fin 4) (pc : Pc) : (s.retire (.tile t c) pc).tile t'
    = if t = t' then { s.tile t with ctx := vset (s.tile t).ctx c (((s.tile t).ctx.get c).passed (s.tile t).issues pc),
                                     issues := (s.tile t).issues + 1 } else s.tile t' := by
  have h : s.retire (.tile t c) pc = (s.countIssue (.tile t c)).modCtx (.tile t c)
      (fun x => { x with pc := pc + 8, pcOver := pc == 0x3FFF8#18 }) := rfl
  by_cases ht : t = t'
  · subst ht
    rw [h, tile_modCtx_self, State.ctx, tile_countIssue, if_pos rfl, if_pos rfl]
    simp only [vset_self, vset_vset]
    rfl
  · rw [h, if_neg ht]
    exact ((tile_modTile ..).trans (if_neg ht)).trans ((tile_countIssue ..).trans (if_neg ht))

/-- The tile after a scratchpad store. -/
theorem tile_scratchWrote {s : State} {t : Fin 256} {c : Fin 4} (hc : s.cur = .tile t c) (ea : Nat) (bs : List Byte) (t' : Fin 256) :
    (scratchWrote s ea bs).tile t'
      = if t = t' then { s.tile t with scratch := (s.tile t).scratch.write ea bs,
                                       ctx := vset (s.tile t).ctx c (s.me.passed (s.order s.cur) s.me.pc),
                                       issues := (s.tile t).issues + 1 } else s.tile t' := by
  have hmod : s.modScratch (fun m => m.write ea bs) = s.modTile t (fun y => { y with scratch := y.scratch.write ea bs }) := by
    rw [State.modScratch, hc]
  rw [scratchWrote, hc, tile_retire, hmod]
  by_cases ht : t = t'
  · rw [if_pos ht, if_pos ht, tile_modTile, if_pos rfl, State.me, hc]; rfl
  · rw [if_neg ht, if_neg ht, tile_modTile, if_neg ht]

/-- Settles O32: the shared form with its checks passed, and the tile after a store. -/
theorem scratchpadAccesses : Obligations.ScratchpadAccesses := by
  refine ⟨fun h sx d sz m s ha => ⟨fun ho => ⟨fun hr => ?lds, fun hd hr => ?sts⟩, fun ho => ⟨fun hr => ?vlds, fun hd hr => ?vsts⟩⟩,
    fun s t c ea bs hc hw => ?frame⟩
  case lds =>
    rw [exec_lds, execLds]
    refine (scratchAccess_pass rfl hr ha ho (by simp)).trans ?_
    rw [loadedS_read]
    rfl
  case sts =>
    rw [exec_sts, execSts]
    exact scratchAccess_pass rfl hr ha ho (List.forall_mem_singleton.mpr (memPoison_none (by simpa using hd)))
  case vlds =>
    rw [exec_vlds, execVlds]
    exact scratchAccess_pass rfl hr ha ho (by simp)
  case vsts =>
    rw [exec_vsts, execVsts]
    exact scratchAccess_pass rfl hr ha ho (List.forall_mem_singleton.mpr (vecPoison_none hd))
  case frame =>
    have htile := tile_scratchWrote hc ea bs
    have hself : ((scratchWrote s ea bs).tile t).scratch = (s.tile t).scratch.write ea bs := by rw [htile, if_pos rfl]
    refine ⟨fun a ha => ?_, fun k b hk => ?_, fun a => ?_, ?_, ?_, fun t' ht => ?_, fun t' c' => ?_⟩
    · rw [hself, write_get hw, if_neg (by omega)]
    · obtain ⟨hlt, hget⟩ := List.getElem?_eq_some_iff.mp hk
      rw [hself, write_get hw, if_pos (by omega), Nat.add_sub_cancel_left, List.getD_eq_getElem?_getD, hk]; rfl
    · rw [hself, write_poisoned]
    · rw [scratchWrote, retire_mem, State.modScratch, hc]; rfl
    · rw [scratchWrote, retire_hostMem, State.modScratch, hc]; rfl
    · rw [htile, if_neg (Ne.symm ht)]
    · rw [State.ctx, htile]
      by_cases ht : t = t'
      · subst ht
        rw [if_pos rfl, vset_get]
        by_cases hcc : c = c'
        · rw [if_pos hcc, if_pos ⟨rfl, hcc.symm⟩]; rfl
        · rw [if_neg hcc, if_neg (fun e => hcc e.2.symm)]; rfl
      · rw [if_neg ht, if_neg (fun e => ht e.1.symm)]; rfl

/-! Constant loads, prefetch, fences (R271, R272, R296, R298). -/

/-- The line of every byte of an access is among its lines. -/
theorem line_mem_linesOf {pa n i : Nat} (h : i < n) : (pa + i) / 128 ∈ linesOf pa n := by
  rw [linesOf, List.mem_map]
  exact ⟨(pa + i) / 128 - pa / 128, List.mem_range.mpr (by omega), by omega⟩

theorem constLine_congr {y : Tile} {m : Fin 128} {a b : Nat} (h : a / 128 = b / 128) : y.constLine m a = y.constLine m b := by
  rw [Tile.constLine, Tile.constLine, h]

/-- The parts of an ldc that the constant cache answers (R271). -/
def ldcHits (s : State) (y : Tile) (mc : Fin 128) (ls : List Nat) (op : ReqOp) (ea : Nat) : List MemReq :=
  (ls.map (fun l => Part.mk op ea (l * 128) 128 none)).filterMap (fun p =>
    (y.constHit mc p.va).map (fun st => mkReq s p 0 (.plain 0) none [] st))

/-- The byte of a line that the cache holds, from the parts that it answers. -/
theorem findSome_ldcHits {s : State} {y : Tile} {mc : Fin 128} {ls : List Nat} {op : ReqOp} {ea a : Nat} {c : ConstLine}
    (hmem : a / 128 ∈ ls) (hline : y.constLine mc a = some c) :
    (ldcHits s y mc ls op ea).findSome? (fun r => match r.stage with
      | .done bs po => if r.va / 128 = a / 128 then some (bs.getD (a % 128) 0, po.getD (a % 128) false) else none
      | _ => none) = some (c.bytes.getD (a % 128) 0, c.poison.getD (a % 128) false) := by
  induction ls with
  | nil => cases hmem
  | cons l ls ih =>
    have hdiv : l * 128 / 128 = l := by omega
    rw [ldcHits, List.map_cons, List.filterMap_cons, Tile.constHit]
    by_cases hl : l = a / 128
    · have hl' : y.constLine mc (l * 128) = some c := (constLine_congr (by omega)).trans hline
      simp only [hl', Option.map_some, List.findSome?_cons, mkReq, hdiv, if_pos hl]
    · have ih' := ih (List.mem_of_ne_of_mem (Ne.symm hl) hmem)
      rw [ldcHits] at ih'
      cases hc : y.constLine mc (l * 128) with
      | none => simpa only [Option.map_none] using ih'
      | some c' => simpa only [Option.map_some, List.findSome?_cons, mkReq, hdiv, if_neg hl] using ih'

/-- The bytes of an ldc whose lines are all in the cache (R271). -/
theorem ldcGather_hits {s : State} {y : Tile} {mc : Fin 128} {f : LdcForm} {op : ReqOp} {ea : Nat}
    (h : ∀ l ∈ linesOf ea (ldcBytes f), (y.constLine mc (l * 128)).isSome = true) :
    ldcGather (ldcHits s y mc (linesOf ea (ldcBytes f)) op ea) f ea
      = ((List.range (ldcBytes f)).map (fun i => match y.constLine mc (ea + i) with
          | some l => l.bytes.getD ((ea + i) % 128) 0 | none => 0),
         (List.range (ldcBytes f)).map (fun i => match y.constLine mc (ea + i) with
          | some l => l.poison.getD ((ea + i) % 128) false | none => false)) := by
  have key : ∀ i ∈ List.range (ldcBytes f), ∃ c, y.constLine mc (ea + i) = some c
      ∧ (ldcHits s y mc (linesOf ea (ldcBytes f)) op ea).findSome? (fun r => match r.stage with
        | .done bs po => if r.va / 128 = (ea + i) / 128 then some (bs.getD ((ea + i) % 128) 0, po.getD ((ea + i) % 128) false) else none
        | _ => none) = some (c.bytes.getD ((ea + i) % 128) 0, c.poison.getD ((ea + i) % 128) false) := by
    intro i hi
    have hmem := line_mem_linesOf (pa := ea) (List.mem_range.mp hi)
    obtain ⟨c, hc⟩ := Option.isSome_iff_exists.mp (h _ hmem)
    have hc' : y.constLine mc (ea + i) = some c := (constLine_congr (by omega)).trans hc
    exact ⟨c, hc', findSome_ldcHits hmem hc'⟩
  rw [ldcGather]
  simp only [List.map_map, Prod.mk.injEq]
  refine ⟨List.map_congr_left fun i hi => ?_, List.map_congr_left fun i hi => ?_⟩
  · obtain ⟨c, hc, hf⟩ := key i hi
    simp only [Function.comp, hc]
    exact congrArg (fun z => (Option.getD z (0, false)).1) hf
  · obtain ⟨c, hc, hf⟩ := key i hi
    simp only [Function.comp, hc]
    exact congrArg (fun z => (Option.getD z (0, false)).2) hf

/-! Requests that have been sent stay in their context. -/

@[simp] theorem sendReq_cur (s : State) (g : AgentId) (r : MemReq) : (s.sendReq g r).cur = s.cur := by
  cases g <;> simp [State.sendReq, State.mark, State.modTile, State.setTile]

/-- The requests of a context after one more is sent (R256). -/
theorem reqs_sendReq (s : State) (g : AgentId) (r : MemReq) : ((s.sendReq g r).ctx g).reqs
    = (s.ctx g).reqs.takeWhile (fun e => !e.stage.unsent) ++ { r with stage := .sent, sentAt := s.sends g }
      :: (s.ctx g).reqs.dropWhile (fun e => !e.stage.unsent) := by
  cases g with
  | mgmt => simp only [State.sendReq, State.mark, ctx_modCtx_self]
  | tile t c =>
    simp only [State.sendReq, State.mark, ctx_modCtx_self]
    rw [ctx_modTile_self rfl, ctx_modCtx_self]

theorem mem_sendReq {s : State} {g : AgentId} {r e : MemReq} (h : e ∈ (s.ctx g).reqs) : e ∈ ((s.sendReq g r).ctx g).reqs := by
  rw [reqs_sendReq]
  rw [← List.takeWhile_append_dropWhile (p := fun e => !e.stage.unsent) (l := (s.ctx g).reqs), List.mem_append] at h
  simp only [List.mem_append, List.mem_cons]
  exact h.imp id .inr

theorem mem_drain {s : State} {g : AgentId} {p : WcbLine → Bool} {e : MemReq} (h : e ∈ (s.ctx g).reqs) :
    e ∈ ((s.drain g p).ctx g).reqs := by
  rw [State.drain]
  generalize (s.ctx g).wcb.filter p = ws
  have h0 : e ∈ ((s.modCtx g (fun c => { c with wcb := c.wcb.filter (fun w => !p w) })).ctx g).reqs := by
    rw [ctx_modCtx_self]; exact h
  revert h0
  generalize s.modCtx g (fun c => { c with wcb := c.wcb.filter (fun w => !p w) }) = s'
  induction ws generalizing s' with
  | nil => exact id
  | cons w ws ih => exact fun h0 => ih _ (mem_sendReq h0)

theorem drain_cur (s : State) (g : AgentId) (p : WcbLine → Bool) : (s.drain g p).cur = s.cur := by
  rw [State.drain]
  have h0 : (s.modCtx g (fun c => { c with wcb := c.wcb.filter (fun w => !p w) })).cur = s.cur := by simp
  revert h0
  generalize s.modCtx g (fun c => { c with wcb := c.wcb.filter (fun w => !p w) }) = s'
  induction (s.ctx g).wcb.filter p generalizing s' with
  | nil => exact id
  | cons w ws ih => exact fun h0 => ih _ ((sendReq_cur ..).trans h0)

/-- The part fetches a line of the constant cache. -/
def Part.fill (p : Part) : Prop := ∃ b w, p.op = .constFill b w

theorem merges_fill {s : State} {p : Part} (hp : p.fill) {a : Attr} {x : Xlated} :
    (mkReq s p x.pa a x.key [] .queued).merges = none := by
  obtain ⟨b, w, hop⟩ := hp
  simp only [MemReq.merges, mkReq, hop]

theorem sendOk_cur {s : State} {p : Part} {a : Attr} {x : Xlated} (hp : p.fill) : (sendOk s p a x).cur = s.cur := by
  rw [sendOk]
  split
  · simp [State.addReq]
  · rw [State.enter, merges_fill hp]; exact (sendReq_cur ..).trans (drain_cur ..)

theorem mem_sendOk {s : State} {p : Part} {a : Attr} {x : Xlated} {e : MemReq} (hp : p.fill) (h : e ∈ (s.ctx s.cur).reqs) :
    e ∈ ((sendOk s p a x).ctx s.cur).reqs := by
  rw [sendOk]
  split
  · rw [State.addReq, ctx_modCtx_self]; exact List.mem_append_left _ h
  · rw [State.enter, merges_fill hp]; exact mem_sendReq (mem_drain h)

/-- The request of a fill that goes into the network. -/
theorem mem_sendOk_self {s : State} {p : Part} {a : Attr} {x : Xlated} (hp : p.fill) (hs : s.me.stuck = false) (hu : p.unit = none) :
    ∃ r ∈ ((sendOk s p a x).ctx s.cur).reqs, r.op = p.op ∧ r.stage = .sent := by
  rw [sendOk_enter hs hu, State.enter, merges_fill hp]
  dsimp only
  rw [reqs_sendReq]
  exact ⟨_, List.mem_append_right _ List.mem_cons_self, rfl, rfl⟩

/-- The parts that follow leave what has been sent. -/
theorem mem_sendParts_fold {a : Attr} {e : MemReq} {g : AgentId} (xs : List (Part × Resolve))
    (hx : ∀ x ∈ xs, x.1.fill ∧ ∃ y, x.2 = .ok y) (s : State) (hg : s.cur = g) (h : e ∈ (s.ctx g).reqs) :
    e ∈ ((xs.foldl (fun s x => match x.2 with
      | .ok y => sendOk s x.1 a y
      | .park l => sendParked s x.1 .read a l
      | _ => s) s).ctx g).reqs := by
  induction xs generalizing s with
  | nil => exact h
  | cons x xs ih =>
    obtain ⟨hp, y, hy⟩ := hx x List.mem_cons_self
    rw [List.foldl_cons]
    simp only [hy]
    subst hg
    exact ih (fun z hz => hx z (List.mem_cons_of_mem _ hz)) _ (sendOk_cur hp) (mem_sendOk hp h)

theorem foldl_takeMiss {α : Type} (f : α → Nat) (l : List α) (s : State) :
    (l.foldl (fun s p => s.takeMiss (f p)) s).cur = s.cur ∧ (l.foldl (fun s p => s.takeMiss (f p)) s).me = s.me := by
  induction l generalizing s with
  | nil => exact ⟨rfl, rfl⟩
  | cons x xs ih =>
    obtain ⟨hc, hm⟩ := ih (s.takeMiss (f x))
    exact ⟨hc.trans (takeMiss_cur ..), hm.trans (me_takeMiss ..)⟩

/-- Of fills that all resolve, the first goes into the network (R271). -/
theorem sendParts_fill {s : State} {a : Attr} {p : Part} {ps : List Part} (hp : ∀ q ∈ p :: ps, q.fill ∧ ∃ y, resolve s .read q.va = .ok y)
    (hs : s.me.stuck = false) (hu : p.unit = none) :
    ∃ r ∈ ((sendParts s .read a (p :: ps)).ctx s.cur).reqs, r.op = p.op ∧ r.stage = .sent := by
  obtain ⟨hfill, y, hy⟩ := hp p List.mem_cons_self
  obtain ⟨hc, hm⟩ := foldl_takeMiss (fun q : Part => q.va) (p :: ps) s
  rw [sendParts, List.map_cons, List.foldl_cons]
  simp only [hy]
  revert hc hm
  generalize (p :: ps).foldl (fun s q => s.takeMiss q.va) s = s'
  intro hc hm
  obtain ⟨r, hr, hop, hst⟩ := mem_sendOk_self (a := a) (x := y) hfill (hm ▸ hs) hu
  refine ⟨r, ?_, hop, hst⟩
  rw [hc] at hr
  refine mem_sendParts_fold _ (fun x hx => ?_) _ ((sendOk_cur hfill).trans hc) hr
  obtain ⟨q, hq, rfl⟩ := List.mem_map.mp hx
  obtain ⟨hf, y', hy'⟩ := hp q (List.mem_cons_of_mem _ hq)
  exact ⟨hf, y', hy'⟩

/-- A prefetch whose walks are made (R272). -/
theorem prefetch_pass {s : State} {m : AddrArg} {n : Nat} {cls : Class} {go : State → List (Nat × Xlated) → State}
    (ha : addrClean s.me m) (hh : globalHold s = false)
    (hw : ∀ l ∈ (linesOf (effAddr s.me m) n).map (fun l => l * 128), resolve s .read l ≠ .walk) :
    prefetch s m n cls go = .done (go (((linesOf (effAddr s.me m) n).map (fun l => l * 128)).foldl (fun s a => s.takeMiss a) s)
      (prefLines s cls (effAddr s.me m) n)) := by
  have hfirst : firstWalk s .read ((linesOf (effAddr s.me m) n).map (fun l => l * 128)) = none := by
    rw [firstWalk, List.find?_eq_none]
    intro l hl
    have hne := hw l hl
    cases hres : resolve s .read l <;> simp_all
  rw [prefetch]
  simp only [hh, Bool.false_eq_true, if_false, addrPoison_none ha, orTrap_cons_none, orTrap_nil, hfirst]

/-- A line that fails its checks drops the whole prefetch (R272). -/
theorem prefLines_drop {s : State} {cls : Class} {ea n l : Nat} (hl : l ∈ (linesOf ea n).map (fun l => l * 128))
    (hf : ∀ x, resolve s .read l = .ok x → cls.allows x.pa = false) : prefLines s cls ea n = [] := by
  obtain ⟨k, hk, rfl⟩ := List.mem_map.mp hl
  rw [prefLines]
  refine if_neg fun hall => ?_
  have hok := List.all_eq_true.mp hall _ (List.mem_map.mpr ⟨k, hk, rfl⟩)
  dsimp only at hok
  cases hres : resolve s .read (k * 128) with
  | ok x => simp [hres, hf x hres] at hok
  | park => simp [hres] at hok
  | walk => simp [hres] at hok
  | fault => simp [hres] at hok

/-- ldc whose lines the cache all holds writes its register at once (R271). -/
theorem ldc_hit {h : Hdr} {f : LdcForm} {d : Fin 32} {m : AddrArg} {s : State} {t : Fin 256} {c : Fin 4} (hc : s.cur = .tile t c)
    (ha : addrClean s.me m) (hr : ready (.ldc h f d m) s = true)
    (hp : passable s .read .local_ (ldcAlign f) (partAddrs (ldcParts f d (effAddr s.me m))) (.plain 0))
    (hhit : ldcHit (s.tile t) (s.mctxOfAgent s.cur) f (effAddr s.me m) = true) :
    Machine.exec (.ldc h f d m) s = .next (went s (fun x =>
      let g := ldcGather (ldcHits s (s.tile t) (s.mctxOfAgent s.cur) (linesOf (effAddr s.me m) (ldcBytes f))
        (.constFill true (some (f, d, effAddr s.me m))) (effAddr s.me m)) f (effAddr s.me m)
      x.ldcWrite f d g.1 g.2)) := by
  rw [exec_ldc, execLdc]
  refine issue_onCtx rfl hr ((globalAccess_pass hp (by simpa using addrPoison_none ha)).trans ?_)
  split
  next hm => rw [hc] at hm; cases hm
  next t' c' ht =>
    rw [hc] at ht
    cases ht
    exact if_pos hhit

/-- ldc with lines that the cache lacks fetches them (R271). -/
theorem ldc_miss {h : Hdr} {f : LdcForm} {d : Fin 32} {m : AddrArg} {s : State} {t : Fin 256} {c : Fin 4} (hc : s.cur = .tile t c)
    (ha : addrClean s.me m) (hr : ready (.ldc h f d m) s = true)
    (hp : passable s .read .local_ (ldcAlign f) (partAddrs (ldcParts f d (effAddr s.me m))) (.plain 0))
    (hhit : ldcHit (s.tile t) (s.mctxOfAgent s.cur) f (effAddr s.me m) = false) :
    ∃ hits, Machine.exec (.ldc h f d m) s = .next (((sendParts s .read (.plain 0) ((ldcParts f d (effAddr s.me m)).filter (fun p =>
      ((s.tile t).constHit (s.mctxOfAgent s.cur) p.va).isNone))).modCtx s.cur (fun c => { c with reqs := c.reqs ++ hits })).retire
        s.cur s.me.pc) := by
  refine ⟨?_, ?_⟩
  rotate_left
  · rw [exec_ldc, execLdc]
    refine issue_done rfl hr ((globalAccess_pass hp (by simpa using addrPoison_none ha)).trans ?_)
    split
    next hm => rw [hc] at hm; cases hm
    next t' c' ht =>
      rw [hc] at ht
      cases ht
      exact if_neg (c := ldcHit (s.tile t) (s.mctxOfAgent s.cur) f (effAddr s.me m) = true) (by rw [hhit]; exact Bool.false_ne_true)

/-- Settles O33: the lines that the cache holds, the first line that it lacks, and the checks of fence. -/
theorem constantsPrefetchAndFences : Obligations.ConstantsPrefetchAndFences := by
  intro h f d a m z cp k scope s
  refine ⟨fun t c hc ha hr hp => ⟨fun hall => ?hit, fun hs hmiss => ?miss⟩, fun ha hh => fun hw => ⟨fun hr => ?pref, fun hr => ?prefConst,
    fun cls ⟨l, hl, hf⟩ => prefLines_drop hl hf⟩, fun hr hrel hacq => ?fence, fun hr => ?cinv, fun hr hp => ?cinvLine⟩
  case hit =>
    rw [ldc_hit hc ha hr hp (List.all_eq_true.mpr hall)]
    simp only [ldcGather_hits hall]
    cases f <;> rfl
  case miss =>
    obtain ⟨l, hl, hnone⟩ := hmiss
    have hhit : ldcHit (s.tile t) (s.mctxOfAgent s.cur) f (effAddr s.me m) = false := by
      rw [ldcHit, List.all_eq_false]
      exact ⟨l, hl, by rw [hnone]; exact Bool.false_ne_true⟩
    have hmem : Part.mk (.constFill true (some (f, d, effAddr s.me m))) (effAddr s.me m) (l * 128) 128 none
        ∈ (ldcParts f d (effAddr s.me m)).filter (fun p => ((s.tile t).constHit (s.mctxOfAgent s.cur) p.va).isNone) :=
      List.mem_filter.mpr ⟨List.mem_map.mpr ⟨l, hl, rfl⟩, by rw [Tile.constHit, hnone]; rfl⟩
    obtain ⟨p, ps, hps⟩ := List.exists_cons_of_ne_nil (List.ne_nil_of_mem hmem)
    have hparts : ∀ q ∈ p :: ps, q ∈ ldcParts f d (effAddr s.me m) := fun q hq => (List.mem_filter.mp (hps ▸ hq)).1
    have hform : ∀ q ∈ ldcParts f d (effAddr s.me m), q.op = .constFill true (some (f, d, effAddr s.me m)) ∧ q.unit = none := by
      intro q hq
      obtain ⟨j, -, rfl⟩ := List.mem_map.mp hq
      exact ⟨rfl, rfl⟩
    have hok : ∀ q ∈ p :: ps, q.fill ∧ ∃ y, resolve s .read q.va = .ok y := by
      intro q hq
      obtain ⟨-, hres, -⟩ := hp
      obtain ⟨-, y, hy, -⟩ := hres (q.va, q.ea) (List.mem_map.mpr ⟨q, hparts q hq, rfl⟩)
      exact ⟨⟨_, _, (hform q (hparts q hq)).1⟩, y, hy⟩
    obtain ⟨r, hr', hop, hst⟩ := sendParts_fill (a := .plain 0) hok hs (hform p (hparts p List.mem_cons_self)).2
    obtain ⟨hits, hex⟩ := ldc_miss hc ha hr hp hhit
    refine ⟨_, hex, r, ?_, hop.trans (hform p (hparts p List.mem_cons_self)).1, hst⟩
    rw [ctx_modCtx_self, hps]
    exact List.mem_append_left _ hr'
  case pref => rw [exec_pref, execPref, issue_done rfl hr (prefetch_pass ha hh hw)]
  case prefConst => rw [exec_prefConst, execPrefConst, issue_done rfl hr (prefetch_pass ha hh hw)]
  case fence =>
    have hwait : ¬ (k ≠ .acq ∧ (!s.me.wcb.isEmpty) = true) := by
      rintro ⟨hk, hw⟩
      rw [(hrel hk).1] at hw
      exact Bool.false_ne_true hw
    have hhold : ¬ ((k ≠ .acq ∧ (s.me.unperformed (scope == 0 && s.cur != .mgmt)
        || (!(scope == 0 && s.cur != .mgmt) && s.pastOpen s.cur)) = true) ∨ (k ≠ .rel ∧ s.me.awaiting = true)) := by
      rintro (⟨hk, hu⟩ | ⟨hk, hw⟩)
      · obtain ⟨-, hun, hop⟩ := hrel hk
        rw [hun] at hu
        rcases hop with hop | hop <;> simp [hop] at hu
      · rw [hacq hk] at hw; exact Bool.false_ne_true hw
    have hnext : went s (fun c => c) = s.retire s.cur s.me.pc := by rw [went, modCtx_self rfl]
    rw [exec_fence, execFence, hnext]
    refine issue_done rfl hr ?_
    dsimp only
    rw [if_neg hwait, if_neg hhold]
  case cinv => rw [exec_cinv, execCinv]; exact issue_done rfl hr rfl
  case cinvLine =>
    rw [exec_cinvLine, execCinvLine]
    refine issue_done rfl hr ?_
    simp only [poisonS_cons [] hp, poisonS_nil, orTrap_cons_none, orTrap_nil]

/-! The faults of the accesses of one address, in their order (R267). -/

theorem findSome_cons {α : Type} (x : Option α) (xs : List (Option α)) : (x :: xs).findSome? id = x.or (xs.findSome? id) := by
  cases x <;> rfl

/-- A check that fails after those that pass. -/
theorem findSome_append {α : Type} {xs ys : List (Option α)} (h : ∀ x ∈ xs, x = none) : (xs ++ ys).findSome? id = ys.findSome? id := by
  rw [List.findSome?_append, findSome_none h]; rfl

theorem findSome_append_some {α : Type} {xs ys : List (Option α)} {t : α} (h : xs.findSome? id = some t) :
    (xs ++ ys).findSome? id = some t := by rw [List.findSome?_append, h]; rfl

theorem addrPoison_base {c : Ctx} {m : AddrArg} (h : c.poisS m.base = true) : addrPoison c m = some (0x07, m.base.val, 0) :=
  poisonS_head _ h

theorem addrPoison_idx {c : Ctx} {m : AddrArg} (hb : c.poisS m.base = false) (h : c.poisS m.idx = true) :
    addrPoison c m = some (0x07, m.idx.val, 0) := (poisonS_cons _ hb).trans (poisonS_head _ h)

/-- The checks of a global access before its addresses are translated. -/
def earlyChecks (s : State) (align : Nat) (eas : List (Nat × Nat)) (poison : List (Option (Nat × Nat × Nat))) :
    List (Option (Nat × Nat × Nat)) :=
  poison ++ eas.map (fun a => alignCheck a.2 align)
    ++ eas.map (fun a => trapIf (decide (2 ^ 56 ≤ a.1) && (s.cur != .mgmt)) 0x06 a.2 a.2)

/-- The checks of a global access on its pages. -/
def pageChecks (s : State) (k : Kind) (cls : Class) (eas : List (Nat × Nat)) (expect : Option Nat) : List (Option (Nat × Nat × Nat)) :=
  eas.map (fun a => classCheck s cls a.1 a.2) ++ eas.map (fun a => pageCheck s k expect a.1 a.2)

/-- An early check of a global access fails. -/
theorem globalAccess_early {s : State} {k : Kind} {cls : Class} {align : Nat} {eas : List (Nat × Nat)} {a : Attr}
    {poison : List (Option (Nat × Nat × Nat))} {go : Unit → Eff} {t : Nat × Nat × Nat} (hh : globalHold s = false)
    (h : (earlyChecks s align eas poison).findSome? id = some t) :
    globalAccess s k cls align eas a poison go = .trap t.1 t.2.1 t.2.2 := by
  rw [globalAccess, if_neg (by rw [hh]; exact Bool.false_ne_true)]
  exact orTrap_some h _

/-- A page check of a global access fails. -/
theorem globalAccess_page {s : State} {k : Kind} {cls : Class} {align : Nat} {eas : List (Nat × Nat)} {a : Attr}
    {poison : List (Option (Nat × Nat × Nat))} {go : Unit → Eff} {t : Nat × Nat × Nat} (hh : globalHold s = false)
    (he : (earlyChecks s align eas poison).findSome? id = none) (hw : firstWalk s k (eas.map (fun a => a.1)) = none)
    (h : (pageChecks s k cls eas a.expect).findSome? id = some t) :
    globalAccess s k cls align eas a poison go = .trap t.1 t.2.1 t.2.2 := by
  rw [globalAccess, if_neg (by rw [hh]; exact Bool.false_ne_true)]
  refine (orTrap_none he _).trans ?_
  rw [hw]
  exact orTrap_some h _

/-- The early checks fail at the poison of the data. -/
theorem earlyChecks_poison {s : State} {align : Nat} {eas : List (Nat × Nat)} {poison : List (Option (Nat × Nat × Nat))}
    {t : Nat × Nat × Nat} (h : poison.findSome? id = some t) : (earlyChecks s align eas poison).findSome? id = some t :=
  findSome_append_some (findSome_append_some h)

theorem alignCheck_none {ea n : Nat} (h : ea % n = 0) : alignCheck ea n = none := by simp [alignCheck, trapIf, h]

theorem alignCheck_some {ea n : Nat} (h : ea % n ≠ 0) : alignCheck ea n = some (0x04, ea, ea) := by simp [alignCheck, trapIf, h]

theorem resolve_cached {s : State} {k : Kind} {ea : Nat} {x : Xlated} (h : resolve s k ea = .ok x) : cachedPa s ea = some x.pa := by
  cases hc : cachedPa s ea with
  | some pa => rw [cachedPa_ok h hc]
  | none =>
    rw [resolve] at h
    rw [cachedPa] at hc
    split at h
    next hm => rw [hm] at hc; cases hc
    next t c hm =>
      rw [hm] at hc
      rw [hm] at h
      have hf : s.tlbFind (some t) (clusterOfTile t) (s.mctxOfAgent (.tile t c)) ea = none := by simpa using hc
      split at h
      · cases h
      · simp only [hf] at h
        split at h <;> cases h

/-- A form for local HBM refuses every other target (R264). -/
theorem local_refuses {pa : Nat} (h : targetOf pa ≠ some .hbm) : Class.local_.allows pa = false := by
  cases ht : targetOf pa with
  | none => simp only [Class.allows, ht]
  | some x => cases x <;> simp_all [Class.allows]

/-- The faults of one access at its effective address, in the order of R267. -/
theorem oneAccess_faults {i : Instr} {m : AddrArg} {srcs : List RegId} {k : Kind} {cls : Class} {align len : Nat} {a : Attr}
    {poison : State → Nat → List (Option (Nat × Nat × Nat))} {op : Ctx → ReqOp} {s : State} {P : Option Nat} {T C : Prop}
    {rest : List (Nat × Nat)}
    (he : Machine.exec i s = oneAccess i m srcs k cls align len a poison op s) (hw : i.clauses.wn = 0) (hh : globalHold s = false)
    (hp : (poison s (effAddr s.me m)).findSome? id = P.map (fun k => (0x07, k, effAddr s.me m)))
    (hparts : partAddrs (accessParts (op s.me) (effAddr s.me m) len) = (effAddr s.me m, effAddr s.me m) :: rest)
    (hrest : ∀ e ∈ rest, e.2 = effAddr s.me m) (hT : T → cls = .any ∧ rest = []) (hC : C → cls = .local_ ∧ rest = [] ∧ align = 64)
    (hr : ready i s = true) :
    (let chk := [RegId.s m.base, .s m.idx] ++ srcs
     let ea := effAddr s.me m
     (s.me.poisS m.base = true → Machine.exec i s = .next (trapped s chk 0x07 m.base.val 0))
     ∧ (s.me.poisS m.base = false → s.me.poisS m.idx = true → Machine.exec i s = .next (trapped s chk 0x07 m.idx.val 0))
     ∧ (addrClean s.me m →
         (∀ j, P = some j → Machine.exec i s = .next (trapped s chk 0x07 j ea))
         ∧ (P = none →
             (ea % align ≠ 0 → Machine.exec i s = .next (trapped s chk 0x04 ea ea))
             ∧ (ea % align = 0 → s.cur ≠ .mgmt → 2 ^ 56 ≤ ea → Machine.exec i s = .next (trapped s chk 0x06 ea ea))
             ∧ (∀ c e, T → ea % align = 0 → ea < 2 ^ 56 → resolve s k ea = .fault c e →
                 Machine.exec i s = .next (trapped s chk c (if c = 0x06 then ea else e) ea))
             ∧ (∀ x, C → ea % 64 = 0 → ea < 2 ^ 56 → resolve s k ea = .ok x → targetOf x.pa ≠ some .hbm →
                 Machine.exec i s = .next (trapped s chk 0x06 ea ea))))) := by
  have early : ∀ c d e, (earlyChecks s align (partAddrs (accessParts (op s.me) (effAddr s.me m) len))
      (addrPoison s.me m :: poison s (effAddr s.me m))).findSome? id = some (c, d, e) →
      Machine.exec i s = .next (trapped s ([RegId.s m.base, .s m.idx] ++ srcs) c d e) := fun c d e h => by
    rw [he, oneAccess]; exact issue_trap hw hr (globalAccess_early hh h)
  refine ⟨fun hb => early _ _ _ (earlyChecks_poison (by rw [addrPoison_base hb]; rfl)),
    fun hb hi => early _ _ _ (earlyChecks_poison (by rw [addrPoison_idx hb hi]; rfl)), fun hc => ⟨fun j hj => ?_, fun hn => ?_⟩⟩
  · exact early _ _ _ (earlyChecks_poison (by rw [findSome_cons, addrPoison_none hc, hp, hj]; rfl))
  · have hpo : ∀ x ∈ addrPoison s.me m :: poison s (effAddr s.me m), x = none := by
      rw [hn, Option.map_none, List.findSome?_eq_none_iff] at hp
      exact List.forall_mem_cons.mpr ⟨addrPoison_none hc, fun x hx => hp x hx⟩
    have halign : effAddr s.me m % align = 0 →
        ∀ x ∈ (partAddrs (accessParts (op s.me) (effAddr s.me m) len)).map (fun a => alignCheck a.2 align), x = none := by
      intro h0 x hx
      rw [hparts] at hx
      obtain ⟨e, hmem, rfl⟩ := List.mem_map.mp hx
      refine alignCheck_none ?_
      rcases List.mem_cons.mp hmem with rfl | hmem
      · exact h0
      · rw [hrest e hmem]; exact h0
    have page : ∀ c d e, rest = [] → effAddr s.me m % align = 0 → effAddr s.me m < 2 ^ 56 → resolve s k (effAddr s.me m) ≠ .walk →
        (pageChecks s k cls [(effAddr s.me m, effAddr s.me m)] a.expect).findSome? id = some (c, d, e) →
        Machine.exec i s = .next (trapped s ([RegId.s m.base, .s m.idx] ++ srcs) c d e) := by
      intro c d e hnil h0 hlow hwalk h
      rw [hnil] at hparts
      rw [he, oneAccess]
      refine issue_trap hw hr ?_
      refine globalAccess_page (t := (c, d, e)) hh ?_ ?_ (hparts ▸ h)
      · refine findSome_none fun x hx => ?_
        rcases List.mem_append.mp hx with hx | hx
        · exact (List.mem_append.mp hx).elim (hpo x) (halign h0 x)
        · rw [hparts] at hx
          obtain ⟨e', hmem, rfl⟩ := List.mem_map.mp hx
          obtain rfl := List.mem_singleton.mp hmem
          rw [decide_eq_false (Nat.not_le.mpr hlow)]; rfl
      · rw [hparts, firstWalk, List.map_cons, List.map_nil, List.find?_eq_none]
        intro v hv
        obtain rfl := List.mem_singleton.mp hv
        cases hres : resolve s k (effAddr s.me m) <;> simp_all
    refine ⟨fun h4 => early _ _ _ ?_, fun h4 hm h6 => early _ _ _ ?_, fun c e ht h4 hlow hres => ?_, fun x hcl h4 hlow hres htgt => ?_⟩
    · rw [earlyChecks, List.append_assoc, findSome_append hpo, hparts, List.map_cons, List.cons_append, alignCheck_some h4]; rfl
    · have hhigh : (decide (2 ^ 56 ≤ effAddr s.me m) && (s.cur != .mgmt)) = true := by
        rw [decide_eq_true h6]; simpa using hm
      rw [earlyChecks, findSome_append fun x hx => (List.mem_append.mp hx).elim (hpo x) (halign h4 x), hparts, List.map_cons, hhigh]; rfl
    · obtain ⟨rfl, hnil⟩ := hT ht
      refine page _ _ _ hnil h4 hlow (by rw [hres]; nofun) ?_
      have hcls : classCheck s .any (effAddr s.me m) (effAddr s.me m) = none := by
        rw [classCheck]; cases cachedPa s (effAddr s.me m) <;> rfl
      simp only [pageChecks, List.map_cons, List.map_nil, hcls, pageCheck, hres]; rfl
    · obtain ⟨rfl, hnil, rfl⟩ := hC hcl
      refine page _ _ _ hnil h4 hlow (by rw [hres]; nofun) ?_
      have hno := local_refuses htgt
      have hcls : classCheck s .local_ (effAddr s.me m) (effAddr s.me m) = some (0x06, effAddr s.me m, effAddr s.me m) := by
        rw [classCheck, resolve_cached hres]; simp [hno, trapIf]
      simp only [pageChecks, List.map_cons, List.map_nil, hcls]; rfl

/-! The forms of one access, each with the poison of its data. -/

theorem memPoison_eq (c : Ctx) (d : Fin 32) (ea : Nat) : [memPoison c [d] ea].findSome? id
    = (if c.poisS d then some d.val else none).map (fun k => (0x07, k, ea)) := by
  rw [memPoison]
  cases h : c.poisS d
  · rw [poisonS_cons _ h]; rfl
  · rw [poisonS_head _ h]; rfl

theorem memPoison_two (c : Ctx) (d e : Fin 32) (ea : Nat) : [memPoison c [d, e] ea].findSome? id
    = (if c.poisS d then some d.val else if c.poisS e then some e.val else none).map (fun k => (0x07, k, ea)) := by
  rw [memPoison]
  cases h : c.poisS d
  · rw [poisonS_cons _ h]
    cases he : c.poisS e
    · rw [poisonS_cons _ he]; rfl
    · rw [poisonS_head _ he]; rfl
  · rw [poisonS_head _ h]; rfl

theorem vecPoison_eq (c : Ctx) (d : Fin 32) (n ea : Nat) : [vecPoison c d n ea].findSome? id
    = (if (c.readV d).poisonIn n then some (d.val + 256) else none).map (fun k => (0x07, k, ea)) := by
  rw [vecPoison, poisonV]
  cases h : (c.readV d).poisonIn n <;> rfl

/-- A vector access names its own address first, and reports it for every unit (R269). -/
theorem partAddrs_vector {op : ReqOp} {ea : Nat} {sz : Fin 4} (h : (∃ d, op = .loadV d) ∨ ∃ bs mask po, op = .store bs mask po) :
    ∃ rest, partAddrs (accessParts op ea (vszBytes sz)) = (ea, ea) :: rest ∧ (∀ e ∈ rest, e.2 = ea) ∧ (sz ≠ 3 → rest = []) := by
  by_cases hsz : sz = 3
  · subst hsz
    rcases h with ⟨d, rfl⟩ | ⟨bs, mask, po, rfl⟩
    · exact ⟨[(ea + 64 * 1, ea), (ea + 64 * 2, ea), (ea + 64 * 3, ea)], rfl, by simp, fun h => absurd rfl h⟩
    · exact ⟨[(ea + 64 * 1, ea), (ea + 64 * 2, ea), (ea + 64 * 3, ea)], rfl, by simp, fun h => absurd rfl h⟩
  · have hle : vszBytes sz ≤ 128 := by revert hsz; fin_cases sz <;> decide
    exact ⟨[], by rw [accessParts_small hle]; rfl, by simp, fun _ => rfl⟩

theorem partAddrs_small {op : ReqOp} {ea len : Nat} (h : len ≤ 128) : partAddrs (accessParts op ea len) = [(ea, ea)] := by
  rw [accessParts_small h]; rfl

/-! The faults of gather and scatter before any access (R267, R270). -/

/-- The first misaligned address of some elements. -/
theorem findSome_align (es : List (Nat × Nat)) (n : Nat) : (es.map (fun e => alignCheck e.2 n)).findSome? id
    = (es.find? (fun e => e.2 % n != 0)).map (fun e => (0x04, e.2, e.2)) := by
  induction es with
  | nil => rfl
  | cons e es ih =>
    rw [List.map_cons, findSome_cons, List.find?_cons, ih]
    by_cases h : e.2 % n = 0
    · have hb : (e.2 % n != 0) = false := by simpa using h
      rw [alignCheck_none h, hb]; rfl
    · have hb : (e.2 % n != 0) = true := by simpa using h
      rw [alignCheck_some h, hb]; rfl

theorem offsetPoison_eq (c : Ctx) (d : Fin 32) (b8 : Bool) : offsetPoison c d b8
    = if (List.range (if b8 then 32 else 64)).all (fun j => !(c.readV d).poison.getLsbD (if b8 then 2 * j else j)) then none
      else some (0x07, d.val + 256, 0) := by
  rw [offsetPoison, trapIf, ← List.not_any_eq_all_not]
  cases (List.range (if b8 then 32 else 64)).any (fun j => (c.readV d).poison.getLsbD (if b8 then 2 * j else j)) <;> rfl

/-- The early faults of gather and scatter: addresses, offsets, data, alignment (R270). -/
theorem gather_faults {i : Instr} {d : Fin 32} {b8 : Bool} {m : AddrArg} {s : State} {dat : Option (Nat × Nat × Nat)}
    {k : Kind} {cp : Fin 4} {ps : List Part} {go : Unit → Eff} {chk : List RegId}
    (hout : Machine.exec i s = (globalAccess s k .any (gathBytes b8) (partAddrs ps) (.plain cp)
      [addrPoison s.me m, offsetPoison s.me d b8, dat] go).out chk s)
    (hps : partAddrs ps = (gatherElems s.me d b8 (effAddr s.me m)).map (fun e => (e.2, e.2))) (hh : globalHold s = false) :
    (s.me.poisS m.base = true → Machine.exec i s = .next (trapped s chk 0x07 m.base.val 0))
    ∧ (s.me.poisS m.base = false → s.me.poisS m.idx = true → Machine.exec i s = .next (trapped s chk 0x07 m.idx.val 0))
    ∧ (addrClean s.me m →
        (offsetPoison s.me d b8 = some (0x07, d.val + 256, 0) → Machine.exec i s = .next (trapped s chk 0x07 (d.val + 256) 0))
        ∧ (offsetPoison s.me d b8 = none →
            (∀ t, dat = some t → Machine.exec i s = .next (trapped s chk t.1 t.2.1 t.2.2))
            ∧ (∀ e, dat = none → (gatherElems s.me d b8 (effAddr s.me m)).find? (fun e => e.2 % gathBytes b8 != 0) = some e →
                Machine.exec i s = .next (trapped s chk 0x04 e.2 e.2)))) := by
  have early : ∀ t : Nat × Nat × Nat, (earlyChecks s (gathBytes b8) (partAddrs ps)
      [addrPoison s.me m, offsetPoison s.me d b8, dat]).findSome? id = some t →
      Machine.exec i s = .next (trapped s chk t.1 t.2.1 t.2.2) := fun t h => by rw [hout, globalAccess_early hh h]; rfl
  refine ⟨fun hb => early (0x07, m.base.val, 0) (earlyChecks_poison (by rw [addrPoison_base hb]; rfl)),
    fun hb hi => early (0x07, m.idx.val, 0) (earlyChecks_poison (by rw [addrPoison_idx hb hi]; rfl)), fun hc => ⟨fun ho => ?_, fun ho => ⟨fun t ht => ?_,
      fun e hd he => ?_⟩⟩⟩
  · exact early (0x07, d.val + 256, 0) (earlyChecks_poison (by rw [addrPoison_none hc, ho]; rfl))
  · exact early _ (earlyChecks_poison (by rw [addrPoison_none hc, ho, ht]; rfl))
  · refine early (0x04, e.2, e.2) ?_
    rw [earlyChecks, List.append_assoc, findSome_append (by simp [addrPoison_none hc, ho, hd]), hps, List.map_map]
    refine findSome_append_some ?_
    exact (findSome_align _ _).trans (by rw [he]; rfl)

end Sys2Proof.Machine

/-! ## Matrix words (08_matrix.md). -/

namespace Sys2Proof.Machine

/-! What a word's wait leaves of its tile (R47). -/

/-- The tile after a wait is taken: only its token queues differ. -/
theorem tile_takeWait (s : State) (g : AgentId) (i : Instr) (t : Fin 256) :
    ∃ tq, (s.takeWait g i).tile t = { s.tile t with tq := tq } := by
  rw [State.takeWait]
  dsimp only
  split
  · exact ⟨_, rfl⟩
  · cases g with
    | mgmt => exact ⟨_, rfl⟩
    | tile t' c =>
      rw [State.setTq, tile_modTile]
      by_cases h : t' = t
      · subst h; rw [if_pos rfl]; exact ⟨_, rfl⟩
      · rw [if_neg h]; exact ⟨_, rfl⟩

@[simp] theorem issueShape_takeWait (s : State) (g : AgentId) (i : Instr) (t : Fin 256) :
    ((s.takeWait g i).tile t).issueShape = (s.tile t).issueShape := by obtain ⟨q, h⟩ := tile_takeWait s g i t; rw [h]
@[simp] theorem issueSort_takeWait (s : State) (g : AgentId) (i : Instr) (t : Fin 256) :
    ((s.takeWait g i).tile t).issueSort = (s.tile t).issueSort := by obtain ⟨q, h⟩ := tile_takeWait s g i t; rw [h]
@[simp] theorem gang_takeWait (s : State) (g : AgentId) (i : Instr) (t : Fin 256) :
    ((s.takeWait g i).tile t).gang = (s.tile t).gang := by obtain ⟨q, h⟩ := tile_takeWait s g i t; rw [h]
@[simp] theorem scratch_takeWait (s : State) (g : AgentId) (i : Instr) (t : Fin 256) :
    ((s.takeWait g i).tile t).scratch = (s.tile t).scratch := by obtain ⟨q, h⟩ := tile_takeWait s g i t; rw [h]

/-! ### The words whose checks pass (R229, R235, R241 to R250) -/

/-- Checks that pass leave the effect. -/
theorem orTrap_passes {cs : List (Option (Nat × Nat × Nat))} (h : passes cs = true) (k : Eff) : orTrap cs k = k :=
  orTrap_none (findSome_none fun c hc => by simpa using List.all_eq_true.mp h c hc) k

/-- A word of a tile whose effect, with its wait taken, is known. -/
theorem issue_onTile {i : Instr} {chk : List RegId} {s t' : State} {f : State → Fin 256 → Fin 4 → Eff} {t : Fin 256} {c : Fin 4}
    (hc : s.cur = .tile t c) (hr : ready i s = true) (h : f (s.takeWait s.cur i) t c = .done t') :
    issue i chk s (fun s => onTile s (f s)) = .next (t'.retire s.cur s.me.pc) := by
  rw [issue_ready hr]
  have hcur : (s.takeWait s.cur i).cur = .tile t c := by rw [takeWait_cur, hc]
  simp only [onTile, hcur, h, out_done]

theorem modTile_id (s : State) (t : Fin 256) : s.modTile t id = s :=
  congrArg (fun v => { s with tiles := v }) (vset_get_self ..)

theorem modTile_modTile (s : State) (t : Fin 256) (f g : Tile → Tile) : (s.modTile t f).modTile t g = s.modTile t (fun y => g (f y)) := by
  simp only [State.modTile, State.setTile, State.tile, vset_self, vset_vset]

/-- A matrix word with passing checks, which changes its tile no further than the operation that it appends. -/
theorem issue_queued {i : Instr} {chk : List RegId} {s t' : State} {f : State → Fin 256 → Fin 4 → Eff} {t : Fin 256} {c : Fin 4}
    (hc : s.cur = .tile t c) (hr : ready i s = true) (h : f (s.takeWait s.cur i) t c = .done t') :
    issue i chk s (fun s => onTile s (f s)) = .next ((t'.modTile t id).retire s.cur s.me.pc) := by
  rw [modTile_id]; exact issue_onTile hc hr h

/-- A product word whose checks pass (R229). -/
theorem mac_queued {i : Instr} {m : MacArg} {ta tb : Ty} {mx int gang : Bool} {cl : Clauses} {s : State} {t : Fin 256} {cx : Fin 4}
    {chk : List RegId} (hc : s.cur = .tile t cx) (hr : ready i s = true)
    (hp : passes (macChecks (s.takeWait s.cur i) i t m ta tb mx int gang) = true) :
    issue i chk s (macEffect i m ta tb mx int gang cl) = .next (((s.takeWait s.cur i).modTile t (fun y =>
        { y with
          mq := vset y.mq m.q (y.mq.get m.q ++ [{ newMatOp (s.takeWait s.cur i) cx m.bank ((s.takeWait s.cur i).tile t).issueShape cl
            (.mac (macOp (s.takeWait s.cur i).me m ta tb mx int gang)) with
              gidx := match ((s.takeWait s.cur i).tile t).gang.get m.q with | some g => g.ops | none => 0 }]),
          gang := if gang then vset y.gang m.q ((y.gang.get m.q).map (fun g => { g with ops := g.ops + 1 })) else y.gang })).retire
            s.cur s.me.pc) := by
  refine issue_onTile (f := fun s t cx => _) hc hr ((orTrap_passes hp _).trans (congrArg Eff.done ?_))
  cases gang with
  | false => rfl
  | true => exact (if_pos rfl).trans (modTile_modTile ..)

/-- Settles O37: each word's checks pass and its operation joins the queue. -/
theorem matrixWords : Obligations.MatrixWords := by
  refine ⟨fun h ty f m cl s t cx i ta tb mx int gang hc hi hr hp => ?product, fun h x y d gr gc gR gC bank q shape sel sort hd ty half clr
    rd k1 cl s t cx hc => ⟨fun hr hp => ?gang, fun hr hp => ?free, fun hr hp => ?zero, fun hr hp => ?row, fun hr hp => ?col,
      fun hr hp => ?mld, fun hr hp => ?mst, fun hr hp => ?mrow, fun hr hp => ?sort, fun hr hp => ?topk, fun hr hneed hm hg => ?cfg,
      fun hr => ?stat⟩⟩
  case product =>
    rcases hi with ⟨rfl, rfl, rfl, rfl, rfl, rfl⟩ | ⟨rfl, rfl, rfl, rfl, rfl, rfl⟩ | ⟨rfl, hty, rfl, rfl, rfl⟩
      | ⟨rfl, rfl, rfl, rfl, rfl, rfl⟩ | ⟨rfl, rfl, rfl, rfl, rfl, rfl⟩
    · rw [exec_mma, execMma]; exact mac_queued hc hr hp
    · rw [exec_mmx, execMmx]; exact mac_queued hc hr hp
    · obtain ⟨rfl, rfl⟩ := Prod.mk.injEq .. ▸ hty
      rw [exec_mmi, execMmi]; exact mac_queued hc hr hp
    · rw [exec_mmaG, execMmaG]; exact mac_queued hc hr hp
    · rw [exec_mmxG, execMmxG]; exact mac_queued hc hr hp
  case gang =>
    have hkey : ((s.takeWait s.cur (.mgang h y gr gc gR gC q cl)).me.readS y).toNat = (s.me.readS y).toNat := by rw [me_takeWait]
    rw [← hkey] at hp ⊢
    rw [exec_mgang, execMgang]
    exact issue_onTile hc hr (orTrap_passes hp _)
  case free => rw [exec_mgangFree, execMgangFree]; exact issue_queued hc hr (orTrap_passes hp _)
  case zero => rw [exec_mzero, execMzero]; exact issue_queued hc hr (orTrap_passes hp _)
  case row => rw [exec_mscaleRow, execMscaleRow]; exact issue_queued hc hr (orTrap_passes hp _)
  case col => rw [exec_mscaleCol, execMscaleCol]; exact issue_queued hc hr (orTrap_passes hp _)
  case mld => rw [exec_mld, execMld]; exact issue_queued hc hr (orTrap_passes hp _)
  case mst => rw [exec_mst, execMst]; exact issue_queued hc hr (orTrap_passes hp _)
  case mrow =>
    have hkey : ((s.takeWait s.cur (.mrow h x y bank ty half q cl)).me.readS y).toNat = (s.me.readS y).toNat := by rw [me_takeWait]
    rw [← hkey] at hp ⊢
    rw [exec_mrow, execMrow]
    exact issue_queued hc hr (orTrap_passes hp _)
  case sort => rw [exec_msort, execMsort]; exact issue_queued hc hr (orTrap_passes hp _)
  case topk => rw [exec_mtopk, execMtopk]; exact issue_queued hc hr (orTrap_passes hp _)
  case cfg =>
    rw [exec_mcfg, execMcfg]
    refine issue_onTile hc hr ((orTrap_none (findSome_none ?_) _).trans rfl)
    have hmiss : (List.range 4).find? (fun q => cfgNeeds ((s.takeWait s.cur (.mcfg h shape sort cl)).tile t) shape sort q
        && !bitOf ((s.takeWait s.cur (.mcfg h shape sort cl)).view (s.takeWait s.cur (.mcfg h shape sort cl)).cur).mqmask q) = none := by
      rw [List.find?_eq_none]
      intro k hk
      have h4 := hneed ⟨k, List.mem_range.mp hk⟩
      simp only [cfgNeeds, issueShape_takeWait, issueSort_takeWait, takeWait_cur, view_takeWait]
      intro hb
      rw [Bool.and_eq_true] at hb
      rw [h4 hb.1] at hb
      exact Bool.false_ne_true hb.2
    have hgang : (List.finRange 4).any (fun q => (((s.takeWait s.cur (.mcfg h shape sort cl)).tile t).gang.get q).isSome) = false := by
      rw [List.any_eq_false]
      intro k _
      rw [gang_takeWait, hg k]; exact Bool.false_ne_true
    intro c hmem
    simp only [List.mem_cons, List.not_mem_nil, or_false] at hmem
    rcases hmem with rfl | rfl | rfl
    · rw [hmiss]
    · rw [maskTrap_takeWait, maskTrap_none hm]
    · rw [hgang]; rfl
  case stat =>
    rw [exec_mstat, execMstat]
    refine issue_onCtx rfl hr ?_
    rw [onTile]
    split
    next t' c' ht => rw [hc] at ht; cases ht; rfl
    next hm => rw [hc] at hm; cases hm

/-! The checks of the matrix words as a list of conditions with their causes (R56, R207, R228, R234, R235). -/

/-- A condition with its cause, detail and address, as a check. -/
def asCheck (v : Bool × Nat × Nat × Nat) : Option (Nat × Nat × Nat) := trapIf v.1 v.2.1 v.2.2.1 v.2.2.2

/-- The first condition that holds is the first check that fails. -/
theorem findSome_asCheck (L : List (Bool × Nat × Nat × Nat)) : (L.map asCheck).findSome? id = (L.find? (fun v => v.1)).map (fun v => v.2) := by
  induction L with
  | nil => rfl
  | cons v L ih =>
    obtain ⟨b, c, d, a⟩ := v
    rw [List.map_cons, findSome_cons, List.find?_cons, ih]
    cases b <;> rfl

/-- A matrix word traps at the first condition that holds. -/
theorem matrix_fault {i : Instr} {chk : List RegId} {s : State} {f : State → Fin 256 → Fin 4 → Eff} {t : Fin 256} {c : Fin 4}
    {cs : List (Option (Nat × Nat × Nat))} {k : Eff} {L : List (Bool × Nat × Nat × Nat)} {v : Bool × Nat × Nat × Nat}
    (hc : s.cur = .tile t c) (hr : ready i s = true)
    (hf : f (s.takeWait s.cur i) t c = orTrap cs k) (hcs : cs.findSome? id = (L.map asCheck).findSome? id)
    (hv : L.find? (fun v => v.1) = some v) :
    issue i chk s (fun s => onTile s (f s)) = .next (trapped s chk v.2.1 v.2.2.1 v.2.2.2) := by
  have hcur : (s.takeWait s.cur i).cur = .tile t c := by rw [takeWait_cur, hc]
  have hfirst : cs.findSome? id = some v.2 := by rw [hcs, findSome_asCheck, hv]; rfl
  rw [issue_ready hr]
  simp only [onTile, hcur, hf, orTrap_some hfirst, out_trap]

theorem maskTrap_eq (s : State) (i : Instr) : maskTrap s i
    = asCheck ((s.maskFault s.cur i).isSome, 0x06, (s.maskFault s.cur i).getD 0, 0) := by
  rw [maskTrap]; cases s.maskFault s.cur i <;> rfl

/-- The poison of several registers is checked one by one (R99). -/
theorem findSome_poisonS (c : Ctx) (rs : List (Fin 32)) (cs : List (Option (Nat × Nat × Nat))) :
    (poisonS c rs :: cs).findSome? id = (rs.map (fun r => asCheck (c.poisS r, 0x07, r.val, 0)) ++ cs).findSome? id := by
  induction rs with
  | nil => rfl
  | cons r rs ih =>
    rw [findSome_cons, List.map_cons, List.cons_append, findSome_cons, ← ih, findSome_cons]
    cases h : c.poisS r
    · rw [poisonS_cons _ h]; rfl
    · rw [poisonS_head _ h]; rfl

theorem poisonS_one (c : Ctx) (r : Fin 32) : poisonS c [r] = asCheck (c.poisS r, 0x07, r.val, 0) := by
  cases h : c.poisS r
  · rw [poisonS_cons _ h]; rfl
  · rw [poisonS_head _ h]; rfl

theorem matTrap_eq (b : Bool) (r : Nat) : matTrap b r = asCheck (b, 0x08, r, 0) := rfl

theorem panelTrap_any (y : Tile) (q : Fin 4) : panelTrap y q none = asCheck ((panelOf y.issueShape q).isNone, 0x08, 1, 0) := by
  rw [panelTrap, Bool.or_false]; rfl

theorem panelTrap_mac (y : Tile) (q : Fin 4) : panelTrap y q (some false)
    = asCheck ((panelOf y.issueShape q).isNone || bitOf y.issueSort.val q.val, 0x08, 1, 0) := by
  simp only [panelTrap, Bool.bne_false]; rfl

theorem panelTrap_sort (y : Tile) (q : Fin 4) : panelTrap y q (some true)
    = asCheck ((panelOf y.issueShape q).isNone || !bitOf y.issueSort.val q.val, 0x08, 1, 0) := by
  simp only [panelTrap, Bool.bne_true]; rfl

theorem handleTrap_eq (b : Bool) (reason idx reg : Nat) : handleTrap b reason idx reg 0
    = asCheck (b, 0x0B, reason + (idx % 2 ^ 16 * 2 ^ 8 + reg * 2 ^ 24), 0) := by
  rw [handleTrap, Nat.zero_mul, Nat.add_zero, Nat.add_assoc, asCheck]

theorem windowTrap_eq (c : Ctx) (hr : Fin 16) (x0 : Int) (n0 : Nat) (x1 : Int) (n1 : Nat) : windowTrap c hr x0 n0 x1 n1
    = asCheck ((windowTrap c hr x0 n0 x1 n1).isSome, 0x0B, ((windowTrap c hr x0 n0 x1 n1).map (fun z => z.2.1)).getD 0, 0) := by
  have key : ∀ o : Option (Nat × Nat × Nat), (∀ z, o = some z → z.1 = 0x0B ∧ z.2.2 = 0) →
      o = asCheck (o.isSome, 0x0B, (o.map (fun z => z.2.1)).getD 0, 0) := by
    intro o h
    cases o with
    | none => rfl
    | some z =>
      obtain ⟨a, b, d⟩ := z
      obtain ⟨rfl, rfl⟩ := h _ rfl
      rfl
  refine key _ fun z hz => ?_
  have htrap : ∀ b r i g d, handleTrap b r i g d = some z → z.1 = 0x0B ∧ z.2.2 = 0 := by
    intro b r i g d h
    cases b with
    | false => cases h
    | true => cases h; exact ⟨rfl, rfl⟩
  rw [windowTrap] at hz
  dsimp only at hz
  split at hz
  · cases hz
  · split at hz
    · exact htrap _ _ _ _ _ hz
    · exact htrap _ _ _ _ _ hz

theorem handleChecks_eq (c : Ctx) (hr : Fin 16) (ty : Ty) : handleChecks c hr ty
    = [(!(c.readH hr).valid, 0x0B, 12 + hr.val * 2 ^ 24, 0),
       (dBits (c.readH hr).desc 112 4 2 == 2, 0x0C, (c.readH hr).index % 2 ^ 16 * 2 ^ 8, 0),
       ((hdesc (c.readH hr).desc).tyCode != tyCode ty, 0x0B, 10 + ((c.readH hr).index % 2 ^ 16 * 2 ^ 8 + hr.val * 2 ^ 24), 0)].map asCheck := by
  simp only [handleChecks, regTraps, brokenTrap, handleTrap_eq, Nat.zero_mod, Nat.zero_mul, Nat.zero_add]
  rfl

/-- The first queue that a configuration change needs and the launch does not have (R244). -/
theorem cfg_miss (p : Nat → Bool) (qs : List Nat) (cs : List (Option (Nat × Nat × Nat))) :
    ((match qs.find? p with | some q => trapIf true 0x06 (q + 256) 0 | none => none) :: cs).findSome? id
      = (qs.map (fun q => asCheck (p q, 0x06, q + 256, 0)) ++ cs).findSome? id := by
  induction qs with
  | nil => rfl
  | cons q qs ih =>
    rw [List.find?_cons, List.map_cons, List.cons_append, findSome_cons (asCheck _), ← ih]
    cases p q <;> rfl


/-- The checks of mma, one by one (R235). -/
theorem macChecks_mma (s : State) (ins : Instr) (t : Fin 256) (m : MacArg) (ty : Ty) :
    (macChecks s ins t m ty ty false false false).findSome? id
      = ((let c := s.me
          let w := s.tile t
          let desc := fun (hr : Fin 16) => hdesc (c.readH hr).desc
          let pm := (panelOf w.issueShape m.q).getD ⟨0, 0, 0, 0⟩
          let o := macOp c m ty ty false false false
          let z := (c.readS m.z).toNat
          [maskTrap s ins] ++ (macScalars m).map (fun r => asCheck (c.poisS r, 0x07, r.val, 0))
            ++ handleChecks c m.a ty ++ handleChecks c m.b ty
            ++ [panelTrap w m.q (some false),
                matTrap (!((desc m.a).space && (desc m.a).tag == 2 && decide ((desc m.a).base + (desc m.a).size ≤ 0x80000))) 2,
                matTrap (!((desc m.b).space && (desc m.b).tag == 3 && decide (0x80000 ≤ (desc m.b).base)
                  && decide ((desc m.b).base + (desc m.b).size ≤ 0x100000))) 3,
                matTrap (m.z != 0 && !maskOk w.scratch z) 6,
                matTrap (o.K == 0 || decide (8192 < o.K) || o.K % o.G != 0 || o.k0 % (o.G : Int) != 0) 4,
                windowTrap c m.a o.m0 pm.M o.k0 o.K, windowTrap c m.b o.k0 o.K o.n0 pm.N,
                trapIf (m.z != 0 && z % 64 != 0) 0x04 z z,
                matTrap (o.conflict pm ⟨true, true⟩).isSome
                  (match o.conflict pm ⟨true, true⟩ with | some (v, b) => 5 + b * 2 ^ 8 + v * 2 ^ 16 | none => 0)]).findSome? id) := by
  have hz : (macOp s.me m ty ty false false false).z = if m.z = 0 then none else some (s.me.readS m.z).toNat := rfl
  have hmask : matTrap (match (macOp s.me m ty ty false false false).z with
      | some z => !maskOk (s.tile t).scratch z | none => false) 6
      = matTrap (m.z != 0 && !maskOk (s.tile t).scratch (s.me.readS m.z).toNat) 6 := by
    rw [hz]
    by_cases h : m.z = 0
    · simp [h]
    · have hb : (m.z != 0) = true := by simpa using h
      rw [if_neg h, hb]; rfl
  have halign : (match (macOp s.me m ty ty false false false).z with
      | some z => trapIf (z % 64 != 0) 0x04 z z | none => none)
      = trapIf (m.z != 0 && (s.me.readS m.z).toNat % 64 != 0) 0x04 (s.me.readS m.z).toNat (s.me.readS m.z).toNat := by
    rw [hz]
    by_cases h : m.z = 0
    · simp [h, trapIf]
    · have hb : (m.z != 0) = true := by simpa using h
      rw [if_neg h, hb]; rfl
  have hconf : ∀ o : Option (Nat × Nat), (match o with | some (w, b) => matTrap true (5 + b * 2 ^ 8 + w * 2 ^ 16) | none => none)
      = matTrap o.isSome (match o with | some (v, b) => 5 + b * 2 ^ 8 + v * 2 ^ 16 | none => 0) := by
    intro o; rcases o with _ | ⟨w, b⟩ <;> rfl
  have hfalse : ∀ r, matTrap false r = none := fun _ => rfl
  have hstoreA : ∀ h : HDesc, storeIn h 0 0x80000 = decide (h.base + h.size ≤ 0x80000) := fun h => by
    rw [storeIn, decide_eq_true (Nat.zero_le _), Bool.true_and]
  have hstoreB : ∀ h : HDesc, ∀ b : Bool, (b && storeIn h 0x80000 0x100000)
      = (b && decide (0x80000 ≤ h.base) && decide (h.base + h.size ≤ 0x100000)) := fun h b => by
    rw [storeIn, Bool.and_assoc]
  rw [macChecks]
  simp only [suppliesOf, Bool.false_and, Bool.false_eq_true, if_false, if_true, List.flatMap_nil, List.map_nil, List.append_nil,
    Bool.true_and, Bool.or_false, List.cons_append, List.nil_append]
  rw [findSome_cons (maskTrap s ins), findSome_cons (maskTrap s ins), findSome_poisonS]
  refine congrArg (Option.or _) ?_
  simp only [List.append_assoc, List.findSome?_append]
  refine congrArg (Option.or _) (congrArg (Option.or _) (congrArg (Option.or _) ?_))
  simp only [findSome_cons, hfalse, Option.none_or, Option.or_none, Option.or_assoc, List.findSome?_nil, hstoreA, hstoreB]
  exact congrArg (Option.or _) (congrArg (Option.or _) (congrArg (Option.or _) (congrArg₂ Option.or hmask (congrArg (Option.or _)
    (congrArg (Option.or _) (congrArg (Option.or _) (congrArg₂ Option.or halign (hconf _))))))))

/-! The record of a stream word, with its checks (R302, R325). -/

theorem scratchState_takeWait (s : State) (i : Instr) : (s.takeWait s.cur i).scratch = s.scratch := by
  simp only [State.scratch, takeWait_cur]
  cases s.cur with
  | mgmt => rfl
  | tile t c => exact scratch_takeWait s _ i t

theorem scratchHold_takeWait (s : State) (i : Instr) (ea n : Nat) : scratchHold (s.takeWait s.cur i) ea n = scratchHold s ea n := by
  have hwm : ∀ t, ((s.takeWait s.cur i).tile t).wmStall ea n (s.order s.cur) = (s.tile t).wmStall ea n (s.order s.cur) := by
    intro t; obtain ⟨q, h⟩ := tile_takeWait s s.cur i t; rw [h]; rfl
  simp only [scratchHold, blockedByUnit, State.unitWaits, me_takeWait, takeWait_convs, takeWait_cur, order_takeWait, hwm]

theorem clusterCount_takeWait (s : State) (i : Instr) : clusterCount (s.takeWait s.cur i) = clusterCount s := by
  simp only [clusterCount, State.clustersOf, takeWait_cur, launchOf_takeWait, takeWait_parts]

theorem recRank_takeWait (s : State) (i : Instr) (x : BitVec 512) : recRank (s.takeWait s.cur i) x = recRank s x := by
  simp only [recRank, State.entry, takeWait_cur, launchOf_takeWait]

theorem withRecord_takeWait (s : State) (i : Instr) (x : Fin 32) (others : List (Fin 32)) (rk num kind : Nat) (go : BitVec 512 → Eff) :
    withRecord (s.takeWait s.cur i) i x others rk num kind go = withRecord s i x others rk num kind go := by
  simp only [withRecord, me_takeWait, maskTrap_takeWait, scratchHold_takeWait, scratchState_takeWait, clusterCount_takeWait,
    recRank_takeWait]

theorem poisonS_find {c : Ctx} {rs : List (Fin 32)} {r : Fin 32} (h : rs.find? (fun r => c.poisS r) = some r) :
    poisonS c rs = some (0x07, r.val, 0) := by rw [poisonS, h]

theorem poisonS_all {c : Ctx} {rs : List (Fin 32)} (h : rs.all (fun r => !c.poisS r) = true) : poisonS c rs = none :=
  poisonS_none fun r hr => by simpa using List.all_eq_true.mp h r hr

theorem maskTrap_some {s : State} {i : Instr} {n : Nat} (h : s.maskFault s.cur i = some n) : maskTrap s i = some (0x06, n, 0) := by
  rw [maskTrap, h]

/-- What the record of a stream word answers, in the order of its checks. -/
theorem withRecord_faults (s : State) (i : Instr) (x : Fin 32) (others : List (Fin 32)) (rk num kind : Nat) (go : BitVec 512 → Eff) :
    let a := (s.me.readS x).toNat
    let rcd := BitVec.ofNat 512 (s.scratch.readNat a 64)
    let wr := withRecord s i x others rk num kind go
    (∀ r, (x :: others).find? (fun r => s.me.poisS r) = some r → wr = .trap 0x07 r.val 0)
    ∧ ((x :: others).all (fun r => !s.me.poisS r) = true →
        (a % 64 ≠ 0 → wr = .trap 0x04 a a)
        ∧ (a % 64 = 0 → scratchEnd < a + 64 → wr = .trap 0x06 a a)
        ∧ (∀ n, a % 64 = 0 → a + 64 ≤ scratchEnd → s.maskFault s.cur i = some n → wr = .trap 0x06 n 0)
        ∧ (scratchOpen s a 64 64 → s.maskFault s.cur i = none →
            ((s.scratch.readPoison a 64).any id = true → wr = .trap 0x07 x.val 0)
            ∧ ((s.scratch.readPoison a 64).any id = false →
                (recOk rcd rk (clusterCount s) (recRank s rcd) = false → wr = .trap 0x0D (1 + 2 ^ 8 * num + 2 ^ 12 * kind) 0)
                ∧ (recOk rcd rk (clusterCount s) (recRank s rcd) = true → wr = go rcd)))) := by
  intro a rcd wr
  have hwr : wr = orTrap [poisonS s.me (x :: others), alignCheck a 64, trapIf (decide (scratchEnd < a + 64)) 0x06 a a, maskTrap s i]
      (if scratchHold s a 64 then .hold else orTrap [trapIf ((s.scratch.readPoison a 64).any id) 0x07 x.val 0,
        streamTrap (!recOk rcd rk (clusterCount s) (recRank s rcd)) 1 num kind] (go rcd)) := rfl
  refine ⟨fun r hr => ?_, fun hc => ⟨fun ha => ?_, fun ha hb => ?_, fun n ha hb hm => ?_, fun ho hm => ?_⟩⟩
  · rw [hwr, poisonS_find hr, orTrap_cons_some]
  · rw [hwr, poisonS_all hc, alignCheck_some ha, orTrap_cons_none, orTrap_cons_some]
  · rw [hwr, poisonS_all hc, alignCheck_none ha, decide_eq_true hb]; rfl
  · rw [hwr, poisonS_all hc, alignCheck_none ha, decide_eq_false (Nat.not_lt.mpr hb), maskTrap_some hm]; rfl
  · obtain ⟨ha, hb, hold⟩ := ho
    have hbody : wr = orTrap [trapIf ((s.scratch.readPoison a 64).any id) 0x07 x.val 0,
        streamTrap (!recOk rcd rk (clusterCount s) (recRank s rcd)) 1 num kind] (go rcd) := by
      rw [hwr, poisonS_all hc, alignCheck_none ha, decide_eq_false (Nat.not_lt.mpr hb), maskTrap_none hm, hold]; rfl
    refine ⟨fun hp => ?_, fun hp => ⟨fun hk => ?_, fun hk => ?_⟩⟩
    · rw [hbody, hp]; rfl
    · rw [hbody, hp, hk]; rfl
    · rw [hbody, hp, hk]; rfl

/-- A word of a tile's context that traps (R384). -/
theorem onTileCtx_out {i : Instr} {chk : List RegId} {s : State} {f : State → Fin 256 → Fin 4 → Eff} {t : Fin 256} {c : Fin 4}
    (hc : s.cur = .tile t c) (hr : ready i s = true) :
    issue i chk s (fun s => onTileCtx s (f s)) = (f (s.takeWait s.cur i) t c).out chk s := by
  have hcur : (s.takeWait s.cur i).cur = .tile t c := by rw [takeWait_cur, hc]
  rw [issue_ready hr]
  simp only [onTileCtx, hcur]

theorem sdef_out {h : Hdr} {x : Fin 32} {slot : Fin 16} {cl : Clauses} {s : State} {t : Fin 256} {c : Fin 4} (hc : s.cur = .tile t c)
    (hr : ready (.sdef h x slot cl) s = true) :
    Machine.exec (.sdef h x slot cl) s = (withRecord s (.sdef h x slot cl) x [] 0 slot.val 0 fun rcd =>
      orTrap [streamTrap (s.me.ss.get slot).held.isSome 3 slot.val 0, streamTrap (decide (2 ≤ (s.me.ss.get slot).stat.state)) 2 slot.val 0] <|
        doneSig (.sdef h x slot cl) ((s.takeWait s.cur (.sdef h x slot cl)).modCtx s.cur (fun c => c.setSs slot
          { s.me.ss.get slot with record := some rcd, stat := { (s.me.ss.get slot).stat with state := 1 } }))).out [.s x] s := by
  rw [exec_sdef, execSdef]
  refine (onTileCtx_out hc hr).trans ?_
  simp only [withRecord_takeWait, me_takeWait, takeWait_cur]

theorem carm_out {h : Hdr} {x : Fin 32} {slot wm : Fin 16} {wmen : Bool} {cl : Clauses} {s : State} {t : Fin 256} {c : Fin 4}
    (hc : s.cur = .tile t c) (hr : ready (.carm h x slot wm wmen cl) s = true) :
    Machine.exec (.carm h x slot wm wmen cl) s = (withRecord s (.carm h x slot wm wmen cl) x [] 1 slot.val 2 fun rcd =>
      orTrap [streamTrap (s.me.tmpl.get slot).isSome 2 slot.val 2] <| afterDrain (s.takeWait s.cur (.carm h x slot wm wmen cl)) <|
        .done ((s.takeWait s.cur (.carm h x slot wm wmen cl)).modCtx s.cur (fun c => { c with tmpl := vset c.tmpl slot (some
          ⟨rcd, if wmen then some wm else none, sqOf (.carm h x slot wm wmen cl), s.issued s.cur, false, false, []⟩) }))).out [.s x] s := by
  rw [exec_carm, execCarm]
  refine (onTileCtx_out hc hr).trans ?_
  simp only [withRecord_takeWait, me_takeWait, takeWait_cur, issued_takeWait]

/-- The copy of a record whose checks pass (R317, R325). -/
def copyGo (z : Fin 32) (wm : Fin 16) (wmen : Bool) (i : Instr) (t : Fin 256) (c : Fin 4) (s : State) (rcd : BitVec 512) : Eff :=
  if wmen && (s.me.wm.get wm).active then .hold
  else afterDrain s <|
    match s.launchOf s.cur with
    | none => .hold
    | some l =>
      match s.cgOfPart l.q (recOf rcd).cg with
      | none => .hold
      | some cg =>
        let r := newReq 1 l.q t c wm rcd (s.me.readS z) (recOf rcd).soff (if wmen then some wm else none) (sqOf i) (s.issued s.cur)
        .done ((takeWm s r (s.order s.cur + 1)).submitReq cg r)

theorem copy_out {h : Hdr} {x z : Fin 32} {wm : Fin 16} {wmen : Bool} {cl : Clauses} {s : State} {t : Fin 256} {c : Fin 4}
    (hc : s.cur = .tile t c) (hr : ready (.copy h x z wm wmen cl) s = true) :
    Machine.exec (.copy h x z wm wmen cl) s = (withRecord s (.copy h x z wm wmen cl) x [z] 1 wm.val 1 fun rcd =>
      orTrap [streamTrap (recOf rcd).denseBad 1 wm.val 1]
        (copyGo z wm wmen (.copy h x z wm wmen cl) t c (s.takeWait s.cur (.copy h x z wm wmen cl)) rcd)).out [.s x, .s z] s := by
  rw [exec_copy, execCopy]
  refine (onTileCtx_out hc hr).trans ?_
  rw [withRecord_takeWait]
  rfl

theorem bindingOk_takeWait (s : State) (i : Instr) (t : Fin 256) (c : Fin 4) (slot : Fin 16) (r : Rec) :
    bindingOk (s.takeWait s.cur i) t c slot r = bindingOk s t c slot r := by
  simp only [bindingOk, takeWait_cur, launchOf_takeWait]

/-- The checks of sgo (R303, R315, R325). -/
def sgoChecks (s : State) (i : Instr) (t : Fin 256) (c : Fin 4) (slot : Fin 16) (z : Fin 32) : List (Option (Nat × Nat × Nat)) :=
  let ss := s.me.ss.get slot
  let rc := recOf (ss.record.getD 0)
  [poisonS s.me [z], maskTrap s i, streamTrap (ss.record.isNone || ss.held.isSome) 3 slot.val 0,
    streamTrap (decide (2 ≤ ss.stat.state)) 2 slot.val 0, streamTrap (!bindingOk s t c slot rc) 4 slot.val 0,
    streamTrap rc.denseBad 1 slot.val 0]

theorem sgo_out {h : Hdr} {slot : Fin 16} {z : Fin 32} {cl : Clauses} {s : State} {t : Fin 256} {c : Fin 4} (hc : s.cur = .tile t c)
    (hr : ready (.sgo h slot z cl) s = true) :
    Machine.exec (.sgo h slot z cl) s = (orTrap (sgoChecks s (.sgo h slot z cl) t c slot z) <|
      afterDrain (s.takeWait s.cur (.sgo h slot z cl)) <|
        match s.launchOf s.cur with
        | none => .hold
        | some l =>
          match s.cgOfPart l.q (recOf ((s.me.ss.get slot).record.getD 0)).cg with
          | none => .hold
          | some cg => .done (((s.takeWait s.cur (.sgo h slot z cl)).modCtx s.cur (fun x => x.setSs slot { s.me.ss.get slot with
              stat := { StreamStat.empty with state := 2, last := (s.me.ss.get slot).stat.last } })).submitReq cg
              (newReq 0 l.q t c slot ((s.me.ss.get slot).record.getD 0) (s.me.readS z) 0 none (sqOf (.sgo h slot z cl))
                (s.issued s.cur)))).out [.s z] s := by
  rw [exec_sgo, execSgo]
  refine (onTileCtx_out hc hr).trans ?_
  simp only [sgoChecks, me_takeWait, maskTrap_takeWait, bindingOk_takeWait, takeWait_cur, launchOf_takeWait, issued_takeWait]
  have hcg : ∀ q n, (s.takeWait s.cur (.sgo h slot z cl)).cgOfPart q n = s.cgOfPart q n := fun q n => by
    simp only [State.cgOfPart, takeWait_parts]
  simp only [hcg] <;> rfl

/-- A stream word that names a queue outside the mask of its launch traps (R56). -/
theorem stream_mask_fault {i : Instr} {s : State} {t : Fin 256} {c : Fin 4} {n : Nat} {f : State → Eff} (hc : s.cur = .tile t c)
    (hr : ready i s = true) (hm : s.maskFault s.cur i = some n) :
    issue i [] s (fun s => onTileCtx s fun _ _ => orTrap [maskTrap s i] (f s)) = .next (trapped s [] 0x06 n 0) := by
  refine (onTileCtx_out (f := fun s _ _ => orTrap [maskTrap s i] (f s)) hc hr).trans ?_
  rw [maskTrap_takeWait, maskTrap_some hm]; rfl

/-- The checks of mld and mst, one by one (R235, R247). -/
theorem moveTraps_first (s : State) (i : Instr) (t : Fin 256) (x : Fin 32) (hr : Fin 16) (ty : Ty) (q : Fin 4) :
    (moveTraps s i t x hr ty q).findSome? id
      = ((let c := s.me
          let r := c.readH hr
          let h := hdesc r.desc
          let w := s.tile t
          let p := (panelOf w.issueShape q).getD ⟨0, 0, 0, 0⟩
          [maskTrap s i, asCheck (c.poisS x, 0x07, x.val, 0), asCheck (c.poisS (x + 1), 0x07, (x + 1).val, 0)]
            ++ (handleChecks c hr ty
            ++ [asCheck (!h.space || !(h.tag == 0 || h.tag == 4) || h.rank != 2, 0x0B,
                3 + (r.index % 2 ^ 16 * 2 ^ 8 + hr.val * 2 ^ 24), 0),
              asCheck ((panelOf w.issueShape q).isNone || bitOf w.issueSort.val q.val, 0x08, 1, 0),
              windowTrap c hr (c.readS x).toInt p.M (c.readS (x + 1)).toInt p.N])).findSome? id) := by
  rw [moveTraps]
  simp only [handleTrap_eq, panelTrap_mac, List.cons_append, List.nil_append]
  rw [findSome_cons (maskTrap s i), findSome_cons (maskTrap s i), findSome_poisonS]
  rfl

/-- The faults of a word that takes a record, in the order of its checks. -/
theorem record_faults {s : State} {i : Instr} {x : Fin 32} {others : List (Fin 32)} {rk num kind : Nat} {go : BitVec 512 → Eff}
    {P : Prop}
    (he : Machine.exec i s = (withRecord s i x others rk num kind go).out ((x :: others).map RegId.s) s) :
    let a := (s.me.readS x).toNat
    let rcd := BitVec.ofNat 512 (s.scratch.readNat a 64)
    let trap := fun (cause detail addr : Nat) => Machine.exec i s = .next (trapped s ((x :: others).map RegId.s) cause detail addr)
    (Machine.exec i s = (go rcd).out ((x :: others).map RegId.s) s → P) →
    (∀ r, (x :: others).find? (fun r => s.me.poisS r) = some r → trap 0x07 r.val 0)
    ∧ ((x :: others).all (fun r => !s.me.poisS r) = true →
        (a % 64 ≠ 0 → trap 0x04 a a)
        ∧ (a % 64 = 0 → 0x180000 < a + 64 → trap 0x06 a a)
        ∧ (∀ n, a % 64 = 0 → a + 64 ≤ 0x180000 → s.maskFault s.cur i = some n → trap 0x06 n 0)
        ∧ (scratchOpen s a 64 64 → s.maskFault s.cur i = none →
            ((s.scratch.readPoison a 64).any id = true → trap 0x07 x.val 0)
            ∧ ((s.scratch.readPoison a 64).any id = false →
                (recOk rcd rk (clusterCount s) (recRank s rcd) = false → trap 0x0D (1 + 2 ^ 8 * num + 2 ^ 12 * kind) 0)
                ∧ (recOk rcd rk (clusterCount s) (recRank s rcd) = true → P)))) := by
  intro a rcd trap hgo
  have key : ∀ {c d a}, withRecord s i x others rk num kind go = .trap c d a → trap c d a := fun h => he.trans (by rw [h]; rfl)
  obtain ⟨hp, hc⟩ := withRecord_faults s i x others rk num kind go
  refine ⟨fun r hr => key (hp r hr), fun hall => ?_⟩
  obtain ⟨h1, h2, h3, h4⟩ := hc hall
  refine ⟨fun h => key (h1 h), fun h h' => key (h2 h h'), fun n h h' h'' => key (h3 n h h' h''), fun ho hm => ?_⟩
  obtain ⟨h5, h6⟩ := h4 ho hm
  exact ⟨fun h => key (h5 h), fun h => ⟨fun hk => key ((h6 h).1 hk), fun hk => hgo (by rw [he, (h6 h).2 hk])⟩⟩

/-- A check that never fails makes no difference. -/
theorem globalAccess_skip {s : State} {k : Kind} {cls : Class} {n : Nat} {eas : List (Nat × Nat)} {a : Attr}
    {x y : Option (Nat × Nat × Nat)} {go : Unit → Eff} :
    globalAccess s k cls n eas a [x, y] go = globalAccess s k cls n eas a [x, y, none] go := by
  cases x <;> cases y <;> rfl

theorem partAddrs_gather {es : List (Nat × Nat)} {f : Nat × Nat → ReqOp} {n : Nat} :
    partAddrs (es.map (fun e => onePart (f e) e.2 n)) = es.map (fun e => (e.2, e.2)) := by
  rw [partAddrs, List.map_map]; rfl

/-- Settles O30: of the checks of each word the first that fails decides. -/
theorem faultsAtIssue : Obligations.FaultsAtIssue := by
  refine ⟨?single, ?matrix, ?stream, ?gather⟩
  case single =>
    intro h sx op d sz b8 m at_ r scope ord b s hh
    intro ea n al vn cn forms f hf hr
    simp only [forms, List.mem_cons, List.not_mem_nil, or_false] at hf
    rcases hf with rfl | rfl | rfl | rfl | rfl | rfl | rfl | rfl | rfl | rfl
    · exact oneAccess_faults (rest := []) ((exec_ld ..).trans rfl) rfl hh rfl (partAddrs_small (szBytes_le sz)) (by simp)
        (fun _ => ⟨rfl, rfl⟩) (by simp) hr
    · obtain ⟨rest, h1, h2, h3⟩ := partAddrs_vector (op := .loadV d) (ea := effAddr s.me m) (sz := sz) (.inl ⟨d, rfl⟩)
      exact oneAccess_faults (rest := rest) ((exec_vld ..).trans rfl) rfl hh rfl h1 h2
        (by simpa using h3) (by simp) hr
    · exact oneAccess_faults (rest := []) ((exec_st ..).trans rfl) rfl hh (memPoison_eq ..) (partAddrs_small (szBytes_le sz)) (by simp)
        (fun _ => ⟨rfl, rfl⟩) (by simp) hr
    · obtain ⟨rest, h1, h2, h3⟩ := partAddrs_vector (op := storeV s.me d (vszBytes sz)) (ea := effAddr s.me m) (sz := sz)
        (.inr ⟨_, _, _, rfl⟩)
      exact oneAccess_faults (rest := rest) ((exec_vst ..).trans rfl) rfl hh (vecPoison_eq ..) h1 h2
        (by simpa using h3) (by simp) hr
    · exact oneAccess_faults (rest := []) ((exec_atom ..).trans rfl) rfl hh (memPoison_eq ..) (partAddrs_small (szBytes_le sz)) (by simp)
        (by simp) (by simp) hr
    · exact oneAccess_faults (rest := []) ((exec_red ..).trans rfl) rfl hh (memPoison_eq ..) (partAddrs_small (szBytes_le sz)) (by simp)
        (by simp) (by simp) hr
    · exact oneAccess_faults (rest := []) ((exec_cas ..).trans rfl) rfl hh (memPoison_two ..) (partAddrs_small (gathBytes_le b8)) (by simp)
        (by simp) (by simp) hr
    · exact oneAccess_faults (rest := []) ((exec_xadd ..).trans rfl) rfl hh (memPoison_eq ..) (partAddrs_small (by decide)) (by simp)
        (by simp) (fun _ => ⟨rfl, rfl, rfl⟩) hr
    · exact oneAccess_faults (rest := []) ((exec_xrd ..).trans rfl) rfl hh rfl (partAddrs_small (by decide)) (by simp)
        (by simp) (fun _ => ⟨rfl, rfl, rfl⟩) hr
    · exact oneAccess_faults (rest := []) ((exec_xrdClr ..).trans rfl) rfl hh rfl (partAddrs_small (by decide)) (by simp)
        (by simp) (fun _ => ⟨rfl, rfl, rfl⟩) hr
  case stream =>
    intro h x z slot wm wmen sel cl s t c hc a rcd sd ca cp sg ss d forms
    refine ⟨fun f hf hr => ?record, fun hr => ?sgo, fun i n hi hr hm => ?others⟩
    case record =>
      simp only [forms, List.mem_cons, List.not_mem_nil, or_false] at hf
      rcases hf with rfl | rfl | rfl
      · have nc : sd ≠ ca := Instr.noConfusion
        have np : sd ≠ cp := Instr.noConfusion
        refine record_faults (sdef_out hc hr) fun hk => ⟨fun _ hh => hk.trans (out_findSome ?_),
          fun _ hh hst => hk.trans (out_findSome ?_), fun hx => absurd hx nc, fun hx => absurd hx np⟩
        · have hh' : (s.me.ss.get slot).held.isSome = true := hh
          rw [hh']; rfl
        · have hh' : (s.me.ss.get slot).held = none := hh
          rw [hh', decide_eq_true hst]; rfl
      · have ns : ca ≠ sd := Instr.noConfusion
        have np : ca ≠ cp := Instr.noConfusion
        refine record_faults (carm_out hc hr) fun hk => ⟨fun hx => absurd hx ns, fun hx => absurd hx ns,
          fun _ ht => hk.trans (out_findSome ?_), fun hx => absurd hx np⟩
        rw [ht]; rfl
      · have ns : cp ≠ sd := Instr.noConfusion
        have nc : cp ≠ ca := Instr.noConfusion
        refine record_faults (copy_out hc hr) fun hk => ⟨fun hx => absurd hx ns, fun hx => absurd hx ns, fun hx => absurd hx nc,
          fun _ hd => hk.trans (out_findSome ?_)⟩
        have hd' : (recOf (BitVec.ofNat 512 (s.scratch.readNat (s.me.readS x).toNat 64))).denseBad = true := hd
        rw [hd']; rfl
    case sgo =>
      have first : ∀ {c' d' : Nat}, (sgoChecks s sg t c slot z).findSome? id = some (c', d', 0) →
          Machine.exec sg s = .next (trapped s [.s z] c' d' 0) := fun h => (sgo_out hc hr).trans (out_findSome h)
      refine ⟨fun hz => first ?_, fun hz hm => ⟨fun hn => first ?_, fun r hrec hh => ⟨fun hst => first ?_, fun hst hb => first ?_,
        fun hst hb hd => first ?_⟩⟩⟩
      · rw [sgoChecks, poisonS_head _ hz]; rfl
      · have hn' : ((s.me.ss.get slot).record.isNone || (s.me.ss.get slot).held.isSome) = true := by
          rcases hn with hn | hn
          · rw [show (s.me.ss.get slot).record = none from hn]; rfl
          · rw [show (s.me.ss.get slot).held.isSome = true from hn, Bool.or_true]
        rw [sgoChecks, poisonS_cons _ hz, maskTrap_none hm, hn']; rfl
      all_goals
        have hrec' : (s.me.ss.get slot).record = some r := hrec
        have hh' : (s.me.ss.get slot).held = none := hh
        rw [sgoChecks, poisonS_cons _ hz, maskTrap_none hm, hrec', hh']
      · rw [decide_eq_true hst]; rfl
      · rw [decide_eq_false (Nat.not_le.mpr hst), show bindingOk s t c slot (recOf ((some r).getD 0)) = false from hb]; rfl
      · rw [decide_eq_false (Nat.not_le.mpr hst), show bindingOk s t c slot (recOf ((some r).getD 0)) = true from hb,
          show (recOf ((some r).getD 0)).denseBad = true from hd]; rfl
    case others =>
      rcases hi with rfl | rfl | rfl
      · rw [exec_sstop, execSstop]; exact stream_mask_fault hc hr hm
      · rw [exec_sstat, execSstat]; exact stream_mask_fault hc hr hm
      · rw [exec_cdis, execCdis]; exact stream_mask_fault hc hr hm

  case gather =>
    intro h d b8 m cp s hh n es lanes bad chk i hi hr
    have hoff : ∀ b, lanes = b → offsetPoison s.me d b8 = if b then none else some (0x07, d.val + 256, 0) := fun b hb => by
      rw [offsetPoison_eq, show (List.range (if b8 then 32 else 64)).all _ = b from hb]
    rcases hi with rfl | rfl
    · have hout := (exec_vgath h d b8 m cp s).trans (issue_ready hr _ _)
      rw [takeWait_none rfl, globalAccess_skip] at hout
      obtain ⟨h1, h2, h3⟩ := gather_faults hout (partAddrs_gather ..) hh
      refine ⟨h1, h2, fun hc => ⟨fun hl => (h3 hc).1 (hoff _ hl), fun hl => ⟨fun e hx => ?_, fun e _ he => ?_⟩⟩⟩
      · exact Instr.noConfusion hx
      · exact ((h3 hc).2 (hoff _ hl)).2 e rfl he
    · have hout := (exec_vscat h d b8 m cp s).trans (issue_ready hr _ _)
      rw [takeWait_none rfl] at hout
      obtain ⟨h1, h2, h3⟩ := gather_faults hout (partAddrs_gather ..) hh
      refine ⟨h1, h2, fun hc => ⟨fun hl => (h3 hc).1 (hoff _ hl), fun hl => ⟨fun e _ he => ?_, fun e hno he => ?_⟩⟩⟩
      · refine ((h3 hc).2 (hoff _ hl)).1 (0x07, (d + 1).val + 256, e.2) ?_
        rw [dataPoison, nextReg, show List.find? _ (gatherElems s.me d b8 (effAddr s.me m)) = some e from he]; rfl
      · refine ((h3 hc).2 (hoff _ hl)).2 e ?_ he
        rw [dataPoison, nextReg, show List.find? _ (gatherElems s.me d b8 (effAddr s.me m)) = none from hno rfl]; rfl
  case matrix =>
    intro h ty m x y gr gc gR gC bank q shape sort hr half clr rd k1 cl s t cx hc
    intro w c mask pois mat inSort panel none_ p key desc at_ handle window move z pm o product regs forms f hf hready v hv
    simp only [forms, List.mem_cons, List.not_mem_nil, or_false] at hf
    rcases hf with rfl | rfl | rfl | rfl | rfl | rfl | rfl | rfl | rfl | rfl | rfl | rfl
    · rw [exec_mma, execMma]
      refine matrix_fault hc hready rfl ?_ hv
      rw [macChecks_mma]
      simp only [me_takeWait, issueShape_takeWait, issueSort_takeWait, scratch_takeWait, maskTrap_eq, takeWait_cur,
        maskFault_takeWait, panelTrap_mac, matTrap_eq, handleChecks_eq]
      rw [windowTrap_eq s.me m.a, windowTrap_eq s.me m.b]
      rfl
    · rw [exec_mgang, execMgang]
      refine matrix_fault hc hready rfl ?_ hv
      simp only [me_takeWait, issueShape_takeWait, gang_takeWait, panelTrap_any, poisonS_one, matTrap_eq, maskTrap_eq, takeWait_cur, maskFault_takeWait]
      rfl
    · rw [exec_mgangFree, execMgangFree]
      refine matrix_fault hc hready rfl ?_ hv
      simp only [issueShape_takeWait, gang_takeWait, panelTrap_any, matTrap_eq, maskTrap_eq, takeWait_cur, maskFault_takeWait]
      rfl
    · rw [exec_mcfg, execMcfg]
      refine matrix_fault hc hready rfl ?_ hv
      refine (cfg_miss _ _ _).trans ?_
      simp only [cfgNeeds, issueShape_takeWait, issueSort_takeWait, view_takeWait, gang_takeWait, matTrap_eq, maskTrap_eq, takeWait_cur, maskFault_takeWait]
      rfl
    · rw [exec_mzero, execMzero]
      refine matrix_fault hc hready rfl ?_ hv
      simp only [issueShape_takeWait, issueSort_takeWait, panelTrap_mac, maskTrap_eq, takeWait_cur, maskFault_takeWait]
      rfl
    · rw [exec_mscaleRow, execMscaleRow]
      refine matrix_fault hc hready rfl ?_ hv
      simp only [issueShape_takeWait, issueSort_takeWait, panelTrap_mac, maskTrap_eq, takeWait_cur, maskFault_takeWait]
      rfl
    · rw [exec_mscaleCol, execMscaleCol]
      refine matrix_fault hc hready rfl ?_ hv
      simp only [issueShape_takeWait, issueSort_takeWait, panelTrap_mac, maskTrap_eq, takeWait_cur, maskFault_takeWait]
      rfl
    · rw [exec_mrow, execMrow]
      refine matrix_fault hc hready rfl ?_ hv
      simp only [me_takeWait, issueShape_takeWait, issueSort_takeWait, panelTrap_mac, poisonS_one, matTrap_eq, maskTrap_eq, takeWait_cur, maskFault_takeWait]
      rfl
    · rw [exec_msort, execMsort]
      refine matrix_fault hc hready rfl ?_ hv
      simp only [issueShape_takeWait, issueSort_takeWait, panelTrap_sort, maskTrap_eq, takeWait_cur, maskFault_takeWait]
      rfl
    · rw [exec_mtopk, execMtopk]
      refine matrix_fault hc hready rfl ?_ hv
      simp only [issueShape_takeWait, issueSort_takeWait, panelTrap_sort, maskTrap_eq, takeWait_cur, maskFault_takeWait]
      rfl
    · rw [exec_mld, execMld]
      refine matrix_fault hc hready rfl ?_ hv
      rw [moveTraps_first]
      simp only [me_takeWait, issueShape_takeWait, issueSort_takeWait, maskTrap_eq, takeWait_cur, maskFault_takeWait]
      rw [windowTrap_eq, handleChecks_eq]
      rfl
    · rw [exec_mst, execMst]
      refine matrix_fault hc hready rfl ?_ hv
      rw [moveTraps_first]
      simp only [me_takeWait, issueShape_takeWait, issueSort_takeWait, maskTrap_eq, takeWait_cur, maskFault_takeWait]
      rw [windowTrap_eq, handleChecks_eq]
      rfl

end Sys2Proof.Machine

/-! ## Reset, the step, and the words of other families (02_encoding.md, 16_memory_power.md) -/

namespace Sys2Proof.Machine

/-- Settles O2: each word is decoded by evaluation. -/
theorem specWordsDecode : Obligations.SpecWordsDecode := by
  refine ⟨?_, ?_, ?_, ?_, ?_, ?_, ?_, ?_, ?_, ?_, ?_, ?_, ?_, ?_, ?_, ?_⟩ <;> rfl

/-- Each of the 256 tiles is at its reset state. -/
theorem tile_reset (t : Fin 256) : State.reset.tile t = Tile.reset := by
  simp [State.reset, State.tile, Vector.get]

/-- Settles O8. -/
theorem resetRegisters : Obligations.ResetRegisters := by
  refine ⟨fun t => ?tile, rfl, rfl, rfl, fun i => ?_, fun r => ?_, rfl, rfl⟩
  case tile =>
    rw [tile_reset]
    exact ⟨rfl, by decide, rfl, by decide⟩
  · rw [show State.reset.clusters.get i = Cluster.reset by simp [State.reset, Vector.get]]; rfl
  · rw [show State.reset.regions.get r = Region.reset by simp [State.reset, Vector.get]]; rfl

/-- Settles O9. -/
theorem resetInvariant : Obligations.ResetInvariant := by
  refine ⟨⟨rfl, rfl, fun t => ?_⟩, fun i hi => absurd hi List.not_mem_nil⟩
  rw [show State.reset.tiles.get t = Tile.reset from tile_reset t]; rfl

/-! ### One step (R37, R52, R136, R142) -/

/-- The turn of a context that goes first: its word, and behind it those of the contexts that follow. -/
theorem step_turnOf {s : State} {t : Fin 256} {c : Fin 4} {rest : List (Fin 4)} (h : turnOf s t c rest) :
    step s = match runAgent (atTurn s t c) with
      | .next s1 => if issuedSince (atTurn s t c) s1 (.tile t c) then .next s1
          else tryIssue (rest.map (fun c => .tile t c)) s1
      | o => o := by
  obtain ⟨hag, hturn, hstart, hallow, hcont⟩ := h
  have hfind : (List.finRange 4).find? (fun c => s.startable (.tile t c)) = none := List.find?_eq_none.mpr fun x _ => by
    rw [hstart x]; exact Bool.false_ne_true
  rw [step, hag, hturn]
  simp only [tileTurn, hfind, hallow, if_true, hcont, List.map_cons, tryIssue]
  rfl

/-- What the turn's context answers is the step, once it has issued or trapped. -/
theorem step_of_issued {s s1 : State} {t : Fin 256} {c : Fin 4} {rest : List (Fin 4)} (h : turnOf s t c rest)
    (hrun : runAgent (atTurn s t c) = .next s1) (hi : issuedSince (atTurn s t c) s1 (.tile t c) = true) : step s = .next s1 := by
  rw [step_turnOf h, hrun]; exact if_pos hi

/-- A trap stands on the agenda. -/
theorem issuedSince_takeTrap (s s1 : State) (g g' : AgentId) (chk : List RegId) (c d a : Nat) (dfr : Option Issued) :
    issuedSince s (takeTrap s1 g chk c d a dfr) g' = true := by
  rw [issuedSince, takeTrap]; exact Bool.or_true _

/-- An owed fault of R169 is due at whatever word. -/
theorem owedAny_none {c : Ctx} {i : Instr} (h : c.owedDue i = none) : c.owedAny = none := by
  rw [Ctx.owedDue] at h
  rw [Ctx.owedAny]
  cases ho : c.owed with
  | none => rfl
  | some o =>
    rw [ho] at h
    cases hat : o.at_ with
    | next q =>
      simp only [hat] at h ⊢
      cases hp : c.phase == Phase.inHandler
      · simp [hp] at h
      · rfl
    | _ => simp only [hat]

/-- Settles O6: the turn is unfolded once, and the word, the decode fault or the budget decides. -/
theorem stepRunsDecodedInstruction : Obligations.StepRunsDecodedInstruction := by
  intro s t c rest hturn g a hb
  have hcur : a.cur = g := rfl
  have trapped : ∀ {c' d x : Nat}, runAgent a = .next (takeTrap a g [] c' d x none) →
      step s = .next (takeTrap a g [] c' d x none) := fun h => step_of_issued hturn h (issuedSince_takeTrap ..)
  have run : (a.view g).inRange (a.ctx g).pcNat = true → runAgent a = match a.fetch g with
      | some (.instr i) => if budgetTraps a g i then execFiringBudgetExpiry g a else exec i a
      | some (.illegal d) => .next (takeTrap a g [] 0x01 d 0 none)
      | some (.reserved m) => .next (takeTrap a g [] 0x02 m 0 none)
      | none => .next a := fun hr => by
    simp only [runAgent, hcur, hb, hr, Bool.false_eq_true, if_false, if_true] <;> rfl
  refine ⟨fun hr => trapped ?_, fun hr => ⟨fun d hf => trapped ?_, fun m hf => trapped ?_, fun i hf => ⟨fun hs hn => trapped ?_,
    fun hbt hrest => ?alone, fun s1 hbt he hi => step_of_issued hturn ?_ hi⟩⟩⟩
  · simp only [runAgent, hcur, hb, hr, Bool.false_eq_true, if_false]
  · rw [run hr, hf]
  · rw [run hr, hf]
  · obtain ⟨hfw, ho⟩ := hn
    have hfirst : goesFirst a g i = false := by
      rw [goesFirst, hfw, owedAny_none ho, ho, Bool.false_and, Option.isSome_none, Bool.and_false]; rfl
    have hbt : budgetTraps a g i = true := by rw [budgetTraps, hs, hfirst]; rfl
    rw [run hr, hf]
    exact (if_pos hbt).trans (if_pos hs)
  case alone =>
    obtain ⟨s1, he⟩ := everyMeaningAnswers i a
    have hrun : runAgent a = .next s1 := by
      rw [run hr, hf]
      exact (if_neg (by rw [hbt]; exact Bool.false_ne_true)).trans he
    rw [step_turnOf hturn, hrun, hrest, he]
    exact ite_self _
  · rw [run hr, hf]
    exact (if_neg (by rw [hbt]; exact Bool.false_ne_true)).trans he

/-! ### Traps (R52, R382, R384 to R386, R402, R404, R405) -/

/-- A word of firmware in tenant code traps before its predicate is looked at (R52). -/
theorem privileged_traps {i : Instr} {op : Nat} {s : State} (k : State → Out) (hcur : s.cur ≠ .mgmt)
    (hph : s.me.phase = .running ∨ s.me.phase = .inHandler) (hf : firmwareOnly i = true) :
    privileged i op s k = .next (trapped s [] 0x03 op 0) := if_pos ⟨hph, hcur, hf⟩

/-- Settles O42. -/
theorem privilegeTrap : Obligations.PrivilegeTrap := by
  intro h d a n k ctx s hcur hph
  have traps : ∀ (i : Instr) {op : Nat} {f : State → Out}, firmwareOnly i = true →
      privileged i op s f = .next (trapped s [] 0x03 op 0) := fun i _ _ hf => privileged_traps _ hcur hph hf
  have hread : (0x400 ≤ n.toNat ∧ n.toNat < 0x4A0) ∨ (0x780 ≤ n.toNat ∧ n.toNat < 0x800) ∨ 0xA00 ≤ n.toNat →
      readPriv n.toNat = true := fun hn => by
    simp only [readPriv, Bool.or_eq_true, Bool.and_eq_true, decide_eq_true_eq, beq_iff_eq]
    omega
  refine ⟨(exec_tlbinv ..).trans (traps (.tlbinv h k) rfl), (exec_ctxsv ..).trans (traps (.ctxsv h d a ctx) rfl),
    (exec_ctxld ..).trans (traps (.ctxld h d a ctx) rfl), fun hn => ⟨(exec_mfs ..).trans (traps (.mfs h d n) (hread hn)),
      (exec_mts ..).trans (traps (.mts h a n) ?_)⟩, fun hn => (exec_mts ..).trans (traps (.mts h a n) ?_)⟩
  · rw [firmwareOnly, writePriv, hread hn]; rfl
  · rcases hn with rfl | rfl | rfl | rfl <;> rfl

/-- The reason of a region's trap changes the regions alone. -/
theorem noteRegion_eq (s : State) (g : AgentId) (c d : Nat) : ∃ v, s.noteRegion g c d = { s with regions := v } := by
  rw [State.noteRegion]
  split
  · exact ⟨s.regions, rfl⟩
  · split
    · exact ⟨_, rfl⟩
    · exact ⟨s.regions, rfl⟩

/-- The context of an agent after its trap (R384, R385). -/
def Ctx.trappedBy (x : Ctx) (del : Bool) (cause detail : Nat) (dfr : Option Issued) : Ctx :=
  { x with
    phase := if del then .handlerPending else .stopped, dpc := x.pc, tcause := cause, tdetail := detail
    tpc := match dfr with | some b => b.pc | none => x.pc
    reqs := x.reqs.filter (fun r => !r.answered) }

/-- The state with the record of a trap of a tile's context, and the context that took it. -/
def trapNoted (s : State) (t : Fin 256) (c : Fin 4) (rcd : List Byte) (f : Ctx → Ctx) : State :=
  (s.modTile t (fun y => { y with scratch := y.scratch.write (s.ctx (.tile t c)).trapbase.toNat rcd })).modCtx (.tile t c) f

theorem scratch_trapNoted (s : State) (t : Fin 256) (c : Fin 4) (rcd : List Byte) (f : Ctx → Ctx) : ((trapNoted s t c rcd f).tile t).scratch
    = (s.tile t).scratch.write (s.ctx (.tile t c)).trapbase.toNat rcd := by
  rw [trapNoted, tile_modCtx_self, tile_modTile_self]

/-- A change of a tile that leaves its contexts leaves every context. -/
theorem ctx_modTile {s : State} {t : Fin 256} {f : Tile → Tile} (h : ∀ y, (f y).ctx = y.ctx) (g : AgentId) :
    (s.modTile t f).ctx g = s.ctx g := by
  cases g with
  | mgmt => rfl
  | tile t' c =>
    rw [State.ctx, State.ctx, tile_modTile]
    by_cases ht : t = t'
    · subst ht; rw [if_pos rfl, h]
    · rw [if_neg ht]

theorem ctx_trapNoted (s : State) (t : Fin 256) (c : Fin 4) (rcd : List Byte) (f : Ctx → Ctx) (g : AgentId) :
    (trapNoted s t c rcd f).ctx g = if .tile t c = g then f (s.ctx (.tile t c)) else s.ctx g := by
  have hkeep : ∀ g, (s.modTile t (fun y => { y with
      scratch := y.scratch.write (s.ctx (.tile t c)).trapbase.toNat rcd })).ctx g = s.ctx g := ctx_modTile (fun _ => rfl)
  rw [trapNoted, ctx_modCtx, hkeep, hkeep]

theorem tile_trapNoted_other (s : State) (t : Fin 256) (c : Fin 4) (rcd : List Byte) (f : Ctx → Ctx) {t' : Fin 256} (h : t' ≠ t) :
    (trapNoted s t c rcd f).tile t' = s.tile t' := by
  rw [trapNoted]
  exact ((tile_modTile ..).trans (if_neg (Ne.symm h))).trans ((tile_modTile ..).trans (if_neg (Ne.symm h)))

/-- What a trap of a tile's context leaves: its record in the scratchpad, the context, and the step that follows. -/
theorem takeTrap_tile (s : State) (t : Fin 256) (c : Fin 4) (chk : List RegId) (cause detail addr : Nat) (dfr : Option Issued) :
    ∃ v, takeTrap s (.tile t c) chk cause detail addr dfr = { trapNoted s t c (trapRecord s (.tile t c) chk cause detail addr dfr)
        (fun x => x.trappedBy (s.delegated (.tile t c) cause) cause detail dfr) with
      regions := v
      agenda := (if s.delegated (.tile t c) cause then .handlerFiring (.tile t c) else .nonDelegatedTrap (.tile t c)) :: s.agenda } := by
  rw [takeTrap]
  cases dfr with
  | some b => exact ⟨s.regions, rfl⟩
  | none =>
    obtain ⟨v, hv⟩ := noteRegion_eq (s.trapWrite (.tile t c) 0 (trapRecord s (.tile t c) chk cause detail addr none)) (.tile t c) cause detail
    refine ⟨v, ?_⟩
    simp only [Option.isNone_none, if_true, hv]
    rfl

theorem ctx_congr {s s' : State} (ht : s.tiles = s'.tiles) (hm : s.mgmt = s'.mgmt) (g : AgentId) : s.ctx g = s'.ctx g := by
  cases g with
  | mgmt => exact congrArg Mgmt.ctx hm
  | tile t c => exact congrArg (fun v => (v.get t).ctx.get c) ht

/-- The record has 128 bytes (Table 14.2). -/
theorem trapRecord_length (s : State) (g : AgentId) (chk : List RegId) (cause detail addr : Nat) (dfr : Option Issued) :
    (trapRecord s g chk cause detail addr dfr).length = 128 := by
  simp only [trapRecord, List.length_append, leBytes_length]

/-- Settles O41. -/
theorem trapEntry : Obligations.TrapEntry := by
  intro s t c chk cause detail addr dfr hwf g u x y rec_
  obtain ⟨v, hu⟩ := takeTrap_tile s t c chk cause detail addr dfr
  let w : State := trapNoted s t c rec_ (fun x => x.trappedBy (s.delegated g cause) cause detail dfr)
  have hlen : rec_.length = 128 := trapRecord_length ..
  have htiles : u.tiles = w.tiles := (congrArg State.tiles hu).trans rfl
  have hctx : ∀ g', u.ctx g' = w.ctx g' := ctx_congr htiles ((congrArg State.mgmt hu).trans rfl)
  have htile : ∀ t', u.tile t' = w.tile t' := fun t' => congrArg (fun v => v.get t') htiles
  have hy : y = x.trappedBy (s.delegated g cause) cause detail dfr :=
    (hctx g).trans ((ctx_trapNoted ..).trans (if_pos rfl))
  rw [hy]
  refine ⟨rfl, rfl, rfl, rfl, rfl, rfl, rfl, rfl, rfl, rfl, rfl, rfl, rfl, rfl, rfl, ?agenda, hlen,
    fun a => ?scratch, ?mem, ?hostMem, ?launches, ?cur, fun g' hg => ?ctx, fun t' ht => ?tile⟩
  case agenda => exact (congrArg State.agenda hu).trans rfl
  case mem => exact (congrArg State.mem hu).trans rfl
  case hostMem => exact (congrArg State.hostMem hu).trans rfl
  case launches => exact (congrArg State.launches hu).trans rfl
  case cur => exact (congrArg State.cur hu).trans rfl
  case scratch =>
    have h1 : (u.tile t).scratch = (s.tile t).scratch.write x.trapbase.toNat rec_ :=
      (congrArg Tile.scratch (htile t)).trans (scratch_trapNoted ..)
    rw [h1, write_get hwf, hlen]
  case ctx => exact (hctx g').trans ((ctx_trapNoted ..).trans (if_neg (Ne.symm hg)))
  case tile => exact (htile t').trans (tile_trapNoted_other _ _ _ _ _ ht)

/-! ### Trap words and returns (R387, R404, R405) -/

/-- The bytes of the save block of an agent (R387). -/
def savedBytes (s : State) (g : AgentId) : List Byte :=
  let a := (s.ctx g).trapbase.toNat + 128
  match g with | .tile t _ => (s.tile t).scratch.read a 33 | .mgmt => (s.readPa none a 33).1

/-- S[28 + i] from the save block. -/
def savedReg (bs : List Byte) (i : Nat) : Word := BitVec.ofNat 64 (leNat ((bs.drop (8 * i)).take 8))

/-- The poison of S[28 + i] from the save block. -/
def savedPoison (bs : List Byte) (i : Nat) : Bool := bitOf (bs.getD 32 0).toNat i

/-- The four registers that a handler's return writes. -/
theorem restoreSaved_eq (s : State) (g : AgentId) : restoreSaved s g
    = (let bs := savedBytes s g
       ((((s.ctx g).writeS 28 (savedReg bs 0) (savedPoison bs 0)).writeS 29 (savedReg bs 1) (savedPoison bs 1)).writeS 30 (savedReg bs 2)
         (savedPoison bs 2)).writeS 31 (savedReg bs 3) (savedPoison bs 3)) := rfl

/-- A register from 28 on is one of the four. -/
theorem high_register {r : Fin 32} (h : 28 ≤ r.val) : r = 28 ∨ r = 29 ∨ r = 30 ∨ r = 31 := by
  have := r.isLt
  simp only [Fin.ext_iff, Fin.isValue]
  omega

theorem restoreSaved_readS (s : State) (g : AgentId) (r : Fin 32) : (restoreSaved s g).readS r
    = if 28 ≤ r.val then savedReg (savedBytes s g) (r.val - 28) else (s.ctx g).readS r := by
  rw [restoreSaved_eq]
  simp only [writeS_readS]
  by_cases h : 28 ≤ r.val
  · rcases high_register h with rfl | rfl | rfl | rfl <;> rfl
  · have hne : ∀ k : Fin 32, 28 ≤ k.val → ¬(k = r ∧ k ≠ 0) := fun k hk ⟨he, _⟩ => h (he ▸ hk)
    rw [if_neg (hne 31 (by decide)), if_neg (hne 30 (by decide)), if_neg (hne 29 (by decide)), if_neg (hne 28 (by decide)), if_neg h]

theorem restoreSaved_poisS (s : State) (g : AgentId) (r : Fin 32) : (restoreSaved s g).poisS r
    = if 28 ≤ r.val then savedPoison (savedBytes s g) (r.val - 28) else (s.ctx g).poisS r := by
  rw [restoreSaved_eq]
  simp only [writeS_poisS]
  by_cases h : 28 ≤ r.val
  · rcases high_register h with rfl | rfl | rfl | rfl <;> rfl
  · have hne : ∀ k : Fin 32, 28 ≤ k.val → ¬(k = r ∧ k ≠ 0) := fun k hk ⟨he, _⟩ => h (he ▸ hk)
    rw [if_neg (hne 31 (by decide)), if_neg (hne 30 (by decide)), if_neg (hne 29 (by decide)), if_neg (hne 28 (by decide)), if_neg h]

/-- The context of an agent after its instruction has issued in a handler firing: its counts alone. -/
theorem ctx_countIssue_inHandler {s : State} {g : AgentId} (h : (s.ctx g).phase = .inHandler) : (s.countIssue g).ctx g
    = { s.ctx g with lastIssue := some (s.order g), winIssues := (s.ctx g).winIssues + 1, hIssued := (s.ctx g).hIssued + 1 } := by
  have hctx : (s.countIssue g).ctx g = (s.modCtx g (fun c =>
      { c with
        lastIssue := some (s.order g)
        winIssues := c.winIssues + 1
        hIssued := if c.phase == .inHandler then c.hIssued + 1 else c.hIssued
        firing := if c.phase == .inHandler then c.firing
          else c.firing.map (fun f => { f with issued := f.issued + 1 }) })).ctx g := by
    cases g with
    | mgmt => rfl
    | tile t c => exact ctx_modTile_self rfl c
  have hb : ((s.ctx g).phase == Phase.inHandler) = true := by rw [h]; rfl
  rw [hctx, ctx_modCtx_self]
  simp only [hb, if_true]

/-- An issue leaves the save block. -/
theorem savedBytes_countIssue {s : State} {g : AgentId} (h : (s.ctx g).phase = .inHandler) :
    savedBytes (s.countIssue g) g = savedBytes s g := by
  simp only [savedBytes, ctx_countIssue_inHandler h]
  cases g with
  | mgmt =>
    simp only [State.readPa]
    split <;> rfl
  | tile t c => simp only [tile_countIssue, if_true]

/-- The context of the agent after a handler's return (R405). -/
theorem ctx_leaveHandler (s : State) (g : AgentId) (how : Leave) : (leaveHandler s g how).ctx g
    = match how with
      | .resume => { restoreSaved s g with phase := .running, pc := (restoreSaved s g).dpc, pcOver := false }
      | .next => { restoreSaved s g with
          phase := .running, pc := (restoreSaved s g).dpc + 8, pcOver := (restoreSaved s g).dpc == 0x3FFF8#18 }
      | .abort => match (restoreSaved s g).firing with
        | none => { restoreSaved s g with phase := .idle }
        | some f => { restoreSaved s g with
            firing := none, phase := .idle, aborted := (restoreSaved s g).aborted ++ [f.serial]
            owed := match (restoreSaved s g).owed with
              | some o => if o.by_.serial = f.serial then none else some o
              | none => none } := by
  cases how
  · simp only [leaveHandler, ctx_modCtx_self, ctx_modLaunchOf, ctx_setCtx_self]
  · simp only [leaveHandler, ctx_modCtx_self, ctx_modLaunchOf, ctx_setCtx_self]
  · simp only [leaveHandler, abortFiring, ctx_modCtx_self, ctx_modLaunchOf, ctx_setCtx_self] <;> rfl

theorem mem_modLaunchOf (s : State) (g : AgentId) (f : Launch → Launch) : (s.modLaunchOf g f).mem = s.mem := by
  cases g with
  | mgmt => rfl
  | tile t c => rw [State.modLaunchOf]; cases s.launchOf (.tile t c) <;> rfl

theorem mem_leaveHandler (s : State) (g : AgentId) (how : Leave) : (leaveHandler s g how).mem = s.mem := by
  cases how <;> simp only [leaveHandler, abortFiring, modCtx_mem, mem_modLaunchOf, setCtx_mem]

/-- A return outside a handler firing traps. -/
theorem leave_traps {i : Instr} {how : Leave} {s : State} (hw : i.clauses.wn = 0) (hr : ready i s = true) (hp : s.me.phase = .running) :
    issue i [] s (leaveEffect how) = .next (trapped s [] 0x03 0xE2 0) := by
  rw [issue_ready hr, takeWait_none hw, leaveEffect, hp]; rfl

/-- A return in a handler firing. -/
theorem leave_returns {i : Instr} {how : Leave} {s : State} (hw : i.clauses.wn = 0) (hr : ready i s = true) (hp : s.me.phase = .inHandler) :
    issue i [] s (leaveEffect how) = .next (leaveHandler (s.countIssue s.cur) s.cur how) := by
  rw [issue_ready hr, takeWait_none hw, leaveEffect, hp]; rfl

/-- The registers that the save block holds, and the others, after a return. -/
theorem leaveHandler_registers (s : State) (g : AgentId) (how : Leave) (r : Fin 32) :
    ((leaveHandler s g how).ctx g).readS r = (restoreSaved s g).readS r ∧ ((leaveHandler s g how).ctx g).poisS r = (restoreSaved s g).poisS r := by
  rw [ctx_leaveHandler]
  cases how with
  | resume => exact ⟨rfl, rfl⟩
  | next => exact ⟨rfl, rfl⟩
  | abort =>
    dsimp only
    split
    · exact ⟨rfl, rfl⟩
    · exact ⟨rfl, rfl⟩

/-- What a return leaves of the context besides its registers. -/
theorem restoreSaved_keeps (s : State) (g : AgentId) : (restoreSaved s g).dpc = (s.ctx g).dpc
    ∧ (restoreSaved s g).firing = (s.ctx g).firing ∧ (restoreSaved s g).aborted = (s.ctx g).aborted := by
  rw [restoreSaved_eq]
  refine ⟨?_, ?_, ?_⟩ <;> simp

/-- Settles O43. -/
theorem trapWordsAndReturns : Obligations.TrapWordsAndReturns := by
  intro h code s i hr
  dsimp only
  refine ⟨fun hi => ?trap, fun hi => ?brk, fun hp => ?inside, fun hp hi => ?outside⟩
  case trap => subst hi; rw [exec_trap, execTrap]; exact issue_trap rfl hr rfl
  case brk => subst hi; rw [exec_brk, execBrk]; exact issue_trap rfl hr rfl
  case outside =>
    rcases hi with rfl | rfl | rfl
    · rw [exec_resume, execResume]; exact leave_traps rfl hr hp
    · rw [exec_resumeNext, execResumeNext]; exact leave_traps rfl hr hp
    · rw [exec_abort, execAbort]; exact leave_traps rfl hr hp
  case inside =>
    have hu := ctx_countIssue_inHandler (g := s.cur) hp
    have hregs : ∀ how r, ((leaveHandler (s.countIssue s.cur) s.cur how).ctx s.cur).readS r
          = (if 28 ≤ r.val then savedReg (savedBytes s s.cur) (r.val - 28) else s.me.readS r)
        ∧ ((leaveHandler (s.countIssue s.cur) s.cur how).ctx s.cur).poisS r
          = (if 28 ≤ r.val then savedPoison (savedBytes s s.cur) (r.val - 28) else s.me.poisS r) := fun how r => by
      obtain ⟨h1, h2⟩ := leaveHandler_registers (s.countIssue s.cur) s.cur how r
      rw [h1, h2, restoreSaved_readS, restoreSaved_poisS, savedBytes_countIssue hp, hu]
      exact ⟨rfl, rfl⟩
    have hmem : ∀ how, (leaveHandler (s.countIssue s.cur) s.cur how).mem = s.mem := fun how => by
      rw [mem_leaveHandler, countIssue_mem]
    obtain ⟨hdpc, hfir, habt⟩ := restoreSaved_keeps (s.countIssue s.cur) s.cur
    rw [hu] at hdpc hfir habt
    refine ⟨fun hi => ⟨leaveHandler (s.countIssue s.cur) s.cur .resume, ?_, hregs .resume, ?_, ?_, ?_, hmem _⟩,
      fun hi => ⟨leaveHandler (s.countIssue s.cur) s.cur .next, ?_, hregs .next, ?_, ?_, ?_, hmem _⟩,
      fun hi => ⟨leaveHandler (s.countIssue s.cur) s.cur .abort, ?_, hregs .abort, ?_, ?_, hmem _, fun f hf => ?_⟩⟩
    · subst hi; rw [exec_resume, execResume]; exact leave_returns rfl hr hp
    · rw [ctx_leaveHandler]
    · rw [ctx_leaveHandler]; exact hdpc
    · rw [ctx_leaveHandler]; exact hfir
    · subst hi; rw [exec_resumeNext, execResumeNext]; exact leave_returns rfl hr hp
    · rw [ctx_leaveHandler]
    · rw [ctx_leaveHandler]; exact congrArg (· + 8) hdpc
    · rw [ctx_leaveHandler]; exact hfir
    · subst hi; rw [exec_abort, execAbort]; exact leave_returns rfl hr hp
    · rw [ctx_leaveHandler]
      dsimp only
      split <;> rfl
    · rw [ctx_leaveHandler]
      dsimp only
      split
      next hn => exact hn
      next => rfl
    · have hf' : (restoreSaved (s.countIssue s.cur) s.cur).firing = some f := hfir.trans hf
      rw [ctx_leaveHandler]
      simp only [hf', habt]
      rfl

end Sys2Proof.Machine

/-! ## Stream, transform array and region words (11_streams.md, 12_transform_arrays.md, 13_fabric.md) -/

namespace Sys2Proof.Machine

/-! Stream words (R302, R324 to R326). -/

theorem recordAt_takeWait {s : State} {i : Instr} {x : Fin 32} {rk : Nat} {rcd : BitVec 512} (h : recordAt (s.takeWait s.cur i) i x rk rcd) :
    recordAt s i x rk rcd := by
  simpa only [recordAt, scratchOpen, me_takeWait, takeWait_cur, maskFault_takeWait, scratchState_takeWait, scratchHold_takeWait,
    clusterCount_takeWait, recRank_takeWait] using h

/-- A good record is what the word goes on with. -/
theorem withRecord_good {s : State} {i : Instr} {x : Fin 32} {others : List (Fin 32)} {rk num kind : Nat} {go : BitVec 512 → Eff}
    {rcd : BitVec 512} (h : recordAt s i x rk rcd) (ho : others.all (fun r => !s.me.poisS r) = true) :
    withRecord s i x others rk num kind go = go rcd := by
  obtain ⟨hx, hopen, hmask, hrcd, hpois, hok⟩ := h
  have hclean : (x :: others).all (fun r => !s.me.poisS r) = true := by rw [List.all_cons, hx, ho]; rfl
  obtain ⟨-, hfaults⟩ := withRecord_faults s i x others rk num kind go
  obtain ⟨-, -, -, hrec⟩ := hfaults hclean
  rw [hrcd] at hok ⊢
  exact ((hrec hopen hmask).2 hpois).2 hok

theorem afterDrain_drained {s : State} (h : drained s) (i : Instr) (k : Eff) : afterDrain (s.takeWait s.cur i) k = k := by
  rw [afterDrain, me_takeWait, h.1, takeWait_cur, pastOpen_takeWait, h.2]; rfl

theorem cgOfPart_takeWait (s : State) (i : Instr) (q : Fin 32) (n : Nat) : (s.takeWait s.cur i).cgOfPart q n = s.cgOfPart q n := by
  simp only [State.cgOfPart, takeWait_parts]

/-- A stream word that passes the check of its queues, with its wait taken. -/
theorem stream_out {i : Instr} {s : State} {t : Fin 256} {c : Fin 4} {f : State → Eff} (hc : s.cur = .tile t c)
    (hr : ready i s = true) (hm : s.maskFault s.cur i = none) :
    issue i [] s (fun s => onTileCtx s fun _ _ => orTrap [maskTrap s i] (f s)) = (f (s.takeWait s.cur i)).out [] s := by
  refine (onTileCtx_out (f := fun s _ _ => orTrap [maskTrap s i] (f s)) hc hr).trans ?_
  rw [maskTrap_takeWait, maskTrap_none hm]; rfl

theorem sstop_out {h : Hdr} {slot : Fin 16} {cl : Clauses} {s : State} {t : Fin 256} {c : Fin 4} (hc : s.cur = .tile t c)
    (hr : ready (.sstop h slot cl) s = true) (hm : s.maskFault s.cur (.sstop h slot cl) = none) :
    Machine.exec (.sstop h slot cl) s = (if (s.me.ss.get slot).stat.state < 2 then doneSig (.sstop h slot cl) (s.takeWait s.cur (.sstop h slot cl))
      else .done ((s.takeWait s.cur (.sstop h slot cl)).modCtx s.cur (fun c => c.setSs slot { s.me.ss.get slot with
        stat := { (s.me.ss.get slot).stat with state := 3 }
        waiters := (s.me.ss.get slot).waiters ++ (sqOf (.sstop h slot cl)).toList }))).out [] s := by
  rw [exec_sstop, execSstop]
  refine (stream_out hc hr hm).trans ?_
  simp only [me_takeWait, takeWait_cur]

theorem cdis_out {h : Hdr} {slot : Fin 16} {cl : Clauses} {s : State} {t : Fin 256} {c : Fin 4} (hc : s.cur = .tile t c)
    (hr : ready (.cdis h slot cl) s = true) (hm : s.maskFault s.cur (.cdis h slot cl) = none) :
    Machine.exec (.cdis h slot cl) s = (match s.me.tmpl.get slot with
      | none => doneSig (.cdis h slot cl) (s.takeWait s.cur (.cdis h slot cl))
      | some tm =>
        let u := dropFirings (s.takeWait s.cur (.cdis h slot cl)) s.cur slot
        if tm.firing then .done (u.modCtx s.cur (fun c => { c with tmpl := vset c.tmpl slot (some
            { tm with disarming := true, waiters := tm.waiters ++ (sqOf (.cdis h slot cl)).toList }) }))
        else doneSig (.cdis h slot cl) (u.modCtx s.cur (fun c => { c with tmpl := vset c.tmpl slot none }))).out [] s := by
  rw [exec_cdis, execCdis]
  refine (stream_out hc hr hm).trans ?_
  have hcur : (dropFirings (s.takeWait s.cur (.cdis h slot cl)) s.cur slot).cur = s.cur := takeWait_cur ..
  simp only [me_takeWait, takeWait_cur, hcur] <;> rfl

/-- A change of the context that gives the same context is the same change. -/
theorem wentE_congr {i : Instr} {s : State} {f f' : Ctx → Ctx} (h : f s.me = f' s.me) : wentE i s f = wentE i s f' := by
  have h' : f ((s.takeWait s.cur i).ctx s.cur) = f' ((s.takeWait s.cur i).ctx s.cur) := by rw [ctx_takeWait]; exact h
  rw [wentE, wentE, State.modCtx, State.modCtx, h']

/-- Settles O38. -/
theorem streamWords : Obligations.StreamWords := by
  refine ⟨fun h x slot wm wmen sel cl s t c rcd hc => ?words, fun h x z slot wm wmen cl s t c rcd l cg hc hl hz hcg hdense hd => ?releases⟩
  case words =>
    refine ⟨fun hr hrec hheld hst => ?sdef, fun hr hrec ht hd => ?carm, fun hr hm => ⟨fun hst => ?stopIdle, fun hst => ?stopBusy⟩,
      fun hr hm => ?stat, fun hr hm => ⟨fun hn => ?disNone, fun tm htm => ⟨fun hf => ?disFree, fun hf => ?disFiring⟩⟩⟩
    case sdef =>
      have hchk : ∀ k, orTrap [streamTrap (s.me.ss.get slot).held.isSome 3 slot.val 0,
          streamTrap (decide (2 ≤ (s.me.ss.get slot).stat.state)) 2 slot.val 0] k = k := fun k => by
        rw [hheld, decide_eq_false (Nat.not_le.mpr hst)]; rfl
      rw [sdef_out hc hr, withRecord_good (recordAt_takeWait hrec) rfl, hchk]
      exact doneSig_modCtx
    case carm =>
      rw [carm_out hc hr, withRecord_good (recordAt_takeWait hrec) rfl, ht, afterDrain_drained hd]
      rfl
    case stopIdle =>
      rw [sstop_out hc hr hm, if_pos hst]
      exact doneSig_out (takeWait_cur ..)
    case stopBusy => rw [sstop_out hc hr hm, if_neg (Nat.not_lt.mpr hst)]; rfl
    case stat =>
      rw [exec_sstat, execSstat]
      refine (stream_out hc hr hm).trans ?_
      rw [takeWait_cur]
      refine doneSig_modCtx.trans (congrArg _ (wentE_congr ?_))
      match sel with
      | 0 => rfl
      | 1 => rfl
      | 2 => rfl
      | 3 => rfl
    case disNone =>
      rw [cdis_out hc hr hm, hn]
      exact doneSig_out (takeWait_cur ..)
    case disFree =>
      rw [cdis_out hc hr hm, htm]
      dsimp only
      rw [hf]
      exact doneSig_out ((modCtx_cur ..).trans (takeWait_cur ..))
    case disFiring =>
      rw [cdis_out hc hr hm, htm]
      dsimp only
      rw [hf]
      rfl
  case releases =>
    refine ⟨fun hr hm hrec hheld hst hb => ?sgo, fun hr hrec hwm => ?copy⟩
    case sgo =>
      have hget : (s.me.ss.get slot).record.getD 0 = rcd := by rw [hrec]; rfl
      have hchk : ∀ k, orTrap (sgoChecks s (.sgo h slot z cl) t c slot z) k = k := fun k => by
        rw [sgoChecks, hget, poisonS_cons _ hz, maskTrap_none hm, hrec, hheld, decide_eq_false (Nat.not_le.mpr hst), hb, hdense]
        rfl
      rw [sgo_out hc hr, hchk, afterDrain_drained hd, hl, hget]
      simp only [hcg]
      rfl
    case copy =>
      rw [copy_out hc hr, withRecord_good (recordAt_takeWait hrec) (by rw [List.all_cons, hz]; rfl), hdense]
      have hfree : (wmen && ((s.takeWait s.cur (.copy h x z wm wmen cl)).me.wm.get wm).active) = false := by
        rw [me_takeWait]
        cases wmen with
        | false => rfl
        | true => rw [hwm rfl]; rfl
      have hgo : copyGo z wm wmen (.copy h x z wm wmen cl) t c (s.takeWait s.cur (.copy h x z wm wmen cl)) rcd = _ :=
        (if_neg (by rw [hfree]; exact Bool.false_ne_true)).trans (afterDrain_drained hd _ _)
      rw [hgo]
      simp only [takeWait_cur, launchOf_takeWait, hl, cgOfPart_takeWait, hcg, me_takeWait, issued_takeWait, order_takeWait]
      rfl

/-! Transform array words (R346 to R351). -/

/-- The check of a container's address, where there is one. -/
def staAlign (align : Option Nat) : Option (Nat × Nat × Nat) := match align with | some a => alignCheck a 256 | none => none

theorem withCg_eq {s : State} {i : Instr} {srcs : List (Fin 32)} {y : Fin 32} {align : Option Nat} {k : Fin 8}
    {go : Launch → Fin 32 → Nat → Eff} {l : Launch} {cg : Fin 32} (hl : s.launchOf s.cur = some l)
    (hcg : s.cgOfPart l.q (s.me.readS y).toNat = some cg) (hs : poisonS s.me srcs = none) (ha : staAlign align = none) :
    withCg s i srcs y align k go = orTrap [ownerTrap s cg k, maskTrap s i] (go l cg (s.me.readS y).toNat) := by
  simp only [withCg, hl, hcg, hs]
  cases align with
  | none => rfl
  | some a =>
    have ha' : alignCheck a 256 = none := ha
    simp only [ha']
    rfl

/-- A slot that is the launch's own to use. -/
theorem withCg_own {s : State} {i : Instr} {srcs : List (Fin 32)} {y : Fin 32} {align : Option Nat} {k : Fin 8}
    {go : Launch → Fin 32 → Nat → Eff} {l : Launch} {cg : Fin 32} (h : slotAt s i y k l cg) (hs : poisonS s.me srcs = none)
    (ha : staAlign align = none) : withCg s i srcs y align k go = go l cg (s.me.readS y).toNat := by
  obtain ⟨-, hl, hcg, hown, hm⟩ := h
  have howner : ownerTrap s cg k = none := by
    rw [ownerTrap, hl]
    cases ho : (s.staSlot cg k).owner with
    | none => rfl
    | some o =>
      have hb : (o != l.id) = false := by simpa using hown o ho
      simp only [hb]; rfl
  rw [withCg_eq hl hcg hs ha, howner, maskTrap_none hm]; rfl

/-- A slot of another launch. -/
theorem withCg_foreign {s : State} {i : Instr} {srcs : List (Fin 32)} {y : Fin 32} {align : Option Nat} {k : Fin 8}
    {go : Launch → Fin 32 → Nat → Eff} {l : Launch} {cg : Fin 32} {o : Nat} (hl : s.launchOf s.cur = some l)
    (hcg : s.cgOfPart l.q (s.me.readS y).toNat = some cg) (ho : (s.staSlot cg k).owner = some o) (hne : o ≠ l.id)
    (hs : poisonS s.me srcs = none) (ha : staAlign align = none) : withCg s i srcs y align k go = .trap 0x06 k.val 0 := by
  have howner : ownerTrap s cg k = some (0x06, k.val, 0) := by
    have hb : (o != l.id) = true := by simpa using hne
    simp only [ownerTrap, ho, hl, hb]; rfl
  rw [withCg_eq hl hcg hs ha, howner, orTrap_cons_some]

theorem staSlot_takeWait (s : State) (i : Instr) (cg : Fin 32) (k : Fin 8) : (s.takeWait s.cur i).staSlot cg k = s.staSlot cg k := by
  rw [State.staSlot, takeWait_clusters]; rfl

theorem slotAt_takeWait {s : State} {i : Instr} {y : Fin 32} {k : Fin 8} {l : Launch} {cg : Fin 32}
    (h : slotAt (s.takeWait s.cur i) i y k l cg) : slotAt s i y k l cg := by
  simpa only [slotAt, me_takeWait, takeWait_cur, launchOf_takeWait, cgOfPart_takeWait, staSlot_takeWait, maskFault_takeWait] using h

theorem staload_out {i : Instr} {x y : Fin 32} {k : Fin 8} {upd : Bool} {s : State} {t : Fin 256} {c : Fin 4}
    (hc : s.cur = .tile t c) (hr : ready i s = true) :
    issue i [.s x, .s y] s (staloadEffect i x y k upd)
      = (let u := s.takeWait s.cur i
         withCg u i [x, y] y (some (u.me.readS x).toNat) k fun l cg g =>
           orTrap [trapIf (if upd then (u.staSlot cg k).st == 0 else (u.staSlot cg k).st != 0) 0x0E (staDetail 9 k g) 0] <| afterDrain u <|
             .done (submitLoad u l t c cg k upd (u.me.readS x).toNat (sqOf i))).out [.s x, .s y] s :=
  onTileCtx_out hc hr

theorem staload_own {i : Instr} {x y : Fin 32} {k : Fin 8} {upd : Bool} {s : State} {t : Fin 256} {c : Fin 4} {l : Launch} {cg : Fin 32}
    (hc : s.cur = .tile t c) (hr : ready i s = true) (h : slotAt (s.takeWait s.cur i) i y k l cg) (hx : s.me.poisS x = false)
    (ha : (s.me.readS x).toNat % 256 = 0) :
    issue i [.s x, .s y] s (staloadEffect i x y k upd)
      = (let u := s.takeWait s.cur i
         orTrap [trapIf (if upd then (s.staSlot cg k).st == 0 else (s.staSlot cg k).st != 0) 0x0E (staDetail 9 k (s.me.readS y).toNat) 0] <|
           afterDrain u <| .done (submitLoad u l t c cg k upd (s.me.readS x).toNat (sqOf i))).out [.s x, .s y] s := by
  have hy : s.me.poisS y = false := (slotAt_takeWait h).1
  have hs : poisonS (s.takeWait s.cur i).me [x, y] = none := by rw [me_takeWait, poisonS_cons _ hx, poisonS_cons _ hy, poisonS_nil]
  have hal : staAlign (some ((s.takeWait s.cur i).me.readS x).toNat) = none := by rw [me_takeWait]; exact alignCheck_none ha
  rw [staload_out hc hr]
  dsimp only
  rw [withCg_own h hs hal, me_takeWait, staSlot_takeWait]

/-- The effect of stafree and stastat on a slot of the launch. -/
theorem withCg_one {s : State} {i : Instr} {y : Fin 32} {k : Fin 8} {go : Launch → Fin 32 → Nat → Eff} {l : Launch} {cg : Fin 32}
    (h : slotAt (s.takeWait s.cur i) i y k l cg) :
    withCg (s.takeWait s.cur i) i [y] y none k go = go l cg (s.me.readS y).toNat := by
  have hy : s.me.poisS y = false := (slotAt_takeWait h).1
  rw [withCg_own h (by rw [me_takeWait, poisonS_cons _ hy, poisonS_nil]) rfl, me_takeWait]

/-- Settles O39. -/
theorem transformArrayWords : Obligations.TransformArrayWords := by
  intro h x y slot sel cl s t c l cg i upd hc
  dsimp only
  refine ⟨fun hr hy hl hcg ⟨o, ho, hne⟩ => ⟨fun hi hx ha => ?foreignLoad, fun hi => ?foreign⟩,
    fun hr hslot => ⟨fun hi hx ha => ?load, fun hi => ?free, fun hi => ?stat⟩⟩
  case foreignLoad =>
    have hs : poisonS (s.takeWait s.cur i).me [x, y] = none := by rw [me_takeWait, poisonS_cons _ hx, poisonS_cons _ hy, poisonS_nil]
    have hal : staAlign (some ((s.takeWait s.cur i).me.readS x).toNat) = none := by rw [me_takeWait]; exact alignCheck_none ha
    have key : ∀ upd, issue i [.s x, .s y] s (staloadEffect i x y slot upd) = .next (trapped s [.s x, .s y] 0x06 slot.val 0) := fun upd => by
      rw [staload_out hc hr]
      dsimp only
      rw [withCg_foreign (by rw [takeWait_cur, launchOf_takeWait]; exact hl) (by rw [me_takeWait, cgOfPart_takeWait]; exact hcg)
        (by rw [staSlot_takeWait]; exact ho) hne hs hal]
      rfl
    rcases hi with rfl | rfl
    · rw [exec_staload, execStaload]; exact key false
    · rw [exec_staloadUpd, execStaloadUpd]; exact key true
  case foreign =>
    have key : ∀ go, withCg (s.takeWait s.cur i) i [y] y none slot go = .trap 0x06 slot.val 0 := fun go =>
      withCg_foreign (by rw [takeWait_cur, launchOf_takeWait]; exact hl) (by rw [me_takeWait, cgOfPart_takeWait]; exact hcg)
        (by rw [staSlot_takeWait]; exact ho) hne (by rw [me_takeWait, poisonS_cons _ hy, poisonS_nil]) rfl
    rcases hi with rfl | rfl
    · rw [exec_stafree, execStafree]
      exact (onTileCtx_out hc hr).trans (by rw [key]; rfl)
    · rw [exec_stastat, execStastat]
      exact (onTileCtx_out hc hr).trans (by rw [key]; rfl)
  case load =>
    have hst : ∀ upd : Bool, ((s.staSlot cg slot).st = 0 ↔ upd = false)
        ↔ (if upd then (s.staSlot cg slot).st == 0 else (s.staSlot cg slot).st != 0) = false := by
      intro upd; cases upd <;> simp
    have hgo : ∀ upd, (((s.staSlot cg slot).st = 0 ↔ upd = false) → drained s → issue i [.s x, .s y] s (staloadEffect i x y slot upd)
          = .next ((submitLoad (s.takeWait s.cur i) l t c cg slot upd (s.me.readS x).toNat (sqOf i)).retire s.cur s.me.pc))
        ∧ (¬((s.staSlot cg slot).st = 0 ↔ upd = false) → issue i [.s x, .s y] s (staloadEffect i x y slot upd)
          = .next (trapped s [.s x, .s y] 0x0E (9 + 2 ^ 8 * slot.val + 2 ^ 11 * (s.me.readS y).toNat) 0)) := fun upd => by
      rw [staload_own hc hr hslot hx ha]
      dsimp only
      refine ⟨fun h0 hd => ?_, fun h0 => ?_⟩
      · rw [(hst upd).mp h0, afterDrain_drained hd]; rfl
      · rw [eq_true_of_ne_false fun hf => h0 ((hst upd).mpr hf)]; rfl
    have hsub : submitLoad (s.takeWait s.cur i) l t c cg slot upd (s.me.readS x).toNat (sqOf i)
        = (((s.takeWait s.cur i).modCluster cg (fun k => { k with stamp := k.stamp + 1 })).modSta cg slot (fun k => { k with
            st := if upd then k.st else 1, owner := some l.id
            loads := k.loads ++ [⟨upd, (s.me.readS x).toNat, t, c, sqOf i, (s.takeWait s.cur i).issued (s.takeWait s.cur i).cur,
              (s.clusters.get cg).stamp, none, none⟩] })) := by
      rw [← takeWait_clusters s s.cur i]; rfl
    have hgo' := hgo upd
    rw [hsub] at hgo'
    rcases hi with ⟨rfl, rfl⟩ | ⟨rfl, rfl⟩
    · rw [exec_staload, execStaload]; exact hgo'
    · rw [exec_staloadUpd, execStaloadUpd]; exact hgo'
  case free =>
    subst hi
    rw [exec_stafree, execStafree]
    refine ⟨fun h0 => (onTileCtx_out hc hr).trans ?_, fun h0 => (onTileCtx_out hc hr).trans ?_⟩
    · rw [withCg_one hslot, staSlot_takeWait, if_pos h0]
      exact doneSig_out (takeWait_cur ..)
    · rw [withCg_one hslot, staSlot_takeWait, if_neg h0]
      refine congrArg (fun u : State => Host.Outcome.next (u.retire s.cur s.me.pc)) ?_
      rw [← takeWait_clusters s s.cur (.stafree h y slot cl)]
  case stat =>
    subst hi
    rw [exec_stastat, execStastat]
    refine (onTileCtx_out hc hr).trans ?_
    rw [withCg_one hslot, takeWait_cur, takeWait_clusters]
    exact doneSig_modCtx

/-! Region words (R357, R361 to R368, R377 to R380). -/

theorem region_takeWait (s : State) (i : Instr) (r : Fin 128) : (s.takeWait s.cur i).region r = s.region r := by
  rw [State.region, takeWait_regions]; rfl

theorem regionOf_takeWait (s : State) (i : Instr) (q : Fin 32) (n : Nat) : (s.takeWait s.cur i).regionOf q n = s.regionOf q n := by
  simp only [State.regionOf, cgOfPart_takeWait, takeWait_pf]

theorem region_modRegion (s : State) (r : Fin 128) (f : Region → Region) : (s.modRegion r f).region r = f (s.region r) := vset_self ..

theorem modRegion_modRegion (s : State) (r : Fin 128) (f g : Region → Region) :
    (s.modRegion r f).modRegion r g = s.modRegion r (fun x => g (f x)) := by
  simp only [State.modRegion, vset_self, vset_vset]

/-- A region that the word may use. -/
theorem withRegion_own {s : State} {i : Instr} {srcs : List (Fin 32)} {a : Fin 32} {align : Option Nat} {free : Bool}
    {go : Launch → Fin 128 → Nat → Eff} {l : Launch} {r : Fin 128} (h : regionAt s i a free l r) (hs : poisonS s.me srcs = none)
    (ha : staAlign align = none) : withRegion s i srcs a align free go = go l r (s.me.readS a).toNat := by
  obtain ⟨-, hl, hr, hown, hm⟩ := h
  have hbad : (match (s.region r).owner with | some o => o != l.id | none => !free) = false := by
    rcases hown with ho | ⟨hf, ho⟩
    · rw [ho]; exact bne_self_eq_false ..
    · rw [ho, hf]; rfl
  have halign : (match align with | some a => alignCheck a 256 | none => none) = none := by
    cases align with
    | none => rfl
    | some a => exact ha
  simp only [withRegion, hl, hr, hs, maskTrap_none hm]
  rw [orTrap_none (findSome_none fun c hc => ?_)]
  simp only [List.cons_append, List.nil_append, List.mem_cons, List.not_mem_nil, or_false] at hc
  rcases hc with rfl | rfl | rfl | rfl
  · rfl
  · exact halign
  · exact congrArg (fun b => trapIf b 0x06 (s.me.readS a).toNat 0) hbad
  · rfl

theorem regionAt_takeWait {s : State} {i : Instr} {a : Fin 32} {free : Bool} {l : Launch} {r : Fin 128}
    (h : regionAt (s.takeWait s.cur i) i a free l r) : regionAt s i a free l r := by
  simpa only [regionAt, me_takeWait, takeWait_cur, launchOf_takeWait, regionOf_takeWait, region_takeWait, maskFault_takeWait] using h

/-- The effect of a word with one register on a region that it may use. -/
theorem withRegion_one {s : State} {i : Instr} {a : Fin 32} {free : Bool} {go : Launch → Fin 128 → Nat → Eff} {l : Launch} {r : Fin 128}
    (h : regionAt (s.takeWait s.cur i) i a free l r) :
    withRegion (s.takeWait s.cur i) i [a] a none free go = go l r (s.me.readS a).toNat := by
  have hy : s.me.poisS a = false := (regionAt_takeWait h).1
  rw [withRegion_own h (by rw [me_takeWait, poisonS_cons _ hy, poisonS_nil]) rfl, me_takeWait]

/-- A word with one register on a region that it may use. -/
theorem region_word {s : State} {i : Instr} {a : Fin 32} {free : Bool} {t : Fin 256} {c : Fin 4}
    {go : State → Fin 256 → Fin 4 → Launch → Fin 128 → Nat → Eff} {l : Launch} {r : Fin 128} (hc : s.cur = .tile t c)
    (hr : ready i s = true) (h : regionAt (s.takeWait s.cur i) i a free l r) :
    issue i [.s a] s (fun s => onTileCtx s fun t c => withRegion s i [a] a none free (go s t c))
      = (go (s.takeWait s.cur i) t c l r (s.me.readS a).toNat).out [.s a] s :=
  (onTileCtx_out (f := fun s t c => withRegion s i [a] a none free (go s t c)) hc hr).trans (by rw [withRegion_one h])

theorem waitOf_takeWait (s : State) (i : Instr) (t : Fin 256) (c : Fin 4) :
    waitOf (s.takeWait s.cur i) i t c = ⟨t, c, sqOf i, s.issued s.cur⟩ := by rw [waitOf, takeWait_cur, issued_takeWait]

/-- The plane that becomes active (R361). -/
def Region.swapped (x : Region) : Region :=
  { x with st := 1, stage := 0, active := x.staged, staged := none, op := RgOp.fresh, quiescent := false, swap := none }

/-- A swap that begins at once (R361, R364). -/
theorem askSwap_commits {s : State} {r : Fin 128} {force : Bool} {w : RgWait} (hs : (s.region r).swap = none) (hst : (s.region r).stage = 2)
    (h : (s.region r).st = 0 ∨ force = true) : askSwap s r force [w] false = endRegionOp r 0 (s.modRegion r Region.swapped) w := by
  simp only [askSwap, hs, beginSwap, region_modRegion, if_false, hst, ne_eq, not_true_eq_false]
  rw [if_pos h, commitSwap]
  simp only [region_modRegion, modRegion_modRegion, List.foldl_cons, List.foldl_nil]
  rfl

/-- A swap that waits for the region to drain (R361). -/
theorem askSwap_drains {s : State} {r : Fin 128} {w : RgWait} (hs : (s.region r).swap = none) (hst : (s.region r).stage = 2)
    (h : (s.region r).st = 1) : askSwap s r false [w] false = s.modRegion r (fun k => { k with st := 2, swap := some ⟨false, [w], false⟩ }) := by
  have h0 : ¬(s.region r).st = 0 := by omega
  have h3 : ¬(s.region r).st = 3 := by omega
  simp only [askSwap, hs, beginSwap, region_modRegion, if_false, hst, ne_eq, not_true_eq_false, h0, h3, false_or, modRegion_modRegion,
    Bool.false_eq_true]
  rfl

theorem rgswap_out {s : State} {i : Instr} {y : Fin 32} {force : Bool} {t : Fin 256} {c : Fin 4} {l : Launch} {r : Fin 128}
    (hc : s.cur = .tile t c) (hr : ready i s = true) (h : regionAt (s.takeWait s.cur i) i y false l r) (hs : (s.region r).swap = none) :
    issue i [.s y] s (rgswapEffect i y force)
      = (orTrap [regionTrap ((s.region r).stage == 0 || (s.region r).stage == 3) 1 (s.me.readS y).toNat,
          regionTrap ((s.region r).st == 3 && !force) 2 (s.me.readS y).toNat] <|
          if (s.region r).st = 2 then .hold
          else .done (askSwap (s.takeWait s.cur i) r force [⟨t, c, sqOf i, s.issued s.cur⟩] false)).out [.s y] s := by
  refine (onTileCtx_out hc hr).trans ?_
  rw [withRegion_one h]
  simp only [region_takeWait, hs, waitOf_takeWait, Option.isNone_none, Option.isSome_none, Bool.true_and, Bool.and_true, Bool.and_false,
    Bool.false_and, decide_eq_true_eq, Bool.false_eq_true, if_false]

/-- Settles O40. -/
theorem regionWords : Obligations.RegionWords := by
  refine ⟨fun h x y cl s t c l r hc => ?first, fun h d y f cl s t c l r i hc hr => ?second⟩
  case first =>
    dsimp only
    refine ⟨fun hr hreg hx ha => ?load, fun hr hreg hs => ⟨fun hst => ?unstaged, fun hst h3 => ?frozen, fun hst h0 => ?blank,
      fun hst h1 => ?running⟩, fun hr hreg hs hst h2 => ?force⟩
    case load =>
      have hy : s.me.poisS y = false := (regionAt_takeWait hreg).1
      have hpo : poisonS (s.takeWait s.cur (.rgload h x y cl)).me [x, y] = none := by
        rw [me_takeWait, poisonS_cons _ hx, poisonS_cons _ hy, poisonS_nil]
      have hal : staAlign (some ((s.takeWait s.cur (.rgload h x y cl)).me.readS x).toNat) = none := by
        rw [me_takeWait]; exact alignCheck_none ha
      rw [exec_rgload, execRgload]
      refine ⟨fun h1 => (onTileCtx_out hc hr).trans ?_, fun h1 hs hd => (onTileCtx_out hc hr).trans ?_⟩
      · rw [withRegion_own hreg hpo hal, region_takeWait, h1, me_takeWait]; rfl
      · have hb : ((s.region r).stage == 1) = false := by simpa using h1
        rw [withRegion_own hreg hpo hal, region_takeWait, hb, hs, me_takeWait, waitOf_takeWait]
        rw [afterDrain_drained hd]
        rfl
    case unstaged =>
      have hb : ((s.region r).stage == 0 || (s.region r).stage == 3) = true := by rcases hst with h | h <;> rw [h] <;> rfl
      rw [exec_rgswap, execRgswap, rgswap_out hc hr hreg hs, hb]; rfl
    case frozen => rw [exec_rgswap, execRgswap, rgswap_out hc hr hreg hs, hst, h3]; rfl
    case blank =>
      rw [exec_rgswap, execRgswap, rgswap_out hc hr hreg hs,
        askSwap_commits (by rw [region_takeWait]; exact hs) (by rw [region_takeWait]; exact hst) (.inl (by rw [region_takeWait]; exact h0)), hst, h0]
      rfl
    case running =>
      rw [exec_rgswap, execRgswap, rgswap_out hc hr hreg hs,
        askSwap_drains (by rw [region_takeWait]; exact hs) (by rw [region_takeWait]; exact hst) (by rw [region_takeWait]; exact h1), hst, h1]
      rfl
    case force =>
      rw [exec_rgswapForce, execRgswapForce, rgswap_out hc hr hreg hs,
        askSwap_commits (by rw [region_takeWait]; exact hs) (by rw [region_takeWait]; exact hst) (.inr rfl), hst, if_neg h2, Bool.and_comm]
      rfl
  case second => 
    dsimp only
    refine ⟨fun hi hreg h3 => ?save, fun im cf hi hreg h3 him hcf hid => ?rest, fun cf hi hreg hcf h0 => ⟨fun hf => ?clk, fun hf => ?clkTrap⟩,
      fun hi hreg => ⟨fun h03 => ?frzDone, fun h1 hs => ⟨fun hi => ?frz, fun hi => ?frzDrain⟩⟩,
      fun hi hreg => ⟨fun h3 => ?thaw, fun h12 => ?thawDone, fun h0 => ?thawTrap⟩, fun hi hreg => ?stat⟩
    case save =>
      subst hi
      rw [exec_rgsave, execRgsave]
      refine (region_word hc hr hreg).trans ?_
      rw [region_takeWait, h3]
      exact doneSig_out (takeWait_cur ..)
    case rest =>
      subst hi
      have him' : (s.region r).restorable = some im := by rw [Region.restorable, him, hcf]; exact if_pos hid
      rw [exec_rgrest, execRgrest]
      refine (region_word hc hr hreg).trans ?_
      rw [region_takeWait, h3, him']
      exact doneSig_out (takeWait_cur ..)
    case clk =>
      subst hi
      have h0' : ((s.region r).st == 0) = false := by simpa using h0
      have hf' : (decide (f.toNat < cf.fmin) || decide (cf.fmax < f.toNat)) = false := by
        rw [decide_eq_false (Nat.not_lt.mpr hf.1), decide_eq_false (Nat.not_lt.mpr hf.2)]; rfl
      rw [exec_rgclk, execRgclk]
      refine (region_word hc hr hreg).trans ?_
      simp only [region_takeWait, hcf, h0', hf']
      rfl
    case clkTrap =>
      subst hi
      have h0' : ((s.region r).st == 0) = false := by simpa using h0
      have hf' : (decide (f.toNat < cf.fmin) || decide (cf.fmax < f.toNat)) = true := by simpa using hf
      rw [exec_rgclk, execRgclk]
      refine (region_word hc hr hreg).trans ?_
      simp only [region_takeWait, hcf, h0', hf']
      rfl
    case frzDone =>
      rcases hi with rfl | rfl
      · rw [exec_rgfrz, execRgfrz]
        refine (region_word hc hr hreg).trans ?_
        rw [region_takeWait, if_pos h03]; rfl
      · rw [exec_rgfrzDrain, execRgfrzDrain]
        refine (region_word hc hr hreg).trans ?_
        rw [region_takeWait, if_pos h03]; rfl
    case frz =>
      subst hi
      rw [exec_rgfrz, execRgfrz]
      refine (region_word hc hr hreg).trans ?_
      rw [region_takeWait]
      dsimp only
      rw [hs, h1]; rfl
    case frzDrain =>
      subst hi
      rw [exec_rgfrzDrain, execRgfrzDrain]
      refine (region_word hc hr hreg).trans ?_
      rw [region_takeWait]
      dsimp only
      rw [hs, h1]; rfl
    case thaw =>
      subst hi
      rw [exec_rgthaw, execRgthaw]
      refine (region_word hc hr hreg).trans ?_
      rw [region_takeWait, h3]; rfl
    case thawDone =>
      subst hi
      rw [exec_rgthaw, execRgthaw]
      refine (region_word hc hr hreg).trans ?_
      rcases h12 with h | h <;> rw [region_takeWait, h] <;> rfl
    case thawTrap =>
      subst hi
      rw [exec_rgthaw, execRgthaw]
      refine (region_word hc hr hreg).trans ?_
      rw [region_takeWait, h0]; rfl
    case stat =>
      subst hi
      rw [exec_rgstat, execRgstat]
      refine (region_word hc hr hreg).trans ?_
      rw [takeWait_none rfl]
      rfl

end Sys2Proof.Machine

/-! ## Handle words and tensor accesses (07_handles.md) -/

namespace Sys2Proof.Machine

/-! ### Handle registers and handle definition (R200, R207, R220) -/

/-- Checks of registers and alignment that pass. -/
theorem poisonS_two {c : Ctx} {x y : Fin 32} (hx : c.poisS x = false) (hy : c.poisS y = false) : poisonS c [x, y] = none := by
  rw [poisonS_cons _ hx, poisonS_cons _ hy, poisonS_nil]

/-- A read that the instruction has waited for has answered (R220). -/
theorem withBytes_done {s : State} {ea align n : Nat} {rel : Bool} {poison : List (Option (Nat × Nat × Nat))}
    {go : List Byte → List Bool → State → Eff} {r : MemReq} {bs : List Byte} {po : List Bool}
    (h : s.me.reqs.find? (fun r => r.op == .syncRead && r.ea == ea && r.by_.pc == s.me.pc) = some r) (hd : r.stage = .done bs po) :
    withBytes s ea align n rel poison go
      = go bs po (s.modCtx s.cur (fun c => { c with reqs := c.reqs.filter (fun x => x.op != .syncRead) })) := by
  simp only [withBytes, h, hd]

/-- A read that the instruction has yet to send. -/
theorem withBytes_send {s : State} {ea align n : Nat} {poison : List (Option (Nat × Nat × Nat))}
    {go : List Byte → List Bool → State → Eff}
    (h : s.me.reqs.find? (fun r => r.op == .syncRead && r.ea == ea && r.by_.pc == s.me.pc) = none)
    (hp : passable s .read .any align [(ea, ea)] (.plain 0)) (hc : ∀ c ∈ poison, c = none) :
    withBytes s ea align n false poison go = .wait (fun s => sendParts s .read (.plain 0) [onePart .syncRead ea n]) := by
  simp only [withBytes, h]
  exact globalAccess_pass hp hc

/-- A descriptor image that passes the checks (R220). -/
def imageFits (s : State) (idx : Nat) (bs : List Byte) (po : List Bool) : Prop :=
  po.any id = false ∧ (∃ l, s.launchOf s.cur = some l ∧ idx < l.handles.length)
    ∧ (∀ e, s.entry s.cur idx = some e → dBits e 112 4 2 ≠ 1) ∧ defReason (BitVec.ofNat 1024 (leNat bs)) = none

/-- The state after an image has replaced its entry. -/
def entryDefined (s : State) (idx : Nat) (bs : List Byte) : State :=
  let img := BitVec.ofNat 1024 (leNat bs)
  let s1 := s.modLaunchOf s.cur (fun l => { l with handles := l.handles.set idx img })
  match s.launchOf s.cur with
  | some l => s1.updEntry l.q l.c idx (takeState img)
  | none => s1

theorem defineEntry_fits {s : State} {d a : Fin 32} {bs : List Byte} {po : List Bool} (h : imageFits s (s.me.readS d).toNat bs po) :
    defineEntry s d a bs po = .done (entryDefined s (s.me.readS d).toNat bs) := by
  obtain ⟨hpo, ⟨l, hl, hlen⟩, hst, hdef⟩ := h
  have hcst : ((match s.entry s.cur (s.me.readS d).toNat with | some e => dBits e 112 4 2 | none => 0) == 1) = false := by
    cases he : s.entry s.cur (s.me.readS d).toNat with
    | none => rfl
    | some e => simpa using hst e he
  simp only [defineEntry, hpo, hl, decide_eq_false (Nat.not_le.mpr hlen), hdef]
  refine (orTrap_none (findSome_none fun c hc => ?_) _).trans ?_
  · simp only [List.mem_cons, List.not_mem_nil, or_false] at hc
    rcases hc with rfl | rfl | rfl | rfl
    · rfl
    · rfl
    · exact congrArg (fun b => handleTrap b 9 (s.me.readS d).toNat 0 0) hcst
    · rfl
  · simp only [entryDefined, hl]

theorem handleTrap_reg (r i g : Nat) : handleTrap true r i g 0 = some (0x0B, r + i % 2 ^ 16 * 2 ^ 8 + g * 2 ^ 24, 0) := by
  rw [handleTrap, Nat.zero_mul, Nat.add_zero]; rfl

theorem handleTrap_entry (r i : Nat) : handleTrap true r i 0 0 = some (0x0B, r + i % 2 ^ 16 * 2 ^ 8, 0) := by
  rw [handleTrap_reg, Nat.zero_mul, Nat.add_zero]

/-- Settles O34. -/
theorem handleWords : Obligations.HandleWords := by
  refine ⟨fun h dh d a off s => ?words, fun h d a s hd ha hal => ?define⟩
  case words =>
    dsimp only
    refine ⟨fun hr hpa => ⟨fun e he => ?held, fun hn => ?past⟩, fun hr => ?inv, fun hr => ?invAll,
      fun e hpd hpa he => ⟨fun hr ho => ?store, fun hr hp => ?storeG⟩, fun g hr hpd hpa hal hn hg => ?storePast⟩
    case held =>
      rw [exec_hld, execHld]
      refine issue_onCtx rfl hr ?_
      simp only [he, poisonS_cons _ hpa, poisonS_nil]
      rfl
    case past =>
      rw [exec_hld, execHld]
      refine issue_trap rfl hr ?_
      simp only [hn, poisonS_cons _ hpa, poisonS_nil, handleTrap_reg]
      rfl
    case inv => rw [exec_hinv, execHinv]; exact issue_onCtx (f := fun c => c.writeH dh ⟨false, 0, 0⟩) rfl hr rfl
    case invAll => rw [exec_hinv, execHinv]; exact issue_onCtx (f := fun c => { c with h := Vector.replicate 16 ⟨false, 0, 0⟩ }) rfl hr rfl
    case store =>
      obtain ⟨hal, hlen, hold⟩ := ho
      rw [exec_hst, execHst]
      refine (issue_done (t := s.modScratch (fun m => m.write (s.me.readS a).toNat (leBytes 128 e.toNat))) rfl hr ?_).trans rfl
      simp only [he, poisonS_two hpd hpa, alignCheck_none hal, decide_eq_false (Nat.not_lt.mpr hlen), hold]
      rfl
    case storeG =>
      have hal : (s.me.readS a).toNat % 128 = 0 := (hp.2.1 _ (List.mem_singleton.mpr rfl)).1
      rw [exec_hst, execHst]
      refine issue_done rfl hr ?_
      simp only [he, if_true]
      refine globalAccess_pass hp fun c hc => ?_
      simp only [poisonS_two hpd hpa, alignCheck_none hal, List.cons_append, List.nil_append, List.mem_cons, List.not_mem_nil,
        or_false] at hc
      rcases hc with rfl | rfl | rfl
      · rfl
      · rfl
      · rfl
    case storePast =>
      rw [exec_hst, execHst]
      refine issue_trap rfl hr ?_
      cases g with
      | false =>
        simp only [hn, poisonS_two hpd hpa, alignCheck_none hal, Option.isNone_none, handleTrap_entry]
        rfl
      | true =>
        simp only [hn, poisonS_two hpd hpa, alignCheck_none hal, Option.isNone_none, handleTrap_entry, if_true]
        exact globalAccess_early (t := (0x0B, 1 + (s.me.readS d).toNat % 2 ^ 16 * 2 ^ 8, 0)) (hg rfl) (earlyChecks_poison rfl)
  case define =>
    dsimp only
    have hpre : [poisonS s.me [d, a], alignCheck (s.me.readS a).toNat 128] = [none, none] := by
      rw [poisonS_two hd ha, alignCheck_none hal]
    refine ⟨fun hr ho hf => ?scratch, fun hr => ⟨fun r bs po hfind hst hf hidx => ?read, fun hfind hp => ?send⟩⟩
    case scratch =>
      obtain ⟨-, hlen, hold⟩ := ho
      rw [exec_hdef, execHdef]
      refine issue_done rfl hr ?_
      dsimp only
      rw [hpre, decide_eq_false (Nat.not_lt.mpr hlen), hold]
      exact defineEntry_fits hf
    case read =>
      rw [exec_hdef, execHdef]
      refine issue_done rfl hr ?_
      dsimp only
      refine (if_pos rfl).trans ((withBytes_done hfind hst).trans ?_)
      rw [← hidx] at hf ⊢
      exact defineEntry_fits hf
    case send =>
      rw [exec_hdef, execHdef, issue_ready hr, takeWait_none rfl]
      dsimp only
      rw [hpre, if_pos rfl, withBytes_send hfind hp (by simp)]
      rfl

/-! ### Layout conversions (R215, R223, R224) -/

/-- The register of a word on handles holds a handle, and its entry is not broken. -/
theorem regTraps_none {c : Ctx} {hr : Fin 16} (hv : (c.readH hr).valid = true) : regTraps c hr = [none] := by
  simp only [regTraps, hv]; rfl

theorem brokenTrap_none {c : Ctx} {hr : Fin 16} (h : (hdesc (c.readH hr).desc).cstate ≠ 2) : brokenTrap c hr = none :=
  congrArg (fun b => trapIf b _ _ _) (beq_eq_false_iff_ne.mpr h)

theorem brokenTrap_broken {c : Ctx} {hr : Fin 16} (h : (hdesc (c.readH hr).desc).cstate = 2) :
    brokenTrap c hr = some (0x0C, (c.readH hr).index % 2 ^ 16 * 2 ^ 8, 0) :=
  congrArg (fun b => trapIf b _ _ _) (beq_iff_eq.mpr h)

/-- The checks of a conversion whose handle is one and whose target is admitted. -/
theorem relayoutChecks_none {s : State} {hr : Fin 16} {a : Fin 32} {tag newBase : Nat} {slot : Option (Fin 16)}
    (hv : (s.me.readH hr).valid = true) (hb : (hdesc (s.me.readH hr).desc).cstate ≠ 2) (hpa : s.me.poisS a = false)
    (href : relayoutRefused s (s.me.readH hr).desc tag newBase slot = false) (k : Eff) :
    orTrap (regTraps s.me hr ++ [brokenTrap s.me hr, poisonS s.me [a],
      handleTrap (relayoutRefused s (s.me.readH hr).desc tag newBase slot) 11 (s.me.readH hr).index hr.val 0]) k = k := by
  rw [regTraps_none hv, brokenTrap_none hb, poisonS_cons _ hpa, poisonS_nil, href]; rfl

/-- Settles O35. -/
theorem relayoutWords : Obligations.RelayoutWords := by
  intro h d a hr tag cslot ctok nb s hv
  dsimp only
  refine ⟨fun hrd => ?stat, fun hb => ⟨fun hrd => ⟨fun h1 => ?ended, fun h1 => ?inProgress⟩, fun hrd hpa href => ?refused,
    fun l hrd hpa hl href => ⟨fun h1 hlt hdr => ?starts, fun h1 hnb => ?already, fun h1 hnb hfull => ?full⟩⟩, fun hb hrd => ?broken⟩
  case stat =>
    rw [exec_hstat, execHstat]
    refine (issue_onCtx (f := fun c => c.writeS d (hstatWord (c.readH hr).desc) false) rfl hrd ?_).trans
      (congrArg Host.Outcome.next (went_congr ?_))
    · rw [regTraps_none hv]; rfl
    · simp only [hstatWord]
  case ended =>
    rw [exec_hwait, execHwait]
    refine issue_done rfl hrd ?_
    rw [regTraps_none hv, brokenTrap_none hb, if_neg h1]; rfl
  case inProgress =>
    rw [exec_hwait, execHwait, issue_ready hrd, takeWait_none rfl, regTraps_none hv, brokenTrap_none hb, if_pos h1]; rfl
  case refused =>
    rw [exec_hrelayout, execHrelayout]
    refine issue_trap rfl hrd ?_
    dsimp only
    rw [regTraps_none hv, brokenTrap_none hb, poisonS_cons _ hpa, poisonS_nil, href, handleTrap_reg]; rfl
  case starts =>
    rw [exec_hrelayout, execHrelayout]
    refine issue_done rfl hrd ((relayoutChecks_none hv hb hpa href _).trans ?_)
    simp only [hl, h1, decide_eq_false (Nat.not_le.mpr hlt), false_or, Bool.false_eq_true, if_false]
    rw [afterDrain, hdr.1, hdr.2]
    cases nb <;> rfl
  case already =>
    rw [exec_hrelayout, execHrelayout]
    refine issue_onCtx rfl hrd ((relayoutChecks_none hv hb hpa href _).trans ?_)
    simp only [hl, h1, hnb, true_or, if_true]
  case full =>
    rw [exec_hrelayout, execHrelayout]
    refine issue_onCtx rfl hrd ((relayoutChecks_none hv hb hpa href _).trans ?_)
    simp only [hl, h1, hnb, decide_eq_true hfull, or_true, if_true, if_false]
  case broken =>
    rw [exec_hwait, execHwait]
    refine issue_trap rfl hrd ?_
    rw [regTraps_none hv, brokenTrap_broken hb]; rfl

/-! ### Tensor elements and blocks (R211, R221) -/

/-- What a handle read leaves of its context before its data come: the zeroed cells, and zero in the register of a
scale run without bytes. -/
def readBase (d : Fin 32) (zero : List Cell) (rs : List ScaleRun) (c : Ctx) : Ctx :=
  (rs.filter (fun r => r.len == 0)).foldl (fun c r => c.writeS r.reg 0 false)
    (c.writeV d (zero.foldl (fun (v : VReg) z =>
      { bits := BitVec.ofNat 2048 (putBits v.bits.toNat z.dst z.cw 0)
        poison := setBit (setBit v.poison (z.dst / 32) false) ((z.dst + z.cw - 1) / 32) false }) (c.readV d)))

/-- What the scratchpad gives a handle read. -/
def readScratch (m : Memory) (d : Fin 32) (ps : List (Piece × Nat × Nat)) (rs : List ScaleRun) (c : Ctx) : Ctx :=
  rs.foldl (fun c r => c.writeS r.reg (BitVec.ofNat 64 (m.readNat r.addr r.len)) ((m.readPoison r.addr r.len).any id))
    (c.writeV d (scratchReads m (c.readV d) ps))

section
variable {s : State} {h : HDesc} {idx : Nat} {d : Fin 32} {cp : Fin 4} {zero cs : List Cell} {rs : List ScaleRun}

theorem handleRead_scratch (hs : h.space = true) (hp : piecesHeld s (cellPieces cs) rs = false) :
    handleRead s h idx d cp zero cs rs
      = .done (s.modCtx s.cur (fun c => readScratch s.scratch d (cellPieces cs) rs (readBase d zero rs c))) := by
  rw [handleRead, if_pos hs, if_neg (by rw [hp]; exact Bool.false_ne_true), ← modCtx_modCtx]; rfl

theorem handleRead_global (hs : h.space = false)
    (hp : passable s .read .any 1 (partAddrs (readParts d (cellPieces cs) rs)) (h.attr idx cp)) :
    handleRead s h idx d cp zero cs rs
      = .done (sendParts (s.modCtx s.cur (readBase d zero rs)) .read (h.attr idx cp) (readParts d (cellPieces cs) rs)) := by
  rw [handleRead, if_neg (by rw [hs]; exact Bool.false_ne_true)]
  exact globalAccess_pass hp (by simp)

/-- A handle read of no cell writes its zeros at once. -/
theorem handleRead_zeros (hg : h.space = false → globalHold s = false) :
    handleRead s h idx d cp zero [] [] = .done (s.modCtx s.cur (readBase d zero [])) := by
  cases hs : h.space with
  | false => exact handleRead_global hs ⟨hg hs, by simp [cellPieces, readParts, partAddrs], fun hr => absurd hr Bool.false_ne_true⟩
  | true =>
    refine (handleRead_scratch hs rfl).trans (congrArg (fun f => Eff.done (s.modCtx s.cur f)) (funext fun c => ?_))
    exact congrArg (fun v => { readBase d zero [] c with v := v }) (vset_get_self ..)

theorem handleWrite_scratch {held : Option (Nat × List Nat)} (hs : h.space = true) (hp : piecesHeld s (cellPieces cs) rs = false) :
    handleWrite s h idx d cp cs rs held
      = .done (s.modScratch (fun m => rs.foldl (fun m r => m.write r.addr (leBytes r.len (s.me.readS r.reg).toNat))
          (scratchWrites m (s.me.readV d) (cellPieces cs)))) := by
  rw [handleWrite, if_pos hs, if_neg (by rw [hp]; exact Bool.false_ne_true)]

theorem handleWrite_global {held : Option (Nat × List Nat)} (hs : h.space = false)
    (hp : passable s .write .any 1 (partAddrs (writeParts s.me d (cellPieces cs) rs held)) (h.attr idx cp)) :
    handleWrite s h idx d cp cs rs held
      = .done (sendParts s .write (h.attr idx cp) (writeParts s.me d (cellPieces cs) rs held)) := by
  rw [handleWrite, if_neg (by rw [hs]; exact Bool.false_ne_true)]
  exact globalAccess_pass hp (by simp)

end

/-- Changes of the issuing context in turn are one change. -/
theorem foldl_modCtx {α : Type} (f : Ctx → α → Ctx) (xs : List α) (s : State) :
    xs.foldl (fun s x => s.modCtx s.cur (fun c => f c x)) s = s.modCtx s.cur (fun c => xs.foldl f c) := by
  induction xs generalizing s with
  | nil => exact (modCtx_self rfl).symm
  | cons x xs ih => rw [List.foldl_cons, ih, modCtx_cur, modCtx_modCtx]; rfl

theorem scratch_modCtx (s : State) (f : Ctx → Ctx) : (s.modCtx s.cur f).scratch = s.scratch := by
  rw [State.scratch, State.scratch, modCtx_cur]
  cases s.cur with
  | mgmt => rfl
  | tile t c => exact (congrArg Tile.scratch (tile_modCtx_self s t c f)).trans rfl

/-- What a block read reads: in which state, from which cells, with which scale runs (R211). -/
def blockPlan (s : State) (d : Fin 32) (k : Fin 8) (v : Option Conv) (u : Nat) (stored old : List Cell) (rs : List ScaleRun) :
    State × List Cell × List ScaleRun :=
  match v with
  | none => (s, stored, rs)
  | some v => if v.unitState u = .new then (s, stored, []) else (padRegister s d k old, old, [])

/-- A block read holds for its unit, or reads by its plan. -/
theorem blockRead_plan (s : State) (h : HDesc) (idx : Nat) (d : Fin 32) (k : Fin 8) (cp : Fin 4) (v : Option Conv) (us : List Nat)
    (u : Nat) (beyond stored old : List Cell) (rs : List ScaleRun) :
    (match v with
      | some v' =>
        if unitsHold v us then Eff.hold
        else if v'.unitState u = .new then handleRead s h idx d cp beyond stored []
        else handleRead (padRegister s d k old) h idx d cp beyond old []
      | none => handleRead s h idx d cp beyond stored rs)
    = if unitsHold v us then .hold
      else handleRead (blockPlan s d k v u stored old rs).1 h idx d cp beyond (blockPlan s d k v u stored old rs).2.1
        (blockPlan s d k v u stored old rs).2.2 := by
  cases v with
  | none => rfl
  | some v =>
    by_cases hn : v.unitState u = .new
    · simp only [blockPlan, if_pos hn]
    · simp only [blockPlan, if_neg hn]

/-- A plan keeps the contexts' turn and the scratchpad. -/
theorem blockPlan_cur (s : State) (d : Fin 32) (k : Fin 8) (v : Option Conv) (u : Nat) (stored old : List Cell) (rs : List ScaleRun) :
    (blockPlan s d k v u stored old rs).1.cur = s.cur := by
  cases v with
  | none => rfl
  | some v =>
    by_cases hn : v.unitState u = .new
    · simp only [blockPlan, if_pos hn]
    · simp only [blockPlan, if_neg hn, padRegister, modCtx_cur]

theorem blockPlan_scratch (s : State) (d : Fin 32) (k : Fin 8) (v : Option Conv) (u : Nat) (stored old : List Cell)
    (rs : List ScaleRun) : (blockPlan s d k v u stored old rs).1.scratch = s.scratch := by
  cases v with
  | none => rfl
  | some v =>
    by_cases hn : v.unitState u = .new
    · simp only [blockPlan, if_pos hn]
    · simp only [blockPlan, if_neg hn]
      exact scratch_modCtx ..

/-- Settles O36. -/
theorem tensorAccesses : Obligations.TensorAccesses := by
  refine ⟨fun hd d hr cb ty k cp s => ?elements, fun hd d hr cb ty k cp sc sr s => ?blocks⟩
  case elements =>
    intro c h at_ v es ins us w gets puts wait zeroed
    have hz : ∀ c, readBase d ((es.filter (fun e => (h.outDim e.2).isSome)).map
        (fun e => { dst := w * e.1, cw := w, bit := 0, w := w })) [] c = zeroed c := fun c => by
      rw [readBase, List.foldl_map]; rfl
    refine ⟨fun hrd hpass => ⟨fun hu => ?held, fun hu => ⟨fun hs hp => ?scratch, fun hs hp => ?global⟩⟩,
      fun hrd hpass => ⟨fun hs hp => ?storeScratch, fun hs hp => ?storeGlobal⟩⟩
    case held =>
      rw [exec_ldt, execLdt, issue_ready hrd, takeWait_none rfl]
      exact congrArg (Eff.out · _ s) ((orTrap_passes hpass _).trans (if_pos hu))
    case scratch =>
      rw [exec_ldt, execLdt]
      refine (issue_done rfl hrd ((orTrap_passes hpass _).trans
        ((if_neg (ne_true_of_eq_false hu)).trans (handleRead_scratch hs hp)))).trans
          (congrArg (fun f => Host.Outcome.next (went s f)) (funext fun c => congrArg (readScratch s.scratch d gets []) (hz c)))
    case global =>
      rw [exec_ldt, execLdt]
      refine (issue_done rfl hrd ((orTrap_passes hpass _).trans
        ((if_neg (ne_true_of_eq_false hu)).trans (handleRead_global hs hp)))).trans
          (congrArg (fun f => Host.Outcome.next ((sendParts (s.modCtx s.cur f) .read at_ (readParts d gets [])).retire s.cur s.me.pc))
            (funext hz))
    case storeScratch =>
      rw [exec_stt, execStt]
      refine issue_done rfl hrd ((orTrap_passes hpass _).trans
        ((congrArg (Eff.map _) (handleWrite_scratch hs hp)).trans rfl))
    case storeGlobal =>
      rw [exec_stt, execStt]
      have hw : writeHeld v us = wait := rfl
      rw [← hw] at hp ⊢
      exact issue_done rfl hrd ((orTrap_passes hpass _).trans
        ((congrArg (Eff.map _) (handleWrite_global hs hp)).trans rfl))
  case blocks =>
    intro c h at_ v t x l rs units stored old plan gets zero base us wait puts first
    have hzero : ∀ (cs : List Cell) (rs : List ScaleRun) (c : Ctx), readBase d cs rs c
        = (rs.filter (fun r => r.len == 0)).foldl (fun c r => c.writeS r.reg 0 false) (zero cs c) := fun _ _ _ => rfl
    have hin : h.outDim x = none → ¬ (h.outDim x).isSome = true := fun ho => by rw [ho]; exact Bool.false_ne_true
    refine ⟨fun hrd hpass => ⟨fun ho hg => ?outside, fun ho hu => ?held, fun ho hu => ?inside⟩,
      fun hrd hpass => ⟨fun ho => ?storeOutside, fun ho hs hp => ?storeScratch, fun ho hs hp => ?storeGlobal⟩⟩
    case outside =>
      rw [exec_ldtb, execLdtb]
      refine (issue_done rfl hrd ((orTrap_passes hpass _).trans ((if_pos ho).trans
        (congrArg (Eff.map _) (handleRead_zeros hg))))).trans ?_
      have hall : ∀ u : State, u.cur = s.cur →
          (if sc then (scaleRuns h (toNats x) sr).foldl (fun s r => s.modCtx s.cur (fun c => c.writeS r.reg 0 false)) u else u)
            = u.modCtx s.cur (fun c => rs.foldl (fun c r => c.writeS r.reg 0 false) c) := fun u hu => by
        cases hsc : sc with
        | false => simp only [rs, hsc, Bool.false_eq_true, if_false, List.foldl_nil]; exact (modCtx_self rfl).symm
        | true => simp only [rs, hsc, if_true]; rw [foldl_modCtx, hu]
      refine (congrArg (fun t : State => Host.Outcome.next (t.retire s.cur s.me.pc)) ((hall _ (modCtx_cur ..)).trans
        (modCtx_modCtx ..))).trans (congrArg Host.Outcome.next (went_congr rfl))
    case held =>
      rw [exec_ldtb, execLdtb, issue_ready hrd, takeWait_none rfl]
      exact congrArg (Eff.out · _ s) ((orTrap_passes hpass _).trans ((if_neg (hin ho)).trans
        ((blockRead_plan s h (c.readH hr).index d k cp v units _ _ _ _ _).trans (if_pos hu))))
    case inside => 
      have hplan : ∀ u, handleRead plan.1 h (c.readH hr).index d cp (activeCells c t l k false) plan.2.1 plan.2.2 = .done u →
          exec (.ldtb hd d hr cb ty k cp sc sr) s = .next (u.retire s.cur s.me.pc) := by
        rw [exec_ldtb, execLdtb]
        exact fun u hu' => issue_done rfl hrd ((orTrap_passes hpass _).trans ((if_neg (hin ho)).trans
          ((blockRead_plan s h (c.readH hr).index d k cp v units _ _ _ _ _).trans
            ((if_neg (ne_true_of_eq_false hu)).trans hu'))))
      have hcur : plan.1.cur = s.cur := blockPlan_cur ..
      have hscr : plan.1.scratch = s.scratch := blockPlan_scratch ..
      refine ⟨fun hs hp => (hplan _ (handleRead_scratch hs hp)).trans ?_, fun hs hp => (hplan _ (handleRead_global hs hp)).trans ?_⟩
      · rw [hcur, hscr]; rfl
      · rw [hcur]; rfl
    case storeOutside =>
      rw [exec_sttb, execSttb]
      exact issue_done rfl hrd ((orTrap_passes hpass _).trans (if_pos ho))
    case storeScratch =>
      rw [exec_sttb, execSttb]
      exact issue_done rfl hrd ((orTrap_passes hpass _).trans ((if_neg (hin ho)).trans
        ((congrArg (Eff.map _) (handleWrite_scratch hs hp)).trans rfl)))
    case storeGlobal =>
      rw [exec_sttb, execSttb]
      have hw : writeHeld v us = wait := rfl
      rw [← hw] at hp ⊢
      exact issue_done rfl hrd ((orTrap_passes hpass _).trans ((if_neg (hin ho)).trans
        ((congrArg (Eff.map _) (handleWrite_global hs hp)).trans rfl)))

end Sys2Proof.Machine

/-! ## System words (14_traps.md) -/

namespace Sys2Proof.Machine

/-! ### System registers (R403, R453) -/

/-- The register of an array that an offset names. -/
theorem finOfNat_offset {m b n : Nat} [NeZero m] {k : Fin m} (h : n = b + k.val) : Fin.ofNat m (n - b) = k :=
  Fin.ext (by rw [Fin.val_ofNat, h, Nat.add_sub_cancel_left, Nat.mod_eq_of_lt k.isLt])

section
variable {s : State} {t : Fin 256} {c : Fin 4} {n : Nat}

theorem regTile_tile (hc : s.cur = .tile t c) : s.regTile = t := by rw [State.regTile, hc]
theorem selOk_tile (hc : s.cur = .tile t c) : s.selOk = true := by rw [State.selOk, hc]
theorem offMgmt_tile (hc : s.cur = .tile t c) : (s.cur != .mgmt) = true := by rw [hc]; rfl

theorem sysRead_cnt (hc : s.cur = .tile t c) {k : Fin 3} (hn : n = 0x100 + k.val) :
    sysRead s n = ((s.tile t).cnt.get k).zeroExtend 64 := by
  have hk := k.isLt
  unfold sysRead
  simp (disch := omega) only [if_neg]
  rw [if_pos (by omega), finOfNat_offset hn, if_pos (offMgmt_tile hc), regTile_tile hc]

theorem sysRead_wm (hc : s.cur = .tile t c) {k : Fin 16} (hn : n = 0x500 + k.val) : sysRead s n = wmWord (s.me.wm.get k) := by
  have hk := k.isLt
  unfold sysRead
  simp (disch := omega) only [if_neg]
  rw [if_pos (by omega), finOfNat_offset hn, if_pos (offMgmt_tile hc)]

theorem sysRead_cap (hc : s.cur = .tile t c) {k : Fin 4} (hn : n = 0x700 + k.val) :
    sysRead s n = (s.region ⟨4 * (t.val / 8) + k.val, by omega⟩).cap.zeroExtend 64 := by
  have hk := k.isLt
  have hr : Fin.ofNat 128 (4 * (clusterOfTile t).val + (n - 0x700)) = ⟨4 * (t.val / 8) + k.val, by omega⟩ := Fin.ext (by
    have ht := t.isLt
    simp only [clusterOfTile, Fin.val_ofNat]; omega)
  unfold sysRead
  simp (disch := omega) only [if_neg]
  rw [if_pos (by omega), if_pos (selOk_tile hc), regTile_tile hc, hr]

theorem sysRead_root {k : Fin 128} (hn : n = 0x400 + k.val) : sysRead s n = s.xltRoot.get k := by
  have hk := k.isLt
  unfold sysRead
  simp (disch := omega) only [if_neg]
  rw [if_pos (by omega), finOfNat_offset hn]

theorem sysRead_win {k : Fin 32} (hn : n = 0x480 + k.val) : sysRead s n = s.xltWin.get k := by
  have hk := k.isLt
  unfold sysRead
  simp (disch := omega) only [if_neg]
  rw [if_pos (by omega), finOfNat_offset hn]

theorem sysRead_fwreg {k : Fin 16} (hn : n = 0xA30 + k.val) : sysRead s n = s.mgmt.fwreg.get k := by
  have hk := k.isLt
  unfold sysRead
  simp (disch := omega) only [if_neg]
  unfold readDevice
  simp (disch := omega) only [if_neg]
  rw [finOfNat_offset hn]

theorem sysWrite_cnt (hc : s.cur = .tile t c) {k : Fin 3} (hn : n = 0x100 + k.val) (v : Word) :
    sysWrite s n v = s.modTile t (fun y => { y with cnt := vset y.cnt k (v.truncate 32) }) := by
  have hk := k.isLt
  unfold sysWrite
  simp (disch := omega) only [if_neg]
  rw [if_pos (by omega), finOfNat_offset hn, if_pos (offMgmt_tile hc), regTile_tile hc]

theorem sysWrite_root {k : Fin 128} (hn : n = 0x400 + k.val) (v : Word) : sysWrite s n v
    = { s with xltRoot := vset s.xltRoot k (BitVec.ofNat 64 (v.toNat % 2 + 2 ^ 20 * (v.toNat / 2 ^ 20 % 2 ^ 30))) } := by
  have hk := k.isLt
  unfold sysWrite
  simp (disch := omega) only [if_neg]
  rw [if_pos (by omega), finOfNat_offset hn, bitsAt, bitsAt, Nat.shiftRight_zero, Nat.shiftRight_eq_div_pow, Nat.pow_one]

theorem lowBits_eq (v : Word) (k : Nat) : lowBits v k = BitVec.ofNat 64 (v.toNat % 2 ^ k) := by
  rw [lowBits, bitsAt, Nat.shiftRight_zero]

theorem sysWrite_win {k : Fin 32} (hn : n = 0x480 + k.val) (v : Word) :
    sysWrite s n v = { s with xltWin := vset s.xltWin k (BitVec.ofNat 64 (v.toNat % 2 ^ 34)) } := by
  have hk := k.isLt
  unfold sysWrite
  simp (disch := omega) only [if_neg]
  rw [if_pos (by omega), finOfNat_offset hn, lowBits_eq]

theorem sysWrite_fwreg {k : Fin 16} (hn : n = 0xA30 + k.val) (v : Word) :
    sysWrite s n v = { s with mgmt := { s.mgmt with fwreg := vset s.mgmt.fwreg k v } } := by
  have hk := k.isLt
  unfold sysWrite
  simp (disch := omega) only [if_neg]
  unfold writeDevice
  simp (disch := omega) only [if_neg]
  rw [if_pos (by omega), finOfNat_offset hn]

theorem writeTrapbase_tile (hc : s.cur = .tile t c) (v : Word) : writeTrapbase s v
    = if v.toNat / 2 ^ 8 % 2 ^ 13 < 0x1800 then s.modCtx s.cur (fun c => { c with
        trapbase := BitVec.ofNat 64 (v.toNat / 2 ^ 8 % 2 ^ 13 * 256) }) else s := by
  simp only [writeTrapbase, hc, bitsAt, Nat.shiftRight_eq_div_pow]

end

/-- mfs writes the value of the register, clean (R403). -/
theorem mfs_value {h : Hdr} {d : Fin 32} {n : BitVec 12} {s : State} {v : Word} (hrd : ready (.mfs h d n) s = true)
    (hf : s.cur = .mgmt ∨ firmwareOnly (.mfs h d n) = false) (hn : n.toNat ≠ 0xA15) (hv : sysRead s n.toNat = v) :
    exec (.mfs h d n) s = .next (wroteS s d v false) := by
  rw [exec_mfs, execMfs, privileged_pass hf]
  refine issue_done rfl hrd ?_
  dsimp only
  rw [if_neg hn, hv]

/-- mts of a register that takes its value at once. -/
theorem mts_value {h : Hdr} {a : Fin 32} {n : BitVec 12} {s t : State} (hrd : ready (.mts h a n) s = true)
    (hp : s.me.poisS a = false) (hf : s.cur = .mgmt ∨ firmwareOnly (.mts h a n) = false) (h1 : n.toNat ≠ 1) (h2 : n.toNat ≠ 2)
    (hv : sysWrite s n.toNat (s.me.readS a) = t) : exec (.mts h a n) s = .next (t.retire s.cur s.me.pc) := by
  rw [exec_mts, execMts, privileged_pass hf]
  refine issue_done rfl hrd ?_
  dsimp only
  rw [if_neg h1, if_neg h2, hv, poisonS_cons _ hp, poisonS_nil]; rfl

/-- A write of SEQ_CTXPRI or SEQ_FLOOR on the management core. -/
theorem mts_prio {h : Hdr} {a : Fin 32} {n : BitVec 12} {s : State} (hrd : ready (.mts h a n) s = true)
    (hp : s.me.poisS a = false) (hc : s.cur = .mgmt) (hn : n = 1 ∨ n = 2) :
    exec (.mts h a n) s = (writePrio s (decide (n = 1)) (s.me.readS a)).out [.s a] s := by
  rw [exec_mts, execMts, privileged_pass (.inl hc), issue_ready hrd, takeWait_none rfl]
  dsimp only
  rw [poisonS_cons _ hp, poisonS_nil, orTrap_cons_none, orTrap_nil]
  rcases hn with rfl | rfl <;> rfl

/-- A change of each tile of a list, once. -/
theorem foldl_modTile (f : Tile → Tile) {xs : List (Fin 256)} (hx : xs.Nodup) (s : State) :
    xs.foldl (fun s t => s.modTile t f) s = { s with tiles := Vector.ofFn (fun t => if t ∈ xs then f (s.tile t) else s.tile t) } := by
  induction xs generalizing s with
  | nil =>
    refine congrArg (fun v => { s with tiles := v }) (Vector.ext fun i hi => ?_)
    simp [State.tile, Vector.get_eq_getElem]
  | cons x xs ih =>
    obtain ⟨hnot, hx⟩ := List.nodup_cons.mp hx
    rw [List.foldl_cons, ih hx]
    refine congrArg (fun v => { s with tiles := Vector.ofFn v }) (funext fun t => ?_)
    by_cases ht : t = x
    · subst ht
      rw [if_neg hnot, if_pos (List.mem_cons_self ..), tile_modTile_self]
    · simp only [tile_modTile, if_neg (Ne.symm ht), List.mem_cons, ht, false_or]

theorem selTiles_nodup (s : State) : s.selTiles.Nodup := by
  unfold State.selTiles
  split
  · exact (List.nodup_finRange 256).filter _
  · split
    · exact List.nodup_singleton _
    · exact List.nodup_nil

theorem elogctl_modCtx (s : State) (g : AgentId) (f : Ctx → Ctx) : (s.modCtx g f).mgmt.elogctl = s.mgmt.elogctl := by
  cases g <;> rfl

/-- The state after a write of SEQ_CTXPRI or SEQ_FLOOR has been sent to the selected tiles. -/
def prioSent (s : State) (entry : Bool × Word × Word) : State :=
  { s with
    tiles := Vector.ofFn (fun t =>
      if t ∈ s.selTiles then { s.tile t with arriving := (s.tile t).arriving ++ [entry] } else s.tile t)
    mgmt := { s.mgmt with writing := true } }

theorem prioSent_tile (s : State) (entry : Bool × Word × Word) (x : Fin 256) : (prioSent s entry).tile x
    = if x ∈ s.selTiles then { s.tile x with arriving := (s.tile x).arriving ++ [entry] } else s.tile x := by
  rw [State.tile, prioSent, Vector.get_eq_getElem, Vector.getElem_ofFn]

theorem prioSent_mgmt (s : State) (entry : Bool × Word × Word) : (prioSent s entry).mgmt = { s.mgmt with writing := true } := rfl

theorem prioSent_frame (s : State) (entry : Bool × Word × Word) :
    (prioSent s entry).mem = s.mem ∧ (prioSent s entry).launches = s.launches ∧ (prioSent s entry).hbm = s.hbm := by
  simp only [prioSent, and_self]

theorem writePrio_sends {s : State} (hw : s.mgmt.writing = false) (pri : Bool) (v : Word) (chk : List RegId) :
    (writePrio s pri v).out chk s = .next (prioSent s (pri, BitVec.ofNat 64 (if pri then 0x7777 else 0xFFFF), v)) := by
  rw [writePrio, hw]
  refine congrArg Host.Outcome.next ?_
  dsimp only
  rw [foldl_modTile _ (selTiles_nodup s)]; rfl

/-- Settles O44. -/
theorem systemRegisters : Obligations.SystemRegisters := by
  refine ⟨fun h d n s hrd hf => ?reads, fun h a n s hrd hp hf => ?writes⟩
  case reads =>
    intro u e
    have hval : ∀ {v : Word} (k : Nat), n.toNat = k → k ≠ 0xA15 → sysRead s n.toNat = v → e v :=
      fun k hk hn hv => mfs_value hrd hf (hk ▸ hn) hv
    have hlit : ∀ {v : Word} (k : BitVec 12), n = k → k.toNat ≠ 0xA15 → sysRead s k.toNat = v → e v :=
      fun k hk hn hv => hval k.toNat (congrArg _ hk) hn (hk ▸ hv)
    refine ⟨?any, fun hn => hlit 4 hn (by decide) rfl, fun hn => hlit 5 hn (by decide) rfl, fun t c hc => ?tile, fun hc => ?core⟩
    case any =>
      rw [exec_mfs, execMfs, privileged_pass hf]
      refine (issue_done (t := if n.toNat = 0xA15 then freeLogEntry u else u) rfl hrd rfl).trans ?_
      have hlog : u.logDie = Fin.ofNat 2 s.mgmt.elogctl.toNat := congrArg (fun x : Word => Fin.ofNat 2 x.toNat) (elogctl_modCtx ..)
      by_cases hn : n = 0xA15
      · rw [if_pos hn, if_pos (show n.toNat = 0xA15 from congrArg BitVec.toNat hn), freeLogEntry, hlog]
      · rw [if_neg hn, if_neg (show ¬n.toNat = 0xA15 from fun h => hn (BitVec.eq_of_toNat_eq h))]
    case tile =>
      have hsel := selOk_tile hc
      have hreg := regTile_tile hc
      refine ⟨fun hn => hlit 1 hn (by decide) ((if_pos hsel).trans (by rw [hreg])),
        fun hn => hlit 2 hn (by decide) ((if_pos hsel).trans (by rw [hreg])),
        fun hn => hlit 3 hn (by decide) ((if_pos hsel).trans (by rw [hreg, issueThr])),
        fun k hn => hval _ hn (by omega) (sysRead_cnt hc hn),
        fun hn => hlit 0x103 hn (by decide) ((if_pos (offMgmt_tile hc)).trans (by rw [hreg])),
        fun k hn => hval _ hn (by omega) (sysRead_wm hc hn), fun k hn => hval _ hn (by omega) (sysRead_cap hc hn)⟩
    case core =>
      exact ⟨fun k hn => hval _ hn (by omega) (sysRead_root hn), fun k hn => hval _ hn (by omega) (sysRead_win hn),
        fun hn => hlit 0xA00 hn (by decide) rfl, fun hn => hlit 0xA01 hn (by decide) rfl, fun hn => hlit 0xA20 hn (by decide) rfl,
        fun k hn => hval _ hn (by omega) (sysRead_fwreg hn)⟩
  case writes =>
    intro v e low
    have hval : ∀ {t : State} (k : Nat), n.toNat = k → k ≠ 1 → k ≠ 2 → sysWrite s n.toNat v = t → e t :=
      fun k hk h1 h2 hv => mts_value hrd hp hf (hk ▸ h1) (hk ▸ h2) hv
    have hlit : ∀ {t : State} (k : BitVec 12), n = k → k.toNat ≠ 1 → k.toNat ≠ 2 → sysWrite s k.toNat v = t → e t :=
      fun k hk h1 h2 hv => hval k.toNat (congrArg _ hk) h1 h2 (hk ▸ hv)
    refine ⟨fun h1 h2 => hval _ rfl (fun h => h1 (BitVec.eq_of_toNat_eq h)) (fun h => h2 (BitVec.eq_of_toNat_eq h)) rfl,
      fun t c hc => ?tile, fun hc => ?core⟩
    case tile =>
      refine ⟨fun k hn => hval _ hn (by omega) (by omega) (sysWrite_cnt hc hn v), fun hn => hlit 0x103 hn (by decide) (by decide)
        ((if_pos (offMgmt_tile hc)).trans (by rw [regTile_tile hc, lowBits_eq])), fun hn => ⟨fun hlt => ?_, fun hge => ?_⟩⟩
      · exact hlit 4 hn (by decide) (by decide) ((writeTrapbase_tile hc v).trans (if_pos hlt))
      · exact hlit 4 hn (by decide) (by decide) ((writeTrapbase_tile hc v).trans (if_neg (Nat.not_lt.mpr hge)))
    case core =>
      refine ⟨fun k hn => hval _ hn (by omega) (by omega) (sysWrite_root hn v),
        fun k hn => hval _ hn (by omega) (by omega) (sysWrite_win hn v),
        fun hn => hlit 0xA00 hn (by decide) (by decide) (congrArg (fun w => { s with mgmt := { s.mgmt with evmask := w } }) (lowBits_eq ..)),
        fun hn => hlit 0xA01 hn (by decide) (by decide) rfl,
        fun hn => hlit 0xA20 hn (by decide) (by decide) (congrArg (fun w => { s with mgmt := { s.mgmt with tsel := w } }) (lowBits_eq ..)),
        fun k hn => hval _ hn (by omega) (by omega) (sysWrite_fwreg hn v), fun hn => ⟨fun hw => ?sends, fun hw ha => ?holds, fun hw ha => ?ends⟩⟩
      case sends =>
        have hmask : BitVec.ofNat 64 (if decide (n = 1) then 0x7777 else 0xFFFF) = if n = 1 then 0x7777 else 0xFFFF := by
          by_cases h1 : n = 1
          · rw [if_pos h1, if_pos (decide_eq_true h1)]; rfl
          · rw [if_neg h1, if_neg (by rw [decide_eq_false h1]; exact Bool.false_ne_true)]; rfl
        refine ⟨_, (mts_prio hrd hp hc hn).trans (writePrio_sends hw ..), prioSent_mgmt .., fun x => ?_, prioSent_frame ..⟩
        rw [prioSent_tile, hmask]
      case holds =>
        rw [mts_prio hrd hp hc hn, writePrio, if_neg (by rw [hw]; decide), if_pos ha]; rfl
      case ends =>
        refine (mts_prio hrd hp hc hn).trans ?_
        rw [writePrio, if_neg (by rw [hw]; decide), if_neg (by rw [ha]; decide)]; rfl

/-! ### Translation invalidation, context save and load, poison clearing, stall map and launch (R395, R400 to R409) -/

/-- The address that tlbinv takes of its register. -/
def tlbAddr (s : State) (k : TlbScope) : Nat := match k with | .va r _ => (s.me.readS r).toNat | _ => 0

theorem pageTrap_some {s : State} {addr n p : Nat} (h : s.badPage addr n = some p) : pageTrap s addr n = some (0x06, p, p) := by
  rw [pageTrap, h]; rfl

theorem pageTrap_none {s : State} {addr n : Nat} (h : s.badPage addr n = none) : pageTrap s addr n = none := by
  rw [pageTrap, h]

section
variable {h : Hdr} {d a : Fin 32} {ctx : Fin 4} {s : State}

/-- tlbinv on the management core (R406). -/
theorem tlbinv_out {k : TlbScope} (hc : s.cur = .mgmt) (hr : ready (.tlbinv h k) s = true) (hcl : ∀ r ∈ tlbRegs k, s.me.poisS r = false) :
    exec (.tlbinv h k) s = if scopeBusy s k then .next (invalidate s k (tlbAddr s k))
      else .next ((invalidate s k (tlbAddr s k)).retire s.cur s.me.pc) := by
  rw [exec_tlbinv, execTlbinv, privileged_pass (.inl hc), issue_ready hr, takeWait_none rfl, poisonS_none hcl]
  dsimp only
  rw [orTrap_cons_none, orTrap_nil]
  split
  · rfl
  · rfl

/-- ctxsv of a vacant context. -/
theorem ctxsv_vacant (hc : s.cur = .mgmt) (hr : ready (.ctxsv h d a ctx) s = true) (hp : passes (imageTraps s d a) = true)
    (hl : s.launchOf (.tile (Fin.ofNat 256 (s.me.readS d).toNat) ctx) = none) :
    exec (.ctxsv h d a ctx) s = (statusDone s d 1).out [.s d, .s a] s := by
  rw [exec_ctxsv, execCtxsv, privileged_pass (.inl hc), issue_ready hr, takeWait_none rfl]
  simp only [orTrap_passes hp, hl]

/-- ctxsv of a launch's context (R401). -/
theorem ctxsv_launch {t : Fin 256} {l : Launch} (hc : s.cur = .mgmt) (hr : ready (.ctxsv h d a ctx) s = true)
    (hp : passes (imageTraps s d a) = true) (ht : t = Fin.ofNat 256 (s.me.readS d).toNat) (hl : s.launchOf (.tile t ctx) = some l) :
    exec (.ctxsv h d a ctx) s
      = (orTrap [pageTrap s (s.me.readS a).toNat (saveOf s l t ctx (s.me.readS a).toNat).image.length] <|
          if !l.saving.contains t then .wait (fun s => s.modLaunchId l.id (fun l => { l with saving := l.saving ++ [t] }))
          else if !ctxIdle s l t ctx then .hold
          else statusDone (saveCtx s l t ctx (s.me.readS a).toNat) d 0).out [.s d, .s a] s := by
  subst ht
  rw [exec_ctxsv, execCtxsv, privileged_pass (.inl hc), issue_ready hr, takeWait_none rfl]
  simp only [orTrap_passes hp, hl]

/-- ctxld of a context that a launch has. -/
theorem ctxld_held (hc : s.cur = .mgmt) (hr : ready (.ctxld h d a ctx) s = true) (hp : passes (imageTraps s d a) = true)
    (hl : (s.launchOf (.tile (Fin.ofNat 256 (s.me.readS d).toNat) ctx)).isSome = true) :
    exec (.ctxld h d a ctx) s = (statusDone s d 2).out [.s d, .s a] s := by
  rw [exec_ctxld, execCtxld, privileged_pass (.inl hc), issue_ready hr, takeWait_none rfl]
  simp only [orTrap_passes hp, if_pos hl]

/-- ctxld of a vacant context: the image decides (R407). -/
theorem ctxld_vacant {q : Option (Nat × Nat × Nat)} (hc : s.cur = .mgmt) (hr : ready (.ctxld h d a ctx) s = true)
    (hp : passes (imageTraps s d a) = true)
    (hl : s.launchOf (.tile (Fin.ofNat 256 (s.me.readS d).toNat) ctx) = none) (hq : savedTrap s (s.me.readS a).toNat = q) :
    ∃ k, exec (.ctxld h d a ctx) s = (orTrap [q] k).out [.s d, .s a] s
      ∧ (s.savedAt (s.me.readS a).toNat = none → k = statusDone s d 4)
      ∧ (∀ v l, s.savedAt (s.me.readS a).toNat = some v → (s.launches ++ s.shelf).find? (fun l => l.id == v.launch) = some l →
          k = if loadStatus s l v (Fin.ofNat 256 (s.me.readS d).toNat) ctx ≠ 0 then
                statusDone s d (loadStatus s l v (Fin.ofNat 256 (s.me.readS d).toNat) ctx)
              else if l.mqmask = 15 && (s.tile (Fin.ofNat 256 (s.me.readS d).toNat)).arrayBusy then .hold
              else statusDone (loadCtx s l v (Fin.ofNat 256 (s.me.readS d).toNat) ctx) d 0) := by
  rw [exec_ctxld, execCtxld, privileged_pass (.inl hc), issue_ready hr, takeWait_none rfl]
  simp only [orTrap_passes hp, hl, Option.isSome_none, Bool.false_eq_true, if_false, hq]
  refine ⟨_, rfl, fun hn => ?_, fun v l hv hf => ?_⟩
  · rw [hn]
  · rw [hv]; simp only [hf]

end

/-- What a step keeps, a fold of it keeps. -/
theorem foldl_keeps {α β : Type} {f : β → α → β} {γ : Type} (p : β → γ) (hf : ∀ s x, p (f s x) = p s) (xs : List α) (s : β) :
    p (xs.foldl f s) = p s := by
  induction xs generalizing s with
  | nil => rfl
  | cons x xs ih => rw [List.foldl_cons, ih, hf]

/-- A view of the state that the bytes of memory and their keys have no part in. -/
def offMemory {α : Type} (p : State → α) : Prop :=
  ∀ (s : State) (m h : Memory) (k : List (Nat × Key)), p { s with mem := m, hostMem := h, lineKeys := k } = p s

theorem ownLines_keeps {α : Type} {p : State → α} (hp : offMemory p) (s : State) (key : Option Key) (pa n : Nat) :
    p (s.ownLines key pa n) = p s := by
  refine foldl_keeps p (fun s l => ?_) _ _
  unfold State.ownLine
  split
  · rfl
  · exact hp s _ s.hostMem _

/-- A write of memory changes the bytes of memory and their keys only. -/
theorem writePa_keeps {α : Type} {p : State → α} (hp : offMemory p) (s : State) (key : Option Key) (pa : Nat) (bs : List Byte)
    (mask : List Bool) : p (s.writePa key pa bs mask) = p s := by
  unfold State.writePa
  split
  · exact (hp _ _ (s.ownLines key pa bs.length).hostMem (s.ownLines key pa bs.length).lineKeys).trans (ownLines_keeps hp ..)
  · exact hp s s.mem _ s.lineKeys
  · rfl

theorem modLaunchId_cur (s : State) (id : Nat) (f : Launch → Launch) : (s.modLaunchId id f).cur = s.cur := rfl

theorem rehome_cur (s : State) (l : Launch) (c : Fin 4) (ls sh : List Launch) :
    ({ rehome s l c with launches := ls, shelf := sh } : State).cur = s.cur := rfl

theorem loadBase_cur {p : Prop} [Decidable p] (s : State) (l : Launch) (c : Fin 4) (ls sh : List Launch) (id : Nat) (f : Launch → Launch) :
    (if p then s.modLaunchId id f else { rehome s l c with launches := ls, shelf := sh }).cur = s.cur := by
  split
  · exact modLaunchId_cur ..
  · exact rehome_cur ..

theorem shelve_cur (s : State) (id : Nat) : (shelve s id).cur = s.cur := by
  unfold shelve
  split
  · split <;> rfl
  · rfl

theorem writeImage_keeps {α : Type} {p : State → α} (hp : offMemory p) (s : State) (addr : Nat) (bs : List Byte) :
    p (s.writeImage addr bs) = p s := foldl_keeps p (fun _ _ => writePa_keeps hp ..) _ _

theorem offMemory_cur : offMemory State.cur := fun _ _ _ _ => rfl

theorem saveCtx_cur (s : State) (l : Launch) (t : Fin 256) (c : Fin 4) (addr : Nat) : (saveCtx s l t c addr).cur = s.cur := by
  rw [saveCtx]
  generalize saveOf s l t c addr = v
  rw [shelve_cur, modLaunchId_cur, modTile_cur, writeImage_keeps offMemory_cur]

theorem loadCtx_cur (s : State) (l : Launch) (v : CtxSave) (t : Fin 256) (c : Fin 4) : (loadCtx s l v t c).cur = s.cur := by
  rw [loadCtx]
  rw [modLaunchId_cur, modTile_cur]
  exact loadBase_cur ..

/-- A status written after a change that keeps the issuing context. -/
theorem statusDone_out {s u : State} {d : Fin 32} {n : Nat} {chk : List RegId} (hu : u.cur = s.cur) :
    (statusDone u d n).out chk s
      = .next ((u.modCtx s.cur (fun c => c.writeS d (BitVec.ofNat 64 n) false)).retire s.cur s.me.pc) := by
  rw [statusDone, hu]; rfl

theorem and_decide_iff {p : Prop} [Decidable p] {b : Bool} : (decide p && b) = true ↔ p ∧ b = true := by
  rw [Bool.and_eq_true, decide_eq_true_eq]

theorem not_contains_iff {xs : List (Fin 256)} {t : Fin 256} : (!xs.contains t) = true ↔ t ∉ xs := by
  rw [Bool.not_eq_true', ← Bool.not_eq_true, List.contains_iff_mem]

/-- Settles O45. -/
theorem firmwareMapAndLaunchWords : Obligations.FirmwareMapAndLaunchWords := by
  refine ⟨fun h d a k ctx s hc => ?core, fun h d a kr cap cl s => ?words⟩
  case core =>
    intro tb sv ld t addr answer trap
    refine ⟨fun hr hcl => ⟨fun hb => ?invWaits, fun hb => ?invDone⟩, fun q hq => ⟨fun hr => ?svTrap, fun hr => ?ldTrap⟩,
      fun hp => ⟨fun hr => ⟨fun hl => ?svNone, fun l hl => ⟨fun p hb => ?svPage, fun hb => ⟨fun hs => ?svStops, fun hs hi => ?svHolds, fun hs hi => ?svSaves⟩⟩⟩,
        fun hr => ⟨fun hl => ?ldHeld, fun hl => ?ldVacant⟩⟩⟩
    case invWaits => exact (tlbinv_out hc hr hcl).trans (if_pos hb)
    case invDone => exact (tlbinv_out hc hr hcl).trans (if_neg (ne_true_of_eq_false hb))
    case svTrap => exact (exec_ctxsv ..).trans ((privileged_pass (.inl hc) _).trans (issue_trap rfl hr (orTrap_some hq _)))
    case ldTrap => exact (exec_ctxld ..).trans ((privileged_pass (.inl hc) _).trans (issue_trap rfl hr (orTrap_some hq _)))
    case svNone => exact ctxsv_vacant hc hr hp hl
    case svPage => 
      refine (ctxsv_launch hc hr hp rfl hl).trans ?_
      rw [pageTrap_some hb]; rfl
    case svStops =>
      refine (ctxsv_launch hc hr hp rfl hl).trans ?_
      rw [pageTrap_none hb, if_pos (not_contains_iff.mpr hs)]; rfl
    case svHolds =>
      refine (ctxsv_launch hc hr hp rfl hl).trans ?_
      rw [pageTrap_none hb, if_neg (fun hn => not_contains_iff.mp hn hs), if_pos (by rw [hi]; rfl)]; rfl
    case svSaves =>
      refine (ctxsv_launch hc hr hp rfl hl).trans ?_
      rw [pageTrap_none hb, if_neg (fun hn => not_contains_iff.mp hn hs), if_neg (by rw [hi]; decide)]
      exact statusDone_out (saveCtx_cur ..)
    case ldHeld => exact ctxld_held hc hr hp hl
    case ldVacant =>
      refine ⟨fun q hq => ?_, fun hq hn => ?_, fun v l hq hv hf => ?_⟩
      · obtain ⟨k, hk, -, -⟩ := ctxld_vacant hc hr hp hl hq
        exact hk
      · obtain ⟨k, hk, hnone, -⟩ := ctxld_vacant hc hr hp hl hq
        rw [hnone hn] at hk; exact hk
      · obtain ⟨k, hk, -, hsome⟩ := ctxld_vacant hc hr hp hl hq
        rw [hsome v l hv hf] at hk
        refine ⟨fun hn => hk.trans ?_, fun hn hb => hk.trans ?_, fun hn hb => hk.trans ?_⟩
        · rw [if_pos hn]; rfl
        · rw [if_neg (not_not.mpr hn), if_pos (and_decide_iff.mpr hb)]; rfl
        · rw [if_neg (not_not.mpr hn), if_neg (fun hn => hb (and_decide_iff.mp hn))]
          exact statusDone_out (loadCtx_cur ..)
  case words =>
    intro x sm la map
    refine ⟨fun hr => ?pclrS, fun hr => ?pclrV, fun hr => ⟨fun hn => ⟨fun hp => ?smPoison, fun hp hal => ?smAlign, fun hp hal => ?smKeep⟩,
      fun r bs po hs hst => ⟨fun hb => ?smStores, fun hb hw ho => ?smDone, fun hb hw ho => ?smWaits⟩⟩, fun t c hc hr => ⟨fun hd => ?laTrap,
        fun l p r bs po hd hp hal hm hdr hl hq hu hf hst hpo => ?laDone⟩⟩
    case pclrS => exact (exec_pclr ..).trans (issue_onCtx rfl hr rfl)
    case pclrV => exact (exec_pclr ..).trans (issue_onCtx rfl hr rfl)
    case smPoison =>
      rw [exec_smap, execSmap]
      refine issue_trap rfl hr ?_
      simp only [hn]
      rw [poisonS_head _ hp]; rfl
    case smAlign =>
      rw [exec_smap, execSmap]
      refine issue_trap rfl hr ?_
      simp only [hn]
      rw [poisonS_cons _ hp, poisonS_nil, alignCheck_some hal]; rfl
    case smKeep =>
      rw [exec_smap, execSmap, issue_ready hr, takeWait_none rfl]
      simp only [hn]
      rw [poisonS_cons _ hp, poisonS_nil, alignCheck_none hal]; rfl
    case smStores => 
      intro now n hpass
      rw [exec_smap, execSmap, issue_ready hr, takeWait_none rfl]
      simp only [hs, hst]
      rw [if_neg (by simpa using hb), globalAccess_pass hpass (by simp)]; rfl
    case smDone =>
      rw [exec_smap, execSmap, issue_ready hr, takeWait_none rfl]
      simp only [hs, hst, hb, hw, ho, List.isEmpty_nil, Bool.not_true, Bool.false_eq_true, if_false, if_true]
      refine (statusDone_out (modCtx_cur ..)).trans ?_
      rw [modCtx_modCtx]; rfl
    case smWaits =>
      rw [exec_smap, execSmap, issue_ready hr, takeWait_none rfl]
      simp only [hs, hst, hb, hw, ho]; rfl
    case laTrap =>
      rw [exec_launch, execLaunch]
      refine (onTileCtx_out hc hr).trans ?_
      simp only [takeWait_cur, view_takeWait, hd]
      rfl
    case laDone =>
      intro u q
      have hpre : ∀ k, orTrap [trapIf (!(s.view s.cur).devl) 0x03 0x3B 0, poisonS s.me [a], alignCheck x 64, maskTrap s la] k = k := fun k => by
        rw [hd, poisonS_cons _ hp, poisonS_nil, alignCheck_none hal, maskTrap_none hm]; rfl
      have hu' : unreleased (s.takeWait s.cur la) = false := by rw [unreleased, me_takeWait]; exact hu
      rw [exec_launch, execLaunch]
      refine (onTileCtx_out hc hr).trans ?_
      have hbytes : ∀ go, withBytes (s.takeWait s.cur la) x 64 64 true [] go
          = go bs po ((s.takeWait s.cur la).modCtx (s.takeWait s.cur la).cur (fun c => { c with reqs := c.reqs.filter (fun x => x.op != .syncRead) })) := fun go =>
        withBytes_done (by rw [me_takeWait]; exact hf) hst
      simp only [takeWait_cur, view_takeWait, me_takeWait, maskTrap_takeWait]
      rw [hpre, afterDrain_drained hdr, if_neg (ne_true_of_eq_false hu')]
      refine (congrArg (Eff.out · _ s) (hbytes _)).trans ?_
      have hcu : u.cur = s.cur := by simp only [u, modCtx_cur, takeWait_cur]
      have hlu : u.launchOf s.cur = some l := by simp only [u, launchOf_modCtx, launchOf_takeWait, hl]
      have hqu : u.part l.q = some p := by simp only [u, State.part, modCtx_parts, takeWait_parts]; exact hq
      rw [takeWait_cur]
      show ((orTrap [trapIf (po.any id) 0x07 a.val x] <| match u.launchOf u.cur with
          | none => Eff.hold
          | some l => match u.part l.q with
            | none => .hold
            | some p => .done ((u.submit p (mctxOf l.q l.c) (BitVec.ofNat 512 (leNat bs)) ((sqOf la).map (fun q => (t, c, q, l.id)))).2.modCtx
                u.cur (fun k => k.writeS d (BitVec.ofNat 64
                  (u.submit p (mctxOf l.q l.c) (BitVec.ofNat 512 (leNat bs)) ((sqOf la).map (fun q => (t, c, q, l.id)))).1) false))) : Eff).out _ s = _
      rw [hpo, hcu, hlu]
      simp only [hqu]
      rfl

end Sys2Proof.Machine

/-! ## Steps of the machine: firings, tokens and groups (05_actors.md, 14_traps.md) -/

namespace Sys2Proof.Machine

/-! ### Firings, handlers and the end of a launch (R129 to R136, R387 to R389) -/

theorem launchOf_setCtx (s : State) (g g' : AgentId) (x : Ctx) : (s.setCtx g x).launchOf g' = s.launchOf g' :=
  launchOf_congr (setCtx_parts ..) (setCtx_launches ..) (mgmt_fw_setCtx ..) g'

theorem tiles_modLaunchOf (s : State) (g : AgentId) (f : Launch → Launch) : (s.modLaunchOf g f).tiles = s.tiles := by
  cases g with
  | mgmt => rfl
  | tile t c => rw [State.modLaunchOf]; cases s.launchOf (.tile t c) <;> rfl

/-- A change of the launch that an agent runs, which leaves its name, changes what the agent runs. -/
theorem launchOf_modLaunchOf {s : State} {g : AgentId} {l : Launch} {f : Launch → Launch} (hl : s.launchOf g = some l)
    (hf : ∀ x, (f x).q = x.q ∧ (f x).c = x.c ∧ (f x).saved = x.saved) : (s.modLaunchOf g f).launchOf g = some (f l) := by
  cases g with
  | mgmt => exact (congrArg (Option.map f) hl : s.mgmt.fw.map f = _)
  | tile t c =>
    simp only [State.modLaunchOf, hl]
    simp only [State.launchOf] at hl ⊢
    cases hp : s.partOf (clusterOfTile t) with
    | none => rw [hp] at hl; exact absurd hl (by simp)
    | some p =>
      rw [hp] at hl
      have hp' : (s.modLaunch l.q l.c f).partOf (clusterOfTile t) = some p := hp
      rw [hp']
      simp only at hl
      have hsel : (l.q == l.q && l.c == l.c) = true := by rw [beq_self_eq_true, beq_self_eq_true]; rfl
      have hsame : ∀ x : Launch, ((fun y => y.q == p.q && y.c == c && !y.saved.contains t) ∘ fun y => if y.q == l.q && y.c == l.c then f y else y) x
          = (x.q == p.q && x.c == c && !x.saved.contains t) := fun x => by
        obtain ⟨hq, hc, hs⟩ := hf x
        simp only [Function.comp]
        split
        · rw [hq, hc, hs]
        · rfl
      simp only [State.modLaunch, List.find?_map, funext hsame, hl, Option.map_some, if_pos hsel]

/-- A fold that keeps one of two picks one of its list. -/
theorem foldl_pick_mem {α : Type} {f : Option α → α → Option α} (hf : ∀ o y, f o y = o ∨ f o y = some y) {xs : List α} {o : Option α}
    {x : α} (h : xs.foldl f o = some x) : o = some x ∨ x ∈ xs := by
  induction xs generalizing o with
  | nil => exact .inl h
  | cons y ys ih =>
    rcases ih h with hy | hy
    · rcases hf o y with ho | ho
      · exact .inl (ho ▸ hy)
      · exact .inr (List.mem_cons.mpr (.inl (Option.some.inj (ho.symm.trans hy)).symm))
    · exact .inr (List.mem_cons_of_mem _ hy)

/-- The actor that the scheduler picks is one of its launch's, and ready. -/
theorem pickInst_ready {s : State} {g : AgentId} {i : Inst} {l : Launch} (hl : s.launchOf g = some l) (hi : s.pickInst g = some i) :
    i.ready l = true := by
  simp only [State.pickInst, hl] at hi
  have hmem := foldl_pick_mem (fun o y => ?_) hi
  · rcases hmem with h | h
    · exact absurd h (Option.some_ne_none i).symm
    · exact (Bool.and_eq_true_iff.mp (List.mem_filter.mp h).2).2
  · cases o with
    | none => exact .inr rfl
    | some b =>
      by_cases hb : b.before y = true
      · exact .inl (congrArg some (if_pos hb))
      · exact .inr (congrArg some (if_neg hb))

/-- A bound slot of a ready actor offers its window or has room for its tokens (R129). -/
theorem ready_slot {i : Inst} {l : Launch} {n : Fin 16} {b : SlotBind} {e : Edge} (hr : i.ready l = true)
    (hb : bindEdge l (i.slots.get n) = some (b, e)) : (b.out = true → b.rate ≤ e.credits) ∧ (b.out = false → 0 < windowLen b.rate e) := by
  have hmem : (b, e) ∈ i.binds l := List.mem_filterMap.mpr ⟨n, List.mem_finRange n, hb⟩
  unfold Inst.ready at hr
  simp only [Bool.and_eq_true] at hr
  have h := List.all_eq_true.mp hr.2 _ hmem
  refine ⟨fun ho => ?_, fun ho => ?_⟩
  · rw [if_pos ho] at h; exact of_decide_eq_true h
  · rw [if_neg (ne_true_of_eq_false ho)] at h; exact of_decide_eq_true h

/-- A window that is not empty is the whole of its tokens, or a short one that ends the stream (R129). -/
theorem windowLen_pos {c : Nat} {e : Edge} (h : 0 < windowLen c e) :
    windowLen c e = (if c ≤ e.queue.length then c else e.queue.length)
      ∧ (e.queue.length < c → ∃ k, e.queue.getLast? = some k ∧ k.eos = true) := by
  unfold windowLen at h ⊢
  by_cases hc : c ≤ e.queue.length
  · rw [if_pos hc, if_pos hc]; exact ⟨rfl, fun hlt => absurd hc (Nat.not_le.mpr hlt)⟩
  · rw [if_neg hc] at h
    rw [if_neg hc, if_neg hc]
    cases hk : e.queue.getLast? with
    | none => rw [hk] at h; exact absurd h (Nat.lt_irrefl 0)
    | some k =>
      rw [hk] at h
      by_cases he : k.eos = true
      · exact ⟨if_pos he, fun _ => ⟨k, rfl, he⟩⟩
      · simp only [if_neg he] at h; exact absurd h (Nat.lt_irrefl 0)

theorem newSlots_get (i : Inst) (l : Launch) (n : Fin 16) : (newSlots i l).get n = match bindEdge l (i.slots.get n) with
    | some (b, e) => ⟨if b.out then 0 else windowLen b.rate e, 0, [], false⟩
    | none => ⟨0, 0, [], false⟩ := by
  rw [newSlots, Vector.get_eq_getElem, Vector.getElem_ofFn] <;> rfl

theorem startRegs_readS (c : Ctx) (i : Inst) (r : Fin 32) : (startRegs c i).readS r = if r = 1 then BitVec.ofNat 64 i.started
    else if r = 2 then BitVec.ofNat 64 i.num else if r = 3 then BitVec.ofNat 64 i.state else 0 := by
  unfold startRegs Ctx.readS
  have hz : (Vector.replicate 32 (0 : Word)).get r = 0 := by rw [Vector.get_eq_getElem, Vector.getElem_replicate]
  simp only [vset_get, hz]
  by_cases h0 : r = 0
  · subst h0; rfl
  · simp only [if_neg h0, eq_comm (a := (3 : Fin 32)), eq_comm (a := (2 : Fin 32)), eq_comm (a := (1 : Fin 32))]
    split_ifs <;> simp_all

theorem ctx_trapWrite (s : State) (g : AgentId) (off : Nat) (bs : List Byte) : (s.trapWrite g off bs).ctx g = s.ctx g := by
  cases g with
  | mgmt => exact writePa_keeps (p := fun s => s.ctx .mgmt) (fun _ _ _ _ => rfl) ..
  | tile t c => exact ctx_modTile_self rfl c

/-- The registers of a context whose handler fires (R387). -/
def handlerRegs (i : Inst) (c : Ctx) : Ctx :=
  let c1 := ((((c.writeS 28 c.trapbase false).writeS 29 (BitVec.ofNat 64 c.tcause) false).writeS 30
    (BitVec.ofNat 64 c.tdetail) false).writeS 31 (c.tpc.zeroExtend 64) false)
  { c1 with pc := i.entry, pcOver := false, phase := .inHandler, hIssued := 0, hInst := i.num,
            hSerial := c.serials + 1, serials := c.serials + 1 }

theorem handlerRegs_readS (i : Inst) (c : Ctx) (r : Fin 32) : (handlerRegs i c).readS r = if 31 = r then c.tpc.zeroExtend 64
    else if 30 = r then BitVec.ofNat 64 c.tdetail else if 29 = r then BitVec.ofNat 64 c.tcause else if 28 = r then c.trapbase
    else c.readS r := by
  show ((((c.writeS 28 c.trapbase false).writeS 29 (BitVec.ofNat 64 c.tcause) false).writeS 30
    (BitVec.ofNat 64 c.tdetail) false).writeS 31 (c.tpc.zeroExtend 64) false).readS r = _
  have h (n : Fin 32) (hn : n ≠ 0) : (n = r ∧ n ≠ 0) ↔ n = r := and_iff_left hn
  simp only [writeS_readS, h 31 (by decide), h 30 (by decide), h 29 (by decide), h 28 (by decide)]

theorem handlerRegs_frame (i : Inst) (c : Ctx) : (handlerRegs i c).p = c.p ∧ (handlerRegs i c).k = c.k ∧ (handlerRegs i c).v = c.v
    ∧ (handlerRegs i c).h = c.h ∧ (handlerRegs i c).firing = c.firing := by
  simp only [handlerRegs, writeS_p, writeS_k, writeS_v, writeS_h, writeS_firing, and_self]

/-- The state after a handler has fired. -/
def handlerFired (s : State) (g : AgentId) (i : Inst) : State :=
  ((s.trapWrite g 128 (saveBlock (s.ctx g))).modCtx g (handlerRegs i)).modLaunchOf g (fun l => l.modInst i.num (fun x =>
    { x with started := x.started + 1, lastFired := some ((s.ctx g).serials + 1) }))

theorem scratch_tile_modCtx (s : State) (t : Fin 256) (k : Fin 4) (f : Ctx → Ctx) :
    ((s.modCtx (.tile t k) f).tile t).scratch = (s.tile t).scratch := by rw [tile_modCtx_self]

theorem saveBlock_length (c : Ctx) : (saveBlock c).length = 33 := by
  simp only [saveBlock, List.length_append, List.length_flatMap, leBytes_length]; rfl

theorem tile_handlerFired (s : State) (t : Fin 256) (k : Fin 4) (i : Inst) : ((handlerFired s (.tile t k) i).tile t).scratch
    = (s.tile t).scratch.write ((s.ctx (.tile t k)).trapbase.toNat + 128) (saveBlock (s.ctx (.tile t k))) := by
  rw [handlerFired, State.tile, tiles_modLaunchOf]
  refine (scratch_tile_modCtx _ t k _).trans ?_
  rw [State.trapWrite, tile_modTile_self]

theorem mem_handlerFired (s : State) (g : AgentId) (i : Inst) :
    (handlerFired s g i).mem = (s.trapWrite g 128 (saveBlock (s.ctx g))).mem := by
  rw [handlerFired, mem_modLaunchOf, modCtx_mem]

/-- Settles O46. -/
theorem firingSteps : Obligations.FiringSteps := by
  intro g i l s hl
  refine ⟨fun hph hset hi => ?start, fun hb => ?budget, fun hph hsv hi => ?handler, fun hph hsv => ?waits, fun x c hg hph => ?ends,
    fun hg hph => ?resets⟩
  case start =>
    have hready := pickInst_ready hl hi
    refine ⟨startFiring s g i l, ?_, ?_⟩
    · rw [exec_firingStart, execFiringStart, if_pos (by rw [hset, Bool.and_true]; exact decide_eq_true hph)]
      simp only [hi, hl]
    · have hctx : (startFiring s g i l).ctx g = { startRegs (s.ctx g) i with
          pc := i.entry, pcOver := false, phase := .running, serials := (s.ctx g).serials + 1
          firing := some { inst := i.num, serial := (s.ctx g).serials + 1, issued := 0, slots := newSlots i l } } := by
        rw [startFiring, ctx_modLaunchOf, ctx_setCtx_self]
      rw [hctx]
      refine ⟨rfl, rfl, startRegs_readS (s.ctx g) i, rfl, fun r => ?_, fun r hr => ?_, rfl, rfl, ?_, ⟨_, rfl, rfl, rfl, rfl, fun n hb => ?_, fun n b e hb ho => ?_, fun n b e hb ho => ?_⟩, ?_⟩
      · simp [Ctx.readP, startRegs]
      · simp [Ctx.readK, startRegs, hr, Vector.get_eq_getElem]
      · exact launchOf_modLaunchOf ((launchOf_setCtx ..).trans hl) fun x => ⟨rfl, rfl, rfl⟩
      · rw [newSlots_get, hb]
      · have hw := windowLen_pos ((ready_slot hready hb).2 ho)
        rw [newSlots_get, hb]
        simp only [ho, Bool.false_eq_true, if_false]
        exact ⟨by rw [hw.1], hw.2⟩
      · rw [newSlots_get, hb]
        simp only [ho, if_true]
        exact ⟨trivial, (ready_slot hready hb).1 ho⟩
      · rw [startFiring, mem_modLaunchOf, setCtx_mem]
  case budget => rw [exec_firingBudgetExpiry, execFiringBudgetExpiry, if_pos hb]
  case handler =>
    intro c block
    have hctx : (handlerFired s g i).ctx g = handlerRegs i c := by
      rw [handlerFired, ctx_modLaunchOf, ctx_modCtx_self, ctx_trapWrite]
    refine ⟨handlerFired s g i, (exec_handlerFiring ..).trans ((if_pos (by rw [hsv, Bool.not_false, Bool.and_true]; exact decide_eq_true hph)).trans (by rw [hi]; rfl)), ?_⟩
    rw [hctx]
    refine ⟨rfl, rfl, handlerRegs_readS i c 28, handlerRegs_readS i c 29, handlerRegs_readS i c 30, handlerRegs_readS i c 31,
      fun r hr => ?_, ?_⟩
    · have hne : ∀ n : Fin 32, 28 ≤ n.val → n ≠ r := fun n hn h => absurd (h ▸ hn) (Nat.not_le.mpr hr)
      rw [handlerRegs_readS, if_neg (hne 31 (by decide)), if_neg (hne 30 (by decide)), if_neg (hne 29 (by decide)), if_neg (hne 28 (by decide))]
    · obtain ⟨hp, hk, hv, hh, hf⟩ := handlerRegs_frame i c
      refine ⟨hp, hk, hv, hh, hf, fun x k hg => ?_, fun hg => ?_⟩
      · subst hg
        exact ⟨tile_handlerFired .., mem_handlerFired ..⟩
      · subst hg
        rw [mem_handlerFired, State.trapWrite, saveBlock_length]; rfl
  case waits => rw [exec_handlerFiring, execHandlerFiring, hsv, Bool.not_true, Bool.and_false, if_neg Bool.false_ne_true]
  case ends =>
    subst hg
    simp only [exec_nonDelegatedTrap, execNonDelegatedTrap, if_pos hph, hl]
  case resets =>
    subst hg
    refine ⟨_, (exec_nonDelegatedTrap ..).trans (if_pos hph), rfl, rfl, rfl, fun q => ?_, rfl, rfl⟩
    simp only [Vector.get_eq_getElem, Vector.getElem_map]

/-! ### Tokens and credits (R126, R127, R164, R286, R318, R369, R425) -/

/-- A change of a launch that keeps its name, seen through that name. -/
theorem find_modLaunch {s : State} {q : Fin 32} {c : Fin 4} {l : Launch} {f : Launch → Launch}
    (hl : s.launches.find? (fun l => l.q == q && l.c == c) = some l) (hf : ∀ x, (f x).q = x.q ∧ (f x).c = x.c) :
    (s.modLaunch q c f).launches.find? (fun l => l.q == q && l.c == c) = some (f l) := by
  have hsame : ∀ x : Launch, ((fun l : Launch => l.q == q && l.c == c) ∘ fun l => if l.q == q && l.c == c then f l else l) x
      = (x.q == q && x.c == c) := fun x => by
    obtain ⟨hq, hc⟩ := hf x
    simp only [Function.comp]
    split
    · rw [hq, hc]
    · rfl
  simp only [State.modLaunch, List.find?_map, funext hsame, hl, Option.map_some, if_pos (List.find?_some hl)]

theorem comeOff_cons {e : Edge} {k : Token} {ks : List Token} (h : e.inflight = k :: ks) :
    comeOff e = { e with inflight := offNet (e.way.map (fun w => w.1)) e.tokSize k :: ks } := by rw [comeOff, h]

theorem comeOff_num (e : Edge) : (comeOff e).num = e.num := by unfold comeOff; split <;> rfl

theorem offNet_tag (net : Option (Fin 3)) (n : Nat) (t : Token) : (offNet net n t).tag = t.tag := by
  unfold offNet; split <;> rfl

/-- The token that comes off its network is counted, or discarded for its tag (R127). -/
theorem arriveToken_comeOff {e : Edge} {k : Token} {ks : List Token} (c : Fin 4) (h : e.inflight = k :: ks) :
    arriveToken c (comeOff e) = { e with
      inflight := ks
      queue := if k.tag = c then e.queue ++ [offNet (e.way.map (fun w => w.1)) e.tokSize k] else e.queue } := by
  simp only [comeOff_cons h, arriveToken, offNet_tag]

theorem firkinSlot_modEdge (l : Launch) (n : Nat) (f : Edge → Edge) {e e' : Edge} (hd : e'.dst = e.dst) (hb : e'.base = e.base)
    (ha : e'.arrived = e.arrived) (hp : e'.depth = e.depth) (ht : e'.tokSize = e.tokSize) :
    (l.modEdge n f).firkinSlot e' = l.firkinSlot e := by
  simp only [Launch.firkinSlot, Launch.modEdge, Launch.inst, hd, hb, ha, hp, ht]

theorem endpointUnit_modEdge (s : State) (l : Launch) (n : Nat) (f : Edge → Edge) (x : Endpoint) :
    endpointUnit s (l.modEdge n f) x = endpointUnit s l x := by cases x <;> rfl

/-- A firkin's slot is an actor's, whose end of the edge the error log names. -/
theorem endpointUnit_firkin {s : State} {l : Launch} {e : Edge} {x : Fin 256} {a : Nat} (h : l.firkinSlot e = some (x, a)) :
    endpointUnit s l e.dst = some (5, x.val, dieOfTile x) := by
  unfold Launch.firkinSlot at h
  cases hd : e.dst with
  | actor i n =>
    simp only [hd] at h
    cases hi : l.inst i with
    | none => simp [hi] at h
    | some y =>
      cases hb : e.base with
      | none => simp [hi, hb] at h
      | some b =>
        simp only [hi, hb, Option.some.injEq, Prod.mk.injEq] at h
        rw [← h.1, endpointUnit, hi]; rfl
  | region r n => simp [hd] at h
  | stream t c n => simp [hd] at h
  | template t c n => simp [hd] at h
  | push n k => simp [hd] at h
  | link k v => simp [hd] at h

/-- The state in which the oldest token of an edge is off its network and counted, or discarded. -/
def tokenTaken (s : State) (q : Fin 32) (c : Fin 4) (n : Nat) : State :=
  (s.modLaunch q c (fun l => l.modEdge n comeOff)).modLaunch q c (fun l => l.modEdge n (arriveToken c))

/-- What the delivery of a token comes to (R127). -/
theorem deliverToken_cons {s : State} {q : Fin 32} {c : Fin 4} {n : Nat} {l : Launch} {e : Edge} {k : Token} {ks : List Token}
    (hl : s.launches.find? (fun l => l.q == q && l.c == c) = some l) (he : l.edge n = some e) (hk : e.inflight = k :: ks) :
    deliverToken s q c n = match endpointUnit s l e.dst with
      | some (src, unit, d) =>
        if k.tag = c then
          enterFirkin (tokenTaken s q c n) (l.modEdge n comeOff) (comeOff e) (offNet (e.way.map (fun w => w.1)) e.tokSize k)
        else (tokenTaken s q c n).logError d src 2 unit 0 (k.tag.val + 4 * c.val)
      | none => tokenTaken s q c n := by
  have hl' := find_modLaunch (f := fun l => l.modEdge n comeOff) hl fun x => ⟨rfl, rfl⟩
  have he' : (l.modEdge n comeOff).edge n = some (comeOff e) := edge_modEdge_self comeOff_num he
  have hin : (comeOff e).inflight = offNet (e.way.map (fun w => w.1)) e.tokSize k :: ks := by rw [comeOff_cons hk]
  have hdst : (comeOff e).dst = e.dst := by rw [comeOff_cons hk]
  simp only [deliverToken, hl', he', hin, hdst, endpointUnit_modEdge]
  cases endpointUnit s l e.dst with
  | none => rfl
  | some x =>
    obtain ⟨src, unit, d⟩ := x
    simp only [offNet_tag]
    rfl

/-- A token enters a firkin. -/
theorem enterFirkin_some {u : State} {l : Launch} {e : Edge} {x : Fin 256} {a : Nat} (h : l.firkinSlot e = some (x, a)) (k : Token) :
    enterFirkin u l e k = (u.modTile x (fun y => { y with
      scratch := y.scratch.writeMasked a (leBytes e.tokSize k.bits.toNat) (List.replicate e.tokSize true) })).modLaunch
        l.q l.c (fun x => x.modEdge e.num (fun e => { e with arrived := e.arrived + 1 })) := by rw [enterFirkin, h]

theorem scratch_modTile (u : State) (x : Fin 256) (f : Memory → Memory) :
    ((u.modTile x (fun y => { y with scratch := f y.scratch })).tile x).scratch = f (u.tile x).scratch := by rw [tile_modTile_self]

theorem linkNext_none {s : State} {l : Launch} {e : Edge} (h : e.src.port? = none) : s.linkNext l e = none := by
  rw [State.linkNext, h]

/-- TOKEN_ARRIVAL of an edge that the boxes carry and whose port does not hold. -/
theorem tokenArrival_moves {s : State} {q : Fin 32} {c : Fin 4} {n : Nat} {l : Launch} {e : Edge}
    (hl : s.launches.find? (fun l => l.q == q && l.c == c) = some l) (he : l.edge n = some e)
    (hm : s.carries l e = true ∧ edgeStalls s l e = false) :
    exec (.tokenArrival q c n) s
      = (let s1 := match s.linkNext l e with
          | some t => s.modLaunch q c (fun l => l.modEdge n (fun e => e.comeOver t))
          | none => s
        match e.dst.port? with
        | some (k, _) => .next (if s.linkCarries k then s1.modLaunch q c (fun l => l.modEdge n Edge.leaveOver) else s1)
        | none => .next (deliverToken s1 q c n)) := by
  simp only [exec_tokenArrival, execTokenArrival, hl, he, hm.1, hm.2, Bool.not_true, Bool.or_self, Bool.false_eq_true, if_false] <;> rfl

theorem creditBack_near {s : State} {e : Edge} (h : e.dst.port? = none) :
    s.creditBack e = { e with credits := e.credits + e.returning, returning := 0 } := by
  simp only [State.creditBack, h, Nat.sub_self]

/-- CREDIT_RETURN of an edge whose consumer is in this package. -/
theorem creditReturn_near {s : State} {q : Fin 32} {c : Fin 4} {n : Nat} {l : Launch} {e : Edge}
    (hl : s.launches.find? (fun l => l.q == q && l.c == c) = some l) (he : l.edge n = some e) :
    exec (.creditReturn q c n) s = .next (match e.src with
      | .region r _ => flushPorts (s.modLaunch q c (fun l => l.modEdge n s.creditBack)) r
      | .stream _ _ _ => pushConvTokens (s.modLaunch q c (fun l => l.modEdge n s.creditBack))
      | _ => s.modLaunch q c (fun l => l.modEdge n s.creditBack)) := by
  have hl' := find_modLaunch (f := fun l => l.modEdge n s.creditBack) hl fun x => ⟨rfl, rfl⟩
  have he' : (l.modEdge n s.creditBack).edge n = some (s.creditBack e) := edge_modEdge_self (fun _ => rfl) he
  have hsrc : (s.creditBack e).src = e.src := rfl
  simp only [exec_creditReturn, execCreditReturn, hl', he', hsrc] <;> rfl

/-! ### Group objects (R167 to R172) -/

/-- GROUP_OPERATION of a request whose earlier accesses are performed. -/
theorem groupOperation_next {g : AgentId} {n : Nat} {r : GroupReq} {s : State} (hn : nextGroupReq (s.ctx g) = some (n, r))
    (ha : r.op.arrival = true → olderStore (s.ctx g) r.by_.order = false ∧ olderAccess (s.ctx g) r.by_.order = false) :
    exec (.groupOperation g) s = match s.groupOf g r.gid with
      | none => .next (s.modCtx g (fun c => { c with groups := c.groups.set n { r with stage := 1, err := 1 } }))
      | some o => .next ((s.setGroup (o.apply r.op).1).modCtx g (fun c => { c with
          groups := c.groups.set n { r with stage := 1, value := (o.apply r.op).2.1, phase := (o.apply r.op).2.2.1, err := (o.apply r.op).2.2.2 } })) := by
  have h1 : (r.op.arrival && olderStore (s.ctx g) r.by_.order) = false := by
    cases hr : r.op.arrival with
    | false => rfl
    | true => exact (ha hr).1
  have h2 : (r.op.arrival && olderAccess (s.ctx g) r.by_.order) = false := by
    cases hr : r.op.arrival with
    | false => rfl
    | true => exact (ha hr).2
  simp only [exec_groupOperation, execGroupOperation, hn, h1, h2, Bool.false_eq_true, if_false] <;> rfl

section
variable {g : AgentId} {n : Nat} {r : GroupReq} {s : State} (hg : (s.ctx g).groups[n]? = some r)
include hg

theorem groupResponse_error (hst : r.stage ≠ 0) (he : r.err ≠ 0) : exec (.groupResponse g n) s
    = .next ((s.modCtx g (fun c => { c with groups := c.groups.eraseIdx n })).modCtx g
        (fun c => c.recordOwed ⟨0x11, r.gid % 2 ^ 16 + r.err * 2 ^ 16, 0, r.by_, .next r.sq⟩)) := by
  have hd : groupDone s g r = true := if_pos he
  simp only [exec_groupResponse, execGroupResponse, hg, if_neg hst, hd, if_true, if_pos he]

theorem groupResponse_done (hst : r.stage ≠ 0) (he : r.err = 0) (hd : groupDone s g r = true) : exec (.groupResponse g n) s
    = .next (((s.modCtx g (fun c => { c with groups := c.groups.eraseIdx n })).modCtx g
        (fun c => if r.stage = 2 then c else c.writeDst r.dst (groupValue s g r))).signalOpt g r.sq) := by
  simp only [exec_groupResponse, execGroupResponse, hg, if_neg hst, hd, if_true, if_neg (not_not.mpr he)]

theorem groupResponse_waits (hd : groupDone s g r = false) (hb : ¬(r.op = .bar ∧ r.stage = 1)) : exec (.groupResponse g n) s = .next s := by
  simp only [exec_groupResponse, execGroupResponse, hg, hd, Bool.false_eq_true, if_false, if_neg hb, ite_self]

theorem groupResponse_phase (hst : r.stage = 1) (hd : groupDone s g r = false) (hb : r.op = .bar) : exec (.groupResponse g n) s
    = .next (s.modCtx g (fun c => { (c.writeDst r.dst r.value) with groups := c.groups.set n { r with stage := 2 } })) := by
  have hst' : ¬ r.stage = 0 := by rw [hst]; decide
  simp only [exec_groupResponse, execGroupResponse, hg, if_neg hst', hd, Bool.false_eq_true, if_false, if_pos (And.intro hb hst)]
  rfl

end

/-- Settles O47. -/
theorem edgeQueueAndGroupSteps : Obligations.EdgeQueueAndGroupSteps := by
  refine ⟨fun q c n t tq l e s hl he => ?edges, fun g n r s => ?groups⟩
  case edges =>
    intro put moves taken
    refine ⟨fun hm => ?still, fun k ks hm hsrc hdst hk => ?arrives, fun k v hm hsrc hdst => ?comes, fun k v hm hsrc hdst => ?leaves,
      fun hdst => ⟨creditBack_near hdst, creditReturn_near hl he⟩, rfl, fun hp htq => ?pending⟩
    case still =>
      have hm' : (!s.carries l e || edgeStalls s l e) = true := by
        cases hc : s.carries l e
        · rfl
        · cases hs : edgeStalls s l e
          · exact absurd ⟨hc, hs⟩ hm
          · rfl
      simp only [exec_tokenArrival, execTokenArrival, hl, he, hm', if_true]
    case arrives =>
      have hexec : exec (.tokenArrival q c n) s = .next (deliverToken s q c n) := by
        rw [tokenArrival_moves hl he hm, linkNext_none hsrc, hdst]
      intro k'
      have hfirkin : (l.modEdge n comeOff).firkinSlot (comeOff e) = l.firkinSlot e := by
        rw [comeOff_cons hk]; exact firkinSlot_modEdge l n comeOff rfl rfl rfl rfl rfl
      refine ⟨arriveToken_comeOff c hk, fun ht hf => ?none, fun ht x a hf => ?firkin, fun ht src unit d hu => ?discarded⟩
      case none =>
        rw [hexec, deliverToken_cons hl he hk]
        cases endpointUnit s l e.dst with
        | none => rfl
        | some x =>
          obtain ⟨src, unit, d⟩ := x
          dsimp only
          rw [if_pos ht, enterFirkin, hfirkin, hf]; rfl
      case firkin =>
        refine ⟨_, hexec, ?_⟩
        rw [deliverToken_cons hl he hk, endpointUnit_firkin hf]
        dsimp only
        rw [if_pos ht, enterFirkin_some (hfirkin.trans hf)]
        have htok : (comeOff e).tokSize = e.tokSize := by rw [comeOff_cons hk]
        rw [htok, comeOff_num]
        refine ⟨?_, rfl, rfl⟩
        exact scratch_modTile (tokenTaken s q c n) x fun m =>
          m.writeMasked a (leBytes e.tokSize (offNet (e.way.map (fun w => w.1)) e.tokSize k).bits.toNat) (List.replicate e.tokSize true)
      case discarded =>
        rw [hexec, deliverToken_cons hl he hk, hu]
        dsimp only
        rw [if_neg ht]; rfl
    case comes =>
      refine ⟨?_, fun tok => rfl, fun h => ?_⟩
      · rw [tokenArrival_moves hl he hm, hdst] <;> rfl
      · simp only [State.linkNext, hsrc]
        rcases h with h | h <;> simp [h]
    case leaves =>
      refine ⟨fun hc => ?_, fun hc => ⟨?_, fun x xs hx => ?_⟩⟩
      · rw [tokenArrival_moves hl he hm, linkNext_none hsrc, hdst]
        exact congrArg Host.Outcome.next (if_neg (ne_true_of_eq_false hc))
      · rw [tokenArrival_moves hl he hm, linkNext_none hsrc, hdst]
        exact congrArg Host.Outcome.next (if_pos hc)
      · rw [Edge.leaveOver, hx]; rfl
    case pending => exact (exec_tqPendingSignal ..).trans (if_pos ⟨hp, htq⟩)
  case groups =>
    refine ⟨fun hn ha => ⟨fun ho => ?unbound, fun o ho => ?applied⟩, fun hg hst => ?answered, fun hg hst he hb => ?phase⟩
    case unbound => rw [groupOperation_next hn ha, ho]
    case applied => rw [groupOperation_next hn ha, ho]
    case answered =>
      have hst0 : r.stage ≠ 0 := by rw [hst]; decide
      have hst2 : ¬ r.stage = 2 := by rw [hst]; decide
      refine ⟨fun he => groupResponse_error hg hst0 he, fun he hd => (groupResponse_done hg hst0 he hd).trans ?_,
        fun he hd hb => groupResponse_waits hg hd fun h => hb h.1, fun he hd hb => groupResponse_phase hg hst hd hb⟩
      simp only [if_neg hst2]; rfl
    case phase =>
      have hst1 : ¬(r.op = .bar ∧ r.stage = 1) := fun h => absurd (hst.symm.trans h.2) (by decide)
      cases hd : groupDone s g r with
      | true =>
        rw [groupResponse_done hg (by rw [hst]; decide) he hd]
        simp only [if_pos hst]
        rw [modCtx_self rfl]; rfl
      | false => exact groupResponse_waits hg hd hst1

end Sys2Proof.Machine

/-! ## Steps of the machine: host, keys, partitions, power (15_host_security.md, 16_memory_power.md) -/

namespace Sys2Proof.Machine

/-! ### Readiness and reset (R418, R419, R432, R439, R441) -/

/-- Settles O57. -/
theorem readinessAndReset : Obligations.ReadinessAndReset := by
  intro i g r k s
  refine ⟨?ready, rfl, ?reset⟩
  case ready =>
    intro ready
    have hpf : ∀ {u : ReadyUnit} {p q : Pf0}, exec (.functionReady u) s = .next { s with pf := p } → p = q → ready u q := fun he hp => hp ▸ he
    refine ⟨fun h => hpf rfl (if_pos h), fun h => hpf rfl (if_neg (ne_true_of_eq_false h)), fun h => hpf rfl (if_pos h),
      fun h => hpf rfl (if_neg (ne_true_of_eq_false h)), fun h hp => hpf rfl (if_pos ?_), fun h => hpf rfl (if_neg ?_),
      fun h => hpf rfl (if_pos ?_), fun h hk => hpf rfl (if_neg ?_)⟩
    · rw [h, hp] <;> rfl
    · rcases h with h | h
      · rw [h]; exact Bool.false_ne_true
      · rw [h, Bool.and_false]; exact Bool.false_ne_true
    · rcases h with h | h
      · rw [h] <;> rfl
      · rw [decide_eq_true h, Bool.or_true]
    · rw [h, decide_eq_false (Nat.not_le.mpr hk)]; exact Bool.false_ne_true
  case reset =>
    refine ⟨_, rfl, rfl, fun t => ?_⟩
    rw [Vector.get_eq_getElem, Vector.getElem_ofFn] <;> rfl

/-! ### SPDM answers and key slots (R419 to R422) -/

theorem modSpdm_modSpdm (s : State) (f : PciFn) (g h : Spdm → Spdm) : (s.modSpdm f g).modSpdm f h = s.modSpdm f (fun x => h (g x)) := by
  simp only [State.modSpdm, State.responder, vset_self, vset_vset]

/-- A signed answer of the key that x has ready (R419). -/
theorem signedAnswer_ready {s : State} {x : Leaves} (h : s.leaves.ready = some x) {f : PciFn} {code index : Nat} {nonce : BitVec 256}
    {g : Spdm → Spdm} {k : State → State} (hk : k { s with leaves := x.sign } = State.modSpdm { s with leaves := x.sign } f g) :
    signedAnswer s f code index nonce k = State.modSpdm { s with leaves := x.sign } f (fun y => { g y with
      sig := Config.spdmSign (Config.aliasKey s.root x.number) x.alNext (fnIndex f).val code index nonce }) := by
  simp only [signedAnswer, withAlias, h]
  rw [hk, modSpdm_modSpdm]

theorem signedAnswer_spent {s : State} (h : s.leaves.ready = none) (f : PciFn) (code index : Nat) (nonce : BitVec 256)
    (k : State → State) : signedAnswer s f code index nonce k = s.answer f .unspecified := by rw [signedAnswer, withAlias, h]

section
variable (s : State) (q : Fin 32) (a : Answer) (ks : List Key)
theorem answerVf_keys : (s.answerVf q a).keys = s.keys := rfl
theorem answerVf_mem : (s.answerVf q a).mem = s.mem := rfl
theorem answerVf_erasing : (s.answerVf q a).erasing = s.erasing := rfl
theorem answerVf_answer : ((s.answerVf q a).responder (.vf q)).answer = a := by
  rw [State.responder, State.answerVf]; exact congrArg Spdm.answer (vset_self ..)
theorem leaveSlices_keys : (leaveSlices s ks).keys = s.keys := by rw [leaveSlices]
theorem leaveSlices_mem : (leaveSlices s ks).mem = s.mem := by rw [leaveSlices]
theorem leaveSlices_erasing : (leaveSlices s ks).erasing = s.erasing := by rw [leaveSlices]
end

/-- Settles O58. -/
theorem attestationAndKeys : Obligations.AttestationAndKeys := by
  refine ⟨fun r ix s => ?spdm, fun q slot hv wr p s hses hp => ?keys⟩
  case spdm =>
    intro f x lv next put res ready refused
    have hready : ready = s.leaves.ready := rfl
    rw [hready]
    refine ⟨rfl, rfl, rfl, rfl, fun l hl => ?signed, fun hl => ?spent, fun hi => ?index, fun h => ?exchange, fun h => ?finish, fun h => ?unfinished,
      fun h => ?opened, fun h => ?closed, rfl⟩
    case signed =>
      intro key chain signed sig
      have hsign : ∀ (code index : Nat) (k : State → State) (g : Spdm → Spdm),
          k signed = signed.modSpdm f g → (Host.Outcome.next (signedAnswer s f code index r.nonce k) : Out)
            = next signed (fun y => { g y with sig := sig code index }) :=
        fun _ _ _ _ hk => congrArg Host.Outcome.next (signedAnswer_ready hl hk)
      have hmeas : ∀ (n : Nat) (a : Answer), measurementOf signed f n = a → 0 < n → n ≤ 4 → exec (.getMeasurements r n) s
          = next signed (fun y => { y with answer := a, sig := sig 1 n }) := fun n a ha h1 h4 =>
        (exec_getMeasurements ..).trans ((if_neg (by omega)).trans
          (hsign 1 n _ (fun y => { y with answer := a }) (congrArg (signed.answer f) ha)))
      refine ⟨?_, ?_, hsign 0 0 _ (fun y => { y with answer := .digest (Config.chainHash chain) }) rfl, fun hid halg => ?_, fun h1 h3 => ?_, fun hf => ?_,
        fun q p hf hp => ?_⟩
      · simp only [exec_getDigests, execGetDigests, withAlias, hl]; rfl
      · simp only [exec_getCertificate, execGetCertificate, withAlias, hl]; rfl
      · refine (exec_keyExchange ..).trans ((if_neg ?_).trans (hsign 2 0 _
          (fun y => { y with session := 1, number := y.number + 1, updates := 0, answer := .ok }) rfl))
        rw [halg, decide_eq_false (show ¬leafCount ≤ s.leaves.idNext from Nat.not_le.mpr hid)]; exact Bool.false_ne_true
      · exact hmeas ix _ (if_pos (by omega)) h1 (by omega)
      · refine hmeas 4 _ ((if_neg (by decide)).trans ?_) (by decide) (by decide)
        rw [hf]
      · refine hmeas 4 _ ((if_neg (by decide)).trans ?_) (by decide) (by decide)
        rw [hf]
        have hp' : signed.part q = some p := hp
        simp only [hp']
        rfl
    case spent =>
      refine ⟨?_, ?_, ?_, fun h1 h4 => ?_⟩
      · simp only [refused, exec_getDigests, execGetDigests, withAlias, hl]; rfl
      · simp only [refused, exec_getCertificate, execGetCertificate, withAlias, hl]; rfl
      · exact congrArg Host.Outcome.next (signedAnswer_spent hl ..)
      · exact (exec_getMeasurements ..).trans ((if_neg (by omega)).trans (congrArg Host.Outcome.next (signedAnswer_spent hl ..)))
    case index => exact (exec_getMeasurements ..).trans (if_pos hi)
    case exchange =>
      refine (exec_keyExchange ..).trans (if_pos ?_)
      rcases h with h | h
      · rw [decide_eq_true (show leafCount ≤ s.leaves.idNext from h)] <;> rfl
      · rw [show (s.responder r.f).algs = false from h, Bool.not_false, Bool.or_true]
    case finish => exact congrArg Host.Outcome.next (if_pos h)
    case unfinished => exact congrArg Host.Outcome.next (if_neg h)
    case opened =>
      exact ⟨congrArg Host.Outcome.next (if_pos h), congrArg Host.Outcome.next (if_pos h), congrArg Host.Outcome.next (if_pos h)⟩
    case closed =>
      exact ⟨congrArg Host.Outcome.next (if_neg h), congrArg Host.Outcome.next (if_neg h), congrArg Host.Outcome.next (if_neg h)⟩
  case keys =>
    intro st held load erase number busy
    have hreq : ∀ k, keyRequest s q slot k = if p.keys.contains slot then k () else s.answerVf q (.status 1) := fun k => by
      rw [keyRequest, if_neg (not_not.mpr hses), hp]
    refine ⟨fun hk => ?foreign, fun hk hb => ?waits, fun hk hb => ?mine⟩
    case foreign =>
      have hno : ∀ k, keyRequest s q slot k = s.answerVf q (.status 1) := fun k => (hreq k).trans (if_neg (ne_true_of_eq_false hk))
      exact ⟨congrArg Host.Outcome.next (hno _), congrArg Host.Outcome.next (hno _), congrArg Host.Outcome.next (hno _)⟩
    case waits =>
      have hyes : ∀ k, keyRequest s q slot k = k () := fun k => (hreq k).trans (if_pos hk)
      refine ⟨congrArg Host.Outcome.next ((hyes _).trans (if_pos hb)), congrArg Host.Outcome.next ((hyes _).trans ?_)⟩
      rw [show s.slotBusy slot = true from hb] <;> rfl
    case mine =>
      have hyes : ∀ k, keyRequest s q slot k = k () := fun k => (hreq k).trans (if_pos hk)
      have hnb : s.slotBusy slot = false := hb
      refine ⟨fun hh => ?held, fun hh => ⟨?load, ?erase, ?stat⟩, fun k hh => ⟨?loadedStat, ?loadedErase⟩⟩
      case held =>
        refine congrArg Host.Outcome.next ((hyes _).trans ((if_neg (ne_true_of_eq_false hnb)).trans (if_pos ?_)))
        exact Option.isSome_iff_ne_none.mpr hh
      case load =>
        have hl : (s.loaded slot).isSome = false := Option.isSome_eq_false_iff.mpr (Option.isNone_iff_eq_none.mpr hh)
        refine (congrArg Host.Outcome.next ((hyes _).trans ((if_neg (ne_true_of_eq_false hnb)).trans
          (if_neg (ne_true_of_eq_false hl))))).trans ?_
        show (Host.Outcome.next (match Config.unwrapKey q.val number wr with
          | none => s.answerVf q (.status 3)
          | some k => ({ s with keys := s.keys ++ [(⟨slot, k, hv⟩ : KeySlot)] } : State).answerVf q (.status 0)) : Out) = _
        generalize Config.unwrapKey q.val number wr = o
        cases o <;> rfl
      case erase =>
        have hstep : stepKeyJob s (.erase q slot none [] true) = (s.answerVf q (.status 0), none) := by
          rw [stepKeyJob, if_neg (by exact Bool.false_ne_true), show s.loaded slot = none from hh] <;> rfl
        refine (congrArg Host.Outcome.next (hyes _)).trans ?_
        rw [if_neg (ne_true_of_eq_false hnb), hstep] <;> rfl
      case stat =>
        refine (congrArg Host.Outcome.next (hyes _)).trans ?_
        rw [show s.loaded slot = none from hh] <;> rfl
      case loadedStat =>
        refine (congrArg Host.Outcome.next (hyes _)).trans ?_
        rw [show s.loaded slot = some k from hh] <;> rfl
      case loadedErase =>
        have hstep : stepKeyJob s (.erase q slot none [] true) = finishErase (clearSlots s [slot]) q slot k.key true := by
          rw [stepKeyJob, if_neg (by exact Bool.false_ne_true), show s.loaded slot = some k from hh]
        have huse : keyInUse (clearSlots s [slot]) k.key = keyInUse s k.key := rfl
        have hkeys : (clearSlots s [slot]).keys = s.keys.filter (fun x => x.slot != slot) :=
          List.filter_congr fun x _ => by rw [List.contains_cons, List.contains_nil, Bool.or_false] <;> rfl
        have herase : erase = .next (match (finishErase (clearSlots s [slot]) q slot k.key true).2 with
            | none => (finishErase (clearSlots s [slot]) q slot k.key true).1
            | some j => ({ (finishErase (clearSlots s [slot]) q slot k.key true).1 with
                erasing := (finishErase (clearSlots s [slot]) q slot k.key true).1.erasing ++ [j] } : State).answerVf q .none) := by
          refine (congrArg Host.Outcome.next (hyes _)).trans ?_
          rw [if_neg (ne_true_of_eq_false hnb), hstep] <;> rfl
        cases hu : keyInUse s k.key with
        | false =>
          have hfin : finishErase (clearSlots s [slot]) q slot k.key true
              = ((leaveSlices (clearSlots s [slot]) [k.key]).answerVf q (.status 0), none) := by
            rw [finishErase, huse, hu] <;> rfl
          simp only [hfin] at herase
          exact ⟨_, herase, (answerVf_keys ..).trans ((leaveSlices_keys ..).trans hkeys), (answerVf_mem ..).trans (leaveSlices_mem ..),
            fun _ => ⟨answerVf_answer .., (answerVf_erasing ..).trans (leaveSlices_erasing ..)⟩, fun h => absurd h Bool.false_ne_true⟩
        | true =>
          have hfin : finishErase (clearSlots s [slot]) q slot k.key true
              = (clearSlots s [slot], some (.erase q slot (some k.key) [] true)) := by
            rw [finishErase, huse, hu] <;> rfl
          simp only [hfin] at herase
          exact ⟨_, herase, (answerVf_keys ..).trans hkeys, answerVf_mem .., fun h => absurd h.symm Bool.false_ne_true,
            fun _ => ⟨answerVf_answer .., answerVf_erasing ..⟩⟩

end Sys2Proof.Machine

/-! ## Launches that end, errors, links and hangs -/

namespace Sys2Proof.Machine

/-! ### Launches that end (R138, R388) -/

/-- A launch that ends keeps the first ending. -/
def Launch.endedWith (l : Launch) (e : Nat × Nat × Nat) : Launch := if l.ending.isSome then l else { l with ending := some e }

theorem endedWith_q (l : Launch) (e : Nat × Nat × Nat) : (l.endedWith e).q = l.q := by unfold Launch.endedWith; split <;> rfl
theorem endedWith_c (l : Launch) (e : Nat × Nat × Nat) : (l.endedWith e).c = l.c := by unfold Launch.endedWith; split <;> rfl
theorem endedWith_id (l : Launch) (e : Nat × Nat × Nat) : (l.endedWith e).id = l.id := by unfold Launch.endedWith; split <;> rfl
theorem endedWith_vcs (l : Launch) (e : Nat × Nat × Nat) : (l.endedWith e).vcs = l.vcs := by unfold Launch.endedWith; split <;> rfl
theorem endedWith_isSome (l : Launch) (e : Nat × Nat × Nat) : (l.endedWith e).ending.isSome = true := by
  unfold Launch.endedWith
  split
  · assumption
  · rfl
theorem endedWith_none {l : Launch} (h : l.ending = none) (e : Nat × Nat × Nat) : l.endedWith e = { l with ending := some e } := by
  rw [Launch.endedWith, h] <;> rfl
theorem endedWith_twice (l : Launch) (e f : Nat × Nat × Nat) : (l.endedWith e).endedWith f = l.endedWith e := if_pos (endedWith_isSome l e)

/-- The end of a launch stops its contexts and marks it; nothing else changes. -/
theorem endLaunch_eq (s : State) (q : Fin 32) (c : Fin 4) (a b d : Nat) : ∃ tl, endLaunch s q c a b d
    = { s with tiles := tl, launches := s.launches.map (fun l => if l.q == q && l.c == c then l.endedWith (a, b, d) else l) } := by
  unfold endLaunch stopContexts
  split
  · exact ⟨_, rfl⟩
  · exact ⟨_, rfl⟩

/-- Launches that end one after the other. -/
theorem foldl_endLaunch {α : Type} (fq : α → Fin 32) (fc : α → Fin 4) (e : Nat × Nat × Nat) (xs : List α) (s : State) :
    ∃ tl, xs.foldl (fun s x => endLaunch s (fq x) (fc x) e.1 e.2.1 e.2.2) s = { s with
      tiles := tl
      launches := s.launches.map (fun l => if xs.any (fun x => l.q == fq x && l.c == fc x) then l.endedWith e else l) } := by
  induction xs generalizing s with
  | nil => exact ⟨s.tiles, by simp⟩
  | cons x xs ih =>
    obtain ⟨t1, h1⟩ := endLaunch_eq s (fq x) (fc x) e.1 e.2.1 e.2.2
    obtain ⟨t2, h2⟩ := ih (endLaunch s (fq x) (fc x) e.1 e.2.1 e.2.2)
    refine ⟨t2, ?_⟩
    rw [List.foldl_cons, h2, h1]
    refine congrArg (fun ls => { s with tiles := t2, launches := ls }) ?_
    rw [List.map_map]
    refine List.map_congr_left fun l _ => ?_
    cases hx : (l.q == fq x && l.c == fc x) with
    | true =>
      simp only [Function.comp, hx, if_true, List.any_cons, Bool.true_or, endedWith_q, endedWith_c, endedWith_twice, ite_self]
    | false => simp only [Function.comp, hx, Bool.false_eq_true, if_false, List.any_cons, Bool.false_or]

/-! ### Steps that change units only -/

/-- The step changes contexts, tiles, clusters and dies only. -/
def UnitStep (s t : State) : Prop :=
  ∃ ts mc cl ds, t = { s with tiles := ts, mgmt := { s.mgmt with ctx := mc }, clusters := cl, dies := ds }

theorem UnitStep.refl (s : State) : UnitStep s s := ⟨s.tiles, s.mgmt.ctx, s.clusters, s.dies, rfl⟩

theorem UnitStep.trans {s t u : State} (h1 : UnitStep s t) (h2 : UnitStep t u) : UnitStep s u := by
  obtain ⟨_, _, _, _, rfl⟩ := h1
  obtain ⟨ts, mc, cl, ds, rfl⟩ := h2
  exact ⟨ts, mc, cl, ds, rfl⟩

theorem UnitStep.foldl {α : Type} {f : State → α → State} (hf : ∀ s x, UnitStep s (f s x)) (xs : List α) (s : State) :
    UnitStep s (xs.foldl f s) := by
  induction xs generalizing s with
  | nil => exact .refl s
  | cons x xs ih => exact (hf s x).trans (ih _)

theorem unitStep_modCtx (s : State) (g : AgentId) (f : Ctx → Ctx) : UnitStep s (s.modCtx g f) := by
  cases g with
  | tile t c => exact ⟨_, s.mgmt.ctx, s.clusters, s.dies, rfl⟩
  | mgmt => exact ⟨s.tiles, _, s.clusters, s.dies, rfl⟩

theorem unitStep_modCluster (s : State) (i : Fin 32) (f : Cluster → Cluster) : UnitStep s (s.modCluster i f) :=
  ⟨s.tiles, s.mgmt.ctx, _, s.dies, rfl⟩

theorem unitStep_logError (s : State) (d : Fin 2) (a b c e f : Nat) : UnitStep s (s.logError d a b c e f) :=
  ⟨s.tiles, s.mgmt.ctx, s.clusters, _, rfl⟩

theorem unitStep_loseReq (s : State) (g : AgentId) (n : Nat) (r : MemReq) (cause detail : Nat) :
    UnitStep s (s.loseReq g n r cause detail) := unitStep_modCtx ..

theorem unitStep_loseWhere (s : State) (g : AgentId) (f : MemReq → Bool) : UnitStep s (loseWhere s g f) := by
  refine UnitStep.foldl (fun s n => ?_) _ _
  split
  · split
    · exact unitStep_loseReq ..
    · exact .refl s
  · exact .refl s

theorem unitStep_modStat (s : State) (r : EngReq) (f : StreamStat → StreamStat) : UnitStep s (s.modStat r f) := by
  unfold State.modStat
  split
  · exact unitStep_modCtx ..
  · split
    · exact .refl s
    · exact unitStep_modCtx ..

theorem unitStep_putReq (s : State) (cg : Fin 32) (r : EngReq) : UnitStep s (s.putReq cg r) := by
  rw [State.putReq, liveStat]
  exact (unitStep_modCluster ..).trans (unitStep_modStat ..)

theorem unitStep_failReq (s : State) (cg : Fin 32) (slice : Fin 320) (r : EngReq) (cause reason elem va : Nat) :
    UnitStep s (failReq s cg slice r cause reason elem va).1 := by
  unfold failReq
  dsimp only
  split
  · exact unitStep_logError ..
  · exact .refl s

theorem unitStep_loseEngines (s : State) (port : Fin 16) : UnitStep s (loseEngines s port) :=
  UnitStep.foldl (fun _ _ => UnitStep.foldl (fun _ _ => (unitStep_failReq ..).trans (unitStep_putReq ..)) _ _) _ _

/-- An event of the management core changes the core only. -/
theorem event_eq (s : State) (code unit value : Nat) : ∃ m, s.event code unit value = { s with mgmt := m } := by
  unfold State.event
  dsimp only
  split
  · split
    · exact ⟨_, rfl⟩
    · exact ⟨_, rfl⟩
  · exact ⟨_, rfl⟩

/-! ### Links (R424, R426) -/

theorem linkDown_raise (s : State) (q r : Fin 32) (v : Fin 3) : ((s.raise q v).vfs.get r).linkDown = (s.vfs.get r).linkDown := by
  simp only [State.raise, State.modVf, vset_get]
  split
  · next h => subst h; split <;> rfl
  · rfl

theorem linkLost_eq (s : State) (q : Fin 32) : ∃ v, linkLost s q = { s with vfs := v } ∧ (v.get q).linkDown = true
    ∧ ∀ r, (s.vfs.get r).linkDown = true → (v.get r).linkDown = true := by
  unfold linkLost
  split
  · next h => exact ⟨s.vfs, rfl, h, fun r hr => hr⟩
  · refine ⟨_, rfl, ?_, fun r hr => ?_⟩
    · refine (linkDown_raise ..).trans ?_
      simp only [State.modVf, vset_self]
    · refine (linkDown_raise ..).trans ?_
      simp only [State.modVf, vset_get]
      split
      · rfl
      · exact hr

theorem foldl_linkLost (ps : List Partition) (s : State) : ∃ v, ps.foldl (fun s p => linkLost s p.q) s = { s with vfs := v }
    ∧ (∀ p ∈ ps, (v.get p.q).linkDown = true) ∧ ∀ r, (s.vfs.get r).linkDown = true → (v.get r).linkDown = true := by
  induction ps generalizing s with
  | nil => exact ⟨s.vfs, rfl, fun p hp => absurd hp List.not_mem_nil, fun r hr => hr⟩
  | cons p ps ih =>
    obtain ⟨v1, h1, hp1, hr1⟩ := linkLost_eq s p.q
    obtain ⟨v2, h2, hp2, hr2⟩ := ih (linkLost s p.q)
    have hv : (linkLost s p.q).vfs = v1 := by rw [h1]
    rw [hv] at hr2
    refine ⟨v2, by rw [List.foldl_cons, h2, h1], fun x hx => ?_, fun r hr => hr2 r (hr1 r hr)⟩
    rcases List.mem_cons.mp hx with rfl | hx
    · exact hr2 _ hp1
    · exact hp2 x hx

/-- LNKST after a change of some of its bits. -/
theorem lnkst_modLink (s : State) (k j : Fin 16) (f : Nat → Nat) : (s.modLink k f).pf.lnkst.get j
    = if k = j then BitVec.ofNat 64 (f (s.pf.lnkst.get k).toNat) else s.pf.lnkst.get j := vset_get ..

/-- The launches with a cut edge on a port end. -/
theorem endPort (k : Fin 16) (s : State) : ∃ tl ls,
    (s.launches.filter (fun l => l.onPort k)).foldl (fun s l => endLaunch s l.q l.c 8 0 0) s = { s with tiles := tl, launches := ls }
      ∧ ∀ l ∈ ls, l.onPort k = true → l.ending.isSome = true := by
  obtain ⟨tl, h⟩ := foldl_endLaunch (fun l : Launch => l.q) (fun l => l.c) (8, 0, 0) (s.launches.filter (fun l => l.onPort k)) s
  refine ⟨tl, _, h, fun l hl hk => ?_⟩
  obtain ⟨x, hx, rfl⟩ := List.mem_map.mp hl
  split at hk
  · next hany => rw [if_pos hany]; exact endedWith_isSome ..
  · next hany =>
    exact absurd (List.any_eq_true.mpr ⟨x, List.mem_filter.mpr ⟨hx, hk⟩, by rw [beq_self_eq_true, beq_self_eq_true] <;> rfl⟩) hany

/-- The port's state is down, and the launches' edges over it are cut. -/
def cutPort (k : Fin 16) (s : State) : State :=
  let s2 := s.modLink k (fun x => putBits x 0 2 2)
  { s2 with launches := s2.launches.map (Launch.cutOff k) }

/-- The loss of a port, one step after the other. -/
theorem linkPortDown_steps {k : Fin 16} {s s1 : State}
    (h : allAgents.foldl (fun s1 g => loseWhere s1 g (fun r => s.throughPort k r.pa)) (loseEngines s k) = s1) :
    execLinkPortDown k s = .next (((s.parts.filter (usesPort s k)).foldl (fun s p => linkLost s p.q)
      (((cutPort k s1).launches.filter (fun l => l.onPort k)).foldl (fun s l => endLaunch s l.q l.c 8 0 0) (cutPort k s1))).event 6 k.val 0) := by
  subst h; rfl

/-- What the loss of a port leaves (R426). -/
theorem linkPortDown_leaves (k : Fin 16) (s : State) : ∃ u, execLinkPortDown k s = .next u
    ∧ u.pf = (s.modLink k (fun x => putBits x 0 2 2)).pf ∧ (∀ l ∈ u.launches, l.onPort k = true → l.ending.isSome = true)
    ∧ (∀ x ∈ s.parts, s.launches.any (fun l => l.q == x.q && l.onPort k) = true → (u.vfs.get x.q).linkDown = true) := by
  have h1 : UnitStep s (allAgents.foldl (fun s1 g => loseWhere s1 g (fun r => s.throughPort k r.pa)) (loseEngines s k)) :=
    (unitStep_loseEngines s k).trans (UnitStep.foldl (fun _ _ => unitStep_loseWhere ..) _ _)
  obtain ⟨s1, hs1⟩ : ∃ x, allAgents.foldl (fun s1 g => loseWhere s1 g (fun r => s.throughPort k r.pa)) (loseEngines s k) = x := ⟨_, rfl⟩
  rw [hs1] at h1
  obtain ⟨tl, ls, h4, hend⟩ := endPort k (cutPort k s1)
  obtain ⟨v, h5, hdown, -⟩ := foldl_linkLost (s.parts.filter (usesPort s k)) { cutPort k s1 with tiles := tl, launches := ls }
  obtain ⟨m, h6⟩ := event_eq { cutPort k s1 with tiles := tl, launches := ls, vfs := v } 6 k.val 0
  refine ⟨_, linkPortDown_steps hs1, ?_⟩
  rw [h4, h5, h6]
  refine ⟨?_, hend, fun x hx hany => ?_⟩
  · obtain ⟨_, _, _, _, rfl⟩ := h1
    rfl
  · refine hdown x (List.mem_filter.mpr ⟨hx, ?_⟩)
    rw [usesPort, hany] <;> rfl

/-! ### Bits of LNKST -/

theorem putBits_replays {x : Nat} (v : Nat) (hx : x < 2 ^ 64) : putBits x 16 32 v % 2 ^ 64 / 2 ^ 16 % 2 ^ 32 = v % 2 ^ 32
    ∧ putBits x 16 32 v % 2 ^ 64 % 2 ^ 16 = x % 2 ^ 16 ∧ putBits x 16 32 v % 2 ^ 64 / 2 ^ 48 = x / 2 ^ 48 := by
  simp only [putBits, Nat.shiftRight_eq_div_pow, Nat.shiftLeft_eq]
  omega

theorem putBits_down (x : Nat) : putBits x 0 2 2 % 2 ^ 64 % 4 = 2 := by
  simp only [putBits, Nat.shiftRight_eq_div_pow, Nat.shiftLeft_eq]
  omega

theorem putBits_up {x : Nat} (n : Nat) (hx : x < 2 ^ 64) : putBits (putBits x 0 2 1) 2 4 n % 2 ^ 64 % 4 = 1
    ∧ putBits (putBits x 0 2 1) 2 4 n % 2 ^ 64 / 4 % 16 = n % 16 ∧ putBits (putBits x 0 2 1) 2 4 n % 2 ^ 64 / 64 = x / 64 := by
  simp only [putBits, Nat.shiftRight_eq_div_pow, Nat.shiftLeft_eq]
  omega

theorem lnkFail_failures (s : State) (k : Fin 16) (n : Nat) : (s.failures k n).pf.lnkFail.get k = n := vset_self ..

theorem lnkst_modLink_self (s : State) (k : Fin 16) (f : Nat → Nat) :
    ((s.modLink k f).pf.lnkst.get k).toNat = f (s.pf.lnkst.get k).toNat % 2 ^ 64 := by
  rw [lnkst_modLink, if_pos rfl] <;> rfl

theorem lnkst_modLink_other (s : State) {k j : Fin 16} (h : j ≠ k) (f : Nat → Nat) : (s.modLink k f).pf.lnkst.get j = s.pf.lnkst.get j := by
  rw [lnkst_modLink, if_neg h.symm]

theorem lnkst_failures (s : State) (k : Fin 16) (n : Nat) : (s.failures k n).pf.lnkst = s.pf.lnkst := rfl

/-- A flit that is sent again counts, and so does its failure up to the fifteenth. -/
theorem flitReplay_few {k : Fin 16} (good : Bool) (s : State) (h : (if good then 0 else s.pf.lnkFail.get k + 1) < 16) :
    exec (.flitReplay ⟨k, good⟩) s = .next ((s.modLink k (fun v => putBits v 16 32 (Nat.min (2 ^ 32 - 1) (bitsAt v 16 32 + 1)))).failures k
      (if good then 0 else s.pf.lnkFail.get k + 1)) := if_pos h

/-- The count of failed replays (R424). -/
theorem replays_counted {x : Nat} (hx : x < 2 ^ 64) (v : Nat) : let y := putBits x 16 32 (Nat.min (2 ^ 32 - 1) (v + 1)) % 2 ^ 64
    y / 2 ^ 16 % 2 ^ 32 = Nat.min (2 ^ 32 - 1) (v + 1) ∧ y % 2 ^ 16 = x % 2 ^ 16 ∧ y / 2 ^ 48 = x / 2 ^ 48 := by
  obtain ⟨h1, h2, h3⟩ := putBits_replays (Nat.min (2 ^ 32 - 1) (v + 1)) hx
  refine ⟨h1.trans (Nat.mod_eq_of_lt ?_), h2, h3⟩
  exact Nat.lt_of_le_of_lt (Nat.min_le_left ..) (by decide)

/-! ### Corrupted headers and hangs -/

/-- The launches whose route a dropped header slot stops (R427). -/
theorem loseHeader_slot (s : State) (cl : Fin 32) (box code : Fin 64) : let t := loseHeader s (.slot cl box code)
    t.boxes = s.boxes.filter (fun b => !(b.elem == 4096 + box.val && b.cluster == cl && b.code == code.val && b.code != 0))
      ∧ (∀ b ∈ s.boxes, b.elem = 4096 + box.val → b.cluster = cl → b.code = code.val → b.code ≠ 0 →
          ∀ l ∈ t.launches, l.id = b.owner → l.ending.isSome = true)
      ∧ t.mem = s.mem := by
  intro t
  obtain ⟨hit, hhit⟩ : ∃ h : BoxOut → Bool, h = fun b => b.elem == 4096 + box.val && b.cluster == cl && b.code == code.val && b.code != 0 :=
    ⟨_, rfl⟩
  have ht : t = (s.launches.filter (fun l => ((s.boxes.filter hit).map (fun b => b.owner)).contains l.id)).foldl
      (fun s l => endLaunch s l.q l.c 8 0 0) { s with boxes := s.boxes.filter (fun b => !hit b) } := by rw [hhit] <;> rfl
  obtain ⟨tl, h⟩ := foldl_endLaunch (fun l : Launch => l.q) (fun l => l.c) (8, 0, 0)
    (s.launches.filter (fun l => ((s.boxes.filter hit).map (fun b => b.owner)).contains l.id)) { s with boxes := s.boxes.filter (fun b => !hit b) }
  rw [ht, h]
  refine ⟨by subst hhit; rfl, fun b hb h1 h2 h3 h4 l hl hid => ?_, rfl⟩
  obtain ⟨l0, hl0, rfl⟩ := List.mem_map.mp hl
  split
  · exact endedWith_isSome ..
  · next hany =>
    rw [if_neg hany] at hid
    refine absurd (List.any_eq_true.mpr ⟨l0, List.mem_filter.mpr ⟨hl0, ?_⟩, by rw [beq_self_eq_true, beq_self_eq_true] <;> rfl⟩) hany
    refine List.contains_iff_mem.mpr (List.mem_map.mpr ⟨b, List.mem_filter.mpr ⟨hb, ?_⟩, hid.symm⟩)
    rw [hhit]
    have h5 : (code.val != 0) = true := bne_iff_ne.mpr (h3 ▸ h4)
    simp only [h1, h2, h3, h5, beq_self_eq_true, Bool.and_self]

/-- The launches that a hang ends (R399, R400). -/
theorem hangEnds (q : Fin 32) (ls : List Launch) (hit : Launch → Bool) (s : State) (hls : ls = s.launches.filter (fun l => l.q == q))
    (hc : ∀ l m : Launch, l.c = m.c → hit l = hit m) :
    ∃ tl ys, ls.foldl (fun s l => if hit l then endLaunch s q l.c 7 0x10 2 else s) s = { s with tiles := tl, launches := ys }
      ∧ (∀ l ∈ ls, l.ending = none → hit l = true → ∃ x ∈ ys, x.id = l.id ∧ x.q = q ∧ x.c = l.c ∧ x.ending = some (7, 0x10, 2))
      ∧ (∀ l ∈ ls, hit l = false → l ∈ ys) ∧ ∀ l ∈ s.launches, l.q ≠ q → l ∈ ys := by
  obtain ⟨tl, h⟩ := foldl_endLaunch (fun _ : Launch => q) (fun l => l.c) (7, 0x10, 2) (ls.filter hit) s
  rw [List.foldl_filter] at h
  have hmem : ∀ l ∈ ls, l ∈ s.launches ∧ l.q = q := fun l hl => by
    rw [hls] at hl
    exact ⟨(List.mem_filter.mp hl).1, of_decide_eq_true (List.mem_filter.mp hl).2⟩
  refine ⟨tl, _, h, fun l hl hn hh => ?_, fun l hl hh => ?_, fun l hl hq => ?_⟩
  · obtain ⟨hl1, hq⟩ := hmem l hl
    refine ⟨l.endedWith (7, 0x10, 2), List.mem_map.mpr ⟨l, hl1, if_pos ?_⟩, endedWith_id .., (endedWith_q ..).trans hq, endedWith_c .., ?_⟩
    · exact List.any_eq_true.mpr ⟨l, List.mem_filter.mpr ⟨hl, hh⟩, by rw [hq, beq_self_eq_true, beq_self_eq_true] <;> rfl⟩
    · rw [endedWith_none hn]
  · refine List.mem_map.mpr ⟨l, (hmem l hl).1, if_neg fun hany => ?_⟩
    obtain ⟨x, hx, hxl⟩ := List.any_eq_true.mp hany
    rw [hc l x (of_decide_eq_true (Bool.and_eq_true_iff.mp hxl).2), (List.mem_filter.mp hx).2] at hh
    exact absurd hh (by decide)
  · refine List.mem_map.mpr ⟨l, hl, if_neg fun hany => ?_⟩
    obtain ⟨x, -, hxl⟩ := List.any_eq_true.mp hany
    exact hq (of_decide_eq_true (Bool.and_eq_true_iff.mp hxl).1)

/-- The hang bit of a partition rises, once. -/
theorem hangRaised (s : State) (q : Fin 32) : ∃ v, (if (s.vfs.get q).hang then s else (s.modVf q (fun v => { v with hang := true })).raise q 2)
    = { s with vfs := v } ∧ (v.get q).hang = true := by
  split
  · next h => exact ⟨s.vfs, rfl, h⟩
  · refine ⟨_, rfl, ?_⟩
    simp only [State.raise, State.modVf, vset_self]
    split <;> rfl

/-- Settles O54. -/
theorem errorsLinksAndHangs : Obligations.ErrorsLinksAndHangs := by
  refine ⟨fun pa t off x s => ⟨fun hpa => ?errors, fun hoff => if_pos hoff, ?quarantine, fun hlog => ?log⟩, fun k q p s => ⟨?link, ?down, fun hp hlim => ?hang⟩⟩
  case errors =>
    intro g d ue ce
    refine ⟨fun p hp => ?_, ?_⟩
    · have h : execUncorrectableError p s = .next (hbmError s pa) := by
        rcases hp with rfl | rfl
        · exact if_pos hpa
        · exact if_pos hpa
      refine h.trans ?_
      rw [hbmError]
      simp only [State.modCluster, vset_self]
      rfl
    · refine (if_neg (fun h => h hpa)).trans ?_
      simp only [State.modCluster, vset_self]
      rfl
  case log =>
    refine ⟨_, rfl, ?_, rfl, rfl⟩
    refine (congrArg Die.log (vset_self ..)).trans (List.drop_one ..)
  case quarantine =>
    obtain ⟨hop, what⟩ := x
    intro put logged
    have hlog : exec (.packetQuarantine ⟨hop, what⟩) s = .next (loseHeader logged what) := by cases hop <;> rfl
    have hunit : ∃ ds, logged = { s with dies := ds } := by cases hop <;> exact ⟨_, rfl⟩
    clear_value logged
    obtain ⟨ds, rfl⟩ := hunit
    cases what with
    | other => exact hlog
    | request g n =>
      refine fun r hr hst => hlog.trans ?_
      have hg : (({ s with dies := ds } : State).ctx g).reqs[n]? = some r := by cases g <;> exact hr
      simp only [loseHeader, hg, hst, if_true]
    | slot cl box code =>
      obtain ⟨h1, h2, h3⟩ := loseHeader_slot { s with dies := ds } cl box code
      exact ⟨_, hlog, h1, h2, h3⟩
  case link =>
    have hst : (s.pf.lnkst.get k).toNat < 2 ^ 64 := BitVec.isLt _
    intro st
    obtain ⟨c1, c2, c3⟩ := replays_counted hst (bitsAt st 16 32)
    refine ⟨⟨_, flitReplay_few true s (Nat.zero_lt_succ 15), lnkFail_failures .., ?_, ?_, ?_, fun j hj => ?_, rfl⟩, fun n hn => ⟨fun hlt => ?_, fun h15 => ?_⟩,
      fun hav => ⟨_, if_pos hav, ?_⟩, fun hav => if_neg (by rw [hav]; decide)⟩
    · rw [lnkst_failures, lnkst_modLink_self, c1, bitsAt, Nat.shiftRight_eq_div_pow]
    · rw [lnkst_failures, lnkst_modLink_self, c2]
    · rw [lnkst_failures, lnkst_modLink_self, c3]
    · rw [lnkst_failures, lnkst_modLink_other s hj]
    · refine ⟨_, flitReplay_few false s (by rw [hn]; exact Nat.succ_lt_succ hlt), ?_, ?_, rfl⟩
      · rw [← hn]; exact lnkFail_failures ..
      · rw [lnkst_failures, lnkst_modLink_self, c2]
    · obtain ⟨u, hu, hpf, hend, -⟩ := linkPortDown_leaves k
        ((s.modLink k (fun v => putBits v 16 32 (Nat.min (2 ^ 32 - 1) (bitsAt v 16 32 + 1)))).failures k 0)
      refine ⟨u, (if_neg (by rw [hn, h15]; exact Nat.lt_irrefl 16)).trans hu, ?_, ?_, hend⟩
      · rw [hpf]; exact lnkFail_failures ..
      · rw [hpf, lnkst_modLink_self]; exact putBits_down _
    · obtain ⟨u1, u2, u3⟩ := putBits_up (Nat.min 8 (Config.linkLanes k.val)) hst
      simp only [lnkst_failures, lnkst_modLink_self]
      refine ⟨u1, u2.trans (Nat.mod_eq_of_lt ?_), u3⟩
      exact Nat.lt_of_le_of_lt (Nat.min_le_left ..) (by decide)
  case down =>
    obtain ⟨u, hu, hpf, hend, hdown⟩ := linkPortDown_leaves k s
    refine ⟨u, hu, ?_, fun j hj => ?_, hend, hdown⟩
    · rw [hpf, lnkst_modLink_self]; exact putBits_down _
    · rw [hpf]; exact lnkst_modLink_other s hj _
  case hang =>
    intro ls es bs hpw
    obtain ⟨s1, hs1⟩ : ∃ x, s.writePa none p.mapArea.toNat bs (List.replicate bs.length true) = x := ⟨_, rfl⟩
    have hl : s1.launches = s.launches := by rw [← hs1]; exact writePa_keeps (p := State.launches) (fun _ _ _ _ => rfl) ..
    obtain ⟨v, hv, hhang⟩ := hangRaised s1 q
    obtain ⟨tl, ys, hy, hy1, hy2, hy3⟩ := hangEnds q ls (fun l => (es.take Config.mapRoom).any (fun e => e.c == l.c)) { s1 with vfs := v }
      (show ls = s1.launches.filter _ by rw [hl]) (fun l m h => by rw [h])
    refine ⟨{ s1 with vfs := v, tiles := tl, launches := ys }, ?_, hhang, by rw [hs1], hy1, hy2, fun l hm => hy3 l (by rw [hl]; exact hm)⟩
    have h : execHangDetected q s = .next (ls.foldl (fun s l => if (es.take Config.mapRoom).any (fun e => e.c == l.c) then endLaunch s q l.c 7 0x10 2 else s)
        (if (s1.vfs.get q).hang then s1 else (s1.modVf q (fun v => { v with hang := true })).raise q 2)) := by
      rw [execHangDetected, hp]
      refine (if_pos (Bool.and_eq_true_iff.mpr ⟨hlim, hpw⟩)).trans ?_
      rw [← hs1]
    exact h.trans (by rw [hv, hy])

/-! ### Events of the management core (R436) -/

/-- An event changes the core's pending events and EVSTAT, whose bits it only sets. -/
theorem event_keeps (s : State) (code unit value : Nat) : ∃ m, s.event code unit value = { s with mgmt := m } ∧ m.evmask = s.mgmt.evmask
    ∧ ∀ j, j < 64 → s.mgmt.evstat.getLsbD j = true → m.evstat.getLsbD j = true := by
  have hset : ∀ k j, j < 64 → s.mgmt.evstat.getLsbD j = true → (setBit s.mgmt.evstat k true).getLsbD j = true := fun k j hj h => by
    rw [setBit_get _ _ _ _ hj, h, ite_self]
  unfold State.event
  dsimp only
  split
  · split
    · exact ⟨_, rfl, rfl, hset _⟩
    · exact ⟨_, rfl, rfl, fun j _ h => h⟩
  · exact ⟨_, rfl, rfl, hset _⟩

/-- An event that is not pushed sets its bit of EVSTAT. -/
theorem event_sets (s : State) {code : Nat} (unit value : Nat) (hc : code < 64) (h : s.mgmt.evmask.getLsbD code = false) :
    ((s.event code unit value).mgmt.evstat).getLsbD code = true := by
  unfold State.event
  dsimp only
  rw [h]
  exact (setBit_get _ _ _ _ hc).trans (if_pos rfl)

theorem zoneEvent_keeps (s : State) (k : Fin 8) (old new : Zone) : ∃ m, zoneEvent s k old new = { s with mgmt := m } ∧ m.evmask = s.mgmt.evmask
    ∧ (old ≠ new → new ≠ .band → s.mgmt.evmask.getLsbD 0 = false → m.evstat.getLsbD 0 = true) := by
  unfold zoneEvent
  split
  · next h => exact ⟨s.mgmt, rfl, rfl, fun h1 h2 => absurd h (not_or.mpr ⟨h1, h2⟩)⟩
  · obtain ⟨m, hm, hmask, -⟩ := event_keeps s 0 k.val ((s.hbm.hottest k).toNat + if new = .below then 2 ^ 15 else 0)
    refine ⟨m, hm, hmask, fun _ _ h => ?_⟩
    have hset := event_sets s k.val ((s.hbm.hottest k).toNat + if new = .below then 2 ^ 15 else 0) (by decide) h
    rw [hm] at hset
    exact hset

theorem levelEvent_keeps (s : State) (k : Fin 8) (old new : Nat) : ∃ m, levelEvent s k old new = { s with mgmt := m }
    ∧ (∀ j, j < 64 → s.mgmt.evstat.getLsbD j = true → m.evstat.getLsbD j = true)
    ∧ (old ≠ new → s.mgmt.evmask.getLsbD 1 = false → m.evstat.getLsbD 1 = true) := by
  unfold levelEvent
  split
  · next h => exact ⟨s.mgmt, rfl, fun _ _ h => h, fun h1 => absurd h h1⟩
  · obtain ⟨m, hm, -, hset⟩ := event_keeps s 1 k.val new
    refine ⟨m, hm, hset, fun _ h => ?_⟩
    have hset := event_sets s k.val new (by decide) h
    rw [hm] at hset
    exact hset

/-! ### Thermal samples (R430 to R432) -/

theorem threshold_eq (w : Word) (i : Nat) : threshold w i = ((w.toNat / 2 ^ (8 * i) % 256 : Nat) : Int) := by
  simp only [threshold, bitsAt, Nat.shiftRight_eq_div_pow, Nat.reducePow]

theorem hysteresis_eq (w : Word) : hysteresis w = ((w.toNat / 2 ^ 32 % 16 : Nat) : Int) := by
  simp only [hysteresis, bitsAt, Nat.shiftRight_eq_div_pow, Nat.reducePow]

/-- LEVEL after a sample: up to the highest threshold reached, or down one step. -/
theorem nextLevel_cases (w : Word) (level : Fin 4) (t : Int) :
    let reached : Nat := if threshold w 3 ≤ t then 3 else if threshold w 2 ≤ t then 2 else if threshold w 1 ≤ t then 1 else 0
    let below := t < threshold w level.val - hysteresis w
    (level.val < reached → (nextLevel w level t).val = reached)
      ∧ (reached ≤ level.val → level ≠ 0 → below → (nextLevel w level t).val + 1 = level.val)
      ∧ (reached ≤ level.val → (level = 0 ∨ ¬below) → nextLevel w level t = level) := by
  intro reached below
  obtain ⟨up, hup⟩ : ∃ u : Fin 4, (if threshold w 3 ≤ t then 3 else if threshold w 2 ≤ t then 2 else if threshold w 1 ≤ t then 1 else 0) = u := ⟨_, rfl⟩
  have hval : up.val = reached := by
    rw [← hup]
    simp only [reached, apply_ite Fin.val]
    rfl
  have hnext : nextLevel w level t = if level < up then up else if level ≠ 0 ∧ below then level - 1 else level := by
    rw [← hup] <;> rfl
  rw [hnext]
  refine ⟨fun h => ?_, fun h h0 hb => ?_, fun h hb => ?_⟩
  · rw [if_pos (Fin.lt_def.mpr (hval ▸ h)), hval]
  · rw [if_neg (by rw [Fin.lt_def]; omega), if_pos ⟨h0, hb⟩]
    have : level.val ≠ 0 := fun h => h0 (Fin.ext h)
    omega
  · rw [if_neg (by rw [Fin.lt_def]; omega), if_neg]
    rintro ⟨h1, h2⟩
    exact hb.elim h1 (fun h => h h2)

theorem layers_congr {h h' : Hbm} (k : Fin 8) (hs : h.sensors = h'.sensors) : h.layers k = h'.layers k := by
  rw [Hbm.layers, Hbm.layers, hs]

theorem level_congr {h h' : Hbm} (k : Fin 8) (hs : h.sensors = h'.sensors) : h.level k = h'.level k := by
  rw [Hbm.level, Hbm.level, layers_congr k hs]

/-! ### A stack that loses power (R432) -/

theorem cellGet_filter (f : Nat → Bool) (cs : List Host.Cell) (a : Nat) :
    cellGet (cs.filter (fun c => f c.1)) a = if f a then cellGet cs a else 0 := by
  induction cs with
  | nil => exact (ite_self _).symm
  | cons c cs ih =>
    obtain ⟨x, b⟩ := c
    rw [List.filter_cons]
    by_cases hx : x = a
    · subst hx
      cases hf : f x with
      | true => simp only [if_true, cellGet]
      | false =>
        simp only [Bool.false_eq_true, if_false, ih, hf]
    · cases hf : f x with
      | true => simp only [if_true, cellGet, if_neg hx, ih]
      | false => simp only [Bool.false_eq_true, if_false, cellGet, if_neg hx, ih]

theorem get_without (m : Memory) (k : Fin 8) (a : Nat) : (m.without k).get a = if onStack k a then Memory.empty.get a else m.get a := by
  refine (cellGet_filter (fun x => !onStack k x) m.cells a).trans ?_
  cases onStack k a <;> rfl

theorem onStack_iff (k : Fin 8) (a : Nat) : onStack k a = true ↔ targetOf a = some .hbm ∧ stackOf (cgOf a) = k := by
  rw [onStack, Bool.and_eq_true, beq_iff_eq, beq_iff_eq]

/-- The channel groups of a stack. -/
def stackGroups (k : Fin 8) : BitVec 32 := BitVec.ofNat 32 (15 * 2 ^ (4 * k.val))

theorem stackGroups_get (k : Fin 8) (g : Fin 32) : (stackGroups k).getLsbD g.val = decide (g.val / 4 = k.val) := by
  rw [stackGroups, BitVec.getLsbD_ofNat, Nat.mul_comm, Nat.testBit_two_pow_mul, show 15 = 2 ^ 4 - 1 from rfl, Nat.testBit_two_pow_sub_one, Bool.eq_iff_iff]
  simp only [Bool.and_eq_true, decide_eq_true_eq]
  omega

/-- The memory, the line keys, the power and the readiness of a lost stack. -/
def lostStack (s : State) (k : Fin 8) : State :=
  { s with
    mem := s.mem.without k
    lineKeys := s.lineKeys.filter (fun x => !onStack k (x.1 * 128))
    hbm := { s.hbm with stack := vset s.hbm.stack k { s.hbm.stack.get k with powered := false } }
    pf := { s.pf with readyCg := s.pf.readyCg &&& ~~~stackGroups k } }

theorem shutDown_steps (s : State) (k : Fin 8) : ∃ s1 hit, UnitStep s s1
    ∧ shutDown s k = ((lostStack s1 k).launches.filter hit).foldl (fun s l => endLaunch s l.q l.c 8 0 0) (lostStack s1 k)
    ∧ ∀ l p, (lostStack s1 k).part l.q = some p → hit l = ((p.clusters &&& stackGroups k) != 0) := by
  have h1 : UnitStep s (allAgents.foldl (fun s g => loseWhere s g (fun r => onStack k r.pa)) s) := UnitStep.foldl (fun _ _ => unitStep_loseWhere ..) _ _
  rw [shutDown]
  generalize allAgents.foldl (fun s g => loseWhere s g (fun r => onStack k r.pa)) s = s1 at h1 ⊢
  exact ⟨s1, _, h1, rfl, fun l p h => congrArg (fun o : Option Partition => match o with | some p => (p.clusters &&& stackGroups k) != 0 | none => false) h⟩

/-- What the loss of a stack leaves. -/
theorem shutDown_leaves (s : State) (k : Fin 8) : let u := shutDown s k
    u.hbm = { s.hbm with stack := vset s.hbm.stack k { s.hbm.stack.get k with powered := false } }
      ∧ u.pf = { s.pf with readyCg := s.pf.readyCg &&& ~~~stackGroups k } ∧ u.mem = s.mem.without k ∧ u.mgmt.evstat = s.mgmt.evstat
      ∧ u.parts = s.parts
      ∧ ∀ l ∈ u.launches, ∀ p, s.part l.q = some p → (p.clusters &&& stackGroups k) ≠ 0 → l.ending.isSome = true := by
  intro u
  obtain ⟨s1, hit, h1, hu, hhit⟩ := shutDown_steps s k
  obtain ⟨tl, h⟩ := foldl_endLaunch (fun l : Launch => l.q) (fun l => l.c) (8, 0, 0) ((lostStack s1 k).launches.filter hit) (lostStack s1 k)
  obtain ⟨_, _, _, _, rfl⟩ := h1
  rw [show u = _ from hu, h]
  refine ⟨rfl, rfl, rfl, rfl, rfl, fun l hl p hp hg => ?_⟩
  obtain ⟨l0, hl0, rfl⟩ := List.mem_map.mp hl
  split
  · exact endedWith_isSome ..
  · next hany =>
    rw [if_neg hany] at hp
    refine absurd (List.any_eq_true.mpr ⟨l0, List.mem_filter.mpr ⟨hl0, ?_⟩, by rw [beq_self_eq_true, beq_self_eq_true] <;> rfl⟩) hany
    exact (hhit l0 p hp).trans (bne_iff_ne.mpr hg)

/-- The core's sensors and stacks after a sample. -/
def sampledHbm (h : Hbm) (n : Fin 128) (temp : BitVec 8) : Hbm :=
  let h1 := { h with sensors := vset h.sensors n ((h.sensors.get n).sample h.thr temp) }
  { h1 with stack := vset h1.stack (stackOfSensor n) ((h1.stack.get (stackOfSensor n)).sampled h1 (stackOfSensor n)) }

/-- A sample's events leave the sampled sensors and set EVSTAT. -/
theorem thermalSample_steps (n : Fin 128) (temp : BitVec 8) (s : State) : let k := stackOfSensor n; let h := sampledHbm s.hbm n temp
    ∃ m, exec (.thermalSample n temp) s = .next (if h.level k = 3 ∧ (h.stack.get k).powered then shutDown { s with hbm := h, mgmt := m } k
        else { s with hbm := h, mgmt := m })
      ∧ (s.hbm.level k ≠ h.level k → s.mgmt.evmask.getLsbD 1 = false → m.evstat.getLsbD 1 = true)
      ∧ ((s.hbm.stack.get k).zone ≠ (h.stack.get k).zone → (h.stack.get k).zone ≠ .band → s.mgmt.evmask.getLsbD 0 = false → m.evstat.getLsbD 0 = true) := by
  intro k h
  obtain ⟨m1, h1, hmask, hz⟩ := zoneEvent_keeps { s with hbm := h } k (s.hbm.stack.get k).zone (h.stack.get k).zone
  obtain ⟨m2, h2, hmono, hl⟩ := levelEvent_keeps { s with hbm := h, mgmt := m1 } k (s.hbm.level k) (h.level k)
  have hs : exec (.thermalSample n temp) s = .next (if h.level k = 3 ∧ (h.stack.get k).powered
      then shutDown (levelEvent (zoneEvent { s with hbm := h } k (s.hbm.stack.get k).zone (h.stack.get k).zone) k (s.hbm.level k) (h.level k)) k
      else levelEvent (zoneEvent { s with hbm := h } k (s.hbm.stack.get k).zone (h.stack.get k).zone) k (s.hbm.level k) (h.level k)) := rfl
  refine ⟨m2, hs.trans (by rw [h1, h2]), fun hne hm => hl hne (hmask ▸ hm), fun hne hb hm => hmono 0 (by decide) (hz hne hb hm)⟩

/-- What a sample leaves in the sensors, whatever becomes of the stacks. -/
theorem sampled_sensors (n : Fin 128) (temp : BitVec 8) (s : State) (u : State) (hu : u.hbm.sensors = (sampledHbm s.hbm n temp).sensors) :
    (let h := s.hbm
     let thr := fun (i : Nat) => ((h.thr.toNat / 2 ^ (8 * i) % 256 : Nat) : Int)
     let old := h.sensors.get n
     (let x := u.hbm.sensors.get n
          let reached : Nat := if thr 3 ≤ temp.toInt then 3 else if thr 2 ≤ temp.toInt then 2 else if thr 1 ≤ temp.toInt then 1 else 0
          let below := temp.toInt < thr old.level.val - ((h.thr.toNat / 2 ^ 32 % 16 : Nat) : Int)
          x.temp = temp ∧ x.valid = true
          ∧ (old.level.val < reached → x.level.val = reached)
          ∧ (reached ≤ old.level.val → old.level ≠ 0 → below → x.level.val + 1 = old.level.val)
          ∧ (reached ≤ old.level.val → (old.level = 0 ∨ ¬below) → x.level = old.level)
          ∧ (x.hot = true ↔ old.hot = true ∨ thr 3 ≤ temp.toInt))
       ∧ (∀ m, m ≠ n → u.hbm.sensors.get m = h.sensors.get m)) := by
  intro h thr old
  have hn : u.hbm.sensors.get n = old.sample h.thr temp := by rw [hu]; exact vset_self ..
  have hthr : thr = threshold h.thr := funext fun i => (threshold_eq h.thr i).symm
  obtain ⟨c1, c2, c3⟩ := nextLevel_cases h.thr old.level temp.toInt
  rw [hn, hthr, ← hysteresis_eq]
  refine ⟨⟨rfl, rfl, c1, c2, c3, ?_⟩, fun m hm => ?_⟩
  · rw [Sensor.sample, Bool.or_eq_true, decide_eq_true_eq]
  · rw [hu]; exact (vset_get ..).trans (if_neg hm.symm)

/-- The limiter's word: LIM, and its event where asked. -/
theorem setLim_eq (s : State) (x : Fin 32) (ev : Bool) (h : (s.lim ≠ x ∧ (s.lim = 16 ∨ x = 16)) ↔ ev = true) :
    setLim s x = if ev then ({ s with lim := x } : State).event 2 0 x.val else { s with lim := x } := by
  unfold setLim
  cases ev with
  | true => exact (if_pos (h.mpr rfl)).trans (if_pos rfl).symm
  | false => exact (if_neg (fun hc => absurd (h.mp hc) (by decide))).trans (if_neg (by decide)).symm

/-- HBM_THR as it is stored, field by field (Table 16.2). -/
theorem thrStored_fields (v : Nat) : bitsAt (thrStored v) 0 8 = v % 256 ∧ bitsAt (thrStored v) 8 8 = v / 2 ^ 8 % 256
    ∧ bitsAt (thrStored v) 16 8 = v / 2 ^ 16 % 256 ∧ bitsAt (thrStored v) 24 8 = Nat.min 105 (v / 2 ^ 24 % 256)
    ∧ thrStored v = v % 256 + 2 ^ 8 * (v / 2 ^ 8 % 256) + 2 ^ 16 * (v / 2 ^ 16 % 256) + 2 ^ 24 * Nat.min 105 (v / 2 ^ 24 % 256)
        + 2 ^ 32 * (if v / 2 ^ 32 % 16 = 0 then 1 else v / 2 ^ 32 % 16) := by
  have h3 : Nat.min 105 (v / 2 ^ 24 % 256) ≤ 105 := Nat.min_le_left ..
  unfold thrStored
  simp only [bitsAt, Nat.shiftRight_eq_div_pow]
  generalize Nat.min 105 (v / 2 ^ 24 % 256) = t at *
  generalize (if v / 2 ^ 32 % 2 ^ 4 = 0 then 1 else v / 2 ^ 32 % 2 ^ 4) = y
  omega

/-- Settles O55. -/
theorem heatAndCurrent : Obligations.HeatAndCurrent := by
  refine fun n temp k pc v s => ⟨?sample, fun hl hy => ?level2, fun hid hb => if_pos ?idle, ?lim, ?thr⟩
  case sample =>
    intro h thr old
    obtain ⟨m, hm, hlev, hzone⟩ := thermalSample_steps n temp s
    obtain ⟨h2, hh2⟩ : ∃ x, sampledHbm s.hbm n temp = x := ⟨_, rfl⟩
    have hlevel : ∀ u : State, u.hbm.sensors = (sampledHbm s.hbm n temp).sensors → u.hbm.level (stackOfSensor n) = h2.level (stackOfSensor n) :=
      fun u hu => level_congr _ (hh2 ▸ hu)
    have hpow : (h2.stack.get (stackOfSensor n)).powered = (h.stack.get (stackOfSensor n)).powered := by
      rw [← hh2]; refine Eq.trans (congrArg Stack.powered (vset_self ..)) rfl
    rw [hh2] at hm hlev hzone
    by_cases hc : h2.level (stackOfSensor n) = 3 ∧ (h2.stack.get (stackOfSensor n)).powered
    · rw [if_pos hc] at hm
      obtain ⟨c1, c2, c3, c4, c5, c6⟩ := shutDown_leaves { s with hbm := h2, mgmt := m } (stackOfSensor n)
      have hsens : (shutDown { s with hbm := h2, mgmt := m } (stackOfSensor n)).hbm.sensors = (sampledHbm s.hbm n temp).sensors := by
        rw [c1, hh2]
      obtain ⟨b1, b2⟩ := sampled_sensors n temp s _ hsens
      refine ⟨_, hm, b1, b2, fun _ _ => ⟨?_, fun g hg => ?_, fun pa => ?_, fun l hl p hp ⟨g, hg, hpg⟩ => c6 l hl p hp fun h0 => ?_⟩,
        fun h3 => absurd hc.1 ((hlevel _ hsens) ▸ h3), fun hne hmask => ?_, ?_⟩
      · rw [c1, vset_self]
      · rw [c2, BitVec.getLsbD_and, BitVec.getLsbD_not, stackGroups_get]
        rw [decide_eq_true (show g.val / 4 = (stackOfSensor n).val from hg)]
        simp only [Bool.not_true, Bool.and_false]
      · rw [c3, get_without]
        exact ⟨fun h => if_pos ((onStack_iff ..).mpr h), fun h => if_neg (fun hc => h ((onStack_iff ..).mp hc))⟩
      · have := congrArg (fun x : BitVec 32 => x.getLsbD g.val) h0
        simp only [BitVec.getLsbD_and, hpg, stackGroups_get, BitVec.getLsbD_zero] at this
        rw [decide_eq_true (show g.val / 4 = (stackOfSensor n).val from hg)] at this
        exact Bool.noConfusion (this.trans (BitVec.getLsbD_zero ..))
      · rw [c4]; exact hlev (fun h => hne (h.trans (hlevel _ hsens).symm)) hmask
      · intro z
        have hz : z = (h2.stack.get (stackOfSensor n)).zone := by simp only [z, c1, vset_self]
        rw [hz, c4]
        exact hzone
    · rw [if_neg hc] at hm
      have hsens : ({ s with hbm := h2, mgmt := m } : State).hbm.sensors = (sampledHbm s.hbm n temp).sensors := by rw [hh2]
      obtain ⟨b1, b2⟩ := sampled_sensors n temp s _ hsens
      exact ⟨_, hm, b1, b2, fun h3 hp => absurd ⟨h3, hpow.trans hp⟩ hc, fun _ => ⟨rfl, rfl, rfl⟩, hlev, hzone⟩
  case level2 =>
    obtain ⟨y, hy, hv, ht⟩ := hy
    refine ⟨_, if_pos (Bool.and_eq_true_iff.mpr ⟨beq_iff_eq.mpr hl, List.any_eq_true.mpr ⟨y, hy, ?_⟩⟩), congrArg Stack.halfIdle (vset_self ..), rfl⟩
    rw [hv, threshold_eq, Bool.true_and, decide_eq_true_eq]
    exact ht
  case idle => rw [hb, Bool.and_eq_true_iff]; exact ⟨decide_eq_true hid, rfl⟩
  case lim =>
    intro lim
    have heng : exec .limiterEngage s = .next (setLim s 8) := rfl
    have hdown : exec .limiterStepDown s = .next (setLim s (if s.lim ≤ 1 then s.lim else s.lim - 1)) := rfl
    have hup : exec .limiterStepUp s = .next (setLim s (if 16 ≤ s.lim then s.lim else s.lim + 1)) := rfl
    refine ⟨fun h => ⟨?_, ?_, ?_⟩, fun h1 h2 => ?_, fun h => ?_, fun h => ?_, fun h1 h2 => ?_, fun h => ?_⟩
    · exact heng.trans (congrArg _ (setLim_eq s 8 true (by rw [h]; decide)))
    · refine hdown.trans (congrArg _ ?_)
      rw [h]
      exact setLim_eq s 15 true (by rw [h]; decide)
    · refine hup.trans (congrArg _ ?_)
      rw [h]
      exact setLim_eq s 16 false (by rw [h]; decide)
    · refine hup.trans (congrArg _ ?_)
      rw [if_neg (by rw [Fin.le_def]; exact Nat.not_le.mpr h1)]
      refine setLim_eq s _ false ⟨fun ⟨_, hor⟩ => ?_, fun h => absurd h (by decide)⟩
      revert hor h1 h2
      generalize s.lim = x
      revert x
      decide
    · refine hup.trans (congrArg _ ?_)
      rw [h]
      exact setLim_eq s 16 true (by rw [h]; decide)
    · refine heng.trans (congrArg _ (setLim_eq s 8 false ⟨fun ⟨_, hor⟩ => ?_, fun h => absurd h (by decide)⟩))
      revert hor h
      generalize s.lim = x
      revert x
      decide
    · refine hdown.trans (congrArg _ ?_)
      rw [if_neg (by rw [Fin.le_def]; exact Nat.not_le.mpr h1)]
      refine setLim_eq s _ false ⟨fun ⟨_, hor⟩ => ?_, fun h => absurd h (by decide)⟩
      revert hor h1 h2
      generalize s.lim = x
      revert x
      decide
    · refine hdown.trans (congrArg _ ?_)
      rw [h]
      exact setLim_eq s 1 false (by rw [h]; decide)
  case thr =>
    intro b t3 hy
    obtain ⟨f0, f1, f2, f3, fx⟩ := thrStored_fields v.toNat
    have hcond : (bitsAt (thrStored v.toNat) 0 8 ≤ bitsAt (thrStored v.toNat) 8 8 ∧ bitsAt (thrStored v.toNat) 8 8 < bitsAt (thrStored v.toNat) 16 8
        ∧ bitsAt (thrStored v.toNat) 16 8 < bitsAt (thrStored v.toNat) 24 8) ↔ (b 0 ≤ b 1 ∧ b 1 < b 2 ∧ b 2 < t3) := by
      rw [f0, f1, f2, f3]
      simp only [b, t3, Nat.mul_zero, Nat.pow_zero, Nat.div_one, Nat.mul_one, Nat.reduceMul]
    refine ⟨fun h0 h1 h2 => ⟨_, congrArg Host.Outcome.next (if_pos (hcond.mpr ⟨h0, h1, h2⟩)), ?_, rfl, rfl⟩, fun hn =>
      congrArg Host.Outcome.next (if_neg (fun h => hn (hcond.mp h)))⟩
    refine (congrArg (BitVec.ofNat 64) fx).trans ?_
    simp only [b, t3, hy, Nat.mul_zero, Nat.pow_zero, Nat.div_one, Nat.mul_one, Nat.reduceMul]

end Sys2Proof.Machine

/-! ## A frame that a memory out of canonical form breaks -/

namespace Sys2Proof.Machine

/-! ### A memory that lists an address twice -/

/-- Bytes listed from an address on. -/
def cellsAt : Nat → List Byte → List Host.Cell
  | _, [] => []
  | a, b :: bs => (a, b) :: cellsAt (a + 1) bs

theorem cellsRead_cellsAt (a : Nat) (bs : List Byte) (r : List Host.Cell) : cellsRead (cellsAt a bs ++ r) a bs.length = bs := by
  induction bs generalizing a with
  | nil => rfl
  | cons b bs ih =>
    rw [cellsRead, List.length_cons, List.range_succ_eq_map, List.map_cons, List.map_map]
    refine congr (congrArg List.cons (if_pos rfl)) (Eq.trans (List.map_congr_left fun i _ => ?_) (ih (a + 1)))
    refine (if_neg (by omega)).trans ?_
    exact congrArg (cellGet _) (by omega)

/-- Zeros written over listed bytes take them off the list, and leave what else it lists. -/
theorem cellsWrite_cellsAt_zeros (a : Nat) (bs : List Byte) (r : List Host.Cell) :
    cellsWrite (cellsAt a bs ++ r) a (List.replicate bs.length 0) = r := by
  induction bs generalizing a with
  | nil => rfl
  | cons b bs ih =>
    refine (congrArg (fun m => cellsWrite m (a + 1) (List.replicate bs.length 0)) ?_).trans (ih (a + 1))
    exact (if_neg (Nat.lt_irrefl a)).trans ((if_pos rfl).trans (if_pos rfl))

theorem cellsWrite_append (m : List Host.Cell) (a : Nat) (xs ys : List Byte) :
    cellsWrite m a (xs ++ ys) = cellsWrite (cellsWrite m a xs) (a + xs.length) ys := by
  induction xs generalizing m a with
  | nil => rfl
  | cons x xs ih =>
    refine (ih (cellSet m a x) (a + 1)).trans ?_
    rw [List.length_cons, Nat.add_assoc, Nat.add_comm 1]
    rfl

theorem cellGet_cellsWriteMasked_below {m : List Host.Cell} (w : cellsWf 0 m = true) {x a : Nat} (hx : x < a) (bs : List Byte) (ks : List Bool) :
    cellGet (cellsWriteMasked m a bs ks) x = cellGet m x := by
  induction bs generalizing m a ks with
  | nil => cases ks <;> rfl
  | cons b bs ih =>
    cases ks with
    | nil => rfl
    | cons k ks =>
      rw [cellsWriteMasked]
      cases k with
      | false => exact ih w (by omega) ks
      | true =>
        refine (ih (cellSet_wf w (Nat.zero_le a) b) (by omega) ks).trans ?_
        rw [cellGet_cellSet w, if_neg (by omega)]

/-- A block whose ciphertext under the key is zero. -/
def zeroPlain : BitVec 128 := (Config.cipher 0 0).symm 0

/-- The block's bytes, and behind them a second entry for address 0, which no canonical memory has. -/
def twiceListed : List Host.Cell := cellsAt 0 (leBytes 16 zeroPlain.toNat) ++ [(0, 5)]

/-- The management core owes a fault; its trap area begins in the first line of HBM, which stands under a key. -/
def keyedTrapArea : State :=
  { State.reset with
    cur := .mgmt
    mem := ⟨twiceListed, []⟩
    lineKeys := [(0, 0)]
    mgmt := { Mgmt.reset with ctx := { Mgmt.reset.ctx with
      trapbase := 64, phase := .running, owed := some ⟨0x15, 0, 0, ⟨0, 0, 0, false⟩, .next none⟩ } } }

theorem twiceListed_block (m : Memory) (h : m.cells = twiceListed) : BitVec.ofNat 128 (m.readNat 0 16) = zeroPlain := by
  have hread : m.read 0 16 = leBytes 16 zeroPlain.toNat := by
    have := cellsRead_cellsAt 0 (leBytes 16 zeroPlain.toNat) [(0, 5)]
    rw [leBytes_length] at this
    exact (congrArg (fun c => cellsRead c 0 16) h).trans this
  rw [Memory.readNat, hread, leNat_leBytes, Nat.mod_eq_of_lt (Nat.lt_of_lt_of_eq zeroPlain.isLt (by norm_num)), BitVec.ofNat_toNat, BitVec.setWidth_eq]

/-- Seen without the key, the first block of the line is zero. -/
theorem byteAt_keyed (s : State) (hm : s.mem.cells = twiceListed) (hk : s.lineKeys = [(0, 0)]) {a : Nat} (ha : a < 16) : s.byteAt none a = 0 := by
  have hkey : s.lineKey (a / 128) = some 0 := by
    rw [Nat.div_eq_of_lt (by omega), State.lineKey, hk]; rfl
  rw [State.byteAt, hkey]
  refine (if_neg (Option.some_ne_none 0)).trans ?_
  rw [Nat.div_eq_of_lt ha, Nat.zero_mul, twiceListed_block _ hm]
  have hz : unsealed none 0 (sealed (some 0) 0 zeroPlain) = 0 := (Config.cipher 0 0).apply_symm_apply 0
  rw [hz]
  exact congrArg (BitVec.ofNat 8) (Nat.zero_div _)

/-- Once the line is plaintext, the second entry for address 0 is read. -/
theorem ownLine_twice (s : State) (hm : s.mem.cells = twiceListed) (hk : s.lineKeys = [(0, 0)]) : ∃ m,
    s.ownLine none 0 = { s with mem := m, lineKeys := [] } ∧ cellsWf 0 m.cells = true ∧ m.get 0 = 5 := by
  have hkey : s.lineKey 0 = some 0 := by rw [State.lineKey, hk]; rfl
  refine ⟨{ s.mem with cells := cellsWrite s.mem.cells (0 * 128) (s.bytesAt none (0 * 128) 128) }, ?_, ?_⟩
  · rw [State.ownLine, hkey]
    refine (if_neg (Option.some_ne_none 0)).trans ?_
    rw [hk]; rfl
  have hbs : s.bytesAt none (0 * 128) 128 = List.replicate 16 0 ++ (List.range 112).map (fun i => s.byteAt none (16 + i)) := by
    rw [State.bytesAt, show 128 = 16 + 112 from rfl, List.range_add, List.map_append, List.map_map]
    refine congr (congrArg HAppend.hAppend ?_) (List.map_congr_left fun i _ => by rw [Function.comp, Nat.zero_mul, Nat.zero_add])
    refine List.eq_replicate_iff.mpr ⟨rfl, fun b hb => ?_⟩
    obtain ⟨i, hi, rfl⟩ := List.mem_map.mp hb
    rw [Nat.zero_mul, Nat.zero_add]
    exact byteAt_keyed s hm hk (List.mem_range.mp hi)
  have hcells : cellsWrite s.mem.cells (0 * 128) (s.bytesAt none (0 * 128) 128)
      = cellsWrite [(0, 5)] 16 ((List.range 112).map (fun i => s.byteAt none (16 + i))) := by
    have hz := cellsWrite_cellsAt_zeros 0 (leBytes 16 zeroPlain.toNat) [(0, 5)]
    rw [leBytes_length] at hz
    rw [hbs, cellsWrite_append, hm, Nat.zero_mul, twiceListed, hz, List.length_replicate, Nat.zero_add]
  have hwf : cellsWf 0 [(0, (5 : Byte))] = true := by decide
  rw [hcells]
  generalize (List.range 112).map (fun i => s.byteAt none (16 + i)) = bs
  refine ⟨cellsWrite_wf hwf 16 bs, ?_⟩
  rw [Memory.get, cellGet_cellsWrite hwf, if_neg (by omega)]
  rfl

/-- A trap of the management core writes its record as its plain stores do, and no other memory. -/
theorem mem_takeTrap_mgmt (s : State) (chk : List RegId) (cause detail addr : Nat) (b : Issued) :
    let bs := trapRecord s .mgmt chk cause detail addr (some b)
    (takeTrap s .mgmt chk cause detail addr (some b)).mem = (s.writePa none s.mgmt.ctx.trapbase.toNat bs (List.replicate bs.length true)).mem
      ∧ (takeTrap s .mgmt chk cause detail addr (some b)).lineKeys
        = (s.writePa none s.mgmt.ctx.trapbase.toNat bs (List.replicate bs.length true)).lineKeys := ⟨rfl, rfl⟩

/-- The record of a trap area at address 64 changes what address 0 reads, where the memory lists it twice. -/
theorem byteAt_writePa_twice (s : State) (hm : s.mem.cells = twiceListed) (hk : s.lineKeys = [(0, 0)]) (bs : List Byte) (hbs : bs.length = 128)
    (mask : List Bool) : let u := s.writePa none 64 bs mask
    u.lineKeys = [] ∧ u.mem.get 0 = 5 := by
  intro u
  obtain ⟨m, h1, hwf, hget⟩ := ownLine_twice s hm hk
  have h2 : s.ownLines none 64 bs.length = { s with mem := m, lineKeys := [] } := by
    rw [State.ownLines, hbs, show linesOf 64 128 = [0, 1] from rfl, List.foldl_cons, h1, List.foldl_cons, List.foldl_nil, State.ownLine]
    exact if_pos rfl
  have hu : u = { s with mem := m.writeMasked 64 bs mask, lineKeys := [] } := by
    have htarget : targetOf 64 = some .hbm := rfl
    simp only [u, State.writePa, htarget, h2]
  rw [hu]
  exact ⟨rfl, (cellGet_cellsWriteMasked_below hwf (by decide) bs mask).trans hget⟩

/-- A never-form word on the management core takes the fault that any next word takes. -/
theorem nop_takesOwed {s : State} {o : Owed} (hcur : s.cur = .mgmt) (hp : s.mgmt.ctx.phase = .running) (hg : s.mgmt.ctx.groups = [])
    (ho : s.mgmt.ctx.owedAny = some o) : exec (.nop 0 0) s = .next (takeTrap (s.modCtx .mgmt (fun x => { x with owed := none })) .mgmt []
      o.cause o.detail o.addr (some o.by_)) := by
  have hme : s.me = s.mgmt.ctx := congrArg s.ctx hcur
  have hlock : s.interlocked s.cur (.nop 0 0) = false := by
    rw [hcur, State.interlocked]
    show ((regsOf _ (.nop 0 0)).any _ || s.mgmt.ctx.groups.any _) = false
    rw [hg]
    rfl
  rw [exec_nop, execNop, issue_false_owed (.inl (hme ▸ hp)) hlock rfl (hme ▸ ho), hcur]

/-- Refutes O60: a memory that is not in canonical form lists address 0 twice; the trap record that begins at address 64
brings the line of both into plaintext, and address 0, which is outside the record, then reads the second entry. -/
theorem not_wordFrames : ¬ Obligations.WordFrames := by
  rintro ⟨hword, -⟩
  obtain ⟨s, hs⟩ : ∃ s, keyedTrapArea = s := ⟨_, rfl⟩
  have hcur : s.cur = .mgmt := by rw [← hs]; rfl
  have hbase : s.mgmt.ctx.trapbase.toNat = 64 := by rw [← hs]; rfl
  have hm : s.mem.cells = twiceListed := by rw [← hs]; rfl
  have hk : s.lineKeys = [(0, 0)] := by rw [← hs]; rfl
  have hexec := nop_takesOwed (o := ⟨0x15, 0, 0, ⟨0, 0, 0, false⟩, .next none⟩) hcur (by rw [← hs]; rfl) (by rw [← hs]; rfl) (by rw [← hs]; rfl)
  obtain ⟨-, ⟨-, hbyte, -⟩, -⟩ := hword (.nop 0 0) [] s _ rfl hexec
  have hme : s.me = s.mgmt.ctx := congrArg s.ctx hcur
  have hread := hbyte 0 (fun h => absurd (hbase ▸ hme ▸ h.2.1) (by decide))
  rw [byteAt_keyed s hm hk (by decide)] at hread
  obtain ⟨s1, hs1⟩ : ∃ x, s.modCtx .mgmt (fun x => { x with owed := none }) = x := ⟨_, rfl⟩
  rw [hs1] at hread
  obtain ⟨hmem, hkeys⟩ := mem_takeTrap_mgmt s1 [] 0x15 0 0 ⟨0, 0, 0, false⟩
  have hbase1 : s1.mgmt.ctx.trapbase.toNat = 64 := by rw [← hs1]; exact hbase
  rw [hbase1] at hmem hkeys
  obtain ⟨h1, h2⟩ := byteAt_writePa_twice s1 (by rw [← hs1]; exact hm) (by rw [← hs1]; exact hk) _ (trapRecord_length ..) _
  have hkey : (takeTrap s1 .mgmt [] 0x15 0 0 (some ⟨0, 0, 0, false⟩)).lineKey (0 / 128) = none := by
    rw [State.lineKey, hkeys, h1]; rfl
  rw [State.byteAt, hkey, if_pos rfl, hmem, h2] at hread
  exact absurd hread (by decide)

end Sys2Proof.Machine

/-! ## What the slices, the stores of units and the key requests leave -/

namespace Sys2Proof.Machine

/-! ### Steps of the slices and of the units' walks -/

/-- The step changes the slices, the TLBs and the timers of self-refresh only. -/
def SliceStep (s t : State) : Prop := ∃ cl hb, t = { s with clusters := cl, hbm := hb }

theorem SliceStep.refl (s : State) : SliceStep s s := ⟨s.clusters, s.hbm, rfl⟩

theorem SliceStep.trans {s t u : State} (h1 : SliceStep s t) (h2 : SliceStep t u) : SliceStep s u := by
  obtain ⟨_, _, rfl⟩ := h1
  obtain ⟨cl, hb, rfl⟩ := h2
  exact ⟨cl, hb, rfl⟩

theorem SliceStep.foldl {α : Type} {f : State → α → State} (hf : ∀ s x, SliceStep s (f s x)) (xs : List α) (s : State) :
    SliceStep s (xs.foldl f s) := by
  induction xs generalizing s with
  | nil => exact .refl s
  | cons x xs ih => exact (hf s x).trans (ih _)

/-- Steps that may hold, one after the other. -/
theorem SliceStep.foldl_bind {α : Type} {f : State → α → Option State} (hf : ∀ s x t, f s x = some t → SliceStep s t) (xs : List α) (o : Option State)
    {s : State} (ho : ∀ u, o = some u → SliceStep s u) {t : State} (h : xs.foldl (fun o x => o.bind (fun s => f s x)) o = some t) : SliceStep s t := by
  induction xs generalizing o with
  | nil => exact ho t h
  | cons x xs ih =>
    refine ih (o.bind (fun s => f s x)) (fun u hu => ?_) h
    obtain ⟨v, hv, hvu⟩ := Option.bind_eq_some_iff.mp hu
    exact (ho v hv).trans (hf v x u hvu)

theorem sliceStep_modSlice (s : State) (cg : Fin 32) (sl : Fin 10) (f : Slice → Slice) : SliceStep s (s.modSlice cg sl f) := ⟨_, s.hbm, rfl⟩

theorem sliceStep_wake (s : State) (pa : Nat) : SliceStep s (s.wake pa) := ⟨s.clusters, _, rfl⟩

theorem sliceStep_noteMiss (s : State) (pa : Nat) (cp : Fin 4) (m : Fin 128) (how : Duel) (pref : Bool) :
    SliceStep s (s.noteMiss pa cp m how pref) := by
  unfold State.noteMiss
  exact (sliceStep_wake s pa).trans (sliceStep_modSlice ..)

theorem sliceStep_touchLines (s : State) (pa n : Nat) (cp : Fin 4) (m : Fin 128) (how : Duel) (pref : Bool) :
    SliceStep s (s.touchLines pa n cp m how pref) := by
  unfold State.touchLines
  split
  · exact .refl s
  · refine SliceStep.foldl (fun s l => ?_) _ _
    dsimp only
    split
    · exact sliceStep_modSlice ..
    · split
      · exact sliceStep_wake ..
      · exact sliceStep_noteMiss ..

theorem sliceStep_touch (s : State) (pa n : Nat) (cp : Fin 4) (m : Fin 128) (how : Duel) : SliceStep s (s.touch pa n cp m how) :=
  sliceStep_touchLines ..

/-- A fill changes its slice. -/
theorem sliceFill_next (m : Fin 128) (line : Nat) (s : State) : ∃ t, execSliceFill m line s = .next t ∧ SliceStep s t := by
  unfold execSliceFill
  dsimp only
  split
  · exact ⟨_, rfl, sliceStep_modSlice ..⟩
  · exact ⟨s, rfl, .refl s⟩

theorem sliceStep_passLine {s t : State} {cp : Fin 4} {m : Fin 128} {how : Duel} {l : Nat} (h : s.passLine cp m how l = some t) : SliceStep s t := by
  unfold State.passLine at h
  dsimp only at h
  split at h
  · cases h; exact .refl s
  · split at h
    · cases h
    · obtain ⟨u, hu, hsu⟩ := sliceFill_next m l (s.touch (l * 128) 1 cp m how)
      rw [hu] at h
      dsimp only at h
      cases h
      split
      · exact ((sliceStep_touch ..).trans hsu).trans (sliceStep_touch ..)
      · exact sliceStep_touch ..

theorem sliceStep_passNow {s t : State} {pa n : Nat} {cp : Fin 4} {m : Fin 128} {how : Duel} (h : s.passNow pa n cp m how = some t) : SliceStep s t :=
  SliceStep.foldl_bind (fun _ _ _ hx => sliceStep_passLine hx) _ _ (fun _ hu => Option.some.inj hu ▸ .refl s) h

theorem sliceStep_tlbFill (s : State) (cl : Fin 32) (e : TlbEntry) : SliceStep s (s.tlbFill none cl e) := ⟨_, s.hbm, rfl⟩

theorem sliceStep_walkNow {s t : State} {cl : Fin 32} {m : Fin 128} {va : Nat} (h : s.walkNow cl m va = some t) : SliceStep s t := by
  unfold State.walkNow at h
  split at h
  · cases h; exact .refl s
  · have hreads : ∀ u, (s.walkReads m va).foldl (fun o a => o.bind (fun s => s.passNow a 8 0 m .plain)) (some s) = some u → SliceStep s u :=
      fun u hu => SliceStep.foldl_bind (fun _ _ _ hx => sliceStep_passNow hx) _ _ (fun _ hu => Option.some.inj hu ▸ .refl s) hu
    dsimp only at h
    split at h
    · obtain ⟨u, hu, rfl⟩ := Option.map_eq_some_iff.mp h
      exact (hreads u hu).trans (sliceStep_tlbFill ..)
    · exact hreads t h

theorem sliceStep_askLines (s : State) (pa n : Nat) (cp : Fin 4) (m : Fin 128) (how : Duel) : SliceStep s (s.askLines pa n cp m how) := by
  unfold State.askLines
  split
  · exact .refl s
  · exact sliceStep_touch ..

theorem sliceStep_passWalk (s : State) (m : Fin 128) (va : Nat) : SliceStep s (s.passWalk m va) := SliceStep.foldl (fun _ _ => sliceStep_touch ..) _ _

theorem sliceStep_walked (s : State) (cl : Fin 32) (m : Fin 128) (va : Nat) : SliceStep s (s.walked cl m va) := by
  unfold State.walked
  split
  · exact .refl s
  · split
    · exact (sliceStep_passWalk ..).trans (sliceStep_tlbFill ..)
    · exact sliceStep_passWalk ..

theorem sliceStep_walkStep {s t : State} {m : Fin 128} {va : Nat} (h : s.walkStep m va = some t) : SliceStep s t := by
  unfold State.walkStep at h
  split at h
  · cases h; exact sliceStep_askLines ..
  · cases h

theorem sliceStep_unitWalk {s t : State} {cl : Fin 32} {m : Fin 128} {va : Nat} (h : s.unitWalk cl m va = some t) : SliceStep s t := by
  unfold State.unitWalk at h
  split at h
  · cases h
  · exact sliceStep_walkStep h

/-! ### Stores of the units -/

/-- The step changes memory, and what the slices and the walks change. -/
def StoreStep (s t : State) : Prop := ∃ cl hb m h k, t = { s with clusters := cl, hbm := hb, mem := m, hostMem := h, lineKeys := k }

theorem StoreStep.refl (s : State) : StoreStep s s := ⟨s.clusters, s.hbm, s.mem, s.hostMem, s.lineKeys, rfl⟩

theorem StoreStep.trans {s t u : State} (h1 : StoreStep s t) (h2 : StoreStep t u) : StoreStep s u := by
  obtain ⟨_, _, _, _, _, rfl⟩ := h1
  obtain ⟨cl, hb, m, h, k, rfl⟩ := h2
  exact ⟨cl, hb, m, h, k, rfl⟩

theorem SliceStep.store {s t : State} (h : SliceStep s t) : StoreStep s t := by
  obtain ⟨cl, hb, rfl⟩ := h
  exact ⟨cl, hb, s.mem, s.hostMem, s.lineKeys, rfl⟩

theorem storeStep_ownLine (s : State) (key : Option Key) (l : Nat) : StoreStep s (s.ownLine key l) := by
  unfold State.ownLine
  split
  · exact .refl s
  · exact ⟨s.clusters, s.hbm, _, s.hostMem, _, rfl⟩

theorem storeStep_ownLines (s : State) (key : Option Key) (pa n : Nat) : StoreStep s (s.ownLines key pa n) := by
  unfold State.ownLines
  generalize linesOf pa n = ls
  induction ls generalizing s with
  | nil => exact .refl s
  | cons l ls ih => exact (storeStep_ownLine ..).trans (ih _)

theorem storeStep_writePa (s : State) (key : Option Key) (pa : Nat) (bs : List Byte) (mask : List Bool) : StoreStep s (s.writePa key pa bs mask) := by
  unfold State.writePa
  split
  · exact (storeStep_ownLines ..).trans ⟨_, _, _, _, _, rfl⟩
  · exact ⟨s.clusters, s.hbm, s.mem, _, s.lineKeys, rfl⟩
  · exact .refl s

theorem storeStep_storeLines {cl : Fin 32} {m : Fin 128} {fuel : Nat} {s t : State} {va : Nat} {bs : List Byte}
    (h : storeLines cl m fuel s va bs = .ok t) : StoreStep s t := by
  induction fuel generalizing s va bs with
  | zero => cases h; exact .refl _
  | succ fuel ih =>
    rw [storeLines] at h
    split at h
    · cases h; exact .refl _
    · dsimp only at h
      split at h
      · cases h
      · next s1 h1 =>
        split at h
        · cases h
        · cases h
        · split at h
          · cases h
          · split at h
            · cases h
            · next s2 h2 =>
              exact (((sliceStep_walkNow h1).trans (sliceStep_passNow h2)).store.trans (storeStep_writePa ..)).trans (ih h)

theorem storeStep_storeVa {s t : State} {cl : Fin 32} {m : Fin 128} {va : Nat} {bs : List Byte} (h : storeVa s cl m va bs = .ok t) : StoreStep s t :=
  storeStep_storeLines h

/-! ### Records for the host (R411, R413) -/

/-- The step changes rings, vectors and host memory; every function keeps its TDI state. -/
def RecordStep (s t : State) : Prop := ∃ v h, t = { s with vfs := v, hostMem := h } ∧ ∀ q, (v.get q).tdi = (s.vfs.get q).tdi

theorem RecordStep.refl (s : State) : RecordStep s s := ⟨s.vfs, s.hostMem, rfl, fun _ => rfl⟩

theorem RecordStep.trans {s t u : State} (h1 : RecordStep s t) (h2 : RecordStep t u) : RecordStep s u := by
  obtain ⟨_, _, rfl, hv⟩ := h1
  obtain ⟨v, h, rfl, hw⟩ := h2
  exact ⟨v, h, rfl, fun q => (hw q).trans (hv q)⟩

theorem recordStep_modVf (s : State) (q : Fin 32) (f : Vf → Vf) (hf : (f (s.vfs.get q)).tdi = (s.vfs.get q).tdi) : RecordStep s (s.modVf q f) := by
  refine ⟨_, s.hostMem, rfl, fun r => ?_⟩
  rw [vset_get]
  split
  · next h => rw [← h]; exact hf
  · rfl

theorem recordStep_raise (s : State) (q : Fin 32) (v : Fin 3) : RecordStep s (s.raise q v) := by
  refine recordStep_modVf _ _ _ ?_
  split <;> rfl

theorem recordStep_refillRing (s : State) (q : Fin 32) (fault : Bool) : RecordStep s (s.refillRing q fault) := by
  unfold State.refillRing
  extract_lets x r o s1
  have hs1 : RecordStep s s1 := by
    have h : RecordStep s { s with hostMem := o.2.1 } := ⟨s.vfs, _, rfl, fun _ => rfl⟩
    refine h.trans (recordStep_modVf _ _ _ ?_)
    split <;> rfl
  refine hs1.trans ?_
  generalize List.range o.2.2 = xs
  clear_value s1
  induction xs generalizing s1 with
  | nil => exact .refl s1
  | cons x xs ih => exact (recordStep_raise ..).trans (ih _ (hs1.trans (recordStep_raise ..)))

theorem recordStep_pushFault (s : State) (q : Fin 32) (e : List Byte) : RecordStep s (s.pushFault q e) := by
  unfold State.pushFault
  exact (recordStep_modVf s q _ rfl).trans (recordStep_refillRing ..)

theorem recordStep_pushCompletion (s : State) (q : Fin 32) (e : List Byte) : RecordStep s (s.pushCompletion q e) := by
  unfold State.pushCompletion
  dsimp only
  split
  · exact (recordStep_modVf s q _ rfl).trans (recordStep_refillRing ..)
  · split
    · exact .refl s
    · exact (recordStep_modVf s q _ rfl).trans (recordStep_raise ..)

/-! ### Key requests (R421, R422) -/

/-- The step changes keys, key requests, slices and answers only. -/
def KeyStep (s t : State) : Prop := ∃ ks er cl sp, t = { s with keys := ks, erasing := er, clusters := cl, spdm := sp }

theorem KeyStep.refl (s : State) : KeyStep s s := ⟨s.keys, s.erasing, s.clusters, s.spdm, rfl⟩

theorem KeyStep.trans {s t u : State} (h1 : KeyStep s t) (h2 : KeyStep t u) : KeyStep s u := by
  obtain ⟨_, _, _, _, rfl⟩ := h1
  obtain ⟨ks, er, cl, sp, rfl⟩ := h2
  exact ⟨ks, er, cl, sp, rfl⟩

theorem keyStep_answerVf (s : State) (q : Fin 32) (a : Answer) : KeyStep s (s.answerVf q a) := ⟨s.keys, s.erasing, s.clusters, _, rfl⟩

theorem keyStep_leaveSlices (s : State) (ks : List Key) : KeyStep s (leaveSlices s ks) := by
  rw [leaveSlices]
  exact ⟨s.keys, s.erasing, _, s.spdm, rfl⟩

theorem keyStep_loadKey (s : State) (q : Fin 32) (slot : Fin 4096) (hv : Bool) (w : BitVec 576) (n : Nat) : KeyStep s (loadKey s q slot hv w n) := by
  unfold loadKey
  split
  · exact keyStep_answerVf ..
  · split
    · exact keyStep_answerVf ..
    · exact KeyStep.trans ⟨_, s.erasing, s.clusters, s.spdm, rfl⟩ (keyStep_answerVf ..)

theorem keyStep_finishErase (s : State) (q : Fin 32) (slot : Fin 4096) (k : Key) (reply : Bool) : KeyStep s (finishErase s q slot k reply).1 := by
  unfold finishErase
  split
  · exact .refl s
  · dsimp only
    split
    · exact (keyStep_leaveSlices ..).trans (keyStep_answerVf ..)
    · exact keyStep_leaveSlices ..

theorem keyStep_clearSlots (s : State) (slots : List (Fin 4096)) : KeyStep s (clearSlots s slots) := ⟨_, s.erasing, s.clusters, s.spdm, rfl⟩

theorem keyStep_stepKeyJob (s : State) (j : KeyJob) : KeyStep s (stepKeyJob s j).1 := by
  unfold stepKeyJob
  split
  · exact keyStep_loadKey ..
  · exact keyStep_finishErase ..
  · split
    · exact .refl _
    · split
      · dsimp only
        split
        · exact keyStep_answerVf ..
        · exact .refl _
      · exact (keyStep_clearSlots ..).trans (keyStep_finishErase ..)

/-- One key request, in the order of the mailbox. -/
def jobTurn (s : State) (j : KeyJob) : State :=
  if s.erasing.any (fun x => x.slot == j.slot) then { s with erasing := s.erasing ++ [j] }
  else { (stepKeyJob s j).1 with erasing := (stepKeyJob s j).1.erasing ++ (stepKeyJob s j).2.toList }

theorem runKeyJobs_eq (s : State) : runKeyJobs s = s.erasing.foldl jobTurn { s with erasing := [] } := rfl

theorem keyStep_jobTurn (s : State) (j : KeyJob) : KeyStep s (jobTurn s j) := by
  unfold jobTurn
  split
  · exact ⟨s.keys, _, s.clusters, s.spdm, rfl⟩
  · exact (keyStep_stepKeyJob s j).trans ⟨_, _, _, _, rfl⟩

theorem keyStep_runKeyJobs (s : State) : KeyStep s (runKeyJobs s) := by
  rw [runKeyJobs_eq]
  have h : ∀ (js : List KeyJob) (t : State), KeyStep t (js.foldl jobTurn t) := fun js => by
    induction js with
    | nil => exact fun t => .refl t
    | cons j js ih => exact fun t => (keyStep_jobTurn t j).trans (ih _)
  exact KeyStep.trans ⟨s.keys, [], s.clusters, s.spdm, rfl⟩ (h _ _)

/-- No key is in a slot. -/
def slotClear (s : State) (n : Fin 4096) : Prop := ∀ k ∈ s.keys, k.slot ≠ n

/-- A request of a slot is to be made. -/
def slotQueued (s : State) (n : Fin 4096) : Prop := s.erasing.any (fun j => j.slot == n) = true

/-- What an erasure of one slot, no earlier request of which waits, does: it leaves the other slots' keys or takes some away, and either
the slot is empty, or the launches that end first are still there. -/
theorem stepKeyJob_erase (s : State) (q : Fin 32) (slot : Fin 4096) (after : List Nat) : let o := stepKeyJob s (.erase q slot none after false)
    (∀ k ∈ o.1.keys, k ∈ s.keys) ∧ o.1.erasing = s.erasing ∧ (∀ j ∈ o.2, KeyJob.slot j = slot)
      ∧ (slotClear o.1 slot ∨ (after ≠ [] ∧ ∃ j, o.2 = some j)) := by
  intro o
  have hfin : ∀ (s : State) (k : Key), (finishErase s q slot k false).1.keys = s.keys ∧ (finishErase s q slot k false).1.erasing = s.erasing
      ∧ ∀ j ∈ (finishErase s q slot k false).2, KeyJob.slot j = slot := fun s k => by
    unfold finishErase
    split
    · exact ⟨rfl, rfl, fun j hj => by cases hj; rfl⟩
    · exact ⟨leaveSlices_keys .., leaveSlices_erasing .., fun j hj => absurd hj (Option.not_mem_none j)⟩
  by_cases ha : after.any (fun n => s.launches.any (fun l => l.id == n)) = true
  · have ho : o = (s, some (.erase q slot none after false)) := if_pos ha
    rw [ho]
    refine ⟨fun k hk => hk, rfl, fun j hj => by cases hj; rfl, .inr ⟨fun h => ?_, _, rfl⟩⟩
    rw [h] at ha
    exact Bool.false_ne_true ha
  · cases hl : s.loaded slot with
    | none =>
      have ho : o = (s, none) := by
        simp only [o, stepKeyJob]
        rw [if_neg ha, hl] <;> rfl
      rw [ho]
      refine ⟨fun k hk => hk, rfl, fun j hj => absurd hj (Option.not_mem_none j), .inl fun k hk he => ?_⟩
      have := List.find?_eq_none.mp hl k hk
      rw [he] at this
      exact this (beq_self_eq_true _)
    | some k =>
      have ho : o = finishErase (clearSlots s [slot]) q slot k.key false := by
        simp only [o, stepKeyJob]
        rw [if_neg ha, hl] <;> rfl
      obtain ⟨h1, h2, h3⟩ := hfin (clearSlots s [slot]) k.key
      rw [ho]
      refine ⟨fun k hk => ?_, h2, h3, .inl fun k hk he => ?_⟩
      · rw [h1] at hk
        exact (List.mem_filter.mp hk).1
      · rw [h1] at hk
        have := (List.mem_filter.mp hk).2
        rw [he] at this
        rw [List.contains_cons, beq_self_eq_true] at this
        exact Bool.false_ne_true this

theorem slotQueued_append (s : State) (js : List KeyJob) (n : Fin 4096) :
    slotQueued { s with erasing := s.erasing ++ js } n ↔ slotQueued s n ∨ js.any (fun j => j.slot == n) = true := by
  rw [slotQueued, slotQueued, List.any_append, Bool.or_eq_true]

/-- The turn of an erasure adds no key and drops no request. -/
theorem jobTurn_erase (s : State) (q : Fin 32) (slot : Fin 4096) (after : List Nat) : let t := jobTurn s (.erase q slot none after false)
    (∀ k ∈ t.keys, k ∈ s.keys) ∧ (∀ n, slotQueued s n → slotQueued t n) ∧ (slotClear t slot ∨ slotQueued t slot) := by
  intro t
  by_cases hq : slotQueued s slot
  · have ht : t = { s with erasing := s.erasing ++ [.erase q slot none after false] } := if_pos hq
    rw [ht]
    exact ⟨fun k hk => hk, fun n hn => (slotQueued_append ..).mpr (.inl hn), .inr ((slotQueued_append ..).mpr (.inl hq))⟩
  · obtain ⟨h1, h2, h3, h4⟩ := stepKeyJob_erase s q slot after
    have ht : t = { (stepKeyJob s (.erase q slot none after false)).1 with
        erasing := (stepKeyJob s (.erase q slot none after false)).1.erasing ++ (stepKeyJob s (.erase q slot none after false)).2.toList } := if_neg hq
    rw [ht]
    refine ⟨h1, fun n hn => (slotQueued_append ..).mpr (.inl ?_), h4.imp id fun ⟨_, j, hj⟩ => (slotQueued_append ..).mpr (.inr ?_)⟩
    · rw [slotQueued, h2]; exact hn
    · rw [hj]
      exact List.any_eq_true.mpr ⟨j, List.mem_singleton.mpr rfl, beq_iff_eq.mpr (h3 j hj)⟩

/-- The turn of an erasure that waits for no launch empties its slot, where every queued slot is empty. -/
theorem jobTurn_erase_now (s : State) (q : Fin 32) (slot : Fin 4096) (hinv : ∀ n, slotQueued s n → slotClear s n) :
    let t := jobTurn s (.erase q slot none [] false)
    (∀ n, slotQueued t n → slotClear t n) ∧ slotClear t slot := by
  intro t
  by_cases hq : slotQueued s slot
  · have ht : t = { s with erasing := s.erasing ++ [.erase q slot none [] false] } := if_pos hq
    rw [ht]
    refine ⟨fun n hn => ((slotQueued_append ..).mp hn).elim (hinv n) fun h => ?_, hinv slot hq⟩
    have hn : slot = n := by
      rw [List.any_cons, List.any_nil, Bool.or_false] at h
      exact beq_iff_eq.mp h
    exact hn ▸ hinv slot hq
  · obtain ⟨h1, h2, h3, h4⟩ := stepKeyJob_erase s q slot []
    have hclear : slotClear (stepKeyJob s (.erase q slot none [] false)).1 slot := h4.resolve_right fun h => h.1 rfl
    have ht : t = { (stepKeyJob s (.erase q slot none [] false)).1 with
        erasing := (stepKeyJob s (.erase q slot none [] false)).1.erasing ++ (stepKeyJob s (.erase q slot none [] false)).2.toList } := if_neg hq
    rw [ht]
    refine ⟨fun n hn => ((slotQueued_append ..).mp hn).elim (fun h => ?_) fun h => ?_, hclear⟩
    · rw [slotQueued, h2] at h
      exact fun k hk => hinv n h k (h1 k hk)
    · obtain ⟨j, hj, hs⟩ := List.any_eq_true.mp h
      have hn : slot = n := (h3 j (Option.mem_toList.mp hj)).symm.trans (beq_iff_eq.mp hs)
      exact hn ▸ hclear

/-- Every slot of a partition is empty or to be erased, and empty where nothing holds the erasures back. -/
theorem eraseAll_clears (s : State) (p : Partition) (after : List Nat) : let t := eraseAll s p after
    KeyStep s t ∧ ∀ n ∈ p.keys, (slotClear t n ∨ slotQueued t n) ∧ (s.erasing = [] → after = [] → slotClear t n) := by
  intro t
  have hjobs : t = (p.keys.map (fun k => KeyJob.erase p.q k none after false)).foldl jobTurn (s.erasing.foldl jobTurn { s with erasing := [] }) := by
    rw [← List.foldl_append]
    rfl
  refine ⟨KeyStep.trans ⟨s.keys, _, s.clusters, s.spdm, rfl⟩ (keyStep_runKeyJobs _), fun n hn => ⟨?_, fun he ha => ?_⟩⟩
  · have hkeep : ∀ (ks : List (Fin 4096)) (u : State), (slotClear u n ∨ slotQueued u n ∨ n ∈ ks) →
        (slotClear ((ks.map (fun k => KeyJob.erase p.q k none after false)).foldl jobTurn u) n
          ∨ slotQueued ((ks.map (fun k => KeyJob.erase p.q k none after false)).foldl jobTurn u) n) := fun ks => by
      induction ks with
      | nil => exact fun u h => h.imp id (·.resolve_right List.not_mem_nil)
      | cons k ks ih =>
        intro u h
        obtain ⟨h1, h2, h3⟩ := jobTurn_erase u p.q k after
        refine ih _ (h.elim (fun h => .inl fun x hx => h x (h1 x hx)) fun h => h.elim (fun h => .inr (.inl (h2 n h))) fun h => ?_)
        rcases List.mem_cons.mp h with rfl | h
        · exact h3.imp id .inl
        · exact .inr (.inr h)
    rw [hjobs]
    exact hkeep p.keys _ (.inr (.inr hn))
  · subst ha
    have hkeep : ∀ (ks : List (Fin 4096)) (u : State), (∀ m, slotQueued u m → slotClear u m) → (slotClear u n ∨ n ∈ ks) →
        slotClear ((ks.map (fun k => KeyJob.erase p.q k none [] false)).foldl jobTurn u) n := fun ks => by
      induction ks with
      | nil => exact fun u _ h => h.resolve_right List.not_mem_nil
      | cons k ks ih =>
        intro u hinv h
        obtain ⟨h1, -, -⟩ := jobTurn_erase u p.q k []
        obtain ⟨h2, h3⟩ := jobTurn_erase_now u p.q k hinv
        refine ih _ h2 (h.elim (fun h => .inl fun x hx => h x (h1 x hx)) fun h => ?_)
        rcases List.mem_cons.mp h with rfl | h
        · exact .inl h3
        · exact .inr h
    rw [hjobs, he]
    exact hkeep p.keys _ (fun m hm => absurd hm Bool.false_ne_true) (.inr hn)

end Sys2Proof.Machine

/-! ## Interfaces and partitions -/

namespace Sys2Proof.Machine

/-! ### What the completion of a launch leaves to the key requests and the interfaces -/

/-- The key requests and every function's TDI state stay. -/
def KeepsTdi (s t : State) : Prop := t.erasing = s.erasing ∧ ∀ q, (t.vfs.get q).tdi = (s.vfs.get q).tdi

theorem KeepsTdi.refl (s : State) : KeepsTdi s s := ⟨rfl, fun _ => rfl⟩

theorem KeepsTdi.trans {s t u : State} (h1 : KeepsTdi s t) (h2 : KeepsTdi t u) : KeepsTdi s u :=
  ⟨h2.1.trans h1.1, fun q => (h2.2 q).trans (h1.2 q)⟩

theorem KeepsTdi.foldl {α : Type} {f : State → α → State} (hf : ∀ s x, KeepsTdi s (f s x)) (xs : List α) (s : State) :
    KeepsTdi s (xs.foldl f s) := by
  induction xs generalizing s with
  | nil => exact .refl s
  | cons x xs ih => exact (hf s x).trans (ih _)

theorem StoreStep.keepsTdi {s t : State} (h : StoreStep s t) : KeepsTdi s t := by
  obtain ⟨_, _, _, _, _, rfl⟩ := h
  exact ⟨rfl, fun _ => rfl⟩

theorem RecordStep.keepsTdi {s t : State} (h : RecordStep s t) : KeepsTdi s t := by
  obtain ⟨_, _, rfl, hv⟩ := h
  exact ⟨rfl, hv⟩

theorem keepsTdi_endLaunch (s : State) (q : Fin 32) (c : Fin 4) (a b d : Nat) : KeepsTdi s (endLaunch s q c a b d) := by
  obtain ⟨tl, h⟩ := endLaunch_eq s q c a b d
  rw [h]
  exact ⟨rfl, fun _ => rfl⟩

theorem keepsTdi_park (s : State) (src : Source) (m : Fin 128) (k : Kind) (va level : Nat) : KeepsTdi s (s.park src m k va level).2 :=
  KeepsTdi.trans ⟨rfl, fun _ => rfl⟩ (recordStep_pushFault ..).keepsTdi

theorem keepsTdi_parkLaunch (s : State) (l : Launch) (d : Fin 2) (m : Fin 128) (k : Kind) (va level : Nat) :
    KeepsTdi s (parkLaunch s l d m k va level) := by
  unfold parkLaunch
  split
  · exact (keepsTdi_park s (.unit d) m k va level).trans ⟨rfl, fun _ => rfl⟩
  · exact .refl s

theorem keepsTdi_signal (s : State) (g : AgentId) (q : Fin 16) : KeepsTdi s (s.signal g q) := by
  unfold State.signal
  split
  · cases g <;> exact ⟨rfl, fun _ => rfl⟩
  · cases g <;> exact ⟨rfl, fun _ => rfl⟩

theorem keepsTdi_notifyDone (s : State) (l : Launch) : KeepsTdi s (notifyDone s l) := by
  unfold notifyDone
  split
  · exact .refl s
  · split
    · split
      · exact keepsTdi_signal ..
      · exact .refl s
    · exact .refl s

theorem keepsTdi_dropParked (s : State) (id : Nat) (q : Fin 32) (c : Fin 4) : KeepsTdi s (dropParked s id q c) :=
  KeepsTdi.foldl (f := State.unpark) (fun _ _ => ⟨rfl, fun _ => rfl⟩) _ s

theorem keepsTdi_releaseLaunch (s : State) (p : Partition) (l : Launch) : KeepsTdi s (releaseLaunch s p l) := by
  unfold releaseLaunch
  have h : KeepsTdi s (unbindGroups (dropParked s l.id l.q l.c) l) := (keepsTdi_dropParked s l.id l.q l.c).trans ⟨rfl, fun _ => rfl⟩
  generalize unbindGroups (dropParked s l.id l.q l.c) l = s1 at h ⊢
  exact h.trans ⟨rfl, fun _ => rfl⟩

theorem keepsTdi_completeLaunch (s : State) (p : Partition) (l : Launch) : KeepsTdi s (completeLaunch s p l) := by
  unfold completeLaunch
  dsimp only
  split
  · exact .refl s
  · exact keepsTdi_parkLaunch ..
  · exact ((recordStep_pushCompletion ..).keepsTdi.trans (keepsTdi_releaseLaunch ..)).trans (keepsTdi_notifyDone ..)
  · next s1 h =>
    exact (((storeStep_storeVa h).keepsTdi.trans (recordStep_pushCompletion ..).keepsTdi).trans (keepsTdi_releaseLaunch ..)).trans (keepsTdi_notifyDone ..)

theorem keepsTdi_completeUnwritten (s : State) (p : Partition) (l : Launch) : KeepsTdi s (completeUnwritten s p l) := by
  unfold completeUnwritten
  exact ((recordStep_pushCompletion ..).keepsTdi.trans (keepsTdi_releaseLaunch ..)).trans (keepsTdi_notifyDone ..)

theorem keepsTdi_finishLaunch (s : State) (p : Partition) (l : Launch) : KeepsTdi s (finishLaunch s p l) := by
  unfold finishLaunch
  dsimp only
  split
  · exact keepsTdi_endLaunch ..
  · split
    · exact ((keepsTdi_endLaunch ..).trans (keepsTdi_completeLaunch ..)).trans (keepsTdi_completeUnwritten ..)
    · exact (keepsTdi_endLaunch ..).trans (keepsTdi_completeLaunch ..)

/-! ### Interfaces and partitions (R417, R423, R441) -/

/-- A request of the host is an event of the management core. -/
theorem hostRequest_eq (s : State) : ∃ m, hostRequest s = { s with mgmt := m } ∧ m.requests = s.mgmt.requests + 1 := by
  unfold hostRequest State.event
  dsimp only
  split
  · split
    · exact ⟨_, rfl, rfl⟩
    · exact ⟨_, rfl, rfl⟩
  · exact ⟨_, rfl, rfl⟩

theorem modVf_id (s : State) (q : Fin 32) : s.modVf q id = s := by
  rw [State.modVf]
  exact congrArg (fun v => { s with vfs := v }) (vset_get_self ..)

/-- A TDI that leaves its lock: its launches end, and its key slots are erased after them. -/
theorem leaveRun_leaves (s : State) (q : Fin 32) (t : Tdi) : let u := leaveRun s q t
    (u.vfs.get q).tdi = t ∧ (∀ l ∈ u.launches, l.q = q → l.ending.isSome = true)
      ∧ (∀ p, s.part q = some p → ∀ n ∈ p.keys, (slotClear u n ∨ slotQueued u n)
        ∧ (s.erasing = [] → (∀ l ∈ s.launches, l.q ≠ q) → slotClear u n)) ∧ u.mem = s.mem := by
  intro u
  obtain ⟨ls, hls⟩ : ∃ x, s.launches.filter (fun l => l.q == q) = x := ⟨_, rfl⟩
  obtain ⟨tl, h⟩ := foldl_endLaunch (fun _ : Launch => q) (fun l => l.c) (8, 0, 0) ls s
  obtain ⟨s1, hs1⟩ : ∃ x, (ls.foldl (fun s l => endLaunch s q l.c 8 0 0) s).modVf q (fun x => { x with tdi := t }) = x := ⟨_, rfl⟩
  have hends : ∀ l ∈ s1.launches, l.q = q → l.ending.isSome = true := fun l hl hq => by
    rw [← hs1, h] at hl
    obtain ⟨x, hx, rfl⟩ := List.mem_map.mp hl
    split at hq
    · next hany => rw [if_pos hany]; exact endedWith_isSome ..
    · next hany =>
      refine absurd (List.any_eq_true.mpr ⟨x, hls ▸ List.mem_filter.mpr ⟨hx, beq_iff_eq.mpr hq⟩, ?_⟩) hany
      rw [hq, beq_self_eq_true, beq_self_eq_true] <;> rfl
  have htdi : (s1.vfs.get q).tdi = t := by
    rw [← hs1]
    exact congrArg Vf.tdi (vset_self ..)
  have hpart : s1.part q = s.part q := by rw [← hs1, h]; rfl
  have hmem : s1.mem = s.mem := by rw [← hs1, h]; rfl
  have her : s1.erasing = s.erasing := by rw [← hs1, h]; rfl
  cases hp : s.part q with
  | none =>
    have hu : u = s1 := by
      have : u = (match s1.part q with | some p => eraseAll s1 p (ls.map (fun l => l.id)) | none => s1) := by rw [← hs1, ← hls]; rfl
      rw [this, hpart, hp]
    rw [hu]
    exact ⟨htdi, hends, nofun, hmem⟩
  | some p =>
    have hu : u = eraseAll s1 p (ls.map (fun l => l.id)) := by
      have : u = (match s1.part q with | some p => eraseAll s1 p (ls.map (fun l => l.id)) | none => s1) := by rw [← hs1, ← hls]; rfl
      rw [this, hpart, hp]
    obtain ⟨hk, hclear⟩ := eraseAll_clears s1 p (ls.map (fun l => l.id))
    rw [← hu] at hk hclear
    obtain ⟨_, _, _, _, he⟩ := hk
    rw [he] at hclear ⊢
    refine ⟨htdi, hends, fun x hx n hn => ?_, hmem⟩
    rw [← Option.some.inj hx] at hn
    refine ⟨(hclear n hn).1, fun h0 hnone => (hclear n hn).2 (her.trans h0) ?_⟩
    rw [List.map_eq_nil_iff, ← hls]
    exact List.filter_eq_nil_iff.mpr fun l hl => fun hq => hnone l hl (beq_iff_eq.mp hq)

/-- An interface that cannot take the request answers with an error. -/
theorem lockInterface_refused {s : State} {q : Fin 32} {start : Bool} (h : s.featured 1 = true)
    (h1 : ¬((s.vfs.get q).tdi = .unlocked ∧ start = false)) (h2 : ¬((s.vfs.get q).tdi = .locked ∧ start = true)) :
    exec (.lockInterface ⟨q, start⟩) s = .next (s.answerVf q .unspecified) := by
  refine (if_neg (by rw [h]; decide)).trans ?_
  split
  · next ht hs => exact absurd ⟨ht, hs⟩ h1
  · next ht hs => exact absurd ⟨ht, hs⟩ h2
  · rfl

theorem eraseSlots_eq (s : State) (ks : List (Fin 4096)) : ∃ cls, eraseSlots s ks
    = { s with clusters := cls, keys := s.keys.filter (fun k => !ks.contains k.slot) } := by
  rw [eraseSlots, leaveSlices]
  exact ⟨_, rfl⟩

/-- A partition as it is created. -/
def created (s : State) (q : Fin 32) (cl : BitVec 32) (ks : List (Fin 4096)) (peer host : Bool) (owner : BitVec 256) (area : Word) : State :=
  let s1 := eraseSlots (zeroUnits s cl) ks
  let win : Word := BitVec.ofNat 64 ((cl &&& s1.pf.availCg).toNat + 2 ^ 32 * b2n peer + 2 ^ 33 * b2n host)
  { s1 with parts := s1.parts ++ [⟨q, cl, ks, peer, host, owner, area⟩], xltWin := vset s1.xltWin q win }

theorem partitionCreate_eq (q : Fin 32) (cl : BitVec 32) (ks : List (Fin 4096)) (peer host : Bool) (owner : BitVec 256) (area : Word) (s : State) :
    exec (.partitionCreate q cl ks peer host owner area) s
      = .next (if mayCreate (hostRequest s) q cl ks then created (hostRequest s) q cl ks peer host owner area else hostRequest s) := by
  rw [exec_partitionCreate, execPartitionCreate, created]
  dsimp only
  split <;> rfl

/-- What is left of a partition that is destroyed, its launches finished. -/
def destroyed (s1 : State) (p : Partition) (q : Fin 32) : State :=
  let s3 := (eraseAll s1 p []).modVf q (fun x => { x with tdi := if x.tdi.frozen then .error else x.tdi })
  { s3 with
      parts := s3.parts.filter (fun x => x.q != q), aper := s3.aper.filter (fun a => a.q != q), shelf := s3.shelf.filter (fun l => l.q != q), xltWin := vset s3.xltWin q 0
      saves := s3.saves.filter (fun v => !s3.shelf.any (fun l => l.q == q && l.id == v.launch)) }

theorem partitionDestroy_eq {q : Fin 32} {p : Partition} {s s0 s1 : State} (h0 : hostRequest s = s0) (hp : s0.part q = some p)
    (h1 : (s0.launches.filter (fun l => l.q == q)).foldl (fun s l => finishLaunch s p l) s0 = s1) :
    exec (.partitionDestroy q) s = .next (destroyed s1 p q) := by
  rw [exec_partitionDestroy, execPartitionDestroy, h0]
  dsimp only
  rw [hp, ← h1] <;> rfl

/-- Settles O59. -/
theorem interfacesAndPartitions : Obligations.InterfacesAndPartitions := by
  intro q f stream er cl ks peer host owner area s lock vf tdi create cleared
  refine ⟨fun h => ?noIde, fun h hs hf => ?ide, fun h => ?noTdisp, fun h => ?lock, fun h => ?unlock, fun h1 h2 h3 h4 h5 h6 => ?create, fun h => ?refused, fun p hp => ?destroy⟩
  case noIde => exact if_pos (by rw [h] <;> rfl)
  case ide =>
    refine (if_neg (by rw [h]; decide)).trans (if_pos (Bool.and_eq_true_iff.mpr ⟨decide_eq_true hs, ?_⟩))
    rcases hf with rfl | hne
    · rfl
    · cases f with
      | pf => rfl
      | vf _ => exact bne_iff_ne.mpr hne
  case noTdisp =>
    have hno : ∀ start, lock start = vf id .unsupported := fun start => by
      refine (if_pos (by rw [h] <;> rfl)).trans ?_
      simp only [vf, modVf_id]
      rfl
    exact ⟨hno false, hno true⟩
  case lock =>
    have hno : ∀ start, ¬(tdi = .unlocked ∧ start = false) → ¬(tdi = .locked ∧ start = true) → lock start = vf id .unspecified := fun start h1 h2 => by
      refine (lockInterface_refused h h1 h2).trans ?_
      simp only [vf, modVf_id]
      rfl
    refine ⟨fun ht => ⟨?_, hno true (by rintro ⟨-, h⟩; cases h) (by rw [ht]; rintro ⟨h, -⟩; cases h)⟩,
      fun ht => ⟨?_, hno false (by rw [ht]; rintro ⟨h, -⟩; cases h) (by rintro ⟨-, h⟩; cases h)⟩, fun ht => ?_⟩
    · refine (if_neg (by rw [h]; decide)).trans ?_
      rw [show (s.vfs.get q).tdi = .unlocked from ht] <;> rfl
    · refine (if_neg (by rw [h]; decide)).trans ?_
      rw [show (s.vfs.get q).tdi = .locked from ht] <;> rfl
    · have h1 : tdi ≠ .unlocked := by rcases ht with ht | ht <;> rw [ht] <;> decide
      have h2 : tdi ≠ .locked := by rcases ht with ht | ht <;> rw [ht] <;> decide
      exact ⟨hno true (fun h => h1 h.1) (fun h => h2 h.1), hno false (fun h => h1 h.1) (fun h => h2 h.1)⟩
  case unlock =>
    have ht : tdi ≠ (if er then .error else .unlocked) := by rcases h with ht | ht <;> rw [ht] <;> cases er <;> decide
    obtain ⟨h1, h2, h3, h4⟩ := leaveRun_leaves s q (if er then .error else .unlocked)
    exact ⟨_, if_neg ht, h1, h2, h3, h4⟩
  case create =>
    obtain ⟨m, hm, hreq⟩ := hostRequest_eq s
    have hmay : mayCreate { s with mgmt := m } q cl ks = true := by
      unfold mayCreate
      rw [show ({ s with mgmt := m } : State).part q = none from h1]
      simp only [Option.isNone_none, Bool.true_and, Bool.and_eq_true, bne_iff_ne, beq_iff_eq, List.all_eq_true, Bool.not_eq_true', ne_eq]
      refine ⟨⟨⟨⟨h2, h3⟩, h4⟩, fun p hp => ⟨(h5 p hp).1, fun k hk => ?_⟩⟩, fun k hk => ?_⟩
      · exact Bool.eq_false_iff.mpr fun hc => (h5 p hp).2 k hk (List.contains_iff_mem.mp hc)
      · refine Bool.eq_false_iff.mpr fun hc => ?_
        obtain ⟨j, hj, hjs⟩ := List.any_eq_true.mp hc
        exact h6 j hj (beq_iff_eq.mp hjs ▸ hk)
    obtain ⟨cls, hsl⟩ := eraseSlots_eq (zeroUnits { s with mgmt := m } cl) ks
    refine ⟨created { s with mgmt := m } q cl ks peer host owner area, ?_, ?_⟩
    · refine (partitionCreate_eq ..).trans ?_
      rw [hm, if_pos hmay]
    rw [created, hsl]
    dsimp only [zeroUnits]
    refine ⟨rfl, fun k hk hc => ?_, ?_, fun t ht => ?_, fun t ht => ?_, rfl, hreq⟩
    · have := (List.mem_filter.mp hk).2
      rw [List.contains_iff_mem.mpr hc] at this
      exact Bool.false_ne_true this
    · refine congrArg (fun w => vset s.xltWin q (BitVec.ofNat 64 w)) ?_
      cases peer <;> cases host <;> rfl
    · have hz : (Vector.ofFn (fun t : Fin 256 => if cl.getLsbD (t.val / 8) then (s.tiles.get t).zeroed else s.tiles.get t)).get t = (s.tiles.get t).zeroed := by
        rw [Vector.get_eq_getElem, Vector.getElem_ofFn]
        exact if_pos ht
      exact ⟨congrArg Tile.scratch hz, congrArg Tile.imem hz⟩
    · refine (Vector.get_eq_getElem ..).trans ((Vector.getElem_ofFn ..).trans ?_)
      exact if_neg (by rw [ht]; decide)
  case refused =>
    obtain ⟨m, hm, -⟩ := hostRequest_eq s
    have hmay : mayCreate { s with mgmt := m } q cl ks = false := by
      unfold mayCreate
      obtain ⟨p, hp⟩ := Option.isSome_iff_exists.mp h
      rw [show ({ s with mgmt := m } : State).part q = some p from hp]
      simp only [Option.isNone_some, Bool.false_and]
    refine ⟨{ s with mgmt := m }, (partitionCreate_eq ..).trans ?_, rfl, rfl, rfl, rfl⟩
    rw [hm, hmay] <;> rfl
  case destroy =>
    obtain ⟨m, hm, -⟩ := hostRequest_eq s
    obtain ⟨her, htdi⟩ : KeepsTdi { s with mgmt := m } (({ s with mgmt := m } : State).launches.filter (fun l => l.q == q) |>.foldl
        (fun s l => finishLaunch s p l) { s with mgmt := m }) := KeepsTdi.foldl (fun _ _ => keepsTdi_finishLaunch ..) _ _
    obtain ⟨s1, hs1⟩ : ∃ x, (({ s with mgmt := m } : State).launches.filter (fun l => l.q == q)).foldl
        (fun s l => finishLaunch s p l) { s with mgmt := m } = x := ⟨_, rfl⟩
    rw [hs1] at her htdi
    obtain ⟨⟨_, _, _, _, he⟩, hclear⟩ := eraseAll_clears s1 p []
    refine ⟨_, partitionDestroy_eq hm hp hs1, ?_, fun n hn => ⟨(hclear n hn).1, fun h0 => (hclear n hn).2 (her.trans h0) rfl⟩, fun ht => ?_⟩
    · exact List.find?_eq_none.mpr fun x hx hq => absurd (beq_iff_eq.mp hq) (bne_iff_ne.mp (List.mem_filter.mp hx).2)
    · refine (congrArg Vf.tdi (vset_self ..)).trans (if_pos ?_)
      rw [he]
      refine (congrArg Tdi.frozen (htdi q)).trans ?_
      rcases ht with ht | ht
      · exact congrArg Tdi.frozen ht
      · exact congrArg Tdi.frozen ht

end Sys2Proof.Machine

/-! ## Requests to memory -/

namespace Sys2Proof.Machine

/-! ### Requests that go into the network (R256 to R258) -/

/-- The mark of a context after its tile's interface has sent one more request. -/
def nextMark (s : State) : AgentId → Nat
  | .tile t _ => (s.tile t).sends + 1
  | .mgmt => 0

theorem ctx_oneMoreSend (s : State) (t : Fin 256) (g : AgentId) : (s.modTile t (fun y => { y with sends := y.sends + 1 })).ctx g = s.ctx g :=
  ctx_modTile (s := s) (t := t) (f := fun y => { y with sends := y.sends + 1 }) (fun _ => rfl) g

/-- A sent request stands behind those that have been sent, before those that have not, and the context takes its mark. -/
theorem ctx_sendReq (s : State) (g : AgentId) (r : MemReq) : (s.sendReq g r).ctx g = { s.ctx g with
    reqs := (s.ctx g).reqs.takeWhile (fun e => !e.stage.unsent) ++ { r with stage := .sent, sentAt := s.sends g }
      :: (s.ctx g).reqs.dropWhile (fun e => !e.stage.unsent)
    sendMark := nextMark s g } := by
  cases g with
  | mgmt => simp only [State.sendReq, State.mark, ctx_modCtx_self]; rfl
  | tile t c =>
    simp only [State.sendReq, State.mark, ctx_modCtx_self]
    rw [ctx_oneMoreSend, ctx_modCtx_self]
    simp only [State.sends, tile_modTile_self, nextMark, tile_modCtx_self]

theorem ctx_sendReq_other (s : State) {g g' : AgentId} (h : g' ≠ g) (r : MemReq) : (s.sendReq g r).ctx g' = s.ctx g' := by
  cases g with
  | mgmt => simp only [State.sendReq, State.mark, ctx_modCtx, if_neg h.symm]
  | tile t c => rw [State.sendReq, State.mark, ctx_modCtx, if_neg h.symm, ctx_oneMoreSend, ctx_modCtx, if_neg h.symm]

/-- The requests and marks of a state do not depend on the buffer of the context. -/
theorem ctx_sendReq_wcb (s : State) (g : AgentId) (r : MemReq) (ws : List WcbLine) :
    ((s.modCtx g (fun c => { c with wcb := ws })).sendReq g r).ctx g = { (s.sendReq g r).ctx g with wcb := ws } := by
  have hs : (s.modCtx g (fun c => { c with wcb := ws })).sends g = s.sends g ∧ nextMark (s.modCtx g (fun c => { c with wcb := ws })) g = nextMark s g := by
    cases g with
    | mgmt => exact ⟨rfl, rfl⟩
    | tile t c => simp only [State.sends, nextMark, tile_modCtx_self, and_self]
  rw [ctx_sendReq, ctx_sendReq, ctx_modCtx_self, hs.1, hs.2]

theorem enter_forwards {s : State} {g : AgentId} {r : MemReq} (hf : r.op.forwards = true) (hrel : r.rel = false) :
    s.enter g r = s.sendReq g { r with fwd := (s.ctx g).forward r.pa r.len } := enter_load hf hrel

/-- An access that does not merge passes an empty buffer. -/
theorem enter_empty {s : State} {g : AgentId} {r : MemReq} (hm : r.merges = none) (hf : r.op.forwards = false) (hw : (s.ctx g).wcb = []) :
    s.enter g r = s.sendReq g { r with fwd := [] } := by
  have hd : ∀ p, s.drain g p = s := fun p => drain_none (by rw [hw]; exact fun w h => absurd h List.not_mem_nil)
  rw [State.enter, hm]
  simp only [hf, hd, Bool.false_eq_true, if_false]

/-- A plain store joins a buffer that has room. -/
theorem enter_merge {s : State} {g : AgentId} {r : MemReq} {bs : List Byte} (hm : r.merges = some bs) (hl : (s.ctx g).wcb.length < 4) {w : WcbLine}
    (hw : r.entry bs ((s.ctx g).wcb.find? (fun w => w.line == r.pa / 128)) (s.dies.get (agentDie g)).cycle.toNat = w) :
    let s2 := s.modCtx g (fun c => { c with wcb := c.wcb.filter (fun w => w.line != r.pa / 128) ++ [w] })
    s.enter g r = if w.mask.all id then s2.drain g (fun w => w.line == r.pa / 128) else s2 := by
  intro s2
  rw [State.enter, hm]
  simp only [State.merge, hw]
  have h4 : decide (4 ≤ (s.ctx g).wcb.length) = false := decide_eq_false (Nat.not_le.mpr hl)
  simp only [h4, Bool.false_and, Bool.false_eq_true, if_false]
  cases (s.ctx g).wcb with
  | nil => rfl
  | cons v ws => rfl

/-- One entry that drains, of a buffer that has one for its line. -/
theorem drain_one {s : State} {g : AgentId} {p : WcbLine → Bool} {w : WcbLine} (h : (s.ctx g).wcb.filter p = [w]) :
    s.drain g p = (s.modCtx g (fun c => { c with wcb := c.wcb.filter (fun w => !p w) })).sendReq g w.req := by
  rw [State.drain, h] <;> rfl

theorem modCtx_congr {s : State} {g : AgentId} {f h : Ctx → Ctx} (hf : f (s.ctx g) = h (s.ctx g)) : s.modCtx g f = s.modCtx g h :=
  congrArg (s.setCtx g) hf

theorem mem_sendReq_eq (s : State) (g : AgentId) (r : MemReq) : (s.sendReq g r).mem = s.mem := by
  cases g <;> rfl

theorem clusters_sendReq (s : State) (g : AgentId) (r : MemReq) : (s.sendReq g r).clusters = s.clusters := by
  cases g <;> rfl

theorem sends_sendReq (s : State) (t : Fin 256) (c : Fin 4) (r : MemReq) : ((s.sendReq (.tile t c) r).tile t).sends = (s.tile t).sends + 1 := by
  simp only [State.sendReq, State.mark, tile_modCtx_self, tile_modTile_self]

/-- A full entry drains at once. -/
theorem merge_full {s : State} {g : AgentId} {r : MemReq} {w : WcbLine} (hline : w.line = r.pa / 128) :
    let s2 := s.modCtx g (fun c => { c with wcb := c.wcb.filter (fun w => w.line != r.pa / 128) ++ [w] })
    (s2.drain g (fun w => w.line == r.pa / 128)).ctx g
      = { (s.sendReq g w.req).ctx g with wcb := (s.ctx g).wcb.filter (fun w => w.line != r.pa / 128) } := by
  intro s2
  have hwcb : (s2.ctx g).wcb = (s.ctx g).wcb.filter (fun w => w.line != r.pa / 128) ++ [w] := by
    simp only [s2, ctx_modCtx_self]
  have hone : (s2.ctx g).wcb.filter (fun w => w.line == r.pa / 128) = [w] := by
    rw [hwcb, List.filter_append, List.filter_filter]
    have h1 : (s.ctx g).wcb.filter (fun w => w.line == r.pa / 128 && w.line != r.pa / 128) = [] :=
      List.filter_eq_nil_iff.mpr fun x _ => by cases hx : x.line == r.pa / 128 <;> simp [bne, hx]
    rw [h1, hline.symm, List.filter_cons, beq_self_eq_true]
    rfl
  have hrest : s2.modCtx g (fun c => { c with wcb := c.wcb.filter (fun w => !(w.line == r.pa / 128)) })
      = s.modCtx g (fun c => { c with wcb := (s.ctx g).wcb.filter (fun w => w.line != r.pa / 128) }) := by
    refine (modCtx_modCtx ..).trans (modCtx_congr ?_)
    refine congrArg (fun ws => { s.ctx g with wcb := ws }) ?_
    rw [List.filter_append, List.filter_filter, List.filter_cons, hline, beq_self_eq_true]
    refine (List.append_nil _).trans (List.filter_congr fun x _ => ?_)
    rw [bne, Bool.and_self]
  rw [drain_one hone, hrest, ctx_sendReq_wcb]

/-! ### At the home (R263) -/

theorem sliceStep_enterHome (s : State) (g : AgentId) (r : MemReq) : SliceStep s (s.enterHome g r) := by
  unfold State.enterHome
  dsimp only
  split
  · exact (sliceStep_touch ..).trans (sliceStep_modSlice ..)
  · exact sliceStep_touch ..

/-- Plaintext lines read as memory stands. -/
theorem bytesAt_plain {s : State} (h : ∀ l, s.lineKey l = none) (pa n : Nat) : s.bytesAt none pa n = s.mem.read pa n :=
  List.map_congr_left fun i _ => if_pos (h _)

theorem ownLines_plain {s : State} (h : ∀ l, s.lineKey l = none) (pa n : Nat) : s.ownLines none pa n = s := by
  unfold State.ownLines
  generalize linesOf pa n = ls
  induction ls with
  | nil => rfl
  | cons l ls ih => rw [List.foldl_cons, State.ownLine, if_pos (h l), ih]

theorem readPoison_length (m : Memory) (a n : Nat) : (m.readPoison a n).length = n := by
  rw [Memory.readPoison, List.length_map, List.length_range]

theorem map_getD_range {α : Type} (xs : List α) (d : α) : (List.range xs.length).map (fun i => xs.getD i d) = xs := by
  refine List.ext_getElem (by rw [List.length_map, List.length_range]) fun i h1 h2 => ?_
  rw [List.getElem_map, List.getElem_range, List.getD_eq_getElem?_getD, List.getElem?_eq_getElem h2, Option.getD_some]

/-- A load that takes nothing from the buffer reads the bytes of its plaintext lines. -/
theorem perform_load {u : State} {r : MemReq} {d : Fin 32} {sx : Bool} (hop : r.op = .loadS d sx) (ht : targetOf r.pa = some .hbm) (hk : r.key = none)
    (hf : r.fwd = []) (hplain : ∀ l, u.lineKey l = none) : u.perform r = (u.mem.read r.pa r.len, u.mem.readPoison r.pa r.len, u) := by
  rw [State.perform, hop]
  have hread : u.readPa r.key r.pa r.len = (u.mem.read r.pa r.len, u.mem.readPoison r.pa r.len, u) := by
    rw [State.readPa, ht, hk, ← bytesAt_plain hplain]
  simp only [hread, hf]
  have hlen : (u.mem.read r.pa r.len).length = r.len := by rw [Memory.read, cellsRead, List.length_map, List.length_range]
  refine Prod.ext ?_ (Prod.ext ?_ rfl)
  · have := map_getD_range (u.mem.read r.pa r.len) 0
    rw [hlen] at this
    exact this
  · have := map_getD_range (u.mem.readPoison r.pa r.len) false
    rw [readPoison_length] at this
    exact this

/-- A store writes its masked bytes to its plaintext lines. -/
theorem perform_store {u : State} {r : MemReq} {bs : List Byte} {mask : List Bool} {z : Bool} (hop : r.op = .store bs mask z)
    (ht : targetOf r.pa = some .hbm) (hk : r.key = none) (hplain : ∀ l, u.lineKey l = none) :
    u.perform r = ([], [], { u with mem := u.mem.writeMasked r.pa bs mask }) := by
  rw [State.perform, hop]
  dsimp only
  rw [State.writePa, ht, hk]
  dsimp only
  rw [ownLines_plain hplain]

/-- The requests that go with others of their instruction. -/
theorem mates_forms {r : MemReq} (h : r.mates r = true) : (∃ d w j, r.op = .gather d w j) ∨ (∃ d b w c k, r.op = .bits d b w c k)
    ∨ (∃ d j, r.op = .partS d j) ∨ ∃ keep x, r.op = .constFill keep (some x) := by
  unfold MemReq.mates at h
  have h2 := (Bool.and_eq_true_iff.mp h).2
  split at h2
  · next hop _ => exact .inl ⟨_, _, _, hop⟩
  · next hop _ => exact .inr (.inl ⟨_, _, _, _, _, hop⟩)
  · next hop _ => exact .inr (.inr (.inl ⟨_, _, hop⟩))
  · next hop _ => exact .inr (.inr (.inr ⟨_, _, hop⟩))
  · exact absurd h2 Bool.false_ne_true

/-- A lost request of an instruction's single access owes its fault at the next release or use of its register (R259). -/
theorem loseReq_single {s : State} {g : AgentId} {n : Nat} {r : MemReq} (hm : r.mates r = false) (hop : r.op ≠ .syncRead) (hw : r.op.waited = true)
    (cause detail : Nat) : s.loseReq g n r cause detail = s.modCtx g (fun c => ({ c with reqs := c.reqs.eraseIdx n } : Ctx).recordOwed
      ⟨cause, detail, r.ea, r.by_, .endRelease (r.op.dst.filter (fun x => !x.constant))⟩) := by
  refine congrArg (State.modCtx s g) (funext fun c => ?_)
  simp only [Ctx.dropReq, hm, Bool.false_eq_true, if_false, hw, if_true]

/-! ### Requests that wait at the memory interface (R394) -/

/-- Every request of the context has been sent. -/
def allSent (s : State) (g : AgentId) : Prop := ∀ e ∈ (s.ctx g).reqs, e.stage.unsent = false

theorem allSent_sendReq {s : State} {g : AgentId} (h : allSent s g) (r : MemReq) : allSent (s.sendReq g r) g := fun e he => by
  rw [reqs_sendReq, List.mem_append, List.mem_cons] at he
  rcases he with he | rfl | he
  · exact h e ((List.takeWhile_sublist _).subset he)
  · rfl
  · exact h e ((List.dropWhile_sublist _).subset he)

theorem allSent_wcb {s : State} {g : AgentId} (h : allSent s g) (f : Ctx → List WcbLine) : allSent (s.modCtx g (fun c => { c with wcb := f c })) g :=
  fun e he => by
    rw [ctx_modCtx_self] at he
    exact h e he

theorem allSent_drain {s : State} {g : AgentId} (h : allSent s g) (p : WcbLine → Bool) : allSent (s.drain g p) g := by
  rw [State.drain]
  have h0 := allSent_wcb h (fun c => c.wcb.filter (fun w => !p w))
  generalize s.modCtx g (fun c => { c with wcb := c.wcb.filter (fun w => !p w) }) = u at h0 ⊢
  generalize (s.ctx g).wcb.filter p = ws
  induction ws generalizing u with
  | nil => exact h0
  | cons w ws ih => exact ih _ (allSent_sendReq h0 _)

theorem allSent_merge {s : State} {g : AgentId} (h : allSent s g) (r : MemReq) (bs : List Byte) : allSent (s.merge g r bs) g := by
  unfold State.merge
  extract_lets line ws s1 w s2
  have h1 : allSent s1 g := by
    cases hws : ws with
    | nil => rw [show s1 = s by simp only [s1, hws]]; exact h
    | cons v vs =>
      have hs1 : s1 = if 4 ≤ ws.length && !ws.any (fun w => w.line == line) then s.drain g (fun x => x.line == v.line) else s := by
        simp only [s1, hws]
      rw [hs1]
      split
      · exact allSent_drain h _
      · exact h
  split
  · exact allSent_drain (allSent_wcb h1 _) _
  · exact allSent_wcb h1 _

theorem allSent_enter {s : State} {g : AgentId} (h : allSent s g) (r : MemReq) : allSent (s.enter g r) g := by
  unfold State.enter
  split
  · next bs _ => exact allSent_merge h r bs
  · exact allSent_sendReq (allSent_drain h _) _

/-- Nothing waits: the requests stay as they are. -/
theorem flush_allSent {s : State} {g : AgentId} (h : allSent s g) (n : Nat) : s.flush g n = s := by
  cases n with
  | zero => rfl
  | succ n =>
    have hnone : (s.ctx g).reqs.findIdx? (fun r => r.stage.unsent) = none := List.findIdx?_eq_none_iff.mpr fun e he => h e he
    rw [State.flush, hnone]

theorem findIdx?_of_only {α : Type} {xs : List α} {p : α → Bool} {n : Nat} {x : α} (hx : xs[n]? = some x) (hp : p x = true)
    (ho : ∀ k e, xs[k]? = some e → k ≠ n → p e = false) : xs.findIdx? p = some n := by
  obtain ⟨hlt, hget⟩ := List.getElem?_eq_some_iff.mp hx
  refine List.findIdx?_eq_some_iff_getElem.mpr ⟨hlt, by rw [hget]; exact hp, fun k hk => ?_⟩
  rw [ho k xs[k] (List.getElem?_eq_getElem (hk.trans hlt)) (Nat.ne_of_lt hk)]
  exact Bool.false_ne_true

theorem allSent_eraseIdx {s : State} {g : AgentId} {n : Nat} (h : ∀ k e, (s.ctx g).reqs[k]? = some e → k ≠ n → e.stage.unsent = false) (f : Ctx → Ctx)
    (hf : ∀ e ∈ (f (s.ctx g)).reqs, e ∈ (s.ctx g).reqs.eraseIdx n) : allSent (s.modCtx g f) g := fun e he => by
  rw [ctx_modCtx_self] at he
  obtain ⟨i, hi⟩ := List.mem_iff_getElem?.mp (hf e he)
  rw [List.getElem?_eraseIdx] at hi
  split at hi
  · exact h i e hi (by omega)
  · exact h (i + 1) e hi (by omega)

/-- The one request that waits on a token is queued. -/
theorem requeue_only {s : State} {g : AgentId} {n : Nat} {r : MemReq} {tok : Nat} (hr : (s.ctx g).reqs[n]? = some r) (hst : r.stage = .parked tok)
    (ho : ∀ k e, (s.ctx g).reqs[k]? = some e → k ≠ n → e.stage.unsent = false) :
    s.modCtx g (fun c => { c with reqs := c.reqs.map (fun r => if r.stage = .parked tok then { r with stage := .queued } else r) })
      = s.modCtx g (fun c => { c with reqs := c.reqs.set n { r with stage := .queued } }) := by
  refine modCtx_congr (congrArg (fun rs => { s.ctx g with reqs := rs }) (List.ext_getElem? fun k => ?_))
  rw [List.getElem?_map, List.getElem?_set]
  by_cases hk : n = k
  · subst hk
    rw [if_pos rfl, hr, if_pos (List.getElem?_eq_some_iff.mp hr).1, Option.map_some, if_pos hst]
  · rw [if_neg hk]
    cases he : (s.ctx g).reqs[k]? with
    | none => rfl
    | some e =>
      have hne : e.stage ≠ .parked tok := fun h => by
        have := ho k e he (Ne.symm hk)
        rw [h] at this
        exact Bool.noConfusion this
      rw [Option.map_some, if_neg hne]

/-- A queued request whose page is found, and that may go there, enters the network. -/
theorem proceed_ok {s : State} {g : AgentId} {n : Nat} {r : MemReq} {x : Xlated} (h : s.retranslate r.mctx r.op.access.1 r.va = .ok x)
    (ha : r.op.access.2.allows x.pa = true) (he : ∀ e, r.expect = some e → x.slot = e) :
    s.proceed g n r = (s.modCtx g (fun c => { c with reqs := c.reqs.eraseIdx n })).enter g { r with pa := x.pa, key := x.key } := by
  simp only [State.proceed, h, ha, Bool.not_true, Bool.false_eq_true, if_false]
  cases hx : r.expect with
  | none => rfl
  | some e => exact if_pos (he e hx)

/-- The replay of the one request of a context that waits. -/
theorem retryReq_only {s : State} {g : AgentId} {n : Nat} {r : MemReq} {tok : Nat} (hr : (s.ctx g).reqs[n]? = some r) (hst : r.stage = .parked tok)
    (ho : ∀ k e, (s.ctx g).reqs[k]? = some e → k ≠ n → e.stage.unsent = false) {x : Xlated}
    (hu : (s.modCtx g (fun c => { c with reqs := c.reqs.set n { r with stage := .queued } })).unitWaits r = false)
    (hx : (s.modCtx g (fun c => { c with reqs := c.reqs.set n { r with stage := .queued } })).retranslate r.mctx r.op.access.1 r.va = .ok x)
    (ha : r.op.access.2.allows x.pa = true) (he : ∀ e, r.expect = some e → x.slot = e) :
    retryReq s g tok = (s.modCtx g (fun c => { c with reqs := c.reqs.eraseIdx n })).enter g { r with pa := x.pa, key := x.key, stage := .queued } := by
  rw [retryReq, requeue_only hr hst ho]
  obtain ⟨w, hw⟩ : ∃ w, s.modCtx g (fun c => { c with reqs := c.reqs.set n { r with stage := .queued } }) = w := ⟨_, rfl⟩
  rw [hw] at hu hx ⊢
  have hreqs : (w.ctx g).reqs = (s.ctx g).reqs.set n { r with stage := .queued } := by rw [← hw, ctx_modCtx_self]
  have hlt := (List.getElem?_eq_some_iff.mp hr).1
  have hn : (w.ctx g).reqs[n]? = some { r with stage := .queued } := by rw [hreqs, List.getElem?_set_self hlt]
  have hfirst : (w.ctx g).reqs.findIdx? (fun r => r.stage.unsent) = some n := findIdx?_of_only hn rfl fun k e hk hne => by
    rw [hreqs, List.getElem?_set_ne (Ne.symm hne)] at hk
    exact ho k e hk hne
  have hgo : w.proceed g n { r with stage := .queued }
      = (s.modCtx g (fun c => { c with reqs := c.reqs.eraseIdx n })).enter g { r with pa := x.pa, key := x.key, stage := .queued } := by
    rw [proceed_ok (r := { r with stage := .queued }) hx ha he, ← hw, modCtx_modCtx]
    refine congrArg (fun u => State.enter u g { r with pa := x.pa, key := x.key, stage := .queued }) (modCtx_congr ?_)
    refine congrArg (fun rs => { s.ctx g with reqs := rs }) ?_
    exact List.eraseIdx_set_eq
  have hsent : allSent ((s.modCtx g (fun c => { c with reqs := c.reqs.eraseIdx n })).enter g { r with pa := x.pa, key := x.key, stage := .queued }) g :=
    allSent_enter (allSent_eraseIdx ho _ fun e he => he) _
  rw [State.flushAll]
  obtain ⟨m, hm⟩ : ∃ m, (w.ctx g).reqs.length = m + 1 := by
    rw [hreqs, List.length_set]
    exact ⟨(s.ctx g).reqs.length - 1, by omega⟩
  rw [hm, State.flush, hfirst]
  dsimp only
  rw [hn]
  dsimp only
  refine (if_neg ?_).trans ?_
  · rintro (h | h)
    · exact h rfl
    · rw [show w.unitWaits { r with stage := .queued } = w.unitWaits r from rfl, hu] at h
      exact Bool.false_ne_true h
  · rw [hgo, flush_allSent hsent]

theorem recordOwed_reqs (c : Ctx) (o : Owed) : (c.recordOwed o).reqs = c.reqs := by
  unfold Ctx.recordOwed
  split
  · rfl
  · split <;> rfl

/-- What is lost leaves the requests; no other one is touched but those that go with it. -/
theorem reqs_loseReq (s : State) (g : AgentId) (n : Nat) (r : MemReq) (cause detail : Nat) :
    ((s.loseReq g n r cause detail).ctx g).reqs = ((s.ctx g).dropReq n r).reqs := by
  rw [State.loseReq, ctx_modCtx_self]
  dsimp only
  split
  · exact recordOwed_reqs ..
  · split
    · exact recordOwed_reqs ..
    · rfl

/-- The failure of the one request of a context that waits. -/
theorem failReqs_only {s : State} {g : AgentId} {n : Nat} {r : MemReq} {tok : Nat} (hr : (s.ctx g).reqs[n]? = some r) (hst : r.stage = .parked tok)
    (ho : ∀ k e, (s.ctx g).reqs[k]? = some e → k ≠ n → e.stage.unsent = false) :
    (failReqs s g tok (s.ctx g).reqs.length).flushAll g = s.loseReq g n r 0x05 r.ea := by
  have hparked : ∀ e : MemReq, e.stage.unsent = false → (e.stage == .parked tok) = false := fun e he => beq_false_of_ne fun h => by
    rw [h] at he
    exact Bool.noConfusion he
  have hsent : allSent (s.loseReq g n r 0x05 r.ea) g := fun e he => by
    rw [reqs_loseReq, Ctx.dropReq] at he
    split at he
    · next hm =>
      obtain ⟨hmem, hne⟩ := List.mem_filter.mp he
      obtain ⟨k, hk⟩ := List.mem_iff_getElem?.mp hmem
      refine ho k e hk fun h => ?_
      rw [h, hr] at hk
      rw [← Option.some.inj hk, hm] at hne
      exact Bool.false_ne_true hne
    · obtain ⟨i, hi⟩ := List.mem_iff_getElem?.mp he
      rw [List.getElem?_eraseIdx] at hi
      split at hi
      · exact ho i e hi (by omega)
      · exact ho (i + 1) e hi (by omega)
  have hrest : ∀ m, failReqs (s.loseReq g n r 0x05 r.ea) g tok m = s.loseReq g n r 0x05 r.ea := fun m => by
    cases m with
    | zero => rfl
    | succ m =>
      have hnone : ((s.loseReq g n r 0x05 r.ea).ctx g).reqs.findIdx? (fun r => r.stage == .parked tok) = none :=
        List.findIdx?_eq_none_iff.mpr fun e he => hparked e (hsent e he)
      rw [failReqs, hnone]
  have hfirst : (s.ctx g).reqs.findIdx? (fun r => r.stage == .parked tok) = some n :=
    findIdx?_of_only hr (beq_iff_eq.mpr hst) fun k e hk hne => hparked e (ho k e hk hne)
  obtain ⟨m, hm⟩ : ∃ m, (s.ctx g).reqs.length = m + 1 := ⟨(s.ctx g).reqs.length - 1, by have := (List.getElem?_eq_some_iff.mp hr).1; omega⟩
  rw [hm, failReqs, hfirst]
  dsimp only
  rw [hr]
  dsimp only
  rw [hrest, State.flushAll, flush_allSent hsent]

theorem retryParked_req {s : State} {g : AgentId} {r : MemReq} {tok : Nat} (h : r.stage = .parked tok) :
    retryParked s (.req g r) = retryReq s g tok := by
  simp only [retryParked, h]

theorem failParked_req {s : State} {g : AgentId} {r : MemReq} {tok : Nat} (h : r.stage = .parked tok) :
    failParked s (.req g r) = (failReqs s g tok (s.ctx g).reqs.length).flushAll g := by
  simp only [failParked, h]

/-- Settles O49. -/
theorem memorySteps : Obligations.MemorySteps := by
  refine ⟨fun g r p a x s => ⟨reqs_sendReq .., ?wcb, ?mem, ?clusters, fun g' hg => ctx_sendReq_other s hg r, fun t c hg => ?sends, ?put,
    enter_forwards, enter_empty, fun bs hm hl => ?merge⟩, fun g n s => ⟨fun w hw hone => ?drain, fun r hr => ?request, fun m line e he => ?fill, fun t m va => ?walk⟩⟩
  case wcb => rw [ctx_sendReq]
  case mem => exact mem_sendReq_eq ..
  case clusters => exact clusters_sendReq ..
  case sends => subst hg; exact sends_sendReq ..
  case put =>
    intro q
    exact ⟨fun h => if_pos (Bool.or_eq_true_iff.mpr h), fun h1 h2 => if_neg (by rw [h1, h2]; exact Bool.false_ne_true)⟩
  case merge =>
    intro now w
    have h := enter_merge hm hl (w := w) rfl
    exact ⟨fun hf => h.trans (if_neg (by rw [hf]; exact Bool.false_ne_true)), fun hline hfull => by rw [h, if_pos hfull, merge_full hline]⟩
  case drain =>
    have hd : s.drain g (fun x => x.line == w.line)
        = (s.modCtx g (fun c => { c with wcb := (s.ctx g).wcb.filter (fun x => x.line != w.line) })).sendReq g w.req :=
      (drain_one hone).trans (congrArg (fun u => State.sendReq u g w.req) (modCtx_congr rfl))
    refine ⟨s.drain g (fun x => x.line == w.line), ?_, ?_, ?_, ?_⟩
    · rw [exec_writeCoalescingDrain, execWriteCoalescingDrain, hw]
    · rw [hd, mem_sendReq_eq, modCtx_mem]
    · rw [hd, ctx_sendReq_wcb]
    · rw [hd, ctx_sendReq_wcb, ctx_sendReq, List.append_assoc]
      rfl
  case fill => exact (show exec (.sliceFill m line) s = _ by rw [exec_sliceFill, execSliceFill, he])
  case walk =>
    refine ⟨fun s1 h1 => by rw [exec_tableWalk, execTableWalk, h1], fun hn => ?_⟩
    intro u
    refine ⟨fun e he => ?_, fun l hl => ?_⟩
    · rw [exec_tableWalk, execTableWalk, hn, he]
    · rw [exec_tableWalk, execTableWalk, hn, hl]
      rfl
  case request =>
    refine ⟨fun hst hno => ?held, fun hst hmay htile => ?access, fun bs po hst => ?response, fun reason hst hm hop hw => ?lost, fun q tok hp htok hst hothers => ?parked⟩
    case held =>
      rw [exec_sliceAccess, execSliceAccess, hr]
      refine if_pos (.inr ?_)
      exact hno.imp (fun h => by rw [h]; rfl) id
    case access =>
      intro u answered
      have hgo : exec (.sliceAccess g n) s = if !s.reachable r.pa then .next (s.loseReq g n r 0x12 3)
          else if s.lineReady r.pa r.len r.cp && s.isNext g r then
            .next (answered (u.perform r).2.2 (u.perform r).1 (u.perform r).2.1)
          else .next (s.waitHome g r) := by
        rw [exec_sliceAccess, execSliceAccess, hr]
        refine if_neg ?_
        rw [hst, hmay, htile]
        rintro (h | h | h)
        · exact h rfl
        · exact Bool.false_ne_true h
        · exact Bool.false_ne_true h
      refine ⟨fun h => ?_, fun h hw => ?_, fun h h1 h2 => ⟨?_, fun ht hk hplain => ⟨fun d sx hop hf => ?_, fun bs mask z hop => ?_⟩⟩⟩
      · rw [hgo, h]; rfl
      · rw [hgo, h, hw]; rfl
      · rw [hgo, h, h1, h2]; rfl
      all_goals
        have hu : u.mem = s.mem ∧ u.lineKeys = s.lineKeys := by
          obtain ⟨_, _, hu⟩ := sliceStep_enterHome s g r
          rw [show u = _ from hu]
          exact ⟨rfl, rfl⟩
        have hplain' : ∀ l, u.lineKey l = none := fun l => by rw [State.lineKey, hu.2]; exact hplain l
      · rw [perform_load hop ht hk hf hplain', hu.1]
      · rw [perform_store hop ht hk hplain', hu.1]
    case response =>
      intro w gone mine
      have hgo : exec (.memoryResponse g n) s = execMemoryResponse g n s := exec_memoryResponse ..
      refine ⟨fun d sx hop => ?_, fun d hop => ?_, fun hm => ?_, fun hop => ?_, fun keep hop => ?_, fun x m z hop => ?_, fun a z v d hop => ?_,
        fun k e v d hop => ?_, fun d c hop => ?_⟩
      · simp only [w, hgo, execMemoryResponse, hr, hst, hop, loadedS]
      · simp only [w, hgo, execMemoryResponse, hr, hst, hop]
      · obtain ⟨_, _, _, hop⟩ | ⟨_, _, _, _, _, hop⟩ | ⟨_, _, hop⟩ | ⟨_, _, hop⟩ := mates_forms hm
        · simp only [mine, hgo, execMemoryResponse, hr, hst, hop]
        · simp only [mine, hgo, execMemoryResponse, hr, hst, hop]
        · simp only [mine, hgo, execMemoryResponse, hr, hst, hop]
        · simp only [mine, hgo, execMemoryResponse, hr, hst, hop]
      · simp only [gone, hgo, execMemoryResponse, hr, hst, hop]
      · simp only [gone, hgo, execMemoryResponse, hr, hst, hop]
      · simp only [gone, hgo, execMemoryResponse, hr, hst, hop]
      · simp only [w, hgo, execMemoryResponse, hr, hst, hop, atomOld, loadedS, Bool.or_eq_true, beq_iff_eq]
      · simp only [w, hgo, execMemoryResponse, hr, hst, hop, loadedS, Bool.false_eq_true, if_false]
      · simp only [w, hgo, execMemoryResponse, hr, hst, hop, loadedS, Bool.false_eq_true, if_false]
    case lost =>
      rw [exec_lostRequest, execLostRequest, hr]
      exact (if_pos (.inl hst)).trans (congrArg _ (loseReq_single hm hop hw ..))
    case parked =>
      intro v w
      have hv : (v.ctx g).reqs = (s.ctx g).reqs := by cases g <;> rfl
      rw [← htok] at hp
      refine ⟨fun x hu hx ha he => ?_, ?_⟩
      · have h : exec (.fractRetry q) s = .next (retryParked v (.req g r)) := by
          simp only [exec_fractRetry, execFractRetry, ← htok, hp, v]
        rw [h, retryParked_req hst]
        exact congrArg Host.Outcome.next (retryReq_only (by rw [hv]; exact hr) hst (by rw [hv]; exact hothers) hu hx ha he)
      · have h : exec (.fractFail q) s = .next (failParked v (.req g r)) := by
          simp only [exec_fractFail, execFractFail, ← htok, hp, v]
        rw [h, failParked_req hst]
        exact congrArg Host.Outcome.next (failReqs_only (by rw [hv]; exact hr) hst (by rw [hv]; exact hothers))

end Sys2Proof.Machine

/-! ## The matrix array -/

namespace Sys2Proof.Machine

/-! ### Cells of a panel (R225 to R228) -/

theorem testBit_putBits (x lo n v i : Nat) :
    (putBits x lo n v).testBit i = if lo ≤ i ∧ i < lo + n then v.testBit (i - lo) else x.testBit i := by
  have hlow : x % 2 ^ lo < 2 ^ lo := Nat.mod_lt _ (Nat.two_pow_pos _)
  have hx : x = 2 ^ lo * (2 ^ n * (x / 2 ^ lo / 2 ^ n) + x / 2 ^ lo % 2 ^ n) + x % 2 ^ lo := by
    rw [Nat.div_add_mod, Nat.div_add_mod]
  have hput : putBits x lo n v = 2 ^ lo * (2 ^ n * (x / 2 ^ lo / 2 ^ n) + v % 2 ^ n) + x % 2 ^ lo := by
    rw [putBits, Nat.shiftRight_eq_div_pow, Nat.shiftLeft_eq, Nat.shiftLeft_eq, Nat.mul_add, Nat.mul_comm (2 ^ lo) (v % 2 ^ n)]
    rw [Nat.mul_add, Nat.mul_comm (2 ^ lo) (x / 2 ^ lo % 2 ^ n)] at hx
    omega
  rw [hput]
  conv => rhs; rw [hx]
  have hm : ∀ a, a % 2 ^ n < 2 ^ n := fun a => Nat.mod_lt _ (Nat.two_pow_pos _)
  rw [Nat.testBit_two_pow_mul_add _ hlow, Nat.testBit_two_pow_mul_add _ hlow, Nat.testBit_two_pow_mul_add _ (hm _),
    Nat.testBit_two_pow_mul_add _ (hm _)]
  by_cases h1 : i < lo
  · simp [h1, Nat.not_le.2 h1]
  · by_cases h2 : i < lo + n
    · have h3 : i - lo < n := by omega
      simp [h1, h2, h3, Nat.not_lt.1 h1]
    · have h3 : ¬ i - lo < n := by omega
      simp [h1, h2, h3]

theorem bitsAt_putBits_self (x lo n v : Nat) : bitsAt (putBits x lo n v) lo n = v % 2 ^ n := by
  apply Nat.eq_of_testBit_eq
  intro i
  simp only [bitsAt, Nat.testBit_mod_two_pow, Nat.testBit_shiftRight, testBit_putBits]
  by_cases h : i < n
  · simp [h]
  · simp [h]

theorem bitsAt_putBits_apart {x lo n v lo' n' : Nat} (h : lo' + n' ≤ lo ∨ lo + n ≤ lo') :
    bitsAt (putBits x lo n v) lo' n' = bitsAt x lo' n' := by
  apply Nat.eq_of_testBit_eq
  intro i
  simp only [bitsAt, Nat.testBit_mod_two_pow, Nat.testBit_shiftRight, testBit_putBits]
  by_cases hi : i < n'
  · rw [if_neg (by omega)]
  · simp [hi]

/-- Columns that a written row covers from `c0 + k` on. -/
theorem foldl_putBits_cell (xs : List (Nat × Bool)) (c0 c : Nat) : ∀ (k n : Nat),
    bitsAt ((xs.zipIdx k).foldl (fun n x => putBits n (48 * (c0 + x.2)) 48 x.1.1) n) (48 * c) 48
      = if c0 + k ≤ c then ((xs[c - (c0 + k)]?).map (fun x => x.1 % 2 ^ 48)).getD (bitsAt n (48 * c) 48) else bitsAt n (48 * c) 48 := by
  induction xs with
  | nil => intro k n; simp
  | cons x xs ih =>
    intro k n
    rw [List.zipIdx_cons, List.foldl_cons, ih (k + 1)]
    rcases Nat.lt_trichotomy c (c0 + k) with h | rfl | h
    · rw [if_neg (by omega), if_neg (by omega), bitsAt_putBits_apart (by omega)]
    · rw [if_neg (by omega), if_pos (Nat.le_refl _), bitsAt_putBits_self]
      simp
    · obtain ⟨d, rfl⟩ := Nat.exists_eq_add_of_lt h
      rw [if_pos (by omega), if_pos (by omega), bitsAt_putBits_apart (by omega), show c0 + k + d + 1 - (c0 + k) = d + 1 by omega,
        show c0 + k + d + 1 - (c0 + (k + 1)) = d by omega, List.getElem?_cons_succ]

theorem foldl_setBit_cell (xs : List (Nat × Bool)) (c0 : Nat) {c : Nat} (hc : c < 64) : ∀ (k : Nat) (q : BitVec 64),
    ((xs.zipIdx k).foldl (fun p x => setBit p (c0 + x.2) x.1.2) q).getLsbD c
      = if c0 + k ≤ c then ((xs[c - (c0 + k)]?).map (fun x => x.2)).getD (q.getLsbD c) else q.getLsbD c := by
  induction xs with
  | nil => intro k q; simp
  | cons x xs ih =>
    intro k q
    rw [List.zipIdx_cons, List.foldl_cons, ih (k + 1), setBit_get _ _ _ _ hc]
    rcases Nat.lt_trichotomy c (c0 + k) with h | rfl | h
    · rw [if_neg (by omega), if_neg (by omega), if_neg (by omega)]
    · rw [if_neg (by omega), if_pos (Nat.le_refl _), if_pos rfl]
      simp
    · obtain ⟨d, rfl⟩ := Nat.exists_eq_add_of_lt h
      rw [if_pos (show c0 + (k + 1) ≤ c0 + k + d + 1 by omega), if_neg (show ¬ c0 + k = c0 + k + d + 1 by omega),
        if_pos (show c0 + k ≤ c0 + k + d + 1 by omega), show c0 + k + d + 1 - (c0 + k) = d + 1 by omega,
        show c0 + k + d + 1 - (c0 + (k + 1)) = d by omega, List.getElem?_cons_succ]

/-- A cell of a row of the bank, as `Tile.cell` reads it. -/
def AccRow.cell (row : AccRow) (c : Nat) : Nat × Bool := (bitsAt row.cells.toNat (48 * c) 48, row.poison.getLsbD c)

theorem cell_eq (y : Tile) (b : Fin 4) {r : Nat} (c : Nat) (hr : r < 128) : y.cell b r c = ((y.banks.get b).get ⟨r, hr⟩).cell c := by
  rw [Tile.cell, dif_pos hr, AccRow.cell]

theorem cell_put (row : AccRow) (c0 : Nat) (xs : List (Nat × Bool)) {c : Nat} (hc : c < 64) :
    (row.put c0 xs).cell c = if c0 ≤ c then ((xs[c - c0]?).map (fun x => (x.1 % 2 ^ 48, x.2))).getD (row.cell c) else row.cell c := by
  simp only [AccRow.cell, AccRow.put]
  rw [bitsAt_ofNat (by omega), foldl_putBits_cell xs c0 c 0, foldl_setBit_cell xs c0 hc 0]
  split
  · cases xs[c - (c0 + 0)]? <;> simp_all
  · simp_all

theorem cell_putRow (y : Tile) (b : Fin 4) (p : Panel) (i : Nat) (xs : List (Nat × Bool)) {r c : Nat} (hr : r < 128) (hc : c < 64) :
    (y.putRow b p i xs).cell b r c = if r = p.orow + i ∧ p.ocol ≤ c then
        ((xs[c - p.ocol]?).map (fun x => (x.1 % 2 ^ 48, x.2))).getD (y.cell b r c) else y.cell b r c := by
  by_cases h : p.orow + i < 128
  · rw [Tile.putRow, dif_pos h, cell_eq _ _ _ hr, cell_eq _ _ _ hr]
    dsimp only
    rw [vset_self, vset_get]
    by_cases e : r = p.orow + i
    · subst e
      rw [if_pos rfl, cell_put _ _ _ hc]
      simp only [true_and]
    · rw [if_neg (fun e' => e (Fin.ext_iff.1 e').symm), if_neg (fun e' => e e'.1)]
  · rw [Tile.putRow, dif_neg h, if_neg (by omega)]

theorem putRow_keeps (y : Tile) (b : Fin 4) (p : Panel) (i : Nat) (xs : List (Nat × Bool)) :
    ∃ bs, y.putRow b p i xs = { y with banks := bs } ∧ ∀ b', b' ≠ b → bs.get b' = y.banks.get b' := by
  rw [Tile.putRow]
  split
  · exact ⟨_, rfl, fun b' hb => vset_other _ (Ne.symm hb) _⟩
  · exact ⟨y.banks, rfl, fun _ _ => rfl⟩

/-- The rows that `Tile.mapPanel` writes, for the rows of a list. -/
def Tile.mapRows (y : Tile) (b : Fin 4) (p : Panel) (f : Nat → Nat → Nat × Bool × Ev) (l : List Nat) : Tile :=
  l.foldl (fun y i => y.putRow b p i (((List.range p.N).map (f i)).map (fun x => (x.1, x.2.1)))) y

theorem mapPanel_rows (y : Tile) (b : Fin 4) (p : Panel) (f : Nat → Nat → Nat × Bool × Ev) :
    (y.mapPanel b p f).1 = y.mapRows b p f (List.range p.M) := by
  have key : ∀ (l : List Nat) (r : Tile × List (Nat × Ev)),
      (l.foldl (fun (r : Tile × List (Nat × Ev)) i =>
        let xs := (List.range p.N).map (f i)
        (r.1.putRow b p i (xs.map (fun x => (x.1, x.2.1))),
         r.2 ++ xs.zipIdx.filterMap (fun x => if x.1.2.2 = Ev.zero then none else some (i * 64 + x.2, x.1.2.2)))) r).1
        = r.1.mapRows b p f l := by
    intro l
    induction l with
    | nil => intro r; rfl
    | cons i l ih => intro r; exact ih _
  exact key _ _

theorem mapRows_keeps (b : Fin 4) (p : Panel) (f : Nat → Nat → Nat × Bool × Ev) (l : List Nat) : ∀ y : Tile,
    ∃ bs, y.mapRows b p f l = { y with banks := bs } ∧ ∀ b', b' ≠ b → bs.get b' = y.banks.get b' := by
  induction l with
  | nil => intro y; exact ⟨y.banks, rfl, fun _ _ => rfl⟩
  | cons i l ih =>
    intro y
    obtain ⟨bs, h, hb⟩ := putRow_keeps y b p i (((List.range p.N).map (f i)).map (fun x => (x.1, x.2.1)))
    obtain ⟨bs', h', hb'⟩ := ih { y with banks := bs }
    refine ⟨bs', ?_, fun b' hn => (hb' b' hn).trans (hb b' hn)⟩
    rw [Tile.mapRows, List.foldl_cons, h]
    exact h'

theorem cell_mapRows (b : Fin 4) (p : Panel) (f : Nat → Nat → Nat × Bool × Ev) {r c : Nat} (hr : r < 128) (hc : c < 64) (l : List Nat) :
    ∀ y : Tile, (y.mapRows b p f l).cell b r c = if p.orow ≤ r ∧ r - p.orow ∈ l ∧ p.ocol ≤ c ∧ c < p.ocol + p.N then
        ((f (r - p.orow) (c - p.ocol)).1 % 2 ^ 48, (f (r - p.orow) (c - p.ocol)).2.1) else y.cell b r c := by
  induction l with
  | nil => intro y; simp [Tile.mapRows]
  | cons i l ih =>
    intro y
    have hcons : y.mapRows b p f (i :: l)
        = (y.putRow b p i (((List.range p.N).map (f i)).map (fun x => (x.1, x.2.1)))).mapRows b p f l := rfl
    rw [hcons, ih, cell_putRow _ _ _ _ _ hr hc]
    by_cases h1 : p.orow ≤ r ∧ r - p.orow ∈ l ∧ p.ocol ≤ c ∧ c < p.ocol + p.N
    · rw [if_pos h1, if_pos ⟨h1.1, List.mem_cons_of_mem _ h1.2.1, h1.2.2⟩]
    · rw [if_neg h1]
      by_cases h2 : r = p.orow + i ∧ p.ocol ≤ c
      · obtain ⟨rfl, hle⟩ := h2
        rw [if_pos ⟨rfl, hle⟩, Nat.add_sub_cancel_left]
        by_cases h3 : c < p.ocol + p.N
        · rw [if_pos ⟨Nat.le_add_right .., List.mem_cons_self .., hle, h3⟩]
          simp [show c - p.ocol < p.N by omega]
        · rw [if_neg (fun h => h3 h.2.2.2)]
          simp [show ¬ c - p.ocol < p.N by omega]
      · rw [if_neg h2, if_neg]
        rintro ⟨ho, hm, hk⟩
        rcases List.mem_cons.1 hm with e | hm
        · exact h2 ⟨by omega, hk.1⟩
        · exact h1 ⟨ho, hm, hk⟩

theorem cell_mapPanel (y : Tile) (b : Fin 4) (p : Panel) (f : Nat → Nat → Nat × Bool × Ev) {r c : Nat} (hr : r < 128) (hc : c < 64) :
    (y.mapPanel b p f).1.cell b r c = if (p.orow ≤ r ∧ r < p.orow + p.M) ∧ p.ocol ≤ c ∧ c < p.ocol + p.N then
        ((f (r - p.orow) (c - p.ocol)).1 % 2 ^ 48, (f (r - p.orow) (c - p.ocol)).2.1) else y.cell b r c := by
  rw [mapPanel_rows, cell_mapRows _ _ _ hr hc]
  refine if_congr ?_ rfl rfl
  rw [List.mem_range]
  omega

theorem mapPanel_keeps (y : Tile) (b : Fin 4) (p : Panel) (f : Nat → Nat → Nat × Bool × Ev) :
    ∃ bs, (y.mapPanel b p f).1 = { y with banks := bs } ∧ ∀ b', b' ≠ b → bs.get b' = y.banks.get b' := by
  rw [mapPanel_rows]
  exact mapRows_keeps ..

/-- Table 8.1: every panel lies inside the bank. -/
theorem panelOf_fits {shape q : Fin 4} {p : Panel} (h : panelOf shape q = some p) : p.orow + p.M ≤ 128 ∧ p.ocol + p.N ≤ 64 := by
  revert p
  revert q shape
  decide

/-- R229, R246: what mzero leaves of the cells. -/
theorem finishOp_zero {o : MatOp} {p : Panel} {q : Fin 4} (s : State) (t : Fin 256) (hk : o.kind = .zero) (hp : panelOf o.shape q = some p) :
    (finishOp s t q o).1 = s.setTile t ((s.tile t).mapPanel o.bank p (fun _ _ => (0, false, Ev.zero))).1 := by
  have hpanel : o.panel q = p := by rw [MatOp.panel, hp, Option.getD_some]
  simp only [finishOp, hk, hpanel]

theorem zero_clears {o : MatOp} {p : Panel} {q : Fin 4} (s : State) (t : Fin 256) (hk : o.kind = .zero) (hp : panelOf o.shape q = some p) :
    let u := (finishOp s t q o).1
    (∀ i j, i < p.M → j < p.N → (u.tile t).cell o.bank (p.orow + i) (p.ocol + j) = (0, false))
    ∧ (∀ r c, r < 128 → c < 64 → (r < p.orow ∨ p.orow + p.M ≤ r ∨ c < p.ocol ∨ p.ocol + p.N ≤ c) →
        (u.tile t).cell o.bank r c = (s.tile t).cell o.bank r c)
    ∧ (∀ b, b ≠ o.bank → (u.tile t).banks.get b = (s.tile t).banks.get b) := by
  obtain ⟨hM, hN⟩ := panelOf_fits hp
  have hu : ((finishOp s t q o).1).tile t = ((s.tile t).mapPanel o.bank p (fun _ _ => (0, false, Ev.zero))).1 := by
    rw [finishOp_zero s t hk hp]
    exact vset_self ..
  intro u
  rw [show u.tile t = _ from hu]
  refine ⟨fun i j hi hj => ?_, fun r c hr hc hout => ?_, fun b hb => ?_⟩
  · rw [cell_mapPanel _ _ _ _ (by omega) (by omega), if_pos (by omega)]
    rfl
  · rw [cell_mapPanel _ _ _ _ hr hc, if_neg (by omega)]
  · obtain ⟨bs, he, hbs⟩ := mapPanel_keeps (s.tile t) o.bank p (fun _ _ => (0, false, Ev.zero))
    rw [he]
    exact hbs b hb

/-! ### The head of a queue (R229, R230) -/

theorem startIndex_head {o : MatOp} (rest : List MatOp) (h : o.started = false) : startIndex (o :: rest) = some 0 := by
  simp [startIndex, List.findIdx?_cons, h]

theorem mayStart_head {y : Tile} (q : Fin 4) (o : MatOp) (h : y.cfgs = []) : mayStart y q 0 o = true := by
  simp [mayStart, h]

theorem fetching_head {o : MatOp} (rest : List MatOp) {q : Fin 4} (hs : o.started = true) (h : o.waves < o.total (o.panel q)) :
    (o :: rest).findIdx? (fun o => o.started && !o.fetched q) = some 0 := by
  simp [List.findIdx?_cons, MatOp.fetched, hs, h]

section
variable {t : Fin 256} {q : Fin 4} {o : MatOp} {rest : List MatOp} {s : State}

theorem matrixOpStart_head (hq : (s.tile t).mq.get q = o :: rest) (hs : o.started = false) (hc : (s.tile t).cfgs = []) :
    exec (.matrixOpStart t q) s = (match o.kind with
      | .gang | .gangFree => .next s
      | .mac m =>
        if m.gang && (teamOf (s.tile t) q o).isSome && !gangIssued s t q o then .next s
        else if m.gang && ((teamOf (s.tile t) q o).isNone || gangDiffers s t q o) then
          .next ((failGang s t q o).modTile t (fun y => y.setOp q 0 { o with started := true, waves := m.waveCount, err := some (0x08, 8) }))
        else
          match m.z with
          | some z =>
            if (s.tile t).wmStall z 1088 o.by_.order then .next s
            else
              let o' := { o with started := true, mask := some (maskBlock (s.tile t).scratch z (o.panel q).N) }
              .next (s.modTile t (fun y => (fillMasked y (o.panel q) o').setOp q 0 o'))
          | none => .next (s.modTile t (fun y => y.setOp q 0 { o with started := true }))
      | .store .. =>
        .next (s.modTile t (fun y => y.setOp q 0 { o with
          started := true, err := if panelPoison (s.tile t) o.bank (o.panel q) then some (0x07, o.bank.val + 2 * 2 ^ 8) else none }))
      | _ => .next (s.modTile t (fun y => y.setOp q 0 { o with started := true }))) := by
  rw [exec_matrixOpStart, execMatrixOpStart]
  dsimp only
  rw [hq, startIndex_head rest hs]
  dsimp only [List.getElem?_cons_zero]
  rw [mayStart_head q o hc] <;> rfl

theorem waveFetch_head (hq : (s.tile t).mq.get q = o :: rest) (hs : o.started = true) (hw : o.waves < o.total (o.panel q)) :
    exec (.waveFetch t q) s = (match o.kind with
      | .mac m =>
        match suppliers s t q o m with
        | none => .next s
        | some u => if waveStalls s (o.panel q) u q o then .next s else .next (applyWave s t q 0 o m u)
      | .load ty d r c =>
        if rowStalls (s.tile t) ty (hdesc d) (r + o.waves) c (o.panel q).N o.by_.order then .next s
        else .next (s.modTile t (fun y => (loadRow y o.bank (o.panel q) ty (hdesc d) r c o.waves).setOp q 0 { o with waves := o.waves + 1 }))
      | .store ty d r c =>
        if o.err.isSome then .next (s.modTile t (fun y => y.setOp q 0 { o with waves := (o.panel q).M }))
        else if rowStalls (s.tile t) ty (hdesc d) (r + o.waves) c (o.panel q).N o.by_.order then .next s
        else
          .next (s.modTile t (fun y =>
            let x := storeRow y o.bank (o.panel q) ty (hdesc d) r c o.waves
            x.1.setOp q 0 { o with waves := o.waves + 1, evs := o.evs ++ x.2 }))
      | _ => .next s) := by
  rw [exec_waveFetch, execWaveFetch]
  dsimp only
  rw [hq, fetching_head rest hs hw] <;> rfl

end


/-! ### Completion (R229, R239) -/

theorem mq_modCtx (s : State) (t : Fin 256) (c : Fin 4) (f : Ctx → Ctx) : ((s.modCtx (.tile t c) f).tile t).mq = (s.tile t).mq := by
  rw [tile_modCtx_self]

theorem finishOp_mq (s : State) (t : Fin 256) (q : Fin 4) (o : MatOp) : ((finishOp s t q o).1.tile t).mq = (s.tile t).mq := by
  have hpanel : ∀ f, ((s.setTile t ((s.tile t).mapPanel o.bank (o.panel q) f).1).tile t).mq = (s.tile t).mq := fun f => by
    obtain ⟨bs, he, -⟩ := mapPanel_keeps (s.tile t) o.bank (o.panel q) f
    rw [State.setTile, State.tile, vset_self, he]
  cases hk : o.kind with
  | zero => simp only [finishOp, hk, hpanel]
  | scale col f => simp only [finishOp, hk, hpanel]
  | row ty half i d => simp only [finishOp, hk]; split <;> simp only [mq_modCtx]
  | sort x z ps po => simp only [finishOp, hk]; split <;> simp only [mq_modCtx]
  | topk x z ps po k clr rd =>
    simp only [finishOp, hk]
    split
    · split <;> simp only [mq_modCtx, tile_modTile_self]
    · simp only [tile_modTile_self]
  | _ => simp only [finishOp, hk]

theorem finishOp_row_dead {s : State} {t : Fin 256} {q : Fin 4} {o : MatOp} {ty : Ty} {half : Bool} {i : Nat} {d : Fin 32}
    (hk : o.kind = .row ty half i d) (hd : o.dead = true) : (finishOp s t q o).1 = s := by
  simp only [finishOp, hk, hd, if_true]

theorem matrixOpComplete_head {t : Fin 256} {q : Fin 4} {o : MatOp} {rest : List MatOp} {s : State}
    (hq : (s.tile t).mq.get q = o :: rest) (hf : o.fetched q = true) (hg : ∀ m, o.kind = .mac m → m.gang = false) :
    exec (.matrixOpComplete t q) s = .next (reportOp (finishOp s t q o).1 t q o (finishOp s t q o).2) := by
  rw [exec_matrixOpComplete, execMatrixOpComplete, hq]
  dsimp only
  rw [if_neg (by simp [hf])]
  refine (if_neg ?_).trans rfl
  cases hk : o.kind with
  | mac m => simp [hg m hk]
  | _ => exact Bool.false_ne_true

/-- An operation without a fault, or of an ended launch, owes none when it is reported. -/
theorem reportOp_quiet {o : MatOp} (h : o.dead = true ∨ o.err = none) (s : State) (t : Fin 256) (q : Fin 4) (e : Ev) :
    reportOp s t q o e = ((s.modTile t (fun y => { y with mq := vset y.mq q ((y.mq.get q).drop 1) })).addEvents t
      ⟨e, o.ctx, o.by_, .endOrWaitOn o.sq, o.dead⟩).signalOpt (.tile t o.ctx) o.sq := by
  rw [reportOp]
  refine congrArg (fun u : State => u.signalOpt (.tile t o.ctx) o.sq) ?_
  split
  · next cause detail he =>
    obtain hd | hn := h
    · exact if_pos hd
    · exact absurd (hn.symm.trans he) (by simp)
  · rfl

theorem reportOp_fault {o : MatOp} {cause detail : Nat} (hd : o.dead = false) (he : o.err = some (cause, detail)) (s : State) (t : Fin 256)
    (q : Fin 4) (e : Ev) :
    reportOp s t q o e = (((s.modTile t (fun y => { y with mq := vset y.mq q ((y.mq.get q).drop 1) })).addEvents t
      ⟨e, o.ctx, o.by_, .endOrWaitOn o.sq, o.dead⟩).modCtx (.tile t o.ctx) (fun c =>
        c.recordOwed ⟨cause, detail, 0, o.by_, .endOrWaitOn o.sq⟩)).signalOpt (.tile t o.ctx) o.sq := by
  rw [reportOp]
  refine congrArg (fun u : State => u.signalOpt (.tile t o.ctx) o.sq) ?_
  rw [he]
  exact if_neg (by rw [hd]; exact Bool.false_ne_true)

/-! ### Sweeps and gangs (R231, R242, R244) -/

theorem setSort_keeps (y : Tile) (sort : Fin 16) : ∃ tk tp, y.setSort sort = { y with sort := sort, topk := tk, topkPoison := tp }
    ∧ ∀ q : Fin 4, bitOf sort.val q.val ≠ bitOf y.sort.val q.val → tk.get q = [] := by
  refine ⟨_, _, rfl, fun q h => ?_⟩
  rw [Vector.get_eq_getElem, Vector.getElem_ofFn]
  exact if_neg (by simpa using h)

theorem sweepStart_head {t : Fin 256} {o : MatOp} {rest : List MatOp} {s : State} {shape : Fin 4} {sort : Fin 16}
    (hc : (s.tile t).cfgs = o :: rest) (hk : o.kind = .cfg shape sort) (hs : (s.tile t).sweep = false)
    (hr : sweepReady (s.tile t) o = true) :
    exec (.sweepStart t) s = .next (s.setTile t { (s.tile t).setSort sort with sweep := true, shape := shape }) := by
  rw [exec_sweepStart, execSweepStart]
  dsimp only
  rw [hc]
  simp only [hs, hr, hk, Bool.not_true, Bool.or_self, Bool.false_eq_true, if_false]

theorem sweepEnd_head {t : Fin 256} {o : MatOp} {rest : List MatOp} {s : State}
    (hc : (s.tile t).cfgs = o :: rest) (hs : (s.tile t).sweep = true) :
    exec (.sweepEnd t) s = .next ((s.modTile t (fun y => { y with sweep := false, cfgs := rest })).signalOpt (.tile t o.ctx) o.sq) := by
  rw [exec_sweepEnd, execSweepEnd]
  dsimp only
  rw [hc]
  exact if_pos hs

theorem gangFormation_free {t : Fin 256} {q : Fin 4} {o : MatOp} {rest : List MatOp} {s : State}
    (hq : (s.tile t).mq.get q = o :: rest) (hk : o.kind = .gangFree) (hg : (s.tile t).gang.get q = none) :
    exec (.gangFormation t q) s = .next (reportOp s t q o Ev.zero) := by
  rw [exec_gangFormation, execGangFormation]
  dsimp only
  rw [hq, hg]
  simp only [List.head?_cons, hk]

theorem gangFormation_head {t : Fin 256} {q : Fin 4} {o : MatOp} {rest : List MatOp} {s : State} {g : Gang} {l : Launch}
    (hq : (s.tile t).mq.get q = o :: rest) (hk : o.kind = .gang) (hg : (s.tile t).gang.get q = some g)
    (hl : s.launchOf (.tile t o.ctx) = some l) :
    let ms := gangMembers q (g.gR * g.gC) (formingHeads s l g)
    exec (.gangFormation t q) s = if ms.isEmpty then .next s else .next (formGang s l g.key ms) := by
  intro ms
  rw [exec_gangFormation, execGangFormation]
  dsimp only
  rw [hq, hg]
  simp only [List.head?_cons, hk, hl, ms]

/-- Settles O50: the steps of the oldest operation of a queue, of a sweep and of a gang, and the cells that mzero clears. -/
theorem matrixSteps : Obligations.MatrixSteps := by
  unfold Obligations.MatrixSteps
  refine ⟨fun t q o rest s => ?_, fun t q o p s hk hp => zero_clears s t hk hp⟩
  intro y p put
  refine ⟨fun hq => ⟨fun hs hc hkind => ?start, fun hs hc ⟨ty, d, r, c, hk⟩ => ?store, fun m hk hs hc hgang => ?mac,
    fun m hk hs hc hg hbad => ?gangBad, fun m u hk hs hw hsup => ?wave, fun ty d r c hk hs hw hstall => ?loadStep,
    fun ty d r c hk hs hw => ?storeStep, fun hf hg => ?complete, fun hk hg => gangFormation_free hq hk hg,
    fun g l hk hg hl => ?form⟩, fun hc => ⟨fun shape sort hk hs hr => ?sweep, fun hs => sweepEnd_head hc hs⟩⟩
  case start =>
    rw [matrixOpStart_head hq hs hc]
    cases hk : o.kind <;> simp only [hk] at hkind <;> rfl
  case store =>
    rw [matrixOpStart_head hq hs hc]
    simp only [hk]
    rfl
  case mac =>
    have hgo : exec (.matrixOpStart t q) s = (match m.z with
        | some z =>
          if (s.tile t).wmStall z 1088 o.by_.order then .next s
          else
            let o' := { o with started := true, mask := some (maskBlock (s.tile t).scratch z (o.panel q).N) }
            .next (s.modTile t (fun y => (fillMasked y (o.panel q) o').setOp q 0 o'))
        | none => .next (s.modTile t (fun y => y.setOp q 0 { o with started := true }))) := by
      rw [matrixOpStart_head hq hs hc]
      simp only [hk]
      obtain hg | ⟨hteam, hissued, hdiffers⟩ := hgang
      · simp only [hg, Bool.false_and, Bool.false_eq_true, if_false] <;> rfl
      · have hsome : (teamOf (s.tile t) q o).isNone = false := by
          rw [← Bool.not_eq_true, Option.isNone_iff_eq_none]
          exact hteam
        simp only [hissued, hdiffers, hsome, Bool.not_true, Bool.and_false, Bool.or_self, Bool.false_eq_true, if_false] <;> rfl
    refine ⟨fun hz => ?_, fun z hz hstall => ?_⟩
    · rw [hgo, hz]
      rfl
    · rw [hgo, hz]
      exact if_neg (by simp [y] at hstall; simp [hstall])
  case gangBad =>
    rw [matrixOpStart_head hq hs hc]
    simp only [hk, hg, Bool.true_and]
    obtain hteam | ⟨hissued, hdiffers⟩ := hbad
    · simp only [y] at hteam
      simp only [hteam, Option.isSome_none, Bool.false_and, Bool.false_eq_true, if_false, Option.isNone_none, Bool.true_or, if_true]
    · simp only [hissued, hdiffers, Bool.not_true, Bool.and_false, Bool.false_eq_true, if_false, Bool.or_true, if_true]
  case wave =>
    have hgo := waveFetch_head hq hs (by simpa [MatOp.total, hk] using hw)
    simp only [hk, hsup] at hgo
    refine ⟨fun hg => ?_, fun hst => ?_, fun hst => ?_⟩
    · simp only [suppliers, hg, Bool.not_false, if_true, Option.some.injEq] at hsup
      exact hsup.symm
    · rw [hgo]
      exact if_neg (by rw [show waveStalls s (o.panel q) u q o = false from hst]; exact Bool.false_ne_true)
    · rw [hgo]
      exact if_pos hst
  case loadStep =>
    have hw' : o.waves < o.total (o.panel q) := by rw [MatOp.total, hk]; exact hw
    rw [waveFetch_head hq hs hw']
    have hstall' : rowStalls (s.tile t) ty (hdesc d) (r + o.waves) c (o.panel q).N o.by_.order = false := hstall
    simp only [hk, hstall', Bool.false_eq_true, if_false] <;> rfl
  case storeStep =>
    have hw' : o.waves < o.total (o.panel q) := by rw [MatOp.total, hk]; exact hw
    rw [waveFetch_head hq hs hw']
    refine ⟨fun he => ?_, fun he hstall => ?_⟩
    · simp only [hk, Option.isSome_iff_ne_none.2 he, if_true] <;> rfl
    · have hstall' : rowStalls (s.tile t) ty (hdesc d) (r + o.waves) c (o.panel q).N o.by_.order = false := hstall
      simp only [hk, he, hstall', Option.isSome_none, Bool.false_eq_true, if_false] <;> rfl
  case complete =>
    intro u counted
    have hgo := matrixOpComplete_head hq hf hg
    refine ⟨?_, fun ty half i d hk hd => finishOp_row_dead hk hd, fun h => ?_, fun cause detail hd he => ?_⟩
    · simp only [u]
      rw [tile_modTile_self, vset_self, finishOp_mq, show (s.tile t).mq.get q = o :: rest from hq]
      rfl
    · exact hgo.trans (congrArg _ (reportOp_quiet h ..))
    · exact hgo.trans (congrArg _ (reportOp_fault hd he ..))
  case form =>
    intro ms
    have hgo := gangFormation_head hq hk hg hl
    refine ⟨fun h => ?_, fun h => ?_⟩
    · exact hgo.trans (if_pos (List.isEmpty_iff.2 h))
    · exact hgo.trans (if_neg (fun he => h (List.isEmpty_iff.1 he)))
  case sweep =>
    obtain ⟨tk, tp, he, hempty⟩ := setSort_keeps (s.tile t) sort
    refine ⟨_, sweepStart_head hc hk hs hr, ?_⟩
    rw [State.setTile, State.tile, vset_self, he]
    exact ⟨rfl, rfl, rfl, rfl, rfl, rfl, hempty⟩

end Sys2Proof.Machine

/-! ## The steps of fabric regions -/

namespace Sys2Proof.Machine

theorem modRegion_congr {s : State} {r : Fin 128} {f g : Region → Region} (h : f (s.region r) = g (s.region r)) :
    s.modRegion r f = s.modRegion r g := by
  rw [State.modRegion, State.modRegion, show s.regions.get r = s.region r from rfl, h]

section
variable {r : Fin 128} {m : Fin 14} {s : State}

/-! ### Staging (R357, R358) -/

theorem stagingDone_eq {ld : RgLoad} {l : Launch} (hld : (s.region r).load = some ld) (hp : ld.parked = none)
    (hl : s.launchOf (.tile ld.who.t ld.who.c) = some l) (ho : olderAccess (s.ctx (.tile ld.who.t ld.who.c)) ld.who.by_.order = false)
    (hd : dieStages s r = false) :
    exec (.stagingDone r) s = (match stageBits s l r ld.addr (s.region r).req with
      | .ok c s1 => .next (endStaging s1 r ld.who (.inl c))
      | .bad n s1 => .next (endStaging s1 r ld.who (.inr n))
      | .wait => .next s
      | .park va lv =>
        if s.replayRoom (.unit (dieOfRegion r)) then
          let (tok, s1) := s.park (.unit (dieOfRegion r)) (mctxOf l.q l.c) .read va lv
          .next (s1.modRegion r (fun x => { x with load := some { ld with parked := some tok, begun := true } }))
        else .next s) := by
  rw [exec_stagingDone, execStagingDone]
  dsimp only
  rw [hld]
  dsimp only
  rw [if_neg (by simp [hp, ho, hd]), hl] <;> rfl

theorem endStaging_staged {c : RgCfg} (h : (s.region r).swap = none) (w : RgWait) : endStaging s r w (.inl c)
    = endRegionOp r 0 (s.modRegion r (fun x => { x with stage := 2, staged := some c, load := none })) w := by
  rw [endStaging]
  exact if_neg (by rw [h]; exact Bool.false_ne_true)

theorem endStaging_failed {k : Nat} (h : (s.region r).swap = none) (w : RgWait) : endStaging s r w (.inr k)
    = endRegionOp r k (s.modRegion r (fun x => { x with stage := 3, staged := none, load := none, lasterr := k })) w := by
  rw [endStaging]
  exact if_neg (by rw [h]; exact Bool.false_ne_true)

/-! ### Swap tokens (R365) -/

theorem swapToken_eq {c : RgCfg} {l : Launch} {e : Edge} {t : Token} (hst : (s.region r).st = 1) (hc : (s.region r).clocked = true)
    (ha : (s.region r).active = some c) (hs : c.swapctl = true) (hh : portHead s r 13 = some (l, e, t)) :
    let u := (takePort s l e).modRegion r (fun x => { x with taint := x.taint || t.poison })
    exec (.swapToken r) s = (if !t.bits.getLsbD 0 then .next u
      else if (s.region r).swap.isNone && ((s.region r).stage == 0 || (s.region r).stage == 3) then
        .next ((noteErr u r 1).logError (dieOfRegion r) 7 1 r.val 0 0)
      else .next (askSwap u r false [] true)) := by
  intro u
  rw [exec_swapToken, execSwapToken]
  dsimp only
  rw [if_neg (show ¬ (s.region r).st = 0 by omega), ha, hh]
  exact if_pos (by rw [hs, hc, hst]; rfl)

/-! ### Drains (R361, R362, R368) -/

theorem drainComplete_eq (hst : (s.region r).st = 2) (hc : (s.region r).clocked = true) :
    exec (.drainComplete r) s = .next (if (s.region r).idle then
      (if (s.region r).swap.isSome then commitSwap s r else s.modRegion r (fun x => { x with st := 3, quiescent := true })) else s) := by
  rw [exec_drainComplete, execDrainComplete]
  simp only [hst, hc, decide_true, Bool.true_and]

theorem drainBudgetExpiry_eq (hst : (s.region r).st = 2) :
    let frozen := s.modRegion r (fun x => { x with st := 3, saved := true, quiescent := false, image := x.snapshot })
    exec (.drainBudgetExpiry r) s
      = .next (if (s.region r).idle then s else if (s.region r).swap.isSome then failSwap frozen r 3 else frozen) := by
  intro frozen
  rw [exec_drainBudgetExpiry, execDrainBudgetExpiry]
  cases (s.region r).idle
  · simp only [hst, decide_true, Bool.true_and, Bool.not_false, if_true]
    rfl
  · simp only [hst, decide_true, Bool.true_and, Bool.not_true, Bool.false_eq_true, if_false, if_true]

/-! ### Power (R356) -/

theorem powerWindow_over {w : Nat} (hc : (s.region r).clocked = true) (hw : (s.region r).cap.toNat < w) :
    exec (.powerWindow r w) s = .next (overCap s r) := by
  rw [exec_powerWindow, execPowerWindow]
  simp only [hc, hw, Bool.not_true, Bool.false_eq_true, if_false, if_true]

theorem powerWindow_under {w : Nat} (hc : (s.region r).clocked = true) (hw : 10 * w < 9 * (s.region r).cap.toNat) :
    exec (.powerWindow r w) s = .next (s.modRegion r underCap) := by
  rw [exec_powerWindow, execPowerWindow]
  have hnot : ¬ (s.region r).cap.toNat < w := by omega
  simp only [hc, hw, hnot, Bool.not_true, Bool.false_eq_true, if_false, if_true]

/-! ### The operator (R359, R360) -/

theorem operatorEmit_accept {c : RgCfg} {l : Launch} {e : Edge} {t : Token} (hst : (s.region r).st = 1)
    (hc : (s.region r).clocked = true) (ha : (s.region r).active = some c) (hh : portHead s r m = some (l, e, t))
    (hdir : (c.port m).1 = 1) (hn : ¬(m = 13 ∧ c.swapctl = true)) :
    exec (.operatorEmit r m true) s = .next ((takePort s l e).modRegion r (fun x => { x with
      taint := x.taint || t.poison
      op := { x.op with hist := x.op.hist ++ [⟨m, portBits m t.bits, t.eos, t.poison⟩] } })) := by
  have hswap : (m == 13 && c.swapctl) = false := by simpa using hn
  rw [exec_operatorEmit, execOperatorEmit, if_pos rfl, acceptToken]
  simp only [ha, hh, hst, hc, hdir, hswap, decide_true, Bool.true_and, beq_self_eq_true, Bool.not_false, if_true]

theorem operatorEmit_emit {c : RgCfg} (hc : (s.region r).clocked = true) (ha : (s.region r).active = some c) (hdir : (c.port m).1 = 2)
    (hroom : ((s.region r).outbuf.filter (fun b => b.port == m)).length < 16) :
    exec (.operatorEmit r m false) s = .next (match (s.region r).op.next c.idhash m with
      | some (bits, eos) => flushPorts (s.modRegion r (fun x => { x with
          outbuf := x.outbuf ++ [⟨m, portBits m (BitVec.ofNat 512 (bits.toNat % 2 ^ (8 * (c.port m).2))), eos, x.taint⟩]
          op := { x.op with emitted := x.op.emitted ++ [m] } })) r
      | none => s) := by
  rw [exec_operatorEmit, execOperatorEmit, if_neg Bool.false_ne_true, emitToken]
  simp only [ha, hc, hdir, hroom, decide_true, Bool.true_and, beq_self_eq_true, if_true] <;> rfl

end

/-- Settles O53: each clause is the step of the region's model, under the guards that the clause states. -/
theorem regionSteps : Obligations.RegionSteps := by
  unfold Obligations.RegionSteps
  intro r m w s x put
  refine ⟨fun ld l hld hp hl ho hd => ?staging, fun c l e t hst hc ha hs hh => ?swap, fun hst hc => ?drain, fun hst => drainBudgetExpiry_eq hst,
    exec_clockRelock r s, fun hc => ?power, fun c l e t hst hc ha hh hdir hn => operatorEmit_accept hst hc ha hh hdir hn,
    fun c hc ha hdir hroom => operatorEmit_emit hc ha hdir hroom, fun hc => ?idle⟩
  case staging =>
    have hgo := stagingDone_eq hld hp hl ho hd
    rw [hgo]
    cases hb : stageBits s l r ld.addr (s.region r).req with
    | ok c s1 => exact fun h => congrArg _ (endStaging_staged h _)
    | bad k s1 => exact fun h => congrArg _ (endStaging_failed h _)
    | wait => rfl
    | park va lv => exact fun h => if_pos h
  case swap =>
    intro u
    rw [swapToken_eq hst hc ha hs hh]
    refine ⟨fun hb => ?_, fun hb hsw hstage => ?_, fun hb hsw => ?_⟩
    · exact if_pos (by rw [hb]; rfl)
    · rw [if_neg (by rw [hb]; exact Bool.false_ne_true)]
      exact if_pos (by simpa [hsw, x] using hstage)
    · rw [if_neg (by rw [hb]; exact Bool.false_ne_true)]
      refine if_neg ?_
      obtain hsw | hsw | hsw := hsw
      · simp only [x] at hsw
        simp [hsw]
      · simp only [x] at hsw
        simp [hsw]
      · simp only [x] at hsw
        simp [hsw]
  case drain =>
    refine ⟨fun hsw => ?_, fun sw hsw => ?_⟩
    · rw [drainComplete_eq hst hc, if_neg (show ¬ (s.region r).swap.isSome = true by rw [show (s.region r).swap = none from hsw]; exact Bool.false_ne_true)]
    · rw [drainComplete_eq hst hc, if_pos (show (s.region r).swap.isSome = true by rw [show (s.region r).swap = some sw from hsw]; rfl), commitSwap,
        show (s.region r).swap = some sw from hsw]
  case power =>
    refine ⟨fun hw hs => ?_, fun hw hs ha => ?_, fun hw hs ha => ?_, fun hw hb hr => ?_, fun hw hb => ?_⟩
    · rw [powerWindow_over hc hw, overCap]
      exact congrArg _ (if_pos hs)
    · rw [powerWindow_over hc hw, overCap]
      exact congrArg _ ((if_neg (Nat.not_lt.2 hs)).trans (if_pos ha))
    · rw [powerWindow_over hc hw, overCap]
      exact congrArg _ ((if_neg (Nat.not_lt.2 hs)).trans (if_neg (Nat.not_lt.2 ha)))
    · rw [powerWindow_under hc hw]
      refine congrArg _ (modRegion_congr ?_)
      rw [underCap, if_neg (show ¬ (s.region r).below + 1 < 10 by rw [show (s.region r).below + 1 = 10 from hb]; omega),
        if_pos (show (s.region r).reqStep < (s.region r).step from hr)]
    · rw [powerWindow_under hc hw]
      exact congrArg _ (modRegion_congr (if_pos hb))
  case idle =>
    rw [exec_operatorIdle, execOperatorIdle]
    simp only [show (s.region r).clocked = true from hc, Bool.true_and] <;> rfl

end Sys2Proof.Machine

/-! ## The steps of transform arrays and conversions -/

namespace Sys2Proof.Machine

/-! ### Loads and frees of a slot (R341, R342, R346 to R350) -/

section
variable {cg : Fin 32} {k : Fin 8} {s : State} {l : StaLoad}

theorem staloadComplete_reads {la : Launch} (hl : (s.staSlot cg k).loads.find? (loadReads s) = some l)
    (hla : s.launchOf (.tile l.t l.c) = some la) :
    exec (.staloadComplete cg k) s = .next (takeLoad (readLoad s cg k l (mctxOf la.q la.c)) cg k) := by
  rw [exec_staloadComplete, execStaloadComplete, hl]
  dsimp only
  rw [hla]

theorem readLoad_fail {m : Fin 128} {step va : Nat} (h : fetchVa s cg m l.addr 32 = .fail step va) :
    readLoad s cg k l m = endLoad s cg k l (.inr 7) := by
  rw [readLoad, h]

theorem readLoad_wait {m : Fin 128} (h : fetchVa s cg m l.addr 32 = .wait) : readLoad s cg k l m = s := by
  rw [readLoad, h]

theorem readLoad_noHead {m : Fin 128} {hd : List Byte} {po : Bool} {s1 : State} (h : fetchVa s cg m l.addr 32 = .bytes hd po s1)
    (hh : containerHead hd = none) : readLoad s cg k l m = endLoad s1 cg k l (.inr 7) := by
  simp only [readLoad, h, hh]

theorem readLoad_poisoned {m : Fin 128} {hd : List Byte} {s1 : State} {nw sl : Nat} (h : fetchVa s cg m l.addr 32 = .bytes hd true s1)
    (hh : containerHead hd = some (nw, sl)) : readLoad s cg k l m = endLoad s1 cg k l (.inr 7) := by
  simp only [readLoad, h, hh, if_true]

theorem readLoad_whole {m : Fin 128} {hd bs : List Byte} {po2 : Bool} {s1 s2 : State} {nw sl : Nat}
    (h : fetchVa s cg m l.addr 32 = .bytes hd false s1) (hh : containerHead hd = some (nw, sl))
    (hb : fetchVa s1 cg m l.addr (32 + 4 * nw + sl) = .bytes bs po2 s2) :
    readLoad s cg k l m = if po2 then endLoad s2 cg k l (.inr 7) else verifyLoad s2 cg k l m nw bs := by
  simp only [readLoad, h, hh, hb, Bool.false_eq_true, if_false]

theorem takeLoad_waits {ls : List StaLoad} (h : (s.staSlot cg k).loads = l :: ls) (hg : l.got = none ∨ loadWaits s cg k l = true) :
    takeLoad s cg k = s := by
  rw [takeLoad, h]
  dsimp only
  split
  · rfl
  · next ws hws =>
    obtain hg | hw := hg
    · exact absurd (hg.symm.trans hws) (by simp)
    · exact if_pos hw

theorem takeLoad_takes {ls : List StaLoad} {ws : List Nat} (h : (s.staSlot cg k).loads = l :: ls) (hg : l.got = some ws)
    (hw : loadWaits s cg k l = false) : takeLoad s cg k = endLoad s cg k l
      (if l.upd = true ∧ (s.staSlot cg k).st = 0 then .inr 7 else
        applyGraph (s.clusters.get cg) k (if l.upd then (s.staSlot cg k).graph else StaGraph.empty) ws) := by
  rw [takeLoad, h]
  dsimp only
  rw [hg]
  dsimp only
  rw [if_neg (by rw [hw]; exact Bool.false_ne_true)]
  exact (apply_ite (endLoad s cg k l) ..).symm

theorem modSta_congr {f g : StaSlot → StaSlot} (h : f (s.staSlot cg k) = g (s.staSlot cg k)) : s.modSta cg k f = s.modSta cg k g := by
  have h' : f ((s.clusters.get cg).sta.get k) = g ((s.clusters.get cg).sta.get k) := h
  rw [State.modSta, State.modSta, State.modCluster, State.modCluster, h']

theorem endLoad_first (hu : l.upd = false) (hf : (s.staSlot cg k).frees = []) (hq : l.sq = none) (g : StaGraph) (n : Nat) :
    let gone := fun (x : StaSlot) => x.loads.filter (fun y => y.stamp != l.stamp)
    endLoad s cg k l (.inl g) = s.modSta cg k (fun x => { x with loads := gone x, graph := g, ldstat := 1, st := 2 })
    ∧ endLoad s cg k l (.inr n) = s.modSta cg k (fun x => { x with loads := gone x, st := 0, owner := none, ldstat := n }) := by
  intro gone
  have hempty : (s.staSlot cg k).frees.isEmpty = true := by rw [hf]; rfl
  constructor
  · simp only [endLoad, hq, State.signalOpt]
    exact modSta_congr (by simp only [hempty, if_true] <;> rfl)
  · simp only [endLoad, hq, State.signalOpt]
    exact modSta_congr (by simp only [hu, hempty, if_true, Bool.false_eq_true, if_false] <;> rfl)

theorem stafreeComplete_holds {f : StaFree} {fs : List StaFree} (h : (s.staSlot cg k).frees = f :: fs)
    (hr : freeReady (s.clusters.get cg) k f = false) : exec (.stafreeComplete cg k) s = .next s := by
  rw [exec_stafreeComplete, execStafreeComplete]
  dsimp only
  rw [h]
  exact if_neg (by rw [hr]; exact Bool.false_ne_true)

theorem stafreeComplete_frees {f : StaFree} (h : (s.staSlot cg k).frees = [f]) (hl : (s.staSlot cg k).loads = [])
    (hr : freeReady (s.clusters.get cg) k f = true) : exec (.stafreeComplete cg k) s
      = .next ((refuseUsers (s.modSta cg k StaSlot.emptied) cg k).signalOpt (.tile f.t f.c) f.sq) := by
  rw [exec_stafreeComplete, execStafreeComplete]
  dsimp only
  rw [h, hl]
  exact if_pos hr

end

/-! ### Conversions (R209, R210, R213, R217, R218) -/

section
variable {id u : Nat} {v : Conv} {s : State}

theorem relayoutAcknowledgement_eq {cl : Fin 32} (hv : s.convs.find? (fun v => v.id == id) = some v)
    (hcl : (s.clustersOf v.q).getLsbD cl.val = true) :
    exec (.relayoutAcknowledgement id cl) s
      = if (List.finRange 8).any (fun i => ((s.tile ⟨cl.val * 8 + i.val, by omega⟩).ctx.get v.c).handleWrites v.index) = false
        then .next { s with convs := s.convs.map (fun x => if x.id = id then { x with acks := setBit x.acks cl.val true } else x) }
        else .next s := by
  rw [exec_relayoutAcknowledgement, execRelayoutAcknowledgement, hv]
  dsimp only
  rw [hcl]
  refine if_congr ?_ rfl rfl
  rw [Bool.true_and, Bool.not_eq_true']

theorem conversionUnitStart_idle (hv : s.convs.find? (fun v => v.id == id) = some v)
    (h : convReady s v = false ∨ v.waiting u = false ∨ v.units ≤ u) : exec (.conversionUnitStart id u) s = .next s := by
  rw [exec_conversionUnitStart, execConversionUnitStart, hv]
  exact if_pos (by simpa [or_assoc] using h)

theorem conversionUnitStart_page (hv : s.convs.find? (fun v => v.id == id) = some v) (hr : convReady s v = true)
    (hw : v.waiting u = true) (hu : u < v.units) :
    let va := (hdesc v.target).base + 32768 * u
    let c0 := s.firstCluster v.q
    s.unitWalk c0 (mctxOf v.q v.c) va = none →
    exec (.conversionUnitStart id u) s = (match convPage s v c0 .write va with
      | .missing lv => .next (parkUnit s v c0 .write u va lv)
      | .fault step cause _ => .next (if cause = 0x12 then s else breakConv s v c0 step va)
      | .ok x =>
        let cg := cgOf x.pa
        if targetOf x.pa ≠ some .hbm then .next (breakConv s v c0 5 va)
        else if s.convs.any (fun w => w.busy.any (fun b => b.2 == cg)) then .next s
        else if (engineNext s cg).map (fun x => (x.1.id, x.2)) ≠ some (id, u) then .next s
        else
          match unitWalks s v cg u, unitStopped s v cg u with
          | some s1, _ => .next s1
          | none, some s1 => .next s1
          | none, none =>
            let v' := { v with busy := v.busy ++ [(u, cg)] }
            .next (writeMap ((s.setConv v').modCluster cg (fun x => { x with convLast := some id })) v' cg u)) := by
  intro va c0 hwalk
  rw [exec_conversionUnitStart, execConversionUnitStart, hv]
  refine (if_neg (by simpa [hr, hw] using hu)).trans ?_
  dsimp only
  rw [hwalk] <;> rfl

theorem conversionUnitDone_eq {cg : Fin 32} (hv : s.convs.find? (fun v => v.id == id) = some v)
    (hb : v.busy.find? (fun b => b.1 == u) = some (u, cg)) :
    exec (.conversionUnitDone id u) s = (match unitWalks s v cg u with
      | some s1 => .next s1
      | none =>
        match unitStopped s v cg u, convPage s v cg .write ((hdesc v.target).base + 32768 * u) with
        | some s1, _ => .next s1
        | none, .ok x =>
          match unitHeld s v cg u with
          | some s1 => .next s1
          | none => .next (turnNew (passUnit s v cg u) v cg u x)
        | none, _ => .next s) := by
  rw [exec_conversionUnitDone, execConversionUnitDone, hv]
  dsimp only
  rw [hb] <;> rfl

theorem turnNew_eq (s : State) (v : Conv) (cg : Fin 32) (u : Nat) (x : Xlated) :
    let bp := unitBytes s v cg u
    let s1 := { s.writePa x.key x.pa bp.1 (List.replicate bp.1.length true) with
      freeCtr := s.freeCtr + 1, demands := s.demands.filter (fun d => d != (v.id, u)) }
    let s2 := bp.2.zipIdx.foldl (fun s p => if p.1 then s.poisonPa (x.pa + p.2) 1 else s) s1
    let w := { v with done := v.done ++ [u], busy := v.busy.filter (fun b => b.1 != u) }
    let s3 := writeMap ((s2.setConv w).updEntry v.q v.c v.index (fun d => dPut d 120 0 32 (v.done.length + 1))) w cg u
    turnNew s v cg u x = if v.done.length + 1 = v.units then completeConv s3 w else s3 := by
  simp only [turnNew, List.length_append, List.length_cons, List.length_nil, Nat.zero_add]

theorem completeConv_unsent (h : v.cslot = none) :
    completeConv s v = endConv (s.updEntry v.q v.c v.index (takeLayout v.target)) v := by
  rw [completeConv]
  exact if_neg (by rw [h]; exact Bool.false_ne_true)

end

theorem ite_bnot {α : Sort*} (b : Bool) (x y : α) : (if !b then x else y) = if b then y else x := by
  cases b <;> rfl

/-- Settles O52: each clause is one outcome of a load, a free or a conversion unit. -/
theorem arrayAndConversionSteps : Obligations.ArrayAndConversionSteps := by
  unfold Obligations.ArrayAndConversionSteps
  refine ⟨fun cg k s => ⟨fun l la hl hla => ?load, fun hl => ⟨?quiet, fun l ls hs => ⟨fun hg => takeLoad_waits hs (.inl hg),
      fun ws hg => ⟨fun hw => takeLoad_waits hs (.inr hw), fun hw => takeLoad_takes hs hg hw⟩⟩⟩,
      fun l g n hu hf hq => endLoad_first hu hf hq g n,
      fun f fs hf => ⟨fun hr => stafreeComplete_holds hf hr, fun he hl hr => stafreeComplete_frees (he ▸ hf) hl hr⟩⟩,
    fun id u v cl s hv => ?conv⟩
  case load =>
    intro m
    refine ⟨staloadComplete_reads hl hla, fun step va h => readLoad_fail h, fun h => readLoad_wait h,
      fun hd po s1 h => ⟨fun hh => readLoad_noHead h hh, fun nw sl hh => ⟨fun hp => readLoad_poisoned (hp ▸ h) hh, fun bs po2 s2 hp hb => ?_⟩⟩⟩
    intro key good
    rw [readLoad_whole (hp ▸ h) hh hb, verifyLoad]
    exact if_congr Iff.rfl rfl (ite_bnot good _ _)
  case quiet =>
    rw [exec_staloadComplete, execStaloadComplete, hl]
  case conv =>
    intro va c0 start
    refine ⟨fun hcl => ?ack, conversionUnitStart_idle hv, fun hr hw hu hwalk => ?start, fun cg x hb => ?done, completeConv_unsent⟩
    case ack =>
      intro quiet
      rw [relayoutAcknowledgement_eq hv hcl]
      have hq : (List.finRange 8).any (fun i => ((s.tile ⟨cl.val * 8 + i.val, by omega⟩).ctx.get v.c).handleWrites v.index) = false ↔ quiet := by
        simp [List.any_eq_false, List.mem_finRange, quiet]
      exact ⟨fun h => if_pos (hq.2 h), fun h => if_neg (fun hn => h (hq.1 hn))⟩
    case start =>
      have hgo := conversionUnitStart_page hv hr hw hu hwalk
      refine ⟨fun lv hp => ?_, fun step c d hp => ?_, fun x hp => ⟨fun ht => ?_, fun ht => ?_⟩⟩
      · rw [hp] at hgo
        exact hgo
      · rw [hp] at hgo
        exact hgo
      · rw [hp] at hgo
        exact hgo.trans (if_pos ht)
      · rw [hp] at hgo
        replace hgo := hgo.trans (if_neg (not_not.2 ht))
        intro cg turn
        have hturn : turn → start = (match unitWalks s v cg u, unitStopped s v cg u with
            | some s1, _ => .next s1
            | none, some s1 => .next s1
            | none, none =>
              let v' := { v with busy := v.busy ++ [(u, cg)] }
              .next (writeMap ((s.setConv v').modCluster cg (fun x => { x with convLast := some id })) v' cg u)) := by
          rintro ⟨hbusy, hnext⟩
          exact hgo.trans ((if_neg (by rw [hbusy]; exact Bool.false_ne_true)).trans (if_neg (not_not.2 hnext)))
        refine ⟨fun hn => ?_, fun s1 h hws => ?_, fun s1 h hws hst => ?_, fun h hws hst => ?_⟩
        · refine hgo.trans ?_
          by_cases hbusy : s.convs.any (fun w => w.busy.any (fun b => b.2 == cg)) = true
          · exact if_pos hbusy
          · refine (if_neg hbusy).trans (if_pos fun hnext => hn ⟨Bool.not_eq_true _ ▸ hbusy, hnext⟩)
        · rw [hturn h, hws]
        · rw [hturn h, hws, hst]
        · rw [hturn h, hws, hst]
    case done =>
      have hgo := conversionUnitDone_eq hv hb
      refine ⟨fun s1 hws => ?_, fun s1 hws hst => ?_, fun s1 hws hst hp hh => ?_, fun hws hst hp hh => ?_⟩
      · rw [hgo, hws]
      · rw [hgo, hws, hst]
      · rw [hgo, hws, hst, show convPage s v cg .write ((hdesc v.target).base + 32768 * u) = .ok x from hp]
        dsimp only
        rw [hh]
      · rw [hgo, hws, hst, show convPage s v cg .write ((hdesc v.target).base + 32768 * u) = .ok x from hp]
        dsimp only
        rw [hh]
        exact congrArg _ (turnNew_eq ..)

end Sys2Proof.Machine

/-! ## The host port -/

namespace Sys2Proof.Machine

/-! ### The aperture (R415, R416) -/

section
variable {q : Fin 32} {off : Nat} {s : State}

theorem apertureArrive_waits {a : Aper} (h : s.aper ≠ []) : apertureArrive s a = { s with aper := s.aper ++ [a], reply := .none } := by
  rw [apertureArrive]
  exact if_pos (by simpa using h)

/-- The address of an aperture access. -/
def Vf.aperVa (v : Vf) (off : Nat) : Nat := v.apctl.toNat / 2 ^ 36 % 2 ^ 20 * 2 ^ 36 + off

/-- The memory context of the aperture. -/
def Vf.aperCtx (v : Vf) (q : Fin 32) : Fin 128 := mctxOf q (Fin.ofNat 4 (v.apctl.toNat % 4))

theorem apertureAddr_eq (v : Vf) (q : Fin 32) (off : Nat) : apertureAddr v q off = (v.aperVa off, v.aperCtx q) := by
  rw [apertureAddr, bitsAt_eq, bitsAt_eq, Nat.pow_zero, Nat.div_one, Vf.aperVa, Vf.aperCtx] <;> rfl

theorem apertureGo_walks {a : Aper} {va : Nat} {m : Fin 128} {t : State} (haddr : apertureAddr (s.vfs.get a.q) a.q a.off = (va, m))
    (hw : s.walkStep m va = some t) : apertureGo s a = (t, true) := by
  unfold apertureGo
  split
  next va' m' he =>
    obtain ⟨rfl, rfl⟩ := Prod.mk.inj (haddr.symm.trans he)
    rw [hw]

section
variable {a : Aper} {va : Nat} {m : Fin 128} (haddr : apertureAddr (s.vfs.get a.q) a.q a.off = (va, m)) (hw : s.walkStep m va = none)
include haddr hw

theorem apertureGo_missing {l : Nat} (hx : (s.passWalk m va).retranslate m a.op.kind va = .missing l) :
    apertureGo s a = (apertureFails (s.passWalk m va) 3 va, false) := by
  unfold apertureGo
  split
  next va' m' he =>
    obtain ⟨rfl, rfl⟩ := Prod.mk.inj (haddr.symm.trans he)
    rw [hw]
    dsimp only
    rw [hx]

theorem apertureGo_fault {step c d : Nat} (hx : (s.passWalk m va).retranslate m a.op.kind va = .fault step c d) :
    apertureGo s a = (if c = 0x12 then { s.passWalk m va with reply := .none } else apertureFails (s.passWalk m va) step va, false) := by
  unfold apertureGo
  split
  next va' m' he =>
    obtain ⟨rfl, rfl⟩ := Prod.mk.inj (haddr.symm.trans he)
    rw [hw]
    dsimp only
    rw [hx]

theorem apertureGo_page {x : Xlated} (hx : (s.passWalk m va).retranslate m a.op.kind va = .ok x) :
    let u := s.passWalk m va
    let cp : Fin 4 := if u.rawAccess x then 3 else 0
    apertureGo s a = if !u.reachable x.pa then ({ u with reply := .none }, false)
      else if u.mayEnter x.pa a.op.len cp then (a.op.perform (u.passHome x a.op.len m a.op.duel) x, false)
      else (u.askLines x.pa a.op.len cp m a.op.duel, true) := by
  unfold apertureGo
  split
  next va' m' he =>
    obtain ⟨rfl, rfl⟩ := Prod.mk.inj (haddr.symm.trans he)
    rw [hw]
    dsimp only
    rw [hx]

end

theorem apertureArrive_done {a : Aper} {t : State} (h : s.aper = []) (hgo : apertureGo s a = (t, false)) : apertureArrive s a = t := by
  rw [apertureArrive, if_neg (by simp [h]), hgo] <;> rfl

theorem apertureArrive_held {a : Aper} {t : State} (h : s.aper = []) (hgo : apertureGo s a = (t, true)) :
    apertureArrive s a = { t with aper := [a], reply := .none } := by
  rw [apertureArrive, if_neg (by simp [h]), hgo] <;> rfl

end

theorem sliceStep_passHome (s : State) (x : Xlated) (n : Nat) (m : Fin 128) (how : Duel) : SliceStep s (s.passHome x n m how) := by
  rw [State.passHome]
  split
  · exact SliceStep.foldl (fun s l => (sliceStep_wake s _).trans (sliceStep_modSlice ..)) _ _
  · exact sliceStep_touch ..

/-- A plain write of clear bytes, where no line stands under a key. -/
theorem writePa_plain {s : State} {pa : Nat} (ht : targetOf pa = some .hbm) (hd : ∀ l, s.lineKey l = none) (bs : List Byte) (mask : List Bool) :
    s.writePa none pa bs mask = { s with mem := s.mem.writeMasked pa bs mask } := by
  have hown : ∀ ls : List Nat, ls.foldl (fun s l => s.ownLine none l) s = s := fun ls => by
    induction ls with
    | nil => rfl
    | cons l ls ih => rw [List.foldl_cons, State.ownLine, hd l, if_pos rfl, ih]
  have hlines : s.ownLines none pa bs.length = s := hown _
  simp only [State.writePa, ht, hlines]

theorem atomicValue_add (b8 : Bool) (v cmp : Word) (old : Nat) :
    atomicValue .add false b8 v cmp old = some ((old + v.toNat) % 2 ^ (8 * if b8 then 8 else 4)) := by
  cases b8 <;> simp only [atomicValue, atomNew, Bool.false_eq_true, if_false, if_true] <;> rw [← Nat.add_mod] <;> rfl

theorem atomicValue_swap (b8 : Bool) (v cmp : Word) (old : Nat) :
    atomicValue .swap false b8 v cmp old = some (v.toNat % 2 ^ (8 * if b8 then 8 else 4)) := by
  cases b8 <;> rfl

theorem atomicValue_cas (op : AtomOp) (b8 : Bool) (v cmp : Word) (old : Nat) : atomicValue op true b8 v cmp old
    = if old = cmp.toNat % 2 ^ (8 * if b8 then 8 else 4) then some (v.toNat % 2 ^ (8 * if b8 then 8 else 4)) else none := by
  cases b8 <;> rfl

theorem apertureRead_arrives {s : State} {q : Fin 32} {p : Partition} (hp : s.part q = some p) (off n : Nat) :
    exec (.apertureRead q off n) s = .next (apertureArrive s ⟨q, off, .read n⟩) := by
  rw [exec_apertureRead, execApertureRead, hp]
  exact if_neg Bool.false_ne_true

theorem apertureWrite_arrives {s : State} {q : Fin 32} {p : Partition} (hp : s.part q = some p) (off : Nat) (bytes : List Byte) :
    exec (.apertureWrite q off bytes) s = .next (apertureArrive s ⟨q, off, .write bytes⟩) := by
  rw [exec_apertureWrite, execApertureWrite, hp]
  exact if_neg Bool.false_ne_true

section
variable {s : State} {q : Fin 32} {p : Partition} {off : Nat} {op : AtomOp} {isCas b8 : Bool} {v cmp : Word} (hp : s.part q = some p)
include hp

theorem apertureAtomicop_unsupported (hf : s.featured 2 = false) :
    exec (.apertureAtomicop q off op isCas b8 v cmp) s = .next { s with reply := .unsupported } := by
  rw [exec_apertureAtomicop, execApertureAtomicop, hp]
  refine (if_neg Bool.false_ne_true).trans (if_pos ?_)
  rw [hf]
  rfl

variable (hf : s.featured 2 = true) (hop : (isCas || op == .add || op == .swap) = true)
include hf hop

theorem apertureAtomicop_misaligned (ho : off % (if b8 then 8 else 4) ≠ 0) :
    exec (.apertureAtomicop q off op isCas b8 v cmp) s = .next { s with reply := .abort } := by
  rw [exec_apertureAtomicop, execApertureAtomicop, hp]
  exact (if_neg Bool.false_ne_true).trans ((if_neg (by rw [hf, hop]; exact Bool.false_ne_true)).trans (if_pos ho))

theorem apertureAtomicop_arrives (ho : off % (if b8 then 8 else 4) = 0) :
    exec (.apertureAtomicop q off op isCas b8 v cmp) s = .next (apertureArrive s ⟨q, off, .atomic op isCas b8 v cmp⟩) := by
  rw [exec_apertureAtomicop, execApertureAtomicop, hp]
  exact (if_neg Bool.false_ne_true).trans ((if_neg (by rw [hf, hop]; exact Bool.false_ne_true)).trans (if_neg (not_not.2 ho)))

end

/-- The value that an AtomicOp leaves, of the forms that the aperture takes. -/
def aperValue (op : AtomOp) (isCas : Bool) (w : Nat) (v cmp : Word) (o : Nat) : Option Nat :=
  if isCas then (if o = cmp.toNat % 2 ^ (8 * w) then some (v.toNat % 2 ^ (8 * w)) else none)
  else some (if op = .swap then v.toNat % 2 ^ (8 * w) else (o + v.toNat) % 2 ^ (8 * w))

theorem atomicValue_aper {op : AtomOp} {isCas : Bool} (b8 : Bool) (v cmp : Word) (h : isCas = true ∨ op = .add ∨ op = .swap) :
    atomicValue op isCas b8 v cmp = aperValue op isCas (if b8 then 8 else 4) v cmp := by
  funext o
  obtain rfl | rfl | rfl := h
  · rw [atomicValue_cas, aperValue, if_pos rfl]
  · cases isCas
    · rw [atomicValue_add, aperValue, if_neg Bool.false_ne_true, if_neg (show ¬ AtomOp.add = AtomOp.swap by decide)]
    · rw [atomicValue_cas, aperValue, if_pos rfl]
  · cases isCas
    · rw [atomicValue_swap, aperValue, if_neg Bool.false_ne_true, if_pos rfl]
    · rw [atomicValue_cas, aperValue, if_pos rfl]

section
variable {s : State} {a : Aper} {va : Nat} {m : Fin 128} {x : Xlated} (h : s.aper = [])
  (haddr : apertureAddr (s.vfs.get a.q) a.q a.off = (va, m)) (hw : s.walkStep m va = none)
  (hx : (s.passWalk m va).retranslate m a.op.kind va = .ok x)
include h haddr hw hx

theorem apertureArrive_dark (hr : (s.passWalk m va).reachable x.pa = false) :
    apertureArrive s a = { s.passWalk m va with reply := .none } :=
  apertureArrive_done h ((apertureGo_page haddr hw hx).trans (if_pos (by rw [hr]; rfl)))

variable (hr : (s.passWalk m va).reachable x.pa = true)
include hr

theorem apertureArrive_enters (he : (s.passWalk m va).mayEnter x.pa a.op.len (if (s.passWalk m va).rawAccess x then 3 else 0) = true) :
    apertureArrive s a = a.op.perform ((s.passWalk m va).passHome x a.op.len m a.op.duel) x :=
  apertureArrive_done h ((apertureGo_page haddr hw hx).trans ((if_neg (by rw [hr]; exact Bool.false_ne_true)).trans (if_pos he)))

theorem apertureArrive_waitsHome (he : (s.passWalk m va).mayEnter x.pa a.op.len (if (s.passWalk m va).rawAccess x then 3 else 0) = false) :
    apertureArrive s a = { (s.passWalk m va).askLines x.pa a.op.len (if (s.passWalk m va).rawAccess x then 3 else 0) m a.op.duel with
      aper := [a], reply := .none } :=
  apertureArrive_held h ((apertureGo_page haddr hw hx).trans
    ((if_neg (by rw [hr]; exact Bool.false_ne_true)).trans (if_neg (by rw [he]; exact Bool.false_ne_true))))

end

/-! ### What the aperture answers -/

theorem perform_read {s : State} {x : Xlated} (ht : targetOf x.pa = some .hbm) (n : Nat) :
    AperOp.perform s x (.read n) = { s with reply := .data (s.bytesAt (s.hostKey x) x.pa n) (s.mem.readPoison x.pa n) } := by
  simp only [AperOp.perform, State.readPa, ht]

theorem bytesAt_congr {s t : State} (hm : t.mem = s.mem) (hk : t.lineKeys = s.lineKeys) (key : Option Key) (pa n : Nat) :
    t.bytesAt key pa n = s.bytesAt key pa n := by
  unfold State.bytesAt State.byteAt State.lineKey
  rw [hm, hk]

theorem rawAccess_plain (s : State) {x : Xlated} (h : x.enc = false) : s.rawAccess x = false := by rw [State.rawAccess, h, Bool.false_and]

theorem hostKey_plain (s : State) {x : Xlated} (h : x.enc = false) : s.hostKey x = x.key := by
  rw [State.hostKey, h, Bool.false_and]
  exact if_neg Bool.false_ne_true

/-- A read that enters its home answers the bytes and leaves memory. -/
theorem apertureArrive_reads {s : State} {a : Aper} {va : Nat} {m : Fin 128} {x : Xlated} {n : Nat} (h : s.aper = [])
    (haddr : apertureAddr (s.vfs.get a.q) a.q a.off = (va, m)) (hw : s.walkStep m va = none) (ha : a.op = .read n)
    (hx : (s.passWalk m va).retranslate m a.op.kind va = .ok x) (hr : (s.passWalk m va).reachable x.pa = true)
    (he : (s.passWalk m va).mayEnter x.pa a.op.len (if s.rawAccess x then 3 else 0) = true) (ht : targetOf x.pa = some .hbm) :
    let t := apertureArrive s a
    t.mem = s.mem ∧ t.lineKeys = s.lineKeys ∧ t.aper = []
      ∧ t.reply = .data (s.bytesAt (s.hostKey x) x.pa n) (s.mem.readPoison x.pa n) := by
  intro t
  obtain ⟨cl, hb, hu⟩ := sliceStep_passWalk s m va
  have hraw : (s.passWalk m va).rawAccess x = s.rawAccess x := by rw [hu]; rfl
  have ht' : t = _ := apertureArrive_enters h haddr hw hx hr (hraw ▸ he)
  rw [ha, perform_read ht] at ht'
  obtain ⟨cl', hb', hv⟩ := (sliceStep_passWalk s m va).trans (sliceStep_passHome (s.passWalk m va) x (AperOp.read n).len m (AperOp.read n).duel)
  rw [hv] at ht'
  rw [ht']
  exact ⟨rfl, rfl, h, rfl⟩

/-- A write that enters its home is done, where it stands under no key. -/
theorem apertureArrive_writes {s : State} {a : Aper} {va : Nat} {m : Fin 128} {x : Xlated} {bytes : List Byte} (h : s.aper = [])
    (haddr : apertureAddr (s.vfs.get a.q) a.q a.off = (va, m)) (hw : s.walkStep m va = none) (ha : a.op = .write bytes)
    (hx : (s.passWalk m va).retranslate m a.op.kind va = .ok x) (hr : (s.passWalk m va).reachable x.pa = true) (hn : x.enc = false)
    (hk : x.key = none) (he : (s.passWalk m va).mayEnter x.pa a.op.len 0 = true) (ht : targetOf x.pa = some .hbm)
    (hd : ∀ l, s.lineKey l = none) :
    let t := apertureArrive s a
    t.reply = .done ∧ t.aper = [] ∧ t.mem = s.mem.writeMasked x.pa bytes (List.replicate bytes.length true) := by
  intro t
  have ht' : t = _ := apertureArrive_enters h haddr hw hx hr (by rw [rawAccess_plain _ hn]; exact he)
  obtain ⟨cl', hb', hv⟩ := (sliceStep_passWalk s m va).trans (sliceStep_passHome (s.passWalk m va) x a.op.len m a.op.duel)
  rw [hv, ha] at ht'
  obtain ⟨v, hv'⟩ : ∃ v, { s with clusters := cl', hbm := hb' } = v := ⟨_, rfl⟩
  have hvd : ∀ l, v.lineKey l = none := fun l => by rw [← hv']; exact hd l
  have hvm : v.mem = s.mem := by rw [← hv']
  have hva : v.aper = [] := by rw [← hv']; exact h
  rw [hv', AperOp.perform, hostKey_plain _ hn, hk, writePa_plain ht hvd] at ht'
  rw [ht']
  exact ⟨rfl, hva, congrArg (fun m : Memory => m.writeMasked x.pa bytes (List.replicate bytes.length true)) hvm⟩

/-- An AtomicOp that enters its home answers the old value. -/
theorem apertureArrive_atomic {s : State} {a : Aper} {va : Nat} {m : Fin 128} {x : Xlated} {op : AtomOp} {isCas b8 : Bool} {v cmp : Word}
    (h : s.aper = []) (haddr : apertureAddr (s.vfs.get a.q) a.q a.off = (va, m)) (hw : s.walkStep m va = none)
    (ha : a.op = .atomic op isCas b8 v cmp) (hx : (s.passWalk m va).retranslate m a.op.kind va = .ok x)
    (hr : (s.passWalk m va).reachable x.pa = true) (hn : x.enc = false)
    (he : (s.passWalk m va).mayEnter x.pa a.op.len 0 = true) (hop : isCas = true ∨ op = .add ∨ op = .swap) :
    let w := if b8 then 8 else 4
    let r := ((s.passWalk m va).touch x.pa w 0 m .rmw).rmwPa x.key x.pa w (aperValue op isCas w v cmp)
    apertureArrive s a = { r.2.2 with reply := .data r.1 r.2.1 } := by
  intro w r
  have hraw : (s.passWalk m va).rawAccess x = false := rawAccess_plain _ hn
  rw [apertureArrive_enters h haddr hw hx hr (by rw [hraw]; exact he), State.passHome, hraw, if_neg Bool.false_ne_true, ha]
  obtain ⟨u, hu⟩ : ∃ u, s.passWalk m va = u := ⟨_, rfl⟩
  simp only [r, hu, AperOp.perform, hostKey_plain _ hn, atomicValue_aper b8 v cmp hop] <;> rfl

/-! ### Rings (R413) -/

/-- The ring of a function: its fault queue, or its completion queue. -/
def Vf.ring (x : Vf) (fault : Bool) : Ring := if fault then x.fq else x.cq

theorem refillRing_none {s : State} {q : Fin 32} {fault : Bool} (h : ((s.vfs.get q).ring fault).wait = []) : s.refillRing q fault = s := by
  rw [State.refillRing]
  rw [show (if fault then (s.vfs.get q).fq else (s.vfs.get q).cq) = (s.vfs.get q).ring fault from rfl, h]
  have hring : ({ (s.vfs.get q).ring fault with wait := [] } : Ring) = (s.vfs.get q).ring fault := by rw [← h]
  refine Eq.trans ?_ (modVf_id s q)
  dsimp only [Ring.refill, List.range_zero, List.foldl_nil]
  rw [hring]
  cases fault <;> rfl

/-- The one entry that waits for the completion queue is written, with its vector. -/
theorem refillRing_one {s : State} {q : Fin 32} {e : List Byte} (hw : (s.vfs.get q).cq.wait = [e]) (hf : (s.vfs.get q).cq.full = false)
    (hm : ((s.vfs.get q).table.get 0).getLsbD 96 = false) : let r := (s.vfs.get q).cq
    let u := s.refillRing q false
    u.hostMem = s.hostMem.write (r.base.toNat + 32 * r.tail) e ∧ (u.vfs.get q).cq.tail = (r.tail + 1) % r.size.toNat
      ∧ (u.vfs.get q).cq.wait = [] ∧ (u.vfs.get q).msix = (s.vfs.get q).msix ++ [0] := by
  intro r u
  have ho : r.refill s.hostMem r.wait
      = ({ r with tail := (r.tail + 1) % r.size.toNat, wait := [] }, s.hostMem.write (r.base.toNat + 32 * r.tail) e, 1) := by
    rw [show r.wait = [e] from hw, Ring.refill, show r.full = false from hf, if_neg Bool.false_ne_true]
    rfl
  obtain ⟨y, hy⟩ : ∃ y, { s.vfs.get q with cq := { r with tail := (r.tail + 1) % r.size.toNat, wait := [] } } = y := ⟨_, rfl⟩
  have hu : u = ({ s with hostMem := s.hostMem.write (r.base.toNat + 32 * r.tail) e }.modVf q (fun _ => y)).raise q 0 := by
    have : u = (List.range (r.refill s.hostMem r.wait).2.2).foldl (fun s _ => s.raise q 0)
        ({ s with hostMem := (r.refill s.hostMem r.wait).2.1 }.modVf q (fun x => { x with cq := (r.refill s.hostMem r.wait).1 })) := rfl
    rw [this, ho, ← hy]
    rfl
  have hmask : y.masked 0 = false := by rw [← hy]; exact hm
  have hget : (u.vfs.get q) = { y with msix := y.msix ++ [0] } := by
    obtain ⟨s1, hs1⟩ : ∃ s1, { s with hostMem := s.hostMem.write (r.base.toNat + 32 * r.tail) e }.modVf q (fun _ => y) = s1 := ⟨_, rfl⟩
    have hy1 : s1.vfs.get q = y := by rw [← hs1]; exact vset_self ..
    rw [hu, hs1]
    refine (vset_self ..).trans ?_
    rw [hy1]
    exact if_neg (by rw [hmask]; exact Bool.false_ne_true)
  rw [hget, hu, ← hy]
  exact ⟨rfl, rfl, rfl, rfl⟩

theorem ringSize_iff (v : Word) : ringSize v = true ↔ ∃ i, 4 ≤ i ∧ i ≤ 16 ∧ v.toNat = 2 ^ i := by
  simp only [ringSize, List.any_eq_true, List.mem_range, beq_iff_eq]
  constructor
  · rintro ⟨i, hi, hv⟩
    exact ⟨i + 4, by omega, by omega, hv⟩
  · rintro ⟨i, h4, h16, hv⟩
    exact ⟨i - 4, by omega, by rw [hv, Nat.sub_add_cancel h4]⟩

theorem full_false {r : Ring} (h0 : r.size ≠ 0) (h : (r.tail + 1) % r.size.toNat ≠ r.head % r.size.toNat) : r.full = false := by
  rw [Ring.full, Bool.or_eq_false_iff, beq_eq_false_iff_ne, beq_eq_false_iff_ne]
  exact ⟨h0, h⟩

/-! ### Registers (R6, R411) -/

theorem registerWrite_vf {s : State} {q : Fin 32} {p : Partition} (hp : s.part q = some p) (f : State → State) : writeVfReg s q f = f s := by
  rw [writeVfReg, hp]
  exact if_neg Bool.false_ne_true

theorem modVf_congr {s : State} {q : Fin 32} {f g : Vf → Vf} (h : f (s.vfs.get q) = g (s.vfs.get q)) : s.modVf q f = s.modVf q g := by
  rw [State.modVf, State.modVf, h]

theorem modVf_same {s : State} {q : Fin 32} {f : Vf → Vf} (h : f (s.vfs.get q) = s.vfs.get q) : s.modVf q f = s :=
  (modVf_congr (g := id) h).trans (modVf_id s q)

theorem vfOffset_readOnly {s : State} {q : Fin 32} {p : Partition} (hp : s.part q = some p) (off : BitVec 16)
    (h : off.toNat ∈ [0x40, 0x98, 0xD8, 0x180, 0x188, 0x2000]) (v : Word) : exec (.registerWrite (.vfOffset q off) v) s = .next s := by
  rw [exec_registerWrite, execRegisterWrite, hp]
  refine (if_neg Bool.false_ne_true).trans ?_
  generalize off.toNat = n at h ⊢
  simp only [List.mem_cons, List.not_mem_nil, or_false] at h
  obtain rfl | rfl | rfl | rfl | rfl | rfl := h <;> rfl

theorem pfOffset_readOnly (s : State) (off : BitVec 16)
    (h : off.toNat ∈ [0x400, 0x480, 0x488, 0x490, 0x498, 0x4A0, 0x4C0, 0x4C8, 0x4D0, 0x4D8, 0x4E0, 0xC40]) (v : Word) :
    exec (.registerWrite (.pfOffset off) v) s = .next s := by
  rw [exec_registerWrite, execRegisterWrite]
  generalize off.toNat = n at h ⊢
  simp only [List.mem_cons, List.not_mem_nil, or_false] at h
  obtain rfl | rfl | rfl | rfl | rfl | rfl | rfl | rfl | rfl | rfl | rfl | rfl := h <;> rfl

theorem vfRead_part {s : State} {q : Fin 32} {p : Partition} (hp : s.part q = some p) (off : Nat) :
    s.vfRead q off = vfReg (s.vfs.get q) p.mapArea off := by
  rw [State.vfRead, hp]

theorem substatWord_fields (x : Vf) : (substatWord x).toNat < 2 ^ 40 ∧ (substatWord x).toNat % 2 ^ 8 = x.status.toNat := by
  have h1 := x.status.isLt
  have h2 := x.seq.isLt
  rw [substatWord, BitVec.toNat_ofNat]
  omega

theorem pstatWord_small (x : Vf) : (pstatWord x).toNat < 2 ^ 4 := by
  rw [pstatWord]
  cases x.overflow <;> cases x.hang <;> cases x.linkDown <;> decide

theorem pfRead_featctl (s : State) : (s.pfRead 0x440).toNat
    = (if s.pf.featGo then 1 else 0) + (if s.pf.featDone then 2 else 0) + (if s.pf.featErr then 4 else 0) := by
  have h : s.pfRead 0x440 = BitVec.ofNat 64 (b2n s.pf.featGo + 2 * b2n s.pf.featDone + 4 * b2n s.pf.featErr) := rfl
  rw [h]
  cases s.pf.featGo <;> cases s.pf.featDone <;> cases s.pf.featErr <;> decide

/-! ### Features (R440) -/

theorem featctlGo_again {s : State} (h : s.pf.featDone = true) :
    exec .featctlGo s = .next { s with pf := { s.pf with featGo := true } } := by
  rw [exec_featctlGo, execFeatctlGo]
  exact if_pos (by rw [h]; rfl)

/-- What GO makes of the bits that the host accepts. -/
theorem featctlGo_first {s : State} (hd : s.pf.featDone = false) (he : s.pf.featErr = false) {a b c d : Word} (hv : s.pf.featAcc = #v[a, b, c, d]) :
    let pf : Pf0 := { s.pf with featGo := true }
    exec .featctlGo s = .next { s with pf := if a.toNat / 64 != 0 || b != 0 || c != 0 || d != 0
      then { pf with featErr := true } else { pf with featDone := true } } := by
  intro pf
  rw [exec_featctlGo, execFeatctlGo]
  refine (if_neg (by rw [hd, he]; exact Bool.false_ne_true)).trans ?_
  have h0 : s.pf.featAcc.get 0 = a ∧ s.pf.featAcc.get 1 = b ∧ s.pf.featAcc.get 2 = c ∧ s.pf.featAcc.get 3 = d := by
    rw [hv]
    exact ⟨rfl, rfl, rfl, rfl⟩
  obtain ⟨ha, hb, hc, hd'⟩ := h0
  dsimp only
  rw [ha, hb, hc, hd']

/-! ### A locked interface (R423) -/

/-- A TDI that leaves its lock: nothing else of its function's registers changes. -/
theorem leaveRun_vf (s : State) (q : Fin 32) (t : Tdi) : (leaveRun s q t).vfs.get q = { s.vfs.get q with tdi := t } := by
  obtain ⟨ls, hls⟩ : ∃ x, s.launches.filter (fun l => l.q == q) = x := ⟨_, rfl⟩
  obtain ⟨tl, h⟩ := foldl_endLaunch (fun _ : Launch => q) (fun l => l.c) (8, 0, 0) ls s
  obtain ⟨s1, hs1⟩ : ∃ x, (ls.foldl (fun s l => endLaunch s q l.c 8 0 0) s).modVf q (fun x => { x with tdi := t }) = x := ⟨_, rfl⟩
  have hvf : s1.vfs.get q = { s.vfs.get q with tdi := t } := by
    rw [← hs1, h]
    exact vset_self ..
  have hu : leaveRun s q t = (match s1.part q with | some p => eraseAll s1 p (ls.map (fun l => l.id)) | none => s1) := by
    rw [← hs1, ← hls] <;> rfl
  rw [hu]
  split
  · next p _ =>
    obtain ⟨⟨_, _, _, _, he⟩, -⟩ := eraseAll_clears s1 p (ls.map (fun l => l.id))
    rw [he]
    exact hvf
  · exact hvf

/-- Settles O56: the outcomes of an aperture access, and each register by its access code. -/
theorem hostPort : Obligations.HostPort := by
  unfold Obligations.HostPort
  refine ⟨fun q off n bytes op b8 v cmp p s => ?aperture, fun q k port v p s hp => ?registers⟩
  case aperture =>
    intro ctl va m w rd wr add cas u
    have haddr : apertureAddr (s.vfs.get q) q off = (va, m) := apertureAddr_eq ..
    clear_value va m
    refine ⟨fun hp => ⟨?nobodyRead, ?nobodyWrite⟩, fun hp ha => ⟨?queuedRead, ?queuedWrite⟩, fun hp ha t hw => ⟨?walkRead, ?walkWrite⟩,
      fun hp ha hw => ⟨fun step c d hx => ?faultRead, fun step c d hx => ?faultWrite, fun l hx => ?missRead, fun l hx => ?missWrite,
        fun x hx => ?read, fun x hx hn hk ht hr he hd => ?write, fun hf => apertureAtomicop_unsupported hp hf,
        fun hf ho => apertureAtomicop_misaligned hp hf rfl ho, fun hf ho x hx hn hr he => ?atomic⟩⟩
    case nobodyRead =>
      simp only [rd]
      rw [exec_apertureRead, execApertureRead, hp]
      exact if_pos rfl
    case nobodyWrite =>
      simp only [wr]
      rw [exec_apertureWrite, execApertureWrite, hp]
      exact if_pos rfl
    case queuedRead => exact (apertureRead_arrives hp ..).trans (congrArg _ (apertureArrive_waits ha))
    case queuedWrite => exact (apertureWrite_arrives hp ..).trans (congrArg _ (apertureArrive_waits ha))
    case walkRead =>
      exact (apertureRead_arrives hp ..).trans (congrArg _ (apertureArrive_held ha (apertureGo_walks (a := ⟨q, off, .read n⟩) haddr hw)))
    case walkWrite =>
      exact (apertureWrite_arrives hp ..).trans (congrArg _ (apertureArrive_held ha (apertureGo_walks (a := ⟨q, off, .write bytes⟩) haddr hw)))
    case faultRead =>
      exact (apertureRead_arrives hp ..).trans (congrArg _ (apertureArrive_done ha (apertureGo_fault (a := ⟨q, off, .read n⟩) haddr hw hx)))
    case faultWrite =>
      exact (apertureWrite_arrives hp ..).trans (congrArg _ (apertureArrive_done ha (apertureGo_fault (a := ⟨q, off, .write bytes⟩) haddr hw hx)))
    case missRead =>
      exact (apertureRead_arrives hp ..).trans (congrArg _ (apertureArrive_done ha (apertureGo_missing (a := ⟨q, off, .read n⟩) haddr hw hx)))
    case missWrite =>
      exact (apertureWrite_arrives hp ..).trans (congrArg _ (apertureArrive_done ha (apertureGo_missing (a := ⟨q, off, .write bytes⟩) haddr hw hx)))
    case read =>
      intro raw cp
      have hkeys : u.rawAccess x = raw := by
        obtain ⟨cl, hb, hu⟩ := sliceStep_passWalk s m va
        rw [show u = _ from hu]
        rfl
      refine ⟨fun hr => ?_, fun hr he => ?_, fun hr he ht => ?_⟩
      · exact (apertureRead_arrives hp ..).trans (congrArg _ (apertureArrive_dark (a := ⟨q, off, .read n⟩) ha haddr hw hx hr))
      · refine (apertureRead_arrives hp ..).trans (congrArg _ ?_)
        refine (apertureArrive_waitsHome (a := ⟨q, off, .read n⟩) ha haddr hw hx hr ?_).trans ?_
        · rw [show (s.passWalk m va).rawAccess x = raw from hkeys]
          exact he
        · rw [show (s.passWalk m va).rawAccess x = raw from hkeys]
          rfl
      · exact ⟨_, apertureRead_arrives hp .., apertureArrive_reads (a := ⟨q, off, .read n⟩) ha haddr hw rfl hx hr he ht⟩
    case write =>
      exact ⟨_, apertureWrite_arrives hp .., apertureArrive_writes (a := ⟨q, off, .write bytes⟩) ha haddr hw rfl hx hr hn hk he ht hd⟩
    case atomic =>
      intro t
      refine ⟨fun hop => ?_, ?_⟩
      · refine (apertureAtomicop_arrives hp hf (by simpa using hop) ho).trans (congrArg _ ?_)
        exact apertureArrive_atomic (a := ⟨q, off, .atomic op false b8 v cmp⟩) ha haddr hw rfl hx hr hn he (.inr hop)
      · refine (apertureAtomicop_arrives hp hf rfl ho).trans (congrArg _ ?_)
        exact apertureArrive_atomic (a := ⟨q, off, .atomic op true b8 v cmp⟩) ha haddr hw rfl hx hr hn he (.inl rfl)
  case registers =>
    intro w vf
    have hset : ∀ (i : Nat), 4 ≤ i → i ≤ 16 → v.toNat = 2 ^ i → ringSize v = true := fun i h4 h16 hv => (ringSize_iff v).2 ⟨i, h4, h16, hv⟩
    refine ⟨?cqBase, ?fqBase, fun i h4 h16 hv => ⟨fun hw => ?cqSize, fun hw => ?fqSize⟩,
      fun hv => ⟨?cqBad, ?fqBad⟩, fun x e hx hw hroom hv hm => ?sized, fun off h => vfOffset_readOnly hp off h v,
      fun off h => pfOffset_readOnly s off h v, ?reads, fun x off h => ?nobody, ?frToken, ?locked,
      fun hd he => ⟨?featAcc, fun a ha hlt => ?accepted, fun a b c d ha hbad => ?refused⟩, fun hd => ⟨?featKept, featctlGo_again hd⟩,
      pfRead_featctl s, ?pkg, fun hl => ?lnk, fun hw => ?cqHead, fun hw => ?fqHead, ?headed⟩
    case cqBase =>
      exact congrArg Host.Outcome.next (registerWrite_vf hp (fun s => s.modVf q (fun x => { x with cq := { x.cq with base := v &&& ~~~31#64 } })))
    case fqBase =>
      exact congrArg Host.Outcome.next (registerWrite_vf hp (fun s => s.modVf q (fun x => { x with fq := { x.fq with base := v &&& ~~~31#64 } })))
    case frToken => exact congrArg Host.Outcome.next (registerWrite_vf hp (fun s => s.modVf q (fun x => { x with frToken := v })))
    case cqSize =>
      refine congrArg _ ((registerWrite_vf hp _).trans ((if_pos (hset i h4 h16 hv)).trans (refillRing_none ?_)))
      exact (congrArg (fun x : Vf => x.cq.wait) (vset_self ..)).trans hw
    case fqSize =>
      refine congrArg _ ((registerWrite_vf hp _).trans ((if_pos (hset i h4 h16 hv)).trans (refillRing_none ?_)))
      exact (congrArg (fun x : Vf => x.fq.wait) (vset_self ..)).trans hw
    case cqBad =>
      refine congrArg _ ((registerWrite_vf hp _).trans (if_neg fun h => ?_))
      obtain ⟨i, h4, h16, hi⟩ := (ringSize_iff v).1 h
      exact hv i h4 h16 hi
    case fqBad =>
      refine congrArg _ ((registerWrite_vf hp _).trans (if_neg fun h => ?_))
      obtain ⟨i, h4, h16, hi⟩ := (ringSize_iff v).1 h
      exact hv i h4 h16 hi
    case sized =>
      have hgo : w (.cqSize q) = .next ((s.modVf q (fun x => { x with cq := { x.cq with size := v } })).refillRing q false) :=
        congrArg _ ((registerWrite_vf hp _).trans (if_pos (hset 4 (Nat.le_refl 4) (by omega) hv)))
      obtain ⟨s1, hs1⟩ : ∃ s1, s.modVf q (fun x => { x with cq := { x.cq with size := v } }) = s1 := ⟨_, rfl⟩
      have hy : s1.vfs.get q = { s.vfs.get q with cq := { x with size := v } } := by rw [← hs1, hx]; exact vset_self ..
      have h0 : v ≠ 0 := fun h => by rw [h] at hv; exact absurd hv (by decide)
      obtain ⟨hmem, htail, -, hmsix⟩ := refillRing_one (s := s1) (q := q) (e := e) (by rw [hy]; exact hw)
        (by rw [hy]; exact full_false h0 hroom) (by rw [hy]; exact hm)
      rw [hs1] at hgo
      refine ⟨_, hgo, hmem.trans ?_, htail.trans ?_, hmsix.trans ?_⟩
      · rw [hy, ← hs1] <;> rfl
      · rw [hy]
        exact congrArg ((x.tail + 1) % ·) hv
      · rw [hy]
    case reads =>
      simp only [vfRead_part hp]
      obtain ⟨h1, h2⟩ := substatWord_fields (s.vfs.get q)
      exact ⟨rfl, rfl, h1, pstatWord_small _, h2, rfl⟩
    case nobody => rw [State.vfRead, h]
    case locked =>
      intro ap t
      have hap : w (.apCtl q) = .next (writeApctl s q v) :=
        congrArg Host.Outcome.next (registerWrite_vf hp (fun s => writeApctl s q v))
      have hbar : ∀ j, w (.bar q j) = .next (writeBar s q j v) := fun j => rfl
      have hnew : (BitVec.ofNat 64 (bitsAt v.toNat 0 2 + 2 ^ 36 * bitsAt v.toNat 36 20) : Word) = ap := by
        rw [bitsAt_eq, bitsAt_eq, Nat.pow_zero, Nat.div_one] <;> rfl
      refine ⟨fun hl hr => ?_, fun hlock => ?_⟩
      · have hfree : (s.vfs.get q).tdi.frozen = false := by
          cases htdi : (s.vfs.get q).tdi with
          | locked => exact absurd htdi hl
          | run => exact absurd htdi hr
          | _ => rfl
        refine ⟨hap.trans (congrArg _ ?_), fun j => (hbar j).trans (congrArg _ ?_)⟩
        · rw [writeApctl, hnew]
          split
          · next he => exact (modVf_same (by rw [show ap = _ from he])).symm
          · exact if_neg (by rw [hfree]; exact Bool.false_ne_true)
        · rw [writeBar]
          split
          · next he => exact (modVf_same (by rw [he, vset_get_self])).symm
          · exact if_neg (by rw [hfree]; exact Bool.false_ne_true)
      · have hfrozen : (s.vfs.get q).tdi.frozen = true := by
          obtain h | h := hlock <;> rw [show (s.vfs.get q).tdi = _ from h] <;> rfl
        have hvf := leaveRun_vf s q .error
        obtain ⟨-, -, -, hmem⟩ := leaveRun_leaves s q .error
        refine ⟨fun hne => ⟨leaveRun s q .error, hap.trans (congrArg _ ?_), ?_⟩, fun j hne => ⟨leaveRun s q .error, (hbar j).trans (congrArg _ ?_), ?_⟩⟩
        · rw [writeApctl, hnew]
          exact (if_neg hne).trans (if_pos hfrozen)
        · rw [hvf]
          exact ⟨rfl, rfl, hmem⟩
        · rw [writeBar]
          exact (if_neg hne).trans (if_pos hfrozen)
        · rw [hvf]
          exact ⟨rfl, rfl, hmem⟩
    case featAcc => exact congrArg _ (if_neg (by rw [hd, he]; exact Bool.false_ne_true))
    case accepted =>
      rw [featctlGo_first hd he ha]
      have hok : (a.toNat / 64 != 0 || (0 : Word) != 0 || (0 : Word) != 0 || (0 : Word) != 0) = false := by
        rw [Nat.div_eq_of_lt hlt]
        rfl
      rw [hok]
      rfl
    case refused =>
      rw [featctlGo_first hd he ha, if_pos]
      obtain h | h | h | h := hbad
      · have : a.toNat / 64 ≠ 0 := by omega
        simp [this]
      · simp [show b ≠ 0#64 from h]
      · simp [show c ≠ 0#64 from h]
      · simp [show d ≠ 0#64 from h]
    case featKept => exact congrArg _ (if_pos (by rw [hd]; rfl))
    case pkg =>
      obtain ⟨s1, hs1⟩ : ∃ s1, hostRequest s = s1 := ⟨_, rfl⟩
      have hpf : s1.pf = s.pf := by
        obtain ⟨m, hm, -⟩ := hostRequest_eq s
        rw [← hs1, hm]
      refine ⟨writeReg .pkgId v s, rfl, fun h => ?_, fun h => ?_⟩
      · rw [writeReg, hs1, hpf]
        refine (congrArg (fun u : State => u.pf.pkgid) (if_pos h)).trans ?_
        rw [hpf]
      · rw [writeReg, hs1, hpf]
        refine (congrArg (fun u : State => u.pf.pkgid) (if_neg (by rw [h]; exact Bool.false_ne_true))).trans ?_
        dsimp only
        rw [bitsAt_eq, bitsAt_eq, Nat.pow_zero, Nat.div_one] <;> rfl
    case lnk =>
      obtain ⟨s1, hs1⟩ : ∃ s1, hostRequest s = s1 := ⟨_, rfl⟩
      have hla : s1.launches = s.launches := by
        obtain ⟨m, hm, -⟩ := hostRequest_eq s
        rw [← hs1, hm]
      refine ⟨writeReg (.lnkMap port) v s, rfl, ?_⟩
      rw [writeReg, hs1, hla]
      refine (congrArg (fun u : State => u.pf.lnkmap.get port) (if_neg (by rw [hl]; exact Bool.false_ne_true))).trans ?_
      dsimp only
      rw [vset_self, bitsAt_eq, bitsAt_eq, bitsAt_eq, Nat.pow_zero, Nat.div_one] <;> rfl
    case cqHead =>
      rw [exec_cqhead, execCqhead, hp]
      refine (if_neg Bool.false_ne_true).trans (congrArg _ (refillRing_none ?_))
      exact (congrArg (fun x : Vf => x.cq.wait) (vset_self ..)).trans hw
    case fqHead =>
      rw [exec_cqhead, execCqhead, hp]
      refine (if_neg Bool.false_ne_true).trans (congrArg _ (refillRing_none ?_))
      exact (congrArg (fun x : Vf => x.fq.wait) (vset_self ..)).trans hw
    case headed =>
      intro r e hw h0 hroom hm
      have hgo : exec (.cqhead q false v) s = .next ((s.modVf q (fun x => { x with cq := { x.cq with head := v.toNat } })).refillRing q false) := by
        rw [exec_cqhead, execCqhead, hp]
        exact if_neg Bool.false_ne_true
      obtain ⟨s1, hs1⟩ : ∃ s1, s.modVf q (fun x => { x with cq := { x.cq with head := v.toNat } }) = s1 := ⟨_, rfl⟩
      have hy : s1.vfs.get q = { s.vfs.get q with cq := { r with head := v.toNat } } := by rw [← hs1]; exact vset_self ..
      obtain ⟨hmem, htail, hwait, hmsix⟩ := refillRing_one (s := s1) (q := q) (e := e) (by rw [hy]; exact hw)
        (by rw [hy]; exact full_false h0 hroom) (by rw [hy]; exact hm)
      rw [hs1] at hgo
      refine ⟨_, hgo, hmem.trans ?_, htail.trans ?_, hwait, hmsix.trans ?_⟩
      · rw [hy, ← hs1] <;> rfl
      · rw [hy]
      · rw [hy]

end Sys2Proof.Machine

/-! ## The data of engine requests -/

namespace Sys2Proof.Machine

/-! ### A byte of an engine in a scratchpad that lists its address twice (R290) -/

/-- What a request writes of one clear byte in a sector that nothing else has written: the byte, and no poison changes. -/
theorem putSector_byte {s : State} (hs : s.sectors = []) (cg : Fin 32) (r : EngReq) (t : Fin 256) :
    ((putSector s cg r (some t) none 0 [Wb.whole (0, false)]).tile t).scratch = (s.tile t).scratch.writeMasked 0 [0] [true] := by
  obtain ⟨k, hk, hlost, hclean⟩ : ∃ k, s.sectorOf cg r (some t) 0 = k ∧ k.lost = 0 ∧ k.clean = 0 := by
    refine ⟨_, rfl, ?_⟩
    rw [State.sectorOf, hs]
    exact ⟨rfl, rfl⟩
  have heff : wbMask 0 [Wb.whole (0, false)] &&& ~~~(0 : BitVec 256) = 255#256 := by decide
  have hkeep : ∀ (u : State) (x : SectorUse) (e : BitVec 256), (u.keepSector x e).tile t = u.tile t := fun _ _ _ => rfl
  have hbyte : bitsAt 255 0 8 = 255 := by decide
  rw [putSector, hk, hlost, hclean, heff]
  dsimp only
  rw [hkeep, tile_modTile_self]
  simp [Wb.whole, hbyte]

/-- A scratchpad that lists its first byte twice, which no canonical memory does. -/
def twiceScratch : Memory := ⟨[(0, 1), (0, 2)], []⟩

/-- A state whose tile 0 has that scratchpad. -/
def twiceState : State := State.reset.modTile 0 (fun y => { y with scratch := twiceScratch })

/-- A copy that has started, with a plain pattern of addresses. -/
def plainCopy : EngReq := { newReq 1 0 0 0 0 0 0 0 none none ⟨0, 0, 0, false⟩ with started := true }

theorem rBits_zero (i b n : Nat) : rBits 0#512 i b n = 0 := by
  rw [rBits, bitsAt_eq, BitVec.toNat_ofNat, Nat.zero_mod, Nat.zero_div, Nat.zero_mod]

/-- Its record has every field 0. -/
theorem plainCopy_rc : let rc := plainCopy.rc
    rc.zs = 0 ∧ rc.mx = false ∧ rc.cv = false ∧ rc.tr = false ∧ rc.redop = 0 ∧ rc.sta = none ∧ rc.pat = 0 := by
  intro rc
  have hrc : rc = recOf 0 := rfl
  rw [hrc]
  simp [recOf, rBits_zero]

/-- Refutes O51: its last clause says that after a request's write every byte of the scratchpad reads as written or as before,
of memories in every form. Where a memory that is not canonical lists address 0 twice, a written zero removes the first
entry, and address 0 then reads the second. -/
theorem not_engineSteps : ¬ Obligations.EngineSteps := by
  rintro ⟨-, hdata⟩
  obtain ⟨s, hs⟩ : ∃ s, twiceState = s := ⟨_, rfl⟩
  have hscratch : (s.tile 0).scratch = twiceScratch := by
    rw [← hs, twiceState, tile_modTile_self]
  obtain ⟨hzs, hmx, hcv, htr, hred, hsta, hpat⟩ := plainCopy_rc
  have hsectors : s.sectors = [] := by rw [← hs]; rfl
  obtain ⟨-, -, -, hbytes⟩ := hdata 0 0 plainCopy s hzs hmx hcv htr hred hsta hpat rfl rfl rfl rfl
  obtain ⟨hwrite, -⟩ := hbytes [(0, false)] 0 hsectors (List.cons_ne_nil _ _) (by decide) (by decide)
  have hread := hwrite 0 0
  have hstore : engStore s 0 plainCopy (some 0) none 0 ([(0, false)].map Wb.whole)
      = putSector s 0 plainCopy (some 0) none 0 [Wb.whole (0, false)] := rfl
  rw [hstore, putSector_byte hsectors, hscratch] at hread
  exact absurd hread (by decide)

end Sys2Proof.Machine

/-! ## Group identifiers of an image -/

namespace Sys2Proof.Machine

/-! ### A group identifier past the last (R167) -/

/-- What an image says that declares nothing but the group 16,384, one past the last identifier. -/
def pastLastGroup : Img :=
  { code := [], insts := [], edges := [], boxes := [], panels := [], keys := [], handles := [], groups := [(16384, 1, 0)], bits := [],
    stas := [], tmpl := ⟨[], []⟩, sdata := [], gdata := [], ranges := [], args := 0 }

/-- A partition without clusters. -/
def smallPartition : Partition := { q := 0, clusters := 0, keys := [], peer := false, host := false, owner := 0, mapArea := 0 }

/-- A launch in set-up that holds nothing. -/
def smallLaunch : Launch :=
  { id := 0, q := 0, c := 0, rcd := 0, phase := .setup, doneDies := [], awaiting := [], mctx := 0
    parked := none, ending := none, insts := [], edges := [], handles := [], groups := [], tiles := [], ranges := [], routes := []
    vcs := [], regions := [], staSlots := [], pushes := [], boxes := [], notify := none, saving := [], saved := [] }

theorem groupObj_pastLast (s : State) (q : Fin 32) : s.groupObj q 16384 = none := if_pos (by omega)

/-- A die's Launch Unit binds the group, and no step fails. -/
theorem runSetup_pastLastGroup {s : State} (hb : s.boxes = []) (hg : s.groups = []) (p : Partition) (l : Launch) :
    ∃ u, runSetup s p l 0 pastLastGroup [] = .inr u := by
  have hfeat : featureMissing s pastLastGroup = false := by
    simp [featureMissing, pastLastGroup]
  have hpanels : panelsOk s l pastLastGroup = true := rfl
  have hroutes : routesOk p (pastLastGroup.boxes.foldl putBox s.boxes) = true := by rw [hb]; rfl
  have hgroups : pastLastGroup.groups.filter (fun x => dieOfCluster (sliceNum x.2.2).1 == 0) = [(16384, 1, 0)] := by decide
  obtain ⟨t, ht⟩ : ∃ t, bindGroup l (16384, 1, 0) (some { s with boxes := [] }) = some t := by
    rw [bindGroup]
    dsimp only
    rw [groupObj_pastLast, hg]
    exact ⟨_, if_neg (by decide)⟩
  rw [runSetup]
  dsimp only
  rw [hfeat, hpanels, hroutes, hgroups, if_neg (show ¬ (false || !true || !true) = true by decide), show (pastLastGroup.boxes.filter (fun b => dieOfCluster b.cluster == 0)).foldl putBox s.boxes = [] from hb]
  have hfold : [((16384 : Nat), (1 : Nat), (0 : Fin 320))].foldl (fun o x => bindGroup l x o)
      ((pastLastGroup.stas.filter (fun x => dieOfCluster x.1 == 0)).foldl (fun o x => placeSta l x o)
        ((pastLastGroup.bits.filter (fun x => dieOfRegion x.1 == 0)).foldl
          (fun o x => placeRegion { loadTables pastLastGroup l with edges := pastLastGroup.edges } x o) (some { s with boxes := [] }))) = some t := ht
  rw [hfold]
  exact ⟨_, if_neg (Bool.false_ne_true)⟩

/-- Refutes O48: its second part speaks of every image, also of one that declares a group past the last identifier, 16,383, which
the parser of images refuses. The Launch Unit binds that group without a failure, and yet no group object answers to it. -/
theorem not_launchAndTimeSliceSteps : ¬ Obligations.LaunchAndTimeSliceSteps := by
  rintro ⟨-, hsetup, -⟩
  obtain ⟨s, hs⟩ : ∃ s, State.reset = s := ⟨_, rfl⟩
  obtain ⟨u, hu⟩ := runSetup_pastLastGroup (s := s) (by rw [← hs]; rfl) (by rw [← hs]; rfl) smallPartition smallLaunch
  obtain ⟨-, -, -, -, -, -, -, hgroups, -⟩ := hsetup s u smallPartition smallLaunch 0 pastLastGroup [] hu
  obtain ⟨o, ho, -⟩ := hgroups (16384, 1, 0) (List.mem_singleton.2 rfl) (by decide)
  rw [groupObj_pastLast] at ho
  exact absurd ho (Option.some_ne_none o).symm

end Sys2Proof.Machine
